-- ==== Sys2Proof/Word.lean ====
section
/-! DEFINITION. The word types of the block and the ranges of its numbered parts (R1, R2). -/

namespace Sys2Proof

abbrev Byte := BitVec 8
abbrev W16 := BitVec 16
abbrev W32 := BitVec 32
abbrev W64 := BitVec 64
/-- A Phiset instruction word (R63). -/
abbrev W128 := BitVec 128
/-- A tile descriptor register (R67). -/
abbrev W256 := BitVec 256

/-- Global core, 0 to 95 (R1). -/
abbrev CoreId := Fin 96
/-- Global region, 0 to 11 (R1); its stack has the same number. -/
abbrev RegionId := Fin 12
/-- Compute die, 0 to 3 (R1). -/
abbrev DieId := Fin 4
/-- Kernel slot of a core, 0 to 3. -/
abbrev KsId := Fin 4
/-- Host port, 0 or 1 (R392). -/
abbrev HostPort := Fin 2
/-- Darit port, 0 to 7 (R1, R372). -/
abbrev DaritPort := Fin 8
/-- Sample queue, 0 to 63 (R255). -/
abbrev SampleQ := Fin 64
/-- 48 V feed: 0 A, 1 B (R458). -/
abbrev Feed := Fin 2

end Sys2Proof
end

