-- ==== Sys2Proof/Syntax.lean ====
section
/-! DEFINITION. The commands of the block: one constructor per row of spec/opcode_table.json, with the
row's operands. No row has an encoding of its own: the table gives no bits. -/

namespace Sys2Proof

/-- How a read of host memory came back (R394): the bytes, or one of its failures. -/
inductive HostRead where
  | data (bytes : List Byte)
  | timeout
  | poisoned
  | unsupported
  | aborted
deriving DecidableEq, Repr

/-- Whose read of host memory it was: a command's, the queue engine's read of a command, a mailbox operation's (R394). -/
inductive HostReader where
  | command (q n : Nat)
  | fetch (q : Nat)
  | mailbox
deriving DecidableEq, Repr

/-- A host read that fails: how it comes back, and who read. -/
structure FailedRead where
  outcome : HostRead
  who : HostReader
deriving DecidableEq, Repr

/-- A copy of the command store lost (false: the first), and the commands, by queue and number, whose entry in the other copy reads
uncorrectable (R326, R337). -/
structure CopyLoss where
  second : Bool
  unreadable : List (Nat × Nat)
deriving DecidableEq, Repr

/-- What the checks of a flit found: its CRC good, and how many symbols FEC corrected (R371, R372). -/
structure FlitCheck where
  crcOk : Bool
  fec : Nat
deriving DecidableEq, Repr

/-- The engines with issue queues (R50). -/
inductive Engine where
  | anvil | vector | mover
deriving DecidableEq, Repr

/-- A resettable part, as SCH_EPOCH_n numbers them (R334). -/
inductive Part where
  | core (c : CoreId)
  | region (g : RegionId)
  | die (d : DieId)
  | darit (p : DaritPort)
  | host (h : HostPort)
deriving DecidableEq, Repr

/-- The priority classes of COMPUTE traffic (R283). -/
inductive PrioClass where
  | latency | bulk
deriving DecidableEq, Repr

/-- What a request on the fabric is made for: an instruction fetch miss, a gather, a page read for another device, a coil unpark,
or any other COMPUTE access (R283). -/
inductive ReqKind where
  | fetchMiss | gather | pageServed | unpark | other
deriving DecidableEq, Repr

/-- The priority class of a kind (R283). -/
def ReqKind.prio : ReqKind → PrioClass
  | .fetchMiss => .latency
  | .gather => .latency
  | .pageServed => .latency
  | .unpark => .latency
  | .other => .bulk

/-- One request on the fabric (R331): who asks whom, the epoch it carries, and what it asks for. `node` names the target's device,
or none for this one (R379, R383). `addr` is an address of a target region's stack (R296), or with `sram` of its region memory (R297), and the request reads its 32-byte
block or, with data, writes it whole. `flips` are the bits of the block that turn bad on its way, numbered as in R368 (R359); `inc` is the incarnation of the node
that it carries (R380). -/
structure FabricReq where
  id : Nat
  requester : Part
  target : Part
  node : Option Nat
  kind : ReqKind
  epoch : W16
  sram : Bool
  addr : Nat
  data : Option W256
  flips : BitVec 288
  inc : W16
deriving DecidableEq, Repr

/-- The priority class of a request (R283). -/
def FabricReq.prio (r : FabricReq) : PrioClass := r.kind.prio

/-- The shared links inside the package, one direction each (02), and the queues of the HBM3E controllers and region memories (R283).
A segment link leaves its station toward the next higher number or, with `up` false, the next lower; an edge leaves a die. -/
inductive FabLink where
  | corePort (c : CoreId) (out : Bool)
  | uplink (cluster : Fin 24) (out : Bool)
  | station (g : RegionId) (st : Fin 7) (out : Bool)
  | segment (d : DieId) (st : Fin 8) (up : Bool)
  | edge (d : DieId) (horizontal : Bool)
  | service (d : DieId) (out : Bool)
  | controller (g : RegionId)
  | memory (g : RegionId)
  | darit (p : DaritPort)
deriving DecidableEq, Repr

/-- The management, security, service and flash cores (R37). -/
inductive ControlCore where
  | management | security | service | flash
deriving DecidableEq, Repr

/-- What caused a core fault (R338). -/
inductive CoreFaultCause where
  | checker | vectorEngine | stall | droop
deriving DecidableEq, Repr

/-- What caused a host port reset (R403). -/
inductive PortResetCause where
  | flr | hotReset | perst | linkLoss
deriving DecidableEq, Repr

/-- What a transmitter senses at its far end (R386). -/
inductive Cable where
  | ok | none | txTx
deriving DecidableEq, Repr

/-- What the far end of a Darit port shows in training (R384 to R387). `lanes` has bit l set for each
physical lane with a valid lane pattern, `inv` its inversion, `map` the logical lane of each. -/
structure TrainObs where
  cable : Cable
  lanes : BitVec 17
  inv : BitVec 17
  map : List Nat
  peerNode : Nat
  peerPort : Nat
  peerX : Nat
  peerY : Nat
  peerZ : Nat
  peerDim : Nat
  peerDir : Bool
  peerInc : W16
  peerAbiMajor : Nat
deriving DecidableEq, Repr

/-- A Darit frame in transit (R376 to R382). -/
structure Frame where
  src : Nat
  dst : Nat
  incarnation : W16
  prio : PrioClass
  channel : Fin 3
  ageUs : Nat
  bytes : Nat
deriving DecidableEq, Repr

/-- A remote gather as it reaches the serving device (R217). -/
structure RemoteGather where
  ctx : Nat
  seq : Nat
  layer : Nat
  head : Nat
  values : Bool
  pos : Nat
  count : Nat
deriving DecidableEq, Repr

/-- A BAR4 access (R397). -/
inductive Bar4Op where
  | read (bytes : Nat)
  | write (data : List Byte)
deriving DecidableEq, Repr

/-- The header of a service-port message (R438). -/
structure SvcHdr where
  abiMinor : Byte
  abiMajor : Byte
  opcode : W16
  length : W32
  reqId : W32
  status : Byte
  opkey : BitVec 2
  reserved : BitVec 22
deriving DecidableEq, Repr

/-- The operator signature that ends a privileged request, with the public key it was made with (R439). -/
structure SvcSig where
  key : List Byte
  sig : List Byte
deriving DecidableEq, Repr

/-- Where a test request comes from (R440): the SVC_TEST mailbox, or TEST over the service port. -/
inductive TestSrc where
  | mailbox
  | service (hdr : SvcHdr) (sig : SvcSig)
deriving DecidableEq, Repr

/-- The checkers that a self-test covers (R366): those of SRAM bank ports, of the stacks' controller channels, of the die fabrics' stations,
of flash metadata. -/
inductive Checker where
  | coreStore (c : CoreId) (bank : Fin 64)
  | accum (c : CoreId) (bank : Fin 32)
  | regionMem (g : RegionId) (bank : Fin 256)
  | channel (g : RegionId) (ch : Fin 16)
  | station (d : DieId) (st : Fin 8)
  | flash
deriving DecidableEq, Repr

/-- What the module meets at power-good (R285, R366, R428, R430, R455): straps, how many data lanes of each stack's channels fail, the checkers
that fail their self-tests, the coolant's state. -/
structure StartEnv where
  slotId : BitVec 4
  smbAddr : BitVec 2
  failingLanes : List (RegionId × Fin 16 × Nat)
  failedCheckers : List Checker
  coolantOk : Bool
deriving DecidableEq, Repr

/-- The sources of device time (R404). -/
inductive TimeRef where
  | ptm (h : HostPort) | pps | tenMHz
deriving DecidableEq, Repr

/-- The clock and time inputs (R452). -/
inductive ClockInput where
  | refclk (h : HostPort) | dref | pps | tenMHz
deriving DecidableEq, Repr

/-- What a JPEG or HEVC decoder found in a sample's stream, which lies outside the manual (R254, R258; log 144); `read` counts the source bytes that
it read, `blocks` the 8 × 8 blocks of a JPEG, `marks` its restart intervals or the slice segments of HEVC (R259). A Rice or DEFLATE
stream is decoded by the model, whatever the operand says. -/
inductive DecodeOut where
  | payload (elems : List W32) (width height channels frames read blocks marks : Nat)
  | truncated
  | corrupt (read : Nat)
  | unsupported (read : Nat)
  | header (width height channels read : Nat)
deriving DecidableEq, Repr

/-- The commands. -/
inductive Instr where
  -- the sequencer's and the engines' instructions (R48 to R87)
  | fenceInstruction (c : CoreId) (k : KsId)
  | fenceEnd (c : CoreId) (k : KsId)
  | claim (c : CoreId) (k : KsId)
  | commit (c : CoreId) (k : KsId)
  | vopScalar (c : CoreId) (k : KsId)
  | vopBranch (c : CoreId) (k : KsId)
  | ldt (c : CoreId) (k : KsId)
  | ldtGather (c : CoreId) (k : KsId)
  | ldtWindow (c : CoreId) (k : KsId)
  | stt (c : CoreId) (k : KsId)
  | sttContribution (c : CoreId) (k : KsId)
  | movt (c : CoreId) (k : KsId)
  | kvapp (c : CoreId) (k : KsId)
  | vopTile (c : CoreId) (k : KsId)
  | window (c : CoreId) (k : KsId)
  | norm (c : CoreId) (k : KsId)
  | measure (c : CoreId) (k : KsId)
  | cast (c : CoreId) (k : KsId)
  | rot (c : CoreId) (k : KsId)
  | argmax (c : CoreId) (k : KsId)
  | gumbel (c : CoreId) (k : KsId)
  | mma (c : CoreId) (k : KsId)
  | mma3 (c : CoreId) (k : KsId)
  | cmma (c : CoreId) (k : KsId)
  | score (c : CoreId) (k : KsId)
  | step (c : CoreId) (k : KsId)
  -- ends, replies, traps (R49, R50, R60)
  | instructionComplete (c : CoreId) (e : Engine)
  | atomicReply (c : CoreId) (k : KsId)
  | trapRecord (c : CoreId) (k : KsId)
  -- the atomic unit (R147, R158, R159)
  | atomicClaim (g : RegionId)
  | atomicCommit (g : RegionId)
  | atomicContribution (g : RegionId)
  | contributionRetry (c : CoreId) (k : KsId)
  -- the queue engine and dispatch (R302 to R312)
  | doorbell (h : HostPort) (q : Nat) (width : Nat) (word : W64)
  | commandAccept (q : Nat)
  | commandFetchRetry (q : Nat)
  | commandDispatch
  | dispatchAgeing (q n : Nat)
  -- kernels (R39 to R58, R315)
  | kernel (q n : Nat)
  | instancePlacement (q n : Nat)
  | loadingComplete (c : CoreId) (k : KsId)
  | instructionFetchMiss (c : CoreId) (k : KsId)
  | preemptionDecision (q n : Nat)
  -- the other command types (R306)
  | copy (q n : Nat)
  | fill (q n : Nat)
  | fork (q n : Nat)
  | cull (q n : Nat)
  | roundRun (q n : Nat)
  | roundPark (q n : Nat)
  | roundUnpark (q n : Nat)
  | roundConfig (q n : Nat)
  | roundClose (q n : Nat)
  | fence (q n : Nat)
  | signal (q n : Nat)
  | wait (q n : Nat)
  | waitRecheck (q n : Nat)
  | waitTimeout (q n : Nat)
  | hint (q n : Nat)
  | snapshot (q n : Nat)
  | quenchDrainEnd
  | quenchCaptureEnd
  | quenchWriteEnd
  | commandCommit (q n : Nat)
  | heldWriteRetry (q : Nat)
  -- the mailbox (R318); `rd` is what the read of ADDR returned
  | ctxCreate (h : HostPort) (rd : HostRead)
  | ctxDestroy (h : HostPort)
  | queueCreate (h : HostPort) (rd : HostRead)
  | queueDestroy (h : HostPort)
  | invalidate (h : HostPort)
  | cancel (h : HostPort)
  | query (h : HostPort)
  | admInvalidOp (h : HostPort) (op : BitVec 4)
  -- faults, resets and epochs (R330 to R343)
  | coreFault (c : CoreId) (why : CoreFaultCause)
  | kernelSlotStall (c : CoreId) (k : KsId)
  | regionWatchdogExpiry (g : RegionId)
  | controlCoreWatchdogExpiry (w : ControlCore)
  | regionReset (g : RegionId)
  | epochAdvance (p : Part)
  | dieFault (d : DieId)
  | dieReturn (d : DieId) (stacksLost : List RegionId)
  | packageWarmReset
  | commandStoreCopyLoss (loss : CopyLoss)
  | fabricRequest (r : FabricReq)
  | fabricReply (id : Nat) (epoch : W16)
  | partAbsentRetry (p : Part)
  | bulkPromotion (link : FabLink) (id : Nat)
  -- coils (R220, R236)
  | coilUnparkComplete (coil : Nat)
  | coilParkComplete (coil : Nat)
  | coilEviction (c : CoreId)
  -- time slots (R28 to R34)
  | timeSlotStart
  | strobeLost
  | strobeReturn
  | slotTableEffect
  | slotTableCommit (h : HostPort)
  -- scrub and flash care (R290, R291, R362, R363)
  | sramScrubSlot
  | stackScrubRead (g : RegionId)
  | scrubWriteback (g : RegionId)
  | flashReadDisturb (block : Nat)
  | flashWearLevel
  | flashSparesExhausted
  -- sample engine (R253 to R269)
  | sampleDecodeStart (q : SampleQ)
  | sampleDecodeEnd (q : SampleQ) (pos : Nat) (out : DecodeOut)
  | sampleHandoff (q : SampleQ)
  | decodeLaneFault (lane : Nat)
  | sampleQueueStart (q : SampleQ)
  | sampleQueueStop (q : SampleQ)
  | sampleCountersClear (q : SampleQ)
  | sampleTailWrite (q : SampleQ) (tail : W32)
  -- registers with a row of their own
  | roleWrite (g : RegionId) (v : W32)
  | watchdogPeriodWrite (g : RegionId) (v : W32)
  | anvilCountersClear (c : CoreId) (v : W32)
  | atomicCountersClear (g : RegionId) (v : W32)
  | tileCountersClear (g : RegionId) (v : W32)
  | pageCountersClear (g : RegionId) (v : W32)
  | coilCountersClear (g : RegionId) (v : W32)
  | memoryCountersClear (g : RegionId) (v : W32)
  | integrityCountersClear (g : RegionId) (v : W32)
  | snapshotPartitionWrite (v : W32)
  -- transfers (R349 to R354)
  | exportImage
  | importImage
  | restore
  | release
  | discard
  | xferInvalidOp (op : BitVec 3)
  -- Darit (R372 to R391)
  | portConfigWrite (p : DaritPort) (v : W32)
  | topologyWrite (node : Bool) (v : W32)
  | retrain (p : DaritPort)
  | portCountersClear (p : DaritPort) (v : W32)
  | agedCounterClear (v : W32)
  | portTraining (p : DaritPort) (o : TrainObs)
  | cableSense (p : DaritPort) (o : Cable)
  | laneFailure (p : DaritPort) (lane : Fin 17)
  | daritPortFault (p : DaritPort)
  | flitReceive (p : DaritPort) (seq : BitVec 12) (check : FlitCheck)
  | frameForward (p : DaritPort) (f : Frame)
  | remoteRequestTimeout (id : Nat)
  | trunkStateChange (node dim : Nat) (minus up : Bool)
  | remoteGatherServe (r : RemoteGather)
  -- host ports (R394 to R403, R460)
  | bar4Access (h : HostPort) (off : Nat) (op : Bar4Op)
  | bar4Resize (h : HostPort) (gib : Nat)
  | apertureBaseWrite (h : HostPort) (v : W32)
  | counterLoRead (h : HostPort) (off : Nat)
  | peakPowerRead (h : HostPort)
  | msixUnmask (h : HostPort) (vec : Fin 2048)
  | hostPortDown (h : HostPort)
  | hostPortUp (h : HostPort)
  | rehomeTimeout (h : HostPort)
  | hostPortReset (h : HostPort) (why : PortResetCause)
  -- device time (R404, R405)
  | ptmExchange (h : HostPort) (rootNs : W64)
  | ppsEdge (measuredNs : Int)
  | timeReferenceLoss (r : TimeRef)
  | timeSourceWrite (v : W32)
  | timeSetArm (v : W32)
  -- power, droop, thermal control (R408 to R427)
  | glowEntry
  | emberEntry
  | lowPowerWake
  | ashRequest
  | coldRequest
  | powerRequestTimeout
  | ashWake
  | coldWake
  | powerSample (watts : Nat)
  | ceilingStep
  | anvilTokenGrant (c : CoreId)
  | hintStart (id : Nat)
  | hintEnd (id : Nat)
  | hintEarlyEnd (id : Nat)
  | droopTrip (island : Fin 200) (deep : Bool)
  | droopRecover (island : Fin 200)
  | droopFault (island : Fin 200)
  | thermalSample (die : Fin 5) (hottestDc : Nat) (stackDc : List Nat)
  | thermalTrip
  | coolantSample (inletDc flowCl : Nat)
  | coolantWarnEnd
  | marginAdjust (slacks : List Nat)
  | marginModeWrite (v : W32)
  | energyAttribution (cores parts : List (Nat × Nat))
  -- the module (R447 to R458)
  | feedFailure (f : Feed)
  | feedReturn (f : Feed)
  | feedOvervoltage (f : Feed)
  | feedReversePolarity (f : Feed)
  | feedShort (f : Feed)
  | powerGood (env : StartEnv)
  | powerLoss
  | powerRemoved
  | clockInputChange (input : ClockInput) (present : Bool)
  -- the service port (R435 to R443)
  | serviceSessionConnect
  | hello (hdr : SvcHdr)
  | status (hdr : SvcHdr)
  | readLog (hdr : SvcHdr) (first count : Nat)
  | attest (hdr : SvcHdr) (nonce : List Byte)
  | doeAttest (h : HostPort) (nonce : List Byte)
  | stageBegin (hdr : SvcHdr) (kind size : Nat)
  | stageData (hdr : SvcHdr) (kind off : Nat) (data : List Byte)
  | stageEnd (hdr : SvcHdr) (kind : Nat)
  | activate (hdr : SvcHdr) (sig : SvcSig) (mask : BitVec 12) (force : Bool) (timeoutMs : Nat)
  | commitSvn (hdr : SvcHdr) (sig : SvcSig) (kind : Nat)
  | resetPackage (hdr : SvcHdr) (sig : SvcSig)
  | fuseProgram (hdr : SvcHdr) (sig : SvcSig) (entry : W64)
  | resume (hdr : SvcHdr) (sig : SvcSig)
  -- tests and drains (R440 to R442)
  | testCheckerPatterns (src : TestSrc) (target : Nat) (force : Bool) (timeoutMs : Nat) (pass : Bool)
  | testSensorCalibration (src : TestSrc) (target : Nat) (force : Bool) (timeoutMs : Nat) (pass : Bool)
  | testSramBist (src : TestSrc) (target : Nat) (force : Bool) (timeoutMs : Nat)
  | testStackRetrain (src : TestSrc) (target : Nat) (force : Bool) (timeoutMs : Nat)
  | testVectorEngine (src : TestSrc) (target : Nat) (force : Bool) (timeoutMs : Nat)
  | testDaritRetrain (src : TestSrc) (target : Nat) (force : Bool) (timeoutMs : Nat)
  | testInvalidKind (kind : BitVec 3)
  | regionDrainComplete (g : RegionId)
  | regionDrainTimeout (g : RegionId)
  -- the sideband bus (R454)
  | page (write : Option Byte)
  | clearFaults
  | statusWord
  | statusInput
  | readEin
  | readVin
  | readIin
  | readTemperature1
  | readPin
  | pmbusRevision
  | mfrId
  | mfrModel
  | mfrWake
  | smbusRefused (code : Byte)
  | alertResponse
  -- registers without a row of their own, and the ends the table lists last
  | registerWrite (h : HostPort) (off width : Nat) (v : W32)
  | regionResetEnd (g : RegionId)
  | ctxCreateDrainTimeout (h : HostPort)
  | vectorEngineTestEnd (c : CoreId) (pass : Bool)
  | vectorEngineTestTimeout (c : CoreId)
  | serviceSessionClose
  | hostReadCompletionTimeout (h : HostPort) (rd : FailedRead)
deriving DecidableEq, Repr

end Sys2Proof
end

