-- ==== Sys2Proof/Decode.lean ====
section
/-! DEFINITION. The table's rows carry no bits: no word spells a command. -/

namespace Sys2Proof

/-- The command that a word spells by the table's bits: none, since spec/opcode_table.json gives no row an encoding. -/
def decodeTableWord (_nbits _w : Nat) : Option Instr := none

end Sys2Proof
end

