-- ==== Sys2Proof/Machine/Num.lean ====
section
/-! DEFINITION. The number formats: exact values, decoding, rounding once to nearest even (05, R88 to R98). -/

namespace Sys2Proof.Machine

/-- An exact value: a signed rational (the sign stands also on zero), an infinity, or NaN. -/
inductive Num where
  | fin (neg : Bool) (n d : Nat)
  | inf (neg : Bool)
  | nan
deriving DecidableEq, Repr

def Num.zero : Num := .fin false 0 1

def Num.ofInt (i : Int) : Num := .fin (decide (i < 0)) i.natAbs 1

def Num.ofNat (n : Nat) : Num := .fin false n 1

/-- m times 2 to the q. -/
def Num.scaled (neg : Bool) (m : Nat) (q : Int) : Num :=
  if 0 ≤ q then .fin neg (m * 2 ^ q.toNat) 1 else .fin neg m (2 ^ (-q).toNat)

def Num.neg : Num → Num
  | .fin s n d => .fin (!s) n d
  | .inf s => .inf (!s)
  | .nan => .nan

def Num.abs : Num → Num
  | .fin _ n d => .fin false n d
  | .inf _ => .inf false
  | .nan => .nan

def Num.isNan : Num → Bool
  | .nan => true
  | _ => false

def Num.isInf : Num → Bool
  | .inf _ => true
  | _ => false

def Num.isFin : Num → Bool
  | .fin _ _ _ => true
  | _ => false

def Num.isZero : Num → Bool
  | .fin _ n _ => n == 0
  | _ => false

def Num.isNeg : Num → Bool
  | .fin s _ _ => s
  | .inf s => s
  | .nan => false

/-- The signed numerator. -/
def signed (s : Bool) (n : Nat) : Int := if s then -(n : Int) else n

/-- IEEE 754 addition on exact values: opposite infinities give NaN, an exact zero sum is +0 unless both are -0. -/
def Num.add : Num → Num → Num
  | .nan, _ => .nan
  | _, .nan => .nan
  | .inf s, .inf t => if s = t then .inf s else .nan
  | .inf s, _ => .inf s
  | _, .inf t => .inf t
  | .fin s n d, .fin t m e =>
    let l := Nat.lcm d e
    let v := signed s (n * (l / d)) + signed t (m * (l / e))
    if v = 0 then .fin (s && t) 0 1 else .fin (decide (v < 0)) v.natAbs l

def Num.sub (a b : Num) : Num := a.add b.neg

/-- IEEE 754 multiplication on exact values: 0 times an infinity is NaN. -/
def Num.mul : Num → Num → Num
  | .nan, _ => .nan
  | _, .nan => .nan
  | .inf s, .inf t => .inf (s != t)
  | .inf s, .fin t n _ => if n = 0 then .nan else .inf (s != t)
  | .fin t n _, .inf s => if n = 0 then .nan else .inf (s != t)
  | .fin s n d, .fin t m e => .fin (s != t) (n * m) (d * e)

/-- IEEE 754 division on exact values (R173). -/
def Num.div : Num → Num → Num
  | .nan, _ => .nan
  | _, .nan => .nan
  | .inf _, .inf _ => .nan
  | .inf s, .fin t _ _ => .inf (s != t)
  | .fin s _ _, .inf t => .fin (s != t) 0 1
  | .fin s n d, .fin t m e =>
    if m = 0 then (if n = 0 then .nan else .inf (s != t)) else .fin (s != t) (n * e) (d * m)

/-- a < b by exact value; false where either is NaN; the zeros are equal. -/
def Num.lt : Num → Num → Bool
  | .nan, _ => false
  | _, .nan => false
  | .inf s, .inf t => s && !t
  | .inf s, _ => s
  | _, .inf t => !t
  | .fin s n d, .fin t m e => decide (signed s (n * e) < signed t (m * d))

/-- MAX of IEEE 754-2019: -0 below +0, NaN if either is NaN (R461). -/
def Num.max (a b : Num) : Num :=
  if a.isNan || b.isNan then .nan
  else if a.lt b then b
  else if b.lt a then a
  else if a.isNeg then b else a

/-- MIN of IEEE 754-2019 (R461). -/
def Num.min (a b : Num) : Num :=
  if a.isNan || b.isNan then .nan
  else if a.lt b then a
  else if b.lt a then b
  else if a.isNeg then a else b

/-! ## Rounding (R95) -/

/-- floor of the base-2 logarithm of n over d, for n above 0. -/
def floorLog2 (n d : Nat) : Int :=
  let e : Int := (Nat.log2 n : Int) - (Nat.log2 d : Int)
  if d * 2 ^ e.toNat ≤ n * 2 ^ (-e).toNat then e else e - 1

/-- n over d to the nearest integer, ties to even. -/
def divHalfEven (n d : Nat) : Nat :=
  let q := n / d
  let r := n % d
  if 2 * r < d then q else if d < 2 * r then q + 1 else if q % 2 = 0 then q else q + 1

/-- A binary float format: p significant bits, qmin the exponent of the smallest subnormal,
the code (sign excluded) at which infinity or overflow begins. -/
structure FFmt where
  p : Nat
  qmin : Int
  top : Nat
  width : Nat
deriving DecidableEq, Repr

def fp32 : FFmt := { p := 24, qmin := -149, top := 0x7F800000, width := 32 }
def bf16 : FFmt := { p := 8, qmin := -133, top := 0x7F80, width := 16 }
def fp16 : FFmt := { p := 11, qmin := -24, top := 0x7C00, width := 16 }
def e4m3 : FFmt := { p := 4, qmin := -9, top := 0x7F, width := 8 }
def e5m2 : FFmt := { p := 3, qmin := -16, top := 0x7C, width := 8 }

/-- The magnitude code nearest to n over d, as if the exponent were unbounded (R95, R97). -/
def FFmt.roundCode (f : FFmt) (n d : Nat) : Nat :=
  if n = 0 then 0 else
  let e := floorLog2 n d
  let q := max (e - ((f.p : Int) - 1)) f.qmin
  let m := divHalfEven (n * 2 ^ (-q).toNat) (d * 2 ^ q.toNat)
  (q - f.qmin).toNat * 2 ^ (f.p - 1) + m

/-- The exact value of a magnitude code below top (R89). -/
def FFmt.codeVal (f : FFmt) (neg : Bool) (code : Nat) : Num :=
  let e := code / 2 ^ (f.p - 1)
  if e = 0 then .scaled neg code f.qmin
  else .scaled neg (code % 2 ^ (f.p - 1) + 2 ^ (f.p - 1)) (f.qmin + e - 1)

/-- A bit pattern of the format read as a value (R89, R90). E4M3 has no infinity: its top code is NaN. -/
def FFmt.decode (f : FFmt) (bits : Nat) : Num :=
  let half := 2 ^ (f.width - 1)
  let neg := decide (half ≤ bits % (2 * half))
  let mag := bits % half
  if mag < f.top then f.codeVal neg mag
  else if mag = f.top && f.top != 0x7F then .inf neg
  else .nan

/-- One rounding into the format, with overflow to an infinity (R97); the value of the result. -/
def FFmt.round (f : FFmt) : Num → Num
  | .fin s n d =>
    let c := f.roundCode n d
    if f.top ≤ c then .inf s else f.codeVal s c
  | x => x

/-- One FP32 rounding (R95). -/
def rnd32 (x : Num) : Num := fp32.round x

/-- The pattern of a value that the format holds exactly, or of an infinity or the canonical NaN (R99). -/
def FFmt.encode (f : FFmt) : Num → Nat
  | .fin s n d => (if s then 2 ^ (f.width - 1) else 0) + f.roundCode n d
  | .inf s => (if s then 2 ^ (f.width - 1) else 0) + f.top
  | .nan => if f.top = 0x7F || f.top = 0x7C then 0x7F
            else f.top + 2 ^ (f.p - 2)

/-- Sum of a list, left to right, exact. -/
def Num.sum : List Num → Num
  | [] => .zero
  | x :: xs => xs.foldl Num.add x

/-- The integer nearest to a finite value, ties to even. -/
def roundInt (s : Bool) (n d : Nat) : Int := signed s (divHalfEven n d)

/-! ## Square roots, exponentials and logarithms to a fixed precision (log 8) -/

/-- Newton's iteration for the integer square root, from above. -/
def isqrtGo (n : Nat) : Nat → Nat → Nat
  | 0, x => x
  | k + 1, x => let y := (x + n / x) / 2; if y < x then isqrtGo n k y else x

def isqrt (n : Nat) : Nat := if n = 0 then 0 else isqrtGo n 64 (2 ^ (Nat.log2 n / 2 + 1))

/-- The square root of n over d: exact where it is a multiple of 2 to the -320, else the midpoint
between two such multiples, which rounds as the exact root does. -/
def sqrtRat (n d : Nat) : Num :=
  let v := n * 2 ^ 640 / d
  let r := isqrt v
  if r * r * d = n * 2 ^ 640 then .fin false r (2 ^ 320) else .fin false (2 * r + 1) (2 ^ 321)

/-- Working precision of the exponential and the logarithm: 2 to the -256. -/
def one256 : Int := 2 ^ 256

/-- floor of ln 2 times 2 to the 256, by the series of 2 artanh (1/3). -/
def artanhGo (z2 : Int) : Nat → Nat → Int → Int → Int
  | 0, _, _, acc => acc
  | k + 1, i, zp, acc => artanhGo z2 k (i + 2) (zp * z2 / one256) (acc + zp / (i : Int))

/-- 2 artanh z for z scaled by 2 to the 256. -/
def artanh2 (z : Int) : Int := 2 * artanhGo (z * z / one256) 170 1 z 0

def ln2Fix : Int := artanh2 (one256 / 3)

def expGo (r : Int) : Nat → Nat → Int → Int → Int
  | 0, _, _, acc => acc
  | k + 1, i, t, acc =>
    let t' := t * r / (one256 * (i : Int))
    expGo r k (i + 1) t' (acc + t')

/-- The exponential of a finite value to within about 2 to the -240 of the value; exactly 1 at zero. Values beyond
the range of every format are clamped: they round to an infinity or to zero. -/
def expRat (s : Bool) (n d : Nat) : Num :=
  if n = 0 then .ofNat 1
  else if 512 * d < n then (if s then .fin false 1 (2 ^ 700) else .fin false (2 ^ 700) 1)
  else
    let x : Int := signed s (n * 2 ^ 256 / d)
    let k : Int := x / ln2Fix
    let r := x - k * ln2Fix
    let e := expGo r 60 1 one256 one256
    .scaled false e.toNat (k - 256)

/-- The exponential with its special values (R461). -/
def Num.exp : Num → Num
  | .nan => .nan
  | .inf true => .zero
  | .inf false => .inf false
  | .fin s n d => expRat s n d

/-- The natural logarithm of n over d above zero, to within about 2 to the -240. -/
def lnRat (n d : Nat) : Num :=
  if n = d then .zero else
  let e := floorLog2 n d
  -- m = x / 2^e lies in [1, 2)
  let m : Int := ((n * 2 ^ (-e).toNat * 2 ^ 256) / (d * 2 ^ e.toNat) : Nat)
  let z := (m - one256) * one256 / (m + one256)
  let v := artanh2 z + e * ln2Fix
  .fin (decide (v < 0)) v.natAbs (2 ^ 256)

/-- The FP32 pattern of a value that FP32 holds. -/
def enc32 (x : Num) : Nat := fp32.encode x

def dec32 (bits : Nat) : Num := fp32.decode bits

/-- Q16.16, Q8.8 and other fixed-point reads: an integer over a power of two. -/
def Num.fixed (i : Int) (fracBits : Nat) : Num := .fin (decide (i < 0)) i.natAbs (2 ^ fracBits)

end Sys2Proof.Machine
end

