-- ==== Sys2Proof/Machine/Trig.lean ====
section
/-! DEFINITION. Sine and cosine of a part of a turn, to the working precision of Num (log 8). -/

namespace Sys2Proof.Machine

/-- Terms of the arc tangent of 1 over k, scaled by 2 to the 256: fuel, odd number, power, sign, sum. -/
def arctanGo (k2 : Int) : Nat → Nat → Int → Bool → Int → Int
  | 0, _, _, _, acc => acc
  | f + 1, i, p, neg, acc =>
    arctanGo k2 f (i + 2) (p / k2) (!neg) (if neg then acc - p / (i : Int) else acc + p / (i : Int))

def arctanInv (k : Int) : Int := arctanGo (k * k) 120 1 (one256 / k) false 0

/-- Pi times 2 to the 256, by Machin's formula. -/
def piFix : Int := 16 * arctanInv 5 - 4 * arctanInv 239

/-- Terms of the sine's or the cosine's series: fuel, next factor, term, sum. -/
def circGo (x2 : Int) : Nat → Nat → Int → Int → Int
  | 0, _, _, acc => acc
  | f + 1, i, t, acc =>
    let t' := -(t * x2 / (one256 * ((i : Int) * (i + 1))))
    circGo x2 f (i + 2) t' (acc + t')

def fixNum (v : Int) : Num := .fin (decide (v < 0)) v.natAbs (2 ^ 256)

/-- The angle 2 pi n / d, scaled. -/
def angleFix (n d : Nat) : Int := 2 * piFix * (n : Int) / (d : Int)

def cosTurn (n d : Nat) : Num :=
  let x := angleFix n d
  fixNum (circGo (x * x / one256) 60 1 one256 one256)

def sinTurn (n d : Nat) : Num :=
  let x := angleFix n d
  fixNum (circGo (x * x / one256) 60 2 x x)

end Sys2Proof.Machine
end

