-- ==== Sys2Proof/Machine/Bits.lean ====
section
/-! DEFINITION. Bit fields, little-endian bytes (R2), and sorted sparse tables. -/

namespace Sys2Proof.Machine

/-- Bits hi:lo of a number, both ends included (R2). -/
def fld (v hi lo : Nat) : Nat := v / 2 ^ lo % 2 ^ (hi - lo + 1)

/-- Bit i of a number. -/
def bit (v i : Nat) : Bool := v / 2 ^ i % 2 == 1

/-- A number with bits hi:lo replaced. -/
def setFld (v hi lo x : Nat) : Nat :=
  v - fld v hi lo * 2 ^ lo + (x % 2 ^ (hi - lo + 1)) * 2 ^ lo

def bitN (b : Bool) : Nat := if b then 1 else 0

/-- The number that bytes spell, least significant first (R2). -/
def leNat : List Byte → Nat
  | [] => 0
  | b :: bs => b.toNat + 256 * leNat bs

/-- The k bytes of a number, least significant first (R2). -/
def leBytes : Nat → Nat → List Byte
  | 0, _ => []
  | k + 1, v => BitVec.ofNat 8 v :: leBytes k (v / 256)

/-- k bytes of a list from an offset, as a number; bytes beyond the end read zero. -/
def leAt (bs : List Byte) (off k : Nat) : Nat := leNat ((bs.drop off).take k)

/-- A list with bytes from an offset replaced. -/
def putAt (bs : List Byte) (off : Nat) (new : List Byte) : List Byte :=
  bs.take off ++ new ++ bs.drop (off + new.length)

def zeros (n : Nat) : List Byte := List.replicate n 0

/-- n div d rounded up. -/
def ceilDiv (n d : Nat) : Nat := (n + d - 1) / d

/-- A two's complement reading of the low w bits. -/
def sInt (w v : Nat) : Int :=
  let u := v % 2 ^ w
  if 2 ^ (w - 1) ≤ u then (u : Int) - 2 ^ w else u

/-- The low w bits of an integer. -/
def uInt (w : Nat) (i : Int) : Nat := (i % 2 ^ w).toNat

/-- A count raised by n, saturating (the saturating fields of the registers). -/
def satAdd (w c n : Nat) : Nat := min (c + n) (2 ^ w - 1)

/-! ## Sparse tables: lists of key and value with strictly rising keys -/

def lookup {α : Type} : List (Nat × α) → Nat → Option α
  | [], _ => none
  | (k, v) :: r, i => if k = i then some v else lookup r i

def insertAt {α : Type} : List (Nat × α) → Nat → α → List (Nat × α)
  | [], i, v => [(i, v)]
  | (k, w) :: r, i, v =>
    if i < k then (i, v) :: (k, w) :: r
    else if i = k then (i, v) :: r
    else (k, w) :: insertAt r i v

def eraseAt {α : Type} : List (Nat × α) → Nat → List (Nat × α)
  | [], _ => []
  | (k, w) :: r, i => if i = k then r else (k, w) :: eraseAt r i

/-- Keys strictly rising. -/
def sortedKeys {α : Type} : List (Nat × α) → Bool
  | [] => true
  | [_] => true
  | (a, _) :: (b, w) :: r => decide (a < b) && sortedKeys ((b, w) :: r)

def hasKey {α : Type} (t : List (Nat × α)) (i : Nat) : Bool := (lookup t i).isSome

/-- A value changed where it stands. -/
def modifyAt {α : Type} (t : List (Nat × α)) (i : Nat) (f : α → α) : List (Nat × α) :=
  match lookup t i with
  | some v => insertAt t i (f v)
  | none => t

/-- Whether a list names something twice. -/
def dupFree : List Nat → Bool
  | [] => true
  | x :: r => !r.contains x && dupFree r

/-- The elements 0 to n - 1 that satisfy a test, lowest first. -/
def findBelow (p : Nat → Bool) (n : Nat) : Option Nat := (List.range n).find? p

/-- CRC-32 of R38: reflected IEEE 802.3 polynomial, initial value and final XOR all ones. -/
def crcBit (c : BitVec 32) : BitVec 32 :=
  if c.getLsbD 0 then (c >>> 1) ^^^ 0xEDB88320#32 else c >>> 1

def crcByte (c : BitVec 32) (b : Byte) : BitVec 32 :=
  let x := c ^^^ b.zeroExtend 32
  crcBit (crcBit (crcBit (crcBit (crcBit (crcBit (crcBit (crcBit x)))))))

def crc32 (bs : List Byte) : Nat := ((bs.foldl crcByte 0xFFFFFFFF#32) ^^^ 0xFFFFFFFF#32).toNat

end Sys2Proof.Machine
end

