-- ==== Sys2Proof/Machine/Parts.lean ====
section
/-! DEFINITION. The parts of the state: cores and kernel slots, regions, memories, queues, contexts, commands,
sequences and coils (01 to 12, 15 to 18). -/

namespace Sys2Proof.Machine

/-! ## Memories (15, 18) -/

/-- An addressed RAM. `cells` lists every byte of every written check block, addresses strictly rising; an
unlisted block holds the unwritten mark (R361). `bad` lists the stored bits of a block that are bad, by block
number, as numbered in R368; an unlisted block has none. -/
structure Ram where
  cells : List Host.Cell
  bad : List (Nat × BitVec 288)
deriving DecidableEq, Repr

/-! ## Kernel slots and cores (03 to 07) -/

/-- Accumulated flags and counts of a kernel slot or command (R103, R144, R189). -/
structure Flags where
  sat : Bool := false
  ovfNan : Bool := false
  ovfInf : Bool := false
  nanBlock : Bool := false
  nanInt : Bool := false
  intOvf : Bool := false
  accInf : Bool := false
  satCount : Nat := 0
  emptyRows : Nat := 0
  poisonedRows : Nat := 0
deriving DecidableEq, Repr

/-- Kernel slot states (R43). -/
inductive KState where
  | free | loading | running | stopping | trapped
deriving DecidableEq, Repr

/-- Why a kernel slot stops (R43, R315, R316, R345). -/
inductive StopWhy where
  | preempt | cancel | abort | drain | region
deriving DecidableEq, Repr

/-- Tile descriptor states (R49). -/
inductive TState where
  | invalid | pending | resident
deriving DecidableEq, Repr

/-- The kind an accumulator slot took when last written in overwrite form (R128). -/
inductive AccKind where
  | float | integer
deriving DecidableEq, Repr

/-- One accumulator slot name of a kernel slot: the kind of its contents, the physical slot it occupies
(none: not resident, its tile is in a spill tile), the spill tile it occupies, and the place of its last
reservation in age (R128, R132, R134). `ext` lists what the instance has written in overwrite form since: on an anvil, the first rows and
the first columns; every other element is unspecified (R46). -/
structure AccName where
  kind : Option AccKind := none
  ext : List (Nat × Nat × Nat) := []
  phys : Option Nat := none
  spill : Option Nat := none
  lastRes : Nat := 0
deriving DecidableEq, Repr

/-- The fields of a kernel header that an instance uses (R38), and whether the image has an opcode from 0x080 to 0x0FF (R123). -/
structure KHeader where
  spillBack : Bool := false
  exclusive : Bool := false
  narrow : Bool := false
  length : Nat := 0
  entry : Nat := 0
  csKib : Nat := 0
  accSlots : Nat := 0
  spillTiles : Nat := 0
  argBytes : Nat := 0
  minAnvils : Nat := 0
  maxInst : Nat := 0
  formats : W32 := 0
  vecOps : Bool := false
deriving DecidableEq, Repr

/-- An issued, incomplete instruction (R48 to R50): its kernel slot and index, its place in age among the slot's, the tiles it reads and
writes, the accumulator names it reserves, its cycles by R87, its multiply-accumulates and the flags that it sets when it completes, the
contribution it waits for, whether it stores to region or stacked memory, the sequence it gathers from, and whether another device serves
it (R215, R217). -/
structure InFlight where
  ks : KsId
  index : Nat
  age : Nat
  reads : List Nat
  writes : List Nat
  accs : List Nat
  cycles : Nat
  macs : Nat
  flags : Flags
  req : Option Nat
  stores : Bool
  gather : Option Nat
  remote : Bool
deriving DecidableEq, Repr

/-- An outstanding CLAIM or COMMIT of a kernel slot: its request number, its place in age and the register its reply writes. -/
structure AtomWait where
  req : Nat
  age : Nat
  commit : Bool
  reg : Nat
  tile : Nat
  index : Nat
  reply : Option W64
deriving DecidableEq, Repr

/-- Requests that wait at a region's atomic unit, in order of arrival (R147, R158, R159). -/
inductive AtomReq where
  | claim (id : Nat) (core : CoreId) (ks : KsId) (counter : Nat) (imm : Nat)
  | commit (id : Nat) (core : CoreId) (ks : KsId) (bitmap : Nat) (tile : Nat)
  | contrib (id : Nat) (core : CoreId) (ks : KsId) (ctx : Nat) (tag : W64) (rslot : Nat)
      (td : W256) (rows cols : Nat) (elems : List W64) (index : Nat)
deriving DecidableEq, Repr

/-- A kernel slot (R43, R44, R104, R144, R195). `stop`: asked to stop, at its next tile commit point or at its next issue; `saved`: the
resume value of an instance that is STOPPING (R315); `inst`: its instance index, whatever its registers hold; `staged`: its contributions that
wait in staging areas (R55, R150); `round`: for a round kernel, the first coil of its group (R233). -/
structure KSlot where
  state : KState
  ctx : Nat
  csUnits : Nat
  csBase : Nat
  accUnits : Nat
  units : List Nat
  s : Vector W64 64
  t : Vector W256 32
  ts : Vector TState 32
  p : Vector Bool 8
  acc : Vector AccName 16
  resAge : Nat
  pc : Nat
  image : Nat
  hdr : KHeader
  cmd : Option (Nat × Nat)
  inst : Nat
  counter : Nat
  bitmap : Nat
  pendS : List Nat
  pendP : List Nat
  atoms : List AtomWait
  flags : Flags
  spills : Nat
  trap : Option (Nat × Nat)
  stop : Option StopWhy
  saved : W64
  argVA : Nat
  placedNo : Nat
  retries : List (Nat × AtomReq)
  staged : Nat
  round : Option Nat
deriving DecidableEq, Repr

/-- Where firmware put the argument block of a placed instance: its device virtual address in a context, and its place in region memory
(R44). -/
structure ArgMap where
  core : CoreId
  ks : KsId
  ctx : Nat
  va : Nat
  len : Nat
  addr : Nat
deriving DecidableEq, Repr

/-- Vector engine states (R123, R125). -/
inductive VecState where
  | inService | underTest | fenced
deriving DecidableEq, Repr

/-- One cached instruction: context, image address, index, word (R58). -/
structure ICLine where
  ctx : Nat
  image : Nat
  index : Nat
  word : W128
deriving DecidableEq, Repr

/-- A core. `passed` counts the cycles in a row for which a kernel slot could issue and another was chosen (R51). `anvilAt` is the time of its anvil group's last issue and `token` a token taken for the next (R417). `vecAsked`: a vector engine test has been asked for and begins once no resident image needs the engine (R123). -/
structure Core where
  fenced : Bool
  accUnits : Nat
  coilUnits : BitVec 8
  coilRows : Nat
  vec : VecState
  vecAsked : Bool
  vecChanges : Nat
  cntActive : W64
  cntMac : Nat
  icache : List ICLine
  lastSlot : Nat
  passed : Vector Nat 4
  anvQ : List InFlight
  vecQ : List InFlight
  movQ : List InFlight
  slots : Vector KSlot 4
  owner : Option Nat
  point : Nat
  anvilAt : Option Nat
  token : Bool
  ovf : List (Nat × Bool)
deriving DecidableEq, Repr

/-! ## Regions -/

/-- How a stack stands (MEM_STATUS, R293). -/
inductive StackState where
  | inService | training | failed | outOfService
deriving DecidableEq, Repr

/-- 64-bit counters of a region (R153, R167, R218, R242, R293, R370). -/
structure RegionCnt where
  applied : W64 := 0
  dup : W64 := 0
  retry : W64 := 0
  tileDup : W64 := 0
  tileClaim : W64 := 0
  pageCopy : W64 := 0
  blockCopy : W64 := 0
  kvServed : W64 := 0
  coilRound : W64 := 0
  coilUnpark : W64 := 0
  coilEvict : W64 := 0
  coilSkip : W64 := 0
  memRd : W64 := 0
  memWr : W64 := 0
  memTurn : W64 := 0
  memAged : W64 := 0
  ceSram : W64 := 0
  ceHbm : W64 := 0
  ueSram : W64 := 0
  ueHbm : W64 := 0
deriving DecidableEq, Repr

structure Region where
  role : Nat
  roleNow : Nat
  rolePending : Bool
  wdtExpiries : Nat
  wdtWriteErr : Bool
  wdtPeriod : Nat
  atomQ : List AtomReq
  cnt : RegionCnt
  pages2M : Nat
  spareLanes : Nat
  stackLanes : Nat
  lanesBad : List (Nat × Nat)
  hot : Bool
  stack : StackState
  bulkAge : Nat
  softUsed : Nat
  hardUsed : Nat
  hardFree : Nat
  rowErrs : List (Nat × List Nat)
  softRows : List Nat
  scrubPeriod : Nat
  scrubPasses : Nat
  scrubPos : Nat
  sramPos : Nat
  writeback : Option Nat
  fieldApplied : Nat
  banksOut : List Nat
  busWrite : List Nat
  tcache : List (Nat × Nat × W64)
  drain : Bool
  outOfService : Bool
  runSlot : Nat
  runVersion : W32
  runSvn : Nat
  runFallback : Bool
deriving DecidableEq, Repr

/-! ## Contexts and queues (16) -/

structure Ctx where
  admin : Bool
  altOk : Bool
  home : HostPort
  maxPrio : Nat
  exclCores : Nat
  root : Nat
  poolTable : Nat
  poolCount : Nat
  eventCount : Nat
  eventTable : Nat
  flashBase : Nat
  flashBlocks : Nat
  paused : Bool
deriving DecidableEq, Repr

/-- Queue states (R301). -/
inductive QState where
  | active | destroying | destroyed
deriving DecidableEq, Repr

/-- Writes of Galwin's own structures that wait (R462). -/
inductive HeldWrite where
  | accepted (bytes : List Byte)
  | record (n : Nat)
  | status
deriving DecidableEq, Repr

/-- A command queue (R299 to R302); `held`: its writes that wait, and whether the wait of each has been logged (R462). -/
structure Queue where
  ctx : Nat
  prio : Nat
  role : Nat
  irqEn : Bool
  minor : Nat
  major : Nat
  depth : Nat
  cmdRing : Nat
  cplRing : Nat
  statusBlock : Nat
  vector : Nat
  gen : W16
  state : QState
  accepted : Nat
  completed : Nat
  tail : W32
  fetchFailed : Bool
  held : List (HeldWrite × Bool)
  prevOk : Option Bool
deriving DecidableEq, Repr

/-- Where a command of the command store stands (R307, R308, R327, R340). `granted`: chosen by the dispatch order
with checks 1 to 4 of R307 passed; `dispatched`: its own chapter's checks passed and resources held; `ready`: its
work is done and its commit point may be reached; `ended`: commit mark or failure status written. -/
inductive Phase where
  | waiting | granted | dispatched | ready | ended
deriving DecidableEq, Repr

/-- An instance of a KERNEL command (R40, R165, R315). `placed` is where it runs, or ran when `ended`; `flags` are those it has folded into
its command (R105). -/
structure Inst where
  index : Nat
  placed : Option (CoreId × KsId)
  resume : W64
  ended : Bool
  flags : Flags
deriving DecidableEq, Repr

/-- A token position of a page written by a command's KVAPP: the token, the instance, the KVAPP's place in age among the instance's
instructions since its placement (0: of an earlier placement), and whether other instances may read it (R83, R213, R315, R338). -/
structure Written where
  tok : Nat
  inst : Nat
  age : Nat
  vis : Bool
deriving DecidableEq, Repr

/-- Pages that a command chose for appends (R208 to R211), and the positions it wrote. -/
structure AppendPage where
  seq : Nat
  lh : Nat
  pn : Nat
  page : Nat
  taken : Bool
  keys : List Written
  values : List Written
deriving DecidableEq, Repr

/-- One group of a RUN (R232): coil entries in list order, with list place, SEQ and RESET_AT. -/
structure RoundEntry where
  coil : Nat
  place : Nat
  seq : Nat
  resetAt : Nat
deriving DecidableEq, Repr

/-- A trap record (R60, R310). -/
structure TrapRec where
  status : Nat
  core : Nat
  ks : Nat
  index : Nat
deriving DecidableEq, Repr

/-- Why a command is held (R340, R380): a fenced die, fenced regions of its roles, a node without a route, a node whose
incarnation changed. -/
inductive HoldWhy where
  | die (d : Nat)
  | roles
  | route (node : Nat)
  | peer
deriving DecidableEq, Repr

/-- A command held in the command store (R325): its 64 bytes and its state. `ending`: the status it ends with once none of its instances is
placed, and the mailbox whose CANCEL cancelled it (R60, R316); `endLogged`: a translation fault of its end's writes has been logged (R462); `staged`: its contributions that wait in staging areas (R151); `home`: the region that its counter block is homed in (R164).
A ROUND holds its descriptor as read at dispatch (`desc`), the groups whose round kernels have ended, by their first coils (`roundDone`), the
states that its commit writes (`saves`) and the OUT rows that it makes visible (`outs`: coil, address, bytes; R233, R234). -/
structure Cmd where
  q : Nat
  n : Nat
  bytes : List Byte
  acceptedAt : Nat
  acceptIdx : Nat
  phase : Phase
  status : Nat
  prio : Nat
  capped : Bool
  lossy : Bool
  counted : Bool
  mark : Bool
  settled : Bool
  held : Bool
  heldOn : Option HoldWhy
  ending : Option (Nat × Option HostPort)
  endLogged : Bool
  staged : Nat
  notes : Bool
  flags : Flags
  dups : Nat
  trap : Option TrapRec
  hdr : KHeader
  args : Nat
  insts : List Inst
  targets : List Nat
  counter : Nat
  home : Option RegionId
  bitmap : Nat
  jstep : Nat
  pages : List AppendPage
  reserved : List (Nat × Nat)
  paths : List (Nat × Nat × Nat)
  culls : List Nat
  rounds : List RoundEntry
  desc : List Byte
  roundDone : List Nat
  outs : List (Nat × Nat × List Byte)
  deadline : Option Nat
  bannedRegions : List RegionId
  saves : List (Nat × List Byte)
deriving DecidableEq, Repr

/-! ## Sequences and coils (01, 12) -/

/-- Sequence states (R7); FREE sequences are not listed. -/
inductive SeqState where
  | live | culling
deriving DecidableEq, Repr

/-- A sequence descriptor (R7). `bad`: the descriptor was lost with its stack (R337). -/
structure Seq where
  state : SeqState
  inFlight : Bool
  parent : Option Nat
  coil : Option Nat
  kvFormat : Nat
  ctx : Nat
  pool : Nat
  root : Nat
  length : Nat
  framePages : Nat
  seed : W64
  step : W32
  user : W64
  bad : Bool
deriving DecidableEq, Repr

/-- Coil statuses (R220); FREE coils are not listed. -/
inductive CoilStatus where
  | idle | resident | parked | parking | unparking
deriving DecidableEq, Repr

/-- A coil table entry (R219). `bad`: the entry was lost with its stack (R337). -/
structure Coil where
  status : CoilStatus
  pair : Bool
  reset : Bool
  threeGate : Bool
  hasSeq : Bool
  tail : Bool
  widthLog2 : Nat
  ctx : Nat
  roundLen : Nat
  core : CoreId
  roundSeq : Nat
  row : Nat
  unit : Nat
  unitLo : Nat
  steps : Nat
  holder : Option (Nat × Nat)
  lastRun : Nat
  bad : Bool
deriving DecidableEq, Repr

/-! ## Administration, dispatch, epochs (16, 17) -/

/-- A host port's own registers, MSI-X table and messages (R396 to R407). `sent` counts the messages sent by vector;
`wait` holds messages that a port which is down keeps (R342). -/
structure Hif where
  up : Bool
  width : Nat
  speed : Nat
  aptEn : Bool
  aptErr : Bool
  aptBase : Nat
  evtVec : Nat
  evt : BitVec 4
  evtEn : BitVec 4
  bar4Gib : Nat
  msixWords : List (Nat × W32)
  unmasked : List Nat
  pba : List Nat
  sent : List (Nat × Nat)
  wait : List (Nat × Option Nat)
  latches : List (Nat × W32)
  cntBar4Refused : W64
  cntCplTimeout : W64
deriving DecidableEq, Repr

/-! ## Darit (19) -/

/-- Darit port states (R389). -/
inductive LinkState where
  | disabled | detect | training | up | held | down
deriving DecidableEq, Repr

/-- A Darit port (R373, R389): its registers, its counters, and its link layer's next sequence numbers and unacknowledged
flits. -/
structure DPort where
  enable : Bool
  dim : Nat
  dir : Bool
  st : LinkState
  cause : Nat
  width : Nat
  cable : Cable
  spareUsed : Bool
  laneFail : BitVec 17
  laneInv : BitVec 17
  peerValid : Bool
  peerPort : Nat
  peerNode : Nat
  map : List Nat
  txFlits : W64
  rxFlits : W64
  replay : W64
  fecCorr : W64
  fwd : W64
  rxSeq : BitVec 12
  lastFwd : Bool
deriving DecidableEq, Repr

/-- The device-wide Darit state (R374, R378, R380, R390): sizes, coordinates, the trunks of other devices that are down
(node, dimension, minus direction), and the incarnations learnt from peers. -/
structure Darit where
  ports : Vector DPort 8
  sizeX : Nat
  sizeY : Nat
  sizeZ : Nat
  x : Nat
  y : Nat
  z : Nat
  cfgErr : Bool
  incarnation : W16
  rquery : Nat
  aged : W64
  downTrunks : List (Nat × Nat × Bool)
  incs : List (Nat × W16)
deriving DecidableEq, Repr

/-- A mailbox (R318, R319): `waitOp` is the operation that has not ended, `behind` says that it waits for the other mailbox's, `count`
holds the commands that a CANCEL under way has cancelled. -/
structure Mailbox where
  addr : W64
  arg0 : W32
  arg1 : W64
  result : W64
  busy : Bool
  status : Nat
  lastOp : Nat
  waitOp : Option Instr
  behind : Bool
  count : Nat
deriving DecidableEq, Repr

/-- Part states (R334). -/
inductive PartState where
  | inService | resetting | fenced
deriving DecidableEq, Repr

/-- An entry of the epoch table (R330, R334). `owed` counts advances that wait for the 1 ms rule. -/
structure EpochEntry where
  state : PartState
  epoch : W16
  lastNs : Option Nat
  owed : Nat
  returning : Bool
deriving DecidableEq, Repr

/-- Where a fabric request stands (R331, R332): served and its reply awaited, answered PART_ABSENT, held behind such a one. -/
inductive FabricStage where
  | served | absent | behind | lost
deriving DecidableEq, Repr

/-- A route to another device (R376, R378): where it has come to, its hops, whether it left the order of R376, and the trunk it leaves
by (dimension, minus direction). -/
structure RouteAcc where
  coords : List Nat
  hops : Nat
  detour : Bool
  first : Option (Nat × Bool)
deriving DecidableEq, Repr

/-- A request that is not at its end, with the route its frame took to another device (R379). -/
structure FabricWait where
  req : FabricReq
  stage : FabricStage
  via : Option RouteAcc
deriving DecidableEq, Repr

/-! ## The error log (18) -/

/-- A log record (R368). -/
structure LogRec where
  timeNs : Nat
  number : Nat
  status : Nat
  cause : Nat
  source : Nat
  writing : Bool
  unit : Nat
  ctx : Option Nat
  epoch : W16
  bit : Nat
  address : Nat
deriving DecidableEq, Repr

/-- The log (R367, R371). `second` is the interval that the limited counts belong to. -/
structure ErrLog where
  recs : List LogRec
  head : W32
  suppressed : W64
  limited : List (Nat × Nat × Nat)
deriving DecidableEq, Repr

end Sys2Proof.Machine
end

