-- ==== Sys2Proof/Machine/Flags.lean ====
section
/-! DEFINITION. Conversion into each format with its sticky flags (05, R88 to R103; 09, R171, R172). -/

namespace Sys2Proof.Machine

/-! ## Flags (R103, R105, R144) -/

def Flags.none : Flags := {}

def Flags.ofSat : Flags := { sat := true, satCount := 1 }
def Flags.ofOvfNan : Flags := { ovfNan := true }
def Flags.ofOvfInf : Flags := { ovfInf := true }
def Flags.ofNanBlock : Flags := { nanBlock := true }
def Flags.ofNanInt : Flags := { nanInt := true }

/-- Flag bits ORed, counts added and saturating at their register's width (R104, R105, R195). -/
def Flags.join (a b : Flags) : Flags :=
  { sat := a.sat || b.sat, ovfNan := a.ovfNan || b.ovfNan, ovfInf := a.ovfInf || b.ovfInf,
    nanBlock := a.nanBlock || b.nanBlock, nanInt := a.nanInt || b.nanInt, intOvf := a.intOvf || b.intOvf,
    accInf := a.accInf || b.accInf, satCount := satAdd 16 a.satCount b.satCount,
    emptyRows := satAdd 32 a.emptyRows b.emptyRows, poisonedRows := satAdd 32 a.poisonedRows b.poisonedRows }

def Flags.joinAll (l : List Flags) : Flags := l.foldl Flags.join {}

/-- The flag field of a completion record, bits 22:16 of its first word (R310). -/
def Flags.bits (f : Flags) : Nat :=
  bitN f.sat + 2 * bitN f.ovfNan + 4 * bitN f.ovfInf + 8 * bitN f.nanBlock + 16 * bitN f.nanInt
    + 32 * bitN f.intOvf + 64 * bitN f.accInf

/-! ## Format codes (R88, R71) -/

def fFP32 : Nat := 0x00
def fFP32P : Nat := 0x01
def fBF16 : Nat := 0x02
def fFP16 : Nat := 0x03
def fE4M3 : Nat := 0x04
def fE5M2 : Nat := 0x05
def fFP4 : Nat := 0x06
def fBG4 : Nat := 0x07
def fINT32 : Nat := 0x08
def fINT8 : Nat := 0x09
def fINT4 : Nat := 0x0A
def fU16 : Nat := 0x0B

/-- Bits of one element (R88). -/
def fmtBits (f : Nat) : Nat :=
  if f = fFP32P then 64
  else if f = fFP32 ∨ f = fINT32 then 32
  else if f = fBF16 ∨ f = fFP16 ∨ f = fU16 then 16
  else if f = fE4M3 ∨ f = fE5M2 ∨ f = fINT8 then 8
  else 4

def is4bit (f : Nat) : Bool := f == fFP4 || f == fBG4 || f == fINT4

def isFloatFmt (f : Nat) : Bool :=
  f == fFP32 || f == fFP32P || f == fBF16 || f == fFP16 || f == fE4M3 || f == fE5M2 || f == fFP4 || f == fBG4

/-- The binary float format of a code, if it has one. -/
def ffmtOf (f : Nat) : Option FFmt :=
  if f = fFP32 then some fp32
  else if f = fBF16 then some bf16
  else if f = fFP16 then some fp16
  else if f = fE4M3 then some e4m3
  else if f = fE5M2 then some e5m2
  else none

/-! ## The 4-bit grids (R93, R96) -/

/-- Magnitudes of the eight codes, over a common denominator. -/
def gridMags (f : Nat) : List Nat × Nat :=
  if f = fBG4 then ([0, 23, 47, 73, 102, 136, 180, 256], 256)
  else if f = fFP4 then ([0, 1, 2, 3, 4, 6, 8, 12], 2)
  else ([0, 1, 2, 3, 4, 5, 6, 7], 1)

/-- The grid value of a 4-bit code (R93). -/
def gridVal (f code : Nat) : Num :=
  let (ms, d) := gridMags f
  if f = fINT4 then
    let v := sInt 4 code
    .fin (decide (v < 0)) v.natAbs 1
  else
    let m := ms.getD (code % 8) 0
    .fin (decide (8 ≤ code % 16) && m != 0) m d

/-- The largest grid magnitude g (R171). -/
def gridMax (f : Nat) : Num :=
  if f = fFP4 then .ofNat 6 else if f = fBG4 then .ofNat 1 else .ofNat 7

/-- A value under its block's or its row's scale: the exact product unless it passes the FP32 range; a zero scale gives +0, an infinite or
NaN scale NaN (R94). -/
def scaled (scale v : Num) : Num :=
  match scale with
  | .fin _ n _ =>
    if n = 0 then .zero else
    let v := v.mul scale
    match v with
    | .fin s a b => if fp32.top ≤ fp32.roundCode a b then .inf s else v
    | _ => v
  | _ => .nan

/-- A 4-bit element decoded under its block's scale; a zero code gives +0 (R94, R98). -/
def decode4 (f : Nat) (scale : Num) (code : Nat) : Num :=
  let v := scaled scale (gridVal f code)
  if v.isZero then .zero else v

/-- The magnitude index for |r| = n / d: midpoints between neighbours, ties to the even code (R95, R96). -/
def gridPick (ms : List Nat) (md n d : Nat) : Nat :=
  -- 2 |r| md against the sum of the two neighbours
  (List.range 7).foldl (fun k i =>
    let sum := ms.getD i 0 + ms.getD (i + 1) 0
    if sum * d < 2 * n * md || (sum * d = 2 * n * md && (i + 1) % 2 = 0) then i + 1 else k) 0

/-- A finite x coded with a finite scale s above zero (R96, R97). -/
def code4 (f : Nat) (s x : Num) : Nat × Flags :=
  match x.div s with
  | .fin neg n d =>
    let (ms, md) := gridMags f
    let top := ms.getD 7 0
    let big := decide (top * d < n * md)
    let k := if big then 7 else gridPick ms md n d
    let code := if k = 0 then 0
      else if f = fINT4 then (if neg then 16 - k else k)
      else (if neg then 8 + k else k)
    (code, if big then Flags.ofSat else {})
  | .inf _ => (0, Flags.ofSat)
  | .nan => (0, {})

/-- choose_scale of R171: the least positive BF16 value not below |m| / g, as a BF16 pattern. -/
def chooseScale (m g : Num) : Nat :=
  match m.abs with
  | .nan => 0x7FC0
  | .inf _ => 0x7FC0
  | .fin _ n d =>
    if n = 0 then 0 else
    let q := (Num.fin false n d).div g
    match q with
    | .fin _ a b =>
      let c := bf16.roundCode a b
      let c := if (bf16.codeVal false c).lt q then c + 1 else c
      if 0x7F7F < c then 0x7F7F else if c = 0 then 1 else c
    | _ => 0x7FC0

/-- A block of sources coded with its chosen scale: the scale pattern, the codes, the flags (R97, R172). -/
def codeBlock (f : Nat) (scale : Nat) (xs : List Num) : Nat × List Nat × Flags :=
  let s := bf16.decode scale
  if s.isNan || xs.any (fun x => !x.isFin) then (0x7FC0, xs.map (fun _ => 0), Flags.ofNanBlock)
  else if s.isZero then
    (0, xs.map (fun _ => 0), Flags.joinAll (xs.map (fun x => if x.isZero then {} else Flags.ofSat)))
  else
    let r := xs.map (code4 f s)
    (scale, r.map (·.1), Flags.joinAll (r.map (·.2)))

/-! ## Conversion by destination (R97 to R99) -/

/-- Into FP32, BF16, FP16. -/
def convFloat (f : FFmt) (x : Num) : Nat × Flags :=
  match x with
  | .fin s n d =>
    let c := f.roundCode n d
    if f.top ≤ c then (f.encode (.inf s), Flags.ofOvfInf)
    else ((if s then 2 ^ (f.width - 1) else 0) + c, {})
  | _ => (f.encode x, {})

/-- The largest finite magnitude of the narrow floats (R90). -/
def narrowMax (f : FFmt) : Nat := if f.top = 0x7F then 448 else 57344

/-- Into E4M3 and E5M2: the threshold is on the exact value. -/
def convNarrow (f : FFmt) (nanovf : Bool) (x : Num) : Nat × Flags :=
  let sgn (s : Bool) : Nat := if s then 0x80 else 0
  match x with
  | .fin s n d =>
    if narrowMax f * d < n then
      (if nanovf then (0x7F, Flags.ofOvfNan) else (sgn s + (f.top - 1), Flags.ofSat))
    else (sgn s + f.roundCode n d, {})
  | .inf s => if f.top = 0x7F then (0x7F, {}) else (sgn s + f.top, {})
  | .nan => (0x7F, {})

/-- The interval of an integer destination. -/
def intRange (f : Nat) : Int × Int :=
  if f = fINT32 then (-2147483648, 2147483647)
  else if f = fINT8 then (-128, 127)
  else (0, 65535)

/-- Into INT32, INT8, U16. -/
def convInt (f : Nat) (x : Num) : Nat × Flags :=
  let (lo, hi) := intRange f
  let w := fmtBits f
  match x with
  | .fin s n d =>
    let i := roundInt s n d
    if i < lo then (uInt w lo, Flags.ofSat)
    else if hi < i then (uInt w hi, Flags.ofSat)
    else (uInt w i, {})
  | .inf s => (uInt w (if s then lo else hi), Flags.ofSat)
  | .nan => (0, Flags.ofNanInt)

/-- Into FP32P: HI rounded, LO the remainder rounded. -/
def convPair (x : Num) : Nat × Flags :=
  let (hi, fl) := convFloat fp32 x
  match x with
  | .fin _ _ _ =>
    let h := dec32 hi
    if h.isFin then (hi * 2 ^ 32 + (convFloat fp32 (x.sub h)).1, fl) else (hi * 2 ^ 32, fl)
  | _ => (hi * 2 ^ 32, fl)

/-- A value converted into any format but the 4-bit ones (R97). -/
def conv (f : Nat) (nanovf : Bool) (x : Num) : Nat × Flags :=
  if f = fFP32P then convPair x
  else if f = fE4M3 then convNarrow e4m3 nanovf x
  else if f = fE5M2 then convNarrow e5m2 nanovf x
  else if f = fINT32 ∨ f = fINT8 ∨ f = fU16 then convInt f x
  else match ffmtOf f with
    | some ff => convFloat ff x
    | none => (0, {})

/-- A stored element of any format but the 4-bit ones, as an exact value (R89, R101). -/
def decodeElem (f bits : Nat) : Num :=
  if f = fFP32P then
    let h := dec32 (bits / 2 ^ 32 % 2 ^ 32)
    if h.isFin then
      let l := dec32 (bits % 2 ^ 32)
      -- an exact zero LO leaves HI with its sign
      if l.isZero then h else h.add l
    else h
  else if f = fINT32 then .ofInt (sInt 32 bits)
  else if f = fINT8 then .ofInt (sInt 8 bits)
  else if f = fU16 then .ofNat (bits % 65536)
  else match ffmtOf f with
    | some ff => ff.decode bits
    | none => .nan

/-! ## Pair arithmetic (R101) -/

/-- A pair: HI and LO as FP32 values. -/
structure PairNum where
  hi : Num
  lo : Num
deriving DecidableEq, Repr

def fadd (a b : Num) : Num := rnd32 (a.add b)
def fsub (a b : Num) : Num := rnd32 (a.sub b)
def fmul (a b : Num) : Num := rnd32 (a.mul b)
def ffma (a b c : Num) : Num := rnd32 ((a.mul b).add c)

/-- Any non-finite intermediate yields (that value, +0). -/
def pairOut (s e : Num) : PairNum := if s.isFin then ⟨s, e⟩ else ⟨s, .zero⟩

def fastTwoSum (a b : Num) : Num × Num :=
  let s := fadd a b
  (s, fsub b (fsub s a))

def twoSum (a b : Num) : Num × Num :=
  let s := fadd a b
  let bb := fsub s a
  (s, fadd (fsub a (fsub s bb)) (fsub b bb))

def pairAdd (a b : PairNum) : PairNum :=
  let (s, e) := twoSum a.hi b.hi
  if !s.isFin then ⟨s, .zero⟩ else
  let (t, f) := twoSum a.lo b.lo
  let e := fadd e t
  let (s, e) := fastTwoSum s e
  if !s.isFin then ⟨s, .zero⟩ else
  let e := fadd e f
  let (s, e) := fastTwoSum s e
  pairOut s e

def pairMul (a b : PairNum) : PairNum :=
  let p := fmul a.hi b.hi
  if !p.isFin then ⟨p, .zero⟩ else
  let e := ffma a.hi b.hi p.neg
  let t := ffma a.hi b.lo (fmul a.lo b.hi)
  let e := fadd e t
  let (s, e) := fastTwoSum p e
  pairOut s e

def pairNeg (a : PairNum) : PairNum := ⟨a.hi.neg, a.lo.neg⟩

/-- The exact value of a pair: HI + LO; a zero LO leaves HI with its sign, and a non-finite HI stands for itself (R98, R101). -/
def PairNum.val (a : PairNum) : Num := if a.hi.isFin && !a.lo.isZero then a.hi.add a.lo else a.hi

def pairOfBits (bits : Nat) : PairNum := ⟨dec32 (bits / 2 ^ 32 % 2 ^ 32), dec32 (bits % 2 ^ 32)⟩

def PairNum.bits (a : PairNum) : Nat := enc32 a.hi * 2 ^ 32 + (if a.hi.isFin then enc32 a.lo else 0)

end Sys2Proof.Machine
end

