-- ==== Sys2Proof/Config.lean ====
section
/-! DEFINITION. What the manual leaves open as a value: constants with no body, so that nothing proved can rest on a
number (logs 6, 7, 11). -/

namespace Sys2Proof.Config

/-- Byte i of the contents of accumulator blocks that were read before they were written (R46); the first argument is the
State's `freshCtr` (log 6). -/
opaque freeByte : Nat → Nat → Byte

/-- A logistic value that lies within 2 units in the last place of the exact FP32 value of `sig x` (R461, R223): the
offset, in units in the last place, from the correctly rounded value; used modulo 5 less 2 (log 7). -/
opaque sigOffset : W32 → Nat

/-- As `sigOffset`, for the hyperbolic tangent (log 7). -/
opaque tanhOffset : W32 → Nat

/-- Where region firmware puts an instance's argument block: its device virtual address, by global core and kernel slot
(R44; log 18). -/
opaque argBlockVA : Nat → Nat → Nat

/-- Where in its region's memory region firmware keeps the argument blocks of a region's kernel slots (R44; log 18). -/
opaque argBlockPlace : Nat → Nat

/-- A value that the manual does not state, by the place in the manual and the operands (the log entries name each). -/
opaque freeNat : Nat → List Nat → Nat

/-- Lane-repair resources of a stack's channel (R285; log 148). -/
opaque laneRepairs : Nat

/-- SHA-384 digest (R433, R439, R443): the standard is not in the manual (log 11). -/
opaque sha384 : List Byte → List Byte

/-- Whether an operator's signature over a message verifies with the given public key (R439; log 11). -/
opaque opVerify : List Byte → List Byte → List Byte → Bool

/-- Whether a firmware image's signatures verify, and are by the given vendor key (R433; log 11). -/
opaque imgVerify : Nat → List Byte → Bool

/-- The device's own signature over a message (R443; log 11). -/
opaque devSign : List Byte → List Byte

/-- Service-port session nonces (R438; log 11), by the State's `freshCtr`. -/
opaque nonce : Nat → List Byte

/-- The firmware image of a kind that slot A holds as shipped (R431; log 38). -/
opaque shippedImage : Nat → List Byte

/-- The vendor's certificates of the unit's device keys (R443; log 11). -/
opaque certificates : List Byte

end Sys2Proof.Config
end

