-- ==== Sys2Proof/Machine/Units.lean ====
section
/-! DEFINITION. The service die's parts of the state: time slots, sample engine, flash and snapshots, device time, power, module,
service port (02, 14, 15, 17, 20 to 23). -/

namespace Sys2Proof.Machine

/-! ## Time slots and links (02) -/

/-- A transfer on its way (R28 to R30, R284): its class, its priority class, its bytes, the link it waits at, the links after that, its
beats left at this link, whether a part of it has crossed, since when it waits here, when it was sent, whether it is promoted, and at a
controller its pseudo-channel (R271) and whether it writes; of a Darit frame the age in µs it arrived with and its virtual channel (R376,
R382). -/
structure Transfer where
  id : Nat
  cls : Nat
  prio : PrioClass
  bytes : Nat
  link : FabLink
  rest : List FabLink
  beats : Nat
  begun : Bool
  since : Nat
  born : Nat
  promoted : Bool
  chan : Option Nat
  write : Bool
  age : Nat
  vc : Fin 3
deriving DecidableEq, Repr

/-- The slot table and its islands (R27 to R34): `framesLeft` frame starts remain before a copied table takes effect; `aligned`:
no strobe has failed since the islands last started a frame together; `waiting`: in order of arrival at their links. -/
structure TimeSlots where
  shadow : Vector (BitVec 4) 256
  active : Vector (BitVec 4) 256
  copied : Option (Vector (BitVec 4) 256)
  framesLeft : Nat
  err : Nat
  commits : W16
  strobeLost : Bool
  strobeAbsent : Bool
  aligned : Bool
  frames : W64
  slot : Nat
  waiting : List Transfer
deriving DecidableEq, Repr

/-! ## Sample engine (14) -/

/-- A sample queue descriptor's fields (R255). -/
structure SmpDesc where
  live : Bool
  pack : Bool
  resume : Bool
  aug : Nat
  outFmt : Nat
  ctx : Nat
  tries : Nat
  event : Nat
  seed : W64
  tableBase : Nat
  samples : Nat
  outBase : Nat
  outSlots : Nat
  slotBytes : Nat
  budgetMib : Nat
  k : Nat
  floor : Nat
  initMean : Nat
  maxAgeUs : Nat
  histBase : Nat
  consAddr : Nat
  stageBase : Nat
  stageSlots : Nat
  rowTokens : Nat
  tokenBytes : Nat
  cropH : Nat
  cropW : Nat
  gainRange : W32
  noiseSigma : W32
  startEpoch : Nat
  jitterMax : Nat
  startIndex : Nat
  epochs : Nat
deriving DecidableEq, Repr

/-- A sample ready for hand-off at a position (R263, R264): header fields and payload. -/
structure SmpDone where
  try_ : Nat
  reason : Nat
  dropped : Bool
  sample : Nat
  original : Nat
  fmt : Nat
  width : Nat
  height : Nat
  frames : Nat
  channels : Nat
  rot : Nat
  flipH : Bool
  flipV : Bool
  cropY : Nat
  cropX : Nat
  jitter : Nat
  units : Nat
  captureNs : Nat
  payload : List Byte
deriving DecidableEq, Repr

/-- A position in decode: which try runs on which lane, the first failure so far, or the finished sample; `stop` is an end of the
queue that this position brings; `entry`: the try's table entry as read when its decoding began (R268), empty before; `stage`: its staging
slot (R267). -/
structure SmpWork where
  pos : Nat
  try_ : Nat
  first : Nat
  lane : Option Nat
  done : Option SmpDone
  stop : Option Nat
  entry : List Byte
  stage : Option Nat
deriving DecidableEq, Repr

/-- A sample taken into the open row (R267). -/
structure RowSeg where
  pos : Nat
  sample : Nat
  start : Nat
  length : Nat
  try_ : Nat
  reason : Nat
  units : Nat
  payload : List Byte
deriving DecidableEq, Repr

/-- A sample queue (R255 to R269); `tailBase`: SMP_Q_TAIL as it stood when the queue's positions began (R263, R269). -/
structure SmpQueue where
  descAddr : Nat
  state : Nat
  error : Nat
  pos : Nat
  tail : W32
  tailBase : W32
  desc : Option SmpDesc
  start : Nat
  hands : Nat
  rowFirst : Nat
  row : List RowSeg
  work : List SmpWork
  fails : Vector W64 8
  out : W64
  drop : W64
  sat : W64
deriving DecidableEq, Repr

/-! ## Flash and snapshots (15, 17) -/

/-- What a snapshot holds (R346). -/
structure SnapImg where
  scope : Bool
  ctx : Nat
  ctxs : List (Nat × Ctx)
  queues : List (Nat × Queue)
  cmds : List Cmd
  seqs : List (Nat × Seq)
  coils : List (Nat × Coil)
  stacked : List Host.Cell
  region : List Host.Cell
  roles : List Nat
  slots : List (BitVec 4)
  samples : List (Nat × SmpQueue)
  blocks : Nat
deriving DecidableEq, Repr, Inhabited

/-- Catalogue entry states (R354). -/
inductive SnapState where
  | empty | writing | committed
deriving DecidableEq, Repr

structure Snap where
  state : SnapState
  scope : Bool
  imported : Bool
  ctx : Nat
  label : W64
  blocks : Nat
  timeNs : Nat
  image : List Byte
  arrived : Nat
  img : Option SnapImg
deriving DecidableEq, Repr

/-- Phases of a quench (R345). -/
inductive QuenchPhase where
  | drain | capture | write
deriving DecidableEq, Repr

structure Quench where
  phase : QuenchPhase
  scope : Bool
  ctx : Nat
  q : Nat
  n : Nat
  entry : Nat
  label : W64
  redo : Bool
  img : Option SnapImg
deriving DecidableEq, Repr

/-- Flash tier states (R294). -/
inductive FlashState where
  | ready | starting | readOnly | failed
deriving DecidableEq, Repr

/-- Module flash (R287 to R294). `mapped`: the erase block that holds each logical block, and each block of a snapshot by its own key;
`cycles`: program/erase cycles of the erase blocks ever opened; `opened`: the erase block being filled and the units written in it; `reads`:
reads of each erase block since its last erase; `noSpares`: the spare blocks have run out. -/
structure Flash where
  userGb : Nat
  snap8 : Nat
  partErr : Bool
  state : FlashState
  noSpares : Bool
  readLimitK : Nat
  hostWr : W64
  mediaWr : W64
  reloc : W64
  wear : W64
  cells : List Host.Cell
  mapped : List (Nat × Nat)
  cycles : List (Nat × Nat)
  opened : Option (Nat × Nat)
  bad : List Nat
  reads : List (Nat × Nat)
  snaps : Vector Snap 16
  quench : Option Quench
  xAddr : W64
  xOff : W64
  xLen : W32
  xPort : Bool
  xSnap : Nat
  xOp : Nat
  xBusy : Bool
  xStatus : Nat
  xLast : Nat
deriving DecidableEq, Repr

/-! ## Device time (20) -/

inductive TimeState where
  | free | locked | holdover
deriving DecidableEq, Repr

structure TimeBase where
  ptmMs : Nat
  auto : Bool
  source : Nat
  active : Nat
  state : TimeState
  offset : Int
  setLo : W32
  setHi : W32
  armed : Bool
  slewNs : Int
  refPresent : Vector Bool 2
  drefPresent : Bool
  refLocal : Vector Bool 2
  drefLocal : Bool
  tenOk : Bool
  ppsOk : Bool
deriving DecidableEq, Repr

/-! ## Power (21) -/

/-- A bellows hint that is pending (R418, R419). -/
structure Hint where
  id : Nat
  ctx : Nat
  cls : Nat
  started : Bool
deriving DecidableEq, Repr

/-- A 48 V feed (R449, R450, R454): its readings, whether it is absent for load, over-voltage, reversed or shorted, its latched
STATUS_INPUT bits, READ_EIN's accumulator and count of samples, and its 1 ms mean. -/
structure FeedState where
  present : Bool
  voltDv : Nat
  currentDa : Nat
  overV : Bool
  reverse : Bool
  short : Bool
  latchOv : Bool
  latchUv : Bool
  latchOff : Bool
  ein : Nat
  samples : Nat
  msSum : Nat
  meanW : Nat
deriving DecidableEq, Repr

/-- Power, droop, thermal and module state (21, 23). `gate` and `dieGate` count gated cycles in 8; `dieSince` counts the 100 µs
samples since a die's ceiling last moved; `energyUj` is the input energy in µJ. -/
structure Power where
  pendingReq : Option Nat
  reqStatus : Nat
  current : Nat
  autoDeepest : Nat
  request : Nat
  emberUs : Nat
  glowUs : Nat
  capW : Nat
  peakW : Nat
  msSamples : List Nat
  msMeans : List Nat
  ceil : Nat
  gate : Nat
  limiter : Bool
  hintLow : Bool
  capped : Bool
  coolantWarn : Bool
  inletDc : Nat
  flowCl : Nat
  immTarget : Nat
  immMode : Bool
  slacks : List Nat
  trims : Vector Nat 200
  frozen : Vector Bool 200
  dieCeil : Vector Nat 4
  dieGate : Vector Nat 4
  dieSince : Vector Nat 4
  maxDc : Vector Nat 5
  stackHalf : Vector Bool 12
  tripped : Bool
  lastTrip : Bool
  selPoint : Nat
  selIsland : Nat
  energyUj : Nat
  attrUj : Nat
  unattr : W64
  droop : Vector W64 5
  hintMiss : W64
  cappedUs : W64
  stretch : Vector Nat 200
  hints : List Hint
  railCls : Option Nat
  ashRegion : Option Ram
  ashAcc : Option Ram
  powered : Bool
  standby : Bool
  feeds : Vector FeedState 2
  slotId : Nat
  smbAddr : Nat
  page : Nat
  cml : Bool
  alert : Bool
deriving DecidableEq, Repr

/-! ## Service (22) -/

/-- Firmware slot states (R445). -/
inductive FwState where
  | empty | staging | valid | invalid
deriving DecidableEq, Repr

structure FwSlot where
  state : FwState
  image : List Byte
deriving DecidableEq, Repr

/-- An image kind (R431, R435): its PREFERRED mark (true: B), its two slots, and the size announced by STAGE_BEGIN. -/
structure FwKind where
  preferred : Bool
  slots : Vector FwSlot 2
  size : Nat
deriving DecidableEq, Repr

/-- Out-of-service work in progress (R436, R440, R441). -/
inductive SvcWork where
  | test (kind target : Nat) (req : Instr)
  | activate (left : List Nat) (req : Instr)
deriving DecidableEq, Repr

structure Service where
  phase : Nat
  waiting : List Instr
  work : Option SvcWork
  session : Option (List Byte)
  fw : Vector FwKind 2
  runSlot : Nat
  runVersion : W32
  runSvn : Nat
  runFallback : Bool
  regionDigest : Vector (List Byte) 12
  serviceDigest : List Byte
  keptDigests : List (List Byte)
  serial : W64
  hwType : W32
  svn : Vector Nat 2
  revoked : BitVec 4
  opkey : Vector W32 48
  opLock : Bool
  opValid : BitVec 4
  fuses : List W64
  tForce : Bool
  tTarget : Nat
  tKind : Nat
  tTimeout : Nat
  tBusy : Bool
  tPass : Bool
  tStatus : Nat
  tLast : Nat
  failoverMs : Nat
deriving DecidableEq, Repr

end Sys2Proof.Machine
end

