-- ==== Sys2Proof/Machine/State.lean ====
section
/-! DEFINITION. The state of the block, the reasons to stop, and the state after reset. -/

namespace Sys2Proof.Machine

/-- Reasons to stop with a fault. -/
inductive Fault where
  /-- Never raised: the manual gives no event after which the block has no next state. -/
  | none
deriving DecidableEq, Repr

/-- Reasons to refuse a command. -/
inductive Refusal where
  /-- Raised by an arm of `exec` whose command has no meaning yet; safe: the model stops where the block goes on. -/
  | notModelled (mnemonic : String)
deriving DecidableEq, Repr

/-- The state of the block, and the model's own fields `reply`, `freshCtr` and `pending`. -/
structure State where
  cores : Vector Core 96
  argMaps : List ArgMap
  regions : Vector Region 12
  coreStore : Ram
  accMem : Ram
  regionMem : Ram
  stacked : Ram
  hostMem : List Host.Cell
  ctxs : List (Nat × Ctx)
  queues : List (Nat × Queue)
  queueGens : List (Nat × W16)
  cmds : List Cmd
  copyA : Option RegionId
  copyB : Option RegionId
  seqs : List (Nat × Seq)
  coils : List (Nat × Coil)
  mbox : Vector Mailbox 2
  ageMs : Nat
  preemptWait : Nat
  epochs : Vector EpochEntry 122
  fabric : List FabricWait
  acctWait : List (Nat × W64)
  acctPreempt : List (Nat × W64)
  acctKernels : List (Nat × W64)
  acctEnergy : List (Nat × W64)
  cntDbIgnored : W64
  cntFetchFail : W64
  log : ErrLog
  nextReq : Nat
  acceptCtr : Nat
  acceptTurn : Option Nat
  badCheckers : List Checker
  tblQueue : Nat
  tblSeq : Nat
  tblCoil : Nat
  tblPark : Nat
  timeNs : Nat
  hif : Vector Hif 2
  darit : Darit
  slots : TimeSlots
  edgeFenced : Vector Bool 4
  segFenced : Vector Bool 32
  smp : Vector SmpQueue 64
  lanesFenced : List Nat
  smpTurn : Nat
  fls : Flash
  tim : TimeBase
  pwr : Power
  svc : Service
  reply : List Byte
  freshCtr : Nat
  pending : List Instr
deriving DecidableEq, Repr

/-! ## After reset -/

/-- A FREE kernel slot: every register at the value a slot has before its first placement (R43, R62; log 3). -/
def KSlot.idle : KSlot :=
  { state := .free, ctx := 0, csUnits := 0, csBase := 0, accUnits := 0, units := [],
    s := Vector.replicate 64 0, t := Vector.replicate 32 0, ts := Vector.replicate 32 .invalid,
    p := Vector.replicate 8 false, acc := Vector.replicate 16 {}, resAge := 0, pc := 0, image := 0, hdr := {},
    cmd := none, counter := 0, bitmap := 0, pendS := [], pendP := [], atoms := [], flags := {}, spills := 0,
    trap := none, stop := none, saved := 0, inst := 0, argVA := 0, placedNo := 0, retries := [], staged := 0, round := none }

/-- A core after reset (R62; logs 2, 3). -/
def Core.reset : Core :=
  { fenced := false, accUnits := 8, coilUnits := 0, coilRows := 0, vec := .inService, vecAsked := false, vecChanges := 0, cntActive := 0,
    cntMac := 0, icache := [], lastSlot := 3, passed := Vector.replicate 4 0, anvQ := [], vecQ := [], movQ := [],
    slots := Vector.replicate 4 KSlot.idle, owner := none, point := 15, anvilAt := none, token := false, ovf := [] }

/-- A region after reset (R17, R36, R293, R370; logs 2, 3). -/
def Region.reset : Region :=
  { role := 3, roleNow := 3, rolePending := false, wdtExpiries := 0, wdtWriteErr := false, wdtPeriod := 10, atomQ := [],
    cnt := {}, pages2M := 10172, spareLanes := 0, stackLanes := 0, lanesBad := [], hot := false, stack := .training, bulkAge := 2000,
    softUsed := 0, hardUsed := 0, hardFree := 16, rowErrs := [], softRows := [], scrubPeriod := 24, scrubPasses := 0,
    scrubPos := 0, sramPos := 0, writeback := none, fieldApplied := 0, banksOut := [], busWrite := [], tcache := [], drain := false,
    outOfService := false, runSlot := 0, runVersion := 0, runSvn := 0, runFallback := false }

def Hif.reset : Hif :=
  { up := false, width := 0, speed := 0, aptEn := true, aptErr := false, aptBase := 0, evtVec := 0, evt := 0, evtEn := 0,
    bar4Gib := 256, msixWords := [], unmasked := [], pba := [], sent := [], wait := [], latches := [],
    cntBar4Refused := 0, cntCplTimeout := 0 }

def DPort.reset : DPort :=
  { enable := false, dim := 0, dir := false, st := .disabled, cause := 0, width := 0, cable := .ok, spareUsed := false,
    laneFail := 0, laneInv := 0, peerValid := false, peerPort := 0, peerNode := 0, map := [], txFlits := 0, rxFlits := 0,
    replay := 0, fecCorr := 0, fwd := 0, rxSeq := 0, lastFwd := false }

def Mailbox.reset : Mailbox :=
  { addr := 0, arg0 := 0, arg1 := 0, result := 0, busy := false, status := 0, lastOp := 0, waitOp := none, behind := false, count := 0 }

/-- The default slot table (R27). -/
def defaultClass (i : Nat) : BitVec 4 :=
  if i % 8 = 7 then 1 else if i % 32 = 3 then 2 else if i % 32 = 11 then 3
  else if i % 32 = 19 then (if i / 32 % 2 = 0 then 4 else 5) else 0

def defaultTable : Vector (BitVec 4) 256 := Vector.ofFn (fun i => defaultClass i.val)

def SmpQueue.reset : SmpQueue :=
  { descAddr := 0, state := 0, error := 0, pos := 0, tail := 0, tailBase := 0, desc := none, start := 0, hands := 0, rowFirst := 0,
    row := [], work := [], fails := Vector.replicate 8 0, out := 0, drop := 0, sat := 0 }

def Snap.reset : Snap :=
  { state := .empty, scope := false, imported := false, ctx := 0, label := 0, blocks := 0, timeNs := 0, image := [],
    arrived := 0, img := none }

/-- Flash as shipped (R294, R354; log 2). -/
def Flash.reset : Flash :=
  { userGb := 6400, snap8 := 66, partErr := false, state := .starting, noSpares := false, readLimitK := 50, hostWr := 0,
    mediaWr := 0, reloc := 0, wear := 0, cells := [], mapped := [], cycles := [], opened := none, bad := [], reads := [],
    snaps := Vector.replicate 16 Snap.reset, quench := none, xAddr := 0, xOff := 0, xLen := 0, xPort := false, xSnap := 0,
    xOp := 0, xBusy := false, xStatus := 0, xLast := 0 }

def TimeBase.reset : TimeBase :=
  { ptmMs := 10, auto := true, source := 0, active := 0, state := .free, offset := 0, setLo := 0, setHi := 0, armed := false,
    slewNs := 0, refPresent := Vector.replicate 2 false, drefPresent := false, refLocal := Vector.replicate 2 false,
    drefLocal := false, tenOk := false, ppsOk := false }

def FeedState.reset : FeedState :=
  { present := false, voltDv := 0, currentDa := 0, overV := false, reverse := false, short := false, latchOv := false,
    latchUv := false, latchOff := false, ein := 0, samples := 0, msSum := 0, meanW := 0 }

def Power.reset : Power :=
  { pendingReq := none, reqStatus := 0, current := 0, autoDeepest := 2, request := 0, emberUs := 1000, glowUs := 10,
    capW := 4000, peakW := 0, msSamples := [], msMeans := [], ceil := 15, gate := 0, limiter := false, hintLow := false,
    capped := false, coolantWarn := false, inletDc := 0, flowCl := 0, immTarget := 20, immMode := false, slacks := [],
    trims := Vector.replicate 200 0, frozen := Vector.replicate 200 false, dieCeil := Vector.replicate 4 15, dieSince := Vector.replicate 4 100,
    dieGate := Vector.replicate 4 0, maxDc := Vector.replicate 5 0, stackHalf := Vector.replicate 12 false,
    tripped := false, lastTrip := false, selPoint := 0, selIsland := 0, energyUj := 0, attrUj := 0, unattr := 0,
    droop := Vector.replicate 5 0, hintMiss := 0, cappedUs := 0, stretch := Vector.replicate 200 0, hints := [],
    railCls := none, ashRegion := none, ashAcc := none, powered := false, standby := true,
    feeds := Vector.replicate 2 FeedState.reset, slotId := 0, smbAddr := 0x60, page := 0, cml := false, alert := false }

/-- An image kind as shipped: slot A holds an image, slot B none (log 38). -/
def FwKind.reset (kind : Nat) : FwKind :=
  { preferred := false, slots := #v[{ state := .valid, image := Config.shippedImage kind }, { state := .empty, image := [] }],
    size := 0 }

def Service.reset : Service :=
  { phase := 1, waiting := [], work := none, session := none, fw := #v[FwKind.reset 1, FwKind.reset 2], runSlot := 0,
    runVersion := 0, runSvn := 0, runFallback := false, regionDigest := Vector.replicate 12 (List.replicate 48 0),
    serviceDigest := List.replicate 48 0, keptDigests := [], serial := 0, hwType := 0x96480001,
    svn := Vector.replicate 2 0, revoked := 0, opkey := Vector.replicate 48 0, opLock := false, opValid := 0, fuses := [],
    tForce := false, tTarget := 0, tKind := 0, tTimeout := 1000, tBusy := false, tPass := false, tStatus := 0, tLast := 0,
    failoverMs := 1000 }

def Ram.empty : Ram := { cells := [], bad := [] }

/-- Every register at its reset value, every RAM unwritten, nothing created, start-up not begun (R428; log 14). -/
def State.reset : State :=
  { cores := Vector.replicate 96 Core.reset, argMaps := [], regions := Vector.replicate 12 Region.reset,
    coreStore := Ram.empty, accMem := Ram.empty, regionMem := Ram.empty, stacked := Ram.empty, hostMem := [],
    ctxs := [], queues := [], queueGens := [], cmds := [], copyA := none, copyB := none, seqs := [], coils := [],
    mbox := Vector.replicate 2 Mailbox.reset, ageMs := 100, preemptWait := 10,
    epochs := Vector.replicate 122 { state := .inService, epoch := 0, lastNs := none, owed := 0, returning := false },
    fabric := [], acctWait := [], acctPreempt := [], acctKernels := [], acctEnergy := [], cntDbIgnored := 0,
    cntFetchFail := 0, log := { recs := [], head := 0, suppressed := 0, limited := [] }, nextReq := 0, acceptCtr := 0, acceptTurn := none, badCheckers := [],
    tblQueue := 0x4C0000000, tblSeq := 0x4C4000000, tblCoil := 0x4C8000000, tblPark := 0x4D0000000, timeNs := 0,
    hif := Vector.replicate 2 Hif.reset,
    darit := { ports := Vector.replicate 8 DPort.reset, sizeX := 1, sizeY := 1, sizeZ := 1, x := 0, y := 0, z := 0,
               cfgErr := false, incarnation := 0, rquery := 0, aged := 0, downTrunks := [], incs := [] },
    slots := { shadow := defaultTable, active := defaultTable, copied := none, framesLeft := 0, err := 0, commits := 0, strobeLost := false,
               strobeAbsent := false, aligned := true, frames := 0, slot := 0, waiting := [] },
    edgeFenced := Vector.replicate 4 false, segFenced := Vector.replicate 32 false,
    smp := Vector.replicate 64 SmpQueue.reset, lanesFenced := [], smpTurn := 63, fls := Flash.reset, tim := TimeBase.reset,
    pwr := Power.reset, svc := Service.reset, reply := [], freshCtr := 0, pending := [] }

end Sys2Proof.Machine
end

