-- ==== Sys2Proof/Machine/Weave.lean ====
section
/-! DEFINITION. The weave code of a check block (18, R356 to R358, R361). -/

namespace Sys2Proof.Machine

/-- A check block as stored: 256 data bits and a 32-bit check word. -/
structure Stored where
  data : W256
  check : W32
deriving DecidableEq, Repr

def parity {w : Nat} (v : BitVec w) : Bool := (List.range w).foldl (fun a i => a != v.getLsbD i) false

/-- Data row i, 16 bits (R356). -/
def dataRow (d : W256) (i : Nat) : W16 := (d >>> (16 * i)).setWidth 16

/-- Exclusive or of the 16 rows: bit j is the parity of data column j. -/
def colParity (d : W256) : W16 := (List.range 16).foldl (fun a i => a ^^^ dataRow d i) 0

/-- Bit i is the parity of data row i. -/
def rowParity (d : W256) : W16 :=
  (List.range 16).foldl (fun a i => if parity (dataRow d i) then a ||| (1#16 <<< i) else a) 0

def fill16 (b : Bool) : W16 := if b then 0xFFFF else 0

/-- The check word written with a block (R356). -/
def weaveCheck (d : W256) : W32 :=
  (rowParity d ^^^ fill16 (parity d)) ++ colParity d

def weaveEncode (d : W256) : Stored := { data := d, check := weaveCheck d }

/-- The unwritten mark (R361). -/
def unwrittenMark : Stored := { data := 0, check := 0xFFFFFFFF }

/-- Syndrome SR (R357). -/
def synRow (s : Stored) : W16 :=
  (s.check >>> 16).setWidth 16 ^^^ rowParity s.data ^^^ fill16 (parity (s.check.setWidth 16))

/-- Syndrome SC (R357). -/
def synCol (s : Stored) : W16 := s.check.setWidth 16 ^^^ colParity s.data

def popcount {w : Nat} (v : BitVec w) : Nat := (List.range w).foldl (fun n i => n + bitN (v.getLsbD i)) 0

/-- The lowest set bit, w when none. -/
def lowBit {w : Nat} (v : BitVec w) : Nat := ((List.range w).find? (fun i => v.getLsbD i)).getD w

/-- What the checker reports (R357): data with the corrected bit, if any, numbered 0 to 287. -/
inductive Checked where
  | clean (d : W256)
  | corrected (d : W256) (bit : Nat)
  | unwritten
  | error
deriving DecidableEq, Repr

def weaveDecode (s : Stored) : Checked :=
  let sr := synRow s
  let sc := synCol s
  let wr := popcount sr
  let wc := popcount sc
  if wr = 0 ∧ wc = 0 then .clean s.data
  else if wr = 1 ∧ wc = 1 then
    let n := 16 * lowBit sr + lowBit sc
    .corrected (s.data ^^^ (1#256 <<< n)) n
  else if wr = 1 ∧ wc = 0 then .corrected s.data (272 + lowBit sr)
  else if wr = 16 ∧ wc = 1 then .corrected s.data (256 + lowBit sc)
  else if 14 ≤ wc then .unwritten
  else .error

/-- Bad bits, numbered 0 to 287 as in R368, flipped in a stored block. -/
def Stored.flip (s : Stored) (bad : BitVec 288) : Stored :=
  { data := s.data ^^^ bad.setWidth 256, check := s.check ^^^ (bad >>> 256).setWidth 32 }

end Sys2Proof.Machine
end

