-- ==== Sys2Proof/Machine/Mem.lean ====
section
/-! DEFINITION. Reading and writing one RAM by check blocks (15, R277; 18, R356 to R361), and plain byte spaces. -/

namespace Sys2Proof.Machine

/-! ## Canonical form -/

/-- The 32 listed bytes of block b, if all are listed. -/
def Ram.blockBytes (m : Ram) (b : Nat) : Option (List Byte) :=
  (List.range 32).mapM (fun i => lookup m.cells (32 * b + i))

/-- The form every RAM keeps: bytes strictly rising, written blocks listed whole, bad-bit masks strictly rising and not zero. -/
def Ram.wf (m : Ram) : Bool :=
  sortedKeys m.cells && m.cells.all (fun e => (m.blockBytes (e.1 / 32)).isSome)
    && sortedKeys m.bad && m.bad.all (fun e => e.2 != 0)

/-- A byte space whose unlisted bytes read zero: strictly rising, no zero listed. -/
def spaceWf (cells : List Host.Cell) : Bool :=
  sortedKeys cells && cells.all (fun e => e.2 != 0)

/-! ## Blocks -/

/-- Block b as stored, bad bits included. -/
def Ram.stored (m : Ram) (b : Nat) : Stored :=
  let clean := match m.blockBytes b with
    | some bs => weaveEncode (BitVec.ofNat 256 (leNat bs))
    | none => unwrittenMark
  match lookup m.bad b with
  | some bad => clean.flip bad
  | none => clean

/-- What a read of block b gives (R357). -/
def Ram.check (m : Ram) (b : Nat) : Checked := weaveDecode (m.stored b)

/-- The bytes a read of block b delivers; none when it is uncorrectable. -/
def Ram.blockRead (m : Ram) (b : Nat) : Option (List Byte) :=
  match m.check b with
  | .clean d => some (leBytes 32 d.toNat)
  | .corrected d _ => some (leBytes 32 d.toNat)
  | .unwritten => none
  | .error => none

/-- The blocks that a range of bytes touches. -/
def blocksOf (addr len : Nat) : List Nat :=
  if len = 0 then [] else (List.range ((addr + len - 1) / 32 - addr / 32 + 1)).map (· + addr / 32)

/-- A read of a range; none when one of its blocks is uncorrectable. -/
def Ram.read (m : Ram) (addr len : Nat) : Option (List Byte) :=
  match (blocksOf addr len).mapM m.blockRead with
  | some bs => some ((bs.flatten.drop (addr % 32)).take len)
  | none => none

/-- A whole block written: its bytes and fresh check bits. -/
def Ram.putBlock (m : Ram) (b : Nat) (bytes : List Byte) : Ram :=
  { cells := m.cells.filter (fun e => e.1 < 32 * b)
      ++ ((List.range 32).zip bytes).map (fun e => (e.1 + 32 * b, e.2))
      ++ m.cells.filter (fun e => 32 * b + 32 ≤ e.1),
    bad := m.bad.filter (fun e => e.1 != b) }

/-- A range of blocks returned to the unwritten mark (R361). -/
def Ram.mark (m : Ram) (addr len : Nat) : Ram :=
  { cells := m.cells.filter (fun e => e.1 < addr || addr + len ≤ e.1),
    bad := m.bad.filter (fun e => e.1 < addr / 32 || (addr + len) / 32 ≤ e.1) }

/-- A block's bytes with the bytes from `addr` on replaced where they fall into block b. -/
def overlay (b : Nat) (old : List Byte) (addr : Nat) (bytes : List Byte) : List Byte :=
  (List.range 32).map (fun i =>
    let a := 32 * b + i
    if addr ≤ a ∧ a < addr + bytes.length then bytes.getD (a - addr) 0 else old.getD i 0)

/-- Whether a range of bytes covers block b whole. -/
def covers (b addr len : Nat) : Bool := addr ≤ 32 * b && 32 * b + 32 ≤ addr + len

/-- The blocks that a write covers in part. -/
def partBlocks (addr len : Nat) : List Nat := (blocksOf addr len).filter (fun b => !covers b addr len)

/-- One block of a write: whole, or read first (R277). -/
def Ram.writeBlock (m : Ram) (addr : Nat) (bytes : List Byte) (b : Nat) : Option Ram :=
  if covers b addr bytes.length then some (m.putBlock b (overlay b [] addr bytes))
  else match m.blockRead b with
    | some old => some (m.putBlock b (overlay b old addr bytes))
    | none => none

/-- A write of a range; none when a block that it covers in part is uncorrectable (R277). -/
def Ram.write (m : Ram) (addr : Nat) (bytes : List Byte) : Option Ram :=
  (blocksOf addr bytes.length).foldlM (fun r b => r.writeBlock addr bytes b) m

/-- A write that never fails: a block it covers in part and cannot read has the given bytes elsewhere. -/
def Ram.force (m : Ram) (fill : Nat → Byte) (addr : Nat) (bytes : List Byte) : Ram :=
  (blocksOf addr bytes.length).foldl (fun r b =>
    let old := (r.blockRead b).getD ((List.range 32).map (fun i => fill (32 * b + i)))
    r.putBlock b (overlay b old addr bytes)) m

/-- The blocks of a range that hold bad bits. -/
def Ram.badIn (m : Ram) (addr len : Nat) : List Nat :=
  (m.bad.map (·.1)).filter (fun b => addr / 32 ≤ b && b < (addr + len) / 32)

/-! ## Pieces: several ranges written as one, so that a block covered by them together is not read -/

/-- Bytes of block b from a list of ranges; later ranges win. -/
def piecesAt (ps : List (Nat × List Byte)) (a : Nat) : Option Byte :=
  ps.foldl (fun acc p => if p.1 ≤ a ∧ a < p.1 + p.2.length then some (p.2.getD (a - p.1) 0) else acc) none

/-- The blocks that a list of ranges touches, each once. -/
def piecesBlocks (ps : List (Nat × List Byte)) : List Nat :=
  (ps.flatMap (fun p => blocksOf p.1 p.2.length)).eraseDups

/-- The blocks that a list of ranges covers in part. -/
def piecesPart (ps : List (Nat × List Byte)) : List Nat :=
  (piecesBlocks ps).filter (fun b => !(List.range 32).all (fun i => (piecesAt ps (32 * b + i)).isSome))

def Ram.writePieces (m : Ram) (ps : List (Nat × List Byte)) : Option Ram :=
  (piecesBlocks ps).foldlM (fun r b =>
    let new := (List.range 32).map (fun i => piecesAt ps (32 * b + i))
    if new.all Option.isSome then some (r.putBlock b (new.map (·.getD 0)))
    else match r.blockRead b with
      | some old => some (r.putBlock b ((new.zip old).map (fun e => e.1.getD e.2)))
      | none => none) m

/-- As `writePieces`, but a block that cannot be read has the bytes of `fill` elsewhere. -/
def Ram.forcePieces (m : Ram) (fill : Nat → Byte) (ps : List (Nat × List Byte)) : Ram :=
  (piecesBlocks ps).foldl (fun r b =>
    let old := (r.blockRead b).getD ((List.range 32).map (fun i => fill (32 * b + i)))
    r.putBlock b (((List.range 32).map (fun i => (piecesAt ps (32 * b + i)).getD (old.getD i 0))))) m

/-! ## Byte spaces without check bits: host memory and flash -/

def spaceByte (cells : List Host.Cell) (a : Nat) : Byte := (lookup cells a).getD 0

def spaceRead (cells : List Host.Cell) (addr len : Nat) : List Byte :=
  (List.range len).map (fun i => spaceByte cells (addr + i))

def spaceWrite (cells : List Host.Cell) (addr : Nat) (bytes : List Byte) : List Host.Cell :=
  cells.filter (fun e => e.1 < addr)
    ++ (((List.range bytes.length).zip bytes).map (fun e => (e.1 + addr, e.2))).filter (fun e => e.2 != 0)
    ++ cells.filter (fun e => addr + bytes.length ≤ e.1)

end Sys2Proof.Machine
end

