-- ==== Sys2Proof/Machine/TableBytes.lean ====
section
/-! DEFINITION. The device's own tables as a reader of stacked memory finds them: queue table (16, R299), sequence table
(01, R7, R8), coil table (12, R219). -/

namespace Sys2Proof.Machine

/-- The bits of a field that holds nothing defined: free values (log 67). -/
def freeBits (table entry field now width : Nat) : Nat := Config.freeNat 18 [table, entry, field, now] % 2 ^ width

/-- A field's value where it is valid, a free value elsewhere. -/
def fieldOr (x : Option Nat) (table entry field now width : Nat) : Nat := x.getD (freeBits table entry field now width)

/-! ## Sequence descriptors (R7) -/

def SeqState.code : SeqState → Nat
  | .live => 1
  | .culling => 2

/-- A descriptor's 64 bytes. -/
def Seq.bytes (q : Seq) (id now : Nat) : List Byte :=
  leBytes 4 (0x0100 + q.state.code * 2 ^ 16 + bitN q.inFlight * 2 ^ 20 + bitN q.parent.isSome * 2 ^ 21 + bitN q.coil.isSome * 2 ^ 22
      + q.kvFormat % 32 * 2 ^ 24)
    ++ leBytes 4 (id + q.ctx % 4096 * 2 ^ 16)
    ++ leBytes 4 (fieldOr q.parent 0 id 0 now 16 + q.pool % 65536 * 2 ^ 16) ++ leBytes 4 (fieldOr q.coil 0 id 1 now 18)
    ++ leBytes 8 (q.root % 2 ^ 48) ++ leBytes 4 q.length ++ leBytes 4 (q.framePages % 65536)
    ++ leBytes 8 q.seed.toNat ++ leBytes 4 q.step.toNat ++ zeros 4 ++ leBytes 8 q.user.toNat ++ zeros 8

/-- A FREE descriptor: its version, STATE and SEQ_ID; the other fields are free values. -/
def freeSeqBytes (id now : Nat) : List Byte :=
  let f := freeBits 0 id
  leBytes 4 (0x0100 + f 2 now 2 * 2 ^ 21 + f 3 now 5 * 2 ^ 24) ++ leBytes 4 (id + f 4 now 12 * 2 ^ 16)
    ++ leBytes 4 (f 5 now 32) ++ leBytes 4 (f 6 now 18) ++ leBytes 8 (f 7 now 42 * 64) ++ leBytes 4 (f 8 now 32) ++ leBytes 4 (f 9 now 16)
    ++ leBytes 8 (f 10 now 64) ++ leBytes 4 (f 11 now 32) ++ zeros 4 ++ leBytes 8 (f 12 now 64) ++ zeros 8

/-! ## Coil entries (R219) -/

def CoilStatus.code : CoilStatus → Nat
  | .idle => 1
  | .resident => 2
  | .parked => 3
  | .parking => 4
  | .unparking => 5

/-- Whether HOME_CORE, ROW and UNIT are valid. -/
def Coil.homed (x : Coil) : Bool := x.status == .resident || x.status == .parking || x.status == .unparking

/-- An entry's 32 bytes; the park area's address stands in every entry. -/
def Coil.bytes (x : Coil) (i park now : Nat) : List Byte :=
  let at_ (v : Nat) : Option Nat := if x.homed then some v else none
  leBytes 4 (0x0100 + x.status.code * 2 ^ 16 + bitN x.pair * 2 ^ 19 + bitN x.reset * 2 ^ 20 + bitN x.threeGate * 2 ^ 21
      + bitN x.hasSeq * 2 ^ 22 + bitN x.tail * 2 ^ 23 + x.widthLog2 % 4 * 2 ^ 24)
    ++ leBytes 4 (x.ctx % 4096 + x.roundLen % 512 * 2 ^ 12 + fieldOr (at_ x.core.val) 1 i 0 now 7 * 2 ^ 21)
    ++ leBytes 4 x.roundSeq
    ++ leBytes 4 (fieldOr (at_ (x.row % 128)) 1 i 1 now 7 + fieldOr (at_ (x.unit % 8)) 1 i 2 now 3 * 2 ^ 7
      + fieldOr (if x.homed && x.pair then some (x.unitLo % 8) else none) 1 i 3 now 3 * 2 ^ 10)
    ++ leBytes 8 (park % 2 ^ 48) ++ leBytes 8 (x.steps % 2 ^ 48)

/-- A FREE entry: its version, STATUS, HAS_SEQ, TAIL, ROUND_LEN, ROUND_SEQ and the park area's address; the other fields are free values (log
6). -/
def freeCoilBytes (i park now : Nat) : List Byte :=
  let f := freeBits 1 i
  leBytes 4 (0x0100 + f 4 now 3 * 2 ^ 19 + f 5 now 2 * 2 ^ 24) ++ leBytes 4 (f 6 now 12 + f 7 now 7 * 2 ^ 21) ++ leBytes 4 0
    ++ leBytes 4 (f 8 now 13) ++ leBytes 8 (park % 2 ^ 48) ++ leBytes 8 (f 9 now 48)

/-! ## Queue table entries (R299) -/

def QState.code : QState → Nat
  | .active => 0
  | .destroying => 1
  | .destroyed => 2

/-- An entry's 64 bytes: the descriptor with the negotiated version, GENERATION and STATE. -/
def Queue.entryBytes (qu : Queue) (q : Nat) : List Byte :=
  leBytes 4 (qu.minor % 256 + qu.major % 256 * 2 ^ 8) ++ leBytes 4 q
    ++ leBytes 4 (qu.ctx % 4096 + qu.prio % 8 * 2 ^ 12 + qu.role % 4 * 2 ^ 15 + bitN qu.irqEn * 2 ^ 17) ++ leBytes 4 (qu.depth % 2 ^ 17)
    ++ leBytes 8 (qu.cmdRing % 2 ^ 48) ++ leBytes 8 (qu.cplRing % 2 ^ 48) ++ leBytes 8 (qu.statusBlock % 2 ^ 48)
    ++ leBytes 4 (qu.vector % 2048) ++ zeros 4 ++ leBytes 4 (qu.gen.toNat + qu.state.code * 2 ^ 16) ++ zeros 12

/-- The entry of a queue that is not there: GENERATION as the table keeps it, the other fields free values. -/
def noQueueBytes (q now : Nat) (gen : W16) : List Byte :=
  let f := freeBits 2 q
  leBytes 4 (f 0 now 16) ++ leBytes 4 q ++ leBytes 4 (f 1 now 18) ++ leBytes 4 (f 2 now 17) ++ leBytes 8 (f 3 now 42 * 64)
    ++ leBytes 8 (f 4 now 43 * 32) ++ leBytes 8 (f 5 now 42 * 64) ++ leBytes 4 (f 6 now 11) ++ zeros 4
    ++ leBytes 4 (gen.toNat + f 7 now 2 * 2 ^ 16) ++ zeros 12

/-! ## What a block of stacked memory reads as -/

/-- A 64-byte entry's half. -/
def halfOf (bs : List Byte) (h : Nat) : List Byte := (bs.drop (32 * h)).take 32

/-- The bytes of a block, if the checker delivers any. -/
def Checked.bytes : Checked → Option (List Byte)
  | .clean d => some (leBytes 32 d.toNat)
  | .corrected d _ => some (leBytes 32 d.toNat)
  | _ => none

/-- Block b of stacked memory where it lies in one of the device's tables: whether the entry there was lost, and its bytes. -/
def State.tableBlock (s : State) (b : Nat) : Option (Bool × List Byte) :=
  let a := 32 * b
  if s.tblQueue ≤ a && a < s.tblQueue + 64 * 2 ^ 20 then
    let q := (a - s.tblQueue) / 64
    some (false, halfOf (match lookup s.queues q with
      | some qu => qu.entryBytes q
      | none => noQueueBytes q s.freshCtr ((lookup s.queueGens q).getD 0)) ((a - s.tblQueue) / 32 % 2))
  else if s.tblSeq ≤ a && a < s.tblSeq + 64 * 65536 then
    let id := (a - s.tblSeq) / 64
    some (match lookup s.seqs id with
      | some q => (q.bad, halfOf (q.bytes id s.freshCtr) ((a - s.tblSeq) / 32 % 2))
      | none => (false, halfOf (freeSeqBytes id s.freshCtr) ((a - s.tblSeq) / 32 % 2)))
  else if s.tblCoil ≤ a && a < s.tblCoil + 32 * 262144 then
    let i := (a - s.tblCoil) / 32
    some (match lookup s.coils i with
      | some x => (x.bad, x.bytes i (s.tblPark + 2048 * i) s.freshCtr)
      | none => (false, freeCoilBytes i (s.tblPark + 2048 * i) s.freshCtr))
  else none

/-- The outcome of reading block b of stacked memory (R357): a table's block is its entry's bytes, with the bad bits that lie
there; an entry that was lost with its stack is unwritten (R337, R361). -/
def State.stackedCheck (s : State) (b : Nat) : Checked :=
  match s.tableBlock b with
  | none => s.stacked.check b
  | some (true, _) => .unwritten
  | some (false, bs) =>
    let d : W256 := BitVec.ofNat 256 (leNat bs)
    match lookup s.stacked.bad b with
    | none => .clean d
    | some bad => weaveDecode ((weaveEncode d).flip bad)

/-- Block b of stacked memory as it travels, check word and bad bits included (R359). -/
def State.stackedStored (s : State) (b : Nat) : Stored :=
  match s.tableBlock b with
  | none => s.stacked.stored b
  | some (true, _) => unwrittenMark
  | some (false, bs) => (weaveEncode (BitVec.ofNat 256 (leNat bs))).flip ((lookup s.stacked.bad b).getD 0)

/-- Whether the entry in block b of a table reads uncorrectable (R337). -/
def State.entryBad (s : State) (b : Nat) : Bool :=
  (lookup s.stacked.bad b).isSome && (s.stackedCheck b).bytes.isNone

def State.seqBad (s : State) (id : Nat) (q : Seq) : Bool :=
  q.bad || s.entryBad ((s.tblSeq + 64 * id) / 32) || s.entryBad ((s.tblSeq + 64 * id) / 32 + 1)

def State.coilBad (s : State) (i : Nat) (x : Coil) : Bool := x.bad || s.entryBad ((s.tblCoil + 32 * i) / 32)

/-- A read of a range of stacked memory; none when one of its blocks is uncorrectable. -/
def State.readStacked (s : State) (addr len : Nat) : Option (List Byte) :=
  match (blocksOf addr len).mapM (fun b => (s.stackedCheck b).bytes) with
  | some bs => some ((bs.flatten.drop (addr % 32)).take len)
  | none => none

end Sys2Proof.Machine
end

