-- ==== Sys2Proof/Machine/Ops.lean ====
section
/-! DEFINITION. The named operations over the state that the meanings share: updates of one part, the error log,
translation, reads and writes of the tiers. -/

namespace Sys2Proof.Machine

/-! ## Status codes (R6) -/

def stDone : Nat := 0x00
def stNotes : Nat := 0x01
def stData : Nat := 0x10
def stInput : Nat := 0x12
def stVersion : Nat := 0x20
def stMalformed : Nat := 0x21
def stLimit : Nat := 0x22
def stOvercommit : Nat := 0x23
def stRefcount : Nat := 0x24
def stHeld : Nat := 0x30
def stCancelled : Nat := 0x31
def stAuth : Nat := 0x40
def stBusy : Nat := 0x41
def stAbsent : Nat := 0x42

/-! ## One part of the state changed -/

def State.updCore (s : State) (c : CoreId) (f : Core → Core) : State :=
  { s with cores := s.cores.set c (f s.cores[c]) }

def State.updRegion (s : State) (g : RegionId) (f : Region → Region) : State :=
  { s with regions := s.regions.set g (f s.regions[g]) }

def State.slot (s : State) (c : CoreId) (k : KsId) : KSlot := s.cores[c].slots[k]

def State.updSlot (s : State) (c : CoreId) (k : KsId) (f : KSlot → KSlot) : State :=
  s.updCore c (fun co => { co with slots := co.slots.set k (f co.slots[k]) })

def State.updCnt (s : State) (g : RegionId) (f : RegionCnt → RegionCnt) : State :=
  s.updRegion g (fun r => { r with cnt := f r.cnt })

def State.updSeq (s : State) (i : Nat) (f : Seq → Seq) : State :=
  { s with seqs := modifyAt s.seqs i f }

def State.updCoil (s : State) (i : Nat) (f : Coil → Coil) : State :=
  { s with coils := modifyAt s.coils i f }

def State.updQueue (s : State) (q : Nat) (f : Queue → Queue) : State :=
  { s with queues := modifyAt s.queues q f }

/-- A command of the command store. -/
def State.cmd? (s : State) (q n : Nat) : Option Cmd :=
  s.cmds.find? (fun c => c.q == q && c.n == n)

def State.updCmd (s : State) (q n : Nat) (f : Cmd → Cmd) : State :=
  { s with cmds := s.cmds.map (fun c => if c.q == q && c.n == n then f c else c) }

/-! ## Places (R1) -/

def regionOfCore (c : CoreId) : RegionId := ⟨c.val / 8, by have := c.isLt; omega⟩

def dieOfRegion (g : RegionId) : DieId := ⟨g.val / 3, by have := g.isLt; omega⟩

/-- A region by number, taken modulo 12. -/
def regionN (n : Nat) : RegionId := ⟨n % 12, Nat.mod_lt _ (by decide)⟩

def coreN (n : Nat) : CoreId := ⟨n % 96, Nat.mod_lt _ (by decide)⟩

def dieN (n : Nat) : DieId := ⟨n % 4, Nat.mod_lt _ (by decide)⟩

def ksN (n : Nat) : KsId := ⟨n % 4, Nat.mod_lt _ (by decide)⟩

/-- A part's index in the epoch table (R334). -/
def partIndex : Part → Fin 122
  | .core c => ⟨c.val, by have := c.isLt; omega⟩
  | .region g => ⟨96 + g.val, by have := g.isLt; omega⟩
  | .die d => ⟨108 + d.val, by have := d.isLt; omega⟩
  | .darit p => ⟨112 + p.val, by have := p.isLt; omega⟩
  | .host h => ⟨120 + h.val, by have := h.isLt; omega⟩

def State.part (s : State) (p : Part) : EpochEntry := s.epochs[partIndex p]

def State.updPart (s : State) (p : Part) (f : EpochEntry → EpochEntry) : State :=
  { s with epochs := s.epochs.set (partIndex p) (f s.epochs[partIndex p]) }

/-- How a region answers: fenced with its die, else as its own entry says (R331, R340). -/
def State.regionState (s : State) (g : RegionId) : PartState :=
  if (s.part (.die (dieOfRegion g))).state = .fenced then .fenced
  else if (s.part (.region g)).state = .inService && (s.part (.die (dieOfRegion g))).state = .resetting then .resetting
  else (s.part (.region g)).state

/-- A core that executes: not fenced, it and its region in service. -/
def State.coreUp (s : State) (c : CoreId) : Bool :=
  !s.cores[c].fenced && (s.part (.core c)).state == .inService && s.regionState (regionOfCore c) == .inService

/-! ## The error log (R367 to R369) -/

/-- What one log record says besides time and number. -/
structure LogArgs where
  source : Nat
  cause : Nat
  status : Nat := 0
  unit : Nat := 0
  ctx : Option Nat := none
  epoch : W16 := 0
  bit : Nat := 511
  address : Nat := 0
deriving DecidableEq, Repr

def State.updHif (s : State) (h : HostPort) (f : Hif → Hif) : State :=
  { s with hif := s.hif.set h (f s.hif[h]) }

/-- An MSI-X message, of a context's completion or of the device: kept pending while its vector is masked, held while the port is down
(R399, R342). -/
def State.msix (s : State) (h : HostPort) (vec : Nat) (ctx : Option Nat := none) : State :=
  s.updHif h (fun x =>
    if !x.unmasked.contains vec then { x with pba := if x.pba.contains vec then x.pba else vec :: x.pba }
    else if !x.up then { x with wait := x.wait ++ [(vec, ctx)] }
    else { x with sent := insertAt x.sent vec ((lookup x.sent vec).getD 0 + 1) })

/-- A device event on one port: its bit, and its message when the bit is enabled (R399, R406). -/
def State.portEvent (s : State) (h : HostPort) (b : Fin 4) : State :=
  let s := s.updHif h (fun x => { x with evt := x.evt ||| BitVec.ofNat 4 (2 ^ b.val) })
  if s.hif[h].evtEn.getLsbD b.val then s.msix h s.hif[h].evtVec else s

/-- A record written: the oldest of 8,192 is overwritten (R367); one with a status raises LOG_FAIL (R406). -/
def State.logEv (s : State) (a : LogArgs) : State :=
  let s := if a.status = 0 then s else (s.portEvent 0 3).portEvent 1 3
  let r : LogRec :=
    { timeNs := s.timeNs, number := s.log.head.toNat, status := a.status, cause := a.cause,
      source := a.source, writing := false, unit := a.unit, ctx := a.ctx, epoch := a.epoch, bit := a.bit,
      address := a.address % 2 ^ 48 }
  { s with log := { s.log with recs := List.take 8192 (r :: s.log.recs), head := s.log.head + 1 } }

/-- Records already written under a limit in this second of device time. -/
def State.limitCount (s : State) (key : Nat) : Nat :=
  match s.log.limited.find? (fun e => e.1 == key) with
  | some (_, sec, n) => if sec = s.timeNs / 1000000000 then n else 0
  | none => 0

/-- A record under a limit of `max` per second for its key (R367). -/
def State.logLimited (s : State) (key max : Nat) (a : LogArgs) : State :=
  let n := s.limitCount key
  if n < max then
    let s := s.logEv a
    { s with log := { s.log with limited :=
        (key, s.timeNs / 1000000000, n + 1) :: s.log.limited.filter (fun e => e.1 != key) } }
  else { s with log := { s.log with suppressed := s.log.suppressed + 1 } }

/-- The UNIT of a record about no numbered part. -/
def wholeUnit : Nat := 0xFFFF

def State.updPwr (s : State) (f : Power → Power) : State := { s with pwr := f s.pwr }

/-- A record of SOURCE 13, POWER (R427; log 45). -/
def State.logPower (s : State) (cause unit : Nat) : State := s.logEv { source := 13, cause := cause, unit := unit }

/-- Another power state (R408). -/
def State.setPower (s : State) (code : Nat) : State :=
  if s.pwr.current = code then s else (s.updPwr (fun p => { p with current := code })).logPower 7 wholeUnit

/-- A part's number in a log record (R368). -/
def partUnit : Part → Nat
  | .core c => c.val
  | .region g => g.val
  | .die d => d.val
  | .darit p => p.val
  | .host h => h.val

/-- A PART_ABSENT answer logged, at most 256 a second (R331, R367). -/
def State.logAbsent (s : State) (p : Part) : State :=
  s.logLimited (9 * 2 ^ 32) 256 { source := 9, cause := 0, status := stAbsent, unit := partUnit p, epoch := (s.part p).epoch }

/-! ## Places of bytes -/

/-- A byte's place in one of the tiers. Core store and accumulator addresses are core times 8 MiB or 2 MiB plus the
offset of R463; region addresses are region times 32 MiB plus the offset (R297); stacked addresses are R296's. -/
inductive Loc where
  | core (a : Nat)
  | acc (a : Nat)
  | region (a : Nat)
  | stacked (a : Nat)
  | host (p : HostPort) (a : Nat)
deriving DecidableEq, Repr

def coreStoreBytes : Nat := 8388608
def accBytes : Nat := 2097152
def regionBytes : Nat := 33554432
def stackSpan : Nat := 0x500000000
def pageBytes : Nat := 2097152

/-- The part that holds a byte. -/
def Loc.home : Loc → Option RegionId
  | .core a => some (regionN (a / coreStoreBytes / 8))
  | .acc a => some (regionN (a / accBytes / 8))
  | .region a => some (regionN (a / regionBytes))
  | .stacked a => some (regionN (a / stackSpan))
  | .host _ _ => none

/-- The checker's SOURCE and UNIT for a block (R369, R463). -/
def Loc.source : Loc → Nat × Nat
  | .core a => (0, a / coreStoreBytes)
  | .acc a => (1, a / accBytes)
  | .region a => (2, a / regionBytes)
  | .stacked a => (3, a / stackSpan)
  | .host _ _ => (5, 0xFFFF)

/-- The block address as the log gives it (R463). -/
def Loc.logAddr : Loc → Nat
  | .core a => a % coreStoreBytes
  | .acc a => a % accBytes
  | .region a => a
  | .stacked a => a
  | .host _ a => a

/-- A place's address in its tier. -/
def Loc.addr : Loc → Nat
  | .core a => a
  | .acc a => a
  | .region a => a
  | .stacked a => a
  | .host _ a => a

def Loc.shift (l : Loc) (d : Nat) : Loc :=
  match l with
  | .core a => .core (a + d)
  | .acc a => .acc (a + d)
  | .region a => .region (a + d)
  | .stacked a => .stacked (a + d)
  | .host p a => .host p (a + d)

/-- What Galwin notes of an access that fails: a translation fault's context and address (R298), the range of a read whose
blocks the checkers report, or the blocks that a partial write reads first (R277, R337, R369). -/
inductive ErrNote where
  | none
  | xlate (ctx va : Nat)
  | read (l : Loc) (len : Nat)
  | part (l : Loc) (blocks : List Nat)
deriving DecidableEq, Repr

/-- Why an access fails: a status with what is noted of it, a part that resets or is fenced, a host port that is down, a
device without a route. -/
inductive AccErr where
  | status (n : Nat) (note : ErrNote)
  | resetting (g : RegionId)
  | fenced (g : RegionId)
  | hostDown (p : HostPort)
  | noRoute (node : Nat)
deriving DecidableEq, Repr

/-- Bytes of host memory behind a port: the ports' spaces lie side by side. -/
def hostKey (p : HostPort) (a : Nat) : Nat := p.val * 2 ^ 64 + a % 2 ^ 64

/-- The RAM that holds a place, and its address there. -/
def State.ramOf (s : State) : Loc → Option (Ram × Nat)
  | .core a => some (s.coreStore, a)
  | .acc a => some (s.accMem, a)
  | .region a => some (s.regionMem, a)
  | .stacked a => some (s.stacked, a)
  | .host _ _ => none

def State.putRam (s : State) (l : Loc) (m : Ram) : State :=
  match l with
  | .core _ => { s with coreStore := m }
  | .acc _ => { s with accMem := m }
  | .region _ => { s with regionMem := m }
  | .stacked _ => { s with stacked := m }
  | .host _ _ => s

/-- Whether the part that holds a place answers (R331). -/
def State.locErr (s : State) (l : Loc) : Option AccErr :=
  match l with
  | .host p _ => if s.hif[p].up then none else some (.hostDown p)
  | _ => match l.home with
    | none => none
    | some g => match s.regionState g with
      | .inService => none
      | .resetting => some (.resetting g)
      | .fenced => some (.fenced g)

/-! ## Reads (R337, R357, R360) -/

/-- A read of a range that lies within one page and one tier. -/
def State.readLoc (s : State) (l : Loc) (len : Nat) : Except AccErr (List Byte) :=
  match s.locErr l with
  | some e => .error e
  | none => match l with
    | .host p a => .ok (spaceRead s.hostMem (hostKey p a) len)
    | .stacked a => match s.readStacked a len with
      | some bs => .ok bs
      | none => .error (.status stData (.read l len))
    | _ => match s.ramOf l with
      | some (m, a) => match m.read a len with
        | some bs => .ok bs
        | none => .error (.status stData (.read l len))
      | none => .error (.status stMalformed .none)

/-- A block of stacked memory that reads corrected, written back with fresh check bits; a table's block keeps its entry, and where the
code corrects it to something else it stays as it is stored, so that it reads as before. -/
def State.mendStacked (s : State) (b : Nat) : State :=
  match s.stackedCheck b with
  | .corrected d _ =>
    match s.tableBlock b with
    | none => { s with stacked := s.stacked.putBlock b (leBytes 32 d.toNat) }
    | some (_, bs) =>
      if BitVec.ofNat 256 (leNat bs) = d then { s with stacked := { s.stacked with bad := s.stacked.bad.filter (fun e => e.1 != b) } }
      else s
  | _ => s

/-- The correctable blocks of a row mended; uncorrectable ones keep their stored bits. -/
def State.mendRow (s : State) (row : Nat) : State :=
  (s.stacked.badIn (1024 * row) 1024).foldl State.mendStacked s

/-- Row repair after an uncorrectable or the eighth correctable error of a stacked-memory row (R286): a soft repair
while spares remain, else the row stays. A row is 1 KiB of the stack (log 16). -/
def State.repairRow (s : State) (g : RegionId) (addr : Nat) : State :=
  let row := addr / 1024
  if s.regions[g].softRows.contains row then s
  else if s.regions[g].softRows.length < s.regions[g].hardFree then
    ((s.mendRow row).updRegion g (fun r => { r with
        softRows := row :: r.softRows, softUsed := satAdd 8 r.softUsed 1,
        rowErrs := r.rowErrs.filter (fun e => e.1 != row) })).logEv
      { source := 6, cause := 1, unit := g.val, address := addr }
  else s.logEv { source := 6, cause := 3, unit := g.val, address := addr }

/-- A correctable error of a row counted over 24 hours (R286). -/
def State.rowError (s : State) (g : RegionId) (addr : Nat) : State :=
  let row := addr / 1024
  let old := ((lookup s.regions[g].rowErrs row).getD []).filter (fun t => s.timeNs < t + 86400000000000)
  let s := s.updRegion g (fun r => { r with rowErrs := insertAt r.rowErrs row (s.timeNs :: old) })
  if 8 ≤ old.length + 1 then s.repairRow g addr else s

/-- What a checker's outcome at one block leaves: counts, log, repair (R286, R360, R361, R367); the checker is named by SOURCE and
UNIT. -/
def State.noteBlockBy (s : State) (src unit : Nat) (l : Loc) (c : Checked) : State :=
  let g := (l.home).getD 0
  let sram := l.source.1 != 3
  match c with
  | .clean _ => s
  | .corrected _ b =>
    let s := s.updCnt g (fun r => if sram then { r with ceSram := r.ceSram + 1 } else { r with ceHbm := r.ceHbm + 1 })
    let s := s.logLimited (src * 2 ^ 16 + unit) 1
      { source := src, cause := 1, unit := unit, bit := b, address := l.logAddr, epoch := (s.part (.region g)).epoch }
    if sram then s else s.rowError g l.logAddr
  | .unwritten =>
    s.logEv { source := src, cause := 3, status := stData, unit := unit, address := l.logAddr,
              epoch := (s.part (.region g)).epoch }
  | .error =>
    let s := s.updCnt g (fun r => if sram then { r with ueSram := r.ueSram + 1 } else { r with ueHbm := r.ueHbm + 1 })
    let s := s.logEv { source := src, cause := 2, status := stData, unit := unit, address := l.logAddr,
                       epoch := (s.part (.region g)).epoch }
    if sram then s else s.repairRow g l.logAddr

def State.noteBlock (s : State) (l : Loc) (c : Checked) : State := s.noteBlockBy l.source.1 l.source.2 l c

/-- A place with its address replaced. -/
def Loc.at (l : Loc) (a : Nat) : Loc :=
  match l with
  | .core _ => .core a
  | .acc _ => .acc a
  | .region _ => .region a
  | .stacked _ => .stacked a
  | .host p _ => .host p a

/-- The outcome of reading block b of the RAM m that holds a place. -/
def State.checkAt (s : State) (l : Loc) (m : Ram) (b : Nat) : Checked :=
  match l with
  | .stacked _ => s.stackedCheck b
  | _ => m.check b

/-- The checkers' notes of a read of a range, and the stack's count of reads (R293, R360). -/
def State.noteRead (s : State) (l : Loc) (len : Nat) : State :=
  match s.locErr l, s.ramOf l with
  | none, some (m, a) =>
    let s := (blocksOf a len).foldl (fun t b => t.noteBlock (l.at (32 * b)) (s.checkAt l m b)) s
    match l with
    | .stacked a' => s.updCnt (regionN (a' / stackSpan)) (fun r =>
        { r with memRd := r.memRd + BitVec.ofNat 64 (ceilDiv (a' % 64 + len) 64) })
    | _ => s
  | _, _ => s

/-- The checkers' notes of the blocks that a partial write reads first (R277, R360). -/
def State.noteParts (s : State) (l : Loc) (blocks : List Nat) : State :=
  match s.ramOf l with
  | some (m, _) => blocks.foldl (fun s b => s.noteBlock (l.at (32 * b)) (m.check b)) s
  | none => s

/-- A translation fault logged (R298, R369). -/
def State.logXlate (s : State) (ctx va : Nat) : State :=
  s.logEv { source := 10, cause := 2, status := stMalformed, ctx := some ctx, address := va }

/-- What a failing access leaves in the log and the counters (R298, R337, R360, R361). -/
def State.noteErr (s : State) (n : ErrNote) : State :=
  match n with
  | .none => s
  | .xlate ctx va => s.logXlate ctx va
  | .read l len => s.noteRead l len
  | .part l bs => s.noteParts l bs

/-- What a command meets that needs a descriptor or a coil entry which reads uncorrectable (R337). -/
def State.seqErr (s : State) (id : Nat) : AccErr := .status stData (.read (.stacked (s.tblSeq + 64 * id)) 64)
def State.coilErr (s : State) (i : Nat) : AccErr := .status stData (.read (.stacked (s.tblCoil + 32 * i)) 32)

/-! ## Writes (R277) -/

/-- The stacks' counts of 64-byte writes for ranges written (R293). -/
def State.countWrites (s : State) (l : Loc) (ps : List (Nat × List Byte)) : State :=
  match l with
  | .stacked _ => ps.foldl (fun s p => s.updCnt (regionN (p.1 / stackSpan)) (fun r =>
      { r with memWr := r.memWr + BitVec.ofNat 64 (ceilDiv (p.1 % 64 + p.2.length) 64) })) s
  | _ => s

/-- A write of a range that lies within one page and one tier. -/
def State.writeLoc (s : State) (l : Loc) (bytes : List Byte) : Except AccErr State :=
  match s.locErr l with
  | some e => .error e
  | none => match l with
    | .host p a => .ok { s with hostMem := spaceWrite s.hostMem (hostKey p a) bytes }
    | _ =>
      let parts := partBlocks l.addr bytes.length
      let t := s.noteParts l parts
      match t.ramOf l with
      | some (m, a) => match m.write a bytes with
        | some m' => .ok ((t.putRam l m').countWrites l [(a, bytes)])
        | none => .error (.status stData (.part l parts))
      | none => .error (.status stMalformed .none)

/-- Ranges of one tier, written as one (R277). -/
def State.writePieces (s : State) (l : Loc) (ps : List (Nat × List Byte)) : Except AccErr State :=
  let t := s.noteParts l (piecesPart ps)
  match t.ramOf l with
  | some (m, _) => match m.writePieces ps with
    | some m' => .ok ((t.putRam l m').countWrites l ps)
    | none => .error (.status stData (.part l (piecesPart ps)))
  | none => .ok { s with hostMem := ps.foldl (fun h p => spaceWrite h p.1 p.2) s.hostMem }

/-- Several ranges in any tiers, written as one: nothing is written unless every range can be. -/
def State.writeAll (s : State) (ws : List (Loc × List Byte)) : Except AccErr State := do
  match ws.findSome? (fun w => s.locErr w.1) with
  | some e => .error e
  | none =>
    let pick (f : Loc → Option (Nat)) : List (Nat × List Byte) := ws.filterMap (fun w => (f w.1).map (fun a => (a, w.2)))
    let s ← s.writePieces (.core 0) (pick (fun l => match l with | .core a => some a | _ => none))
    let s ← s.writePieces (.acc 0) (pick (fun l => match l with | .acc a => some a | _ => none))
    let s ← s.writePieces (.region 0) (pick (fun l => match l with | .region a => some a | _ => none))
    let s ← s.writePieces (.stacked 0) (pick (fun l => match l with | .stacked a => some a | _ => none))
    s.writePieces (.host 0 0) (pick (fun l => match l with | .host p a => some (hostKey p a) | _ => none))

/-! ## Address translation (R296 to R298) -/

/-- Whether a stacked-memory address exists (R296). -/
def State.stackedOk (s : State) (a : Nat) : Bool :=
  a / stackSpan < 12 && a % stackSpan < s.regions[regionN (a / stackSpan)].pages2M * pageBytes

/-- One 8-byte table entry in stacked memory. -/
def State.entryAt (s : State) (a : Nat) : Except AccErr Nat :=
  if s.stackedOk a then (s.readLoc (.stacked a) 8).map leNat else .error (.status stMalformed .none)

/-- NEXT of a top or middle entry (R297). -/
def tableNext (e : Nat) : Option Nat :=
  if bit e 0 && fld e 63 40 == 0 && fld e 11 1 == 0 then some (fld e 39 12 * 4096) else none

/-- The leaf entry of a page by the walk of three tables (R297). -/
def State.walk (s : State) (root va : Nat) : Except AccErr Nat := do
  let top ← s.entryAt (root + 8 * fld va 47 39)
  match tableNext top with
  | none => .error (.status stMalformed .none)
  | some mid =>
    let m ← s.entryAt (mid + 8 * fld va 38 30)
    match tableNext m with
    | none => .error (.status stMalformed .none)
    | some leaf => s.entryAt (leaf + 8 * fld va 29 21)

/-- The place a leaf entry gives a virtual address (R297, R298). -/
def State.leafLoc (s : State) (e va : Nat) (write : Bool) : Option Loc :=
  let a := fld e 63 21 * pageBytes + va % pageBytes
  if !bit e 0 || fld e 20 5 != 0 || fld e 3 2 == 3 || (write && !bit e 1) then none
  else if fld e 3 2 = 0 then (if bit e 4 then none else if s.stackedOk a then some (.stacked a) else none)
  else if fld e 3 2 = 1 then (if bit e 4 then none else if a < 12 * regionBytes then some (.region a) else none)
  else some (.host (if bit e 4 then 1 else 0) a)

/-- A region's cached leaf entry for a page (R298). -/
def State.cached (s : State) (g : Option RegionId) (ctx va : Nat) : Option Nat :=
  match g with
  | none => none
  | some g => (s.regions[g].tcache.find? (fun e => e.1 == ctx && e.2.1 == va / pageBytes)).map (fun e => e.2.2.toNat)

/-- The place of a virtual address that lies in the argument block of a placed instance (R44; log 18). -/
def State.argLoc (s : State) (ctx va : Nat) : Option Loc :=
  (s.argMaps.find? (fun a => a.ctx == ctx && a.va ≤ va && va < a.va + a.len)).map (fun a => .region (a.addr + (va - a.va)))

/-- A virtual address of a context translated, for an access that region g's controller makes; none: by no controller. -/
def State.xlate (s : State) (g : Option RegionId) (ctx va : Nat) (write : Bool) : Except AccErr Loc :=
  let fault : Except AccErr Loc := .error (.status stMalformed (.xlate ctx va))
  match lookup s.ctxs ctx with
  | none => fault
  | some c =>
    if 2 ^ 48 ≤ va then fault else
    match s.argLoc ctx va with
    | some l => .ok l
    | none =>
    match (match s.cached g ctx va with
      | some e => Except.ok e
      | none => s.walk c.root va) with
    | .error (.status _ .none) => fault
    | .error e => .error e
    | .ok e => match s.leafLoc e va write with
      | some l => .ok l
      | none => fault

/-- A page's leaf entry kept in a region's cache after a translation (R298, R313). -/
def State.cacheFill (s : State) (g : RegionId) (ctx va : Nat) : State :=
  match s.cached (some g) ctx va, lookup s.ctxs ctx with
  | none, some c => match s.walk c.root va with
    | .ok e => if (s.leafLoc e va false).isSome then
        s.updRegion g (fun r => { r with tcache := (ctx, va / pageBytes, BitVec.ofNat 64 e) :: r.tcache })
      else s
    | .error _ => s
  | _, _ => s

/-- A virtual range cut at page edges: fuel, address, length. -/
def cutPages : Nat → Nat → Nat → List (Nat × Nat)
  | 0, _, _ => []
  | f + 1, va, len =>
    if len = 0 then [] else
    let n := min len (pageBytes - va % pageBytes)
    (va, n) :: cutPages f (va + n) (len - n)

def pagesOf (va len : Nat) : List (Nat × Nat) := cutPages (len / pageBytes + 2) va len

/-- Whether a range begins in an argument block and goes on past its end. -/
def State.pastArgs (s : State) (ctx va len : Nat) : Bool :=
  s.argMaps.any (fun a => a.ctx == ctx && a.va ≤ va && va < a.va + a.len && a.va + a.len < va + len)

/-- The places of a virtual range, page by page; past the end of an argument block nothing is mapped (log 18). -/
def State.xlateRange (s : State) (g : Option RegionId) (ctx va len : Nat) (write : Bool) :
    Except AccErr (List (Loc × Nat)) :=
  (pagesOf va len).mapM (fun p =>
    if s.pastArgs ctx p.1 p.2 then .error (.status stMalformed (.xlate ctx p.1))
    else (s.xlate g ctx p.1 write).map (fun l => (l, p.2)))

/-- Bytes of several places in turn. -/
def State.readLocs (s : State) (ls : List (Loc × Nat)) : Except AccErr (List Byte) :=
  (ls.mapM (fun l => s.readLoc l.1 l.2)).map List.flatten

def State.readVirt (s : State) (g : Option RegionId) (ctx va len : Nat) : Except AccErr (List Byte) := do
  let ls ← s.xlateRange g ctx va len false
  s.readLocs ls

/-- Bytes dealt out to places. -/
def dealOut : List (Loc × Nat) → List Byte → List (Loc × List Byte)
  | [], _ => []
  | (l, n) :: r, bs => (l, bs.take n) :: dealOut r (bs.drop n)

def State.writeVirt (s : State) (g : Option RegionId) (ctx va : Nat) (bytes : List Byte) : Except AccErr State := do
  let ls ← s.xlateRange g ctx va bytes.length true
  s.writeAll (dealOut ls bytes)

/-- The checkers' notes of a virtual read, and the caching of its pages. -/
def State.noteVirt (s : State) (g : Option RegionId) (ctx va len : Nat) : State :=
  match s.xlateRange g ctx va len false with
  | .error _ => s
  | .ok ls =>
    let s := ls.foldl (fun s l => s.noteRead l.1 l.2) s
    match g with
    | some g => (pagesOf va len).foldl (fun s p => s.cacheFill g ctx p.1) s
    | none => s

/-! ## Counters -/

/-- A per-context 64-bit counter raised (R321). -/
def bump (t : List (Nat × W64)) (i : Nat) (n : W64) : List (Nat × W64) :=
  insertAt t i ((lookup t i).getD 0 + n)

/-- READY (R403, R428). -/
def State.isReady (s : State) : Bool := s.svc.phase == 8

/-- A fresh place in the sequence of free values (log 6). -/
def State.fresh (s : State) : State := { s with freshCtr := s.freshCtr + 1 }

end Sys2Proof.Machine
end

