-- ==== Sys2Proof/Machine/Words.lean ====
section
/-! DEFINITION. The instruction word: its fields, the rows it belongs to, and the checks 1 to 4 of R66 (04, R63 to R66, R72, R73). -/

namespace Sys2Proof.Machine

/-! ## Fields (R63, R64, R73) -/

def wOp (w : W128) : Nat := fld w.toNat 9 0
def wPred (w : W128) : Nat := fld w.toNat 12 10
def wPneg (w : W128) : Bool := bit w.toNat 13
def wFunc (w : W128) : Nat := fld w.toNat 63 56
def wMode (w : W128) (i : Nat) : Bool := bit w.toNat (48 + i)
def wAcc (w : W128) : Nat := fld w.toNat 47 44
def wTC (w : W128) : Fin 32 := ⟨fld w.toNat 40 36 % 32, Nat.mod_lt _ (by decide)⟩
def wTB (w : W128) : Fin 32 := ⟨fld w.toNat 35 31 % 32, Nat.mod_lt _ (by decide)⟩
def wTA (w : W128) : Fin 32 := ⟨fld w.toNat 30 26 % 32, Nat.mod_lt _ (by decide)⟩
def wTD (w : W128) : Fin 32 := ⟨fld w.toNat 25 21 % 32, Nat.mod_lt _ (by decide)⟩
def wTE (w : W128) : Fin 32 := ⟨fld w.toNat 68 64 % 32, Nat.mod_lt _ (by decide)⟩
/-- A 6-bit scalar register field from bit lo. -/
def wReg (w : W128) (lo : Nat) : Fin 64 := ⟨fld w.toNat (lo + 5) lo % 64, Nat.mod_lt _ (by decide)⟩
def wImm (w : W128) : Nat := fld w.toNat 127 64
def wHigh32 (w : W128) : Nat := fld w.toNat 127 96
def wPD (w : W128) : Fin 8 := ⟨fld w.toNat 37 35 % 8, Nat.mod_lt _ (by decide)⟩

/-- The rows of the opcode map, split as the command table splits them. -/
inductive RowKind where
  | fence | fenceEnd | claim | commit | scalar | branch
  | ldt | ldtGather | ldtWindow | stt | sttContrib | movt | kvapp
  | vopTile | window | norm | measure | cast | rot | argmax | gumbel
  | mma | mma3 | cmma | score | step
deriving DecidableEq, Repr

/-- The row of a word; none: an unassigned opcode (R65). -/
def rowOf (w : W128) : Option RowKind :=
  let f := wFunc w
  match wOp w with
  | 0x001 => some (if bit f 5 then .fenceEnd else .fence)
  | 0x002 => some .claim
  | 0x003 => some .commit
  | 0x010 => some .scalar
  | 0x011 => some .branch
  | 0x040 => some (if f = 1 then .ldtGather else if f = 2 then .ldtWindow else .ldt)
  | 0x041 => some (if f = 1 then .sttContrib else .stt)
  | 0x042 => some .movt
  | 0x048 => some .kvapp
  | 0x080 => some (if f = 0x10 then .window else .vopTile)
  | 0x081 => some .norm
  | 0x082 => some .measure
  | 0x083 => some .cast
  | 0x084 => some .rot
  | 0x088 => some .argmax
  | 0x089 => some .gumbel
  | 0x100 => some .mma
  | 0x101 => some .mma3
  | 0x102 => some .cmma
  | 0x108 => some .score
  | 0x110 => some .step
  | _ => none

/-! ## Reserved and unused fields (R64) -/

/-- The union of bit ranges as a mask. -/
def maskOf (rs : List (Nat × Nat)) : W128 :=
  rs.foldl (fun m r => m ||| (BitVec.ofNat 128 ((2 ^ (r.1 - r.2 + 1) - 1) * 2 ^ r.2))) 0

/-- Bits every instruction uses: OPCODE, PRED, PNEG, FUNC. -/
def baseBits : List (Nat × Nat) := [(13, 0), (63, 56)]

def bTD : Nat × Nat := (25, 21)
def bTA : Nat × Nat := (30, 26)
def bTB : Nat × Nat := (35, 31)
def bTC : Nat × Nat := (40, 36)
def bACC : Nat × Nat := (47, 44)
def bMode (i : Nat) : Nat × Nat := (48 + i, 48 + i)
def bSD : Nat × Nat := (55, 50)
def bSA : Nat × Nat := (49, 44)
def bSB : Nat × Nat := (43, 38)
def bPD : Nat × Nat := (37, 35)
def bIMM : Nat × Nat := (127, 64)

/-- The fields that some FUNC of the row's opcode uses (R64, first level). -/
def opcodeBits : RowKind → List (Nat × Nat)
  | .fence | .fenceEnd => [(13, 0), (61, 56)]
  | .claim => baseBits ++ [bIMM, bSD, bSA]
  | .commit => baseBits ++ [bSA, bSB, bPD]
  | .scalar => baseBits ++ [bIMM, bSD, bSA, bSB, bPD]
  | .branch => baseBits ++ [bIMM, bSA]
  | .ldt | .ldtGather | .ldtWindow => baseBits ++ [bTD, bTA, bMode 3, bMode 4, (93, 64)]
  | .stt | .sttContrib => baseBits ++ [bTD, bTA, bACC, bMode 1, (75, 64)]
  | .movt => baseBits ++ [bTD, bTA, (69, 64), (127, 96)]
  | .kvapp => baseBits ++ [bTA, bACC, bMode 1, bMode 3, bMode 4, bMode 5, bMode 6, (87, 64)]
  | .vopTile | .window =>
    baseBits ++ [bTD, bTA, bTB, bTC, bACC, bMode 1, bMode 3, bMode 4, bMode 5, (95, 64)]
  | .norm => baseBits ++ [bTD, bTA, bTC, bMode 3]
  | .measure => baseBits ++ [bTD, bTA, bTB, bACC, bMode 1]
  | .cast => baseBits ++ [bTD, bTA, bTB, bTC, bACC, bMode 1, bMode 3, bMode 4, bMode 5]
  | .rot => baseBits ++ [bTD, bTA]
  | .argmax => baseBits ++ [bTD, bTA]
  | .gumbel => baseBits ++ [bTD, bTA, (127, 96), (75, 64)]
  | .mma => baseBits ++ [bTA, bTB, bACC, bMode 0, bMode 2, bMode 3, (75, 64)]
  | .mma3 => baseBits ++ [bTA, bTB, bACC, bMode 0, bMode 2, (75, 64)]
  | .cmma => baseBits ++ [bTA, bTB, bTC, bACC, bMode 0, bMode 2, (68, 64)]
  | .score => baseBits ++ [bTD, bTA, bTB, bTC, bMode 3, bMode 4, (127, 66)]
  | .step => baseBits ++ [bTD, bTA, bTB, bACC, bMode 3, bMode 4, bMode 5, (75, 64)]

/-- Whether FUNC is defined for the opcode (R66, check 3). -/
def funcDefined (w : W128) : RowKind → Bool
  | .fence | .fenceEnd => true
  | .claim | .commit | .kvapp | .norm | .cast | .argmax | .gumbel | .mma | .mma3 => wFunc w == 0
  | .scalar =>
    let c := wFunc w % 128
    let immediate := decide (128 ≤ wFunc w)
    (c ≤ 0x0E || (0x10 ≤ c && c ≤ 0x15) || c == 0x1F) || ((c == 0x18 || c == 0x19) && immediate)
  | .branch | .cmma | .step => wFunc w ≤ 1
  | .ldt => wFunc w == 0
  | .ldtGather | .ldtWindow | .sttContrib | .window => true
  | .stt => wFunc w == 0
  | .movt | .measure | .score => wFunc w ≤ 3
  | .vopTile => wFunc w ≤ 0x0F
  | .rot => wFunc w ≤ 2

/-- The fields that this FUNC and these MODE bits use (R64, second level; R66, check 4). -/
def funcBits (w : W128) : RowKind → List (Nat × Nat)
  | .fence | .fenceEnd => [(13, 0), (61, 56)]
  | .claim => baseBits ++ [bIMM, bSD, bSA]
  | .commit => baseBits ++ [bSA, bSB, bPD]
  | .scalar =>
    let c := wFunc w % 128
    let immediate := decide (128 ≤ wFunc w)
    let src := if immediate then [bIMM] else [bSB]
    if c = 0x1F then baseBits ++ [bIMM, bSD]
    else if c = 0x18 then baseBits ++ [bIMM, bSA, bSD]
    else if c = 0x19 then baseBits ++ [bIMM, bSA, bSB]
    else if 0x10 ≤ c then baseBits ++ src ++ [bSA, bPD]
    else baseBits ++ src ++ [bSA, bSD]
  | .branch => baseBits ++ [bIMM] ++ (if wFunc w = 1 then [bSA] else [])
  | .ldt => baseBits ++ [bTD, bTA]
  | .ldtGather => baseBits ++ [bTD, bMode 3, bMode 4, (93, 64)]
  | .ldtWindow => baseBits ++ [bTD, bTA, bMode 3, (75, 64)]
  | .stt => baseBits ++ [bTD, bMode 1] ++ (if wMode w 1 then [bACC] else [bTA])
  | .sttContrib => baseBits ++ [bTD, bMode 1, (75, 64)] ++ (if wMode w 1 then [bACC] else [bTA])
  | .movt =>
    baseBits ++ [bTD] ++ (if wFunc w = 0 then [bTA]
      else if wFunc w = 1 then [(69, 64), (127, 96)] else [bTA, (69, 64), (127, 96)])
  | .kvapp =>
    baseBits ++ [bMode 1, bMode 3, bMode 6, (87, 64)]
      ++ (if wMode w 1 then [bACC, bMode 4, bMode 5] else [bTA])
  | .vopTile =>
    let f := wFunc w
    let two := (1 ≤ f && f ≤ 6)
    let rowRed := f == 0x0E || f == 0x0F
    baseBits ++ [bTD, bMode 1]
      ++ (if wMode w 1 then [bACC] else [bTA])
      ++ (if two then [bMode 3, bMode 4] ++ (if wMode w 4 then [(95, 64)] else [bTB]) else [])
      ++ (if f = 4 then [bMode 5, bTC] else [])
      ++ (if rowRed && wMode w 1 then [bTB] else [])
  | .window => baseBits ++ [bTD, bTA, bTB, bMode 5, (75, 64)] ++ (if wMode w 5 then [bTC] else [])
  | .norm => baseBits ++ [bTD, bTA, bTC, bMode 3]
  | .measure => baseBits ++ [bTD, bMode 1] ++ (if wMode w 1 then [bACC, bTB] else [bTA])
  | .cast =>
    baseBits ++ [bTD, bMode 1, bMode 3, bMode 4, bMode 5] ++ (if wMode w 1 then [bACC] else [bTA])
      ++ (if wMode w 3 then [bTB] else []) ++ (if wMode w 4 then [bTC] else [])
  | .rot => baseBits ++ [bTD, bTA]
  | .argmax => baseBits ++ [bTD, bTA]
  | .gumbel => baseBits ++ [bTD, bTA, (127, 96), (75, 64)]
  | .mma =>
    baseBits ++ [bTA, bTB, bMode 2, bMode 3] ++ (if wMode w 2 then [(75, 64)] else [bACC, bMode 0])
  | .mma3 =>
    baseBits ++ [bTA, bTB, bMode 2] ++ (if wMode w 2 then [(75, 64)] else [bACC, bMode 0])
  | .cmma => baseBits ++ [bTA, bTB, bTC, bACC, bMode 0, bMode 2, (68, 64)]
  | .score =>
    baseBits ++ [bTD, bTA, bTB, bTC, bMode 3, bMode 4, (127, 78)] ++ (if wMode w 4 then [(77, 66)] else [])
  | .step =>
    baseBits ++ [bTA, bTB, bACC, bMode 3, bMode 4, bMode 5, (75, 64)] ++ (if wMode w 5 then [bTD] else [])

/-- Checks 1 and 2 of R66: the status of the trap, if any. -/
def check12 (w : W128) : Option Nat :=
  match rowOf w with
  | none => some 0x21
  | some r => if w &&& ~~~ (maskOf (opcodeBits r)) = 0 then none else some 0x20

/-- Checks 3 and 4 of R66. -/
def check34 (w : W128) (r : RowKind) : Option Nat :=
  if !funcDefined w r then some 0x21
  else if w &&& ~~~ (maskOf (funcBits w r)) = 0 then none else some 0x20

/-! ## What an instruction reads and writes of the register files (R48) -/

/-- Scalar registers read. -/
def scalarsRead (w : W128) : RowKind → List (Fin 64)
  | .fence | .fenceEnd => []
  | .claim => [wReg w 44]
  | .commit => [wReg w 44, wReg w 38]
  | .scalar =>
    let c := wFunc w % 128
    if c = 0x1F then []
    else if c = 0x18 then [wReg w 44]
    else if c = 0x19 then [wReg w 44, wReg w 38]
    else if 128 ≤ wFunc w then [wReg w 44] else [wReg w 44, wReg w 38]
  | .branch => if wFunc w = 1 then [wReg w 44] else []
  | .ldt | .stt => []
  | .ldtGather => [wReg w 64, wReg w 70, wReg w 76, wReg w 82, wReg w 88]
  | .kvapp => [wReg w 64, wReg w 70, wReg w 76, wReg w 82]
  | .ldtWindow | .window | .sttContrib => [wReg w 64, wReg w 70]
  | .movt => if wFunc w = 0 then [] else [wReg w 64]
  | .vopTile | .norm | .measure | .cast | .rot | .argmax => []
  | .gumbel => [wReg w 64, wReg w 70]
  | .mma | .mma3 => if wMode w 2 then [wReg w 64, wReg w 70] else []
  | .cmma => []
  | .score =>
    (if wFunc w = 0 && !wMode w 4 then [] else [wReg w 90, wReg w 84])
      ++ (if 2 ≤ wFunc w then [wReg w 78] else []) ++ (if wMode w 4 then [wReg w 72, wReg w 66] else [])
  | .step => [wReg w 64, wReg w 70]

/-- Scalar registers written. -/
def scalarsWritten (w : W128) : RowKind → List (Fin 64)
  | .claim => [wReg w 50]
  | .scalar =>
    let c := wFunc w % 128
    if c = 0x19 || (0x10 ≤ c && c ≤ 0x15) then [] else [wReg w 50]
  | _ => []

/-- Predicate registers written. -/
def predsWritten (w : W128) : RowKind → List (Fin 8)
  | .commit => [wPD w]
  | .scalar => let c := wFunc w % 128; if 0x10 ≤ c && c ≤ 0x15 then [wPD w] else []
  | _ => []

/-- Tile descriptors whose tile or register is read. -/
def tilesRead (w : W128) : RowKind → List (Fin 32)
  | .fence | .fenceEnd | .claim | .commit | .scalar | .branch | .ldtGather => []
  | .ldt | .ldtWindow => [wTA w]
  | .stt | .sttContrib | .kvapp => if wMode w 1 then [] else [wTA w]
  | .movt => if wFunc w = 1 then [] else [wTA w]
  | .vopTile =>
    let f := wFunc w
    (if wMode w 1 then [] else [wTA w])
      ++ (if (1 ≤ f && f ≤ 6) && !wMode w 4 then [wTB w] else [])
      ++ (if f = 4 then [wTC w] else [])
      ++ (if (f = 0x0E || f = 0x0F) && wMode w 1 then [wTB w] else [])
  | .window => [wTA w, wTB w] ++ (if wMode w 5 then [wTC w] else [])
  | .norm => [wTA w, wTC w]
  | .measure => if wMode w 1 then [wTB w] else [wTA w]
  | .cast =>
    (if wMode w 1 then [] else [wTA w]) ++ (if wMode w 3 then [wTB w] else []) ++ (if wMode w 4 then [wTC w] else [])
  | .rot | .argmax | .gumbel => [wTA w]
  | .mma | .mma3 => [wTA w, wTB w]
  | .cmma => [wTA w, wTB w, wTC w, wTE w]
  | .score => [wTA w, wTB w] ++ (if wMode w 3 then [wTC w] else [])
  | .step => [wTA w, wTB w]

/-- Tile descriptors whose tile is written. -/
def tilesWritten (w : W128) : RowKind → List (Fin 32)
  | .fence | .fenceEnd | .claim | .commit | .scalar | .branch | .kvapp | .mma | .mma3 | .cmma | .movt => []
  | .score => [wTD w, wTC w]
  | .step => if wMode w 5 then [wTD w] else []
  | .ldt | .ldtGather | .ldtWindow | .stt | .sttContrib | .vopTile | .window | .norm | .measure | .cast | .rot
  | .argmax | .gumbel => [wTD w]

/-- Tile descriptor registers written by MOVT (R49). -/
def descsWritten (w : W128) : RowKind → List (Fin 32)
  | .movt => [wTD w]
  | _ => []

end Sys2Proof.Machine
end

