-- ==== Sys2Proof/Machine/Kernel.lean ====
section
/-! DEFINITION. Kernel slots: placement values, traps, release, and the issue rule that every kernel instruction
passes (03, R43 to R60; 04, R66). -/

namespace Sys2Proof.Machine

/-- A predicate register read: p0 reads 1 (R44). -/
def KSlot.pred (k : KSlot) (i : Nat) : Bool := if i % 8 = 0 then true else k.p[i % 8]'(Nat.mod_lt _ (by decide))

/-- A predicate register written: a write to p0 is discarded (R44, R84). -/
def KSlot.setPred (k : KSlot) (i : Nat) (v : Bool) : KSlot :=
  if i % 8 = 0 then k else { k with p := k.p.set (i % 8) v (Nat.mod_lt _ (by decide)) }

def KSlot.setS (k : KSlot) (i : Fin 64) (v : W64) : KSlot := { k with s := k.s.set i v }

/-- Bytes of the core store allocation (s63 at launch). -/
def KSlot.csBytes (k : KSlot) : Nat := k.csUnits * 65536

/-! ## In-flight instructions (R48 to R50) -/

def State.inFlightOf (s : State) (c : CoreId) (k : KsId) : List InFlight :=
  (s.cores[c].anvQ ++ s.cores[c].vecQ ++ s.cores[c].movQ).filter (fun e => e.ks == k)

def Core.queueOf (co : Core) : Engine → List InFlight
  | .anvil => co.anvQ
  | .vector => co.vecQ
  | .mover => co.movQ

def Core.setQueue (co : Core) (e : Engine) (q : List InFlight) : Core :=
  match e with
  | .anvil => { co with anvQ := q }
  | .vector => { co with vecQ := q }
  | .mover => { co with movQ := q }

/-- The kernel slot that sent a request. -/
def AtomReq.slot : AtomReq → CoreId × KsId
  | .claim _ c k _ _ => (c, k)
  | .commit _ c k _ _ => (c, k)
  | .contrib _ c k _ _ _ _ _ _ _ _ => (c, k)

/-- Whether a request comes from a kernel slot. -/
def AtomReq.of (r : AtomReq) (c : CoreId) (k : KsId) : Bool := r.slot == (c, k)

/-- An amount of 0 to n that the manual leaves open: what a discarded instruction had done when it was discarded (log 124). -/
def State.partOf (s : State) (c : CoreId) (n : Nat) : Nat := Config.freeNat 19 [c.val, n, s.freshCtr] % (n + 1)

/-- The counts that an anvil instruction leaves which is discarded while it executes: it is the oldest of its queue (R50, R126). -/
def State.countPart (s : State) (c : CoreId) (p : InFlight → Bool) : State :=
  match s.cores[c].anvQ with
  | x :: _ =>
    if p x then
      (s.updCore c (fun co => { co with
        cntActive := co.cntActive + BitVec.ofNat 64 (s.partOf c x.cycles)
        cntMac := co.cntMac + s.partOf c x.macs })).fresh
    else s
  | [] => s

/-- Entries removed from every engine queue: those not begun leave nothing behind (R60, R109). -/
def State.dropEntries (s : State) (c : CoreId) (p : InFlight → Bool) : State :=
  (s.countPart c p).updCore c (fun co => { co with
    anvQ := co.anvQ.filter (fun e => !p e)
    vecQ := co.vecQ.filter (fun e => !p e)
    movQ := co.movQ.filter (fun e => !p e) })

/-- Requests removed from the atomic units' queues. -/
def State.dropRequests (s : State) (p : AtomReq → Bool) : State :=
  { s with regions := s.regions.map (fun r => { r with atomQ := r.atomQ.filter (fun x => !p x) }) }

/-- A kernel slot's entries removed from every engine queue, and its requests from the atomic units (log 23). -/
def State.discardQueues (s : State) (c : CoreId) (k : KsId) : State :=
  (s.dropRequests (fun x => x.of c k)).dropEntries c (fun e => e.ks == k)

/-- Issued, incomplete instructions discarded: their tiles become INVALID (R49, R60). -/
def State.discardIssued (s : State) (c : CoreId) (k : KsId) : State :=
  (s.discardQueues c k).updSlot c k (fun sl => { sl with
    ts := sl.ts.map (fun t => if t = .pending then .invalid else t)
    pendS := []
    pendP := []
    atoms := []
    retries := [] })

/-! ## Leaving a kernel slot -/

/-- A FREE slot: its flags and counts can still be read (R104, R144, R195). -/
def KSlot.freed (sl : KSlot) : KSlot := { KSlot.idle with flags := sl.flags, spills := sl.spills }

/-- A vector engine test that was asked for begins once no resident image needs the engine (R123). -/
def Core.settleVec (co : Core) : Core :=
  if co.vec == .inService && co.vecAsked && !co.slots.toList.any (fun sl => sl.state != .free && sl.hdr.vecOps) then
    { co with vec := .underTest, vecAsked := false, vecChanges := satAdd 16 co.vecChanges 1 }
  else co

/-- The slot made FREE, with the mapping of its argument block. -/
def State.clearSlot (s : State) (c : CoreId) (k : KsId) : State :=
  { ((s.discardQueues c k).updSlot c k KSlot.freed).updCore c Core.settleVec with argMaps := s.argMaps.filter (fun a => !(a.core == c && a.ks == k)) }

/-- A kernel slot made FREE, its flags folded into its command (R43, R105, R144, R189). -/
def State.freeSlot (s : State) (c : CoreId) (k : KsId) : State :=
  let sl := s.slot c k
  let s := match sl.cmd with
    | some (q, n) => s.updCmd q n (fun cm => { cm with
        flags := cm.flags.join sl.flags
        insts := cm.insts.map (fun (i : Inst) =>
          if i.placed = some (c, k) && !i.ended then { i with flags := i.flags.join sl.flags } else i) })
    | none => s
  s.clearSlot c k

/-- A kernel slot discarded by a fence or reset: nothing is folded (R43, R105). -/
def State.dropSlot (s : State) (c : CoreId) (k : KsId) : State := s.clearSlot c k

/-- A trap: TRAPPED, the issued instructions discarded, status and index kept for the record (R43, R60). -/
def State.trapSlotAt (s : State) (c : CoreId) (k : KsId) (status index : Nat) : State :=
  (s.discardIssued c k).updSlot c k (fun sl => { sl with state := .trapped, trap := some (status, index) })

/-- A trap at the slot's next instruction. -/
def State.trapSlot (s : State) (c : CoreId) (k : KsId) (status : Nat) : State :=
  s.trapSlotAt c k status (s.slot c k).pc

/-- An instance's place emptied in its command, with the resume value it keeps (R165, R315). -/
def Cmd.unplace (cm : Cmd) (c : CoreId) (k : KsId) (resume : W64) : Cmd :=
  { cm with insts := cm.insts.map (fun i => if i.placed = some (c, k) && !i.ended then { i with placed := none, resume := resume } else i) }

/-- Sticky flags joined into a kernel slot (R103, R104). -/
def State.addFlags (s : State) (c : CoreId) (k : KsId) (f : Flags) : State :=
  s.updSlot c k (fun sl => { sl with flags := sl.flags.join f })

end Sys2Proof.Machine
end

