-- ==== Sys2Proof/Machine/Operands.lean ====
section
/-! DEFINITION. The operand forms of instructions: places that registers name, dimensions, tiles (04, R67 to R70; 05, R91 to R94). -/

namespace Sys2Proof.Machine

/-! ## Places a kernel names -/

/-- A malformed operand. -/
def malformed {α : Type} : Except AccErr α := .error (.status stMalformed .none)

def statusErr {α : Type} (n : Nat) : Except AccErr α := .error (.status n .none)

/-- A condition of a check, with the status of its failure. -/
def need (b : Bool) (status : Nat) : Except AccErr Unit := if b then .ok () else .error (.status status .none)

/-- A sequence descriptor that is to be readable (R337). -/
def State.needSeq (s : State) (id : Nat) (q : Seq) : Except AccErr Unit := if s.seqBad id q then .error (s.seqErr id) else .ok ()

/-- Whether a range lies in the kernel's core store allocation (R69). -/
def KSlot.inAlloc (sl : KSlot) (off len : Nat) : Bool := sl.csBase ≤ off && off + len ≤ sl.csBase + sl.csBytes

/-- A virtual range read by a kernel. -/
def State.kRead (s : State) (c : CoreId) (k : KsId) (va len : Nat) : Except AccErr (List Byte) :=
  s.readVirt (some (regionOfCore c)) (s.slot c k).ctx va len

/-- A virtual range written by a kernel. -/
def State.kWrite (s : State) (c : CoreId) (k : KsId) (va : Nat) (bytes : List Byte) : Except AccErr State :=
  s.writeVirt (some (regionOfCore c)) (s.slot c k).ctx va bytes

/-- Whether a place may hold an operand word: the home region's memory, or with `anyRegion` any region's (R53, R82). -/
def Loc.holdsWord (l : Loc) (home : RegionId) (anyRegion : Bool) : Bool :=
  match l with
  | .region r => anyRegion || r / regionBytes == home.val
  | _ => false

/-- The places of a range that an operand register addresses: below 8 MiB an offset in core store, inside the allocation; above it device
virtual addresses in region memory, each page's checked (R53, R74, R82, R84, R243; log 17). -/
def State.wordPlaces (s : State) (c : CoreId) (k : KsId) (a len : Nat) (write anyRegion : Bool) : Except AccErr (List (Loc × Nat)) :=
  let sl := s.slot c k
  if a < coreStoreBytes then
    if sl.inAlloc a len then .ok [(.core (c.val * coreStoreBytes + a), len)] else malformed
  else do
    let ls ← s.xlateRange (some (regionOfCore c)) sl.ctx a len write
    need (ls.all (fun l => l.1.holdsWord (regionOfCore c) anyRegion)) stMalformed
    return ls

/-- The place of a word, which lies in one page: in core store, or in the home region's memory. -/
def State.wordPlace (s : State) (c : CoreId) (k : KsId) (a len : Nat) (write : Bool) : Except AccErr Loc := do
  match ← s.wordPlaces c k a len write false with
  | [l] => .ok l.1
  | _ => malformed

/-- Bytes that an operand register addresses (R53, R74, R84). -/
def State.wordRead (s : State) (c : CoreId) (k : KsId) (a len align : Nat) : Except AccErr (List Byte) :=
  if a % align ≠ 0 then malformed
  else match s.wordPlace c k a len false with
    | .error e => .error e
    | .ok l => s.readLoc l len

/-- Bytes of a range that an operand register addresses. -/
def State.rangeRead (s : State) (c : CoreId) (k : KsId) (a len align : Nat) (anyRegion : Bool) : Except AccErr (List Byte) :=
  if a % align ≠ 0 then malformed
  else do
    let ls ← s.wordPlaces c k a len false anyRegion
    s.readLocs ls

/-- The notes that a read of a range leaves. -/
def State.noteRange (s : State) (c : CoreId) (k : KsId) (a len : Nat) (anyRegion : Bool) : State :=
  match s.wordPlaces c k a len false anyRegion with
  | .ok ls => ls.foldl (fun s l => s.noteRead l.1 l.2) s
  | .error _ => s

/-- The notes a word read leaves. -/
def State.noteWord (s : State) (c : CoreId) (k : KsId) (a len : Nat) : State := s.noteRange c k a len false

/-! ## Tile descriptors (R67 to R70) -/

/-- A tile operand with its dimensions read. -/
structure Tile where
  core : Bool
  fmt : Nat
  kaxis : Nat
  base : Nat
  rows : Nat
  cols : Nat
  stride : Nat
  scaleStride : Nat
  scaleOff : Int
deriving DecidableEq, Repr

/-- A dimension's value (R53, R68). -/
def State.dim (s : State) (c : CoreId) (k : KsId) (spec : Nat) : Except AccErr Nat :=
  let sl := s.slot c k
  let reg := sl.s[(⟨fld spec 5 0 % 64, Nat.mod_lt _ (by decide)⟩ : Fin 64)].toNat
  match fld spec 31 30 with
  | 0 => .ok (fld spec 21 0)
  | 1 => .ok reg
  | 2 => (s.wordRead c k (reg + 8 * fld spec 21 6) 8 8).map leNat
  | _ => malformed

/-- A descriptor taken as an operand: valid under R70, SPACE and FMT allowed, aligned under R69 (check 5 of R66), and its
dimensions read. -/
def State.tileOp (s : State) (c : CoreId) (k : KsId) (r : Fin 32) (fmts : List Nat) (virtOk : Bool) :
    Except AccErr Tile := do
  let sl := s.slot c k
  let d := sl.t[r].toNat
  need (sl.ts[r] != .invalid) stMalformed
  let space := fld d 50 48
  need (space == 0 || (space == 1 && virtOk)) stMalformed
  let f := fld d 56 52
  need (fmts.contains f) stMalformed
  need (is4bit f || (fld d 223 192 == 0 && fld d 175 160 == 0)) stMalformed
  need (fld d 47 0 % 16 == 0 && fld d 159 128 % 16 == 0 && fld d 175 160 % 16 == 0 && fld d 223 192 % 16 == 0) stMalformed
  let rows ← s.dim c k (fld d 95 64)
  let cols ← s.dim c k (fld d 127 96)
  return { core := space == 0, fmt := f, kaxis := fld d 57 57, base := fld d 47 0, rows := rows, cols := cols,
           stride := fld d 159 128, scaleStride := fld d 175 160, scaleOff := sInt 32 (fld d 223 192) }

/-- Bytes of a row. -/
def Tile.rowLen (t : Tile) : Nat := ceilDiv (t.cols * fmtBits t.fmt) 8

/-- Rows and row bytes of the scale array (R69). -/
def Tile.scaleRows (t : Tile) : Nat := if t.kaxis = 0 then t.rows else ceilDiv t.rows 32
def Tile.scaleLen (t : Tile) : Nat := 2 * (if t.kaxis = 0 then ceilDiv t.cols 32 else t.cols)

/-- Address of scale row i. -/
def Tile.scaleAddr (t : Tile) (i : Nat) : Int := t.base + t.scaleOff + (i * t.scaleStride : Nat)

def Tile.empty (t : Tile) : Bool := t.rows == 0 || t.cols == 0

/-- The dimension limits that hold for every tile (R68). -/
def Tile.dimsOk (t : Tile) : Bool := t.rows ≤ 4194303 && t.cols ≤ 4194303

/-- Whether a byte range lies where a tile of this SPACE may lie (R69). -/
def KSlot.rangeOk (sl : KSlot) (core : Bool) (lo : Int) (len : Nat) : Bool :=
  if core then 0 ≤ lo && sl.inAlloc lo.toNat len else 0 ≤ lo && lo + len ≤ 2 ^ 48

/-- Check 7 of R66 for one tile, but for host memory (R69). The rule asks a row stride of a written tile, none of its scale rows. -/
def Tile.extentOk (t : Tile) (sl : KSlot) (written : Bool) : Bool :=
  t.empty ||
  ((!written || t.rowLen ≤ t.stride)
    && sl.rangeOk t.core t.base ((t.rows - 1) * t.stride + t.rowLen)
    && (!is4bit t.fmt || sl.rangeOk t.core (t.scaleAddr 0) ((t.scaleRows - 1) * t.scaleStride + t.scaleLen)))

/-- The byte ranges of a tile's rows, its scale rows with them. -/
def Tile.ranges (t : Tile) : List (Nat × Nat) :=
  if t.empty then [] else
  (List.range t.rows).map (fun r => (t.base + r * t.stride, t.rowLen))
    ++ (if is4bit t.fmt then (List.range t.scaleRows).map (fun i => ((t.scaleAddr i).toNat, t.scaleLen)) else [])

/-- Whether a virtual range lies clear of host memory; what does not translate is no host memory. -/
def State.rangeNoHost (s : State) (c : CoreId) (k : KsId) (a len : Nat) : Bool :=
  (pagesOf a len).all (fun p => match s.xlate (some (regionOfCore c)) (s.slot c k).ctx p.1 false with
    | .ok (.host _ _) => false
    | _ => true)

/-- Whether no row and no scale row of a tile lies in host memory (R69: legal for LDT and STT only). -/
def State.noHost (s : State) (c : CoreId) (k : KsId) (t : Tile) : Bool :=
  t.core || t.ranges.all (fun r => s.rangeNoHost c k r.1 r.2)

/-! ## Reading and writing tiles (R91, R92, R94) -/

/-- A byte range of a tile's SPACE read. -/
def State.spaceReadK (s : State) (c : CoreId) (k : KsId) (core : Bool) (a len : Nat) : Except AccErr (List Byte) :=
  if core then s.readLoc (.core (c.val * coreStoreBytes + a)) len else s.kRead c k a len

/-- The raw elements of row bytes. -/
def unpackRow (fmt cols : Nat) (bs : List Byte) : List Nat :=
  if is4bit fmt then
    (List.range cols).map (fun j => let b := (bs.getD (j / 2) 0).toNat; if j % 2 = 0 then b % 16 else b / 16)
  else
    let k := fmtBits fmt / 8
    (List.range cols).map (fun j => leAt bs (k * j) k)

/-- Row bytes of raw elements; an odd 4-bit row's last high nibble is zero (R91). -/
def packRow (fmt : Nat) (es : List Nat) : List Byte :=
  if is4bit fmt then
    (List.range ((es.length + 1) / 2)).map (fun i => BitVec.ofNat 8 (es.getD (2 * i) 0 % 16 + 16 * (es.getD (2 * i + 1) 0 % 16)))
  else es.flatMap (fun e => leBytes (fmtBits fmt / 8) e)

/-- The raw elements of a tile, row by row. -/
def State.readRaw (s : State) (c : CoreId) (k : KsId) (t : Tile) : Except AccErr (List (List Nat)) :=
  if t.empty then .ok (List.replicate t.rows []) else
  (List.range t.rows).mapM (fun r =>
    (s.spaceReadK c k t.core (t.base + r * t.stride) t.rowLen).map (unpackRow t.fmt t.cols))

/-- The raw elements of the rows that are wanted; no memory is accessed for another. -/
def State.readRows (s : State) (c : CoreId) (k : KsId) (t : Tile) (want : Nat → Bool) : Except AccErr (List (List Nat)) :=
  if t.empty then .ok (List.replicate t.rows []) else
  (List.range t.rows).mapM (fun r =>
    if want r then (s.spaceReadK c k t.core (t.base + r * t.stride) t.rowLen).map (unpackRow t.fmt t.cols) else .ok [])

/-- The scale patterns of a 4-bit tile, by scale row. -/
def State.readScales (s : State) (c : CoreId) (k : KsId) (t : Tile) : Except AccErr (List (List Nat)) :=
  if t.empty || !is4bit t.fmt then .ok [] else
  (List.range t.scaleRows).mapM (fun i =>
    (s.spaceReadK c k t.core (t.scaleAddr i).toNat t.scaleLen).map (fun bs => unpackRow fBF16 (t.scaleLen / 2) bs))

/-- The scale pattern of element (r, j). -/
def scaleAt (t : Tile) (scales : List (List Nat)) (r j : Nat) : Nat :=
  if t.kaxis = 0 then (scales.getD r []).getD (j / 32) 0 else (scales.getD (r / 32) []).getD j 0

/-- The exact values of a tile's elements (R89, R94). -/
def State.readNums (s : State) (c : CoreId) (k : KsId) (t : Tile) : Except AccErr (List (List Num)) := do
  let raw ← s.readRaw c k t
  if is4bit t.fmt then
    let sc ← s.readScales c k t
    return (List.range t.rows).map (fun r => (List.range t.cols).map (fun j =>
      decode4 t.fmt (bf16.decode (scaleAt t sc r j)) ((raw.getD r []).getD j 0)))
  else return raw.map (fun row => row.map (decodeElem t.fmt))

/-- The checkers' notes of reading some of a tile's rows. -/
def State.noteRows (s : State) (c : CoreId) (k : KsId) (t : Tile) (want : Nat → Bool) : State :=
  if t.empty then s else
  ((List.range t.rows).filter want).foldl (fun s r =>
    let a := t.base + r * t.stride
    if t.core then s.noteRead (.core (c.val * coreStoreBytes + a)) t.rowLen
    else s.noteVirt (some (regionOfCore c)) (s.slot c k).ctx a t.rowLen) s

/-- The checkers' notes of a tile read. -/
def State.noteTile (s : State) (c : CoreId) (k : KsId) (t : Tile) : State := s.noteRows c k t (fun _ => true)

/-- Whether some byte belongs to both tiles. -/
def Tile.overlaps (a b : Tile) : Bool :=
  a.core == b.core && a.ranges.any (fun x => b.ranges.any (fun y => x.1 < y.1 + y.2 && y.1 < x.1 + x.2))

/-- The places and bytes of rows written to a tile. -/
def State.rowPieces (s : State) (c : CoreId) (k : KsId) (core : Bool) (a : Nat) (bytes : List Byte) :
    Except AccErr (List (Loc × List Byte)) :=
  if core then .ok [(.core (c.val * coreStoreBytes + a), bytes)]
  else do
    let ls ← s.xlateRange (some (regionOfCore c)) (s.slot c k).ctx a bytes.length true
    return dealOut ls bytes

/-- Raw elements, and scales for a 4-bit tile, written to a tile as one write (R277). -/
def State.writeRaw (s : State) (c : CoreId) (k : KsId) (t : Tile) (raw : List (List Nat)) (scales : List (List Nat)) :
    Except AccErr State := do
  let rows ← (List.range t.rows).mapM (fun r =>
    s.rowPieces c k t.core (t.base + r * t.stride) (packRow t.fmt (raw.getD r [])))
  let scs ← if is4bit t.fmt then
      (List.range t.scaleRows).mapM (fun i =>
        s.rowPieces c k t.core (t.scaleAddr i).toNat (packRow fBF16 (scales.getD i [])))
    else .ok []
  s.writeAll (rows.flatten ++ scs.flatten)

/-- A tile whose contents the manual calls unspecified: free values (R177, R246; log 134). -/
def State.writeFree (s : State) (c : CoreId) (k : KsId) (t : Tile) : Except AccErr State :=
  let free (i : Nat) : Nat := Config.freeNat 24 [t.base, i, s.freshCtr]
  s.fresh.writeRaw c k t
    ((List.range t.rows).map (fun r => (List.range t.cols).map (fun j => free (2 * (r * t.cols + j)) % 2 ^ fmtBits t.fmt)))
    ((List.range t.scaleRows).map (fun r => (List.range (t.scaleLen / 2)).map (fun j => free (2 * (r * t.cols + j) + 1) % 65536)))

/-- Values converted into a tile of any format but the 4-bit ones, and their flags (R97, R103). -/
def State.writeNums (s : State) (c : CoreId) (k : KsId) (t : Tile) (nanovf : Bool) (xs : List (List Num)) :
    Except AccErr State := do
  let cv := xs.map (fun row => row.map (conv t.fmt nanovf))
  let s ← s.writeRaw c k t (cv.map (fun row => row.map (·.1))) []
  return s.addFlags c k (Flags.joinAll (cv.map (fun row => Flags.joinAll (row.map (·.2)))))

end Sys2Proof.Machine
end

