-- ==== Sys2Proof/Machine/Acc.lean ====
section
/-! DEFINITION. Accumulator slots: places, contents, SPILL_BACK, and the arithmetic of passes (06, R113 to R115; 07, R127 to
R143). -/

namespace Sys2Proof.Machine

/-! ## Places -/

/-- Offset in accumulator memory of element (r, j) of a physical slot on one anvil: R463's offsets, row-major in the unit
(log 15). -/
def accOff (narrow : Bool) (units : List Nat) (phys anvil r j : Nat) : Nat :=
  if narrow then
    0x80000 * anvil + 0x10000 * units.getD (phys / 2) 0 + 0x8000 * (phys % 2) + 2 * (128 * r + j)
  else 0x80000 * anvil + 0x10000 * units.getD phys 0 + 4 * (128 * r + j)

def KSlot.accName (sl : KSlot) (n : Nat) : AccName := sl.acc[n % 16]'(Nat.mod_lt _ (by decide))

/-- Address of element (r, j) of a name on one anvil. -/
def KSlot.accAddr (sl : KSlot) (c : CoreId) (n anvil r j : Nat) : Nat :=
  c.val * accBytes + accOff sl.hdr.narrow sl.units ((sl.accName n).phys.getD 0) anvil r j

/-- Bytes of an element: FP32 and INT32 wide, FP16 and INT16 narrow (R127). -/
def accWidth (narrow : Bool) : Nat := if narrow then 2 else 4

/-- Bytes of accumulator memory. A block never written reads as free values (log 6); any other uncorrectable block fails the reader. -/
def State.accRead (s : State) (a len : Nat) : Except AccErr (List Byte) :=
  match s.accMem.read a len with
  | some bs => .ok bs
  | none =>
    if (blocksOf a len).any (fun b => s.accMem.check b == .error) then .error (.status stData (.read (.acc a) len))
    else .ok ((List.range len).map (fun i =>
      match s.accMem.blockRead ((a + i) / 32) with
      | some bs => bs.getD ((a + i) % 32) 0
      | none => Config.freeByte s.freshCtr (a + i)))

/-- Ranges of accumulator memory written; the rest of a block never written is free. -/
def State.accWrite (s : State) (ps : List (Nat × List Byte)) : State :=
  { s with accMem := s.accMem.forcePieces (Config.freeByte s.freshCtr) ps }

/-- The overflow bit of an integer element: the direction of the overflow (R142). -/
def Core.ovfAt (co : Core) (a : Nat) : Option Bool := lookup co.ovf a

def Core.setOvf (co : Core) (a : Nat) (v : Option Bool) : Core :=
  match v with
  | some d => { co with ovf := insertAt co.ovf a d }
  | none => { co with ovf := eraseAt co.ovf a }

/-- The value of stored element bits by kind (R127). -/
def accFloat (narrow : Bool) (bits : Nat) : Num := if narrow then fp16.decode bits else dec32 bits

def accInt (narrow : Bool) (bits : Nat) : Int := if narrow then sInt 16 bits else sInt 32 bits

def accFmt (narrow : Bool) : FFmt := if narrow then fp16 else fp32

/-- Whether the instance has written element (r, j) of a name on an anvil in overwrite form. -/
def AccName.has (n : AccName) (anvil r j : Nat) : Bool := n.ext.any (fun e => e.1 == anvil && r < e.2.1 && j < e.2.2)

/-- A row of `len` element patterns of a name on one anvil. An element that the instance has not written in overwrite form is a free value,
whatever an earlier instance left there (R46; log 6). -/
def State.accRow (s : State) (c : CoreId) (sl : KSlot) (n anvil r len : Nat) : Except AccErr (List Nat) :=
  let w := accWidth sl.hdr.narrow
  let a := sl.accAddr c n anvil r 0
  let free (j : Nat) : Nat := leNat ((List.range w).map (fun i => Config.freeByte s.freshCtr (a + w * j + i)))
  let name := sl.accName n
  let pick (bs : List Byte) : List Nat :=
    (List.range len).map (fun j => if name.has anvil r j then leAt bs (w * j) w else free j)
  if (List.range len).any (fun j => name.has anvil r j) then (s.accRead a (w * len)).map pick else .ok (pick [])

/-! ## SPILL_BACK (R132 to R136) -/

/-- Address in core store of a spill tile on one anvil. -/
def KSlot.spillAddr (sl : KSlot) (c : CoreId) (tile anvil : Nat) : Nat :=
  c.val * coreStoreBytes + sl.csBase + 1024 * sl.hdr.csKib + (4 * tile + anvil) * 65536

/-- An element widened for a spill tile (R133). -/
def spillWiden (narrow : Bool) (k : AccKind) (bits : Nat) : Nat :=
  if !narrow then bits
  else match k with
    | .float => enc32 (fp16.decode bits)
    | .integer => uInt 32 (sInt 16 bits)

/-- An element narrowed again on reload. -/
def spillNarrow (narrow : Bool) (k : AccKind) (bits : Nat) : Nat :=
  if !narrow then bits
  else match k with
    | .float => fp16.encode (fp16.round (dec32 bits))
    | .integer => bits % 65536

/-- Whether an integer pattern is its format's extreme, and which (R136). -/
def extremeOf (narrow : Bool) (bits : Nat) : Option Bool :=
  if narrow then (if bits = 0x7FFF then some true else if bits = 0x8000 then some false else none)
  else if bits = 0x7FFFFFFF then some true else if bits = 0x80000000 then some false else none

/-- Name n written to spill tile `tile` on the four anvils (R134, step 2). -/
def State.spillOut (s : State) (c : CoreId) (k : KsId) (n tile : Nat) : Except AccErr State := do
  let sl := s.slot c k
  let kind := ((sl.accName n).kind).getD .float
  let ps ← (List.range 512).mapM (fun i =>
    let anvil := i / 128
    let r := i % 128
    (s.accRow c sl n anvil r 128).map (fun es =>
      (sl.spillAddr c tile anvil + 512 * r, es.flatMap (fun e => leBytes 4 (spillWiden sl.hdr.narrow kind e)))))
  let s ← s.writePieces (.core 0) ps
  return (s.updSlot c k (fun sl => { sl with
      acc := sl.acc.set (n % 16) { sl.accName n with phys := none, spill := some tile } (Nat.mod_lt _ (by decide))
      spills := satAdd 16 sl.spills 1 })).fresh

/-- The element patterns of a name's spill tile, by anvil and row; none for a name that was never spilled (R134, step 3). -/
def State.spillRows (s : State) (c : CoreId) (k : KsId) (n : Nat) : Except AccErr (List (List Nat)) :=
  let sl := s.slot c k
  let old := sl.accName n
  match old.spill with
  | none => .ok []
  | some tile => (List.range 512).mapM (fun i =>
      (s.readLoc (.core (sl.spillAddr c tile (i / 128) + 512 * (i % 128))) 512).map (fun bs =>
        (List.range 128).map (fun j => spillNarrow sl.hdr.narrow (old.kind.getD .float) (leAt bs (4 * j) 4))))

/-- Rows of a spill tile put into physical slot `phys`, which name n then occupies; an integer at its format's extreme is marked as
overflowed (R134, R136). -/
def State.spillIn (s : State) (c : CoreId) (k : KsId) (n phys : Nat) (rows : List (List Nat)) : State :=
  let kind := ((s.slot c k).accName n).kind
  let s := s.updSlot c k (fun sl => { sl with
    acc := sl.acc.set (n % 16) { sl.accName n with phys := some phys, spill := none } (Nat.mod_lt _ (by decide)) })
  let sl := s.slot c k
  let w := accWidth sl.hdr.narrow
  let placed := ((List.range rows.length).zip rows).map (fun p => (sl.accAddr c n (p.1 / 128) (p.1 % 128) 0, p.2))
  let s := s.accWrite (placed.map (fun p => (p.1, p.2.flatMap (leBytes w))))
  let marks := placed.flatMap (fun p => ((List.range p.2.length).zip p.2).map (fun e =>
    (p.1 + w * e.1, if kind = some .integer then extremeOf sl.hdr.narrow e.2 else none)))
  s.updCore c (fun co => marks.foldl (fun co m => co.setOvf m.1 m.2) co)

/-- The name to spill: resident, not reserved, not wanted, its last reservation oldest, lowest on a tie (R134). -/
def spillVictim (sl : KSlot) (reserved wanted : List Nat) : Option Nat :=
  ((List.range 16).filter (fun n =>
      (sl.accName n).phys.isSome && !reserved.contains n && !wanted.contains n)).foldl
    (fun best n => match best with
      | none => some n
      | some b => if (sl.accName n).lastRes < (sl.accName b).lastRes then some n else some b) none

/-- One name made resident (R134); none: it waits, every resident name being reserved or named. With every spill tile held, the name's own
tile is read before the victim takes it (log 129). -/
def State.makeResident1 (s : State) (c : CoreId) (k : KsId) (wanted : List Nat) (n : Nat) : Except AccErr (Option State) :=
  let sl := s.slot c k
  if (sl.accName n).phys.isSome then .ok (some s) else
  let used := (List.range 16).filterMap (fun i => (sl.accName i).phys)
  match s.spillRows c k n, (List.range sl.hdr.accSlots).find? (fun p => !used.contains p) with
  | .error e, _ => .error e
  | .ok rows, some p => .ok (some (s.spillIn c k n p rows))
  | .ok rows, none =>
    let reserved := (s.inFlightOf c k).flatMap (·.accs)
    match spillVictim sl reserved wanted with
    | none => .ok none
    | some v =>
      let tiles := (List.range 16).filterMap (fun i => if i = n then none else (sl.accName i).spill)
      match (List.range sl.hdr.spillTiles).find? (fun t => !tiles.contains t), (sl.accName v).phys with
      | some t, some p => (s.spillOut c k v t).map (fun s => some (s.spillIn c k n p rows))
      | _, _ => .ok none

/-- All named names made resident before an instruction issues (R134). -/
def State.makeResident (s : State) (c : CoreId) (k : KsId) (names : List Nat) : Except AccErr (Option State) :=
  names.foldl (fun acc n => match acc with
    | .ok (some s) => s.makeResident1 c k names n
    | r => r) (.ok (some s))

/-! ## Arithmetic of passes (R113 to R115, R141, R142) -/

/-- Kpass by the wider input's bits (R87). -/
def kpassOf (bits : Nat) (narrow : Bool) : Nat :=
  (if bits = 4 then 256 else if bits = 8 then 128 else 64) * (if narrow then 2 else 1)

/-- A list cut into runs of n: fuel, run length, list. -/
def runsGo {α : Type} : Nat → Nat → List α → List (List α)
  | 0, _, _ => []
  | f + 1, n, l => if l.isEmpty then [] else l.take n :: runsGo f n (l.drop n)

def runs {α : Type} (n : Nat) (l : List α) : List (List α) := runsGo l.length n l

/-- A finite term with every bit more than 48 places below 2^e discarded, toward zero (R114). -/
def cut48 (e : Int) : Num → Num
  | .fin s n d =>
    let q := e - 48
    Num.scaled s (n * 2 ^ (-q).toNat / (d * 2 ^ q.toNat)) q
  | x => x

/-- The larger magnitude of two finite values. -/
def maxAbs (a b : Num) : Num := if a.abs.lt b.abs then b else a

/-- A float pass sum (R114, R115). -/
def passSum (ts : List Num) : Num :=
  if ts.all Num.isFin then
    match ts.foldl maxAbs .zero with
    | .fin _ n d => if n = 0 then Num.sum ts else Num.sum (ts.map (cut48 (floorLog2 n d)))
    | x => x
  else Num.sum (ts.filter (fun t => !t.isFin))

/-- Float sums drained into an element, one rounding each; whether a finite sum overflowed (R114, R141). In overwrite form the
first replaces the element (R111). -/
def floatAcc (f : FFmt) (ovw : Bool) (old : Num) : List Num → Num × Bool
  | [] => (old, false)
  | x :: xs =>
    let first := if ovw then x else old.add x
    let v := f.round first
    xs.foldl (fun (a : Num × Bool) y =>
      let e := a.1.add y
      let v := f.round e
      (v, a.2 || (e.isFin && v.isInf))) (v, first.isFin && v.isInf)

/-- One exact integer sum drained into an element (R142). -/
def intStep (w : Nat) (a : Int × Option Bool) (x : Int) : Int × Option Bool :=
  match a.2 with
  | some _ => a
  | none =>
    let v := a.1 + x
    if 2 ^ (w - 1) ≤ v then (2 ^ (w - 1) - 1, some true)
    else if v < -(2 ^ (w - 1)) then (-(2 ^ (w - 1)), some false)
    else (v, none)

/-- Integer sums drained into an element. -/
def intAcc (w : Nat) (ovw : Bool) (old : Int × Option Bool) : List Int → Int × Option Bool
  | [] => old
  | x :: xs => xs.foldl (intStep w) (if ovw then intStep w (0, none) x else intStep w old x)

/-- Products of a row of A and a column of B; with ZMUL a zero A element contributes +0 (R190). -/
def products (zmul : Bool) (as bs : List Num) : List Num :=
  (as.zip bs).map (fun p => if zmul && p.1.isZero then .zero else p.1.mul p.2)

/-- Column n of a matrix of rows. -/
def column {α : Type} (d : α) (m : List (List α)) (n : Nat) : List α := m.map (fun r => r.getD n d)

/-- One drained element: its place, its new pattern, its overflow bit, whether this accumulation overflowed, and whether a float became
infinite. -/
structure Drained where
  addr : Nat
  bits : Nat
  ovf : Option Bool
  newOvf : Bool := false
  inf : Bool
deriving DecidableEq, Repr

/-- Drained elements written: patterns, overflow bits, INT_OVF and ACC_INF (R141, R142, R144). -/
def State.drain (s : State) (c : CoreId) (k : KsId) (ds : List Drained) : State :=
  let w := accWidth (s.slot c k).hdr.narrow
  let s := s.accWrite (ds.map (fun d => (d.addr, leBytes w d.bits)))
  let s := s.updCore c (fun co => ds.foldl (fun co d => co.setOvf d.addr d.ovf) co)
  s.addFlags c k { intOvf := ds.any (·.newOvf), accInf := ds.any (·.inf) }

/-- A name written in overwrite form: its kind, and the rows and columns written on each anvil (R46, R128). -/
def AccName.wrote (a : AccName) (kind : AccKind) (rows cols : Nat) : AccName :=
  let new := (List.range (ceilDiv cols 128)).map (fun j => (j, rows, min 128 (cols - 128 * j)))
  { a with kind := some kind, ext := if a.kind = some kind then (new ++ a.ext).eraseDups else new }

/-- The result of `rows` rows and `cols` columns written in overwrite form from name `base` on (R75, R128). -/
def State.setKind (s : State) (c : CoreId) (k : KsId) (base rows cols : Nat) (kind : AccKind) : State :=
  s.updSlot c k (fun sl => { sl with
    acc := (List.range (ceilDiv rows 128)).foldl (fun (a : Vector AccName 16) h =>
      let n := (base + h) % 16
      a.set n ((a[n]'(Nat.mod_lt _ (by decide))).wrote kind (min 128 (rows - 128 * h)) cols) (Nat.mod_lt _ (by decide))) sl.acc })

/-- Whether an add-form instruction of this kind may name the slots: those that exist (R128). -/
def KSlot.kindOk (sl : KSlot) (names : List Nat) (kind : AccKind) : Bool :=
  (names.filter (· < 16)).all (fun n => match (sl.accName n).kind with
    | none => true
    | some x => x == kind)

/-- Multiply-accumulates counted (R126). -/
def State.countMac (s : State) (c : CoreId) (n : Nat) : State :=
  s.updCore c (fun co => { co with cntMac := co.cntMac + n })

/-! ## Accumulator slots as a source (R75, R143, R169, R174) -/

/-- One element of a source laid over slots: anvil j div 128, name base + i div 128. -/
structure AccElem where
  val : Num
  integer : Bool
  ovf : Option Bool
deriving DecidableEq, Repr

/-- Names that a source of R rows from `base` spans. -/
def accSpan (base rows : Nat) : List Nat := (List.range (ceilDiv rows 128)).map (· + base)

/-- The elements of a rows by cols source from slot `base` on, first anvil a0. -/
def State.accSource (s : State) (c : CoreId) (sl : KSlot) (base a0 rows cols : Nat) :
    Except AccErr (List (List AccElem)) :=
  (List.range rows).mapM (fun i => do
    let n := base + i / 128
    let kind := ((sl.accName n).kind).getD .float
    let parts ← (List.range (ceilDiv cols 128)).mapM (fun j => do
      let len := min 128 (cols - 128 * j)
      let es ← s.accRow c sl n (a0 + j) (i % 128) len
      return ((List.range len).zip es).map (fun e =>
        { val := if kind = .float then accFloat sl.hdr.narrow e.2 else .ofInt (accInt sl.hdr.narrow e.2),
          integer := kind == .integer,
          ovf := if kind = .integer then s.cores[c].ovfAt (sl.accAddr c n (a0 + j) (i % 128) e.1) else none : AccElem }))
    return parts.flatten)

/-- An element read out by STT or CAST: an overflowed integer goes to its format's end (R143). -/
def convAcc (fmt : Nat) (nanovf : Bool) (e : AccElem) : Nat × Flags :=
  match e.ovf with
  | none => conv fmt nanovf e.val
  | some pos =>
    let fl : Flags := { intOvf := true }
    if fmt = fE4M3 then (0x7F, fl)
    else if fmt = fINT32 ∨ fmt = fINT8 ∨ fmt = fU16 then
      let (lo, hi) := intRange fmt
      (uInt (fmtBits fmt) (if pos then hi else lo), fl.join Flags.ofSat)
    else ((conv fmt nanovf (.inf (!pos))).1, fl)

end Sys2Proof.Machine
end

