-- ==== Sys2Proof/Machine/Pages.lean ====
section
/-! DEFINITION. Pools, list blocks and page trees (11, R196 to R212). -/

namespace Sys2Proof.Machine

/-- Changes of the state that may fail as a whole: on a failure nothing is changed. -/
abbrev Act (α : Type) := StateT State (Except AccErr) α

def Act.fail {α : Type} (status : Nat) : Act α := fun _ => .error (.status status .none)

/-- A check of the state as it stands. -/
def Act.lift {α : Type} (e : Except AccErr α) : Act α := fun s => e.map (fun a => (a, s))

def Act.need (b : Bool) (status : Nat) : Act Unit := if b then pure () else Act.fail status

/-- Bytes of a context's space read by a device-owned operation, with the checkers' notes. -/
def getVirt (ctx va len : Nat) : Act (List Byte) := fun s =>
  match s.readVirt none ctx va len with
  | .ok bs => .ok (bs, s.noteVirt none ctx va len)
  | .error e => .error e

def putVirt (ctx va : Nat) (bs : List Byte) : Act Unit := fun s =>
  match s.writeVirt none ctx va bs with
  | .ok s' => .ok ((), s')
  | .error e => .error e

def getNat (ctx va k : Nat) : Act Nat := do
  let bs ← getVirt ctx va k
  return leNat bs

def putNat (ctx va k v : Nat) : Act Unit := putVirt ctx va (leBytes k v)

/-! ## Pool descriptors (R198, R199) -/

structure Pool where
  ctx : Nat
  va : Nat
  state : Nat
  serve : Bool
  kvFormat : Nat
  layers : Nat
  heads : Nat
  d : Nat
  plevels : Nat
  slotBytes : Nat
  pageBase : Nat
  pageCap : Nat
  blockCap : Nat
  blockBase : Nat
  metaBase : Nat
deriving DecidableEq, Repr

/-- Slot bytes by format and head dimension (R196). -/
def slotBytesOf (fmt d : Nat) : Nat :=
  if fmt = fBG4 then 18 * d else if fmt = fE4M3 then 32 * d + 64 else 64 * d

def poolOf (ctx va : Nat) (bs : List Byte) : Pool :=
  let w0 := leAt bs 0 4
  let w1 := leAt bs 4 4
  { ctx := ctx, va := va, state := fld w0 17 16, serve := bit w0 18, kvFormat := fld w0 28 24,
    layers := fld w1 11 0, heads := fld w1 18 12, d := 64 * 2 ^ fld w1 20 19, plevels := fld w1 22 21,
    slotBytes := leAt bs 8 4, pageBase := leAt bs 0x10 8, pageCap := leAt bs 0x18 4, blockCap := leAt bs 0x1C 4,
    blockBase := leAt bs 0x20 8, metaBase := leAt bs 0x28 8 }

/-- Reserved fields zero and the ABI right (R4, R198). -/
def poolClean (bs : List Byte) : Bool :=
  let w0 := leAt bs 0 4
  let w1 := leAt bs 4 4
  fld w0 7 0 == 0 && fld w0 15 8 == 1 && fld w0 23 19 == 0 && fld w0 31 29 == 0 && fld w1 31 23 == 0
    && leAt bs 0xC 4 == 0 && leAt bs 0x38 8 == 0

def up64 (n : Nat) : Nat := ceilDiv n 64 * 64

/-- The three metadata arrays (R199). -/
def Pool.countVA (p : Pool) (i : Nat) : Nat := p.metaBase + 2 * i
def Pool.pageStackVA (p : Pool) (i : Nat) : Nat := p.metaBase + up64 (2 * p.pageCap) + 4 * i
def Pool.blockStackVA (p : Pool) (i : Nat) : Nat :=
  p.metaBase + up64 (2 * p.pageCap) + up64 (4 * p.pageCap) + 4 * i
def Pool.metaLen (p : Pool) : Nat := up64 (2 * p.pageCap) + up64 (4 * p.pageCap) + up64 (4 * p.blockCap)

def Pool.pageVA (p : Pool) (i : Nat) : Nat := p.pageBase + i * p.slotBytes
def Pool.blockVA (p : Pool) (j : Nat) : Nat := p.blockBase + 576 * j

/-- The stacks that a range of a context's space lies in; none where a byte lies outside stacked memory. -/
def State.stacksOf (s : State) (ctx va len : Nat) : Option (List Nat) :=
  match s.xlateRange none ctx va len true with
  | .error _ => none
  | .ok ls => ls.mapM (fun l => match l.1 with
    | .stacked a => some (a / stackSpan)
    | _ => none)

/-- The home region of a pool: its descriptor's stack (R198). -/
def State.poolHome (s : State) (p : Pool) : Option RegionId :=
  match s.xlate none p.ctx p.va false with
  | .ok (.stacked a) => some (regionN (a / stackSpan))
  | _ => none

/-- The rules of R198 on a descriptor's fields. -/
def Pool.fieldsOk (p : Pool) (headDim : Nat) : Bool :=
  (p.kvFormat == fBF16 || p.kvFormat == fE4M3 || p.kvFormat == fBG4)
    && 1 ≤ p.layers && 1 ≤ p.heads && p.heads ≤ 64 && p.layers * p.heads ≤ 4096 && headDim ≤ 2
    && 1 ≤ p.plevels && p.slotBytes == slotBytesOf p.kvFormat p.d
    && p.pageBase % 64 == 0 && p.blockBase % 64 == 0 && p.metaBase % 64 == 0
    && 1 ≤ p.pageCap && p.pageCap ≤ 0xFFFFFFFE && 1 ≤ p.blockCap && p.blockCap ≤ 0xFFFFFFFE

/-- Where a pool's areas must lie (R198). -/
def State.poolPlaced (s : State) (p : Pool) : Bool :=
  match s.poolHome p with
  | none => false
  | some g =>
    (match s.stacksOf p.ctx p.blockBase (576 * p.blockCap) with
      | some l => l.all (· == g.val)
      | none => false)
    && (match s.stacksOf p.ctx p.metaBase p.metaLen with
      | some l => l.all (· == g.val)
      | none => false)
    && (s.stacksOf p.ctx p.pageBase (p.slotBytes * p.pageCap)).isSome

/-- Free stacks filled so that ids are handed out from 0 upward (R199). -/
def stackBytes (cap : Nat) : List Byte :=
  let bs := (List.range cap).flatMap (fun i => leBytes 4 (cap - 1 - i))
  bs ++ zeros (up64 (4 * cap) - 4 * cap)

/-- A pool a command names, validated if it is NEW (R198, R199). -/
def openPool (ctx num : Nat) : Act Pool := do
  let s ← get
  match lookup s.ctxs ctx with
  | none => Act.fail stMalformed
  | some c =>
    Act.need (num < c.poolCount) stMalformed
    let va := c.poolTable + 64 * num
    let bs ← getVirt ctx va 64
    let p := poolOf ctx va bs
    if p.state = 2 then return p
    Act.need (p.state != 0) stMalformed
    Act.need (poolClean bs) stVersion
    Act.need (p.state == 1 && p.fieldsOk (fld (leAt bs 4 4) 20 19) && s.poolPlaced p) stMalformed
    putVirt ctx p.metaBase (zeros (up64 (2 * p.pageCap)) ++ stackBytes p.pageCap ++ stackBytes p.blockCap)
    putNat ctx (va + 0x30) 8 (p.pageCap + p.blockCap * 2 ^ 32)
    putNat ctx va 4 (setFld (leAt bs 0 4) 17 16 2)
    return { p with state := 2 }

/-- A pool that a live sequence names. -/
def poolAt (ctx num : Nat) : Act Pool := do
  let s ← get
  match lookup s.ctxs ctx with
  | none => Act.fail stMalformed
  | some c =>
    let va := c.poolTable + 64 * num
    let bs ← getVirt ctx va 64
    return poolOf ctx va bs

/-! ## Free stacks and counts (R199, R202) -/

def Pool.pagesFree (p : Pool) : Act Nat := getNat p.ctx (p.va + 0x30) 4
def Pool.blocksFree (p : Pool) : Act Nat := getNat p.ctx (p.va + 0x34) 4

/-- A page id from the top of the page free stack; LIMIT when there is none (R199, R209). -/
def Pool.popPage (p : Pool) : Act Nat := do
  let n ← p.pagesFree
  Act.need (0 < n) stLimit
  let id ← getNat p.ctx (p.pageStackVA (n - 1)) 4
  putNat p.ctx (p.va + 0x30) 4 (n - 1)
  return id

def Pool.pushPage (p : Pool) (id : Nat) : Act Unit := do
  let n ← p.pagesFree
  putNat p.ctx (p.pageStackVA n) 4 id
  putNat p.ctx (p.va + 0x30) 4 (n + 1)

def Pool.popBlock (p : Pool) : Act Nat := do
  let n ← p.blocksFree
  Act.need (0 < n) stLimit
  let id ← getNat p.ctx (p.blockStackVA (n - 1)) 4
  putNat p.ctx (p.va + 0x34) 4 (n - 1)
  return id

def Pool.pushBlock (p : Pool) (id : Nat) : Act Unit := do
  let n ← p.blocksFree
  putNat p.ctx (p.blockStackVA n) 4 id
  putNat p.ctx (p.va + 0x34) 4 (n + 1)

def Pool.count (p : Pool) (page : Nat) : Act Nat := getNat p.ctx (p.countVA page) 2
def Pool.setCount (p : Pool) (page n : Nat) : Act Unit := putNat p.ctx (p.countVA page) 2 n

/-- take_page: the slot's check blocks are written whole with zero bytes (R208). -/
def Pool.takePage (p : Pool) : Act Nat := do
  let id ← p.popPage
  putVirt p.ctx (p.pageVA id) (zeros p.slotBytes)
  return id

/-! ## List blocks (R200, R201) -/

/-- A list entry: valid, FILL, ID. -/
structure ListEntry where
  valid : Bool
  fill : Nat
  id : Nat
deriving DecidableEq, Repr

def entryOf (v : Nat) : ListEntry := { valid := bit v 63, fill := fld v 44 40, id := fld v 31 0 }

def ListEntry.word (e : ListEntry) : Nat := if e.valid then 2 ^ 63 + e.fill * 2 ^ 40 + e.id else 0

structure Block where
  level : Nat
  refs : Nat
  entries : List ListEntry
deriving DecidableEq, Repr

def Pool.readBlock (p : Pool) (j : Nat) : Act Block := do
  let bs ← getVirt p.ctx (p.blockVA j) 576
  return { level := fld (leAt bs 0 4) 19 16, refs := leAt bs 4 2,
           entries := (List.range 64).map (fun i => entryOf (leAt bs (0x40 + 8 * i) 8)) }

/-- A block's 576 bytes (R201). -/
def Block.bytes (b : Block) (pool ctx : Nat) : List Byte :=
  leBytes 4 (0x0100 + b.level * 2 ^ 16)
    ++ leBytes 4 (b.refs + (b.entries.countP (·.valid)) * 2 ^ 16)
    ++ leBytes 4 (pool + ctx * 2 ^ 16) ++ zeros 52
    ++ b.entries.flatMap (fun e => leBytes 8 e.word)

def Pool.num (p : Pool) (table : Nat) : Nat := (p.va - table) / 64

def Pool.writeBlock (p : Pool) (j : Nat) (b : Block) : Act Unit := do
  let s ← get
  let table := match lookup s.ctxs p.ctx with
    | some c => c.poolTable
    | none => 0
  putVirt p.ctx (p.blockVA j) (b.bytes (p.num table) p.ctx)

def emptyEntries : List ListEntry := List.replicate 64 { valid := false, fill := 0, id := 0 }

/-- The indexes from the root down to the leaf for a page (R200). -/
def Pool.path (p : Pool) (lh pn : Nat) : List Nat :=
  (if p.layers * p.heads ≤ 64 then [lh % 64] else [lh / 64, lh % 64])
    ++ ((List.range p.plevels).reverse.map (fun j => pn / 64 ^ j % 64))

/-- Levels of a tree. -/
def Pool.levels (p : Pool) : Nat := (if p.layers * p.heads ≤ 64 then 1 else 2) + p.plevels

/-- Positions a layer-head may hold (R200, R207). -/
def Pool.capacity (p : Pool) : Nat := min 1048576 (16 * 64 ^ p.plevels)

/-- The block id of a root's virtual address. -/
def Pool.rootId (p : Pool) (root : Nat) : Nat := (root - p.blockBase) / 576

/-- The leaf entry along a path, and whether every block on it has one reference (R208); none where a block is missing. -/
def Pool.descend (p : Pool) : List Nat → Nat → Bool → Act (Option (ListEntry × Bool))
  | [], _, _ => pure none
  | [i], j, own => do
    let b ← p.readBlock j
    return some (b.entries.getD i { valid := false, fill := 0, id := 0 }, own && b.refs == 1)
  | i :: rest, j, own => do
    let b ← p.readBlock j
    let e := b.entries.getD i { valid := false, fill := 0, id := 0 }
    if e.valid then p.descend rest e.id (own && b.refs == 1) else return none

/-- The highest valid entry of a block. -/
def Block.highest (b : Block) : Option (Nat × ListEntry) :=
  (((List.range 64).zip b.entries).filter (fun e => e.2.valid)).getLast?

/-- 16 × pn + FILL of the highest valid leaf entry below a block: levels left, block, page number so far (R202). -/
def Pool.endBelow (p : Pool) : Nat → Nat → Nat → Act Nat
  | 0, _, _ => pure 0
  | f + 1, j, pn => do
    let b ← p.readBlock j
    match b.highest with
    | none => return 0
    | some (i, e) => if f = 0 then return 16 * (pn * 64 + i) + e.fill else p.endBelow f e.id (pn * 64 + i)

/-- A layer-head's end in a tree (R202). -/
def Pool.layerEnd (p : Pool) (root lh : Nat) : Act Nat := do
  let hd := if p.layers * p.heads ≤ 64 then [lh % 64] else [lh / 64, lh % 64]
  let r ← p.descend hd (p.rootId root) true
  match r with
  | some (e, _) => if e.valid then p.endBelow p.plevels e.id 0 else return 0
  | none => return 0

/-! ## Releasing (R205) -/

def Pool.releasePage (p : Pool) (id : Nat) : Act Unit := do
  let n ← p.count id
  p.setCount id (n - 1)
  if n - 1 = 0 then p.pushPage id

def Pool.releaseBlock (p : Pool) : Nat → Nat → Act Unit
  | 0, _ => pure ()
  | f + 1, j => do
    let b ← p.readBlock j
    p.writeBlock j { b with refs := b.refs - 1 }
    if b.refs - 1 = 0 then
      for e in b.entries do
        if e.valid then
          if b.level = 0 then p.releasePage e.id else p.releaseBlock f e.id
      p.pushBlock j

/-! ## Appending (R208 to R211) -/

/-- Byte offsets of one token's codes and scales in a slot, and their lengths (R196). -/
def Pool.tokenPlaces (p : Pool) (values : Bool) (t : Nat) : List (Nat × Nat) :=
  let d := p.d
  if p.kvFormat = fBG4 then
    [((if values then 8 * d else 0) + t * (d / 2), d / 2),
     ((if values then 17 * d else 16 * d) + 2 * (t * (d / 32)), 2 * (d / 32))]
  else if p.kvFormat = fE4M3 then
    [((if values then 16 * d else 0) + t * d, d), ((if values then 32 * d + 32 else 32 * d) + 2 * t, 2)]
  else [((if values then 32 * d else 0) + t * (2 * d), 2 * d)]

/-- Tokens 0 to fill - 1 of keys, values and scales copied between slots (R208). -/
def Pool.copyTokens (p : Pool) (src dst fill : Nat) : Act Unit := do
  for t in List.range fill do
    for pl in p.tokenPlaces false t ++ p.tokenPlaces true t do
      let bs ← getVirt p.ctx (p.pageVA src + pl.1) pl.2
      putVirt p.ctx (p.pageVA dst + pl.1) bs

/-- choose_page of R208: the page, whether it was taken, whether it was copied. -/
def Pool.choosePage (p : Pool) (root lh pn : Nat) : Act (Nat × Bool × Bool) := do
  let r ← p.descend (p.path lh pn) (p.rootId root) true
  match r with
  | some (e, own) =>
    if e.valid then
      let n ← p.count e.id
      if n = 1 && own then return (e.id, false, false)
      else
        let id ← p.takePage
        p.copyTokens e.id id e.fill
        return (id, true, true)
    else
      let id ← p.takePage
      return (id, true, false)
  | none =>
    let id ← p.takePage
    return (id, true, false)

/-- The reference of a child raised: a page's count or a block's REFCOUNT, at most 65,535 (R210). -/
def Pool.raise (p : Pool) (leaf : Bool) (id : Nat) : Act Unit := do
  if leaf then
    let n ← p.count id
    Act.need (n < 65535) stRefcount
    p.setCount id (n + 1)
  else
    let b ← p.readBlock id
    Act.need (b.refs < 65535) stRefcount
    p.writeBlock id { b with refs := b.refs + 1 }

/-- A block of the path made the sequence's own: itself, or a copy that raises its children (R211). `res` are reserved
block ids; the result is the block's id, what is left of them, and whether it was copied. -/
def Pool.ownBlock (p : Pool) (level : Nat) (child : Option Nat) (res : List Nat) : Act (Nat × List Nat × Bool) := do
  match child with
  | none =>
    match res with
    | [] => Act.fail stLimit
    | r :: rest =>
      p.writeBlock r { level := level, refs := 1, entries := emptyEntries }
      return (r, rest, false)
  | some j =>
    let b ← p.readBlock j
    if 1 < b.refs then
      match res with
      | [] => Act.fail stLimit
      | r :: rest =>
        for e in b.entries do
          if e.valid then p.raise (b.level == 0) e.id
        p.writeBlock r { b with refs := 1 }
        p.writeBlock j { b with refs := b.refs - 1 }
        return (r, rest, true)
    else return (j, res, false)

/-- One entry of a block set. -/
def Pool.setEntry (p : Pool) (j i : Nat) (e : ListEntry) : Act Unit := do
  let b ← p.readBlock j
  p.writeBlock j { b with entries := b.entries.set i e }

/-- The page of one write linked along its path below an owned block (R211): the blocks copied are counted. -/
def Pool.linkPath (p : Pool) : List Nat → Nat → List Nat → ListEntry → Nat → Act (List Nat × Nat)
  | [], _, res, _, n => pure (res, n)
  | [i], j, res, new, n => do
    let b ← p.readBlock j
    let old := b.entries.getD i { valid := false, fill := 0, id := 0 }
    p.setEntry j i new
    if !(old.valid && old.id == new.id) then
      p.setCount new.id (1 : Nat)
      if old.valid then p.releasePage old.id
    return (res, n)
  | i :: rest, j, res, new, n => do
    let b ← p.readBlock j
    let e := b.entries.getD i { valid := false, fill := 0, id := 0 }
    let (c, res, copied) ← p.ownBlock (rest.length - 1) (if e.valid then some e.id else none) res
    p.setEntry j i { valid := true, fill := 0, id := c }
    p.linkPath rest c res new (if copied then n + 1 else n)

/-- One write of an append commit: root owned, path linked (R211). -/
def Pool.commitPage (p : Pool) (root : Nat) (res : List Nat) (lh pn page fill : Nat) : Act (Nat × List Nat × Nat) := do
  let (r, res, copied) ← p.ownBlock (p.levels - 1) (some (p.rootId root)) res
  let (res, n) ← p.linkPath (p.path lh pn) r res { valid := true, fill := fill, id := page } (if copied then 1 else 0)
  return (p.blockVA r, res, n)

/-- The highest end over all layer-heads (R211). -/
def Pool.treeLength (p : Pool) (root : Nat) : Act Nat := do
  let ends ← (List.range (p.layers * p.heads)).mapM (p.layerEnd root)
  return ends.foldl max 0

/-! ## Sequences (R7, R9) -/

/-- A LIVE sequence of a context (R9, R337). -/
def liveSeq (ctx id : Nat) : Act Seq := do
  let s ← get
  match lookup s.seqs id with
  | none => Act.fail stMalformed
  | some q =>
    Act.lift (s.needSeq id q)
    Act.need (q.state == .live && q.ctx == ctx) stMalformed
    return q

end Sys2Proof.Machine
end

