-- ==== Sys2Proof/Machine/Commands.lean ====
section
/-! DEFINITION. The life of a command: its fields, its end, what its end releases, and its record (16, R305 to R311, R462; 17,
R325 to R329; 11, R205; 12, R240). -/

namespace Sys2Proof.Machine

/-! ## Fields (R305, R306) -/

/-- k bytes of a command from an offset. -/
def Cmd.at (cm : Cmd) (off k : Nat) : Nat := leAt cm.bytes off k

def Cmd.type (cm : Cmd) : Nat := fld (cm.at 0 4) 23 16
def Cmd.irq (cm : Cmd) : Bool := bit (cm.at 0 4) 24
def Cmd.overlap (cm : Cmd) : Bool := bit (cm.at 0 4) 25
def Cmd.ifOk (cm : Cmd) : Bool := bit (cm.at 0 4) 26
def Cmd.tag (cm : Cmd) : Nat := cm.at 8 8

def tyKernel : Nat := 0x01
def tyCopy : Nat := 0x02
def tyFill : Nat := 0x03
def tyFork : Nat := 0x04
def tyCull : Nat := 0x05
def tyRound : Nat := 0x06
def tyFence : Nat := 0x07
def tySignal : Nat := 0x08
def tyWait : Nat := 0x09
def tyHint : Nat := 0x0A
def tySnapshot : Nat := 0x0B

/-- Context of a queue. -/
def State.queueCtx (s : State) (q : Nat) : Nat :=
  match lookup s.queues q with
  | some qu => qu.ctx
  | none => 0

/-- A command that a TYPE row acts on: granted, of that type. -/
def State.granted? (s : State) (q n ty : Nat) : Option Cmd :=
  match s.cmd? q n with
  | some cm => if cm.phase = .granted && cm.type = ty then some cm else none
  | none => none

/-! ## Coils' units (R231, R241) -/

/-- The accumulator units a coil entry holds. -/
def Coil.units (x : Coil) : List Nat := if x.pair then [x.unit, x.unitLo] else [x.unit]

/-- Whether an entry holds units on its home core (R219). -/
def Coil.holdsUnits (x : Coil) : Bool :=
  x.status == .resident || x.status == .parking || x.status == .unparking

/-- The 8-bit mask of a list of units. -/
def unitMask (us : List Nat) : BitVec 8 := us.foldl (fun m u => m ||| BitVec.ofNat 8 (2 ^ u)) 0

/-- COR_COILS of a core brought up to date with the coil table. -/
def State.refreshCoils (s : State) (c : CoreId) : State :=
  let held := s.coils.filter (fun e => e.2.holdsUnits && e.2.core == c)
  s.updCore c (fun co => { co with
    coilUnits := unitMask (held.flatMap (fun e => e.2.units))
    coilRows := (held.filter (fun e => e.2.status == .resident)).length })

/-- A coil and its tail entries made FREE (R231, R240). -/
def State.eraseCoil (s : State) (i : Nat) : State :=
  match lookup s.coils i with
  | none => s
  | some x =>
    let s := (List.range (2 ^ x.widthLog2)).foldl (fun s j => { s with coils := eraseAt s.coils (i + j) }) s
    (List.range (2 ^ x.widthLog2)).foldl (fun s j => s.refreshCoils (coreN (x.core.val + j))) s

/-! ## Releases of culled sequences (R15, R205, R215, R240) -/

/-- Whether an issued gather of a sequence is incomplete. -/
def State.gathering (s : State) (id : Nat) : Bool :=
  s.cores.toList.any (fun co => co.movQ.any (fun e => e.gather == some id))

/-- Whether a culled sequence's release may take place. -/
def State.canRelease (s : State) (id : Nat) : Bool :=
  match lookup s.seqs id with
  | none => false
  | some q => q.state == .culling && !q.inFlight && !s.gathering id
      && (match q.coil with
          | none => true
          | some c => match lookup s.coils c with
            | none => true
            | some x => x.holder.isNone)

/-- cull(s) of R205; a descriptor that reads uncorrectable abandons its tree (R337). -/
def releaseSeq (id : Nat) : Act Unit := do
  let s ← get
  match lookup s.seqs id with
  | none => pure ()
  | some q =>
    if !s.seqBad id q then
      let p ← poolAt q.ctx q.pool
      p.releaseBlock p.levels (p.rootId q.root)
    modify (fun s =>
      let b := (s.tblSeq + 64 * id) / 32
      let s := { s with
        seqs := eraseAt s.seqs id
        stacked := { s.stacked with bad := eraseAt (eraseAt s.stacked.bad b) (b + 1) } }
      match q.coil with
      | some c => s.eraseCoil c
      | none => s)

/-- One id of a CULL released if it can be. -/
def State.cullStep (s : State) (q n id : Nat) : State :=
  if !s.canRelease id then s else
  match (releaseSeq id).run s with
  | .ok (_, s) => s.updCmd q n (fun cm => { cm with culls := cm.culls.filter (· != id) })
  | .error (.status st nt) =>
    (s.noteErr nt).updCmd q n (fun cm => { cm with culls := cm.culls.filter (· != id), status := st })
  | .error _ => s

/-- Every deferred release that may take place now; a CULL with none left is ready to commit (R15). -/
def State.runCulls (s : State) : State :=
  s.cmds.foldl (fun s cm =>
    if cm.type = tyCull && cm.phase = .dispatched then
      (cm.culls.foldl (fun s id => s.cullStep cm.q cm.n id) s).updCmd cm.q cm.n (fun x =>
        if x.culls.isEmpty then { x with phase := .ready } else x)
    else s) s

/-! ## Roles (R17 to R19) -/

/-- Whether a queue's role class may run in a role. -/
def roleAllows (role cls : Nat) : Bool := role == 3 || cls == 3 || role == cls

/-- Regions a command has work in: its instances' and its groups' cores. -/
def State.cmdRegions (s : State) (cm : Cmd) : List RegionId :=
  cm.insts.filterMap (fun i => i.placed.map (fun p => regionOfCore p.1))
    ++ cm.rounds.filterMap (fun r => match lookup s.coils r.coil with
        | some x => if x.holdsUnits then some (regionOfCore x.core) else none
        | none => none)

/-- Whether a command that has not ended runs an excluded kernel in a region. -/
def State.excluded (s : State) (g : RegionId) (role : Nat) : Bool :=
  s.cmds.any (fun cm => cm.phase != .ended && (s.cmdRegions cm).contains g
    && (match lookup s.queues cm.q with
        | some qu => !roleAllows role qu.role
        | none => false))

/-- A written role takes effect when the last excluded kernel has completed (R18). -/
def State.roleEffect (s : State) (g : RegionId) : State :=
  let r := s.regions[g]
  if r.rolePending && !s.excluded g r.role then
    s.updRegion g (fun r => { r with roleNow := r.role, rolePending := false })
  else s

def State.roleEffects (s : State) : State := (List.finRange 12).foldl State.roleEffect s

/-! ## Records and the status block (R301, R310, R311, R462) -/

def qstateCode : QState → Nat
  | .active => 0
  | .destroying => 1
  | .destroyed => 2

/-- The 64 bytes of a status block (R301). -/
def Queue.statusBytes (qu : Queue) : List Byte :=
  leBytes 8 qu.accepted ++ leBytes 8 qu.completed ++ leBytes 4 (qu.gen.toNat + qstateCode qu.state * 2 ^ 16) ++ zeros 44

/-- DETAIL of a record (R310). -/
def Cmd.detail (cm : Cmd) : Nat :=
  match cm.trap with
  | some t => t.core + t.ks * 2 ^ 7 + t.index % 65536 * 2 ^ 16 + 2 ^ 63
  | none => if cm.type = tyKernel then min cm.flags.emptyRows (2 ^ 32 - 1) + min cm.dups (2 ^ 31 - 1) * 2 ^ 32 else 0

/-- The 32 bytes of a completion record (R310). -/
def Cmd.record (cm : Cmd) (depth : Nat) : List Byte :=
  leBytes 4 (cm.status + cm.type * 2 ^ 8 + cm.flags.bits * 2 ^ 16 + bitN ((cm.n - 1) / depth % 2 == 0) * 2 ^ 31)
    ++ leBytes 4 (min cm.flags.satCount 65535 + min cm.flags.poisonedRows 65535 * 2 ^ 16)
    ++ leBytes 8 cm.n ++ leBytes 8 cm.tag ++ leBytes 8 cm.detail

/-- Whether a held write is ACCEPTED's; the others keep the queue from posting (R462). -/
def HeldWrite.accepts : HeldWrite → Bool
  | .accepted _ => true
  | _ => false

def Queue.postHeld (qu : Queue) : Bool := qu.held.any (fun w => !w.1.accepts)

def Queue.acceptHeld (qu : Queue) : Bool := qu.held.any (fun w => w.1.accepts)

/-- A write of Galwin's own structures that cannot be made is held; a translation fault or a port that is down is logged
once (R462). -/
def State.holdWrite (s : State) (q : Nat) (w : HeldWrite) (e : AccErr) (va : Nat) : State :=
  match lookup s.queues q with
  | none => s
  | some qu =>
    let logged := qu.held.any (fun x => x.1 == w && x.2)
    let logs := match e with
      | .status _ _ => true
      | .hostDown _ => true
      | _ => false
    let s := s.updQueue q (fun x => { x with held := x.held.filter (fun y => y.1 != w) ++ [(w, logged || logs)] })
    match e with
    | .status _ nt => if logged then s else s.noteErr nt
    | .hostDown h =>
      if logged then s
      else s.logEv { source := 12, cause := 1, unit := h.val, ctx := some qu.ctx, address := va }
    | .resetting g => s.logAbsent (.region g)
    | .fenced g => s.logAbsent (.region g)
    | .noRoute _ => s

/-- A translation fault's address moved on: the byte of a structure that is written first. -/
def AccErr.from4 : AccErr → AccErr
  | .status st (.xlate ctx va) => .status st (.xlate ctx (va + 4))
  | e => e

/-- The record of the queue's next command written, its bytes from 0x04 on first, then COMPLETED, then the interrupt (R311). -/
def State.postRecord (s : State) (q : Nat) (qu : Queue) : State :=
    match s.cmd? q (qu.completed + 1) with
    | none => s
    | some cm =>
      if cm.phase != .ended || !cm.settled then s else
      let va := qu.cplRing + 32 * ((cm.n - 1) % qu.depth)
      match s.writeVirt none qu.ctx va (cm.record qu.depth) with
      | .error e => s.holdWrite q (.record cm.n) e.from4 (va + 4)
      | .ok s1 =>
        let qu' := { qu with completed := cm.n }
        match s1.writeVirt none qu.ctx qu.statusBlock qu'.statusBytes with
        | .error e => s1.holdWrite q (.record cm.n) e qu.statusBlock
        | .ok s2 =>
          let s2 := s2.updQueue q (fun x => { x with
            completed := cm.n
            held := x.held.filter (fun w => w.1.accepts)
            prevOk := if cm.type = tyHint then x.prevOk else some cm.mark })
          let s2 := { s2 with cmds := s2.cmds.filter (fun c => !(c.q == q && c.n == cm.n)) }
          if cm.irq && qu.irqEn then
            match lookup s2.ctxs qu.ctx with
            | some c => s2.msix c.home qu.vector (some qu.ctx)
            | none => s2
          else s2

/-- The queue's next record posted, if it may be: none while a write of an earlier one is held (R311, R462). -/
def State.postNext (s : State) (q : Nat) : State :=
  match lookup s.queues q with
  | none => s
  | some qu => if qu.postHeld || qu.state != .active then s else s.postRecord q qu

/-- Records posted in queue order as far as they go: fuel, queue. -/
def State.postGo : Nat → Nat → State → State
  | 0, _, s => s
  | f + 1, q, s =>
    let s' := s.postNext q
    match lookup s.queues q, lookup s'.queues q with
    | some a, some b => if a.completed = b.completed then s' else State.postGo f q s'
    | _, _ => s

def State.post (s : State) (q : Nat) : State := State.postGo s.cmds.length q s

/-! ## The end of a command (R157, R209, R327) -/

/-- A byte as it was last written, whatever its block's check bits say. -/
def State.keptByte (s : State) (l : Loc) : Option Byte :=
  match s.ramOf l with
  | some (m, a) => lookup m.cells a
  | none => none

/-- Bytes of a structure that Galwin writes whole, as it holds them: as last written; free where nothing is left of them (log 19). -/
def heldBytes (ctx va len salt : Nat) : Act (List Byte) := fun s =>
  match s.xlateRange none ctx va len false with
  | .error e => .error e
  | .ok ls =>
    let kept := ls.flatMap (fun l => (List.range l.2).map (fun i => s.keptByte (l.1.shift i)))
    .ok ((List.range kept.length).map (fun i =>
      (kept.getD i none).getD (BitVec.ofNat 8 (Config.freeNat 1 [salt, va + i, s.freshCtr]))), s.fresh)

/-- The counter block with STATE IDLE (R155, R157). -/
def idleBlock (bs : List Byte) (jstep bitmap : Nat) : List Byte :=
  leBytes 4 0x0100 ++ leBytes 4 (jstep + fld (leAt bs 4 4) 28 16 * 2 ^ 16) ++ leBytes 8 (leAt bs 8 8)
    ++ leBytes 8 bitmap ++ leBytes 8 (leAt bs 0x18 8) ++ zeros 32

/-- Bytes 0x00 to 0x1F of the bitmap with STATE_COPY IDLE (R156, R157). -/
def idleBitmap (bs : List Byte) : List Byte :=
  leBytes 4 (0x0100 + fld (leAt bs 0 4) 30 18 * 2 ^ 18) ++ zeros 4 ++ (bs.drop 8).take 20
    ++ leBytes 4 (leAt bs 0x1C 1)

/-- The two writes at a command's end (R157). -/
def idleCounter (ctx : Nat) (cm : Cmd) : Act Unit := do
  if cm.counter != 0 then
    let cb ← heldBytes ctx cm.counter 64 0
    let bm ← heldBytes ctx cm.bitmap 32 1
    putVirt ctx cm.counter (idleBlock cb cm.jstep cm.bitmap)
    putVirt ctx cm.bitmap (idleBitmap bm)

/-- One page or block given back to its sequence's pool; the pools that have read uncorrectable, and whether the part that holds the pool
is away, so that it is still to be given back. -/
def returnOne (ctx seq : Nat) (push : Pool → Act Unit) (x : State × List Nat) : (State × List Nat) × Bool :=
  match lookup x.1.seqs seq with
  | none => (x, false)
  | some sq =>
    if x.2.contains sq.pool then (x, false) else
    match (poolAt ctx sq.pool >>= push).run x.1 with
    | .ok (_, s) => ((s, x.2), false)
    | .error (.status _ nt) => ((x.1.noteErr nt, sq.pool :: x.2), false)
    | .error _ => (x, true)

/-- Things given back, last taken first; what is left of them stays in order (R209). -/
def returnEach {α : Type} (ctx : Nat) (seq : α → Nat) (push : α → Pool → Act Unit) (l : List α) (x : State × List Nat) :
    (State × List Nat) × List α :=
  l.reverse.foldl (fun y a =>
    let r := returnOne ctx (seq a) (push a) y.1
    (r.1, if r.2 then a :: y.2 else y.2)) (x, [])

/-- Pages and blocks of a command given back, as far as the pools' parts answer (R209). -/
def State.returnTaken (s : State) (ctx : Nat) (cm : Cmd) : State × List (Nat × Nat) × List AppendPage :=
  let (x, blocks) := returnEach ctx (·.1) (fun (r : Nat × Nat) p => p.pushBlock r.2) cm.reserved (s, [])
  let (x, pages) := returnEach ctx AppendPage.seq (fun a p => p.pushPage a.page) (cm.pages.filter AppendPage.taken) x
  (x.1, blocks, pages)

/-- A command's round kernels gone from the kernel slots that a test picks by their groups' first coils (R233, R234). -/
def State.endRounds (s : State) (q n : Nat) (p : Nat → Bool) : State :=
  (List.finRange 96).foldl (fun s c => (List.finRange 4).foldl (fun s k =>
    if (s.slot c k).cmd == some (q, n) && (s.slot c k).round.any p then s.clearSlot c k else s) s) s

/-- A ROUND's round kernels stopped: nothing of them is kept. -/
def State.stopRounds (s : State) (q n : Nat) : State :=
  match s.cmd? q n with
  | none => s
  | some cm => if cm.type = tyRound then
      (s.endRounds q n (fun _ => true)).updCmd q n (fun x => { x with roundDone := [], saves := [], outs := [] }) else s

/-- Targets, coils and round kernels that a command holds, let go (R11, R227). -/
def State.releaseHolds (s : State) (q n : Nat) (cm : Cmd) : State :=
  let s := s.stopRounds q n
  let s := cm.targets.foldl (fun s i => s.updSeq i (fun x => { x with inFlight := false })) s
  { s with coils := s.coils.map (fun e => if e.2.holder = some (q, n) then (e.1, { e.2 with holder := none }) else e) }

/-- An end's write that cannot be made: each PART_ABSENT answer is noted, a translation fault once (R462). -/
def State.noteOwed (s : State) (q n : Nat) (cm : Cmd) (e : AccErr) : State :=
  match e with
  | .status _ nt => if cm.endLogged then s else (s.noteErr nt).updCmd q n (fun x => { x with endLogged := true })
  | .resetting g => s.logAbsent (.region g)
  | .fenced g => s.logAbsent (.region g)
  | .hostDown _ => s
  | .noRoute _ => s

/-- What a command owes when it ends or starts over: the two writes of its counter structures, then its pages and blocks given back.
Whether nothing is left (R157, R209, R462). -/
def State.payOwed (s : State) (q n : Nat) : State × Bool :=
  match s.cmd? q n with
  | none => (s, true)
  | some cm =>
    let ctx := s.queueCtx q
    match (idleCounter ctx cm).run s with
    | .error e => (s.noteOwed q n cm e, false)
    | .ok (_, s) =>
      let (s, blocks, pages) := s.returnTaken ctx cm
      (s.updCmd q n (fun x => { x with counter := 0, reserved := blocks, pages := pages }), blocks.isEmpty && pages.isEmpty)

/-- The writes that an end owes, then the releases that follow from it; a part that does not answer leaves the rest to a
retry (R462). Pages whose pool cannot be read stay allocated. -/
def State.settle (s : State) (q n : Nat) : State :=
  match s.cmd? q n with
  | none => s
  | some cm =>
    if cm.phase != .ended || cm.settled then s else
    let (s, paid) := s.payOwed q n
    if !paid then s else
    ((s.releaseHolds q n cm).updCmd q n (fun x => { x with
      settled := true
      targets := []
      paths := []
      saves := [] })).runCulls.roleEffects

/-- Ends of a queue's commands taken up again. -/
def State.settleQueue (s : State) (q : Nat) : State :=
  (s.cmds.filter (fun c => c.q == q && c.phase == .ended && !c.settled)).foldl (fun s c => s.settle c.q c.n) s

/-- A command's end: its status, its mark if it commits, and the records that may follow (R327, R311). -/
def State.endCmd (s : State) (q n status : Nat) (commit : Bool) : State :=
  ((s.updCmd q n (fun cm => { cm with phase := .ended, status := status, mark := commit, held := false })).settle q n).post q

/-- Whether an instance of a command holds a kernel slot. -/
def Cmd.placedAny (cm : Cmd) : Bool := cm.insts.any (fun i => i.placed.isSome && !i.ended)

/-- The end of a command that has failed or is cancelled, once none of its instances holds a kernel slot: a recorded trap names its status
before a cancel does (R60, R61, R316). -/
def State.trapEnd (s : State) (q n : Nat) : State :=
  match s.cmd? q n with
  | none => s
  | some cm =>
    if cm.phase = .ended || cm.placedAny then s
    else match cm.trap, cm.ending with
      | some t, _ => s.endCmd q n t.status false
      | none, some (st, h) =>
        let s := match h with
          | some h => { s with mbox := s.mbox.set h { s.mbox[h] with count := s.mbox[h].count + 1 } }
          | none => s
        s.endCmd q n st false
      | none, none => s

/-- Every instance of a command that runs or loads is asked to stop at its next issue (R60, R316). -/
def State.askAll (s : State) (q n : Nat) (why : StopWhy) : State :=
  match s.cmd? q n with
  | none => s
  | some cm => cm.insts.foldl (fun s i => match i.placed, i.ended with
      | some (c, k), false =>
        s.updSlot c k (fun sl => if sl.state = .running || sl.state = .loading then { sl with stop := some why } else sl)
      | _, _ => s) s

/-- A command that is to end with a status: its instances stop at their next issues, then it ends; one that ends already keeps its
status. -/
def State.endWith (s : State) (q n status : Nat) (h : Option HostPort) (why : StopWhy) : State :=
  match s.cmd? q n with
  | none => s
  | some cm =>
    let s := if cm.ending.isSome then s else s.updCmd q n (fun cm => { cm with ending := some (status, h) })
    (s.askAll q n why).trapEnd q n

/-- A command that fails: its instances stop, nothing commits (R60). -/
def State.failCmd (s : State) (q n status : Nat) : State := s.endWith q n status none .abort

/-- All placed instances of a command stopped and discarded at once; flags fold as at a stop (R105, R340, R345). -/
def State.stopInstances (s : State) (q n : Nat) : State :=
  match s.cmd? q n with
  | none => s
  | some cm => cm.insts.foldl (fun s i => match i.placed, i.ended with
      | some (c, k), false => (s.freeSlot c k).updCmd q n (fun cm => cm.unplace c k 0)
      | _, _ => s) s

/-- A command held on a fenced part: its instances are stopped, nothing commits; one that was to end ends (R340). -/
def State.holdCmd (s : State) (q n : Nat) (why : HoldWhy) : State :=
  (((s.stopInstances q n).stopRounds q n).trapEnd q n).updCmd q n (fun cm =>
    if cm.phase = .ended then cm else { cm with held := true, heldOn := some why, lossy := true })

/-- A command whose dispatch did not come about for want of a part or a host port waits again. -/
def State.requeue (s : State) (q n : Nat) : State :=
  s.updCmd q n (fun cm => if cm.phase = .ended then cm else { cm with phase := .waiting })

/-- What a failing access does to the command that made it (R332, R337, R340, R342). -/
def State.cmdErr (s : State) (q n : Nat) (e : AccErr) : State :=
  match e with
  | .status st nt => (s.noteErr nt).failCmd q n st
  | .resetting g => (s.logAbsent (.region g)).requeue q n
  | .hostDown _ => s.requeue q n
  | .fenced g => ((s.logAbsent (.region g)).holdCmd q n (.die (dieOfRegion g).val)).requeue q n
  | .noRoute node =>
    ((s.logEv { source := 11, cause := 7, status := stAbsent, unit := 0xFFFF, address := node }).holdCmd q n (.route node)).requeue q n

end Sys2Proof.Machine
end

