-- ==== Sys2Proof/Machine/Issue.lean ====
section
/-! DEFINITION. The issue rule that every kernel instruction passes, the sequencer's choice among kernel slots, and the stop of an instance
(03, R48 to R54, R58 to R61; 04, R66; 16, R315). -/

namespace Sys2Proof.Machine

/-- What a failing access does to the instruction that made it: a status traps it; a resetting part or a host port that is
down makes it wait; a fenced part holds its command (R59, R332, R340, R342). -/
def State.accFail (s : State) (c : CoreId) (k : KsId) (e : AccErr) : State :=
  match e with
  | .status n nt => (s.noteErr nt).trapSlot c k n
  | .resetting g => s.logAbsent (.region g)
  | .hostDown _ => s
  | .fenced g =>
    let s := s.logAbsent (.region g)
    match (s.slot c k).cmd with
    | some (q, n) => s.holdCmd q n (.die (dieOfRegion g).val)
    | none => s
  | .noRoute node =>
    let s := s.logEv { source := 11, cause := 7, status := stAbsent, unit := 0xFFFF, address := node }
    match (s.slot c k).cmd with
    | some (q, n) => s.holdCmd q n (.route node)
    | none => s

/-! ## Fetch (R58) -/

/-- The word a kernel slot's next instruction has in the core's instruction cache. -/
def State.fetched (s : State) (c : CoreId) (k : KsId) : Option W128 :=
  let sl := s.slot c k
  if sl.pc < sl.hdr.length then
    (s.cores[c].icache.find? (fun l => l.ctx == sl.ctx && l.image == sl.image && l.index == sl.pc)).map (·.word)
  else none

/-! ## The issue rule (R48, R50, R66) -/

/-- The engine of a row; none: the sequencer itself (R50). -/
def RowKind.engine : RowKind → Option Engine
  | .fence | .fenceEnd | .claim | .commit | .scalar | .branch => none
  | .ldt | .ldtGather | .ldtWindow | .stt | .sttContrib | .movt | .kvapp => some .mover
  | .vopTile | .window | .norm | .measure | .cast | .rot | .argmax | .gumbel => some .vector
  | .mma | .mma3 | .cmma | .score | .step => some .anvil

/-- What one row's instruction plans when every check of its own has passed: the accumulator names it reserves, its
cycles, whether it waits for the atomic unit, and what it changes. -/
structure Plan where
  names : List Nat
  cycles : Nat
  waitsAtomic : Bool
  gather : Option Nat := none
  remote : Bool := false
  apply : State → Except AccErr State

/-- Whether a core's anvil group may issue for a context: it issued within the last 10 µs, holds a token, or a hint in force of the
context waives it (R417, R418). -/
def State.anvilReady (s : State) (c : CoreId) (ctx : Nat) : Bool :=
  s.cores[c].token || s.pwr.hints.any (fun h => h.started && h.ctx == ctx)
    || (match s.cores[c].anvilAt with
        | some t => decide (s.timeNs < t + 10000)
        | none => false)

/-- The scalar register that a dimension is read from or through (R53, R68). -/
def dimScalar (spec : Nat) : List Nat :=
  if fld spec 31 30 = 1 || fld spec 31 30 = 2 then [fld spec 5 0] else []

/-- The scalar registers that an instruction reads through the descriptors of its tiles (R48, R53). -/
def KSlot.dimScalars (sl : KSlot) (w : W128) (r : RowKind) : List Nat :=
  ((if r = .movt then [] else tilesRead w r) ++ tilesWritten w r).flatMap (fun i =>
    if sl.ts[i] = .invalid then [] else dimScalar (fld sl.t[i].toNat 95 64) ++ dimScalar (fld sl.t[i].toNat 127 96))

/-- Conditions 1, 2, 4, 5 and 6 of R48, and R417. -/
def State.mayIssue (s : State) (c : CoreId) (k : KsId) (w : W128) (r : RowKind) : Bool :=
  let sl := s.slot c k
  let fl := s.inFlightOf c k
  (scalarsRead w r).all (fun i => !sl.pendS.contains i.val)
  && (sl.dimScalars w r).all (fun i => !sl.pendS.contains i)
  && (scalarsWritten w r).all (fun i => !sl.pendS.contains i.val)
  && (predsWritten w r).all (fun i => !sl.pendP.contains i.val)
  && (tilesRead w r).all (fun i => sl.ts[i] != .pending)
  && (tilesWritten w r ++ descsWritten w r).all (fun i =>
        fl.all (fun x => !x.reads.contains i.val && !x.writes.contains i.val))
  && (match r.engine with
      | none => true
      | some e => decide (((s.cores[c].queueOf e).filter (fun x => x.ks == k)).length < 4)
          && (e != .anvil || s.anvilReady c sl.ctx))

/-! ## What stands at the sequencer (R52, R66) -/

/-- What the sequencer finds at a kernel slot's next instruction: it waits (none: there is none to be seen); it traps at one of checks 1 to 4; its predicate is off; or the
conditions of R48 that the word and the registers decide hold. -/
inductive Front where
  | hold (r : Option RowKind)
  | trap (r : Option RowKind) (status : Nat)
  | skip (r : RowKind)
  | go (r : RowKind) (w : W128)
deriving DecidableEq, Repr

/-- Fetch, checks 1 and 2, predicate, checks 3 and 4, then the conditions of R48. -/
def State.front (s : State) (c : CoreId) (k : KsId) : Front :=
  let sl := s.slot c k
  if !s.coreUp c || sl.state != .running || sl.round.isSome then .hold none else
  match s.fetched c k with
  | none => .hold none
  | some w =>
    match rowOf w with
    | none => .trap none stMalformed
    | some r =>
      match check12 w with
      | some st => .trap (some r) st
      | none =>
        if sl.pendP.contains (wPred w) then .hold (some r)
        else if (sl.pred (wPred w)) == wPneg w then .skip r
        else match check34 w r with
        | some st => .trap (some r) st
        | none => if s.mayIssue c k w r then .go r w else .hold (some r)

/-! ## Waits of FENCE (R55) -/

/-- Whether a kernel slot has contributions that are not yet applied, staged or dropped. -/
def State.contribOpen (s : State) (c : CoreId) (k : KsId) : Bool :=
  (s.inFlightOf c k).any (fun e => e.req.isSome)

/-- Whether every wait that FENCE bits name is over. -/
def State.fenceOpen (s : State) (c : CoreId) (k : KsId) (f : Nat) : Bool :=
  let mine (q : List InFlight) : Bool := q.any (fun e => e.ks == k)
  let co := s.cores[c]
  !(bit f 0 && mine co.anvQ) && !(bit f 1 && mine co.vecQ) && !(bit f 2 && mine co.movQ)
    && !(bit f 3 && (!(s.slot c k).atoms.isEmpty || s.contribOpen c k))
    && !(bit f 4 && ((s.inFlightOf c k).any (fun e => e.stores) || s.contribOpen c k || 0 < (s.slot c k).staged))


/-! ## The sequencer's choice (R51) -/

/-- Whether a word of a row names accumulator slots. -/
def namesAcc (w : W128) : RowKind → Bool
  | .mma | .mma3 | .cmma | .step => true
  | .stt | .sttContrib | .kvapp | .vopTile | .measure | .cast => wMode w 1
  | _ => false

/-- Whether a kernel slot's next instruction surely satisfies R48: one that names accumulator slots counts only with no reservation of the
kernel slot outstanding, and a FENCE only with its waits over (log 125). -/
def State.ready (s : State) (c : CoreId) (k : KsId) : Bool :=
  match s.front c k with
  | .hold _ => false
  | .trap _ _ => true
  | .skip _ => true
  | .go r w => match r with
    | .fence => s.fenceOpen c k (wFunc w)
    | .fenceEnd => s.fenceOpen c k 0x1F
    | _ => !namesAcc w r || (s.inFlightOf c k).all (fun x => x.accs.isEmpty)

/-- The queue priority of a kernel slot's command. -/
def State.slotPrio (s : State) (c : CoreId) (k : KsId) : Nat :=
  match (s.slot c k).cmd with
  | some (q, _) => match lookup s.queues q with
    | some qu => qu.prio
    | none => 0
  | none => 0

/-- The slots in round-robin order, starting after one. -/
def slotsAfter (last : Nat) : List KsId := (List.finRange 4).map (fun i => ⟨(last + 1 + i.val) % 4, Nat.mod_lt _ (by decide)⟩)

/-- Whether the sequencer's choice is slot k, given that k may issue: a slot passed over for 64 cycles first, then the highest queue
priority, then the next in round-robin order. -/
def State.turn (s : State) (c : CoreId) (k : KsId) : Bool :=
  let able := (List.finRange 4).filter (fun j => j == k || s.ready c j)
  let late := able.filter (fun j => 64 ≤ (s.cores[c]).passed[j])
  let pool := if late.isEmpty then able.filter (fun j => able.all (fun i => s.slotPrio c i ≤ s.slotPrio c j)) else late
  (slotsAfter (s.cores[c]).lastSlot).find? (fun j => pool.contains j) == some k

/-- The pc moved past an instruction; the slots that could have issued were passed over (R51). -/
def State.advance (s : State) (c : CoreId) (k : KsId) : State :=
  let able := (List.finRange 4).filter (fun j => j != k && s.ready c j)
  (s.updSlot c k (fun sl => { sl with pc := sl.pc + 1 })).updCore c (fun co => { co with
    lastSlot := k.val
    passed := Vector.ofFn (fun j => if able.contains j then co.passed[j] + 1 else 0) })

/-! ## Stops (R43, R60, R61, R315, R316) -/

/-- Positions that a discarded instance's KVAPPs wrote count no longer: those of instructions younger than a place in age. -/
def Cmd.forget (cm : Cmd) (i age : Nat) : Cmd :=
  let keep (ws : List Written) : List Written :=
    (ws.filter (fun w => w.inst != i || w.age ≤ age)).map (fun w => if w.inst = i then { w with age := 0 } else w)
  { cm with pages := cm.pages.map (fun a => { a with keys := keep a.keys, values := keep a.values }) }

/-- A STOPPING slot with no issued instruction left becomes FREE; its instance keeps its resume value and waits for a place, or its command
ends. -/
def State.settleStop (s : State) (c : CoreId) (k : KsId) : State :=
  let sl := s.slot c k
  if sl.state != .stopping || !(s.inFlightOf c k).isEmpty || !sl.atoms.isEmpty then s else
  match sl.cmd with
  | none => s.freeSlot c k
  | some (q, n) =>
    let s := (s.freeSlot c k).updCmd q n (fun cm => cm.unplace c k sl.saved)
    let s := if sl.stop = some .preempt then { s with acctPreempt := bump s.acctPreempt (s.queueCtx q) 1 } else s
    s.trapEnd q n

/-- An instance that a cancel or an abort stops: STOPPING, its issued instructions discarded, then FREE (R43, R60). -/
def State.stopNow (s : State) (c : CoreId) (k : KsId) : State :=
  ((s.discardIssued c k).updSlot c k (fun sl => { sl with state := .stopping, saved := 0 })).settleStop c k

/-- Whether a cancel or an abort stops the slot when the sequencer next takes up its instruction, held there or not (log 126). -/
def KSlot.stopsAtIssue (sl : KSlot) : Bool := sl.stop == some .cancel || sl.stop == some .abort

/-! ## Issue (R47, R49, R66) -/

/-- Names that exist for the instance: V of R132, or ACC_SLOTS of R47. -/
def KHeader.accNames (h : KHeader) : Nat :=
  if h.spillBack then min 16 (h.accSlots + h.spillTiles) else h.accSlots

/-- Check 8 of R66: names that do not exist, or more distinct names than physical slots (R47, R131, R132). -/
def overcommit (h : KHeader) (names : List Nat) : Bool :=
  names.any (fun n => h.accNames ≤ n) || decide (h.accSlots < names.eraseDups.length)

/-- The cycles for which an instruction keeps its engine: behind another anvil instruction the fixed term is not paid again; a
narrow one that finds the group idle takes 32 more, but SCORE, which runs at the wide geometry (R87, R110, R181; log 115). -/
def engineCycles (e : Engine) (r : RowKind) (idle narrow : Bool) (cycles : Nat) : Nat :=
  if e ≠ .anvil then cycles else if idle then cycles + (if narrow && r != .score then 32 else 0) else cycles - 40

/-- The contents of a name's slot on the four anvils become unspecified (R116). -/
def State.spoilAcc (s : State) (c : CoreId) (k : KsId) (names : List Nat) : State :=
  let sl := s.slot c k
  let size := if sl.hdr.narrow then 0x8000 else 0x10000
  let bytes (a : Nat) : List Byte := (List.range size).map (fun i => Config.freeByte s.freshCtr (a + i))
  let places := names.flatMap (fun n => (List.range 4).map (fun anvil => sl.accAddr c n anvil 0 0))
  { s with accMem := places.foldl (fun m a => m.force (Config.freeByte s.freshCtr) a (bytes a)) s.accMem }.fresh

/-- What an instruction leaves that fails after its issue: the tiles it writes are INVALID, an anvil instruction's reserved slots are
unspecified, and the slot traps (R49, R59, R116). -/
def State.applyFail (s : State) (c : CoreId) (k : KsId) (w : W128) (r : RowKind) (names : List Nat) (err : AccErr) : State :=
  match err with
  | .status _ _ =>
    let s := if r.engine = some .anvil then s.spoilAcc c k names else s
    (s.updSlot c k (fun sl => { sl with
      ts := (tilesWritten w r ++ descsWritten w r).foldl (fun (t : Vector TState 32) (i : Fin 32) => t.set i.val .invalid i.isLt)
        sl.ts })).accFail c k err
  | _ => s.accFail c k err

/-- An issued instruction enters its engine's queue: names reserved, written tiles PENDING; its flags and its multiply-accumulates take
effect when it completes (R48, R49, R109). -/
def State.enter (s : State) (c : CoreId) (k : KsId) (e : Engine) (w : W128) (r : RowKind) (p : Plan) (macs : Nat) (flags : Flags) :
    State :=
  let sl := s.slot c k
  let ent : InFlight :=
    { ks := k, index := sl.pc, age := sl.resAge, reads := (tilesRead w r).map (·.val),
      writes := (tilesWritten w r ++ descsWritten w r).map (·.val), accs := p.names,
      cycles := engineCycles e r (s.cores[c].queueOf e).isEmpty sl.hdr.narrow p.cycles, macs := macs, flags := flags,
      req := if p.waitsAtomic then some (s.nextReq - 1) else none, gather := p.gather, remote := p.remote,
      stores := r == .kvapp || r == .sttContrib
        || (tilesWritten w r).any (fun i => fld sl.t[i].toNat 50 48 == 1) }
  let s := s.updCore c (fun co =>
    let co := co.setQueue e (co.queueOf e ++ [ent])
    if e = .anvil then { co with anvilAt := some s.timeNs, token := false } else co)
  let s := s.updSlot c k (fun sl => { sl with
    ts := (tilesWritten w r ++ descsWritten w r).foldl (fun (t : Vector TState 32) (i : Fin 32) => t.set i.val .pending i.isLt) sl.ts
    acc := p.names.foldl (fun a n => a.set (n % 16) { a[n % 16]'(Nat.mod_lt _ (by decide)) with lastRes := sl.resAge }
      (Nat.mod_lt _ (by decide))) sl.acc
    resAge := sl.resAge + 1 })
  s.advance c k

/-- A plan carried out and its instruction entered: what the plan counts and flags waits for the completion. -/
def State.carryOut (s : State) (c : CoreId) (k : KsId) (e : Engine) (w : W128) (r : RowKind) (p : Plan) : Except AccErr State := do
  let old := (s.slot c k).flags
  let macs := (s.cores[c]).cntMac
  let s2 ← p.apply (s.updSlot c k (fun sl => { sl with flags := {} }))
  let fl := (s2.slot c k).flags
  let n := (s2.cores[c]).cntMac - macs
  let s3 := (s2.updSlot c k (fun sl => { sl with flags := old })).updCore c (fun co => { co with cntMac := macs })
  return s3.enter c k e w r p n fl

/-- The issue of one instruction of row r at a kernel slot: what stands at the sequencer, the sequencer's choice, a stop that waits for the
next issue, the row's own checks 5 to 7, check 8, then its effect. An instruction that may not issue, and a command whose row is not the
next instruction's, leave the state unchanged (log 4). `resident` brings the names of R134 into physical slots; none: the instruction
waits. -/
def State.issue (s : State) (c : CoreId) (k : KsId) (r : RowKind) (e : Engine)
    (resident : State → List Nat → Except AccErr (Option State))
    (plan : KSlot → W128 → Except AccErr (Option Plan)) : State :=
  let sl := s.slot c k
  match s.front c k with
  | .hold r' => if r' = some r && sl.stopsAtIssue then s.stopNow c k else s
  | .trap r' st => if r'.getD r ≠ r || !s.turn c k then s else s.trapSlot c k st
  | .skip r' =>
    if r' ≠ r || !s.turn c k then s else if sl.stopsAtIssue then s.stopNow c k else s.advance c k
  | .go r' w =>
    if r' ≠ r || !s.turn c k then s
    else if sl.stopsAtIssue then s.stopNow c k
    else match plan sl w with
      | .error err => s.accFail c k err
      | .ok none => s.advance c k
      | .ok (some p) =>
        if overcommit sl.hdr p.names then s.trapSlot c k stOvercommit
        else if p.names.any (fun n => (s.inFlightOf c k).any (fun x => x.accs.contains n)) then s
        else match resident s p.names with
          | .error err => s.accFail c k err
          | .ok none => s
          | .ok (some s1) =>
            match s1.carryOut c k e w r p with
            | .error err => s1.applyFail c k w r p.names err
            | .ok s2 => s2

/-- The sequencer's own instructions issue without an engine (R50): `act` gives the next state, pc included. -/
def State.issueSeq (s : State) (c : CoreId) (k : KsId) (r : RowKind)
    (act : KSlot → W128 → Except AccErr State) : State :=
  let sl := s.slot c k
  match s.front c k with
  | .hold r' => if r' = some r && sl.stopsAtIssue then s.stopNow c k else s
  | .trap r' st => if r'.getD r ≠ r || !s.turn c k then s else s.trapSlot c k st
  | .skip r' =>
    if r' ≠ r || !s.turn c k then s else if sl.stopsAtIssue then s.stopNow c k else s.advance c k
  | .go r' w =>
    if r' ≠ r || !s.turn c k then s
    else if sl.stopsAtIssue then s.stopNow c k
    else match act sl w with
      | .error err => s.accFail c k err
      | .ok s' => s'

end Sys2Proof.Machine
end

