-- ==== Sys2Proof/Machine/Anvil.lean ====
section
/-! DEFINITION. The anvil group's instructions: MMA, MMA3, CMMA, SCORE, STEP (04, R74 to R79; 06; 10, R181 to R186, R190; 12, R221 to
R223). -/

namespace Sys2Proof.Machine

/-! ## Accumulating a result over slots (R75, R111, R112) -/

/-- Float sums of element (i, j), drained into the slots from `base` on. -/
def State.accumF (s : State) (c : CoreId) (k : KsId) (base m n : Nat) (ovw : Bool) (sums : Nat → Nat → List Num) :
    Except AccErr State := do
  let sl := s.slot c k
  let nar := sl.hdr.narrow
  let f := accFmt nar
  let rows ← (List.range m).mapM (fun i => do
    let parts ← (List.range (ceilDiv n 128)).mapM (fun j => do
      let len := min 128 (n - 128 * j)
      let old ← if ovw then .ok (List.replicate len 0) else s.accRow c sl (base + i / 128) j (i % 128) len
      return ((List.range len).zip old).map (fun e =>
        let r := floatAcc f ovw (accFloat nar e.2) (sums i (128 * j + e.1))
        { addr := sl.accAddr c (base + i / 128) j (i % 128) e.1, bits := f.encode r.1, ovf := none, inf := r.2 : Drained }))
    return parts.flatten)
  return (s.drain c k rows.flatten).fresh

/-- Integer sums of element (i, j), drained into the slots from `base` on. -/
def State.accumI (s : State) (c : CoreId) (k : KsId) (base m n : Nat) (ovw : Bool) (sums : Nat → Nat → List Int) :
    Except AccErr State := do
  let sl := s.slot c k
  let nar := sl.hdr.narrow
  let w := 8 * accWidth nar
  let rows ← (List.range m).mapM (fun i => do
    let parts ← (List.range (ceilDiv n 128)).mapM (fun j => do
      let len := min 128 (n - 128 * j)
      let old ← if ovw then .ok (List.replicate len 0) else s.accRow c sl (base + i / 128) j (i % 128) len
      return ((List.range len).zip old).map (fun e =>
        let a := sl.accAddr c (base + i / 128) j (i % 128) e.1
        let o := s.cores[c].ovfAt a
        let r := intAcc w ovw (accInt nar e.2, o) (sums i (128 * j + e.1))
        { addr := a, bits := uInt w r.1, ovf := r.2, newOvf := r.2.isSome && (ovw || o.isNone), inf := false : Drained }))
    return parts.flatten)
  return (s.drain c k rows.flatten).fresh

/-- Formats the anvil group reads (R71). -/
def anvilFmts : List Nat := [fBF16, fFP16, fE4M3, fE5M2, fFP4, fBG4, fINT8, fINT4]

def isIntFmt (f : Nat) : Bool := f == fINT8 || f == fINT4

/-- Kpass of a pair (R76, R87, R106). -/
def pairKpass (fa fb : Nat) (narrow : Bool) : Nat := kpassOf (max (fmtBits fa) (fmtBits fb)) narrow

/-- Cycles of passes (R87). -/
def passCycles (p m : Nat) (narrow : Bool) : Nat := p * max m (if narrow then 64 else 32)

/-! ## Pointer lists (R74) -/

/-- One problem: A's and B's tiles, first slot, overwrite form. -/
structure Problem where
  a : Tile
  b : Tile
  acc : Nat
  ovw : Bool
deriving DecidableEq, Repr

/-- A pointer list's bytes: aligned, in core store or in the home region's memory, each page of it; a list of 0 entries is placed
too (R54). One of more than 4,096 entries is not read. -/
def State.listBytes (s : State) (c : CoreId) (k : KsId) (w : W128) : Except AccErr (List Byte) :=
  let sl := s.slot c k
  let addr := sl.s[wReg w 64].toNat
  let count := sl.s[wReg w 70].toNat
  if wMode w 2 then
    (s.rangeRead c k addr (if 4096 < count then 32 else max (32 * count) 1) 32 false).map (fun bs =>
      if 4096 < count then [] else bs.take (32 * count))
  else .ok []

/-- Entry i of a list: its two bases and its third and fourth words. -/
def listWord (bs : List Byte) (i j : Nat) : Nat := leAt bs (32 * i + 8 * j) 8

/-- The VERSION check of a list's reserved fields, which comes with the other VERSION checks before check 5 (R4, R66, R74). -/
def listClean (bs : List Byte) : Bool :=
  (List.range (bs.length / 32)).all (fun i => listWord bs i 2 < 32 && listWord bs i 3 == 0)

/-- The check of a list that can be read; one that cannot fails at check 5. -/
def needClean (l : Except AccErr (List Byte)) : Except AccErr Unit :=
  match l with
  | .ok bs => need (listClean bs) stVersion
  | .error _ => .ok ()

/-- The problems of an MMA or MMA3, their bases aligned. -/
def problems (w : W128) (bs : List Byte) (ta tb : Tile) : Except AccErr (List Problem) :=
  if wMode w 2 then
    (List.range (bs.length / 32)).mapM (fun i => do
      let a := listWord bs i 0
      let b := listWord bs i 1
      let x := listWord bs i 2
      need (a % 16 == 0 && b % 16 == 0) stMalformed
      return { a := { ta with base := a }, b := { tb with base := b }, acc := x % 16, ovw := bit x 4 })
  else .ok [{ a := ta, b := tb, acc := wAcc w, ovw := wMode w 0 }]

/-- A count above 4,096 (R74). -/
def KSlot.listFits (sl : KSlot) (w : W128) : Bool := !wMode w 2 || sl.s[wReg w 70].toNat ≤ 4096

/-- The notes that reading the list leaves. -/
def State.noteList (s : State) (c : CoreId) (k : KsId) (w : W128) (sl : KSlot) : State :=
  if wMode w 2 then s.noteRange c k sl.s[wReg w 64].toNat (32 * sl.s[wReg w 70].toNat) false else s

/-- Whether the add-form problems meet slots of their kind, counting overwrites earlier in the list (R74, R128). -/
def kindsOk (sl : KSlot) (kind : AccKind) (m : Nat) : List Nat → List Problem → Bool
  | _, [] => true
  | fresh, p :: r =>
    let names := accSpan p.acc m
    (p.ovw || sl.kindOk (names.filter (fun n => !fresh.contains n)) kind)
      && kindsOk sl kind m (if p.ovw then fresh ++ names else fresh) r

/-- The integer elements of an INT8 or INT4 tile: block scales are not read (R113). -/
def State.readInts (s : State) (c : CoreId) (k : KsId) (t : Tile) : Except AccErr (List (List Int)) :=
  (s.readRaw c k t).map (fun m => m.map (fun row => row.map (sInt (fmtBits t.fmt))))

/-- One problem of an MMA (R75, R111, R190). -/
def State.mmaOne (s : State) (c : CoreId) (k : KsId) (zmul : Bool) (p : Problem) : Except AccErr State := do
  let nar := (s.slot c k).hdr.narrow
  let kp := pairKpass p.a.fmt p.b.fmt nar
  if isIntFmt p.a.fmt then
    let a ← s.readInts c k p.a
    let b ← s.readInts c k p.b
    let s := (s.noteTile c k p.a).noteTile c k p.b
    let s ← s.accumI c k p.acc p.a.rows p.b.cols p.ovw (fun i j =>
      (runs kp ((a.getD i []).zip (column 0 b j))).map (fun ps => (ps.map (fun e => e.1 * e.2)).sum))
    return if p.ovw then s.setKind c k p.acc p.a.rows p.b.cols .integer else s
  else
    let a ← s.readNums c k p.a
    let b ← s.readNums c k p.b
    let s := (s.noteTile c k p.a).noteTile c k p.b
    let s ← s.accumF c k p.acc p.a.rows p.b.cols p.ovw (fun i j =>
      (runs kp (products zmul (a.getD i []) (column .nan b j))).map passSum)
    return if p.ovw then s.setKind c k p.acc p.a.rows p.b.cols .float else s

/-- Limits on M, N and K (R75). -/
def mmaLimits (a b : Tile) : Bool :=
  a.dimsOk && b.dimsOk && a.rows ≤ 1024 && b.cols ≤ 512 && a.cols ≤ 16384

/-- MMA's checks 5 to 7 and its effect. -/
def State.planMma (s : State) (c : CoreId) (k : KsId) (sl : KSlot) (w : W128) : Except AccErr (Option Plan) := do
  let list := s.listBytes c k w
  needClean list
  let ta ← s.tileOp c k (wTA w) anvilFmts false
  let tb ← s.tileOp c k (wTB w) anvilFmts false
  need (isIntFmt ta.fmt == isIntFmt tb.fmt) stMalformed
  need (ta.cols == tb.rows) stMalformed
  need ((!is4bit ta.fmt || ta.kaxis == 0) && (!is4bit tb.fmt || tb.kaxis == 1)) stMalformed
  let kind := if isIntFmt ta.fmt then AccKind.integer else .float
  let bs ← list
  let ps ← problems w bs ta tb
  need (kindsOk sl kind ta.rows [] ps) stMalformed
  need (sl.listFits w && mmaLimits ta tb) stLimit
  if ta.empty || tb.empty || ps.isEmpty then return none
  need (ps.all (fun p => p.a.extentOk sl false && p.b.extentOk sl false)) stMalformed
  let kp := pairKpass ta.fmt tb.fmt sl.hdr.narrow
  return some
    { names := (ps.flatMap (fun p => accSpan p.acc ta.rows)).eraseDups
      cycles := 40 + ps.length * passCycles (ceilDiv ta.cols kp) ta.rows sl.hdr.narrow
      waitsAtomic := false
      apply := fun s =>
        (ps.foldlM (fun (s : State) p => s.mmaOne c k (wMode w 3) p) (s.noteList c k w sl)).map (fun s =>
          s.countMac c (ps.length * ta.rows * ta.cols * tb.cols)) }

/-- MMA (R75, R76). -/
def execMma (c : CoreId) (k : KsId) (s : State) : Host.Outcome State Fault Refusal :=
  .next (s.issue c k .mma .anvil (fun s ns => s.makeResident c k ns) (s.planMma c k))

/-! ## MMA3 (R77, R118) -/

/-- The high and low BF16 parts of an FP32 element. Of a finite one that rounds to an infinity R118 says that its terms are infinite: both
parts are that infinity (DESIGN CHOICE, log 130). -/
def split3 (x : Num) : Num × Num :=
  let h := bf16.round x
  if !x.isFin then (x, .zero)
  else if !h.isFin then (h, h)
  else (h, bf16.round (x.sub h))

/-- The sub-pass sums of one element, three a pass. -/
def mma3Sums (as bs : List Num) : List Num :=
  (runs 64 ((as.map split3).zip (bs.map split3))).flatMap (fun ps =>
    [passSum (ps.map (fun p => p.1.1.mul p.2.1)),
     passSum (ps.map (fun p => p.1.2.mul p.2.1)),
     passSum (ps.map (fun p => p.1.1.mul p.2.2))])

def State.mma3One (s : State) (c : CoreId) (k : KsId) (p : Problem) : Except AccErr State := do
  let a ← s.readNums c k p.a
  let b ← s.readNums c k p.b
  let s := (s.noteTile c k p.a).noteTile c k p.b
  let s ← s.accumF c k p.acc p.a.rows p.b.cols p.ovw (fun i j => mma3Sums (a.getD i []) (column .nan b j))
  return if p.ovw then s.setKind c k p.acc p.a.rows p.b.cols .float else s

def State.planMma3 (s : State) (c : CoreId) (k : KsId) (sl : KSlot) (w : W128) : Except AccErr (Option Plan) := do
  let list := s.listBytes c k w
  needClean list
  need (!sl.hdr.narrow) stMalformed
  let ta ← s.tileOp c k (wTA w) [fFP32] false
  let tb ← s.tileOp c k (wTB w) [fFP32] false
  need (ta.cols == tb.rows) stMalformed
  let bs ← list
  let ps ← problems w bs ta tb
  need (kindsOk sl .float ta.rows [] ps) stMalformed
  need (sl.listFits w && mmaLimits ta tb) stLimit
  if ta.empty || tb.empty || ps.isEmpty then return none
  need (ps.all (fun p => p.a.extentOk sl false && p.b.extentOk sl false)) stMalformed
  return some
    { names := (ps.flatMap (fun p => accSpan p.acc ta.rows)).eraseDups
      cycles := 40 + ps.length * (3 * passCycles (ceilDiv ta.cols 64) ta.rows false)
      waitsAtomic := false
      apply := fun s => (ps.foldlM (fun (s : State) p => s.mma3One c k p) (s.noteList c k w sl)).map (fun s =>
        s.countMac c (3 * ps.length * ta.rows * ta.cols * tb.cols)) }

/-- MMA3 (R77, R118). -/
def execMma3 (c : CoreId) (k : KsId) (s : State) : Host.Outcome State Fault Refusal :=
  .next (s.issue c k .mma3 .anvil (fun s ns => s.makeResident c k ns) (s.planMma3 c k))

/-! ## CMMA (R77, R120, R121) -/

/-- A sum of two planes' elements, rounded to the operand's own format; E4M3 saturates (R121). -/
def planeSum (fmt : Nat) (a b : Num) : Num := decodeElem fmt (conv fmt false (a.add b)).1

/-- Real and imaginary sub-pass sums of one element; `neg` marks subtraction (R120). -/
def cmmaSums (three : Bool) (fa fb kp : Nat) (ar ai br bi : List Num) : List Num × List Num :=
  let ps := runs kp (((ar.zip ai).zip (br.zip bi)))
  let rr := ps.map (fun l => passSum (l.map (fun p => p.1.1.mul p.2.1)))
  let ii := ps.map (fun l => passSum (l.map (fun p => p.1.2.mul p.2.2)))
  let re := (rr.zip ii).flatMap (fun p => [p.1, p.2.neg])
  if three then
    let cross := ps.map (fun l => passSum (l.map (fun p =>
      (planeSum fa p.1.1 p.1.2).mul (planeSum fb p.2.1 p.2.2))))
    (re, ((rr.zip ii).zip cross).flatMap (fun p => [p.1.1.neg, p.1.2.neg, p.2]))
  else
    let ri := ps.map (fun l => passSum (l.map (fun p => p.1.1.mul p.2.2)))
    let ir := ps.map (fun l => passSum (l.map (fun p => p.1.2.mul p.2.1)))
    (re, (ri.zip ir).flatMap (fun p => [p.1, p.2]))

/-- As `cmmaSums`, for integers (FUNC 0 only). -/
def cmmaInts (kp : Nat) (ar ai br bi : List Int) : List Int × List Int :=
  let ps := runs kp (((ar.zip ai).zip (br.zip bi)))
  (ps.flatMap (fun l => [(l.map (fun p => p.1.1 * p.2.1)).sum, -(l.map (fun p => p.1.2 * p.2.2)).sum]),
   ps.flatMap (fun l => [(l.map (fun p => p.1.1 * p.2.2)).sum, (l.map (fun p => p.1.2 * p.2.1)).sum]))

def State.applyCmma (s : State) (c : CoreId) (k : KsId) (w : W128) (ta tb tc te : Tile) : Except AccErr State := do
  let kp := pairKpass ta.fmt tb.fmt false
  let h := ceilDiv ta.rows 128
  let ovw := wMode w 0
  let base := wAcc w
  let noted (s : State) : State := (((s.noteTile c k ta).noteTile c k tb).noteTile c k tc).noteTile c k te
  if isIntFmt ta.fmt then
    let ar ← s.readInts c k ta
    let ai ← s.readInts c k tc
    let br ← s.readInts c k tb
    let bi ← s.readInts c k te
    let sums (i j : Nat) := cmmaInts kp (ar.getD i []) (ai.getD i []) (column 0 br j) (column 0 bi j)
    let s := noted s
    let s ← s.accumI c k base ta.rows tb.cols ovw (fun i j => (sums i j).1)
    let s ← s.accumI c k (base + h) ta.rows tb.cols ovw (fun i j => (sums i j).2)
    return if ovw then (s.setKind c k base ta.rows tb.cols .integer).setKind c k (base + h) ta.rows tb.cols .integer else s
  else
    let ar ← s.readNums c k ta
    let ai ← s.readNums c k tc
    let br ← s.readNums c k tb
    let bi ← s.readNums c k te
    let sums (i j : Nat) :=
      cmmaSums (wFunc w == 1) ta.fmt tb.fmt kp (ar.getD i []) (ai.getD i []) (column .nan br j) (column .nan bi j)
    let s := noted s
    let s ← s.accumF c k base ta.rows tb.cols ovw (fun i j => (sums i j).1)
    let s ← s.accumF c k (base + h) ta.rows tb.cols ovw (fun i j => (sums i j).2)
    return if ovw then (s.setKind c k base ta.rows tb.cols .float).setKind c k (base + h) ta.rows tb.cols .float else s

def State.planCmma (s : State) (c : CoreId) (k : KsId) (sl : KSlot) (w : W128) : Except AccErr (Option Plan) := do
  need (!sl.hdr.narrow && !wMode w 2) stMalformed
  let ta ← s.tileOp c k (wTA w) anvilFmts false
  let tb ← s.tileOp c k (wTB w) anvilFmts false
  let tc ← s.tileOp c k (wTC w) anvilFmts false
  let te ← s.tileOp c k (wTE w) anvilFmts false
  need (isIntFmt ta.fmt == isIntFmt tb.fmt && tc.fmt == ta.fmt && te.fmt == tb.fmt) stMalformed
  need (wFunc w == 0 || (!isIntFmt ta.fmt && !is4bit ta.fmt && !is4bit tb.fmt)) stMalformed
  need (ta.cols == tb.rows && tc.rows == ta.rows && tc.cols == ta.cols && te.rows == tb.rows && te.cols == tb.cols) stMalformed
  need ((!is4bit ta.fmt || (ta.kaxis == 0 && tc.kaxis == 0)) && (!is4bit tb.fmt || (tb.kaxis == 1 && te.kaxis == 1))) stMalformed
  let kind := if isIntFmt ta.fmt then AccKind.integer else .float
  let names := accSpan (wAcc w) (256 * ceilDiv ta.rows 128)
  need (wMode w 0 || sl.kindOk names kind) stMalformed
  need (mmaLimits ta tb) stLimit
  if ta.empty || tb.empty then return none
  need (ta.extentOk sl false && tb.extentOk sl false && tc.extentOk sl false && te.extentOk sl false) stMalformed
  let kp := pairKpass ta.fmt tb.fmt false
  let subs := if wFunc w = 1 then 3 else 4
  return some
    { names := names
      cycles := 40 + subs * passCycles (ceilDiv ta.cols kp) ta.rows false
      waitsAtomic := false
      apply := fun s => (s.applyCmma c k w ta tb tc te).map (fun s =>
        s.countMac c (subs * ta.rows * ta.cols * tb.cols)) }

/-- CMMA (R77, R120). -/
def execCmma (c : CoreId) (k : KsId) (s : State) : Host.Outcome State Fault Refusal :=
  .next (s.issue c k .cmma .anvil (fun s ns => s.makeResident c k ns) (s.planCmma c k))

/-! ## SCORE (R78, R181 to R186) -/

/-- Whether key position kk is masked for query position q (R78). -/
def keyMasked (func q kk par : Nat) : Bool :=
  if func = 0 then false
  else if func = 1 then decide (q < kk)
  else if func = 2 then decide (q / par < kk / par)
  else decide (q < kk ∨ par ≤ q - kk)

/-- The running statistics of one row over one group of live scores (R184). -/
def statGroup (st : Num × Num) (live : List Num) : Num × Num :=
  let (m, l) := st
  let poisoned := live.any (fun x => x.isNan || x == .inf false)
  if m.isNan then (m, l)
  else if poisoned then (.nan, .nan)
  else
    let mg := live.foldl Num.max (.inf true)
    let m2 := m.max mg
    if m2 = .inf true then (m, l)
    else
      let f := if m = .inf true then Num.zero else rnd32 (m.sub m2).exp
      let gs := rnd32 (Num.sum (live.map (fun x => rnd32 (x.sub m2).exp)))
      (m2, rnd32 ((l.mul f).add gs))

/-- A row's statistics over its keys in groups of 512 (R184). -/
def statRow (st : Num × Num) (scores : List (Option Num)) : Num × Num :=
  (runs 512 scores).foldl (fun st g => statGroup st (g.filterMap id)) st

/-- FP32 NaN, stored for a poisoned row. -/
def encNum32 (x : Num) : Nat := enc32 x

/-- Segment ids at a core store address (R78); none without SEG. -/
def segIds (s : State) (c : CoreId) (a n : Nat) (seg : Bool) : Except AccErr (List Nat) :=
  if seg then (s.readLoc (.core (c.val * coreStoreBytes + a)) (2 * n)).map (unpackRow fU16 n) else .ok []

/-- SCORE's row data after its checks. -/
def State.applyScore (s : State) (c : CoreId) (k : KsId) (w : W128) (ta tb tc td : Tile) : Except AccErr State := do
  let sl := s.slot c k
  let scale := dec32 (wHigh32 w)
  let func := wFunc w
  let seg := wMode w 4
  let usesPos := func != 0 || seg
  let qpos := if usesPos then sl.s[wReg w 90].toNat else 0
  let kpos := if usesPos then sl.s[wReg w 84].toNat else 0
  let par := if 2 ≤ func then sl.s[wReg w 78].toNat else 1
  let ints := isIntFmt ta.fmt
  let a ← if ints then (s.readInts c k ta).map (fun m => m.map (fun r => r.map Num.ofInt)) else s.readNums c k ta
  let b ← if ints then (s.readInts c k tb).map (fun m => m.map (fun r => r.map Num.ofInt)) else s.readNums c k tb
  let qs ← segIds s c sl.s[wReg w 72].toNat ta.rows seg
  let ks ← segIds s c sl.s[wReg w 66].toNat tb.rows seg
  let old ← if wMode w 3 then s.readNums c k tc else .ok []
  let kp := pairKpass ta.fmt tb.fmt false
  let masked (i j : Nat) : Bool :=
    keyMasked func (qpos + i) (kpos + j) par
      || (seg && (ks.getD j 0 == 0 || ks.getD j 0 != qs.getD i 0))
  let padding (i : Nat) : Bool := seg && qs.getD i 0 == 0
  let dot (i j : Nat) : Num :=
    (floatAcc fp32 true .zero ((runs kp (products false (a.getD i []) (b.getD j []))).map
      (fun t => if ints then Num.sum t else passSum t))).1
  let scores := (List.range ta.rows).map (fun i => (List.range tb.rows).map (fun j =>
    if padding i || masked i j then (none : Option (Nat × Flags)) else some (convFloat bf16 ((dot i j).mul scale))))
  let raw := scores.map (fun r => r.map (fun e => match e with
    | none => 0xFF80
    | some v => v.1))
  let stats := (List.range ta.rows).map (fun i =>
    if padding i then [0xFF800000, 0x80000000] else
    let st0 : Num × Num := if wMode w 3 then ((old.getD i []).getD 0 .nan, (old.getD i []).getD 1 .nan)
      else (.inf true, .zero)
    let st := statRow st0 ((scores.getD i []).map (fun e => e.map (fun v => bf16.decode v.1)))
    [encNum32 st.1, encNum32 st.2])
  let s := (s.noteTile c k ta).noteTile c k tb
  let s ← s.writeRaw c k td raw []
  let s ← s.writeRaw c k tc stats []
  return s.addFlags c k (Flags.joinAll (scores.map (fun r => Flags.joinAll (r.map (fun e => match e with
    | none => {}
    | some v => v.2)))))

/-- SCORE's checks 5 to 7. Its multiply-accumulates count every query and key: whether R126's unmasked positions leave out those that the
attention mask hides is not said (DESIGN CHOICE, log 131). -/
def State.planScore (s : State) (c : CoreId) (k : KsId) (sl : KSlot) (w : W128) : Except AccErr (Option Plan) := do
  let ta ← s.tileOp c k (wTA w) anvilFmts false
  let tb ← s.tileOp c k (wTB w) anvilFmts false
  let tc ← s.tileOp c k (wTC w) [fFP32] false
  let td ← s.tileOp c k (wTD w) [fBF16] true
  let func := wFunc w
  let seg := wMode w 4
  need (isIntFmt ta.fmt == isIntFmt tb.fmt) stMalformed
  need ((!is4bit ta.fmt || ta.kaxis == 0) && (!is4bit tb.fmt || tb.kaxis == 0)) stMalformed
  need (ta.cols == tb.cols && (ta.cols == 64 || ta.cols == 128 || ta.cols == 256)) stMalformed
  need (td.rows == ta.rows && td.cols == tb.rows && tc.rows == ta.rows && tc.cols == 2) stMalformed
  let scale := dec32 (wHigh32 w)
  need (scale.isFin && !scale.isZero) stMalformed
  need (func != 0 || seg || ((wReg w 90).val == 0 && (wReg w 84).val == 0)) stMalformed
  need (2 ≤ func || (wReg w 78).val == 0) stMalformed
  let par := sl.s[wReg w 78].toNat
  need (func != 2 || (1 ≤ par && par ≤ 65536)) stMalformed
  need (func != 3 || (1 ≤ par && par ≤ 1048576)) stMalformed
  let qseg := sl.s[wReg w 72].toNat
  let kseg := sl.s[wReg w 66].toNat
  need (!seg || (qseg % 2 == 0 && kseg % 2 == 0 && sl.inAlloc qseg (2 * ta.rows) && sl.inAlloc kseg (2 * tb.rows))) stMalformed
  -- TD's columns count keys, which R78 lets reach 1,048,576
  need (ta.rows ≤ 128 && tb.rows ≤ 1048576) stLimit
  let usesPos := func != 0 || seg
  need (!usesPos || (sl.s[wReg w 90].toNat + ta.rows ≤ 1048576 && sl.s[wReg w 84].toNat + tb.rows ≤ 1048576)) stLimit
  if ta.empty || tb.empty then return none
  need (ta.extentOk sl false && tb.extentOk sl false && tc.extentOk sl true && td.extentOk sl true && s.noHost c k td) stMalformed
  let p := ceilDiv ta.cols (pairKpass ta.fmt tb.fmt false)
  let cyc := 40 + ceilDiv tb.rows 512 * passCycles p ta.rows false
  return some
    { names := []
      cycles := if td.core then cyc else max cyc (40 + ceilDiv (td.rows * td.rowLen) 512)
      waitsAtomic := false
      apply := fun s => (s.applyScore c k w ta tb tc td).map (fun s => s.countMac c (ta.rows * ta.cols * tb.rows)) }

/-- SCORE (R78). -/
def execScore (c : CoreId) (k : KsId) (s : State) : Host.Outcome State Fault Refusal :=
  .next (s.issue c k .score .anvil (fun s ns => s.makeResident c k ns) (s.planScore c k))

/-! ## STEP (R79, R221 to R223) -/

/-- A magnitude code moved by a free offset of at most 2 units in the last place, kept between zero and one (log 7). -/
def nudge (code off : Nat) : Nat := min (code + off % 5 - 2) 0x3F800000

/-- The logistic function, within 2 units in the last place (R223, R461). -/
def sigmoid (x : Num) : Num :=
  match x with
  | .nan => .nan
  | .inf true => .zero
  | .inf false => .ofNat 1
  | .fin _ _ _ =>
    let y := (Num.ofNat 1).div ((Num.ofNat 1).add x.neg.exp)
    dec32 (nudge (enc32 (rnd32 y)) (Config.sigOffset (BitVec.ofNat 32 (enc32 (rnd32 x)))))

/-- The hyperbolic tangent, within 2 units in the last place (R223, R461). -/
def tanhNum (x : Num) : Num :=
  match x with
  | .nan => .nan
  | .inf true => (Num.ofNat 1).neg
  | .inf false => .ofNat 1
  | .fin neg n d =>
    let e := (Num.fin true (2 * n) d).exp
    let y := ((Num.ofNat 1).sub e).div ((Num.ofNat 1).add e)
    let m := dec32 (nudge (enc32 (rnd32 y)) (Config.tanhOffset (BitVec.ofNat 32 (enc32 (rnd32 x)))))
    if neg then m.neg else m

/-- One state value rounded to FP32 or to a canonical pair (R97, R223). -/
def rndState (pair : Bool) (x : Num) : Num :=
  if pair then decodeElem fFP32P (convPair x).1 else rnd32 x

/-- The state of one stream: vectors h and c. -/
structure StreamState where
  h : List Num
  c : List Num
deriving DecidableEq, Repr

/-- One step of one stream (R223): x is the TA row, wcols the columns of TB, kp the pass length, w the hidden
width. -/
def cellStep (w : Nat) (three pair : Bool) (kp : Nat) (rnd : Num → Num) (x : List Num) (wcols : List (List Num))
    (st : StreamState) : StreamState :=
  let hin := st.h.map rnd
  let dot (col : Nat) (start : Num) : Num :=
    (floatAcc fp32 false start ((runs kp (products false hin (wcols.getD col []))).map passSum)).1
  if three then
    let h' := (List.range w).map (fun j =>
      let z := sigmoid (dot j (x.getD j .nan))
      let r := sigmoid (dot (w + j) (x.getD (w + j) .nan))
      let n := tanhNum (rnd32 ((x.getD (2 * w + j) .nan).add (r.mul (dot (2 * w + j) .zero))))
      rndState pair (n.add (z.mul ((st.h.getD j .nan).sub n))))
    { h := h', c := st.c }
  else
    let cs := (List.range w).map (fun j =>
      let i := sigmoid (dot j (x.getD j .nan))
      let f := sigmoid (dot (w + j) (x.getD (w + j) .nan))
      let g := tanhNum (dot (2 * w + j) (x.getD (2 * w + j) .nan))
      rndState pair ((f.mul (st.c.getD j .nan)).add (i.mul g)))
    let hs := (List.range w).map (fun j =>
      let o := sigmoid (dot (3 * w + j) (x.getD (3 * w + j) .nan))
      rnd32 (o.mul (tanhNum (cs.getD j .nan))))
    { h := hs, c := cs }

/-- All steps of one stream: final state and the h of each step. -/
def cellRun (w : Nat) (three pair : Bool) (kp : Nat) (rnd : Num → Num) (wcols : List (List Num)) :
    List (List Num) → StreamState → StreamState × List (List Num)
  | [], st => (st, [])
  | x :: xs, st =>
    let st1 := cellStep w three pair kp rnd x wcols st
    let r := cellRun w three pair kp rnd wcols xs st1
    (r.1, st1.h :: r.2)

/-- Pass length of STEP's recurrent product: the wide geometry of TB's format (R222). -/
def stepKpass (fmt : Nat) : Nat := kpassOf (fmtBits fmt) false

/-- A state vector of stream b read from its units (R221): name HI, name LO (pairs), anvil. -/
def State.readStateVec (s : State) (c : CoreId) (sl : KSlot) (hi : Nat) (lo : Option Nat) (anvil b : Nat) :
    Except AccErr (List Num) := do
  let h ← s.accRow c sl hi anvil b 128
  match lo with
  | none => return h.map dec32
  | some n =>
    let l ← s.accRow c sl n anvil b 128
    return (h.zip l).map (fun p => decodeElem fFP32P (p.1 * 2 ^ 32 + p.2))

/-- The pieces that store a state vector. -/
def stateVecPieces (c : CoreId) (sl : KSlot) (hi : Nat) (lo : Option Nat) (anvil b : Nat) (xs : List Num) :
    List (Nat × List Byte) :=
  match lo with
  | none => [(sl.accAddr c hi anvil b 0, xs.flatMap (fun x => leBytes 4 (enc32 (rnd32 x))))]
  | some n =>
    let ps := xs.map (fun x => (convPair x).1)
    [(sl.accAddr c hi anvil b 0, ps.flatMap (fun p => leBytes 4 (p / 2 ^ 32))),
     (sl.accAddr c n anvil b 0, ps.flatMap (fun p => leBytes 4 (p % 2 ^ 32)))]

def State.applyStep (s : State) (c : CoreId) (k : KsId) (w : W128) (ta tb : Tile) (td : Option Tile) (steps streams : Nat) :
    Except AccErr State := do
  let sl := s.slot c k
  let three := wFunc w == 1
  let pair := wMode w 3
  let hi := wAcc w
  let lo := if pair then some (wAcc w + 1) else none
  let hLo := if three then lo else none
  let x ← s.readNums c k ta
  let wm ← s.readNums c k tb
  let wcols := (List.range tb.cols).map (column .nan wm)
  let rnd (v : Num) : Num := decodeElem tb.fmt (conv tb.fmt false v).1
  let zeroVec := List.replicate 128 Num.zero
  let outs ← (List.range streams).mapM (fun b => do
    let h ← if wMode w 4 then .ok zeroVec else s.readStateVec c sl hi hLo 0 b
    let cc ← if wMode w 4 || three then .ok zeroVec else s.readStateVec c sl hi lo 1 b
    return cellRun 128 three pair (stepKpass tb.fmt) rnd wcols
      ((List.range steps).map (fun t => x.getD (t * streams + b) [])) { h := h, c := cc })
  let pieces := ((List.range streams).zip outs).flatMap (fun p =>
    stateVecPieces c sl hi hLo 0 p.1 p.2.1.h ++ (if three then [] else stateVecPieces c sl hi lo 1 p.1 p.2.1.c))
  let s := (s.noteTile c k ta).noteTile c k tb
  let s := s.accWrite pieces
  let s := (hi :: lo.toList).foldl (fun s n => s.setKind c k n streams (if three then 128 else 256) .float) s
  match td with
  | none => return s
  | some td =>
    -- STEP is none of the instructions that set conversion flags (R103)
    s.writeRaw c k td ((List.range (steps * streams)).map (fun i =>
      (((outs.getD (i % streams) ({ h := [], c := [] }, [])).2).getD (i / streams) []).map (fun x => (conv td.fmt false x).1))) []

/-- STEP's checks 5 to 7. Of S_STEPS above 256 and S_STREAMS above 128 R79 gives the range only: they are taken as dimensions, LIMIT
(DESIGN CHOICE, log 132). -/
def State.planStep (s : State) (c : CoreId) (k : KsId) (sl : KSlot) (w : W128) : Except AccErr (Option Plan) := do
  need (!sl.hdr.narrow) stMalformed
  let g := if wFunc w = 1 then 3 else 4
  let ta ← s.tileOp c k (wTA w) [fFP32, fBF16, fFP16] false
  let tb ← s.tileOp c k (wTB w) [fBF16, fFP16, fE4M3, fE5M2] false
  let td ← if wMode w 5 then (s.tileOp c k (wTD w) [fFP32, fBF16, fFP16] true).map some else .ok none
  let steps := sl.s[wReg w 64].toNat
  let streams := sl.s[wReg w 70].toNat
  need (ta.cols == 128 * g && tb.rows == 128 && tb.cols == 128 * g && ta.rows == steps * streams) stMalformed
  need (match td with
    | none => true
    | some d => d.rows == steps * streams && d.cols == 128) stMalformed
  let names := wAcc w :: (if wMode w 3 then [wAcc w + 1] else [])
  need (wMode w 4 || sl.kindOk names .float) stMalformed
  need (ta.dimsOk && tb.dimsOk && steps ≤ 256 && streams ≤ 128) stLimit
  if steps = 0 || streams = 0 then return none
  need (ta.extentOk sl false && tb.extentOk sl false && (match td with
    | none => true
    | some d => d.extentOk sl true && s.noHost c k d)) stMalformed
  let p := ceilDiv 128 (stepKpass tb.fmt)
  let cyc := 40 + steps * (p * max streams 32 + 48)
  return some
    { names := names
      cycles := if wMode w 3 then 2 * cyc else cyc
      waitsAtomic := false
      apply := fun s => (s.applyStep c k w ta tb td steps streams).map (fun s =>
        s.countMac c (steps * streams * 128 * 128 * g)) }

/-- STEP (R79). -/
def execStep (c : CoreId) (k : KsId) (s : State) : Host.Outcome State Fault Refusal :=
  .next (s.issue c k .step .anvil (fun s ns => s.makeResident c k ns) (s.planStep c k))

end Sys2Proof.Machine
end

