-- ==== Sys2Proof/Machine/Vector.lean ====
section
/-! DEFINITION. The vector engine's instructions (04, R80, R81, R461; 09; 10, R187 to R189; 13). -/

namespace Sys2Proof.Machine

/-- Formats VOP reads and writes (R71). -/
def vopFmts : List Nat := [fFP32, fFP32P, fBF16, fFP16, fE4M3, fE5M2, fINT32, fINT8, fU16]

/-- Check 7 for a tile of the vector engine. -/
def State.vecExtent (s : State) (c : CoreId) (k : KsId) (t : Tile) (written : Bool) : Bool :=
  t.extentOk (s.slot c k) written && s.noHost c k t

/-- Cycles of a vector instruction over n elements at l a cycle (R87). -/
def vecCycles (fixed n l : Nat) : Nat := fixed + ceilDiv n l

/-! ## VOP, tile class (R80, R100, R101, R461) -/

/-- An operand element: its FP32 value, and its pair. -/
structure VElem where
  v : Num
  p : PairNum
deriving DecidableEq, Repr

/-- A VOP operand read: exactly into FP32, INT32 rounded (R100); a pair stays a pair (R101). -/
def vElem (fmt bits : Nat) : VElem :=
  if fmt = fFP32P then { v := decodeElem fmt bits, p := pairOfBits bits }
  else
    let v := rnd32 (decodeElem fmt bits)
    { v := v, p := ⟨v, .zero⟩ }

/-- An exact result rounded to FP32, and whether a finite one overflowed (R461). -/
def out32 (x : Num) : Num × Flags :=
  let r := rnd32 x
  (r, if x.isFin && r.isInf then Flags.ofOvfInf else {})

/-- The one-operand functions on FP32 (R461). -/
def vopUnary (func : Nat) (x : Num) : Num × Flags :=
  if func = 0x00 then (x, {})
  else if func = 0x07 then (x.abs, {})
  else if func = 0x08 then (x.neg, {})
  else if func = 0x09 then out32 x.exp
  else if func = 0x0A then
    match x with
    | .fin s n _ => if n = 0 then (.inf s, {}) else out32 ((Num.ofNat 1).div x)
    | _ => ((Num.ofNat 1).div x, {})
  else if func = 0x0B then
    match x with
    | .nan => (.nan, {})
    | .inf s => (if s then .nan else .zero, {})
    | .fin s n d => if n = 0 then (.inf s, {}) else if s then (.nan, {}) else out32 (sqrtRat d n)
  else if func = 0x0C then (sigmoid x, {})
  else (tanhNum x, {})

/-- The two- and three-operand functions on FP32 (R461). -/
def vopNary (func : Nat) (a b c : Num) : Num × Flags :=
  if func = 0x01 then out32 (a.add b)
  else if func = 0x02 then out32 (a.sub b)
  else if func = 0x03 then out32 (a.mul b)
  else if func = 0x04 then out32 ((a.mul b).add c)
  else if func = 0x05 then (a.max b, {})
  else (a.min b, {})

/-- The pair functions (R101). -/
def vopPair (func : Nat) (a b c : PairNum) : Num :=
  if func = 0x00 then a.val
  else if func = 0x01 then (pairAdd a b).val
  else if func = 0x02 then (pairAdd a (pairNeg b)).val
  else if func = 0x03 then (pairMul a b).val
  else if func = 0x04 then (pairAdd (pairMul a b) c).val
  else a.val.max b.val

/-- Whether a pair result became infinite of finite operands (R97, R103). -/
def pairOvf (func : Nat) (a b c : PairNum) (r : Num) : Flags :=
  if r.isInf && a.hi.isFin && (func = 0x00 || b.hi.isFin) && (func != 0x04 || c.hi.isFin) then Flags.ofOvfInf else {}

/-- Sum of a row (R461). -/
def rowSum (xs : List Num) : Num :=
  if xs.any Num.isNan then .nan
  else
    let infs := xs.filter Num.isInf
    if infs.isEmpty then Num.sum xs else Num.sum infs

/-- The maximum of a row (R461). -/
def rowMax (xs : List Num) : Num :=
  match xs with
  | [] => .inf true
  | x :: r => r.foldl Num.max x

/-- The elements of operand A: a tile, or slots read as any integer or float (R143). -/
def State.vopSource (s : State) (c : CoreId) (k : KsId) (w : W128) (ta : Option Tile) (rows cols : Nat) :
    Except AccErr (List (List VElem)) :=
  match ta with
  | some t => (s.readRaw c k t).map (fun m => m.map (fun r => r.map (vElem t.fmt)))
  | none => (s.accSource c (s.slot c k) (wAcc w) 0 rows cols).map (fun m => m.map (fun r => r.map (fun e =>
      let v := rnd32 e.val
      { v := v, p := ⟨v, .zero⟩ : VElem })))

/-- The exact pieces of a VOP: TA (none with ACC_SRC), TB, TC, TD, A's shape. -/
structure VopOps where
  ta : Option Tile
  tb : Option Tile
  tc : Option Tile
  td : Tile
  rows : Nat
  cols : Nat

def State.applyVop (s : State) (c : CoreId) (k : KsId) (w : W128) (o : VopOps) : Except AccErr State := do
  let func := wFunc w
  let imm := dec32 (fld w.toNat 95 64)
  let a ← s.vopSource c k w o.ta o.rows o.cols
  let b ← match o.tb with
    | some t => (s.readRaw c k t).map (fun m => m.map (fun r => r.map (vElem t.fmt)))
    | none => .ok []
  let cc ← match o.tc with
    | some t => (s.readRaw c k t).map (fun m => m.map (fun r => r.map (vElem t.fmt)))
    | none => .ok []
  let pair := o.td.fmt == fFP32P || [o.ta, o.tb, o.tc].any (fun t => match t with
    | some t => t.fmt == fFP32P
    | none => false)
  let zero : VElem := { v := .zero, p := ⟨.zero, .zero⟩ }
  let bAt (i j : Nat) : VElem :=
    if wMode w 4 then { v := imm, p := ⟨imm, .zero⟩ }
    else if wMode w 3 then (b.getD 0 []).getD j zero
    else (b.getD i []).getD j zero
  let res : List (List (Num × Flags)) :=
    if func = 0x0E then a.map (fun r => [out32 (rowSum (r.map (·.v)))])
    else if func = 0x0F then a.map (fun r => [(rowMax (r.map (·.v)), ({} : Flags))])
    else (List.range o.rows).map (fun i => (List.range o.cols).map (fun j =>
      let x := (a.getD i []).getD j zero
      let z := (cc.getD i []).getD j zero
      if pair then
        let r := vopPair func x.p (bAt i j).p z.p
        (r, pairOvf func x.p (bAt i j).p z.p r)
      else if 1 ≤ func && func ≤ 6 then vopNary func x.v (bAt i j).v z.v
      else vopUnary func x.v))
  let s := [o.ta, o.tb, o.tc].foldl (fun (s : State) t => match t with
    | some t => s.noteTile c k t
    | none => s) s
  let s := s.addFlags c k (Flags.joinAll (res.map (fun r => Flags.joinAll (r.map (·.2)))))
  s.writeNums c k o.td false (res.map (fun r => r.map (·.1)))

/-- Checks 5 to 7 of VOP (R80). A source of more than 512 columns over slots is a dimension above its maximum, LIMIT; of more than 1,024
rows it spans names that do not exist, ACC_OVERCOMMIT: no rule states either (DESIGN CHOICE, log 135). -/
def State.planVop (s : State) (c : CoreId) (k : KsId) (_sl : KSlot) (w : W128) : Except AccErr (Option Plan) := do
  let func := wFunc w
  let acc := wMode w 1
  let two := 1 ≤ func && func ≤ 6
  let red := func == 0x0E || func == 0x0F
  need (!(wMode w 3 && wMode w 4)) stMalformed
  need (func != 4 || wMode w 5) stMalformed
  let td ← s.tileOp c k (wTD w) vopFmts true
  let ta ← if acc then .ok none else (s.tileOp c k (wTA w) vopFmts true).map some
  let shape ← if acc && red then (s.tileOp c k (wTB w) vopFmts true).map some else .ok none
  let tb ← if two && !wMode w 4 then (s.tileOp c k (wTB w) vopFmts true).map some else .ok none
  let tc ← if func = 4 then (s.tileOp c k (wTC w) vopFmts true).map some else .ok none
  let src := match ta, shape with
    | some t, _ => t
    | none, some t => t
    | none, none => td
  let ops := [ta, tb, tc].filterMap id
  need ((td :: ops).all (fun t => t.fmt != fFP32P) || func ≤ 5) stMalformed
  need (if red then td.rows == src.rows && td.cols == 1 else td.rows == src.rows && td.cols == src.cols) stMalformed
  need (match tb with
    | none => true
    | some t => t.cols == src.cols && t.rows == (if wMode w 3 then 1 else src.rows)) stMalformed
  need (match tc with
    | none => true
    | some t => t.cols == src.cols && t.rows == src.rows) stMalformed
  need ((td :: src :: ops).all Tile.dimsOk && (!acc || src.cols ≤ 512)) stLimit
  if src.empty || td.empty then return none
  need (s.vecExtent c k td true && ops.all (fun t => s.vecExtent c k t false)) stMalformed
  let narrow := (td :: ops).all (fun t => fmtBits t.fmt ≤ 16) && !wMode w 4
  let l := if func = 0x0A || func = 0x0B then 128
    else if func = 0x09 || func = 0x0C || func = 0x0D then 64
    else if narrow then 512 else 256
  return some
    { names := if acc then accSpan (wAcc w) src.rows else []
      cycles := vecCycles 12 (src.rows * src.cols) l
      waitsAtomic := false
      apply := fun s => s.applyVop c k w { ta := ta, tb := tb, tc := tc, td := td, rows := src.rows, cols := src.cols } }

/-- VOP in the tile class (R80). -/
def execVopTile (c : CoreId) (k : KsId) (s : State) : Host.Outcome State Fault Refusal :=
  .next (s.issue c k .vopTile .vector (fun s ns => s.makeResident c k ns) (s.planVop c k))

/-! ## Windows (R243 to R248) -/

/-- One axis of a window descriptor. -/
structure Axis where
  extent : Nat
  win : Nat
  stride : Nat
  dil : Nat
  padLo : Nat
  padHi : Nat
deriving DecidableEq, Repr

structure WinDesc where
  groups : Nat
  pad : Nat
  t : Axis
  y : Axis
  x : Axis
deriving DecidableEq, Repr

def axisAt (bs : List Byte) (a : Nat) : Axis :=
  let w0 := leAt bs (0x10 + 16 * a) 4
  let w1 := leAt bs (0x14 + 16 * a) 4
  let w2 := leAt bs (0x18 + 16 * a) 8
  { extent := fld w0 15 0, win := fld w0 22 16, stride := fld w1 8 0, dil := fld w1 24 16,
    padLo := fld w2 11 0, padHi := fld w2 27 16 }

/-- The reserved bits of an axis are zero. -/
def axisClean (bs : List Byte) (a : Nat) : Bool :=
  let w0 := leAt bs (0x10 + 16 * a) 4
  let w1 := leAt bs (0x14 + 16 * a) 4
  let w2 := leAt bs (0x18 + 16 * a) 8
  fld w0 31 23 == 0 && fld w1 15 9 == 0 && fld w1 31 25 == 0 && fld w2 15 12 == 0 && fld w2 63 28 == 0

/-- The numerator of OUT (R244). -/
def Axis.span (a : Axis) : Int := (a.extent + a.padLo + a.padHi : Nat) - (a.dil * (a.win - 1) : Nat) - 1

def Axis.out (a : Axis) : Nat := a.span.toNat / a.stride + 1

def Axis.inRange (a : Axis) : Bool :=
  1 ≤ a.extent && 1 ≤ a.win && a.win ≤ 64 && 1 ≤ a.stride && a.stride ≤ 256 && 1 ≤ a.dil && a.dil ≤ 256
    && a.padLo ≤ 4095 && a.padHi ≤ 4095

def WinDesc.taps (d : WinDesc) : Nat := d.t.win * d.y.win * d.x.win

def WinDesc.outs (d : WinDesc) : Nat := d.t.out * d.y.out * d.x.out

/-- The window descriptor that s[S_WIN] addresses, checked under R244 for an input tile and a count of output rows. -/
def State.readWindow (s : State) (c : CoreId) (k : KsId) (addr : Nat) (ta : Tile) (opos rows : Nat) (ldt : Bool) :
    Except AccErr WinDesc := do
  let bs ← s.wordRead c k addr 64 64
  let w0 := leAt bs 0 4
  let pad := leAt bs 4 4
  let bits := fmtBits ta.fmt
  need (fld w0 7 0 == 0 && fld w0 15 8 == 1 && leAt bs 8 8 == 0 && pad < 2 ^ bits
    && axisClean bs 0 && axisClean bs 1 && axisClean bs 2) stVersion
  let d : WinDesc := { groups := fld w0 31 16, pad := pad, t := axisAt bs 0, y := axisAt bs 1, x := axisAt bs 2 }
  need (d.t.inRange && d.y.inRange && d.x.inRange && 1 ≤ d.groups && (!ldt || d.groups == 1)
    && 0 ≤ d.t.span && 0 ≤ d.y.span && 0 ≤ d.x.span
    && ta.rows == d.t.extent * d.y.extent * d.x.extent) stMalformed
  need (opos + rows ≤ d.outs) stLimit
  return d

/-- The input coordinate of an axis; none: padding (R245). -/
def Axis.coord (a : Axis) (out tap : Nat) : Option Nat :=
  let i : Int := (out * a.stride + tap * a.dil : Nat) - (a.padLo : Int)
  if 0 ≤ i ∧ i < a.extent then some i.toNat else none

/-- The input row that tap tau of output position o reads (R245). -/
def WinDesc.row (d : WinDesc) (o tau : Nat) : Option Nat :=
  let xo := o % d.x.out
  let yo := o / d.x.out % d.y.out
  let zo := o / (d.x.out * d.y.out)
  let k2 := tau % d.x.win
  let k1 := tau / d.x.win % d.y.win
  let k0 := tau / (d.x.win * d.y.win)
  match d.t.coord zo k0, d.y.coord yo k1, d.x.coord xo k2 with
  | some t, some y, some x => some ((t * d.y.extent + y) * d.x.extent + x)
  | _, _, _ => none

/-- Whether some tap of the output positions from `opos` on reads an input row: no other row is accessed (R245). -/
def WinDesc.names (d : WinDesc) (opos rows i : Nat) : Bool :=
  (List.range rows).any (fun r => (List.range d.taps).any (fun tau => d.row (opos + r) tau == some i))

def State.applyWindow (s : State) (c : CoreId) (k : KsId) (d : WinDesc) (opos : Nat) (ta tb : Tile) (tc : Option Tile)
    (td : Tile) : Except AccErr State := do
  let a ← s.readRows c k ta (d.names opos td.rows)
  let b ← s.readRaw c k tb
  let bias ← match tc with
    | some t => s.readNums c k t
    | none => .ok []
  let cin := ta.cols / d.groups
  let per := td.cols / d.groups
  let at32 (fmt bits : Nat) : Num := rnd32 (decodeElem fmt bits)
  let out := (List.range td.rows).map (fun r => (List.range td.cols).map (fun j =>
    let g := j / per
    let start := match tc with
      | some _ => (bias.getD 0 []).getD j .nan
      | none => .zero
    (List.range d.taps).foldl (fun acc tau =>
      (List.range cin).foldl (fun (acc : Num × Flags) ci =>
        let x := match d.row (opos + r) tau with
          | some i => (a.getD i []).getD (g * cin + ci) 0
          | none => d.pad
        let wgt := (b.getD (tau * cin + ci) []).getD j 0
        let v := out32 (((at32 ta.fmt x).mul (at32 tb.fmt wgt)).add acc.1)
        (v.1, acc.2.join v.2)) acc) (start, ({} : Flags))))
  let s := (s.noteRows c k ta (d.names opos td.rows)).noteTile c k tb
  let s := s.addFlags c k (Flags.joinAll (out.map (fun r => Flags.joinAll (r.map (·.2)))))
  s.writeNums c k td false (out.map (fun r => r.map (·.1)))

def State.planWindow (s : State) (c : CoreId) (k : KsId) (sl : KSlot) (w : W128) : Except AccErr (Option Plan) := do
  let fmts := vopFmts.filter (· != fFP32P)
  let ta ← s.tileOp c k (wTA w) fmts false
  let tb ← s.tileOp c k (wTB w) fmts false
  let tc ← if wMode w 5 then (s.tileOp c k (wTC w) [fFP32] false).map some else .ok none
  let td ← s.tileOp c k (wTD w) fmts false
  let opos := sl.s[wReg w 70].toNat
  let d ← s.readWindow c k sl.s[wReg w 64].toNat ta opos td.rows false
  need (ta.cols % d.groups == 0 && td.cols % d.groups == 0) stMalformed
  let cin := ta.cols / d.groups
  need (tb.rows == d.taps * cin && tb.cols == td.cols) stMalformed
  need (match tc with
    | none => true
    | some t => t.rows == 1 && t.cols == td.cols) stMalformed
  need (1 ≤ cin && cin ≤ 64 && d.taps * cin ≤ 16384 && ta.dimsOk && tb.dimsOk && td.dimsOk) stLimit
  if ta.empty || td.empty then return none
  need (ta.extentOk sl false && tb.extentOk sl false && td.extentOk sl true && (match tc with
    | none => true
    | some t => t.extentOk sl false)) stMalformed
  let narrow := [ta, tb, td].all (fun t => fmtBits t.fmt ≤ 16) && tc.isNone
  return some
    { names := []
      cycles := vecCycles 12 (td.rows * td.cols * d.taps * cin) (if narrow then 512 else 256)
      waitsAtomic := false
      apply := fun s => s.applyWindow c k d opos ta tb tc td }

/-- VOP WINDOW (R247). -/
def execWindow (c : CoreId) (k : KsId) (s : State) : Host.Outcome State Fault Refusal :=
  .next (s.issue c k .window .vector (fun s ns => s.makeResident c k ns) (s.planWindow c k))

/-! ## NORM (R187, R189) -/

/-- One probability (R187). -/
def normElem (m l x : Num) : Num :=
  if m.isNan then .nan
  else if m = .inf true then .zero
  else if x = .inf true then .zero
  else (rnd32 (x.sub m).exp).div l

def State.applyNorm (s : State) (c : CoreId) (k : KsId) (w : W128) (ta tc td : Tile) : Except AccErr State := do
  let a ← s.readNums c k ta
  let st ← s.readNums c k tc
  let m (i : Nat) : Num := (st.getD i []).getD 0 .nan
  let l (i : Nat) : Num := (st.getD i []).getD 1 .nan
  let out := ((List.range ta.rows).zip a).map (fun p => p.2.map (normElem (m p.1) (l p.1)))
  let s := (s.noteTile c k ta).noteTile c k tc
  let s ← s.writeNums c k td false out
  if wMode w 3 then
    let empty := (List.range ta.rows).countP (fun i => m i == .inf true && (l i).isZero && !(l i).isNeg)
    let poisoned := (List.range ta.rows).countP (fun i => (m i).isNan)
    return s.addFlags c k { emptyRows := empty, poisonedRows := poisoned }
  else return s

def State.planNorm (s : State) (c : CoreId) (k : KsId) (sl : KSlot) (w : W128) : Except AccErr (Option Plan) := do
  let ta ← s.tileOp c k (wTA w) [fBF16] false
  let tc ← s.tileOp c k (wTC w) [fFP32] false
  let td ← s.tileOp c k (wTD w) [fBF16, fE4M3] false
  need (td.rows == ta.rows && td.cols == ta.cols && tc.rows == ta.rows && tc.cols == 2) stMalformed
  need (ta.dimsOk && tc.dimsOk && td.dimsOk) stLimit
  if ta.empty then return none
  need (ta.extentOk sl false && tc.extentOk sl false && td.extentOk sl true) stMalformed
  return some
    { names := [], cycles := vecCycles 24 (ta.rows * ta.cols) 64, waitsAtomic := false
      apply := fun s => s.applyNorm c k w ta tc td }

/-- NORM (R81, R187). -/
def execNorm (c : CoreId) (k : KsId) (s : State) : Host.Outcome State Fault Refusal :=
  .next (s.issue c k .norm .vector (fun s ns => s.makeResident c k ns) (s.planNorm c k))

/-! ## MEASURE (R168 to R170) -/

/-- The largest magnitude of a group (R170). -/
def groupMax (xs : List Num) : Num :=
  if xs.any Num.isNan then .nan else (xs.foldl maxAbs .zero).abs

/-- Shape of TD for a source of r rows by cc columns (R168). -/
def measureShape (func kaxis r cc : Nat) : Nat × Nat :=
  if func = 0 then (if kaxis = 0 then (r, ceilDiv cc 32) else (ceilDiv r 32, cc))
  else if func = 1 then (r, 1)
  else if func = 2 then (1, cc)
  else (1, 1)

/-- The maxima of a source (R168, R170). -/
def measureAll (func kaxis : Nat) (cols : Nat) (xs : List (List Num)) : List (List Num) :=
  if func = 0 then
    if kaxis = 0 then xs.map (fun r => (runs 32 r).map groupMax)
    else (runs 32 xs).map (fun blk => (List.range cols).map (fun j => groupMax (column .nan blk j)))
  else if func = 1 then xs.map (fun r => [groupMax r])
  else if func = 2 then [(List.range cols).map (fun j => groupMax (column .nan xs j))]
  else [[groupMax xs.flatten]]

def measureFmts : List Nat := [fFP32, fBF16, fFP16, fE4M3, fE5M2, fINT32, fINT8, fU16]

def State.applyMeasure (s : State) (c : CoreId) (k : KsId) (w : W128) (src : Tile) (td : Tile) : Except AccErr State := do
  let xs ← if wMode w 1 then
      (s.accSource c (s.slot c k) (wAcc w) 0 src.rows src.cols).map (fun m => m.map (fun r => r.map (·.val)))
    else s.readNums c k src
  let s := if wMode w 1 then s else s.noteTile c k src
  let out := measureAll (wFunc w) src.kaxis src.cols xs
  s.writeRaw c k td (out.map (fun r => r.map (fun x => (conv fFP32 false x).1))) []

def State.planMeasure (s : State) (c : CoreId) (k : KsId) (_sl : KSlot) (w : W128) : Except AccErr (Option Plan) := do
  let acc := wMode w 1
  let src ← if acc then s.tileOp c k (wTB w) ((List.range 12)) true else s.tileOp c k (wTA w) measureFmts true
  let td ← s.tileOp c k (wTD w) [fFP32] true
  need (measureShape (wFunc w) src.kaxis src.rows src.cols == (td.rows, td.cols)) stMalformed
  need (src.dimsOk && td.dimsOk && (!acc || src.cols ≤ 512)) stLimit
  if src.empty then return none
  need ((acc || s.vecExtent c k src false) && s.vecExtent c k td true) stMalformed
  return some
    { names := if acc then accSpan (wAcc w) src.rows else []
      cycles := vecCycles 12 (src.rows * src.cols) 256, waitsAtomic := false
      apply := fun s => s.applyMeasure c k w src td }

/-- MEASURE (R81, R168). -/
def execMeasure (c : CoreId) (k : KsId) (s : State) : Host.Outcome State Fault Refusal :=
  .next (s.issue c k .measure .vector (fun s ns => s.makeResident c k ns) (s.planMeasure c k))

/-! ## CAST (R171 to R174) -/

/-- The divisor of element (i, j) (R173). -/
def divisorAt (t : Tile) (xs : List (List Num)) (i j : Nat) : Num :=
  (xs.getD (if t.rows = 1 then 0 else i) []).getD (if t.cols = 1 then 0 else j) .nan

/-- A matrix of elements written with block scales from maxima (R171, R172). -/
def castBlocks (fmt kaxis rows cols : Nat) (maxima : List (List Num)) (ys : List (List Num)) :
    List (List Nat) × List (List Nat) × Flags :=
  let g := gridMax fmt
  if kaxis = 0 then
    let r := ((List.range rows).zip ys).map (fun p =>
      let bl := ((List.range (ceilDiv cols 32)).zip (runs 32 p.2)).map (fun q =>
        codeBlock fmt (chooseScale ((maxima.getD p.1 []).getD q.1 .nan) g) q.2)
      (bl.flatMap (·.2.1), bl.map (·.1), Flags.joinAll (bl.map (·.2.2))))
    (r.map (·.1), r.map (·.2.1), Flags.joinAll (r.map (·.2.2)))
  else
    let bands := ((List.range (ceilDiv rows 32)).zip (runs 32 ys)).map (fun q =>
      (List.range cols).map (fun j =>
        codeBlock fmt (chooseScale ((maxima.getD q.1 []).getD j .nan) g) (column .nan q.2 j)))
    let codes := (List.range rows).map (fun i =>
      ((bands.getD (i / 32) []).map (fun b => b.2.1.getD (i % 32) 0)))
    (codes, bands.map (fun b => b.map (·.1)), Flags.joinAll (bands.map (fun b => Flags.joinAll (b.map (·.2.2)))))

def State.applyCast (s : State) (c : CoreId) (k : KsId) (w : W128) (ta tb tc : Option Tile) (td : Tile) :
    Except AccErr State := do
  let src : List (List AccElem) ← match ta with
    | some t => (s.readNums c k t).map (fun m => m.map (fun r => r.map (fun x =>
        { val := x, integer := false, ovf := none : AccElem })))
    | none => s.accSource c (s.slot c k) (wAcc w) 0 td.rows td.cols
  let mx ← match tb with
    | some t => s.readNums c k t
    | none => .ok []
  let dv ← match tc with
    | some t => s.readNums c k t
    | none => .ok []
  let quot (i j : Nat) (x : Num) : Num := match tc with
    | some t => x.div (divisorAt t dv i j)
    | none => x
  let indexed := ((List.range td.rows).zip src).map (fun p => ((List.range td.cols).zip p.2).map (fun q => (p.1, q.1, q.2)))
  let s := [ta, tb, tc].foldl (fun (s : State) t => match t with
    | some t => s.noteTile c k t
    | none => s) s
  if is4bit td.fmt then
    let ys := indexed.map (fun r => r.map (fun e => match e.2.2.ovf with
      | some pos => Num.inf (!pos)
      | none => quot e.1 e.2.1 e.2.2.val))
    let (codes, scales, fl) := castBlocks td.fmt td.kaxis td.rows td.cols mx ys
    let iof : Flags := { intOvf := src.any (fun r => r.any (fun e => e.ovf.isSome)) }
    let s ← s.writeRaw c k td codes scales
    return s.addFlags c k (fl.join iof)
  else
    let cv := indexed.map (fun r => r.map (fun e => match e.2.2.ovf with
      | some _ => convAcc td.fmt (wMode w 5) e.2.2
      | none => conv td.fmt (wMode w 5) (quot e.1 e.2.1 e.2.2.val)))
    let s ← s.writeRaw c k td (cv.map (fun r => r.map (·.1))) []
    return s.addFlags c k (Flags.joinAll (cv.map (fun r => Flags.joinAll (r.map (·.2)))))

def State.planCast (s : State) (c : CoreId) (k : KsId) (_sl : KSlot) (w : W128) : Except AccErr (Option Plan) := do
  let all := List.range 12
  let td ← s.tileOp c k (wTD w) all true
  let ta ← if wMode w 1 then .ok none else (s.tileOp c k (wTA w) all true).map some
  let tb ← if wMode w 3 then (s.tileOp c k (wTB w) [fFP32] true).map some else .ok none
  let tc ← if wMode w 4 then (s.tileOp c k (wTC w) [fFP32] true).map some else .ok none
  need (is4bit td.fmt == wMode w 3) stMalformed
  need (match ta with
    | none => true
    | some t => t.rows == td.rows && t.cols == td.cols) stMalformed
  need (match tb with
    | none => true
    | some t => measureShape 0 td.kaxis td.rows td.cols == (t.rows, t.cols)) stMalformed
  need (match tc with
    | none => true
    | some t => (t.rows == 1 || t.rows == td.rows) && (t.cols == 1 || t.cols == td.cols)
        && (t.rows == 1 || t.cols == 1)) stMalformed
  let ops := [ta, tb, tc].filterMap id
  need ((td :: ops).all Tile.dimsOk && (!wMode w 1 || td.cols ≤ 512)) stLimit
  if td.empty then return none
  need (s.vecExtent c k td true && ops.all (fun t => s.vecExtent c k t false)) stMalformed
  return some
    { names := if wMode w 1 then accSpan (wAcc w) td.rows else []
      cycles := vecCycles 12 (td.rows * td.cols) 256, waitsAtomic := false
      apply := fun s => s.applyCast c k w ta tb tc td }

/-- CAST (R81, R171 to R174). -/
def execCast (c : CoreId) (k : KsId) (s : State) : Host.Outcome State Fault Refusal :=
  .next (s.issue c k .cast .vector (fun s ns => s.makeResident c k ns) (s.planCast c k))

/-! ## ROT (R175 to R177) -/

/-- Parity of the set bits of i AND j. -/
def andParity (i j : Nat) : Bool := (List.range 8).foldl (fun a b => a != (bit i b && bit j b)) false

/-- A signed sum divided by the square root of b, to be rounded once (R176). -/
def overRoot (b : Nat) (x : Num) : Num :=
  match x with
  | .fin s n d =>
    if n = 0 then .fin s 0 1
    else match sqrtRat (n * n) (d * d * b) with
      | .fin _ a e => .fin s a e
      | y => y
  | y => y

/-- One run times H_b (R175, R176). -/
def rotRun (b : Nat) (xs : List Num) : List Num :=
  (List.range b).map (fun i =>
    overRoot b (Num.sum (((List.range b).zip xs).map (fun p => if andParity i p.1 then p.2.neg else p.2))))

/-- A matrix rotated along its rows or columns. -/
def rotAll (b kaxis cols : Nat) (xs : List (List Num)) : List (List Num) :=
  if kaxis = 0 then xs.map (fun r => (runs b r).flatMap (rotRun b))
  else
    (runs b xs).flatMap (fun blk =>
      let out := (List.range cols).map (fun j => rotRun b (column .nan blk j))
      (List.range b).map (fun i => out.map (fun col => col.getD i .nan)))

def rotFmts : List Nat := [fFP32, fBF16, fFP16]

/-- Equal BASE, SPACE, format, shape and ROW_STRIDE: a rotation in place (R177). -/
def Tile.sameAs (a b : Tile) : Bool :=
  a.core == b.core && a.fmt == b.fmt && a.base == b.base && a.rows == b.rows && a.cols == b.cols && a.stride == b.stride

/-- Any other overlap of TA and TD gives unspecified results: the tile's values and whether one overflowed are free (R177; log 134). -/
def State.rotOverlap (s : State) (c : CoreId) (k : KsId) (td : Tile) : Except AccErr State :=
  (s.writeFree c k td).map (fun t =>
    t.addFlags c k (if Config.freeNat 25 [td.base, s.freshCtr] % 2 = 1 then Flags.ofOvfInf else {}))

def State.planRot (s : State) (c : CoreId) (k : KsId) (_sl : KSlot) (w : W128) : Except AccErr (Option Plan) := do
  let ta ← s.tileOp c k (wTA w) rotFmts true
  let td ← s.tileOp c k (wTD w) rotFmts true
  let b := 32 * 2 ^ (wFunc w)
  need (td.rows == ta.rows && td.cols == ta.cols) stMalformed
  need ((if ta.kaxis = 0 then ta.cols else ta.rows) % b == 0) stMalformed
  need (ta.dimsOk && td.dimsOk) stLimit
  if ta.empty then return none
  need (s.vecExtent c k ta false && s.vecExtent c k td true) stMalformed
  return some
    { names := [], cycles := vecCycles 12 (ta.rows * ta.cols * (5 + wFunc w)) 512, waitsAtomic := false
      apply := fun s => do
        let a ← s.readNums c k ta
        if ta.overlaps td && !ta.sameAs td then s.rotOverlap c k td
        else (s.noteTile c k ta).writeNums c k td false (rotAll b ta.kaxis ta.cols a) }

/-- ROT (R81, R175). -/
def execRot (c : CoreId) (k : KsId) (s : State) : Host.Outcome State Fault Refusal :=
  .next (s.issue c k .rot .vector (fun s ns => s.makeResident c k ns) (s.planRot c k))

/-! ## ARGMAX (R249) -/

/-- The index of a row's maximum: its first NaN, else the lowest index of the largest (R249). -/
def argmaxRow (xs : List Num) : Nat :=
  match xs.findIdx? Num.isNan with
  | some i => i
  | none => (((List.range xs.length).zip xs).foldl (fun (best : Nat × Num) p =>
      if best.2.lt p.2 then p else best) (0, xs.getD 0 .zero)).1

def State.planArgmax (s : State) (c : CoreId) (k : KsId) (_sl : KSlot) (w : W128) : Except AccErr (Option Plan) := do
  let ta ← s.tileOp c k (wTA w) measureFmts true
  let td ← s.tileOp c k (wTD w) [fINT32] true
  need (td.rows == ta.rows && td.cols == 1) stMalformed
  need (ta.dimsOk && td.dimsOk) stLimit
  if ta.empty then return none
  need (s.vecExtent c k ta false && s.vecExtent c k td true) stMalformed
  return some
    { names := [], cycles := vecCycles 12 (ta.rows * ta.cols) 256, waitsAtomic := false
      apply := fun s => do
        let a ← s.readNums c k ta
        (s.noteTile c k ta).writeRaw c k td (a.map (fun r => [argmaxRow r])) [] }

/-- ARGMAX (R81, R249). -/
def execArgmax (c : CoreId) (k : KsId) (s : State) : Host.Outcome State Fault Refusal :=
  .next (s.issue c k .argmax .vector (fun s ns => s.makeResident c k ns) (s.planArgmax c k))

/-! ## GUMBEL and the generator (R250 to R252) -/

/-- Philox-4x32-10 (R251). -/
structure Ctr4 where
  a : Nat
  b : Nat
  c : Nat
  d : Nat
deriving DecidableEq, Repr

def philoxGo : Nat → Nat → Nat → Ctr4 → Ctr4
  | 0, _, _, x => x
  | f + 1, k0, k1, x =>
    let p0 := 0xD2511F53 * x.a
    let p1 := 0xCD9E8D57 * x.c
    let y : Ctr4 :=
      { a := (p1 / 2 ^ 32) ^^^ x.b ^^^ k0, b := p1 % 2 ^ 32,
        c := (p0 / 2 ^ 32) ^^^ x.d ^^^ k1, d := p0 % 2 ^ 32 }
    philoxGo f ((k0 + 0x9E3779B9) % 2 ^ 32) ((k1 + 0xBB67AE85) % 2 ^ 32) y

def philox (x : Ctr4) (k0 k1 : Nat) : Ctr4 := philoxGo 10 k0 k1 x

def Ctr4.word (x : Ctr4) (i : Nat) : Nat :=
  if i % 4 = 0 then x.a else if i % 4 = 1 then x.b else if i % 4 = 2 then x.c else x.d

/-- The noise of a generator word (R251). -/
def gammaOf (w : Nat) : Num :=
  let k := w / 256
  let l := (lnRat (2 * k + 1) (2 ^ 25)).neg
  match l with
  | .fin _ n d => rnd32 (lnRat n d).neg
  | x => x

/-- Gumbel noise of column j at position q (R251). -/
def gumbelNoise (seed step seqId j q : Nat) : Num :=
  gammaOf ((philox { a := j / 4, b := q, c := step, d := seqId + 0x00010000 } (seed % 2 ^ 32) (seed / 2 ^ 32)).word (j % 4))

def State.planGumbel (s : State) (c : CoreId) (k : KsId) (sl : KSlot) (w : W128) : Except AccErr (Option Plan) := do
  let ta ← s.tileOp c k (wTA w) [fFP32, fBF16, fFP16, fE4M3, fE5M2] true
  let td ← s.tileOp c k (wTD w) [fFP32] true
  need (td.rows == ta.rows && td.cols == ta.cols) stMalformed
  let temp := dec32 (wHigh32 w)
  need (temp.isFin && Num.zero.lt temp) stMalformed
  let id := sl.s[wReg w 64].toNat
  let pos := sl.s[wReg w 70].toNat
  match lookup s.seqs id with
  | none => malformed
  | some sq =>
    s.needSeq id sq
    need (sq.state == .live && sq.ctx == sl.ctx) stMalformed
    need (ta.rows == 0 || pos + ta.rows - 1 ≤ 0xFFFFFFFF) stMalformed
    need (ta.dimsOk && td.dimsOk) stLimit
    if ta.empty then return none
    need (s.vecExtent c k ta false && s.vecExtent c k td true) stMalformed
    return some
      { names := [], cycles := vecCycles 24 (ta.rows * ta.cols) 64, waitsAtomic := false
        apply := fun s => do
          let a ← s.readNums c k ta
          let out := ((List.range ta.rows).zip a).map (fun p => ((List.range ta.cols).zip p.2).map (fun e =>
            match e.2 with
            | .fin _ _ _ => out32 ((e.2.div temp).add (gumbelNoise sq.seed.toNat sq.step.toNat id e.1 (pos + p.1)))
            | x => (x, ({} : Flags))))
          let s ← (s.noteTile c k ta).writeNums c k td false (out.map (fun r => r.map (·.1)))
          return s.addFlags c k (Flags.joinAll (out.map (fun r => Flags.joinAll (r.map (·.2))))) }

/-- GUMBEL (R81, R250). -/
def execGumbel (c : CoreId) (k : KsId) (s : State) : Host.Outcome State Fault Refusal :=
  .next (s.issue c k .gumbel .vector (fun s ns => s.makeResident c k ns) (s.planGumbel c k))

end Sys2Proof.Machine
end

