-- ==== Sys2Proof/Machine/Augment.lean ====
section
/-! DEFINITION. Order and augmentation of samples (14, R261, R266). -/

namespace Sys2Proof.Machine

/-! ## The shuffle (R261) -/

def SmpDesc.key0 (d : SmpDesc) : Nat := d.seed.toNat % 2 ^ 32
def SmpDesc.key1 (d : SmpDesc) : Nat := d.seed.toNat / 2 ^ 32

/-- One pass of four rounds over the halves of an index. -/
def permRound (k0 k1 h e y : Nat) : Nat :=
  let mask := 2 ^ h
  let go (lr : Nat × Nat) (rnd : Nat) : Nat × Nat :=
    let f := (philox { a := lr.2, b := rnd, c := e, d := 0x00030000 } k0 k1).a % mask
    (lr.2, lr.1 ^^^ f)
  let (l, r) := (List.range 4).foldl go (y / mask, y % mask)
  l * mask + r

/-- Cycle-walking until the index is below n: fuel, index. -/
def permWalk (k0 k1 h e n : Nat) : Nat → Nat → Nat
  | 0, y => y
  | f + 1, y => let z := permRound k0 k1 h e y; if z < n then z else permWalk k0 k1 h e n f z

/-- Half the least even b, 2 or more, with 2 to the b at least n. -/
def permHalf (n : Nat) : Nat := (findBelow (fun h => 1 ≤ h && n ≤ 2 ^ (2 * h)) 33).getD 1

/-- The sample of index p in epoch e. -/
def SmpDesc.perm (d : SmpDesc) (p e : Nat) : Nat :=
  let h := permHalf d.samples
  permWalk d.key0 d.key1 h e d.samples (2 ^ (2 * h)) p

/-! ## Draws (R266) -/

/-- Whose draws: sample index, epoch, try. -/
structure DrawKey where
  s : Nat
  e : Nat
  t : Nat
deriving DecidableEq, Repr

/-- The words of call w of operation o at frame f. -/
def SmpDesc.draw (d : SmpDesc) (k : DrawKey) (o w f : Nat) : Ctr4 :=
  philox { a := w, b := k.s % 2 ^ 32, c := k.e % 2 ^ 20 + f % 4096 * 2 ^ 20,
           d := 0x00020000 + o * 2 ^ 12 + k.t * 2 ^ 8 + k.s / 2 ^ 32 % 256 } d.key0 d.key1

/-- u(x) = ((x shr 8) + 0.5) / 2^24, over 2^25. -/
def uniform (x : Nat) : Nat := 2 * (x / 256) + 1

/-- Whether augmentation o is enabled. -/
def SmpDesc.does (d : SmpDesc) (o : Nat) : Bool := bit d.aug o

/-! ## Images -/

/-- Rows of columns of channels. -/
abbrev Plane := List (List (List Nat))

def Plane.height (p : Plane) : Nat := p.length
def Plane.width (p : Plane) : Nat := (p.head?.getD []).length

def Plane.crop (p : Plane) (y x h w : Nat) : Plane := ((p.drop y).take h).map (fun r => (r.drop x).take w)

def Plane.mirrorCols (p : Plane) : Plane := p.map List.reverse

def Plane.mirrorRows (p : Plane) : Plane := p.reverse

/-- A quarter turn counter-clockwise: the last column becomes the first row. -/
def Plane.turn (p : Plane) : Plane :=
  (List.range (Plane.width p)).reverse.map (fun x => p.map (fun r => r.getD x []))

def Plane.turns : Nat → Plane → Plane
  | 0, p => p
  | k + 1, p => Plane.turns k (Plane.turn p)

/-- A list of elements laid out as a plane. -/
def planeOf (h w ch : Nat) (es : List Nat) : Plane :=
  (List.range h).map (fun y => (List.range w).map (fun x => (es.drop (ch * (y * w + x))).take ch))

def planeElems (p : Plane) : List Nat := p.flatten.flatten

/-- A decoded sample: its frames, each one plane, or the three planes of 4:2:0. -/
structure Picture where
  frames : List (List Plane)
  hevc : Bool
  width : Nat
  height : Nat
deriving Repr

/-- Elements of one frame of 4:2:0. -/
def frameElems (w h : Nat) : Nat := w * h + 2 * (ceilDiv w 2 * ceilDiv h 2)

def pictureOf (hevc : Bool) (w h ch frames : Nat) (es : List Nat) : Picture :=
  let w2 := ceilDiv w 2
  let h2 := ceilDiv h 2
  { hevc := hevc, width := w, height := h
    frames :=
      if hevc then (List.range frames).map (fun f =>
        let e := es.drop (f * frameElems w h)
        [planeOf h w 1 e, planeOf h2 w2 1 (e.drop (w * h)), planeOf h2 w2 1 (e.drop (w * h + w2 * h2))])
      else [[planeOf h w ch es]] }

def Picture.map (p : Picture) (f : Plane → Plane) : Picture := { p with frames := p.frames.map (fun fr => fr.map f) }

/-! ## The operations in order (R266) -/

/-- An augmented sample's picture and what its header says of it. -/
structure Augmented where
  pic : Picture
  rot : Nat := 0
  flipH : Bool := false
  flipV : Bool := false
  cropY : Nat := 0
  cropX : Nat := 0
  jitter : Nat := 0
deriving Repr

def reasonSmall : Nat := 6
def reasonShape : Nat := 7

/-- Crop. -/
def augCrop (d : SmpDesc) (k : DrawKey) (a : Augmented) : Except Nat Augmented :=
  if !d.does 0 then .ok a else
  let p := a.pic
  if p.hevc && (d.cropH % 2 == 1 || d.cropW % 2 == 1) then .error reasonShape
  else if p.height < d.cropH || p.width < d.cropW then .error reasonSmall
  else
    let c := d.draw k 0 0 0
    let even (v : Nat) : Nat := if p.hevc then v / 2 * 2 else v
    let y := even (c.word 0 * (p.height - d.cropH + 1) / 2 ^ 32)
    let x := even (c.word 1 * (p.width - d.cropW + 1) / 2 ^ 32)
    let cut (fr : List Plane) : List Plane := match fr with
      | [] => []
      | q :: rest => Plane.crop q y x d.cropH d.cropW
          :: rest.map (fun r => Plane.crop r (y / 2) (x / 2) (d.cropH / 2) (d.cropW / 2))
    .ok { a with pic := { p with frames := p.frames.map cut, width := d.cropW, height := d.cropH }, cropY := y, cropX := x }

/-- Flip. -/
def augFlip (d : SmpDesc) (k : DrawKey) (a : Augmented) : Augmented :=
  if !d.does 1 then a else
  let w := (d.draw k 1 0 0).word 0
  let p := if bit w 0 then a.pic.map Plane.mirrorCols else a.pic
  let p := if bit w 1 then p.map Plane.mirrorRows else p
  { a with pic := p, flipH := bit w 0, flipV := bit w 1 }

/-- Rotate: only square images (R264, SHAPE). -/
def augRotate (d : SmpDesc) (k : DrawKey) (a : Augmented) : Except Nat Augmented :=
  if !d.does 2 then .ok a
  else if a.pic.width ≠ a.pic.height then .error reasonShape
  else
    let n := (d.draw k 2 0 0).word 0 % 4
    .ok { a with pic := a.pic.map (Plane.turns n), rot := n }

/-- Frame-time jitter: the frames kept (R264, SMALL; R266). -/
def augJitter (d : SmpDesc) (k : DrawKey) (frames : Nat) : Except Nat Nat :=
  if !d.does 5 then .ok 0
  else if frames ≤ d.jitterMax then .error reasonSmall
  else .ok ((d.draw k 5 0 0).word 0 * (d.jitterMax + 1) / 2 ^ 32)

/-- g of the gain. -/
def augGain (d : SmpDesc) (k : DrawKey) : Num :=
  if !d.does 3 then .ofNat 1 else
  let u := uniform ((d.draw k 3 0 0).word 0)
  let v : Int := 2 * (u : Int) - 2 ^ 25
  (Num.ofNat 1).add ((dec32 d.gainRange.toNat).mul (.fin (decide (v < 0)) v.natAbs (2 ^ 25)))

/-- The normal value of element i of frame f. -/
def augNormal (d : SmpDesc) (k : DrawKey) (f i : Nat) : Num :=
  let c := d.draw k 4 (i / 4) f
  let j := i % 4
  let pair := if j < 2 then (uniform (c.word 0), uniform (c.word 1)) else (uniform (c.word 2), uniform (c.word 3))
  let r := match (lnRat pair.1 (2 ^ 25)).neg with
    | .fin _ n m => sqrtRat (2 * n) m
    | x => x
  r.mul (if j % 2 = 0 then cosTurn pair.2 (2 ^ 25) else sinTurn pair.2 (2 ^ 25))

/-- One element written: exact value, rounded once. -/
def augElem (d : SmpDesc) (k : DrawKey) (g : Num) (fmt out f i bits : Nat) : Nat × Flags :=
  let x := decodeElem fmt bits
  let v := if d.does 3 then x.mul g else x
  let v := if d.does 4 then v.add ((dec32 d.noiseSigma.toNat).mul (augNormal d k f i)) else v
  conv out false v

/-- A picture augmented and written: header facts, payload bytes, saturations. -/
def augment (d : SmpDesc) (k : DrawKey) (fmt out frames : Nat) (p : Picture) : Except Nat (Augmented × Nat × List Byte × Nat) := do
  let a ← augCrop d k { pic := p }
  let a ← augRotate d k (augFlip d k a)
  let j ← augJitter d k frames
  let kept := if d.does 5 then (a.pic.frames.drop j).take (frames - d.jitterMax) else a.pic.frames
  let g := augGain d k
  let each := ((List.range kept.length).zip kept).map (fun fr =>
    let es := fr.2.flatMap planeElems
    ((List.range es.length).zip es).map (fun e => augElem d k g fmt out (fr.1 + j) e.1 e.2))
  let res := each.flatten
  return ({ a with jitter := j }, kept.length, packRow out (res.map (·.1)), (res.map (fun e => e.2.satCount)).sum)

end Sys2Proof.Machine
end

