-- ==== Sys2Proof/Machine/Codecs.lean ====
section
/-! DEFINITION. The Rice and DEFLATE decoders (14, R254, R257 to R259). The manual names their standards, RICE_1 of FITS tile compression and
RFC 1951; the streams' formats are theirs (PRESUMED, log 143). -/

namespace Sys2Proof.Machine

/-- How a decode ended. -/
inductive CodecEnd where
  | full | truncated | corrupt
deriving DecidableEq, Repr

/-- What a decoder has done: how it ended, the units it wrote, last first, the bits it has not read, and its dynamic block headers. -/
structure Decoded where
  how : CodecEnd
  out : List Nat
  rest : List Bool
  dyn : Nat
deriving DecidableEq, Repr

/-! ## Rice -/

/-- The bits of a stream, each byte's most significant first. -/
def msbBits (bs : List Byte) : List Bool := bs.flatMap (fun b => (List.range 8).map (fun i => b.getLsbD (7 - i)))

/-- A number of n bits, most significant first. -/
def takeMsb (n : Nat) (bits : List Bool) : Option (Nat × List Bool) :=
  if bits.length < n then none else some ((bits.take n).foldl (fun v b => 2 * v + bitN b) 0, bits.drop n)

/-- A mapped difference: a count of zeros ended by a one, then k bits. -/
def riceDiff (k : Nat) (bits : List Bool) : Option (Nat × List Bool) :=
  let z := (bits.takeWhile (!·)).length
  match bits.drop z with
  | [] => none
  | _ :: r => (takeMsb k r).map (fun v => (z * 2 ^ k + v.1, v.2))

/-- The pixel after one of w bits, by a mapped difference. -/
def riceNext (w last v : Nat) : Nat := (last + (if v % 2 = 0 then v / 2 else 2 ^ w - 1 - v / 2 % 2 ^ w)) % 2 ^ w

/-- Pixels of one block: how many, how each difference is read. -/
def riceBlock (w : Nat) (next : List Bool → Option (Nat × List Bool)) : Nat → Nat → Decoded → Decoded
  | 0, _, a => a
  | n + 1, last, a => match next a.rest with
    | none => { a with how := .truncated }
    | some (v, r) => riceBlock w next n (riceNext w last v) { a with out := riceNext w last v :: a.out, rest := r }

/-- Blocks until n pixels are written: fuel, pixels wanting, the last pixel. -/
def riceGo (w block : Nat) : Nat → Nat → Nat → Decoded → Decoded
  | 0, _, _, a => a
  | f + 1, n, last, a =>
    if n = 0 then a else
    match takeMsb (if w = 16 then 4 else 5) a.rest with
    | none => { a with how := .truncated }
    | some (code, r) =>
      let raw := if w = 16 then 14 else 25
      if raw + 1 < code then { a with how := .corrupt } else
      let m := min block n
      let next : List Bool → Option (Nat × List Bool) :=
        if code = 0 then fun bits => some (0, bits) else if code = raw + 1 then takeMsb w else riceDiff (code - 1)
      let a := riceBlock w next m last { a with rest := r }
      if a.how = .full then riceGo w block f (n - m) (a.out.headD 0) a else a

/-- A tile of n pixels of w bits; the first is written whole ahead of the blocks, as the value that differences start from. -/
def riceDecode (w block n : Nat) (src : List Byte) : Decoded :=
  match takeMsb w (msbBits src) with
  | none => { how := .truncated, out := [], rest := [], dyn := 0 }
  | some (first, r) => riceGo w block (n + 1) n first { how := .full, out := [], rest := r, dyn := 0 }

/-! ## DEFLATE -/

/-- The bits of a stream, each byte's least significant first. -/
def lsbBits (bs : List Byte) : List Bool := bs.flatMap (fun b => (List.range 8).map (fun i => b.getLsbD i))

/-- A number of n bits, least significant first. -/
def takeLsb (n : Nat) (bits : List Bool) : Option (Nat × List Bool) :=
  if bits.length < n then none else some ((bits.take n).foldr (fun b v => 2 * v + bitN b) 0, bits.drop n)

/-- A prefix code: length, code and symbol of each symbol that has one. -/
abbrev PrefixCode := List (Nat × Nat × Nat)

/-- How many symbols have a length. -/
def lengthCount (lens : List Nat) (l : Nat) : Nat := lens.countP (· == l)

/-- The first code of each length. -/
def firstCode (lens : List Nat) : Nat → Nat
  | 0 => 0
  | l + 1 => (firstCode lens l + (if l = 0 then 0 else lengthCount lens l)) * 2

/-- The code of a list of lengths, 0 for a symbol without one. -/
def prefixCode (lens : List Nat) : PrefixCode :=
  (List.range lens.length).filterMap (fun i =>
    let l := lens.getD i 0
    if l = 0 then none else some (l, firstCode lens l + lengthCount (lens.take i) l, i))

/-- Whether no length has more codes than it can hold. -/
def prefixFits (lens : List Nat) : Bool :=
  (List.range 15).all (fun l => firstCode lens (l + 1) + lengthCount lens (l + 1) ≤ 2 ^ (l + 1))

inductive SymEnd where
  | sym (v : Nat) (rest : List Bool)
  | short
  | bad
deriving DecidableEq, Repr

/-- One symbol: fuel, its length and code so far. -/
def takeSym (c : PrefixCode) : Nat → Nat → Nat → List Bool → SymEnd
  | 0, _, _, _ => .bad
  | f + 1, l, code, bits => match bits with
    | [] => .short
    | b :: r =>
      let code := 2 * code + bitN b
      match c.find? (fun e => e.1 == l + 1 && e.2.1 == code) with
      | some e => .sym e.2.2 r
      | none => takeSym c f (l + 1) code r

/-- Base and extra bits of the length symbols 257 to 285. -/
def lengthBase (i : Nat) : Nat × Nat :=
  if i < 8 then (3 + i, 0) else if i = 28 then (258, 0)
  else let e := i / 4 - 1; (3 + (4 + i % 4) * 2 ^ e, e)

/-- Base and extra bits of the distance symbols 0 to 29. -/
def distBase (i : Nat) : Nat × Nat := if i < 4 then (1 + i, 0) else let e := i / 2 - 1; (1 + (2 + i % 2) * 2 ^ e, e)

/-- A match copied byte by byte: how many, how far back. -/
def copyMatch : Nat → Nat → List Nat → List Nat
  | 0, _, out => out
  | n + 1, d, out => copyMatch n d (out.getD (d - 1) 0 :: out)

/-- The symbols of a block: fuel, the bytes that the sample holds. -/
def inflateSyms (lit dist : PrefixCode) (total : Nat) : Nat → Decoded → Decoded
  | 0, a => a
  | f + 1, a =>
    if a.out.length = total then a else
    match takeSym lit 15 0 0 a.rest with
    | .short => { a with how := .truncated }
    | .bad => { a with how := .corrupt }
    | .sym v r =>
      if v < 256 then inflateSyms lit dist total f { a with out := v :: a.out, rest := r }
      else if v = 256 then { a with rest := r }
      else if 285 < v then { a with how := .corrupt, rest := r }
      else
        let (lb, le) := lengthBase (v - 257)
        match takeLsb le r with
        | none => { a with how := .truncated }
        | some (x, r) => match takeSym dist 15 0 0 r with
          | .short => { a with how := .truncated }
          | .bad => { a with how := .corrupt, rest := r }
          | .sym dv r =>
            if 29 < dv then { a with how := .corrupt, rest := r } else
            let (db, de) := distBase dv
            match takeLsb de r with
            | none => { a with how := .truncated }
            | some (y, r) =>
              if a.out.length < db + y || total < a.out.length + lb + x then { a with how := .corrupt, rest := r }
              else inflateSyms lit dist total f { a with out := copyMatch (lb + x) (db + y) a.out, rest := r }

/-- The code lengths of a dynamic block: fuel, how many, the lengths so far, last first. -/
def codeLengths (c : PrefixCode) (n : Nat) : Nat → List Nat → List Bool → Except CodecEnd (List Nat × List Bool)
  | 0, _, _ => .error .corrupt
  | f + 1, ls, bits =>
    if ls.length = n then .ok (ls.reverse, bits)
    else if n < ls.length then .error .corrupt else
    match takeSym c 15 0 0 bits with
    | .short => .error .truncated
    | .bad => .error .corrupt
    | .sym v r =>
      if v < 16 then codeLengths c n f (v :: ls) r else
      let (base, e, what) := if v = 16 then (3, 2, ls.head?) else if v = 17 then (3, 3, some 0) else (11, 7, some 0)
      match takeLsb e r, what with
      | none, _ => .error .truncated
      | _, none => .error .corrupt
      | some (x, r), some l => codeLengths c n f (List.replicate (base + x) l ++ ls) r

/-- The order of the code length code's lengths. -/
def lengthOrder : List Nat := [16, 17, 18, 0, 8, 7, 9, 6, 10, 5, 11, 4, 12, 3, 13, 2, 14, 1, 15]

/-- The two codes of a dynamic block. -/
def dynamicCodes (bits : List Bool) : Except CodecEnd ((PrefixCode × PrefixCode) × List Bool) := do
  let take (n : Nat) (b : List Bool) : Except CodecEnd (Nat × List Bool) := match takeLsb n b with
    | some x => .ok x
    | none => .error .truncated
  let (hl, r) ← take 5 bits
  let (hd, r) ← take 5 r
  let (hc, r) ← take 4 r
  let (cl, r) ← (List.range (hc + 4)).foldlM (fun (a : List Nat × List Bool) _ => do
    let (v, r) ← take 3 a.2
    return (a.1 ++ [v], r)) ([], r)
  let cls := (List.range 19).map (fun s => match (lengthOrder.take cl.length).findIdx? (· == s) with
    | some i => cl.getD i 0
    | none => 0)
  if !prefixFits cls then .error .corrupt
  let n := hl + 257 + hd + 1
  let (ls, r) ← codeLengths (prefixCode cls) n (n + 1) [] r
  let lit := ls.take (hl + 257)
  let dist := ls.drop (hl + 257)
  if 286 < hl + 257 || lit.getD 256 0 = 0 || !prefixFits lit || !prefixFits dist then .error .corrupt
  return ((prefixCode lit, prefixCode dist), r)

/-- The code lengths of a fixed block. -/
def fixedLens : List Nat :=
  List.replicate 144 8 ++ List.replicate 112 9 ++ List.replicate 24 7 ++ List.replicate 8 8

/-- A stored block. -/
def inflateStored (total : Nat) (a : Decoded) : Decoded :=
  let r := a.rest.drop (a.rest.length % 8)
  match takeLsb 16 r with
  | none => { a with how := .truncated }
  | some (len, r) => match takeLsb 16 r with
    | none => { a with how := .truncated }
    | some (nlen, r) =>
      if len + nlen ≠ 65535 then { a with how := .corrupt, rest := r } else
      let n := min len (total - a.out.length)
      let have_ := min n (r.length / 8)
      let bytes := (List.range have_).map (fun i => ((takeLsb 8 (r.drop (8 * i))).map (·.1)).getD 0)
      { a with how := if have_ < n then .truncated else .full, out := bytes.reverse ++ a.out, rest := r.drop (8 * have_) }

/-- Blocks until the sample is full or the last block has ended: fuel. -/
def inflateGo (total : Nat) : Nat → Decoded → Decoded
  | 0, a => a
  | f + 1, a =>
    match takeLsb 1 a.rest with
    | none => { a with how := .truncated }
    | some (final, r) => match takeLsb 2 r with
      | none => { a with how := .truncated }
      | some (ty, r) =>
        let a := { a with rest := r }
        let a := match ty with
          | 0 => inflateStored total a
          | 1 => inflateSyms (prefixCode fixedLens) (prefixCode (List.replicate 30 5)) total (total + 1) a
          | 2 => (match dynamicCodes r with
            | .ok (cs, r) => inflateSyms cs.1 cs.2 total (total + 1) { a with rest := r, dyn := a.dyn + 1 }
            | .error e => { a with how := e, dyn := a.dyn + 1 })
          | _ => { a with how := .corrupt }
        if a.how != .full || a.out.length = total then a
        else if final = 1 then { a with how := .truncated } else inflateGo total f a

/-- A raw DEFLATE stream of a sample that holds so many bytes. -/
def inflate (total : Nat) (src : List Byte) : Decoded :=
  inflateGo total (8 * src.length + 1) { how := .full, out := [], rest := lsbBits src, dyn := 0 }

/-- Whole bytes that a decoder has read of a source of n bytes. -/
def Decoded.read (a : Decoded) (n : Nat) : Nat := ceilDiv (8 * n - a.rest.length) 8

end Sys2Proof.Machine
end

