-- ==== Sys2Proof/Machine/Wake.lean ====
section
/-! DEFINITION. Ash's save and restore, and what wakes the package (21, R409 to R411). -/

namespace Sys2Proof.Machine

/-- The blocks of a RAM whose first byte a test picks. -/
def Ram.keep (m : Ram) (p : Nat → Bool) : Ram :=
  { cells := m.cells.filter (fun e => p (e.1 / 32 * 32)), bad := m.bad.filter (fun e => p (32 * e.1)) }

/-- Whether an accumulator address lies in a unit that holds coil state. -/
def State.inCoilUnit (s : State) (a : Nat) : Bool :=
  s.cores[coreN (a / accBytes)].coilUnits.getLsbD (a % 0x80000 / 0x10000)

/-- Ash entered: region memories and coil units saved in the stacks, SRAM off. -/
def State.enterAsh (s : State) : State :=
  let s := s.updPwr (fun p => { p with
    pendingReq := none
    reqStatus := stDone
    ashRegion := some s.regionMem
    ashAcc := some (s.accMem.keep s.inCoilUnit) })
  { s with
    regionMem := { cells := [], bad := [] }
    accMem := { cells := [], bad := [] }
    coreStore := { cells := [], bad := [] } }.setPower 3

/-- Ash left: both restored. -/
def State.leaveAsh (s : State) : State :=
  let s : State := { s with
    regionMem := s.pwr.ashRegion.getD s.regionMem
    accMem := s.pwr.ashAcc.getD s.accMem }
  (s.updPwr (fun p => { p with ashRegion := none, ashAcc := none })).setPower 0

/-- A BAR access arrives: it wakes the package from Ash. -/
def State.awake (s : State) : State := if s.pwr.current = 3 then s.leaveAsh else s

/-- Glow or Ember left. -/
def State.leaveLow (s : State) : State := if s.pwr.current = 1 || s.pwr.current = 2 then s.setPower 0 else s

end Sys2Proof.Machine
end

