-- ==== Sys2Proof/Machine/Placement.lean ====
section
/-! DEFINITION. Kernel headers, the cores that may take an instance, and the order of waiting commands (03, R38 to R45; 06, R123; 16,
R308, R312 to R314; 01, R18, R19). -/

namespace Sys2Proof.Machine

/-! ## The kernel header (R38, R39) -/

def headerOf (bs : List Byte) : KHeader :=
  let w1 := leAt bs 4 4
  let w4 := leAt bs 0x10 4
  let w5 := leAt bs 0x14 4
  { spillBack := bit w1 0, exclusive := bit w1 1, narrow := bit w1 2, length := leAt bs 8 4, entry := leAt bs 0xC 4,
    csKib := fld w4 15 0, accSlots := fld w4 23 16, spillTiles := fld w4 27 24, argBytes := fld w5 15 0,
    minAnvils := fld w5 19 16, maxInst := fld w5 31 24, formats := BitVec.ofNat 32 (leAt bs 0x18 4) }

/-- Versions and reserved fields (R39, the VERSION rows). -/
def headerVersionOk (bs : List Byte) (major minor : Nat) : Bool :=
  let w0 := leAt bs 0 4
  fld w0 15 8 == major && fld w0 7 0 ≤ minor && fld w0 31 24 == 1 && fld w0 23 16 == 0
    && fld (leAt bs 4 4) 31 3 == 0 && fld (leAt bs 0x10 4) 31 28 == 0 && fld (leAt bs 0x14 4) 23 20 == 0
    && (bs.drop 0x20).all (· == 0)

/-- The ranges of R38 (R39, first MALFORMED row). -/
def KHeader.rangesOk (h : KHeader) : Bool :=
  1 ≤ h.length && h.length ≤ 65536 && h.entry < h.length
    && h.csKib % 64 == 0 && 64 ≤ h.csKib && h.csKib ≤ 8192
    && h.accSlots ≤ (if h.narrow then 16 else 8) && h.spillTiles ≤ 8 && (!h.spillBack || 1 ≤ h.spillTiles)
    && h.argBytes % 8 == 0 && h.argBytes ≤ 4096 && 1 ≤ h.minAnvils && 1 ≤ h.maxInst && h.maxInst ≤ 96
    && h.formats.toNat < 0x1000

/-- What no core of the device could hold (R39, LIMIT). -/
def KHeader.fits (h : KHeader) : Bool := h.csKib + 256 * h.spillTiles ≤ 8192 && h.minAnvils ≤ 4

/-- Whether an instruction's opcode is one of the vector engine's (R123). -/
def usesVector (w : Nat) : Bool := 0x80 ≤ w % 1024 && w % 1024 ≤ 0xFF

/-- The header of a KERNEL command, validated under R39; the inner error is its status. -/
def State.kernelHeader (s : State) (ctx major minor image : Nat) : Except AccErr (Except Nat KHeader) := do
  let bs ← s.readVirt none ctx image 64
  if !headerVersionOk bs major minor then return .error stVersion
  let h := headerOf bs
  if !h.rangesOk then return .error stMalformed
  let code ← s.readVirt none ctx (image + 0x40) (16 * h.length)
  if crc32 code ≠ leAt bs 0x1C 4 then return .error stMalformed
  if !h.fits then return .error stLimit
  return .ok { h with vecOps := (List.range h.length).any (fun i => usesVector (leAt code (16 * i) 2)) }

/-! ## Room on a core (R40, R41, R43) -/

/-- Core store bytes an instance takes. -/
def KHeader.storeBytes (h : KHeader) : Nat := (h.csKib + 256 * h.spillTiles) * 1024

/-- Accumulator units per anvil an instance takes. -/
def KHeader.unitsNeeded (h : KHeader) : Nat := if h.narrow then ceilDiv h.accSlots 2 else h.accSlots

/-- Whether some core in service has the units, coils or none, that an instance takes after repair; with no core in service the command
waits for one (R130). -/
def State.unitsFit (s : State) (h : KHeader) : Bool :=
  !(List.finRange 96).any s.coreUp || (List.finRange 96).any (fun c => s.coreUp c && h.unitsNeeded ≤ s.cores[c].accUnits)

/-- The kernel slots of a core that are not FREE. -/
def Core.resident (co : Core) : List KSlot := co.slots.toList.filter (fun sl => sl.state != .free)

/-- Free units: usable, held by no slot and by no coil. -/
def Core.freeUnits (co : Core) : List Nat :=
  (List.range co.accUnits).filter (fun u => !co.coilUnits.getLsbD u && !(co.resident.any (fun sl => sl.units.contains u)))

/-- The lowest free range of core store, aligned to 64 KiB. -/
def Core.freeStore (co : Core) (bytes : Nat) : Option Nat :=
  ((List.range 128).map (· * 65536)).find? (fun b =>
    b + bytes ≤ coreStoreBytes && co.resident.all (fun sl => b + bytes ≤ sl.csBase || sl.csBase + sl.csBytes ≤ b))

/-- The lowest FREE kernel slot. -/
def Core.freeSlot? (co : Core) : Option KsId := (List.finRange 4).find? (fun k => (co.slots[k]).state == .free)

/-- EXCLUSIVE of R41. -/
def Core.exclusiveOk (co : Core) (ctx : Nat) (h : KHeader) : Bool :=
  co.resident.all (fun sl => sl.ctx == ctx || (!h.exclusive && !sl.hdr.exclusive))

/-- Exclusive cores of R314. -/
def State.ownerOk (s : State) (ctx : Nat) (co : Core) : Bool :=
  match co.owner with
  | some o => o == ctx
  | none => match lookup s.ctxs ctx with
    | some c => c.exclCores == 0
    | none => false

/-- Whether a region takes kernels of a role class (R17 to R19), and is not on its way out of service (R441). -/
def State.regionTakes (s : State) (g : RegionId) (cls : Nat) : Bool :=
  roleAllows s.regions[g].role cls && roleAllows s.regions[g].roleNow cls
    && !s.regions[g].drain && !s.regions[g].outOfService

/-- Whether a core may hold an instance (R18, R40, R41, R123, R314, R339). -/
def State.coreTakes (s : State) (ctx cls : Nat) (h : KHeader) (banned : List RegionId) (c : CoreId) : Bool :=
  let co := s.cores[c]
  let g := regionOfCore c
  s.coreUp c && s.regionTakes g cls && !banned.contains g && s.ownerOk ctx co && co.exclusiveOk ctx h
    && co.freeSlot?.isSome && (co.freeStore h.storeBytes).isSome && h.unitsNeeded ≤ co.freeUnits.length
    && (co.vec == .inService || !h.vecOps)

/-- As `coreTakes` where only slots, core store and units are wanting: an eligible core that is occupied (R315). -/
def State.coreCould (s : State) (ctx cls : Nat) (h : KHeader) (banned : List RegionId) (c : CoreId) : Bool :=
  let co := s.cores[c]
  let g := regionOfCore c
  s.coreUp c && s.regionTakes g cls && !banned.contains g && s.ownerOk ctx co && (co.vec == .inService || !h.vecOps)

/-! ## Tiers of placement (R23, R313) -/

/-- The tier of region g seen from region a: itself, its die, an adjacent die, the diagonal die. -/
def tierOf (a g : RegionId) : Nat :=
  let d := (dieOfRegion a).val
  let e := (dieOfRegion g).val
  if a = g then 0 else if d = e then 1 else if d + e = 3 then 3 else 2

/-- The region that holds the page of AFFINITY, else of COUNTER, else region 0: the queue engine's choice (log 25). -/
def State.anchor (s : State) (ctx affinity counter : Nat) : RegionId :=
  let at? (va : Nat) : Option RegionId := match s.xlate none ctx va false with
    | .ok l => l.home
    | .error _ => none
  if affinity != 0 then (at? affinity).getD 0 else if counter != 0 then (at? counter).getD 0 else 0

/-- How a core ranks for placement: tier, resident slots, number. -/
def State.rank (s : State) (a : RegionId) (c : CoreId) : Nat :=
  (tierOf a (regionOfCore c) * 8 + (s.cores[c]).resident.length) * 128 + c.val

/-- The core of least rank among those that satisfy a test. -/
def State.bestCore (s : State) (a : RegionId) (p : CoreId → Bool) : Option CoreId :=
  ((List.finRange 96).filter p).foldl (fun b c => match b with
    | none => some c
    | some x => if s.rank a c < s.rank a x then some c else b) none

/-! ## Stopped contexts (R345, R353) -/

/-- Whether a quench keeps a context's commands from dispatching (R345). -/
def State.quenched (s : State) (ctx : Nat) : Bool :=
  match s.fls.quench with
  | some z => z.scope || z.ctx == ctx
  | none => false

/-! ## Predecessors (R308) -/

/-- The nearest earlier command of a queue that is not a HINT, while it is in the command store. -/
def State.pred? (s : State) (q n : Nat) : Option Cmd :=
  (s.cmds.filter (fun c => c.q == q && c.n < n && c.type != tyHint)).foldl (fun b c => match b with
    | none => some c
    | some x => if x.n < c.n then some c else b) none

def Phase.started (p : Phase) : Bool := p == .dispatched || p == .ready || p == .ended

/-- Whether the order within its queue lets a command dispatch. -/
def State.orderOk (s : State) (cm : Cmd) : Bool :=
  if cm.type = tyHint then true
  else if cm.type = tyFence then
    s.cmds.all (fun c => !(c.q == cm.q && c.n < cm.n) || c.phase == .ended)
  else match s.pred? cm.q cm.n with
    | none => true
    | some p => if cm.overlap && !cm.ifOk then p.phase.started else p.phase == .ended

/-- IF_OK of R308: whether the predecessor committed; without one the command runs. -/
def State.ifOkHolds (s : State) (cm : Cmd) : Bool :=
  if !cm.ifOk || cm.type == tyHint then true
  else match s.pred? cm.q cm.n with
    | some p => p.mark
    | none => match lookup s.queues cm.q with
      | some qu => qu.prevOk.getD true
      | none => true

/-- Order of R312: higher priority first, then earlier acceptance, then lower queue. -/
def Cmd.before (a b : Cmd) : Bool :=
  if a.prio ≠ b.prio then decide (b.prio < a.prio)
  else if a.acceptedAt ≠ b.acceptedAt then decide (a.acceptedAt < b.acceptedAt)
  else if a.q ≠ b.q then decide (a.q < b.q) else decide (a.acceptIdx < b.acceptIdx)

def insertCmd (c : Cmd) : List Cmd → List Cmd
  | [] => [c]
  | x :: r => if c.before x then c :: x :: r else x :: insertCmd c r

def sortCmds (l : List Cmd) : List Cmd := l.foldr insertCmd []

end Sys2Proof.Machine
end

