-- ==== Sys2Proof/Machine/Queues.lean ====
section
/-! DEFINITION. The queue engine and the dispatch of commands (16, R302 to R308, R312; 01, R10 to R12; 12, R227). -/

namespace Sys2Proof.Machine

/-! ## Doorbells (R302) -/

/-- An ignored doorbell: counted and logged. -/
def State.ignoreDoorbell (s : State) (h : HostPort) (q : Nat) : State :=
  { s with cntDbIgnored := s.cntDbIgnored + 1 }.logEv
    { source := 10, cause := 1, unit := h.val, ctx := (lookup s.queues q).map Queue.ctx, address := 8 * q }

/-- Whether a doorbell is taken. -/
def State.doorbellOk (s : State) (h : HostPort) (q width : Nat) (word : W64) : Bool :=
  match lookup s.queues q with
  | none => false
  | some qu =>
    let w := word.toNat
    width == 8 && qu.state == .active && fld w 47 32 == qu.gen.toNat && fld w 63 48 == 0
      && (match lookup s.ctxs qu.ctx with
          | some c => c.home == h
          | none => false)
      && (fld w 31 0 + 2 ^ 32 - qu.completed % 2 ^ 32) % 2 ^ 32 ≤ qu.depth

/-- A BAR access refused: counted, logged with its address (R397, R403). -/
def State.refuseBar (s : State) (h : HostPort) (addr : Nat) : State :=
  (s.updHif h (fun x => { x with cntBar4Refused := x.cntBar4Refused + 1 })).logEv
    { source := 12, cause := 6, unit := h.val, address := addr }

/-- A doorbell: refused before READY, ignored, or the queue's TAIL. -/
def State.doorbell (s : State) (h : HostPort) (q width : Nat) (word : W64) : State :=
  if !s.isReady then s.refuseBar h (8 * q)
  else if s.doorbellOk h q width word then s.updQueue q (fun qu => { qu with tail := BitVec.ofNat 32 word.toNat })
  else s.ignoreDoorbell h q

def execDoorbell (h : HostPort) (q width : Nat) (word : W64) (s : State) : Host.Outcome State Fault Refusal :=
  .next (s.awake.doorbell h q width word)

/-! ## Acceptance (R303, R304, R325, R326) -/

/-- A failed command read: ACCEPTED stays, the failure is logged and counted, no later command is read. -/
def State.fetchFail (s : State) (q : Nat) (qu : Queue) (va : Nat) : State :=
  ({ s with cntFetchFail := s.cntFetchFail + 1 }.logEv
    { source := 10, cause := 3, ctx := some qu.ctx, address := va }).updQueue q (fun x => { x with fetchFailed := true })

/-- A command as the command store first holds it. -/
def newCmd (q n prio now idx : Nat) (bytes : List Byte) : Cmd :=
  { q := q, n := n, bytes := bytes, acceptedAt := now, acceptIdx := idx, phase := .waiting, status := 0, prio := prio,
    capped := false, lossy := false, counted := false, mark := false, settled := false, held := false, heldOn := none,
    ending := none, endLogged := false, staged := 0,
    notes := false, flags := {}, dups := 0, trap := none, hdr := {}, args := 0, insts := [],
    targets := [], counter := 0, home := none, bitmap := 0, jstep := 0, pages := [], reserved := [], paths := [], culls := [],
    rounds := [], desc := [], roundDone := [], outs := [], deadline := none, bannedRegions := [], saves := [] }

/-- Commands the command store holds (R325). -/
def storeEntries : Nat := 1048576

/-- Commands that the doorbells announce and that are not yet accepted; none when TAIL lies behind ACCEPTED. -/
def Queue.announced (qu : Queue) : Nat :=
  let d := (qu.tail - BitVec.ofNat 32 qu.accepted).toNat
  if d ≤ qu.depth then d else 0

/-- Whether the queue engine may read the queue's next command. -/
def State.mayFetch (s : State) (qu : Queue) : Bool :=
  qu.state == .active && !qu.acceptHeld && qu.announced != 0
    && decide (s.cmds.length < storeEntries) && (s.copyA.isSome || s.copyB.isSome)

/-- The queues whose next command may be read now. -/
def State.contenders (s : State) : List Nat :=
  (s.queues.filter (fun e => s.mayFetch e.2 && !e.2.fetchFailed)).map (·.1)

/-- Whether it is a queue's turn: once the command store has been full, acceptance goes round the queues that wait (R326). -/
def State.acceptsFrom (s : State) (q : Nat) : Bool :=
  match s.acceptTurn with
  | none => true
  | some last => (s.contenders.find? (fun x => last < x)).getD (s.contenders.headD q) == q

/-- The turn after a queue's command: kept while the command store is full or another queue waits. -/
def State.turnAfter (s : State) (q : Nat) : Option Nat :=
  if s.cmds.length + 1 = storeEntries || (s.acceptTurn.isSome && 1 < s.contenders.length) then some q else none

/-- ACCEPTED written, and the command in the command store; a write that cannot be made is held with the command's bytes
(R303, R462). -/
def State.acceptBytes (s : State) (q : Nat) (qu : Queue) (bytes : List Byte) : State :=
  let qu' := { qu with accepted := qu.accepted + 1 }
  match s.writeVirt none qu.ctx qu.statusBlock qu'.statusBytes with
  | .error e => s.holdWrite q (.accepted bytes) e qu.statusBlock
  | .ok s =>
    let turn := s.turnAfter q
    let s := s.updQueue q (fun x => { x with accepted := x.accepted + 1, held := x.held.filter (fun w => !w.1.accepts) })
    { s with
      cmds := s.cmds ++ [newCmd q (qu.accepted + 1) qu.prio s.timeNs s.acceptCtr bytes]
      acceptCtr := s.acceptCtr + 1
      acceptTurn := turn }

/-- The ring address of the queue's next command (R303). -/
def Queue.nextVA (qu : Queue) : Nat := qu.cmdRing + 64 * (qu.accepted % qu.depth)

/-- The queue's next command read and accepted. -/
def State.fetchNext (s : State) (q : Nat) (qu : Queue) : State :=
  match s.readVirt none qu.ctx qu.nextVA 64 with
  | .ok bs => ((s.noteVirt none qu.ctx qu.nextVA 64).updQueue q (fun x => { x with fetchFailed := false })).acceptBytes q qu bs
  | .error (.status _ nt) => (s.noteErr nt).fetchFail q qu qu.nextVA
  | .error (.resetting g) => s.logAbsent (.region g)
  | .error (.fenced g) => s.logAbsent (.region g)
  | .error _ => s

def execCommandAccept (q : Nat) (s : State) : Host.Outcome State Fault Refusal :=
  .next (match lookup s.queues q with
    | none => s
    | some qu => if s.mayFetch qu && !qu.fetchFailed && s.acceptsFrom q then s.fetchNext q qu else s)

def execCommandFetchRetry (q : Nat) (s : State) : Host.Outcome State Fault Refusal :=
  .next (match lookup s.queues q with
    | none => s
    | some qu => if s.mayFetch qu && qu.fetchFailed then s.fetchNext q qu else s)

/-! ## Checks 1 to 4 of a command (R307) -/

/-- Bits of a command that its type leaves reserved: offset of a word of k bytes and the reserved bits, high and low. -/
def reservedBits (ty : Nat) (hasParent : Bool) : List (Nat × Nat × Nat × Nat) :=
  let addr (off : Nat) : Nat × Nat × Nat × Nat := (off, 8, 63, 48)
  let all (off : Nat) : Nat × Nat × Nat × Nat := (off, 8, 63, 0)
  [(0, 4, 31, 27), (4, 4, 31, 0)] ++
  match ty with
  | 0x01 => [addr 0x10, addr 0x18, addr 0x20, addr 0x28, (0x30, 8, 63, 16), addr 0x38]
  | 0x02 => [(0x10, 8, 51, 50), (0x18, 8, 51, 50), (0x34, 4, 31, 25), all 0x38]
  | 0x03 => [all 0x10, (0x18, 8, 51, 50), all 0x20, (0x34, 4, 31, 26)]
  | 0x04 => [addr 0x10, (0x18, 4, 31, 17), (0x1C, 4, 31, 13), all 0x38]
      ++ (if hasParent then [all 0x20, all 0x28, all 0x30] else [(0x30, 8, 63, 29)])
  | 0x05 => [addr 0x10, (0x18, 8, 63, 13), all 0x20, all 0x28, all 0x30, all 0x38]
  | 0x06 => [addr 0x10, addr 0x18, (0x20, 4, 31, 3), (0x24, 4, 31, 13), all 0x28, all 0x30, all 0x38]
  | 0x07 => [all 0x10, all 0x18, all 0x20, all 0x28, all 0x30, all 0x38]
  | 0x08 => [(0x10, 8, 63, 17), all 0x20, all 0x28, all 0x30, all 0x38]
  | 0x09 => [(0x10, 4, 31, 16), all 0x20, all 0x28, all 0x30, all 0x38]
  | 0x0A => [(0x10, 4, 31, 4), (0x18, 8, 63, 32), all 0x20, all 0x28, all 0x30, all 0x38]
  | _ => [(0x10, 8, 63, 1), all 0x20, all 0x28, all 0x30, all 0x38]

/-- A node field is zero unless its kind is REMOTE (R306). -/
def Cmd.nodeClean (cm : Cmd) (off : Nat) : Bool :=
  fld (cm.at off 8) 49 48 == 2 || fld (cm.at off 8) 63 52 == 0

/-- Check 3. -/
def Cmd.reservedClean (cm : Cmd) : Bool :=
  (reservedBits cm.type (bit (cm.at 0x18 4) 16)).all (fun r => fld (cm.at r.1 r.2.1) r.2.2.1 r.2.2.2 == 0)
    && (cm.type != tyCopy || (cm.nodeClean 0x10 && cm.nodeClean 0x18))
    && (cm.type != tyFill || cm.nodeClean 0x18)

/-- Check 4: fields outside their ranges, as far as the command alone tells (R306). -/
def State.rangeClean (s : State) (cm : Cmd) (ctx : Nat) : Bool :=
  let count (off : Nat) : Bool := 1 ≤ fld (cm.at off 4) 12 0 && fld (cm.at off 4) 12 0 ≤ 4096
  let events := match lookup s.ctxs ctx with
    | some c => c.eventCount
    | none => 0
  match cm.type with
  | 0x01 => cm.at 0x10 8 % 64 == 0 && cm.at 0x28 8 % 2 == 0
  | 0x04 => cm.at 0x10 8 % 8 == 0 && count 0x1C
      && (bit (cm.at 0x18 4) 16 || (1 ≤ fld (cm.at 0x30 4) 28 16 && fld (cm.at 0x30 4) 28 16 ≤ 4096))
  | 0x05 => cm.at 0x10 8 % 8 == 0 && count 0x18
  | 0x06 => cm.at 0x10 8 % 8 == 0 && fld (cm.at 0x20 4) 2 0 ≤ 4 && count 0x24
      && (if fld (cm.at 0x20 4) 2 0 = 0 || fld (cm.at 0x20 4) 2 0 = 3 then cm.at 0x18 8 % 64 == 0 else cm.at 0x18 8 == 0)
  | 0x08 => cm.at 0x10 2 < events
  | 0x09 => cm.at 0x10 2 < events
  | 0x0A => 20 ≤ cm.at 0x14 4 && cm.at 0x14 4 ≤ 10000 && 1 ≤ cm.at 0x18 4 && cm.at 0x18 4 ≤ 60000000
  | 0x0B => !bit (cm.at 0x10 4) 0 || (match lookup s.ctxs ctx with
      | some c => c.admin
      | none => false)
  | _ => true

/-- The first failing status of checks 1 to 4. -/
def State.checks14 (s : State) (cm : Cmd) (qu : Queue) : Option Nat :=
  let w0 := cm.at 0 4
  if fld w0 15 8 ≠ qu.major ∨ qu.minor < fld w0 7 0 then some stVersion
  else if cm.type = 0 ∨ 0x0B < cm.type then some stMalformed
  else if !cm.reservedClean then some stVersion
  else if !s.rangeClean cm qu.ctx then some stMalformed
  else none

/-! ## Resources (R11, R12, R157, R227, R312, R344) -/

/-- What a waiting command may wait for. -/
inductive Res where
  | seq (id : Nat)
  | places
  | counter (ctx va : Nat)
  | cores
  | coil (id : Nat)
  | quench
deriving DecidableEq, Repr

/-- Sequences in flight (R11). -/
def State.inFlight (s : State) : Nat := s.seqs.countP (fun e => e.2.inFlight)

/-- The target list of a KERNEL command; empty where it cannot be read. -/
def State.targetList (s : State) (ctx : Nat) (cm : Cmd) : List Nat :=
  let n := cm.at 0x30 2
  if n = 0 || 256 < n then [] else
  match s.readVirt none ctx (cm.at 0x28 8) (2 * n) with
  | .ok bs => (List.range n).map (fun i => leAt bs (2 * i) 2)
  | .error _ => []

/-- STATE of a counter block, read without a trace. -/
def State.blockBusy (s : State) (ctx va : Nat) : Bool :=
  match s.readVirt none ctx va 4 with
  | .ok bs => fld (leAt bs 0 4) 17 16 == 1 || fld (leAt bs 0 4) 17 16 == 2
  | .error _ => false

/-- Coil ids and sequence numbers of a ROUND's list; empty where it cannot be read. -/
def State.coilList (s : State) (ctx : Nat) (cm : Cmd) : List (Nat × Nat) :=
  let n := fld (cm.at 0x24 4) 12 0
  match s.readVirt none ctx (cm.at 0x10 8) (8 * n) with
  | .ok bs => (List.range n).map (fun i => (fld (leAt bs (8 * i) 8) 17 0, fld (leAt bs (8 * i) 8) 63 32))
  | .error _ => []

/-- Whether an entry with this SEQ is early on a coil (R227, R228); on a FREE coil it fails its check (R229, R230, R240). -/
def State.early (s : State) (coil seq : Nat) : Bool :=
  match lookup s.coils coil with
  | some x => x.roundSeq != 0xFFFFFFFF && decide (x.roundSeq + 1 < seq)
  | none => false

/-- Everything a command takes at dispatch. -/
def State.needs (s : State) (cm : Cmd) (ctx : Nat) : List Res :=
  if cm.type = tyKernel then
    -- a list that names a sequence twice is MALFORMED and takes nothing (R10)
    let ts := if dupFree (s.targetList ctx cm) then s.targetList ctx cm else []
    ts.map Res.seq ++ (if ts.isEmpty then [] else [.places]) ++ (if cm.at 0x20 8 = 0 then [] else [.counter ctx (cm.at 0x20 8)])
      ++ [.cores]
  else if cm.type = tyRound then (s.coilList ctx cm).map (fun e => Res.coil e.1)
  else if cm.type = tySnapshot then [.quench]
  else []

/-- Regions in a role that a class may use. -/
def State.roleRegions (s : State) (cls : Nat) : List RegionId :=
  (List.finRange 12).filter (fun g => roleAllows s.regions[g].roleNow cls)

/-- Whether an eligible core is there for a KERNEL's first instance; a command whose header fails its validation, whose units no core
has, or that no region of the device could take, waits for none (R19, R39, R130). -/
def State.coreThere (s : State) (cm : Cmd) (qu : Queue) : Bool :=
  match s.kernelHeader qu.ctx qu.major qu.minor (cm.at 0x10 8) with
  | .ok (.ok h) =>
    !s.unitsFit h || (List.finRange 96).any (s.coreTakes qu.ctx qu.role h cm.bannedRegions)
      || (s.roleRegions qu.role).all (fun g => s.regionState g == .fenced)
  | _ => true

/-- Whether a KERNEL waits for a core: undispatched though its order lets it go, or dispatched with no instance placed. -/
def State.waitsForCore (s : State) (cm : Cmd) : Bool :=
  cm.type == tyKernel && !cm.held
    && ((cm.phase == .waiting && s.orderOk cm)
        || (cm.phase == .dispatched && cm.trap.isNone && cm.ending.isNone && cm.insts.all (fun i => i.placed.isNone && !i.ended)))

/-- Whether a command has dispatched and not ended. -/
def Phase.busy (p : Phase) : Bool := p == .dispatched || p == .ready

/-- Whether a resource is wanting now. -/
def State.missing (s : State) (cm : Cmd) (qu : Queue) (quenching : Bool) (r : Res) : Bool :=
  match r with
  | .seq id => match lookup s.seqs id with
    | some q => q.inFlight
    | none => false
  | .places => decide (256 < s.inFlight + (s.targetList qu.ctx cm).length)
  | .counter ctx va => s.blockBusy ctx va
  | .cores => !s.coreThere cm qu
  | .coil id => (match lookup s.coils id with
      | some x => x.holder.isSome
      | none => false)
    || s.cmds.any (fun x => x.phase.busy && x.rounds.any (fun r => r.coil == id))
    || (s.coilList qu.ctx cm).any (fun e => e.1 == id && s.early id e.2)
  | .quench => quenching

/-! ## Dispatch (R308, R312) -/

/-- A command granted: its wait counted once (R321). -/
def State.grant (s : State) (cm : Cmd) (ctx : Nat) : State :=
  let s := if cm.counted then s
    else { s with acctWait := bump s.acctWait ctx (BitVec.ofNat 64 (s.timeNs - cm.acceptedAt)) }
  s.updCmd cm.q cm.n (fun x => { x with phase := .granted, counted := true })

/-- Whether a command may be looked at: waiting, not held, its context neither paused nor quenched. -/
def State.dispatchable (s : State) (stopped : Nat → Bool) (cm : Cmd) : Bool :=
  cm.phase == .waiting && !cm.held
    && (match lookup s.queues cm.q with
        | some qu => qu.state == .active && !stopped qu.ctx && (match lookup s.ctxs qu.ctx with
            | some c => !c.paused
            | none => false)
        | none => false)

/-- Waiting commands in the order of R312: those that fail complete, the first whose resources are there is granted. -/
def dispatchGo (stopped : Nat → Bool) (quenching : Bool) : List Cmd → List Res → State → State
  | [], _, s => s
  | cm :: rest, blocked, s =>
    if !s.dispatchable stopped cm || !s.orderOk cm then dispatchGo stopped quenching rest blocked s else
    match lookup s.queues cm.q with
    | none => dispatchGo stopped quenching rest blocked s
    | some qu =>
      if !s.ifOkHolds cm then dispatchGo stopped quenching rest blocked (s.endCmd cm.q cm.n stCancelled false) else
      match s.checks14 cm qu with
      | some st => dispatchGo stopped quenching rest blocked (s.endCmd cm.q cm.n st false)
      | none =>
        let needs := s.needs cm qu.ctx
        let want := needs.filter (s.missing cm qu quenching)
        if !want.isEmpty then dispatchGo stopped quenching rest (if cm.capped then want ++ blocked else blocked) s
        else if needs.any (fun r => blocked.contains r) then dispatchGo stopped quenching rest blocked s
        else s.grant cm qu.ctx

/-- One pass of dispatch; a command granted and not yet taken up by its own row leaves the rest waiting. -/
def State.dispatch (s : State) (stopped : Nat → Bool) (quenching : Bool) : State :=
  if s.cmds.any (fun c => c.phase == .granted) then s
  else dispatchGo stopped quenching (sortCmds (s.cmds.filter (fun c => c.phase == .waiting))) [] s

/-! ## Ageing (R312) -/

def execDispatchAgeing (q n : Nat) (s : State) : Host.Outcome State Fault Refusal :=
  .next (match s.cmd? q n with
    | none => s
    | some cm =>
      if cm.phase = .waiting && !cm.held && s.orderOk cm then
        s.updCmd q n (fun c => if c.prio < 7 then { c with prio := c.prio + 1 } else { c with capped := true })
      else s)

/-! ## Held writes (R462) -/

/-- A held write tried again; a record's or the status block's keeps its place until it lands. -/
def State.retryWrite (s : State) (q : Nat) (w : HeldWrite) : State :=
  match lookup s.queues q with
  | none => s
  | some qu => match w with
    | .accepted bytes => s.acceptBytes q qu bytes
    | .record _ => s.postRecord q qu
    | .status =>
      match s.writeVirt none qu.ctx qu.statusBlock qu.statusBytes with
      | .error e => s.holdWrite q .status e qu.statusBlock
      | .ok s => s.updQueue q (fun x => { x with held := x.held.filter (fun y => y.1 != .status) })

/-- Every held write of a queue tried again, in the order they were held. -/
def State.retryHeld (s : State) (q : Nat) : State :=
  match lookup s.queues q with
  | none => s
  | some qu => qu.held.foldl (fun s w => s.retryWrite q w.1) s

/-- The ends of a queue's commands whose writes are still owed, then its held write. -/
def execHeldWriteRetry (q : Nat) (s : State) : Host.Outcome State Fault Refusal :=
  .next (
    let s := s.settleQueue q
    (s.retryHeld q).post q)

end Sys2Proof.Machine
end

