-- ==== Sys2Proof/Machine/Events.lean ====
section
/-! DEFINITION. Dispatch, FENCE, SIGNAL, WAIT and HINT (16, R308, R309, R312; 21, R418, R419). -/

namespace Sys2Proof.Machine

/-! ## Dispatch (R308, R312, R345) -/

/-- A dispatch starts the exit from Glow and Ember; from Ash and Cold nothing dispatches before the restore (R409, R411). -/
def State.dispatchAwake (s : State) : State :=
  if 3 ≤ s.pwr.current then s else
  let t := s.dispatch s.quenched s.fls.quench.isSome
  if t.cmds = s.cmds then t else t.leaveLow

def execCommandDispatch (s : State) : Host.Outcome State Fault Refusal := .next s.dispatchAwake

/-! ## FENCE (R308) -/

/-- FENCE commits at its dispatch. -/
def execFence (q n : Nat) (s : State) : Host.Outcome State Fault Refusal :=
  .next (match s.granted? q n tyFence with
    | some _ => s.endCmd q n stDone true
    | none => s)

/-! ## Events (R309) -/

/-- The address of an event. -/
def State.eventVA (s : State) (ctx event : Nat) : Nat :=
  match lookup s.ctxs ctx with
  | some c => c.eventTable + 8 * event
  | none => 0

/-- What an event becomes. -/
def signalled (add : Bool) (old value : Nat) : Nat := if add then (old + value) % 2 ^ 64 else max old value

/-- An event's update at the atomic unit of its home region. -/
def signalAct (ctx va : Nat) (add : Bool) (value : Nat) : Act Unit := do
  let old ← getNat ctx va 8
  putNat ctx va 8 (signalled add old value)

/-- A command of a type that is granted, or dispatched and still at work. -/
def State.working? (s : State) (q n ty : Nat) : Option Cmd :=
  match s.cmd? q n with
  | some cm => if (cm.phase = .granted || cm.phase = .dispatched) && cm.type = ty && !cm.held then some cm else none
  | none => none

/-- What a failing access does to a dispatched SIGNAL or WAIT: a resetting part leaves it at work (R309, R332). -/
def State.eventErr (s : State) (q n : Nat) (e : AccErr) : State :=
  match e with
  | .resetting g => s.logAbsent (.region g)
  | .hostDown _ => s
  | e => s.cmdErr q n e

def execSignal (q n : Nat) (s : State) : Host.Outcome State Fault Refusal :=
  .next (match s.working? q n tySignal with
    | none => s
    | some cm =>
      let s := s.updCmd q n (fun x => { x with phase := .dispatched })
      let ctx := s.queueCtx q
      let va := s.eventVA ctx (cm.at 0x10 2)
      match (signalAct ctx va (bit (cm.at 0x10 4) 16) (cm.at 0x18 8)).run s with
      | .ok (_, s) => s.updCmd q n (fun x => { x with phase := .ready })
      | .error e => s.eventErr q n e)

/-- A dispatched WAIT that looks at its event: at VALUE or above it may commit. -/
def State.recheck (s : State) (q n : Nat) (cm : Cmd) : State :=
  let ctx := s.queueCtx q
  let va := s.eventVA ctx (cm.at 0x10 2)
  match (getNat ctx va 8).run s with
  | .ok (v, s) => if cm.at 0x18 8 ≤ v then s.updCmd q n (fun x => { x with phase := .ready }) else s
  | .error e => s.eventErr q n e

def execWait (q n : Nat) (s : State) : Host.Outcome State Fault Refusal :=
  .next (match s.granted? q n tyWait with
    | none => s
    | some cm =>
      (s.updCmd q n (fun x => { x with
        phase := .dispatched
        deadline := if cm.at 0x14 4 = 0 then none else some (s.timeNs + 1000 * cm.at 0x14 4) })).recheck q n cm)

/-- A WAIT that has dispatched and not ended. -/
def State.waiting? (s : State) (q n : Nat) : Option Cmd :=
  match s.cmd? q n with
  | some cm => if cm.phase = .dispatched && cm.type = tyWait && !cm.held then some cm else none
  | none => none

def execWaitRecheck (q n : Nat) (s : State) : Host.Outcome State Fault Refusal :=
  .next (match s.waiting? q n with
    | some cm => s.recheck q n cm
    | none => s)

/-- TIMEOUT_US has passed (log 29: the event says so). -/
def execWaitTimeout (q n : Nat) (s : State) : Host.Outcome State Fault Refusal :=
  .next (match s.waiting? q n with
    | some cm => if cm.deadline.isSome then s.failCmd q n stBusy else s
    | none => s)

/-! ## HINT (R308, R418, R419) -/

/-- A hint recorded, or dropped while 64 are pending. -/
def State.recordHint (s : State) (ctx cls : Nat) : State :=
  if s.pwr.hints.length < 64 then
    let p := s.pwr
    { s with
      pwr := { p with hints := p.hints ++ [{ id := s.nextReq, ctx := ctx, cls := cls, started := false }] }
      nextReq := s.nextReq + 1 }
  else
    let p := s.pwr
    let s : State := { s with pwr := { p with hintMiss := p.hintMiss + 1 } }
    s.logEv { source := 13, cause := 8, ctx := some ctx }

def execHint (q n : Nat) (s : State) : Host.Outcome State Fault Refusal :=
  .next (match s.granted? q n tyHint with
    | some cm => (s.recordHint (s.queueCtx q) (cm.at 0x10 4)).updCmd q n (fun x => { x with phase := .ready })
    | none => s)

end Sys2Proof.Machine
end

