-- ==== Sys2Proof/Machine/Samples.lean ====
section
/-! DEFINITION. The sample engine (14, R253 to R269). -/

namespace Sys2Proof.Machine

/-! ## The registers of a queue -/

def State.updSmp (s : State) (q : SampleQ) (f : SmpQueue → SmpQueue) : State := { s with smp := s.smp.set q (f s.smp[q]) }

def smpIdle : Nat := 0
def smpRunning : Nat := 1
def smpError : Nat := 3

/-- A queue ended: samples in decode and an open row are discarded; the position is the first not handed off (R269). -/
def SmpQueue.halt (x : SmpQueue) (st err : Nat) : SmpQueue :=
  { x with state := st, error := err, pos := if x.row.isEmpty then x.pos else x.rowFirst, row := [], work := [] }

/-- A queue that stops in ERROR. -/
def SmpQueue.fail (x : SmpQueue) (err : Nat) : SmpQueue := x.halt smpError err

/-! ## The descriptor (R255, R256) -/

/-- A field that takes a value when written as 0. -/
def orDefault (v d : Nat) : Nat := if v = 0 then d else v

def smpDescOf (bs : List Byte) : SmpDesc :=
  let w (o : Nat) : Nat := leAt bs o 4
  { live := bit (w 0) 16, pack := bit (w 0) 17, resume := bit (w 0) 18, aug := fld (w 0) 25 19, outFmt := fld (w 0) 30 26,
    ctx := fld (w 4) 11 0, tries := orDefault (fld (w 4) 15 12) 8, event := fld (w 4) 31 16,
    seed := BitVec.ofNat 64 (leAt bs 8 8), tableBase := leAt bs 0x10 8, samples := leAt bs 0x18 8, outBase := leAt bs 0x20 8,
    outSlots := w 0x28, slotBytes := w 0x2C, budgetMib := orDefault (fld (w 0x30) 11 0) 256,
    k := orDefault (fld (w 0x30) 25 16) 32, floor := w 0x34, initMean := w 0x38, maxAgeUs := orDefault (w 0x3C) 50000,
    histBase := leAt bs 0x40 8, consAddr := leAt bs 0x48 8, stageBase := leAt bs 0x50 8, stageSlots := fld (w 0x58) 9 0,
    rowTokens := fld (w 0x5C) 16 0, tokenBytes := w 0x60, cropH := fld (w 0x64) 15 0, cropW := fld (w 0x64) 31 16,
    gainRange := BitVec.ofNat 32 (w 0x68), noiseSigma := BitVec.ofNat 32 (w 0x6C), startEpoch := fld (w 0x70) 19 0,
    jitterMax := fld (w 0x70) 31 20, startIndex := w 0x74 + fld (w 0x78) 7 0 * 2 ^ 32, epochs := fld (w 0x78) 27 8 }

/-- Reserved fields zero and the ABI right. -/
def smpDescClean (bs : List Byte) : Bool :=
  let w (o : Nat) : Nat := leAt bs o 4
  fld (w 0) 15 0 == 0x0100 && !bit (w 0) 31
    && [0x10, 0x20, 0x40, 0x48, 0x50].all (fun o => fld (leAt bs o 8) 63 48 == 0)
    && fld (w 0x30) 15 12 == 0 && fld (w 0x30) 31 26 == 0 && fld (w 0x58) 31 10 == 0 && fld (w 0x5C) 31 17 == 0
    && fld (w 0x78) 31 28 == 0 && w 0x7C == 0

/-- The least SLOT_BYTES. -/
def SmpDesc.minSlot (d : SmpDesc) : Nat :=
  if d.pack then 64 + 131072 + 64 * ceilDiv d.rowTokens 32 + 64 * ceilDiv d.rowTokens 512 + d.rowTokens * d.tokenBytes
  else d.budgetMib * 1048576 + 64

/-- Ranges of R255 and R256. -/
def State.smpDescOk (s : State) (d : SmpDesc) : Bool :=
  d.aug < 64 && (d.outFmt == 0x1F || d.outFmt == fFP32 || d.outFmt == fBF16 || d.outFmt == fFP16 || d.outFmt == fINT32
      || d.outFmt == fU16)
    && (match lookup s.ctxs d.ctx with
        | some c => d.event < c.eventCount
        | none => false)
    && d.tries ≤ 8 && 1 ≤ d.samples && d.samples ≤ (if d.live then 16777216 else 2 ^ 40)
    && d.outBase % 64 == 0 && 2 ≤ d.outSlots && d.outSlots ≤ 65536 && d.slotBytes % 64 == 0
    && 2 ≤ d.k && d.k ≤ 1000 && (!d.live || d.maxAgeUs ≤ 10000000)
    && (if d.pack then 1 ≤ d.stageSlots && d.stageSlots ≤ 512 && 1 ≤ d.rowTokens && d.rowTokens ≤ 65536
          && 2 ≤ d.tokenBytes && d.tokenBytes ≤ 65536 && d.tokenBytes % 2 == 0
        else d.stageBase == 0)
    && (!d.does 0 || (1 ≤ d.cropH && 1 ≤ d.cropW))
    && (dec32 d.gainRange.toNat).isFin && !(dec32 d.gainRange.toNat).lt .zero && !(Num.ofNat 1).lt (dec32 d.gainRange.toNat)
    && (dec32 d.noiseSigma.toNat).isFin && !(dec32 d.noiseSigma.toNat).lt .zero
    && d.startIndex < d.samples && !(d.pack && d.live) && d.minSlot ≤ d.slotBytes
    && !(d.does 0 && d.does 2 && d.cropH != d.cropW)

/-- g_start (R262). -/
def SmpDesc.start (d : SmpDesc) : Nat := d.startEpoch * d.samples + d.startIndex

/-- A queue that runs from its start. -/
def SmpQueue.run (x : SmpQueue) (d : SmpDesc) : SmpQueue :=
  { x with state := smpRunning, desc := some d, pos := d.start, start := d.start, hands := 0, rowFirst := d.start, row := [],
           work := [], tail := 0, tailBase := 0 }

/-- START (R256): ignored unless IDLE or ERROR, and before READY (R403). -/
def State.smpStart (s : State) (q : SampleQ) : State :=
  let x := s.smp[q]
  if x.state != smpIdle && x.state != smpError then s
  else if !(s.stackedOk x.descAddr && s.stackedOk (x.descAddr + 127)) then s.updSmp q (·.fail stMalformed)
  else match s.readLoc (.stacked x.descAddr) 128 with
    | .error (.status _ nt) => (s.noteErr nt).updSmp q (·.fail stData)
    | .error _ => s
    | .ok bs =>
      let s := s.noteRead (.stacked x.descAddr) 128
      if !smpDescClean bs then s.updSmp q (·.fail stVersion)
      else if !s.smpDescOk (smpDescOf bs) then s.updSmp q (·.fail stMalformed)
      else s.updSmp q (·.run (smpDescOf bs))

def execSampleQueueStart (q : SampleQ) (s : State) : Host.Outcome State Fault Refusal :=
  .next (let s := s.awake; if s.isReady then s.smpStart q else s)

/-- STOP: each hand-off is one step, so its boundary is now (R269). -/
def execSampleQueueStop (q : SampleQ) (s : State) : Host.Outcome State Fault Refusal :=
  .next (let s := s.awake; if s.isReady && s.smp[q].state == smpRunning then s.updSmp q (fun x => x.halt smpIdle x.error) else s)

def execSampleCountersClear (q : SampleQ) (s : State) : Host.Outcome State Fault Refusal :=
  .next (let s := s.awake; if s.isReady then s.updSmp q (fun x => { x with fails := Vector.replicate 8 0, out := 0, drop := 0, sat := 0 }) else s)

def execSampleTailWrite (q : SampleQ) (tail : W32) (s : State) : Host.Outcome State Fault Refusal :=
  .next (let s := s.awake; if s.isReady then s.updSmp q (fun x => { x with tail := tail }) else s)

/-! ## Entries (R254, R255, R257) -/

structure SmpEntry where
  src : Nat
  codec : Nat
  bytes : Nat
  width : Nat
  height : Nat
  channels : Nat
  fmt : Nat
  unsigned : Bool
  pix4 : Bool
  block16 : Bool
  frames : Nat
  capture : Nat
  clean : Bool
deriving DecidableEq, Repr

def smpEntryOf (live : Bool) (bs : List Byte) : SmpEntry :=
  let a := leAt bs 0 8
  let p := leAt bs 0x10 4
  let codec := fld a 51 48
  let ef := fld p 6 2
  let hw := leAt bs 0xC 4
  { src := fld a 47 0, codec := codec, bytes := leAt bs 8 4, width := fld hw 15 0, height := fld hw 31 16,
    channels := fld p 1 0 + 1, unsigned := bit p 7, pix4 := bit p 8, block16 := bit p 9, frames := fld p 27 16, capture := leAt bs 0x18 8,
    fmt := if codec = 0 then (if bit p 7 && !bit p 8 then fU16 else fINT32) else if codec = 1 then ef else fU16
    clean := fld a 63 52 == 0 && codec ≤ 3 && 1 ≤ leAt bs 8 4 && fld p 31 28 == 0 && leAt bs 0x14 4 == 0
      && (codec ≤ 1 || hw == 0) && (codec == 1 || (fld p 1 0 == 0 && ef == 0))
      && (codec != 1 || [fFP32, fBF16, fFP16, fINT32, fINT8, fU16].contains ef)
      && (codec == 0 || fld p 9 7 == 0) && (if codec = 3 then 1 ≤ fld p 27 16 else fld p 27 16 == 0)
      && (live || leAt bs 0x18 8 == 0) }

/-- Decoded bytes of a claimed geometry (R257). -/
def SmpEntry.decodedBytes (e : SmpEntry) (w h ch : Nat) : Nat :=
  if e.codec = 3 then e.frames * frameElems w h * 2 else w * h * ch * (fmtBits e.fmt / 8)

/-- The geometry that R257 admits. -/
def SmpEntry.admits (e : SmpEntry) (d : SmpDesc) (w h ch : Nat) : Bool :=
  1 ≤ w && w ≤ 65535 && 1 ≤ h && h ≤ 65535 && ch ≤ 4 && e.decodedBytes w h ch ≤ d.budgetMib * 1048576

def reasonEntry : Nat := 1
def reasonHeader : Nat := 2
def reasonStale : Nat := 8

/-- Whether a lane decodes a codec: lanes 0 to 7 images, 8 and 9 HEVC (R253). -/
def laneFits (codec lane : Nat) : Bool := if codec = 3 then 8 ≤ lane else lane < 8

/-- Lanes at work. -/
def State.busyLanes (s : State) : List Nat := s.smp.toList.flatMap (fun x => x.work.filterMap SmpWork.lane)

/-- A free lane for a codec. -/
def State.freeLane (s : State) (codec : Nat) : Option Nat :=
  findBelow (fun l => laneFits codec l && !s.lanesFenced.contains l && !s.busyLanes.contains l) 10

/-! ## Positions -/

/-- Epoch of a position, 0 in live mode. -/
def SmpDesc.epochOf (d : SmpDesc) (g : Nat) : Nat := if d.live then 0 else g / d.samples

/-- The sample of try t at position g (R264). -/
def SmpDesc.sampleOf (d : SmpDesc) (g t : Nat) : Nat :=
  if d.live then g else
  let p := g % d.samples
  d.perm (if t = 0 then p else (p + d.samples / 2 + t - 1) % d.samples) (g / d.samples)

/-- The table index of a sample. -/
def SmpDesc.tableIndex (d : SmpDesc) (i : Nat) : Nat := if d.live then i % d.samples else i

/-- The position after the last of EPOCHS (R262). -/
def SmpDesc.last (d : SmpDesc) : Option Nat :=
  if d.live || d.epochs = 0 then none else some ((d.startEpoch + d.epochs) * d.samples)

/-- Whether position g has come into being: below the end, in live mode written to the ring. -/
def SmpQueue.exists? (x : SmpQueue) (d : SmpDesc) (g : Nat) : Bool :=
  (match d.last with
   | some e => g < e
   | none => true)
  && (!d.live || (let w := ((x.tail - x.tailBase).toNat + 2 ^ 32 - (g - x.start) % 2 ^ 32) % 2 ^ 32
      1 ≤ w && w ≤ d.samples))

/-- Slots that the consumer has left free. -/
def SmpQueue.freeSlots (x : SmpQueue) (d : SmpDesc) (cons : Nat) : Nat := min d.outSlots (d.outSlots + cons - x.hands)

/-- The next position to enter decode. -/
def SmpQueue.nextPos (x : SmpQueue) : Nat := x.pos + x.work.length

/-- The first position that is not handed off: with an open row, the row's first (R269). -/
def SmpQueue.handed (x : SmpQueue) : Nat := if x.row.isEmpty then x.pos else x.rowFirst

/-- Whether a further position may enter decode (R260, R263). -/
def SmpQueue.mayEnter (x : SmpQueue) (d : SmpDesc) (cons : Nat) : Bool :=
  x.exists? d x.nextPos && decide (x.nextPos < x.handed + 512) && !x.work.any (fun w => w.stop.isSome)
    && x.work.length < (if d.pack then d.stageSlots else x.freeSlots d cons)

/-- A work item changed. -/
def SmpQueue.updWork (x : SmpQueue) (pos : Nat) (f : SmpWork → SmpWork) : SmpQueue :=
  { x with work := x.work.map (fun w => if w.pos = pos then f w else w) }

/-- The slot of a dropped live frame (R268). -/
def droppedAt (g reason capture : Nat) : SmpDone :=
  { try_ := 0, reason := reason, dropped := true, sample := g, original := g, fmt := 0, width := 0, height := 0, frames := 0,
    channels := 1, rot := 0, flipH := false, flipV := false, cropY := 0, cropX := 0, jitter := 0, units := 0,
    captureNs := capture, payload := [] }

/-- A failure counted (R264). -/
def SmpQueue.countFail (x : SmpQueue) (reason : Nat) : SmpQueue :=
  let i := (reason - 1) % 8
  have h : i < 8 := Nat.mod_lt _ (by decide)
  { x with fails := x.fails.set i (x.fails[i] + 1) h }

/-- A try that failed: counted; the frame dropped in live mode, else the next try, or the end of the queue (R264, R268). -/
def SmpQueue.failTry (x : SmpQueue) (d : SmpDesc) (pos reason capture : Nat) : SmpQueue :=
  (x.countFail reason).updWork pos (fun w =>
    if d.live then { w with lane := none, done := some (droppedAt pos reason capture) }
    else
      let first := if w.first = 0 then reason else w.first
      if w.try_ < d.tries then { w with lane := none, entry := [], try_ := w.try_ + 1, first := first }
      else { w with lane := none, first := first, stop := some stInput })

/-- Whether a live frame has grown stale (R268). -/
def stale (d : SmpDesc) (now capture : Nat) : Bool := d.live && d.maxAgeUs * 1000 < now - capture

/-- An error of the queue's own accesses: a status ends the queue there, anything else makes it wait (R265; log 34). -/
def State.smpAccErr (s : State) (q : SampleQ) (pos : Nat) (e : AccErr) : State :=
  match e with
  | .status st nt => (s.noteErr nt).updSmp q (fun x => x.updWork pos (fun w => { w with lane := none, stop := some st }))
  | _ => s

/-! ## Decode (R253, R260, R263) -/

/-- The table entry of a work item's try: as it was read when the decoding began, else read now. -/
def State.smpEntry (s : State) (d : SmpDesc) (w : SmpWork) : Except AccErr (List Byte) :=
  if w.entry.isEmpty then s.readVirt none d.ctx (d.tableBase + 32 * d.tableIndex (d.sampleOf w.pos w.try_)) 32 else .ok w.entry

/-- What the entry alone says of a try: why it fails, if it does (R254, R257, R268); a source address that has no translation fails it, and
one whose tables cannot be read stops or delays the queue (R264, R265). -/
def State.entryFails (s : State) (d : SmpDesc) (e : SmpEntry) : Except AccErr (Option Nat) :=
  if stale d s.timeNs e.capture then .ok (some reasonStale)
  else if !e.clean then .ok (some reasonEntry)
  else match s.xlateRange none d.ctx e.src e.bytes false with
    | .ok _ => .ok (if e.codec ≤ 1 && !e.admits d e.width e.height e.channels then some reasonHeader else none)
    | .error (.status 0x21 _) => .ok (some reasonEntry)
    | .error er => .error er

/-- The lowest staging slot that no position uses (R267). -/
def SmpQueue.freeStage (x : SmpQueue) (d : SmpDesc) : Option Nat :=
  if d.pack then findBelow (fun i => !x.work.any (fun w => w.stage == some i)) d.stageSlots else none

/-- Tries begun at a position until one needs a lane: fuel. -/
def State.beginTry (q : SampleQ) (d : SmpDesc) (pos : Nat) : Nat → State → State
  | 0, s => s
  | f + 1, s =>
    match s.smp[q].work.find? (fun w => w.pos == pos) with
    | none => s
    | some w =>
      if w.done.isSome || w.stop.isSome || w.lane.isSome then s else
      match s.smpEntry d w with
      | .error (.status 0x21 nt) => State.beginTry q d pos f ((s.noteErr nt).updSmp q (fun x => x.failTry d pos reasonEntry 0))
      | .error e => s.smpAccErr q pos e
      | .ok bs =>
        let e := smpEntryOf d.live bs
        match s.entryFails d e with
        | .error er => s.smpAccErr q pos er
        | .ok (some r) => State.beginTry q d pos f (s.updSmp q (fun x => x.failTry d pos r e.capture))
        | .ok none => match s.freeLane e.codec with
          | some l => s.updSmp q (fun x => x.updWork pos (fun w => { w with
              lane := some l
              entry := bs
              stage := if w.stage.isSome then w.stage else x.freeStage d }))
          | none => s

/-- CONS as the consumer last wrote it. -/
def State.smpCons (s : State) (d : SmpDesc) : Except AccErr Nat := (s.readVirt none d.ctx d.consAddr 8).map leNat

/-- A position that has entered decode. -/
def SmpDesc.enter (d : SmpDesc) (g : Nat) : SmpWork :=
  { pos := g, try_ := 0, first := 0, lane := none, done := none, entry := [], stage := none
    stop := if 1048576 ≤ d.epochOf g then some stLimit else none }

/-- The position that a grant takes up: the lowest that waits for a lane, else the next one that may enter. -/
def State.smpGrant (s : State) (q : SampleQ) (d : SmpDesc) : State :=
  let x := s.smp[q]
  match x.work.find? (fun w => w.lane.isNone && w.done.isNone && w.stop.isNone) with
  | some w => State.beginTry q d w.pos 10 s
  | none =>
    match s.smpCons d with
    | .error (.status st nt) => (s.noteErr nt).updSmp q (·.fail st)
    | .error _ => s
    | .ok cons =>
      if !x.mayEnter d cons then s else
      State.beginTry q d x.nextPos 10 (s.updSmp q (fun x => { x with work := x.work ++ [d.enter x.nextPos] }))

/-- A RUNNING queue's descriptor, unless a quench stops its context (R345). -/
def State.smpRuns (s : State) (q : SampleQ) : Option SmpDesc :=
  if s.smp[q].state == smpRunning then
    match s.smp[q].desc with
    | some d => if s.quenched d.ctx then none else some d
    | none => none
  else none

/-- Whether a try can be begun now: a lane is free for it, or it fails or stops without one. -/
def State.tryReady (s : State) (d : SmpDesc) (w : SmpWork) : Bool :=
  match s.smpEntry d w with
  | .error _ => true
  | .ok bs =>
    let e := smpEntryOf d.live bs
    match s.entryFails d e with
    | .ok none => (s.freeLane e.codec).isSome
    | _ => true

/-- Whether a queue has decode work ready (R253). -/
def State.smpReady (s : State) (q : SampleQ) : Bool :=
  match s.smpRuns q with
  | none => false
  | some d =>
    let x := s.smp[q]
    match x.work.find? (fun w => w.lane.isNone && w.done.isNone && w.stop.isNone) with
    | some w => s.tryReady d w
    | none => match s.smpCons d with
      | .error _ => true
      | .ok cons => x.mayEnter d cons && ((d.enter x.nextPos).stop.isSome || s.tryReady d (d.enter x.nextPos))

/-- Whether the round-robin has come to a queue: none of those after the last one granted and before it has decode work ready (R253). -/
def State.smpTurnOf (s : State) (q : SampleQ) : Bool :=
  (List.range ((q.val + 63 - s.smpTurn) % 64)).all (fun i =>
    !s.smpReady ⟨(s.smpTurn + 1 + i) % 64, Nat.mod_lt _ (by decide)⟩)

def execSampleDecodeStart (q : SampleQ) (s : State) : Host.Outcome State Fault Refusal :=
  .next (match s.smpRuns q with
    | some d => if s.smpReady q && s.smpTurnOf q then { s with smpTurn := q.val }.smpGrant q d else s
    | none => s)

/-- budget(g) of R260. -/
def State.smpBudget (s : State) (x : SmpQueue) (d : SmpDesc) (g : Nat) : Except AccErr Nat := do
  let xs := ((List.range 512).map (fun i => (g + i : Int) - 1024)).filter (fun p => 0 ≤ p && ((x.start : Int) ≤ p || d.resume))
  let hs ← xs.mapM (fun p => (s.readVirt none d.ctx (d.histBase + 4 * (p.toNat % 1024)) 4).map leNat)
  return max d.floor (if hs.isEmpty then d.k * d.initMean else d.k * hs.sum / hs.length)

/-! ## Work units and sources (R258, R259, R265) -/

/-- The work units of a decode: elements or bytes put out, source bytes read, and what the standard counts besides. -/
def SmpEntry.units (e : SmpEntry) (outBytes luma read blocks marks : Nat) : Nat :=
  let n := match e.codec with
    | 0 => outBytes / (fmtBits e.fmt / 8)
    | 1 => ceilDiv outBytes 2 + 256 * marks
    | 2 => 64 * blocks + 256 * marks
    | _ => ceilDiv luma 16 + 1024 * marks
  min (n + ceilDiv read 16) 0xFFFFFFFF

/-- The source bytes up to the first that cannot be read: fuel, address, how many; and why not. -/
def State.sourceGo (s : State) (ctx : Nat) : Nat → Nat → Nat → List Byte × Option AccErr
  | 0, _, _ => ([], none)
  | f + 1, va, len =>
    if len = 0 then ([], none) else
    let n := min len (32 - va % 32)
    match s.readVirt none ctx va n with
    | .error e => ([], some e)
    | .ok bs =>
      let r := s.sourceGo ctx f (va + n) (len - n)
      (bs ++ r.1, r.2)

def State.source (s : State) (d : SmpDesc) (e : SmpEntry) : List Byte × Option AccErr :=
  s.sourceGo d.ctx (e.bytes / 32 + 2) e.src e.bytes

/-- How a decode of a stream came out: elements and geometry, or a reason; with the bytes read and the units charged. -/
structure StreamOut where
  res : Except Nat (List Nat × Nat × Nat × Nat × Nat)
  read : Nat
  units : Nat

/-- The reason that a decoder's end gives. -/
def CodecEnd.reason : CodecEnd → Nat
  | .corrupt => 4
  | _ => 3

/-- A Rice or DEFLATE stream decoded; none: the decoder asks for bytes beyond those given. -/
def SmpEntry.decodeOwn (e : SmpEntry) (src : List Byte) : Option StreamOut :=
  let px := e.width * e.height
  let size := fmtBits e.fmt / 8
  let total := px * e.channels * size
  let a := if e.codec = 0 then riceDecode (if e.pix4 then 32 else 16) (if e.block16 then 16 else 32) px src else inflate total src
  let read := min (a.read src.length) e.bytes
  let outBytes := if e.codec = 0 then a.out.length * size else a.out.length
  let vals := a.out.reverse
  let elems := if e.codec = 0 then
      vals.map (fun v =>
        if e.pix4 then v % 2 ^ 32
        else if e.unsigned then (v + 32768) % 2 ^ 16
        else (if v < 2 ^ 15 then v else v + 2 ^ 32 - 2 ^ 16))
    else (List.range (px * e.channels)).map (fun i => ((List.range size).map (fun j => vals.getD (size * i + j) 0 * 2 ^ (8 * j))).sum)
  if a.how = .truncated && src.length < e.bytes then none
  else some {
    res := if a.how = .full then .ok (elems, e.width, e.height, e.channels, 0) else .error a.how.reason
    read := if a.how = .truncated then src.length else read
    units := e.units outBytes 0 read 0 a.dyn }

/-- What the operand says of a JPEG or HEVC stream; none where it does not fit the entry. -/
def SmpEntry.decodeOther (e : SmpEntry) (d : SmpDesc) (out : DecodeOut) : Option StreamOut :=
  match out with
  | .payload elems w h ch fr read blocks marks =>
    let luma := fr * (w * h)
    let n := if e.codec = 3 then e.frames * frameElems w h else w * h * ch
    if elems.length ≠ n || e.bytes < read || (e.codec = 3 && fr ≠ e.frames) then none
    else some {
      res := if e.admits d w h ch then .ok (elems.map (·.toNat), w, h, ch, fr) else .error reasonHeader
      read := read
      units := e.units 0 luma read blocks marks }
  | .truncated => some { res := .error 3, read := e.bytes, units := 0 }
  | .corrupt read => if e.bytes < read then none else some { res := .error 4, read := read, units := 0 }
  | .unsupported read => if e.bytes < read then none else some { res := .error reasonEntry, read := read, units := 0 }
  | .header w h ch read =>
    if e.admits d w h ch || e.bytes < read then none else some { res := .error reasonHeader, read := read, units := 0 }

/-- Whether a PACK payload is whole tokens that fit a row (R264, SHAPE). -/
def SmpDesc.packs (d : SmpDesc) (n : Nat) : Bool :=
  !d.pack || (1 ≤ n && n % d.tokenBytes == 0 && n / d.tokenBytes ≤ d.rowTokens)

/-- A decoded payload taken through augmentation and packing: the finished sample and its saturations. -/
def SmpDesc.finish (d : SmpDesc) (w : SmpWork) (e : SmpEntry) (units : Nat) (elems : List Nat) (width height ch frames : Nat) :
    Except Nat (SmpDone × Nat) := do
  let i := d.sampleOf w.pos w.try_
  let out := if d.outFmt = 0x1F then e.fmt else d.outFmt
  let pic := pictureOf (e.codec == 3) width height ch frames elems
  let (a, kept, bytes, sat) ← augment d { s := i, e := d.epochOf w.pos, t := w.try_ } e.fmt out e.frames pic
  if !d.packs bytes.length then .error reasonShape
  return ({ try_ := w.try_, reason := w.first, dropped := false, sample := i, original := d.sampleOf w.pos 0, fmt := out,
            width := a.pic.width, height := a.pic.height, frames := if e.codec = 3 then kept else 0, channels := ch,
            rot := a.rot, flipH := a.flipH, flipV := a.flipV, cropY := a.cropY, cropX := a.cropX, jitter := a.jitter,
            units := units, captureNs := if d.live then e.capture else 0, payload := bytes }, sat)

/-- A finished sample's payload in its staging slot, as far as the slot goes (R257, R267; log 145). -/
def State.stageSample (s : State) (d : SmpDesc) (w : SmpWork) (z : SmpDone) : Except AccErr State :=
  match w.stage with
  | none => .ok s
  | some i =>
    let room := d.budgetMib * 1048576
    s.writeVirt none d.ctx (d.stageBase + i * room) (z.payload.take room)

/-- A decode's end with its stream's outcome: the source bytes read must be readable; units above the budget abandon the sample (R260,
R265); then success, or a failure that triggers the next try (R264). -/
def State.smpOutcome (s : State) (q : SampleQ) (d : SmpDesc) (w : SmpWork) (e : SmpEntry) (o : StreamOut) : State :=
  match s.readVirt none d.ctx e.src o.read, s.smpBudget s.smp[q] d w.pos with
  | .error er, _ => s.smpAccErr q w.pos er
  | _, .error er => s.smpAccErr q w.pos er
  | .ok _, .ok b =>
    let s := s.noteVirt none d.ctx e.src o.read
    if b < o.units then s.updSmp q (fun x => x.failTry d w.pos 5 e.capture) else
    match o.res with
    | .error r => s.updSmp q (fun x => x.failTry d w.pos r e.capture)
    | .ok (elems, wd, h, ch, fr) => match d.finish w e o.units elems wd h ch fr with
      | .error r => s.updSmp q (fun x => x.failTry d w.pos r e.capture)
      | .ok (z, sat) => match s.stageSample d w z with
        | .error er => s.smpAccErr q w.pos er
        | .ok s => s.updSmp q (fun x =>
            { x.updWork w.pos (fun w => { w with lane := none, done := some z }) with sat := x.sat + BitVec.ofNat 64 sat })

/-- A decode's end: of Rice and DEFLATE what the source gives, of the others what the operand says. -/
def State.smpEnd (s : State) (q : SampleQ) (d : SmpDesc) (w : SmpWork) (out : DecodeOut) : State :=
  let e := smpEntryOf d.live w.entry
  if e.codec ≤ 1 then
    let (src, er) := s.source d e
    match e.decodeOwn src, er with
    | some o, _ => s.smpOutcome q d w e o
    | none, some er => s.smpAccErr q w.pos er
    | none, none => s
  else match e.decodeOther d out with
    | some o => s.smpOutcome q d w e o
    | none => s

def execSampleDecodeEnd (q : SampleQ) (pos : Nat) (out : DecodeOut) (s : State) : Host.Outcome State Fault Refusal :=
  .next (match s.smpRuns q with
    | none => s
    | some d => match s.smp[q].work.find? (fun w => w.pos == pos && w.lane.isSome) with
      | some w => s.smpEnd q d w out
      | none => s)

/-- A lane that fails: logged, fenced, its sample decoded again elsewhere (R260; log 35). -/
def execDecodeLaneFault (lane : Nat) (s : State) : Host.Outcome State Fault Refusal :=
  .next (if lane < 10 && !s.lanesFenced.contains lane then
      let s := s.logEv { source := 8, cause := 1, unit := 0xFFFF, address := lane }
      { s with
        lanesFenced := lane :: s.lanesFenced
        smp := s.smp.map (fun x => { x with work := x.work.map (fun w => if w.lane = some lane then { w with lane := none } else w) }) }
    else s)

/-! ## Hand-off (R263, R267, R268) -/

/-- A slot header. -/
def slotHeader (kind pos : Nat) (z : SmpDone) (bytes : Nat) : List Byte :=
  leBytes 4 (0x0100 + kind * 2 ^ 16 + z.try_ * 2 ^ 18 + z.fmt * 2 ^ 22) ++ leBytes 4 z.reason ++ leBytes 8 pos
    ++ leBytes 8 z.sample ++ leBytes 8 z.original ++ leBytes 4 (z.width + z.height * 2 ^ 16)
    ++ leBytes 4 (z.frames + (z.channels - 1) * 2 ^ 12 + z.rot * 2 ^ 14 + bitN z.flipH * 2 ^ 16 + bitN z.flipV * 2 ^ 17)
    ++ leBytes 4 bytes ++ leBytes 4 z.units ++ leBytes 8 z.captureNs ++ leBytes 4 (z.cropY + z.cropX * 2 ^ 16)
    ++ leBytes 4 z.jitter

/-- A row slot's header: its fields without a meaning for a row are zero, FMT as the descriptor has OUT_FMT (log 33). -/
def rowHeader (outFmt first segs bytes : Nat) : List Byte :=
  slotHeader 1 first { droppedAt 0 0 0 with fmt := outFmt, width := segs } bytes

/-- A segment table entry. -/
def segEntry (g : RowSeg) : List Byte :=
  leBytes 8 g.pos ++ leBytes 8 g.sample ++ leBytes 4 g.start ++ leBytes 4 g.length ++ leBytes 4 (g.try_ + g.reason * 2 ^ 4) ++ zeros 4

/-- Tokens an open row has used. -/
def rowUsed (row : List RowSeg) : Nat := (row.map RowSeg.length).sum

/-- A row's payload: segment table, ids, reset bitmap, tokens. -/
def rowPayload (d : SmpDesc) (row : List RowSeg) : List Byte :=
  let pad (n : Nat) (l : List Byte) : List Byte := l ++ zeros (n - l.length)
  let ids := ((List.range row.length).zip row).flatMap (fun e => (List.replicate e.2.length (leBytes 2 (e.1 + 1))).flatten)
  let resets := (List.range (ceilDiv d.rowTokens 8)).map (fun b =>
    BitVec.ofNat 8 ((row.map (fun g => if g.start / 8 = b then 2 ^ (g.start % 8) else 0)).sum))
  pad 131072 (row.flatMap segEntry) ++ pad (64 * ceilDiv d.rowTokens 32) ids ++ pad (64 * ceilDiv d.rowTokens 512) resets
    ++ pad (d.rowTokens * d.tokenBytes) (row.flatMap RowSeg.payload)

/-- Whether the consumer leaves room for hand-off i. -/
def SmpDesc.room (d : SmpDesc) (i : Nat) : Act Bool := do
  let c ← getNat d.ctx d.consAddr 8
  return decide (i < d.outSlots + c)

/-- One slot written: the payload as far as the slot goes, then the header, then EVENT (R257; log 145). -/
def handSlot (d : SmpDesc) (i : Nat) (header payload : List Byte) : Act Unit := do
  let a := d.outBase + d.slotBytes * (i % d.outSlots)
  putVirt d.ctx (a + 0x40) (payload.take (d.slotBytes - 0x40))
  putVirt d.ctx a header
  let s ← get
  signalAct d.ctx (s.eventVA d.ctx d.event) true 1

/-- The units charged at a position kept (R260). -/
def keepUnits (d : SmpDesc) (pos units : Nat) : Act Unit := putNat d.ctx (d.histBase + 4 * (pos % 1024)) 4 units

/-- The open row handed off, if there is room. -/
def closeRow (q : SampleQ) (d : SmpDesc) : Act Bool := do
  let s ← get
  let x := s.smp[q]
  if ← d.room x.hands then
    let p := rowPayload d x.row
    handSlot d x.hands (rowHeader d.outFmt x.rowFirst x.row.length p.length) p
    for g in x.row do
      keepUnits d g.pos g.units
    modify (fun s => s.updSmp q (fun x => { x with hands := x.hands + 1, row := [], out := x.out + 1 }))
    return true
  return false

/-- A position done with: the queue goes on, or stops in IDLE after the last (R262). -/
def SmpQueue.pass (x : SmpQueue) : SmpQueue := { x with pos := x.pos + 1, work := x.work.drop 1 }

def SmpQueue.atEnd (x : SmpQueue) (d : SmpDesc) : Bool := d.last == some x.pos

/-- A sample taken into the open row, which closes first when the sample does not fit (R267). -/
def packSample (q : SampleQ) (d : SmpDesc) (z : SmpDone) : Act Unit := do
  let s ← get
  let x := s.smp[q]
  let n := z.payload.length / d.tokenBytes
  let full := decide (d.rowTokens < rowUsed x.row + n) || x.row.length == 4096
  let go ← (if full then closeRow q d else pure true)
  if go then
    modify (fun s => s.updSmp q (fun x =>
      let seg : RowSeg := { pos := x.pos, sample := z.sample, start := rowUsed x.row, length := n, try_ := z.try_,
                            reason := z.reason, units := z.units, payload := z.payload }
      { x with rowFirst := if x.row.isEmpty then x.pos else x.rowFirst, row := x.row ++ [seg] }.pass))

/-- A sample or a dropped frame handed off in its own slot. -/
def handSample (q : SampleQ) (d : SmpDesc) (z : SmpDone) : Act Unit := do
  let s ← get
  let x := s.smp[q]
  let late := !z.dropped && stale d s.timeNs z.captureNs
  let z := if late then droppedAt x.pos reasonStale z.captureNs else z
  if ← d.room x.hands then
    handSlot d x.hands (slotHeader (if z.dropped then 2 else 0) x.pos z z.payload.length) z.payload
    keepUnits d x.pos z.units
    modify (fun s => s.updSmp q (fun x =>
      let x := { x with hands := x.hands + 1, out := x.out + 1, drop := if z.dropped then x.drop + 1 else x.drop }
      (if late then x.countFail reasonStale else x).pass))

/-- The last row of a queue whose epochs are over closes; then the queue is IDLE (R262, R267). -/
def finishQueue (q : SampleQ) (d : SmpDesc) : Act Unit := do
  let s ← get
  let x := s.smp[q]
  if x.atEnd d then
    let go ← (if x.row.isEmpty then pure true else closeRow q d)
    if go then modify (fun s => s.updSmp q (fun x => x.halt smpIdle x.error))

/-- One hand-off. -/
def handOff (q : SampleQ) (d : SmpDesc) : Act Unit := do
  let s ← get
  match s.smp[q].work with
  | w :: _ =>
    match w.stop, w.done with
    | some st, _ => modify (fun s => s.updSmp q (·.fail st))
    | none, some z => if d.pack then packSample q d z else handSample q d z
    | none, none => pure ()
  | [] => pure ()
  finishQueue q d

def execSampleHandoff (q : SampleQ) (s : State) : Host.Outcome State Fault Refusal :=
  .next (match s.smpRuns q with
    | none => s
    | some d => match (handOff q d).run s with
      | .ok (_, s) => s
      | .error (.status st nt) => (s.noteErr nt).updSmp q (·.fail st)
      | .error _ => s)

/-- The sample queues of a context stopped (R317). -/
def State.stopSamples (s : State) (ctx : Nat) : State :=
  { s with smp := s.smp.map (fun x => match x.desc with
      | some d => if d.ctx = ctx && x.state == smpRunning then x.halt smpIdle x.error else x
      | none => x) }

end Sys2Proof.Machine
end

