-- ==== Sys2Proof/Machine/Sequencer.lean ====
section
/-! DEFINITION. The sequencer's own instructions: FENCE, CLAIM, COMMIT, VOP in the scalar and branch classes (03, R55, R56; 04, R84 to
R86; 08, R160, R166). -/

namespace Sys2Proof.Machine

/-! ## The end of an instance (R56, R166) -/

/-- Whether every done bit 0 to n - 1 is set. -/
def allDone (bs : List Byte) (n : Nat) : Bool :=
  (List.range n).all (fun i => bit ((bs.getD (i / 8) 0).toNat) (i % 8))

/-- Instances placed afresh for a sweep. -/
def Cmd.restart (cm : Cmd) : Cmd :=
  { cm with insts := cm.insts.map (fun i => { i with placed := none, resume := 0, ended := false }) }

/-- A sweep begun: state copies and cursor set, the sweep counted (R166). -/
def sweepBlock (ctx : Nat) (cm : Cmd) : Act Unit := do
  let w0 ← getNat ctx cm.counter 4
  putNat ctx cm.counter 4 (setFld w0 17 16 2)
  putNat ctx (cm.counter + 0x18) 8 0
  let b0 ← getNat ctx cm.bitmap 4
  putNat ctx cm.bitmap 4 (setFld b0 17 16 2)
  let n ← getNat ctx (cm.bitmap + 0x1C) 1
  putNat ctx (cm.bitmap + 0x1C) 1 (n + 1)

/-- The done bits examined when the last instance has ended (R166). -/
def State.shareEnd (s : State) (q n : Nat) (cm : Cmd) : State :=
  let ctx := s.queueCtx q
  let read : Act (Nat × Nat × Nat × List Byte) := do
    let tiles ← getNat ctx (cm.bitmap + 8) 8
    let dups ← getNat ctx (cm.bitmap + 0x18) 4
    let sweeps ← getNat ctx (cm.bitmap + 0x1C) 1
    let bs ← getVirt ctx (cm.bitmap + 0x40) (ceilDiv tiles 8)
    return (tiles, dups, sweeps, bs)
  match read.run s with
  | .error (.status st nt) => (s.noteErr nt).failCmd q n st
  | .error _ => s
  | .ok ((tiles, dups, sweeps, bs), s) =>
    if allDone bs tiles then s.updCmd q n (fun x => { x with phase := .ready, dups := dups })
    else if !cm.lossy then s.failCmd q n stMalformed
    else if 255 ≤ sweeps then s.failCmd q n stLimit
    else match (sweepBlock ctx cm).run s with
      | .ok (_, s) => s.updCmd q n (fun x => { x.restart with lossy := false })
      | .error (.status st nt) => (s.noteErr nt).failCmd q n st
      | .error _ => s

/-- A dispatched command whose every instance has ended: ready to commit, or examined under R166. -/
def State.instancesEnd (s : State) (q n : Nat) : State :=
  match s.cmd? q n with
  | none => s
  | some cm =>
    if cm.phase != .dispatched || cm.type != tyKernel || !cm.insts.all (·.ended) then s
    else if cm.trap.isSome || cm.ending.isSome then s.trapEnd q n
    else if cm.counter = 0 then s.updCmd q n (fun x => { x with phase := .ready })
    else s.shareEnd q n cm

/-- An instance ended by FENCE with END: its slot FREE, its flags folded (R56, R105). -/
def State.endInstance (s : State) (c : CoreId) (k : KsId) : State :=
  match (s.slot c k).cmd with
  | none => s.freeSlot c k
  | some (q, n) =>
    ((s.freeSlot c k).updCmd q n (fun cm => { cm with
      insts := cm.insts.map (fun i => if i.placed = some (c, k) && !i.ended then { i with ended := true } else i) })).instancesEnd q n

/-! ## FENCE (R55, R56, R86) -/

/-- Tokens an instance wrote become readable by the command's other instances (R55, R213). -/
def State.showWrites (s : State) (c : CoreId) (k : KsId) : State :=
  match (s.slot c k).cmd with
  | none => s
  | some (q, n) =>
    let me := (s.slot c k).inst
    let vis (l : List Written) : List Written := l.map (fun t => if t.inst = me then { t with vis := true } else t)
    s.updCmd q n (fun cm => { cm with pages := cm.pages.map (fun a => { a with keys := vis a.keys, values := vis a.values }) })

/-- FENCE without END (R55). -/
def execFenceInstruction (c : CoreId) (k : KsId) (s : State) : Host.Outcome State Fault Refusal :=
  .next (s.issueSeq c k .fence (fun _ w =>
    let f := wFunc w
    if !s.fenceOpen c k f then .ok s
    else .ok ((if bit f 4 then s.showWrites c k else s).advance c k)))

/-- FENCE with END: every wait, then the instance ends (R56). -/
def execFenceEnd (c : CoreId) (k : KsId) (s : State) : Host.Outcome State Fault Refusal :=
  .next (s.issueSeq c k .fenceEnd (fun _ _ =>
    if !s.fenceOpen c k 0x1F then .ok s
    else .ok (((s.showWrites c k).advance c k).endInstance c k)))

/-! ## CLAIM and COMMIT (R86, R158 to R160) -/

/-- The home region of a place. -/
def locRegion : Loc → Except AccErr RegionId
  | .region a => .ok (regionN (a / regionBytes))
  | .stacked a => .ok (regionN (a / stackSpan))
  | _ => malformed

/-- A register made pending, and its request sent; a write to p0 is discarded and leaves nothing pending (R44; log 20). -/
def State.sendAtom (s : State) (c : CoreId) (k : KsId) (g : RegionId) (r : AtomReq) (a : AtomWait) (pred : Bool) : State :=
  let s := s.updRegion g (fun x => { x with atomQ := x.atomQ ++ [r] })
  let s := s.updSlot c k (fun sl => { sl with
    atoms := sl.atoms ++ [a]
    resAge := sl.resAge + 1
    pendS := if pred then sl.pendS else a.reg :: sl.pendS
    pendP := if pred && a.reg != 0 then a.reg :: sl.pendP else sl.pendP })
  { s with nextReq := s.nextReq + 1 }.advance c k

def execClaim (c : CoreId) (k : KsId) (s : State) : Host.Outcome State Fault Refusal :=
  .next (s.issueSeq c k .claim (fun sl w => do
    let imm := wImm w
    need (1 ≤ imm && imm ≤ 4096) stMalformed
    need (sl.counter != 0 && sl.s[wReg w 44].toNat == sl.counter + 8) stMalformed
    let l ← s.xlate (some (regionOfCore c)) sl.ctx sl.counter true
    let g ← locRegion l
    return s.sendAtom c k g (.claim s.nextReq c k sl.counter imm)
      { req := s.nextReq, age := sl.resAge, commit := false, reg := (wReg w 50).val, tile := 0, index := sl.pc, reply := none } false))

def execCommit (c : CoreId) (k : KsId) (s : State) : Host.Outcome State Fault Refusal :=
  .next (s.issueSeq c k .commit (fun sl w => do
    need (sl.counter != 0 && sl.s[wReg w 44].toNat == sl.bitmap) stMalformed
    let l ← s.xlate (some (regionOfCore c)) sl.ctx sl.bitmap true
    let g ← locRegion l
    let tile := sl.s[wReg w 38].toNat
    return s.sendAtom c k g (.commit s.nextReq c k sl.bitmap tile)
      { req := s.nextReq, age := sl.resAge, commit := true, reg := (wPD w).val, tile := tile, index := sl.pc, reply := none } true))

/-! ## VOP, scalar class (R84) -/

/-- SA op B. -/
def scalarOp (code : Nat) (a b : W64) : W64 :=
  let sh := b.toNat % 64
  match code with
  | 0x00 => a + b
  | 0x01 => a - b
  | 0x02 => a * b
  | 0x03 => a &&& b
  | 0x04 => a ||| b
  | 0x05 => a ^^^ b
  | 0x06 => a <<< sh
  | 0x07 => a >>> sh
  | 0x08 => a.sshiftRight sh
  | 0x09 => if a.slt b then a else b
  | 0x0A => if a.slt b then b else a
  | 0x0B => if a.ult b then a else b
  | 0x0C => if a.ult b then b else a
  | 0x0D => if b = 0 then 0xFFFFFFFFFFFFFFFF else a / b
  | _ => if b = 0 then a else a % b

/-- SA compared with B. -/
def scalarCmp (code : Nat) (a b : W64) : Bool :=
  match code with
  | 0x10 => a == b
  | 0x11 => a != b
  | 0x12 => a.slt b
  | 0x13 => a.ult b
  | 0x14 => !a.slt b
  | _ => !a.ult b

/-- A word stored by scalar ST. -/
def State.wordWrite (s : State) (c : CoreId) (k : KsId) (a : Nat) (bytes : List Byte) : Except AccErr State :=
  if a % 8 ≠ 0 then malformed
  else match s.wordPlace c k a bytes.length true with
    | .error e => .error e
    | .ok l => s.writeLoc l bytes

/-- The effect of a scalar VOP, the pc included. -/
def State.scalar (s : State) (c : CoreId) (k : KsId) (sl : KSlot) (w : W128) : Except AccErr State := do
  let code := wFunc w % 128
  let imm : W64 := BitVec.ofNat 64 (wImm w)
  let a := sl.s[wReg w 44]
  let b := if 128 ≤ wFunc w then imm else sl.s[wReg w 38]
  let at8 := (a + imm).toNat
  if code = 0x1F then
    return (s.updSlot c k (fun x => x.setS (wReg w 50) imm)).advance c k
  else if code = 0x18 then
    let bs ← s.wordRead c k at8 8 8
    return ((s.noteWord c k at8 8).updSlot c k (fun x => x.setS (wReg w 50) (BitVec.ofNat 64 (leNat bs)))).advance c k
  else if code = 0x19 then
    let s ← s.wordWrite c k at8 (leBytes 8 (sl.s[wReg w 38]).toNat)
    return s.advance c k
  else if 0x10 ≤ code then
    return (s.updSlot c k (fun x => x.setPred (wPD w).val (scalarCmp code a b))).advance c k
  else
    return (s.updSlot c k (fun x => x.setS (wReg w 50) (scalarOp code a b))).advance c k

def execVopScalar (c : CoreId) (k : KsId) (s : State) : Host.Outcome State Fault Refusal :=
  .next (s.issueSeq c k .scalar (fun sl w => s.scalar c k sl w))

/-! ## VOP, branch class (R85, R56) -/

/-- The index a branch names. -/
def branchTarget (sl : KSlot) (w : W128) : Nat :=
  if wFunc w = 1 then (sl.s[wReg w 44] + BitVec.ofNat 64 (wImm w)).toNat else wImm w

def execVopBranch (c : CoreId) (k : KsId) (s : State) : Host.Outcome State Fault Refusal :=
  .next (s.issueSeq c k .branch (fun sl w => do
    let t := branchTarget sl w
    need (t < sl.hdr.length) stMalformed
    return (s.advance c k).updSlot c k (fun x => { x with pc := t })))

end Sys2Proof.Machine
end

