-- ==== Sys2Proof/Machine/Ends.lean ====
section
/-! DEFINITION. Completions, replies, trap records, and the atomic unit (03, R49, R50, R60; 07, R146 to R153; 08, R158, R159, R162,
R163). -/

namespace Sys2Proof.Machine

/-! ## Completion of engine instructions (R48, R49) -/

/-- Whether a contribution is still at an atomic unit or waits to be resent. -/
def State.contribWaits (s : State) (id : Nat) : Bool :=
  let is (r : AtomReq) : Bool := match r with
    | .contrib i _ _ _ _ _ _ _ _ _ _ => i == id
    | _ => false
  s.regions.toList.any (fun g => g.atomQ.any is)
    || s.cores.toList.any (fun co => co.slots.toList.any (fun sl => sl.retries.any (fun r => is r.2)))

/-- Whether another device refused a gather: a free choice (R20, R217; log 22). -/
def State.refused (s : State) (x : InFlight) : Bool := x.remote && Config.freeNat 23 [x.index, x.age, s.freshCtr] % 2 == 1

/-- The oldest entry of an engine's queue completed: descriptors RESIDENT, its flags and counts taken over, reservations gone with the
entry (R49, R103, R126). -/
def State.completeHead (s : State) (c : CoreId) (e : Engine) (x : InFlight) (rest : List InFlight) : State :=
  let s := s.updCore c (fun co =>
    let co := co.setQueue e rest
    if e = .anvil then
      { co with cntActive := co.cntActive + BitVec.ofNat 64 x.cycles, cntMac := co.cntMac + x.macs }
    else co)
  let s := s.updSlot c x.ks (fun sl => { sl with
    flags := sl.flags.join x.flags
    ts := x.writes.foldl (fun (t : Vector TState 32) i => t.set (i % 32) .resident (Nat.mod_lt _ (by decide))) sl.ts })
  let s := if s.refused x then s.fresh.trapSlotAt c x.ks stMalformed x.index else s.settleStop c x.ks
  if x.gather.isSome then s.runCulls else s

def execInstructionComplete (c : CoreId) (e : Engine) (s : State) : Host.Outcome State Fault Refusal :=
  .next (match s.cores[c].queueOf e with
    | [] => s
    | x :: rest => match x.req with
      | some id => if s.contribWaits id then s else s.completeHead c e x rest
      | none => s.completeHead c e x rest)

/-! ## Replies and tile commit points (R50, R162, R315) -/

/-- A request's number. -/
def AtomReq.id : AtomReq → Nat
  | .claim i _ _ _ _ => i
  | .commit i _ _ _ _ => i
  | .contrib i _ _ _ _ _ _ _ _ _ _ => i

/-- What a kernel slot has issued after a place in age, discarded: queue entries, requests, tokens written (R315). -/
def State.discardAfter (s : State) (c : CoreId) (k : KsId) (age : Nat) : State :=
  let young (e : InFlight) : Bool := e.ks == k && age < e.age
  let reqs := (s.inFlightOf c k).filterMap (fun e => if young e then e.req else none)
    ++ ((s.slot c k).atoms.filter (fun a => age < a.age)).map (·.req)
  let s := (s.dropRequests (fun x => reqs.contains x.id)).dropEntries c young
  let s := s.updSlot c k (fun sl => { sl with
    atoms := sl.atoms.filter (fun a => a.age ≤ age)
    retries := sl.retries.filter (fun r => !reqs.contains r.2.id) })
  match (s.slot c k).cmd with
  | some (q, n) => s.updCmd q n (fun cm => cm.forget (s.slot c k).inst age)
  | none => s

/-- An instance that goes to STOPPING at a tile commit point: what it issued after the COMMIT is discarded, s5 is saved, and the slot is
FREE once the rest has completed (R43, R315). -/
def State.stopAtTile (s : State) (c : CoreId) (k : KsId) (tile age : Nat) : State :=
  ((s.discardAfter c k age).updSlot c k (fun sl => { sl with
    state := .stopping
    saved := BitVec.ofNat 64 (tile + 1) })).settleStop c k

/-- A reply written to its register (R50). -/
def State.takeReply (s : State) (c : CoreId) (k : KsId) (a : AtomWait) (v : W64) : State :=
  let s := s.updSlot c k (fun sl =>
    let sl := { sl with atoms := sl.atoms.filter (fun x => x.req != a.req) }
    if a.commit then { sl with pendP := sl.pendP.filter (· != a.reg) }.setPred a.reg (v != 0)
    else { sl with
        pendS := sl.pendS.filter (· != a.reg)
        s := sl.s.set (a.reg % 64) v (Nat.mod_lt _ (by decide)) })
  let sl := s.slot c k
  if a.commit && sl.state == .running && (sl.stop == some .preempt || sl.stop == some .drain || sl.stop == some .region) then s.stopAtTile c k a.tile a.age
  else s.settleStop c k

def execAtomicReply (c : CoreId) (k : KsId) (s : State) : Host.Outcome State Fault Refusal :=
  .next (match (s.slot c k).atoms.find? (fun a => a.reply.isSome) with
    | some a => match a.reply with
      | some v => s.takeReply c k a v
      | none => s
    | none => s)

/-! ## Trap records (R60, R61) -/

/-- The order of reported traps by status. -/
def trapRank (st : Nat) : Nat :=
  if st = stData then 0 else if st = stOvercommit then 1 else if st = stLimit then 2 else if st = stMalformed then 3 else 4

/-- The trap to report of two. Of two with the same status, core and index, in different kernel slots, R60 names no winner: the one recorded
first stays (DESIGN CHOICE, log 127). -/
def TrapRec.pick (a b : TrapRec) : TrapRec :=
  if trapRank a.status ≠ trapRank b.status then (if trapRank a.status < trapRank b.status then a else b)
  else if a.core ≠ b.core then (if a.core < b.core then a else b)
  else if b.index < a.index then b else a

def execTrapRecord (c : CoreId) (k : KsId) (s : State) : Host.Outcome State Fault Refusal :=
  .next (
    let sl := s.slot c k
    match sl.state, sl.trap, sl.cmd with
    | .trapped, some (st, idx), some (q, n) =>
      let t : TrapRec := { status := st, core := c.val, ks := k.val, index := idx }
      let s := (s.freeSlot c k).updCmd q n (fun cm =>
        { cm.unplace c k 0 with trap := some (match cm.trap with
            | some o => o.pick t
            | none => t) })
      (s.askAll q n .abort).trapEnd q n
    | _, _, _ => s)

/-! ## The atomic unit: CLAIM (R158, R163) -/

/-- Whether done bit i is set. -/
def doneBit (bs : List Byte) (i : Nat) : Bool := bit ((bs.getD (i / 8) 0).toNat) (i % 8)

/-- A CLAIM answered: STEP set by the first, RUN counting with the journal, SWEEP searching. -/
def claimAct (ctx cb imm : Nat) : Act Nat := do
  let w0 ← getNat ctx cb 4
  let w1 ← getNat ctx (cb + 4) 4
  let counter ← getNat ctx (cb + 8) 8
  let bm ← getNat ctx (cb + 0x10) 8
  let st := fld w0 17 16
  Act.need (st != 0) stMalformed
  let step := fld w1 28 16
  Act.need (step == 0 || step == imm) stMalformed
  let b0 ← getNat ctx bm 4
  let b0 := setFld b0 30 18 imm
  if step = 0 then
    putNat ctx (cb + 4) 4 (setFld w1 28 16 imm)
    putNat ctx bm 4 b0
  if st = 1 then
    let next := (counter + imm) % 2 ^ 64
    putNat ctx (cb + 8) 8 next
    let j := 2 ^ fld w1 3 0
    if next / j ≠ counter / j then
      putNat ctx bm 4 (setFld b0 17 16 1)
      putNat ctx (bm + 0x10) 8 next
    return counter
  else
    let tiles ← getNat ctx (bm + 8) 8
    let cursor ← getNat ctx (cb + 0x18) 8
    let bs ← getVirt ctx (bm + 0x40) (ceilDiv tiles 8)
    match (List.range tiles).find? (fun i => cursor ≤ i && !doneBit bs i) with
    | some i =>
      let a := i / imm * imm
      putNat ctx (cb + 0x18) 8 (a + imm)
      return a
    | none => return tiles

/-- The first request of a kind at a region. -/
def firstReq (q : List AtomReq) (p : AtomReq → Bool) : Option AtomReq := q.find? p

/-- A request taken from a region's unit. -/
def State.takeReq (s : State) (g : RegionId) (id : Nat) : State :=
  s.updRegion g (fun r => { r with atomQ := r.atomQ.filter (fun x => x.id != id) })

/-- A reply that travels to its core. -/
def State.reply1 (s : State) (c : CoreId) (k : KsId) (id : Nat) (v : W64) : State :=
  s.updSlot c k (fun sl => { sl with atoms := sl.atoms.map (fun a => if a.req = id then { a with reply := some v } else a) })

/-- A request at an atomic unit whose region does not answer: PART_ABSENT, recorded; the core retries while the region
resets, and the command is held while it is fenced (R164, R331, R332). -/
def State.absentAtom (s : State) (g : RegionId) (p : AtomReq → Bool) : State :=
  match firstReq s.regions[g].atomQ p with
  | some r => s.accFail r.slot.1 r.slot.2 (if s.regionState g = .fenced then .fenced g else .resetting g)
  | none => s

def AtomReq.isClaim : AtomReq → Bool
  | .claim _ _ _ _ _ => true
  | _ => false

def AtomReq.isCommit : AtomReq → Bool
  | .commit _ _ _ _ _ => true
  | _ => false

def AtomReq.isContrib : AtomReq → Bool
  | .contrib _ _ _ _ _ _ _ _ _ _ _ => true
  | _ => false

/-- The index of the instruction that sent a request. -/
def KSlot.reqIndex (sl : KSlot) (id : Nat) : Nat :=
  match sl.atoms.find? (fun a => a.req == id) with
  | some a => a.index
  | none => sl.pc

/-- What a failure at the atomic unit does to the instruction that asked. -/
def State.atomErr (s : State) (g : RegionId) (c : CoreId) (k : KsId) (id idx : Nat) (e : AccErr) : State :=
  match e with
  | .status st nt => ((s.noteErr nt).takeReq g id).trapSlotAt c k st idx
  | _ => s.accFail c k e

def execAtomicClaim (g : RegionId) (s : State) : Host.Outcome State Fault Refusal :=
  .next (if s.regionState g != .inService then s.absentAtom g AtomReq.isClaim else
    match s.regions[g].atomQ.findSome? (fun r => match r with
      | .claim id c k cb imm => some (id, c, k, cb, imm)
      | _ => none) with
    | none => s
    | some (id, c, k, cb, imm) =>
      match (claimAct (s.slot c k).ctx cb imm).run s with
      | .ok (v, s1) =>
        ((s1.takeReq g id).updCnt g (fun r => { r with tileClaim := r.tileClaim + 1 })).reply1 c k id (BitVec.ofNat 64 v)
      | .error e => s.atomErr g c k id ((s.slot c k).reqIndex id) e)

/-! ## The atomic unit: COMMIT (R159) -/

/-- A COMMIT answered: 1 when the bit was clear. -/
def commitAct (ctx bm tile : Nat) : Act Nat := do
  let tiles ← getNat ctx (bm + 8) 8
  Act.need (tile < tiles) stMalformed
  let b ← getNat ctx (bm + 0x40 + tile / 8) 1
  if bit b (tile % 8) then
    let d ← getNat ctx (bm + 0x18) 4
    putNat ctx (bm + 0x18) 4 (satAdd 32 d 1)
    return 0
  else
    putNat ctx (bm + 0x40 + tile / 8) 1 (b + 2 ^ (tile % 8))
    return 1

def execAtomicCommit (g : RegionId) (s : State) : Host.Outcome State Fault Refusal :=
  .next (if s.regionState g != .inService then s.absentAtom g AtomReq.isCommit else
    match s.regions[g].atomQ.findSome? (fun r => match r with
      | .commit id c k bm tile => some (id, c, k, bm, tile)
      | _ => none) with
    | none => s
    | some (id, c, k, bm, tile) =>
      match (commitAct (s.slot c k).ctx bm tile).run s with
      | .ok (v, s1) =>
        let s1 := if v = 0 then s1.updCnt g (fun r => { r with tileDup := r.tileDup + 1 }) else s1
        (s1.takeReq g id).reply1 c k id (BitVec.ofNat 64 v)
      | .error e => s.atomErr g c k id ((s.slot c k).reqIndex id) e)

/-! ## The atomic unit: contributions (R146, R147, R149, R150) -/

/-- A destination of a contribution: format, base, stride, rows, columns. -/
structure Dest where
  ctx : Nat
  fmt : Nat
  base : Nat
  stride : Nat
  rows : Nat
  cols : Nat
deriving DecidableEq, Repr

def destOf (ctx : Nat) (td : W256) (rows cols : Nat) : Dest :=
  let d := td.toNat
  { ctx := ctx, fmt := fld d 56 52, base := fld d 47 0, stride := fld d 159 128, rows := rows, cols := cols }

def Dest.elemBytes (d : Dest) : Nat := fmtBits d.fmt / 8

/-- One element added: the new pattern, and whether an INT32 saturated (R147). -/
def addElem (fmt old new : Nat) : Nat × Flags :=
  if fmt = fINT32 then
    let v := sInt 32 old + sInt 32 new
    if 2147483647 < v then (0x7FFFFFFF, Flags.ofSat)
    else if v < -2147483648 then (0x80000000, Flags.ofSat)
    else (uInt 32 v, {})
  else if fmt = fFP32P then ((pairAdd (pairOfBits old) (pairOfBits new)).bits, {})
  else (enc32 (fadd (dec32 old) (dec32 new)), {})

/-- dest := dest + data, element by element. -/
def addDest (d : Dest) (data : List Nat) : Act Flags := do
  let mut fl : Flags := {}
  for r in List.range d.rows do
    let a := d.base + r * d.stride
    let bs ← getVirt d.ctx a (d.cols * d.elemBytes)
    let res := (List.range d.cols).map (fun j => addElem d.fmt (leAt bs (d.elemBytes * j) d.elemBytes) (data.getD (r * d.cols + j) 0))
    putVirt d.ctx a (res.flatMap (fun e => leBytes d.elemBytes e.1))
    fl := fl.join (Flags.joinAll (res.map (·.2)))
  return fl

/-- A reduction slot's header as read. -/
structure RSlot where
  ordered : Bool
  contributors : Nat
  stage : Nat
  round : Nat
  next : Nat
  stageBase : Nat
deriving DecidableEq, Repr

/-- Whether a range lies in one region's memories; a part that does not answer leaves it to the access. -/
def State.allHome (s : State) (g : RegionId) (ctx va len : Nat) : Bool :=
  match s.xlateRange none ctx va len true with
  | .ok ls => ls.all (fun l => l.1.home == some g)
  | .error (.status _ _) => false
  | .error _ => true

/-- The header checked under R146: VERSION, then its fields, then the whole slot and every staging entry in the home region (R145). -/
def readRSlot (g : RegionId) (d : Dest) (rs : Nat) : Act RSlot := do
  let bs ← getVirt d.ctx rs 64
  let w0 := leAt bs 0 4
  let w1 := leAt bs 4 4
  let w3 := leAt bs 0xC 4
  Act.need (fld w0 7 0 == 0 && fld w0 15 8 == 1 && fld w0 31 17 == 0 && fld w1 31 24 == 0 && fld w3 31 16 == 0
    && (bs.drop 0x28).all (· == 0)) stVersion
  let r : RSlot := { ordered := bit w0 16, contributors := fld w1 15 0, stage := fld w1 23 16, round := leAt bs 8 4,
                     next := fld w3 15 0, stageBase := leAt bs 0x10 8 }
  Act.need (1 ≤ r.contributors && r.contributors ≤ 4096
    && (if r.ordered then 1 ≤ r.stage && r.stage ≤ 64 && 1 ≤ r.round && r.next < r.contributors
        else r.stage == 0 && r.round == 0 && r.next == 0 && r.stageBase == 0)) stMalformed
  let s ← get
  Act.need (if r.ordered then s.allHome g d.ctx r.stageBase (r.stage * (64 + d.rows * d.cols * d.elemBytes))
    else s.allHome g d.ctx rs (0x40 + 4 * r.contributors)) stMalformed
  return r

/-- Who made a contribution that waits in a staging area: its command, and its kernel slot as placed. -/
structure Staged where
  q : Nat
  n : Nat
  core : Nat
  ks : Nat
  no : Nat
deriving DecidableEq, Repr

/-- A staging entry's bytes: a 64-byte head and the destination's bytes. What the head holds is the model's own: the sequence number, the id
and who contributed (R146; log 24). -/
def stageLen (d : Dest) : Nat := 64 + d.rows * d.cols * d.elemBytes

/-- The staging entry that holds a contribution; an all-zero entry is free (R146). -/
def findStaged (r : RSlot) (d : Dest) (key : Nat × Nat) : Act (Option Nat) := do
  let mut found : Option Nat := none
  for i in List.range r.stage do
    let a := r.stageBase + i * stageLen d
    let sq ← getNat d.ctx a 4
    let id ← getNat d.ctx (a + 4) 4
    if found.isNone && sq == key.1 && id == key.2 then found := some i
  return found

def stageHead (seq id : Nat) (b : Staged) : List Byte :=
  leBytes 4 seq ++ leBytes 4 id ++ leBytes 4 b.q ++ leBytes 2 b.core ++ leBytes 2 b.ks ++ leBytes 8 b.n ++ leBytes 8 b.no ++ zeros 32

def stagedBy (bs : List Byte) : Staged :=
  { q := leAt bs 8 4, core := leAt bs 12 2, ks := leAt bs 14 2, n := leAt bs 16 8, no := leAt bs 24 8 }

/-- What an operation at the atomic unit answers: how many contributions it applied, the flags of the one sent and of those that were
staged. -/
inductive Answer where
  | applied (n : Nat) (f : Flags) (others : List (Staged × Flags))
  | dropped
  | staged
  | retry

def countAt (ctx va n : Nat) : Act Unit := do
  let v ← getNat ctx va 8
  putNat ctx va 8 ((v + n) % 2 ^ 64)

/-- Staged contributions drained while the next one is there: fuel, next id, who contributed with what flags. -/
def drainStaged (r : RSlot) (d : Dest) : Nat → Nat → List (Staged × Flags) → Act (Nat × List (Staged × Flags))
  | 0, nx, l => pure (nx, l)
  | k + 1, nx, l => do
    match ← findStaged r d (r.round, nx) with
    | none => return (nx, l)
    | some i =>
      let a := r.stageBase + i * stageLen d
      let bs ← getVirt d.ctx a (stageLen d)
      let f ← addDest d ((List.range (d.rows * d.cols)).map (fun j => leAt bs (64 + d.elemBytes * j) d.elemBytes))
      putVirt d.ctx a (zeros (stageLen d))
      drainStaged r d k (nx + 1) (l ++ [(stagedBy bs, f)])

/-- apply of R147. -/
def applyContrib (g : RegionId) (d : Dest) (rs id seq : Nat) (me : Staged) (data : List Nat) : Act Answer := do
  let r ← readRSlot g d rs
  Act.need (id < r.contributors && seq != 0) stMalformed
  if !r.ordered then
    let last ← getNat d.ctx (rs + 0x40 + 4 * id) 4
    if seq ≤ last then
      countAt d.ctx (rs + 0x20) 1
      return .dropped
    let f ← addDest d data
    putNat d.ctx (rs + 0x40 + 4 * id) 4 seq
    countAt d.ctx (rs + 0x18) 1
    return .applied 1 f []
  let st ← findStaged r d (seq, id)
  if seq < r.round || (seq = r.round && id < r.next) || st.isSome then
    countAt d.ctx (rs + 0x20) 1
    return .dropped
  if r.round < seq then return .retry
  if r.next < id then
    match ← findStaged r d (0, 0) with
    | none => return .retry
    | some i =>
      let a := r.stageBase + i * stageLen d
      putVirt d.ctx a (stageHead seq id me ++ data.flatMap (leBytes d.elemBytes))
      return .staged
  let f ← addDest d data
  let (nx, others) ← drainStaged r d r.stage (id + 1) []
  countAt d.ctx (rs + 0x18) (1 + others.length)
  if nx = r.contributors then
    putNat d.ctx (rs + 0x0C) 4 0
    putNat d.ctx (rs + 8) 4 (r.round + 1)
  else
    putNat d.ctx (rs + 0x0C) 4 nx
  return .applied (1 + others.length) f others

/-- A kernel slot as placed now. -/
def State.placedAs (s : State) (c : CoreId) (k : KsId) : Staged :=
  let sl := s.slot c k
  { q := (sl.cmd.getD (0, 0)).1, n := (sl.cmd.getD (0, 0)).2, core := c.val, ks := k.val, no := sl.placedNo }

/-- A staged contribution counted for its kernel slot and its command. -/
def State.noteStaged (s : State) (c : CoreId) (k : KsId) : State :=
  let s := s.updSlot c k (fun sl => { sl with staged := sl.staged + 1 })
  match (s.slot c k).cmd with
  | some (q, n) => s.updCmd q n (fun cm => { cm with staged := cm.staged + 1 })
  | none => s

/-- A staged contribution applied: its flags go to the kernel slot that made it, or to its command where that slot has been left
(R147). -/
def State.unstage (s : State) (b : Staged) (f : Flags) : State :=
  let c := coreN b.core
  let k : KsId := ⟨b.ks % 4, Nat.mod_lt _ (by decide)⟩
  let s := s.updCmd b.q b.n (fun cm => { cm with staged := cm.staged - 1 })
  if s.placedAs c k = b && (s.slot c k).state != .free then
    s.updSlot c k (fun sl => { sl with flags := sl.flags.join f, staged := sl.staged - 1 })
  else s.updCmd b.q b.n (fun cm => { cm with flags := cm.flags.join f })

/-- One contribution answered at its home region. -/
def State.answerContrib (s : State) (g : RegionId) (r : AtomReq) : State :=
  match r with
  | .contrib id c k ctx tag rslot td rows cols elems index =>
    let d := destOf ctx td rows cols
    match (applyContrib g d rslot (fld tag.toNat 15 0) (fld tag.toNat 63 32) (s.placedAs c k) (elems.map (·.toNat))).run s with
    | .error e => s.atomErr g c k id index e
    | .ok (.applied n f others, s) =>
      let s := ((s.takeReq g id).updCnt g (fun x => { x with applied := x.applied + BitVec.ofNat 64 n })).addFlags c k f
      others.foldl (fun s o => s.unstage o.1 o.2) s
    | .ok (.dropped, s) => (s.takeReq g id).updCnt g (fun x => { x with dup := x.dup + 1 })
    | .ok (.staged, s) => (s.takeReq g id).noteStaged c k
    | .ok (.retry, s) =>
      ((s.takeReq g id).updCnt g (fun x => { x with retry := x.retry + 1 })).updSlot c k (fun sl =>
        { sl with retries := sl.retries ++ [(g.val, r)] })
  | _ => s

def execAtomicContribution (g : RegionId) (s : State) : Host.Outcome State Fault Refusal :=
  .next (if s.regionState g != .inService then s.absentAtom g AtomReq.isContrib else
    match firstReq s.regions[g].atomQ AtomReq.isContrib with
    | some r => s.answerContrib g r
    | none => s)

/-- A contribution answered RETRY is sent again (R147). -/
def execContributionRetry (c : CoreId) (k : KsId) (s : State) : Host.Outcome State Fault Refusal :=
  .next (match (s.slot c k).retries with
    | [] => s
    | (g, r) :: rest =>
      (s.updSlot c k (fun sl => { sl with retries := rest })).updRegion (regionN g) (fun x =>
        { x with atomQ := x.atomQ ++ [r] }))

end Sys2Proof.Machine
end

