-- ==== Sys2Proof/Machine/KernelCmds.lean ====
section
/-! DEFINITION. KERNEL commands: dispatch, placement, loading, instruction fetch, the decision to pre-empt (03, R39 to R45, R58; 08, R157;
16, R313, R315). -/

namespace Sys2Proof.Machine

/-! ## Counter block and bitmap at dispatch (R155 to R157) -/

def counterClean (bs : List Byte) : Bool :=
  let w0 := leAt bs 0 4
  let w1 := leAt bs 4 4
  fld w0 7 0 == 0 && fld w0 15 8 == 1 && fld w0 31 18 == 0 && fld w1 15 4 == 0 && fld w1 31 29 == 0
    && (bs.drop 0x20).all (· == 0)

def bitmapClean (bs : List Byte) : Bool :=
  let w0 := leAt bs 0 4
  fld w0 7 0 == 0 && fld w0 15 8 == 1 && !bit w0 31 && leAt bs 4 4 == 0 && fld (leAt bs 0x1C 4) 31 8 == 0
    && ((bs.drop 0x20).take 32).all (· == 0)

/-- The home region of a counter block: region memory. -/
def State.counterHome (s : State) (ctx va : Nat) : Option RegionId :=
  match s.xlate none ctx va true with
  | .ok (.region a) => some (regionN (a / regionBytes))
  | _ => none

/-- A counter block and its bitmap validated: the bitmap's address and JSTEP_LOG2. -/
def checkCounter (ctx cb : Nat) : Act (Nat × Nat) := do
  let bs ← getVirt ctx cb 64
  Act.need (counterClean bs) stVersion
  let bm := leAt bs 0x10 8
  let bb ← getVirt ctx bm 64
  Act.need (bitmapClean bb) stVersion
  let s ← get
  let tiles := leAt bb 8 8
  let j := fld (leAt bs 4 4) 3 0
  Act.need (cb % 64 == 0 && bm % 64 == 0 && fld (leAt bs 0 4) 17 16 != 3 && j ≤ 12 && 1 ≤ tiles && tiles ≤ 16777216) stMalformed
  match s.counterHome ctx cb with
  | none => Act.fail stMalformed
  | some g =>
    Act.need (match s.stacksOf ctx bm (64 + ceilDiv tiles 8) with
      | some l => l.all (· == g.val)
      | none => false) stMalformed
    return (bm, j)

/-- STATE RUN, every kept field at its start, DONE cleared. -/
def runCounter (ctx cb bm : Nat) : Act Unit := do
  let w0 ← getNat ctx cb 4
  let w1 ← getNat ctx (cb + 4) 4
  putNat ctx cb 4 (setFld w0 17 16 1)
  putNat ctx (cb + 4) 4 (setFld w1 28 16 0)
  putNat ctx (cb + 8) 8 0
  putNat ctx (cb + 0x18) 8 0
  let b0 ← getNat ctx bm 4
  putNat ctx bm 4 (setFld (setFld b0 17 16 1) 30 18 0)
  putNat ctx (bm + 0x10) 8 0
  putNat ctx (bm + 0x18) 4 0
  putNat ctx (bm + 0x1C) 1 0
  let tiles ← getNat ctx (bm + 8) 8
  putVirt ctx (bm + 0x40) (zeros (ceilDiv tiles 8))

/-! ## KERNEL (R10, R11, R19, R39, R157) -/

/-- The append targets of a command, checked under R10 and R9. -/
def checkTargets (ctx : Nat) (cm : Cmd) : Act (List Nat) := do
  let n := cm.at 0x30 2
  Act.need (n ≤ 256) stLimit
  if n = 0 then return []
  let bs ← getVirt ctx (cm.at 0x28 8) (2 * n)
  let ids := (List.range n).map (fun i => leAt bs (2 * i) 2)
  Act.need (dupFree ids) stMalformed
  for i in ids do
    let _ ← liveSeq ctx i
  return ids

/-- What a KERNEL's dispatch checks and changes in memory: targets, bitmap, JSTEP_LOG2. -/
def kernelAct (ctx : Nat) (cm : Cmd) (h : KHeader) : Act (List Nat × Nat × Nat) := do
  Act.need (h.argBytes != 0 || cm.at 0x18 8 == 0) stMalformed
  let ids ← checkTargets ctx cm
  let cb := cm.at 0x20 8
  if cb = 0 then return (ids, 0, 0)
  let (bm, j) ← checkCounter ctx cb
  runCounter ctx cb bm
  return (ids, bm, j)

/-- The instances of a command, as many as region firmware chooses: 1 to MAX_INSTANCES (R40; log 27). -/
def State.newInsts (s : State) (cm : Cmd) (h : KHeader) : List Inst :=
  (List.range (1 + Config.freeNat 4 [cm.q, cm.n, s.freshCtr] % h.maxInst)).map (fun i =>
    { index := i, placed := none, resume := 0, ended := false, flags := {} })

def execKernel (q n : Nat) (s : State) : Host.Outcome State Fault Refusal :=
  .next (match s.granted? q n tyKernel, lookup s.queues q with
    | some cm, some qu =>
      match s.kernelHeader qu.ctx qu.major qu.minor (cm.at 0x10 8) with
      | .error e => s.cmdErr q n e
      | .ok (.error st) => (s.noteVirt none qu.ctx (cm.at 0x10 8) 64).endCmd q n st false
      | .ok (.ok h) =>
        let s := s.noteVirt none qu.ctx (cm.at 0x10 8) (64 + 16 * h.length)
        if !s.unitsFit h then s.endCmd q n stLimit false else
        match (kernelAct qu.ctx cm h).run s with
        | .error e => s.cmdErr q n e
        | .ok ((ids, bm, j), s1) =>
          let home := s.roleRegions qu.role
          if home.isEmpty then s.endCmd q n stLimit false
          else if home.all (fun g => s.regionState g == .fenced) then (s.holdCmd q n .roles).requeue q n
          else
            let s1 := ids.foldl (fun s i => s.updSeq i (fun x => { x with inFlight := true })) s1
            (s1.updCmd q n (fun x => { x with
              phase := .dispatched
              hdr := h
              args := cm.at 0x18 8
              insts := s1.newInsts cm h
              targets := ids
              counter := cm.at 0x20 8
              home := if cm.at 0x20 8 = 0 then none else s1.counterHome qu.ctx (cm.at 0x20 8)
              bitmap := bm
              jstep := j })).fresh
    | _, _ => s)

/-! ## Placement of an instance (R40, R43 to R45, R313) -/

/-- The instance to place next: a pre-empted one first (R315). -/
def Cmd.nextInst (cm : Cmd) : Option Inst :=
  let open_ := cm.insts.filter (fun i => i.placed.isNone && !i.ended)
  match open_.find? (fun i => i.resume != 0) with
  | some i => some i
  | none => open_.head?

/-- Whether a command that no command may overtake waits for a core ahead of this one (R312). -/
def State.coresHeld (s : State) (cm : Cmd) : Bool :=
  s.cmds.any (fun x => x.phase == .waiting && x.capped && x.type == tyKernel && x.before cm && s.orderOk x
    && (match lookup s.queues x.q with
        | some qu => !s.coreThere x qu
        | none => false))

/-- Capability word 0 of a core (R45). -/
def Core.cap0 (co : Core) : Nat := 8192 * 2 ^ 32 + co.accUnits * 2 ^ 24 + 4 * 2 ^ 20 + 4 * 2 ^ 16 + 0x0100

/-- Where region firmware puts an instance's argument block: an 8-byte aligned address that an operand takes as memory (log 18). -/
def argBlockAt (c : CoreId) (k : KsId) : Nat := coreStoreBytes + 8 * (Config.argBlockVA c.val k.val % 2 ^ 44)

/-- The block's place in the home region's memory: 4 KiB for each kernel slot of the region, wherever firmware keeps them (log 18). -/
def argPlace (c : CoreId) (k : KsId) : Nat :=
  (regionOfCore c).val * regionBytes + (Config.argBlockPlace (regionOfCore c).val % 8160) * 4096 + (c.val % 8 * 4 + k.val) * 4096

/-- Names resident at placement: a0 to a(ACC_SLOTS - 1), each in the slot of its number (R132). -/
def firstNames (n : Nat) : Vector AccName 16 :=
  Vector.ofFn (fun i => if i.val < n then { phys := some i.val } else {})

/-- A FREE slot taken for an instance. -/
def placedSlot (co : Core) (c : CoreId) (k : KsId) (ctx image : Nat) (cm : Cmd) (i : Inst) (base no : Nat) : KSlot :=
  let h := cm.hdr
  { KSlot.idle with
    state := .loading
    ctx := ctx
    csUnits := h.storeBytes / 65536
    csBase := base
    accUnits := h.unitsNeeded
    units := co.freeUnits.take h.unitsNeeded
    s := (((((Vector.replicate 64 (0 : W64)).set 1 (BitVec.ofNat 64 i.index)).set 2
        (BitVec.ofNat 64 cm.insts.length)).set 5 i.resume).set 60 (BitVec.ofNat 64 co.cap0)).set 61 0xFFF
    acc := firstNames h.accSlots
    resAge := 1
    pc := h.entry
    image := image
    hdr := h
    cmd := some (cm.q, cm.n)
    inst := i.index
    counter := cm.counter
    bitmap := cm.bitmap
    argVA := if h.argBytes = 0 then 0 else argBlockAt c k
    placedNo := no }

/-- The argument block copied into the home region's memory, mapped at its address; the rest of its last block is zero (R44). -/
def State.copyArgs (s : State) (c : CoreId) (k : KsId) (ctx : Nat) (args : List Byte) : State :=
  if args.isEmpty then s else
  let pad := (32 - args.length % 32) % 32
  { s with
    argMaps := { core := c, ks := k, ctx := ctx, va := argBlockAt c k, len := args.length, addr := argPlace c k } :: s.argMaps
    regionMem := s.regionMem.force (fun _ => 0) (argPlace c k) (args ++ zeros pad) }

/-- An instance placed on a core. -/
def State.place (s : State) (cm : Cmd) (i : Inst) (ctx : Nat) (c : CoreId) (args : List Byte) : State :=
  let co := s.cores[c]
  match co.freeSlot?, co.freeStore cm.hdr.storeBytes with
  | some k, some base =>
    let s := s.updSlot c k (fun _ => placedSlot co c k ctx (cm.at 0x10 8) cm i base s.nextReq)
    let s : State := { s with nextReq := s.nextReq + 1 }.copyArgs c k ctx args
    s.updCmd cm.q cm.n (fun x => { x with
      insts := x.insts.map (fun j => if j.index = i.index then { j with placed := some (c, k) } else j) })
  | _, _ => s

def execInstancePlacement (q n : Nat) (s : State) : Host.Outcome State Fault Refusal :=
  .next (match s.cmd? q n, lookup s.queues q with
    | some cm, some qu =>
      if cm.phase != .dispatched || cm.type != tyKernel || cm.held || cm.trap.isSome || cm.ending.isSome || s.quenched qu.ctx
          || s.coresHeld cm then s else
      match cm.nextInst with
      | none => s
      | some i =>
        let a := s.anchor qu.ctx (cm.at 0x38 8) (cm.at 0x20 8)
        match s.bestCore a (s.coreTakes qu.ctx qu.role cm.hdr cm.bannedRegions) with
        | none => s
        | some c =>
          match s.readVirt none qu.ctx cm.args cm.hdr.argBytes with
          | .ok bs => (s.noteVirt none qu.ctx cm.args cm.hdr.argBytes).place cm i qu.ctx c bs
          | .error e => if cm.hdr.argBytes = 0 then s.place cm i qu.ctx c [] else s.cmdErr q n e
    | _, _ => s)

/-! ## Instruction fetch (R58) -/

/-- Cached instructions of a core (R58). -/
def icacheLines : Nat := 2048

/-- The instructions of the 64 bytes that hold one index. -/
def State.fetchLine (s : State) (c : CoreId) (k : KsId) : State :=
  let sl := s.slot c k
  let g := some (regionOfCore c)
  let va (i : Nat) : Nat := sl.image + 0x40 + 16 * i
  let read (i : Nat) : Except AccErr (List Byte) := s.readVirt g sl.ctx (va i) 16
  match read sl.pc with
  | .error e => s.accFail c k e
  | .ok _ =>
    let new := (List.range 4).filterMap (fun j =>
      let i := sl.pc / 4 * 4 + j
      match decide (i < sl.hdr.length), read i with
      | true, .ok bs => some ({ ctx := sl.ctx, image := sl.image, index := i, word := BitVec.ofNat 128 (leNat bs) } : ICLine)
      | _, _ => none)
    (s.noteVirt g sl.ctx (va sl.pc) 16).updCore c (fun co => { co with
      icache := List.take icacheLines (new ++ co.icache.filter (fun l => !new.any (fun x =>
        x.ctx == l.ctx && x.image == l.image && x.index == l.index))) })

/-- A miss at the next instruction; past the image's end the slot traps, with the index past the end, LENGTH or more, in its record
(R56, R58; log 128). -/
def execInstructionFetchMiss (c : CoreId) (k : KsId) (s : State) : Host.Outcome State Fault Refusal :=
  .next (
    let sl := s.slot c k
    if !s.coreUp c || sl.state != .running || sl.round.isSome then s
    else if sl.stopsAtIssue then s.stopNow c k
    else if sl.hdr.length ≤ sl.pc then s.trapSlot c k stMalformed
    else if (s.fetched c k).isSome then s
    else s.fetchLine c k)

/-! ## LOADING to RUNNING (R43, R44) -/

/-- Launch values: s0, s3, s4, s62, s63; the others stand as placement wrote them. -/
def KSlot.launch (sl : KSlot) (c : CoreId) : KSlot :=
  { sl with
    state := .running
    s := ((((sl.s.set 0 (BitVec.ofNat 64 sl.argVA)).set 3 (BitVec.ofNat 64 c.val)).set 4 (BitVec.ofNat 64 sl.ctx)).set 62
      (BitVec.ofNat 64 sl.csBase)).set 63 (BitVec.ofNat 64 sl.csBytes) }

/-- A LOADING slot is RUNNING once its first instruction is fetched; a fetch that fails traps it, and one that must wait leaves it
LOADING. -/
def execLoadingComplete (c : CoreId) (k : KsId) (s : State) : Host.Outcome State Fault Refusal :=
  .next (
    if !s.coreUp c || (s.slot c k).state != .loading then s
    else
      let s := if (s.fetched c k).isSome then s else s.fetchLine c k
      if (s.slot c k).state == .loading && (s.fetched c k).isSome then s.updSlot c k (fun sl => sl.launch c) else s)

/-! ## The decision to pre-empt (R315) -/

/-- An instance that may be pre-empted: of a command of lower priority that names a counter block, on a core that could hold the
waiting one. -/
def State.preemptable (s : State) (cm : Cmd) (qu : Queue) (h : KHeader) (x : Cmd) (c : CoreId) (k : KsId) : Bool :=
  x.prio < cm.prio && x.counter != 0 && !x.held && x.ending.isNone && s.coreCould qu.ctx qu.role h cm.bannedRegions c
    && (s.slot c k).state == .running && (s.slot c k).stop.isNone

/-- The instance to pre-empt: lowest priority, then most recently placed. -/
def State.victim (s : State) (cm : Cmd) (qu : Queue) (h : KHeader) : Option (CoreId × KsId) :=
  let cands := s.cmds.flatMap (fun x => x.insts.filterMap (fun i => match i.placed, i.ended with
    | some (c, k), false => if s.preemptable cm qu h x c k then some (x.prio, (s.slot c k).placedNo, c, k) else none
    | _, _ => none))
  (cands.foldl (fun b y => match b with
    | none => some y
    | some z => if y.1 < z.1 || (y.1 == z.1 && z.2.1 < y.2.1) then some y else b) none).map (fun y => y.2.2)

def execPreemptionDecision (q n : Nat) (s : State) : Host.Outcome State Fault Refusal :=
  .next (match s.cmd? q n, lookup s.queues q with
    | some cm, some qu =>
      if !s.waitsForCore cm then s else
      match s.kernelHeader qu.ctx qu.major qu.minor (cm.at 0x10 8) with
      | .ok (.ok h) =>
        if (List.finRange 96).any (s.coreTakes qu.ctx qu.role h cm.bannedRegions) then s else
        match s.victim cm qu h with
        | some (c, k) => s.updSlot c k (fun sl => { sl with stop := some .preempt })
        | none => s
      | _ => s
    | _, _ => s)

end Sys2Proof.Machine
end

