-- ==== Sys2Proof/Machine/Paths.lean ====
section
/-! DEFINITION. Paths of transfers inside the package (02, R23 to R25) and the widths of its links. -/

namespace Sys2Proof.Machine

/-! ## Dies and their edges (R23, R24) -/

/-- The edge that leaves a die: 0 joins dies 0 and 1, 1 joins 2 and 3, 2 joins 0 and 2, 3 joins 1 and 3. -/
def edgeOf (d : DieId) (horizontal : Bool) : Fin 4 :=
  if horizontal then ⟨d.val / 2, by omega⟩ else ⟨2 + d.val % 2, by omega⟩

/-- The die at the other end of an edge. -/
def crossEdge (d : DieId) (horizontal : Bool) : DieId :=
  if horizontal then dieN (d.val / 2 * 2 + (1 - d.val % 2)) else dieN ((1 - d.val / 2) * 2 + d.val % 2)

/-- An edge that carries no traffic: fenced itself, or an edge of a fenced die (R340; log 118). -/
def State.edgeCut (s : State) (d : DieId) (horizontal : Bool) : Bool :=
  s.edgeFenced[edgeOf d horizontal] || (s.part (.die d)).state == .fenced || (s.part (.die (crossEdge d horizontal))).state == .fenced

/-- The edges of a route, each by whether it is horizontal, from a die on. -/
def State.cutOn (s : State) : DieId → List Bool → Bool
  | _, [] => false
  | d, h :: r => s.edgeCut d h || s.cutOn (crossEdge d h) r

/-- The edges that traffic between two dies crosses (R24): their own edge, or the horizontal one first; where one of them is fenced, the
other way; where both ways are cut the first is named (log 118). -/
def State.dieRoute (s : State) (a b : DieId) : List Bool :=
  let ways : List Bool × List Bool :=
    match decide (a.val % 2 ≠ b.val % 2), decide (a.val / 2 ≠ b.val / 2) with
    | false, false => ([], [])
    | true, false => ([true], [false, true, false])
    | false, true => ([false], [true, false, true])
    | true, true => ([true, false], [false, true])
  if s.cutOn a ways.1 && !s.cutOn a ways.2 then ways.2 else ways.1

/-! ## The die fabric (R25) -/

/-- The next station of the ring. -/
def nextStation (st : Fin 8) (up : Bool) : Fin 8 := if up then st + 1 else st - 1

/-- Hops from a station to another in one direction. -/
def ringHops (a b : Fin 8) (up : Bool) : Nat := if up then (b.val + 8 - a.val) % 8 else (a.val + 8 - b.val) % 8

/-- The stations that a number of hops leaves, in order. -/
def ringWalk (up : Bool) : Nat → Fin 8 → List (Fin 8)
  | 0, _ => []
  | n + 1, st => st :: ringWalk up n (nextStation st up)

def State.segCut (s : State) (d : DieId) (st : Fin 8) : Bool := s.segFenced[8 * d.val + st.val]'(by have := d.isLt; have := st.isLt; omega)

/-- Whether a way round crosses a fenced segment between its ends. -/
def State.ringCut (s : State) (d : DieId) (a b : Fin 8) (up : Bool) : Bool :=
  ((ringWalk up (ringHops a b up) a).drop 1).any (s.segCut d)

/-- The direction round the ring: the shorter, increasing on a tie of 4 hops, the other where it would cross a fenced segment; where both
would, the rule's own (log 118). -/
def State.ringUp (s : State) (d : DieId) (a b : Fin 8) : Bool :=
  let short := decide (ringHops a b true ≤ ringHops a b false)
  if s.ringCut d a b short && !s.ringCut d a b (!short) then !short else short

/-- The segment links from one station of a die to another. -/
def State.ring (s : State) (d : DieId) (a b : Fin 8) : List FabLink :=
  let up := s.ringUp d a b
  (ringWalk up (ringHops a b up) a).map (fun st => .segment d st up)

/-- The links from a station of a die over edges to a station of the last die; an edge leaves from station 3 or 7 and arrives there. -/
def State.acrossDies (s : State) : DieId → Fin 8 → List Bool → Fin 8 → List FabLink
  | d, st, [], dest => s.ring d st dest
  | d, st, h :: r, dest =>
    let x : Fin 8 := if h then 3 else 7
    s.ring d st x ++ .edge d h :: s.acrossDies (crossEdge d h) x r dest

/-! ## From part to part -/

def clusterOf (c : CoreId) : Fin 24 := ⟨c.val / 4, by have := c.isLt; omega⟩

/-- The region that a part lies in. -/
def regionOfPart : Part → Option RegionId
  | .core c => some (regionOfCore c)
  | .region g => some g
  | _ => none

/-- The die that a part lies on; none: the service die. -/
def dieOfPart : Part → Option DieId
  | .core c => some (dieOfRegion (regionOfCore c))
  | .region g => some (dieOfRegion g)
  | .die d => some d
  | .darit p => some ⟨p.val / 2, by have := p.isLt; omega⟩
  | .host _ => none

/-- The die fabric station that a part is reached by (R25); a die as a whole, and the service die, by the service link (log 118). -/
def stationOf : Part → Fin 8
  | .core c => ⟨(regionOfCore c).val % 3, by omega⟩
  | .region g => ⟨g.val % 3, by omega⟩
  | .die _ => 5
  | .darit p => if p.val % 2 = 0 then 4 else 6
  | .host _ => 5

/-- The links between a part and the fabric of its region; `mem` is the region fabric station of a region's answers. -/
def partLinks (p : Part) (mem : Fin 7) (out : Bool) : List FabLink :=
  match p with
  | .core c => if out then [.corePort c true, .uplink (clusterOf c) true] else [.uplink (clusterOf c) false, .corePort c false]
  | .region g => [.station g mem out]
  | _ => []

/-- The link between a region fabric and its die fabric: station 6. -/
def dieStation (p : Part) (out : Bool) : List FabLink :=
  match regionOfPart p with
  | some g => [.station g 6 out]
  | none => []

/-- The path of a transfer from part to part; `mem` is the region fabric station of a region at either end: 2 its memory, 3 its stack's
controller. -/
def State.path (s : State) (a b : Part) (mem : Fin 7) : List FabLink :=
  let inside := match regionOfPart a, regionOfPart b with
    | some g, some h => g == h
    | _, _ => false
  let mid : List FabLink :=
    if inside then []
    else dieStation a true ++ (match dieOfPart a, dieOfPart b with
      | some d, some e => s.acrossDies d (stationOf a) (s.dieRoute d e) (stationOf b)
      | some d, none => s.ring d (stationOf a) 5 ++ [.service d true]
      | none, some e => .service e false :: s.ring e 5 (stationOf b)
      | none, none => []) ++ dieStation b false
  partLinks a mem true ++ mid ++ partLinks b mem false

/-! ## Widths and clocks (02, R29, R420) -/

/-- Bytes per beat of a link; a controller and a region memory move what a region fabric station does (log 119). -/
def linkBeatBytes : FabLink → Nat
  | .corePort _ _ => 512
  | .uplink _ _ => 1024
  | .station _ _ _ => 1024
  | .segment _ _ _ => 2048
  | .edge _ _ => 1024
  | .service _ _ => 256
  | .controller _ => 1024
  | .memory _ => 1024
  | .darit _ => 1020

/-- Beats of a transfer at a link. -/
def linkBeats (l : FabLink) (bytes : Nat) : Nat := max 1 (ceilDiv bytes (linkBeatBytes l))

/-- The island that clocks a link, as PWR_TEMPER_SEL numbers islands; none: an edge belongs to neither of its islands, and the manual
names none for a service link (log 119). -/
def linkIsland : FabLink → Option (Fin 200)
  | .corePort c _ => some ⟨152 + c.val / 4, by have := c.isLt; omega⟩
  | .uplink cl _ => some ⟨152 + cl.val, by have := cl.isLt; omega⟩
  | .station g _ _ => some ⟨176 + g.val, by have := g.isLt; omega⟩
  | .segment d st _ => some ⟨120 + 8 * d.val + st.val, by have := d.isLt; have := st.isLt; omega⟩
  | .edge _ _ => none
  | .service _ _ => none
  | .darit _ => none
  | .controller g => some ⟨108 + g.val, by have := g.isLt; omega⟩
  | .memory g => some ⟨176 + g.val, by have := g.isLt; omega⟩

/-- Beats of a time slot at the nominal clock. -/
def slotBeats : Nat := 8

/-- Beats that fit a time slot of a clock whose period is stretched by some percent: 8, 6 at 20 %, 5 at 40 % (R29, R420). -/
def beatsAt (stretch : Nat) : Nat := slotBeats * 100 / (100 + stretch)

/-- Beats that a link moves in this time slot; a Darit port sends one flit (R377). -/
def State.beatsOf (s : State) (l : FabLink) : Nat :=
  match l, linkIsland l with
  | .darit _, _ => 1
  | _, some i => beatsAt s.pwr.stretch[i]
  | _, none => slotBeats

/-! ## Messages lost on their way (R330, R335) -/

def clsCOMPUTE : Nat := 0
def clsFORWARD : Nat := 1

/-- Transfers that a test picks discarded; a request among them, or one whose reply is among them, gets no reply. -/
def State.dropTransfers (s : State) (p : Transfer → Bool) : State :=
  let gone := s.slots.waiting.filter p
  if gone.isEmpty then s
  else { s with
    slots := { s.slots with waiting := s.slots.waiting.filter (fun x => !p x) }
    fabric := s.fabric.map (fun w =>
      if w.stage == .served && gone.any (fun t => t.id == w.req.id && t.cls == clsCOMPUTE) then { w with stage := .lost } else w) }

end Sys2Proof.Machine
end

