-- ==== Sys2Proof/Machine/Forks.lean ====
section
/-! DEFINITION. FORK and CULL (11, R203 to R205; 01, R9, R14, R15; 12, R239). -/

namespace Sys2Proof.Machine

/-! ## Park areas (R219, R220) -/

/-- Stacked-memory address of a coil's park area. -/
def State.parkAddr (s : State) (coil : Nat) : Nat := s.tblPark + 2048 * coil

/-- Offsets of the listed vectors of a park area, 512 bytes each. -/
def parkVectors (three pair : Bool) : List Nat :=
  if three then (if pair then [0x000, 0x200] else [0x000])
  else (if pair then [0x000, 0x400, 0x600] else [0x000, 0x400])

/-- Bytes of stacked memory read and written by address. -/
def getStacked (a len : Nat) : Act (List Byte) := fun s =>
  match s.readLoc (.stacked a) len with
  | .ok bs => .ok (bs, s.noteRead (.stacked a) len)
  | .error e => .error e

def putStacked (a : Nat) (bs : List Byte) : Act Unit := fun s =>
  match s.writeLoc (.stacked a) bs with
  | .ok s' => .ok ((), s')
  | .error e => .error e

/-- Stacked-memory bytes copied where they can be read; the rest of the destination stays. -/
def copyReadable (from_ to_ len : Nat) : Act Unit := fun s =>
  match s.readLoc (.stacked from_) len with
  | .ok bs => putStacked to_ bs s
  | .error (.status _ _) => .ok ((), s)
  | .error e => .error e

/-! ## FORK -/

/-- A fork list entry. -/
structure ForkEntry where
  child : Nat
  coil : Option Nat
deriving DecidableEq, Repr

/-- The list, its reserved bits checked. -/
def forkList (ctx va count : Nat) : Act (List ForkEntry) := do
  let bs ← getVirt ctx va (8 * count)
  let ws := (List.range count).map (fun i => leAt bs (8 * i) 8)
  Act.need (ws.all (fun w => fld w 63 35 == 0)) stVersion
  return ws.map (fun w => { child := fld w 15 0, coil := if bit w 34 then some (fld w 33 16) else none })

/-- The coil entries a child's coil of k slices takes: aligned, FREE, in the table. -/
def State.coilsFree (s : State) (coil k : Nat) : Bool :=
  coil % k == 0 && coil + k ≤ 262144 && (List.range k).all (fun j => !hasKey s.coils (coil + j))

/-- Coil ids taken by a list, each entry's slices. -/
def takenCoils (es : List ForkEntry) (k : Nat) : List Nat :=
  es.flatMap (fun e => match e.coil with
    | some c => (List.range k).map (· + c)
    | none => [])

/-- Checks 1 and 2 of R204. -/
def forkChecks (es : List ForkEntry) (parentCoil : Option Bool) (k : Nat) : Act Unit := do
  let s ← get
  Act.need (es.all (fun e => !hasKey s.seqs e.child) && dupFree (es.map (·.child))) stMalformed
  Act.need (es.all (fun e => (match parentCoil with
      | some b => e.coil.isSome == b
      | none => true)
    && (match e.coil with
      | some c => s.coilsFree c k
      | none => true)) && dupFree (takenCoils es k)) stMalformed

/-- A parent coil's slice copied into a child's entry and park area; of one that its next run zeroes, what has been written (R14, R239). -/
def copyCoilSlice (x : Coil) (from_ to_ seqTail : Nat) (idle : Bool) : Act Unit := do
  let s ← get
  if !idle then
    for off in parkVectors x.threeGate x.pair do
      if x.reset then copyReadable (s.parkAddr from_ + off) (s.parkAddr to_ + off) 512
      else
        let bs ← getStacked (s.parkAddr from_ + off) 512
        putStacked (s.parkAddr to_ + off) bs
  modify (fun s => { s with coils := insertAt s.coils to_ { x with
    status := if idle then .idle else .parked
    hasSeq := true
    tail := decide (seqTail ≠ 0)
    core := 0
    row := 0
    unit := 0
    unitLo := 0
    holder := none } })

/-- The child's coil made from the parent's. -/
def copyCoil (parent child : Nat) : Act Unit := do
  let s ← get
  match lookup s.coils parent with
  | none => Act.fail stData
  | some x =>
    for j in List.range (2 ^ x.widthLog2) do
      match lookup s.coils (parent + j) with
      | none => Act.fail stData
      | some y =>
        if (← get).coilBad (parent + j) y then Act.lift (.error (s.coilErr (parent + j)))
        copyCoilSlice y (parent + j) (child + j) j (x.status == .idle)

/-- A root's coil (R239). -/
def rootCoil (ctx : Nat) : Coil :=
  { status := .idle, pair := false, reset := true, threeGate := false, hasSeq := true, tail := false, widthLog2 := 0,
    ctx := ctx, roundLen := 0, core := 0, roundSeq := 0, row := 0, unit := 0, unitLo := 0, steps := 0, holder := none,
    lastRun := 0, bad := false }

/-- An empty root's descriptor (R203). -/
def rootSeq (ctx num : Nat) (pool : Pool) (root : Nat) (coil : Option Nat) (cm : Cmd) : Seq :=
  { state := .live, inFlight := false, parent := none, coil := coil, kvFormat := pool.kvFormat, ctx := ctx, pool := num,
    root := root, length := 0, framePages := fld (cm.at 0x30 4) 28 16, seed := BitVec.ofNat 64 (cm.at 0x20 8),
    step := 0, user := BitVec.ofNat 64 (cm.at 0x28 8), bad := false }

/-- Children of a parent. -/
def forkChildren (ctx parent : Nat) (es : List ForkEntry) : Act Unit := do
  let p ← liveSeq ctx parent
  let s ← get
  let k := match p.coil with
    | some c => (match lookup s.coils c with
      | some x => 2 ^ x.widthLog2
      | none => 1)
    | none => 1
  forkChecks es (some p.coil.isSome) k
  let pool ← poolAt ctx p.pool
  let root := pool.rootId p.root
  let b ← pool.readBlock root
  Act.need (b.refs + es.length ≤ 65535) stRefcount
  pool.writeBlock root { b with refs := b.refs + es.length }
  for e in es do
    match p.coil, e.coil with
    | some pc, some cc => copyCoil pc cc
    | _, _ => pure ()
    modify (fun s => { s with seqs := insertAt s.seqs e.child { p with
      inFlight := false
      parent := some parent
      coil := e.coil } })

/-- Roots. -/
def forkRoots (ctx : Nat) (cm : Cmd) (es : List ForkEntry) : Act Unit := do
  let num := cm.at 0x30 2
  let pool ← openPool ctx num
  forkChecks es none 1
  let free ← pool.blocksFree
  Act.need (es.length ≤ free) stLimit
  for e in es do
    let j ← pool.popBlock
    pool.writeBlock j { level := pool.levels - 1, refs := 1, entries := emptyEntries }
    modify (fun s =>
      let s : State := { s with seqs := insertAt s.seqs e.child (rootSeq ctx num pool (pool.blockVA j) e.coil cm) }
      match e.coil with
      | some c => { s with coils := insertAt s.coils c (rootCoil ctx) }
      | none => s)

def forkAct (ctx : Nat) (cm : Cmd) : Act Unit := do
  let es ← forkList ctx (cm.at 0x10 8) (fld (cm.at 0x1C 4) 12 0)
  if bit (cm.at 0x18 4) 16 then forkChildren ctx (cm.at 0x18 2) es else forkRoots ctx cm es

def execFork (q n : Nat) (s : State) : Host.Outcome State Fault Refusal :=
  .next (match s.granted? q n tyFork with
    | none => s
    | some cm => match (forkAct (s.queueCtx q) cm).run s with
      | .ok (_, s) => s.updCmd q n (fun x => { x with phase := .ready })
      | .error e => s.cmdErr q n e)

/-! ## CULL -/

/-- The ids of a CULL, checked; an unreadable descriptor may be culled (R337). -/
def cullList (ctx va count : Nat) : Act (List Nat) := do
  let bs ← getVirt ctx va (8 * count)
  let ws := (List.range count).map (fun i => leAt bs (8 * i) 8)
  Act.need (ws.all (fun w => fld w 63 16 == 0)) stVersion
  let ids := ws.map (fun w => fld w 15 0)
  let s ← get
  Act.need (dupFree ids && ids.all (fun i => match lookup s.seqs i with
    | some q => s.seqBad i q || (q.state == .live && q.ctx == ctx)
    | none => false)) stMalformed
  return ids

def execCull (q n : Nat) (s : State) : Host.Outcome State Fault Refusal :=
  .next (match s.granted? q n tyCull with
    | none => s
    | some cm => match (cullList (s.queueCtx q) (cm.at 0x10 8) (fld (cm.at 0x18 4) 12 0)).run s with
      | .ok (ids, s) =>
        ((ids.foldl (fun s i => s.updSeq i (fun x => { x with state := .culling })) s).updCmd q n (fun x => { x with
          phase := .dispatched
          culls := ids })).runCulls
      | .error e => s.cmdErr q n e)

end Sys2Proof.Machine
end

