-- ==== Sys2Proof/Machine/Rounds.lean ====
section
/-! DEFINITION. ROUND commands and the residency of coils (12, R220 to R241). -/

namespace Sys2Proof.Machine

/-! ## List and descriptor (R225, R226) -/

/-- A round descriptor. -/
structure RoundDesc where
  three : Bool
  pair : Bool
  reset : Bool
  widthLog2 : Nat
  len : Nat
  xFmt : Nat
  wxFmt : Nat
  whFmt : Nat
  outFmt : Nat
  inDim : Nat
  xBase : Nat
  wxBase : Nat
  whBase : Nat
  outBase : Nat
deriving DecidableEq, Repr

def roundDescOf (bs : List Byte) : RoundDesc :=
  let w0 := leAt bs 0 4
  let w1 := leAt bs 4 4
  { three := bit w0 16, pair := bit w0 17, reset := bit w0 18, widthLog2 := fld w0 20 19, len := fld w1 8 0,
    xFmt := fld w1 13 9, wxFmt := fld w1 18 14, whFmt := fld w1 23 19, outFmt := fld w1 28 24, inDim := leAt bs 8 2,
    xBase := leAt bs 0x10 8, wxBase := leAt bs 0x18 8, whBase := leAt bs 0x20 8, outBase := leAt bs 0x28 8 }

def roundDescClean (bs : List Byte) : Bool :=
  fld (leAt bs 0 4) 7 0 == 0 && fld (leAt bs 0 4) 15 8 == 1 && fld (leAt bs 0 4) 31 21 == 0
    && fld (leAt bs 4 4) 31 29 == 0 && leAt bs 0xA 6 == 0 && (bs.drop 0x30).all (· == 0)

/-- Gates of a cell. -/
def RoundDesc.gates (d : RoundDesc) : Nat := if d.three then 3 else 4

/-- Hidden width and its slices. -/
def RoundDesc.slices (d : RoundDesc) : Nat := 2 ^ d.widthLog2
def RoundDesc.width (d : RoundDesc) : Nat := 128 * d.slices

/-- Members of a group (R232). -/
def groupSize (pair : Bool) : Nat := if pair then 64 else 128

/-- Ranges of a RUN's descriptor. -/
def RoundDesc.runOk (d : RoundDesc) : Bool :=
  1 ≤ d.len && d.len ≤ 256 && !d.reset && [d.xFmt, d.wxFmt, d.whFmt].all (fun f => 2 ≤ f && f ≤ 5)
    && (d.outFmt == 0 || d.outFmt == 2 || d.outFmt == 3) && 1 ≤ d.inDim && d.inDim ≤ 16384

/-- Ranges of a CONFIG's descriptor: the RUN fields are zero. -/
def RoundDesc.configOk (d : RoundDesc) : Bool :=
  1 ≤ d.len && d.len ≤ 256 && d.xFmt == 0 && d.wxFmt == 0 && d.whFmt == 0 && d.outFmt == 0 && d.inDim == 0
    && d.xBase == 0 && d.wxBase == 0 && d.whBase == 0 && d.outBase == 0

/-- F and V of R233 for a group of b members. -/
def RoundDesc.fixedBytes (d : RoundDesc) (b : Nat) : Nat :=
  let z := if d.three then (if d.pair then 2 else 1) else (if d.pair then 3 else 2)
  d.inDim * d.width * d.gates * (fmtBits d.wxFmt / 8) + d.width * d.width * d.gates * (fmtBits d.whFmt / 8)
    + b * 512 * d.slices * z

def RoundDesc.stepBytes (d : RoundDesc) (b : Nat) : Nat := b * (d.inDim * (fmtBits d.xFmt / 8) + d.width * d.gates * 4)

/-- S' of R233. -/
def RoundDesc.stepsHeld (d : RoundDesc) (b : Nat) : Nat := min d.len ((coreStoreBytes - d.fixedBytes b) / d.stepBytes b)

/-- Core store of a round kernel. -/
def RoundDesc.storeBytes (d : RoundDesc) (b : Nat) : Nat :=
  ceilDiv (d.fixedBytes b + d.stepsHeld b * d.stepBytes b) 65536 * 65536

/-- Whether a group of b members fits one step. -/
def RoundDesc.fits (d : RoundDesc) (b : Nat) : Bool := d.fixedBytes b + d.stepBytes b ≤ coreStoreBytes

/-! ## Checks (R229, R230) and classification (R227, R228) -/

def opRun : Nat := 0
def opPark : Nat := 1
def opUnpark : Nat := 2
def opConfig : Nat := 3
def opClose : Nat := 4

def Cmd.roundOp (cm : Cmd) : Nat := fld (cm.at 0x20 4) 2 0

/-- The entries, with their places in the list. -/
def roundList (ctx va count : Nat) : Act (List RoundEntry) := do
  let bs ← getVirt ctx va (8 * count)
  let ws := (List.range count).map (fun i => (i, leAt bs (8 * i) 8))
  Act.need (ws.all (fun w => fld w.2 31 27 == 0)) stVersion
  return ws.map (fun w => { coil := fld w.2 17 0, place := w.1, seq := fld w.2 63 32, resetAt := fld w.2 26 18 })

/-- A coil's group of entries may be opened: aligned, every slice FREE. -/
def State.mayOpen (s : State) (coil k : Nat) : Bool := s.coilsFree coil k

/-- One entry's part of check 2. -/
def State.entryOk (s : State) (ctx op : Nat) (d : RoundDesc) (e : RoundEntry) : Bool :=
  e.seq != 0 && (if op = opRun then e.resetAt ≤ d.len else e.resetAt == 0)
    && (match lookup s.coils e.coil with
      | none => op == opConfig && e.seq == 1 && s.mayOpen e.coil d.slices
      | some x =>
        !x.tail && x.ctx == ctx
          && (op != opRun || (x.threeGate == d.three && x.pair == d.pair && x.widthLog2 == d.widthLog2
                && x.roundLen == d.len && x.roundLen != 0))
          && (op != opClose || !x.hasSeq)
          && (op != opConfig || d.reset || (x.threeGate == d.three && x.widthLog2 == d.widthLog2))
          && (op != opConfig || x.widthLog2 == d.widthLog2
                || (e.coil % d.slices == 0 && (List.range d.slices).all (fun j =>
                      j < 2 ^ x.widthLog2 || !hasKey s.coils (e.coil + j)))))

/-- Whether an entry is applied by this command: ready under R227 or R228; otherwise it is skipped. -/
def State.entryReady (s : State) (op : Nat) (e : RoundEntry) : Bool :=
  match lookup s.coils e.coil with
  | none => true
  | some x => if x.roundSeq = 0xFFFFFFFF then op == opConfig && e.seq == 1 else e.seq == x.roundSeq + 1

/-- Entries cut into groups. -/
def groupsOf (pair : Bool) (es : List RoundEntry) : List (List RoundEntry) := runs (groupSize pair) es

/-- The checks of a ROUND: its descriptor's bytes and its entries. -/
def roundCheck (ctx : Nat) (cm : Cmd) : Act (List Byte × List RoundEntry) := do
  let op := cm.roundOp
  let es ← roundList ctx (cm.at 0x10 8) (fld (cm.at 0x24 4) 12 0)
  let db ← (if op = opRun || op = opConfig then getVirt ctx (cm.at 0x18 8) 64 else pure (leBytes 64 0x0100))
  Act.need (roundDescClean db) stVersion
  let d := roundDescOf db
  let s ← get
  for e in es do
    if (lookup s.coils e.coil).any (s.coilBad e.coil) then Act.lift (.error (s.coilErr e.coil))
  Act.need (dupFree (es.map (·.coil)) && (if op = opRun then d.runOk else op != opConfig || d.configOk)
    && es.all (s.entryOk ctx op d)) stMalformed
  let ready := es.filter (s.entryReady op)
  if op = opRun then Act.need ((groupsOf d.pair ready).all (fun g => d.fits g.length)) stLimit
  return (db, es)

/-! ## Residency (R220, R221, R231, R232) -/

/-- The byte address of a state row in a physical unit (R221, R463). -/
def unitRow (c : CoreId) (anvil unit row : Nat) : Nat := c.val * accBytes + 0x80000 * anvil + 0x10000 * unit + 512 * row

/-- Where a slice's vectors lie: park offset, anvil, unit. -/
def Coil.vectors (x : Coil) : List (Nat × Nat × Nat) :=
  if x.threeGate then [(0x000, 0, x.unit)] ++ (if x.pair then [(0x200, 0, x.unitLo)] else [])
  else [(0x000, 0, x.unit), (0x400, 1, x.unit)] ++ (if x.pair then [(0x600, 1, x.unitLo)] else [])

/-- A coil's slices: entry ids. -/
def Coil.slices (x : Coil) (coil : Nat) : List Nat := (List.range (2 ^ x.widthLog2)).map (· + coil)

/-- Statuses of a coil's slices changed together. -/
def State.setStatus (s : State) (coil : Nat) (st : CoilStatus) : State :=
  match lookup s.coils coil with
  | none => s
  | some x =>
    let s := (x.slices coil).foldl (fun s i => s.updCoil i (fun y => { y with status := st })) s
    (List.range (2 ^ x.widthLog2)).foldl (fun s j => s.refreshCoils (coreN (x.core.val + j))) s

/-- Whether a group is resident in list order on one core that may run it. -/
def State.groupResident (s : State) (cls : Nat) (pair : Bool) (g : List RoundEntry) : Bool :=
  match g.head?.bind (fun e => lookup s.coils e.coil) with
  | none => true
  | some x0 =>
    s.coreUp x0.core && s.regionTakes (regionOfCore x0.core) cls
      && ((List.range g.length).zip g).all (fun p => match lookup s.coils p.2.coil with
        | some x => x.status == .resident && x.core == x0.core && x.row == p.1 && x.unit == x0.unit
            && (!pair || x.unitLo == x0.unitLo)
        | none => false)

/-- Whether the members of a group are on their way into units in list order. -/
def State.groupComing (s : State) (g : List RoundEntry) : Bool :=
  match g.head?.bind (fun e => lookup s.coils e.coil) with
  | none => false
  | some x0 => ((List.range g.length).zip g).all (fun p => match lookup s.coils p.2.coil with
      | some x => (x.status == .unparking || x.status == .resident) && x.core == x0.core && x.row == p.1 && x.unit == x0.unit
      | none => false)

/-- Whether core c and the k - 1 after it, in one region, could take a group, were they not occupied (R40, R232, R238). -/
def State.groupCould (s : State) (ctx cls k : Nat) (c : CoreId) : Bool :=
  c.val % 8 + k ≤ 8 && s.regionTakes (regionOfCore c) cls
    && (List.range k).all (fun j =>
      let i := coreN (c.val + j)
      s.coreUp i && s.ownerOk ctx s.cores[i] && s.cores[i].exclusiveOk ctx {})

/-- Units per anvil that a group takes on each of its cores: its state's, and `extra`. -/
def groupUnits (pair : Bool) (extra : Nat) : Nat := (if pair then 2 else 1) + extra

/-- Whether core c and the k - 1 after it can take a group now, with a round kernel of so many bytes of core store (R233). -/
def State.groupCore (s : State) (ctx cls : Nat) (pair : Bool) (k bytes extra : Nat) (c : CoreId) : Bool :=
  s.groupCould ctx cls k c
    && (List.range k).all (fun j =>
      let co := s.cores[coreN (c.val + j)]
      co.freeSlot?.isSome && (bytes == 0 || (co.freeStore bytes).isSome)
        && decide (groupUnits pair extra ≤ co.freeUnits.length))

/-- Units free on every one of k cores. -/
def State.commonUnits (s : State) (c : CoreId) (k : Nat) : List Nat :=
  (s.cores[c]).freeUnits.filter (fun u => (List.range k).all (fun j => (s.cores[coreN (c.val + j)]).freeUnits.contains u))

/-- A group of parked coils sent to a core. -/
def State.sendGroup (s : State) (c : CoreId) (u lo : Nat) (g : List RoundEntry) : State :=
  ((List.range g.length).zip g).foldl (fun s p => match lookup s.coils p.2.coil with
    | none => s
    | some x =>
      let s := (List.range (2 ^ x.widthLog2)).foldl (fun s j => s.updCoil (p.2.coil + j) (fun y => { y with
        core := coreN (c.val + j)
        row := p.1
        unit := u
        unitLo := lo })) s
      s.setStatus p.2.coil .unparking) s

/-- A group brought nearer to residency: resident members parked, or the group sent to a core once every member is parked. -/
def State.bringGroup (s : State) (ctx cls : Nat) (pair : Bool) (k bytes extra : Nat) (g : List RoundEntry) : State :=
  if s.groupResident cls pair g || s.groupComing g then s
  else if g.all (fun e => match lookup s.coils e.coil with
      | some x => x.status == .parked || x.status == .idle
      | none => false) then
    match (List.finRange 96).find? (s.groupCore ctx cls pair k bytes extra) with
    | none => s
    | some c => match s.commonUnits c k with
      | u :: v :: _ => s.sendGroup c u (if pair then v else 0) g
      | [u] => if pair then s else s.sendGroup c u 0 g
      | [] => s
  else g.foldl (fun s e => match lookup s.coils e.coil with
      | some x => if x.status = .resident then s.setStatus e.coil .parking else s
      | none => s) s

/-! ## The round (R223, R233, R234) -/

/-- A vector of a coil from its slices' park areas. -/
def parkVector (coil k off : Nat) : Act (List Nat) := do
  let s ← get
  let vs ← (List.range k).mapM (fun j => do
    let bs ← getStacked (s.parkAddr (coil + j) + off) 512
    return (List.range 128).map (fun i => leAt bs (4 * i) 4))
  return vs.flatten

/-- FP32 words, or pairs, as numbers. -/
def vecNums (hi : List Nat) (lo : Option (List Nat)) : List Num :=
  match lo with
  | none => hi.map dec32
  | some l => (hi.zip l).map (fun p => decodeElem fFP32P (p.1 * 2 ^ 32 + p.2))

/-- A coil's state as of its last committed round. -/
def coilState (x : Coil) (coil : Nat) : Act StreamState := do
  let k := 2 ^ x.widthLog2
  let zero : List Num := List.replicate (128 * k) Num.zero
  if x.reset then return { h := zero, c := zero }
  let h0 ← parkVector coil k 0x000
  if x.threeGate then
    let lo ← (if x.pair then (parkVector coil k 0x200).map some else pure none)
    return { h := vecNums h0 lo, c := zero }
  let c0 ← parkVector coil k 0x400
  let lo ← (if x.pair then (parkVector coil k 0x600).map some else pure none)
  return { h := vecNums h0 none, c := vecNums c0 lo }

/-- Park vectors, offset and bytes, of slice j of a state. -/
def stateVectors (three pair : Bool) (st : StreamState) (j : Nat) : List (Nat × List Byte) :=
  let sl (xs : List Num) : List Num := (xs.drop (128 * j)).take 128
  let hi (xs : List Num) : List Byte := (sl xs).flatMap (fun x =>
    leBytes 4 (if pair then (convPair x).1 / 2 ^ 32 else enc32 (rnd32 x)))
  let lo (xs : List Num) : List Byte := (sl xs).flatMap (fun x => leBytes 4 ((convPair x).1 % 2 ^ 32))
  let plain (xs : List Num) : List Byte := (sl xs).flatMap (fun x => leBytes 4 (enc32 (rnd32 x)))
  if three then [(0x000, hi st.h)] ++ (if pair then [(0x200, lo st.h)] else [])
  else [(0x000, plain st.h), (0x400, hi st.c)] ++ (if pair then [(0x600, lo st.c)] else [])

/-- A matrix of rows of one format read from a context's space. -/
def getMatrix (ctx base rows cols fmt : Nat) : Act (List (List Num)) :=
  (List.range rows).mapM (fun r => do
    let len := cols * (fmtBits fmt / 8)
    let bs ← getVirt ctx (base + r * len) len
    return (unpackRow fmt cols bs).map (decodeElem fmt))

/-- One entry's round: its inputs' contributions, its steps from its state, the OUT rows that its commit writes (R233, R234). -/
def runEntry (ctx count : Nat) (d : RoundDesc) (wx wh : List (List Num)) (e : RoundEntry) :
    Act (StreamState × List (Nat × Nat × List Byte)) := do
  let s ← get
  match lookup s.coils e.coil with
  | none => Act.fail stData
  | some x =>
    let st ← coilState x e.coil
    let cols := d.width * d.gates
    let wxc := (List.range cols).map (column Num.nan wx)
    let whc := (List.range cols).map (column Num.nan wh)
    let xs ← (List.range d.len).mapM (fun t => do
      let len := d.inDim * (fmtBits d.xFmt / 8)
      let bs ← getVirt ctx (d.xBase + (t * count + e.place) * len) len
      let row := (unpackRow d.xFmt d.inDim bs).map (decodeElem d.xFmt)
      return wxc.map (fun c => (floatAcc fp32 true Num.zero
        ((runs (pairKpass d.xFmt d.wxFmt false) (products false row c)).map passSum)).1))
    let rnd (v : Num) : Num := decodeElem d.whFmt (conv d.whFmt false v).1
    let go (l : List (List Num)) (st : StreamState) := cellRun d.width d.three d.pair (stepKpass d.whFmt) rnd whc l st
    let zero : List Num := List.replicate d.width Num.zero
    let (fin, hs) :=
      if e.resetAt = 0 then go xs st
      else
        let a := go (xs.take (e.resetAt - 1)) st
        let b := go (xs.drop (e.resetAt - 1)) { h := zero, c := zero }
        (b.1, a.2 ++ b.2)
    let row (t : Nat) (h : List Num) : Nat × Nat × List Byte :=
      (e.coil, d.outBase + (t * count + e.place) * d.width * (fmtBits d.outFmt / 8),
        packRow d.outFmt (h.map (fun v => (conv d.outFmt false v).1)))
    return (fin, if d.outBase = 0 then [] else ((List.range d.len).zip hs).map (fun p => row p.1 p.2))

/-- What a group's round leaves to the commit: each slice's park vectors, and the OUT rows. -/
structure GroupOut where
  saves : List (Nat × List Byte)
  outs : List (Nat × Nat × List Byte)
deriving DecidableEq, Repr

/-- All entries of a group. -/
def runAll (ctx count : Nat) (d : RoundDesc) (es : List RoundEntry) : Act GroupOut := do
  let cols := d.width * d.gates
  let wx ← getMatrix ctx d.wxBase d.inDim cols d.wxFmt
  let wh ← getMatrix ctx d.whBase d.width cols d.whFmt
  let mut out : GroupOut := { saves := [], outs := [] }
  for e in es do
    let (fin, rows) ← runEntry ctx count d wx wh e
    out := { out with outs := out.outs ++ rows }
    for j in List.range d.slices do
      out := { out with
        saves := out.saves ++ (stateVectors d.three d.pair fin j).map (fun v => (2048 * (e.coil + j) + v.1, v.2)) }
  return out

/-! ## Round kernels (R41, R233) -/

/-- The cores that hold a coil's slices. -/
def Coil.cores (x : Coil) : List CoreId := (List.range (2 ^ x.widthLog2)).map (fun j => coreN (x.core.val + j))

/-- Whether a core has what a round kernel takes beyond the coil state. -/
def Core.takesRound (co : Core) (ctx bytes : Nat) : Bool :=
  co.exclusiveOk ctx {} && co.freeSlot?.isSome && (co.freeStore bytes).isSome && 2 ≤ co.freeUnits.length

/-- A round kernel's slot: in the coil's context, with two units and its core store. -/
def roundSlot (co : Core) (q n ctx bytes base coil no : Nat) : KSlot :=
  { KSlot.idle with
    state := .running
    ctx := ctx
    csUnits := bytes / 65536
    csBase := base
    accUnits := 2
    units := co.freeUnits.take 2
    cmd := some (q, n)
    placedNo := no
    round := some coil }

/-- A round kernel placed on one core. -/
def State.placeRound (q n ctx bytes coil : Nat) (s : State) (c : CoreId) : State :=
  let co := s.cores[c]
  match co.freeSlot?, co.freeStore bytes with
  | some k, some base =>
    { s with nextReq := s.nextReq + 1 }.updSlot c k (fun _ => roundSlot co q n ctx bytes base coil s.nextReq)
  | _, _ => s

/-- Whether a group's round kernel is on its cores. -/
def State.roundRuns (s : State) (q n coil : Nat) (x : Coil) : Bool :=
  x.cores.all (fun c => s.cores[c].slots.toList.any (fun sl => sl.cmd == some (q, n) && sl.round == some coil))

/-- What a failing access does to a dispatched ROUND: a part or a port that is away makes it wait. -/
def State.roundErr (s : State) (q n : Nat) (e : AccErr) : State :=
  match e with
  | .resetting g => s.logAbsent (.region g)
  | .hostDown _ => s
  | e => s.cmdErr q n e

/-- A running round kernel ended: its group's states and OUT rows are kept for the commit. -/
def State.finishRound (s : State) (q n : Nat) (cm : Cmd) (ctx : Nat) (d : RoundDesc) (g : List RoundEntry) (coil : Nat) : State :=
  match (runAll ctx (fld (cm.at 0x24 4) 12 0) d g).run s with
  | .ok (o, s) => (s.endRounds q n (· == coil)).updCmd q n (fun x => { x with
      roundDone := coil :: x.roundDone
      saves := x.saves ++ o.saves
      outs := x.outs ++ o.outs })
  | .error e => s.roundErr q n e

/-- One group of a RUN taken on: its running round kernel ends; a resident group's begins where its cores have room; any other group is
brought into units (R232, R233). -/
def State.runGroup (s : State) (q n : Nat) (cm : Cmd) (qu : Queue) (d : RoundDesc) (g : List RoundEntry) : State :=
  match g.head? with
  | none => s
  | some e => match lookup s.coils e.coil with
    | none => s
    | some x =>
      let bytes := d.storeBytes g.length
      if cm.roundDone.contains e.coil then s
      else if s.roundRuns q n e.coil x then s.finishRound q n cm qu.ctx d g e.coil
      else if s.groupResident qu.role d.pair g then
        if !s.quenched qu.ctx && x.cores.all (fun c => s.cores[c].takesRound qu.ctx bytes)
        then x.cores.foldl (State.placeRound q n qu.ctx bytes e.coil) s else s
      else s.bringGroup qu.ctx qu.role d.pair d.slices bytes 2 g

/-- A dispatched RUN taken on, group by group; with every round kernel ended it is ready to commit. -/
def State.continueRun (s : State) (q n : Nat) (cm : Cmd) (qu : Queue) (d : RoundDesc) : State :=
  let gs := groupsOf d.pair cm.rounds
  let s := gs.foldl (fun s g => s.runGroup q n cm qu d g) s
  s.updCmd q n (fun x =>
    if x.phase == .dispatched && gs.all (fun g => g.head?.all (fun e => x.roundDone.contains e.coil)) then { x with phase := .ready } else x)

/-- A group whose units are lost: its round runs again (R237); an UNPARK brings it back. -/
def State.restartRound (s : State) (q n coil : Nat) (pair : Bool) : State :=
  match s.cmd? q n with
  | none => s
  | some cm =>
    if cm.phase = .ended then s else
    match (groupsOf pair cm.rounds).find? (fun g => g.any (fun e => e.coil == coil)) with
    | none => s
    | some g =>
      let head := (g.head?.map RoundEntry.coil).getD coil
      let width := match lookup s.coils coil with
        | some x => 2 ^ x.widthLog2
        | none => 1
      let mine (i : Nat) : Bool := g.any (fun e => e.coil ≤ i && i < e.coil + width)
      (s.endRounds q n (· == head)).updCmd q n (fun x => { x with
        phase := if x.phase = .ready && (x.roundOp == opRun || x.roundOp == opUnpark) then .dispatched else x.phase
        roundDone := x.roundDone.filter (· != head)
        saves := x.saves.filter (fun w => !mine (w.1 / 2048))
        outs := x.outs.filter (fun w => !g.any (fun e => e.coil == w.1)) })

/-- The maximal stretches of entries whose coils have one format and width. -/
def State.alike (s : State) : List RoundEntry → List (List RoundEntry)
  | [] => []
  | e :: r =>
    let key (e : RoundEntry) : Option (Bool × Nat) := (lookup s.coils e.coil).map (fun x => (x.pair, x.widthLog2))
    match s.alike r with
    | (f :: g) :: t => if key e = key f then (e :: f :: g) :: t else [e] :: (f :: g) :: t
    | l => [e] :: l

/-- A dispatched UNPARK taken on. -/
def State.continueUnpark (s : State) (q n : Nat) (cm : Cmd) (qu : Queue) : State :=
  let out := cm.rounds.filter (fun e => match lookup s.coils e.coil with
    | some x => x.status != .resident && x.status != .unparking
    | none => false)
  let busy := cm.rounds.any (fun e => match lookup s.coils e.coil with
    | some x => x.status != .resident
    | none => false)
  if !busy then s.updCmd q n (fun x => { x with phase := .ready })
  else (s.alike out).foldl (fun s l =>
    match l.head?.bind (fun e => lookup s.coils e.coil) with
    | none => s
    | some x => (groupsOf x.pair l).foldl (fun s g => s.bringGroup qu.ctx qu.role x.pair (2 ^ x.widthLog2) 0 0 g) s) s

/-- Entries that must be parked before the operation can be applied: a CONFIG parks for another FMT (R230), or another width (log 139). -/
def State.mustPark (s : State) (op : Nat) (d : RoundDesc) (e : RoundEntry) : Bool :=
  match lookup s.coils e.coil with
  | none => false
  | some x => x.holdsUnits && (op == opPark || op == opClose || (op == opConfig && (x.pair != d.pair || x.widthLog2 != d.widthLog2)))

/-- A dispatched PARK, CONFIG or CLOSE taken on. -/
def State.continuePark (s : State) (q n : Nat) (cm : Cmd) (d : RoundDesc) : State :=
  let op := cm.roundOp
  if !cm.rounds.any (s.mustPark op d) then s.updCmd q n (fun x => { x with phase := .ready })
  else cm.rounds.foldl (fun s e => match lookup s.coils e.coil with
    | some x => if x.status = .resident && s.mustPark op d e then s.setStatus e.coil .parking else s
    | none => s) s

/-- A dispatched ROUND taken on. -/
def State.continueRound (s : State) (q n : Nat) : State :=
  match s.cmd? q n, lookup s.queues q with
  | some cm, some qu =>
    if cm.phase != .dispatched || cm.type != tyRound || cm.held then s else
    let op := cm.roundOp
    let d := roundDescOf cm.desc
    if op = opUnpark then s.continueUnpark q n cm qu
    else if op = opRun then s.continueRun q n cm qu d
    else s.continuePark q n cm d
  | _, _ => s

/-! ## The rows -/

/-- The region whose firmware dispatches a ROUND: of those whose role its queue may use, the first in service, else the first (log 140). -/
def State.firmwareOf (s : State) (cls : Nat) : RegionId :=
  let home := s.roleRegions cls
  (home.find? (fun g => s.regionState g == .inService)).getD (home.headD 0)

/-- A ROUND's dispatch: checks, skips counted, coils held; then as far as it can go (R227, R229). -/
def State.roundDispatch (s : State) (q n : Nat) (cm : Cmd) (qu : Queue) : State :=
  match (roundCheck qu.ctx cm).run s with
  | .error e => s.cmdErr q n e
  | .ok ((desc, es), s) =>
    let op := cm.roundOp
    let home := s.roleRegions qu.role
    if home.isEmpty then s.endCmd q n stLimit false
    else if home.all (fun g => s.regionState g == .fenced) then (s.holdCmd q n .roles).requeue q n
    else
      let ready := es.filter (s.entryReady op)
      let s := s.updCnt (s.firmwareOf qu.role) (fun r => { r with coilSkip := r.coilSkip + BitVec.ofNat 64 (es.length - ready.length) })
      let s := ready.foldl (fun s e => s.updCoil e.coil (fun x => { x with holder := some (q, n) })) s
      (s.updCmd q n (fun x => { x with phase := .dispatched, rounds := ready, desc := desc })).continueRound q n

/-- A row of a ROUND operation: dispatches a granted command, or takes a dispatched one on. -/
def State.roundRow (s : State) (q n op : Nat) : State :=
  match s.cmd? q n, lookup s.queues q with
  | some cm, some qu =>
    if cm.type != tyRound || cm.roundOp != op then s
    else if cm.phase = .granted then s.roundDispatch q n cm qu
    else s.continueRound q n
  | _, _ => s

def execRoundRun (q n : Nat) (s : State) : Host.Outcome State Fault Refusal := .next (s.roundRow q n opRun)
def execRoundPark (q n : Nat) (s : State) : Host.Outcome State Fault Refusal := .next (s.roundRow q n opPark)
def execRoundUnpark (q n : Nat) (s : State) : Host.Outcome State Fault Refusal := .next (s.roundRow q n opUnpark)
def execRoundConfig (q n : Nat) (s : State) : Host.Outcome State Fault Refusal := .next (s.roundRow q n opConfig)
def execRoundClose (q n : Nat) (s : State) : Host.Outcome State Fault Refusal := .next (s.roundRow q n opClose)

/-- The commands that wait for a coil taken on. -/
def State.continueHolder (s : State) (coil : Nat) : State :=
  match lookup s.coils coil with
  | some x => (match x.holder with
    | some (q, n) => s.continueRound q n
    | none => s)
  | none => s

/-- A slice's state written into its units. -/
def unitPieces (x : Coil) (vs : List (Nat × List Byte)) : List (Nat × List Byte) :=
  x.vectors.filterMap (fun v => (vs.find? (fun w => w.1 == v.1)).map (fun w => (unitRow x.core v.2.1 v.2.2 x.row, w.2)))

/-- The bytes of a slice's vectors: +0 for a coil that is to be reset, else its park area. -/
def State.sliceBytes (s : State) (x : Coil) (i : Nat) : Except AccErr (List (Nat × List Byte)) :=
  x.vectors.mapM (fun v =>
    if x.reset then .ok (v.1, zeros 512)
    else (s.readLoc (.stacked (s.parkAddr i + v.1)) 512).map (fun bs => (v.1, bs)))

/-- The state written into the units: RESIDENT (R220). -/
def State.unparkDone (s : State) (coil : Nat) (x : Coil) : State :=
  match (x.slices coil).mapM (fun i => match lookup s.coils i with
    | some y => (s.sliceBytes y i).map (unitPieces y)
    | none => .ok []) with
  | .error e => (match x.holder with
    | some (q, n) => s.roundErr q n e
    | none => s)
  | .ok ps =>
    let s : State := { s with accMem := s.accMem.forcePieces (Config.freeByte s.freshCtr) ps.flatten }
    ((s.setStatus coil .resident).updCnt (regionOfCore x.core) (fun r => { r with coilUnpark := r.coilUnpark + 1 })).continueHolder coil

def execCoilUnparkComplete (coil : Nat) (s : State) : Host.Outcome State Fault Refusal :=
  .next (match lookup s.coils coil with
    | some x => if x.status = .unparking && !x.tail then s.unparkDone coil x else s
    | none => s)

def execCoilParkComplete (coil : Nat) (s : State) : Host.Outcome State Fault Refusal :=
  .next (match lookup s.coils coil with
    | some x => if x.status = .parking && !x.tail then (s.setStatus coil .parked).continueHolder coil else s
    | none => s)

/-! ## Eviction (R236) -/

/-- The eligible cores of a KERNEL that waits for one, and the units it takes. -/
def State.kernelWants (s : State) (cm : Cmd) : Option (List CoreId × Nat) :=
  match lookup s.queues cm.q with
  | none => none
  | some qu =>
    if !s.waitsForCore cm then none else
    match s.kernelHeader qu.ctx qu.major qu.minor (cm.at 0x10 8) with
    | .ok (.ok h) => some ((List.finRange 96).filter (s.coreCould qu.ctx qu.role h cm.bannedRegions), h.unitsNeeded)
    | _ => none

/-- The eligible cores of a parked group, by their first, and the units it takes on each; of a resident group whose round kernel has not
begun, its own cores. -/
def State.groupWants (s : State) (cm : Cmd) (qu : Queue) (pair : Bool) (k extra : Nat) (g : List RoundEntry) : Option (List CoreId × Nat) :=
  match g.head?.bind (fun e => (lookup s.coils e.coil).map (fun x => (e.coil, x))) with
  | none => none
  | some (coil, x) =>
    if s.groupResident qu.role pair g then
      if extra = 0 || cm.roundDone.contains coil || s.roundRuns cm.q cm.n coil x then none else some (x.cores, extra)
    else if s.groupComing g then none
    else some (((List.finRange 96).filter (s.groupCould qu.ctx qu.role k)).flatMap (fun c =>
      (List.range k).map (fun j => coreN (c.val + j))), groupUnits pair extra)

/-- What the groups of a dispatched RUN or UNPARK wait for. -/
def State.roundWants (s : State) (cm : Cmd) : List (List CoreId × Nat) :=
  match lookup s.queues cm.q with
  | none => []
  | some qu =>
    if cm.type != tyRound || cm.phase != .dispatched || cm.held then []
    else if cm.roundOp = opRun then
      let d := roundDescOf cm.desc
      (groupsOf d.pair cm.rounds).filterMap (s.groupWants cm qu d.pair d.slices 2)
    else if cm.roundOp = opUnpark then
      (s.alike cm.rounds).flatMap (fun l => match l.head?.bind (fun e => lookup s.coils e.coil) with
        | none => []
        | some x => (groupsOf x.pair l).filterMap (s.groupWants cm qu x.pair (2 ^ x.widthLog2) 0))
    else []

/-- The cores on which something waits for accumulator units, because every eligible core lacks them. -/
def State.unitsWanted (s : State) : List CoreId :=
  (s.cmds.filterMap s.kernelWants ++ s.cmds.flatMap s.roundWants).flatMap (fun w =>
    if w.1.all (fun c => s.cores[c].freeUnits.length < w.2) then w.1 else [])

/-- Resident coils that share units with one. -/
def State.groupWith (s : State) (x : Coil) : List (Nat × Coil) :=
  s.coils.filter (fun e => !e.2.tail && e.2.status == .resident && e.2.core == x.core && e.2.unit == x.unit)

/-- When a group ran last. -/
def groupRan (g : List (Nat × Coil)) : Nat := (g.map (fun e => e.2.lastRun)).foldl max 0

/-- The groups that could give their units to what waits: resident, no member held by a dispatched command. -/
def State.evictable (s : State) : List (Coil × List (Nat × Coil)) :=
  let want := s.unitsWanted
  ((s.coils.filter (fun e => !e.2.tail && e.2.status == .resident)).map (fun e => (e.2, s.groupWith e.2))).filter (fun g =>
    g.2.all (fun e => e.2.holder.isNone) && g.1.cores.any (fun c => want.contains c))

/-- The least recently run of those groups is parked, if it lies on the core that sends the event; of groups that ran at the same time,
one on that core (R236; log 141). -/
def execCoilEviction (c : CoreId) (s : State) : Host.Outcome State Fault Refusal :=
  .next (
    let gs := s.evictable
    match gs.find? (fun g => g.1.cores.contains c && gs.all (fun o => groupRan g.2 ≤ groupRan o.2)) with
    | none => s
    | some (x, group) =>
      (group.foldl (fun s e => s.setStatus e.1 .parking) s).updCnt (regionOfCore x.core) (fun r =>
        { r with coilEvict := r.coilEvict + BitVec.ofNat 64 group.length }))

/-! ## The commit (R228, R230, R231, R234) -/

/-- A coil's RUN committed: park areas and units, STEPS, RESET, ROUND_SEQ. -/
def commitRun (cm : Cmd) (len : Nat) (e : RoundEntry) : Act Unit := do
  let s ← get
  match lookup s.coils e.coil with
  | none => pure ()
  | some x =>
    for i in x.slices e.coil do
      let vs := (cm.saves.filter (fun w => w.1 / 2048 == i)).map (fun w => (w.1 % 2048, w.2))
      for v in vs do
        putStacked (s.parkAddr i + v.1) v.2
      match lookup s.coils i with
      | some y => if y.holdsUnits then
          modify (fun s => { s with accMem := s.accMem.forcePieces (Config.freeByte s.freshCtr) (unitPieces y vs) })
      | none => pure ()
    modify (fun s =>
      let s := (x.slices e.coil).foldl (fun s i => s.updCoil i (fun y => { y with
        steps := if e.resetAt = 0 then satAdd 48 (if y.reset then 0 else y.steps) len else len - e.resetAt + 1
        reset := false
        roundSeq := e.seq
        lastRun := s.timeNs })) s
      s.updCnt (regionOfCore x.core) (fun r => { r with coilRound := r.coilRound + 1 }))

/-- A coil opened, or an open coil's parameters changed (R230). -/
def commitConfig (ctx : Nat) (d : RoundDesc) (e : RoundEntry) : Act Unit := do
  let s ← get
  let fresh : Coil := { rootCoil ctx with hasSeq := false, lastRun := 0 }
  let old := lookup s.coils e.coil
  let x := old.getD fresh
  if old.isSome && d.pair && !x.pair && !x.reset && !d.reset then
    for i in x.slices e.coil do
      putStacked (s.parkAddr i + (if x.threeGate then 0x200 else 0x600)) (zeros 512)
  let reset := x.reset || d.reset
  let y : Coil := { x with
    threeGate := d.three
    pair := d.pair
    widthLog2 := d.widthLog2
    roundLen := d.len
    reset := reset
    roundSeq := e.seq
    status := if d.reset && x.status == .parked then .idle else x.status }
  modify (fun s =>
    let s := (x.slices e.coil).foldl (fun s i => { s with coils := eraseAt s.coils i }) s
    (List.range d.slices).foldl (fun s j => { s with coils := insertAt s.coils (e.coil + j) { y with
      tail := decide (j ≠ 0)
      core := coreN (x.core.val + j) } }) s)

/-- ROUND_SEQ advanced, nothing else. -/
def commitSeq (e : RoundEntry) : Act Unit :=
  modify (fun s => match lookup s.coils e.coil with
    | some x => (x.slices e.coil).foldl (fun s i => s.updCoil i (fun y => { y with roundSeq := e.seq })) s
    | none => s)

/-- What a ROUND's commit applies: its entries' changes, and the OUT rows. -/
def commitRound (ctx : Nat) (cm : Cmd) : Act Unit := do
  let op := cm.roundOp
  let d := roundDescOf cm.desc
  for e in cm.rounds do
    if op = opRun then commitRun cm d.len e
    else if op = opConfig then commitConfig ctx d e
    else if op = opClose then modify (fun s => s.eraseCoil e.coil)
    else commitSeq e
  for o in cm.outs do
    putVirt ctx o.2.1 o.2.2

end Sys2Proof.Machine
end

