-- ==== Sys2Proof/Machine/Route.lean ====
section
/-! DEFINITION. Darit shapes, node ids and routes (19, R374 to R378). -/

namespace Sys2Proof.Machine

/-! ## Shapes (R374) -/

def Darit.sizes (d : Darit) : List Nat := [d.sizeX, d.sizeY, d.sizeZ]
def Darit.coords (d : Darit) : List Nat := [d.x, d.y, d.z]

/-- The shapes of R374, and the single device. -/
def shapeOk (x y z : Nat) : Bool :=
  (x == 1 && y == 1 && z == 1)
    || (2 ≤ x && x ≤ 64 && y == 1 && z == 1)
    || (2 ≤ x && x ≤ 64 && 2 ≤ y && y ≤ 64 && z == 1 && x * y ≤ 4096)
    || (2 ≤ x && x ≤ 16 && 2 ≤ y && y ≤ 16 && 2 ≤ z && z ≤ 16 && 8 ≤ x * y * z && x * y * z ≤ 4096)

/-- A valid shape, with coordinates below the sizes. -/
def Darit.shapeValid (d : Darit) : Bool :=
  shapeOk d.sizeX d.sizeY d.sizeZ && d.x < d.sizeX && d.y < d.sizeY && d.z < d.sizeZ

def nodeAt (sizes coords : List Nat) : Nat :=
  coords.getD 0 0 + sizes.getD 0 1 * (coords.getD 1 0 + sizes.getD 1 1 * coords.getD 2 0)

def Darit.nodeId (d : Darit) : Nat := nodeAt d.sizes d.coords % 4096

/-- Coordinates of a node id. -/
def nodeCoords (sizes : List Nat) (n : Nat) : List Nat :=
  [n % sizes.getD 0 1, n / sizes.getD 0 1 % sizes.getD 1 1, n / (sizes.getD 0 1 * sizes.getD 1 1)]

/-! ## Trunks (R375, R378) -/

/-- Whether a trunk of this device has a member that is UP. -/
def Darit.ownTrunkUp (d : Darit) (dim : Nat) (minus : Bool) : Bool :=
  d.ports.toList.any (fun p => p.st == .up && p.dim == dim && p.dir == minus)

/-- Whether the trunk of a node is up, as flooded. -/
def Darit.trunkUp (d : Darit) (node dim : Nat) (minus : Bool) : Bool :=
  if node = d.nodeId then d.ownTrunkUp dim minus else !d.downTrunks.contains (node, dim, minus)

/-! ## Routes (R376, R378) -/

/-- One coordinate moved by one hop. -/
def hop (sizes coords : List Nat) (dim : Nat) (minus : Bool) : List Nat :=
  let n := sizes.getD dim 1
  let c := coords.getD dim 0
  coords.set dim (if minus then (c + n - 1) % n else (c + 1) % n)

/-- Moves in one direction until the destination's coordinate; none where a trunk on the way is down: fuel, place,
hops. -/
def walkDim (d : Darit) (dim : Nat) (minus : Bool) (goal : Nat) : Nat → List Nat → Nat → Option (List Nat × Nat)
  | 0, c, h => if c.getD dim 0 = goal then some (c, h) else none
  | f + 1, c, h =>
    if c.getD dim 0 = goal then some (c, h)
    else if d.trunkUp (nodeAt d.sizes c) dim minus then walkDim d dim minus goal f (hop d.sizes c dim minus) (h + 1)
    else none

/-- The shorter direction of a dimension, + when equal (R376). -/
def shorter (n c goal : Nat) : Bool := decide ((c + n - goal) % n < (goal + n - c) % n)

/-- The next dimension in the order X, Y, Z, X that has more than one device. -/
def nextDim (sizes : List Nat) (dim : Nat) : Option Nat :=
  ([1, 2].map (fun i => (dim + i) % 3)).find? (fun e => 1 < sizes.getD e 1)

/-- The route to a node: fuel of legs, place so far (R376, R378). -/
def routeGo (d : Darit) (goal : List Nat) : Nat → RouteAcc → Option RouteAcc
  | 0, _ => none
  | f + 1, r =>
    match (List.range 3).find? (fun i => r.coords.getD i 0 != goal.getD i 0) with
    | none => some r
    | some dim =>
      let n := d.sizes.getD dim 1
      let m := shorter n (r.coords.getD dim 0) (goal.getD dim 0)
      let note (c : List Nat) (h : Nat) (dt : Bool) (t : Nat × Bool) : RouteAcc :=
        { coords := c, hops := r.hops + h, detour := r.detour || dt, first := some (r.first.getD t) }
      match walkDim d dim m (goal.getD dim 0) n r.coords 0 with
      | some (c, h) => routeGo d goal f (note c h false (dim, m))
      | none => match walkDim d dim (!m) (goal.getD dim 0) n r.coords 0 with
        | some (c, h) => routeGo d goal f (note c h true (dim, !m))
        | none => match nextDim d.sizes dim with
          | none => none
          | some e =>
            let here := nodeAt d.sizes r.coords
            if d.trunkUp here e false then routeGo d goal f (note (hop d.sizes r.coords e false) 1 true (e, false))
            else if d.trunkUp here e true then routeGo d goal f (note (hop d.sizes r.coords e true) 1 true (e, true))
            else none

/-- The route from this device to a node, if there is one. -/
def Darit.route (d : Darit) (node : Nat) : Option RouteAcc :=
  if !d.shapeValid || d.sizeX * d.sizeY * d.sizeZ ≤ node then none
  else routeGo d (nodeCoords d.sizes node) 16 { coords := d.coords, hops := 0, detour := false, first := none }

end Sys2Proof.Machine
end

