-- ==== Sys2Proof/Machine/CopyCmds.lean ====
section
/-! DEFINITION. COPY and FILL (15, R274 to R280; 19, R383). -/

namespace Sys2Proof.Machine

/-! ## Flash contents (R287, R288) -/

def flashBlock : Nat := 4096

/-- Logical blocks of the data partition (R287). -/
def Flash.dataBlocks (f : Flash) : Nat := 1562500000 - f.snap8 * 1953125

/-- Logical blocks of a byte range. -/
def lbasOf (addr len : Nat) : List Nat := (List.range (ceilDiv len flashBlock)).map (· + addr / flashBlock)

/-- A byte range of flash read: uncorrectable blocks fail (R278). -/
def Flash.read (f : Flash) (addr len : Nat) : Option (List Byte) :=
  if f.state == .failed || (lbasOf addr len).any (fun b => f.bad.contains b) then none else some (spaceRead f.cells addr len)

/-! ### Erase blocks (R290 to R292; log 147) -/

/-- 4,096-byte units of an erase block, and the erase blocks outside the firmware pool. -/
def eraseUnits : Nat := 512
def eraseBlocks : Nat := 3814697

def Flash.cyclesOf (f : Flash) (b : Nat) : Nat := (lookup f.cycles b).getD 0

/-- Whether an erase block holds no data and is not being filled. -/
def Flash.isFree (f : Flash) (b : Nat) : Bool := !f.mapped.any (fun e => e.2 == b) && f.opened.all (fun o => o.1 != b)

/-- The free block with the fewest program/erase cycles, the lowest of them; a block never opened has none. -/
def Flash.freshBlock (f : Flash) : Nat :=
  match findBelow (fun b => !hasKey f.cycles b) (min (f.cycles.length + 1) eraseBlocks) with
  | some b => b
  | none => ((f.cycles.filter (fun e => f.isFree e.1)).foldl (fun (a : Option (Nat × Nat)) e => match a with
      | none => some e
      | some x => if e.2 < x.2 then some e else a) none).elim 0 (·.1)

/-- A fresh block erased and opened: one cycle more. -/
def Flash.openFresh (f : Flash) : Flash :=
  let b := f.freshBlock
  { f with cycles := insertAt f.cycles b (f.cyclesOf b + 1), opened := some (b, 0), reads := eraseAt f.reads b }

/-- One unit programmed: its key mapped to the block being filled. -/
def Flash.program (f : Flash) (key : Nat) : Flash :=
  let f := match f.opened with
    | some (_, n) => if n < eraseUnits then f else f.openFresh
    | none => f.openFresh
  match f.opened with
  | some (b, n) => { f with mapped := insertAt f.mapped key b, opened := some (b, n + 1), mediaWr := f.mediaWr + 1 }
  | none => f

/-- The valid units of an erase block moved to a fresh one. -/
def Flash.moveBlock (f : Flash) (b : Nat) : Flash :=
  let keys := (f.mapped.filter (fun e => e.2 == b)).map (·.1)
  keys.foldl Flash.program { f with opened := if f.opened.any (fun o => o.1 == b) then none else f.opened }

/-- LIFE_USED: the mean cycles used as a percentage of 3,000, at most 255 (R292, R294). -/
def Flash.lifeUsed (f : Flash) : Nat := min 255 ((f.cycles.map (·.2)).sum * 100 / (eraseBlocks * 3000))

/-- Reads of mapped blocks counted for their erase blocks (R291). -/
def Flash.countReads (f : Flash) (keys : List Nat) : Flash :=
  { f with reads := keys.foldl (fun t k => match lookup f.mapped k with
      | some b => insertAt t b ((lookup t b).getD 0 + 1)
      | none => t) f.reads }

/-- Whole blocks written: fresh mappings, counted (R288, R294). -/
def Flash.write (f : Flash) (addr : Nat) (bytes : List Byte) : Flash :=
  let bs := lbasOf addr bytes.length
  let f := { f with
    cells := spaceWrite f.cells addr bytes
    bad := f.bad.filter (fun b => !bs.contains b)
    hostWr := f.hostWr + BitVec.ofNat 64 bs.length }
  bs.foldl Flash.program f

/-- The keys of blocks of a snapshot's image. -/
def snapKeys (i : Fin 16) (first n : Nat) : List Nat := (List.range n).map (fun j => 2 ^ 31 + i.val * 2 ^ 27 + first + j)

/-- Blocks of a snapshot's image programmed. -/
def Flash.programSnap (f : Flash) (i : Fin 16) (first n : Nat) : Flash :=
  (snapKeys i first n).foldl Flash.program { f with hostWr := f.hostWr + BitVec.ofNat 64 n }

/-- Blocks unmapped: they read as zero bytes (R280, R288). -/
def Flash.unmap (f : Flash) (lba n : Nat) : Flash :=
  { f with
    cells := f.cells.filter (fun e => e.1 < lba * flashBlock || (lba + n) * flashBlock ≤ e.1)
    mapped := f.mapped.filter (fun e => e.1 < lba || lba + n ≤ e.1)
    bad := f.bad.filter (fun b => b < lba || lba + n ≤ b) }

/-! ## Operands (R274, R306) -/

/-- One operand of a COPY or FILL. -/
structure Extent where
  kind : Nat
  node : Nat
  addr : Nat
  rows : Nat
  rowBytes : Nat
  stride : Nat
deriving DecidableEq, Repr

def Cmd.extent (cm : Cmd) (off strideOff : Nat) : Extent :=
  let w := cm.at off 8
  { kind := fld w 49 48, node := fld w 63 52, addr := fld w 47 0, rows := fld (cm.at 0x34 4) 24 0,
    rowBytes := cm.at 0x30 4, stride := cm.at strideOff 8 }

def Cmd.srcExtent (cm : Cmd) : Extent := cm.extent 0x10 0x20
def Cmd.dstExtent (cm : Cmd) : Extent := cm.extent 0x18 0x28
def Cmd.discard (cm : Cmd) : Bool := bit (cm.at 0x34 4) 25

/-- Bytes from the first row's start to the last row's end. -/
def Extent.span (e : Extent) : Nat := (e.rows - 1) * e.stride + e.rowBytes

def Extent.bytes (e : Extent) : Nat := e.rows * e.rowBytes

/-- Whether the extent lies on this device's memory: MEM, or REMOTE to the own node (R383). -/
def Extent.local? (e : Extent) (d : Darit) : Bool := e.kind == 0 || (e.kind == 2 && e.node == d.nodeId)

/-- Ranges of R274 and the space or flash extent of R275. -/
def Extent.rangeOk (e : Extent) (c : Ctx) (data : Nat) : Bool :=
  e.kind ≤ 2 && 1 ≤ e.rows && e.rows ≤ 16777216 && 1 ≤ e.rowBytes && e.bytes ≤ 2 ^ 40
    && (e.rows == 1 || e.rowBytes ≤ e.stride)
    && (if e.kind = 1 then
          (e.rows == 1 || e.stride == e.rowBytes) && e.bytes % flashBlock == 0
            && c.flashBase ≤ e.addr && e.addr + e.bytes / flashBlock ≤ c.flashBase + c.flashBlocks
            && e.addr + e.bytes / flashBlock ≤ data
        else e.addr + e.span ≤ 2 ^ 48)

/-- Whether the bounding ranges of two operands of one kind overlap (R275). -/
def Extent.overlaps (a b : Extent) : Bool :=
  if a.kind ≠ b.kind || (a.kind == 2 && a.node != b.node) then false
  else
    let len (e : Extent) : Nat := if e.kind = 1 then e.bytes / flashBlock else e.span
    a.addr < b.addr + len b && b.addr < a.addr + len a

/-! ## Moving rows -/

/-- Row r of a source. -/
def State.readExtent (s : State) (ctx : Nat) (e : Extent) (r : Nat) : Except AccErr (List Byte) :=
  if e.local? s.darit then s.readVirt none ctx (e.addr + r * e.stride) e.rowBytes
  else if e.kind = 1 then match s.fls.read (e.addr * flashBlock + r * e.rowBytes) e.rowBytes with
    | some bs => .ok bs
    | none => .error (.status stData .none)
  else match s.darit.route e.node with
    | none => .error (.noRoute e.node)
    | some _ => .ok ((List.range e.rowBytes).map (fun i =>
        BitVec.ofNat 8 (Config.freeNat 2 [e.node, ctx, e.addr + r * e.stride + i, s.freshCtr])))

/-- Row r written into a destination in memory; a destination on another device lies outside the model. -/
def State.writeExtent (s : State) (ctx : Nat) (e : Extent) (r : Nat) (bs : List Byte) : Except AccErr State :=
  if e.local? s.darit then s.writeVirt none ctx (e.addr + r * e.stride) bs
  else match s.darit.route e.node with
    | none => .error (.noRoute e.node)
    | some _ => .ok s

/-- Free bytes for a range left unspecified. -/
def State.freeBytes (s : State) (ctx va len : Nat) : List Byte :=
  (List.range len).map (fun i => BitVec.ofNat 8 (Config.freeNat 5 [ctx, va + i, s.freshCtr]))

/-- One check block's part of a destination left unspecified, where it can be written. -/
def State.spoilPart (ctx : Nat) (s : State) (p : Nat × Nat) : State :=
  match s.writeVirt none ctx p.1 (s.freeBytes ctx p.1 p.2) with
  | .ok s => s
  | .error _ => s

/-- A range cut at check blocks: fuel, address, length. -/
def cutBlocks : Nat → Nat → Nat → List (Nat × Nat)
  | 0, _, _ => []
  | f + 1, va, len =>
    if len = 0 then [] else
    let n := min len (32 - va % 32)
    (va, n) :: cutBlocks f (va + n) (len - n)

/-- A destination's bytes left unspecified: a free value each; where the range cannot be written as one, each check block of it that can be
(R275, R278). -/
def State.spoil (s : State) (ctx va len : Nat) : State :=
  match s.writeVirt none ctx va (s.freeBytes ctx va len) with
  | .ok s => s.fresh
  | .error _ => ((cutBlocks (len / 32 + 2) va len).foldl (State.spoilPart ctx) s).fresh

/-- A whole destination left unspecified. -/
def State.spoilExtent (s : State) (ctx : Nat) (e : Extent) : State :=
  if e.local? s.darit then (List.range e.rows).foldl (fun s r => s.spoil ctx (e.addr + r * e.stride) e.rowBytes) s else s

/-- Rows moved in turn, until one fails. -/
def copyRows (ctx : Nat) (src dst : Extent) : List Nat → State → State × Option AccErr
  | [], s => (s, none)
  | r :: rest, s =>
    match s.readExtent ctx src r with
    | .error e => (s, some e)
    | .ok bs =>
      let s := if src.local? s.darit then s.noteVirt none ctx (src.addr + r * src.stride) src.rowBytes else s
      match s.writeExtent ctx dst r bs with
      | .error e => (s, some e)
      | .ok s => copyRows ctx src dst rest s

/-- The bytes of one place that another shares: offset and count. -/
def locsMeet (a b : Loc × Nat) : Option (Nat × Nat) :=
  let meet (x y : Nat) : Option (Nat × Nat) :=
    let lo := max x y
    let hi := min (x + a.2) (y + b.2)
    if lo < hi then some (lo - x, hi - lo) else none
  match a.1, b.1 with
  | .stacked x, .stacked y => meet x y
  | .region x, .region y => meet x y
  | .host p x, .host q y => if p = q then meet x y else none
  | _, _ => none

/-- The places of an extent's rows. -/
def State.extentLocs (s : State) (ctx : Nat) (e : Extent) : List (Loc × Nat) :=
  if !e.local? s.darit then [] else
  (List.range e.rows).flatMap (fun r => match s.xlateRange none ctx (e.addr + r * e.stride) e.rowBytes false with
    | .ok ls => ls
    | .error _ => [])

/-- The ranges of a row of a destination that share memory with some places: address and length. -/
def aliasedRanges (from_ : List (Loc × Nat)) : Nat → List (Loc × Nat) → List (Nat × Nat)
  | _, [] => []
  | va, l :: r => (from_.filterMap (locsMeet l)).map (fun m => (va + m.1, m.2)) ++ aliasedRanges from_ (va + l.2) r

/-- Bytes of a destination that lie in the source's memory through other addresses: their contents are unspecified (R275). -/
def State.spoilAliased (s : State) (ctx : Nat) (src dst : Extent) : State :=
  let from_ := s.extentLocs ctx src
  if !dst.local? s.darit || from_.isEmpty then s else
  (List.range dst.rows).foldl (fun s r =>
    let va := dst.addr + r * dst.stride
    match s.xlateRange none ctx va dst.rowBytes false with
    | .ok ls => (aliasedRanges from_ va ls).foldl (fun s p => s.spoil ctx p.1 p.2) s
    | .error _ => s) s

/-- An access that fails a command for good, and not one that makes it wait. -/
def AccErr.final : AccErr → Bool
  | .status _ _ => true
  | _ => false

/-! ## The commands -/

/-- The status of the checks of R275, after those of R307. -/
def State.copyCheck (s : State) (ctx : Nat) (ops : List Extent) (writesFlash malformed_ : Bool) : Option Nat :=
  match lookup s.ctxs ctx with
  | none => some stMalformed
  | some c =>
    if malformed_ || !ops.all (fun e => e.rangeOk c s.fls.dataBlocks) then some stMalformed
    else if writesFlash && s.fls.state == .readOnly then some stLimit
    else none

/-- The bytes of a COPY whose destination is flash, kept until the commit maps them (R278, R288). -/
def State.copyToFlash (s : State) (q n ctx : Nat) (src dst : Extent) : State :=
  match (List.range src.rows).mapM (fun r => s.readExtent ctx src r) with
  | .error e => s.cmdErr q n e
  | .ok rows =>
    let s := if src.local? s.darit then
        (List.range src.rows).foldl (fun s r => s.noteVirt none ctx (src.addr + r * src.stride) src.rowBytes) s else s
    s.updCmd q n (fun x => { x with phase := .ready, saves := [(dst.addr * flashBlock, rows.flatten)] })

/-- Reads of flash counted. -/
def State.noteFlash (s : State) (e : Extent) : State :=
  if e.kind = 1 then { s with fls := s.fls.countReads (lbasOf (e.addr * flashBlock) e.bytes) } else s

def execCopy (q n : Nat) (s : State) : Host.Outcome State Fault Refusal :=
  .next (match s.granted? q n tyCopy with
    | none => s
    | some cm =>
      let ctx := s.queueCtx q
      let src := cm.srcExtent
      let dst := cm.dstExtent
      match s.copyCheck ctx [src, dst] (dst.kind == 1) (src.overlaps dst) with
      | some st => s.endCmd q n st false
      | none =>
        let s := s.noteFlash src
        if dst.kind = 1 then s.copyToFlash q n ctx src dst
        else match copyRows ctx src dst (List.range src.rows) s with
          | (s, none) => (s.spoilAliased ctx src dst).updCmd q n (fun x => { x with phase := .ready })
          | (s, some e) => (if e.final then s.spoilExtent ctx dst else s).cmdErr q n e)

/-- The bytes of a FILL's row: byte x mod 8 of PATTERN at address x (R280). -/
def fillRow (pattern addr len : Nat) : List Byte :=
  (List.range len).map (fun i => BitVec.ofNat 8 (pattern / 2 ^ (8 * ((addr + i) % 8))))

def fillRows (ctx pattern : Nat) (dst : Extent) : List Nat → State → State × Option AccErr
  | [], s => (s, none)
  | r :: rest, s =>
    match s.writeExtent ctx dst r (fillRow pattern (dst.addr + r * dst.stride) dst.rowBytes) with
    | .error e => (s, some e)
    | .ok s => fillRows ctx pattern dst rest s

def execFill (q n : Nat) (s : State) : Host.Outcome State Fault Refusal :=
  .next (match s.granted? q n tyFill with
    | none => s
    | some cm =>
      let ctx := s.queueCtx q
      let dst := cm.dstExtent
      match s.copyCheck ctx [dst] (dst.kind == 1) ((dst.kind == 1) != cm.discard) with
      | some st => s.endCmd q n st false
      | none =>
        if dst.kind = 1 then s.updCmd q n (fun x => { x with phase := .ready })
        else match fillRows ctx (cm.at 0x38 8) dst (List.range dst.rows) s with
          | (s, none) => s.updCmd q n (fun x => { x with phase := .ready })
          | (s, some e) => (if e.final then s.spoilExtent ctx dst else s).cmdErr q n e)

/-- What a commit makes of a COPY into flash or a DISCARD (R288). -/
def State.commitFlash (s : State) (cm : Cmd) : State :=
  let dst := cm.dstExtent
  if cm.type = tyCopy then
    { s with fls := cm.saves.foldl (fun f w => f.write w.1 w.2) s.fls }
  else if cm.type = tyFill && cm.discard then
    { s with fls := s.fls.unmap dst.addr (dst.bytes / flashBlock) }
  else s

end Sys2Proof.Machine
end

