-- ==== Sys2Proof/Machine/Image.lean ====
section
/-! DEFINITION. Snapshots: what a quench captures, and images (17, R346, R350, R351; 15, R287). -/

namespace Sys2Proof.Machine

/-! ## Captured memory (R346) -/

/-- The next tables that a table's valid entries name (R297). -/
def State.nextTables (s : State) (t : Nat) : List Nat :=
  (List.range 512).filterMap (fun i => match s.entryAt (t + 8 * i) with
    | .ok e => tableNext e
    | .error _ => none)

/-- A leaf table's valid entries. -/
def State.leafEntries (s : State) (t : Nat) : List Nat :=
  (List.range 512).filterMap (fun i => match s.entryAt (t + 8 * i) with
    | .ok e => if bit e 0 then some e else none
    | .error _ => none)

/-- The translation tables of a context. -/
def State.tablesOf (s : State) (root : Nat) : List Nat :=
  let mids := s.nextTables root
  root :: mids ++ mids.flatMap s.nextTables

/-- The leaf entries of a context. -/
def State.pagesMapped (s : State) (root : Nat) : List Nat :=
  ((s.nextTables root).flatMap s.nextTables).flatMap s.leafEntries

/-- The mapped pages of a context in a tier: TARGET 0 stacked memory, 1 region memory. -/
def State.mappedIn (s : State) (root target : Nat) : List (Nat × Nat) :=
  ((s.pagesMapped root).filter (fun e => fld e 3 2 == target)).map (fun e => (fld e 63 21 * pageBytes, pageBytes))

/-- Bytes of readable blocks in some ranges. -/
def Ram.captured (m : Ram) (rs : List (Nat × Nat)) : List Host.Cell :=
  m.cells.filterMap (fun e =>
    if rs.any (fun r => r.1 ≤ e.1 && e.1 < r.1 + r.2) then
      (m.blockRead (e.1 / 32)).map (fun bs => (e.1, bs.getD (e.1 % 32) 0))
    else none)

/-- Captured bytes written back, block by block (R352). -/
def Ram.restoreCells (m : Ram) (cells : List Host.Cell) : Ram :=
  cells.foldl (fun m e =>
    if e.1 % 32 = 0 then m.putBlock (e.1 / 32) ((List.range 32).map (fun i => (lookup cells (e.1 + i)).getD 0)) else m) m

/-- Whether a context lies in a scope. -/
def inScope (scope : Bool) (ctx c : Nat) : Bool := scope || c == ctx

/-- What a snapshot of a scope captures. -/
def State.capture (s : State) (scope : Bool) (ctx : Nat) : SnapImg :=
  let mine (c : Nat) : Bool := inScope scope ctx c
  let ctxs := s.ctxs.filter (fun e => mine e.1)
  let coils := s.coils.filter (fun e => mine e.2.ctx)
  let tables := ctxs.flatMap (fun e => (s.tablesOf e.2.root).map (fun t => (t, 4096)))
  let parks := coils.map (fun e => (s.tblPark + 2048 * e.1, 2048))
  { scope := scope, ctx := ctx, ctxs := ctxs
    queues := s.queues.filter (fun e => mine e.2.ctx)
    cmds := s.cmds.filter (fun c => mine (s.queueCtx c.q))
    seqs := s.seqs.filter (fun e => mine e.2.ctx)
    coils := coils
    stacked := s.stacked.captured (tables ++ parks ++ ctxs.flatMap (fun e => s.mappedIn e.2.root 0))
    region := s.regionMem.captured (ctxs.flatMap (fun e => s.mappedIn e.2.root 1))
    roles := s.regions.toList.map Region.role
    slots := s.slots.active.toList
    samples := ((List.range 64).zip s.smp.toList).filter (fun e => match e.2.desc with
      | some d => mine d.ctx
      | none => false)
    blocks := 0 }

/-! ## Images (R350) -/

/-- The captured state of an image: bytes that only Galwin reads (R350; log 30). -/
opaque capturedBytes : SnapImg → List Byte

/-- What the captured bytes of an image say (R350; log 30). -/
opaque capturedState : List Byte → Option SnapImg

/-- The CRC-32 that closes on itself: the entry of a chunk that holds the CRC table (R350; log 31). -/
def tableChunkCrc (i total : Nat) : Nat := Config.freeNat 7 [i, total] % 2 ^ 32

/-- Blocks of the CRC table beside b blocks of captured state. -/
def crcBlocks (b : Nat) : Nat :=
  (findBelow (fun k => ceilDiv (4 * ceilDiv (1 + k + b) 512) flashBlock ≤ k) (b + 3)).getD 1

def chunkBytes : Nat := 2097152

/-- Chunk i of an image. -/
def chunkOf (bs : List Byte) (i : Nat) : List Byte := (bs.drop (chunkBytes * i)).take chunkBytes

/-- The header without its CRC (R350). -/
def headerBytes (scope : Bool) (ctx : Nat) (label time blocks hw chunks : Nat) : List Byte :=
  leBytes 4 (0x0100 + bitN scope * 2 ^ 16) ++ leBytes 4 (if scope then 0 else ctx % 4096) ++ leBytes 8 label ++ leBytes 8 time
    ++ leBytes 8 blocks ++ leBytes 4 hw ++ leBytes 4 chunks ++ zeros 4 ++ zeros 4052

/-- HEADER_CRC: over the header's other bytes. -/
def headerCrc (h : List Byte) : Nat := crc32 (h.take 0x28 ++ (h.drop 0x2C).take (flashBlock - 0x2C))

/-- An image's bytes. -/
def imageOf (img : SnapImg) (label time hw : Nat) : List Byte :=
  let body := capturedBytes img
  let b := ceilDiv body.length flashBlock
  let k := crcBlocks b
  let blocks := 1 + k + b
  let chunks := ceilDiv blocks 512
  let h := headerBytes img.scope img.ctx label time blocks hw chunks
  let h := putAt h 0x28 (leBytes 4 (headerCrc h))
  let tail := body ++ zeros (flashBlock * b - body.length)
  let plain := h ++ zeros (flashBlock * k) ++ tail
  let entry (i : Nat) : Nat :=
    if chunkBytes * i < flashBlock * (1 + k) then tableChunkCrc i blocks else crc32 (chunkOf plain i)
  putAt plain flashBlock ((List.range chunks).flatMap (fun i => leBytes 4 (entry i)))

/-- Header fields of an image. -/
def imageBlocks (bs : List Byte) : Nat := leAt bs 0x18 8
def imageHw (bs : List Byte) : Nat := leAt bs 0x20 4
def imageChunks (bs : List Byte) : Nat := leAt bs 0x24 4
def imageScope (bs : List Byte) : Bool := bit (leAt bs 0 4) 16
def imageCtx (bs : List Byte) : Nat := fld (leAt bs 4 4) 11 0

/-- The header as R350 lays it down. -/
def imageHeaderOk (bs : List Byte) : Bool :=
  headerCrc bs == leAt bs 0x28 4 && fld (leAt bs 0 4) 15 0 == 0x0100 && fld (leAt bs 0 4) 31 17 == 0
    && fld (leAt bs 4 4) 31 12 == 0 && ((bs.drop 0x2C).take (flashBlock - 0x2C)).all (· == 0)
    && imageChunks bs == ceilDiv (imageBlocks bs) 512

/-- Every chunk against its CRC table entry. -/
def imageChunksOk (bs : List Byte) : Bool :=
  (List.range (imageChunks bs)).all (fun i => crc32 (chunkOf bs i) == leAt bs (flashBlock + 4 * i) 4)

/-- The captured state that an image carries. -/
def imageState (bs : List Byte) : Option SnapImg :=
  capturedState (bs.drop (flashBlock * (1 + ceilDiv (4 * imageChunks bs) flashBlock)))

/-! ## The snapshot partition (R287, R344, R348, R349) -/

/-- Blocks of the partition that no entry holds. -/
def Flash.snapFree (f : Flash) : Nat := f.snap8 * 1953125 - (f.snaps.toList.map Snap.blocks).sum

/-- The lowest EMPTY catalogue entry. -/
def Flash.emptyEntry (f : Flash) : Option (Fin 16) := (List.finRange 16).find? (fun i => (f.snaps[i]).state == .empty)

/-- A catalogue entry emptied, its blocks freed. -/
def Flash.dropSnap (f : Flash) (i : Fin 16) : Flash :=
  { f with
    snaps := f.snaps.set i Snap.reset
    mapped := f.mapped.filter (fun e => e.1 < 2 ^ 31 + i.val * 2 ^ 27 || 2 ^ 31 + (i.val + 1) * 2 ^ 27 ≤ e.1) }

/-- Older committed snapshots of the scope that entry i holds freed (R348). -/
def Flash.freeOlder (f : Flash) (i : Fin 16) : Flash :=
  let z := f.snaps[i]
  (List.finRange 16).foldl (fun f j =>
    let y := f.snaps[j]
    if j ≠ i && y.state == .committed && y.scope == z.scope && (y.scope || y.ctx == z.ctx) then f.dropSnap j else f) f

/-! ## Drains and resets during a quench (R345, R347) -/

def State.updFls (s : State) (f : Flash → Flash) : State := { s with fls := f s.fls }

/-- Instances of a command that names a counter block stop at their next tile commit point. -/
def State.askStop (s : State) (cm : Cmd) (why : StopWhy) : State :=
  if cm.counter = 0 then s else
  cm.insts.foldl (fun s i => match i.placed, i.ended with
    | some (c, k), false =>
      s.updSlot c k (fun sl => if (sl.state == .running || sl.state == .loading) && sl.stop.isNone then { sl with stop := some why } else sl)
    | _, _ => s) s

/-- A part leaves service: a capture and a write under way will be repeated. -/
def State.quenchBroken (s : State) : State :=
  match s.fls.quench with
  | some z => s.updFls (fun f => { f with quench := some { z with
      phase := if z.phase = .drain then .drain else .capture
      redo := true
      img := none } })
  | none => s

/-- Whether no part is away: none resets, and every region that has not left service answers. -/
def State.allIn (s : State) : Bool :=
  s.epochs.toList.all (fun e => e.state != .resetting)
    && (List.finRange 12).all (fun g => s.regions[g].outOfService || s.regionState g == .inService)

/-- A part returned: the capture is repeated once none is away. -/
def State.quenchMended (s : State) : State :=
  match s.fls.quench with
  | some z => if s.allIn then s.updFls (fun f => { f with quench := some { z with redo := false } }) else s
  | none => s

end Sys2Proof.Machine
end

