-- ==== Sys2Proof/Machine/Firmware.lean ====
section
/-! DEFINITION. Firmware images: their checks and their loading (22, R431 to R437). -/

namespace Sys2Proof.Machine

def State.updSvc (s : State) (f : Service → Service) : State := { s with svc := f s.svc }

/-- A record of SOURCE 14, SERVICE (R445). -/
def State.logSvc (s : State) (cause unit : Nat) (status : Nat := 0) (address : Nat := 0) : State :=
  s.logEv { source := 14, cause := cause, status := status, unit := unit, address := address }

/-! ## The image header (R432) -/

def kindSERVICE : Nat := 1
def kindREGION : Nat := 2

def kindIx (kind : Nat) : Fin 2 := if kind = 2 then 1 else 0

def fwHeaderBytes : Nat := 0x4200

def fwBodyBytes (img : List Byte) : Nat := leAt img 0x14 4
def fwBody (img : List Byte) : List Byte := (img.drop fwHeaderBytes).take (fwBodyBytes img)
def fwVersion (img : List Byte) : Nat := leAt img 0xC 4
def fwSvn (img : List Byte) : Nat := fld (leAt img 8 4) 6 0
def fwDigest (img : List Byte) : List Byte := (img.drop 0x20).take 48

/-- ABI_MAJOR and reserved fields. -/
def fwClean (img : List Byte) : Bool :=
  fld (leAt img 0 4) 15 0 == 0x0100 && fld (leAt img 0 4) 31 27 == 0 && fld (leAt img 8 4) 31 7 == 0
    && ((img.drop 0x50).take 48).all (· == 0) && ((img.drop 0x4160).take 160).all (· == 0)

/-- The first failing check of R433 for an image of a kind and an announced size, else DONE. -/
def State.fwStatus (s : State) (kind : Nat) (img : List Byte) (size : Nat) (staging : Bool) : Nat :=
  let key := fld (leAt img 0 4) 26 25
  if !fwClean img then stVersion
  else if fld (leAt img 0 4) 23 16 ≠ kind || fwBodyBytes img = 0 || 33537536 < fwBodyBytes img
      || fwHeaderBytes + fwBodyBytes img ≠ size || img.length ≠ size then stMalformed
  else if leAt img 4 4 ≠ s.svc.hwType.toNat then stAuth
  else if bit (leAt img 0 4) 24 && leAt img 0x18 8 ≠ s.svc.serial.toNat then stAuth
  else if s.svc.revoked.getLsbD key then stAuth
  else if Config.sha384 (fwBody img) ≠ fwDigest img then stAuth
  else if !Config.imgVerify key img then stAuth
  else if fwSvn img < s.svc.svn[kindIx kind] then stAuth
  else if staging && kind = kindREGION && s.svc.runVersion.toNat < leAt img 0x10 4 then stVersion
  else stDone

/-! ## Loading (R434) -/

/-- What a part loaded. -/
structure Loaded where
  slot : Nat
  fallback : Bool
  image : List Byte
deriving DecidableEq, Repr

/-- Whether a slot of a kind may be loaded. -/
def State.slotLoads (s : State) (kind : Nat) (i : Fin 2) : Bool :=
  let x := (s.svc.fw[kindIx kind]).slots[i]
  x.state == .valid && s.fwStatus kind x.image x.image.length false == stDone

/-- The slot that PREFERRED names. -/
def FwKind.first (k : FwKind) : Fin 2 := if k.preferred then 1 else 0

def otherSlot (i : Fin 2) : Fin 2 := if i = 0 then 1 else 0

/-- The PREFERRED slot's image, else the other's, else none. -/
def State.fwLoad (s : State) (kind : Nat) : Option Loaded :=
  let k := s.svc.fw[kindIx kind]
  let i := k.first
  if s.slotLoads kind i then some { slot := i.val, fallback := false, image := k.slots[i].image }
  else if s.slotLoads kind (otherSlot i) then
    some { slot := (otherSlot i).val, fallback := true, image := k.slots[otherSlot i].image }
  else none

/-- A region runs an image. -/
def State.runRegion (s : State) (g : RegionId) (l : Loaded) : State :=
  let s := s.updRegion g (fun r => { r with
    runSlot := l.slot
    runVersion := BitVec.ofNat 32 (fwVersion l.image)
    runSvn := fwSvn l.image
    runFallback := l.fallback })
  let s := s.updSvc (fun v => { v with regionDigest := v.regionDigest.set g (Config.sha384 (fwBody l.image)) })
  if l.fallback then s.logSvc 5 g.val else s

/-- The service die runs an image. -/
def State.runService (s : State) (l : Loaded) : State :=
  let s := s.updSvc (fun v => { v with
    runSlot := l.slot
    runVersion := BitVec.ofNat 32 (fwVersion l.image)
    runSvn := fwSvn l.image
    runFallback := l.fallback
    serviceDigest := Config.sha384 (fwBody l.image) })
  if l.fallback then s.logSvc 5 wholeUnit else s

/-- A region without an image stays out of service (R434). -/
def State.regionOut (s : State) (g : RegionId) : State :=
  (s.updRegion g (fun r => { r with outOfService := true })).updSvc (fun v => { v with
    regionDigest := v.regionDigest.set g (zeros 48) })

/-! ## Staging (R435) -/

def State.updFw (s : State) (kind : Nat) (f : FwKind → FwKind) : State :=
  s.updSvc (fun v => { v with fw := v.fw.set (kindIx kind) (f v.fw[kindIx kind]) })

/-- The slot that PREFERRED does not name. -/
def FwKind.spare (k : FwKind) : Fin 2 := otherSlot k.first

def FwKind.staging (k : FwKind) : Bool := k.slots[k.spare].state == .staging

/-- A loss of power or a warm reset during staging (R435). -/
def FwKind.dropStaging (k : FwKind) : FwKind :=
  { k with slots := k.slots.map (fun x => if x.state = .staging then { x with state := .invalid } else x) }

/-- Slots of lower SVN than the fused value become INVALID (R437). -/
def FwKind.dropOld (k : FwKind) (svn : Nat) : FwKind :=
  { k with slots := k.slots.map (fun x => if x.state = .valid && fwSvn x.image < svn then { x with state := .invalid } else x) }

end Sys2Proof.Machine
end

