-- ==== Sys2Proof/Machine/Start.lean ====
section
/-! DEFINITION. Repair from fuses, start-up, package warm reset (18, R364 to R366; 22, R428 to R430; 17, R325, R326, R335). -/

namespace Sys2Proof.Machine

def State.updDarit (s : State) (f : Darit → Darit) : State := { s with darit := f s.darit }

/-! ## Repair from fuses (R364, R365) -/

def fuseKind (e : Nat) : Nat := fld e 62 60
def fuseTarget (e : Nat) : Nat := fld e 55 48
def fuseBank (e : Nat) : Nat := fld e 47 40

/-- The bank an entry names: what it is (0 core store, 1 accumulator, 2 region memory), its part, its number. -/
def fuseBankId (e : Nat) : Nat × Nat × Nat := (fuseKind e / 2, fuseTarget e, fuseBank e)

/-- Field fuse entries that name a region. -/
def State.regionFuses (s : State) (g : RegionId) : List Nat :=
  (s.svc.fuses.map BitVec.toNat).filter (fun e => bit e 63
    && (if fuseKind e < 4 then fuseTarget e / 8 == g.val else fuseTarget e == g.val))

/-- Spare rows and columns of a bank. -/
def spares (b : Nat × Nat × Nat) : Nat × Nat := if b.1 = 1 then (4, 2) else (8, 4)

/-- Failing rows and columns of a bank. -/
def bankFails (es : List Nat) (b : Nat × Nat × Nat) : Nat × Nat :=
  let mine := es.filter (fun e => fuseBankId e == b)
  ((mine.filter (fun e => fuseKind e % 2 == 0)).length, (mine.filter (fun e => fuseKind e % 2 == 1)).length)

/-- Whether a bank's failing rows or columns exceed its spares. -/
def bankOut (es : List Nat) (b : Nat × Nat × Nat) : Bool :=
  decide ((spares b).1 < (bankFails es b).1) || decide ((spares b).2 < (bankFails es b).2)

/-- A bank's number in BANKS_OUT's list. -/
def bankCode (b : Nat × Nat × Nat) : Nat := b.1 * 65536 + b.2.1 * 256 + b.2.2

/-- Units per anvil that remain on a core: those of which no bank left service. -/
def unitsLeft (outs : List (Nat × Nat × Nat)) (c : CoreId) : Nat :=
  8 - ((List.range 8).filter (fun u => outs.any (fun b => b.1 == 1 && b.2.1 == c.val && b.2.2 % 8 == u))).length

def coresOf (g : RegionId) : List CoreId := (List.range 8).map (fun k => coreN (8 * g.val + k))

def regionsOf (d : DieId) : List RegionId := (List.range 3).map (fun k => regionN (3 * d.val + k))

/-- A checker that failed its self-test, logged (R366). -/
def State.logSelf (s : State) (unit : Nat) : State := s.logEv { source := 7, cause := 1, unit := unit }

/-- The banks of a region whose ports' checkers fail their self-test (R366). -/
def State.checkedOut (s : State) (g : RegionId) : List (Nat × Nat × Nat) :=
  s.badCheckers.filterMap (fun k => match k with
    | .coreStore c b => if regionOfCore c = g then some (0, c.val, b.val) else none
    | .accum c b => if regionOfCore c = g then some (1, c.val, b.val) else none
    | .regionMem h b => if h = g then some (2, h.val, b.val) else none
    | _ => none)

/-- Whether a channel's checker of a region's stack fails. -/
def State.channelBad (s : State) (g : RegionId) : Bool :=
  s.badCheckers.any (fun k => match k with
    | .channel h _ => h == g
    | _ => false)

/-- Whether a checker of a die's fabric stations fails. -/
def State.stationBad (s : State) (d : DieId) : Bool :=
  s.badCheckers.any (fun k => match k with
    | .station e _ => e == d
    | _ => false)

/-- Self-test and repair at a reset of a region; whether its region memory lost a bank. -/
def State.repairRegion (s : State) (g : RegionId) : State × Bool :=
  let es := s.regionFuses g
  let banks := (es.map fuseBankId).eraseDups
  let tested := s.checkedOut g
  let outs := (banks.filter (bankOut es) ++ tested).eraseDups
  let s := tested.foldl (fun s b => s.logSelf b.2.1) s
  let applied := (banks.map (fun b => min (bankFails es b).1 (spares b).1 + min (bankFails es b).2 (spares b).2)).sum
  let s := outs.foldl (fun s b => s.logEv { source := 6, cause := 4, unit := b.2.1, address := b.2.2 }) s
  let s := s.updRegion g (fun r => { r with fieldApplied := applied, banksOut := outs.map bankCode })
  let s := (coresOf g).foldl (fun s c => s.updCore c (fun co => { co with
    accUnits := unitsLeft outs c
    fenced := outs.any (fun b => b.1 == 0 && b.2.1 == c.val) })) s
  (s, outs.any (fun b => b.1 == 2))

/-- Soft repairs made hard at a training, while resources last (R286). -/
def Region.harden (r : Region) : Region :=
  let n := min r.softRows.length r.hardFree
  { r with softRows := [], softUsed := 0, hardUsed := satAdd 8 r.hardUsed n, hardFree := r.hardFree - n }

def State.hardenRows (s : State) (g : RegionId) : State :=
  let n := min s.regions[g].softRows.length s.regions[g].hardFree
  let rows := s.regions[g].softRows.take n
  let s := s.updRegion g Region.harden
  rows.foldl (fun s r => s.logEv { source := 6, cause := 2, unit := g.val, address := 1024 * r }) s

/-! ## Lane repair (R285) -/

/-- Failing lanes of a channel that the stack's own resources replace, and those that the controller's two spares replace. -/
def laneFix (n : Nat) : Nat × Nat := (min n Config.laneRepairs, min (n - Config.laneRepairs) 2)

/-- A training's lane repairs, and whether a channel has more failing lanes than both can replace. -/
def Region.train (r : Region) : Region × Bool :=
  ({ r with
      stackLanes := (r.lanesBad.map (fun e => (laneFix e.2).1)).sum
      spareLanes := (r.lanesBad.map (fun e => (laneFix e.2).2)).sum },
    r.lanesBad.any (fun e => Config.laneRepairs + 2 < e.2))

/-- A stack trained: lanes and rows repaired; a FAILED stack's contents are lost. It fails for its lanes, or for a channel's checker
(R285, R366). -/
def State.trainStack (s : State) (g : RegionId) : State × Bool :=
  let s := if s.channelBad g then s.logSelf g.val else s
  let s := s.hardenRows g
  let (r, bad) := s.regions[g].train
  let s := s.updRegion g (fun _ => r)
  if bad || s.channelBad g then
    ({ s with stacked := s.stacked.mark (g.val * stackSpan) stackSpan }.updRegion g (fun r => { r with stack := .failed }), true)
  else (s.updRegion g (fun r => { r with stack := .inService }), false)

/-! ## The command store's copies (R325, R326) -/

/-- The lowest-numbered in-service stack of a die. -/
def State.stackOn (s : State) (d : DieId) : Option RegionId :=
  (regionsOf d).find? (fun g => s.regionState g == .inService && s.regions[g].stack == .inService && !s.regions[g].outOfService)

/-- The copies as start-up lays them. -/
def State.layCopies (s : State) : State :=
  { s with
    copyA := (s.stackOn 0).orElse (fun _ => s.stackOn 1)
    copyB := (s.stackOn 3).orElse (fun _ => s.stackOn 2) }

/-- Where a lost copy goes: the lowest-numbered in-service stack of a die that does not hold the other. -/
def State.copyPlace (s : State) (other : RegionId) : Option RegionId :=
  ((List.finRange 4).filter (fun d => d != dieOfRegion other)).findSome? s.stackOn

/-! ## What a reset of the package keeps -/

/-- The catalogue and the mapped blocks survive; STATE is STARTING until step 6; an unfinished snapshot's blocks are freed (R347, R354). -/
def Flash.restart (f : Flash) : Flash :=
  { f with
    state := .starting
    partErr := false
    quench := none
    xAddr := 0
    xOff := 0
    xLen := 0
    xPort := false
    xSnap := 0
    xOp := 0
    xBusy := false
    xStatus := 0
    xLast := 0
    snaps := f.snaps.map (fun x => if x.state = .writing then Snap.reset else x)
    mapped := f.mapped.filter (fun e => e.1 < 2 ^ 31 || (f.snaps[(e.1 - 2 ^ 31) / 2 ^ 27]?).any (fun x => x.state != .writing)) }

/-- The flash translation layer has started (R428, step 6): READY, or READ_ONLY without spare blocks. -/
def Flash.started (f : Flash) : Flash := { f with state := if f.noSpares then .readOnly else .ready }

/-- Service state that lies in flash and fuses, and the digests that the standby domain keeps. -/
def Service.restart (v : Service) : Service :=
  { Service.reset with
    fw := v.fw.map FwKind.dropStaging
    keptDigests := v.keptDigests
    serial := v.serial
    hwType := v.hwType
    svn := v.svn
    revoked := v.revoked
    fuses := v.fuses }

/-- Power state that the sensors, the feeds and the straps give. -/
def Power.restart (p : Power) : Power :=
  { Power.reset with
    powered := p.powered
    standby := p.standby
    feeds := p.feeds
    slotId := p.slotId
    smbAddr := p.smbAddr
    page := p.page
    cml := p.cml
    alert := p.alert
    tripped := p.tripped
    lastTrip := p.lastTrip
    inletDc := p.inletDc
    flowCl := p.flowCl
    stackHalf := p.stackHalf
    maxDc := p.maxDc
    energyUj := p.energyUj
    attrUj := p.energyUj }

/-- The inputs of the time base. -/
def TimeBase.restart (t : TimeBase) : TimeBase :=
  { TimeBase.reset with
    refPresent := t.refPresent
    drefPresent := t.drefPresent
    refLocal := t.refLocal
    drefLocal := t.drefLocal
    tenOk := t.tenOk
    ppsOk := t.ppsOk }

/-- The state at step 1 of a cold start: everything volatile lost (R335); device time runs in the standby domain (R405, R408). -/
def State.bare (s : State) : State :=
  { State.reset with
    hostMem := s.hostMem
    log := s.log
    timeNs := s.timeNs
    tblQueue := s.tblQueue
    tblSeq := s.tblSeq
    tblCoil := s.tblCoil
    tblPark := s.tblPark
    fls := s.fls.restart
    svc := s.svc.restart
    pwr := s.pwr.restart
    tim := s.tim.restart
    darit := { State.reset.darit with incarnation := s.darit.incarnation + 1 }
    regions := s.regions.map (fun r => { Region.reset with hardUsed := r.hardUsed, hardFree := r.hardFree, lanesBad := r.lanesBad })
    badCheckers := s.badCheckers
    nextReq := s.nextReq
    freshCtr := s.freshCtr
    pending := s.pending }

/-- The state at step 1 of a package warm reset: stacked memory kept besides, and the soft repairs of its rows. -/
def State.warm (s : State) : State :=
  { s.bare with
    stacked := s.stacked
    regions := s.regions.map (fun r => { Region.reset with
      hardUsed := r.hardUsed
      hardFree := r.hardFree
      lanesBad := r.lanesBad
      softRows := r.softRows
      softUsed := r.softUsed }) }

/-! ## The steps (R428, R430) -/

/-- A start-up step that failed, by its number. -/
def State.stepFailed (s : State) (step unit : Nat) : State := s.logSvc 1 unit 0 step

/-- Steps 3 to 5 for one region: self-test, repair, stack training. -/
def State.startRegion (s : State) (g : RegionId) : State :=
  let (s, out) := s.repairRegion g
  let (s, bad) := s.trainStack g
  let s := if bad then (s.updRegion g (fun r => { r with outOfService := true })).stepFailed 5 g.val else s
  let s := if out then (s.updRegion g (fun r => { r with outOfService := true })).stepFailed 4 g.val else s
  if s.regions[g].outOfService then s.updPart (.region g) (fun e => { e with state := .fenced }) else s

/-- A part shown as FENCED from the start. -/
def State.startFenced (s : State) (p : Part) : State := s.updPart p (fun e => { e with state := .fenced })

/-- A die whose fabric station's checker fails is fenced (R366). -/
def State.startDie (s : State) (d : DieId) : State :=
  if !s.stationBad d then s
  else (regionsOf d).foldl (fun s g => (coresOf g).foldl (fun s c => s.startFenced (.core c))
      ((s.updRegion g (fun r => { r with outOfService := true })).startFenced (.region g)))
    (((s.logSelf d.val).stepFailed 3 d.val).startFenced (.die d))

/-- The epoch entries of fenced cores. -/
def State.markFenced (s : State) : State :=
  (List.finRange 96).foldl (fun s c =>
    if s.cores[c].fenced then s.updPart (.core c) (fun e => { e with state := .fenced }) else s) s

/-- RECOVERY in place of READY. -/
def State.enterRecovery (s : State) (step : Nat) : State :=
  ((s.updSvc (fun v => { v with phase := 9 })).stepFailed step wholeUnit).logSvc 10 wholeUnit

/-- READY. -/
def State.enterReady (s : State) : State :=
  ((s.updSvc (fun v => { v with phase := 8 })).portEvent 0 0).portEvent 1 0

/-- A Darit port that is enabled trains under a valid shape, if its dimension has more than one device (R374, R375, R384, R389). -/
def Darit.portStart (d : Darit) (p : DPort) : DPort :=
  let size := d.sizes.getD p.dim 1
  let base := { DPort.reset with enable := p.enable, dim := p.dim, dir := p.dir }
  if !p.enable || !d.shapeValid then base
  else if p.dim = 3 || size = 1 then { base with st := .held, cause := 6 }
  else { base with st := .training }

/-- Step 7; the ports of a fenced die are DOWN. -/
def State.trainAll (s : State) : State :=
  let s := s.updDarit (fun d => { d with ports := Vector.ofFn (fun p : DaritPort =>
    let x := d.portStart d.ports[p]
    if s.stationBad ⟨p.val / 2, by have := p.isLt; omega⟩ then { x with st := .down } else x) })
  ((List.finRange 8).filter (fun p => s.darit.ports[p].st == .held)).foldl (fun s p =>
    s.logEv { source := 11, cause := 5, unit := p.val }) s

/-- Steps 6 to 8, firmware found. -/
def State.finishStart (s : State) (sv rg : Loaded) : State :=
  let s := s.runService sv
  let s := (List.finRange 12).foldl (fun s g => if s.regions[g].outOfService then s else s.runRegion g rg) s
  let s := s.updSvc (fun v => { v with keptDigests := [fwDigest sv.image, fwDigest rg.image] })
  s.layCopies.trainAll.enterReady

/-- Steps 3 to 5: every region, then the dies' fabrics. -/
def State.startParts (s : State) : State :=
  let s := (List.finRange 12).foldl State.startRegion s
  ((List.finRange 4).foldl State.startDie s).markFenced

/-- Whether no region is in service after step 5. -/
def State.noRegion (s : State) : Bool := (List.finRange 12).all (fun g => s.regions[g].outOfService)

/-- The flash translation layer starts, unless the checker of its metadata fails. -/
def State.startFlash (s : State) : State :=
  if s.badCheckers.contains .flash then
    { ((s.logSelf wholeUnit).stepFailed 3 wholeUnit) with fls := { s.fls with state := .failed } }
  else { s with fls := s.fls.started }

/-- Start-up's steps on a state at step 1. -/
def State.startUp (s : State) : State :=
  let s := s.startParts
  if s.noRegion then s.enterRecovery 5
  else
    let s := s.startFlash
    match s.fwLoad kindSERVICE, s.fwLoad kindREGION with
    | some a, some b => s.finishStart a b
    | _, _ => s.enterRecovery 6

/-- A cold start. -/
def State.coldStart (s : State) : State := s.bare.startUp

/-- A package warm reset. -/
def State.warmReset (s : State) : State := s.warm.startUp

/-! ## The exit from Cold (R412) -/

/-- The PREFERRED images of both kinds, as they would be loaded. -/
def State.preferredImage (s : State) (kind : Nat) : Loaded :=
  let k := s.svc.fw[kindIx kind]
  { slot := k.first.val, fallback := false, image := k.slots[k.first].image }

/-- Whether the images that Cold's exit reloads have the digests of the last full authentication. -/
def State.digestsHold (s : State) : Bool :=
  s.svc.keptDigests == [Config.sha384 (fwBody (s.preferredImage kindSERVICE).image), Config.sha384 (fwBody (s.preferredImage kindREGION).image)]

/-- The exit from Cold. -/
def State.leaveCold (s : State) : State :=
  let s := s.setPower 0
  if s.digestsHold then
    let t := s.bare.startParts
    if t.noRegion then t.enterRecovery 5
    else t.startFlash.finishStart (s.preferredImage kindSERVICE) (s.preferredImage kindREGION)
  else s.coldStart

/-- The package has power on its dies: not in Cold, not TRIPPED (R408, R423). -/
def State.diesOn (s : State) : Bool := s.pwr.powered && !s.pwr.tripped && s.pwr.current != 4

/-- Asked for where the dies have power; TRIPPED and Cold are left only by their own requests (R412, R423). -/
def execPackageWarmReset (s : State) : Host.Outcome State Fault Refusal := .next (if s.diesOn then s.warmReset else s)

/-- A service-die core's watchdog, 100 ms, causes a package warm reset (R37); in TRIPPED, which only R423's requests end, it is logged. -/
def execControlCoreWatchdogExpiry (_w : ControlCore) (s : State) : Host.Outcome State Fault Refusal :=
  .next (
    let s := s.logEv { source := 8, cause := 3, unit := wholeUnit }
    if s.diesOn then s.warmReset else s)

/-! ## Loss of a copy (R326) -/

/-- The copy on a stack lost; it is made again from the other, or with both lost the package resets. -/
def State.loseCopy (s : State) (second : Bool) : State :=
  match second, s.copyA, s.copyB with
  | false, some _, some b => { s with copyA := s.copyPlace b }
  | true, some a, some _ => { s with copyB := s.copyPlace a }
  | false, none, some b => { s with copyA := s.copyPlace b }
  | true, some a, none => { s with copyB := s.copyPlace a }
  | _, _, _ => s.warmReset

end Sys2Proof.Machine
end

