-- ==== Sys2Proof/Machine/Recovery.lean ====
section
/-! DEFINITION. Epochs, core fences, region resets, die faults and returns (17, R330 to R340; 02, R36; 08, R164, R165; 12, R237; 18,
R361). -/

namespace Sys2Proof.Machine

/-! ## Epochs (R330) -/

/-- Whether a part's epoch may advance now: 1 ms after its last advance. -/
def EpochEntry.mayAdvance (e : EpochEntry) (now : Nat) : Bool :=
  match e.lastNs with
  | some t => decide (t + 1000000 ≤ now)
  | none => true

/-- An advance owed by a fence or by a reset's end: made at once, or delayed. -/
def EpochEntry.advance (e : EpochEntry) (now : Nat) : EpochEntry :=
  if e.owed = 0 && e.mayAdvance now then { e with epoch := e.epoch + 1, lastNs := some now } else { e with owed := e.owed + 1 }

/-- IN_SERVICE once no advance is owed. -/
def EpochEntry.settle (e : EpochEntry) : EpochEntry :=
  if e.returning && e.owed = 0 then { e with state := .inService, returning := false } else e

/-- A part fenced. -/
def State.fencePart (s : State) (p : Part) : State :=
  if (s.part p).state = .fenced then s
  else s.updPart p (fun e => { e.advance s.timeNs with state := .fenced, returning := false })

/-- A part's reset begun. -/
def State.resetPart (s : State) (p : Part) : State := s.updPart p (fun e => { e with state := .resetting, returning := false })

/-- A part's reset ended. -/
def State.returnPart (s : State) (p : Part) : State :=
  s.updPart p (fun e => { e.advance s.timeNs with returning := true }.settle)

/-- A delayed advance made. -/
def EpochEntry.late (e : EpochEntry) (now : Nat) : EpochEntry :=
  { e with epoch := e.epoch + 1, lastNs := some now, owed := e.owed - 1 }.settle

def execEpochAdvance (p : Part) (s : State) : Host.Outcome State Fault Refusal :=
  .next (
    let e := s.part p
    if 0 < e.owed && e.mayAdvance s.timeNs then (s.updPart p (fun e => e.late s.timeNs)).quenchMended else s)

/-! ## Work lost with a core (R165, R237, R338) -/

/-- Positions that a discarded instance's KVAPPs wrote count no longer. -/
def Cmd.forgetAll (cm : Cmd) (i : Nat) : Cmd :=
  let keep (ws : List Written) : List Written := ws.filter (fun w => w.inst != i)
  { cm with pages := cm.pages.map (fun a => { a with keys := keep a.keys, values := keep a.values }) }

/-- The flags that an instance has folded into its command taken back: those of the replay count (R105). -/
def Cmd.dropFlags (cm : Cmd) (i : Nat) : Cmd :=
  let insts := cm.insts.map (fun x => if x.index = i then { x with flags := {} } else x)
  { cm with insts := insts, flags := Flags.joinAll (insts.map (·.flags)) }

/-- A kernel slot discarded: its instance waits for a place again, its command is lossy. -/
def State.loseSlot (s : State) (c : CoreId) (k : KsId) : State :=
  match (s.slot c k).cmd with
  | none => s.dropSlot c k
  | some (q, n) =>
    let idx (cm : Cmd) : Option Nat := (cm.insts.find? (fun i => i.placed == some (c, k) && !i.ended)).map Inst.index
    let s := (s.dropSlot c k).updCmd q n (fun cm =>
      let cm' := match idx cm with
        | some i => (cm.forgetAll i).dropFlags i
        | none => cm
      { cm'.unplace c k 0 with lossy := true })
    s.trapEnd q n

/-- Coils that hold units on a core go back to their park areas; rounds that ran on them run again (R237). -/
def State.loseCoils (s : State) (c : CoreId) : State :=
  (s.coils.filter (fun e => !e.2.tail && e.2.holdsUnits && e.2.cores.contains c)).foldl (fun s e =>
    let s := s.setStatus e.1 (if e.2.reset then .idle else .parked)
    match e.2.holder with
    | some (q, n) => s.restartRound q n e.1 e.2.pair
    | none => s) s

/-- The commands that hold coils taken on again: their rounds replay. -/
def State.replayRounds (s : State) : State :=
  (s.cmds.filter (fun cm => cm.type == tyRound && cm.phase == .dispatched && !cm.held)).foldl (fun s cm => s.continueRound cm.q cm.n) s

/-- A core's memories unwritten. -/
def State.clearCore (s : State) (c : CoreId) : State :=
  { s with
    coreStore := s.coreStore.mark (c.val * coreStoreBytes) coreStoreBytes
    accMem := s.accMem.mark (c.val * accBytes) accBytes }

/-- Everything on a core lost. -/
def State.loseCore (s : State) (c : CoreId) : State :=
  let s := (List.finRange 4).foldl (fun s k => s.loseSlot c k) s
  ((s.loseCoils c).clearCore c).updCore c (fun co => { co with icache := [], token := false })

/-! ## Core faults (R338) -/

def State.coreFault (s : State) (c : CoreId) : State :=
  if !s.coreUp c then s else
  let s := s.logEv { source := 8, cause := 1, unit := c.val, epoch := (s.part (.core c)).epoch }
  let s := (s.fencePart (.core c)).updCore c (fun co => { co with fenced := true })
  (s.loseCore c).replayRounds

def execCoreFault (c : CoreId) (why : CoreFaultCause) (s : State) : Host.Outcome State Fault Refusal :=
  .next (match why with
    | .vectorEngine =>
      if s.coreUp c then (s.updCore c (fun co => { co with vec := .fenced, vecChanges := satAdd 16 co.vecChanges 1 })).coreFault c else s
    | .checker => s.coreFault c
    | .stall => s.coreFault c
    | .droop => s.coreFault c)

/-- A RUNNING slot whose next instruction could issue and has not for 1 ms (R338). -/
def execKernelSlotStall (c : CoreId) (k : KsId) (s : State) : Host.Outcome State Fault Refusal :=
  .next (if (s.slot c k).state = .running && s.ready c k then s.coreFault c else s)

/-! ## Region resets (R335, R339) -/

/-- The registers of the region reset domain; SCH_ROLE, RGC_WDT and INT_SCRUB_CFG lie in the package domain (R17, R36, R370). -/
def Region.restart (r : Region) : Region :=
  { Region.reset with
    role := r.role
    roleNow := r.roleNow
    rolePending := r.rolePending
    wdtExpiries := r.wdtExpiries
    wdtWriteErr := r.wdtWriteErr
    wdtPeriod := r.wdtPeriod
    scrubPeriod := r.scrubPeriod
    atomQ := r.atomQ
    pages2M := r.pages2M
    spareLanes := r.spareLanes
    stackLanes := r.stackLanes
    lanesBad := r.lanesBad
    hardUsed := r.hardUsed
    hardFree := r.hardFree
    softRows := r.softRows
    softUsed := r.softUsed
    drain := r.drain
    outOfService := r.outOfService
    runSlot := r.runSlot
    runVersion := r.runVersion
    runSvn := r.runSvn
    runFallback := r.runFallback }

/-- The core registers of the region reset domain (R62, R104, R125, R126). -/
def Core.restart (co : Core) : Core :=
  { Core.reset with accUnits := co.accUnits, owner := co.owner, fenced := co.fenced, point := co.point }

/-- A dispatched, uncommitted command's counter block lies in a region. -/
def Cmd.homedIn (g : RegionId) (cm : Cmd) : Bool :=
  cm.counter != 0 && (cm.phase == .dispatched || cm.phase == .ready) && cm.home == some g

/-- Commands whose counter block a region loses are lossy (R164). -/
def State.markHomed (s : State) (g : RegionId) : State :=
  { s with cmds := s.cmds.map (fun cm => if cm.homedIn g then { cm with lossy := true } else cm) }

/-- Commands that a reset of a region marks: they place no more instances there (R164, R339). -/
def State.markCmds (s : State) (g : RegionId) : State :=
  let s := s.markHomed g
  { s with cmds := s.cmds.map (fun cm => if cm.phase = .dispatched then { cm with bannedRegions := g :: cm.bannedRegions } else cm) }

/-- Region memory, core stores, accumulators and registers of a region lost. -/
def State.clearRegion (s : State) (g : RegionId) : State :=
  let s := (coresOf g).foldl (fun s c => (s.loseCore c).updCore c Core.restart) s
  { s with regionMem := s.regionMem.mark (g.val * regionBytes) regionBytes }.updRegion g Region.restart

/-- Command store copies that a region's stack holds move (R326). -/
def State.moveCopies (s : State) (g : RegionId) : State :=
  let s := if s.copyA = some g then s.loseCopy false else s
  if s.copyB = some g then s.loseCopy true else s

/-- A copy of the command store lost; commands whose entry in the other copy reads uncorrectable too fail (R326, R337). -/
def execCommandStoreCopyLoss (loss : CopyLoss) (s : State) : Host.Outcome State Fault Refusal :=
  .next (if s.isReady then loss.unreadable.foldl (fun s p => s.failCmd p.1 p.2 stData) (s.loseCopy loss.second) else s)

/-- A region reset begins. -/
def State.beginReset (s : State) (g : RegionId) (cause : Nat) : State :=
  if s.regionState g != .inService then s else
  let s := s.logEv { source := 8, cause := cause, unit := g.val, epoch := (s.part (.region g)).epoch }
  let s := (s.markCmds g).quenchBroken
  let s := (coresOf g).foldl (fun s c => s.resetPart (.core c)) (s.resetPart (.region g))
  ((s.clearRegion g).moveCopies g).replayRounds

def execRegionReset (g : RegionId) (s : State) : Host.Outcome State Fault Refusal := .next (s.beginReset g 2)

def execRegionWatchdogExpiry (g : RegionId) (s : State) : Host.Outcome State Fault Refusal :=
  .next (if s.regionState g != .inService then s
    else (s.updRegion g (fun r => { r with wdtExpiries := satAdd 16 r.wdtExpiries 1 })).beginReset g 3)

/-! ## The end of a region reset (R164, R335) -/

/-- A counter block rebuilt from its command and its bitmap (R164). -/
def rebuildAct (ctx : Nat) (cm : Cmd) : Act Unit := do
  let b0 ← getNat ctx cm.bitmap 4
  let journal ← getNat ctx (cm.bitmap + 0x10) 8
  putVirt ctx cm.counter (leBytes 4 (0x0100 + fld b0 17 16 * 2 ^ 16) ++ leBytes 4 (cm.jstep + fld b0 30 18 * 2 ^ 16)
    ++ leBytes 8 journal ++ leBytes 8 cm.bitmap ++ zeros 40)

/-- Every counter block homed in a region rebuilt: the commands whose bitmap cannot be read; none where a table or bitmap lies in
another part that is away. -/
def rebuildGo : List Cmd → State → List (Nat × Nat) → Option (State × List (Nat × Nat))
  | [], s, bad => some (s, bad)
  | cm :: r, s, bad =>
    match (rebuildAct (s.queueCtx cm.q) cm).run s with
    | .ok (_, s) => rebuildGo r s bad
    | .error (.status _ nt) => rebuildGo r (s.noteErr nt) ((cm.q, cm.n) :: bad)
    | .error (.fenced _) => rebuildGo r s bad
    | .error _ => none

def State.failAll (s : State) (l : List (Nat × Nat)) : State := l.foldl (fun s p => s.failCmd p.1 p.2 stData) s

/-- A region shown as answering. -/
def State.answering (s : State) (g : RegionId) : State :=
  (s.updPart (.region g) (fun e => { e with state := .inService })).updPart (.die (dieOfRegion g)) (fun e => { e with state := .inService })

/-- Repair, training and firmware of a region at its reset; whether it may return. -/
def State.reloadRegion (s : State) (g : RegionId) : State × Bool :=
  let (s, out) := s.repairRegion g
  let (s, bad) := s.trainStack g
  match out || bad, s.fwLoad kindREGION with
  | false, some l => (s.runRegion g l, true)
  | _, _ => (s.regionOut g, false)

/-- The cores of a region return with it, but for those that lost a core store bank. -/
def State.returnCores (s : State) (g : RegionId) : State :=
  (coresOf g).foldl (fun s c => if s.cores[c].fenced then s.fencePart (.core c) else s.returnPart (.core c)) s

/-- A region that cannot return stays out of service (R364, R434). -/
def State.leaveService (s : State) (g : RegionId) : State :=
  (coresOf g).foldl (fun s c => s.fencePart (.core c)) (s.fencePart (.region g))

/-- The end of a region's reset: none while a rebuild waits for another part. -/
def State.finishReset (s : State) (g : RegionId) : Option State :=
  let (s1, ok) := s.reloadRegion g
  if !ok then some (s1.leaveService g).quenchMended else
  match rebuildGo (s1.cmds.filter (Cmd.homedIn g)) (s1.answering g) [] with
  | none => none
  | some (s2, bad) =>
    let s3 := { s2 with epochs := s1.epochs }.returnPart (.region g)
    some ((s3.returnCores g).failAll bad).replayRounds.runCulls.quenchMended

/-! ## Dies (R340) -/

/-- Commands with an instance or a resident round on a die. -/
def State.onDie (s : State) (d : DieId) : List (Nat × Nat) :=
  (s.cmds.filter (fun cm => cm.phase == .dispatched && !cm.held && (
      cm.insts.any (fun i => !i.ended && (match i.placed with
        | some (c, _) => dieOfRegion (regionOfCore c) == d
        | none => false))
      || cm.rounds.any (fun r => match lookup s.coils r.coil with
        | some x => x.holdsUnits && dieOfRegion (regionOfCore x.core) == d
        | none => false)))).map (fun cm => (cm.q, cm.n))

def portsOf (d : DieId) : List DaritPort := [⟨2 * d.val, by have := d.isLt; omega⟩, ⟨2 * d.val + 1, by have := d.isLt; omega⟩]

def State.updPort (s : State) (p : DaritPort) (f : DPort → DPort) : State :=
  s.updDarit (fun d => { d with ports := d.ports.set p (f d.ports[p]) })

/-- A record of SOURCE 11, DARIT (R391). -/
def State.logDarit (s : State) (cause unit : Nat) : State := s.logEv { source := 11, cause := cause, unit := unit }

/-- A Darit port that was UP goes down: the frames in flight on it are lost, its epoch advances, routes are computed again (R335, R378,
R384). -/
def State.portLeaves (s : State) (p : DaritPort) : State :=
  if s.darit.ports[p].st = .up then
    let s := s.dropTransfers (fun t => t.link == .darit p)
    (s.updPart (.darit p) (fun e => { e.advance s.timeNs with state := .resetting, returning := false })).logDarit 6 wholeUnit
  else s

/-- A port that is neither UP nor on its way there. -/
def State.portRests (s : State) (p : DaritPort) : State :=
  (s.updPart (.darit p) (fun e => { e with state := .fenced, returning := false })).quenchMended

/-- A port reset to its registers' reset values in a state, with a cause (R389). -/
def State.portTo (s : State) (p : DaritPort) (st : LinkState) (cause : Nat) : State :=
  let s := (s.portLeaves p).updPort p (fun x => { DPort.reset with enable := x.enable, dim := x.dim, dir := x.dir, st := st, cause := cause })
  if st = .training then (s.resetPart (.darit p)).quenchBroken else s.portRests p

/-- A port reset, to train again where it may (R384). -/
def State.portReset (s : State) (p : DaritPort) : State :=
  let y := s.darit.portStart s.darit.ports[p]
  let s := s.portTo p y.st y.cause
  if y.st = .held then s.logDarit 5 p.val else s

/-- A die's port goes DOWN with it. -/
def State.portFenced (s : State) (p : DaritPort) : State :=
  if s.darit.ports[p].enable then (s.portTo p .down 0).logDarit 4 p.val else s

def State.dieFault (s : State) (d : DieId) : State :=
  if (s.part (.die d)).state = .fenced then s else
  let s := s.logEv { source := 8, cause := 1, unit := d.val, epoch := (s.part (.die d)).epoch }
  let victims := s.onDie d
  let s := (s.fencePart (.die d)).quenchBroken
  let s := (regionsOf d).foldl (fun s g => (coresOf g).foldl (fun s c => s.fencePart (.core c)) (s.fencePart (.region g))) s
  let s := (regionsOf d).foldl (fun s g => (coresOf g).foldl State.loseCore s) s
  let s := victims.foldl (fun s v => s.holdCmd v.1 v.2 (.die d.val)) s
  let s := (portsOf d).foldl State.portFenced s
  ((regionsOf d).foldl State.moveCopies s).replayRounds

def execDieFault (d : DieId) (s : State) : Host.Outcome State Fault Refusal := .next (s.dieFault d)

/-! ## Held commands (R340, R380) -/

/-- A command as it stood before its dispatch. -/
def Cmd.again (cm : Cmd) : Cmd :=
  { cm with
    phase := .waiting
    held := false
    heldOn := none
    lossy := true
    flags := {}
    insts := []
    targets := []
    counter := 0
    home := none
    bitmap := 0
    jstep := 0
    pages := []
    reserved := []
    paths := []
    culls := []
    rounds := []
    desc := []
    roundDone := []
    outs := []
    deadline := none
    saves := [] }

/-- A held command dispatched again from its start: what it held is let go; while a part that this needs is away it stays held. -/
def State.redispatch (s : State) (q n : Nat) : State :=
  match s.cmd? q n with
  | none => s
  | some cm =>
    let (s, paid) := s.payOwed q n
    if paid then (s.releaseHolds q n cm).updCmd q n Cmd.again else s

/-- The held commands that a test picks, dispatched again. -/
def State.unhold (s : State) (p : HoldWhy → Bool) : State :=
  (s.cmds.filter (fun cm => cm.held && (match cm.heldOn with
    | some w => p w
    | none => false))).foldl (fun s cm => s.redispatch cm.q cm.n) s

/-! ## The return of a die (R335, R340) -/

/-- The contents of a stack lost: unwritten, and the descriptors and coil entries that lay there unreadable (R337, R340, R361). -/
def State.loseStack (s : State) (g : RegionId) : State :=
  { s with
    stacked := s.stacked.mark (g.val * stackSpan) stackSpan
    seqs := s.seqs.map (fun e => (e.1, { e.2 with bad := e.2.bad || (s.tblSeq + 64 * e.1) / stackSpan == g.val }))
    coils := s.coils.map (fun e => (e.1, { e.2 with bad := e.2.bad || (s.tblCoil + 32 * e.1) / stackSpan == g.val })) }

/-- One region of a die that returns; contents of a stack that did not survive are unwritten. -/
def State.regionBack (lost : List RegionId) (s : State) (g : RegionId) : State :=
  let s := (s.markHomed g).clearRegion g
  let s := if lost.contains g then s.loseStack g else s
  if s.regions[g].outOfService then s else s.resetPart (.region g)

/-- Regions of a die ended in turn. -/
def finishAll : List RegionId → State → Option State
  | [], s => some s
  | g :: r, s =>
    if s.regions[g].outOfService then finishAll r s else
    match s.finishReset g with
    | some s => finishAll r s
    | none => none

def State.dieReturn (s : State) (d : DieId) (lost : List RegionId) : State :=
  if (s.part (.die d)).state != .fenced then s else
  -- its stations' checkers are tested again; while one fails the die stays fenced (R366)
  if s.stationBad d then s.logSelf d.val else
  let s1 := s.logEv { source := 8, cause := 2, unit := d.val, epoch := (s.part (.die d)).epoch }
  let s1 := (regionsOf d).foldl (State.regionBack lost) ((s1.resetPart (.die d)).returnPart (.die d))
  match finishAll (regionsOf d) s1 with
  | none => s
  | some s2 =>
    let s2 := (portsOf d).foldl State.portReset s2
    let why (w : HoldWhy) : Bool := w == .die d.val || w == .roles
    (s2.unhold why).runCulls.quenchMended

def execDieReturn (d : DieId) (stacksLost : List RegionId) (s : State) : Host.Outcome State Fault Refusal :=
  .next (s.dieReturn d stacksLost)

end Sys2Proof.Machine
end

