-- ==== Sys2Proof/Machine/Port.lean ====
section
/-! DEFINITION. The service port's messages: sessions, replies, identity, log, staging (22, R435, R438, R439, R443, R445; 18, R368). -/

namespace Sys2Proof.Machine

/-! ## Messages (R438, R439) -/

/-- A reply: the header with its status, then the body. -/
def svcMessage (h : SvcHdr) (status : Nat) (body : List Byte) : List Byte :=
  leBytes 4 (0x0100 + h.opcode.toNat * 2 ^ 16) ++ leBytes 4 body.length ++ leBytes 4 h.reqId.toNat ++ leBytes 4 status ++ body

def State.answer (s : State) (h : SvcHdr) (status : Nat) (body : List Byte) : State := { s with reply := svcMessage h status body }

/-- The first failing check of a header (R4, R438). -/
def hdrFails (h : SvcHdr) : Option Nat :=
  if h.abiMajor ≠ 1 || h.abiMinor ≠ 0 || h.reserved ≠ 0 || h.status ≠ 0 then some stVersion
  else if 66048 < h.length.toNat then some stMalformed
  else none

/-- Which requests a phase serves. -/
inductive SvcWhen where
  | ready | recovery | tripped
deriving DecidableEq, Repr

def State.serves (s : State) (w : SvcWhen) : Bool :=
  match w with
  | .ready => s.svc.phase == 8
  | .recovery => s.svc.phase == 8 || s.svc.phase == 9
  | .tripped => s.svc.phase == 8 || s.svc.phase == 9 || s.pwr.tripped

/-- A message wakes the package from Ash and Cold; its session outlives the wake (R411, R412, R438). -/
def State.portWake (s : State) : State :=
  if s.pwr.current = 4 && s.pwr.powered then
    s.leaveCold.updSvc (fun v => { v with session := s.svc.session })
  else s.awake

/-- A request of a session: the package awake, its header checked, then served; the ROM subset refuses what it does not hold (log 41). -/
def State.svc? (s : State) (h : SvcHdr) (w : SvcWhen) (f : State → State) : State :=
  let s := s.portWake
  if s.svc.session.isNone || !(s.svc.phase == 8 || s.svc.phase == 9 || s.pwr.tripped) then s
  else match hdrFails h with
    | some st => s.answer h st []
    | none => if s.serves w then f s else s.answer h stMalformed []

/-! ## Sessions (R438) -/

def execServiceSessionConnect (s : State) : Host.Outcome State Fault Refusal :=
  .next (if s.svc.session.isSome || !s.pwr.standby then s
    else (s.updSvc (fun v => { v with session := some (Config.nonce s.freshCtr) })).fresh)

def execServiceSessionClose (s : State) : Host.Outcome State Fault Refusal :=
  .next (s.updSvc (fun v => { v with session := none }))

/-! ## Register words that STATUS reports too (R445) -/

def State.svcStateWord (s : State) : Nat := s.svc.phase + min s.svc.waiting.length 16 * 2 ^ 8

def fwCode : FwState → Nat
  | .empty => 0
  | .staging => 1
  | .valid => 2
  | .invalid => 3

def FwKind.word (k : FwKind) : Nat := fwCode k.slots[0].state + fwCode k.slots[1].state * 2 ^ 4 + bitN k.preferred * 2 ^ 31

def FwSlot.version (x : FwSlot) : Nat := if x.state = .valid then fwVersion x.image else 0

/-- SVC_RUN of a version, slot and fallback. -/
def runWord (version : W32) (slot : Nat) (fallback : Bool) : Nat :=
  version.toNat / 2 ^ 16 * 2 ^ 16 + bitN fallback * 2 + slot % 2

def State.runWordOf (s : State) (i : Nat) : Nat :=
  if i < 12 then
    let r := s.regions[regionN i]
    runWord r.runVersion r.runSlot r.runFallback
  else runWord s.svc.runVersion s.svc.runSlot s.svc.runFallback

/-- The words of one image kind: SVC_FW and both versions. -/
def FwKind.words (k : FwKind) : List Nat := [k.word, k.slots[0].version, k.slots[1].version]

/-- PWR_TRIP. -/
def Power.tripWord (p : Power) : Nat := bitN p.tripped * 2 ^ 31 + bitN p.lastTrip * 2 ^ 30

/-! ## HELLO, STATUS (R439) -/

def execHello (hdr : SvcHdr) (s : State) : Host.Outcome State Fault Refusal :=
  .next (s.svc? hdr .tripped (fun s => s.answer hdr stDone
    (leBytes 8 s.svc.serial.toNat ++ leBytes 4 s.svc.hwType.toNat ++ leBytes 4 s.svc.runVersion.toNat
      ++ s.regions.toList.flatMap (fun r => leBytes 4 r.runVersion.toNat)
      ++ s.svc.session.getD [] ++ Config.certificates)))

def execStatus (hdr : SvcHdr) (s : State) : Host.Outcome State Fault Refusal :=
  .next (s.svc? hdr .tripped (fun s => s.answer hdr stDone
    (([s.svcStateWord] ++ s.svc.fw.toList.flatMap FwKind.words ++ (List.range 13).map s.runWordOf ++ [s.pwr.tripWord]).flatMap
      (leBytes 4))))

/-! ## READ_LOG (R367, R368) -/

/-- The 32 bytes of a log record. -/
def LogRec.bytes (r : LogRec) : List Byte :=
  leBytes 8 r.timeNs ++ leBytes 4 r.number ++ leBytes 4 (r.status + r.cause * 2 ^ 8 + r.source * 2 ^ 16 + bitN r.writing * 2 ^ 31)
    ++ leBytes 4 (r.unit % 65536 + (match r.ctx with
        | some c => c * 2 ^ 16 + 2 ^ 28
        | none => 0))
    ++ leBytes 4 (r.epoch.toNat + r.bit * 2 ^ 16) ++ leBytes 8 r.address

/-- Records from a number on, in order, as far as the log holds them. -/
def ErrLog.from_ (l : ErrLog) (first count : Nat) : List LogRec :=
  (List.range (min count 2048)).filterMap (fun i => l.recs.find? (fun r => r.number == (first + i) % 2 ^ 32))

def execReadLog (hdr : SvcHdr) (first count : Nat) (s : State) : Host.Outcome State Fault Refusal :=
  .next (s.svc? hdr .tripped (fun s =>
    if 2048 < count then s.answer hdr stMalformed []
    else s.answer hdr stDone ((s.log.from_ first count).flatMap LogRec.bytes)))

/-! ## Attestation (R443) -/

/-- The digest of a region's running body, zero while the region is out of service. -/
def State.regionDigest (s : State) (g : RegionId) : List Byte :=
  if s.regions[g].outOfService || s.regionState g == .fenced then zeros 48 else s.svc.regionDigest[g]

/-- Evidence without its signatures. -/
def State.evidenceBody (s : State) (nonce : List Byte) : List Byte :=
  leBytes 4 0x0100 ++ leBytes 4 s.svc.hwType.toNat ++ leBytes 8 s.svc.serial.toNat ++ nonce ++ leBytes 8 s.timeNs
    ++ leBytes 8 (s.svc.svn[0] + s.svc.svn[1] * 2 ^ 8 + bitN s.pwr.immMode * 2 ^ 16 + bitN (s.svc.phase == 9) * 2 ^ 17)
    ++ s.svc.serviceDigest ++ (List.finRange 12).flatMap s.regionDigest ++ zeros 80

/-- Evidence with both device signatures (log 11). -/
def State.evidence (s : State) (nonce : List Byte) : List Byte :=
  s.evidenceBody nonce ++ Config.devSign (s.evidenceBody nonce)

def execAttest (hdr : SvcHdr) (nonce : List Byte) (s : State) : Host.Outcome State Fault Refusal :=
  .next (s.svc? hdr .ready (fun s =>
    if nonce.length ≠ 32 then s.answer hdr stMalformed [] else s.answer hdr stDone (s.evidence nonce)))

/-- The same evidence over DOE, in configuration space, in RECOVERY too: the evidence has a bit for it (R443). -/
def execDoeAttest (_h : HostPort) (nonce : List Byte) (s : State) : Host.Outcome State Fault Refusal :=
  .next (if s.serves .recovery && nonce.length = 32 then { s with reply := s.evidence nonce } else s)

/-! ## Staging (R435) -/

def kindOk (kind : Nat) : Bool := kind == 1 || kind == 2

def fwSlotBytes : Nat := 33554432

def State.stageBegin (s : State) (h : SvcHdr) (kind size : Nat) : State :=
  let k := s.svc.fw[kindIx kind]
  if !kindOk kind || size = 0 || fwSlotBytes < size then s.answer h stMalformed []
  else if k.staging then s.answer h stBusy []
  else (s.updFw kind (fun k => { k with slots := k.slots.set k.spare { state := .staging, image := [] }, size := size })).answer h stDone []

def execStageBegin (hdr : SvcHdr) (kind size : Nat) (s : State) : Host.Outcome State Fault Refusal :=
  .next (s.svc? hdr .recovery (fun s => s.stageBegin hdr kind size))

/-- Bytes taken in order, within the announced size. -/
def State.stageData (s : State) (h : SvcHdr) (kind off : Nat) (data : List Byte) : State :=
  let k := s.svc.fw[kindIx kind]
  let img := k.slots[k.spare].image
  if !kindOk kind || !k.staging || off ≠ img.length || k.size < off + data.length || 65536 < data.length then s.answer h stMalformed []
  else (s.updFw kind (fun k => { k with slots := k.slots.set k.spare { state := .staging, image := img ++ data } })).answer h stDone []

def execStageData (hdr : SvcHdr) (kind off : Nat) (data : List Byte) (s : State) : Host.Outcome State Fault Refusal :=
  .next (s.svc? hdr .recovery (fun s => s.stageData hdr kind off data))

/-- The staged image checked: VALID and PREFERRED, or INVALID. -/
def State.stageEnd (s : State) (h : SvcHdr) (kind : Nat) : State :=
  let k := s.svc.fw[kindIx kind]
  let img := k.slots[k.spare].image
  if !kindOk kind || !k.staging then s.answer h stMalformed []
  else
    let st := s.fwStatus kind img k.size true
    if st = stDone then
      ((s.updFw kind (fun k => { k with
        slots := k.slots.set k.spare { state := .valid, image := img }
        preferred := !k.preferred })).logSvc 2 wholeUnit).answer h stDone []
    else
      ((s.updFw kind (fun k => { k with slots := k.slots.set k.spare { state := .invalid, image := img } })).logSvc 3 wholeUnit st).answer
        h st []

def execStageEnd (hdr : SvcHdr) (kind : Nat) (s : State) : Host.Outcome State Fault Refusal :=
  .next (s.svc? hdr .recovery (fun s => s.stageEnd hdr kind))

end Sys2Proof.Machine
end

