-- ==== Sys2Proof/Machine/Fabric.lean ====
section
/-! DEFINITION. Requests on the fabric (17, R331 to R333; 15, R283, R284; 19, R379, R380) and time slots (02, R27 to R34). -/

namespace Sys2Proof.Machine

def State.updSlots (s : State) (f : TimeSlots → TimeSlots) : State := { s with slots := f s.slots }

/-! ## Transfers -/

/-- A transfer that begins its path; a path without a link has nothing to wait for. -/
def State.send (s : State) (id cls : Nat) (prio : PrioClass) (bytes : Nat) (path : List FabLink) (chan : Option Nat) (write : Bool)
    (age : Nat := 0) (vc : Fin 3 := 0) : State :=
  match path with
  | [] => s
  | l :: rest => s.updSlots (fun t => { t with waiting := t.waiting ++
      [{ id := id, cls := cls, prio := prio, bytes := bytes, link := l, rest := rest, beats := linkBeats l bytes, begun := false,
         since := s.timeNs, born := s.timeNs, promoted := false, chan := chan, write := write,
         age := age, vc := vc }] })

/-! ## Requests and replies (R331, R332, R379, R380) -/

/-- How a part answers. -/
def State.stateOf (s : State) (p : Part) : PartState :=
  match p with
  | .region g => s.regionState g
  | p => (s.part p).state

/-- Whether two requests are of one ordering class (R332, R379). -/
def sameClass (a b : FabricReq) : Bool :=
  a.requester == b.requester && a.node == b.node && a.target == b.target && a.prio == b.prio

/-- The other device that a request names, if it names one; its own node id names this device (R383). -/
def State.remoteNode (s : State) (r : FabricReq) : Option Nat :=
  match r.node with
  | some n => if n = s.darit.nodeId then none else some n
  | none => none

/-- The block that a request names in its target region. -/
def reqLoc (r : FabricReq) : Loc :=
  if r.sram then .region (r.addr / 32 * 32) else .stacked (r.addr / 32 * 32)

/-- UNIT of the checker at a part that reads (R463). -/
def transitUnit : Part → Nat
  | .core c => c.val
  | .region g => 0x0100 + g.val
  | .die d => 0x0200 + 8 * d.val + (stationOf (.die d)).val
  | .darit p => 0x0200 + 8 * (p.val / 2) + (stationOf (.darit p)).val
  | .host _ => 0xFFFF

/-- The block that a request reads as it travels. -/
def State.travelling (s : State) (r : FabricReq) : Stored :=
  if r.sram then s.regionMem.stored (r.addr / 32) else s.stackedStored (r.addr / 32)

/-- A read whose block turns bad on its way: the checker at the reader decodes it, as an error in storage (R359, R463; log 149). -/
def State.transitRead (s : State) (r : FabricReq) : State :=
  match s.locErr (reqLoc r) with
  | some _ => { s with reply := [] }
  | none =>
    let c := weaveDecode ((s.travelling r).flip r.flips)
    { s.noteBlockBy 5 (transitUnit r.requester) (reqLoc r) c with reply := c.bytes.getD [] }

/-- A write whose block turns bad on its way is stored as it arrives (R359). -/
def State.transitWrite (s : State) (r : FabricReq) : State :=
  if r.flips = 0 then s
  else if r.sram then { s with regionMem := { s.regionMem with bad := insertAt s.regionMem.bad (r.addr / 32) r.flips } }
  else { s with stacked := { s.stacked with bad := insertAt s.stacked.bad (r.addr / 32) r.flips } }

/-- The access itself, at the target: a read's bytes are the reply. -/
def State.fabricAccess (s : State) (r : FabricReq) : State :=
  match r.target with
  | .region g =>
    let a := r.addr / 32 * 32
    let here := if r.sram then a / regionBytes = g.val else s.stackedOk a = true ∧ a / stackSpan = g.val
    if ¬ here then { s with reply := [] }
    else match r.data with
      | some d => match s.writeLoc (reqLoc r) (leBytes 32 d.toNat) with
        | .ok s => { s.transitWrite r with reply := [] }
        | .error _ => { s with reply := [] }
      | none =>
        if r.flips ≠ 0 then s.transitRead r
        else match s.readLoc (reqLoc r) 32 with
          | .ok bs => { s.noteRead (reqLoc r) 32 with reply := bs }
          | .error _ => { s.noteRead (reqLoc r) 32 with reply := [] }
  | _ => { s with reply := [] }

/-- The region fabric station of a request's memory: 2 region memory, 3 the stack's controller. -/
def reqStation (r : FabricReq) : Fin 7 := if r.sram then 2 else 3

/-- The queue in which an access waits at its target region (R283). -/
def reqQueue (r : FabricReq) : List FabLink :=
  match r.target with
  | .region g => if r.sram then [.memory g] else [.controller g]
  | _ => []

/-- The way of a reply: the target's own queue, then from the target to the requester. -/
def State.replyPath (s : State) (r : FabricReq) : List FabLink := reqQueue r ++ s.path r.target r.requester (reqStation r)

/-- A reply on its way: a read's 32 bytes, or a write's acknowledgement. -/
def State.sendReply (s : State) (r : FabricReq) : State :=
  s.send r.id clsCOMPUTE r.prio (if r.data.isSome then 0 else 32) (s.replyPath r) (some (r.addr / 256 % 32)) r.data.isSome

/-- The member of a trunk on a die, else the lowest-numbered one, that is UP (R377). -/
def Darit.memberOn (d : Darit) (die : Option DieId) (dim : Nat) (minus : Bool) : Option DaritPort :=
  let good (q : DaritPort) : Bool := d.ports[q].st == .up && d.ports[q].dim == dim && d.ports[q].dir == minus
  ((List.finRange 8).find? (fun q => good q && dieOfPart (.darit q) == die)).orElse (fun _ => (List.finRange 8).find? good)

/-- Whether a hop of this device crosses the wrap of a dimension. -/
def Darit.wraps (d : Darit) (dim : Nat) (minus : Bool) : Bool :=
  d.coords.getD dim 0 == (if minus then 0 else d.sizes.getD dim 1 - 1)

/-- The virtual channel that a frame leaves on: 2 on a detour, 1 once it has crossed a wrap (R376). -/
def Darit.outChannel (d : Darit) (vc : Fin 3) (via : RouteAcc) (t : Nat × Bool) : Fin 3 :=
  if vc = 2 || via.detour then 2 else if d.wraps t.1 t.2 then 1 else vc

/-- A request's frame to another device: by the member on its requester's die, as COMPUTE traffic (R377). -/
def State.sendAway (s : State) (r : FabricReq) (via : RouteAcc) : State :=
  match via.first with
  | none => s
  | some t => match s.darit.memberOn (dieOfPart r.requester) t.1 t.2 with
    | none => s
    | some q => s.send r.id clsCOMPUTE r.prio (32 + (if r.data.isSome then 32 else 0))
        (s.path r.requester (.darit q) (reqStation r) ++ [.darit q]) none r.data.isSome 0 (s.darit.outChannel 0 via t)

/-- The route of a request to another device: none to a node whose incarnation is known to differ from the one that it carries (R380). -/
def State.routeFor (s : State) (r : FabricReq) (node : Nat) : Option RouteAcc :=
  if (lookup s.darit.incs node).any (· != r.inc) then none else s.darit.route node

/-- A request at its target's station: answered PART_ABSENT, or served. -/
def State.station (s : State) (r : FabricReq) : State × Bool :=
  if s.stateOf r.target = .inService && r.epoch == (s.part r.target).epoch then ((s.fabricAccess r).sendReply r, true)
  else (s.logAbsent r.target, false)

def State.addWait (s : State) (r : FabricReq) (stage : FabricStage) (via : Option RouteAcc) : State :=
  { s with fabric := s.fabric ++ [{ req := r, stage := stage, via := via }] }

/-- A request to another device: without a route, or with another incarnation, the local port station answers PART_ABSENT; it waits behind earlier ones of its class that
wait, or that went by another route; else its frame leaves. -/
def State.requestAway (s : State) (r : FabricReq) (node : Nat) : State :=
  match s.routeFor r node with
  | none => (s.logEv { source := 11, cause := 7, status := stAbsent, unit := wholeUnit, address := node }).addWait r .absent none
  | some via =>
    if s.fabric.any (fun w => sameClass w.req r && (w.stage != .served || w.via != some via)) then s.addWait r .behind none
    else (s.sendAway r via).addWait r .served (some via)

/-- A request arrives: held back behind a rejected one of its class, else taken to the station. -/
def State.request (s : State) (r : FabricReq) : State :=
  match s.remoteNode r with
  | some n => s.requestAway r n
  | none =>
    if s.fabric.any (fun w => w.stage == .absent && sameClass w.req r) then s.addWait r .behind none
    else
      let (s, ok) := s.station r
      s.addWait r (if ok then .served else .absent) none

/-- A request that had its frame sent, made again before those that wait behind it, on the route there now is (R379, R382). -/
def State.reissueAway (s : State) (r : FabricReq) : State :=
  match s.remoteNode r with
  | none => s.request r
  | some n => match s.routeFor r n with
    | none =>
      let s := s.logEv { source := 11, cause := 7, status := stAbsent, unit := wholeUnit, address := n }
      { s with fabric := { req := r, stage := .absent, via := none } :: s.fabric }
    | some via =>
      let s := s.sendAway r via
      { s with fabric := { req := r, stage := .served, via := some via } :: s.fabric }

def execFabricRequest (r : FabricReq) (s : State) : Host.Outcome State Fault Refusal := .next (s.request r)

/-- The requests that satisfy a condition and wait, taken out and made again in their order; those of one class stay behind each other. -/
def State.again (s : State) (mine : FabricWait → Bool) (f : FabricReq → FabricReq) : State :=
  let ws := s.fabric.filter mine
  let s : State := { s with fabric := s.fabric.filter (fun w => !mine w) }
  ws.foldl (fun s w => s.request (f w.req)) s

/-- Requests to other devices that wait, tried again: those held behind others, and after a change of the routes the rejected ones too. -/
def State.tryAway (s : State) (rejected : Bool) : State :=
  s.again (fun w => (w.stage == .behind || (rejected && w.stage == .absent)) && (s.remoteNode w.req).isSome) id

/-- A reply that has come all its way: with the epoch of its request it ends it; with another it is discarded and the request reissued
with that epoch. -/
def execFabricReply (id : Nat) (epoch : W16) (s : State) : Host.Outcome State Fault Refusal :=
  .next (if s.slots.waiting.any (fun x => x.id == id && x.cls == clsCOMPUTE) then s else
    match s.fabric.find? (fun w => w.req.id == id && w.stage == .served) with
    | none => s
    | some w =>
      let s : State := { s with fabric := s.fabric.filter (fun x => !(x.req.id == id && x.stage == .served)) }
      (if epoch = w.req.epoch then s else s.request { w.req with epoch := epoch }).tryAway false)

/-- The requests to a part that wait, reissued in their order with the epoch now known. -/
def State.reissue (s : State) (p : Part) : State :=
  s.again (fun w => w.stage != .served && w.req.target == p && (s.remoteNode w.req).isNone)
    (fun r => { r with epoch := (s.part p).epoch })

/-- Every 2 µs while the target is away the rejected requests are answered PART_ABSENT again; a fenced target is not asked. -/
def execPartAbsentRetry (p : Part) (s : State) : Host.Outcome State Fault Refusal :=
  .next (match s.stateOf p with
    | .inService => s.reissue p
    | .resetting => (s.fabric.filter (fun w => w.stage == .absent && w.req.target == p && (s.remoteNode w.req).isNone)).foldl
        (fun s _ => s.logAbsent p) s
    | .fenced => s)

/-! ## Promotion (R284) -/

/-- The region whose memory counters a link's promotions count in, and whose BULK_AGE_NS it keeps; a link of a die fabric, an edge and a
service link take the lowest-numbered region of their die (log 120). -/
def regionOfLink : FabLink → RegionId
  | .corePort c _ => regionOfCore c
  | .uplink cl _ => regionN (cl.val / 2)
  | .station g _ _ => g
  | .segment d st _ => if st.val < 3 then regionN (3 * d.val + st.val) else regionN (3 * d.val)
  | .edge d _ => regionN (3 * d.val)
  | .service d _ => regionN (3 * d.val)
  | .controller g => g
  | .memory g => g
  | .darit p => regionN (3 * (p.val / 2))

/-- A bulk transfer of COMPUTE that has waited BULK_AGE_NS at a link is promoted. -/
def execBulkPromotion (link : FabLink) (id : Nat) (s : State) : Host.Outcome State Fault Refusal :=
  .next (
    let hit (t : Transfer) : Bool := t.link == link && t.id == id && t.prio == .bulk && t.cls == clsCOMPUTE && !t.promoted
      && t.since + s.regions[regionOfLink link].bulkAge ≤ s.timeNs
    if s.slots.waiting.any hit then
      (s.updSlots (fun x => { x with waiting := x.waiting.map (fun t => if hit t then { t with promoted := true } else t) })).updCnt
        (regionOfLink link) (fun r => { r with memAged := r.memAged + 1 })
    else s)

/-! ## Grants (R28, R29, R283, R284) -/

/-- The transfer that goes next of some of one kind: the remainder of a split one, then promoted ones, then latency-critical ones, then
bulk ones, each in order of arrival (log 121). -/
def pickOne (cs : List Transfer) : Option Transfer :=
  (cs.find? Transfer.begun).orElse (fun _ => (cs.find? Transfer.promoted).orElse (fun _ =>
    (cs.find? (fun t => t.prio == .latency)).orElse (fun _ => cs.head?)))

/-- The ready COMPUTE transfer that a link serves. -/
def pickCompute (ts : List Transfer) : Option Transfer := pickOne (ts.filter (fun t => t.cls == clsCOMPUTE))

/-- The frame whose flit a Darit transmitter sends next: forwarded and local ones by turns where both are ready (R377). -/
def pickFlit (lastFwd : Bool) (ts : List Transfer) : Option Transfer :=
  let own := pickCompute ts
  let fwd := pickOne (ts.filter (fun t => t.cls == clsFORWARD))
  if lastFwd then own.orElse (fun _ => fwd) else fwd.orElse (fun _ => own)

/-- The transfer that a link grants a time slot of a class to: of several ready ones of a background class the one that arrived first
(DESIGN CHOICE, log 121: the manual gives no order). -/
def grantOf (cls : Nat) (ts : List Transfer) : Option Transfer :=
  if cls = clsCOMPUTE then pickCompute ts
  else match ts.find? (fun t => t.cls == cls) with
    | some t => some t
    | none => pickCompute ts

/-- Whether a transfer may be served at a controller whose bus is turned to writes on some pseudo-channels: a write once its batch is
gathered, or ended by a promoted write, or on a bus turned to writes; a read once no write of a begun batch is left (R284). -/
def readyAt (busWrite : List Nat) (here : List Transfer) (t : Transfer) : Bool :=
  let batch := here.filter (fun x => x.write && x.chan == t.chan)
  let turned := busWrite.contains (t.chan.getD 0)
  if t.write then turned || 16 ≤ batch.length || batch.any Transfer.promoted else !turned || batch.isEmpty

/-- What a link, a controller or a region memory serves in a time slot; the last two serve one transfer each slot (log 120). -/
def State.granted (s : State) (cls : Nat) (l : FabLink) : Option Transfer :=
  let here := s.slots.waiting.filter (fun t => t.link == l)
  match l with
  | .controller g => pickCompute (here.filter (readyAt s.regions[g].busWrite here))
  | .memory _ => pickCompute here
  | .darit p => if s.darit.ports[p].st = .up then pickFlit s.darit.ports[p].lastFwd here else none
  | _ => grantOf cls here

/-- A transfer past its link, in the FIFO of the next (R30). -/
def Transfer.move (t : Transfer) (now : Nat) : List Transfer :=
  match t.rest with
  | [] => []
  | l :: r => [{ t with link := l, rest := r, beats := linkBeats l t.bytes, begun := false, since := now, promoted := false }]

/-- A served transfer: what does not fit the time slot remains. -/
def State.serve (s : State) (ts : List Transfer) (t : Transfer) : List Transfer :=
  let fit := s.beatsOf t.link
  if fit < t.beats then ts.replace t { t with beats := t.beats - fit, begun := true }
  else ts.erase t ++ t.move s.timeNs

/-- A controller's bus after it served a transfer: turned round where it must be, and counted (R284, R293). -/
def State.turnBus (s : State) (t : Transfer) : State :=
  match t.link with
  | .controller g =>
    let c := t.chan.getD 0
    if s.regions[g].busWrite.contains c == t.write then s
    else (s.updRegion g (fun r => { r with busWrite := if t.write then c :: r.busWrite else r.busWrite.filter (· != c) })).updCnt g
      (fun r => { r with memTurn := r.memTurn + 1 })
  | _ => s

/-- A flit sent by a Darit port, counted; a forwarded frame's bytes with its last (R377, R389). -/
def State.sendFlit (s : State) (t : Transfer) : State :=
  match t.link with
  | .darit p => s.updPort p (fun x => { x with
      txFlits := x.txFlits + 1
      lastFwd := t.cls == clsFORWARD
      fwd := if t.cls = clsFORWARD ∧ t.beats ≤ 1 then x.fwd + BitVec.ofNat 64 t.bytes else x.fwd })
  | _ => s

/-- Every link's grant of a time slot of a class. -/
def State.grants (s : State) (cls : Nat) : State :=
  let ts := (((s.slots.waiting.map Transfer.link).eraseDups).filterMap (s.granted cls))
  (ts.foldl State.sendFlit (ts.foldl State.turnBus s)).updSlots (fun x => { x with waiting := ts.foldl s.serve x.waiting })

/-! ## Time slots (R30, R34, R405) -/

/-- The nanoseconds of a time slot and the offset left to slew: 4, and in every 500th slot one more or less (500 ppm, R405; log 39). -/
def slotNs (count : Nat) (slew : Int) : Nat × Int :=
  if count % 500 ≠ 0 || slew = 0 then (4, slew) else if 0 < slew then (5, slew - 1) else (3, slew + 1)

/-- Device time moved by a time slot. -/
def State.tick (s : State) : State :=
  let r := slotNs (256 * s.slots.frames.toNat + s.slots.slot) s.tim.slewNs
  { s with timeNs := s.timeNs + r.1, tim := { s.tim with slewNs := r.2 } }

/-- Whether the next time slot is the second frame start after validation, or after the strobe's return (R31, R34). -/
def TimeSlots.due (t : TimeSlots) : Bool := t.copied.isSome && !t.strobeAbsent && t.framesLeft ≤ 1 && t.slot == 255

/-- A due table in effect. -/
def TimeSlots.effect (t : TimeSlots) : TimeSlots :=
  match t.copied with
  | some c => if t.due then { t with active := c, copied := none, framesLeft := 0, commits := t.commits + 1, err := 0 } else t
  | none => t

/-- A frame start: counted, and toward a copied table's effect while the strobe is there; the islands start it together (R31). -/
def TimeSlots.frameStart (t : TimeSlots) : TimeSlots :=
  { t with
    frames := t.frames + 1
    framesLeft := if t.strobeAbsent then t.framesLeft else t.framesLeft - 1
    aligned := t.aligned || !t.strobeAbsent }

/-- The next table entry; every 256th begins a frame, and a table that is due is in effect from there. -/
def TimeSlots.next (t : TimeSlots) : TimeSlots :=
  let t := t.effect
  let i := (t.slot + 1) % 256
  { (if i = 0 then t.frameStart else t) with slot := i }

/-- The class of the present time slot. -/
def TimeSlots.cls (t : TimeSlots) : Nat := (t.active.toList.getD t.slot 0).toNat

/-- Whether a message on a fabric is older than 1 ms (R330); a forwarded frame brings its age with it (R382). -/
def Transfer.old (t : Transfer) (now : Nat) : Bool := t.born + 1000000 < now + 1000 * t.age

/-- A frame discarded for its age. -/
def State.dropAged (s : State) (unit : Nat) : State :=
  (s.updDarit (fun d => { d with aged := d.aged + 1 })).logLimited (11 * 2 ^ 32 + 8) 256 { source := 11, cause := 8, unit := unit }

/-- The Darit port that a transfer leaves by. -/
def Transfer.exit (t : Transfer) : Nat :=
  match (t.link :: t.rest).getLast? with
  | some (.darit p) => p.val
  | _ => wholeUnit

/-- Messages older than 1 ms discarded; forwarded frames among them are counted (R330, R382). -/
def State.dropOld (s : State) : State :=
  let aged := s.slots.waiting.filter (fun t => t.cls == clsFORWARD && t.old s.timeNs)
  aged.foldl (fun s t => s.dropAged t.exit) (s.dropTransfers (fun t => t.old s.timeNs))

/-- A time slot begins. -/
def execTimeSlotStart (s : State) : Host.Outcome State Fault Refusal :=
  .next (let s := (s.tick.updSlots TimeSlots.next).dropOld; s.grants s.slots.cls)

/-- The effect of a due table, which the frame start itself also has (R34). -/
def execSlotTableEffect (s : State) : Host.Outcome State Fault Refusal := .next (s.updSlots TimeSlots.effect)

/-! ## The strobe (R31) -/

def execStrobeLost (s : State) : Host.Outcome State Fault Refusal :=
  .next (if s.slots.strobeAbsent then s
    else (s.updSlots (fun t => { t with strobeAbsent := true, strobeLost := true, aligned := false })).logEv
      { source := 16, cause := 1, unit := wholeUnit })

def execStrobeReturn (s : State) : Host.Outcome State Fault Refusal :=
  .next (if s.slots.strobeAbsent then
      (s.updSlots (fun t => { t with strobeAbsent := false, framesLeft := 2 })).logEv { source := 16, cause := 2, unit := wholeUnit }
    else s)

/-! ## Reprogramming (R33, R34) -/

/-- Entries of a class. -/
def classCount (t : Vector (BitVec 4) 256) (c : Nat) : Nat := t.toList.countP (fun x => x.toNat == c)

/-- The class counts in their ranges. -/
def countsOk (t : Vector (BitVec 4) 256) : Bool :=
  let n := classCount t
  8 ≤ n 1 && n 1 ≤ 64 && 4 ≤ n 2 && n 2 ≤ 32 && 8 ≤ n 3 && n 3 ≤ 32 && 2 ≤ n 4 && n 4 ≤ 16 && n 5 ≤ 16 && 128 ≤ n 0

/-- No more than 2 consecutive entries of another class than COMPUTE, cyclically. -/
def runsOk (t : Vector (BitVec 4) 256) : Bool :=
  let l := t.toList
  let at_ (i : Nat) : Bool := l.getD (i % 256) 0 != 0
  (List.range 256).all (fun i => !(at_ i && at_ (i + 1) && at_ (i + 2)))

/-- ERROR of a copied table: 0 where it is accepted. -/
def tableError (t : Vector (BitVec 4) 256) : Nat :=
  if !countsOk t then 1 else if t.toList.any (fun x => 5 < x.toNat) then 2 else if !runsOk t then 3 else 0

/-- A COMMIT write. -/
def TimeSlots.commit (t : TimeSlots) : TimeSlots :=
  if t.copied.isSome then { t with err := 4 }
  else if t.strobeAbsent then { t with err := 5 }
  else if tableError t.shadow = 0 then { t with copied := some t.shadow, framesLeft := 2 }
  else { t with err := tableError t.shadow }

def execSlotTableCommit (_h : HostPort) (s : State) : Host.Outcome State Fault Refusal :=
  .next (let s := s.awake; if s.isReady then s.updSlots TimeSlots.commit else s)

end Sys2Proof.Machine
end

