-- ==== Sys2Proof/Machine/Mover.lean ====
section
/-! DEFINITION. The tensor mover's instructions: LDT, gathers, STT, contributions, MOVT, KVAPP (04, R82, R83; 07, R145; 11, R207 to
R214, R217; 13, R246; 09, R179). -/

namespace Sys2Proof.Machine

/-- Formats the mover copies (R71). -/
def moverFmts : List Nat := [fFP32, fFP32P, fBF16, fFP16, fE4M3, fE5M2, fFP4, fBG4, fINT32, fINT8, fINT4, fU16]

def plainFmts : List Nat := moverFmts.filter (fun f => !is4bit f)

/-- Same format and shape, and for 4-bit formats the same block axis (R82; log 21). -/
def Tile.matches (a b : Tile) : Bool :=
  a.fmt == b.fmt && a.rows == b.rows && a.cols == b.cols && (!is4bit a.fmt || a.kaxis == b.kaxis)

def moverCycles (t : Tile) : Nat := 30 + ceilDiv (t.rows * t.rowLen) 512

/-- A tile copied without conversion (R82). -/
def State.copyTile (s : State) (c : CoreId) (k : KsId) (a d : Tile) : Except AccErr State := do
  let raw ← s.readRaw c k a
  let sc ← s.readScales c k a
  (s.noteTile c k a).writeRaw c k d raw sc

/-! ## LDT FUNC 0 (R82) -/

def State.planLdt (s : State) (c : CoreId) (k : KsId) (sl : KSlot) (w : W128) : Except AccErr (Option Plan) := do
  let ta ← s.tileOp c k (wTA w) moverFmts true
  let td ← s.tileOp c k (wTD w) moverFmts false
  need (ta.matches td) stMalformed
  need (ta.dimsOk && td.dimsOk) stLimit
  need (ta.extentOk sl false && td.extentOk sl true) stMalformed
  if ta.empty then return none
  return some { names := [], cycles := moverCycles ta, waitsAtomic := false, apply := fun s => s.copyTile c k ta td }

def execLdt (c : CoreId) (k : KsId) (s : State) : Host.Outcome State Fault Refusal :=
  .next (s.issue c k .ldt .mover (fun s ns => s.makeResident c k ns) (s.planLdt c k))

/-! ## LDT FUNC 2 (R246) -/

/-- The gathered rows: input elements or the pad (R245, R246). -/
def windowRows (d : WinDesc) (opos rows cols : Nat) (major : Bool) (a : List (List Nat)) : List (List Nat) :=
  (List.range rows).map (fun r =>
    let tap (tau ch : Nat) : Nat :=
      match d.row (opos + r) tau with
      | some i => (a.getD i []).getD ch 0
      | none => d.pad
    if major then (List.range cols).flatMap (fun ch => (List.range d.taps).map (fun tau => tap tau ch))
    else (List.range d.taps).flatMap (fun tau => (List.range cols).map (fun ch => tap tau ch)))

def State.planLdtWindow (s : State) (c : CoreId) (k : KsId) (sl : KSlot) (w : W128) : Except AccErr (Option Plan) := do
  let fmts := vopFmts.filter (· != fFP32P)
  let ta ← s.tileOp c k (wTA w) fmts true
  let td ← s.tileOp c k (wTD w) fmts false
  let opos := sl.s[wReg w 70].toNat
  let d ← s.readWindow c k sl.s[wReg w 64].toNat ta opos td.rows true
  need (td.fmt == ta.fmt && td.cols == d.taps * ta.cols) stMalformed
  need (ta.dimsOk && td.dimsOk) stLimit
  need (ta.extentOk sl false && td.extentOk sl true && s.noHost c k ta) stMalformed
  if ta.empty || td.empty then return none
  return some
    { names := [], cycles := moverCycles td, waitsAtomic := false
      apply := fun s => do
        let want := d.names opos td.rows
        let a ← s.readRows c k ta want
        if ta.overlaps td then s.writeFree c k td
        else (s.noteRows c k ta want).writeRaw c k td (windowRows d opos td.rows ta.cols (wMode w 3) a) [] }

def execLdtWindow (c : CoreId) (k : KsId) (s : State) : Host.Outcome State Fault Refusal :=
  .next (s.issue c k .ldtWindow .mover (fun s ns => s.makeResident c k ns) (s.planLdtWindow c k))

/-! ## STT (R82, R143) -/

/-- Slot elements converted and written, with their flags. -/
def State.storeAcc (s : State) (c : CoreId) (k : KsId) (base : Nat) (td : Tile) : Except AccErr State := do
  let src ← s.accSource c (s.slot c k) base 0 td.rows td.cols
  let cv := src.map (fun r => r.map (convAcc td.fmt false))
  let s ← s.writeRaw c k td (cv.map (fun r => r.map (·.1))) []
  return s.addFlags c k (Flags.joinAll (cv.map (fun r => Flags.joinAll (r.map (·.2)))))

/-- STT's checks 5 to 7. A TD of more than 1,024 rows or 512 columns from slots is a dimension above its maximum, LIMIT: R82 says only that
the shape spans slots (DESIGN CHOICE, log 136). -/
def State.planStt (s : State) (c : CoreId) (k : KsId) (sl : KSlot) (w : W128) : Except AccErr (Option Plan) := do
  if wMode w 1 then
    let td ← s.tileOp c k (wTD w) plainFmts true
    need (td.rows ≤ 1024 && td.cols ≤ 512) stLimit
    need (td.extentOk sl true) stMalformed
    if td.empty then return none
    return some { names := accSpan (wAcc w) td.rows, cycles := moverCycles td, waitsAtomic := false,
                  apply := fun s => s.storeAcc c k (wAcc w) td }
  else
    let ta ← s.tileOp c k (wTA w) moverFmts true
    let td ← s.tileOp c k (wTD w) moverFmts true
    need (ta.matches td) stMalformed
    need (ta.dimsOk && td.dimsOk) stLimit
    need (ta.extentOk sl false && td.extentOk sl true) stMalformed
    if ta.empty then return none
    return some { names := [], cycles := moverCycles ta, waitsAtomic := false, apply := fun s => s.copyTile c k ta td }

def execStt (c : CoreId) (k : KsId) (s : State) : Host.Outcome State Fault Refusal :=
  .next (s.issue c k .stt .mover (fun s ns => s.makeResident c k ns) (s.planStt c k))

/-! ## STT FUNC 1 (R145) -/

/-- The home region of a virtual byte in region or stacked memory. -/
def State.homeOf (s : State) (c : CoreId) (ctx va : Nat) (write : Bool) : Except AccErr RegionId := do
  let l ← s.xlate (some (regionOfCore c)) ctx va write
  locRegion l

/-- The one home region of every row of a tile and of a reduction slot's header (R145); the slot's records are tested by the atomic unit,
which knows how many there are. -/
def State.sharedHome (s : State) (c : CoreId) (ctx : Nat) (td : Tile) (rslot : Nat) : Except AccErr RegionId := do
  let g ← s.homeOf c ctx rslot true
  for r in List.range td.rows do
    for p in pagesOf (td.base + r * td.stride) td.rowLen do
      let h ← s.homeOf c ctx p.1 true
      need (h == g) stMalformed
  return g

/-- The source values of a contribution, row-major. -/
def State.contribElems (s : State) (c : CoreId) (k : KsId) (w : W128) (ta : Option Tile) (td : Tile) :
    Except AccErr (List W64 × Flags) := do
  let cv ← match ta with
    | some t => (s.readNums c k t).map (fun m => m.flatMap (fun r => r.map (conv td.fmt false)))
    | none => (s.accSource c (s.slot c k) (wAcc w) 0 td.rows td.cols).map (fun m =>
        m.flatMap (fun r => r.map (convAcc td.fmt false)))
  return (cv.map (fun e => BitVec.ofNat 64 e.1), Flags.joinAll (cv.map (·.2)))

def State.sendContrib (s : State) (c : CoreId) (k : KsId) (w : W128) (ta : Option Tile) (td : Tile) (g : RegionId) :
    Except AccErr State := do
  let sl := s.slot c k
  let (es, fl) ← s.contribElems c k w ta td
  let s := match ta with
    | some t => s.noteTile c k t
    | none => s
  let r : AtomReq := .contrib s.nextReq c k sl.ctx sl.s[wReg w 64] sl.s[wReg w 70].toNat sl.t[wTD w]
    td.rows td.cols es sl.pc
  let s := s.updRegion g (fun x => { x with atomQ := x.atomQ ++ [r] })
  return { s with nextReq := s.nextReq + 1 }.addFlags c k fl

def State.planContrib (s : State) (c : CoreId) (k : KsId) (sl : KSlot) (w : W128) : Except AccErr (Option Plan) := do
  let td ← s.tileOp c k (wTD w) [fFP32, fFP32P, fINT32] true
  need (!td.core) stMalformed
  let ta ← if wMode w 1 then .ok none else (s.tileOp c k (wTA w) moverFmts true).map some
  let toInt := td.fmt == fINT32
  need (match ta with
    | some t => t.rows == td.rows && t.cols == td.cols && (isFloatFmt t.fmt != toInt)
    | none => sl.kindOk (accSpan (wAcc w) td.rows) (if toInt then .integer else .float)) stMalformed
  let tag := sl.s[wReg w 64].toNat
  let rs := sl.s[wReg w 70].toNat
  need (fld tag 31 16 == 0 && rs % 64 == 0) stMalformed
  need (match ta with
    | some t => t.dimsOk && td.dimsOk
    | none => td.rows ≤ 1024 && td.cols ≤ 512) stLimit
  need (td.extentOk sl true && (match ta with
    | some t => t.extentOk sl false
    | none => true)) stMalformed
  if td.empty then return none
  let g ← s.sharedHome c sl.ctx td rs
  return some
    { names := if wMode w 1 then accSpan (wAcc w) td.rows else [], cycles := moverCycles td, waitsAtomic := true
      apply := fun s => s.sendContrib c k w ta td g }

def execSttContribution (c : CoreId) (k : KsId) (s : State) : Host.Outcome State Fault Refusal :=
  .next (s.issue c k .sttContrib .mover (fun s ns => s.makeResident c k ns) (s.planContrib c k))

/-! ## MOVT (R67, R70, R82) -/

/-- Whether a descriptor's reserved bits, those of its dimension specifiers included, are zero (R67, R68). -/
def descClean (d : Nat) : Bool :=
  let specOk (x : Nat) : Bool :=
    fld x 29 22 == 0 && (fld x 31 30 != 1 || fld x 21 6 == 0)
  fld d 255 224 == 0 && fld d 191 176 == 0 && fld d 63 58 == 0 && !bit d 51 && specOk (fld d 95 64) && specOk (fld d 127 96)

/-- s[S_A] + IMM32, signed (R73). -/
def movtAddr (sl : KSlot) (w : W128) : Nat :=
  (sl.s[wReg w 64] + BitVec.ofInt 64 (sInt 32 (wHigh32 w))).toNat

/-- The descriptor MOVT writes. -/
def State.movtValue (s : State) (c : CoreId) (k : KsId) (sl : KSlot) (w : W128) : Except AccErr W256 := do
  if wFunc w = 1 then
    let bs ← s.rangeRead c k (movtAddr sl w) 32 32 true
    let d := leNat bs
    need (descClean d) stVersion
    return BitVec.ofNat 256 d
  else
    need (sl.ts[wTA w] != .invalid) stMalformed
    let d := sl.t[wTA w].toNat
    if wFunc w = 0 then return sl.t[wTA w]
    else
      let base := if wFunc w = 2 then movtAddr sl w else fld d 47 0 + movtAddr sl w
      return BitVec.ofNat 256 (setFld d 47 0 base)

def State.planMovt (s : State) (c : CoreId) (k : KsId) (sl : KSlot) (w : W128) : Except AccErr (Option Plan) := do
  let v ← s.movtValue c k sl w
  return some
    { names := [], cycles := 2, waitsAtomic := false
      apply := fun s =>
        let s := if wFunc w = 1 then s.noteRange c k (movtAddr sl w) 32 true else s
        .ok (s.updSlot c k (fun sl => { sl with t := sl.t.set (wTD w) v })) }

def execMovt (c : CoreId) (k : KsId) (s : State) : Host.Outcome State Fault Refusal :=
  .next (s.issue c k .movt .mover (fun s ns => s.makeResident c k ns) (s.planMovt c k))

/-! ## Tokens and layer-heads of a gather or an append -/

/-- S_SEQ, S_POS, S_LH, S_CNT as read. -/
structure KvArgs where
  seq : Nat
  pos : Nat
  layer : Nat
  head : Nat
  cnt : Nat
deriving DecidableEq, Repr

def kvArgs (sl : KSlot) (w : W128) : KvArgs :=
  let lh := sl.s[wReg w 76].toNat
  { seq := sl.s[wReg w 64].toNat, pos := sl.s[wReg w 70].toNat, layer := fld lh 15 0, head := fld lh 31 16,
    cnt := sl.s[wReg w 82].toNat }

/-- Bits 63:32 of S_LH are zero (R73). -/
def lhClean (sl : KSlot) (w : W128) : Bool := fld sl.s[wReg w 76].toNat 63 32 == 0

/-- A query of the state by a device-owned operation that changes nothing. -/
def State.ask {α : Type} (s : State) (a : Act α) : Except AccErr α := (a.run s).map (·.1)

/-! ## KVAPP (R83, R179, R207 to R209) -/

/-- One token's quantised elements: scale patterns, element patterns, flags (R179). A token of an E4M3 page written with a NaN scale sets
NAN_BLOCK as a 4-bit block does: R103 names only the 4-bit block (DESIGN CHOICE, log 133). -/
def quantToken (fmt : Nat) (xs : List Num) : List Nat × List Nat × Flags :=
  if fmt = fBG4 then
    let bl := (runs 32 xs).map (fun b => codeBlock fBG4 (chooseScale (groupMax b) (.ofNat 1)) b)
    (bl.map (·.1), bl.flatMap (·.2.1), Flags.joinAll (bl.map (·.2.2)))
  else if fmt = fE4M3 then
    let sc := chooseScale (groupMax xs) (.ofNat 448)
    let sv := bf16.decode sc
    if sv.isNan then ([0x7FC0], xs.map (fun _ => 0x7F), Flags.ofNanBlock)
    else if sv.isZero then ([0], xs.map (fun _ => 0), {})
    else
      let r := xs.map (fun x => conv fE4M3 false (x.div sv))
      ([sc], r.map (·.1), Flags.joinAll (r.map (·.2)))
  else
    let r := xs.map (conv fBF16 false)
    ([], r.map (·.1), Flags.joinAll (r.map (·.2)))

/-- A token's row as the mover quantises it: a key rotated unless NOROT, each result rounded to FP32, and whether a finite one became
infinite (R83, R103, R176, R179). -/
def kvRow (keys norot : Bool) (d : Nat) (xs : List Num) : List Num × Flags :=
  let b := min d 128
  let ys := (if keys && !norot then (runs b xs).flatMap (rotRun b) else xs).map out32
  (ys.map (·.1), Flags.joinAll (ys.map (·.2)))

/-- The target's page for a position, chosen at the command's first touch, and its leaf path's reservation
(R208, R209). -/
def touchPage (p : Pool) (q n : Nat) (sq : Seq) (seq lh pn : Nat) : Act AppendPage := do
  let s ← get
  match s.cmd? q n with
  | none => Act.fail stMalformed
  | some cm =>
    match cm.pages.find? (fun a => a.seq == seq && a.lh == lh && a.pn == pn) with
    | some a => return a
    | none =>
      let (page, taken, copied) ← p.choosePage sq.root lh pn
      let newPath := !cm.paths.contains (seq, lh, pn / 64)
      let ids ← if newPath then (List.range p.levels).mapM (fun _ => p.popBlock) else pure []
      let a : AppendPage := { seq := seq, lh := lh, pn := pn, page := page, taken := taken, keys := [], values := [] }
      modify (fun s =>
        let s := s.updCmd q n (fun cm => { cm with
          pages := cm.pages ++ [a]
          paths := if newPath then (seq, lh, pn / 64) :: cm.paths else cm.paths
          reserved := cm.reserved ++ ids.map (fun i => (seq, i)) })
        if copied then s.updCnt ((s.poolHome p).getD 0) (fun r => { r with pageCopy := r.pageCopy + 1 }) else s)
      return a

/-- One token written into its page (R83, R208). -/
def putToken (p : Pool) (q n inst age : Nat) (sq : Seq) (a : KvArgs) (values : Bool) (pos : Nat) (scales elems : List Nat) :
    Act Unit := do
  let lh := a.layer * p.heads + a.head
  let pg ← touchPage p q n sq a.seq lh (pos / 16)
  let t := pos % 16
  Act.need (!((if values then pg.values else pg.keys).any (fun w => w.tok == t))) stMalformed
  let parts := (p.tokenPlaces values t).zip [packRow p.kvFormat elems, packRow fBF16 scales]
  for x in parts do
    putVirt p.ctx (p.pageVA pg.page + x.1.1) x.2
  let wr : Written := { tok := t, inst := inst, age := age, vis := false }
  modify (fun s => s.updCmd q n (fun cm => { cm with pages := cm.pages.map (fun x =>
    if x.seq == pg.seq && x.lh == lh && x.pn == pg.pn then
      (if values then { x with values := wr :: x.values } else { x with keys := wr :: x.keys })
    else x) }))

/-- The pool and descriptor of a sequence that a command declared (R10). -/
def State.kvTarget (s : State) (sl : KSlot) (seq : Nat) : Except AccErr (Nat × Nat × Seq × Pool) :=
  match sl.cmd with
  | none => malformed
  | some (q, n) => match s.cmd? q n, lookup s.seqs seq with
    | some cm, some sq =>
      if !cm.targets.contains seq then malformed
      else if s.seqBad seq sq then .error (s.seqErr seq)
      else (s.ask (poolAt sq.ctx sq.pool)).map (fun p => (q, n, sq, p))
    | _, _ => malformed

def State.applyKvapp (s : State) (c : CoreId) (k : KsId) (w : W128) (a : KvArgs) (ta : Option Tile)
    (q n : Nat) (sq : Seq) (p : Pool) : Except AccErr State := do
  let rows ← match ta with
    | some t => s.readNums c k t
    | none => (s.accSource c (s.slot c k) (wAcc w) (fld w.toNat 53 52) a.cnt p.d).map (fun m =>
        m.map (fun r => r.map (fun e => rnd32 e.val)))
  let s := match ta with
    | some t => s.noteTile c k t
    | none => s
  let values := wMode w 3
  let sl := s.slot c k
  let rot := rows.map (kvRow (!values) (wMode w 6) p.d)
  let toks := rot.map (fun r => quantToken p.kvFormat r.1)
  let act : Act Unit := do
    for x in (List.range toks.length).zip toks do
      putToken p q n sl.inst sl.resAge sq a values (a.pos + x.1) x.2.1 x.2.2.1
  let (_, s) ← act.run s
  return s.addFlags c k ((Flags.joinAll (rot.map (·.2))).join (Flags.joinAll (toks.map (·.2.2))))

def State.planKvapp (s : State) (c : CoreId) (k : KsId) (sl : KSlot) (w : W128) : Except AccErr (Option Plan) := do
  let a := kvArgs sl w
  let ta ← if wMode w 1 then .ok none else (s.tileOp c k (wTA w) [fFP32, fBF16, fFP16] true).map some
  need (lhClean sl w) stMalformed
  let (q, n, sq, p) ← s.kvTarget sl a.seq
  need (a.layer < p.layers && a.head < p.heads) stMalformed
  need (match ta with
    | some t => t.rows == a.cnt && t.cols == p.d
    | none => p.d != 256 || fld w.toNat 53 52 % 2 == 0) stMalformed
  let endPos ← s.ask (p.layerEnd sq.root (a.layer * p.heads + a.head))
  need (a.cnt == 0 || endPos ≤ a.pos) stMalformed
  need (a.cnt ≤ 1024 && (a.cnt == 0 || a.pos + a.cnt ≤ p.capacity)) stLimit
  need (match ta with
    | some t => t.extentOk sl false && s.noHost c k t
    | none => true) stMalformed
  if a.cnt = 0 then return none
  return some
    { names := if wMode w 1 then accSpan (wAcc w) a.cnt else []
      cycles := 30 + 60 * (ceilDiv (a.pos % 16 + a.cnt) 16), waitsAtomic := false
      apply := fun s => s.applyKvapp c k w a ta q n sq p }

/-- KVAPP: quantised tokens written into chosen pages (R83). -/
def execKvapp (c : CoreId) (k : KsId) (s : State) : Host.Outcome State Fault Refusal :=
  .next (s.issue c k .kvapp .mover (fun s ns => s.makeResident c k ns) (s.planKvapp c k))

/-! ## LDT FUNC 1 (R82, R213, R214, R217) -/

/-- The page that holds a position for a reader: committed, or written by the reader's own command and visible (R213). -/
def gatherPage (p : Pool) (sq : Seq) (own : List AppendPage) (seq inst lh endPos pos : Nat) (values : Bool) : Act Nat := do
  if pos < endPos then
    let r ← p.descend (p.path lh (pos / 16)) (p.rootId sq.root) true
    match r with
    | some (e, _) => if e.valid then return e.id else Act.fail stMalformed
    | none => Act.fail stMalformed
  else
    match own.find? (fun a => a.seq == seq && a.lh == lh && a.pn == pos / 16) with
    | none => Act.fail stMalformed
    | some a =>
      let ws := if values then a.values else a.keys
      Act.need (ws.any (fun t => t.tok == pos % 16 && (t.vis || t.inst == inst))) stMalformed
      return a.page

/-- One token's element and scale patterns as its page holds them (R196). -/
def readToken (p : Pool) (page : Nat) (values : Bool) (t : Nat) : Act (List Nat × List Nat) := do
  let bs ← (p.tokenPlaces values t).mapM (fun pl => getVirt p.ctx (p.pageVA page + pl.1) pl.2)
  let sc := bs.getD 1 []
  return (unpackRow p.kvFormat p.d (bs.getD 0 []), unpackRow fBF16 (sc.length / 2) sc)

/-- The exact values of a token: page scales follow the decode rules of R94 (R92, R214). -/
def decodeToken (fmt : Nat) (es scs : List Nat) : List Num :=
  ((List.range es.length).zip es).map (fun e =>
    if fmt = fBG4 then decode4 fBG4 (bf16.decode (scs.getD (e.1 / 32) 0)) e.2
    else if fmt = fE4M3 then scaled (bf16.decode (scs.getD 0 0)) (decodeElem fE4M3 e.2)
    else decodeElem fmt e.2)

/-- Tokens gathered into TD: codes and scales, or decoded (R214). -/
def State.putGather (s : State) (c : CoreId) (k : KsId) (td : Tile) (decode : Bool) (fmt : Nat)
    (toks : List (List Nat × List Nat)) : Except AccErr State :=
  if decode then s.writeNums c k td false (toks.map (fun t => decodeToken fmt t.1 t.2))
  else s.writeRaw c k td (toks.map (·.1)) (toks.map (·.2))

/-- Where a gather is served: here as a plain read, here as for a peer, or by another node (R73, R217, R383). -/
inductive GatherFrom where
  | here | asPeer | node (n : Nat)
deriving DecidableEq, Repr

def State.gatherFrom (s : State) (sl : KSlot) (w : W128) : Except AccErr GatherFrom :=
  let v := sl.s[wReg w 88].toNat
  if fld v 62 12 ≠ 0 then malformed
  else if !bit v 63 then .ok .here
  else if fld v 11 0 = s.darit.nodeId then .ok .asPeer
  else match s.darit.route (fld v 11 0) with
    | some _ => .ok (.node (fld v 11 0))
    | none => .error (.noRoute (fld v 11 0))

/-- The checks of R217 on a served sequence: LIVE, SERVE, the pool's home in CACHE or MIXED. -/
def State.servable (s : State) (sq : Seq) (p : Pool) : Bool :=
  sq.state == .live && p.serve && (match s.poolHome p with
    | some g => 2 ≤ s.regions[g].roleNow
    | none => false)

/-- The tokens of a local gather. -/
def gatherTokens (p : Pool) (sq : Seq) (own : List AppendPage) (inst : Nat) (a : KvArgs) (values : Bool) :
    Act (List (List Nat × List Nat)) := do
  let lh := a.layer * p.heads + a.head
  let endPos ← p.layerEnd sq.root lh
  (List.range a.cnt).mapM (fun i => do
    let pg ← gatherPage p sq own a.seq inst lh endPos (a.pos + i) values
    readToken p pg values ((a.pos + i) % 16))

/-- TD's format for a pool and DECODE (R214). -/
def gatherFmtOk (td : Tile) (decode : Bool) (fmt : Nat) : Bool :=
  if decode then td.fmt == fFP16 || td.fmt == fBF16
  else td.fmt == fmt && fmt != fE4M3 && (!is4bit fmt || td.kaxis == 0)

/-- A gather from another device: the bytes that come back are that device's (log 22). -/
def State.planRemote (s : State) (c : CoreId) (k : KsId) (td : Tile) (a : KvArgs) : Plan :=
  let free (i : Nat) : Nat := Config.freeNat 2 [a.seq, i, s.freshCtr]
  { names := [], cycles := moverCycles td, waitsAtomic := false, gather := none, remote := true
    apply := fun s => (s.fresh).writeRaw c k td
      ((List.range td.rows).map (fun r => (List.range td.cols).map (fun j => free (2 * (r * td.cols + j)) % 2 ^ fmtBits td.fmt)))
      ((List.range td.scaleRows).map (fun r => (List.range (td.scaleLen / 2)).map (fun j => free (2 * (r * td.cols + j) + 1) % 65536))) }

/-- A gather that this device serves itself, its operands checked (R213, R214, R217). -/
def State.planLocal (s : State) (c : CoreId) (k : KsId) (sl : KSlot) (w : W128) (a : KvArgs) (td : Tile) (plain : Bool) :
    Except AccErr Plan := do
  let decode := wMode w 4
  match lookup s.seqs a.seq with
  | none => malformed
  | some sq =>
    s.needSeq a.seq sq
    need (sq.ctx == sl.ctx) stMalformed
    let p ← s.ask (poolAt sq.ctx sq.pool)
    need (a.layer < p.layers && a.head < p.heads && td.cols == p.d && gatherFmtOk td decode p.kvFormat) stMalformed
    need (plain || s.servable sq p) stMalformed
    let own := match plain, sl.cmd with
      | true, some (q, n) => (match s.cmd? q n with
          | some cm => cm.pages
          | none => [])
      | _, _ => []
    return { names := [], cycles := 30 + 60 * (ceilDiv (a.pos % 16 + a.cnt) 16), waitsAtomic := false
             gather := some a.seq
             apply := fun s => do
               let (toks, s) ← (gatherTokens p sq own sl.inst a (wMode w 3)).run s
               s.putGather c k td decode p.kvFormat toks }

def State.planGather (s : State) (c : CoreId) (k : KsId) (sl : KSlot) (w : W128) : Except AccErr (Option Plan) := do
  let a := kvArgs sl w
  let td ← s.tileOp c k (wTD w) [fBF16, fFP16, fBG4] false
  need (lhClean sl w) stMalformed
  let src ← s.gatherFrom sl w
  need (td.rows == a.cnt) stMalformed
  let plan ← match src with
    | .node _ => do
      need (if wMode w 4 then td.fmt == fFP16 || td.fmt == fBF16 else td.fmt == fBF16 || td.fmt == fBG4) stMalformed
      return s.planRemote c k td a
    | .here => s.planLocal c k sl w a td true
    | .asPeer => s.planLocal c k sl w a td false
  need (a.cnt ≤ 16384) stLimit
  need (td.extentOk sl true) stMalformed
  return if a.cnt = 0 then none else some plan

/-- LDT FUNC 1: tokens of one sequence's pages (R213). -/
def execLdtGather (c : CoreId) (k : KsId) (s : State) : Host.Outcome State Fault Refusal :=
  .next (s.issue c k .ldtGather .mover (fun s ns => s.makeResident c k ns) (s.planGather c k))

end Sys2Proof.Machine
end

