-- ==== Sys2Proof/Machine/Ring.lean ====
section
/-! DEFINITION. Darit links: configuration, training, faults, forwarding, serving (19, R372 to R391; 11, R217). -/

namespace Sys2Proof.Machine

/-! ## Configuration (R387, R389, R390) -/

/-- A write of DRT_PCFG. -/
def State.writePcfg (s : State) (p : DaritPort) (v : Nat) : State :=
  (s.updPort p (fun x => { x with enable := bit v 3, dim := fld v 2 1, dir := bit v 0 })).portReset p

def execPortConfigWrite (p : DaritPort) (v : W32) (s : State) : Host.Outcome State Fault Refusal :=
  .next (let s := s.awake; if s.isReady then s.writePcfg p v.toNat else s)

/-- DRT_TOPO or DRT_NODE written. -/
def Darit.place (d : Darit) (node : Bool) (v : Nat) : Darit :=
  let d := if node then { d with x := fld v 5 0, y := fld v 13 8, z := fld v 19 16 }
    else { d with sizeX := fld v 6 0, sizeY := fld v 14 8, sizeZ := fld v 20 16 }
  { d with cfgErr := d.cfgErr || !d.shapeValid }

/-- Every enabled port trains again. -/
def State.writeTopology (s : State) (node : Bool) (v : Nat) : State :=
  let s := s.updDarit (fun d => d.place node v)
  (List.finRange 8).foldl (fun s p => if s.darit.ports[p].enable then s.portReset p else s) s

def execTopologyWrite (node : Bool) (v : W32) (s : State) : Host.Outcome State Fault Refusal :=
  .next (let s := s.awake; if s.isReady then s.writeTopology node v.toNat else s)

def execRetrain (p : DaritPort) (s : State) : Host.Outcome State Fault Refusal :=
  .next (let s := s.awake; if s.isReady then s.portReset p else s)

def execPortCountersClear (p : DaritPort) (v : W32) (s : State) : Host.Outcome State Fault Refusal :=
  .next (let s := s.awake; if s.isReady && bit v.toNat 1 then
      s.updPort p (fun x => { x with txFlits := 0, rxFlits := 0, replay := 0, fecCorr := 0, fwd := 0 })
    else s)

def execAgedCounterClear (v : W32) (s : State) : Host.Outcome State Fault Refusal :=
  .next (let s := s.awake; if s.isReady && bit v.toNat 0 then s.updDarit (fun d => { d with aged := 0 }) else s)

/-! ## Lanes (R385, R386, R388) -/

/-- Failed lanes from a first lane on, of k. -/
def failedIn (f : BitVec 17) (lo k : Nat) : Nat := ((List.range k).filter (fun i => f.getLsbD (lo + i))).length

def spareGood (f : BitVec 17) : Bool := !f.getLsbD 16

/-- Lanes in use with some failed: 16, 8, or 0 where the port cannot carry traffic. -/
def widthWith (f : BitVec 17) : Nat :=
  let n := failedIn f 0 16
  let s := if spareGood f then 1 else 0
  if n ≤ s then 16 else if failedIn f 0 8 ≤ s || failedIn f 8 8 ≤ s then 8 else 0

/-- Whether the spare carries a lane. -/
def spareCarries (f : BitVec 17) : Bool := spareGood f && 0 < failedIn f 0 16

/-! ## Training (R384 to R387) -/

/-- Why the exchange holds a port: VERSION, LOOPBACK, TOPOLOGY, MISCABLED; 0 where it does not. -/
def Darit.exchange (d : Darit) (x : DPort) (o : TrainObs) : Nat :=
  if o.peerAbiMajor ≠ 1 then 5
  else if o.peerNode = d.nodeId then 2
  else if d.sizes ≠ [o.peerX, o.peerY, o.peerZ] then 4
  else if o.peerNode ≠ nodeAt d.sizes (hop d.sizes d.coords x.dim x.dir) || o.peerDim ≠ x.dim || o.peerDir = x.dir then 3
  else 0

/-- A port HELD with what training found. -/
def State.holdPort (s : State) (p : DaritPort) (cause : Nat) (f : DPort → DPort) : State :=
  ((s.updPort p (fun x => { f x with st := .held, cause := cause })).logDarit 5 p.val).portRests p

/-- What the lanes showed. -/
def seenLanes (o : TrainObs) (x : DPort) : DPort :=
  { x with cable := .ok, laneFail := ~~~o.lanes, laneInv := o.inv, map := o.map, spareUsed := spareCarries (~~~o.lanes) }

/-- What the exchange showed. -/
def seenPeer (o : TrainObs) (x : DPort) : DPort :=
  { seenLanes o x with peerValid := true, peerPort := o.peerPort % 8, peerNode := o.peerNode % 4096 }

/-- Records of failed lanes. -/
def State.logLanes (s : State) (p : DaritPort) (f : BitVec 17) : State :=
  let s := (List.range (failedIn f 0 17)).foldl (fun s _ => s.logDarit 1 p.val) s
  let s := if spareCarries f then s.logDarit 2 p.val else s
  if widthWith f = 8 then s.logDarit 3 p.val else s

/-- A peer's incarnation learnt: commands held for a route to a node that lost its contexts end only by cancel (R380). -/
def State.learn (s : State) (node : Nat) (inc : W16) : State :=
  let changed := match lookup s.darit.incs node with
    | some i => i != inc
    | none => false
  let s := s.updDarit (fun d => { d with incs := insertAt d.incs node inc })
  if changed then
    { s with cmds := s.cmds.map (fun cm => if cm.heldOn = some (.route node) then { cm with heldOn := some .peer } else cm) }
  else s

/-- Routes computed again: commands held for want of a route that is there now are dispatched again (R378, R380). -/
def State.routesChanged (s : State) : State :=
  let s := s.logDarit 6 wholeUnit
  let back (w : HoldWhy) : Bool := match w with
    | .route n => (s.darit.route n).isSome
    | _ => false
  (s.unhold back).tryAway true

/-- UP. -/
def State.portUp (s : State) (p : DaritPort) (o : TrainObs) : State :=
  let w := widthWith (~~~o.lanes)
  let s := s.updPort p (fun x => { seenPeer o x with st := .up, width := w, cause := if w = 8 then 1 else 0, rxSeq := 0 })
  let s := (s.learn (o.peerNode % 4096) o.peerInc).returnPart (.darit p)
  s.routesChanged.quenchMended

/-- The reference that training uses: a change of fallback is logged once (R452). -/
def State.trainRef (s : State) : State :=
  let isLocal := !s.tim.drefPresent
  let t := s.tim
  let s : State := { s with tim := { t with drefLocal := isLocal } }
  if isLocal && !t.drefLocal then s.logEv { source := 15, cause := 2, unit := wholeUnit } else s

/-- One training run to its end. -/
def State.trainPort (s : State) (p : DaritPort) (o : TrainObs) : State :=
  let x := s.darit.ports[p]
  if x.st != .training then s else
  let s := s.trainRef
  match o.cable with
  | .none => (s.updPort p (fun x => { x with st := .detect, cable := .none })).portRests p
  | .txTx => s.holdPort p 0 (fun x => { x with cable := .txTx })
  | .ok =>
    let s := s.logLanes p (~~~o.lanes)
    if widthWith (~~~o.lanes) = 0 then s.holdPort p 1 (seenLanes o)
    else match s.darit.exchange x o with
      | 0 => s.portUp p o
      | c => s.holdPort p c (seenPeer o)

/-- Sensed again: a port without a cable, or wired transmitter to transmitter. -/
def State.senseCable (s : State) (p : DaritPort) (o : Cable) : State :=
  let x := s.darit.ports[p]
  if x.st = .detect || (x.st = .held && x.cable = .txTx) then
    match o with
    | .ok => (s.updPort p (fun x => { x with st := .training, cable := .ok, cause := 0 })).resetPart (.darit p)
    | .none => s.updPort p (fun x => { x with st := .detect, cable := .none })
    | .txTx => s.updPort p (fun x => { x with st := .held, cable := .txTx })
  else s

def execCableSense (p : DaritPort) (o : Cable) (s : State) : Host.Outcome State Fault Refusal := .next (s.senseCable p o)

/-! ## Faults in service (R341, R388) -/

/-- A lane that failed: the spare takes its place; a further failure resets the port. -/
def State.loseLane (s : State) (p : DaritPort) (lane : Fin 17) : State :=
  let x := s.darit.ports[p]
  if x.st != .up || x.laneFail.getLsbD lane.val then s else
  let f := x.laneFail ||| BitVec.ofNat 17 (2 ^ lane.val)
  let s := (s.updPort p (fun x => { x with laneFail := f })).logDarit 1 p.val
  if widthWith f = 16 then
    if lane.val = 16 then s else (s.updPort p (fun x => { x with spareUsed := true })).logDarit 2 p.val
  else if x.width = 8 && widthWith f = 8 then s
  else if widthWith f = 8 then s.portTo p .training 0
  else (s.portTo p .down 7).logDarit 4 p.val

def execLaneFailure (p : DaritPort) (lane : Fin 17) (s : State) : Host.Outcome State Fault Refusal := .next (s.loseLane p lane)

def execDaritPortFault (p : DaritPort) (s : State) : Host.Outcome State Fault Refusal :=
  .next (if s.darit.ports[p].st = .up then (s.logDarit 4 p.val).portReset p else s)

/-! ## Flits and frames (R373, R377, R382) -/

/-- A flit with its corrected FEC symbols: in order it is acknowledged; one that fails its CRC is replayed; any other is not in order and
not taken, and counts as received with good CRC. -/
def execFlitReceive (p : DaritPort) (seq : BitVec 12) (check : FlitCheck) (s : State) : Host.Outcome State Fault Refusal :=
  .next (
    let x := s.darit.ports[p]
    if x.st != .up then s
    else
      let s := s.updPort p (fun x => { x with fecCorr := x.fecCorr + BitVec.ofNat 64 check.fec })
      if !check.crcOk then s.updPort p (fun x => { x with replay := x.replay + 1 })
      else s.updPort p (fun x => { x with rxFlits := x.rxFlits + 1, rxSeq := if seq = x.rxSeq then x.rxSeq + 1 else x.rxSeq }))

/-- A frame sent on by a member; it crosses the die fabric, and edges, in FORWARD time slots. -/
def State.sendOn (s : State) (p q : DaritPort) (f : Frame) (vc : Fin 3) : State :=
  { s with nextReq := s.nextReq + 1 }.send s.nextReq clsFORWARD f.prio (32 + f.bytes) (s.path (.darit p) (.darit q) 0 ++ [FabLink.darit q]) none
    false f.ageUs vc

/-- A frame that arrives: one for another device goes on, one older than 1,000 µs is discarded; one for this device that carries another
incarnation is answered PART_ABSENT (R377, R380, R382). -/
def State.forward (s : State) (p : DaritPort) (f : Frame) : State :=
  if s.darit.ports[p].st != .up then s
  else if 1000 < f.ageUs then s.dropAged p.val
  else if f.dst = s.darit.nodeId then if f.incarnation = s.darit.incarnation then s else s.logAbsent (.darit p)
  else match s.darit.route f.dst with
    | none => s.logEv { source := 11, cause := 7, status := stAbsent, unit := p.val, address := f.dst }
    | some r => match r.first with
      | none => s
      | some t => match s.darit.memberOn (dieOfPart (.darit p)) t.1 t.2 with
        | some q => s.sendOn p q f (s.darit.outChannel f.channel r t)
        | none => s

/-- An arriving frame starts the exit from Glow (R409). -/
def execFrameForward (p : DaritPort) (f : Frame) (s : State) : Host.Outcome State Fault Refusal := .next (s.leaveLow.forward p f)

/-- A request to a peer without a reply in 2 ms is reissued, on the route there now is; then those that waited for it (R379, R382). -/
def execRemoteRequestTimeout (id : Nat) (s : State) : Host.Outcome State Fault Refusal :=
  .next (
    let hit (w : FabricWait) : Bool := w.req.id == id && (w.stage == .served || w.stage == .lost) && ((s.remoteNode w.req).isSome || (match w.req.target with
      | .darit _ => true
      | _ => false))
    match s.fabric.find? hit with
    | none => s
    | some w =>
      let s : State := { s with fabric := s.fabric.filter (fun x => !hit x) }
      let s := s.updSlots (fun t => { t with waiting := t.waiting.filter (fun x => !(x.id == id && x.cls == clsCOMPUTE)) })
      (s.reissueAway w.req).tryAway false)

/-! ## Trunks (R378) -/

def execTrunkStateChange (node dim : Nat) (minus up : Bool) (s : State) : Host.Outcome State Fault Refusal :=
  .next (if node = s.darit.nodeId then s
    else
      let t := (node, dim, minus)
      (s.updDarit (fun d => { d with downTrunks :=
        if up then d.downTrunks.filter (· != t) else if d.downTrunks.contains t then d.downTrunks else t :: d.downTrunks })).routesChanged)

/-! ## Serving a peer (R217) -/

/-- A token's patterns as bytes: elements, then scale fields, 16 bits each in the reply (log 40). -/
def tokenBytes (t : List Nat × List Nat) : List Byte := (t.1 ++ t.2).flatMap (leBytes 2)

/-- The checks at the serving device, the pool's home and the tokens, and the state with the notes of their reads. -/
def State.serveGather (s : State) (r : RemoteGather) : Except AccErr (Nat × List (List Nat × List Nat) × State) := do
  match lookup s.seqs r.seq with
  | none => malformed
  | some sq =>
    s.needSeq r.seq sq
    need (sq.ctx == r.ctx) stMalformed
    let p ← s.ask (poolAt sq.ctx sq.pool)
    need (r.layer < p.layers && r.head < p.heads && s.servable sq p) stMalformed
    let a : KvArgs := { seq := r.seq, layer := r.layer, head := r.head, pos := r.pos, cnt := r.count }
    let (toks, s) ← (gatherTokens p sq [] 0 a r.values).run s
    return ((s.poolHome p).getD 0 |>.val, toks, s)

def execRemoteGatherServe (r : RemoteGather) (s : State) : Host.Outcome State Fault Refusal :=
  .next (
    let s := s.leaveLow
    match s.serveGather r with
    | .ok (g, toks, s) =>
      let pages := if r.count = 0 then 0 else (r.pos + r.count - 1) / 16 - r.pos / 16 + 1
      { s.updCnt (regionN g) (fun x => { x with kvServed := x.kvServed + BitVec.ofNat 64 pages }) with
        reply := leBytes 1 stDone ++ toks.flatMap tokenBytes }
    | .error (.status st nt) => { s.noteErr nt with reply := leBytes 1 (if st = stData then stData else stMalformed) }
    | .error _ => { s with reply := leBytes 1 stAbsent })

end Sys2Proof.Machine
end

