-- ==== Sys2Proof/Machine/Service.lean ====
section
/-! DEFINITION. Privileged requests, tests and drains (22, R436, R437, R439 to R442; 18, R365, R366; 21, R423; 06, R123). -/

namespace Sys2Proof.Machine

/-! ## Operator signatures (R439) -/

/-- The bytes of a request's header. -/
def hdrBytes (h : SvcHdr) : List Byte :=
  leBytes 4 (h.abiMinor.toNat + h.abiMajor.toNat * 2 ^ 8 + h.opcode.toNat * 2 ^ 16) ++ leBytes 4 h.length.toNat
    ++ leBytes 4 h.reqId.toNat ++ leBytes 4 (h.status.toNat + h.opkey.toNat * 2 ^ 8 + h.reserved.toNat * 2 ^ 10)

/-- The digest of operator key n, as SEC_OPKEY holds it. -/
def Service.opDigest (v : Service) (n : BitVec 2) : List Byte :=
  (List.range 12).flatMap (fun w => leBytes 4 ((v.opkey.toList.getD (12 * n.toNat + w) 0).toNat))

/-- Whether a request's signature holds: its key valid and locked, its digest as written, the signature good (log 11). -/
def State.authorised (s : State) (h : SvcHdr) (sig : SvcSig) (body : List Byte) : Bool :=
  s.svc.opLock && s.svc.opValid.getLsbD h.opkey.toNat && Config.sha384 sig.key == s.svc.opDigest h.opkey
    && Config.opVerify sig.key (hdrBytes h ++ body ++ s.svc.session.getD []) sig.sig

/-- A privileged request refused. -/
def State.refuseAuth (s : State) (h : SvcHdr) : State := (s.logSvc 9 wholeUnit stAuth).answer h stAuth []

/-! ## Ends of requests -/

/-- The header of a request over the port; none: from the mailbox. -/
def reqHdr (i : Instr) : Option SvcHdr :=
  let of (src : TestSrc) : Option SvcHdr := match src with
    | .mailbox => none
    | .service h _ => some h
  match i with
  | .activate h _ _ _ _ => some h
  | .commitSvn h _ _ => some h
  | .resetPackage h _ => some h
  | .fuseProgram h _ _ => some h
  | .resume h _ => some h
  | .testCheckerPatterns src _ _ _ _ => of src
  | .testSensorCalibration src _ _ _ _ => of src
  | .testSramBist src _ _ _ => of src
  | .testStackRetrain src _ _ _ => of src
  | .testVectorEngine src _ _ _ => of src
  | .testDaritRetrain src _ _ _ => of src
  | _ => none

/-- FORCE of a request. -/
def reqForce (i : Instr) : Bool :=
  match i with
  | .activate _ _ _ f _ => f
  | .testSramBist _ _ f _ => f
  | .testStackRetrain _ _ f _ => f
  | _ => false

/-- A test's end: its mailbox or its reply, and its record (R440, R445). -/
def State.testEnd (s : State) (i : Instr) (status unit : Nat) (pass : Bool) : State :=
  let s := if status = stDone then s.logSvc (if pass then 7 else 8) unit else s
  match reqHdr i with
  | some h => s.answer h status [if pass then 1 else 0]
  | none => s.updSvc (fun v => { v with tBusy := false, tPass := status == stDone && pass, tStatus := status })

/-- The end of a request that is no test. -/
def State.reqEnd (s : State) (i : Instr) (status : Nat) : State :=
  match reqHdr i with
  | some h => s.answer h status []
  | none => s

/-! ## Draining a region (R441, R442) -/

/-- Whether a region stays in service without region g. -/
def State.leavesOne (s : State) (g : RegionId) : Bool :=
  (List.finRange 12).any (fun x => x != g && s.regionState x == .inService)

/-- Commands with an instance in a region. -/
def State.inRegion (s : State) (g : RegionId) : List Cmd :=
  s.cmds.filter (fun cm => cm.insts.any (fun i => !i.ended && (match i.placed with
    | some (c, _) => regionOfCore c == g
    | none => false)))

/-- Instances of a region asked to stop at their next tile commit point. -/
def State.askRegion (s : State) (g : RegionId) : State :=
  (coresOf g).foldl (fun s c => (List.finRange 4).foldl (fun s k =>
    s.updSlot c k (fun sl => if (sl.state == .running || sl.state == .loading) && sl.counter != 0 && sl.stop.isNone
      then { sl with stop := some .region } else sl)) s) s

/-- Requests to stop taken back. -/
def State.unaskRegion (s : State) (g : RegionId) : State :=
  (coresOf g).foldl (fun s c => (List.finRange 4).foldl (fun s k =>
    s.updSlot c k (fun sl => if sl.stop = some .region then { sl with stop := none } else sl)) s) s

/-- Resident coils of a region that no command holds are parked. -/
def State.parkRegion (s : State) (g : RegionId) : State :=
  (s.coils.filter (fun e => !e.2.tail && e.2.status == .resident && e.2.holder.isNone && regionOfCore e.2.core == g)).foldl
    (fun s e => s.setStatus e.1 .parking) s

def State.beginDrain (s : State) (g : RegionId) : State :=
  ((s.updRegion g (fun r => { r with drain := true })).parkRegion g).askRegion g

/-- Whether nothing is left to drain in a region. -/
def State.drainedRegion (s : State) (g : RegionId) : Bool :=
  (coresOf g).all (fun c => s.cores[c].resident.isEmpty)
    && s.coils.all (fun e => !(regionOfCore e.2.core == g && e.2.holdsUnits && e.2.holder.isSome))

/-! ## Requests run (R436, R437, R440) -/

/-- Next region of an ACTIVATE: its drain begins, or the request ends. -/
def State.activateNext (s : State) (i : Instr) (left : List Nat) : State :=
  match left with
  | [] => (s.updSvc (fun v => { v with work := none })).reqEnd i stDone
  | g :: _ =>
    if !s.leavesOne (regionN g) then (s.updSvc (fun v => { v with work := none })).reqEnd i stLimit
    else (s.updSvc (fun v => { v with work := some (.activate left i) })).beginDrain (regionN g)

/-- Regions of a mask that are in service, in increasing order. -/
def State.maskRegions (s : State) (mask : BitVec 12) : List Nat :=
  (List.range 12).filter (fun g => mask.getLsbD g && s.regionState (regionN g) == .inService)

def timeoutOk (ms : Nat) : Bool := 1 ≤ ms && ms ≤ 60000

/-- SVNs of the images that a kind's parts run. -/
def State.runSvns (s : State) (kind : Nat) : List Nat :=
  if kind = kindSERVICE then [s.svc.runSvn]
  else ((List.finRange 12).filter (fun g => !s.regions[g].outOfService)).map (fun g => s.regions[g].runSvn)

/-- The lowest SVN of a list, at most 64; 0 where nothing runs. -/
def lowestSvn : List Nat → Nat
  | [] => 0
  | l => l.foldl min 64

def State.commitSvn (s : State) (i : Instr) (kind : Nat) : State :=
  if !kindOk kind then s.reqEnd i stMalformed
  else
    let n := max s.svc.svn[kindIx kind] (lowestSvn (s.runSvns kind))
    let s := s.updSvc (fun v => { v with svn := v.svn.set (kindIx kind) n })
    ((s.updFw kind (fun k => k.dropOld n)).logSvc 6 wholeUnit).reqEnd i stDone

/-- A field fuse entry in its ranges (R365). -/
def fuseOk (e : Nat) : Bool :=
  let k := fuseKind e
  let row := fld e 39 28
  let col := fld e 27 19
  k ≤ 5 && (if k < 4 then fuseTarget e < 96 else fuseTarget e < 12)
    && fuseBank e < (if k < 2 then 64 else if k < 4 then 32 else 256)
    && (if k % 2 = 0 then col == 0 && row < (if k = 2 then 2048 else 4096) else row == 0 && col < 288)

def fuseReserved (e : Nat) : Bool := fld e 59 56 != 0 || fld e 18 0 != 0

/-- The target of an entry: everything but VALID. -/
def fuseKey (e : Nat) : Nat := e % 2 ^ 63

def State.programFuse (s : State) (i : Instr) (entry : Nat) : State :=
  if fuseReserved entry then s.reqEnd i stVersion
  else if !fuseOk entry || s.svc.fuses.any (fun f => bit f.toNat 63 && fuseKey f.toNat == fuseKey entry) then s.reqEnd i stMalformed
  else if 256 ≤ s.svc.fuses.length then s.reqEnd i stLimit
  else (s.updSvc (fun v => { v with fuses := v.fuses ++ [BitVec.ofNat 64 (2 ^ 63 + fuseKey entry)] })).reqEnd i stDone

/-- Whether every sensor reads below 85 °C. -/
def Power.cool (p : Power) : Bool := p.maxDc.toList.all (fun t => t < 850)

/-- The cold start that leaves TRIPPED; LAST_TRIP then reads 1 (R423). -/
def State.leaveTrip (s : State) : State :=
  (s.updPwr (fun p => { p with tripped := false, lastTrip := true, powered := true })).coldStart

/-- RESUME. -/
def State.resume (s : State) (i : Instr) : State :=
  if !s.pwr.tripped then s.reqEnd i stMalformed
  else if !s.pwr.cool then s.reqEnd i stBusy
  else s.leaveTrip.reqEnd i stDone

/-- Whether the slot table gives the in-slot tests time slots (R35). -/
def State.testSlots (s : State) : Bool := decide (0 < classCount s.slots.active 5)

/-- A stack or region whose checkers fail leaves service (R285, R366; log 43). -/
def State.checkerOut (s : State) (target : Nat) : State :=
  let s := s.logSelf (if target = 12 then wholeUnit else target)
  if target = 12 then s.updFls (fun f => { f with state := .failed })
  else
    let g := regionN target
    if s.regionState g != .inService then s else
    let s := (s.beginReset g 1).updRegion g (fun r => { r with stack := .failed })
    ((s.regionOut g).leaveService g).quenchMended

/-- An in-slot test (R35, R440). -/
def State.inSlotTest (s : State) (i : Instr) (limit target timeout : Nat) (pass checker : Bool) : State :=
  if limit < target || !timeoutOk timeout then s.testEnd i stMalformed target false
  else if !s.testSlots then s.testEnd i stLimit target false
  else
    let s := if checker && !pass then s.checkerOut target else s
    s.testEnd i stDone (if limit = 12 && target = 12 then wholeUnit else target) pass

/-- An out-of-service test of a region: its drain begins. -/
def State.regionTest (s : State) (i : Instr) (kind target timeout : Nat) : State :=
  if 11 < target || !timeoutOk timeout then s.testEnd i stMalformed target false
  else if s.regionState (regionN target) != .inService then s.testEnd i stBusy target false
  else if !s.leavesOne (regionN target) then s.testEnd i stLimit target false
  else (s.updSvc (fun v => { v with work := some (.test kind target i) })).beginDrain (regionN target)

/-- A vector engine test: at once where no resident image needs the engine, else it waits (R123). -/
def State.vectorTest (s : State) (i : Instr) (target timeout : Nat) : State :=
  if 95 < target || !timeoutOk timeout then s.testEnd i stMalformed target false
  else
    let c := coreN target
    if !s.coreUp c then s.testEnd i stBusy target false
    else
      let s := s.updSvc (fun v => { v with work := some (.test 4 target i) })
      s.updCore c (fun co => { co with vecAsked := true }.settleVec)

/-- A Darit port re-trained: the test ends when training does. -/
def State.portTest (s : State) (i : Instr) (target timeout : Nat) : State :=
  if h : target < 8 then
    if !timeoutOk timeout then s.testEnd i stMalformed target false
    else
      let s := s.portReset ⟨target, h⟩
      if s.darit.ports[target].st = .training then s.updSvc (fun v => { v with work := some (.test 5 target i) })
      else s.testEnd i stDone target false
  else s.testEnd i stMalformed target false

/-- A request executed. -/
def State.runRequest (s : State) (i : Instr) : State :=
  match i with
  | .activate _ _ mask _ ms => if timeoutOk ms then s.activateNext i (s.maskRegions mask) else s.reqEnd i stMalformed
  | .commitSvn _ _ kind => s.commitSvn i kind
  | .resetPackage _ _ => s.warmReset.reqEnd i stDone
  | .fuseProgram _ _ e => s.programFuse i e.toNat
  | .resume _ _ => s.resume i
  | .testCheckerPatterns _ t _ ms pass => s.inSlotTest i 12 t ms pass true
  | .testSensorCalibration _ t _ ms pass => s.inSlotTest i 3 t ms pass false
  | .testSramBist _ t _ ms => s.regionTest i 2 t ms
  | .testStackRetrain _ t _ ms => s.regionTest i 3 t ms
  | .testVectorEngine _ t _ ms => s.vectorTest i t ms
  | .testDaritRetrain _ t _ ms => s.portTest i t ms
  | _ => s

/-- Out-of-service work (R440, R442). -/
def outOfServiceWork (i : Instr) : Bool :=
  match i with
  | .activate _ _ _ _ _ => true
  | .testSramBist _ _ _ _ => true
  | .testStackRetrain _ _ _ _ => true
  | .testVectorEngine _ _ _ _ => true
  | .testDaritRetrain _ _ _ _ => true
  | _ => false

/-- Whether the next request may be executed. -/
def State.mayServe (s : State) (i : Instr) : Bool :=
  s.svc.work.isNone && !(outOfServiceWork i && s.fls.quench.isSome)

/-- Waiting requests executed in order of arrival: fuel. -/
def serveGo : Nat → State → State
  | 0, s => s
  | f + 1, s =>
    match s.svc.waiting with
    | [] => s
    | i :: r => if s.mayServe i then serveGo f ((s.updSvc (fun v => { v with waiting := r })).runRequest i) else s

def State.serveNext (s : State) : State := serveGo 17 s

/-- A request that arrives: executed, waiting, or with 16 waiting refused with BUSY (R439). -/
def State.submit (s : State) (i : Instr) : State :=
  if s.svc.waiting.isEmpty && s.mayServe i then s.runRequest i
  else if s.svc.waiting.length < 16 then s.updSvc (fun v => { v with waiting := v.waiting ++ [i] })
  else match reqHdr i with
    | some h => s.answer h stBusy []
    | none => s.testEnd i stBusy 0 false

/-- A privileged request: authorised, then submitted. -/
def State.privileged (s : State) (h : SvcHdr) (sig : SvcSig) (body : List Byte) (w : SvcWhen) (i : Instr) : State :=
  s.svc? h w (fun s => if s.authorised h sig body then s.submit i else s.refuseAuth h)

def execActivate (hdr : SvcHdr) (sig : SvcSig) (mask : BitVec 12) (force : Bool) (timeoutMs : Nat) (s : State) :
    Host.Outcome State Fault Refusal :=
  .next (s.privileged hdr sig (leBytes 4 (mask.toNat + bitN force * 2 ^ 16) ++ leBytes 4 timeoutMs) .ready
    (.activate hdr sig mask force timeoutMs))

def execCommitSvn (hdr : SvcHdr) (sig : SvcSig) (kind : Nat) (s : State) : Host.Outcome State Fault Refusal :=
  .next (s.privileged hdr sig (leBytes 4 kind) .ready (.commitSvn hdr sig kind))

def execResetPackage (hdr : SvcHdr) (sig : SvcSig) (s : State) : Host.Outcome State Fault Refusal :=
  .next (s.privileged hdr sig [] .recovery (.resetPackage hdr sig))

def execFuseProgram (hdr : SvcHdr) (sig : SvcSig) (entry : W64) (s : State) : Host.Outcome State Fault Refusal :=
  .next (s.privileged hdr sig (leBytes 8 entry.toNat) .ready (.fuseProgram hdr sig entry))

def execResume (hdr : SvcHdr) (sig : SvcSig) (s : State) : Host.Outcome State Fault Refusal :=
  .next (s.privileged hdr sig [] .tripped (.resume hdr sig))

/-! ## Tests requested (R440, R445) -/

/-- A write of SVC_TEST_CTRL with GO: its fields, and a test, which is ignored while BUSY. -/
def State.mailTest (s : State) (kind target : Nat) (force : Bool) (i : Instr) : State :=
  let t := s.updSvc (fun v => { v with tForce := force, tTarget := target, tKind := kind })
  if s.svc.tBusy then t else (t.updSvc (fun v => { v with tBusy := true, tLast := kind })).submit i

def State.askTest (s : State) (src : TestSrc) (kind target : Nat) (force : Bool) (timeoutMs : Nat) (i : Instr) : State :=
  match src with
  | .mailbox => if s.isReady then s.awake.mailTest kind target force i else s
  | .service h sig =>
    s.privileged h sig (leBytes 4 (kind + target * 2 ^ 8 + bitN force * 2 ^ 16) ++ leBytes 4 timeoutMs) .ready i

def execTestCheckerPatterns (src : TestSrc) (target : Nat) (force : Bool) (timeoutMs : Nat) (pass : Bool) (s : State) :
    Host.Outcome State Fault Refusal :=
  .next (s.askTest src 0 target force timeoutMs (.testCheckerPatterns src target force timeoutMs pass))

def execTestSensorCalibration (src : TestSrc) (target : Nat) (force : Bool) (timeoutMs : Nat) (pass : Bool) (s : State) :
    Host.Outcome State Fault Refusal :=
  .next (s.askTest src 1 target force timeoutMs (.testSensorCalibration src target force timeoutMs pass))

def execTestSramBist (src : TestSrc) (target : Nat) (force : Bool) (timeoutMs : Nat) (s : State) :
    Host.Outcome State Fault Refusal :=
  .next (s.askTest src 2 target force timeoutMs (.testSramBist src target force timeoutMs))

def execTestStackRetrain (src : TestSrc) (target : Nat) (force : Bool) (timeoutMs : Nat) (s : State) :
    Host.Outcome State Fault Refusal :=
  .next (s.askTest src 3 target force timeoutMs (.testStackRetrain src target force timeoutMs))

def execTestVectorEngine (src : TestSrc) (target : Nat) (force : Bool) (timeoutMs : Nat) (s : State) :
    Host.Outcome State Fault Refusal :=
  .next (s.askTest src 4 target force timeoutMs (.testVectorEngine src target force timeoutMs))

def execTestDaritRetrain (src : TestSrc) (target : Nat) (force : Bool) (timeoutMs : Nat) (s : State) :
    Host.Outcome State Fault Refusal :=
  .next (s.askTest src 5 target force timeoutMs (.testDaritRetrain src target force timeoutMs))

/-- KIND 6 or 7 through SVC_TEST. -/
def execTestInvalidKind (kind : BitVec 3) (s : State) : Host.Outcome State Fault Refusal :=
  .next (if kind.toNat < 6 || !s.isReady then s
    else s.updSvc (fun v => if v.tBusy then { v with tKind := kind.toNat }
      else { v with tKind := kind.toNat, tLast := kind.toNat, tPass := false, tStatus := stMalformed }))

/-! ## Drains and their ends (R441) -/

/-- The region that the request in progress drains. -/
def Service.draining (v : Service) : Option Nat :=
  match v.work with
  | some (.test k t _) => if k = 2 || k = 3 then some t else none
  | some (.activate (g :: _) _) => some g
  | _ => none

/-- A drained region is reset. -/
def execRegionDrainComplete (g : RegionId) (s : State) : Host.Outcome State Fault Refusal :=
  .next (if s.svc.draining = some g.val && s.regions[g].drain && s.drainedRegion g then s.beginReset g 2 else s)

/-- The request in progress ended with a status. -/
def State.endWork (s : State) (status unit : Nat) (pass : Bool) : State :=
  match s.svc.work with
  | some (.test _ _ i) => ((s.updSvc (fun v => { v with work := none })).testEnd i status unit pass).serveNext
  | some (.activate _ i) => ((s.updSvc (fun v => { v with work := none })).reqEnd i status).serveNext
  | none => s

/-- FORCE of the request in progress. -/
def Service.forced (v : Service) : Bool :=
  match v.work with
  | some (.test _ _ i) => reqForce i
  | some (.activate _ i) => reqForce i
  | none => false

/-- A drain not complete in time: BUSY and full use again, or with FORCE the region is reset with what runs there. -/
def execRegionDrainTimeout (g : RegionId) (s : State) : Host.Outcome State Fault Refusal :=
  .next (if s.svc.draining = some g.val && s.regions[g].drain && s.regionState g != .resetting then
      if s.svc.forced && s.regionState g == .inService then s.beginReset g 2
      else ((s.updRegion g (fun r => { r with drain := false })).unaskRegion g).endWork stBusy g.val false
    else s)

/-- What a region's return means for the request in progress. -/
def State.afterReset (s : State) (g : RegionId) : State :=
  let s := s.updRegion g (fun r => { r with drain := false })
  let ok := !s.regions[g].outOfService
  if s.svc.draining ≠ some g.val then s else
  match s.svc.work with
  | some (.activate (_ :: rest) i) =>
    if !ok || s.regions[g].runFallback then s.endWork stAuth g.val false
    else ((s.logSvc 4 g.val).activateNext i rest).serveNext
  | _ => s.endWork stDone g.val ok

def execRegionResetEnd (g : RegionId) (s : State) : Host.Outcome State Fault Refusal :=
  .next (
    if (s.part (.region g)).state != .resetting || (s.part (.region g)).returning || (s.part (.die (dieOfRegion g))).state == .fenced then s
    else match s.finishReset g with
      | some s => s.afterReset g
      | none => s)

/-! ## Vector engines (R123, R440) -/

/-- The core whose vector engine is tested. -/
def Service.vecTarget (v : Service) : Option Nat :=
  match v.work with
  | some (.test k t _) => if k = 4 then some t else none
  | _ => none

/-- The engine leaves UNDER_TEST; a test that waited and began since counts both changes. -/
def execVectorEngineTestEnd (c : CoreId) (pass : Bool) (s : State) : Host.Outcome State Fault Refusal :=
  .next (if s.svc.vecTarget = some c.val && s.cores[c].vec == .underTest then
      (s.updCore c (fun co => { co with
        vecChanges := satAdd 16 co.vecChanges 1
        vec := if pass then .inService else .fenced
        vecAsked := false })).endWork stDone c.val pass
    else s)

def execVectorEngineTestTimeout (c : CoreId) (s : State) : Host.Outcome State Fault Refusal :=
  .next (if s.svc.vecTarget = some c.val && s.cores[c].vec != .underTest then
      (s.updCore c (fun co => { co with vecAsked := false })).endWork stBusy c.val false
    else s)

/-! ## Darit training (R384, R440) -/

/-- A training sequence that arrives wakes the package from Ash (R411). -/
def execPortTraining (p : DaritPort) (o : TrainObs) (s : State) : Host.Outcome State Fault Refusal :=
  .next (
    let s := s.awake
    let s' := s.trainPort p o
    match s.svc.work with
    | some (.test 5 t _) =>
      if t = p.val && s.darit.ports[p].st = .training then s'.endWork stDone p.val (s'.darit.ports[p].st == .up) else s'
    | _ => s')

end Sys2Proof.Machine
end

