-- ==== Sys2Proof/Machine/Quench.lean ====
section
/-! DEFINITION. SNAPSHOT and the phases of a quench (17, R344 to R349). -/

namespace Sys2Proof.Machine

/-- Commands of a scope. -/
def State.scopeCmds (s : State) (scope : Bool) (ctx : Nat) : List Cmd :=
  s.cmds.filter (fun c => inScope scope ctx (s.queueCtx c.q))

/-- Space and an entry reserved, then the drain begun (R344, R345, R349). -/
def State.beginQuench (s : State) (q n : Nat) (cm : Cmd) : State :=
  let ctx := s.queueCtx q
  let scope := bit (cm.at 0x10 4) 0
  let label := cm.at 0x18 8
  let blocks := imageBlocks (imageOf (s.capture scope ctx) label s.timeNs s.svc.hwType.toNat)
  if s.fls.snapFree < blocks then s.endCmd q n stLimit false else
  match s.fls.emptyEntry with
  | none => s.endCmd q n stLimit false
  | some i =>
    let s := s.updFls (fun f => { f with
      snaps := f.snaps.set i { Snap.reset with
        state := .writing
        scope := scope
        ctx := if scope then 0 else ctx
        label := BitVec.ofNat 64 label
        blocks := blocks }
      quench := some { phase := .drain, scope := scope, ctx := ctx, q := q, n := n, entry := i.val, label := BitVec.ofNat 64 label,
                       redo := false, img := none } })
    ((s.scopeCmds scope ctx).foldl (fun s c => s.askStop c .drain) s).updCmd q n (fun x => { x with phase := .dispatched })

def execSnapshot (q n : Nat) (s : State) : Host.Outcome State Fault Refusal :=
  .next (match s.granted? q n tySnapshot with
    | none => s
    | some cm => if s.fls.quench.isSome then s.requeue q n else s.beginQuench q n cm)

/-- Whether a round kernel of a command holds a kernel slot. -/
def State.holdsRounds (s : State) (q n : Nat) : Bool :=
  s.cores.toList.any (fun co => co.slots.toList.any (fun sl => sl.cmd == some (q, n) && sl.round.isSome))

/-- Work of a command still running when the drain ends: discarded, the command lossy (R345). -/
def State.discardWork (s : State) (cm : Cmd) : State :=
  if cm.phase = .dispatched && cm.insts.any (fun i => i.placed.isSome && !i.ended) then
    (s.stopInstances cm.q cm.n).updCmd cm.q cm.n (fun x => { x with lossy := true })
  else if cm.phase = .dispatched && s.holdsRounds cm.q cm.n then
    (s.stopRounds cm.q cm.n).updCmd cm.q cm.n (fun x => { x with lossy := true })
  else s

/-- The sample queues of a scope brought to a hand-off boundary (R269). -/
def State.drainSamples (s : State) (scope : Bool) (ctx : Nat) : State :=
  { s with smp := s.smp.map (fun x => match x.desc with
      | some d => if inScope scope ctx d.ctx && x.state == smpRunning then x.halt x.state x.error else x
      | none => x) }

def execQuenchDrainEnd (s : State) : Host.Outcome State Fault Refusal :=
  .next (match s.fls.quench with
    | some z =>
      if z.phase != .drain then s else
      let s := ((s.scopeCmds z.scope z.ctx).foldl State.discardWork s).drainSamples z.scope z.ctx
      s.updFls (fun f => { f with quench := some { z with phase := .capture } })
    | none => s)

/-- The copy into staging taken; not while a reset part is away (R347). -/
def execQuenchCaptureEnd (s : State) : Host.Outcome State Fault Refusal :=
  .next (match s.fls.quench with
    | some z =>
      if z.phase != .capture || z.redo then s else
      s.updFls (fun f => { f with quench := some { z with phase := .write, img := some (s.capture z.scope z.ctx) } })
    | none => s)

/-- The header write that commits a snapshot (R345, R348). -/
def State.commitSnapshot (s : State) (z : Quench) (img : SnapImg) : State :=
  let i : Fin 16 := ⟨z.entry % 16, Nat.mod_lt _ (by decide)⟩
  let bytes := imageOf img z.label.toNat s.timeNs s.svc.hwType.toNat
  let n := imageBlocks bytes
  let s := s.updFls (fun f =>
    let f := { f with
      snaps := f.snaps.set i { f.snaps[i] with
        state := .committed
        label := z.label
        blocks := n
        timeNs := s.timeNs
        image := bytes
        img := some img }
      quench := none }
    (f.programSnap i 0 n).freeOlder i)
  (s.updCmd z.q z.n (fun x => { x with phase := .ready })).serveNext

def execQuenchWriteEnd (s : State) : Host.Outcome State Fault Refusal :=
  .next (match s.fls.quench with
    | some z => match z.phase, z.img with
      | .write, some img => s.commitSnapshot z img
      | _, _ => s
    | none => s)

end Sys2Proof.Machine
end

