-- ==== Sys2Proof/Machine/Admin.lean ====
section
/-! DEFINITION. The mailbox operations (16, R295, R298 to R301, R314, R316 to R319). -/

namespace Sys2Proof.Machine

/-! ## A mailbox (R318, R319) -/

def State.updMbox (s : State) (h : HostPort) (f : Mailbox → Mailbox) : State := { s with mbox := s.mbox.set h (f s.mbox[h]) }

/-- The other host port. -/
def otherPort (h : HostPort) : HostPort := if h = 0 then 1 else 0

/-- An operation ended: BUSY clears, STATUS and RESULT are written; with its port down RESULT is lost (R402). -/
def State.mailEnd (s : State) (h : HostPort) (status : Nat) (result : Nat) : State :=
  s.updMbox h (fun m => { m with
    busy := false
    status := status
    result := if s.hif[h].up then BitVec.ofNat 64 result else m.result
    waitOp := none
    behind := false })

/-- An operation that goes on: BUSY stays 1. -/
def State.mailWait (s : State) (h : HostPort) (i : Instr) : State :=
  s.updMbox h (fun m => { m with busy := true, waitOp := some i, behind := false })

/-- An operation that waits until the other mailbox's has ended. -/
def State.mailBehind (s : State) (h : HostPort) (i : Instr) : State :=
  s.updMbox h (fun m => { m with busy := true, waitOp := some i, behind := true })

/-- The status of what a failed read of host memory fails (R394). -/
def hostReadStatus : HostRead → Option Nat
  | .data _ => none
  | .timeout => some stData
  | .poisoned => some stData
  | .unsupported => some stMalformed
  | .aborted => some stMalformed

/-- The descriptor that an operation's read of ADDR gave, or the status of the failed read. -/
def hostDesc (rd : HostRead) : Except Nat (List Byte) :=
  match rd, hostReadStatus rd with
  | _, some st => .error st
  | .data bs, none => .ok ((bs ++ zeros 64).take 64)
  | _, none => .error stData

/-- A read that timed out counts and is logged (R407). -/
def State.noteHostRead (s : State) (h : HostPort) (rd : HostRead) : State :=
  match rd with
  | .timeout => (s.updHif h (fun x => { x with cntCplTimeout := x.cntCplTimeout + 1 })).logEv
      { source := 12, cause := 8, status := stData, unit := h.val }
  | _ => s

/-! ## CTX_CREATE (R295, R314) -/

/-- A context descriptor. -/
structure CtxDesc where
  id : Nat
  excl : Nat
  home : HostPort
  ctx : Ctx
deriving Repr

def ctxDescOf (bs : List Byte) : CtxDesc :=
  let w0 := leAt bs 0 4
  let w1 := leAt bs 4 4
  let home : HostPort := if bit w0 30 then 1 else 0
  { id := fld w0 27 16, excl := fld w1 9 3, home := home
    ctx := { admin := bit w0 28, altOk := bit w0 29, home := home, maxPrio := fld w1 2 0, exclCores := fld w1 9 3,
             root := fld (leAt bs 8 8) 39 12 * 4096, poolTable := leAt bs 0x10 8, poolCount := leAt bs 0x18 2,
             eventCount := leAt bs 0x1A 2, eventTable := leAt bs 0x20 8, flashBase := leAt bs 0x28 8,
             flashBlocks := leAt bs 0x30 8, paused := false } }

/-- Reserved fields zero and the ABI right. -/
def ctxDescClean (bs : List Byte) : Bool :=
  let r := leAt bs 8 8
  fld (leAt bs 0 4) 15 0 == 0x0100 && !bit (leAt bs 0 4) 31 && fld (leAt bs 4 4) 31 10 == 0 && fld r 63 40 == 0
    && fld r 11 0 == 0 && leAt bs 0x1C 4 == 0 && leAt bs 0x38 8 == 0
    && [0x10, 0x20, 0x28, 0x30].all (fun o => fld (leAt bs o 8) 63 48 == 0)

/-- What R295 asks of a descriptor's fields. -/
def CtxDesc.ok (d : CtxDesc) (dataBlocks : Nat) : Bool :=
  d.excl ≤ 96 && (d.ctx.poolCount != 0 || d.ctx.poolTable == 0) && d.ctx.eventTable % 8 == 0
    && (d.ctx.flashBlocks == 0 || d.ctx.flashBase + d.ctx.flashBlocks ≤ dataBlocks)

/-- In-service cores that no context owns. -/
def State.unowned (s : State) (c : CoreId) : Bool := s.coreUp c && s.cores[c].owner.isNone

/-- The cores chosen for c exclusive ones: whole regions first, then the lowest numbers (R314). -/
def State.chooseCores (s : State) (n : Nat) : List CoreId :=
  let free := (List.finRange 96).filter s.unowned
  let whole := (List.finRange 12).filter (fun g => (free.filter (fun c => regionOfCore c == g)).length == 8)
  let first := (whole.take (n / 8)).flatMap (fun g => free.filter (fun c => regionOfCore c == g))
  (first ++ free.filter (fun c => !first.contains c)).take n

/-- Cores reserved, or let go. -/
def State.setOwner (s : State) (cs : List CoreId) (o : Option Nat) : State :=
  cs.foldl (fun s c => s.updCore c (fun co => { co with owner := o })) s

/-- Coils of other contexts parked off a context's cores. -/
def State.parkOff (s : State) (cs : List CoreId) (ctx : Nat) : State :=
  s.coils.foldl (fun s e =>
    if !e.2.tail && e.2.status == .resident && e.2.ctx != ctx && e.2.holder.isNone
        && (List.range (2 ^ e.2.widthLog2)).any (fun j => cs.contains (coreN (e.2.core.val + j)))
    then s.setStatus e.1 .parking else s) s

/-- The cores a context owns. -/
def State.ownedBy (s : State) (ctx : Nat) : List CoreId := (List.finRange 96).filter (fun c => s.cores[c].owner == some ctx)

/-- Whether a core holds nothing of another context. -/
def State.drained (s : State) (ctx : Nat) (c : CoreId) : Bool :=
  s.cores[c].resident.all (fun sl => sl.ctx == ctx) && s.coils.all (fun e => e.2.ctx == ctx || !(e.2.holdsUnits && e.2.core == c))

/-- A context comes into being, its counters zero (R321). -/
def State.addCtx (s : State) (d : CtxDesc) : State :=
  { s with
    ctxs := insertAt s.ctxs d.id d.ctx
    acctWait := insertAt s.acctWait d.id 0
    acctPreempt := insertAt s.acctPreempt d.id 0
    acctKernels := insertAt s.acctKernels d.id 0
    acctEnergy := insertAt s.acctEnergy d.id 0 }

/-- The drain looked at: with it over the context is created, else BUSY stays (log 32). -/
def State.ctxDrain (s : State) (h : HostPort) (i : Instr) (d : CtxDesc) : State :=
  let s := s.parkOff (s.ownedBy d.id) d.id
  if (s.ownedBy d.id).all (s.drained d.id) then (s.addCtx d).mailEnd h stDone 0 else s.mailWait h i

def State.ctxCreate (s : State) (h : HostPort) (i : Instr) (rd : HostRead) : State :=
  match hostDesc rd with
  | .error st => (s.noteHostRead h rd).mailEnd h st 0
  | .ok bs =>
    let d := ctxDescOf bs
    if !ctxDescClean bs then s.mailEnd h stVersion 0
    else if d.home ≠ h then s.mailEnd h stAuth 0
    else if hasKey s.ctxs d.id || !d.ok s.fls.dataBlocks || s.mbox[h].addr.toNat % 64 != 0 then s.mailEnd h stMalformed 0
    else if d.excl = 0 then (s.addCtx d).mailEnd h stDone 0
    else if !(s.ownedBy d.id).isEmpty then s.ctxDrain h i d
    else
      let cs := s.chooseCores d.excl
      if cs.length < d.excl then s.mailEnd h stLimit 0 else (s.setOwner cs (some d.id)).ctxDrain h i d

/-! ## CTX_DESTROY (R317) -/

/-- Everything that a context's end frees: sample queues stopped, sequences and coils FREE, exclusive cores released. -/
def State.dropCtx (s : State) (ctx : Nat) : State :=
  let s := (s.stopSamples ctx).setOwner (s.ownedBy ctx) none
  let s := (s.coils.filter (fun e => e.2.ctx == ctx && !e.2.tail)).foldl (fun s e => s.eraseCoil e.1) s
  let s : State := { s with regions := s.regions.map (fun r => { r with tcache := r.tcache.filter (fun e => e.1 != ctx) }) }
  { s with seqs := s.seqs.filter (fun e => e.2.ctx != ctx), ctxs := eraseAt s.ctxs ctx }

def State.ctxDestroy (s : State) (h : HostPort) : State :=
  let id := s.mbox[h].arg0.toNat
  match lookup s.ctxs id with
  | none => s.mailEnd h stMalformed 0
  | some c =>
    if c.home ≠ h then s.mailEnd h stAuth 0
    else if s.queues.any (fun e => e.2.ctx == id) then s.mailEnd h stMalformed 0
    else (s.dropCtx id).mailEnd h stDone 0

/-! ## QUEUE_CREATE (R299, R300) -/

def queueDescClean (bs : List Byte) : Bool :=
  fld (leAt bs 0 4) 15 8 == 1 && fld (leAt bs 0 4) 31 16 == 0 && fld (leAt bs 4 4) 31 20 == 0 && fld (leAt bs 8 4) 31 18 == 0
    && fld (leAt bs 0xC 4) 31 17 == 0 && fld (leAt bs 0x28 4) 31 11 == 0 && (bs.drop 0x2C).all (· == 0)
    && [0x10, 0x18, 0x20].all (fun o => fld (leAt bs o 8) 63 48 == 0)

def queueOf (bs : List Byte) (gen : W16) : Queue :=
  let w2 := leAt bs 8 4
  { ctx := fld w2 11 0, prio := fld w2 14 12, role := fld w2 16 15, irqEn := bit w2 17, minor := 0, major := 1,
    depth := fld (leAt bs 0xC 4) 16 0, cmdRing := leAt bs 0x10 8, cplRing := leAt bs 0x18 8, statusBlock := leAt bs 0x20 8,
    vector := fld (leAt bs 0x28 4) 10 0, gen := gen, state := .active, accepted := 0, completed := 0, tail := 0,
    fetchFailed := false, held := [], prevOk := none }

def Queue.fieldsOk (qu : Queue) (maxPrio : Nat) : Bool :=
  qu.prio ≤ maxPrio && 2 ≤ qu.depth && qu.depth ≤ 65536 && qu.cmdRing % 64 == 0 && qu.cplRing % 32 == 0 && qu.statusBlock % 64 == 0

/-- Whether a queue's table entry can be written: the stack that holds it answers (R462). -/
def State.tableWrites (s : State) (q : Nat) : Bool := s.regionState (regionN ((s.tblQueue + 64 * q) / stackSpan)) == .inService

/-- The status block written as the queue stands, or held (R301, R462). -/
def State.writeStatus (s : State) (q : Nat) : State :=
  match lookup s.queues q with
  | none => s
  | some qu => match s.writeVirt none qu.ctx qu.statusBlock qu.statusBytes with
    | .ok s => s
    | .error e => s.holdWrite q .status e qu.statusBlock

def State.queueCreate (s : State) (h : HostPort) (i : Instr) (rd : HostRead) : State :=
  match hostDesc rd with
  | .error st => (s.noteHostRead h rd).mailEnd h st 0
  | .ok bs =>
    let q := fld (leAt bs 4 4) 19 0
    let gen := (lookup s.queueGens q).getD 0 + 1
    let qu := queueOf bs gen
    if !queueDescClean bs then s.mailEnd h stVersion 0 else
    match lookup s.ctxs qu.ctx with
    | none => s.mailEnd h stMalformed 0
    | some c =>
      if c.home ≠ h then s.mailEnd h stAuth 0
      else if hasKey s.queues q || !qu.fieldsOk c.maxPrio || s.mbox[h].addr.toNat % 64 != 0 then s.mailEnd h stMalformed 0
      else if !s.tableWrites q then s.mailWait h i
      else
        let s : State := { s with queues := insertAt s.queues q qu, queueGens := insertAt s.queueGens q gen }
        (s.writeStatus q).mailEnd h stDone (0x0100 + gen.toNat * 2 ^ 16)

/-! ## CANCEL (R316) -/

/-- Whether CANCEL ends a command: accepted, not ended, not failing already, no trap recorded, not a CULL that has dispatched. -/
def Cmd.cancellable (cm : Cmd) : Bool := cm.phase != .ended && cm.trap.isNone && cm.ending.isNone && !(cm.type == tyCull && cm.phase.busy)

/-- A quench given up with its SNAPSHOT. -/
def State.abandonQuench (s : State) (q n : Nat) : State :=
  match s.fls.quench with
  | some z =>
    if z.q = q && z.n = n then
      (s.updFls (fun f => { f.dropSnap ⟨z.entry % 16, Nat.mod_lt _ (by decide)⟩ with quench := none })).serveNext
    else s
  | none => s

/-- One command cancelled by a mailbox's operation: it ends once its instances have stopped. -/
def State.cancelOne (s : State) (h : HostPort) (q n : Nat) : State := (s.abandonQuench q n).endWith q n stCancelled (some h) .cancel

/-- Commands of a queue up to S that a CANCEL ends. -/
def State.toCancel (s : State) (q upTo : Nat) : List Cmd := s.cmds.filter (fun c => c.q == q && c.n ≤ upTo && c.cancellable)

def State.cancelUpTo (s : State) (h : HostPort) (q upTo : Nat) : State :=
  (s.toCancel q upTo).foldl (fun s c => s.cancelOne h c.q c.n) s

/-- Whether a command that a mailbox's CANCEL stops has not ended yet. -/
def State.cancelRuns (s : State) (h : HostPort) (q : Nat) : Bool :=
  s.cmds.any (fun c => c.q == q && c.phase != .ended && (match c.ending with
    | some (_, some p) => p == h
    | _ => false))

/-- Whether a mailbox's own operation is looked at again. -/
def State.mailAgain (s : State) (h : HostPort) : Bool := s.mbox[h].waitOp.isSome && !s.mbox[h].behind

/-- The queue that an operation names, if the port may: else the failure (R318). -/
def State.mailQueue (s : State) (h : HostPort) (q : Nat) : Except Nat Queue :=
  match lookup s.queues q with
  | none => .error stMalformed
  | some qu => match lookup s.ctxs qu.ctx with
    | some c => if c.home ≠ h then .error stAuth else .ok qu
    | none => .error stMalformed

/-- CANCEL ends when every command that it stops has ended; RESULT counts those that it cancelled. -/
def State.cancelOp (s : State) (h : HostPort) (i : Instr) : State :=
  let q := s.mbox[h].arg0.toNat
  match s.mailQueue h q with
  | .error st => s.mailEnd h st 0
  | .ok _ =>
    let s := if s.mailAgain h then s
      else (s.updMbox h (fun m => { m with count := 0 })).cancelUpTo h q s.mbox[h].arg1.toNat
    if s.cancelRuns h q then s.mailWait h i else s.mailEnd h stDone s.mbox[h].count

/-! ## QUEUE_DESTROY (R317) -/

/-- Whether an access fails for a part that is fenced. -/
def AccErr.isFenced : AccErr → Bool
  | .fenced _ => true
  | _ => false

/-- Whether an ended command's owed writes are held for a part that is fenced. -/
def State.owesFenced (s : State) (cm : Cmd) : Bool :=
  let ctx := s.queueCtx cm.q
  let blocked (s : State) (seq : Nat) (push : Pool → Act Unit) : Bool :=
    match lookup s.seqs seq with
    | none => false
    | some sq => match (poolAt ctx sq.pool >>= push).run s with
      | .error e => e.isFenced
      | .ok _ => false
  match (idleCounter ctx cm).run s with
  | .error e => e.isFenced
  | .ok (_, s) => cm.reserved.any (fun r => blocked s r.1 (fun p => p.pushBlock r.2))
      || cm.pages.any (fun a => a.taken && blocked s a.seq (fun p => p.pushPage a.page))

/-- What a destroyed queue's command owes to a fenced part is dropped; its holds are let go (R462). -/
def State.dropOwed (s : State) (cm : Cmd) : State :=
  if cm.settled || !s.owesFenced cm then s
  else (s.releaseHolds cm.q cm.n cm).updCmd cm.q cm.n (fun x => { x with settled := true, targets := [] })

/-- Whether a queue's status block must still be written, its part not being fenced (R462). -/
def State.statusOwed (s : State) (q : Nat) : Bool :=
  match lookup s.queues q with
  | none => false
  | some qu => match s.writeVirt none qu.ctx qu.statusBlock qu.statusBytes with
    | .error e => !e.isFenced
    | .ok _ => false

/-- No command runs or owes a write: the queue shown as DESTROYED, then its id freed. -/
def State.freeQueue (s : State) (q : Nat) (h : HostPort) (i : Instr) : State :=
  let s := (s.updQueue q (fun x => { x with state := .destroyed })).writeStatus q
  if s.statusOwed q || !s.tableWrites q then s.mailWait h i
  else
    let s : State := { s with cmds := s.cmds.filter (fun c => c.q != q), queues := eraseAt s.queues q }
    s.roleEffects.mailEnd h stDone 0

/-- QUEUE_DESTROY ends when no command of the queue runs and none owes a write. -/
def State.queueDestroy (s : State) (h : HostPort) (i : Instr) : State :=
  let q := s.mbox[h].arg0.toNat
  match s.mailQueue h q with
  | .error st => s.mailEnd h st 0
  | .ok _ =>
    let s := if s.mailAgain h then s
      else ((s.updQueue q (fun x => { x with state := .destroying })).writeStatus q).cancelUpTo h q (2 ^ 64)
    let s := s.settleQueue q
    let s := ((s.cmds.filter (fun c => c.q == q && c.phase == .ended)).foldl State.dropOwed s).runCulls
    if s.cmds.any (fun c => c.q == q && !(c.phase == .ended && c.settled)) then s.mailWait h i else s.freeQueue q h i

/-! ## INVALIDATE (R298) and QUERY (R318) -/

/-- Cached translations of some pages removed; 0 pages: of the whole space. -/
def State.invalidate (s : State) (ctx first pages : Nat) : State :=
  { s with regions := s.regions.map (fun r => { r with tcache := r.tcache.filter (fun e =>
      !(e.1 == ctx && (pages == 0 || (first / pageBytes ≤ e.2.1 && e.2.1 < first / pageBytes + pages)))) }) }

def State.invalidateOp (s : State) (h : HostPort) : State :=
  let a := s.mbox[h].arg0.toNat
  let first := s.mbox[h].arg1.toNat
  match lookup s.ctxs (fld a 11 0) with
  | none => s.mailEnd h stMalformed 0
  | some c =>
    if c.home ≠ h then s.mailEnd h stAuth 0
    else if first % pageBytes != 0 then s.mailEnd h stMalformed 0
    else (s.invalidate (fld a 11 0) first (fld a 31 12)).mailEnd h stDone 0

/-- State and status of a command (R318); the status of one whose record is posted lies no longer in the command store and is
a free value (log 37). -/
def State.queryOf (s : State) (q n : Nat) (qu : Queue) : Nat :=
  if n = 0 || qu.accepted < n then 4
  else match s.cmd? q n with
    | none => 3 + Config.freeNat 8 [q, n, qu.gen.toNat] % 256 * 2 ^ 8
    | some cm =>
      if cm.phase = .ended then 3 + cm.status * 2 ^ 8
      else if cm.held then 2 + stHeld * 2 ^ 8
      else if cm.phase.busy then 1 else 0

def State.queryOp (s : State) (h : HostPort) : State :=
  let q := s.mbox[h].arg0.toNat
  match s.mailQueue h q with
  | .error st => s.mailEnd h st 0
  | .ok qu => s.mailEnd h stDone (s.queryOf q s.mbox[h].arg1.toNat qu)

/-! ## The rows -/

/-- One operation run. -/
def State.runMail (s : State) (i : Instr) : State :=
  match i with
  | .ctxCreate h rd => s.ctxCreate h i rd
  | .ctxDestroy h => s.ctxDestroy h
  | .queueCreate h rd => s.queueCreate h i rd
  | .queueDestroy h => s.queueDestroy h i
  | .invalidate h => s.invalidateOp h
  | .cancel h => s.cancelOp h i
  | .query h => s.queryOp h
  | _ => s

/-- With a mailbox's operation ended, the one that waits in the other runs. -/
def State.nextMail (s : State) (h : HostPort) : State :=
  let o := s.mbox[otherPort h]
  match s.mbox[h].busy, o.behind, o.waitOp with
  | false, true, some i => s.runMail i
  | _, _, _ => s

/-- An operation arrives: ignored before READY; while its mailbox's operation goes on, that one is looked at again (log 32); behind
an operation of the other mailbox it waits; else it runs. -/
def State.mail (s : State) (h : HostPort) (op : Nat) (i : Instr) : State :=
  let m := s.mbox[h]
  if !s.isReady then s
  else if m.busy then
    match m.behind, m.waitOp with
    | false, some w => (s.runMail w).nextMail h
    | _, _ => s
  else
    let s := s.updMbox h (fun m => { m with busy := true, lastOp := op })
    if s.mbox[otherPort h].busy then s.mailBehind h i else s.runMail i

def execCtxCreate (h : HostPort) (rd : HostRead) (s : State) : Host.Outcome State Fault Refusal :=
  .next (let s := s.awake; s.mail h 1 (.ctxCreate h rd))

def execCtxDestroy (h : HostPort) (s : State) : Host.Outcome State Fault Refusal := .next (let s := s.awake; s.mail h 2 (.ctxDestroy h))

def execQueueCreate (h : HostPort) (rd : HostRead) (s : State) : Host.Outcome State Fault Refusal :=
  .next (let s := s.awake; s.mail h 3 (.queueCreate h rd))

def execQueueDestroy (h : HostPort) (s : State) : Host.Outcome State Fault Refusal := .next (let s := s.awake; s.mail h 4 (.queueDestroy h))

def execInvalidate (h : HostPort) (s : State) : Host.Outcome State Fault Refusal := .next (let s := s.awake; s.mail h 5 (.invalidate h))

def execCancel (h : HostPort) (s : State) : Host.Outcome State Fault Refusal := .next (let s := s.awake; s.mail h 6 (.cancel h))

def execQuery (h : HostPort) (s : State) : Host.Outcome State Fault Refusal := .next (let s := s.awake; s.mail h 7 (.query h))

/-- OP 0 and 8 to 15 (R319). -/
def execAdmInvalidOp (h : HostPort) (op : BitVec 4) (s : State) : Host.Outcome State Fault Refusal :=
  .next (let s := s.awake; if !s.isReady || s.mbox[h].busy || (op != 0 && op.toNat < 8) then s
    else s.updMbox h (fun m => { m with status := stMalformed, lastOp := op.toNat }))

/-- The drain of R314 has taken 1 s: BUSY, and nothing is reserved. -/
def execCtxCreateDrainTimeout (h : HostPort) (s : State) : Host.Outcome State Fault Refusal :=
  .next (match s.mbox[h].waitOp with
    | some (.ctxCreate _ rd) => match hostDesc rd with
      | .ok bs =>
        let id := (ctxDescOf bs).id
        if (s.ownedBy id).isEmpty || hasKey s.ctxs id then s
        else ((s.setOwner (s.ownedBy id) none).mailEnd h stBusy 0).nextMail h
      | .error _ => s
    | _ => s)

end Sys2Proof.Machine
end

