-- ==== Sys2Proof/Machine/Commit.lean ====
section
/-! DEFINITION. The commit point of a command (17, R327; 11, R210, R211; 01, R13). -/

namespace Sys2Proof.Machine

/-! ## Appends (R209 to R211) -/

/-- Positions that a command wrote in one layer-head. -/
def positions (ps : List AppendPage) (f : AppendPage → List Written) : List Nat :=
  ps.flatMap (fun a => (f a).map (fun t => 16 * a.pn + t.tok))

/-- Whether positions run without a gap from an end upward. -/
def gapless (e : Nat) (l : List Nat) : Bool := dupFree l && l.all (fun x => e ≤ x && x < e + l.length)

/-- The layer-heads that a sequence's appends touch, lowest first. -/
def headsOf (ps : List AppendPage) (n : Nat) : List Nat := (List.range n).filter (fun lh => ps.any (fun a => a.lh == lh))

/-- The pages of a layer-head in rising order. -/
def pagesUp (ps : List AppendPage) : List AppendPage :=
  ps.foldr (fun a l => l.takeWhile (fun b => b.pn < a.pn) ++ a :: l.dropWhile (fun b => b.pn < a.pn)) []

/-- One layer-head's writes checked: its new end (R210). -/
def checkHead (p : Pool) (root lh : Nat) (ps : List AppendPage) : Act Nat := do
  let e ← p.layerEnd root lh
  let ks := positions ps AppendPage.keys
  let vs := positions ps AppendPage.values
  Act.need (ks.length == vs.length && gapless e ks && gapless e vs) stMalformed
  Act.need (e + ks.length ≤ 1048576) stLimit
  return e + ks.length

/-- The new ends of a sequence's layer-heads. -/
def checkAppends (p : Pool) (sq : Seq) (ps : List AppendPage) : Act (List (Nat × Nat)) :=
  (headsOf ps (p.layers * p.heads)).mapM (fun lh => do
    let e ← checkHead p sq.root lh (ps.filter (fun a => a.lh == lh))
    return (lh, e))

/-- What is left of an append commit's work on one sequence: root, reserved blocks, blocks copied. -/
structure AppendAcc where
  root : Nat
  res : List Nat
  copied : Nat
deriving DecidableEq, Repr

/-- A sequence's writes linked into its tree, in rising lh and pn (R211). -/
def linkAppends (p : Pool) (ps : List AppendPage) (ends : List (Nat × Nat)) (a : AppendAcc) : Act AppendAcc :=
  ends.foldlM (fun a e =>
    (pagesUp (ps.filter (fun x => x.lh == e.1))).foldlM (fun a x => do
      let (root, res, n) ← p.commitPage a.root a.res x.lh x.pn x.page (min 16 (e.2 - 16 * x.pn))
      return { root := root, res := res, copied := a.copied + n }) a) a

/-- One target's commit: its tree, LENGTH where it received appends, STEP (R13, R211); the blocks it did not use. -/
def commitTarget (ctx : Nat) (cm : Cmd) (id : Nat) : Act (List (Nat × Nat)) := do
  let s ← get
  match lookup s.seqs id with
  | none => return []
  | some sq =>
    let ps := cm.pages.filter (fun a => a.seq == id)
    let res := (cm.reserved.filter (fun r => r.1 == id)).map (·.2)
    if ps.isEmpty then
      modify (fun s => s.updSeq id (fun x => { x with step := x.step + 1 }))
      return res.map (fun r => (id, r))
    let p ← poolAt ctx sq.pool
    let ends ← checkAppends p sq ps
    let a ← linkAppends p ps ends { root := sq.root, res := res, copied := 0 }
    let len ← p.treeLength a.root
    modify (fun s =>
      let s := s.updSeq id (fun x => { x with root := a.root, length := len, step := x.step + 1 })
      s.updCnt ((s.poolHome p).getD 0) (fun r => { r with blockCopy := r.blockCopy + BitVec.ofNat 64 a.copied }))
    return a.res.map (fun r => (id, r))

/-- One target's writes checked (R210). -/
def checkTarget (ctx : Nat) (cm : Cmd) (id : Nat) : Act Unit := do
  let s ← get
  match lookup s.seqs id with
  | none => return ()
  | some sq =>
    let ps := cm.pages.filter (fun a => a.seq == id)
    if ps.isEmpty then return ()
    let p ← poolAt ctx sq.pool
    let _ ← checkAppends p sq ps

/-- Every layer-head of every target checked, then all targets committed in the command's order; nothing is applied unless every one can
be (R210). -/
def commitAppends (ctx : Nat) (cm : Cmd) : Act (List (Nat × Nat)) := do
  for id in cm.targets do checkTarget ctx cm id
  let rs ← cm.targets.mapM (commitTarget ctx cm)
  return rs.flatten

/-! ## COMMAND_COMMIT (R327) -/

/-- DONE, or DONE_WITH_NOTES where the record counts something (R6). -/
def Cmd.doneStatus (cm : Cmd) : Nat := if cm.dups = 0 && cm.flags.emptyRows = 0 && !cm.notes then stDone else stNotes

/-- The append commit of a KERNEL, then its end. -/
def State.commitKernel (s : State) (q n : Nat) (cm : Cmd) : State :=
  let ctx := s.queueCtx q
  match (commitAppends ctx cm).run s with
  | .ok (left, s) =>
    let s := s.updCmd q n (fun x => { x with pages := [], reserved := left })
    { s with acctKernels := bump s.acctKernels ctx 1 }.endCmd q n cm.doneStatus true
  | .error (.status st nt) => (s.noteErr nt).failCmd q n st
  | .error (.resetting g) => s.logAbsent (.region g)
  | .error (.hostDown _) => s
  | .error e => s.cmdErr q n e

/-- The change of a ROUND, then its end. -/
def State.commitRoundCmd (s : State) (q n : Nat) (cm : Cmd) : State :=
  match (commitRound (s.queueCtx q) cm).run s with
  | .ok (_, s) => s.endCmd q n stDone true
  | .error (.status st nt) => (s.noteErr nt).failCmd q n st
  | .error (.resetting g) => s.logAbsent (.region g)
  | .error (.hostDown _) => s
  | .error e => s.cmdErr q n e

/-- A command whose work is done reaches its commit point: its changes, its mark, its record in queue order. It waits for every
contribution that lies staged (R151). A KERNEL whose instances have all ended while a part was away has its done bits examined now
(R166). -/
def execCommandCommit (q n : Nat) (s : State) : Host.Outcome State Fault Refusal :=
  .next (match s.cmd? q n with
    | none => s
    | some cm =>
      if cm.held then s
      else if cm.phase = .dispatched then s.instancesEnd q n
      else if cm.phase != .ready || cm.staged != 0 then s
      else if cm.type = tyKernel then s.commitKernel q n cm
      else if cm.type = tyRound then s.commitRoundCmd q n cm
      else if cm.status != 0 then s.failCmd q n cm.status
      else (s.commitFlash cm).endCmd q n cm.doneStatus true)

end Sys2Proof.Machine
end

