-- ==== Sys2Proof/Machine/Power.lean ====
section
/-! DEFINITION. Power states, the cap, hints, droop, thermal control, margin mode, energy (21, R408 to R427). -/

namespace Sys2Proof.Machine


/-! ## Glow and Ember (R409) -/

def State.noSlotUsed (s : State) : Bool := s.cores.toList.all (fun co => co.slots.toList.all (fun sl => sl.state == .free))

def State.noneDispatched (s : State) : Bool :=
  s.cmds.all (fun cm => cm.phase == .waiting || cm.phase == .ended)

def State.noPortUp (s : State) : Bool := s.darit.ports.toList.all (fun p => p.st != .up)

/-- No kernel slot occupied and no command dispatched. -/
def State.idle (s : State) : Bool := s.noSlotUsed && s.noneDispatched

def execGlowEntry (s : State) : Host.Outcome State Fault Refusal :=
  .next (if s.diesOn && s.pwr.current = 0 && s.idle && 1 ≤ s.pwr.autoDeepest then s.setPower 1 else s)

def execEmberEntry (s : State) : Host.Outcome State Fault Refusal :=
  .next (if s.pwr.current = 1 && s.idle && 2 ≤ s.pwr.autoDeepest && s.noPortUp then s.setPower 2 else s)

def execLowPowerWake (s : State) : Host.Outcome State Fault Refusal := .next s.leaveLow

/-! ## Ash and Cold (R410 to R412) -/

/-- What entry to Ash asks for. -/
def State.ashOk (s : State) : Bool :=
  s.idle && s.smp.toList.all (fun x => x.state != smpRunning) && s.fls.quench.isNone && s.noPortUp

/-- A request in progress. -/
def Power.ask (p : Power) (code : Nat) : Power := { p with request := code, pendingReq := some code }

/-- A request ended without a change of state. -/
def Power.deny (p : Power) (status : Nat) : Power := { p with pendingReq := none, reqStatus := status }

/-- A request for Ash, or another look at one in progress. -/
def State.requestAsh (s : State) : State :=
  let s := s.updPwr (fun p => p.ask 3)
  if s.ashOk then s.enterAsh else s

def execAshRequest (s : State) : Host.Outcome State Fault Refusal :=
  .next (let s := s.awake; if s.diesOn then s.requestAsh else s)

/-- Compute dies and stacks without power: what lies in them is lost, the standby domain runs on (R412, R423, R451). -/
def State.unpower (s : State) : State :=
  let t := s.bare
  { t with darit := { t.darit with incarnation := s.darit.incarnation } }.updPwr (fun p => { p with powered := false })

def State.enterCold (s : State) : State :=
  let t := s.unpower.updPwr (fun p => { p with reqStatus := stDone, powered := true })
  t.setPower 4

/-- A request for Cold: MALFORMED at once while a context exists. -/
def State.requestCold (s : State) : State :=
  if !s.ctxs.isEmpty then s.updPwr (fun p => { p with request := 4 }.deny stMalformed)
  else
    let s := s.updPwr (fun p => p.ask 4)
    if s.ashOk then s.enterCold else s

def execColdRequest (s : State) : Host.Outcome State Fault Refusal :=
  .next (let s := s.awake; if s.diesOn then s.requestCold else s)

/-- Whether the conditions of the request in progress hold. -/
def State.askOk (s : State) : Bool := s.ashOk && (s.pwr.pendingReq == some 3 || s.ctxs.isEmpty)

/-- 100 ms after a request: it fails with BUSY unless its conditions hold. -/
def execPowerRequestTimeout (s : State) : Host.Outcome State Fault Refusal :=
  .next (if s.pwr.pendingReq.isNone then s
    else if !s.askOk then s.updPwr (fun p => p.deny stBusy)
    else if s.pwr.pendingReq = some 3 then s.enterAsh else s.enterCold)

def execAshWake (s : State) : Host.Outcome State Fault Refusal := .next s.awake

def execColdWake (s : State) : Host.Outcome State Fault Refusal :=
  .next (if s.pwr.current = 4 && s.pwr.powered then s.leaveCold else s)

/-! ## The cap (R415 to R417) -/

def Power.effectiveW (p : Power) : Nat := min p.capW (min (if p.coolantWarn then 2000 else 4000) 4000)

/-- The last 1 ms mean. -/
def Power.meanW (p : Power) : Nat := p.msMeans.headD 0

/-- Percent of the input current that feed A carries (R449); what lies within a range is a free value. -/
def Power.shareA (p : Power) (vA vB free : Nat) : Nat :=
  match p.feeds[0].present, p.feeds[1].present with
  | true, true => if vA ≤ vB + 10 && vB ≤ vA + 10 then 40 + free % 21 else if vB < vA then 100 else 0
  | true, false => 100
  | false, _ => 0

/-- One feed's readings at a sample: its voltage in 0.1 V and its power in W. -/
def FeedState.sample (f : FeedState) (dv w : Nat) : FeedState :=
  if f.present then { f with voltDv := dv, currentDa := 100 * w / dv, ein := f.ein + w, samples := f.samples + 1, msSum := f.msSum + w }
  else { f with currentDa := 0, samples := f.samples + 1 }

/-- Feed readings: voltages in the operating range and the share of the current are free values. -/
def Power.readFeeds (p : Power) (ctr watts : Nat) : Power :=
  let v (f : Nat) : Nat := 400 + Config.freeNat 9 [f, ctr] % 196
  let a := watts * p.shareA (v 0) (v 1) (Config.freeNat 10 [ctr]) / 100
  { p with feeds := #v[p.feeds[0].sample (v 0) a, p.feeds[1].sample (v 1) (watts - a)] }

/-- A feed's 1 ms mean. -/
def FeedState.average (f : FeedState) : FeedState := { f with meanW := f.msSum / 100, msSum := 0 }

/-- A 10 µs sample taken into the 1 ms means. -/
def Power.average (p : Power) (watts : Nat) : Power :=
  let l := watts :: p.msSamples
  if l.length < 100 then { p with msSamples := l }
  else { p with msSamples := [], msMeans := List.take 10 (l.sum / l.length :: p.msMeans), feeds := p.feeds.map FeedState.average }

/-- One 10 µs sample of the summed input; the sideband bus shows it in every state (R454). -/
def Power.sample (p : Power) (watts : Nat) : Power :=
  { p with
    peakW := max p.peakW watts
    energyUj := p.energyUj + 10 * watts
    cappedUs := if p.capped || p.limiter then p.cappedUs + 10 else p.cappedUs
    limiter := p.limiter || decide (4400 < watts) }

def execPowerSample (watts : Nat) (s : State) : Host.Outcome State Fault Refusal :=
  .next (if s.pwr.standby then
      (s.updPwr (fun p => ((p.sample watts).readFeeds s.freshCtr watts).average watts)).fresh
    else s)

/-- Each core's point: the lowest of the package ceiling, its die's ceiling and 15 (R414). -/
def State.repoint (s : State) : State :=
  (List.finRange 96).foldl (fun s c => s.updCore c (fun co =>
    { co with point := min (min s.pwr.ceil s.pwr.dieCeil[dieOfRegion (regionOfCore c)]) 15 })) s

/-- Whether every 1 ms mean of the last 10 ms lies below 95 % of the effective cap. -/
def Power.roomy (p : Power) : Bool := p.msMeans.length == 10 && p.msMeans.all (fun m => 100 * m < 95 * p.effectiveW)

/-- One step of CEIL or of the gating; while a hint lowers CEIL it does not rise. -/
def Power.step (p : Power) : Power :=
  if p.effectiveW < p.meanW then
    if 0 < p.ceil then { p with ceil := p.ceil - 1, capped := true } else { p with gate := min (p.gate + 1) 7 }
  else if p.roomy && !p.hintLow then
    if 0 < p.gate then { p with gate := p.gate - 1 }
    else { p with ceil := min (p.ceil + 1) 15, capped := p.capped && p.ceil + 1 < 15 }
  else p

/-- A step of 100 µs; the limiter's gating ends with it. -/
def State.stepCeil (s : State) : State :=
  let was := s.pwr.capped
  let s := (s.updPwr (fun p => { p.step with limiter := false })).repoint
  if s.pwr.capped && !was then s.logPower 1 wholeUnit else s

def execCeilingStep (s : State) : Host.Outcome State Fault Refusal := .next (if s.diesOn then s.stepCeil else s)

/-- A token taken before a core's first anvil instruction after 10 µs or more without one. -/
def execAnvilTokenGrant (c : CoreId) (s : State) : Host.Outcome State Fault Refusal :=
  .next (if s.coreUp c then s.updCore c (fun co => { co with token := true }) else s)

/-! ## Hints (R418, R419) -/

/-- Module input of a class. -/
def classW (c : Nat) : Nat := (c + 1) * 250

/-- Highest class of the hints in force. -/
def topClass (hs : List Hint) : Option Nat :=
  (hs.filter Hint.started).foldl (fun m h => some (max (m.getD 0) h.cls)) none

/-- Hints as they stand: the class whose level the rails hold, and whether one of them lowers CEIL. -/
def Power.withHints (p : Power) (hs : List Hint) : Power :=
  { p with
    hints := hs
    railCls := topClass hs
    hintLow := hs.any (fun h => h.started && decide (p.effectiveW < classW h.cls)) }

/-- A hint comes into force; a class above the cap lowers CEIL to the point that its fused coefficients give, a free value. -/
def Power.startHint (p : Power) (id : Nat) : Power :=
  match p.hints.find? (fun h => h.id == id && !h.started) with
  | none => p
  | some h =>
    let q := p.withHints (p.hints.map (fun x => if x.id = id then { x with started := true } else x))
    if p.effectiveW < classW h.cls then { q with ceil := min p.ceil (Config.freeNat 11 [h.cls, p.effectiveW] % 16) } else q

def execHintStart (id : Nat) (s : State) : Host.Outcome State Fault Refusal := .next (s.updPwr (fun p => p.startHint id)).repoint

/-- A hint gone. -/
def Power.endHint (p : Power) (id : Nat) : Power := p.withHints (p.hints.filter (fun h => h.id != id))

def execHintEnd (id : Nat) (s : State) : Host.Outcome State Fault Refusal := .next (s.updPwr (fun p => p.endHint id))

def execHintEarlyEnd (id : Nat) (s : State) : Host.Outcome State Fault Refusal :=
  .next (if s.pwr.hints.any (fun h => h.id == id && h.started) then
      s.updPwr (fun p => { p.endHint id with hintMiss := p.hintMiss + 1 })
    else s)

/-! ## Droop (R420, R421) -/

/-- The die of an island, as PWR_TEMPER_SEL numbers islands; 4: the service die. -/
def islandDie (i : Nat) : Nat :=
  if i < 96 then i / 24 else if i < 108 then (i - 96) / 3 else if i < 120 then (i - 108) / 3
  else if i < 152 then (i - 120) / 8 else if i < 176 then (i - 152) / 6 else if i < 188 then (i - 176) / 3 else 4

def Power.trip (p : Power) (i : Fin 200) (deep : Bool) : Power :=
  let d : Fin 5 := ⟨islandDie i.val % 5, Nat.mod_lt _ (by decide)⟩
  { p with stretch := p.stretch.set i (if deep then 40 else 20), droop := p.droop.set d (p.droop[d] + 1) }

def execDroopTrip (island : Fin 200) (deep : Bool) (s : State) : Host.Outcome State Fault Refusal :=
  .next (s.updPwr (fun p => p.trip island deep))

def execDroopRecover (island : Fin 200) (s : State) : Host.Outcome State Fault Refusal :=
  .next (s.updPwr (fun p => { p with stretch := p.stretch.set island 0 }))

/-- In margin mode a droop fault resets the island's trim and freezes it (R425). -/
def Power.freeze (p : Power) (i : Fin 200) : Power :=
  if p.immMode then { p with trims := p.trims.set i 0, frozen := p.frozen.set i true } else p

/-- A droop fault: a core fault, a die fault, or in the service die a package warm reset. -/
def State.droopFault (s : State) (i : Fin 200) : State :=
  let s := (s.logPower 6 i.val).updPwr (fun p => p.freeze i)
  if i.val < 96 then s.coreFault (coreN i.val)
  else if islandDie i.val < 4 then s.dieFault (dieN (islandDie i.val))
  else s.warmReset

def execDroopFault (island : Fin 200) (s : State) : Host.Outcome State Fault Refusal :=
  .next (if s.diesOn then s.droopFault island else s)

/-! ## Thermal control (R422 to R424) -/

/-- A compute die's ceiling after a sample: a point down each 1 ms at 100 °C or more, a point up each 10 ms below 97 °C; at point 0
gating in eighths takes its place. -/
def Power.dieStep (p : Power) (d : DieId) (t : Nat) : Power :=
  let n := p.dieSince[d] + 1
  let p := { p with dieSince := p.dieSince.set d n }
  let moved (p : Power) : Power := { p with dieSince := p.dieSince.set d 0 }
  if 1000 ≤ t && 10 ≤ n then
    moved (if 0 < p.dieCeil[d] then { p with dieCeil := p.dieCeil.set d (p.dieCeil[d] - 1) }
      else { p with dieGate := p.dieGate.set d (min (p.dieGate[d] + 1) 7) })
  else if t < 970 && 100 ≤ n then
    moved (if 0 < p.dieGate[d] then { p with dieGate := p.dieGate.set d (p.dieGate[d] - 1) }
      else { p with dieCeil := p.dieCeil.set d (min (p.dieCeil[d] + 1) 15) })
  else p

/-- One stack's temperature: HOT above 85 °C (R281); its controller at half rate from 95 °C until below 90 °C. -/
def State.stackTemp (s : State) (g : RegionId) (t : Nat) : State :=
  (s.updRegion g (fun r => { r with hot := decide (850 < t) })).updPwr (fun p =>
    { p with stackHalf := p.stackHalf.set g (decide (950 ≤ t) || (p.stackHalf[g] && decide (900 ≤ t))) })

/-- A compute die's sensors read. -/
def State.dieTemp (s : State) (d : DieId) (t : Nat) (temps : List Nat) : State :=
  let was := s.pwr.dieCeil[d]
  let s := (s.updPwr (fun p => p.dieStep d t)).repoint
  let s := ((regionsOf d).zip temps).foldl (fun s e => s.stackTemp e.1 e.2) s
  if was = 15 && s.pwr.dieCeil[d] < 15 then s.logPower 2 d.val else s

def State.thermal (s : State) (die : Fin 5) (t : Nat) (temps : List Nat) : State :=
  let s := s.updPwr (fun p => { p with maxDc := p.maxDc.set die t })
  if h : die.val < 4 then (if s.diesOn then s.dieTemp ⟨die.val, h⟩ t temps else s) else s

def execThermalSample (die : Fin 5) (hottestDc : Nat) (stackDc : List Nat) (s : State) : Host.Outcome State Fault Refusal :=
  .next (s.thermal die hottestDc stackDc)

/-- TRIPPED: dies and stacks without power, the service and security cores kept (R423). -/
def State.trip (s : State) : State :=
  let t := (s.logPower 3 wholeUnit).unpower
  { t with svc := { s.svc with phase := 1, waiting := [], work := none, fw := t.svc.fw, tBusy := false } }.updPwr
    (fun p => { p with tripped := true })

def execThermalTrip (s : State) : Host.Outcome State Fault Refusal := .next (if s.pwr.tripped then s else s.trip)

/-- Whether a coolant reading calls for R424's limit (R424, R456). -/
def coolantBad (inletDc flowCl : Nat) : Bool := 400 < inletDc || flowCl < 400 || inletDc < 150 || 800 < flowCl

def State.coolant (s : State) (inletDc flowCl : Nat) : State :=
  let was := s.pwr.coolantWarn
  let s := s.updPwr (fun p => { p with
    inletDc := inletDc
    flowCl := flowCl
    coolantWarn := p.coolantWarn || coolantBad inletDc flowCl })
  if s.pwr.coolantWarn && !was then s.logPower 4 wholeUnit else s

def execCoolantSample (inletDc flowCl : Nat) (s : State) : Host.Outcome State Fault Refusal := .next (s.coolant inletDc flowCl)

def execCoolantWarnEnd (s : State) : Host.Outcome State Fault Refusal :=
  .next (if coolantBad s.pwr.inletDc s.pwr.flowCl then s else s.updPwr (fun p => { p with coolantWarn := false }))

/-! ## Margin mode (R425) -/

/-- An island's trim after an adjustment of at most 5 mV, the amount a free value. -/
def Power.trimStep (p : Power) (ctr i slack : Nat) : Nat :=
  let t := p.trims.toList.getD i 0
  let n := 1 + Config.freeNat 12 [i, ctr] % 5
  if p.frozen.toList.getD i false then t
  else if p.immTarget < slack then min 60 (t + n)
  else if slack < p.immTarget then t - n
  else t

def Power.adjust (p : Power) (ctr : Nat) (slacks : List Nat) : Power :=
  { p with
    slacks := slacks
    trims := Vector.ofFn (fun i : Fin 200 => p.trimStep ctr i.val (slacks.getD i.val 0)) }

def execMarginAdjust (slacks : List Nat) (s : State) : Host.Outcome State Fault Refusal :=
  .next (if s.pwr.immMode && s.diesOn && slacks.length = 200 then (s.updPwr (fun p => p.adjust s.freshCtr slacks)).fresh else s)

/-- PWR_IMM_CTRL written. -/
def Power.setMargin (p : Power) (v : Nat) : Power :=
  let t := fld v 7 1
  { p with
    immTarget := if 10 ≤ t && t ≤ 80 then t else p.immTarget
    immMode := bit v 0
    frozen := Vector.replicate 200 false
    trims := if bit v 0 then p.trims else Vector.replicate 200 0
    slacks := if bit v 0 then p.slacks else [] }

def execMarginModeWrite (v : W32) (s : State) : Host.Outcome State Fault Refusal :=
  .next (let s := s.awake; if s.diesOn then s.updPwr (fun p => p.setMargin v.toNat) else s)

/-! ## Energy (R426) -/

/-- What a context gets of an interval's measured energy: its estimate scaled so that all estimates together make the measured figure. -/
def scaledShare (measured total estimate : Nat) : Nat := measured * estimate / total

/-- Estimates of one interval added up context by context. -/
def joined (es : List (Nat × Nat)) : List (Nat × Nat) := es.foldl (fun t e => insertAt t e.1 ((lookup t e.1).getD 0 + e.2)) []

/-- An interval of 100 µs: the energy measured since the last one goes to the contexts by their estimates, what is left to
CNT_PWR_UNATTR, all of it where no context had activity. -/
def State.attribute (s : State) (estimates : List (Nat × Nat)) : State :=
  let mine := joined (estimates.filter (fun e => hasKey s.ctxs e.1))
  let measured := s.pwr.energyUj - s.pwr.attrUj
  let shares := mine.map (fun e => (e.1, scaledShare measured (mine.map Prod.snd).sum e.2))
  ({ s with acctEnergy := shares.foldl (fun t (e : Nat × Nat) => bump t e.1 (BitVec.ofNat 64 e.2)) s.acctEnergy }).updPwr (fun p =>
    { p with unattr := p.unattr + BitVec.ofNat 64 (measured - (shares.map Prod.snd).sum), attrUj := p.energyUj })

/-- Each context's estimates: of its kernels' cores, and of the other parts by the bytes they moved for it. -/
def execEnergyAttribution (cores parts : List (Nat × Nat)) (s : State) : Host.Outcome State Fault Refusal :=
  .next (s.attribute (cores ++ parts))

end Sys2Proof.Machine
end

