-- ==== Sys2Proof/Machine/Module.lean ====
section
/-! DEFINITION. The module: 48 V feeds, power-good and its loss, reference inputs, the sideband bus (23, R447 to R458). -/

namespace Sys2Proof.Machine

/-- A record of SOURCE 15, MODULE (R458). -/
def State.logModule (s : State) (cause unit : Nat) : State := s.logEv { source := 15, cause := cause, unit := unit }

def State.updFeed (s : State) (f : Feed) (g : FeedState → FeedState) : State :=
  s.updPwr (fun p => { p with feeds := p.feeds.set f (g p.feeds[f]) })

/-! ## Feeds (R449, R450) -/

def Power.anyFeed (p : Power) : Bool := p.feeds.toList.any (·.present)

/-- STATUS_INPUT bits that the conditions set: no feed left makes unit-off-for-low-input (R454). -/
def Power.latch (p : Power) : Power :=
  { p with feeds := p.feeds.map (fun f => { f with
      latchOv := f.latchOv || f.overV
      latchUv := f.latchUv || (!f.present && !f.overV)
      latchOff := f.latchOff || !p.anyFeed }) }

/-- A feed is lost for the load: PRESENT clears, the log and ALERT_N say so. -/
def State.loseFeed (s : State) (f : Feed) (why : FeedState → FeedState) : State :=
  let was := s.pwr.feeds[f].present
  let s := (s.updFeed f (fun x => { why x with present := false })).updPwr (fun p => { p.latch with alert := true })
  if was then s.logPower 5 f.val else s

def execFeedFailure (f : Feed) (s : State) : Host.Outcome State Fault Refusal :=
  .next (if s.pwr.feeds[f].present then s.loseFeed f id else s)

/-- A feed back in range for 20 ms; it powers the standby domain. -/
def execFeedReturn (f : Feed) (s : State) : Host.Outcome State Fault Refusal :=
  .next ((s.updFeed f (fun x => { x with present := true, overV := false, reverse := false, short := false })).updPwr
    (fun p => { p with standby := true }))

def execFeedOvervoltage (f : Feed) (s : State) : Host.Outcome State Fault Refusal :=
  .next ((s.loseFeed f (fun x => { x with overV := true })).logModule 5 f.val)

def execFeedReversePolarity (f : Feed) (s : State) : Host.Outcome State Fault Refusal :=
  .next ((s.loseFeed f (fun x => { x with reverse := true })).logModule 6 f.val)

def execFeedShort (f : Feed) (s : State) : Host.Outcome State Fault Refusal :=
  .next (s.loseFeed f (fun x => { x with short := true }))

/-! ## Power-good, loss, removal (R451) -/

/-- Power-good: straps read, then a cold start; a package that holds TRIPPED stays so (R423). -/
def State.powerUp (s : State) (env : StartEnv) : State :=
  let s := s.updPwr (fun p => { p with standby := true, slotId := env.slotId.toNat, smbAddr := 0x60 + env.smbAddr.toNat })
  let s := if env.coolantOk then s else s.logModule 8 wholeUnit
  let s : State := { s with
    badCheckers := env.failedCheckers
    regions := Vector.ofFn (fun g : RegionId => { s.regions[g] with
      lanesBad := (env.failingLanes.filter (fun l => l.1 == g)).map (fun l => (l.2.1.val, l.2.2)) }) }
  if s.pwr.tripped then s
  else (s.updPwr (fun p => { p with powered := true })).coldStart

def execPowerGood (env : StartEnv) (s : State) : Host.Outcome State Fault Refusal :=
  .next (if s.pwr.anyFeed && !s.pwr.powered then s.powerUp env else s)

/-- No feed in range for 100 µs. -/
def execPowerLoss (s : State) : Host.Outcome State Fault Refusal :=
  .next (if s.pwr.anyFeed || !s.pwr.powered then s else s.unpower)

/-- Both feeds below 36 V for 5 ms: what flash, fuses and the stacks' own hard repairs hold is left. -/
def State.lose (s : State) : State :=
  { State.reset with
    hostMem := s.hostMem
    fls := s.fls.restart
    svc := { s.svc.restart with keptDigests := [] }
    regions := s.regions.map (fun (r : Region) => { Region.reset with hardUsed := r.hardUsed, hardFree := r.hardFree })
    darit := { State.reset.darit with incarnation := s.darit.incarnation }
    nextReq := s.nextReq
    freshCtr := s.freshCtr
    pending := s.pending }.updPwr (fun p => { p with standby := false })

def execPowerRemoved (s : State) : Host.Outcome State Fault Refusal := .next (if s.pwr.anyFeed then s else s.lose)

/-! ## Clock and time inputs (R404, R452) -/

def State.updTim (s : State) (f : TimeBase → TimeBase) : State := { s with tim := f s.tim }

/-- The time base without its PPS pair: HOLDOVER. -/
def TimeBase.noPps (t : TimeBase) : TimeBase := if t.active = 3 then { t with state := .holdover } else t

def State.losePps (s : State) : State :=
  let was := s.tim.ppsOk
  let s := s.updTim (fun t => { t with ppsOk := false }.noPps)
  if was then s.logModule 3 wholeUnit else s

def State.loseTen (s : State) : State :=
  let was := s.tim.tenOk
  let s := s.updTim (fun t => { t with tenOk := false }.noPps)
  if was then s.logModule 4 wholeUnit else s

/-- An input comes or goes; a host port or a Darit port takes it up at its next reset or training. -/
def State.clockInput (s : State) (i : ClockInput) (present : Bool) : State :=
  match i with
  | .refclk h => s.updTim (fun t => { t with refPresent := t.refPresent.set h present })
  | .dref => s.updTim (fun t => { t with drefPresent := present })
  | .pps => if present then s.updTim (fun t => { t with ppsOk := true }) else s.losePps
  | .tenMHz => if present then s.updTim (fun t => { t with tenOk := true }) else s.loseTen

def execClockInputChange (i : ClockInput) (present : Bool) (s : State) : Host.Outcome State Fault Refusal :=
  .next (s.clockInput i present)

/-! ## The sideband bus (R454) -/

/-- What keeps ALERT_N asserted by itself. -/
def Power.alertCond (p : Power) : Bool := p.feeds.toList.any (fun f => !f.present) || p.coolantWarn || p.tripped

/-- ALERT_N and SMB_ALERT_N. -/
def Power.alertPin (p : Power) : Bool := p.alert || p.alertCond

/-- FAULT_N (R447). -/
def Power.faultPin (p : Power) : Bool := p.tripped || !p.anyFeed

/-- A PMBus answer, while the standby domain runs. -/
def State.smb (s : State) (bytes : List Byte) : State := if s.pwr.standby then { s with reply := bytes } else s

/-- The feeds that PAGE selects. -/
def Power.pageFeeds (p : Power) : List FeedState :=
  if p.page = 0 then [p.feeds[0]] else if p.page = 1 then [p.feeds[1]] else p.feeds.toList

/-- PAGE read, or written with one of its three values. -/
def execPage (write : Option Byte) (s : State) : Host.Outcome State Fault Refusal :=
  .next (match write with
    | none => s.smb (leBytes 1 s.pwr.page)
    | some v => if s.pwr.standby && (v = 0 || v = 1 || v = 0xFF) then s.updPwr (fun p => { p with page := v.toNat }) else s)

/-- Latched status cleared; what persists sets again. -/
def Power.clearFaults (p : Power) : Power :=
  let clear (f : FeedState) : FeedState := { f with latchOv := false, latchUv := false, latchOff := false }
  Power.latch { p with feeds := p.feeds.map clear, cml := false, alert := false }

def execClearFaults (s : State) : Host.Outcome State Fault Refusal :=
  .next (if s.pwr.standby then s.updPwr Power.clearFaults else s)

/-- STATUS_INPUT of the page: over-voltage fault, under-voltage fault, unit off for low input. -/
def Power.statusInput (p : Power) : Nat :=
  let fs := p.pageFeeds
  bitN (fs.any (·.latchOv)) * 2 ^ 7 + bitN (fs.any (·.latchUv)) * 2 ^ 4 + bitN (fs.any (·.latchOff)) * 2 ^ 3

/-- STATUS_WORD: INPUT, OFF, TEMPERATURE, CML. -/
def State.statusWord (s : State) : Nat :=
  let p := s.pwr
  bitN (p.statusInput != 0) * 2 ^ 13 + bitN (!s.diesOn) * 2 ^ 6
    + bitN (p.tripped || p.coolantWarn || p.dieCeil.toList.any (fun c => c < 15)) * 2 ^ 2 + bitN p.cml * 2

def execStatusWord (s : State) : Host.Outcome State Fault Refusal := .next (s.smb (leBytes 2 s.statusWord))

/-- Reading STATUS_INPUT releases ALERT_N where no condition holds it (R451). -/
def execStatusInput (s : State) : Host.Outcome State Fault Refusal :=
  .next (if s.pwr.standby then (s.smb (leBytes 1 s.pwr.statusInput)).updPwr (fun p => { p with alert := false }) else s)

/-- A PMBus block: its length, then its bytes. -/
def smbBlock (bs : List Byte) : List Byte := leBytes 1 bs.length ++ bs

/-- READ_EIN: accumulator modulo 2^15, rollovers, samples. -/
def Power.einBytes (p : Power) : List Byte :=
  let e := (p.pageFeeds.map FeedState.ein).sum
  leBytes 2 (e % 2 ^ 15) ++ leBytes 1 (e / 2 ^ 15 % 256) ++ leBytes 3 ((p.pageFeeds.headD FeedState.reset).samples % 2 ^ 24)

def execReadEin (s : State) : Host.Outcome State Fault Refusal := .next (s.smb (smbBlock s.pwr.einBytes))

/-- num / den × 2^-e, rounded half up. -/
def scaledBy (num den : Nat) (e : Int) : Nat :=
  let n := num * 2 ^ (-e).toNat
  let d := den * 2 ^ e.toNat
  (2 * n + d) / (2 * d)

/-- LINEAR11: an 11-bit mantissa under the least 5-bit exponent that holds it. -/
def linear11 (num den : Nat) : Nat :=
  let es : List Int := (List.range 32).map (fun i => (i : Int) - 16)
  match es.find? (fun e => scaledBy num den e ≤ 1023) with
  | some e => (e % 32).toNat * 2 ^ 11 + scaledBy num den e
  | none => 15 * 2 ^ 11 + 1023

def execReadVin (s : State) : Host.Outcome State Fault Refusal :=
  .next (s.smb (leBytes 2 (linear11 (s.pwr.pageFeeds.map FeedState.voltDv).sum 10)))

def execReadIin (s : State) : Host.Outcome State Fault Refusal :=
  .next (s.smb (leBytes 2 (linear11 (s.pwr.pageFeeds.map FeedState.currentDa).sum 10)))

def execReadTemperature1 (s : State) : Host.Outcome State Fault Refusal :=
  .next (s.smb (leBytes 2 (linear11 (s.pwr.maxDc.toList.foldl max 0) 10)))

def execReadPin (s : State) : Host.Outcome State Fault Refusal :=
  .next (s.smb (leBytes 2 (linear11 (if s.pwr.page = 0xFF then s.pwr.meanW else (s.pwr.pageFeeds.map FeedState.meanW).sum) 1)))

def execPmbusRevision (s : State) : Host.Outcome State Fault Refusal := .next (s.smb [0x44])

/-- "SCADRALEY". -/
def mfrIdBytes : List Byte := [0x53, 0x43, 0x41, 0x44, 0x52, 0x41, 0x4C, 0x45, 0x59]

def execMfrId (s : State) : Host.Outcome State Fault Refusal := .next (s.smb (smbBlock mfrIdBytes))

/-- "GW9648-L1". -/
def mfrModelBytes : List Byte := [0x47, 0x57, 0x39, 0x36, 0x34, 0x38, 0x2D, 0x4C, 0x31]

def execMfrModel (s : State) : Host.Outcome State Fault Refusal := .next (s.smb (smbBlock mfrModelBytes))

/-- MFR_WAKE: out of Cold, or out of TRIPPED when cool; nothing else. -/
def execMfrWake (s : State) : Host.Outcome State Fault Refusal :=
  .next (if s.pwr.current = 4 && s.pwr.powered then s.leaveCold
    else if s.pwr.tripped && s.pwr.cool && s.pwr.standby then s.leaveTrip
    else s)

/-- A refused command: not acknowledged, CML, and a record, 256 a second at most. -/
def execSmbusRefused (_code : Byte) (s : State) : Host.Outcome State Fault Refusal :=
  .next (if s.pwr.standby then
      (s.updPwr (fun p => { p with cml := true })).logLimited (15 * 2 ^ 32) 256 { source := 15, cause := 7, unit := wholeUnit }
    else s)

/-- The Alert Response Address: the module's address while it asserts SMB_ALERT_N. -/
def execAlertResponse (s : State) : Host.Outcome State Fault Refusal :=
  .next (if s.pwr.alertPin then s.smb (leBytes 1 (2 * s.pwr.smbAddr)) else s)

end Sys2Proof.Machine
end

