-- ==== Sys2Proof/Machine/Transfers.lean ====
section
/-! DEFINITION. Snapshot transfers: EXPORT, IMPORT, RESTORE, RELEASE, DISCARD (17, R349 to R354). -/

namespace Sys2Proof.Machine

def opEXPORT : Nat := 0
def opIMPORT : Nat := 1
def opRESTORE : Nat := 2
def opRELEASE : Nat := 3
def opDISCARD : Nat := 4

/-- The catalogue entry that FLS_XFER_CTRL names. -/
def Flash.xEntry (f : Flash) : Fin 16 := ⟨f.xSnap % 16, Nat.mod_lt _ (by decide)⟩

/-- An operation ended with a status. -/
def Flash.xEnd (f : Flash) (op status : Nat) : Flash := { f with xOp := op, xLast := op, xStatus := status, xBusy := false }

/-- An operation that waits for its host port (R400). -/
def Flash.xWait (f : Flash) (op : Nat) : Flash := { f with xOp := op, xLast := op, xBusy := true }

def Flash.xHost (f : Flash) : HostPort := if f.xPort then 1 else 0

/-- Address, offset and length as R351 wants them, within an image of some blocks. -/
def Flash.xRange (f : Flash) (blocks : Nat) : Bool :=
  f.xAddr.toNat % flashBlock == 0 && f.xOff.toNat % flashBlock == 0 && f.xLen.toNat % flashBlock == 0
    && f.xOff.toNat + f.xLen.toNat ≤ blocks * flashBlock

def State.xDone (s : State) (op status : Nat) : State := s.updFls (fun f => f.xEnd op status)

/-! ## EXPORT and IMPORT (R351) -/

def State.exportRange (s : State) : State :=
  let f := s.fls
  let z := f.snaps[f.xEntry]
  if z.state != .committed || !f.xRange z.blocks then s.xDone opEXPORT stMalformed
  else if !s.hif[f.xHost].up then s.updFls (fun f => f.xWait opEXPORT)
  else
    let bs := (z.image.drop f.xOff.toNat).take f.xLen.toNat
    let s := s.updFls (fun f => f.countReads (snapKeys f.xEntry (f.xOff.toNat / flashBlock) (f.xLen.toNat / flashBlock)))
    { s with hostMem := spaceWrite s.hostMem (hostKey f.xHost f.xAddr.toNat) bs }.xDone opEXPORT stDone

/-- Bits of the image blocks of a range. -/
def arrivedMask (off len : Nat) : Nat := (2 ^ (len / flashBlock) - 1) * 2 ^ (off / flashBlock)

/-- A range of an image in its catalogue entry. -/
def Snap.take (z : Snap) (off : Nat) (bs : List Byte) : Snap :=
  { z with
    image := putAt (z.image ++ zeros (off - z.image.length)) off bs
    arrived := z.arrived ||| arrivedMask off bs.length }

/-- The last byte has arrived: the image is checked and committed, or the entry emptied. -/
def State.importEnd (s : State) (i : Fin 16) (z : Snap) : State :=
  if imageHeaderOk z.image && imageChunksOk z.image then
    (s.updFls (fun f => { f with snaps := f.snaps.set i { z with
      state := .committed
      scope := imageScope z.image
      ctx := imageCtx z.image
      label := BitVec.ofNat 64 (leAt z.image 8 8)
      timeNs := leAt z.image 0x10 8
      img := imageState z.image } })).xDone opIMPORT stDone
  else (s.updFls (fun f => f.dropSnap i)).xDone opIMPORT stData

/-- A range of an import arrives. -/
def State.importTake (s : State) (i : Fin 16) (z : Snap) : State :=
  let f := s.fls
  let bs := spaceRead s.hostMem (hostKey f.xHost f.xAddr.toNat) f.xLen.toNat
  let z := z.take f.xOff.toNat bs
  let s := s.updFls (fun f =>
    { f with snaps := f.snaps.set i z }.programSnap i (f.xOff.toNat / flashBlock) (f.xLen.toNat / flashBlock))
  if z.arrived = 2 ^ z.blocks - 1 then s.importEnd i z else s.xDone opIMPORT stDone

/-- The first range: it carries the header, and BLOCKS are reserved. -/
def State.importFirst (s : State) (i : Fin 16) : State :=
  let f := s.fls
  let head := spaceRead s.hostMem (hostKey f.xHost f.xAddr.toNat) flashBlock
  let blocks := imageBlocks head
  if f.xOff ≠ 0 || f.xLen.toNat < flashBlock || !f.xRange blocks then s.xDone opIMPORT stMalformed
  else if f.snapFree < blocks then s.xDone opIMPORT stLimit
  else s.importTake i { Snap.reset with state := .writing, imported := true, blocks := blocks }

def State.importRange (s : State) : State :=
  let f := s.fls
  let i := f.xEntry
  let z := f.snaps[i]
  if !s.hif[f.xHost].up then s.updFls (fun f => f.xWait opIMPORT)
  else if z.state = .empty then s.importFirst i
  else if z.state = .writing && z.imported && f.xRange z.blocks then s.importTake i z
  else s.xDone opIMPORT stMalformed

/-! ## RESTORE (R352) -/

/-- Whether an image names something that exists already. -/
def State.restoreClash (s : State) (g : SnapImg) : Bool :=
  g.ctxs.any (fun e => hasKey s.ctxs e.1) || g.queues.any (fun e => hasKey s.queues e.1)
    || g.seqs.any (fun e => hasKey s.seqs e.1) || g.coils.any (fun e => hasKey s.coils e.1)

/-- Whether every address of an image lies in an in-service stack's pages or an in-service region's memory. -/
def State.restoreFits (s : State) (g : SnapImg) : Bool :=
  g.stacked.all (fun e => s.stackedOk e.1 && s.regionState (regionN (e.1 / stackSpan)) == .inService)
    && g.region.all (fun e => s.regionState (regionN (e.1 / regionBytes)) == .inService)

/-- A coil as a restore leaves it: in its park area. -/
def Coil.parkedAway (x : Coil) : Coil := { x with status := if x.reset then .idle else if x.status = .idle then .idle else .parked }

/-- Structures of an image back in place; dispatch of its contexts paused. -/
def State.putBack (s : State) (g : SnapImg) : State :=
  let qs := g.queues.map (fun e => (e.1, { e.2 with gen := e.2.gen + 1 }))
  let s := { s with
    stacked := s.stacked.restoreCells g.stacked
    regionMem := s.regionMem.restoreCells g.region
    queueGens := qs.foldl (fun t e => insertAt t e.1 e.2.gen) s.queueGens
    queues := qs.foldl (fun t e => insertAt t e.1 e.2) s.queues
    cmds := s.cmds ++ g.cmds
    seqs := g.seqs.foldl (fun t e => insertAt t e.1 e.2) s.seqs
    coils := g.coils.foldl (fun t e => insertAt t e.1 e.2.parkedAway) s.coils }
  g.ctxs.foldl (fun s e =>
    let d : CtxDesc := { id := e.1, excl := e.2.exclCores, home := e.2.home, ctx := { e.2 with paused := true } }
    (s.addCtx d).setOwner (s.chooseCores d.excl) (some e.1)) s

/-- A command that had dispatched and not committed: lossy, to be dispatched again; what it held is let go. -/
def State.restoreCmd (s : State) (c : Cmd) : State :=
  if c.phase = .waiting || c.phase = .ended then s
  else
    let t := s.redispatch c.q c.n
    match t.cmd? c.q c.n with
    | some x => if x.phase = .waiting then t else (t.releaseHolds c.q c.n x).updCmd c.q c.n Cmd.again
    | none => t

/-- A sample queue of a snapshot put back: its descriptor, STATE and POS; a RUNNING one goes on at POS with the history as it stands,
a live one at its ring's tail (R269; log 146). -/
def SmpQueue.resume (x y : SmpQueue) : SmpQueue :=
  { x with
    state := y.state
    error := y.error
    pos := y.pos
    desc := y.desc.map (fun d => { d with resume := true })
    start := y.pos
    hands := 0
    rowFirst := y.pos
    row := []
    work := []
    tailBase := x.tail }

/-- Sample queues of an image resume where no queue runs; a SCOPE 1 image restores roles and the slot table besides. -/
def State.restoreRest (s : State) (g : SnapImg) : State :=
  let s := (List.finRange 64).foldl (fun s i => match lookup g.samples i.val with
    | some x => if s.smp[i].state = smpRunning then s else { s with smp := s.smp.set i (s.smp[i].resume x) }
    | none => s) s
  if !g.scope then s else
  let s := (List.finRange 12).foldl (fun s r =>
    (s.updRegion r (fun x => { x with role := g.roles.getD r.val x.role, rolePending := true })).roleEffect r) s
  { s with slots := { s.slots with active := Vector.ofFn (fun i : Fin 256 => g.slots.getD i.val 0) } }

def State.restoreImg (s : State) (g : SnapImg) : State := ((g.cmds.foldl State.restoreCmd (s.putBack g))).restoreRest g

/-- The first condition that fails a RESTORE, else the restored state. -/
def State.restoreSnap (s : State) : State :=
  let z := s.fls.snaps[s.fls.xEntry]
  if z.state != .committed then s.xDone opRESTORE stMalformed
  else if z.scope && !s.ctxs.isEmpty then s.xDone opRESTORE stBusy
  else match z.img with
    | none => s.xDone opRESTORE stData
    | some g =>
      if s.restoreClash g then s.xDone opRESTORE stMalformed
      else if imageHw z.image ≠ s.svc.hwType.toNat || !s.restoreFits g then s.xDone opRESTORE stLimit
      else if z.imported && !imageChunksOk z.image then s.xDone opRESTORE stData
      else (s.restoreImg g).xDone opRESTORE stDone

/-! ## RELEASE and DISCARD (R349, R353) -/

def State.releaseAll (s : State) : State :=
  { s with ctxs := s.ctxs.map (fun (e : Nat × Ctx) => (e.1, { e.2 with paused := false })) }.xDone opRELEASE stDone

def State.discardSnap (s : State) : State :=
  let i := s.fls.xEntry
  if (s.fls.snaps[i]).state != .committed then s.xDone opDISCARD stBusy
  else (s.updFls (fun f => f.dropSnap i)).xDone opDISCARD stDone

/-! ## The rows -/

/-- An operation starts: ignored before READY and while one runs. -/
def State.xfer (s : State) (f : State → State) : State := if s.isReady && !s.fls.xBusy then f s else s

def execExportImage (s : State) : Host.Outcome State Fault Refusal := .next (s.awake.xfer State.exportRange)

def execImportImage (s : State) : Host.Outcome State Fault Refusal := .next (s.awake.xfer State.importRange)

def execRestore (s : State) : Host.Outcome State Fault Refusal := .next (s.awake.xfer State.restoreSnap)

def execRelease (s : State) : Host.Outcome State Fault Refusal := .next (s.awake.xfer State.releaseAll)

def execDiscard (s : State) : Host.Outcome State Fault Refusal := .next (s.awake.xfer State.discardSnap)

/-- OP 5 to 7. -/
def execXferInvalidOp (op : BitVec 3) (s : State) : Host.Outcome State Fault Refusal :=
  .next (s.awake.xfer (fun s => if op.toNat < 5 then s else s.xDone op.toNat stMalformed))

/-- The transfer that waits for a port, taken up again. -/
def State.xferResume (s : State) : State :=
  if !s.fls.xBusy then s
  else if s.fls.xOp = opEXPORT then s.exportRange
  else if s.fls.xOp = opIMPORT then s.importRange
  else s

end Sys2Proof.Machine
end

