-- ==== Sys2Proof/Machine/Hosts.lean ====
section
/-! DEFINITION. Host ports and device time (20, R394 to R407; 17, R342). -/

namespace Sys2Proof.Machine

/-- A record of SOURCE 12, HOST_PORT (R407). -/
def State.logPort (s : State) (cause : Nat) (h : HostPort) (ctx : Option Nat := none) : State :=
  s.logEv { source := 12, cause := cause, unit := h.val, ctx := ctx }

/-! ## BAR4 (R397, R398) -/

/-- Whether every byte of a range of stacked memory exists and its stack's region is in service. -/
def State.apertureOk (s : State) (a len : Nat) : Bool :=
  let last := a + len - 1
  s.stackedOk a && s.stackedOk last && a / stackSpan == last / stackSpan
    && s.regionState (regionN (a / stackSpan)) == .inService

/-- A read through the aperture: its bytes, or a completion without data (R393). -/
def State.bar4Read (s : State) (a len : Nat) : State :=
  let t := s.noteRead (.stacked a) len
  match s.readLoc (.stacked a) len with
  | .ok bs => { t with reply := bs }
  | .error _ => { t with reply := [] }

/-- A write through the aperture; one whose partial block reads uncorrectable is discarded and logged. -/
def State.bar4Write (s : State) (a : Nat) (bytes : List Byte) : State :=
  match s.writeLoc (.stacked a) bytes with
  | .ok t => t
  | .error _ => s.noteRead (.stacked a) bytes.length

def bar4Len : Bar4Op → Nat
  | .read n => n
  | .write d => d.length

/-- A refused access: a read completes with Unsupported Request, a write is discarded. -/
def State.bar4Refuse (s : State) (h : HostPort) (a : Nat) : State := { s.refuseBar h a with reply := [] }

def State.bar4 (s : State) (h : HostPort) (off : Nat) (op : Bar4Op) : State :=
  let x := s.hif[h]
  let a := x.aptBase * 2 ^ 30 + off
  if bar4Len op = 0 || x.bar4Gib * 2 ^ 30 < off + bar4Len op then s
  else if !s.isReady || !x.aptEn || !s.apertureOk a (bar4Len op) then s.bar4Refuse h a
  else match op with
    | .read n => s.bar4Read a n
    | .write d => s.bar4Write a d

def execBar4Access (h : HostPort) (off : Nat) (op : Bar4Op) (s : State) : Host.Outcome State Fault Refusal :=
  .next (s.awake.bar4 h off op)

/-- The sizes of BAR4 in GiB. -/
def bar4Sizes : List Nat := [1, 2, 4, 8, 16, 32, 64, 128, 256]

def execBar4Resize (h : HostPort) (gib : Nat) (s : State) : Host.Outcome State Fault Refusal :=
  .next (if bar4Sizes.contains gib then s.updHif h (fun x => { x with bar4Gib := gib }) else s)

/-- HIF_PORT_CTRL written. -/
def Hif.portCtrl (x : Hif) (v : Nat) : Hif :=
  let ok := fld v 23 16 % x.bar4Gib == 0
  { x with
    aptEn := bit v 31
    aptErr := (x.aptErr && !bit v 30) || !ok
    aptBase := if ok then fld v 23 16 else x.aptBase
    evtVec := fld v 10 0 }

def execApertureBaseWrite (h : HostPort) (v : W32) (s : State) : Host.Outcome State Fault Refusal :=
  .next (let s := s.awake; if s.diesOn then s.updHif h (fun x => x.portCtrl v.toNat) else s)

/-! ## MSI-X (R399) -/

/-- A vector unmasked: its pending message is sent once. -/
def State.unmask (s : State) (h : HostPort) (vec : Nat) : State :=
  let pend := s.hif[h].pba.contains vec
  let s := s.updHif h (fun x => { x with
    unmasked := if x.unmasked.contains vec then x.unmasked else vec :: x.unmasked
    pba := x.pba.filter (· != vec) })
  if pend then s.msix h vec else s

def execMsixUnmask (h : HostPort) (vec : Fin 2048) (s : State) : Host.Outcome State Fault Refusal :=
  .next (let s := s.awake; if s.diesOn then s.unmask h vec.val else s)

/-! ## A port goes down and comes up (R342, R400, R401) -/

def State.portDown (s : State) (h : HostPort) : State :=
  if !s.hif[h].up then s
  else ((s.updHif h (fun x => { x with up := false })).logPort 1 h).portEvent (otherPort h) 1

def execHostPortDown (h : HostPort) (s : State) : Host.Outcome State Fault Refusal := .next (s.portDown h)

/-- Held messages sent, in order. -/
def State.sendHeld (s : State) (h : HostPort) : State :=
  let ws := s.hif[h].wait
  ws.foldl (fun s w => s.msix h w.1 w.2) (s.updHif h (fun x => { x with wait := [] }))

/-- One queue's held ends, writes and records taken up again. -/
def State.resumeQueue (s : State) (q : Nat) : State :=
  let s := s.settleQueue q
  (s.retryHeld q).post q

def State.resumeQueues (s : State) : State := (s.queues.map (·.1)).foldl State.resumeQueue s

/-- The link's width and speed: what it negotiates is a free value. -/
def Hif.negotiate (x : Hif) (h ctr : Nat) : Hif :=
  { x with
    up := true
    width := 2 ^ (Config.freeNat 13 [h, ctr] % 4)
    speed := 1 + Config.freeNat 14 [h, ctr] % 6 }

def State.hostUp (s : State) (h : HostPort) : State :=
  if s.hif[h].up then s else
  let s := ((s.updHif h (fun x => x.negotiate h.val s.freshCtr)).fresh).logPort 2 h
  let s := if s.hif[h].width < 8 || s.hif[h].speed < 6 then s.logPort 7 h else s
  (s.sendHeld h).resumeQueues.xferResume

def execHostPortUp (h : HostPort) (s : State) : Host.Outcome State Fault Refusal :=
  .next (if s.diesOn then s.hostUp h else s)

/-- Contexts that the loss of a port re-homes. -/
def State.toRehome (s : State) (h : HostPort) : List Nat :=
  (s.ctxs.filter (fun e => e.2.home == h && e.2.altOk)).map (·.1)

/-- Completion interrupts that a port holds for some contexts move to the other port with them. -/
def State.moveHeld (s : State) (h : HostPort) (ids : List Nat) : State :=
  let mine (w : Nat × Option Nat) : Bool := w.2.any ids.contains
  let ws := s.hif[h].wait.filter mine
  ws.foldl (fun s w => s.msix (otherPort h) w.1 w.2) (s.updHif h (fun x => { x with wait := x.wait.filter (fun w => !mine w) }))

def State.rehome (s : State) (h : HostPort) : State :=
  let ids := s.toRehome h
  if s.hif[h].up || !s.hif[otherPort h].up || ids.isEmpty then s else
  let s : State := { s with ctxs := s.ctxs.map (fun e => if ids.contains e.1 then (e.1, { e.2 with home := otherPort h }) else e) }
  let s := ids.foldl (fun s i => s.logPort 4 (otherPort h) (some i)) s
  let s := s.moveHeld h ids
  s.portEvent (otherPort h) 2

def execRehomeTimeout (h : HostPort) (s : State) : Host.Outcome State Fault Refusal := .next (s.rehome h)

/-! ## Host port reset (R403) -/

/-- The port's own registers at their reset values; messages that its contexts owe stay held. -/
def Hif.restart (x : Hif) : Hif := { Hif.reset with sent := x.sent, wait := x.wait }

/-- The reference is looked at when PERST# is deasserted and at a hot reset: a change to the fallback is logged (R452). -/
def State.portRef (s : State) (h : HostPort) : State :=
  let isLocal := !s.tim.refPresent[h]
  let was := s.tim.refLocal[h]
  let s := s.updTim (fun t => { t with refLocal := t.refLocal.set h isLocal })
  if isLocal && !was then s.logModule 1 h.val else s

/-- What wakes the package or resumes it from TRIPPED. -/
def isWake (why : PortResetCause) : Bool := why == .hotReset || why == .perst

def State.portResets (s : State) (h : HostPort) (why : PortResetCause) : State :=
  let s := if why = .flr then s.logPort 3 h else s
  let s := (s.portDown h).updHif h Hif.restart
  let s := if isWake why then s.portRef h else s
  ((s.resetPart (.host h)).quenchBroken.returnPart (.host h)).quenchMended

def State.hostReset (s : State) (h : HostPort) (why : PortResetCause) : State :=
  let t := s.portResets h why
  if isWake why && s.pwr.current = 4 && s.pwr.powered then t.leaveCold
  else if isWake why && s.pwr.tripped && s.pwr.cool then t.leaveTrip
  else t

def execHostPortReset (h : HostPort) (why : PortResetCause) (s : State) : Host.Outcome State Fault Refusal :=
  .next (s.hostReset h why)

/-! ## A read of host memory that fails (R304, R394, R407) -/

/-- The reader's end: a dispatched command fails, the queue engine's read is to be retried, a mailbox operation ends. -/
def State.failRead (s : State) (h : HostPort) (st : Nat) (who : HostReader) : State :=
  match who with
  | .command q n => if s.cmds.any (fun c => c.q == q && c.n == n && c.phase == .dispatched && !c.held) then s.failCmd q n st else s
  | .fetch q => match lookup s.queues q with
    | some qu => if s.mayFetch qu then s.fetchFail q qu qu.nextVA else s
    | none => s
  | .mailbox => if s.mbox[h].busy && !s.mbox[h].behind then (s.mailEnd h st 0).nextMail h else s

def execHostReadCompletionTimeout (h : HostPort) (rd : FailedRead) (s : State) : Host.Outcome State Fault Refusal :=
  .next (match hostReadStatus rd.outcome with
    | some st => (s.noteHostRead h rd.outcome).failRead h st rd.who
    | none => s)

/-! ## Device time (R404, R405) -/

/-- An offset met: a positive one above 1 ms steps the time, any other is slewed away. -/
def State.steer (s : State) (off : Int) : State :=
  let s := s.updTim (fun t => { t with offset := off, slewNs := if 1000000 < off then 0 else off, state := .locked })
  if 1000000 < off then { s with timeNs := s.timeNs + off.toNat } else s

def execPtmExchange (h : HostPort) (rootNs : W64) (s : State) : Host.Outcome State Fault Refusal :=
  .next (if s.tim.active = 1 + h.val && s.hif[h].up then s.steer ((rootNs.toNat : Int) - s.timeNs) else s)

/-- Armed seconds in nanoseconds. -/
def TimeBase.armedNs (t : TimeBase) : Nat := (t.setLo.toNat + t.setHi.toNat * 2 ^ 32) * 1000000000

/-- An edge: armed seconds are loaded, else the source's offset is met; without 10 MHz the base is in HOLDOVER. -/
def State.pps (s : State) (measured : Int) : State :=
  let s := s.updTim (fun t => { t with ppsOk := true })
  let t := s.tim
  if t.armed then
    (s.steer ((t.armedNs : Int) - s.timeNs)).updTim (fun x => { x with armed := false, state := if t.active = 3 && t.tenOk then .locked else t.state })
  else if t.active = 3 then (if t.tenOk then s.steer measured else s.updTim TimeBase.noPps)
  else s

def execPpsEdge (measuredNs : Int) (s : State) : Host.Outcome State Fault Refusal := .next (s.pps measuredNs)

/-- A PTM port's link lost: with AUTO the other port's PTM takes over, if that port is up. -/
def State.losePtm (s : State) (h : HostPort) : State :=
  if s.tim.active ≠ 1 + h.val then s
  else if s.tim.auto && s.hif[otherPort h].up then s.updTim (fun t => { t with active := 1 + (otherPort h).val })
  else s.updTim (fun t => { t with state := .holdover })

def execTimeReferenceLoss (r : TimeRef) (s : State) : Host.Outcome State Fault Refusal :=
  .next (match r with
    | .ptm h => s.losePtm h
    | .pps => s.losePps
    | .tenMHz => s.loseTen)

/-- TIM_CTRL written; another source is followed from its first measurement on. -/
def TimeBase.ctrl (t : TimeBase) (v : Nat) : TimeBase :=
  let ms := fld v 25 16
  let src := fld v 2 0
  let t := { t with ptmMs := if 1 ≤ ms && ms ≤ 1000 then ms else t.ptmMs, auto := bit v 3 }
  if 3 < src || (src = t.source && src = t.active) then t
  else { t with source := src, active := src, state := if src = 0 || t.state = .free then .free else .holdover }

def execTimeSourceWrite (v : W32) (s : State) : Host.Outcome State Fault Refusal :=
  .next (let s := s.awake; if s.diesOn then s.updTim (fun t => t.ctrl v.toNat) else s)

def execTimeSetArm (v : W32) (s : State) : Host.Outcome State Fault Refusal :=
  .next (let s := s.awake; if s.diesOn then s.updTim (fun t => { t with setHi := v, armed := true }) else s)

end Sys2Proof.Machine
end

