-- ==== Sys2Proof/Machine/Scrub.lean ====
section
/-! DEFINITION. Scrub and the care of flash (18, R362, R363; 15, R290, R291). -/

namespace Sys2Proof.Machine

/-- Scrub runs in Blaze and Glow (R411). -/
def State.scrubs (s : State) : Bool := s.pwr.current < 2

/-! ## Mending -/

/-- A block that reads corrected, written back with fresh check bits. -/
def Ram.mend (m : Ram) (b : Nat) : Ram :=
  match m.check b with
  | .corrected d _ => m.putBlock b (leBytes 32 d.toNat)
  | _ => m

/-- A scrubber's look at one block: corrected ones counted and mended, uncorrectable ones counted and logged. -/
def State.scrubBlock (s : State) (l : Loc) (b : Nat) : State :=
  match s.ramOf l with
  | none => s
  | some (m, _) => match m.check b with
    | .corrected d i => (s.noteBlock (l.at (32 * b)) (.corrected d i)).putRam l (m.mend b)
    | .error => s.noteBlock (l.at (32 * b)) .error
    | _ => s

/-- A range scrubbed. -/
def State.scrubRange (s : State) (l : Loc) (addr len : Nat) : State :=
  match s.ramOf l with
  | some (m, _) => (m.badIn addr len).foldl (fun s b => s.scrubBlock l b) s
  | none => s

/-! ## SRAM (R362) -/

/-- Bytes a scrubber takes in one time slot. -/
def scrubBytes : Nat := 2048

/-- A core's scrubber: core store first, then accumulator memory. -/
def State.scrubCore (s : State) (pos : Nat) (c : CoreId) : State :=
  let a := scrubBytes * pos % (coreStoreBytes + accBytes)
  if !s.coreUp c then s
  else if a < coreStoreBytes then s.scrubRange (.core 0) (c.val * coreStoreBytes + a) scrubBytes
  else s.scrubRange (.acc 0) (c.val * accBytes + (a - coreStoreBytes)) scrubBytes

/-- The scrubbers of a region and of its cores; positions repeat after 81,920 time slots. -/
def State.scrubRegion (s : State) (g : RegionId) : State :=
  if s.regionState g != .inService then s else
  let pos := s.regions[g].sramPos
  let s := s.scrubRange (.region 0) (g.val * regionBytes + scrubBytes * pos % regionBytes) scrubBytes
  ((coresOf g).foldl (fun s c => s.scrubCore pos c) s).updRegion g (fun r => { r with sramPos := (r.sramPos + 1) % 81920 })

def execSramScrubSlot (s : State) : Host.Outcome State Fault Refusal :=
  .next (if s.scrubs then (List.finRange 12).foldl State.scrubRegion s else s)

/-! ## Stacks (R363) -/

/-- Blocks of a stack. -/
def stackBlocks (r : Region) : Nat := r.pages2M * (pageBytes / 32)

/-- The pass moved on by one block. -/
def Region.scrubNext (r : Region) : Region :=
  if r.scrubPos + 1 < stackBlocks r then { r with scrubPos := r.scrubPos + 1 }
  else { r with scrubPos := 0, scrubPasses := satAdd 16 r.scrubPasses 1 }

/-- One scrub read: a corrected block is to be written back in the next scrub slot. -/
def State.scrubRead (s : State) (g : RegionId) : State :=
  let b := g.val * (stackSpan / 32) + s.regions[g].scrubPos
  let s := match s.stackedCheck b with
    | .corrected d i => (s.noteBlock (.stacked (32 * b)) (.corrected d i)).updRegion g (fun r => { r with writeback := some b })
    | .error => s.noteBlock (.stacked (32 * b)) .error
    | _ => s
  s.updRegion g Region.scrubNext

def execStackScrubRead (g : RegionId) (s : State) : Host.Outcome State Fault Refusal :=
  .next (if s.scrubs && s.regionState g == .inService && s.regions[g].writeback.isNone then s.scrubRead g else s)

/-- The write-back; a block that was written meanwhile has no bad bits left, and is not written back. -/
def execScrubWriteback (g : RegionId) (s : State) : Host.Outcome State Fault Refusal :=
  .next (match s.regions[g].writeback with
    | some b =>
      if s.scrubs && s.regionState g == .inService then
        (s.mendStacked b).updRegion g (fun r => { r with writeback := none })
      else s
    | none => s)

/-! ## Flash (R290, R291) -/

/-- Reads of an erase block since its last erase. -/
def Flash.readsOf (f : Flash) (block : Nat) : Nat := (lookup f.reads block).getD 0

/-- An erase block that has been read READ_LIMIT_K × 1,000 times: its valid data moved to a fresh one. -/
def execFlashReadDisturb (block : Nat) (s : State) : Host.Outcome State Fault Refusal :=
  .next (if s.fls.readLimitK * 1000 ≤ s.fls.readsOf block then
      s.updFls (fun f =>
        let f := f.moveBlock block
        { f with reads := eraseAt f.reads block, reloc := f.reloc + 1 })
    else s)

/-- The least-worn erase block that holds data. -/
def Flash.leastWorn (f : Flash) : Option (Nat × Nat) :=
  (f.cycles.filter (fun e => f.mapped.any (fun m => m.2 == e.1))).foldl (fun (a : Option (Nat × Nat)) e => match a with
    | none => some e
    | some x => if e.2 < x.2 then some e else a) none

/-- With more than 150 cycles between the most worn block and the least-worn one that holds data, that one's data moves (R290; log 147). -/
def execFlashWearLevel (s : State) : Host.Outcome State Fault Refusal :=
  .next (match s.fls.leastWorn with
    | some (b, c) =>
      if s.fls.cycles.any (fun e => c + 150 < e.2) then
        s.updFls (fun f =>
          let f := f.moveBlock b
          { f with wear := f.wear + 1 })
      else s
    | none => s)

/-- The spare blocks have run out: READ_ONLY from now on. -/
def execFlashSparesExhausted (s : State) : Host.Outcome State Fault Refusal :=
  .next (s.updFls (fun f => { f with noSpares := true, state := if f.state = .ready then .readOnly else f.state }))

end Sys2Proof.Machine
end

