-- ==== Sys2Proof/Machine/Reads.lean ====
section
/-! DEFINITION. What BAR0 reads: every register and its fields (20, R396, R459, R460; the register tables of 01 to 23). -/

namespace Sys2Proof.Machine

/-! ## 64-bit values (R126, R460) -/

/-- The counter of a list of 8-byte places. -/
def nth64 (l : List Nat) (off : Nat) : Option Nat := if off % 8 = 0 then l[off / 8]? else none

def hifWide (s : State) (h : HostPort) (off : Nat) : Option Nat :=
  if off < 0x1100 then none
  else nth64 [(s.hif[h].cntBar4Refused).toNat, (s.hif[h].cntCplTimeout).toNat] (off - 0x1100)

def Power.wides (p : Power) : List Nat :=
  [p.energyUj / 1000, p.unattr.toNat] ++ p.droop.toList.map BitVec.toNat ++ [p.hintMiss.toNat, p.cappedUs.toNat]

def queWide (s : State) (o : Nat) : Option Nat :=
  match o with
  | 0x10 => some s.tblQueue
  | 0x18 => some s.tblSeq
  | 0x20 => some s.tblCoil
  | 0x28 => some s.tblPark
  | 0x40 => some s.cntDbIgnored.toNat
  | 0x48 => some s.cntFetchFail.toNat
  | 0x101C => some (s.mbox[0].result).toNat
  | 0x111C => some (s.mbox[1].result).toNat
  | _ => none

/-- A context's four counters (R321). -/
def acctWide (s : State) (o : Nat) : Option Nat :=
  let c := o / 0x20
  let at_ (t : List (Nat × W64)) : Nat := ((lookup t c).getD 0).toNat
  if c < 4096 then nth64 [at_ s.acctWait, at_ s.acctPreempt, at_ s.acctKernels, at_ s.acctEnergy] (o % 0x20) else none

def schWide (s : State) (o : Nat) : Option Nat :=
  if o = 0xE110 then some s.slots.frames.toNat
  else if 0x10000 ≤ o && o < 0x30000 then acctWide s (o - 0x10000)
  else none

/-- SMP_Q_POS: index, then epoch from bit 40 on. -/
def SmpQueue.posWord (x : SmpQueue) : Nat :=
  match x.desc with
  | some d => x.pos % d.samples % 2 ^ 40 + x.pos / d.samples % 2 ^ 20 * 2 ^ 40
  | none => 0

def smpWide (s : State) (o : Nat) : Option Nat :=
  if h : o / 0x100 < 64 then
    let x := s.smp[o / 0x100]
    let r := o % 0x100
    if r = 0x10 then some x.posWord
    else if 0x20 ≤ r then nth64 (x.fails.toList.map BitVec.toNat ++ [x.out.toNat, x.drop.toNat, x.sat.toNat]) (r - 0x20)
    else none
  else none

def flsWide (s : State) (o : Nat) : Option Nat :=
  let f := s.fls
  if 0x100 ≤ o && o < 0x200 then nth64 [f.hostWr.toNat, f.mediaWr.toNat, f.reloc.toNat, f.wear.toNat] (o - 0x100)
  else if h : 0x200 ≤ o ∧ o < 0x400 then
    let z := f.snaps[(o - 0x200) / 0x20]'(by omega)
    if o % 0x20 < 8 then none else nth64 [z.label.toNat, z.blocks, z.timeNs] (o % 0x20 - 8)
  else none

def DPort.wides (x : DPort) : List Nat :=
  [x.txFlits.toNat, x.rxFlits.toNat, x.replay.toNat, x.fecCorr.toNat, x.fwd.toNat]

def drtWide (s : State) (o : Nat) : Option Nat :=
  if h : o / 0x20000 < 8 then
    let r := o % 0x20000
    if o = 0x10100 then some s.darit.aged.toNat
    else if 0x100 ≤ r && r < 0x10000 then nth64 (s.darit.ports[o / 0x20000]).wides (r - 0x100) else none
  else none

def RegionCnt.mems (c : RegionCnt) : List Nat := [c.memRd.toNat, c.memWr.toNat, c.memTurn.toNat, c.memAged.toNat]
def RegionCnt.ints (c : RegionCnt) : List Nat := [c.ceSram.toNat, c.ceHbm.toNat, c.ueSram.toNat, c.ueHbm.toNat]

/-- The region controller's counters, by offset from +0x2_0100. -/
def RegionCnt.ctls (c : RegionCnt) (o : Nat) : Option Nat :=
  match o with
  | 0x00 => some c.applied.toNat
  | 0x08 => some c.dup.toNat
  | 0x10 => some c.retry.toNat
  | 0x20 => some c.tileDup.toNat
  | 0x28 => some c.tileClaim.toNat
  | 0x40 => some c.pageCopy.toNat
  | 0x48 => some c.blockCopy.toNat
  | 0x50 => some c.kvServed.toNat
  | 0x60 => some c.coilRound.toNat
  | 0x68 => some c.coilUnpark.toNat
  | 0x70 => some c.coilEvict.toNat
  | 0x78 => some c.coilSkip.toNat
  | _ => none

def coreWide (co : Core) (o : Nat) : Option Nat :=
  if o = 0x40 then some co.cntActive.toNat else if o = 0x48 then some (co.cntMac / 1024 % 2 ^ 64) else none

/-- The core whose COR block a window offset lies in, and the offset within it. -/
def corAt (g : RegionId) (o : Nat) : CoreId × Nat := (coreN (8 * g.val + (o - 0x80000) / 0x10000), o % 0x10000)

def regionWide (s : State) (g : RegionId) (o : Nat) : Option Nat :=
  let c := s.regions[g].cnt
  if 0x100 ≤ o && o < 0x200 then nth64 c.mems (o - 0x100)
  else if 0x10100 ≤ o && o < 0x10200 then nth64 c.ints (o - 0x10100)
  else if 0x20100 ≤ o && o < 0x20200 then c.ctls (o - 0x20100)
  else if 0x80000 ≤ o then coreWide s.cores[(corAt g o).1] (corAt g o).2
  else none

/-- The blocks that answer only from READY on (R403). -/
def lateBlock (off : Nat) : Bool := (0x100000 ≤ off && off < 0x600000) || (0x1000000 ≤ off && off < 0x1C00000)

/-- The region whose window an offset lies in. -/
def windowOf (off : Nat) : RegionId := regionN ((off - 0x1000000) / 0x100000)

/-- The 64-bit value whose LO register lies at an offset. -/
def State.wide (s : State) (h : HostPort) (off : Nat) : Option Nat :=
  if lateBlock off && !s.isReady then none
  else if off < 0x10000 then hifWide s h off
  else if off = 0x10000 then some s.timeNs
  else if 0x20100 ≤ off && off < 0x30000 then nth64 s.pwr.wides (off - 0x20100)
  else if off = 0x70000 then some s.svc.serial.toNat
  else if 0x78000 ≤ off && off < 0x78800 then nth64 ((List.range 256).map (fun i => (s.svc.fuses.getD i 0).toNat)) (off - 0x78000)
  else if off = 0x80808 then some s.log.suppressed.toNat
  else if 0x100000 ≤ off && off < 0x200000 then queWide s (off - 0x100000)
  else if 0x200000 ≤ off && off < 0x300000 then schWide s (off - 0x200000)
  else if 0x300000 ≤ off && off < 0x400000 then smpWide s (off - 0x300000)
  else if 0x400000 ≤ off && off < 0x500000 then flsWide s (off - 0x400000)
  else if 0x500000 ≤ off && off < 0x600000 then drtWide s (off - 0x500000)
  else if 0x1000000 ≤ off && off < 0x1C00000 then regionWide s (windowOf off) (off % 0x100000)
  else none

/-! ## 32-bit registers -/

/-- Fields placed at their low bits. -/
def word (fs : List (Nat × Nat)) : Nat := (fs.map (fun e => e.1 * 2 ^ e.2)).sum

/-- Bits of a set of numbers, 32 from a first. -/
def bitsFrom (l : List Nat) (lo : Nat) : Nat := ((List.range 32).map (fun i => bitN (l.contains (lo + i)) * 2 ^ i)).sum

def Hif.ctrlWord (x : Hif) : Nat := word [(bitN x.aptEn, 31), (bitN x.aptErr, 30), (x.aptBase, 16), (x.evtVec, 0)]

/-- A word of the MSI-X table: address, data, and the vector's mask (R399). -/
def Hif.msixWord (x : Hif) (o : Nat) : Nat :=
  if o % 16 = 12 then bitN (!x.unmasked.contains (o / 16)) else ((lookup x.msixWords (o / 4)).getD 0).toNat

def hifRead (s : State) (h : HostPort) (off : Nat) : Nat :=
  let x := s.hif[h]
  match off with
  | 0x0000 => 0x96480101
  | 0x0010 => s.svc.failoverMs
  | 0x1000 => word [(bitN s.isReady, 31), (h.val, 30), (bitN s.hif[otherPort h].up, 29), (x.width, 8), (x.speed, 0)]
  | 0x1004 => x.ctrlWord
  | 0x1008 => x.evt.toNat
  | 0x100C => x.evtEn.toNat
  | _ => if 0x7000 ≤ off && off < 0x7100 then bitsFrom x.pba (8 * (off - 0x7000))
    else if 0x8000 ≤ off && off < 0x10000 then x.msixWord (off - 0x8000)
    else 0

/-- A signed 16-bit field, saturating at ±32,767. -/
def sat16 (x : Int) : Nat := ((max (-32767) (min 32767 x)) % 65536).toNat

def timeStateCode : TimeState → Nat
  | .free => 0
  | .locked => 1
  | .holdover => 2

def timRead (t : TimeBase) (o : Nat) : Nat :=
  match o with
  | 0x08 => word [(t.ptmMs, 16), (bitN t.auto, 3), (t.source, 0)]
  | 0x0C => word [(sat16 t.offset, 16), (t.active, 4), (timeStateCode t.state, 0)]
  | 0x18 => word [(bitN t.refLocal[1], 5), (bitN t.refLocal[0], 4), (bitN t.drefLocal, 3), (bitN t.tenOk, 1), (bitN t.ppsOk, 0)]
  | _ => 0

/-- Frequency of an island's point: a core's is 350 + 70 × n MHz; the others' are fused, free values (R413). -/
def temperMhz (island point : Nat) : Nat := if island < 96 then 350 + 70 * point else Config.freeNat 16 [island, point] % 65536

/-- Voltage of an island's point in mV, 600 to 900: fused, a free value (R413). -/
def temperMv (island point : Nat) : Nat := 600 + Config.freeNat 15 [island, point] % 301

def FeedState.word (f : FeedState) : Nat := Machine.word [(f.currentDa % 65536, 16), (bitN f.present, 15), (f.voltDv % 1024, 0)]

/-- The island of the smallest slack, and that slack. -/
def Power.minSlack (p : Power) : Nat × Nat :=
  match p.slacks with
  | [] => (0, 0)
  | x :: r => ((List.range r.length).zip r).foldl (fun m e => if e.2 < m.2 then (e.1 + 1, e.2) else m) (0, x)

def Power.read (p : Power) (o : Nat) : Nat :=
  let temp (d : Fin 5) : Nat := word [(if h : d.val < 4 then p.dieCeil[d.val] else 15, 16), (p.maxDc[d] % 65536, 0)]
  match o with
  | 0x00 => word [(bitN p.pendingReq.isSome, 31), (p.reqStatus, 16), (p.current, 8), (p.autoDeepest, 4), (p.request, 0)]
  | 0x04 => word [(p.emberUs, 16), (p.glowUs, 0)]
  | 0x08 => word [(p.effectiveW, 16), (p.capW, 0)]
  | 0x0C => word [(p.peakW % 65536, 16), (p.meanW % 65536, 0)]
  | 0x10 => (p.feeds[0]).word
  | 0x14 => (p.feeds[1]).word
  | 0x18 => word [(bitN p.limiter, 7), (bitN p.hintLow, 6), (bitN p.coolantWarn, 5), (bitN p.capped, 4), (p.ceil, 0)]
  | 0x20 => word [(p.immTarget, 1), (bitN p.immMode, 0)]
  | 0x24 => word [(p.minSlack.2 % 256, 24), (p.trims.toList.foldl max 0, 16), (p.minSlack.1, 0)]
  | 0x40 => temp 0
  | 0x44 => temp 1
  | 0x48 => temp 2
  | 0x4C => temp 3
  | 0x50 => temp 4
  | 0x54 => p.tripWord
  | 0x58 => word [(bitN p.coolantWarn, 31), (p.inletDc % 2048, 16), (p.flowCl % 65536, 0)]
  | 0x60 => word [(p.selPoint, 8), (p.selIsland, 0)]
  | 0x64 => word [(temperMhz p.selIsland p.selPoint, 16), (temperMv p.selIsland p.selPoint, 0)]
  | 0x70 => word [(p.slotId, 8), (p.smbAddr, 0)]
  | _ => 0

/-- A word of the record in a slot of the log (R367, R368). -/
def ErrLog.word (l : ErrLog) (o : Nat) : Nat :=
  match l.recs.find? (fun r => r.number % 8192 == o / 32) with
  | some r => leAt r.bytes (o % 32) 4
  | none => 0

def secRead (v : Service) (o : Nat) : Nat :=
  match o with
  | 0x08 => v.hwType.toNat
  | 0x0C => word [(v.svn[1], 8), (v.svn[0], 0)]
  | 0x10 => v.revoked.toNat
  | 0x200 => word [(bitN v.opLock, 31), (v.opValid.toNat, 0)]
  | _ => if 0x100 ≤ o && o < 0x200 && o % 0x40 < 0x30 then
      (v.opkey.toList.getD (12 * ((o - 0x100) / 0x40) + o % 0x40 / 4) 0).toNat
    else 0

def svcRead (s : State) (o : Nat) : Nat :=
  let v := s.svc
  match o with
  | 0x00 => s.svcStateWord
  | 0x200 => word [(bitN v.tForce, 16), (v.tTarget, 8), (v.tKind, 0)]
  | 0x204 => v.tTimeout
  | 0x208 => word [(bitN v.tBusy, 31), (bitN v.tPass, 16), (v.tStatus, 8), (v.tLast, 0)]
  | 0x800 => s.log.head.toNat
  | _ => if 0x20 ≤ o && o < 0x40 then ((v.fw[kindIx (o / 0x10 - 1)]).words).getD (o % 0x10 / 4) 0
    else if 0x100 ≤ o && o < 0x134 then s.runWordOf ((o - 0x100) / 4)
    else 0

def mailRead (m : Mailbox) (o : Nat) : Nat :=
  match o with
  | 0x00 => m.addr.toNat % 2 ^ 32
  | 0x04 => m.addr.toNat / 2 ^ 32
  | 0x08 => m.arg0.toNat
  | 0x0C => m.arg1.toNat % 2 ^ 32
  | 0x10 => m.arg1.toNat / 2 ^ 32
  | 0x18 => word [(bitN m.busy, 31), (m.status, 8), (m.lastOp, 0)]
  | _ => 0

def queRead (s : State) (o : Nat) : Nat :=
  if o = 0x00 then 0x01001000
  else if o = 0x04 then 0x20100000
  else if 0x1000 ≤ o && o < 0x1100 then mailRead s.mbox[0] (o - 0x1000)
  else if 0x1100 ≤ o && o < 0x1200 then mailRead s.mbox[1] (o - 0x1100)
  else 0

def partCode : PartState → Nat
  | .inService => 0
  | .resetting => 1
  | .fenced => 2

/-- Eight entries of a slot table from n on. -/
def slotWord (t : Vector (BitVec 4) 256) (n : Nat) : Nat :=
  word ((List.range 8).map (fun i => ((t.toList.getD (8 * n + i) 0).toNat, 4 * i)))

def Region.roleWord (r : Region) : Nat := word [(bitN r.rolePending, 8), (r.roleNow, 4), (r.role, 0)]

/-- EXCL and OWNER of a core. -/
def Core.ownerWord (co : Core) : Nat :=
  match co.owner with
  | some c => word [(1, 12), (c, 0)]
  | none => 0

def schRead (s : State) (o : Nat) : Nat :=
  if 0xB000 ≤ o && o < 0xB1E8 then
    let e := s.epochs.toList.getD ((o - 0xB000) / 4) { state := .inService, epoch := 0, lastNs := none, owed := 0, returning := false }
    word [(partCode e.state, 16), (e.epoch.toNat, 0)]
  else if o = 0xC000 then word [(s.ageMs, 16), (s.preemptWait, 0)]
  else if 0xD000 ≤ o && o < 0xD180 then (s.cores[coreN ((o - 0xD000) / 4)]).ownerWord
  else if 0xE000 ≤ o && o < 0xE080 then slotWord s.slots.shadow ((o - 0xE000) / 4)
  else if 0xE080 ≤ o && o < 0xE100 then slotWord s.slots.active ((o - 0xE080) / 4)
  else if o = 0xE104 then
    word [(s.slots.commits.toNat, 16), (bitN s.slots.strobeLost, 9), (bitN s.slots.copied.isSome, 8), (s.slots.err, 0)]
  else if o = 0xE108 then 0x04040100
  else if 0xF000 ≤ o && o < 0xF030 then (s.regions[regionN ((o - 0xF000) / 4)]).roleWord
  else 0

def smpRead (s : State) (o : Nat) : Nat :=
  if o = 0x4000 then 0x2840
  else if h : o / 0x100 < 64 then
    let x := s.smp[o / 0x100]
    match o % 0x100 with
    | 0x00 => x.descAddr % 2 ^ 32
    | 0x04 => x.descAddr / 2 ^ 32
    | 0x0C => word [(x.error, 8), (x.state, 0)]
    | 0x18 => x.tail.toNat
    | _ => 0
  else 0

def flashCode : FlashState → Nat
  | .ready => 0
  | .starting => 1
  | .readOnly => 2
  | .failed => 3

def snapCode : SnapState → Nat
  | .empty => 0
  | .writing => 1
  | .committed => 2

def Snap.info (z : Snap) : Nat := word [(snapCode z.state, 30), (bitN z.scope, 29), (bitN z.imported, 28), (z.ctx, 0)]

def flsRead (f : Flash) (o : Nat) : Nat :=
  match o with
  | 0x00 => word [(f.userGb, 16), (0x10, 0)]
  | 0x04 => word [(bitN f.partErr, 31), (f.snap8, 0)]
  | 0x08 => word [(f.lifeUsed, 24), (flashCode f.state, 0)]
  | 0x0C => f.readLimitK
  | 0x400 => f.xAddr.toNat % 2 ^ 32
  | 0x404 => f.xAddr.toNat / 2 ^ 32
  | 0x408 => f.xOff.toNat % 2 ^ 32
  | 0x40C => f.xOff.toNat / 2 ^ 32
  | 0x410 => f.xLen.toNat
  | 0x414 => word [(bitN f.xPort, 8), (f.xSnap, 4), (f.xOp, 0)]
  | 0x418 => word [(bitN f.xBusy, 31), (f.xStatus, 8), (f.xLast, 0)]
  | _ => if h : 0x200 ≤ o ∧ o < 0x400 then (if o % 0x20 = 0 then (f.snaps[(o - 0x200) / 0x20]'(by omega)).info else 0) else 0

def linkCode : LinkState → Nat
  | .disabled => 0
  | .detect => 1
  | .training => 2
  | .up => 3
  | .held => 4
  | .down => 5

def cableCode : Cable → Nat
  | .ok => 0
  | .none => 1
  | .txTx => 2

def DPort.read (x : DPort) (o : Nat) : Nat :=
  match o with
  | 0x00 => word [(bitN x.enable, 3), (x.dim, 1), (bitN x.dir, 0)]
  | 0x04 => word [(x.cause, 24), (x.width, 16), (cableCode x.cable, 14), (bitN x.spareUsed, 13), (linkCode x.st, 0)]
  | 0x08 => x.laneFail.toNat
  | 0x0C => x.laneInv.toNat
  | 0x10 => word [(bitN x.peerValid, 31), (x.peerPort, 24), (x.peerNode, 0)]
  | _ => if 0x20 ≤ o && o < 0x64 then x.map.getD ((o - 0x20) / 4) 0 else 0

/-- DRT_RRESULT. -/
def Darit.rresult (d : Darit) : Nat :=
  match d.route d.rquery with
  | none => 2 ^ 31
  | some r => word [(bitN r.detour, 30), (r.hops, 12), ((r.first.getD (0, false)).1, 1), (bitN (r.first.getD (0, false)).2, 0)]

def Darit.read (d : Darit) (o : Nat) : Nat :=
  match o with
  | 0x00 => word [(d.sizeZ, 16), (d.sizeY, 8), (d.sizeX, 0)]
  | 0x04 => word [(d.nodeId, 20), (d.z, 16), (d.y, 8), (d.x, 0)]
  | 0x08 => word [(bitN d.cfgErr, 31), (d.incarnation.toNat, 0)]
  | 0x0C => d.rquery
  | 0x10 => d.rresult
  | _ => 0

def drtRead (d : Darit) (o : Nat) : Nat :=
  if 0x10000 ≤ o && o < 0x20000 then d.read (o - 0x10000)
  else if h : o / 0x20000 < 8 then (d.ports[o / 0x20000]).read (o % 0x20000) else 0

def stackCode : StackState → Nat
  | .inService => 0
  | .training => 1
  | .failed => 2
  | .outOfService => 3

def kstateCode : KState → Nat
  | .free => 0
  | .loading => 1
  | .running => 2
  | .stopping => 3
  | .trapped => 4

def KSlot.word (sl : KSlot) : Nat := Machine.word [(sl.ctx, 20), (sl.csUnits, 12), (sl.accUnits, 8), (kstateCode sl.state, 0)]

def Flags.cvt (f : Flags) : Nat :=
  word [(min f.satCount 65535, 16), (bitN f.nanInt, 4), (bitN f.nanBlock, 3), (bitN f.ovfInf, 2), (bitN f.ovfNan, 1), (bitN f.sat, 0)]

def vecCode : VecState → Nat
  | .inService => 0
  | .underTest => 1
  | .fenced => 2

def corRead (co : Core) (o : Nat) : Nat :=
  let sl : KSlot := co.slots[ksN (o / 4)]
  if o = 0 then word [(4, 24), (4, 20), (co.accUnits, 16), (0x80, 8), (bitN co.fenced, 7)]
  else if 0x10 ≤ o && o < 0x20 then sl.word
  else if 0x20 ≤ o && o < 0x30 then sl.flags.cvt
  else if o = 0x30 then word [(co.vecChanges, 16), (vecCode co.vec, 0)]
  else if 0x60 ≤ o && o < 0x70 then word [(min sl.spills 65535, 16), (bitN sl.flags.intOvf, 1), (bitN sl.flags.accInf, 0)]
  else if 0x70 ≤ o && o < 0x80 then min sl.flags.emptyRows (2 ^ 32 - 1)
  else if 0x80 ≤ o && o < 0x90 then min sl.flags.poisonedRows (2 ^ 32 - 1)
  else if o = 0x90 then word [(co.coilRows, 10), (co.coilUnits.toNat, 0)]
  else 0

/-- A stack pass in percent. -/
def Region.progress (r : Region) : Nat := 100 * r.scrubPos / max (stackBlocks r) 1

def Region.read (r : Region) (o : Nat) : Nat :=
  match o with
  | 0x00000 => word [(0x10, 16), (r.pages2M, 0)]
  | 0x00004 => word [(r.spareLanes, 24), (r.stackLanes, 16), (bitN r.hot, 8), (stackCode r.stack, 0)]
  | 0x00008 => r.bulkAge
  | 0x0000C => word [(r.softUsed, 24), (r.hardUsed, 16), (r.hardFree, 0)]
  | 0x10000 => r.scrubPeriod
  | 0x10004 => word [(r.scrubPasses, 16), (r.progress, 0)]
  | 0x10008 => word [(r.fieldApplied % 256, 8), (r.banksOut.length % 256, 0)]
  | 0x20040 => word [(r.wdtExpiries, 16), (bitN r.wdtWriteErr, 12), (r.wdtPeriod, 0)]
  | _ => 0

def windowRead (s : State) (g : RegionId) (o : Nat) : Nat :=
  if 0x80000 ≤ o then corRead s.cores[(corAt g o).1] (corAt g o).2 else s.regions[g].read o

/-- A register that is no LO or HI of a 64-bit value. -/
def State.narrow (s : State) (h : HostPort) (off : Nat) : Nat :=
  if lateBlock off && !s.isReady then 0
  else if off < 0x10000 then hifRead s h off
  else if off < 0x20000 then timRead s.tim (off - 0x10000)
  else if off < 0x30000 then s.pwr.read (off - 0x20000)
  else if off < 0x70000 then s.log.word (off - 0x30000)
  else if off < 0x80000 then secRead s.svc (off - 0x70000)
  else if off < 0x90000 then svcRead s (off - 0x80000)
  else if 0x100000 ≤ off && off < 0x200000 then queRead s (off - 0x100000)
  else if 0x200000 ≤ off && off < 0x300000 then schRead s (off - 0x200000)
  else if 0x300000 ≤ off && off < 0x400000 then smpRead s (off - 0x300000)
  else if 0x400000 ≤ off && off < 0x500000 then flsRead s.fls (off - 0x400000)
  else if 0x500000 ≤ off && off < 0x600000 then drtRead s.darit (off - 0x500000)
  else if 0x1000000 ≤ off && off < 0x1C00000 then windowRead s (windowOf off) (off % 0x100000)
  else 0

/-- What a 4-byte read of BAR0 through a port gives: a LO word, a HI word as latched or live, or a register (R396, R460). -/
def State.barRead (s : State) (h : HostPort) (off : Nat) : Nat :=
  match s.wide h off with
  | some v => v % 2 ^ 32
  | none => match (if 4 ≤ off then s.wide h (off - 4) else none) with
    | some v => match lookup s.hif[h].latches off with
      | some x => x.toNat
      | none => v / 2 ^ 32 % 2 ^ 32
    | none => s.narrow h off % 2 ^ 32

end Sys2Proof.Machine
end

