-- ==== Sys2Proof/Machine/Registers.lean ====
section
/-! DEFINITION. Register writes and the reads that have an effect (R3, R126, R396, R403, R459, R460; the register tables of 01 to 23). -/

namespace Sys2Proof.Machine

/-! ## Reads with an effect -/

def State.latch (s : State) (h : HostPort) (off v : Nat) : State :=
  { s with reply := leBytes 4 (v % 2 ^ 32) }.updHif h (fun x =>
    { x with latches := insertAt x.latches (off + 4) (BitVec.ofNat 32 (v / 2 ^ 32)) })

/-- A read of a LO register latches HI for the port (R460). -/
def execCounterLoRead (h : HostPort) (off : Nat) (s : State) : Host.Outcome State Fault Refusal :=
  .next (
    let s := if 0x1000000 ≤ off && off < 0x1C00000 then s.awake.leaveLow else s.awake
    if !s.diesOn then s else
    match s.wide h off with
    | some v => s.latch h off v
    | none => s)

/-- PWR_INPUT read: PEAK_W and MEAN_W, then the peak starts again (R427). -/
def execPeakPowerRead (h : HostPort) (s : State) : Host.Outcome State Fault Refusal :=
  .next (
    let s := s.awake
    if s.diesOn then ({ s with reply := leBytes 4 (s.barRead h 0x2000C) }).updPwr (fun p => { p with peakW := 0 }) else s)

/-! ## Registers with a row of their own -/

/-- SCH_ROLE_g (R17, R18). -/
def State.writeRole (s : State) (g : RegionId) (v : Nat) : State :=
  (s.updRegion g (fun r => { r with role := fld v 1 0, rolePending := true })).roleEffect g

/-- A write that READY opens (R403). -/
def State.late (s : State) (f : State → State) : State :=
  let s := s.awake
  if s.isReady then f s else s

/-- A write in a region window; it starts the exit from Glow and Ember besides (R409). -/
def State.lateWindow (s : State) (f : State → State) : State := s.awake.leaveLow.late f

def execRoleWrite (g : RegionId) (v : W32) (s : State) : Host.Outcome State Fault Refusal :=
  .next (s.late (fun s => s.writeRole g v.toNat))

/-- RGC_WDT (R36); where one write clears WRITE_ERR and is out of range, the set wins (log 123). -/
def Region.writeWdt (r : Region) (v : Nat) : Region :=
  let p := fld v 9 0
  let ok : Bool := 1 ≤ p && p ≤ 1000
  { r with
    wdtPeriod := if ok then p else r.wdtPeriod
    wdtWriteErr := (r.wdtWriteErr && !bit v 12) || !ok }

def execWatchdogPeriodWrite (g : RegionId) (v : W32) (s : State) : Host.Outcome State Fault Refusal :=
  .next (s.lateWindow (fun s => s.updRegion g (fun r => r.writeWdt v.toNat)))

/-- CLEAR of a group of region counters. -/
def State.clearCnt (s : State) (g : RegionId) (v : Nat) (f : RegionCnt → RegionCnt) : State := if bit v 0 then s.updCnt g f else s

def execAnvilCountersClear (c : CoreId) (v : W32) (s : State) : Host.Outcome State Fault Refusal :=
  .next (s.lateWindow (fun s => if bit v.toNat 0 then s.updCore c (fun co => { co with cntActive := 0, cntMac := 0 }) else s))

def execAtomicCountersClear (g : RegionId) (v : W32) (s : State) : Host.Outcome State Fault Refusal :=
  .next (s.lateWindow (fun s => s.clearCnt g v.toNat (fun c => { c with applied := 0, dup := 0, retry := 0 })))

def execTileCountersClear (g : RegionId) (v : W32) (s : State) : Host.Outcome State Fault Refusal :=
  .next (s.lateWindow (fun s => s.clearCnt g v.toNat (fun c => { c with tileDup := 0, tileClaim := 0 })))

def execPageCountersClear (g : RegionId) (v : W32) (s : State) : Host.Outcome State Fault Refusal :=
  .next (s.lateWindow (fun s => s.clearCnt g v.toNat (fun c => { c with pageCopy := 0, blockCopy := 0, kvServed := 0 })))

def execCoilCountersClear (g : RegionId) (v : W32) (s : State) : Host.Outcome State Fault Refusal :=
  .next (s.lateWindow (fun s => s.clearCnt g v.toNat (fun c => { c with coilRound := 0, coilUnpark := 0, coilEvict := 0, coilSkip := 0 })))

def execMemoryCountersClear (g : RegionId) (v : W32) (s : State) : Host.Outcome State Fault Refusal :=
  .next (s.lateWindow (fun s => s.clearCnt g v.toNat (fun c => { c with memRd := 0, memWr := 0, memTurn := 0, memAged := 0 })))

def execIntegrityCountersClear (g : RegionId) (v : W32) (s : State) : Host.Outcome State Fault Refusal :=
  .next (s.lateWindow (fun s => s.clearCnt g v.toNat (fun c => { c with ceSram := 0, ceHbm := 0, ueSram := 0, ueHbm := 0 })))

/-- Whether SNAP_8GB may become n: no snapshot stored, and no mapped block leaves the data partition (R294). -/
def Flash.mayPart (f : Flash) (n : Nat) : Bool :=
  n ≤ 800 && f.snaps.toList.all (fun z => z.state == .empty)
    && f.mapped.all (fun e => decide (e.1 < 1562500000 - n * 1953125))

/-- FLS_PART. -/
def Flash.writePart (f : Flash) (v : Nat) : Flash :=
  let n := fld v 9 0
  { f with
    snap8 := if f.mayPart n then n else f.snap8
    partErr := (f.partErr && !bit v 31) || !f.mayPart n }

def execSnapshotPartitionWrite (v : W32) (s : State) : Host.Outcome State Fault Refusal :=
  .next (s.late (fun s => s.updFls (fun f => f.writePart v.toNat)))

/-! ## Every other register -/

/-- A word replaced in a 64-bit register. -/
def setHalf (old : W64) (hi : Bool) (v : Nat) : W64 :=
  BitVec.ofNat 64 (if hi then old.toNat % 2 ^ 32 + v * 2 ^ 32 else old.toNat / 2 ^ 32 * 2 ^ 32 + v)

/-- A word of the MSI-X table; the vector control word masks or unmasks. -/
def State.writeMsix (s : State) (h : HostPort) (o v : Nat) : State :=
  if o % 16 = 12 then
    if bit v 0 then s.updHif h (fun x => { x with unmasked := x.unmasked.filter (· != o / 16) })
    else s.unmask h (o / 16)
  else s.updHif h (fun x => { x with msixWords := insertAt x.msixWords (o / 4) (BitVec.ofNat 32 v) })

def State.writeHif (s : State) (h : HostPort) (off v : Nat) : State :=
  match off with
  | 0x0010 => if 1 ≤ fld v 13 0 && fld v 13 0 ≤ 10000 then s.updSvc (fun x => { x with failoverMs := fld v 13 0 }) else s
  | 0x1004 => s.updHif h (fun x => x.portCtrl v)
  | 0x1008 => s.updHif h (fun x => { x with evt := x.evt &&& ~~~(BitVec.ofNat 4 v) })
  | 0x100C => s.updHif h (fun x => { x with evtEn := BitVec.ofNat 4 v })
  | _ => if 0x8000 ≤ off && off < 0x10000 then s.writeMsix h (off - 0x8000) v else s

def State.writeTim (s : State) (o v : Nat) : State :=
  match o with
  | 0x08 => s.updTim (fun t => t.ctrl v)
  | 0x10 => s.updTim (fun t => { t with setLo := BitVec.ofNat 32 v })
  | 0x14 => s.updTim (fun t => { t with setHi := BitVec.ofNat 32 v, armed := true })
  | _ => s

/-- PWR_STATE: AUTO_DEEPEST, then REQUEST; 0 takes back a request in progress. -/
def State.writePwrState (s : State) (v : Nat) : State :=
  let s := if fld v 5 4 ≤ 2 then s.updPwr (fun p => { p with autoDeepest := fld v 5 4 }) else s
  match fld v 2 0 with
  | 0 => s.updPwr (fun p => { p with request := 0, pendingReq := none })
  | 3 => s.requestAsh
  | 4 => s.requestCold
  | _ => s

def Power.writeIdle (p : Power) (v : Nat) : Power :=
  { p with
    emberUs := if 10 ≤ fld v 31 16 then fld v 31 16 else p.emberUs
    glowUs := if 1 ≤ fld v 15 0 then fld v 15 0 else p.glowUs }

def State.writePwr (s : State) (o v : Nat) : State :=
  match o with
  | 0x00 => s.writePwrState v
  | 0x04 => s.updPwr (fun p => p.writeIdle v)
  | 0x08 => if 1000 ≤ fld v 15 0 && fld v 15 0 ≤ 4000 then s.updPwr (fun p => { p with capW := fld v 15 0 }) else s
  | 0x20 => s.updPwr (fun p => p.setMargin v)
  | 0x54 => s.updPwr (fun p => { p with lastTrip := p.lastTrip && !bit v 30 })
  | 0x60 => s.updPwr (fun p => { p with selPoint := fld v 11 8, selIsland := if fld v 7 0 ≤ 199 then fld v 7 0 else p.selIsland })
  | _ => s

/-- SEC_OPKEY and its control: VALID and the digests stay while LOCK is 1. -/
def Service.writeSec (x : Service) (o v : Nat) : Service :=
  if x.opLock then x
  else if o = 0x200 then { x with opLock := bit v 31, opValid := BitVec.ofNat 4 v }
  else if 0x100 ≤ o && o < 0x200 && o % 0x40 < 0x30 then
    { x with opkey := x.opkey.set ((12 * ((o - 0x100) / 0x40) + o % 0x40 / 4) % 48) (BitVec.ofNat 32 v) (Nat.mod_lt _ (by decide)) }
  else x

/-- The test that SVC_TEST_CTRL names; the outcome of an in-slot test is a free value. -/
def State.mailTestOf (s : State) : Option Instr :=
  let v := s.svc
  let pass := Config.freeNat 17 [v.tKind, v.tTarget, s.freshCtr] % 2 == 1
  match v.tKind with
  | 0 => some (.testCheckerPatterns .mailbox v.tTarget v.tForce v.tTimeout pass)
  | 1 => some (.testSensorCalibration .mailbox v.tTarget v.tForce v.tTimeout pass)
  | 2 => some (.testSramBist .mailbox v.tTarget v.tForce v.tTimeout)
  | 3 => some (.testStackRetrain .mailbox v.tTarget v.tForce v.tTimeout)
  | 4 => some (.testVectorEngine .mailbox v.tTarget v.tForce v.tTimeout)
  | 5 => some (.testDaritRetrain .mailbox v.tTarget v.tForce v.tTimeout)
  | _ => none

/-- SVC_TEST_CTRL. -/
def State.writeTest (s : State) (v : Nat) : State :=
  let t := s.updSvc (fun x => { x with tForce := bit v 16, tTarget := fld v 15 8, tKind := fld v 2 0 })
  if !bit v 31 then t
  else if !s.isReady then s
  else match t.mailTestOf with
    | some i => t.fresh.mailTest t.svc.tKind t.svc.tTarget t.svc.tForce i
    | none => t.updSvc (fun x => if x.tBusy then x else { x with tLast := x.tKind, tPass := false, tStatus := stMalformed })

def State.writeSvc (s : State) (o v : Nat) : State :=
  match o with
  | 0x200 => s.writeTest v
  | 0x204 => if timeoutOk (fld v 15 0) then s.updSvc (fun x => { x with tTimeout := fld v 15 0 }) else s
  | _ => s

/-- The operation of ADM_CMD; the descriptor is read from host memory. -/
def State.mailOp (s : State) (p : HostPort) (op : Nat) : State :=
  let rd := HostRead.data (spaceRead s.hostMem (hostKey p (s.mbox[p].addr).toNat) 64)
  match op with
  | 1 => s.mail p 1 (.ctxCreate p rd)
  | 2 => s.mail p 2 (.ctxDestroy p)
  | 3 => s.mail p 3 (.queueCreate p rd)
  | 4 => s.mail p 4 (.queueDestroy p)
  | 5 => s.mail p 5 (.invalidate p)
  | 6 => s.mail p 6 (.cancel p)
  | 7 => s.mail p 7 (.query p)
  | _ => s.updMbox p (fun m => { m with status := stMalformed, lastOp := op })

/-- A mailbox register; ignored while BUSY (R319). -/
def State.writeMail (s : State) (p : HostPort) (o v : Nat) : State :=
  if s.mbox[p].busy then s else
  match o with
  | 0x00 => s.updMbox p (fun m => { m with addr := setHalf m.addr false v })
  | 0x04 => s.updMbox p (fun m => { m with addr := setHalf m.addr true v })
  | 0x08 => s.updMbox p (fun m => { m with arg0 := BitVec.ofNat 32 v })
  | 0x0C => s.updMbox p (fun m => { m with arg1 := setHalf m.arg1 false v })
  | 0x10 => s.updMbox p (fun m => { m with arg1 := setHalf m.arg1 true v })
  | 0x14 => s.mailOp p (fld v 3 0)
  | _ => s

def State.writeQue (s : State) (o v : Nat) : State :=
  if 0x1000 ≤ o && o < 0x1100 then s.writeMail 0 (o - 0x1000) v
  else if 0x1100 ≤ o && o < 0x1200 then s.writeMail 1 (o - 0x1100) v
  else s

/-- Eight entries of the shadow table. -/
def TimeSlots.writeShadow (t : TimeSlots) (n v : Nat) : TimeSlots :=
  { t with shadow := Vector.ofFn (fun i : Fin 256 =>
      if i.val / 8 = n then BitVec.ofNat 4 (v / 2 ^ (4 * (i.val % 8))) else t.shadow[i]) }

/-- SCH_DISPATCH (R320). -/
def State.writeDispatch (s : State) (v : Nat) : State :=
  { s with
    ageMs := if 1 ≤ fld v 31 16 && fld v 31 16 ≤ 10000 then fld v 31 16 else s.ageMs
    preemptWait := if fld v 9 0 ≤ 1000 then fld v 9 0 else s.preemptWait }

def State.writeSch (s : State) (o v : Nat) : State :=
  if o = 0xC000 then s.writeDispatch v
  else if 0xE000 ≤ o && o < 0xE080 then s.updSlots (fun t => t.writeShadow ((o - 0xE000) / 4) v)
  else if o = 0xE100 then (if bit v 0 then s.updSlots TimeSlots.commit else s)
  else if o = 0xE104 then s.updSlots (fun t => { t with strobeLost := t.strobeLost && !(bit v 9 && !t.strobeAbsent) })
  else if 0xF000 ≤ o && o < 0xF030 then s.writeRole (regionN ((o - 0xF000) / 4)) v
  else s

/-- SMP_Q_CTRL: CLEAR, STOP, START. -/
def State.writeSmpCtrl (s : State) (q : SampleQ) (v : Nat) : State :=
  let s := if bit v 2 then s.updSmp q (fun x => { x with fails := Vector.replicate 8 0, out := 0, drop := 0, sat := 0 }) else s
  let s := if bit v 1 && s.smp[q].state == smpRunning then s.updSmp q (fun x => x.halt smpIdle x.error) else s
  if bit v 0 then s.smpStart q else s

def State.writeSmp (s : State) (o v : Nat) : State :=
  if h : o / 0x100 < 64 then
    let q : SampleQ := ⟨o / 0x100, h⟩
    match o % 0x100 with
    | 0x00 => s.updSmp q (fun x => { x with descAddr := x.descAddr / 2 ^ 32 * 2 ^ 32 + v / 64 * 64 })
    | 0x04 => s.updSmp q (fun x => { x with descAddr := x.descAddr % 2 ^ 32 + fld v 15 0 * 2 ^ 32 })
    | 0x08 => s.writeSmpCtrl q v
    | 0x18 => s.updSmp q (fun x => { x with tail := BitVec.ofNat 32 v })
    | _ => s
  else s

/-- FLS_XFER_CTRL: ignored while BUSY; GO starts the operation. -/
def State.writeXfer (s : State) (v : Nat) : State :=
  if s.fls.xBusy then s else
  let s := s.updFls (fun f => { f with xPort := bit v 8, xSnap := fld v 7 4, xOp := fld v 2 0 })
  if !bit v 31 then s else
  match fld v 2 0 with
  | 0 => s.exportRange
  | 1 => s.importRange
  | 2 => s.restoreSnap
  | 3 => s.releaseAll
  | 4 => s.discardSnap
  | n => s.xDone n stMalformed

def State.writeFls (s : State) (o v : Nat) : State :=
  match o with
  | 0x004 => s.updFls (fun f => f.writePart v)
  | 0x00C => if 10 ≤ fld v 7 0 && fld v 7 0 ≤ 200 then s.updFls (fun f => { f with readLimitK := fld v 7 0 }) else s
  | 0x400 => s.updFls (fun f => { f with xAddr := setHalf f.xAddr false v })
  | 0x404 => s.updFls (fun f => { f with xAddr := setHalf f.xAddr true v })
  | 0x408 => s.updFls (fun f => { f with xOff := setHalf f.xOff false v })
  | 0x40C => s.updFls (fun f => { f with xOff := setHalf f.xOff true v })
  | 0x410 => s.updFls (fun f => { f with xLen := BitVec.ofNat 32 v })
  | 0x414 => s.writeXfer v
  | _ => s

/-- DRT_PCTRL: CLEAR, then RETRAIN. -/
def State.writePctrl (s : State) (p : DaritPort) (v : Nat) : State :=
  let s := if bit v 1 then s.updPort p (fun x => { x with txFlits := 0, rxFlits := 0, replay := 0, fecCorr := 0, fwd := 0 }) else s
  if bit v 0 then s.portReset p else s

def State.writeDrtG (s : State) (o v : Nat) : State :=
  match o with
  | 0x000 => s.writeTopology false v
  | 0x004 => s.writeTopology true v
  | 0x008 => s.updDarit (fun d => { d with cfgErr := d.cfgErr && !bit v 31 })
  | 0x00C => s.updDarit (fun d => { d with rquery := fld v 11 0 })
  | 0x108 => if bit v 0 then s.updDarit (fun d => { d with aged := 0 }) else s
  | _ => s

def State.writeDrt (s : State) (o v : Nat) : State :=
  if 0x10000 ≤ o && o < 0x20000 then s.writeDrtG (o - 0x10000) v
  else if h : o / 0x20000 < 8 then
    match o % 0x20000 with
    | 0x00 => s.writePcfg ⟨o / 0x20000, h⟩ v
    | 0x14 => s.writePctrl ⟨o / 0x20000, h⟩ v
    | _ => s
  else s

/-- The counters that a CLEAR register of a region window zeroes, by its offset. -/
def clearedBy (o : Nat) (c : RegionCnt) : RegionCnt :=
  match o with
  | 0x00120 => { c with memRd := 0, memWr := 0, memTurn := 0, memAged := 0 }
  | 0x10120 => { c with ceSram := 0, ceHbm := 0, ueSram := 0, ueHbm := 0 }
  | 0x20118 => { c with applied := 0, dup := 0, retry := 0 }
  | 0x20130 => { c with tileDup := 0, tileClaim := 0 }
  | 0x20158 => { c with pageCopy := 0, blockCopy := 0, kvServed := 0 }
  | 0x20180 => { c with coilRound := 0, coilUnpark := 0, coilEvict := 0, coilSkip := 0 }
  | _ => c

def State.writeWindow (s : State) (g : RegionId) (o v : Nat) : State :=
  if 0x80000 ≤ o then
    if (corAt g o).2 = 0x50 && bit v 0 then s.updCore (corAt g o).1 (fun co => { co with cntActive := 0, cntMac := 0 }) else s
  else match o with
    | 0x00008 => if 250 ≤ fld v 15 0 then s.updRegion g (fun r => { r with bulkAge := fld v 15 0 }) else s
    | 0x10000 => if 1 ≤ fld v 7 0 && fld v 7 0 ≤ 168 then s.updRegion g (fun r => { r with scrubPeriod := fld v 7 0 }) else s
    | 0x20040 => s.updRegion g (fun r => r.writeWdt v)
    | _ => s.clearCnt g v (clearedBy o)

/-- A 4-byte write of BAR0: what holds no register, and what waits for READY, ignores it (R396, R403, R459). -/
def State.barWrite (s : State) (h : HostPort) (off v : Nat) : State :=
  if lateBlock off && !s.isReady then s
  else if off < 0x10000 then s.writeHif h off v
  else if off < 0x20000 then s.writeTim (off - 0x10000) v
  else if off < 0x30000 then s.writePwr (off - 0x20000) v
  else if 0x70000 ≤ off && off < 0x80000 then s.updSvc (fun x => x.writeSec (off - 0x70000) v)
  else if 0x80000 ≤ off && off < 0x90000 then s.writeSvc (off - 0x80000) v
  else if 0x100000 ≤ off && off < 0x200000 then s.writeQue (off - 0x100000) v
  else if 0x200000 ≤ off && off < 0x300000 then s.writeSch (off - 0x200000) v
  else if 0x300000 ≤ off && off < 0x400000 then s.writeSmp (off - 0x300000) v
  else if 0x400000 ≤ off && off < 0x500000 then s.writeFls (off - 0x400000) v
  else if 0x500000 ≤ off && off < 0x600000 then s.writeDrt (off - 0x500000) v
  else if 0x1000000 ≤ off && off < 0x1C00000 then s.leaveLow.writeWindow (windowOf off) (off % 0x100000) v
  else s

/-- A write of another width, or misaligned, is discarded (R396). -/
def execRegisterWrite (h : HostPort) (off width : Nat) (v : W32) (s : State) : Host.Outcome State Fault Refusal :=
  .next (
    let s := s.awake
    if !s.diesOn || width ≠ 4 || off % 4 ≠ 0 then s else s.barWrite h off v.toNat)

end Sys2Proof.Machine
end

