-- ==== Sys2Proof/Machine/Dispatch.lean ====
section
/-! DEFINITION. The dispatch of commands to their meanings, one arm per constructor. -/

namespace Sys2Proof.Machine

/-- The effect of a command on everything but the queue. -/
def exec (i : Instr) (s : State) : Host.Outcome State Fault Refusal :=
  match i with
  | .fenceInstruction c k => Sys2Proof.Machine.execFenceInstruction c k s
  | .fenceEnd c k => Sys2Proof.Machine.execFenceEnd c k s
  | .claim c k => Sys2Proof.Machine.execClaim c k s
  | .commit c k => Sys2Proof.Machine.execCommit c k s
  | .vopScalar c k => Sys2Proof.Machine.execVopScalar c k s
  | .vopBranch c k => Sys2Proof.Machine.execVopBranch c k s
  | .ldt c k => Sys2Proof.Machine.execLdt c k s
  | .ldtGather c k => Sys2Proof.Machine.execLdtGather c k s
  | .ldtWindow c k => Sys2Proof.Machine.execLdtWindow c k s
  | .stt c k => Sys2Proof.Machine.execStt c k s
  | .sttContribution c k => Sys2Proof.Machine.execSttContribution c k s
  | .movt c k => Sys2Proof.Machine.execMovt c k s
  | .kvapp c k => Sys2Proof.Machine.execKvapp c k s
  | .vopTile c k => Sys2Proof.Machine.execVopTile c k s
  | .window c k => Sys2Proof.Machine.execWindow c k s
  | .norm c k => Sys2Proof.Machine.execNorm c k s
  | .measure c k => Sys2Proof.Machine.execMeasure c k s
  | .cast c k => Sys2Proof.Machine.execCast c k s
  | .rot c k => Sys2Proof.Machine.execRot c k s
  | .argmax c k => Sys2Proof.Machine.execArgmax c k s
  | .gumbel c k => Sys2Proof.Machine.execGumbel c k s
  | .mma c k => Sys2Proof.Machine.execMma c k s
  | .mma3 c k => Sys2Proof.Machine.execMma3 c k s
  | .cmma c k => Sys2Proof.Machine.execCmma c k s
  | .score c k => Sys2Proof.Machine.execScore c k s
  | .step c k => Sys2Proof.Machine.execStep c k s
  | .instructionComplete c e => Sys2Proof.Machine.execInstructionComplete c e s
  | .atomicReply c k => Sys2Proof.Machine.execAtomicReply c k s
  | .trapRecord c k => Sys2Proof.Machine.execTrapRecord c k s
  | .atomicClaim g => Sys2Proof.Machine.execAtomicClaim g s
  | .atomicCommit g => Sys2Proof.Machine.execAtomicCommit g s
  | .atomicContribution g => Sys2Proof.Machine.execAtomicContribution g s
  | .contributionRetry c k => Sys2Proof.Machine.execContributionRetry c k s
  | .doorbell h q width word => Sys2Proof.Machine.execDoorbell h q width word s
  | .commandAccept q => Sys2Proof.Machine.execCommandAccept q s
  | .commandFetchRetry q => Sys2Proof.Machine.execCommandFetchRetry q s
  | .commandDispatch => Sys2Proof.Machine.execCommandDispatch s
  | .dispatchAgeing q n => Sys2Proof.Machine.execDispatchAgeing q n s
  | .kernel q n => Sys2Proof.Machine.execKernel q n s
  | .instancePlacement q n => Sys2Proof.Machine.execInstancePlacement q n s
  | .loadingComplete c k => Sys2Proof.Machine.execLoadingComplete c k s
  | .instructionFetchMiss c k => Sys2Proof.Machine.execInstructionFetchMiss c k s
  | .preemptionDecision q n => Sys2Proof.Machine.execPreemptionDecision q n s
  | .copy q n => Sys2Proof.Machine.execCopy q n s
  | .fill q n => Sys2Proof.Machine.execFill q n s
  | .fork q n => Sys2Proof.Machine.execFork q n s
  | .cull q n => Sys2Proof.Machine.execCull q n s
  | .roundRun q n => Sys2Proof.Machine.execRoundRun q n s
  | .roundPark q n => Sys2Proof.Machine.execRoundPark q n s
  | .roundUnpark q n => Sys2Proof.Machine.execRoundUnpark q n s
  | .roundConfig q n => Sys2Proof.Machine.execRoundConfig q n s
  | .roundClose q n => Sys2Proof.Machine.execRoundClose q n s
  | .fence q n => Sys2Proof.Machine.execFence q n s
  | .signal q n => Sys2Proof.Machine.execSignal q n s
  | .wait q n => Sys2Proof.Machine.execWait q n s
  | .waitRecheck q n => Sys2Proof.Machine.execWaitRecheck q n s
  | .waitTimeout q n => Sys2Proof.Machine.execWaitTimeout q n s
  | .hint q n => Sys2Proof.Machine.execHint q n s
  | .snapshot q n => Sys2Proof.Machine.execSnapshot q n s
  | .quenchDrainEnd => Sys2Proof.Machine.execQuenchDrainEnd s
  | .quenchCaptureEnd => Sys2Proof.Machine.execQuenchCaptureEnd s
  | .quenchWriteEnd => Sys2Proof.Machine.execQuenchWriteEnd s
  | .commandCommit q n => Sys2Proof.Machine.execCommandCommit q n s
  | .heldWriteRetry q => Sys2Proof.Machine.execHeldWriteRetry q s
  | .ctxCreate h rd => Sys2Proof.Machine.execCtxCreate h rd s
  | .ctxDestroy h => Sys2Proof.Machine.execCtxDestroy h s
  | .queueCreate h rd => Sys2Proof.Machine.execQueueCreate h rd s
  | .queueDestroy h => Sys2Proof.Machine.execQueueDestroy h s
  | .invalidate h => Sys2Proof.Machine.execInvalidate h s
  | .cancel h => Sys2Proof.Machine.execCancel h s
  | .query h => Sys2Proof.Machine.execQuery h s
  | .admInvalidOp h op => Sys2Proof.Machine.execAdmInvalidOp h op s
  | .coreFault c why => Sys2Proof.Machine.execCoreFault c why s
  | .kernelSlotStall c k => Sys2Proof.Machine.execKernelSlotStall c k s
  | .regionWatchdogExpiry g => Sys2Proof.Machine.execRegionWatchdogExpiry g s
  | .controlCoreWatchdogExpiry w => Sys2Proof.Machine.execControlCoreWatchdogExpiry w s
  | .regionReset g => Sys2Proof.Machine.execRegionReset g s
  | .epochAdvance p => Sys2Proof.Machine.execEpochAdvance p s
  | .dieFault d => Sys2Proof.Machine.execDieFault d s
  | .dieReturn d stacksLost => Sys2Proof.Machine.execDieReturn d stacksLost s
  | .packageWarmReset => Sys2Proof.Machine.execPackageWarmReset s
  | .commandStoreCopyLoss loss => Sys2Proof.Machine.execCommandStoreCopyLoss loss s
  | .fabricRequest r => Sys2Proof.Machine.execFabricRequest r s
  | .fabricReply id epoch => Sys2Proof.Machine.execFabricReply id epoch s
  | .partAbsentRetry p => Sys2Proof.Machine.execPartAbsentRetry p s
  | .bulkPromotion link id => Sys2Proof.Machine.execBulkPromotion link id s
  | .coilUnparkComplete coil => Sys2Proof.Machine.execCoilUnparkComplete coil s
  | .coilParkComplete coil => Sys2Proof.Machine.execCoilParkComplete coil s
  | .coilEviction c => Sys2Proof.Machine.execCoilEviction c s
  | .timeSlotStart => Sys2Proof.Machine.execTimeSlotStart s
  | .strobeLost => Sys2Proof.Machine.execStrobeLost s
  | .strobeReturn => Sys2Proof.Machine.execStrobeReturn s
  | .slotTableEffect => Sys2Proof.Machine.execSlotTableEffect s
  | .slotTableCommit h => Sys2Proof.Machine.execSlotTableCommit h s
  | .sramScrubSlot => Sys2Proof.Machine.execSramScrubSlot s
  | .stackScrubRead g => Sys2Proof.Machine.execStackScrubRead g s
  | .scrubWriteback g => Sys2Proof.Machine.execScrubWriteback g s
  | .flashReadDisturb block => Sys2Proof.Machine.execFlashReadDisturb block s
  | .flashWearLevel => Sys2Proof.Machine.execFlashWearLevel s
  | .flashSparesExhausted => Sys2Proof.Machine.execFlashSparesExhausted s
  | .sampleDecodeStart q => Sys2Proof.Machine.execSampleDecodeStart q s
  | .sampleDecodeEnd q pos out => Sys2Proof.Machine.execSampleDecodeEnd q pos out s
  | .sampleHandoff q => Sys2Proof.Machine.execSampleHandoff q s
  | .decodeLaneFault lane => Sys2Proof.Machine.execDecodeLaneFault lane s
  | .sampleQueueStart q => Sys2Proof.Machine.execSampleQueueStart q s
  | .sampleQueueStop q => Sys2Proof.Machine.execSampleQueueStop q s
  | .sampleCountersClear q => Sys2Proof.Machine.execSampleCountersClear q s
  | .sampleTailWrite q tail => Sys2Proof.Machine.execSampleTailWrite q tail s
  | .roleWrite g v => Sys2Proof.Machine.execRoleWrite g v s
  | .watchdogPeriodWrite g v => Sys2Proof.Machine.execWatchdogPeriodWrite g v s
  | .anvilCountersClear c v => Sys2Proof.Machine.execAnvilCountersClear c v s
  | .atomicCountersClear g v => Sys2Proof.Machine.execAtomicCountersClear g v s
  | .tileCountersClear g v => Sys2Proof.Machine.execTileCountersClear g v s
  | .pageCountersClear g v => Sys2Proof.Machine.execPageCountersClear g v s
  | .coilCountersClear g v => Sys2Proof.Machine.execCoilCountersClear g v s
  | .memoryCountersClear g v => Sys2Proof.Machine.execMemoryCountersClear g v s
  | .integrityCountersClear g v => Sys2Proof.Machine.execIntegrityCountersClear g v s
  | .snapshotPartitionWrite v => Sys2Proof.Machine.execSnapshotPartitionWrite v s
  | .exportImage => Sys2Proof.Machine.execExportImage s
  | .importImage => Sys2Proof.Machine.execImportImage s
  | .restore => Sys2Proof.Machine.execRestore s
  | .release => Sys2Proof.Machine.execRelease s
  | .discard => Sys2Proof.Machine.execDiscard s
  | .xferInvalidOp op => Sys2Proof.Machine.execXferInvalidOp op s
  | .portConfigWrite p v => Sys2Proof.Machine.execPortConfigWrite p v s
  | .topologyWrite node v => Sys2Proof.Machine.execTopologyWrite node v s
  | .retrain p => Sys2Proof.Machine.execRetrain p s
  | .portCountersClear p v => Sys2Proof.Machine.execPortCountersClear p v s
  | .agedCounterClear v => Sys2Proof.Machine.execAgedCounterClear v s
  | .portTraining p o => Sys2Proof.Machine.execPortTraining p o s
  | .cableSense p o => Sys2Proof.Machine.execCableSense p o s
  | .laneFailure p lane => Sys2Proof.Machine.execLaneFailure p lane s
  | .daritPortFault p => Sys2Proof.Machine.execDaritPortFault p s
  | .flitReceive p seq check => Sys2Proof.Machine.execFlitReceive p seq check s
  | .frameForward p f => Sys2Proof.Machine.execFrameForward p f s
  | .remoteRequestTimeout id => Sys2Proof.Machine.execRemoteRequestTimeout id s
  | .trunkStateChange node dim minus up => Sys2Proof.Machine.execTrunkStateChange node dim minus up s
  | .remoteGatherServe r => Sys2Proof.Machine.execRemoteGatherServe r s
  | .bar4Access h off op => Sys2Proof.Machine.execBar4Access h off op s
  | .bar4Resize h gib => Sys2Proof.Machine.execBar4Resize h gib s
  | .apertureBaseWrite h v => Sys2Proof.Machine.execApertureBaseWrite h v s
  | .counterLoRead h off => Sys2Proof.Machine.execCounterLoRead h off s
  | .peakPowerRead h => Sys2Proof.Machine.execPeakPowerRead h s
  | .msixUnmask h vec => Sys2Proof.Machine.execMsixUnmask h vec s
  | .hostPortDown h => Sys2Proof.Machine.execHostPortDown h s
  | .hostPortUp h => Sys2Proof.Machine.execHostPortUp h s
  | .rehomeTimeout h => Sys2Proof.Machine.execRehomeTimeout h s
  | .hostPortReset h why => Sys2Proof.Machine.execHostPortReset h why s
  | .ptmExchange h rootNs => Sys2Proof.Machine.execPtmExchange h rootNs s
  | .ppsEdge measuredNs => Sys2Proof.Machine.execPpsEdge measuredNs s
  | .timeReferenceLoss r => Sys2Proof.Machine.execTimeReferenceLoss r s
  | .timeSourceWrite v => Sys2Proof.Machine.execTimeSourceWrite v s
  | .timeSetArm v => Sys2Proof.Machine.execTimeSetArm v s
  | .glowEntry => Sys2Proof.Machine.execGlowEntry s
  | .emberEntry => Sys2Proof.Machine.execEmberEntry s
  | .lowPowerWake => Sys2Proof.Machine.execLowPowerWake s
  | .ashRequest => Sys2Proof.Machine.execAshRequest s
  | .coldRequest => Sys2Proof.Machine.execColdRequest s
  | .powerRequestTimeout => Sys2Proof.Machine.execPowerRequestTimeout s
  | .ashWake => Sys2Proof.Machine.execAshWake s
  | .coldWake => Sys2Proof.Machine.execColdWake s
  | .powerSample watts => Sys2Proof.Machine.execPowerSample watts s
  | .ceilingStep => Sys2Proof.Machine.execCeilingStep s
  | .anvilTokenGrant c => Sys2Proof.Machine.execAnvilTokenGrant c s
  | .hintStart id => Sys2Proof.Machine.execHintStart id s
  | .hintEnd id => Sys2Proof.Machine.execHintEnd id s
  | .hintEarlyEnd id => Sys2Proof.Machine.execHintEarlyEnd id s
  | .droopTrip island deep => Sys2Proof.Machine.execDroopTrip island deep s
  | .droopRecover island => Sys2Proof.Machine.execDroopRecover island s
  | .droopFault island => Sys2Proof.Machine.execDroopFault island s
  | .thermalSample die hottestDc stackDc => Sys2Proof.Machine.execThermalSample die hottestDc stackDc s
  | .thermalTrip => Sys2Proof.Machine.execThermalTrip s
  | .coolantSample inletDc flowCl => Sys2Proof.Machine.execCoolantSample inletDc flowCl s
  | .coolantWarnEnd => Sys2Proof.Machine.execCoolantWarnEnd s
  | .marginAdjust slacks => Sys2Proof.Machine.execMarginAdjust slacks s
  | .marginModeWrite v => Sys2Proof.Machine.execMarginModeWrite v s
  | .energyAttribution cores parts => Sys2Proof.Machine.execEnergyAttribution cores parts s
  | .feedFailure f => Sys2Proof.Machine.execFeedFailure f s
  | .feedReturn f => Sys2Proof.Machine.execFeedReturn f s
  | .feedOvervoltage f => Sys2Proof.Machine.execFeedOvervoltage f s
  | .feedReversePolarity f => Sys2Proof.Machine.execFeedReversePolarity f s
  | .feedShort f => Sys2Proof.Machine.execFeedShort f s
  | .powerGood env => Sys2Proof.Machine.execPowerGood env s
  | .powerLoss => Sys2Proof.Machine.execPowerLoss s
  | .powerRemoved => Sys2Proof.Machine.execPowerRemoved s
  | .clockInputChange input present => Sys2Proof.Machine.execClockInputChange input present s
  | .serviceSessionConnect => Sys2Proof.Machine.execServiceSessionConnect s
  | .hello hdr => Sys2Proof.Machine.execHello hdr s
  | .status hdr => Sys2Proof.Machine.execStatus hdr s
  | .readLog hdr first count => Sys2Proof.Machine.execReadLog hdr first count s
  | .attest hdr nonce => Sys2Proof.Machine.execAttest hdr nonce s
  | .doeAttest h nonce => Sys2Proof.Machine.execDoeAttest h nonce s
  | .stageBegin hdr kind size => Sys2Proof.Machine.execStageBegin hdr kind size s
  | .stageData hdr kind off data => Sys2Proof.Machine.execStageData hdr kind off data s
  | .stageEnd hdr kind => Sys2Proof.Machine.execStageEnd hdr kind s
  | .activate hdr sig mask force timeoutMs => Sys2Proof.Machine.execActivate hdr sig mask force timeoutMs s
  | .commitSvn hdr sig kind => Sys2Proof.Machine.execCommitSvn hdr sig kind s
  | .resetPackage hdr sig => Sys2Proof.Machine.execResetPackage hdr sig s
  | .fuseProgram hdr sig entry => Sys2Proof.Machine.execFuseProgram hdr sig entry s
  | .resume hdr sig => Sys2Proof.Machine.execResume hdr sig s
  | .testCheckerPatterns src target force timeoutMs pass => Sys2Proof.Machine.execTestCheckerPatterns src target force timeoutMs pass s
  | .testSensorCalibration src target force timeoutMs pass => Sys2Proof.Machine.execTestSensorCalibration src target force timeoutMs pass s
  | .testSramBist src target force timeoutMs => Sys2Proof.Machine.execTestSramBist src target force timeoutMs s
  | .testStackRetrain src target force timeoutMs => Sys2Proof.Machine.execTestStackRetrain src target force timeoutMs s
  | .testVectorEngine src target force timeoutMs => Sys2Proof.Machine.execTestVectorEngine src target force timeoutMs s
  | .testDaritRetrain src target force timeoutMs => Sys2Proof.Machine.execTestDaritRetrain src target force timeoutMs s
  | .testInvalidKind kind => Sys2Proof.Machine.execTestInvalidKind kind s
  | .regionDrainComplete g => Sys2Proof.Machine.execRegionDrainComplete g s
  | .regionDrainTimeout g => Sys2Proof.Machine.execRegionDrainTimeout g s
  | .page write => Sys2Proof.Machine.execPage write s
  | .clearFaults => Sys2Proof.Machine.execClearFaults s
  | .statusWord => Sys2Proof.Machine.execStatusWord s
  | .statusInput => Sys2Proof.Machine.execStatusInput s
  | .readEin => Sys2Proof.Machine.execReadEin s
  | .readVin => Sys2Proof.Machine.execReadVin s
  | .readIin => Sys2Proof.Machine.execReadIin s
  | .readTemperature1 => Sys2Proof.Machine.execReadTemperature1 s
  | .readPin => Sys2Proof.Machine.execReadPin s
  | .pmbusRevision => Sys2Proof.Machine.execPmbusRevision s
  | .mfrId => Sys2Proof.Machine.execMfrId s
  | .mfrModel => Sys2Proof.Machine.execMfrModel s
  | .mfrWake => Sys2Proof.Machine.execMfrWake s
  | .smbusRefused code => Sys2Proof.Machine.execSmbusRefused code s
  | .alertResponse => Sys2Proof.Machine.execAlertResponse s
  | .registerWrite h off width v => Sys2Proof.Machine.execRegisterWrite h off width v s
  | .regionResetEnd g => Sys2Proof.Machine.execRegionResetEnd g s
  | .ctxCreateDrainTimeout h => Sys2Proof.Machine.execCtxCreateDrainTimeout h s
  | .vectorEngineTestEnd c pass => Sys2Proof.Machine.execVectorEngineTestEnd c pass s
  | .vectorEngineTestTimeout c => Sys2Proof.Machine.execVectorEngineTestTimeout c s
  | .serviceSessionClose => Sys2Proof.Machine.execServiceSessionClose s
  | .hostReadCompletionTimeout h rd => Sys2Proof.Machine.execHostReadCompletionTimeout h rd s

end Sys2Proof.Machine
end

