-- ==== Sys2Proof/Safety.lean ====
section
/-! DEFINITION. What counts as a safe run, and the terms that statements use: canonical memories, which row a kernel instruction belongs to,
what its issue takes. -/

namespace Sys2Proof

open Machine

/-- Ash's copy of a memory, if there is one, is canonical. -/
def savedWf (m : Option Ram) : Bool :=
  match m with
  | some r => r.wf
  | none => true

/-- The canonical form of every memory of the block: the four RAMs, what Ash saved of them, host memory and flash. -/
def memoriesWf (s : State) : Bool :=
  s.coreStore.wf && s.accMem.wf && s.regionMem.wf && s.stacked.wf && savedWf s.pwr.ashRegion && savedWf s.pwr.ashAcc
    && spaceWf s.hostMem && spaceWf s.fls.cells

/-- A step that answers a next state. -/
def goesOn (s : State) : Prop := ∃ t, step s = .next t

/-! ## Kernel instructions -/

/-- The command that stands for the issue of a row's instruction. -/
def rowInstr (r : RowKind) (c : CoreId) (k : KsId) : Instr :=
  match r with
  | .fence => .fenceInstruction c k
  | .fenceEnd => .fenceEnd c k
  | .claim => .claim c k
  | .commit => .commit c k
  | .scalar => .vopScalar c k
  | .branch => .vopBranch c k
  | .ldt => .ldt c k
  | .ldtGather => .ldtGather c k
  | .ldtWindow => .ldtWindow c k
  | .stt => .stt c k
  | .sttContrib => .sttContribution c k
  | .movt => .movt c k
  | .kvapp => .kvapp c k
  | .vopTile => .vopTile c k
  | .window => .window c k
  | .norm => .norm c k
  | .measure => .measure c k
  | .cast => .cast c k
  | .rot => .rot c k
  | .argmax => .argmax c k
  | .gumbel => .gumbel c k
  | .mma => .mma c k
  | .mma3 => .mma3 c k
  | .cmma => .cmma c k
  | .score => .score c k
  | .step => .step c k

/-- A row's own checks and its effect, for the rows that an engine executes. -/
def rowPlan (s : State) (c : CoreId) (k : KsId) (r : RowKind) (sl : KSlot) (w : W128) : Except AccErr (Option Plan) :=
  match r with
  | .fence | .fenceEnd | .claim | .commit | .scalar | .branch => .ok none
  | .ldt => s.planLdt c k sl w
  | .ldtGather => s.planGather c k sl w
  | .ldtWindow => s.planLdtWindow c k sl w
  | .stt => s.planStt c k sl w
  | .sttContrib => s.planContrib c k sl w
  | .movt => s.planMovt c k sl w
  | .kvapp => s.planKvapp c k sl w
  | .vopTile => s.planVop c k sl w
  | .window => s.planWindow c k sl w
  | .norm => s.planNorm c k sl w
  | .measure => s.planMeasure c k sl w
  | .cast => s.planCast c k sl w
  | .rot => s.planRot c k sl w
  | .argmax => s.planArgmax c k sl w
  | .gumbel => s.planGumbel c k sl w
  | .mma => s.planMma c k sl w
  | .mma3 => s.planMma3 c k sl w
  | .cmma => s.planCmma c k sl w
  | .score => s.planScore c k sl w
  | .step => s.planStep c k sl w

/-- A running slot on a core that executes, whose next instruction is w of row r (R43, R58). -/
def nextIs (s : State) (c : CoreId) (k : KsId) (r : RowKind) (w : W128) : Prop :=
  s.coreUp c = true ∧ (s.slot c k).state = .running ∧ (s.slot c k).round = none ∧ s.fetched c k = some w ∧ rowOf w = some r

/-- Checks 1 to 4 passed with a true predicate, the conditions of R48 met, the slot the sequencer's choice, and no stop that waits for the
next issue (R43, R48, R51, R52, R66). -/
def readyToIssue (s : State) (c : CoreId) (k : KsId) (r : RowKind) (w : W128) : Prop :=
  nextIs s c k r w ∧ check12 w = none ∧ (s.slot c k).pendP.contains (wPred w) = false
    ∧ (s.slot c k).pred (wPred w) ≠ wPneg w ∧ check34 w r = none ∧ s.mayIssue c k w r = true
    ∧ s.turn c k = true ∧ (s.slot c k).stopsAtIssue = false

/-- The state after an instruction of a slot issued with no other effect than on the slot: the slot replaced, the sequencer moved past the
instruction (R51). -/
def afterIssue (s : State) (c : CoreId) (k : KsId) (sl : KSlot) : State := (s.updSlot c k (fun _ => sl)).advance c k

/-- Every slot but one is as it was. -/
def otherSlots (s t : State) (c : CoreId) (k : KsId) : Prop :=
  ∀ (c' : CoreId) (k' : KsId), (c', k') ≠ (c, k) → t.slot c' k' = s.slot c' k'

/-- Every byte of stacked memory reads as it did: a read may have mended blocks of a row under repair, whose bytes it keeps (R286). -/
def sameStacked (s t : State) : Prop := ∀ a, t.readStacked a 1 = s.readStacked a 1

/-- The memories read as they did. -/
def sameMemory (s t : State) : Prop :=
  t.coreStore = s.coreStore ∧ t.accMem = s.accMem ∧ t.regionMem = s.regionMem ∧ sameStacked s t ∧ t.hostMem = s.hostMem

/-- A slot trapped (R60): TRAPPED with status and index, its issued instructions and requests discarded, their tiles INVALID, nothing else
changed. -/
def trapOf (s t : State) (c : CoreId) (k : KsId) (st index : Nat) : Prop :=
  t.slot c k = { s.slot c k with
      state := .trapped, trap := some (st, index), pendS := [], pendP := [], atoms := [], retries := []
      ts := (s.slot c k).ts.map (fun x => if x = .pending then .invalid else x) }
    ∧ (∀ e, t.cores[c].queueOf e = (s.cores[c].queueOf e).filter (fun x => x.ks != k))
    ∧ otherSlots s t c k
    ∧ (∀ g : RegionId, t.regions[g] = { s.regions[g] with atomQ := s.regions[g].atomQ.filter (fun x => !x.of c k) })
    ∧ t = { s with cores := t.cores, regions := t.regions }

/-- The bytes of core store that a tile's rows and scale rows hold (R69). -/
def Machine.Tile.holds (d : Tile) (c : CoreId) (a : Nat) : Prop :=
  (∃ i j, i < d.rows ∧ j < d.rowLen ∧ a = c.val * coreStoreBytes + (d.base + i * d.stride) + j)
  ∨ (is4bit d.fmt = true ∧ ∃ i j, i < d.scaleRows ∧ j < d.scaleLen ∧ a = c.val * coreStoreBytes + (d.scaleAddr i).toNat + j)

/-! ## Dispatch -/

/-- A waiting command that a pass of dispatch goes past: it may not be looked at, its queue's order holds it, or a resource is wanting
(R308, R312). -/
def passedOver (s : State) (x : Cmd) : Prop :=
  s.dispatchable s.quenched x = false ∨ s.orderOk x = false
    ∨ ∃ qu, lookup s.queues x.q = some qu ∧ s.ifOkHolds x = true ∧ s.checks14 x qu = none
        ∧ ∃ r ∈ s.needs x qu.ctx, s.missing x qu s.fls.quench.isSome r = true

/-- A command at the end of its ageing that waits for a resource, which no command behind it takes (R312). -/
def keepsBack (s : State) (x : Cmd) (r : Res) : Prop :=
  x.capped = true ∧ s.dispatchable s.quenched x = true ∧ s.orderOk x = true
    ∧ ∃ qu, lookup s.queues x.q = some qu ∧ r ∈ s.needs x qu.ctx ∧ s.missing x qu s.fls.quench.isSome r = true

/-- Commands whose instances a fence or a reset can take without more: no ROUND, no command that is ending. -/
def plainCmds (s : State) : Prop := ∀ cm ∈ s.cmds, cm.type ≠ tyRound ∧ cm.trap = none ∧ cm.ending = none

/-! ## Mailboxes -/

/-- What a mailbox operation needs to run at once: READY, not in Ash, neither mailbox busy, no operation kept. -/
def mailFree (s : State) (h : HostPort) : Prop :=
  s.pwr.current ≠ 3 ∧ s.isReady = true ∧ s.mbox[h].busy = false ∧ s.mbox[h].waitOp = none ∧ s.mbox[otherPort h].busy = false

/-- A mailbox that an operation has left with a status and a result; RESULT is not written while its port is down (R402). -/
def mailDone (s t : State) (h : HostPort) (op status result : Nat) : Prop :=
  t.mbox = s.mbox.set h { s.mbox[h] with
    busy := false, lastOp := op, status := status, waitOp := none, behind := false
    result := if s.hif[h].up then BitVec.ofNat 64 result else s.mbox[h].result }

end Sys2Proof
end

