-- ==== Sys2Proof/Certificates/Slice0/Obligations.lean ====
section
/-! DEFINITION. The statements about the block, one definition each. -/

open Sys2Proof Sys2Proof.Machine

/-! ## The whole machine -/

/-- The model's own step (log 1): the command at the front runs with the queue's rest, and on an empty queue the block idles. -/
def Obligations.StepRunsFrontCommand : Prop :=
  (∀ (c : Instr) (rest : List Instr) (s : State), s.pending = c :: rest → step s = exec c { s with pending := rest })
  ∧ ∀ s : State, s.pending = [] → step s = .next s

/-- What the register tables give for reset, wherever a part has an index, and canonical memories with nothing listed. -/
def Obligations.ResetLeavesStatedValues : Prop :=
  (∀ g : RegionId, (State.reset.regions[g]).role = 3 ∧ (State.reset.regions[g]).roleNow = 3
      ∧ (State.reset.regions[g]).rolePending = false ∧ (State.reset.regions[g]).wdtPeriod = 10
      ∧ (State.reset.regions[g]).wdtExpiries = 0 ∧ (State.reset.regions[g]).bulkAge = 0x7D0
      ∧ (State.reset.regions[g]).scrubPeriod = 0x18)
  ∧ (∀ p : Part, (State.reset.part p).epoch = 0 ∧ (State.reset.part p).state = .inService)
  ∧ (∀ h : HostPort, (State.reset.hif[h]).aptEn = true ∧ (State.reset.hif[h]).aptBase = 0 ∧ (State.reset.hif[h]).evtEn = 0
      ∧ (State.reset.hif[h]).bar4Gib = 256 ∧ (State.reset.mbox[h]).busy = false)
  ∧ (∀ q : SampleQ, (State.reset.smp[q]).state = 0 ∧ (State.reset.smp[q]).tail = 0)
  ∧ (∀ (c : CoreId) (k : KsId), (State.reset.slot c k).state = .free)
  ∧ State.reset.ageMs = 0x64 ∧ State.reset.preemptWait = 0xA ∧ State.reset.svc.phase = 1
  ∧ State.reset.svc.tTimeout = 0x3E8 ∧ State.reset.svc.failoverMs = 0x3E8 ∧ State.reset.pwr.capW = 4000
  ∧ State.reset.pwr.autoDeepest = 2 ∧ State.reset.tim.ptmMs = 10 ∧ State.reset.tim.auto = true
  ∧ State.reset.pending = [] ∧ memoriesWf State.reset = true

/-- R27: the default slot table, in both tables. -/
def Obligations.DefaultSlotTable : Prop :=
  ∀ (n : Nat) (h : n < 256),
    let x := (State.reset.slots.active[n]).toNat
    State.reset.slots.shadow[n] = State.reset.slots.active[n]
    ∧ (n % 8 = 7 → x = 1) ∧ (n % 32 = 3 → x = 2) ∧ (n % 32 = 11 → x = 3)
    ∧ (n % 64 = 19 → x = 4) ∧ (n % 64 = 51 → x = 5)
    ∧ (n % 8 ≠ 7 → n % 32 ≠ 3 → n % 32 ≠ 11 → n % 32 ≠ 19 → x = 0)

/-- Every memory keeps its canonical form through every command: bytes in rising order, no entry that an unlisted place reads as, no empty
mask of bad bits. -/
def Obligations.MemoriesStayCanonical : Prop :=
  ∀ s t : State, memoriesWf s = true → step s = .next t → memoriesWf t = true

/-- A command leaves the waiting commands alone: only the step that takes the front one changes the queue. -/
def Obligations.CommandsLeaveTheQueue : Prop :=
  ∀ (c : Instr) (s t : State), exec c s = .next t → t.pending = s.pending

/-- What fuses hold is for good: no step clears a field fuse entry, lowers a committed SVN, or changes the serial number, the hardware type or
the revocations; and the log never holds more than its 8,192 records (R367). -/
def Obligations.FusesPersistAndTheLogIsBounded : Prop :=
  (∀ s t : State, step s = .next t →
    s.svc.fuses <+: t.svc.fuses ∧ t.svc.serial = s.svc.serial ∧ t.svc.hwType = s.svc.hwType ∧ t.svc.revoked = s.svc.revoked
    ∧ ∀ k : Fin 2, s.svc.svn[k] ≤ t.svc.svn[k])
  ∧ (∀ s t : State, s.log.recs.length ≤ 8192 → step s = .next t → t.log.recs.length ≤ 8192)

/-! ## Check blocks and memory -/

/-- The code of a check block: what was written reads clean, one flipped bit of the 288 is corrected and named, and the unwritten mark is
told from data (R356, R357, R361). -/
def Obligations.WeaveCorrectsOneBit : Prop :=
  (∀ d : W256, weaveDecode (weaveEncode d) = .clean d)
  ∧ (∀ (d : W256) (i : Fin 288), weaveDecode ((weaveEncode d).flip (BitVec.twoPow 288 i.val)) = .corrected d i.val)
  ∧ weaveDecode unwrittenMark = .unwritten

/-- A write of a range that succeeds is what a read of it gives, and every byte outside the range reads as before (R277, R357). -/
def Obligations.WritesReadBackAndTouchNothingElse : Prop :=
  ∀ (m m' : Ram) (addr : Nat) (bytes : List Byte), m.wf = true → m.write addr bytes = some m' →
    m'.read addr bytes.length = some bytes
    ∧ ∀ a : Nat, (a < addr ∨ addr + bytes.length ≤ a) → m'.read a 1 = m.read a 1

/-! ## Kernel instructions -/

/-- Every instruction that an engine executes: with checks 1 to 8 passed and its operands resident, it issues. Its effect takes place, it
enters its engine's queue behind the others with the flags and the multiply-accumulates that count when it completes, the tiles it writes
become PENDING, its names are reserved and the pc moves on (R48 to R51, R103, R109). -/
def Obligations.EngineInstructionsIssue : Prop :=
  ∀ (s : State) (c : CoreId) (k : KsId) (r : RowKind) (e : Engine) (w : W128) (p : Plan) (s1 s2 : State),
    readyToIssue s c k r w → r.engine = some e → rowPlan s c k r (s.slot c k) w = .ok (some p) →
    overcommit (s.slot c k).hdr p.names = false → (∀ n ∈ p.names, ∀ x ∈ s.inFlightOf c k, n ∉ x.accs) →
    s.makeResident c k p.names = .ok (some s1) → p.apply (s1.updSlot c k (fun sl => { sl with flags := {} })) = .ok s2 →
    ∃ t x, exec (rowInstr r c k) s = .next t
      ∧ t.cores[c].queueOf e = s2.cores[c].queueOf e ++ [x]
      ∧ x.ks = k ∧ x.index = (s2.slot c k).pc ∧ x.accs = p.names ∧ x.gather = p.gather ∧ x.remote = p.remote
      ∧ x.flags = (s2.slot c k).flags ∧ x.macs = s2.cores[c].cntMac - s1.cores[c].cntMac
      ∧ x.cycles = engineCycles e r (s2.cores[c].queueOf e).isEmpty (s2.slot c k).hdr.narrow p.cycles
      ∧ (∀ e', e' ≠ e → t.cores[c].queueOf e' = s2.cores[c].queueOf e')
      ∧ (t.slot c k).pc = (s2.slot c k).pc + 1 ∧ t.cores[c].lastSlot = k.val
      ∧ (t.slot c k).flags = (s1.slot c k).flags ∧ t.cores[c].cntMac = s1.cores[c].cntMac
      ∧ (∀ i : Fin 32, (t.slot c k).ts[i] =
          if i ∈ tilesWritten w r ++ descsWritten w r then .pending else (s2.slot c k).ts[i])
      ∧ (∀ n : Fin 16, n.val ∈ p.names → ((t.slot c k).acc[n]).lastRes = (s2.slot c k).resAge)
      ∧ (t.slot c k).s = (s2.slot c k).s ∧ (t.slot c k).t = (s2.slot c k).t ∧ (t.slot c k).p = (s2.slot c k).p
      ∧ otherSlots s2 t c k ∧ t = { s2 with cores := t.cores }

/-- What an engine instruction's own effect leaves alone: the scalar registers and predicates of its slot, its descriptors but MOVT's TD, the
pc, every other slot, and everything of the block that no kernel instruction names. -/
def Obligations.EngineInstructionFrame : Prop :=
  ∀ (s : State) (c : CoreId) (k : KsId) (r : RowKind) (w : W128) (p : Plan) (s1 s2 : State),
    nextIs s c k r w → rowPlan s c k r (s.slot c k) w = .ok (some p) →
    s.makeResident c k p.names = .ok (some s1) → p.apply s1 = .ok s2 →
    (s2.slot c k).s = (s.slot c k).s ∧ (s2.slot c k).p = (s.slot c k).p ∧ (s2.slot c k).pc = (s.slot c k).pc
    ∧ (∀ i : Fin 32, i ∉ descsWritten w r → (s2.slot c k).t[i] = (s.slot c k).t[i])
    ∧ (s2.slot c k).ts = (s.slot c k).ts
    ∧ otherSlots s s2 c k
    ∧ s2 = { s with cores := s2.cores, regions := s2.regions, coreStore := s2.coreStore, accMem := s2.accMem, regionMem := s2.regionMem,
                    stacked := s2.stacked, hostMem := s2.hostMem, cmds := s2.cmds, log := s2.log, hif := s2.hif, nextReq := s2.nextReq,
                    freshCtr := s2.freshCtr }

/-- Where engine instructions store. Those that write no tile store nothing but accumulator slots; a copy or a tile result that goes to core
store writes TD's bytes and no other byte of any tier. -/
def Obligations.EngineInstructionStores : Prop :=
  ∀ (s : State) (c : CoreId) (k : KsId) (r : RowKind) (w : W128) (p : Plan) (s1 s2 : State),
    memoriesWf s = true → nextIs s c k r w → rowPlan s c k r (s.slot c k) w = .ok (some p) →
    s.makeResident c k p.names = .ok (some s1) → p.apply s1 = .ok s2 →
    (r ∈ [RowKind.mma, .mma3, .cmma, .movt, .sttContrib] →
      s2.coreStore = s1.coreStore ∧ s2.regionMem = s.regionMem ∧ sameStacked s s2 ∧ s2.hostMem = s.hostMem)
    ∧ (r ∈ [RowKind.ldt, .stt, .ldtWindow, .rot, .norm, .argmax, .gumbel] → wMode w 1 = false →
      s2.accMem = s.accMem
      ∧ ∀ d fmts ok, s.tileOp c k (wTD w) fmts ok = .ok d → d.core = true →
          s2.regionMem = s.regionMem ∧ sameStacked s s2 ∧ s2.hostMem = s.hostMem
          ∧ ∀ a, ¬ d.holds c a → s2.coreStore.read a 1 = s.coreStore.read a 1)

/-- The order of the issue checks, for every row (R52, R66): checks 1 and 2 trap whatever the predicate says; a predicate that turns the
instruction off makes it an empty step; checks 3 and 4 trap only a predicated-on instruction; a stop that waits for the next issue is taken
there. And the sequencer's choice among slots that may issue (R51): one slot has the turn, the highest queue priority first, but a slot passed
over for 64 cycles before any other. -/
def Obligations.EarlierChecksDecideFirst : Prop :=
  (∀ (s : State) (c : CoreId) (k : KsId) (r : RowKind) (w : W128), nextIs s c k r w → s.turn c k = true →
    (∀ st, check12 w = some st → ∃ t, exec (rowInstr r c k) s = .next t ∧ trapOf s t c k st (s.slot c k).pc)
    ∧ (check12 w = none → (s.slot c k).pendP.contains (wPred w) = false →
        ((s.slot c k).pred (wPred w) = wPneg w →
          exec (rowInstr r c k) s = .next (if (s.slot c k).stopsAtIssue then s.stopNow c k else afterIssue s c k (s.slot c k)))
        ∧ ((s.slot c k).pred (wPred w) ≠ wPneg w → ∀ st, check34 w r = some st →
            ∃ t, exec (rowInstr r c k) s = .next t ∧ trapOf s t c k st (s.slot c k).pc)))
  ∧ (∀ (s : State) (c : CoreId) (k : KsId) (r : RowKind) (w : W128), nextIs s c k r w → s.turn c k = false →
    (s.slot c k).pendP.contains (wPred w) = false → s.mayIssue c k w r = true → exec (rowInstr r c k) s = .next s)
  ∧ ∀ (s : State) (c : CoreId) (k j : KsId), s.ready c k = true → s.ready c j = true → s.turn c k = true →
    (s.turn c j = true → j = k)
    ∧ (64 ≤ s.cores[c].passed[j] → 64 ≤ s.cores[c].passed[k])
    ∧ ((∀ i : KsId, s.cores[c].passed[i] < 64) → s.slotPrio c j ≤ s.slotPrio c k)

/-- MOVT writes one descriptor register and nothing else: a copy, a descriptor loaded from memory whose reserved bits are clean, or a copy
with another BASE (R82). -/
def Obligations.MovtWritesOneDescriptor : Prop :=
  ∀ (s : State) (c : CoreId) (k : KsId) (w : W128) (v : W256),
    readyToIssue s c k .movt w → overcommit (s.slot c k).hdr [] = false → s.movtValue c k (s.slot c k) w = .ok v →
    ∃ t, exec (.movt c k) s = .next t
      ∧ (t.slot c k).t = (s.slot c k).t.set (wTD w) v
      ∧ (t.slot c k).ts = (s.slot c k).ts.set (wTD w) .pending
      ∧ (t.slot c k).s = (s.slot c k).s ∧ (t.slot c k).p = (s.slot c k).p ∧ (t.slot c k).pc = (s.slot c k).pc + 1
      ∧ sameMemory s t ∧ otherSlots s t c k
      ∧ (wFunc w = 0 → (s.slot c k).ts[wTA w] ≠ .invalid ∧ v = (s.slot c k).t[wTA w])
      ∧ (wFunc w = 2 → v.toNat = setFld ((s.slot c k).t[wTA w]).toNat 47 0
            ((s.slot c k).s[wReg w 64] + BitVec.ofInt 64 (sInt 32 (wHigh32 w))).toNat)

/-- The arithmetic of the scalar class (R84): one register or predicate written, the pc moved on, nothing else changed; division by zero
answers all ones, the remainder by zero the dividend, shifts use six bits of their count. -/
def Obligations.ScalarVopWritesOneRegister : Prop :=
  (∀ (s : State) (c : CoreId) (k : KsId) (w : W128), readyToIssue s c k .scalar w →
    let sl := s.slot c k
    let code := wFunc w % 128
    let a := sl.s[wReg w 44]
    let b := if 128 ≤ wFunc w then BitVec.ofNat 64 (wImm w) else sl.s[wReg w 38]
    (code ≤ 0x0E → exec (.vopScalar c k) s =
      .next (afterIssue s c k { sl with s := sl.s.set (wReg w 50) (scalarOp code a b) }))
    ∧ (code = 0x1F → exec (.vopScalar c k) s =
      .next (afterIssue s c k { sl with s := sl.s.set (wReg w 50) (BitVec.ofNat 64 (wImm w)) }))
    ∧ (0x10 ≤ code → code ≤ 0x15 → exec (.vopScalar c k) s =
      .next (afterIssue s c k (if wPD w = 0 then sl else { sl with p := sl.p.set (wPD w) (scalarCmp code a b) }))))
  ∧ (∀ a b : W64,
      scalarOp 0x00 a b = a + b ∧ scalarOp 0x01 a b = a - b ∧ scalarOp 0x02 a b = a * b
      ∧ scalarOp 0x03 a b = a &&& b ∧ scalarOp 0x04 a b = a ||| b ∧ scalarOp 0x05 a b = a ^^^ b
      ∧ scalarOp 0x06 a b = a <<< (b.toNat % 64) ∧ scalarOp 0x07 a b = a >>> (b.toNat % 64)
      ∧ (scalarOp 0x08 a b).toInt = a.toInt / 2 ^ (b.toNat % 64)
      ∧ (scalarOp 0x09 a b).toInt = min a.toInt b.toInt ∧ (scalarOp 0x0A a b).toInt = max a.toInt b.toInt
      ∧ (scalarOp 0x0B a b).toNat = min a.toNat b.toNat ∧ (scalarOp 0x0C a b).toNat = max a.toNat b.toNat
      ∧ (scalarOp 0x0D a b).toNat = (if b = 0 then 2 ^ 64 - 1 else a.toNat / b.toNat)
      ∧ (scalarOp 0x0E a b).toNat = (if b = 0 then a.toNat else a.toNat % b.toNat)
      ∧ (scalarCmp 0x10 a b = decide (a = b)) ∧ (scalarCmp 0x11 a b = decide (a ≠ b))
      ∧ (scalarCmp 0x12 a b = decide (a.toInt < b.toInt)) ∧ (scalarCmp 0x13 a b = decide (a.toNat < b.toNat))
      ∧ (scalarCmp 0x14 a b = decide (b.toInt ≤ a.toInt)) ∧ (scalarCmp 0x15 a b = decide (b.toNat ≤ a.toNat)))

/-- Scalar LD and ST (R84): LD writes SD with the eight bytes at SA + IMM and stores nothing; ST stores SB's eight bytes there, in core store
or in the home region's memory, and changes no other byte and no register. -/
def Obligations.ScalarLoadAndStore : Prop :=
  ∀ (s : State) (c : CoreId) (k : KsId) (w : W128), readyToIssue s c k .scalar w →
    let sl := s.slot c k
    let a := (sl.s[wReg w 44] + BitVec.ofNat 64 (wImm w)).toNat
    a % 8 = 0 →
    (∀ l bs, wFunc w % 128 = 0x18 → s.wordPlace c k a 8 false = .ok l → s.readLoc l 8 = .ok bs →
      ∃ t, exec (.vopScalar c k) s = .next t
        ∧ t.slot c k = { sl with pc := sl.pc + 1, s := sl.s.set (wReg w 50) (BitVec.ofNat 64 (leNat bs)) }
        ∧ otherSlots s t c k ∧ sameMemory s t
        ∧ t = { s with cores := t.cores, regions := t.regions, log := t.log, hif := t.hif })
    ∧ (∀ l x m, wFunc w % 128 = 0x19 → s.wordPlace c k a 8 true = .ok l → s.locErr l = none →
      (l = .core x → s.coreStore.write x (leBytes 8 (sl.s[wReg w 38]).toNat) = some m → ∃ t, exec (.vopScalar c k) s = .next t
        ∧ t.coreStore = m ∧ t.slot c k = { sl with pc := sl.pc + 1 } ∧ otherSlots s t c k
        ∧ t = { s with cores := t.cores, coreStore := t.coreStore, regions := t.regions, log := t.log, hif := t.hif })
      ∧ (l = .region x → s.regionMem.write x (leBytes 8 (sl.s[wReg w 38]).toNat) = some m → ∃ t, exec (.vopScalar c k) s = .next t
        ∧ t.regionMem = m ∧ t.slot c k = { sl with pc := sl.pc + 1 } ∧ otherSlots s t c k
        ∧ t = { s with cores := t.cores, regionMem := t.regionMem, regions := t.regions, log := t.log, hif := t.hif }))

/-- The branch class sets the pc to IMM, or to SA + IMM modulo 2^64, when that index exists, and traps with MALFORMED when it does not (R85,
R56). -/
def Obligations.BranchSetsPc : Prop :=
  ∀ (s : State) (c : CoreId) (k : KsId) (w : W128), readyToIssue s c k .branch w →
    let sl := s.slot c k
    let target := if wFunc w = 1 then (sl.s[wReg w 44].toNat + wImm w) % 2 ^ 64 else wImm w
    (target < sl.hdr.length → exec (.vopBranch c k) s =
      .next ((s.advance c k).updSlot c k (fun x => { x with pc := target })))
    ∧ (sl.hdr.length ≤ target → ∃ t, exec (.vopBranch c k) s = .next t ∧ trapOf s t c k 0x21 sl.pc)

/-- FENCE waits for what its bits name and then only moves the pc on, showing the instance's tokens when VISIBLE is set; FENCE with END waits
for everything, frees the slot and ends its instance, and the last instance makes a command without work sharing ready to commit (R55, R56).
CLAIM and COMMIT send a request to the atomic unit of the block's home region, leave their register pending and move the pc on; with a wrong
register, a wrong count or no counter they trap with MALFORMED (R86, R160, R161). -/
def Obligations.FencesClaimsAndCommits : Prop :=
  ((∀ (s : State) (c : CoreId) (k : KsId) (w : W128), readyToIssue s c k .fence w →
    (s.fenceOpen c k (wFunc w) = false → exec (.fenceInstruction c k) s = .next s)
    ∧ (s.fenceOpen c k (wFunc w) = true → exec (.fenceInstruction c k) s =
        .next ((if bit (wFunc w) 4 then s.showWrites c k else s).advance c k)))
  ∧ ∀ (s : State) (c : CoreId) (k : KsId) (w : W128) (q n : Nat) (cm : Cmd), readyToIssue s c k .fenceEnd w →
    (s.fenceOpen c k 0x1F = false → exec (.fenceEnd c k) s = .next s)
    ∧ (s.fenceOpen c k 0x1F = true → (s.slot c k).cmd = some (q, n) → s.cmd? q n = some cm → cm.phase = .dispatched →
        cm.type = tyKernel → cm.counter = 0 → cm.trap = none → cm.ending = none →
        ∃ t cm', exec (.fenceEnd c k) s = .next t ∧ t.slot c k = (s.slot c k).freed ∧ otherSlots s t c k
          ∧ t.cmd? q n = some cm'
          ∧ cm'.insts = cm.insts.map (fun i => if i.placed = some (c, k) ∧ i.ended = false
              then { i with ended := true, flags := i.flags.join (s.slot c k).flags } else i)
          ∧ cm'.flags = cm.flags.join (s.slot c k).flags
          ∧ cm'.phase = (if cm'.insts.all (·.ended) then .ready else .dispatched)
          ∧ sameMemory s t
          ∧ t = { s with cores := t.cores, regions := t.regions, cmds := t.cmds, argMaps := s.argMaps.filter (fun a => !(a.core == c && a.ks == k)) }))
  ∧ ((∀ (s : State) (c : CoreId) (k : KsId) (w : W128) (l : Loc) (g : RegionId), readyToIssue s c k .claim w →
    let sl := s.slot c k
    (1 ≤ wImm w ∧ wImm w ≤ 4096 ∧ sl.counter ≠ 0 ∧ sl.s[wReg w 44].toNat = sl.counter + 8 →
      s.xlate (some (regionOfCore c)) sl.ctx sl.counter true = .ok l → locRegion l = .ok g →
      ∃ t, exec (.claim c k) s = .next t
        ∧ t.slot c k = { sl with
            pc := sl.pc + 1
            resAge := sl.resAge + 1
            pendS := (wReg w 50).val :: sl.pendS
            atoms := sl.atoms ++ [{ req := s.nextReq, age := sl.resAge, commit := false, reg := (wReg w 50).val, tile := 0, index := sl.pc, reply := none }] }
        ∧ t.regions = s.regions.set g { s.regions[g] with
            atomQ := s.regions[g].atomQ ++ [.claim s.nextReq c k sl.counter (wImm w)] }
        ∧ t.nextReq = s.nextReq + 1 ∧ otherSlots s t c k
        ∧ t = { s with cores := t.cores, regions := t.regions, nextReq := t.nextReq })
    ∧ (¬ (1 ≤ wImm w ∧ wImm w ≤ 4096 ∧ sl.counter ≠ 0 ∧ sl.s[wReg w 44].toNat = sl.counter + 8) →
      ∃ t, exec (.claim c k) s = .next t ∧ trapOf s t c k 0x21 sl.pc))
  ∧ ∀ (s : State) (c : CoreId) (k : KsId) (w : W128) (l : Loc) (g : RegionId), readyToIssue s c k .commit w →
    let sl := s.slot c k
    (sl.counter ≠ 0 ∧ sl.s[wReg w 44].toNat = sl.bitmap →
      s.xlate (some (regionOfCore c)) sl.ctx sl.bitmap true = .ok l → locRegion l = .ok g →
      ∃ t, exec (.commit c k) s = .next t
        ∧ (t.slot c k).pc = sl.pc + 1
        ∧ (t.slot c k).pendP = (if wPD w = 0 then sl.pendP else (wPD w).val :: sl.pendP)
        ∧ t.regions = s.regions.set g { s.regions[g] with
            atomQ := s.regions[g].atomQ ++ [.commit s.nextReq c k sl.bitmap (sl.s[wReg w 38]).toNat] }
        ∧ t.nextReq = s.nextReq + 1 ∧ otherSlots s t c k
        ∧ t = { s with cores := t.cores, regions := t.regions, nextReq := t.nextReq })
    ∧ (¬ (sl.counter ≠ 0 ∧ sl.s[wReg w 44].toNat = sl.bitmap) →
      ∃ t, exec (.commit c k) s = .next t ∧ trapOf s t c k 0x21 sl.pc))


/-! ## Completions, replies, the atomic unit -/

/-- The oldest entry of an engine's queue completes: it leaves the queue, its tiles become RESIDENT, its flags join its slot's and an anvil's
counts rise; a slot that is stopping becomes FREE when this was its last entry, a gather that another device refused traps with MALFORMED, a
gather lets deferred releases run, and nothing else changes. One whose contribution is still under way stays (R48, R49, R50, R103, R126). -/
def Obligations.CompletionMakesTilesResident : Prop :=
  ∀ (s : State) (c : CoreId) (e : Engine) (x : InFlight) (rest : List InFlight), s.cores[c].queueOf e = x :: rest →
    ((∃ id, x.req = some id ∧ s.contribWaits id = true) → exec (.instructionComplete c e) s = .next s)
    ∧ ((∀ id, x.req = some id → s.contribWaits id = false) →
        ∃ t, exec (.instructionComplete c e) s = .next
            (let u := if s.refused x then t.fresh.trapSlotAt c x.ks 0x21 x.index else t.settleStop c x.ks
             if x.gather.isSome then u.runCulls else u)
          ∧ ((s.slot c x.ks).state ≠ .stopping → t.settleStop c x.ks = t)
          ∧ t.cores[c].queueOf e = rest
          ∧ (∀ e', e' ≠ e → t.cores[c].queueOf e' = s.cores[c].queueOf e')
          ∧ (∀ i : Fin 32, (t.slot c x.ks).ts[i] = if ∃ j ∈ x.writes, j % 32 = i.val then .resident else (s.slot c x.ks).ts[i])
          ∧ t.slot c x.ks = { s.slot c x.ks with ts := (t.slot c x.ks).ts, flags := (s.slot c x.ks).flags.join x.flags }
          ∧ t.cores[c].cntActive = s.cores[c].cntActive + (if e = .anvil then BitVec.ofNat 64 x.cycles else 0)
          ∧ t.cores[c].cntMac = (if e = .anvil then s.cores[c].cntMac + x.macs else s.cores[c].cntMac)
          ∧ otherSlots s t c x.ks ∧ t = { s with cores := t.cores })

/-- A reply of the atomic unit reaches its register: CLAIM's tile index its scalar register, COMMIT's its predicate (p0 stays as it is). A
slot asked to stop at a tile's commit goes to STOPPING there: what it issued after the COMMIT is discarded, the next tile is kept for its
command, and it is FREE once what it issued before has completed (R43, R44, R50, R162, R315). -/
def Obligations.AtomicRepliesReachRegisters : Prop :=
  ∀ (s : State) (c : CoreId) (k : KsId) (a : AtomWait) (v : W64),
    (s.slot c k).atoms.find? (fun x => x.reply.isSome) = some a → a.reply = some v →
    (a.commit = false → (s.slot c k).state = .running → ∃ t, exec (.atomicReply c k) s = .next t
      ∧ (∀ i : Fin 64, (t.slot c k).s[i] = if i.val = a.reg % 64 then v else (s.slot c k).s[i])
      ∧ t.slot c k = { s.slot c k with
          s := (t.slot c k).s, pendS := (s.slot c k).pendS.filter (· != a.reg), atoms := (s.slot c k).atoms.filter (fun x => x.req != a.req) }
      ∧ otherSlots s t c k ∧ t = { s with cores := t.cores })
    ∧ (a.commit = true → (s.slot c k).state = .running → (s.slot c k).stop ∉ [some .preempt, some .drain, some .region] →
      ∃ t, exec (.atomicReply c k) s = .next t
      ∧ (∀ i : Fin 8, (t.slot c k).p[i] = if i ≠ 0 ∧ i.val = a.reg % 8 then (v != 0) else (s.slot c k).p[i])
      ∧ t.slot c k = { s.slot c k with
          p := (t.slot c k).p, pendP := (s.slot c k).pendP.filter (· != a.reg), atoms := (s.slot c k).atoms.filter (fun x => x.req != a.req) }
      ∧ otherSlots s t c k ∧ t = { s with cores := t.cores })
    ∧ (a.commit = true → (s.slot c k).state = .running → (s.slot c k).stop ∈ [some .preempt, some .drain, some .region] →
      ∃ t, exec (.atomicReply c k) s = .next (t.settleStop c k)
        ∧ (t.slot c k).state = .stopping ∧ (t.slot c k).saved = BitVec.ofNat 64 (a.tile + 1)
        ∧ (∀ e, t.cores[c].queueOf e = (s.cores[c].queueOf e).filter (fun x => !(x.ks == k && a.age < x.age)))
        ∧ (t.slot c k).atoms = (s.slot c k).atoms.filter (fun x => x.req != a.req && x.age ≤ a.age)
        ∧ otherSlots s t c k ∧ sameMemory s t)
    ∧ (∀ q n cm, (s.slot c k).state = .stopping → s.inFlightOf c k = [] → (s.slot c k).atoms.filter (fun x => x.req != a.req) = [] →
      (s.slot c k).cmd = some (q, n) → s.cmd? q n = some cm → cm.trap = none → cm.ending = none →
      ∃ t cm', exec (.atomicReply c k) s = .next t ∧ t.slot c k = (s.slot c k).freed ∧ otherSlots s t c k ∧ t.cmd? q n = some cm'
        ∧ cm'.insts = cm.insts.map (fun i =>
            if i.placed = some (c, k) ∧ i.ended = false
            then { i with placed := none, resume := (s.slot c k).saved, flags := i.flags.join (s.slot c k).flags } else i)
        ∧ sameMemory s t)

/-- A trap's record: the slot becomes FREE, keeping its flags to be read, the command keeps the trap that R60 prefers, every other instance of
it is asked to stop at its next issue, and once none of them holds a kernel slot the command ends with the trap's status and nothing
committed. Which of two traps is reported: by status DATA_ERROR, ACC_OVERCOMMIT, LIMIT, MALFORMED, VERSION, then the lower core, then the
lower index, whatever the order they are recorded in. -/
def Obligations.TrapRecordEndsCommand : Prop :=
  (∀ (s : State) (c : CoreId) (k : KsId) (st idx q n : Nat) (cm : Cmd),
    (s.slot c k).state = .trapped → (s.slot c k).trap = some (st, idx) → (s.slot c k).cmd = some (q, n) → s.cmd? q n = some cm →
    cm.phase ≠ .ended →
    let rec1 : TrapRec := { status := st, core := c.val, ks := k.val, index := idx }
    let best : TrapRec := match cm.trap with
      | some o => o.pick rec1
      | none => rec1
    ∃ s1 cm1, s1.slot c k = (s.slot c k).freed ∧ s1.cmd? q n = some cm1 ∧ cm1.trap = some best ∧ cm1.phase = cm.phase
      ∧ cm1.flags = cm.flags.join (s.slot c k).flags
      ∧ (∀ c' k', (c', k') ≠ (c, k) →
          s1.slot c' k' = (if (∃ i ∈ cm.insts, i.placed = some (c', k') ∧ i.ended = false)
              ∧ ((s.slot c' k').state = .running ∨ (s.slot c' k').state = .loading)
            then { s.slot c' k' with stop := some .abort } else s.slot c' k'))
      ∧ s1 = { s with cores := s1.cores, regions := s1.regions, cmds := s1.cmds, argMaps := s1.argMaps }
      ∧ ((∃ i ∈ cm.insts, ∃ p, i.ended = false ∧ i.placed = some p ∧ p ≠ (c, k)) → exec (.trapRecord c k) s = .next s1)
      ∧ ((∀ i ∈ cm.insts, i.ended = false → i.placed = none ∨ i.placed = some (c, k)) →
          exec (.trapRecord c k) s = .next (s1.endCmd q n best.status false)))
  ∧ ((∀ a b : TrapRec, a.pick b = a ∨ a.pick b = b)
  ∧ (∀ a b : TrapRec, trapRank a.status < trapRank b.status → a.pick b = a ∧ b.pick a = a)
  ∧ (∀ a b : TrapRec, trapRank a.status = trapRank b.status → a.core < b.core → a.pick b = a ∧ b.pick a = a)
  ∧ (∀ a b : TrapRec, trapRank a.status = trapRank b.status → a.core = b.core → a.index < b.index → a.pick b = a ∧ b.pick a = a)
  ∧ (∀ a b d : TrapRec, (a.pick b).pick d = a.pick (b.pick d))
  ∧ trapRank 0x10 < trapRank 0x23 ∧ trapRank 0x23 < trapRank 0x22 ∧ trapRank 0x22 < trapRank 0x21 ∧ trapRank 0x21 < trapRank 0x20)

/-- The atomic unit answers one CLAIM, COMMIT or contribution at a time, the first of its kind: the request leaves the unit, the answer goes
to the slot that asked, and the region's counters count it. A contribution applied joins its flags into the slot that made it, one whose id
has been applied is dropped and counted, one ahead of its turn is staged and counted for its slot and its command, and one answered RETRY
waits in its slot and is sent again (R147, R150, R153, R158, R159, R163, R167). A tile commits once: a second COMMIT of it is answered 0; a
CLAIM in RUN answers the counter as it stood. -/
def Obligations.AtomicUnitAnswers : Prop :=
  ((∀ (s s1 : State) (g : RegionId) (pre post : List AtomReq) (id cb imm v : Nat) (c : CoreId) (k : KsId),
    s.regionState g = .inService → s.regions[g].atomQ = pre ++ .claim id c k cb imm :: post →
    (∀ r ∈ pre, ∀ i c' k' x y, r ≠ .claim i c' k' x y) → (claimAct (s.slot c k).ctx cb imm).run s = .ok (v, s1) →
    ∃ t, exec (.atomicClaim g) s = .next t
      ∧ t.regions[g].atomQ = s1.regions[g].atomQ.filter (fun x => x.id != id)
      ∧ t.regions[g].cnt = { s1.regions[g].cnt with tileClaim := s1.regions[g].cnt.tileClaim + 1 }
      ∧ t.slot c k = { s1.slot c k with
          atoms := (s1.slot c k).atoms.map (fun a => if a.req = id then { a with reply := some (BitVec.ofNat 64 v) } else a) }
      ∧ otherSlots s1 t c k ∧ t = { s1 with cores := t.cores, regions := t.regions })
  ∧ (∀ (s s1 : State) (g : RegionId) (pre post : List AtomReq) (id bm tile v : Nat) (c : CoreId) (k : KsId),
    s.regionState g = .inService → s.regions[g].atomQ = pre ++ .commit id c k bm tile :: post →
    (∀ r ∈ pre, ∀ i c' k' x y, r ≠ .commit i c' k' x y) → (commitAct (s.slot c k).ctx bm tile).run s = .ok (v, s1) →
    ∃ t, exec (.atomicCommit g) s = .next t
      ∧ t.regions[g].atomQ = s1.regions[g].atomQ.filter (fun x => x.id != id)
      ∧ t.regions[g].cnt.tileDup = s1.regions[g].cnt.tileDup + (if v = 0 then 1 else 0)
      ∧ t.slot c k = { s1.slot c k with
          atoms := (s1.slot c k).atoms.map (fun a => if a.req = id then { a with reply := some (BitVec.ofNat 64 v) } else a) }
      ∧ otherSlots s1 t c k ∧ t = { s1 with cores := t.cores, regions := t.regions })
  ∧ (∀ (s s1 : State) (g : RegionId) (id ctx rslot rows cols index : Nat) (c : CoreId) (k : KsId) (tag : W64) (td : W256)
      (es : List W64) (ans : Answer), s.regionState g = .inService →
    firstReq s.regions[g].atomQ AtomReq.isContrib = some (.contrib id c k ctx tag rslot td rows cols es index) →
    (applyContrib g (destOf ctx td rows cols) rslot (fld tag.toNat 15 0) (fld tag.toNat 63 32) (s.placedAs c k)
      (es.map (·.toNat))).run s = .ok (ans, s1) →
    ∃ t, exec (.atomicContribution g) s = .next t
      ∧ t.regions[g].atomQ = s1.regions[g].atomQ.filter (fun x => x.id != id)
      ∧ (∀ n f, ans = .applied n f [] →
          t.regions[g].cnt = { s1.regions[g].cnt with applied := s1.regions[g].cnt.applied + BitVec.ofNat 64 n }
          ∧ t.slot c k = { s1.slot c k with flags := (s1.slot c k).flags.join f }
          ∧ otherSlots s1 t c k ∧ t = { s1 with cores := t.cores, regions := t.regions })
      ∧ (∀ n f others, ans = .applied n f others →
          t.regions[g].cnt = { s1.regions[g].cnt with applied := s1.regions[g].cnt.applied + BitVec.ofNat 64 n }
          ∧ t = { s1 with cores := t.cores, regions := t.regions, cmds := t.cmds })
      ∧ (ans = .dropped →
          t.regions[g].cnt = { s1.regions[g].cnt with dup := s1.regions[g].cnt.dup + 1 }
          ∧ t = { s1 with regions := t.regions })
      ∧ (ans = .staged →
          t.slot c k = { s1.slot c k with staged := (s1.slot c k).staged + 1 }
          ∧ (∀ q n cm, (s1.slot c k).cmd = some (q, n) → s1.cmd? q n = some cm →
              t.cmd? q n = some { cm with staged := cm.staged + 1 })
          ∧ otherSlots s1 t c k ∧ t = { s1 with cores := t.cores, regions := t.regions, cmds := t.cmds })
      ∧ (ans = .retry →
          t.regions[g].cnt = { s1.regions[g].cnt with retry := s1.regions[g].cnt.retry + 1 }
          ∧ t.slot c k = { s1.slot c k with
              retries := (s1.slot c k).retries ++ [(g.val, .contrib id c k ctx tag rslot td rows cols es index)] }
          ∧ otherSlots s1 t c k ∧ t = { s1 with cores := t.cores, regions := t.regions }))
  ∧ (∀ (s : State) (c : CoreId) (k : KsId) (g : RegionId) (r : AtomReq) (rest : List (Nat × AtomReq)),
    (s.slot c k).retries = (g.val, r) :: rest →
    ∃ t, exec (.contributionRetry c k) s = .next t
      ∧ t.slot c k = { s.slot c k with retries := rest }
      ∧ t.regions = s.regions.set g { s.regions[g] with atomQ := s.regions[g].atomQ ++ [r] }
      ∧ otherSlots s t c k ∧ t = { s with cores := t.cores, regions := t.regions }))
  ∧ ((∀ (s s1 s2 : State) (ctx bm tile v : Nat), memoriesWf s = true → (commitAct ctx bm tile).run s = .ok (1, s1) →
    (commitAct ctx bm tile).run s1 = .ok (v, s2) →
    s1.xlateRange none ctx (bm + 0x40 + tile / 8) 1 false = s.xlateRange none ctx (bm + 0x40 + tile / 8) 1 false →
    v = 0)
  ∧ (∀ (s s1 s2 : State) (ctx cb imm v w0 : Nat), (claimAct ctx cb imm).run s = .ok (v, s1) →
    (getNat ctx cb 4).run s = .ok (w0, s2) → fld w0 17 16 = 1 → ∃ s3, (getNat ctx (cb + 8) 8).run s = .ok (v, s3)))

/-! ## Queues and dispatch -/

/-- R302: a doorbell moves the queue's TAIL and nothing else when it is an aligned 64-bit write through the context's home port with the
queue's generation, zero upper bits and a TAIL at most DEPTH ahead of COMPLETED; any other is counted, logged and ignored; before READY it is
refused (R403). -/
def Obligations.DoorbellMovesTail : Prop :=
  (∀ (s : State) (h : HostPort) (q width : Nat) (word : W64), s.pwr.current ≠ 3 → s.isReady = true → lookup s.queues q = none →
    ∃ t r, exec (.doorbell h q width word) s = .next t ∧ t.cntDbIgnored = s.cntDbIgnored + 1
      ∧ t.log.recs = List.take 8192 (r :: s.log.recs) ∧ r.source = 10 ∧ r.cause = 1
      ∧ t = { s with cntDbIgnored := t.cntDbIgnored, log := t.log })
  ∧ ∀ (s : State) (h : HostPort) (q width : Nat) (word : W64) (qu : Queue) (cx : Ctx), s.pwr.current ≠ 3 →
    lookup s.queues q = some qu → lookup s.ctxs qu.ctx = some cx →
    (s.isReady = true →
      (width = 8 ∧ qu.state = .active ∧ word.extractLsb' 32 16 = qu.gen ∧ word.extractLsb' 48 16 = 0 ∧ cx.home = h
          ∧ (word.extractLsb' 0 32 - BitVec.ofNat 32 qu.completed).toNat ≤ qu.depth →
        ∃ t, exec (.doorbell h q width word) s = .next t
          ∧ lookup t.queues q = some { qu with tail := word.extractLsb' 0 32 }
          ∧ (∀ q', q' ≠ q → lookup t.queues q' = lookup s.queues q') ∧ t = { s with queues := t.queues })
      ∧ (¬ (width = 8 ∧ qu.state = .active ∧ word.extractLsb' 32 16 = qu.gen ∧ word.extractLsb' 48 16 = 0 ∧ cx.home = h
          ∧ (word.extractLsb' 0 32 - BitVec.ofNat 32 qu.completed).toNat ≤ qu.depth) →
        ∃ t r, exec (.doorbell h q width word) s = .next t ∧ t.cntDbIgnored = s.cntDbIgnored + 1
          ∧ t.log.recs = List.take 8192 (r :: s.log.recs) ∧ r.source = 10 ∧ r.cause = 1
          ∧ t = { s with cntDbIgnored := t.cntDbIgnored, log := t.log }))
    ∧ (s.isReady = false → ∃ t, exec (.doorbell h q width word) s = .next t
        ∧ t.hif[h].cntBar4Refused = s.hif[h].cntBar4Refused + 1 ∧ t = { s with hif := t.hif, log := t.log })

/-- A queue's next command is read at its ring place and accepted: it enters the command store waiting, ACCEPTED goes up by one and the
status block says so (R303, R325, R326); a read that fails leaves ACCEPTED and is retried (R304). Writes of Galwin's own that had to wait are made
when they can be: a command that could not be accepted is accepted, a status block that could not be written is written (R462). -/
def Obligations.CommandsAreAcceptedInOrder : Prop :=
  (∀ (s : State) (q : Nat) (qu : Queue) (i : Instr), lookup s.queues q = some qu → s.mayFetch qu = true →
    (i = .commandAccept q ∧ qu.fetchFailed = false ∧ s.acceptsFrom q = true ∨ i = .commandFetchRetry q ∧ qu.fetchFailed = true) →
    (∀ bs s1, s.readVirt none qu.ctx (qu.cmdRing + 64 * (qu.accepted % qu.depth)) 64 = .ok bs →
      ((s.noteVirt none qu.ctx qu.nextVA 64).updQueue q (fun x => { x with fetchFailed := false })).writeVirt none qu.ctx
        qu.statusBlock ({ qu with accepted := qu.accepted + 1 } : Queue).statusBytes = .ok s1 →
      ∃ t cm, exec i s = .next t ∧ t.cmds = s.cmds ++ [cm]
        ∧ cm.q = q ∧ cm.n = qu.accepted + 1 ∧ cm.bytes = bs ∧ cm.phase = .waiting ∧ cm.prio = qu.prio ∧ cm.acceptedAt = s.timeNs
        ∧ cm.held = false ∧ cm.mark = false ∧ cm.insts = []
        ∧ lookup t.queues q = some { qu with accepted := qu.accepted + 1, fetchFailed := false }
        ∧ t = { s1 with queues := t.queues, cmds := t.cmds, acceptCtr := s.acceptCtr + 1, acceptTurn := t.acceptTurn })
    ∧ (∀ st note, s.readVirt none qu.ctx (qu.cmdRing + 64 * (qu.accepted % qu.depth)) 64 = .error (.status st note) →
      ∃ t, exec i s = .next t ∧ lookup t.queues q = some { qu with fetchFailed := true }
        ∧ t.cntFetchFail = s.cntFetchFail + 1 ∧ t.cmds = s.cmds ∧ sameMemory s t))
  ∧ (∀ (s s1 : State) (q : Nat) (qu : Queue), lookup s.queues q = some qu → (∀ x ∈ s.cmds, x.q = q → x.phase ≠ .ended) →
    (∀ bs logged, qu.held = [(.accepted bs, logged)] →
      s.writeVirt none qu.ctx qu.statusBlock ({ qu with accepted := qu.accepted + 1 } : Queue).statusBytes = .ok s1 →
      ∃ t cm, exec (.heldWriteRetry q) s = .next t ∧ t.cmds = s.cmds ++ [cm] ∧ cm.q = q ∧ cm.n = qu.accepted + 1 ∧ cm.bytes = bs
        ∧ cm.phase = .waiting ∧ lookup t.queues q = some { qu with accepted := qu.accepted + 1, held := [] }
        ∧ t = { s1 with queues := t.queues, cmds := t.cmds, acceptCtr := s.acceptCtr + 1, acceptTurn := t.acceptTurn })
    ∧ (∀ logged, qu.held = [(.status, logged)] → s.writeVirt none qu.ctx qu.statusBlock qu.statusBytes = .ok s1 →
      ∃ t, exec (.heldWriteRetry q) s = .next t ∧ lookup t.queues q = some { qu with held := [] }
        ∧ t = { s1 with queues := t.queues }))

/-- The order of dispatch (R312): the waiting commands are taken by priority, then acceptance, then queue. The first of them that is not passed
over, when its order within its queue, its checks and its resources let it go, is granted, its wait counted the first time; but while a
command before it in the order has reached the end of its ageing and waits for one of its resources, it is not. Ageing raises a waiting
command's priority by one up to 7, and then marks it as one that no other overtakes. -/
def Obligations.DispatchTakesTheFirst : Prop :=
  (∀ l : List Cmd, (sortCmds l).Perm l ∧ (sortCmds l).Pairwise (fun a b => b.before a = false))
  ∧ (∀ a b : Cmd, a.before b = true ↔ b.prio < a.prio ∨ (a.prio = b.prio ∧ (a.acceptedAt < b.acceptedAt
      ∨ (a.acceptedAt = b.acceptedAt ∧ (a.q < b.q ∨ (a.q = b.q ∧ a.acceptIdx < b.acceptIdx))))))
  ∧ (∀ (s : State) (cm : Cmd) (pre post : List Cmd) (qu : Queue), s.pwr.current = 0 →
    (∀ x ∈ s.cmds, x.phase ≠ .granted) → sortCmds (s.cmds.filter (fun x => x.phase == .waiting)) = pre ++ cm :: post →
    (∀ x ∈ pre, passedOver s x) →
    lookup s.queues cm.q = some qu → s.cmd? cm.q cm.n = some cm → s.dispatchable s.quenched cm = true → s.orderOk cm = true →
    s.ifOkHolds cm = true → s.checks14 cm qu = none →
    ((∀ r ∈ s.needs cm qu.ctx, s.missing cm qu s.fls.quench.isSome r = false ∧ ∀ x ∈ pre, ¬ keepsBack s x r) →
      ∃ t, exec .commandDispatch s = .next t
        ∧ t.cmd? cm.q cm.n = some { cm with phase := .granted, counted := true }
        ∧ (∀ q n, (q, n) ≠ (cm.q, cm.n) → t.cmd? q n = s.cmd? q n)
        ∧ t.acctWait = (if cm.counted then s.acctWait else bump s.acctWait qu.ctx (BitVec.ofNat 64 (s.timeNs - cm.acceptedAt)))
        ∧ t = { s with cmds := t.cmds, acctWait := t.acctWait })
    ∧ (post = [] → (∃ r ∈ s.needs cm qu.ctx, ∃ x ∈ pre, keepsBack s x r) → exec .commandDispatch s = .next s))
  ∧ (∀ (s : State) (q n : Nat) (cm : Cmd), s.cmd? q n = some cm → cm.phase = .waiting → cm.held = false → s.orderOk cm = true →
    ∃ t, exec (.dispatchAgeing q n) s = .next t
      ∧ t.cmd? q n = some (if cm.prio < 7 then { cm with prio := cm.prio + 1 } else { cm with capped := true })
      ∧ (∀ q' n', (q', n') ≠ (q, n) → t.cmd? q' n' = s.cmd? q' n')
      ∧ t = { s with cmds := t.cmds })

/-- The checks of every command before its own chapter's (R307): the ABI, a TYPE of the table, reserved fields, ranges, in that order; a
command that fails one is completed with that status and is not granted. -/
def Obligations.FirstChecksInOrder : Prop :=
  ∀ (s : State) (cm : Cmd) (qu : Queue),
    (fld (cm.at 0 4) 15 8 ≠ qu.major ∨ qu.minor < fld (cm.at 0 4) 7 0 → s.checks14 cm qu = some 0x20)
    ∧ (fld (cm.at 0 4) 15 8 = qu.major → fld (cm.at 0 4) 7 0 ≤ qu.minor →
        (cm.type = 0 ∨ 0x0B < cm.type → s.checks14 cm qu = some 0x21)
        ∧ (1 ≤ cm.type → cm.type ≤ 0x0B →
            (cm.reservedClean = false → s.checks14 cm qu = some 0x20)
            ∧ (cm.reservedClean = true → s.rangeClean cm qu.ctx = false → s.checks14 cm qu = some 0x21)))
    ∧ (∀ st, s.pwr.current = 0 → (∀ x ∈ s.cmds, x.phase ≠ .granted) →
        s.cmds.filter (fun x => x.phase == .waiting) = [cm] → s.checks14 cm qu = some st → lookup s.queues cm.q = some qu →
        s.dispatchable s.quenched cm = true → s.orderOk cm = true → s.ifOkHolds cm = true →
        exec .commandDispatch s = .next (s.endCmd cm.q cm.n st false))

/-- Records are posted in queue order (R311): only the command after the last one posted, once it has ended and its writes are made; its 32
bytes go to its ring place, COMPLETED moves, and the command leaves the store. -/
def Obligations.RecordsInQueueOrder : Prop :=
  ∀ (s : State) (q : Nat) (qu : Queue), lookup s.queues q = some qu → qu.postHeld = false → qu.state = .active →
    ((∀ cm, s.cmd? q (qu.completed + 1) = some cm → cm.phase ≠ .ended ∨ cm.settled = false) → s.postNext q = s)
    ∧ (∀ cm s1 s2, s.cmd? q (qu.completed + 1) = some cm → cm.phase = .ended → cm.settled = true →
        s.writeVirt none qu.ctx (qu.cplRing + 32 * (qu.completed % qu.depth)) (cm.record qu.depth) = .ok s1 →
        s1.writeVirt none qu.ctx qu.statusBlock ({ qu with completed := qu.completed + 1 } : Queue).statusBytes = .ok s2 →
        lookup (s.postNext q).queues q = some { qu with
            completed := qu.completed + 1, prevOk := if cm.type = tyHint then qu.prevOk else some cm.mark }
        ∧ (s.postNext q).cmd? q (qu.completed + 1) = none
        ∧ (s.postNext q).stacked = s2.stacked ∧ (s.postNext q).regionMem = s2.regionMem ∧ (s.postNext q).hostMem = s2.hostMem)
    ∧ (∀ cm depth, ((cm : Cmd).record depth).length = 32)

/-! ## Kernels -/

/-- A granted KERNEL whose header and chapter checks pass dispatches (R39, R40, R11): its instances, one to MAX_INSTANCES, wait for places,
its targets are in flight; a header or a check that fails completes it with that status; with units that no core in service has, or no region
of its role, it fails with LIMIT (R19, R130). -/
def Obligations.KernelDispatches : Prop :=
  ∀ (s : State) (q n : Nat) (cm : Cmd) (qu : Queue), s.cmd? q n = some cm → cm.phase = .granted → cm.type = tyKernel →
    lookup s.queues q = some qu →
    (∀ st, s.kernelHeader qu.ctx qu.major qu.minor (cm.at 0x10 8) = .ok (.error st) →
      exec (.kernel q n) s = .next ((s.noteVirt none qu.ctx (cm.at 0x10 8) 64).endCmd q n st false))
    ∧ (∀ h, s.kernelHeader qu.ctx qu.major qu.minor (cm.at 0x10 8) = .ok (.ok h) →
        let s0 := s.noteVirt none qu.ctx (cm.at 0x10 8) (64 + 16 * h.length)
        (s0.unitsFit h = false → exec (.kernel q n) s = .next (s0.endCmd q n 0x22 false))
        ∧ (∀ st nt, s0.unitsFit h = true → (kernelAct qu.ctx cm h).run s0 = .error (.status st nt) →
            exec (.kernel q n) s = .next ((s0.noteErr nt).failCmd q n st))
        ∧ (∀ ids bm j s1, s0.unitsFit h = true → (kernelAct qu.ctx cm h).run s0 = .ok ((ids, bm, j), s1) →
          ((∀ g : RegionId, roleAllows s.regions[g].roleNow qu.role = false) → exec (.kernel q n) s = .next (s0.endCmd q n 0x22 false))
          ∧ ((∃ g : RegionId, roleAllows s.regions[g].roleNow qu.role = true ∧ s.regionState g ≠ .fenced) →
            ∃ t cm', exec (.kernel q n) s = .next t ∧ t.cmd? q n = some cm'
              ∧ cm'.phase = .dispatched ∧ cm'.hdr = h ∧ cm'.args = cm.at 0x18 8 ∧ cm'.counter = cm.at 0x20 8
              ∧ cm'.targets = ids ∧ cm'.bitmap = bm ∧ cm'.jstep = j
              ∧ 1 ≤ cm'.insts.length ∧ cm'.insts.length ≤ h.maxInst
              ∧ (∀ x ∈ cm'.insts, x.placed = none ∧ x.ended = false ∧ x.resume = 0)
              ∧ (∀ i ∈ ids, ∀ x, lookup t.seqs i = some x → x.inFlight = true)
              ∧ t = { s1 with cmds := t.cmds, seqs := t.seqs, freshCtr := t.freshCtr })))

/-- An instance is placed on the best core that takes it (R313, R43 to R45): its slot is LOADING with its registers cleared, its place in its
command, its count, its resume value and the capability words in s1, s2, s5, s60 and s61, every descriptor INVALID and every predicate 0; its
argument block lies in the home region's memory, mapped for it, and no other byte of memory changes. -/
def Obligations.PlacementFillsASlot : Prop :=
  ∀ (s : State) (q n : Nat) (cm : Cmd) (qu : Queue) (i : Inst) (c : CoreId) (k : KsId) (base : Nat) (bs : List Byte),
    s.cmd? q n = some cm → lookup s.queues q = some qu → cm.phase = .dispatched → cm.type = tyKernel → cm.held = false → cm.trap = none →
    cm.ending = none → s.quenched qu.ctx = false → s.coresHeld cm = false → cm.nextInst = some i →
    s.bestCore (s.anchor qu.ctx (cm.at 0x38 8) (cm.at 0x20 8)) (s.coreTakes qu.ctx qu.role cm.hdr cm.bannedRegions) = some c →
    s.cores[c].freeSlot? = some k → s.cores[c].freeStore cm.hdr.storeBytes = some base →
    s.readVirt none qu.ctx cm.args cm.hdr.argBytes = .ok bs →
    ∃ t cm', exec (.instancePlacement q n) s = .next t
      ∧ (let sl := t.slot c k
         sl.state = .loading ∧ sl.ctx = qu.ctx ∧ sl.pc = cm.hdr.entry ∧ sl.image = cm.at 0x10 8 ∧ sl.csBase = base ∧ sl.cmd = some (q, n)
         ∧ (∀ r : Fin 64, sl.s[r] = if r = 1 then BitVec.ofNat 64 i.index else if r = 2 then BitVec.ofNat 64 cm.insts.length
              else if r = 5 then i.resume else if r = 60 then BitVec.ofNat 64 s.cores[c].cap0 else if r = 61 then 0xFFF else 0)
         ∧ (∀ r : Fin 32, sl.ts[r] = .invalid ∧ sl.t[r] = 0) ∧ (∀ r : Fin 8, sl.p[r] = false)
         ∧ sl.argVA = (if cm.hdr.argBytes = 0 then 0 else argBlockAt c k) ∧ sl.trap = none ∧ sl.stop = none)
      ∧ t.argMaps = (if bs = [] then s.argMaps else
          { core := c, ks := k, ctx := qu.ctx, va := argBlockAt c k, len := bs.length, addr := argPlace c k } :: s.argMaps)
      ∧ (memoriesWf s = true → t.regionMem.read (argPlace c k) bs.length = some bs)
      ∧ (∀ a, (a < argPlace c k ∨ argPlace c k + ceilDiv bs.length 32 * 32 ≤ a) → t.regionMem.read a 1 = s.regionMem.read a 1)
      ∧ t.cmd? q n = some cm'
      ∧ cm'.insts = cm.insts.map (fun j => if j.index = i.index then { j with placed := some (c, k) } else j)
      ∧ otherSlots s t c k ∧ sameStacked s t
      ∧ t = { s with cores := t.cores, cmds := t.cmds, nextReq := s.nextReq + 1, argMaps := t.argMaps, regionMem := t.regionMem,
                     stacked := t.stacked, regions := t.regions, log := t.log, hif := t.hif }

/-- The life of a placed slot up to its first instruction and its way out: LOADING ends with the launch registers of R44 once the first
instruction is there; a miss brings the instruction into the core's cache, traps past the image's end with MALFORMED, and traps with the
status of a read that fails; a decision to pre-empt only asks the victim to stop (R43, R44, R56, R58, R315). -/
def Obligations.SlotsLoadFetchAndYield : Prop :=
  (∀ (s : State) (c : CoreId) (k : KsId), s.coreUp c = true → (s.slot c k).state = .loading →
    (s.fetched c k ≠ none ∨ ∃ bs, (s.slot c k).pc < (s.slot c k).hdr.length
      ∧ s.readVirt (some (regionOfCore c)) (s.slot c k).ctx ((s.slot c k).image + 0x40 + 16 * (s.slot c k).pc) 16 = .ok bs) →
    ∃ t, exec (.loadingComplete c k) s = .next t ∧ (t.slot c k).state = .running
      ∧ (∀ r : Fin 64, (t.slot c k).s[r] =
          if r = 0 then BitVec.ofNat 64 (s.slot c k).argVA else if r = 3 then BitVec.ofNat 64 c.val
          else if r = 4 then BitVec.ofNat 64 (s.slot c k).ctx else if r = 62 then BitVec.ofNat 64 (s.slot c k).csBase
          else if r = 63 then BitVec.ofNat 64 ((s.slot c k).csUnits * 65536) else (s.slot c k).s[r])
      ∧ t.slot c k = { s.slot c k with state := .running, s := (t.slot c k).s }
      ∧ t.fetched c k ≠ none ∧ otherSlots s t c k ∧ sameMemory s t
      ∧ t = { s with cores := t.cores, stacked := t.stacked, regions := t.regions, log := t.log, hif := t.hif })
  ∧ (∀ (s : State) (c : CoreId) (k : KsId), s.coreUp c = true → (s.slot c k).state = .running → (s.slot c k).round = none →
    (s.slot c k).stopsAtIssue = false →
    ((s.slot c k).hdr.length ≤ (s.slot c k).pc →
      ∃ t, exec (.instructionFetchMiss c k) s = .next t ∧ trapOf s t c k 0x21 (s.slot c k).pc)
    ∧ ((s.slot c k).pc < (s.slot c k).hdr.length → s.fetched c k = none →
      (∀ bs, s.readVirt (some (regionOfCore c)) (s.slot c k).ctx ((s.slot c k).image + 0x40 + 16 * (s.slot c k).pc) 16 = .ok bs →
        ∃ t, exec (.instructionFetchMiss c k) s = .next t ∧ t.fetched c k = some (BitVec.ofNat 128 (leNat bs))
          ∧ (∀ c' k', t.slot c' k' = s.slot c' k') ∧ sameMemory s t
          ∧ t = { s with cores := t.cores, stacked := t.stacked, regions := t.regions, log := t.log, hif := t.hif })
      ∧ (∀ st nt, s.readVirt (some (regionOfCore c)) (s.slot c k).ctx ((s.slot c k).image + 0x40 + 16 * (s.slot c k).pc) 16
            = .error (.status st nt) →
        ∃ t, exec (.instructionFetchMiss c k) s = .next t ∧ trapOf (s.noteErr nt) t c k st (s.slot c k).pc)))
  ∧ (∀ (s : State) (q n : Nat) (cm : Cmd) (qu : Queue) (h : KHeader) (c : CoreId) (k : KsId), s.cmd? q n = some cm →
    lookup s.queues q = some qu → s.waitsForCore cm = true →
    s.kernelHeader qu.ctx qu.major qu.minor (cm.at 0x10 8) = .ok (.ok h) →
    (∀ c', s.coreTakes qu.ctx qu.role h cm.bannedRegions c' = false) → s.victim cm qu h = some (c, k) →
    ∃ t, exec (.preemptionDecision q n) s = .next t ∧ t.slot c k = { s.slot c k with stop := some .preempt }
      ∧ otherSlots s t c k ∧ t = { s with cores := t.cores }
      ∧ (s.slot c k).state = .running ∧ ∃ x ∈ s.cmds, x.prio < cm.prio ∧ x.counter ≠ 0 ∧ ∃ y ∈ x.insts, y.placed = some (c, k))

/-! ## The other command types -/

/-- COPY moves its rows in turn, a row being its source's bytes written at the destination, and is then ready to commit; one whose
destination is flash keeps its rows until its commit writes them; one that fails a check ends with that status, and one whose access fails
leaves its destination unspecified. FILL writes its pattern, byte x mod 8 of it at address x; with DISCARD its commit unmaps blocks, which
then read zero (R275, R278, R280, R288). -/
def Obligations.CopyAndFillMoveBytes : Prop :=
  ((∀ (s : State) (q n : Nat) (cm : Cmd), s.cmd? q n = some cm → cm.phase = .granted → cm.type = tyCopy →
    let ctx := s.queueCtx q
    let src := cm.srcExtent
    let dst := cm.dstExtent
    (∀ st, s.copyCheck ctx [src, dst] (dst.kind == 1) (src.overlaps dst) = some st → exec (.copy q n) s = .next (s.endCmd q n st false))
    ∧ (s.copyCheck ctx [src, dst] (dst.kind == 1) (src.overlaps dst) = none →
      (∀ s1, dst.kind ≠ 1 → copyRows ctx src dst (List.range src.rows) (s.noteFlash src) = (s1, none) →
        exec (.copy q n) s = .next ((s1.spoilAliased ctx src dst).updCmd q n (fun x => { x with phase := .ready })))
      ∧ (∀ s1 e, dst.kind ≠ 1 → copyRows ctx src dst (List.range src.rows) (s.noteFlash src) = (s1, some e) → e.final = true →
        exec (.copy q n) s = .next ((s1.spoilExtent ctx dst).cmdErr q n e))
      ∧ (∀ rows, dst.kind = 1 → (List.range src.rows).mapM (fun r => (s.noteFlash src).readExtent ctx src r) = .ok rows →
        ∃ t, exec (.copy q n) s = .next t
          ∧ t.cmd? q n = some { cm with phase := .ready, saves := [(dst.addr * 4096, rows.flatten)] }
          ∧ sameMemory s t ∧ t.fls = (s.noteFlash src).fls)))
  ∧ (∀ (s s1 : State) (ctx r : Nat) (src dst : Extent) (rest : List Nat) (bs : List Byte), src.kind = 0 → dst.kind = 0 →
    s.readVirt none ctx (src.addr + r * src.stride) src.rowBytes = .ok bs →
    (s.noteVirt none ctx (src.addr + r * src.stride) src.rowBytes).writeVirt none ctx (dst.addr + r * dst.stride) bs = .ok s1 →
    copyRows ctx src dst (r :: rest) s = copyRows ctx src dst rest s1)
  ∧ (∀ (s s1 : State) (q n : Nat) (cm : Cmd), s.cmd? q n = some cm → cm.phase = .granted → cm.type = tyFill →
    let dst := cm.dstExtent
    s.copyCheck (s.queueCtx q) [dst] (dst.kind == 1) ((dst.kind == 1) != cm.discard) = none →
    (dst.kind = 1 → exec (.fill q n) s = .next (s.updCmd q n (fun x => { x with phase := .ready })))
    ∧ (dst.kind ≠ 1 → fillRows (s.queueCtx q) (cm.at 0x38 8) dst (List.range dst.rows) s = (s1, none) →
      exec (.fill q n) s = .next (s1.updCmd q n (fun x => { x with phase := .ready }))))
  ∧ (∀ (s s1 : State) (ctx pat r : Nat) (dst : Extent) (rest : List Nat), dst.kind = 0 →
    s.writeVirt none ctx (dst.addr + r * dst.stride) ((List.range dst.rowBytes).map (fun i =>
      BitVec.ofNat 8 (leAt (leBytes 8 pat) ((dst.addr + r * dst.stride + i) % 8) 1))) = .ok s1 →
    fillRows ctx pat dst (r :: rest) s = fillRows ctx pat dst rest s1))
  ∧ ((∀ (s : State) (q n : Nat) (cm : Cmd), s.cmd? q n = some cm → cm.phase = .ready → cm.held = false → cm.status = 0 → cm.staged = 0 →
    (cm.type = tyFill → cm.discard = true → exec (.commandCommit q n) s = .next
      ({ s with fls := s.fls.unmap cm.dstExtent.addr (cm.dstExtent.bytes / 4096) }.endCmd q n cm.doneStatus true))
    ∧ (∀ a bs, cm.type = tyCopy → cm.saves = [(a, bs)] → exec (.commandCommit q n) s = .next
      ({ s with fls := s.fls.write a bs }.endCmd q n cm.doneStatus true)))
  ∧ (∀ (f : Flash) (lba m a : Nat), lba * 4096 ≤ a → a < (lba + m) * 4096 → spaceByte (f.unmap lba m).cells a = 0)
  ∧ (∀ (f : Flash) (a i : Nat) (bs : List Byte), spaceWf f.cells = true → i < bs.length →
      spaceByte (f.write a bs).cells (a + i) = bs.getD i 0))

/-- FORK makes children that share the parent's tree and have copies of its coil, and roots that start a tree of their own; a CULL leaves none
of its sequences LIVE, and each is released when no command, no gather and no round holds it any more (R9, R14, R15, R203 to R205, R239). -/
def Obligations.ForkMakesAndCullEndsSequences : Prop :=
  (∀ (s : State) (q n : Nat) (cm : Cmd), s.cmd? q n = some cm → cm.phase = .granted → cm.type = tyFork →
    (∀ s1, (forkAct (s.queueCtx q) cm).run s = .ok ((), s1) →
      exec (.fork q n) s = .next (s1.updCmd q n (fun x => { x with phase := .ready }))
      ∧ ∀ es s2, (forkList (s.queueCtx q) (cm.at 0x10 8) (fld (cm.at 0x1C 4) 12 0)).run s = .ok (es, s2) → ∀ e ∈ es,
        lookup s.seqs e.child = none
        ∧ (∀ p, bit (cm.at 0x18 4) 16 = true → lookup s.seqs (cm.at 0x18 2) = some p →
          lookup s1.seqs e.child = some { p with inFlight := false, parent := some (cm.at 0x18 2), coil := e.coil }
          ∧ ∀ a b x, p.coil = some a → e.coil = some b → lookup s.coils a = some x →
            lookup s1.coils b = some { x with
              status := if x.status = .idle then .idle else .parked, hasSeq := true, tail := false, core := 0, row := 0, unit := 0,
              unitLo := 0, holder := none })
        ∧ (bit (cm.at 0x18 4) 16 = false →
          (∃ x, lookup s1.seqs e.child = some x ∧ x.state = .live ∧ x.inFlight = false ∧ x.parent = none ∧ x.coil = e.coil
            ∧ x.ctx = s.queueCtx q ∧ x.pool = cm.at 0x30 2 ∧ x.framePages = fld (cm.at 0x30 4) 28 16 ∧ x.length = 0 ∧ x.step = 0
            ∧ x.seed = BitVec.ofNat 64 (cm.at 0x20 8) ∧ x.user = BitVec.ofNat 64 (cm.at 0x28 8))
          ∧ ∀ b, e.coil = some b → lookup s1.coils b = some (rootCoil (s.queueCtx q))))
    ∧ (∀ st nt, (forkAct (s.queueCtx q) cm).run s = .error (.status st nt) →
      exec (.fork q n) s = .next ((s.noteErr nt).failCmd q n st)))
  ∧ (∀ (s s1 : State) (q n : Nat) (cm : Cmd) (ids : List Nat), sortedKeys s.seqs = true → s.cmd? q n = some cm → cm.phase = .granted →
    cm.type = tyCull → (cullList (s.queueCtx q) (cm.at 0x10 8) (fld (cm.at 0x18 4) 12 0)).run s = .ok (ids, s1) →
    ∃ t : State, exec (.cull q n) s = .next t.runCulls ∧ t = { s1 with cmds := t.cmds, seqs := t.seqs }
      ∧ t.cmd? q n = some { cm with phase := .dispatched, culls := ids }
      ∧ (∀ id, lookup t.seqs id = if id ∈ ids then (lookup s.seqs id).map (fun x => { x with state := .culling }) else lookup s.seqs id)
      ∧ ∀ id ∈ ids, ∀ x, lookup t.runCulls.seqs id = some x → x.state = .culling)
  ∧ ∀ (s : State) (q n id : Nat) (x : Seq), sortedKeys s.seqs = true → lookup s.seqs id = some x →
    ((x.state ≠ .culling ∨ x.inFlight = true ∨ s.gathering id = true
        ∨ ∃ c y, x.coil = some c ∧ lookup s.coils c = some y ∧ y.holder ≠ none) → s.cullStep q n id = s)
    ∧ (x.state = .culling → x.inFlight = false → s.gathering id = false → x.coil = none → ∀ s1, (releaseSeq id).run s = .ok ((), s1) →
      lookup (s.cullStep q n id).seqs id = none)

/-- FENCE commits at its dispatch; SIGNAL updates its event by addition modulo 2^64 or maximum and is then ready to commit, or waits for a
region that resets; WAIT may commit once its event has reached VALUE, looks again at each recheck, and fails with BUSY at its timeout (R308,
R309). HINT records a pending hint and may commit at once; the 65th is dropped, counted and logged; a hint in force waives its context's wait
for tokens (R308, R418, R419). -/
def Obligations.FenceSignalWaitHint : Prop :=
  ((∀ (s : State) (q n : Nat) (cm : Cmd), s.cmd? q n = some cm → cm.phase = .granted → cm.type = tyFence →
    exec (.fence q n) s = .next (s.endCmd q n 0 true))
  ∧ (∀ (s : State) (q n : Nat) (cm : Cmd) (cx : Ctx), s.cmd? q n = some cm → cm.phase ∈ [.granted, .dispatched] → cm.type = tySignal →
    cm.held = false → lookup s.ctxs (s.queueCtx q) = some cx →
    let va := cx.eventTable + 8 * cm.at 0x10 2
    let s' := s.updCmd q n (fun x => { x with phase := .dispatched })
    (∀ s0 s1 old, (getNat (s.queueCtx q) va 8).run s' = .ok (old, s0) →
      s0.writeVirt none (s.queueCtx q) va
        (leBytes 8 (if bit (cm.at 0x10 4) 16 then (old + cm.at 0x18 8) % 2 ^ 64 else max old (cm.at 0x18 8))) = .ok s1 →
      ∃ t, exec (.signal q n) s = .next t ∧ t.cmd? q n = some { cm with phase := .ready } ∧ t = { s1 with cmds := t.cmds })
    ∧ (∀ g, (getNat (s.queueCtx q) va 8).run s' = .error (.resetting g) →
      exec (.signal q n) s = .next (s'.logAbsent (.region g))))
  ∧ (∀ (s s1 : State) (q n v : Nat) (cm : Cmd) (cx : Ctx), s.cmd? q n = some cm → cm.phase = .granted → cm.type = tyWait →
    lookup s.ctxs (s.queueCtx q) = some cx →
    (getNat (s.queueCtx q) (cx.eventTable + 8 * cm.at 0x10 2) 8).run (s.updCmd q n (fun x => { x with
      phase := .dispatched, deadline := if cm.at 0x14 4 = 0 then none else some (s.timeNs + 1000 * cm.at 0x14 4) })) = .ok (v, s1) →
    ∃ t, exec (.wait q n) s = .next t
      ∧ t.cmd? q n = some { cm with
          phase := if cm.at 0x18 8 ≤ v then .ready else .dispatched
          deadline := if cm.at 0x14 4 = 0 then none else some (s.timeNs + 1000 * cm.at 0x14 4) }
      ∧ t = { s1 with cmds := t.cmds })
  ∧ (∀ (s : State) (q n : Nat) (cm : Cmd) (cx : Ctx), s.cmd? q n = some cm → cm.phase = .dispatched → cm.type = tyWait →
    cm.held = false → lookup s.ctxs (s.queueCtx q) = some cx →
    (∀ v s1, (getNat (s.queueCtx q) (cx.eventTable + 8 * cm.at 0x10 2) 8).run s = .ok (v, s1) →
      ∃ t, exec (.waitRecheck q n) s = .next t
        ∧ t.cmd? q n = some { cm with phase := if cm.at 0x18 8 ≤ v then .ready else .dispatched } ∧ t = { s1 with cmds := t.cmds })
    ∧ (cm.deadline.isSome = true → cm.insts = [] → cm.trap = none → cm.ending = none →
      exec (.waitTimeout q n) s =
        .next ((s.updCmd q n (fun x => { x with ending := some (0x41, none) })).endCmd q n 0x41 false))))
  ∧ ((∀ (s : State) (q n : Nat) (cm : Cmd), s.cmd? q n = some cm → cm.phase = .granted → cm.type = tyHint →
    (s.pwr.hints.length < 64 → ∃ t x, exec (.hint q n) s = .next t ∧ t.pwr = { s.pwr with hints := s.pwr.hints ++ [x] }
      ∧ x.ctx = s.queueCtx q ∧ x.cls = cm.at 0x10 4 ∧ x.started = false ∧ t.cmd? q n = some { cm with phase := .ready }
      ∧ t = { s with pwr := t.pwr, cmds := t.cmds, nextReq := s.nextReq + 1 })
    ∧ (64 ≤ s.pwr.hints.length → ∃ t r, exec (.hint q n) s = .next t ∧ t.pwr = { s.pwr with hintMiss := s.pwr.hintMiss + 1 }
      ∧ t.log.recs = List.take 8192 (r :: s.log.recs) ∧ r.source = 13 ∧ r.cause = 8 ∧ r.ctx = some (s.queueCtx q)
      ∧ t.cmd? q n = some { cm with phase := .ready } ∧ t = { s with pwr := t.pwr, cmds := t.cmds, log := t.log }))
  ∧ ∀ (s : State) (c : CoreId) (x : Hint), x ∈ s.pwr.hints → x.started = true → s.anvilReady c x.ctx = true)

/-! ## Coils -/

/-- A granted ROUND dispatches with the entries that are next on their coils, counts the others as skipped at the region whose firmware
dispatches it (the first of its role in service, log 140), holds the coils and goes on as far as it can; one that fails its checks ends with
their status, one with no region of its role with LIMIT (R227, R229, R242). -/
def Obligations.RoundsTakeTheNextEntries : Prop :=
  ∀ (s : State) (q n : Nat) (cm : Cmd) (qu : Queue) (i : Instr),
    (i, cm.roundOp) ∈ [(Instr.roundRun q n, 0), (.roundPark q n, 1), (.roundUnpark q n, 2), (.roundConfig q n, 3), (.roundClose q n, 4)] →
    s.cmd? q n = some cm → lookup s.queues q = some qu → cm.phase = .granted → cm.type = tyRound →
    (∀ st nt, (roundCheck qu.ctx cm).run s = .error (.status st nt) → exec i s = .next ((s.noteErr nt).failCmd q n st))
    ∧ (∀ db es s1, (roundCheck qu.ctx cm).run s = .ok ((db, es), s1) →
      ((∀ g : RegionId, roleAllows s1.regions[g].roleNow qu.role = false) → exec i s = .next (s1.endCmd q n 0x22 false))
      ∧ ((∃ g : RegionId, roleAllows s1.regions[g].roleNow qu.role = true ∧ s1.regionState g ≠ .fenced) →
        ∃ (s2 : State) (cm2 : Cmd), exec i s = .next (s2.continueRound q n) ∧ s2.cmd? q n = some cm2
          ∧ cm2 = { cm with phase := .dispatched, desc := db, rounds := cm2.rounds }
          ∧ cm2.rounds = es.filter (fun e => match lookup s1.coils e.coil with
              | none => true
              | some x => if x.roundSeq = 0xFFFFFFFF then cm.roundOp == opConfig && e.seq == 1 else e.seq == x.roundSeq + 1)
          ∧ (let g := s1.firmwareOf qu.role
             roleAllows s1.regions[g].roleNow qu.role = true
             ∧ s2.regions[g].cnt.coilSkip = s1.regions[g].cnt.coilSkip + BitVec.ofNat 64 (es.length - cm2.rounds.length)
             ∧ ∀ g', g' ≠ g → s2.regions[g'] = s1.regions[g'])
          ∧ (∀ e ∈ cm2.rounds, ∀ x, lookup s2.coils e.coil = some x → x.holder = some (q, n))
          ∧ s2 = { s1 with cmds := s2.cmds, coils := s2.coils, regions := s2.regions }))

/-- How a dispatched ROUND goes on. RUN: a parked group is sent to a core's units, a resident group's round kernel takes a kernel slot with two
units on each of its cores, a running one ends with its states and OUT rows kept for the commit, and with every group done the RUN is ready.
UNPARK is ready when its coils are resident; PARK, CONFIG and CLOSE when no coil has to be parked first, and they park one that has to be
(R230 to R233). -/
def Obligations.RoundsBecomeReady : Prop :=
  ∀ (s : State) (q n : Nat) (cm : Cmd) (qu : Queue), s.cmd? q n = some cm → lookup s.queues q = some qu → cm.phase = .dispatched →
    cm.type = tyRound → cm.held = false →
    (cm.roundOp = 0 →
      let d := roundDescOf cm.desc
      ((∀ g ∈ groupsOf d.pair cm.rounds, ∀ e, g.head? = some e → e.coil ∈ cm.roundDone) →
        ∃ t, exec (.roundRun q n) s = .next t ∧ t.cmd? q n = some { cm with phase := .ready } ∧ t = { s with cmds := t.cmds })
      ∧ (∀ e g x, groupsOf d.pair cm.rounds = [e :: g] → lookup s.coils e.coil = some x → e.coil ∉ cm.roundDone →
        (∀ o s1, s.roundRuns q n e.coil x = true → (runAll qu.ctx (fld (cm.at 0x24 4) 12 0) d (e :: g)).run s = .ok (o, s1) →
          ∃ t, exec (.roundRun q n) s = .next t
            ∧ t.cmd? q n = some { cm with
                phase := .ready, roundDone := e.coil :: cm.roundDone, saves := cm.saves ++ o.saves, outs := cm.outs ++ o.outs }
            ∧ (∀ c k, t.slot c k = if (s.slot c k).cmd = some (q, n) ∧ (s.slot c k).round = some e.coil
                then (s.slot c k).freed else s.slot c k)
            ∧ t = { s1 with cmds := t.cmds, cores := t.cores, regions := t.regions, argMaps := t.argMaps })
        ∧ (s.roundRuns q n e.coil x = false → s.groupResident qu.role d.pair (e :: g) = true → s.quenched qu.ctx = false →
          (∀ c ∈ x.cores, s.cores[c].takesRound qu.ctx (d.storeBytes (g.length + 1)) = true) →
          ∃ t, exec (.roundRun q n) s = .next t ∧ t.cmd? q n = some cm
            ∧ (∀ c ∈ x.cores, ∃ k, (s.slot c k).state = .free ∧ (t.slot c k).state = .running ∧ (t.slot c k).ctx = qu.ctx
                ∧ (t.slot c k).cmd = some (q, n) ∧ (t.slot c k).round = some e.coil ∧ (t.slot c k).accUnits = 2
                ∧ (t.slot c k).csUnits = d.storeBytes (g.length + 1) / 65536)
            ∧ t = { s with cores := t.cores, nextReq := t.nextReq, cmds := t.cmds })
        ∧ (∀ c u v us, s.roundRuns q n e.coil x = false → g = [] → d.pair = false → x.widthLog2 = 0 → (x.status = .parked ∨ x.status = .idle) →
          (List.finRange 96).find? (s.groupCore qu.ctx qu.role false d.slices (d.storeBytes 1) 2) = some c →
          s.commonUnits c d.slices = u :: v :: us →
          ∃ t, exec (.roundRun q n) s = .next t ∧ t.cmd? q n = some cm
            ∧ lookup t.coils e.coil = some { x with status := .unparking, core := c, row := 0, unit := u, unitLo := 0 }
            ∧ t = { s with cores := t.cores, coils := t.coils, cmds := t.cmds })))
    ∧ (cm.roundOp = 2 → (∀ e ∈ cm.rounds, ∀ x, lookup s.coils e.coil = some x → x.status = .resident) →
      ∃ t, exec (.roundUnpark q n) s = .next t ∧ t.cmd? q n = some { cm with phase := .ready } ∧ t = { s with cmds := t.cmds })
    ∧ (∀ i, (i, cm.roundOp) ∈ [(Instr.roundPark q n, 1), (.roundConfig q n, 3), (.roundClose q n, 4)] →
      ((∀ e ∈ cm.rounds, s.mustPark cm.roundOp (roundDescOf cm.desc) e = false) →
        ∃ t, exec i s = .next t ∧ t.cmd? q n = some { cm with phase := .ready } ∧ t = { s with cmds := t.cmds })
      ∧ (∀ e x, cm.rounds = [e] → lookup s.coils e.coil = some x → x.status = .resident → x.widthLog2 = 0 →
        s.mustPark cm.roundOp (roundDescOf cm.desc) e = true →
        ∃ t, exec i s = .next t ∧ lookup t.coils e.coil = some { x with status := .parking }
          ∧ t = { s with coils := t.coils, cores := t.cores }))

/-- What a ROUND's commit does to a coil: RUN writes its kept state into the park area and the units and counts its steps, PARK and UNPARK only
move its sequence number on, CONFIG opens it or gives it the descriptor's parameters, CLOSE frees it (R230, R231, R234, R237). -/
def Obligations.RoundCommitMovesTheSequence : Prop :=
  ∀ (s s1 : State) (ctx : Nat) (cm : Cmd) (e : RoundEntry), sortedKeys s.coils = true → cm.rounds = [e] → cm.outs = [] →
    (commitRound ctx cm).run s = .ok ((), s1) →
    let d := roundDescOf cm.desc
    (∀ x, lookup s.coils e.coil = some x →
      (cm.roundOp = 1 ∨ cm.roundOp = 2 → lookup s1.coils e.coil = some { x with roundSeq := e.seq } ∧ sameMemory s s1)
      ∧ (cm.roundOp = 0 →
        lookup s1.coils e.coil = some { x with
          steps := if e.resetAt = 0 then satAdd 48 (if x.reset then 0 else x.steps) d.len else d.len - e.resetAt + 1
          reset := false, roundSeq := e.seq, lastRun := s.timeNs }
        ∧ s1.regions[regionOfCore x.core].cnt.coilRound = s.regions[regionOfCore x.core].cnt.coilRound + 1
        ∧ s1.regionMem = s.regionMem ∧ s1.coreStore = s.coreStore ∧ s1.hostMem = s.hostMem
        ∧ (∀ w, cm.saves = [w] → w.1 / 2048 = e.coil → x.widthLog2 = 0 →
          (∃ s2, (putStacked (s.parkAddr e.coil + w.1 % 2048) w.2).run s = .ok ((), s2) ∧ s1.stacked = s2.stacked)
          ∧ s1.accMem = (if x.holdsUnits then s.accMem.forcePieces (Config.freeByte s.freshCtr) (unitPieces x [(w.1 % 2048, w.2)])
              else s.accMem)))
      ∧ (cm.roundOp = 3 → lookup s1.coils e.coil = some { x with
          threeGate := d.three, pair := d.pair, widthLog2 := d.widthLog2, roundLen := d.len, reset := x.reset || d.reset, roundSeq := e.seq
          status := if d.reset ∧ x.status = .parked then .idle else x.status, tail := false })
      ∧ (cm.roundOp = 4 → lookup s1.coils e.coil = none ∧ sameMemory s s1))
    ∧ (cm.roundOp = 3 → lookup s.coils e.coil = none → lookup s1.coils e.coil = some { rootCoil ctx with
        hasSeq := false, threeGate := d.three, pair := d.pair, widthLog2 := d.widthLog2, roundLen := d.len, roundSeq := e.seq })

/-- The moves of coils between units and park areas: UNPARK writes the park area's vectors into the units and makes the coil RESIDENT, a
park only frees the units, and while something waits for units an eviction sends the least recently run group without a holder to its park
areas and counts it; the command that holds the coil then goes on (R220, R221, R236). -/
def Obligations.CoilsMove : Prop :=
  (∀ (s : State) (i : Nat) (x : Coil) (ps : List (Nat × List Byte)), lookup s.coils i = some x → x.status = .unparking → x.tail = false →
    x.widthLog2 = 0 → (s.sliceBytes x i).map (unitPieces x) = .ok ps →
    ∃ t : State, exec (.coilUnparkComplete i) s = .next (t.continueHolder i) ∧ (x.holder = none → t.continueHolder i = t)
      ∧ lookup t.coils i = some { x with status := .resident }
      ∧ t.accMem = s.accMem.forcePieces (Config.freeByte s.freshCtr) ps
      ∧ t.regions[regionOfCore x.core].cnt.coilUnpark = s.regions[regionOfCore x.core].cnt.coilUnpark + 1
      ∧ t = { s with accMem := t.accMem, coils := t.coils, cores := t.cores, regions := t.regions })
  ∧ (∀ (s : State) (i : Nat) (x : Coil), lookup s.coils i = some x → x.status = .parking → x.tail = false → x.widthLog2 = 0 →
    ∃ t : State, exec (.coilParkComplete i) s = .next (t.continueHolder i) ∧ (x.holder = none → t.continueHolder i = t)
      ∧ lookup t.coils i = some { x with status := .parked }
      ∧ t.cores[x.core].coilUnits = unitMask ((t.coils.filter (fun e => e.2.holdsUnits && e.2.core == x.core)).flatMap (fun e => e.2.units))
      ∧ sameMemory s t ∧ t = { s with coils := t.coils, cores := t.cores })
  ∧ (∀ (s : State) (c : CoreId) (i : Nat) (x : Coil), s.coils = [(i, x)] → x.tail = false → x.status = .resident → x.core = c →
    x.widthLog2 = 0 →
    ((x.holder ≠ none ∨ c ∉ s.unitsWanted) → exec (.coilEviction c) s = .next s)
    ∧ (x.holder = none → c ∈ s.unitsWanted → ∃ t, exec (.coilEviction c) s = .next t ∧ t.coils = [(i, { x with status := .parking })]
        ∧ t.regions[regionOfCore c].cnt.coilEvict = s.regions[regionOfCore c].cnt.coilEvict + 1
        ∧ sameMemory s t ∧ t = { s with coils := t.coils, cores := t.cores, regions := t.regions }))
  ∧ (∀ (s t : State) (c : CoreId), exec (.coilEviction c) s = .next t → t ≠ s →
      ∃ x g, (x, g) ∈ s.evictable ∧ c ∈ x.cores ∧ (∀ o ∈ s.evictable, groupRan g ≤ groupRan o.2)
        ∧ ∀ e ∈ g, e.2.holder = none ∧ e.2.status = .resident)

/-! ## The commit point -/

/-- A ready command reaches its commit point: its changes are applied and it ends with its mark, DONE, or DONE_WITH_NOTES where it counted
something; a change that cannot be made fails the command and commits nothing, and a command waits while a contribution of it lies staged
(R6, R151, R210, R327). -/
def Obligations.CommitEndsCommands : Prop :=
  ∀ (s : State) (q n : Nat) (cm : Cmd), s.cmd? q n = some cm → cm.phase = .ready → cm.held = false →
    (cm.staged ≠ 0 → exec (.commandCommit q n) s = .next s)
    ∧ (cm.staged = 0 →
      let status := if cm.dups = 0 ∧ cm.flags.emptyRows = 0 ∧ cm.notes = false then 0 else 1
      (cm.type = tyKernel →
        (∀ left s1, (commitAppends (s.queueCtx q) cm).run s = .ok (left, s1) →
          exec (.commandCommit q n) s = .next
            ({ s1.updCmd q n (fun x => { x with pages := [], reserved := left }) with
                acctKernels := bump s1.acctKernels (s.queueCtx q) 1 }.endCmd q n status true))
        ∧ (∀ st note, (commitAppends (s.queueCtx q) cm).run s = .error (.status st note) →
          exec (.commandCommit q n) s = .next ((s.noteErr note).failCmd q n st)))
      ∧ (cm.type = tyRound →
        (∀ s1, (commitRound (s.queueCtx q) cm).run s = .ok ((), s1) → exec (.commandCommit q n) s = .next (s1.endCmd q n 0 true))
        ∧ (∀ st note, (commitRound (s.queueCtx q) cm).run s = .error (.status st note) →
          exec (.commandCommit q n) s = .next ((s.noteErr note).failCmd q n st)))
      ∧ ((cm.type ∈ [tyFork, tyCull, tySignal, tyWait, tyHint, tySnapshot] ∨ cm.type = tyFill ∧ cm.discard = false) →
          (cm.status = 0 → exec (.commandCommit q n) s = .next (s.endCmd q n status true))
          ∧ (cm.status ≠ 0 → exec (.commandCommit q n) s = .next (s.failCmd q n cm.status)))
      ∧ (cm.type = tyCopy → cm.status = 0 → exec (.commandCommit q n) s = .next
          ({ s with fls := cm.saves.foldl (fun (f : Flash) (w : Nat × List Byte) => f.write w.1 w.2) s.fls }.endCmd q n status true)))

/-! ## Snapshots -/

/-- The phases of a quench (R344, R345, R347, R348): a SNAPSHOT reserves an entry and asks the instances of its scope's commands that name a
counter block to stop at their next tile, one without space or entry ends with LIMIT; the end of the drain discards what still runs and marks
it lossy; the capture is taken unless it is to be redone; the write commits the entry, frees older ones of the scope and readies the command. -/
def Obligations.QuenchPhases : Prop :=
  (∀ (s : State) (q n : Nat) (cm : Cmd), s.cmd? q n = some cm → cm.phase = .granted → cm.type = tySnapshot → s.fls.quench = none →
    let scope := bit (cm.at 0x10 4) 0
    let blocks := imageBlocks (imageOf (s.capture scope (s.queueCtx q)) (cm.at 0x18 8) s.timeNs s.svc.hwType.toNat)
    (s.fls.snapFree < blocks ∨ s.fls.emptyEntry = none → exec (.snapshot q n) s = .next (s.endCmd q n 0x22 false))
    ∧ (∀ i, blocks ≤ s.fls.snapFree → s.fls.emptyEntry = some i →
      ∃ t z, exec (.snapshot q n) s = .next t ∧ t.fls = { s.fls with quench := some z, snaps := t.fls.snaps }
        ∧ z.phase = .drain ∧ z.scope = scope ∧ z.ctx = s.queueCtx q ∧ z.q = q ∧ z.n = n ∧ z.entry = i.val
        ∧ (t.fls.snaps[i]).state = .writing ∧ (t.fls.snaps[i]).blocks = blocks
        ∧ (∀ j : Fin 16, j ≠ i → t.fls.snaps[j] = s.fls.snaps[j])
        ∧ (∀ x ∈ s.cmds, (scope = true ∨ s.queueCtx x.q = s.queueCtx q) → x.counter ≠ 0 → ∀ y ∈ x.insts, ∀ c k, y.placed = some (c, k) →
            y.ended = false → (s.slot c k).state = .running → (s.slot c k).stop = none → (t.slot c k).stop = some .drain)
        ∧ t.cmd? q n = some { cm with phase := .dispatched } ∧ sameMemory s t
        ∧ t = { s with fls := t.fls, cores := t.cores, cmds := t.cmds }))
  ∧ (∀ (s : State) (z : Quench), s.fls.quench = some z →
    (z.phase = .drain → ∃ t, exec .quenchDrainEnd s = .next t ∧ t.fls = { s.fls with quench := some { z with phase := .capture } }
      ∧ sameMemory s t
      ∧ (∀ q n cm, s.cmd? q n = some cm → cm.phase = .dispatched → (z.scope = true ∨ s.queueCtx q = z.ctx) →
          (∃ y ∈ cm.insts, y.placed ≠ none ∧ y.ended = false) → ∃ cm', t.cmd? q n = some cm' ∧ cm'.lossy = true
            ∧ ∀ y ∈ cm.insts, ∀ c k, y.placed = some (c, k) → y.ended = false → (t.slot c k).state = .free)
      ∧ (∀ (j : SampleQ) d, s.smp[j].desc = some d → (z.scope = true ∨ d.ctx = z.ctx) → s.smp[j].state = smpRunning → t.smp[j].work = []))
    ∧ (z.phase = .capture → z.redo = false → exec .quenchCaptureEnd s = .next
        { s with fls := { s.fls with quench := some { z with phase := .write, img := some (s.capture z.scope z.ctx) } } })
    ∧ (z.phase = .capture → z.redo = true → exec .quenchCaptureEnd s = .next s)
    ∧ (∀ img, z.phase = .write → z.img = some img → s.svc.waiting = [] → z.entry < 16 →
      ∃ t, exec .quenchWriteEnd s = .next t ∧ t.fls.quench = none
        ∧ (∃ i : Fin 16, i.val = z.entry ∧ (t.fls.snaps[i]).state = .committed ∧ (t.fls.snaps[i]).img = some img
            ∧ (t.fls.snaps[i]).image = imageOf img z.label.toNat s.timeNs s.svc.hwType.toNat
            ∧ ∀ j : Fin 16, j ≠ i → t.fls.snaps[j] =
                (if (s.fls.snaps[j]).state = .committed ∧ (s.fls.snaps[j]).scope = (s.fls.snaps[i]).scope
                  ∧ ((s.fls.snaps[i]).scope = true ∨ (s.fls.snaps[j]).ctx = (s.fls.snaps[i]).ctx)
                then Snap.reset else s.fls.snaps[j]))
        ∧ (∀ cm, s.cmd? z.q z.n = some cm → t.cmd? z.q z.n = some { cm with phase := .ready })
        ∧ t = { s with fls := t.fls, cmds := t.cmds }))

/-! ## The mailboxes -/

/-- CTX_CREATE and CTX_DESTROY (R295, R314, R317, R318, R321): a descriptor is refused with VERSION, AUTH or MALFORMED in that order, or its
context comes into being with its counters zero; with exclusive cores it ends with LIMIT where too few are unreserved, owns them at once where
they are empty, and stays BUSY while one of them is not; a drain that takes 1 s ends with BUSY and nothing reserved. A context without queues
goes, with its sequences and exclusive cores; another port's, or one with queues, is refused. -/
def Obligations.ContextsComeAndGo : Prop :=
  (∀ (s : State) (h : HostPort) (bs : List Byte), mailFree s h → bs.length = 64 →
    let d := ctxDescOf bs
    (ctxDescClean bs = false → ∃ t, exec (.ctxCreate h (.data bs)) s = .next t ∧ mailDone s t h 1 0x20 0 ∧ t = { s with mbox := t.mbox })
    ∧ (ctxDescClean bs = true → d.home ≠ h →
        ∃ t, exec (.ctxCreate h (.data bs)) s = .next t ∧ mailDone s t h 1 0x40 0 ∧ t = { s with mbox := t.mbox })
    ∧ (ctxDescClean bs = true → d.home = h → hasKey s.ctxs d.id = true →
        ∃ t, exec (.ctxCreate h (.data bs)) s = .next t ∧ mailDone s t h 1 0x21 0 ∧ t = { s with mbox := t.mbox })
    ∧ (ctxDescClean bs = true → d.home = h → hasKey s.ctxs d.id = false → d.ok s.fls.dataBlocks = true →
        s.mbox[h].addr.toNat % 64 = 0 → d.excl = 0 →
        ∃ t, exec (.ctxCreate h (.data bs)) s = .next t ∧ mailDone s t h 1 0 0
          ∧ lookup t.ctxs d.id = some d.ctx ∧ (∀ i, i ≠ d.id → lookup t.ctxs i = lookup s.ctxs i)
          ∧ lookup t.acctWait d.id = some 0 ∧ lookup t.acctPreempt d.id = some 0 ∧ lookup t.acctKernels d.id = some 0
          ∧ lookup t.acctEnergy d.id = some 0
          ∧ t = { s with mbox := t.mbox, ctxs := t.ctxs, acctWait := t.acctWait, acctPreempt := t.acctPreempt,
                         acctKernels := t.acctKernels, acctEnergy := t.acctEnergy })
    ∧ (ctxDescClean bs = true → d.home = h → hasKey s.ctxs d.id = false → d.ok s.fls.dataBlocks = true →
        s.mbox[h].addr.toNat % 64 = 0 → d.excl ≠ 0 → (∀ x : CoreId, s.cores[x].owner ≠ some d.id) → s.coils = [] →
        ((s.chooseCores d.excl).length < d.excl →
          ∃ t, exec (.ctxCreate h (.data bs)) s = .next t ∧ mailDone s t h 1 0x22 0 ∧ t = { s with mbox := t.mbox })
        ∧ (d.excl ≤ (s.chooseCores d.excl).length →
          (∀ x : CoreId, ∀ t, exec (.ctxCreate h (.data bs)) s = .next t → t.cores[x] = { s.cores[x] with
              owner := if x ∈ s.chooseCores d.excl then some d.id else s.cores[x].owner })
          ∧ ((∀ x ∈ s.chooseCores d.excl, s.cores[x].resident = []) →
            ∃ t, exec (.ctxCreate h (.data bs)) s = .next t ∧ mailDone s t h 1 0 0 ∧ lookup t.ctxs d.id = some d.ctx)
          ∧ ((∃ x ∈ s.chooseCores d.excl, ∃ sl ∈ s.cores[x].resident, sl.ctx ≠ d.id) →
            ∃ t, exec (.ctxCreate h (.data bs)) s = .next t ∧ t.mbox[h].busy = true
              ∧ t.mbox[h].waitOp = some (.ctxCreate h (.data bs)) ∧ t.ctxs = s.ctxs))))
  ∧ (∀ (s : State) (h : HostPort) (c : Ctx), mailFree s h → lookup s.ctxs s.mbox[h].arg0.toNat = some c →
    (c.home ≠ h → ∃ t, exec (.ctxDestroy h) s = .next t ∧ mailDone s t h 2 0x40 0 ∧ t = { s with mbox := t.mbox })
    ∧ (c.home = h → (∃ e ∈ s.queues, e.2.ctx = s.mbox[h].arg0.toNat) →
        ∃ t, exec (.ctxDestroy h) s = .next t ∧ mailDone s t h 2 0x21 0 ∧ t = { s with mbox := t.mbox })
    ∧ (c.home = h → sortedKeys s.ctxs = true → (∀ e ∈ s.queues, e.2.ctx ≠ s.mbox[h].arg0.toNat) →
        ∃ t, exec (.ctxDestroy h) s = .next t ∧ mailDone s t h 2 0 0 ∧ lookup t.ctxs s.mbox[h].arg0.toNat = none
          ∧ (∀ e ∈ t.seqs, e.2.ctx ≠ s.mbox[h].arg0.toNat) ∧ (∀ x : CoreId, t.cores[x].owner ≠ some s.mbox[h].arg0.toNat)
          ∧ sameMemory s t))
  ∧ ∀ (s : State) (h h' : HostPort) (rd : HostRead) (bs : List Byte), s.mbox[h].waitOp = some (.ctxCreate h' rd) → hostDesc rd = .ok bs →
    s.ownedBy (ctxDescOf bs).id ≠ [] → hasKey s.ctxs (ctxDescOf bs).id = false → s.mbox[otherPort h].behind = false →
    ∃ t, exec (.ctxCreateDrainTimeout h) s = .next t ∧ t.mbox[h].busy = false ∧ t.mbox[h].status = 0x41 ∧ t.ctxs = s.ctxs
      ∧ (∀ x : CoreId, t.cores[x].owner = if s.cores[x].owner = some (ctxDescOf bs).id then none else s.cores[x].owner)
      ∧ t = { s with mbox := t.mbox, cores := t.cores }

/-- QUEUE_CREATE and QUEUE_DESTROY (R299, R300, R317): a queue starts empty with its id's next generation, which RESULT gives; a queue without
commands goes, its status block shown as DESTROYING and then DESTROYED; another port's context is refused with AUTH. -/
def Obligations.QueuesComeAndGo : Prop :=
  (∀ (s s1 : State) (h : HostPort) (bs : List Byte) (c : Ctx), mailFree s h → bs.length = 64 → queueDescClean bs = true →
    let q := fld (leAt bs 4 4) 19 0
    let gen := (lookup s.queueGens q).getD 0 + 1
    let qu := queueOf bs gen
    lookup s.ctxs qu.ctx = some c →
    (c.home ≠ h → ∃ t, exec (.queueCreate h (.data bs)) s = .next t ∧ mailDone s t h 3 0x40 0 ∧ t = { s with mbox := t.mbox })
    ∧ (c.home = h → hasKey s.queues q = false → qu.fieldsOk c.maxPrio = true → s.mbox[h].addr.toNat % 64 = 0 → s.tableWrites q = true →
        s.writeVirt none qu.ctx qu.statusBlock qu.statusBytes = .ok s1 →
        ∃ t, exec (.queueCreate h (.data bs)) s = .next t ∧ mailDone s t h 3 0 (0x0100 + gen.toNat * 2 ^ 16)
          ∧ lookup t.queues q = some qu ∧ qu.accepted = 0 ∧ qu.completed = 0 ∧ qu.state = .active ∧ qu.gen = gen
          ∧ lookup t.queueGens q = some gen ∧ (∀ i, i ≠ q → lookup t.queues i = lookup s.queues i)
          ∧ t = { s1 with mbox := t.mbox, queues := t.queues, queueGens := t.queueGens }))
  ∧ ∀ (s : State) (h : HostPort) (qu : Queue) (c : Ctx), mailFree s h → sortedKeys s.queues = true →
    lookup s.queues s.mbox[h].arg0.toNat = some qu → lookup s.ctxs qu.ctx = some c →
    (c.home ≠ h → ∃ t, exec (.queueDestroy h) s = .next t ∧ mailDone s t h 4 0x40 0 ∧ t = { s with mbox := t.mbox })
    ∧ (c.home = h → (∀ x ∈ s.cmds, x.q ≠ s.mbox[h].arg0.toNat) →
        let q := s.mbox[h].arg0.toNat
        let s1 := (s.updQueue q (fun x => { x with state := .destroying })).writeStatus q
        let s2 := (s1.updQueue q (fun x => { x with state := .destroyed })).writeStatus q
        (∀ x ∈ s.cmds, x.type ≠ tyCull) → s2.statusOwed q = false → s2.tableWrites q = true →
        ∃ t, exec (.queueDestroy h) s = .next t ∧ mailDone s t h 4 0 0 ∧ lookup t.queues q = none
          ∧ (∀ i, i ≠ q → lookup t.queues i = lookup s2.queues i) ∧ t.queueGens = s.queueGens
          ∧ t.cmds = s.cmds ∧ t.stacked = s2.stacked ∧ t.regionMem = s2.regionMem ∧ t.hostMem = s2.hostMem)

/-- INVALIDATE removes the cached translations of the pages it names and only those; CANCEL ends each command that it may,
at once or when its instances have stopped, and answers how many; QUERY answers the
state of a command; an OP that does not exist is answered MALFORMED (R298, R316, R318, R319). -/
def Obligations.MailboxServices : Prop :=
  (∀ (s : State) (h : HostPort) (c : Ctx), mailFree s h →
    let a := s.mbox[h].arg0.toNat
    let first := s.mbox[h].arg1.toNat
    let pages := fld a 31 12
    lookup s.ctxs (fld a 11 0) = some c → c.home = h → first % 2097152 = 0 →
    ∃ t, exec (.invalidate h) s = .next t ∧ mailDone s t h 5 0 0
      ∧ (∀ g : RegionId, t.regions[g] = { s.regions[g] with tcache := t.regions[g].tcache })
      ∧ (∀ (g : RegionId) e, e ∈ t.regions[g].tcache ↔ e ∈ s.regions[g].tcache
          ∧ ¬ (e.1 = fld a 11 0 ∧ (pages = 0 ∨ (first / 2097152 ≤ e.2.1 ∧ e.2.1 < first / 2097152 + pages))))
      ∧ t = { s with mbox := t.mbox, regions := t.regions })
  ∧ (∀ (s : State) (h : HostPort) (qu : Queue) (c : Ctx), mailFree s h →
    let q := s.mbox[h].arg0.toNat
    let n := s.mbox[h].arg1.toNat
    lookup s.queues q = some qu → lookup s.ctxs qu.ctx = some c → c.home = h →
    (let s2 := { s with mbox := s.mbox.set h { s.mbox[h] with busy := true, lastOp := 6, count := 0 } }.cancelUpTo h q n
     exec (.cancel h) s = .next (if s2.cancelRuns h q then s2.mailWait h (.cancel h) else s2.mailEnd h 0 s2.mbox[h].count))
    ∧ (∃ t r, exec (.query h) s = .next t ∧ mailDone s t h 7 0 r ∧ t = { s with mbox := t.mbox }
      ∧ ((n = 0 ∨ qu.accepted < n) → r = 4)
      ∧ (1 ≤ n → n ≤ qu.accepted → ∀ cm, s.cmd? q n = some cm →
          (cm.phase = .ended → r = 3 + cm.status * 256) ∧ (cm.phase ≠ .ended → cm.held = true → r = 2 + 0x30 * 256)
          ∧ (cm.phase = .waiting ∨ cm.phase = .granted → cm.held = false → r = 0)
          ∧ (cm.phase = .dispatched ∨ cm.phase = .ready → cm.held = false → r = 1))))
  ∧ (∀ (s : State) (h : HostPort) (q n : Nat) (cm : Cmd), s.cmd? q n = some cm → cm.cancellable = true → s.fls.quench = none →
    (cm.placedAny = false → s.cancelOne h q n =
      ({ s with mbox := s.mbox.set h { s.mbox[h] with count := s.mbox[h].count + 1 } }.updCmd q n (fun x =>
        { x with ending := some (0x31, some h) })).endCmd q n 0x31 false)
    ∧ (cm.placedAny = true → ∃ t, s.cancelOne h q n = t ∧ t.cmd? q n = some { cm with ending := some (0x31, some h) }
      ∧ (∀ i ∈ cm.insts, ∀ c k, i.placed = some (c, k) → i.ended = false → (s.slot c k).state = .running → (t.slot c k).stop = some .cancel)
      ∧ t = { s with cmds := t.cmds, cores := t.cores }))
  ∧ ∀ (s : State) (h : HostPort) (op : BitVec 4), mailFree s h → (op = 0 ∨ 8 ≤ op.toNat) →
    exec (.admInvalidOp h op) s = .next { s with mbox := s.mbox.set h { s.mbox[h] with status := 0x21, lastOp := op.toNat } }

/-! ## Faults, resets, epochs -/

/-- A core fault, or a kernel slot that stalls, fences the core and it alone: logged, its epoch moves on, its memories are unwritten, its slots
free, their flags still to be read, and their commands lossy with no instance there (R338). A core that does not execute cannot fault. -/
def Obligations.CoreFaultFencesTheCore : Prop :=
  ∀ (s : State) (c : CoreId) (k : KsId) (i : Instr),
    (i ∈ [Instr.coreFault c .checker, .coreFault c .vectorEngine, .coreFault c .stall, .coreFault c .droop]
      ∨ (i = .kernelSlotStall c k ∧ (s.slot c k).state = .running ∧ s.ready c k = true)) →
    (s.coreUp c = false → exec i s = .next s)
    ∧ (s.coreUp c = true → plainCmds s → s.coils = [] →
      ∃ t r, exec i s = .next t ∧ t.cores[c].fenced = true ∧ (t.part (.core c)).state = .fenced
        ∧ t.log.recs = List.take 8192 (r :: s.log.recs) ∧ r.source = 8 ∧ r.cause = 1 ∧ r.unit = c.val
        ∧ ((s.part (.core c)).owed = 0 → (s.part (.core c)).mayAdvance s.timeNs = true →
            (t.part (.core c)).epoch = (s.part (.core c)).epoch + 1)
        ∧ (∀ p, p ≠ .core c → t.part p = s.part p)
        ∧ (∀ x, t.slot c x = (s.slot c x).freed) ∧ t.cores[c].icache = []
        ∧ (∀ c' x, c' ≠ c → t.slot c' x = s.slot c' x)
        ∧ (∀ q n x cm, (s.slot c x).cmd = some (q, n) → s.cmd? q n = some cm → ∃ cm', t.cmd? q n = some cm' ∧ cm'.lossy = true
            ∧ cm'.phase = cm.phase ∧ ∀ y ∈ cm'.insts, y.placed = some (c, x) → y.ended = true)
        ∧ t.coreStore = s.coreStore.mark (c.val * 8388608) 8388608 ∧ t.accMem = s.accMem.mark (c.val * 2097152) 2097152
        ∧ t.regionMem = s.regionMem ∧ t.stacked = s.stacked ∧ t.hostMem = s.hostMem
        ∧ (i = .coreFault c .vectorEngine → t.cores[c].vec = .fenced))

/-- A region reset, asked for or by its watchdog, takes the region and its cores out: logged, RESETTING, region memory and core stores
unwritten, stacked memory kept, the role and watchdog registers kept; the watchdog counts its expiry. One region is not reset twice at once
(R36, R335, R339). -/
def Obligations.RegionResetKeepsTheStack : Prop :=
  ∀ (s : State) (g : RegionId) (i : Instr), i ∈ [Instr.regionReset g, .regionWatchdogExpiry g] →
    (s.regionState g ≠ .inService → exec i s = .next s)
    ∧ (s.regionState g = .inService → plainCmds s → s.coils = [] → s.fls.quench = none → s.copyA ≠ some g → s.copyB ≠ some g →
      ∃ t, exec i s = .next t ∧ (t.part (.region g)).state = .resetting
        ∧ (∀ c : CoreId, regionOfCore c = g → (t.part (.core c)).state = .resetting ∧ ∀ k, (t.slot c k).state = .free)
        ∧ (∀ c : CoreId, regionOfCore c ≠ g → t.cores[c] = s.cores[c])
        ∧ t.regionMem = s.regionMem.mark (g.val * 33554432) 33554432 ∧ t.stacked = s.stacked ∧ t.hostMem = s.hostMem
        ∧ t.regions[g].role = s.regions[g].role ∧ t.regions[g].roleNow = s.regions[g].roleNow
        ∧ t.regions[g].wdtPeriod = s.regions[g].wdtPeriod ∧ t.regions[g].scrubPeriod = s.regions[g].scrubPeriod
        ∧ t.regions[g].wdtExpiries = (if i = .regionWatchdogExpiry g then min (s.regions[g].wdtExpiries + 1) 65535 else s.regions[g].wdtExpiries)
        ∧ (∀ g' : RegionId, g' ≠ g → t.regions[g'].cnt = s.regions[g'].cnt ∧ t.regions[g'].role = s.regions[g'].role)
        ∧ (∃ r, t.log.recs = List.take 8192 (r :: s.log.recs) ∧ r.source = 8 ∧ r.unit = g.val
            ∧ r.cause = if i = .regionWatchdogExpiry g then 3 else 2))

/-- The end of a region reset: with no field fuse, no failing checker and no failing lane the region is in service again with its next epoch and the firmware that was loaded, or,
with no image to load, stays out of service (R335, R434); while the region is not resetting the event does nothing. -/
def Obligations.RegionResetEnds : Prop :=
  ∀ (s s1 : State) (g : RegionId),
    ((s.part (.region g)).state ≠ .resetting → exec (.regionResetEnd g) s = .next s)
    ∧ ((s.part (.region g)).state = .resetting → (s.part (.region g)).returning = false →
        (s.part (.die (dieOfRegion g))).state ≠ .fenced →
        (s.finishReset g = none → exec (.regionResetEnd g) s = .next s)
        ∧ (s.finishReset g = some s1 → s1.svc.draining ≠ some g.val →
            ∃ t, exec (.regionResetEnd g) s = .next t ∧ t.regions[g] = { s1.regions[g] with drain := false } ∧ t.epochs = s1.epochs
              ∧ t = { s1 with regions := t.regions }))
    ∧ (s.cmds = [] → s.fls.quench = none → s.svc.fuses = [] → s.badCheckers = [] → s.regions[g].lanesBad = [] →
        (s.part (.region g)).state = .resetting → (s.part (.region g)).owed = 0 →
        (s.part (.region g)).mayAdvance s.timeNs = true →
        ∃ t, s.finishReset g = some t ∧ sameMemory s t
          ∧ (t.part (.region g)).state = (if (s.fwLoad kindREGION).isSome then .inService else .fenced)
          ∧ (t.part (.region g)).epoch = (s.part (.region g)).epoch + 1
          ∧ (∀ l, s.fwLoad kindREGION = some l → t.regions[g].runSlot = l.slot ∧ t.regions[g].runFallback = l.fallback))

/-- A die fault fences the die, its regions and its cores, holds the dispatched commands with work there, and leaves every other die's parts;
the die's return brings its regions back with their next epochs, and while a checker of its stations fails it stays fenced (R335, R340,
R366). -/
def Obligations.DieFaultAndReturn : Prop :=
  (∀ (s : State) (d : DieId), (s.part (.die d)).state = .fenced → exec (.dieFault d) s = .next s)
  ∧ (∀ (s : State) (d : DieId), (s.part (.die d)).state ≠ .fenced → plainCmds s → s.coils = [] → s.fls.quench = none →
    (∀ g, dieOfRegion g = d → s.copyA ≠ some g ∧ s.copyB ≠ some g) →
    ∃ t, exec (.dieFault d) s = .next t ∧ (t.part (.die d)).state = .fenced
      ∧ (∀ g, dieOfRegion g = d → (t.part (.region g)).state = .fenced ∧ t.regionState g = .fenced)
      ∧ (∀ c, dieOfRegion (regionOfCore c) = d → (t.part (.core c)).state = .fenced ∧ ∀ k, t.slot c k = (s.slot c k).freed)
      ∧ (∀ g, dieOfRegion g ≠ d → t.part (.region g) = s.part (.region g))
      ∧ (∀ c, dieOfRegion (regionOfCore c) ≠ d → t.part (.core c) = s.part (.core c) ∧ (s.cmds = [] → t.cores[c] = s.cores[c]))
      ∧ (∀ q n cm, s.cmd? q n = some cm → cm.phase = .dispatched → cm.held = false →
          (∃ y ∈ cm.insts, y.ended = false ∧ ∃ c k, y.placed = some (c, k) ∧ dieOfRegion (regionOfCore c) = d) →
          ∃ cm', t.cmd? q n = some cm' ∧ cm'.held = true ∧ cm'.heldOn = some (.die d.val) ∧ cm'.lossy = true
            ∧ ∀ y ∈ cm'.insts, y.ended = false → y.placed = none)
      ∧ t.stacked = s.stacked ∧ t.regionMem = s.regionMem ∧ t.hostMem = s.hostMem)
  ∧ (∀ (s : State) (d : DieId) (lost : List RegionId),
    ((s.part (.die d)).state ≠ .fenced → exec (.dieReturn d lost) s = .next s)
    ∧ ((s.part (.die d)).state = .fenced → s.stationBad d = true → exec (.dieReturn d lost) s = .next (s.logSelf d.val)))
  ∧ ∀ (s : State) (d : DieId), (s.part (.die d)).state = .fenced → s.cmds = [] → s.coils = [] → s.fls.quench = none →
    s.svc.fuses = [] → s.badCheckers = [] → (s.part (.die d)).owed = 0 → (s.part (.die d)).mayAdvance s.timeNs = true →
    (∀ g, dieOfRegion g = d → s.regions[g].outOfService = false ∧ s.regions[g].lanesBad = [] ∧ (s.part (.region g)).owed = 0
      ∧ (s.part (.region g)).mayAdvance s.timeNs = true) →
    ∃ t, exec (.dieReturn d []) s = .next t ∧ (t.part (.die d)).state = .inService
      ∧ (t.part (.die d)).epoch = (s.part (.die d)).epoch + 1
      ∧ (∀ g, dieOfRegion g = d → (t.part (.region g)).epoch = (s.part (.region g)).epoch + 1
          ∧ (t.part (.region g)).state = if (s.fwLoad kindREGION).isSome then .inService else .fenced)
      ∧ (∀ g, dieOfRegion g ≠ d → t.part (.region g) = s.part (.region g))
      ∧ t.stacked = s.stacked ∧ t.hostMem = s.hostMem

/-- A package warm reset, asked for, by a control core's watchdog or with the last command store copy, keeps stacked memory (of stacks that train), host memory, flash
contents, the log, device time and the fuses, and loses everything volatile: contexts, queues, commands, region memory and core stores
(R37, R326, R335, R430). A copy of the command store lost alone is made again on the lowest-numbered in-service stack of a die that does not
hold the other, and only the commands whose entry in the other reads uncorrectable fail, with DATA_ERROR (R326, R337). -/
def Obligations.WarmResetKeepsTheStacks : Prop :=
  (∀ (s : State) (w : ControlCore) (i : Instr), s.diesOn = true →
    (i = .packageWarmReset ∨ i = .controlCoreWatchdogExpiry w
      ∨ ((∃ b, i = .commandStoreCopyLoss { second := b, unreadable := [] }) ∧ s.isReady = true ∧ s.copyA = none ∧ s.copyB = none)) →
    ∃ t, exec i s = .next t ∧ t.hostMem = s.hostMem ∧ t.fls.cells = s.fls.cells
      ∧ ((∀ g : RegionId, s.channelBad g = false ∧ s.regions[g].lanesBad = []) → t.stacked = s.stacked)
      ∧ (s.log.recs.length ≤ 8192 → ∃ l, t.log.recs = List.take 8192 (l ++ s.log.recs)) ∧ t.svc.fuses = s.svc.fuses
      ∧ t.timeNs = s.timeNs ∧ t.svc.svn = s.svc.svn ∧ t.svc.hwType = s.svc.hwType
      ∧ t.ctxs = [] ∧ t.queues = [] ∧ t.cmds = [] ∧ t.seqs = [] ∧ t.coils = [] ∧ t.fabric = []
      ∧ t.coreStore = Ram.empty ∧ t.accMem = Ram.empty ∧ t.regionMem = Ram.empty
      ∧ (∀ c k, (t.slot c k).state = .free) ∧ (∀ g : RegionId, t.regions[g].role = 3 ∧ t.regions[g].wdtExpiries = 0)
      ∧ (t.svc.phase = 8 ∨ t.svc.phase = 9) ∧ t.pending = s.pending)
  ∧ (∀ (s : State) (a b : RegionId), s.isReady = true → s.copyA = some a → s.copyB = some b →
    (∀ l : List (Nat × Nat),
      exec (.commandStoreCopyLoss { second := false, unreadable := l }) s
        = .next (l.foldl (fun u p => u.failCmd p.1 p.2 0x10) { s with copyA := s.copyPlace b })
      ∧ exec (.commandStoreCopyLoss { second := true, unreadable := l }) s
        = .next (l.foldl (fun u p => u.failCmd p.1 p.2 0x10) { s with copyB := s.copyPlace a }))
    ∧ ∀ g, s.copyPlace b = some g → dieOfRegion g ≠ dieOfRegion b ∧ s.regionState g = .inService
        ∧ ∀ g' : RegionId, g' < g → dieOfRegion g' ≠ dieOfRegion b → s.regionState g' = .inService → s.regions[g'].stack = .inService →
            s.regions[g'].outOfService = true)

/-- An epoch never moves twice within 1 ms (R330): an advance that comes too soon is owed, and is made later, when the part that waited for
it returns to service. -/
def Obligations.EpochsMoveAtMostOncePerMillisecond : Prop :=
  (∀ (s : State) (p : Part), 0 < (s.part p).owed → (s.part p).mayAdvance s.timeNs = true → s.fls.quench = none →
    ∃ t, exec (.epochAdvance p) s = .next t ∧ (t.part p).epoch = (s.part p).epoch + 1 ∧ (t.part p).lastNs = some s.timeNs
      ∧ (t.part p).owed = (s.part p).owed - 1
      ∧ ((s.part p).returning = true → (s.part p).owed = 1 → (t.part p).state = .inService)
      ∧ (∀ p', p' ≠ p → t.part p' = s.part p') ∧ t = { s with epochs := t.epochs })
  ∧ (∀ (s : State) (p : Part), (s.part p).mayAdvance s.timeNs = false → exec (.epochAdvance p) s = .next s)
  ∧ ∀ (e : EpochEntry) (now t0 : Nat), e.lastNs = some t0 → now < t0 + 1000000 →
      (e.advance now).epoch = e.epoch ∧ (e.advance now).lastNs = some t0 ∧ (e.advance now).owed = e.owed + 1

/-! ## Fabric and time slots -/

/-- Requests between parts and the time slots that carry them (R24, R25, R28 to R31, R33, R34, R284, R331, R332). A request with the current
epoch of a part in service is served at its station, and its reply sent on its path: a write is in memory, a read's bytes are the reply, and
bits that turned on the way are written as they are, or decoded by the reader. Any other is answered PART_ABSENT, logged and kept, and later
ones of its class wait behind it until the part is back. A reply that has come all its way ends its request, or reissues it with a newer
epoch. Traffic between dies crosses the horizontal edge first, or the other way where that is cut, and goes the shorter way round each ring.
Every time slot takes the next table entry, and 4 ns while no offset is slewed; a young transfer alone at a link crosses it, or keeps what did
not fit; a background one goes only in a slot of its class, and a lone write waits for its batch at a controller whose bus reads. A bulk transfer that has waited its age is promoted. A table is copied for use only
when its counts, codes and runs are right, none is pending and the strobe is there, and is in effect from the second frame start. -/
def Obligations.RequestsAndTimeSlots : Prop :=
  (∀ (s : State) (r : FabricReq), s.remoteNode r = none → (∀ w ∈ s.fabric, w.stage = .absent → sameClass w.req r = false) →
    ((s.stateOf r.target = .inService ∧ r.epoch = (s.part r.target).epoch) →
      ∃ t, exec (.fabricRequest r) s = .next t ∧ t.fabric = s.fabric ++ [{ req := r, stage := .served, via := none }]
        ∧ (∀ l rest, s.replyPath r = l :: rest → ∃ x, t.slots.waiting = s.slots.waiting ++ [x] ∧ x.link = l ∧ x.rest = rest ∧ x.id = r.id
            ∧ x.cls = 0 ∧ x.prio = r.prio ∧ x.promoted = false ∧ x.since = s.timeNs ∧ x.born = s.timeNs)
        ∧ (∀ g, r.target = .region g → (r.sram = true → r.addr / 32 * 32 / regionBytes = g.val) →
            (r.sram = false → (r.addr / 32 * 32) / stackSpan = g.val ∧ s.stackedOk (r.addr / 32 * 32) = true) →
            (∀ d s', r.data = some d → s.writeLoc (reqLoc r) (leBytes 32 d.toNat) = .ok s' → t.reply = []
              ∧ (r.flips = 0 → t.stacked = s'.stacked ∧ t.regionMem = s'.regionMem)
              ∧ (r.flips ≠ 0 → r.sram = true → t.regionMem = { s'.regionMem with bad := insertAt s'.regionMem.bad (r.addr / 32) r.flips }
                  ∧ t.stacked = s'.stacked)
              ∧ (r.flips ≠ 0 → r.sram = false → t.stacked = { s'.stacked with bad := insertAt s'.stacked.bad (r.addr / 32) r.flips }
                  ∧ t.regionMem = s'.regionMem))
            ∧ (r.data = none → sameMemory s t
              ∧ (∀ bs, r.flips = 0 → s.readLoc (reqLoc r) 32 = .ok bs → t.reply = bs)
              ∧ (r.flips ≠ 0 → t.reply = ((weaveDecode ((s.travelling r).flip r.flips)).bytes).getD [])))
        ∧ (r.sram = false → t.regionMem = s.regionMem) ∧ (r.sram = true → sameStacked s t)
        ∧ t.coreStore = s.coreStore ∧ t.accMem = s.accMem ∧ t.epochs = s.epochs)
    ∧ (¬ (s.stateOf r.target = .inService ∧ r.epoch = (s.part r.target).epoch) →
      ∃ t, exec (.fabricRequest r) s = .next t ∧ t.fabric = s.fabric ++ [{ req := r, stage := .absent, via := none }]
        ∧ (s.limitCount (9 * 2 ^ 32) < 256 → ∃ x, t.log.recs = List.take 8192 (x :: s.log.recs) ∧ x.source = 9 ∧ x.cause = 0
            ∧ x.unit = partUnit r.target ∧ x.epoch = (s.part r.target).epoch)
        ∧ t = { s with fabric := t.fabric, log := t.log, hif := t.hif }))
  ∧ (∀ (s : State) (r : FabricReq) (w : FabricWait), s.remoteNode r = none → w ∈ s.fabric → w.stage = .absent → sameClass w.req r = true →
    exec (.fabricRequest r) s = .next { s with fabric := s.fabric ++ [{ req := r, stage := .behind, via := none }] })
  ∧ (∀ (s : State) (id : Nat) (w : FabricWait), (∀ x ∈ s.fabric, x.stage = .behind → s.remoteNode x.req = none) →
    s.fabric.find? (fun w => w.req.id == id && w.stage == .served) = some w → (∀ x ∈ s.slots.waiting, x.id = id → x.cls ≠ 0) →
    (exec (.fabricReply id w.req.epoch) s = .next { s with fabric := s.fabric.filter (fun x => !(x.req.id == id && x.stage == .served)) })
    ∧ (∀ e, e ≠ w.req.epoch → s.fabric = [w] → s.remoteNode w.req = none → ∃ t, exec (.fabricReply id e) s = .next t
        ∧ t.fabric = [{ req := { w.req with epoch := e }, via := none
                        stage := if s.stateOf w.req.target = .inService ∧ e = (s.part w.req.target).epoch then .served else .absent }]))
  ∧ (∀ (s : State) (p : Part), (s.stateOf p = .fenced → exec (.partAbsentRetry p) s = .next s)
    ∧ (s.stateOf p = .resetting → ∃ t, exec (.partAbsentRetry p) s = .next t ∧ t = { s with log := t.log, hif := t.hif })
    ∧ (∀ w, s.stateOf p = .inService → s.fabric = [w] → w.req.target = p → s.remoteNode w.req = none → w.stage = .absent →
        ∃ t, exec (.partAbsentRetry p) s = .next t
          ∧ t.fabric = [{ req := { w.req with epoch := (s.part p).epoch }, stage := .served, via := none }]))
  ∧ (∀ (s : State) (a b : DieId),
    let first := (if a.val % 2 = b.val % 2 then [] else [true]) ++ (if a.val / 2 = b.val / 2 then [] else [false])
    (s.cutOn a first = false → s.dieRoute a b = first)
    ∧ (∀ x, first = [x] → s.cutOn a [x] = true → s.cutOn a [!x, x, !x] = false → s.dieRoute a b = [!x, x, !x])
    ∧ (first = [true, false] → s.cutOn a first = true → s.cutOn a [false, true] = false → s.dieRoute a b = [false, true])
    ∧ ((∀ e : Fin 4, s.edgeFenced[e] = false) → (∀ d : DieId, (s.part (.die d)).state ≠ .fenced) → s.cutOn a first = false))
  ∧ (∀ (s : State), (∀ i : Fin 32, s.segFenced[i] = false) → ∀ (d : DieId) (a b : Fin 8),
    (s.ring d a b).length = min ((b.val + 8 - a.val) % 8) ((a.val + 8 - b.val) % 8)
    ∧ ∀ l ∈ s.ring d a b, ∃ st, l = .segment d st (decide ((b.val + 8 - a.val) % 8 ≤ 4)))
  ∧ (∀ (s : State) (x : Transfer), s.slots.waiting = [x] → x.prio = .bulk → x.cls = 0 → x.promoted = false →
    x.since + s.regions[regionOfLink x.link].bulkAge ≤ s.timeNs →
    ∃ t, exec (.bulkPromotion x.link x.id) s = .next t ∧ t.slots = { s.slots with waiting := [{ x with promoted := true }] }
      ∧ t.regions[regionOfLink x.link].cnt.memAged = s.regions[regionOfLink x.link].cnt.memAged + 1
      ∧ t = { s with slots := t.slots, regions := t.regions })
  ∧ (∀ s : State, ∃ t, exec .timeSlotStart s = .next t ∧ t.slots.slot = (s.slots.slot + 1) % 256
    ∧ t.slots.frames = (if t.slots.slot = 0 then s.slots.frames + 1 else s.slots.frames)
    ∧ (s.tim.slewNs = 0 → t.timeNs = s.timeNs + 4 ∧ t.tim = s.tim)
    ∧ (s.slots.waiting = [] → t.slots.waiting = [])
    ∧ (∀ x, s.slots.waiting = [x] → s.timeNs + 5 + 1000 * x.age ≤ x.born + 1000000 →
        (∀ g, x.link = .controller g ∨ x.link = .memory g → x.cls = 0) →
        (∀ p, x.link = .darit p → x.cls = 0 ∧ s.darit.ports[p].st = .up) →
        (∀ g, x.link = .controller g → s.regions[g].busWrite = []) →
        (∀ g, x.link = .controller g → x.write = true → x.promoted = false → t.slots.waiting = [x])
        ∧ (x.cls ≠ 0 → x.cls ≠ t.slots.cls → t.slots.waiting = [x])
        ∧ (x.cls = 0 ∨ x.cls = t.slots.cls → (∀ g, x.link = .controller g → x.write = false) →
          (x.beats ≤ s.beatsOf x.link → t.slots.waiting = x.move t.timeNs)
          ∧ (s.beatsOf x.link < x.beats → t.slots.waiting = [{ x with beats := x.beats - s.beatsOf x.link, begun := true }])))
    ∧ t = { s with slots := t.slots, regions := t.regions, timeNs := t.timeNs, tim := t.tim, fabric := t.fabric, darit := t.darit, log := t.log })
  ∧ (∀ s : State,
    (s.slots.strobeAbsent = false → ∃ t, exec .strobeLost s = .next t
      ∧ t.slots = { s.slots with strobeAbsent := true, strobeLost := true, aligned := false }
      ∧ (∃ r, t.log.recs = List.take 8192 (r :: s.log.recs) ∧ r.source = 16 ∧ r.cause = 1 ∧ r.unit = 0xFFFF)
      ∧ t = { s with slots := t.slots, log := t.log })
    ∧ (s.slots.strobeAbsent = true → ∃ t, exec .strobeReturn s = .next t
      ∧ t.slots = { s.slots with strobeAbsent := false, framesLeft := 2 }
      ∧ (∃ r, t.log.recs = List.take 8192 (r :: s.log.recs) ∧ r.source = 16 ∧ r.cause = 2 ∧ r.unit = 0xFFFF)
      ∧ t = { s with slots := t.slots, log := t.log })
    ∧ (s.slots.strobeAbsent = true → exec .strobeLost s = .next s) ∧ (s.slots.strobeAbsent = false → exec .strobeReturn s = .next s))
  ∧ (∀ (s : State) (h : HostPort), s.pwr.current ≠ 3 → s.isReady = true →
    ∃ t, exec (.slotTableCommit h) s = .next t ∧ t = { s with slots := t.slots }
      ∧ t.slots = (if s.slots.copied.isSome then { s.slots with err := 4 }
        else if s.slots.strobeAbsent then { s.slots with err := 5 }
        else if tableError s.slots.shadow = 0 then { s.slots with copied := some s.slots.shadow, framesLeft := 2 }
        else { s.slots with err := tableError s.slots.shadow }))
  ∧ (∀ (s : State) c, s.slots.copied = some c →
    ∃ t, exec .slotTableEffect s = .next t ∧ t = { s with slots := t.slots }
      ∧ t.slots = (if s.slots.strobeAbsent = false ∧ s.slots.framesLeft ≤ 1 ∧ s.slots.slot = 255
        then { s.slots with active := c, copied := none, framesLeft := 0, commits := s.slots.commits + 1, err := 0 } else s.slots))
  ∧ ∀ x : Vector (BitVec 4) 256, tableError x = 0 ↔
      (8 ≤ classCount x 1 ∧ classCount x 1 ≤ 64 ∧ 4 ≤ classCount x 2 ∧ classCount x 2 ≤ 32 ∧ 8 ≤ classCount x 3 ∧ classCount x 3 ≤ 32
        ∧ 2 ≤ classCount x 4 ∧ classCount x 4 ≤ 16 ∧ classCount x 5 ≤ 16 ∧ 128 ≤ classCount x 0)
      ∧ (∀ i : Fin 256, (x[i]).toNat ≤ 5)
      ∧ ∀ i : Fin 256, x[i] = 0 ∨ x[i + 1] = 0 ∨ x[i + 2] = 0

/-! ## Scrub and flash care -/

/-- Scrub and the care of flash (R290, R291, R294, R362, R363, R411). In Blaze and Glow a scrubber's slot moves every region's position on, touches
no block without bad bits, and mends and counts a correctable one it passes; elsewhere it does nothing. A read of a stack moves its pass on by
one block and asks for the write-back of a block it corrected, which counts; the write-back mends it, and no byte reads otherwise. The data of
a flash block read too often, and of the least-worn block where the most worn is more than 150 cycles ahead, move to a fresh block, and that
counts; below those bounds nothing moves. Without spares the tier is read-only. -/
def Obligations.ScrubAndFlashCare : Prop :=
  (∀ s : State, ∃ t, exec .sramScrubSlot s = .next t ∧ t.stacked = s.stacked ∧ t.hostMem = s.hostMem
    ∧ (2 ≤ s.pwr.current → t = s)
    ∧ (∀ g : RegionId, t.regions[g].sramPos = if s.pwr.current < 2 ∧ s.regionState g = .inService
        then (s.regions[g].sramPos + 1) % 81920 else s.regions[g].sramPos)
    ∧ (s.pwr.current < 2 → s.coreStore.bad = [] → s.accMem.bad = [] →
        (s.regionMem.bad = [] →
          (∀ g : RegionId, t.regions[g] = { s.regions[g] with sramPos := t.regions[g].sramPos }) ∧ t = { s with regions := t.regions })
        ∧ (∀ (g : RegionId) (b d i : Nat) (m : BitVec 288), s.regionState g = .inService → s.regionMem.bad = [(b, m)] →
            let first := (g.val * regionBytes + 2048 * s.regions[g].sramPos % regionBytes) / 32
            first ≤ b → b < first + 64 → s.regionMem.check b = .corrected (BitVec.ofNat 256 d) i →
            t.regionMem = s.regionMem.putBlock b (leBytes 32 (BitVec.ofNat 256 d).toNat)
              ∧ t.regions[g].cnt.ceSram = s.regions[g].cnt.ceSram + 1 ∧ t.coreStore = s.coreStore ∧ t.accMem = s.accMem)))
  ∧ (∀ (s : State) (g : RegionId), s.pwr.current < 2 → s.regionState g = .inService → s.regions[g].writeback = none →
    s.regions[g].scrubPos < stackSpan / 32 →
    let b := g.val * (stackSpan / 32) + s.regions[g].scrubPos
    ∃ t, exec (.stackScrubRead g) s = .next t
      ∧ t.regions[g].scrubPos = (if s.regions[g].scrubPos + 1 < stackBlocks s.regions[g] then s.regions[g].scrubPos + 1 else 0)
      ∧ ((∃ d i, s.stackedCheck b = .corrected d i) → t.regions[g].writeback = some b ∧ t.regions[g].cnt.ceHbm = s.regions[g].cnt.ceHbm + 1)
      ∧ ((∀ d i, s.stackedCheck b ≠ .corrected d i) → t.regions[g].writeback = none)
      ∧ sameMemory s t)
  ∧ (∀ (s : State) (g : RegionId) (b : Nat), s.pwr.current < 2 → s.regionState g = .inService → s.regions[g].writeback = some b →
    ∃ t, exec (.scrubWriteback g) s = .next t
      ∧ (∀ d i, s.tableBlock b = none → s.stackedCheck b = .corrected d i → t.stacked = s.stacked.putBlock b (leBytes 32 d.toNat))
      ∧ ((∀ d i, s.stackedCheck b ≠ .corrected d i) → t.stacked = s.stacked)
      ∧ sameStacked s t
      ∧ t.regions[g] = { s.regions[g] with writeback := none } ∧ (∀ g' : RegionId, g' ≠ g → t.regions[g'] = s.regions[g'])
      ∧ t = { s with stacked := t.stacked, regions := t.regions })
  ∧ (∀ s : State,
    let moved (t : State) (block : Nat) : Prop :=
      t.fls.mediaWr = s.fls.mediaWr + BitVec.ofNat 64 (s.fls.mapped.filter (fun e => e.2 == block)).length
        ∧ (sortedKeys s.fls.mapped = true → hasKey s.fls.cycles block = true → s.fls.cycles.length < eraseBlocks →
            (s.fls.mapped.filter (fun e => e.2 == block)).length ≤ eraseUnits → ∀ k, lookup t.fls.mapped k ≠ some block)
    (∀ block, (s.fls.readLimitK * 1000 ≤ s.fls.readsOf block → ∃ t, exec (.flashReadDisturb block) s = .next t ∧ moved t block
        ∧ t.fls = { s.fls with
            reads := t.fls.reads, mapped := t.fls.mapped, cycles := t.fls.cycles, opened := t.fls.opened, mediaWr := t.fls.mediaWr,
            reloc := s.fls.reloc + 1 }
        ∧ t = { s with fls := t.fls } ∧ (sortedKeys s.fls.reads = true → t.fls.readsOf block = 0))
      ∧ (s.fls.readsOf block < s.fls.readLimitK * 1000 → exec (.flashReadDisturb block) s = .next s))
    ∧ (∀ b c, s.fls.leastWorn = some (b, c) →
        ((∃ e ∈ s.fls.cycles, c + 150 < e.2) → ∃ t, exec .flashWearLevel s = .next t ∧ moved t b
          ∧ t.fls = { s.fls with
              reads := t.fls.reads, mapped := t.fls.mapped, cycles := t.fls.cycles, opened := t.fls.opened, mediaWr := t.fls.mediaWr,
              wear := s.fls.wear + 1 }
          ∧ t = { s with fls := t.fls })
        ∧ ((∀ e ∈ s.fls.cycles, e.2 ≤ c + 150) → exec .flashWearLevel s = .next s))
    ∧ (s.fls.leastWorn = none → exec .flashWearLevel s = .next s)
    ∧ exec .flashSparesExhausted s = .next { s with fls := { s.fls with
        noSpares := true, state := if s.fls.state = .ready then .readOnly else s.fls.state } })

/-! ## Sample queues -/

/-- The sample engine (R253, R256, R258 to R260, R262 to R265, R267 to R269). START reads the descriptor and ends in ERROR with MALFORMED,
DATA_ERROR or VERSION, or runs from the start position; elsewhere than in IDLE and ERROR it is ignored; STOP discards what is in decode and an
open row. A grant goes to the queue whose turn it is: a free lane decodes the next position's entry, and a position of epoch 1,048,576 is to stop
the queue with LIMIT. A decode's end stops the queue where the source cannot be read; a try over its budget, or with a failing stream or
payload, is counted, and drops the live frame, begins the next try or stops the queue; else the sample is finished and staged. Hand-off in
order: an error stops the queue; an unfinished sample and a full ring wait; a sample goes to its slot, header last, its units kept; a live one
too old by then is dropped; a packed one joins the open row, which closes first when the sample does not fit; after the last epoch an
unpacked queue is IDLE. A failing lane is logged and fenced, and its sample waits for another lane. -/
def Obligations.SampleQueuesRun : Prop :=
  (∀ (s : State) (q : SampleQ), s.pwr.current ≠ 3 → s.isReady = true →
    let x := s.smp[q]
    let a := x.descAddr
    (x.state ≠ 0 → x.state ≠ 3 → exec (.sampleQueueStart q) s = .next s)
    ∧ ((x.state = 0 ∨ x.state = 3) →
      ((s.stackedOk a = false ∨ s.stackedOk (a + 127) = false) →
        exec (.sampleQueueStart q) s = .next { s with smp := s.smp.set q (x.fail 0x21) })
      ∧ (s.stackedOk a = true → s.stackedOk (a + 127) = true →
        (∀ st note, s.readLoc (.stacked a) 128 = .error (.status st note) →
          exec (.sampleQueueStart q) s = .next ((s.noteRead (.stacked a) 128).updSmp q (fun x => x.fail 0x10)))
        ∧ (∀ bs, s.readLoc (.stacked a) 128 = .ok bs → ∃ t, exec (.sampleQueueStart q) s = .next t
          ∧ (smpDescClean bs = false → t.smp = s.smp.set q (x.fail 0x20))
          ∧ (smpDescClean bs = true → s.smpDescOk (smpDescOf bs) = false → t.smp = s.smp.set q (x.fail 0x21))
          ∧ (smpDescClean bs = true → s.smpDescOk (smpDescOf bs) = true → t.smp = s.smp.set q { x with
              state := 1, desc := some (smpDescOf bs), pos := (smpDescOf bs).startEpoch * (smpDescOf bs).samples + (smpDescOf bs).startIndex,
              start := (smpDescOf bs).startEpoch * (smpDescOf bs).samples + (smpDescOf bs).startIndex, hands := 0,
              rowFirst := (smpDescOf bs).startEpoch * (smpDescOf bs).samples + (smpDescOf bs).startIndex, row := [], work := [], tail := 0
              tailBase := 0 })
          ∧ sameMemory s t ∧ t = { s with smp := t.smp, regions := t.regions, log := t.log, hif := t.hif, stacked := t.stacked }))))
  ∧ (∀ (s : State) (q : SampleQ) (tail : W32), s.pwr.current ≠ 3 → s.isReady = true →
    exec (.sampleTailWrite q tail) s = .next { s with smp := s.smp.set q { s.smp[q] with tail := tail } }
    ∧ exec (.sampleCountersClear q) s = .next { s with smp := s.smp.set q { s.smp[q] with
        fails := Vector.replicate 8 0, out := 0, drop := 0, sat := 0 } }
    ∧ (s.smp[q].state = 1 → exec (.sampleQueueStop q) s = .next { s with smp := s.smp.set q { s.smp[q] with
        state := 0, row := [], work := [], pos := if s.smp[q].row = [] then s.smp[q].pos else s.smp[q].rowFirst } })
    ∧ (s.smp[q].state ≠ 1 → exec (.sampleQueueStop q) s = .next s))
  ∧ (∀ (s : State) (q : SampleQ),
    let x := s.smp[q]
    (s.smpReady q = false ∨ s.smpTurnOf q = false → exec (.sampleDecodeStart q) s = .next s)
    ∧ (∀ (d : SmpDesc) (cons : Nat), s.smpRuns q = some d → s.smpTurnOf q = true →
      (∀ y ∈ x.work, (y.lane ≠ none ∨ y.done ≠ none ∨ y.stop ≠ none) ∧ y.pos ≠ x.nextPos) → s.smpCons d = .ok cons → x.mayEnter d cons = true →
      let w : SmpWork := { pos := x.nextPos, try_ := 0, first := 0, lane := none, done := none, stop := none, entry := [], stage := none }
      (1048576 ≤ d.epochOf x.nextPos → exec (.sampleDecodeStart q) s = .next { s with
          smpTurn := q.val, smp := s.smp.set q { x with work := x.work ++ [{ w with stop := some 0x22 }] } })
      ∧ (∀ bs l, d.epochOf x.nextPos < 1048576 → s.smpEntry d w = .ok bs → s.entryFails d (smpEntryOf d.live bs) = .ok none →
          s.freeLane (smpEntryOf d.live bs).codec = some l →
          exec (.sampleDecodeStart q) s = .next { s with
            smpTurn := q.val
            smp := s.smp.set q { x with work := x.work ++ [{ w with lane := some l, entry := bs, stage := x.freeStage d }] } })))
  ∧ (∀ (s : State) (q : SampleQ) (d : SmpDesc) (w : SmpWork) (out : DecodeOut) (o : StreamOut), s.smpRuns q = some d →
    s.smp[q].work.find? (fun y => y.pos == w.pos && y.lane.isSome) = some w →
    let e := smpEntryOf d.live w.entry
    (e.codec ≤ 1 → e.decodeOwn (s.source d e).1 = some o) → (1 < e.codec → e.decodeOther d out = some o) →
    let failed (i : Fin 8) : Prop := ∃ t, exec (.sampleDecodeEnd q w.pos out) s = .next t
      ∧ t.smp = s.smp.set q { s.smp[q] with
          fails := s.smp[q].fails.set i (s.smp[q].fails[i] + 1)
          work := s.smp[q].work.map (fun y => if y.pos ≠ w.pos then y
            else if d.live then { y with lane := none, done := some (droppedAt w.pos (i.val + 1) e.capture) }
            else if y.try_ < d.tries then
              { y with lane := none, entry := [], try_ := y.try_ + 1, first := if y.first = 0 then i.val + 1 else y.first }
            else { y with lane := none, first := if y.first = 0 then i.val + 1 else y.first, stop := some 0x12 }) }
      ∧ sameMemory s t ∧ t = { s with smp := t.smp, regions := t.regions, log := t.log, hif := t.hif, stacked := t.stacked }
    (∀ st nt, s.readVirt none d.ctx e.src o.read = .error (.status st nt) → exec (.sampleDecodeEnd q w.pos out) s
        = .next ((s.noteErr nt).updSmp q (fun x => x.updWork w.pos (fun w => { w with lane := none, stop := some st }))))
    ∧ (∀ bs b, s.readVirt none d.ctx e.src o.read = .ok bs → s.smpBudget s.smp[q] d w.pos = .ok b →
      (b < o.units → failed 4)
      ∧ (o.units ≤ b → ∀ i : Fin 8, o.res = .error (i.val + 1) → failed i)
      ∧ (o.units ≤ b → ∀ elems wd h ch fr, o.res = .ok (elems, wd, h, ch, fr) →
        (∀ i : Fin 8, d.finish w e o.units elems wd h ch fr = .error (i.val + 1) → failed i)
        ∧ (∀ z sat s', d.finish w e o.units elems wd h ch fr = .ok (z, sat) →
            (s.noteVirt none d.ctx e.src o.read).stageSample d w z = .ok s' →
            exec (.sampleDecodeEnd q w.pos out) s = .next (s'.updSmp q (fun x => { x with
              work := x.work.map (fun y => if y.pos = w.pos then { y with lane := none, done := some z } else y)
              sat := x.sat + BitVec.ofNat 64 sat }))))))
  ∧ (∀ (s : State) (q : SampleQ) (d : SmpDesc) (w : SmpWork) (out : DecodeOut) (st : Nat) (nt : ErrNote), s.smpRuns q = some d →
    s.smp[q].work.find? (fun y => y.pos == w.pos && y.lane.isSome) = some w →
    let e := smpEntryOf d.live w.entry
    e.codec ≤ 1 → e.decodeOwn (s.source d e).1 = none → (s.source d e).2 = some (.status st nt) →
    exec (.sampleDecodeEnd q w.pos out) s
      = .next ((s.noteErr nt).updSmp q (fun x => x.updWork w.pos (fun w => { w with lane := none, stop := some st }))))
  ∧ (∀ (s s0 s1 s2 : State) (q : SampleQ) (d : SmpDesc) (w : SmpWork) (rest : List SmpWork), s.smpRuns q = some d →
    s.smp[q].work = w :: rest → d.last ≠ some s.smp[q].pos → d.last ≠ some s.smp[q].handed →
    let x := s.smp[q]
    let ended (y : SmpQueue) : SmpQueue := if d.last = some y.pos then { y with state := 0, work := [] } else y
    (∀ st, w.stop = some st → exec (.sampleHandoff q) s = .next { s with smp := s.smp.set q (x.fail st) })
    ∧ (w.stop = none → w.done = none → exec (.sampleHandoff q) s = .next s)
    ∧ (∀ z, w.stop = none → w.done = some z → d.pack = false → x.row = [] →
      let late := z.dropped = false ∧ d.live = true ∧ d.maxAgeUs * 1000 < s.timeNs - z.captureNs
      ((d.room x.hands).run s = .ok (false, s0) → exec (.sampleHandoff q) s = .next s0)
      ∧ ((d.room x.hands).run s = .ok (true, s0) →
        (¬ late → (handSlot d x.hands (slotHeader (if z.dropped then 2 else 0) x.pos z z.payload.length) z.payload).run s0 = .ok ((), s1) →
          (keepUnits d x.pos z.units).run s1 = .ok ((), s2) →
          exec (.sampleHandoff q) s = .next { s2 with smp := s2.smp.set q (ended { s2.smp[q] with
            hands := s2.smp[q].hands + 1, out := s2.smp[q].out + 1, pos := s2.smp[q].pos + 1, work := s2.smp[q].work.drop 1
            drop := if z.dropped then s2.smp[q].drop + 1 else s2.smp[q].drop }) })
        ∧ (late → let z' := droppedAt x.pos 8 z.captureNs
          (handSlot d x.hands (slotHeader 2 x.pos z' 0) []).run s0 = .ok ((), s1) → (keepUnits d x.pos 0).run s1 = .ok ((), s2) →
          z'.payload = [] ∧ exec (.sampleHandoff q) s = .next { s2 with smp := s2.smp.set q (ended { s2.smp[q] with
            hands := s2.smp[q].hands + 1, out := s2.smp[q].out + 1, pos := s2.smp[q].pos + 1, work := s2.smp[q].work.drop 1
            drop := s2.smp[q].drop + 1, fails := s2.smp[q].fails.set 7 (s2.smp[q].fails[7] + 1) }) })))
    ∧ (∀ z, w.stop = none → w.done = some z → d.pack = true → d.last ≠ some (x.pos + 1) →
      let n := z.payload.length / d.tokenBytes
      let seg (start : Nat) : RowSeg := { pos := x.pos, sample := z.sample, start := start, length := n, try_ := z.try_, reason := z.reason,
                                          units := z.units, payload := z.payload }
      (rowUsed x.row + n ≤ d.rowTokens → x.row.length ≠ 4096 →
        exec (.sampleHandoff q) s = .next { s with smp := s.smp.set q { x with
          rowFirst := if x.row = [] then x.pos else x.rowFirst, row := x.row ++ [seg (rowUsed x.row)], pos := x.pos + 1
          work := x.work.drop 1 } })
      ∧ (d.rowTokens < rowUsed x.row + n ∨ x.row.length = 4096 →
        let p := rowPayload d x.row
        ((d.room x.hands).run s = .ok (false, s0) → exec (.sampleHandoff q) s = .next s0)
        ∧ ((d.room x.hands).run s = .ok (true, s0) →
          (handSlot d x.hands (rowHeader d.outFmt x.rowFirst x.row.length p.length) p).run s0 = .ok ((), s1) →
          (x.row.forM (fun g => keepUnits d g.pos g.units)).run s1 = .ok ((), s2) →
          exec (.sampleHandoff q) s = .next { s2 with smp := s2.smp.set q { s2.smp[q] with
            hands := s2.smp[q].hands + 1, out := s2.smp[q].out + 1, rowFirst := x.pos, row := [seg 0], pos := x.pos + 1
            work := x.work.drop 1 } }))))
  ∧ ∀ (s : State) (lane : Nat), (lane < 10 → lane ∉ s.lanesFenced →
    ∃ t, exec (.decodeLaneFault lane) s = .next t ∧ t.lanesFenced = lane :: s.lanesFenced
      ∧ (∀ (q : SampleQ) (y : SmpWork), y ∈ t.smp[q].work → y.lane ≠ some lane)
      ∧ (∀ q : SampleQ, t.smp[q] = { s.smp[q] with work := t.smp[q].work } ∧ t.smp[q].work.length = s.smp[q].work.length)
      ∧ (∃ r, t.log.recs = List.take 8192 (r :: s.log.recs) ∧ r.source = 8 ∧ r.cause = 1)
      ∧ t = { s with lanesFenced := t.lanesFenced, smp := t.smp, log := t.log })
    ∧ (10 ≤ lane ∨ lane ∈ s.lanesFenced → exec (.decodeLaneFault lane) s = .next s)

/-! ## Registers -/

/-- Registers with rows of their own and those without, in Blaze once READY (R17, R18, R36, R396, R403, R427, R460, R126, R153, R167, R218, R242, R293, R370). A
role waits for a drain before it is in force; a watchdog period outside 1 to 1000 is not taken and noted; CLEAR zeroes its counters and no
other; a misaligned or narrow write is discarded; a read of a LO register latches HI. -/
def Obligations.RegisterRows : Prop :=
  (∀ (s : State) (v : W32), s.pwr.current = 0 → s.isReady = true →
    (∀ g : RegionId, ∃ t, exec (.roleWrite g v) s = .next t ∧ t.regions[g].role = fld v.toNat 1 0
      ∧ (s.excluded g (fld v.toNat 1 0) = false →
          t.regions[g] = { s.regions[g] with role := fld v.toNat 1 0, roleNow := fld v.toNat 1 0, rolePending := false })
      ∧ (s.excluded g (fld v.toNat 1 0) = true →
          t.regions[g] = { s.regions[g] with role := fld v.toNat 1 0, rolePending := true })
      ∧ (∀ g' : RegionId, g' ≠ g → t.regions[g'] = s.regions[g']) ∧ t = { s with regions := t.regions })
    ∧ (∀ g : RegionId, exec (.watchdogPeriodWrite g v) s = .next (s.updRegion g (fun r =>
        if 1 ≤ fld v.toNat 9 0 ∧ fld v.toNat 9 0 ≤ 1000 then
          { r with wdtPeriod := fld v.toNat 9 0, wdtWriteErr := r.wdtWriteErr && !bit v.toNat 12 }
        else { r with wdtWriteErr := true })))
    ∧ (∀ c, exec (.anvilCountersClear c v) s = .next
        (if bit v.toNat 0 then s.updCore c (fun co => { co with cntActive := 0, cntMac := 0 }) else s))
    ∧ (∀ g, exec (.atomicCountersClear g v) s = .next
        (if bit v.toNat 0 then s.updCnt g (fun x => { x with applied := 0, dup := 0, retry := 0 }) else s))
    ∧ (∀ g, exec (.tileCountersClear g v) s = .next
        (if bit v.toNat 0 then s.updCnt g (fun x => { x with tileDup := 0, tileClaim := 0 }) else s))
    ∧ (∀ g, exec (.pageCountersClear g v) s = .next
        (if bit v.toNat 0 then s.updCnt g (fun x => { x with pageCopy := 0, blockCopy := 0, kvServed := 0 }) else s))
    ∧ (∀ g, exec (.coilCountersClear g v) s = .next
        (if bit v.toNat 0 then s.updCnt g (fun x => { x with coilRound := 0, coilUnpark := 0, coilEvict := 0, coilSkip := 0 }) else s))
    ∧ (∀ g, exec (.memoryCountersClear g v) s = .next
        (if bit v.toNat 0 then s.updCnt g (fun x => { x with memRd := 0, memWr := 0, memTurn := 0, memAged := 0 }) else s))
    ∧ (∀ g, exec (.integrityCountersClear g v) s = .next
        (if bit v.toNat 0 then s.updCnt g (fun x => { x with ceSram := 0, ceHbm := 0, ueSram := 0, ueHbm := 0 }) else s))
    ∧ (∃ t, exec (.snapshotPartitionWrite v) s = .next t
        ∧ t.fls.snap8 = (if s.fls.mayPart (fld v.toNat 9 0) then fld v.toNat 9 0 else s.fls.snap8)
        ∧ t.fls.partErr = ((s.fls.partErr && !bit v.toNat 31) || !s.fls.mayPart (fld v.toNat 9 0))
        ∧ t.fls = { s.fls with snap8 := t.fls.snap8, partErr := t.fls.partErr } ∧ t = { s with fls := t.fls }))
  ∧ (∀ (s : State) (v : W32), s.pwr.current ≠ 3 → s.isReady = false →
    exec (.snapshotPartitionWrite v) s = .next s ∧ ∀ g, exec (.roleWrite g v) s = .next s)
  ∧ (∀ (s : State) (h : HostPort) (off width : Nat) (v : W32), s.pwr.current ≠ 3 → s.diesOn = true →
    (width ≠ 4 ∨ off % 4 ≠ 0 → exec (.registerWrite h off width v) s = .next s)
    ∧ (exec (.registerWrite h 0x100C 4 v) s = .next (s.updHif h (fun x => { x with evtEn := BitVec.ofNat 4 v.toNat })))
    ∧ (exec (.registerWrite h 0x1008 4 v) s = .next (s.updHif h (fun x => { x with evt := x.evt &&& ~~~(BitVec.ofNat 4 v.toNat) })))
    ∧ (s.isReady = true → exec (.registerWrite h 0x20C000 4 v) s = .next { s with
        ageMs := if 1 ≤ fld v.toNat 31 16 ∧ fld v.toNat 31 16 ≤ 10000 then fld v.toNat 31 16 else s.ageMs
        preemptWait := if fld v.toNat 9 0 ≤ 1000 then fld v.toNat 9 0 else s.preemptWait }))
  ∧ ∀ (s : State) (h : HostPort) (off : Nat), s.pwr.current = 0 → s.diesOn = true →
    (∀ v, s.wide h off = some v → ∃ t, exec (.counterLoRead h off) s = .next t ∧ t.reply = leBytes 4 (v % 2 ^ 32)
      ∧ lookup t.hif[h].latches (off + 4) = some (BitVec.ofNat 32 (v / 2 ^ 32)) ∧ t = { s with reply := t.reply, hif := t.hif })
    ∧ (∃ t, exec (.peakPowerRead h) s = .next t ∧ t.reply = leBytes 4 (s.barRead h 0x2000C) ∧ t.pwr = { s.pwr with peakW := 0 }
      ∧ t = { s with reply := t.reply, pwr := t.pwr })

/-! ## Snapshot transfers -/

/-- The operations of FLS_XFER_CTRL (R269, R349 to R354), when none is under way. EXPORT copies a range of a committed image to host memory;
IMPORT takes its first range with the header, and later ones, and with the last one checks the image and commits it or empties the entry;
RESTORE fails with the first condition that holds, or brings an image's memory, sequences, coils and queues back, with its contexts paused and
its sample queues going on at their positions, and those of a whole device's image its roles and slot table too; RELEASE lets paused contexts
go on; DISCARD empties a committed entry; other codes are MALFORMED. Each ends with its status and BUSY clear; EXPORT and IMPORT wait while
their port is down. -/
def Obligations.TransferOperations : Prop :=
  ∀ s : State, s.pwr.current ≠ 3 → s.isReady = true → s.fls.xBusy = false →
    let f := s.fls
    let i := f.xEntry
    let z := f.snaps[i]
    let ended (op st : Nat) : Flash := { f with xOp := op, xLast := op, xStatus := st, xBusy := false }
    (z.state ≠ .committed ∨ f.xRange z.blocks = false → exec .exportImage s = .next { s with fls := ended 0 0x21 })
    ∧ (z.state = .committed → f.xRange z.blocks = true → s.hif[f.xHost].up = false →
        exec .exportImage s = .next { s with fls := { f with xOp := 0, xLast := 0, xBusy := true } })
    ∧ (z.state = .committed → f.xRange z.blocks = true → s.hif[f.xHost].up = true → ∃ rd, exec .exportImage s = .next { s with
        fls := { ended 0 0 with reads := rd }
        hostMem := spaceWrite s.hostMem (hostKey f.xHost f.xAddr.toNat) ((z.image.drop f.xOff.toNat).take f.xLen.toNat) })
    ∧ (s.hif[f.xHost].up = true → z.state = .writing → z.imported = true → f.xRange z.blocks = true →
        let bs := spaceRead s.hostMem (hostKey f.xHost f.xAddr.toNat) f.xLen.toNat
        let y := z.take f.xOff.toNat bs
        ∃ t, exec .importImage s = .next t ∧ t = { s with fls := t.fls } ∧ t.fls.xLast = 1 ∧ t.fls.xBusy = false
          ∧ t.fls.hostWr = f.hostWr + BitVec.ofNat 64 (f.xLen.toNat / 4096)
          ∧ (∀ j : Fin 16, j ≠ i → t.fls.snaps[j] = f.snaps[j])
          ∧ (y.arrived ≠ 2 ^ y.blocks - 1 → t.fls.snaps[i] = y ∧ t.fls.xStatus = 0)
          ∧ (y.arrived = 2 ^ y.blocks - 1 → imageHeaderOk y.image = true ∧ imageChunksOk y.image = true →
              (t.fls.snaps[i]).state = .committed ∧ (t.fls.snaps[i]).image = y.image ∧ t.fls.xStatus = 0)
          ∧ (y.arrived = 2 ^ y.blocks - 1 → imageHeaderOk y.image = false ∨ imageChunksOk y.image = false →
              t.fls.snaps[i] = Snap.reset ∧ t.fls.xStatus = 0x10))
    ∧ (s.hif[f.xHost].up = true → z.state ≠ .empty → (z.state = .writing → z.imported = true → f.xRange z.blocks = false) →
        exec .importImage s = .next { s with fls := ended 1 0x21 })
    ∧ (s.hif[f.xHost].up = false → exec .importImage s = .next { s with fls := { f with xOp := 1, xLast := 1, xBusy := true } })
    ∧ (s.hif[f.xHost].up = true → z.state = .empty →
        let n := imageBlocks (spaceRead s.hostMem (hostKey f.xHost f.xAddr.toNat) 4096)
        (f.xOff ≠ 0 ∨ f.xLen.toNat < 4096 ∨ f.xRange n = false → exec .importImage s = .next { s with fls := ended 1 0x21 })
        ∧ (f.xOff = 0 → 4096 ≤ f.xLen.toNat → f.xRange n = true →
          (f.snapFree < n → exec .importImage s = .next { s with fls := ended 1 0x22 })
          ∧ (n ≤ f.snapFree → f.xLen.toNat < n * 4096 → ∃ t, exec .importImage s = .next t ∧ t = { s with fls := t.fls } ∧ t.fls.xLast = 1
            ∧ t.fls.xStatus = 0 ∧ t.fls.xBusy = false ∧ (t.fls.snaps[i]).state = .writing ∧ (t.fls.snaps[i]).blocks = n
            ∧ (t.fls.snaps[i]).image = spaceRead s.hostMem (hostKey f.xHost f.xAddr.toNat) f.xLen.toNat)))
    ∧ (z.state ≠ .committed → exec .restore s = .next { s with fls := ended 2 0x21 })
    ∧ (z.state = .committed → z.scope = true → s.ctxs ≠ [] → exec .restore s = .next { s with fls := ended 2 0x41 })
    ∧ (z.state = .committed → (z.scope = false ∨ s.ctxs = []) →
        (z.img = none → exec .restore s = .next { s with fls := ended 2 0x10 })
        ∧ (∀ g, z.img = some g →
          (s.restoreClash g = true → exec .restore s = .next { s with fls := ended 2 0x21 })
          ∧ (s.restoreClash g = false → (imageHw z.image ≠ s.svc.hwType.toNat ∨ s.restoreFits g = false) →
              exec .restore s = .next { s with fls := ended 2 0x22 })
          ∧ (s.restoreClash g = false → imageHw z.image = s.svc.hwType.toNat → s.restoreFits g = true →
            (z.imported = true → imageChunksOk z.image = false → exec .restore s = .next { s with fls := ended 2 0x10 })
            ∧ ((z.imported = true → imageChunksOk z.image = true) → g.cmds = [] →
              ∃ t, exec .restore s = .next t ∧ t.fls = ended 2 0
                ∧ t.stacked = s.stacked.restoreCells g.stacked ∧ t.regionMem = s.regionMem.restoreCells g.region ∧ t.coreStore = s.coreStore
                ∧ t.ctxs = g.ctxs.foldl (fun l (e : Nat × Ctx) => insertAt l e.1 { e.2 with paused := true }) s.ctxs
                ∧ t.seqs = g.seqs.foldl (fun l (e : Nat × Seq) => insertAt l e.1 e.2) s.seqs
                ∧ t.coils = g.coils.foldl (fun l (e : Nat × Coil) => insertAt l e.1 { e.2 with
                    status := if e.2.reset = true ∨ e.2.status = .idle then .idle else .parked }) s.coils
                ∧ (∀ q qu, g.queues = [(q, qu)] →
                    lookup t.queues q = some { qu with gen := qu.gen + 1 } ∧ lookup t.queueGens q = some (qu.gen + 1))
                ∧ t.cmds = s.cmds ∧ ((∀ e ∈ g.ctxs, e.2.exclCores = 0) → t.cores = s.cores)
                ∧ (∀ k : SampleQ, t.smp[k] = match lookup g.samples k.val with
                    | some x => if s.smp[k].state = 1 then s.smp[k] else { s.smp[k] with
                        state := x.state, error := x.error, pos := x.pos, desc := x.desc.map (fun d => { d with resume := true }), start := x.pos,
                        hands := 0, rowFirst := x.pos, row := [], work := [], tailBase := s.smp[k].tail }
                    | none => s.smp[k])
                ∧ (g.scope = false → t.regions = s.regions ∧ t.slots = s.slots)
                ∧ (g.scope = true → (∀ k : RegionId, t.regions[k].role = g.roles.getD k.val s.regions[k].role)
                  ∧ ∀ n : Fin 256, t.slots.active[n] = g.slots.getD n.val 0)))))
    ∧ (exec .release s = .next { s with
        fls := ended 3 0
        ctxs := s.ctxs.map (fun (e : Nat × Ctx) => (e.1, { e.2 with paused := false })) })
    ∧ (z.state ≠ .committed → exec .discard s = .next { s with fls := ended 4 0x41 })
    ∧ (z.state = .committed → exec .discard s = .next { s with fls := { ended 4 0 with
        snaps := f.snaps.set i Snap.reset
        mapped := f.mapped.filter (fun e => e.1 < 2 ^ 31 + i.val * 2 ^ 27 || 2 ^ 31 + (i.val + 1) * 2 ^ 27 ≤ e.1) } })
    ∧ (∀ op : BitVec 3, 5 ≤ op.toNat → exec (.xferInvalidOp op) s = .next { s with fls := ended op.toNat 0x21 })

/-! ## Darit -/

/-- The Darit ports (R217, R373, R377, R378, R380, R382, R384 to R390). A configuration write, RETRAIN, and a topology write for each enabled port,
reset it: to DISABLED, HELD or TRAINING, an UP one losing its frames in flight and its epoch. Training ends in UP with the peer it found, in
DETECT without a cable, or in HELD with its cause; a cable is sensed again in DETECT, and in HELD for TX_TX. The spare takes a first lane's
place; a further failure retrains the port, is borne at width 8, or takes it DOWN; a fault resets it. A flit counts its corrected symbols; a bad one is replayed, a good
one counted, and taken when it is in order. A frame is dropped for age, refused without a route, or sent on to the member of its route's trunk
in FORWARD slots; one for this device that carries another incarnation is answered PART_ABSENT. A request to a peer that gets no reply is sent
again on the route there now is, or refused. Another device's trunk goes down and comes back. A gather that a peer asks for is served, or
refused with its status. -/
def Obligations.DaritPortsAndFrames : Prop :=
  (∀ (s : State) (p : DaritPort) (v : W32), s.pwr.current ≠ 3 → s.isReady = true → s.fls.quench = none →
    let written (t : State) (q : DaritPort) (y : DPort) : Prop :=
      (t.part (.darit q)).state = (if y.st = .training then .resetting else .fenced)
        ∧ (s.darit.ports[q].st ≠ .up → (t.part (.darit q)).epoch = (s.part (.darit q)).epoch)
        ∧ (s.darit.ports[q].st = .up → (∀ x ∈ t.slots.waiting, x.link ≠ .darit q)
          ∧ ((s.part (.darit q)).owed = 0 → (s.part (.darit q)).mayAdvance s.timeNs = true →
              (t.part (.darit q)).epoch = (s.part (.darit q)).epoch + 1))
    (let y := s.darit.portStart { s.darit.ports[p] with enable := bit v.toNat 3, dim := fld v.toNat 2 1, dir := bit v.toNat 0 }
     ∃ t, exec (.portConfigWrite p v) s = .next t ∧ t.darit = { s.darit with ports := s.darit.ports.set p y }
       ∧ y.enable = bit v.toNat 3 ∧ y.dim = fld v.toNat 2 1 ∧ y.dir = bit v.toNat 0 ∧ y.st ∈ [LinkState.disabled, .held, .training]
       ∧ written t p y
       ∧ t = { s with darit := t.darit, epochs := t.epochs, log := t.log, slots := t.slots, fabric := t.fabric })
    ∧ (let y := s.darit.portStart s.darit.ports[p]
       ∃ t, exec (.retrain p) s = .next t ∧ t.darit = { s.darit with ports := s.darit.ports.set p y } ∧ written t p y
         ∧ t = { s with darit := t.darit, epochs := t.epochs, log := t.log, slots := t.slots, fabric := t.fabric })
    ∧ (exec (.portCountersClear p v) s = .next (if bit v.toNat 1 then s.updPort p (fun x => { x with
        txFlits := 0, rxFlits := 0, replay := 0, fecCorr := 0, fwd := 0 }) else s))
    ∧ (exec (.agedCounterClear v) s = .next (if bit v.toNat 0 then { s with darit := { s.darit with aged := 0 } } else s))
    ∧ (∀ node : Bool,
        let d := if node then { s.darit with x := fld v.toNat 5 0, y := fld v.toNat 13 8, z := fld v.toNat 19 16 }
          else { s.darit with sizeX := fld v.toNat 6 0, sizeY := fld v.toNat 14 8, sizeZ := fld v.toNat 20 16 }
        ∃ t, exec (.topologyWrite node v) s = .next t
          ∧ t.darit = { d with cfgErr := s.darit.cfgErr || !d.shapeValid, ports := t.darit.ports }
          ∧ (∀ q : DaritPort, t.darit.ports[q] = if s.darit.ports[q].enable then d.portStart s.darit.ports[q] else s.darit.ports[q])
          ∧ (∀ q : DaritPort, s.darit.ports[q].enable = true → written t q (d.portStart s.darit.ports[q]))
          ∧ t = { s with darit := t.darit, epochs := t.epochs, log := t.log, slots := t.slots, fabric := t.fabric }))
  ∧ (∀ (s : State) (p : DaritPort) (o : TrainObs), s.pwr.current ≠ 3 → s.svc.work = none → s.fls.quench = none →
    (s.darit.ports[p].st ≠ .training → exec (.portTraining p o) s = .next s)
    ∧ (s.darit.ports[p].st = .training →
      (o.cable = .none → ∃ t, exec (.portTraining p o) s = .next t ∧ t.darit.ports[p].st = .detect ∧ t.darit.ports[p].cable = .none)
      ∧ (o.cable = .txTx → ∃ t, exec (.portTraining p o) s = .next t ∧ t.darit.ports[p].st = .held ∧ t.darit.ports[p].cause = 0
          ∧ t.darit.ports[p].cable = .txTx)
      ∧ (o.cable = .ok → widthWith (~~~o.lanes) = 0 → ∃ t, exec (.portTraining p o) s = .next t ∧ t.darit.ports[p].st = .held
          ∧ t.darit.ports[p].cause = 1 ∧ t.darit.ports[p].laneFail = ~~~o.lanes)
      ∧ (o.cable = .ok → widthWith (~~~o.lanes) ≠ 0 → s.darit.exchange s.darit.ports[p] o ≠ 0 →
          ∃ t, exec (.portTraining p o) s = .next t ∧ t.darit.ports[p].st = .held
            ∧ t.darit.ports[p].cause = s.darit.exchange s.darit.ports[p] o ∧ t.darit.ports[p].peerNode = o.peerNode % 4096)
      ∧ (o.cable = .ok → widthWith (~~~o.lanes) ≠ 0 → s.darit.exchange s.darit.ports[p] o = 0 →
          ∃ t, exec (.portTraining p o) s = .next t ∧ t.darit.ports[p].st = .up ∧ t.darit.ports[p].width = widthWith (~~~o.lanes)
            ∧ t.darit.ports[p].cause = (if widthWith (~~~o.lanes) = 8 then 1 else 0) ∧ t.darit.ports[p].peerNode = o.peerNode % 4096
            ∧ t.darit.ports[p].laneFail = ~~~o.lanes ∧ t.darit.ports[p].map = o.map ∧ t.darit.ports[p].laneInv = o.inv
            ∧ ((s.part (.darit p)).owed = 0 → (s.part (.darit p)).mayAdvance s.timeNs = true →
                (t.part (.darit p)).state = .inService ∧ (t.part (.darit p)).epoch = (s.part (.darit p)).epoch + 1)
            ∧ lookup t.darit.incs (o.peerNode % 4096) = some o.peerInc)))
  ∧ (∀ (s : State) (p : DaritPort),
    let x := s.darit.ports[p]
    (x.st = .detect ∨ (x.st = .held ∧ x.cable = .txTx) →
      (∃ t, exec (.cableSense p .ok) s = .next t ∧ t.darit.ports[p] = { x with st := .training, cable := .ok, cause := 0 }
        ∧ (t.part (.darit p)).state = .resetting ∧ t = { s with darit := t.darit, epochs := t.epochs })
      ∧ exec (.cableSense p .none) s = .next (s.updPort p (fun x => { x with st := .detect, cable := .none }))
      ∧ exec (.cableSense p .txTx) s = .next (s.updPort p (fun x => { x with st := .held, cable := .txTx })))
    ∧ (x.st ≠ .detect → x.st ≠ .held ∨ x.cable ≠ .txTx → ∀ c, exec (.cableSense p c) s = .next s))
  ∧ (∀ (s : State) (p : DaritPort), s.darit.ports[p].st = .up →
    (∀ lane : Fin 17, s.darit.ports[p].laneFail.getLsbD lane.val = false →
      let f := s.darit.ports[p].laneFail ||| BitVec.twoPow 17 lane.val
      (widthWith f = 16 → ∃ t, exec (.laneFailure p lane) s = .next t
        ∧ t.darit.ports[p] = { s.darit.ports[p] with laneFail := f, spareUsed := s.darit.ports[p].spareUsed || decide (lane.val ≠ 16) }
        ∧ t = { s with darit := t.darit, log := t.log })
      ∧ (widthWith f = 8 → s.darit.ports[p].width ≠ 8 → ∃ t, exec (.laneFailure p lane) s = .next t ∧ t.darit.ports[p].st = .training)
      ∧ (widthWith f = 8 → s.darit.ports[p].width = 8 → ∃ t, exec (.laneFailure p lane) s = .next t
        ∧ t.darit.ports[p] = { s.darit.ports[p] with laneFail := f } ∧ t = { s with darit := t.darit, log := t.log })
      ∧ (widthWith f = 0 → ∃ t, exec (.laneFailure p lane) s = .next t ∧ t.darit.ports[p].st = .down ∧ t.darit.ports[p].cause = 7))
    ∧ (∃ t, exec (.daritPortFault p) s = .next t ∧ t.darit.ports[p] = s.darit.portStart s.darit.ports[p]
      ∧ (t.part (.darit p)).state ≠ .inService ∧ (∀ p' : DaritPort, p' ≠ p → t.darit.ports[p'] = s.darit.ports[p']) ∧ sameMemory s t)
    ∧ (∀ n fec, exec (.flitReceive p n { crcOk := false, fec := fec }) s = .next (s.updPort p (fun x => { x with
        fecCorr := x.fecCorr + BitVec.ofNat 64 fec, replay := x.replay + 1 })))
    ∧ (∀ n fec, exec (.flitReceive p n { crcOk := true, fec := fec }) s = .next (s.updPort p (fun x => { x with
        fecCorr := x.fecCorr + BitVec.ofNat 64 fec, rxFlits := x.rxFlits + 1, rxSeq := if n = x.rxSeq then x.rxSeq + 1 else x.rxSeq })))
    ∧ ∀ fr : Frame, s.pwr.current ≠ 1 → s.pwr.current ≠ 2 →
      (1000 < fr.ageUs → ∃ t, exec (.frameForward p fr) s = .next t ∧ t.darit = { s.darit with aged := s.darit.aged + 1 }
        ∧ t = { s with darit := t.darit, log := t.log })
      ∧ (fr.ageUs ≤ 1000 → fr.dst = s.darit.nodeId →
        (fr.incarnation = s.darit.incarnation → exec (.frameForward p fr) s = .next s)
        ∧ (fr.incarnation ≠ s.darit.incarnation → ∃ t, exec (.frameForward p fr) s = .next t
          ∧ (s.limitCount (9 * 2 ^ 32) < 256 → ∃ x, t.log.recs = List.take 8192 (x :: s.log.recs) ∧ x.source = 9 ∧ x.unit = p.val)
          ∧ t = { s with log := t.log, hif := t.hif }))
      ∧ (fr.ageUs ≤ 1000 → fr.dst ≠ s.darit.nodeId → s.darit.route fr.dst = none → ∃ t, exec (.frameForward p fr) s = .next t
        ∧ (∃ r, t.log.recs = List.take 8192 (r :: s.log.recs) ∧ r.source = 11 ∧ r.cause = 7)
        ∧ t = { s with log := t.log, hif := t.hif })
      ∧ (∀ r d q, fr.ageUs ≤ 1000 → fr.dst ≠ s.darit.nodeId → s.darit.route fr.dst = some r → r.first = some d →
          s.darit.memberOn (dieOfPart (.darit p)) d.1 d.2 = some q →
        ∃ t x, exec (.frameForward p fr) s = .next t ∧ t.slots = { s.slots with waiting := s.slots.waiting ++ [x] }
          ∧ x.link :: x.rest = s.path (.darit p) (.darit q) 0 ++ [FabLink.darit q] ∧ x.id = s.nextReq ∧ x.cls = 1 ∧ x.prio = fr.prio
          ∧ x.bytes = 32 + fr.bytes ∧ x.age = fr.ageUs ∧ x.vc = s.darit.outChannel fr.channel r d
          ∧ t = { s with slots := t.slots, nextReq := s.nextReq + 1 }))
  ∧ (∀ (s : State) (n : Nat) (w : FabricWait), s.fabric = [w] → w.stage = .served ∨ w.stage = .lost → w.req.node = some n → n ≠ s.darit.nodeId →
    (s.routeFor w.req n = none → ∃ t, exec (.remoteRequestTimeout w.req.id) s = .next t
      ∧ t.fabric = [{ req := w.req, stage := .absent, via := none }]
      ∧ (∃ r, t.log.recs = List.take 8192 (r :: s.log.recs) ∧ r.source = 11 ∧ r.cause = 7)
      ∧ t = { s with fabric := t.fabric, slots := t.slots, log := t.log, hif := t.hif })
    ∧ ∀ r, s.routeFor w.req n = some r → ∃ t, exec (.remoteRequestTimeout w.req.id) s = .next t
      ∧ t.fabric = [{ req := w.req, stage := .served, via := some r }]
      ∧ (∀ d q, r.first = some d → s.darit.memberOn (dieOfPart w.req.requester) d.1 d.2 = some q → ∃ x,
          t.slots.waiting = s.slots.waiting.filter (fun y => !(y.id == w.req.id && y.cls == 0)) ++ [x]
          ∧ x.id = w.req.id ∧ x.cls = 0 ∧ x.link :: x.rest = s.path w.req.requester (.darit q) (reqStation w.req) ++ [FabLink.darit q])
      ∧ t = { s with fabric := t.fabric, slots := t.slots })
  ∧ (∀ (s : State) (node dim : Nat) (minus up : Bool), node ≠ s.darit.nodeId →
    ∃ t, exec (.trunkStateChange node dim minus up) s = .next t ∧ t.darit.trunkUp node dim minus = up
      ∧ t.darit = { s.darit with downTrunks := t.darit.downTrunks }
      ∧ (∀ y, y ≠ (node, dim, minus) → (y ∈ t.darit.downTrunks ↔ y ∈ s.darit.downTrunks))
      ∧ (s.cmds = [] → s.fabric = [] → t = { s with darit := t.darit, log := t.log }))
  ∧ ∀ (s : State) (r : RemoteGather), s.pwr.current ≠ 1 → s.pwr.current ≠ 2 →
    (∀ g toks s1, s.serveGather r = .ok (g, toks, s1) → ∃ t, exec (.remoteGatherServe r) s = .next t
      ∧ t.reply = leBytes 1 0 ++ toks.flatMap tokenBytes
      ∧ t.regions[regionN g].cnt.kvServed = s1.regions[regionN g].cnt.kvServed
          + BitVec.ofNat 64 (if r.count = 0 then 0 else (r.pos + r.count - 1) / 16 - r.pos / 16 + 1)
      ∧ t = { s1 with reply := t.reply, regions := t.regions })
    ∧ (∀ st nt, s.serveGather r = .error (.status st nt) →
      exec (.remoteGatherServe r) s = .next { s.noteErr nt with reply := leBytes 1 (if st = 0x10 then 0x10 else 0x21) })
    ∧ ((∀ x, lookup s.seqs r.seq = some x → s.seqBad r.seq x = false ∧ x.ctx ≠ r.ctx) →
      exec (.remoteGatherServe r) s = .next { s with reply := leBytes 1 0x21 })

/-! ## Host ports and device time -/

/-- The host ports (R304, R342, R394, R396 to R403, R407). BAR4 reads and writes stacked memory through the aperture, answers a read that fails
without data, drops a write whose partial block is unreadable, and refuses and logs what does not lie in a stack in service; it has the sizes of
its list; the base is a multiple of the size. An unmasked vector sends its pending message once, or holds it while the port is down. A port that
goes down tells the other and one that comes up is UP with nothing held; after the time-out a lost port's willing contexts are re-homed. A
reset leaves the port's registers at their reset values and takes its next epoch, and hot reset and PERST# look at the reference. A read of host
memory that fails fails the command that made it, leaves the queue engine's read to be retried, and ends the mailbox operation with its
status; a time-out is counted and logged. -/
def Obligations.HostPortsCarryAccesses : Prop :=
  (∀ (s : State) (h : HostPort) (off : Nat) (op : Bar4Op), s.pwr.current ≠ 3 → 0 < bar4Len op →
    off + bar4Len op ≤ s.hif[h].bar4Gib * 2 ^ 30 →
    let a := s.hif[h].aptBase * 2 ^ 30 + off
    (s.isReady = true ∧ s.hif[h].aptEn = true ∧ s.apertureOk a (bar4Len op) = true →
      (∀ n bs, op = .read n → s.readLoc (.stacked a) n = .ok bs →
        ∃ t, exec (.bar4Access h off op) s = .next t ∧ t.reply = bs ∧ sameMemory s t)
      ∧ (∀ n e, op = .read n → s.readLoc (.stacked a) n = .error e →
        ∃ t, exec (.bar4Access h off op) s = .next t ∧ t.reply = [] ∧ sameMemory s t)
      ∧ (∀ d, op = .write d → s.locErr (.stacked a) = none →
        let before := s.noteParts (.stacked a) (partBlocks a d.length)
        (∀ m, before.stacked.write a d = some m → ∃ t, exec (.bar4Access h off op) s = .next t ∧ t.stacked = m
          ∧ t = { s with stacked := m, regions := t.regions, log := t.log, hif := t.hif })
        ∧ (before.stacked.write a d = none → ∃ t, exec (.bar4Access h off op) s = .next t ∧ sameMemory s t)))
    ∧ (¬ (s.isReady = true ∧ s.hif[h].aptEn = true ∧ s.apertureOk a (bar4Len op) = true) →
      ∃ t, exec (.bar4Access h off op) s = .next t ∧ t.reply = [] ∧ t.hif[h].cntBar4Refused = s.hif[h].cntBar4Refused + 1
        ∧ (∃ r, t.log.recs = List.take 8192 (r :: s.log.recs) ∧ r.source = 12 ∧ r.cause = 6 ∧ r.unit = h.val ∧ r.address = a % 2 ^ 48)
        ∧ t = { s with reply := t.reply, hif := t.hif, log := t.log }))
  ∧ (∀ (s : State) (h : HostPort) (gib : Nat),
    (gib ∈ [1, 2, 4, 8, 16, 32, 64, 128, 256] → exec (.bar4Resize h gib) s = .next (s.updHif h (fun x => { x with bar4Gib := gib })))
    ∧ (gib ∉ [1, 2, 4, 8, 16, 32, 64, 128, 256] → exec (.bar4Resize h gib) s = .next s))
  ∧ (∀ (s : State) (h : HostPort) (v : W32), s.pwr.current ≠ 3 → s.diesOn = true →
    ∃ t, exec (.apertureBaseWrite h v) s = .next t ∧ t = { s with hif := t.hif } ∧ t.hif[h].aptEn = bit v.toNat 31
      ∧ t.hif[h].evtVec = fld v.toNat 10 0 ∧ (∀ h' : HostPort, h' ≠ h → t.hif[h'] = s.hif[h'])
      ∧ (fld v.toNat 23 16 % s.hif[h].bar4Gib = 0 → t.hif[h].aptBase = fld v.toNat 23 16
          ∧ t.hif[h].aptErr = (s.hif[h].aptErr && !bit v.toNat 30))
      ∧ (fld v.toNat 23 16 % s.hif[h].bar4Gib ≠ 0 → t.hif[h].aptBase = s.hif[h].aptBase ∧ t.hif[h].aptErr = true))
  ∧ (∀ (s : State) (h : HostPort) (vec : Fin 2048), s.pwr.current ≠ 3 → s.diesOn = true →
    ∃ t, exec (.msixUnmask h vec) s = .next t ∧ vec.val ∈ t.hif[h].unmasked ∧ vec.val ∉ t.hif[h].pba
      ∧ (vec.val ∈ s.hif[h].pba → s.hif[h].up = true →
          lookup t.hif[h].sent vec.val = some ((lookup s.hif[h].sent vec.val).getD 0 + 1) ∧ t.hif[h].wait = s.hif[h].wait)
      ∧ (vec.val ∈ s.hif[h].pba → s.hif[h].up = false → t.hif[h].wait = s.hif[h].wait ++ [(vec.val, none)])
      ∧ (vec.val ∉ s.hif[h].pba → t.hif[h].sent = s.hif[h].sent ∧ t.hif[h].wait = s.hif[h].wait)
      ∧ t = { s with hif := t.hif })
  ∧ (∀ (s : State) (h : HostPort),
    (s.hif[h].up = true → ∃ t, exec (.hostPortDown h) s = .next t ∧ t.hif[h] = { s.hif[h] with up := false }
      ∧ t.hif[otherPort h].evt = s.hif[otherPort h].evt ||| 2 ∧ (∃ r, t.log.recs = List.take 8192 (r :: s.log.recs) ∧ r.source = 12 ∧ r.cause = 1)
      ∧ t = { s with hif := t.hif, log := t.log })
    ∧ (s.hif[h].up = false → exec (.hostPortDown h) s = .next s)
    ∧ (s.hif[h].up = true ∨ s.diesOn = false → exec (.hostPortUp h) s = .next s)
    ∧ (s.hif[h].up = false → s.diesOn = true →
      ∃ t, exec (.hostPortUp h) s = .next t ∧ t.hif[h].up = true
        ∧ (s.queues = [] → s.fls.xBusy = false → t.hif[h].wait = [] ∧ t.hif[h].unmasked = s.hif[h].unmasked
          ∧ t = { s with hif := t.hif, log := t.log, freshCtr := s.freshCtr + 1 }
          ∧ (s.hif[h].wait = [] → t.hif[h] = { s.hif[h] with up := true, width := t.hif[h].width, speed := t.hif[h].speed })))
    ∧ (s.hif[h].up = true ∨ s.hif[otherPort h].up = false → exec (.rehomeTimeout h) s = .next s)
    ∧ (s.hif[h].up = false → s.hif[otherPort h].up = true → (∀ e ∈ s.ctxs, e.1 ∈ s.toRehome h ↔ e.2.home = h ∧ e.2.altOk = true) →
      ∃ t, exec (.rehomeTimeout h) s = .next t
      ∧ t.ctxs = s.ctxs.map (fun (e : Nat × Ctx) => if e.2.home = h ∧ e.2.altOk = true then (e.1, { e.2 with home := otherPort h }) else e)
      ∧ t = { s with ctxs := t.ctxs, log := t.log, hif := t.hif })
    ∧ (∀ why, (isWake why = true → s.pwr.current ≠ 4 ∧ s.pwr.tripped = false) → s.fls.quench = none → (s.part (.host h)).owed = 0 →
      (s.part (.host h)).mayAdvance s.timeNs = true →
      ∃ t, exec (.hostPortReset h why) s = .next t ∧ t.hif[h] = { Hif.reset with sent := s.hif[h].sent, wait := s.hif[h].wait }
        ∧ (t.part (.host h)).state = .inService ∧ (t.part (.host h)).epoch = (s.part (.host h)).epoch + 1
        ∧ (∀ p, p ≠ .host h → t.part p = s.part p)
        ∧ t.tim = (if isWake why then { s.tim with refLocal := s.tim.refLocal.set h (!s.tim.refPresent[h]) } else s.tim)
        ∧ t = { s with hif := t.hif, log := t.log, epochs := t.epochs, tim := t.tim }))
  ∧ ∀ (s : State) (h : HostPort) (rd : FailedRead) (st : Nat), hostReadStatus rd.outcome = some st →
    ∃ t, exec (.hostReadCompletionTimeout h rd) s = .next t
    ∧ (s.mbox[otherPort h].behind = false → t.hif[h].cntCplTimeout = if rd.outcome = .timeout then s.hif[h].cntCplTimeout + 1 else s.hif[h].cntCplTimeout)
    ∧ (rd.outcome = .timeout → (rd.who = .mailbox → s.mbox[otherPort h].behind = false) →
        ∃ x ∈ (s.noteHostRead h rd.outcome).log.recs, x.source = 12 ∧ x.cause = 8 ∧ x.unit = h.val)
    ∧ st = (if rd.outcome = .timeout ∨ rd.outcome = .poisoned then 0x10 else 0x21)
    ∧ (rd.who = .mailbox → s.mbox[h].busy = false → t = { s with hif := t.hif, log := t.log })
    ∧ (rd.who = .mailbox → s.mbox[h].busy = true → s.mbox[h].behind = false → s.mbox[otherPort h].behind = false →
        t.mbox = s.mbox.set h { s.mbox[h] with
          busy := false, status := st, waitOp := none, behind := false, result := if s.hif[h].up then 0 else s.mbox[h].result }
        ∧ t = { s with hif := t.hif, log := t.log, mbox := t.mbox })
    ∧ (∀ q, rd.who = .fetch q →
      (∀ qu, lookup s.queues q = some qu → s.mayFetch qu = true → lookup t.queues q = some { qu with fetchFailed := true }
        ∧ t.cntFetchFail = s.cntFetchFail + 1 ∧ t = { s with hif := t.hif, log := t.log, queues := t.queues, cntFetchFail := t.cntFetchFail })
      ∧ (lookup s.queues q = none → t = { s with hif := t.hif, log := t.log }))
    ∧ (∀ q n, rd.who = .command q n →
      ((∃ c ∈ s.cmds, c.q = q ∧ c.n = n ∧ c.phase = .dispatched ∧ c.held = false) → t = (s.noteHostRead h rd.outcome).failCmd q n st)
      ∧ ((∀ c ∈ s.cmds, c.q = q → c.n = n → c.phase ≠ .dispatched ∨ c.held = true) → t = { s with hif := t.hif, log := t.log }))

/-- Device time (R404, R405, R452). A measured offset above 1 ms steps it, any other is slewed away; armed seconds load at a PPS edge; without
its reference the base goes over to the other port, or to HOLDOVER; a new source and armed seconds are taken from their registers; a clock
input that comes or goes is what later resets and trainings see. -/
def Obligations.DeviceTimeFollowsItsSource : Prop :=
  (∀ (s : State) (h : HostPort) (root : W64), s.tim.active = 1 + h.val → s.hif[h].up = true →
    let off : Int := (root.toNat : Int) - s.timeNs
    ∃ t, exec (.ptmExchange h root) s = .next t
      ∧ (1000000 < off → t.timeNs = root.toNat) ∧ (off ≤ 1000000 → t.timeNs = s.timeNs)
      ∧ t.tim = { s.tim with offset := off, slewNs := if 1000000 < off then 0 else off, state := .locked }
      ∧ t = { s with timeNs := t.timeNs, tim := t.tim })
  ∧ (∀ (s : State) (h : HostPort) (root : W64), s.tim.active ≠ 1 + h.val → exec (.ptmExchange h root) s = .next s)
  ∧ (∀ (s : State) (m : Int),
    (s.tim.armed = true → ∃ t, exec (.ppsEdge m) s = .next t ∧ t.tim.armed = false ∧ t.tim.ppsOk = true
      ∧ t.timeNs = (if (s.timeNs : Int) + 1000000 < s.tim.armedNs then s.tim.armedNs else s.timeNs)
      ∧ ((s.tim.armedNs : Int) ≤ s.timeNs + 1000000 → t.tim.slewNs = (s.tim.armedNs : Int) - s.timeNs) ∧ t = { s with timeNs := t.timeNs, tim := t.tim })
    ∧ (s.tim.armed = false → s.tim.active = 3 → s.tim.tenOk = true → m ≤ 1000000 →
      exec (.ppsEdge m) s = .next { s with tim := { s.tim with ppsOk := true, offset := m, slewNs := m, state := .locked } })
    ∧ (s.tim.armed = false → s.tim.active = 3 → s.tim.tenOk = true → 1000000 < m →
      exec (.ppsEdge m) s = .next { s with
        timeNs := s.timeNs + m.toNat, tim := { s.tim with ppsOk := true, offset := m, slewNs := 0, state := .locked } })
    ∧ (s.tim.armed = false → s.tim.active = 3 → s.tim.tenOk = false →
      exec (.ppsEdge m) s = .next { s with tim := { s.tim with ppsOk := true, state := .holdover } })
    ∧ (s.tim.armed = false → s.tim.active ≠ 3 → exec (.ppsEdge m) s = .next { s with tim := { s.tim with ppsOk := true } }))
  ∧ (∀ (s : State) (h : HostPort), s.tim.active = 1 + h.val →
    (s.tim.auto = true → s.hif[otherPort h].up = true →
      exec (.timeReferenceLoss (.ptm h)) s = .next { s with tim := { s.tim with active := 1 + (otherPort h).val } })
    ∧ (s.tim.auto = false ∨ s.hif[otherPort h].up = false →
      exec (.timeReferenceLoss (.ptm h)) s = .next { s with tim := { s.tim with state := .holdover } }))
  ∧ (∀ (s : State) (h : HostPort), s.tim.active ≠ 1 + h.val → exec (.timeReferenceLoss (.ptm h)) s = .next s)
  ∧ (∀ s : State,
    let without (x : TimeBase) : TimeBase := if s.tim.active = 3 then { x with state := .holdover } else x
    (∃ t, exec (.timeReferenceLoss .pps) s = .next t ∧ t.tim = without { s.tim with ppsOk := false }
      ∧ (s.tim.ppsOk = true → ∃ r, t.log.recs = List.take 8192 (r :: s.log.recs) ∧ r.source = 15 ∧ r.cause = 3)
      ∧ t = { s with tim := t.tim, log := t.log })
    ∧ (∃ t, exec (.timeReferenceLoss .tenMHz) s = .next t ∧ t.tim = without { s.tim with tenOk := false }
      ∧ (s.tim.tenOk = true → ∃ r, t.log.recs = List.take 8192 (r :: s.log.recs) ∧ r.source = 15 ∧ r.cause = 4)
      ∧ t = { s with tim := t.tim, log := t.log }))
  ∧ (∀ (s : State) (v : W32), s.pwr.current ≠ 3 → s.diesOn = true →
    exec (.timeSetArm v) s = .next { s with tim := { s.tim with setHi := v, armed := true } }
    ∧ ∃ t, exec (.timeSourceWrite v) s = .next t ∧ t.tim.auto = bit v.toNat 3
      ∧ t.tim.ptmMs = (if 1 ≤ fld v.toNat 25 16 ∧ fld v.toNat 25 16 ≤ 1000 then fld v.toNat 25 16 else s.tim.ptmMs)
      ∧ (fld v.toNat 2 0 ≤ 3 → t.tim.source = fld v.toNat 2 0 ∧ t.tim.active = fld v.toNat 2 0)
      ∧ (3 < fld v.toNat 2 0 → t.tim.source = s.tim.source ∧ t.tim.active = s.tim.active ∧ t.tim.state = s.tim.state)
      ∧ t = { s with tim := t.tim })
  ∧ ∀ (s : State) (present : Bool),
    (∀ h : HostPort, exec (.clockInputChange (.refclk h) present) s = .next { s with tim := { s.tim with
        refPresent := s.tim.refPresent.set h present } })
    ∧ exec (.clockInputChange .dref present) s = .next { s with tim := { s.tim with drefPresent := present } }
    ∧ exec (.clockInputChange .pps true) s = .next { s with tim := { s.tim with ppsOk := true } }
    ∧ exec (.clockInputChange .tenMHz true) s = .next { s with tim := { s.tim with tenOk := true } }
    ∧ exec (.clockInputChange .pps false) s = exec (.timeReferenceLoss .pps) s
    ∧ exec (.clockInputChange .tenMHz false) s = exec (.timeReferenceLoss .tenMHz) s

/-! ## Power states and the cap -/

/-- Power states and the input cap (R409 to R417, R454). Glow and Ember are entered with nothing at work, where AUTO_DEEPEST allows, and left at
once; Ash saves region memory and coil units and loses the rest of the SRAM, and leaving it restores them; Cold is refused while a context
exists, loses the stacks and ends in a start-up; a request that its conditions hold up for 100 ms ends BUSY, and one whose conditions have come
about by then is granted. While the standby domain runs samples feed the peak, the energy and the means of 1 ms; a step moves CEIL or the gating by
one, up only with room and no hint against it, and gives every core its point. -/
def Obligations.PowerStatesAndTheCap : Prop :=
  (∀ s : State, s.idle = true →
    (s.diesOn = true → s.pwr.current = 0 → 1 ≤ s.pwr.autoDeepest → ∃ t, exec .glowEntry s = .next t ∧ t.pwr = { s.pwr with current := 1 }
      ∧ (∃ r, t.log.recs = List.take 8192 (r :: s.log.recs) ∧ r.source = 13 ∧ r.cause = 7) ∧ t = { s with pwr := t.pwr, log := t.log })
    ∧ (s.pwr.current = 1 → 2 ≤ s.pwr.autoDeepest → s.noPortUp = true → ∃ t, exec .emberEntry s = .next t
      ∧ t.pwr = { s.pwr with current := 2 } ∧ t = { s with pwr := t.pwr, log := t.log }))
  ∧ (∀ s : State, s.idle = false → exec .glowEntry s = .next s ∧ exec .emberEntry s = .next s)
  ∧ (∀ s : State, s.pwr.current ≠ 1 → s.pwr.current ≠ 2 → exec .lowPowerWake s = .next s)
  ∧ (∀ s : State, (s.pwr.current = 1 ∨ s.pwr.current = 2) → ∃ t, exec .lowPowerWake s = .next t ∧ t.pwr = { s.pwr with current := 0 }
    ∧ t = { s with pwr := t.pwr, log := t.log })
  ∧ (∀ s : State, s.pwr.current ≠ 3 → s.diesOn = true →
    (s.ashOk = true → ∃ t, exec .ashRequest s = .next t ∧ t.pwr.current = 3 ∧ t.pwr.reqStatus = 0 ∧ t.pwr.pendingReq = none
      ∧ t.coreStore = Ram.empty ∧ t.accMem = Ram.empty ∧ t.regionMem = Ram.empty ∧ t.stacked = s.stacked ∧ t.hostMem = s.hostMem
      ∧ t.pwr.ashRegion = some s.regionMem ∧ t.pwr.ashAcc = some (s.accMem.keep s.inCoilUnit) ∧ t.cores = s.cores ∧ t.regions = s.regions ∧ t.ctxs = s.ctxs ∧ t.queues = s.queues
      ∧ t.coils = s.coils ∧ t.seqs = s.seqs)
    ∧ (s.ashOk = false → exec .ashRequest s = .next { s with pwr := { s.pwr with request := 3, pendingReq := some 3 } })
    ∧ (s.ctxs ≠ [] → exec .coldRequest s = .next { s with pwr := { s.pwr with request := 4, pendingReq := none, reqStatus := 0x21 } })
    ∧ (s.ctxs = [] → s.ashOk = false → exec .coldRequest s = .next { s with pwr := { s.pwr with request := 4, pendingReq := some 4 } })
    ∧ (s.ctxs = [] → s.ashOk = true → ∃ t, exec .coldRequest s = .next t ∧ t.pwr.current = 4 ∧ t.pwr.powered = true ∧ t.pwr.reqStatus = 0
      ∧ t.stacked = Ram.empty ∧ t.regionMem = Ram.empty ∧ t.coreStore = Ram.empty ∧ t.queues = [] ∧ t.hostMem = s.hostMem
      ∧ t.fls.cells = s.fls.cells ∧ t.svc.fuses = s.svc.fuses ∧ t.timeNs = s.timeNs ∧ t.pending = s.pending))
  ∧ (∀ s : State, (s.pwr.pendingReq = none → exec .powerRequestTimeout s = .next s)
    ∧ (s.pwr.pendingReq ≠ none → (s.ashOk = false ∨ (s.pwr.pendingReq ≠ some 3 ∧ s.ctxs ≠ [])) →
      exec .powerRequestTimeout s = .next { s with pwr := { s.pwr with pendingReq := none, reqStatus := 0x41 } })
    ∧ (s.pwr.pendingReq = some 3 → s.ashOk = true → ∃ t, exec .powerRequestTimeout s = .next t ∧ t.pwr.current = 3
      ∧ t.pwr.reqStatus = 0 ∧ t.pwr.pendingReq = none)
    ∧ (s.pwr.pendingReq ≠ none → s.pwr.pendingReq ≠ some 3 → s.ashOk = true → s.ctxs = [] → ∃ t,
      exec .powerRequestTimeout s = .next t ∧ t.pwr.current = 4 ∧ t.pwr.reqStatus = 0))
  ∧ (∀ s : State, (s.pwr.current ≠ 3 → exec .ashWake s = .next s)
    ∧ (s.pwr.current ≠ 4 ∨ s.pwr.powered = false → exec .coldWake s = .next s))
  ∧ (∀ (s : State) (r a : Ram), s.pwr.current = 3 → s.pwr.ashRegion = some r → s.pwr.ashAcc = some a →
    ∃ t, exec .ashWake s = .next t ∧ t.regionMem = r ∧ t.accMem = a ∧ t.pwr = { s.pwr with current := 0, ashRegion := none, ashAcc := none }
      ∧ t = { s with regionMem := t.regionMem, accMem := t.accMem, pwr := t.pwr, log := t.log })
  ∧ (∀ s : State, s.pwr.current = 4 → s.pwr.powered = true → ∃ t, exec .coldWake s = .next t ∧ (t.svc.phase = 8 ∨ t.svc.phase = 9)
    ∧ t.pwr.current = 0 ∧ t.hostMem = s.hostMem ∧ t.fls.cells = s.fls.cells ∧ t.svc.fuses = s.svc.fuses ∧ t.ctxs = [] ∧ t.pending = s.pending)
  ∧ (∀ (s : State) (w : Nat), s.pwr.standby = false → exec (.powerSample w) s = .next s)
  ∧ (∀ (s : State) (w : Nat), s.pwr.standby = true → ∃ t, exec (.powerSample w) s = .next t
    ∧ t.pwr.peakW = max s.pwr.peakW w ∧ t.pwr.energyUj = s.pwr.energyUj + 10 * w
    ∧ t.pwr.limiter = (s.pwr.limiter || decide (4400 < w))
    ∧ t.pwr.cappedUs = (if s.pwr.capped = true ∨ s.pwr.limiter = true then s.pwr.cappedUs + 10 else s.pwr.cappedUs)
    ∧ t.pwr.ceil = s.pwr.ceil ∧ t.pwr.capW = s.pwr.capW
    ∧ (s.pwr.msSamples.length < 99 → t.pwr.msSamples = w :: s.pwr.msSamples ∧ t.pwr.msMeans = s.pwr.msMeans)
    ∧ (s.pwr.msSamples.length = 99 → t.pwr.msSamples = []
      ∧ t.pwr.msMeans = List.take 10 ((w + s.pwr.msSamples.sum) / 100 :: s.pwr.msMeans))
    ∧ t = { s with pwr := t.pwr, freshCtr := s.freshCtr + 1 })
  ∧ ∀ s : State, s.diesOn = true → ∃ t, exec .ceilingStep s = .next t ∧ t.pwr.limiter = false
    ∧ (s.pwr.effectiveW < s.pwr.meanW → 0 < s.pwr.ceil → t.pwr.ceil = s.pwr.ceil - 1 ∧ t.pwr.capped = true ∧ t.pwr.gate = s.pwr.gate)
    ∧ (s.pwr.effectiveW < s.pwr.meanW → s.pwr.ceil = 0 → t.pwr.ceil = 0 ∧ t.pwr.gate = min (s.pwr.gate + 1) 7)
    ∧ (s.pwr.meanW ≤ s.pwr.effectiveW → s.pwr.roomy = true → s.pwr.hintLow = false → s.pwr.gate = 0 → t.pwr.ceil = min (s.pwr.ceil + 1) 15)
    ∧ (s.pwr.meanW ≤ s.pwr.effectiveW → s.pwr.roomy = true → s.pwr.hintLow = false → 0 < s.pwr.gate →
        t.pwr.gate = s.pwr.gate - 1 ∧ t.pwr.ceil = s.pwr.ceil)
    ∧ (s.pwr.meanW ≤ s.pwr.effectiveW → s.pwr.roomy = false ∨ s.pwr.hintLow = true → t.pwr.ceil = s.pwr.ceil ∧ t.pwr.gate = s.pwr.gate)
    ∧ (∀ c : CoreId, t.cores[c] = { s.cores[c] with point := min (min t.pwr.ceil t.pwr.dieCeil[dieOfRegion (regionOfCore c)]) 15 })
    ∧ t = { s with pwr := t.pwr, cores := t.cores, log := t.log }

/-! ## Droop, temperature, margin, energy -/

/-- Tokens and hints, droop, thermal control, coolant, margin mode and energy (R417 to R426). A token is taken on a core that executes; a hint
comes into force, lowers CEIL where its class lies above the cap, and leaves, early with a count; a droop stretches its island and is counted by
its die, and its fault takes out the core, the die or the package; a die at 100 °C or more loses a point, or gains an eighth of gating, each 1 ms, and
gets it back below 97 °C after 10 ms; the trip cuts power and keeps the fuses, flash and the session; bad coolant limits the cap until it is good;
trims move by at most 5 mV towards the target; the energy measured goes to the contexts by their estimates, the rest to CNT_PWR_UNATTR. -/
def Obligations.DroopThermalMarginEnergy : Prop :=
  (∀ (s : State) (c : CoreId), s.coreUp c = true →
    exec (.anvilTokenGrant c) s = .next (s.updCore c (fun co => { co with token := true })))
  ∧ (∀ (s : State) (c : CoreId), s.coreUp c = false → exec (.anvilTokenGrant c) s = .next s)
  ∧ (∀ (s : State) (id : Nat),
    let low (hs : List Hint) : Bool := hs.any (fun x => x.started && decide (s.pwr.effectiveW < (x.cls + 1) * 250))
    let rest := s.pwr.hints.filter (fun x => x.id != id)
    (∀ h, s.pwr.hints.find? (fun x => x.id == id && !x.started) = some h →
      let hs := s.pwr.hints.map (fun x => if x.id = id then { x with started := true } else x)
      ∃ t, exec (.hintStart id) s = .next t ∧ t.pwr = { s.pwr with hints := hs, railCls := topClass hs, hintLow := low hs, ceil := t.pwr.ceil }
        ∧ (250 * (h.cls + 1) ≤ s.pwr.effectiveW → t.pwr.ceil = s.pwr.ceil) ∧ t.pwr.ceil ≤ s.pwr.ceil
        ∧ (∀ c : CoreId, t.cores[c].point = min (min t.pwr.ceil s.pwr.dieCeil[dieOfRegion (regionOfCore c)]) 15)
        ∧ t = { s with pwr := t.pwr, cores := t.cores })
    ∧ (exec (.hintEnd id) s = .next { s with pwr := { s.pwr with hints := rest, railCls := topClass rest, hintLow := low rest } })
    ∧ ((∃ x ∈ s.pwr.hints, x.id = id ∧ x.started = true) → exec (.hintEarlyEnd id) s = .next { s with pwr := { s.pwr with
        hints := rest, railCls := topClass rest, hintLow := low rest, hintMiss := s.pwr.hintMiss + 1 } })
    ∧ ((∀ x ∈ s.pwr.hints, x.id = id → x.started = false) → exec (.hintEarlyEnd id) s = .next s)
    ∧ (∀ c, topClass [] = none ∧ (topClass s.pwr.hints = some c →
        (∃ x ∈ s.pwr.hints, x.started = true ∧ x.cls = c) ∧ ∀ x ∈ s.pwr.hints, x.started = true → x.cls ≤ c)))
  ∧ (∀ (s : State) (i : Fin 200) (deep : Bool),
    (∃ t, exec (.droopTrip i deep) s = .next t
      ∧ (∀ j : Fin 200, t.pwr.stretch[j] = if j = i then (if deep then 40 else 20) else s.pwr.stretch[j])
      ∧ (∀ d : Fin 5, t.pwr.droop[d] = if d.val = islandDie i.val then s.pwr.droop[d] + 1 else s.pwr.droop[d])
      ∧ t = { s with pwr := { s.pwr with stretch := t.pwr.stretch, droop := t.pwr.droop } })
    ∧ exec (.droopRecover i) s = .next { s with pwr := { s.pwr with stretch := s.pwr.stretch.set i 0 } }
    ∧ (s.diesOn = true → ∃ s1 : State, s1 = { s with log := s1.log, pwr := s1.pwr }
      ∧ s1.pwr = (if s.pwr.immMode then { s.pwr with trims := s.pwr.trims.set i 0, frozen := s.pwr.frozen.set i true } else s.pwr)
      ∧ (∃ r, s1.log.recs = List.take 8192 (r :: s.log.recs) ∧ r.source = 13 ∧ r.cause = 6 ∧ r.unit = i.val)
      ∧ (i.val < 96 → exec (.droopFault i) s = exec (.coreFault (coreN i.val) .droop) s1)
      ∧ (96 ≤ i.val → islandDie i.val < 4 → exec (.droopFault i) s = exec (.dieFault (dieN (islandDie i.val))) s1)
      ∧ (islandDie i.val = 4 → exec (.droopFault i) s = exec .packageWarmReset s1)))
  ∧ (∀ (s : State) (temp : Nat) (temps : List Nat),
    exec (.thermalSample 4 temp temps) s = .next { s with pwr := { s.pwr with maxDc := s.pwr.maxDc.set 4 temp } })
  ∧ (∀ (s : State) (d : DieId) (temp : Nat) (temps : List Nat), s.diesOn = true →
    ∃ t, exec (.thermalSample ⟨d.val, by omega⟩ temp temps) s = .next t
      ∧ (1000 ≤ temp → 9 ≤ s.pwr.dieSince[d] → t.pwr.dieSince[d] = 0
          ∧ (0 < s.pwr.dieCeil[d] → t.pwr.dieCeil[d] = s.pwr.dieCeil[d] - 1)
          ∧ (s.pwr.dieCeil[d] = 0 → t.pwr.dieCeil[d] = 0 ∧ t.pwr.dieGate[d] = min (s.pwr.dieGate[d] + 1) 7))
      ∧ (970 ≤ temp → temp < 1000 → t.pwr.dieCeil[d] = s.pwr.dieCeil[d] ∧ t.pwr.dieGate[d] = s.pwr.dieGate[d])
      ∧ (temp < 970 → 99 ≤ s.pwr.dieSince[d] → s.pwr.dieGate[d] = 0 → t.pwr.dieCeil[d] = min (s.pwr.dieCeil[d] + 1) 15)
      ∧ (temp < 970 → 99 ≤ s.pwr.dieSince[d] → 0 < s.pwr.dieGate[d] → t.pwr.dieGate[d] = s.pwr.dieGate[d] - 1 ∧ t.pwr.dieCeil[d] = s.pwr.dieCeil[d])
      ∧ (temp < 970 ∨ 1000 ≤ temp → s.pwr.dieSince[d] < 9 → t.pwr.dieCeil[d] = s.pwr.dieCeil[d] ∧ t.pwr.dieGate[d] = s.pwr.dieGate[d])
      ∧ t.pwr.maxDc = s.pwr.maxDc.set d.val temp
      ∧ (temps.length = 3 → ∀ j : Fin 3, t.regions[regionN (3 * d.val + j.val)].hot = decide (850 < temps.getD j.val 0))
      ∧ (∀ d' : DieId, d' ≠ d → t.pwr.dieCeil[d'] = s.pwr.dieCeil[d'])
      ∧ t = { s with pwr := t.pwr, regions := t.regions, cores := t.cores, log := t.log })
  ∧ (∀ s : State, (s.pwr.tripped = true → exec .thermalTrip s = .next s)
    ∧ (s.pwr.tripped = false → ∃ t, exec .thermalTrip s = .next t ∧ t.pwr.tripped = true ∧ t.diesOn = false ∧ t.isReady = false
      ∧ t.stacked = Ram.empty ∧ t.coreStore = Ram.empty ∧ t.regionMem = Ram.empty ∧ t.ctxs = [] ∧ t.cmds = []
      ∧ t.fls.cells = s.fls.cells ∧ t.svc.fuses = s.svc.fuses ∧ t.svc.session = s.svc.session ∧ t.hostMem = s.hostMem
      ∧ t.timeNs = s.timeNs ∧ t.pending = s.pending))
  ∧ (∀ (s : State) (inlet flow : Nat), ∃ t, exec (.coolantSample inlet flow) s = .next t
    ∧ t.pwr = { s.pwr with
        inletDc := inlet, flowCl := flow
        coolantWarn := s.pwr.coolantWarn || decide (400 < inlet ∨ flow < 400 ∨ inlet < 150 ∨ 800 < flow) }
    ∧ (s.pwr.capW = 4000 → t.pwr.coolantWarn = true → t.pwr.effectiveW = 2000) ∧ t = { s with pwr := t.pwr, log := t.log })
  ∧ (∀ (s : State) (b : Bool), b = decide (400 < s.pwr.inletDc ∨ s.pwr.flowCl < 400 ∨ s.pwr.inletDc < 150 ∨ 800 < s.pwr.flowCl) →
    (b = true → exec .coolantWarnEnd s = .next s)
    ∧ (b = false → exec .coolantWarnEnd s = .next { s with pwr := { s.pwr with coolantWarn := false } }))
  ∧ (∀ (s : State) (sl : List Nat), s.pwr.immMode = true → s.diesOn = true → sl.length = 200 →
    ∃ t, exec (.marginAdjust sl) s = .next t ∧ t.pwr = { s.pwr with slacks := sl, trims := t.pwr.trims }
      ∧ (∀ i : Fin 200, (s.pwr.frozen[i] = true → t.pwr.trims[i] = s.pwr.trims[i])
        ∧ (sl.getD i.val 0 = s.pwr.immTarget → t.pwr.trims[i] = s.pwr.trims[i])
        ∧ (sl.getD i.val 0 < s.pwr.immTarget → t.pwr.trims[i] ≤ s.pwr.trims[i])
        ∧ (s.pwr.trims[i] ≤ 60 → t.pwr.trims[i] ≤ 60 ∧ t.pwr.trims[i] ≤ s.pwr.trims[i] + 5 ∧ s.pwr.trims[i] ≤ t.pwr.trims[i] + 5
          ∧ (s.pwr.immTarget < sl.getD i.val 0 → s.pwr.trims[i] ≤ t.pwr.trims[i])))
      ∧ t = { s with pwr := t.pwr, freshCtr := s.freshCtr + 1 })
  ∧ (∀ (s : State) (v : W32), s.pwr.current ≠ 3 → s.diesOn = true →
    ∃ t, exec (.marginModeWrite v) s = .next t ∧ t.pwr.immMode = bit v.toNat 0
      ∧ t.pwr.immTarget = (if 10 ≤ fld v.toNat 7 1 ∧ fld v.toNat 7 1 ≤ 80 then fld v.toNat 7 1 else s.pwr.immTarget)
      ∧ t.pwr.frozen = Vector.replicate 200 false
      ∧ (bit v.toNat 0 = false → t.pwr.trims = Vector.replicate 200 0) ∧ (bit v.toNat 0 = true → t.pwr.trims = s.pwr.trims)
      ∧ t = { s with pwr := t.pwr })
  ∧ (∀ (s : State) (sl : List Nat), s.pwr.immMode = false ∨ s.diesOn = false ∨ sl.length ≠ 200 → exec (.marginAdjust sl) s = .next s)
  ∧ ∀ (s : State) (cores parts : List (Nat × Nat)),
    let known := (cores ++ parts).filter (fun e => hasKey s.ctxs e.1)
    let of_ (x : Nat) : Nat := ((known.filter (fun e => e.1 == x)).map Prod.snd).sum
    let measured := s.pwr.energyUj - s.pwr.attrUj
    let total := (known.map Prod.snd).sum
    ∃ t, exec (.energyAttribution cores parts) s = .next t
      ∧ (∀ x, (∃ e ∈ known, e.1 = x) → lookup t.acctEnergy x
          = some ((lookup s.acctEnergy x).getD 0 + BitVec.ofNat 64 (measured * of_ x / total)))
      ∧ (∀ x, (∀ e ∈ known, e.1 ≠ x) → lookup t.acctEnergy x = lookup s.acctEnergy x)
      ∧ t.pwr.unattr = s.pwr.unattr + BitVec.ofNat 64 (measured - (((known.map Prod.fst).eraseDups).map (fun x => measured * of_ x / total)).sum)
      ∧ t.pwr = { s.pwr with unattr := t.pwr.unattr, attrUj := s.pwr.energyUj } ∧ t = { s with acctEnergy := t.acctEnergy, pwr := t.pwr }

/-! ## The module -/

/-- Feeds, power-good and its loss, and the sideband bus (R449 to R451, R453, R454, R458). A feed that fails, runs over voltage, is reversed or
shorted is absent for load, latched and asserts ALERT_N; one that returns powers the standby domain. Power-good with a feed starts the package
up, or leaves it TRIPPED; without a feed the dies lose power, and without the standby domain only flash, fuses and hard repairs are left. While
the standby domain runs PAGE takes its three values, a PMBus read answers its bytes and changes nothing else, but that STATUS_INPUT releases
ALERT_N; CLEAR_FAULTS clears what no condition holds; a refused command sets CML; the Alert Response Address answers while ALERT_N is asserted;
MFR_WAKE leaves Cold, or TRIPPED once the package is cool. -/
def Obligations.ModuleFeedsAndSideband : Prop :=
  (∀ (s : State) (f : Feed),
    (s.pwr.feeds[f].present = true → ∃ t, exec (.feedFailure f) s = .next t ∧ t.pwr.feeds[f].present = false ∧ t.pwr.alert = true
      ∧ t.pwr.feeds[f].latchUv = (s.pwr.feeds[f].latchUv || !s.pwr.feeds[f].overV)
      ∧ (∃ r, t.log.recs = List.take 8192 (r :: s.log.recs) ∧ r.source = 13 ∧ r.cause = 5 ∧ r.unit = f.val)
      ∧ t = { s with pwr := t.pwr, log := t.log })
    ∧ (s.pwr.feeds[f].present = false → exec (.feedFailure f) s = .next s)
    ∧ (exec (.feedReturn f) s = .next { s with pwr := { s.pwr with
        standby := true
        feeds := s.pwr.feeds.set f { s.pwr.feeds[f] with present := true, overV := false, reverse := false, short := false } } })
    ∧ (∃ t, exec (.feedOvervoltage f) s = .next t ∧ t.pwr.feeds[f].present = false ∧ t.pwr.feeds[f].overV = true
      ∧ t.pwr.feeds[f].latchOv = true ∧ t.pwr.alert = true
      ∧ (∃ r l, t.log.recs = List.take 8192 (r :: l) ∧ r.source = 15 ∧ r.cause = 5) ∧ t = { s with pwr := t.pwr, log := t.log })
    ∧ (∃ t, exec (.feedReversePolarity f) s = .next t ∧ t.pwr.feeds[f].present = false ∧ t.pwr.feeds[f].reverse = true ∧ t.pwr.alert = true
      ∧ (∃ r l, t.log.recs = List.take 8192 (r :: l) ∧ r.source = 15 ∧ r.cause = 6) ∧ t = { s with pwr := t.pwr, log := t.log })
    ∧ (∃ t, exec (.feedShort f) s = .next t ∧ t.pwr.feeds[f].present = false ∧ t.pwr.feeds[f].short = true ∧ t.pwr.alert = true
      ∧ t = { s with pwr := t.pwr, log := t.log }))
  ∧ (∀ (s : State) (env : StartEnv),
    (s.pwr.anyFeed = true → s.pwr.powered = false → s.pwr.tripped = false → ∃ t, exec (.powerGood env) s = .next t
      ∧ (t.svc.phase = 8 ∨ t.svc.phase = 9) ∧ t.pwr.powered = true ∧ t.pwr.slotId = env.slotId.toNat
      ∧ t.pwr.smbAddr = 0x60 + env.smbAddr.toNat ∧ t.hostMem = s.hostMem ∧ t.fls.cells = s.fls.cells ∧ t.svc.fuses = s.svc.fuses
      ∧ t.ctxs = [] ∧ t.queues = [] ∧ t.cmds = [] ∧ t.coreStore = Ram.empty ∧ t.regionMem = Ram.empty ∧ t.pending = s.pending)
    ∧ (s.pwr.anyFeed = true → s.pwr.powered = false → s.pwr.tripped = true → ∃ t, exec (.powerGood env) s = .next t
      ∧ t.pwr.tripped = true ∧ t.pwr.powered = false ∧ t.pwr.standby = true ∧ t.pwr.slotId = env.slotId.toNat ∧ t.svc = s.svc ∧ t.fls = s.fls)
    ∧ (s.pwr.anyFeed = false ∨ s.pwr.powered = true → exec (.powerGood env) s = .next s))
  ∧ (∀ s : State, (s.pwr.anyFeed = true ∨ s.pwr.powered = false → exec .powerLoss s = .next s)
    ∧ (s.pwr.anyFeed = true → exec .powerRemoved s = .next s))
  ∧ (∀ s : State, s.pwr.anyFeed = false →
    (s.pwr.powered = true → ∃ t, exec .powerLoss s = .next t ∧ t.pwr.powered = false ∧ t.isReady = false ∧ t.stacked = Ram.empty
      ∧ t.coreStore = Ram.empty ∧ t.regionMem = Ram.empty ∧ t.ctxs = [] ∧ t.hostMem = s.hostMem ∧ t.fls.cells = s.fls.cells
      ∧ t.svc.fuses = s.svc.fuses ∧ t.timeNs = s.timeNs ∧ t.log = s.log ∧ t.pending = s.pending)
    ∧ ∃ t, exec .powerRemoved s = .next t ∧ t.pwr.standby = false ∧ t.pwr.powered = false ∧ t.pwr.tripped = false ∧ t.timeNs = 0
      ∧ t.log.recs = [] ∧ t.stacked = Ram.empty ∧ t.hostMem = s.hostMem ∧ t.fls.cells = s.fls.cells ∧ t.svc.fuses = s.svc.fuses
      ∧ t.svc.keptDigests = [] ∧ (∀ g : RegionId, t.regions[g].hardUsed = s.regions[g].hardUsed) ∧ t.pending = s.pending)
  ∧ (∀ s : State, s.pwr.standby = true →
    (exec (.page none) s = .next { s with reply := leBytes 1 s.pwr.page })
    ∧ (∀ v : Byte, v ∉ [0, 1, 0xFF] → exec (.page (some v)) s = .next s)
    ∧ (∀ v : Byte, v ∈ [0, 1, 0xFF] → exec (.page (some v)) s = .next { s with pwr := { s.pwr with page := v.toNat } })
    ∧ (∃ t, exec .clearFaults s = .next t ∧ t.pwr.cml = false ∧ t.pwr.alert = false
      ∧ (∀ f : Feed, t.pwr.feeds[f].latchOv = s.pwr.feeds[f].overV
          ∧ t.pwr.feeds[f].latchUv = (!s.pwr.feeds[f].present && !s.pwr.feeds[f].overV) ∧ t.pwr.feeds[f].latchOff = !s.pwr.anyFeed)
      ∧ t.pwr = { s.pwr with feeds := t.pwr.feeds, cml := false, alert := false } ∧ t = { s with pwr := t.pwr })
    ∧ exec .statusWord s = .next { s with reply := leBytes 2 s.statusWord }
    ∧ exec .statusInput s = .next { s with reply := leBytes 1 s.pwr.statusInput, pwr := { s.pwr with alert := false } }
    ∧ exec .readEin s = .next { s with reply := 6 :: s.pwr.einBytes }
    ∧ (∀ v, v = linear11 (s.pwr.pageFeeds.map FeedState.voltDv).sum 10 → exec .readVin s = .next { s with reply := leBytes 2 v })
    ∧ (∀ v, v = linear11 (s.pwr.pageFeeds.map FeedState.currentDa).sum 10 → exec .readIin s = .next { s with reply := leBytes 2 v })
    ∧ (∀ v, v = linear11 (s.pwr.maxDc.toList.foldl max 0) 10 → exec .readTemperature1 s = .next { s with reply := leBytes 2 v })
    ∧ (s.pwr.page = 0xFF → exec .readPin s = .next { s with reply := leBytes 2 (linear11 s.pwr.meanW 1) })
    ∧ (s.pwr.page = 0 → exec .readPin s = .next { s with reply := leBytes 2 (linear11 (s.pwr.feeds[(0 : Feed)].meanW) 1) })
    ∧ (s.pwr.page = 1 → exec .readPin s = .next { s with reply := leBytes 2 (linear11 (s.pwr.feeds[(1 : Feed)].meanW) 1) })
    ∧ exec .pmbusRevision s = .next { s with reply := [0x44] }
    ∧ exec .mfrId s = .next { s with reply := 9 :: mfrIdBytes }
    ∧ exec .mfrModel s = .next { s with reply := 9 :: mfrModelBytes }
    ∧ (∀ c, ∃ t, exec (.smbusRefused c) s = .next t ∧ t.pwr = { s.pwr with cml := true }
      ∧ (s.limitCount (15 * 2 ^ 32) < 256 → ∃ r, t.log.recs = List.take 8192 (r :: s.log.recs) ∧ r.source = 15 ∧ r.cause = 7)
      ∧ t = { s with pwr := t.pwr, log := t.log })
    ∧ (s.pwr.alertPin = true → exec .alertResponse s = .next { s with reply := [BitVec.ofNat 8 (2 * s.pwr.smbAddr)] }))
  ∧ (∀ s : State, s.pwr.alertPin = false → exec .alertResponse s = .next s)
  ∧ (∀ n : Nat, n ≤ 1023 → linear11 n 1 % 2 ^ 11 * 2 ^ 16 = n * 2 ^ (16 - (Int.bmod (linear11 n 1 / 2 ^ 11 : Nat) 32)).toNat)
  ∧ ∀ s : State, (s.pwr.current = 4 → s.pwr.powered = true → ∃ t, exec .mfrWake s = .next t ∧ (t.svc.phase = 8 ∨ t.svc.phase = 9)
      ∧ t.pwr.current = 0 ∧ t.hostMem = s.hostMem ∧ t.fls.cells = s.fls.cells)
    ∧ (s.pwr.current ≠ 4 → s.pwr.tripped = true → s.pwr.cool = true → s.pwr.standby = true → ∃ t, exec .mfrWake s = .next t
      ∧ (t.svc.phase = 8 ∨ t.svc.phase = 9) ∧ t.pwr.tripped = false ∧ t.pwr.lastTrip = true ∧ t.pwr.powered = true)
    ∧ (s.pwr.current ≠ 4 → s.pwr.tripped = false ∨ s.pwr.cool = false ∨ s.pwr.standby = false → exec .mfrWake s = .next s)

/-! ## The service port -/

/-- Sessions, identity, log, attestation and staging (R411, R412, R435, R438, R439, R443). A session starts with a fresh nonce while the standby
domain runs, and one at a time; without one nothing is answered, nor before READY, RECOVERY or TRIPPED. A message wakes the package from Ash, and
from Cold with its session kept. A header of another ABI, with reserved bits or a status is answered VERSION, one with a length over 66,048
MALFORMED. HELLO, STATUS and READ_LOG, in every phase served, and ATTEST and DOE answer what the device holds and change nothing else. Staging
empties the slot that PREFERRED does not name, takes its bytes in order and, checked, makes it PREFERRED or INVALID; what does not fit is
MALFORMED, a second begin BUSY. -/
def Obligations.ServiceSessionAndStaging : Prop :=
  (∀ s : State, (s.svc.session = none → s.pwr.standby = true →
      exec .serviceSessionConnect s = .next { s with svc := { s.svc with session := some (Config.nonce s.freshCtr) }, freshCtr := s.freshCtr + 1 })
    ∧ (s.svc.session ≠ none ∨ s.pwr.standby = false → exec .serviceSessionConnect s = .next s)
    ∧ exec .serviceSessionClose s = .next { s with svc := { s.svc with session := none } })
  ∧ (∀ (s : State) (h : SvcHdr) (a b : Nat) (l : List Byte) (i : Instr),
    i ∈ [Instr.hello h, .status h, .readLog h a b, .attest h l, .stageBegin h a b, .stageData h a b l, .stageEnd h a] →
    (s.pwr.current = 3 → exec i s = exec i s.leaveAsh)
    ∧ (s.pwr.current = 4 → s.pwr.powered = true → exec i s = exec i (s.leaveCold.updSvc (fun v => { v with session := s.svc.session })))
    ∧ (s.pwr.current ≠ 3 → s.pwr.current ≠ 4 ∨ s.pwr.powered = false →
      (s.svc.session = none → exec i s = .next s)
      ∧ (s.svc.phase ≠ 8 → s.svc.phase ≠ 9 → s.pwr.tripped = false → exec i s = .next s)
      ∧ (s.svc.session ≠ none → s.svc.phase = 8 ∨ s.svc.phase = 9 ∨ s.pwr.tripped = true →
        (h.abiMajor ≠ 1 ∨ h.abiMinor ≠ 0 ∨ h.reserved ≠ 0 ∨ h.status ≠ 0 → exec i s = .next { s with reply := svcMessage h 0x20 [] })
        ∧ (h.abiMajor = 1 → h.abiMinor = 0 → h.reserved = 0 → h.status = 0 → 66048 < h.length.toNat →
            exec i s = .next { s with reply := svcMessage h 0x21 [] }))))
  ∧ (∀ (s : State) (h : SvcHdr) (n : List Byte), s.svc.session = some n → hdrFails h = none → s.pwr.current ≠ 3 →
    s.pwr.current ≠ 4 ∨ s.pwr.powered = false → s.svc.phase = 8 ∨ s.svc.phase = 9 ∨ s.pwr.tripped = true →
    let refused (i : Instr) : Prop := exec i s = .next { s with reply := svcMessage h 0x21 [] }
    exec (.hello h) s = .next { s with reply := svcMessage h 0 (leBytes 8 s.svc.serial.toNat ++ leBytes 4 s.svc.hwType.toNat
        ++ leBytes 4 s.svc.runVersion.toNat ++ s.regions.toList.flatMap (fun r => leBytes 4 r.runVersion.toNat) ++ n ++ Config.certificates) }
    ∧ exec (.status h) s = .next { s with reply := svcMessage h 0 (([s.svcStateWord] ++ s.svc.fw.toList.flatMap FwKind.words
        ++ (List.range 13).map s.runWordOf ++ [s.pwr.tripWord]).flatMap (leBytes 4)) }
    ∧ (∀ first count, count ≤ 2048 →
      exec (.readLog h first count) s = .next { s with reply := svcMessage h 0 ((s.log.from_ first count).flatMap LogRec.bytes) })
    ∧ (∀ first count, 2048 < count → refused (.readLog h first count))
    ∧ (∀ nonce, s.svc.phase = 8 → nonce.length = 32 → exec (.attest h nonce) s = .next { s with reply := svcMessage h 0 (s.evidence nonce) })
    ∧ (∀ nonce, s.svc.phase ≠ 8 ∨ nonce.length ≠ 32 → refused (.attest h nonce))
    ∧ (∀ kind a b l, (s.svc.phase ≠ 8 ∧ s.svc.phase ≠ 9) ∨ (kind ≠ 1 ∧ kind ≠ 2) →
        refused (.stageBegin h kind a) ∧ refused (.stageData h kind b l) ∧ refused (.stageEnd h kind))
    ∧ (∀ kind, s.svc.phase = 8 ∨ s.svc.phase = 9 → kind = 1 ∨ kind = 2 →
      let k := s.svc.fw[kindIx kind]
      let img := (k.slots[k.spare]).image
      (∀ size, 1 ≤ size → size ≤ 33554432 → k.staging = false → ∃ t, exec (.stageBegin h kind size) s = .next t
        ∧ t.svc.fw = s.svc.fw.set (kindIx kind) { k with slots := k.slots.set k.spare { state := .staging, image := [] }, size := size }
        ∧ t.reply = svcMessage h 0 [] ∧ t = { s with svc := { s.svc with fw := t.svc.fw }, reply := t.reply })
      ∧ (∀ size, 1 ≤ size → size ≤ 33554432 → k.staging = true →
          exec (.stageBegin h kind size) s = .next { s with reply := svcMessage h 0x41 [] })
      ∧ (∀ size, size = 0 ∨ 33554432 < size → refused (.stageBegin h kind size))
      ∧ (∀ data, k.staging = true → img.length + data.length ≤ k.size → data.length ≤ 65536 →
        ∃ t, exec (.stageData h kind img.length data) s = .next t
          ∧ t.svc.fw = s.svc.fw.set (kindIx kind) { k with slots := k.slots.set k.spare { state := .staging, image := img ++ data } }
          ∧ t.reply = svcMessage h 0 [] ∧ t = { s with svc := { s.svc with fw := t.svc.fw }, reply := t.reply })
      ∧ (∀ off data, k.staging = false ∨ off ≠ img.length ∨ k.size < off + data.length ∨ 65536 < data.length →
          refused (.stageData h kind off data))
      ∧ (k.staging = false → refused (.stageEnd h kind))
      ∧ (k.staging = true → ∃ t st, exec (.stageEnd h kind) s = .next t ∧ st = s.fwStatus kind img k.size true ∧ t.reply = svcMessage h st []
        ∧ (st = 0 → t.svc.fw = s.svc.fw.set (kindIx kind)
            { k with slots := k.slots.set k.spare { state := .valid, image := img }, preferred := !k.preferred })
        ∧ (st ≠ 0 → t.svc.fw = s.svc.fw.set (kindIx kind) { k with slots := k.slots.set k.spare { state := .invalid, image := img } })
        ∧ t = { s with svc := { s.svc with fw := t.svc.fw }, reply := t.reply, log := t.log, hif := t.hif })))
  ∧ ∀ (s : State) (p : HostPort) (nonce : List Byte),
    ((s.svc.phase = 8 ∨ s.svc.phase = 9) → nonce.length = 32 → exec (.doeAttest p nonce) s = .next { s with reply := s.evidence nonce })
    ∧ ((s.svc.phase ≠ 8 ∧ s.svc.phase ≠ 9) ∨ nonce.length ≠ 32 → exec (.doeAttest p nonce) s = .next s)

/-! ## Privileged requests and tests -/

/-- Privileged requests, tests and drains (R35, R123, R365, R423, R436, R437, R439 to R442, R445). A request whose signature does not hold is answered
AUTH, logged, and changes nothing; one that comes behind another waits. ACTIVATE drains its first region that is in service, or ends at once; COMMIT_SVN
raises the fused SVN; RESET_PACKAGE keeps the stacks; FUSE_PROGRAM adds an entry or names the check that fails; RESUME starts up a tripped package
that is cool. A test from the mailbox is ignored while one runs; out of its range it is MALFORMED; without TEST slots an in-slot test ends with
LIMIT, and a failing checker takes its stack or the flash out; a test of a region drains it, of a vector engine begins when no resident image needs the
engine, of a Darit port trains it. A drained region is reset; a drain that times out ends BUSY, or with FORCE in the reset; a tested vector
engine ends IN_SERVICE or FENCED, one that could not begin as it was, with BUSY. -/
def Obligations.PrivilegedRequestsAndTests : Prop :=
  (∀ (s : State) (h : SvcHdr) (g : SvcSig) (mask : BitVec 12) (f : Bool) (ms kind : Nat) (e : W64) (i : Instr) (body : List Byte),
    s.svc.session ≠ none → s.isReady = true → s.pwr.tripped = false → s.pwr.current ≠ 3 → s.pwr.current ≠ 4 → hdrFails h = none →
    s.fls.quench = none →
    (i, body) ∈ [(Instr.activate h g mask f ms, leBytes 4 (mask.toNat + bitN f * 2 ^ 16) ++ leBytes 4 ms), (.commitSvn h g kind, leBytes 4 kind),
      (.resetPackage h g, []), (.fuseProgram h g e, leBytes 8 e.toNat), (.resume h g, [])] →
    (s.authorised h g body = false → ∃ t, exec i s = .next t ∧ t.reply = svcMessage h 0x40 []
      ∧ (∃ r, t.log.recs = List.take 8192 (r :: s.log.recs) ∧ r.source = 14 ∧ r.cause = 9)
      ∧ t = { s with reply := t.reply, log := t.log, hif := t.hif })
    ∧ (s.authorised h g body = true → s.svc.work ≠ none ∨ s.svc.waiting ≠ [] → s.svc.waiting.length < 16 →
      exec i s = .next { s with svc := { s.svc with waiting := s.svc.waiting ++ [i] } })
    ∧ (s.authorised h g body = true → s.svc.work ≠ none ∨ s.svc.waiting ≠ [] → 16 ≤ s.svc.waiting.length →
      exec i s = .next { s with reply := svcMessage h 0x41 [] })
    ∧ (s.authorised h g body = true → s.svc.work = none → s.svc.waiting = [] →
      ∃ t, exec i s = .next t ∧ t.hostMem = s.hostMem ∧ t.stacked = s.stacked ∧ t.pending = s.pending
      ∧ (i = .activate h g mask f ms → (ms = 0 ∨ 60000 < ms → t = { s with reply := svcMessage h 0x21 [] })
        ∧ (1 ≤ ms → ms ≤ 60000 → (s.maskRegions mask = [] → t = { s with reply := svcMessage h 0 [] })
          ∧ (∀ x rest, s.maskRegions mask = x :: rest → s.leavesOne (regionN x) = false → t = { s with reply := svcMessage h 0x22 [] })
          ∧ (∀ x rest, s.maskRegions mask = x :: rest → s.leavesOne (regionN x) = true →
              t.regions[regionN x].drain = true ∧ t.svc.work = some (.activate (x :: rest) i))))
      ∧ (i = .commitSvn h g kind → (kind ≠ 1 → kind ≠ 2 → t = { s with reply := svcMessage h 0x21 [] })
        ∧ (kind = 1 ∨ kind = 2 → t.reply = svcMessage h 0 []
          ∧ t.svc.svn[kindIx kind] = max s.svc.svn[kindIx kind] (lowestSvn (s.runSvns kind))
          ∧ t = { s with svc := { s.svc with svn := t.svc.svn, fw := t.svc.fw }, reply := t.reply, log := t.log }))
      ∧ (i = .resetPackage h g → t.reply = svcMessage h 0 [] ∧ (t.svc.phase = 8 ∨ t.svc.phase = 9) ∧ t.ctxs = [] ∧ t.cmds = [])
      ∧ (i = .fuseProgram h g e → (fuseReserved e.toNat = true → t = { s with reply := svcMessage h 0x20 [] })
        ∧ (fuseReserved e.toNat = false →
          (fuseOk e.toNat = false ∨ (∃ x ∈ s.svc.fuses, bit x.toNat 63 = true ∧ x.toNat % 2 ^ 63 = e.toNat % 2 ^ 63) →
            t = { s with reply := svcMessage h 0x21 [] })
          ∧ (fuseOk e.toNat = true → (∀ x ∈ s.svc.fuses, bit x.toNat 63 = true → x.toNat % 2 ^ 63 ≠ e.toNat % 2 ^ 63) →
            (256 ≤ s.svc.fuses.length → t = { s with reply := svcMessage h 0x22 [] })
            ∧ (s.svc.fuses.length < 256 → t = { s with
                reply := svcMessage h 0 []
                svc := { s.svc with fuses := s.svc.fuses ++ [BitVec.ofNat 64 (2 ^ 63 + e.toNat % 2 ^ 63)] } }))))
      ∧ (i = .resume h g → t = { s with reply := svcMessage h 0x21 [] })))
  ∧ (∀ (s : State) (h : SvcHdr) (g : SvcSig), s.svc.session ≠ none → s.pwr.tripped = true → s.pwr.current ≠ 3 → s.pwr.current ≠ 4 →
    hdrFails h = none → s.svc.work = none → s.svc.waiting = [] →
    (s.pwr.cool = true → ∃ t, exec (.resume h g) s = .next t
      ∧ t.pwr.tripped = (if s.authorised h g [] then false else true)
      ∧ (s.authorised h g [] = true → (t.svc.phase = 8 ∨ t.svc.phase = 9) ∧ t.pwr.lastTrip = true ∧ t.reply = svcMessage h 0 []))
    ∧ (s.pwr.cool = false → s.authorised h g [] = true → exec (.resume h g) s = .next { s with reply := svcMessage h 0x41 [] }))
  ∧ (∀ (s : State) (target ms : Nat) (force pass : Bool), s.pwr.current ≠ 3 →
    let all := [(Instr.testCheckerPatterns .mailbox target force ms pass, 0, 12), (.testSensorCalibration .mailbox target force ms pass, 1, 3),
      (.testSramBist .mailbox target force ms, 2, 11), (.testStackRetrain .mailbox target force ms, 3, 11),
      (.testVectorEngine .mailbox target force ms, 4, 95), (.testDaritRetrain .mailbox target force ms, 5, 7)]
    let asked (k : Nat) : Service := { s.svc with tForce := force, tTarget := target, tKind := k, tLast := k }
    let ended (i : Instr) (k st : Nat) : Prop :=
      exec i s = .next { s with svc := { asked k with tBusy := false, tPass := false, tStatus := st } }
    (s.isReady = false → ∀ i k m, (i, k, m) ∈ all → exec i s = .next s)
    ∧ (s.isReady = true → s.svc.tBusy = true → ∀ i k m, (i, k, m) ∈ all →
        exec i s = .next { s with svc := { s.svc with tForce := force, tTarget := target, tKind := k } })
    ∧ (s.isReady = true → s.svc.tBusy = false → s.svc.work = none → s.svc.waiting = [] → s.fls.quench = none →
      (∀ i k m, (i, k, m) ∈ all → m < target ∨ ms = 0 ∨ 60000 < ms → ended i k 0x21)
      ∧ (1 ≤ ms → ms ≤ 60000 →
        (∀ i k m, (i, k, m) ∈ all → k ≤ 1 → target ≤ m → s.testSlots = false → ended i k 0x22)
        ∧ (∀ i k m, (i, k, m) ∈ all → k ≤ 1 → target ≤ m → s.testSlots = true → k = 1 ∨ pass = true → ∃ t, exec i s = .next t
          ∧ t.svc = { asked k with tBusy := false, tPass := pass, tStatus := 0 } ∧ t = { s with svc := t.svc, log := t.log })
        ∧ (target ≤ 12 → s.testSlots = true → pass = false → ∃ t, exec (.testCheckerPatterns .mailbox target force ms false) s = .next t
          ∧ t.svc.tBusy = false ∧ t.svc.tPass = false ∧ t.svc.tStatus = 0
          ∧ (target = 12 → t.fls = { s.fls with state := .failed })
          ∧ (target < 12 → s.regionState (regionN target) = .inService →
              t.regions[regionN target].stack = .failed ∧ t.regions[regionN target].outOfService = true ∧ t.regionState (regionN target) = .fenced))
        ∧ (∀ i k m, (i, k, m) ∈ all → k = 2 ∨ k = 3 → target ≤ 11 →
          (s.regionState (regionN target) ≠ .inService → ended i k 0x41)
          ∧ (s.regionState (regionN target) = .inService → s.leavesOne (regionN target) = false → ended i k 0x22)
          ∧ (s.regionState (regionN target) = .inService → s.leavesOne (regionN target) = true → ∃ t, exec i s = .next t
            ∧ t.svc = { asked k with tBusy := true, work := some (.test k target i) } ∧ t.regions[regionN target].drain = true
            ∧ t = { s with svc := t.svc, regions := t.regions, cores := t.cores, coils := t.coils }))
        ∧ (target ≤ 95 → s.coreUp (coreN target) = false → ended (.testVectorEngine .mailbox target force ms) 4 0x41)
        ∧ (target ≤ 95 → s.coreUp (coreN target) = true → s.cores[coreN target].vec = .inService →
          ∃ t, exec (.testVectorEngine .mailbox target force ms) s = .next t
          ∧ t.svc = { asked 4 with tBusy := true, work := some (.test 4 target (.testVectorEngine .mailbox target force ms)) }
          ∧ ((∀ sl ∈ s.cores[coreN target].resident, sl.hdr.vecOps = false) → t.cores[coreN target].vec = .underTest)
          ∧ ((∃ sl ∈ s.cores[coreN target].resident, sl.hdr.vecOps = true) → t.cores[coreN target].vec = .inService
              ∧ t.cores[coreN target].vecAsked = true)
          ∧ t = { s with svc := t.svc, cores := t.cores })
        ∧ (∀ p : DaritPort, p.val = target → ∃ t, exec (.testDaritRetrain .mailbox target force ms) s = .next t
          ∧ t.darit.ports[p] = s.darit.portStart s.darit.ports[p]
          ∧ ((s.darit.portStart s.darit.ports[p]).st = .training →
              t.svc = { asked 5 with tBusy := true, work := some (.test 5 target (.testDaritRetrain .mailbox target force ms)) })
          ∧ ((s.darit.portStart s.darit.ports[p]).st ≠ .training →
              t.svc = { asked 5 with tBusy := false, tPass := false, tStatus := 0 }))))
    ∧ (∀ k : BitVec 3, 6 ≤ k.toNat → (s.isReady = false → exec (.testInvalidKind k) s = .next s)
      ∧ (s.isReady = true → s.svc.tBusy = true → exec (.testInvalidKind k) s = .next { s with svc := { s.svc with tKind := k.toNat } })
      ∧ (s.isReady = true → s.svc.tBusy = false → exec (.testInvalidKind k) s = .next { s with svc :=
        { s.svc with tKind := k.toNat, tLast := k.toNat, tPass := false, tStatus := 0x21 } })))
  ∧ (∀ (s : State) (g : RegionId), s.svc.draining = some g.val → s.regions[g].drain = true → s.regionState g = .inService →
    (s.drainedRegion g = false → exec (.regionDrainComplete g) s = .next s)
    ∧ (s.drainedRegion g = true → ∃ t, exec (.regionDrainComplete g) s = .next t ∧ (t.part (.region g)).state = .resetting
      ∧ t.svc.work = s.svc.work)
    ∧ (s.svc.forced = true → ∃ t, exec (.regionDrainTimeout g) s = .next t ∧ (t.part (.region g)).state = .resetting
      ∧ t.svc.work = s.svc.work)
    ∧ (s.svc.forced = false → s.svc.waiting = [] → ∃ t, exec (.regionDrainTimeout g) s = .next t ∧ t.svc.work = none
      ∧ t.regions[g].drain = false
      ∧ (∀ k i, s.svc.work = some (.test k g.val i) →
        (reqHdr i = none → t.svc = { s.svc with work := none, tBusy := false, tPass := false, tStatus := 0x41 } ∧ t.reply = s.reply)
        ∧ (∀ h, reqHdr i = some h → t.svc = { s.svc with work := none } ∧ t.reply = svcMessage h 0x41 [0]))
      ∧ (∀ l h sg m f ms, s.svc.work = some (.activate l (.activate h sg m f ms)) →
          t.svc = { s.svc with work := none } ∧ t.reply = svcMessage h 0x41 [])
      ∧ t = { s with svc := t.svc, regions := t.regions, cores := t.cores, reply := t.reply }))
  ∧ ∀ (s : State) (c : CoreId) (i : Instr) (pass : Bool), s.svc.work = some (.test 4 c.val i) → s.svc.waiting = [] →
    (s.cores[c].vec ≠ .underTest → exec (.vectorEngineTestEnd c pass) s = .next s)
    ∧ (s.cores[c].vec = .underTest → exec (.vectorEngineTestTimeout c) s = .next s)
    ∧ (s.cores[c].vec = .underTest → ∃ t, exec (.vectorEngineTestEnd c pass) s = .next t
      ∧ t.cores[c].vec = (if pass then .inService else .fenced) ∧ (∀ c' : CoreId, c' ≠ c → t.cores[c'] = s.cores[c'])
      ∧ (reqHdr i = none → t.svc = { s.svc with work := none, tBusy := false, tPass := pass, tStatus := 0 } ∧ t.reply = s.reply)
      ∧ (∀ h, reqHdr i = some h → t.svc = { s.svc with work := none } ∧ t.reply = svcMessage h 0 [if pass then 1 else 0])
      ∧ t = { s with svc := t.svc, cores := t.cores, log := t.log, reply := t.reply })
    ∧ (s.cores[c].vec ≠ .underTest → ∃ t, exec (.vectorEngineTestTimeout c) s = .next t ∧ t.cores[c].vec = s.cores[c].vec
      ∧ t.cores[c].vecAsked = false
      ∧ (reqHdr i = none → t.svc = { s.svc with work := none, tBusy := false, tPass := false, tStatus := 0x41 } ∧ t.reply = s.reply)
      ∧ (∀ h, reqHdr i = some h → t.svc = { s.svc with work := none } ∧ t.reply = svcMessage h 0x41 [0])
      ∧ t = { s with svc := t.svc, cores := t.cores, reply := t.reply })
end

