-- ==== Sys2Proof/Laws/Tables.lean ====
section
/-! SUPPORT. What the sparse tables' operations do: lookups after them, and that they keep rising keys. -/

namespace Sys2Proof.Machine

variable {α : Type}

theorem sortedKeys_iff (l : List (Nat × α)) : sortedKeys l = true ↔ l.Pairwise (fun a b => a.1 < b.1) := by
  induction l with
  | nil => simp [sortedKeys]
  | cons x r ih =>
    cases r with
    | nil => simp [sortedKeys]
    | cons y r =>
      simp only [sortedKeys, Bool.and_eq_true, decide_eq_true_eq, ih, List.pairwise_cons]
      constructor
      · rintro ⟨h, hy, hr⟩
        refine ⟨fun z hz => ?_, hy, hr⟩
        rcases List.mem_cons.1 hz with rfl | hz
        · exact h
        · exact lt_trans h (hy z hz)
      · rintro ⟨h, hy, hr⟩
        exact ⟨h y (by simp), hy, hr⟩

theorem sortedKeys_filter {l : List (Nat × α)} (p : Nat × α → Bool) (h : sortedKeys l = true) : sortedKeys (l.filter p) = true :=
  (sortedKeys_iff _).2 (((sortedKeys_iff _).1 h).filter p)

theorem sortedKeys_append {l r : List (Nat × α)} (hl : sortedKeys l = true) (hr : sortedKeys r = true)
    (h : ∀ a ∈ l, ∀ b ∈ r, a.1 < b.1) : sortedKeys (l ++ r) = true :=
  (sortedKeys_iff _).2 (List.pairwise_append.2 ⟨(sortedKeys_iff _).1 hl, (sortedKeys_iff _).1 hr, h⟩)

theorem lookup_mem {l : List (Nat × α)} {i : Nat} {v : α} (h : lookup l i = some v) : (i, v) ∈ l := by
  induction l with
  | nil => simp [lookup] at h
  | cons x r ih =>
    obtain ⟨k, w⟩ := x
    by_cases e : k = i
    · subst e; simp [lookup] at h; simp [h]
    · simp [lookup, e] at h; simp [ih h]

theorem lookup_eq_none {l : List (Nat × α)} {i : Nat} : lookup l i = none ↔ ∀ e ∈ l, e.1 ≠ i := by
  induction l with
  | nil => simp [lookup]
  | cons x r ih =>
    obtain ⟨k, w⟩ := x
    by_cases e : k = i <;> simp [lookup, e, ih]

/-- With rising keys an entry is what its key looks up. -/
theorem lookup_of_mem {l : List (Nat × α)} (hl : sortedKeys l = true) {i : Nat} {v : α} (h : (i, v) ∈ l) : lookup l i = some v := by
  rw [sortedKeys_iff] at hl
  induction l with
  | nil => simp at h
  | cons x r ih =>
    obtain ⟨k, w⟩ := x
    rw [List.pairwise_cons] at hl
    rcases List.mem_cons.1 h with h | h
    · cases h; simp [lookup]
    · have := hl.1 _ h
      have e : k ≠ i := by simp at this; omega
      simp [lookup, e, ih hl.2 h]

theorem lookup_append (l r : List (Nat × α)) (i : Nat) : lookup (l ++ r) i = (lookup l i).orElse (fun _ => lookup r i) := by
  induction l with
  | nil => simp [lookup]
  | cons x l ih =>
    obtain ⟨k, w⟩ := x
    by_cases e : k = i <;> simp [lookup, e, ih]

/-- A filter by key keeps the lookups of the keys it picks and no other. -/
theorem lookup_filter_key (l : List (Nat × α)) (p : Nat → Bool) (i : Nat) :
    lookup (l.filter (fun e => p e.1)) i = if p i then lookup l i else none := by
  induction l with
  | nil => simp [lookup]
  | cons x l ih =>
    obtain ⟨k, w⟩ := x
    by_cases e : k = i
    · subst e; by_cases hp : p k = true <;> simp [hp, lookup, ih]
    · by_cases hp : p k = true <;> simp [hp, lookup, e, ih]

@[simp] theorem lookup_insertAt_self (l : List (Nat × α)) (i : Nat) (v : α) : lookup (insertAt l i v) i = some v := by
  induction l with
  | nil => simp [insertAt, lookup]
  | cons x l ih =>
    obtain ⟨k, w⟩ := x
    unfold insertAt
    split
    · simp [lookup]
    · split
      · simp [lookup]
      · have : k ≠ i := by omega
        simp [lookup, this, ih]

theorem lookup_insertAt_ne (l : List (Nat × α)) {i j : Nat} (v : α) (h : j ≠ i) : lookup (insertAt l i v) j = lookup l j := by
  have h' : i ≠ j := fun e => h e.symm
  induction l with
  | nil => simp [insertAt, lookup, h']
  | cons x l ih =>
    obtain ⟨k, w⟩ := x
    unfold insertAt
    split
    · simp [lookup, h']
    · split
      · rename_i e; subst e; simp [lookup, h']
      · by_cases e : k = j <;> simp [lookup, e, ih]

theorem mem_insertAt {l : List (Nat × α)} {i : Nat} {v : α} {e : Nat × α} (h : e ∈ insertAt l i v) : e = (i, v) ∨ e ∈ l := by
  induction l with
  | nil => simpa [insertAt] using h
  | cons x l ih =>
    obtain ⟨k, w⟩ := x
    unfold insertAt at h
    split at h
    · simpa using h
    · split at h
      · rcases List.mem_cons.1 h with h | h
        · exact .inl h
        · exact .inr (by simp [h])
      · rcases List.mem_cons.1 h with h | h
        · exact .inr (by simp [h])
        · rcases ih h with h | h
          · exact .inl h
          · exact .inr (by simp [h])

theorem sortedKeys_insertAt {l : List (Nat × α)} (i : Nat) (v : α) (h : sortedKeys l = true) : sortedKeys (insertAt l i v) = true := by
  rw [sortedKeys_iff] at *
  induction l with
  | nil => simp [insertAt]
  | cons x l ih =>
    obtain ⟨k, w⟩ := x
    have hp := List.pairwise_cons.1 h
    unfold insertAt
    split
    · refine List.pairwise_cons.2 ⟨fun e he => ?_, h⟩
      rcases List.mem_cons.1 he with rfl | he
      · assumption
      · have := hp.1 e he; simp at this ⊢; omega
    · split
      · rename_i hik; subst hik
        exact List.pairwise_cons.2 ⟨hp.1, hp.2⟩
      · refine List.pairwise_cons.2 ⟨fun e he => ?_, ih hp.2⟩
        rcases mem_insertAt he with rfl | he
        · simp; omega
        · exact hp.1 e he

theorem sortedKeys_modifyAt {l : List (Nat × α)} (i : Nat) (f : α → α) (h : sortedKeys l = true) : sortedKeys (modifyAt l i f) = true := by
  unfold modifyAt; split
  · exact sortedKeys_insertAt _ _ h
  · exact h

theorem lookup_modifyAt_self (l : List (Nat × α)) (i : Nat) (f : α → α) : lookup (modifyAt l i f) i = (lookup l i).map f := by
  unfold modifyAt; split <;> simp_all

theorem lookup_modifyAt_ne (l : List (Nat × α)) {i j : Nat} (f : α → α) (h : j ≠ i) : lookup (modifyAt l i f) j = lookup l j := by
  unfold modifyAt; split
  · exact lookup_insertAt_ne _ _ h
  · rfl

theorem eraseAt_sublist (l : List (Nat × α)) (i : Nat) : (eraseAt l i).Sublist l := by
  induction l with
  | nil => simp [eraseAt]
  | cons x l ih =>
    obtain ⟨k, w⟩ := x
    unfold eraseAt; split
    · exact List.sublist_cons_self _ _
    · exact ih.cons_cons _

theorem sortedKeys_eraseAt {l : List (Nat × α)} (i : Nat) (h : sortedKeys l = true) : sortedKeys (eraseAt l i) = true :=
  (sortedKeys_iff _).2 (((sortedKeys_iff _).1 h).sublist (eraseAt_sublist l i))

theorem lookup_eraseAt_self {l : List (Nat × α)} (i : Nat) (h : sortedKeys l = true) : lookup (eraseAt l i) i = none := by
  rw [sortedKeys_iff] at h
  induction l with
  | nil => simp [eraseAt, lookup]
  | cons x l ih =>
    obtain ⟨k, w⟩ := x
    have hp := List.pairwise_cons.1 h
    unfold eraseAt; split
    · rename_i e; subst e
      exact lookup_eq_none.2 (fun e he => by have := hp.1 e he; simp at this; omega)
    · rename_i e
      simp [lookup, Ne.symm e, ih hp.2]

theorem lookup_eraseAt_ne (l : List (Nat × α)) {i j : Nat} (h : j ≠ i) : lookup (eraseAt l i) j = lookup l j := by
  induction l with
  | nil => simp [eraseAt]
  | cons x l ih =>
    obtain ⟨k, w⟩ := x
    unfold eraseAt; split
    · rename_i e; subst e; simp [lookup, Ne.symm h]
    · by_cases e : k = j <;> simp [lookup, e, ih]

/-! ## Bytes -/

@[simp] theorem leBytes_length (k v : Nat) : (leBytes k v).length = k := by
  induction k generalizing v with
  | zero => rfl
  | succ k ih => simp [leBytes, ih]

theorem leNat_leBytes (k v : Nat) : leNat (leBytes k v) = v % 256 ^ k := by
  induction k generalizing v with
  | zero => simp [leBytes, leNat, Nat.mod_one]
  | succ k ih =>
    have h : v % 256 ^ (k + 1) = v % 256 + 256 * (v / 256 % 256 ^ k) := by rw [pow_succ, Nat.mul_comm (256 ^ k) 256, Nat.mod_mul]
    simp only [leBytes, leNat, ih, BitVec.toNat_ofNat, h]

theorem leBytes_leNat (bs : List Byte) : leBytes bs.length (leNat bs) = bs := by
  induction bs with
  | nil => rfl
  | cons b bs ih =>
    have hb := b.isLt
    simp only [List.length_cons, leBytes, leNat]
    congr 1
    · apply BitVec.eq_of_toNat_eq; simp; omega
    · rw [show (b.toNat + 256 * leNat bs) / 256 = leNat bs by omega, ih]

theorem leNat_lt (bs : List Byte) : leNat bs < 256 ^ bs.length := by
  induction bs with
  | nil => simp [leNat]
  | cons b bs ih =>
    have hb := b.isLt
    simp only [leNat, List.length_cons, pow_succ]
    omega

end Sys2Proof.Machine
end

