-- ==== Sys2Proof/Laws/Mem.lean ====
section
/-! SUPPORT. Every operation on a RAM or a byte space keeps its canonical form. -/

namespace Sys2Proof.Machine

/-! ## The canonical form, as a proposition -/

theorem mapM_isSome {α β : Type} (f : α → Option β) (l : List α) : (l.mapM f).isSome = true ↔ ∀ x ∈ l, (f x).isSome = true := by
  induction l with
  | nil => simp
  | cons x l ih =>
    rw [List.mapM_cons]
    cases h : f x with
    | none => simp [h]
    | some y =>
      cases h2 : l.mapM f with
      | none => simp only [h2] at ih; simp [h, ← ih]
      | some z => simp only [h2] at ih; simp [h]; exact ih.1 rfl

theorem blockBytes_isSome (m : Ram) (b : Nat) : (m.blockBytes b).isSome = true ↔ ∀ i < 32, (lookup m.cells (32 * b + i)).isSome = true := by
  unfold Ram.blockBytes; rw [mapM_isSome]; simp

/-- A canonical RAM: rising bytes, whole blocks, rising non-zero masks of bad bits. -/
theorem Ram.wf_iff (m : Ram) : m.wf = true ↔ sortedKeys m.cells = true
    ∧ (∀ e ∈ m.cells, ∀ i < 32, (lookup m.cells (32 * (e.1 / 32) + i)).isSome = true)
    ∧ sortedKeys m.bad = true ∧ ∀ e ∈ m.bad, e.2 ≠ 0 := by
  unfold Ram.wf
  simp only [Bool.and_eq_true, List.all_eq_true, blockBytes_isSome]
  constructor
  · rintro ⟨⟨⟨a, b⟩, c⟩, d⟩; exact ⟨a, b, c, fun e he => by simpa using d e he⟩
  · rintro ⟨a, b, c, d⟩; exact ⟨⟨⟨a, b⟩, c⟩, fun e he => by simpa using d e he⟩

@[simp] theorem Ram.empty_wf : Ram.empty.wf = true := by rfl

/-! ## Blocks picked by number -/

/-- Cells filtered by block and masks filtered keep the form. -/
theorem Ram.wf_pick {m : Ram} (h : m.wf = true) (p : Nat → Bool) (q : Nat × BitVec 288 → Bool) :
    Ram.wf { cells := m.cells.filter (fun e => p (e.1 / 32)), bad := m.bad.filter q } = true := by
  rw [Ram.wf_iff] at *
  obtain ⟨a, b, c, d⟩ := h
  refine ⟨sortedKeys_filter _ a, ?_, sortedKeys_filter _ c, fun e he => d e (List.mem_of_mem_filter he)⟩
  intro e he i hi
  have hm := List.mem_filter.1 he
  rw [lookup_filter_key m.cells (fun k => p (k / 32))]
  have : (32 * (e.1 / 32) + i) / 32 = e.1 / 32 := by omega
  simp only [this, hm.2, if_true]
  exact b e hm.1 i hi

theorem Ram.keep_wf {m : Ram} (h : m.wf = true) (p : Nat → Bool) : (m.keep p).wf = true := by
  have := Ram.wf_pick h (fun b => p (b * 32)) (fun e => p (32 * e.1))
  simpa [Ram.keep] using this

theorem Ram.mark_wf {m : Ram} (h : m.wf = true) {addr len : Nat} (ha : 32 ∣ addr) (hl : 32 ∣ len) : (m.mark addr len).wf = true := by
  obtain ⟨x, rfl⟩ := ha
  obtain ⟨y, rfl⟩ := hl
  have := Ram.wf_pick h (fun b => decide (b < x) || decide (x + y ≤ b))
    (fun e => e.1 < 32 * x / 32 || (32 * x + 32 * y) / 32 ≤ e.1)
  unfold Ram.mark
  refine Eq.trans (congrArg (fun c => Ram.wf { cells := c, bad := _ }) ?_) this
  congr 1; funext e
  have e1 : (e.1 < 32 * x) ↔ (e.1 / 32 < x) := by omega
  have e2 : (32 * x + 32 * y ≤ e.1) ↔ (x + y ≤ e.1 / 32) := by omega
  simp [e1, e2]

/-! ## A block written -/

theorem zipped_mem {bytes : List Byte} {b : Nat} {e : Nat × Byte}
    (h : e ∈ ((List.range 32).zip bytes).map (fun e => (e.1 + 32 * b, e.2))) : 32 * b ≤ e.1 ∧ e.1 < 32 * b + 32 := by
  simp only [List.mem_map] at h
  obtain ⟨x, hx, rfl⟩ := h
  have := (List.of_mem_zip hx).1
  simp at this
  simp; omega

theorem sortedKeys_zipped (n b : Nat) (bytes : List Byte) :
    sortedKeys (((List.range n).zip bytes).map (fun e => (e.1 + b, e.2))) = true := by
  rw [sortedKeys_iff, List.pairwise_map]
  have h : ((List.range n).zip bytes).Pairwise (fun a b => a.1 < b.1) := by
    rw [← List.pairwise_map (f := Prod.fst) (R := fun a b => a < b), List.zip_eq_zipWith, List.map_zipWith]
    rw [List.pairwise_iff_getElem]
    intro i j hi hj hij
    simpa using hij
  exact h.imp (fun h => by simpa using h)

theorem lookup_zipped (bytes : List Byte) (b i : Nat) (hi : i < 32) (hb : bytes.length = 32) :
    lookup (((List.range 32).zip bytes).map (fun e => (e.1 + 32 * b, e.2))) (32 * b + i) = some (bytes.getD i 0) := by
  apply lookup_of_mem (sortedKeys_zipped _ _ _)
  rw [List.mem_map]
  refine ⟨(i, bytes.getD i 0), ?_, by simp [Nat.add_comm]⟩
  rw [List.mem_iff_getElem]
  refine ⟨i, by simp [hb, hi], ?_⟩
  simp [hb, hi]

/-- What a block written looks up: its own bytes, elsewhere what stood there. -/
theorem Ram.lookup_putBlock (m : Ram) (b : Nat) (bytes : List Byte) (hb : bytes.length = 32) (a : Nat) :
    lookup (m.putBlock b bytes).cells a = if a / 32 = b then some (bytes.getD (a % 32) 0) else lookup m.cells a := by
  unfold Ram.putBlock
  simp only [lookup_append]
  rw [lookup_filter_key m.cells (fun k => decide (k < 32 * b)), lookup_filter_key m.cells (fun k => decide (32 * b + 32 ≤ k))]
  by_cases h : a / 32 = b
  · have e : a = 32 * b + a % 32 := by omega
    have h1 : ¬ a < 32 * b := by omega
    rw [if_pos h]
    conv_lhs => rw [e]
    rw [lookup_zipped _ _ _ (by omega) hb]
    simp
  · rw [if_neg h]
    have hz : lookup (((List.range 32).zip bytes).map (fun e => (e.1 + 32 * b, e.2))) a = none := by
      rw [lookup_eq_none]; intro e he; have := zipped_mem he; omega
    rw [hz]
    by_cases h1 : a < 32 * b
    · have h2 : ¬ 32 * b + 32 ≤ a := by omega
      simp [h1, h2]
    · have h2 : 32 * b + 32 ≤ a := by omega
      simp [h1, h2]

theorem Ram.putBlock_wf {m : Ram} (h : m.wf = true) (b : Nat) {bytes : List Byte} (hb : bytes.length = 32) :
    (m.putBlock b bytes).wf = true := by
  have hm := (Ram.wf_iff m).1 h
  rw [Ram.wf_iff]
  obtain ⟨a, w, c, d⟩ := hm
  refine ⟨?_, ?_, sortedKeys_filter _ c, fun e he => d e (List.mem_filter.1 he).1⟩
  · unfold Ram.putBlock
    refine sortedKeys_append (sortedKeys_append (sortedKeys_filter _ a) (sortedKeys_zipped _ _ _) ?_) (sortedKeys_filter _ a) ?_
    · intro x hx y hy
      have := (List.mem_filter.1 hx).2
      have := zipped_mem hy
      simp at *; omega
    · intro x hx y hy
      have h2 := (List.mem_filter.1 hy).2
      rcases List.mem_append.1 hx with hx | hx
      · have := (List.mem_filter.1 hx).2; simp at *; omega
      · have := zipped_mem hx; simp at *; omega
  · intro e he i hi
    rw [Ram.lookup_putBlock _ _ _ hb]
    have hd : (32 * (e.1 / 32) + i) / 32 = e.1 / 32 := by omega
    by_cases hk : e.1 / 32 = b
    · rw [if_pos (hd.trans hk)]; rfl
    · rw [hd, if_neg hk]
      have he' : e ∈ m.cells := by
        unfold Ram.putBlock at he
        simp only [List.mem_append] at he
        rcases he with (he | he) | he
        · exact (List.mem_filter.1 he).1
        · have := zipped_mem he; omega
        · exact (List.mem_filter.1 he).1
      exact w e he' i hi

@[simp] theorem overlay_length (b : Nat) (old : List Byte) (addr : Nat) (bytes : List Byte) : (overlay b old addr bytes).length = 32 := by
  simp [overlay]

theorem Ram.wf_erase {m : Ram} (h : m.wf = true) (b : Nat) : ({ m with bad := m.bad.filter (fun e => e.1 != b) } : Ram).wf = true := by
  obtain ⟨a, c, d, e⟩ := (Ram.wf_iff m).1 h
  exact (Ram.wf_iff _).2 ⟨a, c, sortedKeys_filter _ d, fun x hx => e x (List.mem_filter.1 hx).1⟩

theorem Ram.mend_wf {m : Ram} (h : m.wf = true) (b : Nat) : (m.mend b).wf = true := by
  unfold Ram.mend; split
  · exact Ram.putBlock_wf h _ (by simp)
  · exact h

/-! ## Ranges written -/

theorem foldl_keep {β : Type} {P : Ram → Prop} (f : Ram → β → Ram) (hf : ∀ r b, P r → P (f r b)) (l : List β) :
    ∀ r, P r → P (l.foldl f r) := by
  induction l with
  | nil => exact fun r h => h
  | cons x l ih => exact fun r h => ih _ (hf r x h)

theorem foldlM_keep {β : Type} {P : Ram → Prop} (f : Ram → β → Option Ram) (hf : ∀ r b r', P r → f r b = some r' → P r') (l : List β) :
    ∀ r r', P r → l.foldlM f r = some r' → P r' := by
  induction l with
  | nil => intro r r' h e; simp at e; exact e ▸ h
  | cons x l ih =>
    intro r r' h e
    rw [List.foldlM_cons] at e
    cases hx : f r x with
    | none => simp [hx] at e
    | some y => simp [hx] at e; exact ih y r' (hf r x y h hx) e

theorem Ram.writeBlock_wf {m m' : Ram} (h : m.wf = true) {addr : Nat} {bytes : List Byte} {b : Nat}
    (e : m.writeBlock addr bytes b = some m') : m'.wf = true := by
  unfold Ram.writeBlock at e
  split at e
  · cases e; exact Ram.putBlock_wf h _ (by simp)
  · split at e
    · cases e; exact Ram.putBlock_wf h _ (by simp)
    · cases e

theorem Ram.write_wf {m m' : Ram} (h : m.wf = true) {addr : Nat} {bytes : List Byte} (e : m.write addr bytes = some m') : m'.wf = true :=
  foldlM_keep (P := fun r => r.wf = true) _ (fun _ _ _ hr he => Ram.writeBlock_wf hr he) _ m m' h e

theorem Ram.force_wf {m : Ram} (h : m.wf = true) (fill : Nat → Byte) (addr : Nat) (bytes : List Byte) : (m.force fill addr bytes).wf = true :=
  foldl_keep (P := fun r => r.wf = true) _ (fun _ _ hr => Ram.putBlock_wf hr _ (by simp)) _ m h

theorem Ram.blockRead_length {m : Ram} {b : Nat} {bs : List Byte} (h : m.blockRead b = some bs) : bs.length = 32 := by
  unfold Ram.blockRead at h; split at h <;> simp at h <;> subst h <;> simp

theorem Ram.writePieces_wf {m m' : Ram} (h : m.wf = true) {ps : List (Nat × List Byte)} (e : m.writePieces ps = some m') : m'.wf = true := by
  refine foldlM_keep (P := fun r => r.wf = true) _ (fun r b r' hr he => ?_) _ m m' h e
  dsimp only at he
  split at he
  · cases he; exact Ram.putBlock_wf hr _ (by simp)
  · split at he
    · rename_i old ho
      cases he; exact Ram.putBlock_wf hr _ (by simp [Ram.blockRead_length ho])
    · cases he

theorem Ram.forcePieces_wf {m : Ram} (h : m.wf = true) (fill : Nat → Byte) (ps : List (Nat × List Byte)) : (m.forcePieces fill ps).wf = true :=
  foldl_keep (P := fun r => r.wf = true) _ (fun _ _ hr => Ram.putBlock_wf hr _ (by simp)) _ m h

theorem Ram.restoreCells_wf {m : Ram} (h : m.wf = true) (cells : List Host.Cell) : (m.restoreCells cells).wf = true :=
  foldl_keep (P := fun r => r.wf = true) _ (fun _ _ hr => by
    split
    · exact Ram.putBlock_wf hr _ (by simp)
    · exact hr) _ m h

/-! ## Byte spaces -/

theorem spaceWf_iff (c : List Host.Cell) : spaceWf c = true ↔ sortedKeys c = true ∧ ∀ e ∈ c, e.2 ≠ 0 := by
  unfold spaceWf
  simp only [Bool.and_eq_true, List.all_eq_true]
  constructor
  · rintro ⟨a, b⟩; exact ⟨a, fun e he => by simpa using b e he⟩
  · rintro ⟨a, b⟩; exact ⟨a, fun e he => by simpa using b e he⟩

theorem spaceWf_filter {c : List Host.Cell} (h : spaceWf c = true) (p : Host.Cell → Bool) : spaceWf (c.filter p) = true := by
  rw [spaceWf_iff] at *
  exact ⟨sortedKeys_filter p h.1, fun e he => h.2 e (List.mem_of_mem_filter he)⟩

theorem shifted_mem {n b : Nat} {bytes : List Byte} {e : Nat × Byte}
    (h : e ∈ ((List.range n).zip bytes).map (fun e => (e.1 + b, e.2))) : b ≤ e.1 ∧ e.1 < b + n := by
  simp only [List.mem_map] at h
  obtain ⟨x, hx, rfl⟩ := h
  have := (List.of_mem_zip hx).1
  simp at this
  simp; omega

theorem spaceWrite_wf {c : List Host.Cell} (h : spaceWf c = true) (addr : Nat) (bytes : List Byte) : spaceWf (spaceWrite c addr bytes) = true := by
  rw [spaceWf_iff] at *
  unfold spaceWrite
  refine ⟨sortedKeys_append (sortedKeys_append (sortedKeys_filter _ h.1) (sortedKeys_filter _ (sortedKeys_zipped _ _ _)) ?_)
    (sortedKeys_filter _ h.1) ?_, ?_⟩
  · intro x hx y hy
    have := (List.mem_filter.1 hx).2
    have := shifted_mem (List.mem_filter.1 hy).1
    simp at *; omega
  · intro x hx y hy
    have h2 := (List.mem_filter.1 hy).2
    rcases List.mem_append.1 hx with hx | hx
    · have := (List.mem_filter.1 hx).2; simp at *; omega
    · have := shifted_mem (List.mem_filter.1 hx).1; simp at *; omega
  · intro e he
    simp only [List.mem_append] at he
    rcases he with (he | he) | he
    · exact h.2 e (List.mem_filter.1 he).1
    · simpa using (List.mem_filter.1 he).2
    · exact h.2 e (List.mem_filter.1 he).1

/-- A byte of a space after a write: the byte written, or what stood there. -/
theorem spaceByte_spaceWrite {c : List Host.Cell} (addr : Nat) (bytes : List Byte) (a : Nat) :
    spaceByte (spaceWrite c addr bytes) a = if addr ≤ a ∧ a < addr + bytes.length then bytes.getD (a - addr) 0 else spaceByte c a := by
  unfold spaceByte spaceWrite
  simp only [lookup_append]
  rw [lookup_filter_key c (fun k => decide (k < addr)), lookup_filter_key c (fun k => decide (addr + bytes.length ≤ k))]
  set mid := (((List.range bytes.length).zip bytes).map (fun e => (e.1 + addr, e.2))) with hmid
  by_cases h : addr ≤ a ∧ a < addr + bytes.length
  · have h1 : ¬ a < addr := by omega
    have h2 : ¬ addr + bytes.length ≤ a := by omega
    simp only [if_pos h, h1, h2, decide_false, Bool.false_eq_true, if_false]
    have hm : (a, bytes.getD (a - addr) 0) ∈ mid := by
      rw [hmid, List.mem_map]
      refine ⟨(a - addr, bytes.getD (a - addr) 0), ?_, by simp; omega⟩
      rw [List.mem_iff_getElem]
      refine ⟨a - addr, by simp; omega, ?_⟩
      have : a - addr < bytes.length := by omega
      simp [this]
    have hs := sortedKeys_zipped bytes.length addr bytes
    by_cases hz : bytes.getD (a - addr) 0 = 0
    · have : lookup (mid.filter (fun e => e.2 != 0)) a = none := by
        rw [lookup_eq_none]
        rintro ⟨k, v⟩ he rfl
        have hk := List.mem_filter.1 he
        have e2 := (lookup_of_mem hs hk.1).symm.trans (lookup_of_mem hs hm)
        rw [hz] at e2
        simp only [Option.some.injEq] at e2
        simp [e2] at hk
      rw [this, hz]; rfl
    · have : lookup (mid.filter (fun e => e.2 != 0)) a = some (bytes.getD (a - addr) 0) :=
        lookup_of_mem (sortedKeys_filter _ hs) (List.mem_filter.2 ⟨hm, by simpa using hz⟩)
      rw [this]; rfl
  · rw [if_neg h]
    have hz : lookup (mid.filter (fun e => e.2 != 0)) a = none := by
      rw [lookup_eq_none]; intro e he
      have := shifted_mem (List.mem_filter.1 he).1
      omega
    rw [hz]
    by_cases h1 : a < addr
    · have h2 : ¬ addr + bytes.length ≤ a := by omega
      simp [h1, h2]
    · have h2 : addr + bytes.length ≤ a := by omega
      simp [h1, h2]

/-! ## Flash -/

theorem Flash.foldl_cells {β : Type} (g : Flash → β → Flash) (hg : ∀ f b, (g f b).cells = f.cells) (l : List β) (f : Flash) :
    (l.foldl g f).cells = f.cells := by
  induction l generalizing f with
  | nil => rfl
  | cons b l ih => exact (ih (g f b)).trans (hg f b)

theorem Flash.program_cells (f : Flash) (k : Nat) : (f.program k).cells = f.cells := by
  unfold Flash.program
  dsimp only
  repeat' split
  all_goals rfl

theorem Flash.write_cells (f : Flash) (addr : Nat) (bytes : List Byte) : (f.write addr bytes).cells = spaceWrite f.cells addr bytes :=
  Flash.foldl_cells _ Flash.program_cells _ _

theorem Flash.write_wf {f : Flash} (h : spaceWf f.cells = true) (addr : Nat) (bytes : List Byte) : spaceWf (f.write addr bytes).cells = true :=
  (Flash.write_cells f addr bytes).symm ▸ spaceWrite_wf h addr bytes

theorem Flash.unmap_wf {f : Flash} (h : spaceWf f.cells = true) (lba n : Nat) : spaceWf (f.unmap lba n).cells = true :=
  spaceWf_filter h _

end Sys2Proof.Machine
end

