-- ==== Sys2Proof/Laws/State.lean ====
section
/-! SUPPORT. What each update of one part of the state does to each field: the field it changes, and that it changes no other. -/

namespace Sys2Proof.Machine.State

/-! ## updCore -/

section
variable (s : State) (c : CoreId) (f : Core → Core)
@[simp] theorem updCore_cores : (s.updCore c f).cores = s.cores.set c (f s.cores[c]) := rfl
@[simp] theorem updCore_argMaps : (s.updCore c f).argMaps = s.argMaps := rfl
@[simp] theorem updCore_regions : (s.updCore c f).regions = s.regions := rfl
@[simp] theorem updCore_coreStore : (s.updCore c f).coreStore = s.coreStore := rfl
@[simp] theorem updCore_accMem : (s.updCore c f).accMem = s.accMem := rfl
@[simp] theorem updCore_regionMem : (s.updCore c f).regionMem = s.regionMem := rfl
@[simp] theorem updCore_stacked : (s.updCore c f).stacked = s.stacked := rfl
@[simp] theorem updCore_hostMem : (s.updCore c f).hostMem = s.hostMem := rfl
@[simp] theorem updCore_ctxs : (s.updCore c f).ctxs = s.ctxs := rfl
@[simp] theorem updCore_queues : (s.updCore c f).queues = s.queues := rfl
@[simp] theorem updCore_queueGens : (s.updCore c f).queueGens = s.queueGens := rfl
@[simp] theorem updCore_cmds : (s.updCore c f).cmds = s.cmds := rfl
@[simp] theorem updCore_copyA : (s.updCore c f).copyA = s.copyA := rfl
@[simp] theorem updCore_copyB : (s.updCore c f).copyB = s.copyB := rfl
@[simp] theorem updCore_seqs : (s.updCore c f).seqs = s.seqs := rfl
@[simp] theorem updCore_coils : (s.updCore c f).coils = s.coils := rfl
@[simp] theorem updCore_mbox : (s.updCore c f).mbox = s.mbox := rfl
@[simp] theorem updCore_ageMs : (s.updCore c f).ageMs = s.ageMs := rfl
@[simp] theorem updCore_preemptWait : (s.updCore c f).preemptWait = s.preemptWait := rfl
@[simp] theorem updCore_epochs : (s.updCore c f).epochs = s.epochs := rfl
@[simp] theorem updCore_fabric : (s.updCore c f).fabric = s.fabric := rfl
@[simp] theorem updCore_acctWait : (s.updCore c f).acctWait = s.acctWait := rfl
@[simp] theorem updCore_acctPreempt : (s.updCore c f).acctPreempt = s.acctPreempt := rfl
@[simp] theorem updCore_acctKernels : (s.updCore c f).acctKernels = s.acctKernels := rfl
@[simp] theorem updCore_acctEnergy : (s.updCore c f).acctEnergy = s.acctEnergy := rfl
@[simp] theorem updCore_cntDbIgnored : (s.updCore c f).cntDbIgnored = s.cntDbIgnored := rfl
@[simp] theorem updCore_cntFetchFail : (s.updCore c f).cntFetchFail = s.cntFetchFail := rfl
@[simp] theorem updCore_log : (s.updCore c f).log = s.log := rfl
@[simp] theorem updCore_nextReq : (s.updCore c f).nextReq = s.nextReq := rfl
@[simp] theorem updCore_acceptCtr : (s.updCore c f).acceptCtr = s.acceptCtr := rfl
@[simp] theorem updCore_acceptTurn : (s.updCore c f).acceptTurn = s.acceptTurn := rfl
@[simp] theorem updCore_badCheckers : (s.updCore c f).badCheckers = s.badCheckers := rfl
@[simp] theorem updCore_tblQueue : (s.updCore c f).tblQueue = s.tblQueue := rfl
@[simp] theorem updCore_tblSeq : (s.updCore c f).tblSeq = s.tblSeq := rfl
@[simp] theorem updCore_tblCoil : (s.updCore c f).tblCoil = s.tblCoil := rfl
@[simp] theorem updCore_tblPark : (s.updCore c f).tblPark = s.tblPark := rfl
@[simp] theorem updCore_timeNs : (s.updCore c f).timeNs = s.timeNs := rfl
@[simp] theorem updCore_hif : (s.updCore c f).hif = s.hif := rfl
@[simp] theorem updCore_darit : (s.updCore c f).darit = s.darit := rfl
@[simp] theorem updCore_slots : (s.updCore c f).slots = s.slots := rfl
@[simp] theorem updCore_edgeFenced : (s.updCore c f).edgeFenced = s.edgeFenced := rfl
@[simp] theorem updCore_segFenced : (s.updCore c f).segFenced = s.segFenced := rfl
@[simp] theorem updCore_smp : (s.updCore c f).smp = s.smp := rfl
@[simp] theorem updCore_lanesFenced : (s.updCore c f).lanesFenced = s.lanesFenced := rfl
@[simp] theorem updCore_smpTurn : (s.updCore c f).smpTurn = s.smpTurn := rfl
@[simp] theorem updCore_fls : (s.updCore c f).fls = s.fls := rfl
@[simp] theorem updCore_tim : (s.updCore c f).tim = s.tim := rfl
@[simp] theorem updCore_pwr : (s.updCore c f).pwr = s.pwr := rfl
@[simp] theorem updCore_svc : (s.updCore c f).svc = s.svc := rfl
@[simp] theorem updCore_reply : (s.updCore c f).reply = s.reply := rfl
@[simp] theorem updCore_freshCtr : (s.updCore c f).freshCtr = s.freshCtr := rfl
@[simp] theorem updCore_pending : (s.updCore c f).pending = s.pending := rfl
end

/-! ## updRegion -/

section
variable (s : State) (g : RegionId) (f : Region → Region)
@[simp] theorem updRegion_cores : (s.updRegion g f).cores = s.cores := rfl
@[simp] theorem updRegion_argMaps : (s.updRegion g f).argMaps = s.argMaps := rfl
@[simp] theorem updRegion_regions : (s.updRegion g f).regions = s.regions.set g (f s.regions[g]) := rfl
@[simp] theorem updRegion_coreStore : (s.updRegion g f).coreStore = s.coreStore := rfl
@[simp] theorem updRegion_accMem : (s.updRegion g f).accMem = s.accMem := rfl
@[simp] theorem updRegion_regionMem : (s.updRegion g f).regionMem = s.regionMem := rfl
@[simp] theorem updRegion_stacked : (s.updRegion g f).stacked = s.stacked := rfl
@[simp] theorem updRegion_hostMem : (s.updRegion g f).hostMem = s.hostMem := rfl
@[simp] theorem updRegion_ctxs : (s.updRegion g f).ctxs = s.ctxs := rfl
@[simp] theorem updRegion_queues : (s.updRegion g f).queues = s.queues := rfl
@[simp] theorem updRegion_queueGens : (s.updRegion g f).queueGens = s.queueGens := rfl
@[simp] theorem updRegion_cmds : (s.updRegion g f).cmds = s.cmds := rfl
@[simp] theorem updRegion_copyA : (s.updRegion g f).copyA = s.copyA := rfl
@[simp] theorem updRegion_copyB : (s.updRegion g f).copyB = s.copyB := rfl
@[simp] theorem updRegion_seqs : (s.updRegion g f).seqs = s.seqs := rfl
@[simp] theorem updRegion_coils : (s.updRegion g f).coils = s.coils := rfl
@[simp] theorem updRegion_mbox : (s.updRegion g f).mbox = s.mbox := rfl
@[simp] theorem updRegion_ageMs : (s.updRegion g f).ageMs = s.ageMs := rfl
@[simp] theorem updRegion_preemptWait : (s.updRegion g f).preemptWait = s.preemptWait := rfl
@[simp] theorem updRegion_epochs : (s.updRegion g f).epochs = s.epochs := rfl
@[simp] theorem updRegion_fabric : (s.updRegion g f).fabric = s.fabric := rfl
@[simp] theorem updRegion_acctWait : (s.updRegion g f).acctWait = s.acctWait := rfl
@[simp] theorem updRegion_acctPreempt : (s.updRegion g f).acctPreempt = s.acctPreempt := rfl
@[simp] theorem updRegion_acctKernels : (s.updRegion g f).acctKernels = s.acctKernels := rfl
@[simp] theorem updRegion_acctEnergy : (s.updRegion g f).acctEnergy = s.acctEnergy := rfl
@[simp] theorem updRegion_cntDbIgnored : (s.updRegion g f).cntDbIgnored = s.cntDbIgnored := rfl
@[simp] theorem updRegion_cntFetchFail : (s.updRegion g f).cntFetchFail = s.cntFetchFail := rfl
@[simp] theorem updRegion_log : (s.updRegion g f).log = s.log := rfl
@[simp] theorem updRegion_nextReq : (s.updRegion g f).nextReq = s.nextReq := rfl
@[simp] theorem updRegion_acceptCtr : (s.updRegion g f).acceptCtr = s.acceptCtr := rfl
@[simp] theorem updRegion_acceptTurn : (s.updRegion g f).acceptTurn = s.acceptTurn := rfl
@[simp] theorem updRegion_badCheckers : (s.updRegion g f).badCheckers = s.badCheckers := rfl
@[simp] theorem updRegion_tblQueue : (s.updRegion g f).tblQueue = s.tblQueue := rfl
@[simp] theorem updRegion_tblSeq : (s.updRegion g f).tblSeq = s.tblSeq := rfl
@[simp] theorem updRegion_tblCoil : (s.updRegion g f).tblCoil = s.tblCoil := rfl
@[simp] theorem updRegion_tblPark : (s.updRegion g f).tblPark = s.tblPark := rfl
@[simp] theorem updRegion_timeNs : (s.updRegion g f).timeNs = s.timeNs := rfl
@[simp] theorem updRegion_hif : (s.updRegion g f).hif = s.hif := rfl
@[simp] theorem updRegion_darit : (s.updRegion g f).darit = s.darit := rfl
@[simp] theorem updRegion_slots : (s.updRegion g f).slots = s.slots := rfl
@[simp] theorem updRegion_edgeFenced : (s.updRegion g f).edgeFenced = s.edgeFenced := rfl
@[simp] theorem updRegion_segFenced : (s.updRegion g f).segFenced = s.segFenced := rfl
@[simp] theorem updRegion_smp : (s.updRegion g f).smp = s.smp := rfl
@[simp] theorem updRegion_lanesFenced : (s.updRegion g f).lanesFenced = s.lanesFenced := rfl
@[simp] theorem updRegion_smpTurn : (s.updRegion g f).smpTurn = s.smpTurn := rfl
@[simp] theorem updRegion_fls : (s.updRegion g f).fls = s.fls := rfl
@[simp] theorem updRegion_tim : (s.updRegion g f).tim = s.tim := rfl
@[simp] theorem updRegion_pwr : (s.updRegion g f).pwr = s.pwr := rfl
@[simp] theorem updRegion_svc : (s.updRegion g f).svc = s.svc := rfl
@[simp] theorem updRegion_reply : (s.updRegion g f).reply = s.reply := rfl
@[simp] theorem updRegion_freshCtr : (s.updRegion g f).freshCtr = s.freshCtr := rfl
@[simp] theorem updRegion_pending : (s.updRegion g f).pending = s.pending := rfl
end

/-! ## updSlot -/

section
variable (s : State) (c : CoreId) (k : KsId) (f : KSlot → KSlot)
@[simp] theorem updSlot_argMaps : (s.updSlot c k f).argMaps = s.argMaps := rfl
@[simp] theorem updSlot_regions : (s.updSlot c k f).regions = s.regions := rfl
@[simp] theorem updSlot_coreStore : (s.updSlot c k f).coreStore = s.coreStore := rfl
@[simp] theorem updSlot_accMem : (s.updSlot c k f).accMem = s.accMem := rfl
@[simp] theorem updSlot_regionMem : (s.updSlot c k f).regionMem = s.regionMem := rfl
@[simp] theorem updSlot_stacked : (s.updSlot c k f).stacked = s.stacked := rfl
@[simp] theorem updSlot_hostMem : (s.updSlot c k f).hostMem = s.hostMem := rfl
@[simp] theorem updSlot_ctxs : (s.updSlot c k f).ctxs = s.ctxs := rfl
@[simp] theorem updSlot_queues : (s.updSlot c k f).queues = s.queues := rfl
@[simp] theorem updSlot_queueGens : (s.updSlot c k f).queueGens = s.queueGens := rfl
@[simp] theorem updSlot_cmds : (s.updSlot c k f).cmds = s.cmds := rfl
@[simp] theorem updSlot_copyA : (s.updSlot c k f).copyA = s.copyA := rfl
@[simp] theorem updSlot_copyB : (s.updSlot c k f).copyB = s.copyB := rfl
@[simp] theorem updSlot_seqs : (s.updSlot c k f).seqs = s.seqs := rfl
@[simp] theorem updSlot_coils : (s.updSlot c k f).coils = s.coils := rfl
@[simp] theorem updSlot_mbox : (s.updSlot c k f).mbox = s.mbox := rfl
@[simp] theorem updSlot_ageMs : (s.updSlot c k f).ageMs = s.ageMs := rfl
@[simp] theorem updSlot_preemptWait : (s.updSlot c k f).preemptWait = s.preemptWait := rfl
@[simp] theorem updSlot_epochs : (s.updSlot c k f).epochs = s.epochs := rfl
@[simp] theorem updSlot_fabric : (s.updSlot c k f).fabric = s.fabric := rfl
@[simp] theorem updSlot_acctWait : (s.updSlot c k f).acctWait = s.acctWait := rfl
@[simp] theorem updSlot_acctPreempt : (s.updSlot c k f).acctPreempt = s.acctPreempt := rfl
@[simp] theorem updSlot_acctKernels : (s.updSlot c k f).acctKernels = s.acctKernels := rfl
@[simp] theorem updSlot_acctEnergy : (s.updSlot c k f).acctEnergy = s.acctEnergy := rfl
@[simp] theorem updSlot_cntDbIgnored : (s.updSlot c k f).cntDbIgnored = s.cntDbIgnored := rfl
@[simp] theorem updSlot_cntFetchFail : (s.updSlot c k f).cntFetchFail = s.cntFetchFail := rfl
@[simp] theorem updSlot_log : (s.updSlot c k f).log = s.log := rfl
@[simp] theorem updSlot_nextReq : (s.updSlot c k f).nextReq = s.nextReq := rfl
@[simp] theorem updSlot_acceptCtr : (s.updSlot c k f).acceptCtr = s.acceptCtr := rfl
@[simp] theorem updSlot_acceptTurn : (s.updSlot c k f).acceptTurn = s.acceptTurn := rfl
@[simp] theorem updSlot_badCheckers : (s.updSlot c k f).badCheckers = s.badCheckers := rfl
@[simp] theorem updSlot_tblQueue : (s.updSlot c k f).tblQueue = s.tblQueue := rfl
@[simp] theorem updSlot_tblSeq : (s.updSlot c k f).tblSeq = s.tblSeq := rfl
@[simp] theorem updSlot_tblCoil : (s.updSlot c k f).tblCoil = s.tblCoil := rfl
@[simp] theorem updSlot_tblPark : (s.updSlot c k f).tblPark = s.tblPark := rfl
@[simp] theorem updSlot_timeNs : (s.updSlot c k f).timeNs = s.timeNs := rfl
@[simp] theorem updSlot_hif : (s.updSlot c k f).hif = s.hif := rfl
@[simp] theorem updSlot_darit : (s.updSlot c k f).darit = s.darit := rfl
@[simp] theorem updSlot_slots : (s.updSlot c k f).slots = s.slots := rfl
@[simp] theorem updSlot_edgeFenced : (s.updSlot c k f).edgeFenced = s.edgeFenced := rfl
@[simp] theorem updSlot_segFenced : (s.updSlot c k f).segFenced = s.segFenced := rfl
@[simp] theorem updSlot_smp : (s.updSlot c k f).smp = s.smp := rfl
@[simp] theorem updSlot_lanesFenced : (s.updSlot c k f).lanesFenced = s.lanesFenced := rfl
@[simp] theorem updSlot_smpTurn : (s.updSlot c k f).smpTurn = s.smpTurn := rfl
@[simp] theorem updSlot_fls : (s.updSlot c k f).fls = s.fls := rfl
@[simp] theorem updSlot_tim : (s.updSlot c k f).tim = s.tim := rfl
@[simp] theorem updSlot_pwr : (s.updSlot c k f).pwr = s.pwr := rfl
@[simp] theorem updSlot_svc : (s.updSlot c k f).svc = s.svc := rfl
@[simp] theorem updSlot_reply : (s.updSlot c k f).reply = s.reply := rfl
@[simp] theorem updSlot_freshCtr : (s.updSlot c k f).freshCtr = s.freshCtr := rfl
@[simp] theorem updSlot_pending : (s.updSlot c k f).pending = s.pending := rfl
end

/-! ## updCnt -/

section
variable (s : State) (g : RegionId) (f : RegionCnt → RegionCnt)
@[simp] theorem updCnt_cores : (s.updCnt g f).cores = s.cores := rfl
@[simp] theorem updCnt_argMaps : (s.updCnt g f).argMaps = s.argMaps := rfl
@[simp] theorem updCnt_coreStore : (s.updCnt g f).coreStore = s.coreStore := rfl
@[simp] theorem updCnt_accMem : (s.updCnt g f).accMem = s.accMem := rfl
@[simp] theorem updCnt_regionMem : (s.updCnt g f).regionMem = s.regionMem := rfl
@[simp] theorem updCnt_stacked : (s.updCnt g f).stacked = s.stacked := rfl
@[simp] theorem updCnt_hostMem : (s.updCnt g f).hostMem = s.hostMem := rfl
@[simp] theorem updCnt_ctxs : (s.updCnt g f).ctxs = s.ctxs := rfl
@[simp] theorem updCnt_queues : (s.updCnt g f).queues = s.queues := rfl
@[simp] theorem updCnt_queueGens : (s.updCnt g f).queueGens = s.queueGens := rfl
@[simp] theorem updCnt_cmds : (s.updCnt g f).cmds = s.cmds := rfl
@[simp] theorem updCnt_copyA : (s.updCnt g f).copyA = s.copyA := rfl
@[simp] theorem updCnt_copyB : (s.updCnt g f).copyB = s.copyB := rfl
@[simp] theorem updCnt_seqs : (s.updCnt g f).seqs = s.seqs := rfl
@[simp] theorem updCnt_coils : (s.updCnt g f).coils = s.coils := rfl
@[simp] theorem updCnt_mbox : (s.updCnt g f).mbox = s.mbox := rfl
@[simp] theorem updCnt_ageMs : (s.updCnt g f).ageMs = s.ageMs := rfl
@[simp] theorem updCnt_preemptWait : (s.updCnt g f).preemptWait = s.preemptWait := rfl
@[simp] theorem updCnt_epochs : (s.updCnt g f).epochs = s.epochs := rfl
@[simp] theorem updCnt_fabric : (s.updCnt g f).fabric = s.fabric := rfl
@[simp] theorem updCnt_acctWait : (s.updCnt g f).acctWait = s.acctWait := rfl
@[simp] theorem updCnt_acctPreempt : (s.updCnt g f).acctPreempt = s.acctPreempt := rfl
@[simp] theorem updCnt_acctKernels : (s.updCnt g f).acctKernels = s.acctKernels := rfl
@[simp] theorem updCnt_acctEnergy : (s.updCnt g f).acctEnergy = s.acctEnergy := rfl
@[simp] theorem updCnt_cntDbIgnored : (s.updCnt g f).cntDbIgnored = s.cntDbIgnored := rfl
@[simp] theorem updCnt_cntFetchFail : (s.updCnt g f).cntFetchFail = s.cntFetchFail := rfl
@[simp] theorem updCnt_log : (s.updCnt g f).log = s.log := rfl
@[simp] theorem updCnt_nextReq : (s.updCnt g f).nextReq = s.nextReq := rfl
@[simp] theorem updCnt_acceptCtr : (s.updCnt g f).acceptCtr = s.acceptCtr := rfl
@[simp] theorem updCnt_acceptTurn : (s.updCnt g f).acceptTurn = s.acceptTurn := rfl
@[simp] theorem updCnt_badCheckers : (s.updCnt g f).badCheckers = s.badCheckers := rfl
@[simp] theorem updCnt_tblQueue : (s.updCnt g f).tblQueue = s.tblQueue := rfl
@[simp] theorem updCnt_tblSeq : (s.updCnt g f).tblSeq = s.tblSeq := rfl
@[simp] theorem updCnt_tblCoil : (s.updCnt g f).tblCoil = s.tblCoil := rfl
@[simp] theorem updCnt_tblPark : (s.updCnt g f).tblPark = s.tblPark := rfl
@[simp] theorem updCnt_timeNs : (s.updCnt g f).timeNs = s.timeNs := rfl
@[simp] theorem updCnt_hif : (s.updCnt g f).hif = s.hif := rfl
@[simp] theorem updCnt_darit : (s.updCnt g f).darit = s.darit := rfl
@[simp] theorem updCnt_slots : (s.updCnt g f).slots = s.slots := rfl
@[simp] theorem updCnt_edgeFenced : (s.updCnt g f).edgeFenced = s.edgeFenced := rfl
@[simp] theorem updCnt_segFenced : (s.updCnt g f).segFenced = s.segFenced := rfl
@[simp] theorem updCnt_smp : (s.updCnt g f).smp = s.smp := rfl
@[simp] theorem updCnt_lanesFenced : (s.updCnt g f).lanesFenced = s.lanesFenced := rfl
@[simp] theorem updCnt_smpTurn : (s.updCnt g f).smpTurn = s.smpTurn := rfl
@[simp] theorem updCnt_fls : (s.updCnt g f).fls = s.fls := rfl
@[simp] theorem updCnt_tim : (s.updCnt g f).tim = s.tim := rfl
@[simp] theorem updCnt_pwr : (s.updCnt g f).pwr = s.pwr := rfl
@[simp] theorem updCnt_svc : (s.updCnt g f).svc = s.svc := rfl
@[simp] theorem updCnt_reply : (s.updCnt g f).reply = s.reply := rfl
@[simp] theorem updCnt_freshCtr : (s.updCnt g f).freshCtr = s.freshCtr := rfl
@[simp] theorem updCnt_pending : (s.updCnt g f).pending = s.pending := rfl
end

/-! ## updSeq -/

section
variable (s : State) (i : Nat) (f : Seq → Seq)
@[simp] theorem updSeq_cores : (s.updSeq i f).cores = s.cores := rfl
@[simp] theorem updSeq_argMaps : (s.updSeq i f).argMaps = s.argMaps := rfl
@[simp] theorem updSeq_regions : (s.updSeq i f).regions = s.regions := rfl
@[simp] theorem updSeq_coreStore : (s.updSeq i f).coreStore = s.coreStore := rfl
@[simp] theorem updSeq_accMem : (s.updSeq i f).accMem = s.accMem := rfl
@[simp] theorem updSeq_regionMem : (s.updSeq i f).regionMem = s.regionMem := rfl
@[simp] theorem updSeq_stacked : (s.updSeq i f).stacked = s.stacked := rfl
@[simp] theorem updSeq_hostMem : (s.updSeq i f).hostMem = s.hostMem := rfl
@[simp] theorem updSeq_ctxs : (s.updSeq i f).ctxs = s.ctxs := rfl
@[simp] theorem updSeq_queues : (s.updSeq i f).queues = s.queues := rfl
@[simp] theorem updSeq_queueGens : (s.updSeq i f).queueGens = s.queueGens := rfl
@[simp] theorem updSeq_cmds : (s.updSeq i f).cmds = s.cmds := rfl
@[simp] theorem updSeq_copyA : (s.updSeq i f).copyA = s.copyA := rfl
@[simp] theorem updSeq_copyB : (s.updSeq i f).copyB = s.copyB := rfl
@[simp] theorem updSeq_seqs : (s.updSeq i f).seqs = modifyAt s.seqs i f := rfl
@[simp] theorem updSeq_coils : (s.updSeq i f).coils = s.coils := rfl
@[simp] theorem updSeq_mbox : (s.updSeq i f).mbox = s.mbox := rfl
@[simp] theorem updSeq_ageMs : (s.updSeq i f).ageMs = s.ageMs := rfl
@[simp] theorem updSeq_preemptWait : (s.updSeq i f).preemptWait = s.preemptWait := rfl
@[simp] theorem updSeq_epochs : (s.updSeq i f).epochs = s.epochs := rfl
@[simp] theorem updSeq_fabric : (s.updSeq i f).fabric = s.fabric := rfl
@[simp] theorem updSeq_acctWait : (s.updSeq i f).acctWait = s.acctWait := rfl
@[simp] theorem updSeq_acctPreempt : (s.updSeq i f).acctPreempt = s.acctPreempt := rfl
@[simp] theorem updSeq_acctKernels : (s.updSeq i f).acctKernels = s.acctKernels := rfl
@[simp] theorem updSeq_acctEnergy : (s.updSeq i f).acctEnergy = s.acctEnergy := rfl
@[simp] theorem updSeq_cntDbIgnored : (s.updSeq i f).cntDbIgnored = s.cntDbIgnored := rfl
@[simp] theorem updSeq_cntFetchFail : (s.updSeq i f).cntFetchFail = s.cntFetchFail := rfl
@[simp] theorem updSeq_log : (s.updSeq i f).log = s.log := rfl
@[simp] theorem updSeq_nextReq : (s.updSeq i f).nextReq = s.nextReq := rfl
@[simp] theorem updSeq_acceptCtr : (s.updSeq i f).acceptCtr = s.acceptCtr := rfl
@[simp] theorem updSeq_acceptTurn : (s.updSeq i f).acceptTurn = s.acceptTurn := rfl
@[simp] theorem updSeq_badCheckers : (s.updSeq i f).badCheckers = s.badCheckers := rfl
@[simp] theorem updSeq_tblQueue : (s.updSeq i f).tblQueue = s.tblQueue := rfl
@[simp] theorem updSeq_tblSeq : (s.updSeq i f).tblSeq = s.tblSeq := rfl
@[simp] theorem updSeq_tblCoil : (s.updSeq i f).tblCoil = s.tblCoil := rfl
@[simp] theorem updSeq_tblPark : (s.updSeq i f).tblPark = s.tblPark := rfl
@[simp] theorem updSeq_timeNs : (s.updSeq i f).timeNs = s.timeNs := rfl
@[simp] theorem updSeq_hif : (s.updSeq i f).hif = s.hif := rfl
@[simp] theorem updSeq_darit : (s.updSeq i f).darit = s.darit := rfl
@[simp] theorem updSeq_slots : (s.updSeq i f).slots = s.slots := rfl
@[simp] theorem updSeq_edgeFenced : (s.updSeq i f).edgeFenced = s.edgeFenced := rfl
@[simp] theorem updSeq_segFenced : (s.updSeq i f).segFenced = s.segFenced := rfl
@[simp] theorem updSeq_smp : (s.updSeq i f).smp = s.smp := rfl
@[simp] theorem updSeq_lanesFenced : (s.updSeq i f).lanesFenced = s.lanesFenced := rfl
@[simp] theorem updSeq_smpTurn : (s.updSeq i f).smpTurn = s.smpTurn := rfl
@[simp] theorem updSeq_fls : (s.updSeq i f).fls = s.fls := rfl
@[simp] theorem updSeq_tim : (s.updSeq i f).tim = s.tim := rfl
@[simp] theorem updSeq_pwr : (s.updSeq i f).pwr = s.pwr := rfl
@[simp] theorem updSeq_svc : (s.updSeq i f).svc = s.svc := rfl
@[simp] theorem updSeq_reply : (s.updSeq i f).reply = s.reply := rfl
@[simp] theorem updSeq_freshCtr : (s.updSeq i f).freshCtr = s.freshCtr := rfl
@[simp] theorem updSeq_pending : (s.updSeq i f).pending = s.pending := rfl
end

/-! ## updCoil -/

section
variable (s : State) (i : Nat) (f : Coil → Coil)
@[simp] theorem updCoil_cores : (s.updCoil i f).cores = s.cores := rfl
@[simp] theorem updCoil_argMaps : (s.updCoil i f).argMaps = s.argMaps := rfl
@[simp] theorem updCoil_regions : (s.updCoil i f).regions = s.regions := rfl
@[simp] theorem updCoil_coreStore : (s.updCoil i f).coreStore = s.coreStore := rfl
@[simp] theorem updCoil_accMem : (s.updCoil i f).accMem = s.accMem := rfl
@[simp] theorem updCoil_regionMem : (s.updCoil i f).regionMem = s.regionMem := rfl
@[simp] theorem updCoil_stacked : (s.updCoil i f).stacked = s.stacked := rfl
@[simp] theorem updCoil_hostMem : (s.updCoil i f).hostMem = s.hostMem := rfl
@[simp] theorem updCoil_ctxs : (s.updCoil i f).ctxs = s.ctxs := rfl
@[simp] theorem updCoil_queues : (s.updCoil i f).queues = s.queues := rfl
@[simp] theorem updCoil_queueGens : (s.updCoil i f).queueGens = s.queueGens := rfl
@[simp] theorem updCoil_cmds : (s.updCoil i f).cmds = s.cmds := rfl
@[simp] theorem updCoil_copyA : (s.updCoil i f).copyA = s.copyA := rfl
@[simp] theorem updCoil_copyB : (s.updCoil i f).copyB = s.copyB := rfl
@[simp] theorem updCoil_seqs : (s.updCoil i f).seqs = s.seqs := rfl
@[simp] theorem updCoil_coils : (s.updCoil i f).coils = modifyAt s.coils i f := rfl
@[simp] theorem updCoil_mbox : (s.updCoil i f).mbox = s.mbox := rfl
@[simp] theorem updCoil_ageMs : (s.updCoil i f).ageMs = s.ageMs := rfl
@[simp] theorem updCoil_preemptWait : (s.updCoil i f).preemptWait = s.preemptWait := rfl
@[simp] theorem updCoil_epochs : (s.updCoil i f).epochs = s.epochs := rfl
@[simp] theorem updCoil_fabric : (s.updCoil i f).fabric = s.fabric := rfl
@[simp] theorem updCoil_acctWait : (s.updCoil i f).acctWait = s.acctWait := rfl
@[simp] theorem updCoil_acctPreempt : (s.updCoil i f).acctPreempt = s.acctPreempt := rfl
@[simp] theorem updCoil_acctKernels : (s.updCoil i f).acctKernels = s.acctKernels := rfl
@[simp] theorem updCoil_acctEnergy : (s.updCoil i f).acctEnergy = s.acctEnergy := rfl
@[simp] theorem updCoil_cntDbIgnored : (s.updCoil i f).cntDbIgnored = s.cntDbIgnored := rfl
@[simp] theorem updCoil_cntFetchFail : (s.updCoil i f).cntFetchFail = s.cntFetchFail := rfl
@[simp] theorem updCoil_log : (s.updCoil i f).log = s.log := rfl
@[simp] theorem updCoil_nextReq : (s.updCoil i f).nextReq = s.nextReq := rfl
@[simp] theorem updCoil_acceptCtr : (s.updCoil i f).acceptCtr = s.acceptCtr := rfl
@[simp] theorem updCoil_acceptTurn : (s.updCoil i f).acceptTurn = s.acceptTurn := rfl
@[simp] theorem updCoil_badCheckers : (s.updCoil i f).badCheckers = s.badCheckers := rfl
@[simp] theorem updCoil_tblQueue : (s.updCoil i f).tblQueue = s.tblQueue := rfl
@[simp] theorem updCoil_tblSeq : (s.updCoil i f).tblSeq = s.tblSeq := rfl
@[simp] theorem updCoil_tblCoil : (s.updCoil i f).tblCoil = s.tblCoil := rfl
@[simp] theorem updCoil_tblPark : (s.updCoil i f).tblPark = s.tblPark := rfl
@[simp] theorem updCoil_timeNs : (s.updCoil i f).timeNs = s.timeNs := rfl
@[simp] theorem updCoil_hif : (s.updCoil i f).hif = s.hif := rfl
@[simp] theorem updCoil_darit : (s.updCoil i f).darit = s.darit := rfl
@[simp] theorem updCoil_slots : (s.updCoil i f).slots = s.slots := rfl
@[simp] theorem updCoil_edgeFenced : (s.updCoil i f).edgeFenced = s.edgeFenced := rfl
@[simp] theorem updCoil_segFenced : (s.updCoil i f).segFenced = s.segFenced := rfl
@[simp] theorem updCoil_smp : (s.updCoil i f).smp = s.smp := rfl
@[simp] theorem updCoil_lanesFenced : (s.updCoil i f).lanesFenced = s.lanesFenced := rfl
@[simp] theorem updCoil_smpTurn : (s.updCoil i f).smpTurn = s.smpTurn := rfl
@[simp] theorem updCoil_fls : (s.updCoil i f).fls = s.fls := rfl
@[simp] theorem updCoil_tim : (s.updCoil i f).tim = s.tim := rfl
@[simp] theorem updCoil_pwr : (s.updCoil i f).pwr = s.pwr := rfl
@[simp] theorem updCoil_svc : (s.updCoil i f).svc = s.svc := rfl
@[simp] theorem updCoil_reply : (s.updCoil i f).reply = s.reply := rfl
@[simp] theorem updCoil_freshCtr : (s.updCoil i f).freshCtr = s.freshCtr := rfl
@[simp] theorem updCoil_pending : (s.updCoil i f).pending = s.pending := rfl
end

/-! ## updQueue -/

section
variable (s : State) (q : Nat) (f : Queue → Queue)
@[simp] theorem updQueue_cores : (s.updQueue q f).cores = s.cores := rfl
@[simp] theorem updQueue_argMaps : (s.updQueue q f).argMaps = s.argMaps := rfl
@[simp] theorem updQueue_regions : (s.updQueue q f).regions = s.regions := rfl
@[simp] theorem updQueue_coreStore : (s.updQueue q f).coreStore = s.coreStore := rfl
@[simp] theorem updQueue_accMem : (s.updQueue q f).accMem = s.accMem := rfl
@[simp] theorem updQueue_regionMem : (s.updQueue q f).regionMem = s.regionMem := rfl
@[simp] theorem updQueue_stacked : (s.updQueue q f).stacked = s.stacked := rfl
@[simp] theorem updQueue_hostMem : (s.updQueue q f).hostMem = s.hostMem := rfl
@[simp] theorem updQueue_ctxs : (s.updQueue q f).ctxs = s.ctxs := rfl
@[simp] theorem updQueue_queues : (s.updQueue q f).queues = modifyAt s.queues q f := rfl
@[simp] theorem updQueue_queueGens : (s.updQueue q f).queueGens = s.queueGens := rfl
@[simp] theorem updQueue_cmds : (s.updQueue q f).cmds = s.cmds := rfl
@[simp] theorem updQueue_copyA : (s.updQueue q f).copyA = s.copyA := rfl
@[simp] theorem updQueue_copyB : (s.updQueue q f).copyB = s.copyB := rfl
@[simp] theorem updQueue_seqs : (s.updQueue q f).seqs = s.seqs := rfl
@[simp] theorem updQueue_coils : (s.updQueue q f).coils = s.coils := rfl
@[simp] theorem updQueue_mbox : (s.updQueue q f).mbox = s.mbox := rfl
@[simp] theorem updQueue_ageMs : (s.updQueue q f).ageMs = s.ageMs := rfl
@[simp] theorem updQueue_preemptWait : (s.updQueue q f).preemptWait = s.preemptWait := rfl
@[simp] theorem updQueue_epochs : (s.updQueue q f).epochs = s.epochs := rfl
@[simp] theorem updQueue_fabric : (s.updQueue q f).fabric = s.fabric := rfl
@[simp] theorem updQueue_acctWait : (s.updQueue q f).acctWait = s.acctWait := rfl
@[simp] theorem updQueue_acctPreempt : (s.updQueue q f).acctPreempt = s.acctPreempt := rfl
@[simp] theorem updQueue_acctKernels : (s.updQueue q f).acctKernels = s.acctKernels := rfl
@[simp] theorem updQueue_acctEnergy : (s.updQueue q f).acctEnergy = s.acctEnergy := rfl
@[simp] theorem updQueue_cntDbIgnored : (s.updQueue q f).cntDbIgnored = s.cntDbIgnored := rfl
@[simp] theorem updQueue_cntFetchFail : (s.updQueue q f).cntFetchFail = s.cntFetchFail := rfl
@[simp] theorem updQueue_log : (s.updQueue q f).log = s.log := rfl
@[simp] theorem updQueue_nextReq : (s.updQueue q f).nextReq = s.nextReq := rfl
@[simp] theorem updQueue_acceptCtr : (s.updQueue q f).acceptCtr = s.acceptCtr := rfl
@[simp] theorem updQueue_acceptTurn : (s.updQueue q f).acceptTurn = s.acceptTurn := rfl
@[simp] theorem updQueue_badCheckers : (s.updQueue q f).badCheckers = s.badCheckers := rfl
@[simp] theorem updQueue_tblQueue : (s.updQueue q f).tblQueue = s.tblQueue := rfl
@[simp] theorem updQueue_tblSeq : (s.updQueue q f).tblSeq = s.tblSeq := rfl
@[simp] theorem updQueue_tblCoil : (s.updQueue q f).tblCoil = s.tblCoil := rfl
@[simp] theorem updQueue_tblPark : (s.updQueue q f).tblPark = s.tblPark := rfl
@[simp] theorem updQueue_timeNs : (s.updQueue q f).timeNs = s.timeNs := rfl
@[simp] theorem updQueue_hif : (s.updQueue q f).hif = s.hif := rfl
@[simp] theorem updQueue_darit : (s.updQueue q f).darit = s.darit := rfl
@[simp] theorem updQueue_slots : (s.updQueue q f).slots = s.slots := rfl
@[simp] theorem updQueue_edgeFenced : (s.updQueue q f).edgeFenced = s.edgeFenced := rfl
@[simp] theorem updQueue_segFenced : (s.updQueue q f).segFenced = s.segFenced := rfl
@[simp] theorem updQueue_smp : (s.updQueue q f).smp = s.smp := rfl
@[simp] theorem updQueue_lanesFenced : (s.updQueue q f).lanesFenced = s.lanesFenced := rfl
@[simp] theorem updQueue_smpTurn : (s.updQueue q f).smpTurn = s.smpTurn := rfl
@[simp] theorem updQueue_fls : (s.updQueue q f).fls = s.fls := rfl
@[simp] theorem updQueue_tim : (s.updQueue q f).tim = s.tim := rfl
@[simp] theorem updQueue_pwr : (s.updQueue q f).pwr = s.pwr := rfl
@[simp] theorem updQueue_svc : (s.updQueue q f).svc = s.svc := rfl
@[simp] theorem updQueue_reply : (s.updQueue q f).reply = s.reply := rfl
@[simp] theorem updQueue_freshCtr : (s.updQueue q f).freshCtr = s.freshCtr := rfl
@[simp] theorem updQueue_pending : (s.updQueue q f).pending = s.pending := rfl
end

/-! ## updCmd -/

section
variable (s : State) (q n : Nat) (f : Cmd → Cmd)
@[simp] theorem updCmd_cores : (s.updCmd q n f).cores = s.cores := rfl
@[simp] theorem updCmd_argMaps : (s.updCmd q n f).argMaps = s.argMaps := rfl
@[simp] theorem updCmd_regions : (s.updCmd q n f).regions = s.regions := rfl
@[simp] theorem updCmd_coreStore : (s.updCmd q n f).coreStore = s.coreStore := rfl
@[simp] theorem updCmd_accMem : (s.updCmd q n f).accMem = s.accMem := rfl
@[simp] theorem updCmd_regionMem : (s.updCmd q n f).regionMem = s.regionMem := rfl
@[simp] theorem updCmd_stacked : (s.updCmd q n f).stacked = s.stacked := rfl
@[simp] theorem updCmd_hostMem : (s.updCmd q n f).hostMem = s.hostMem := rfl
@[simp] theorem updCmd_ctxs : (s.updCmd q n f).ctxs = s.ctxs := rfl
@[simp] theorem updCmd_queues : (s.updCmd q n f).queues = s.queues := rfl
@[simp] theorem updCmd_queueGens : (s.updCmd q n f).queueGens = s.queueGens := rfl
@[simp] theorem updCmd_copyA : (s.updCmd q n f).copyA = s.copyA := rfl
@[simp] theorem updCmd_copyB : (s.updCmd q n f).copyB = s.copyB := rfl
@[simp] theorem updCmd_seqs : (s.updCmd q n f).seqs = s.seqs := rfl
@[simp] theorem updCmd_coils : (s.updCmd q n f).coils = s.coils := rfl
@[simp] theorem updCmd_mbox : (s.updCmd q n f).mbox = s.mbox := rfl
@[simp] theorem updCmd_ageMs : (s.updCmd q n f).ageMs = s.ageMs := rfl
@[simp] theorem updCmd_preemptWait : (s.updCmd q n f).preemptWait = s.preemptWait := rfl
@[simp] theorem updCmd_epochs : (s.updCmd q n f).epochs = s.epochs := rfl
@[simp] theorem updCmd_fabric : (s.updCmd q n f).fabric = s.fabric := rfl
@[simp] theorem updCmd_acctWait : (s.updCmd q n f).acctWait = s.acctWait := rfl
@[simp] theorem updCmd_acctPreempt : (s.updCmd q n f).acctPreempt = s.acctPreempt := rfl
@[simp] theorem updCmd_acctKernels : (s.updCmd q n f).acctKernels = s.acctKernels := rfl
@[simp] theorem updCmd_acctEnergy : (s.updCmd q n f).acctEnergy = s.acctEnergy := rfl
@[simp] theorem updCmd_cntDbIgnored : (s.updCmd q n f).cntDbIgnored = s.cntDbIgnored := rfl
@[simp] theorem updCmd_cntFetchFail : (s.updCmd q n f).cntFetchFail = s.cntFetchFail := rfl
@[simp] theorem updCmd_log : (s.updCmd q n f).log = s.log := rfl
@[simp] theorem updCmd_nextReq : (s.updCmd q n f).nextReq = s.nextReq := rfl
@[simp] theorem updCmd_acceptCtr : (s.updCmd q n f).acceptCtr = s.acceptCtr := rfl
@[simp] theorem updCmd_acceptTurn : (s.updCmd q n f).acceptTurn = s.acceptTurn := rfl
@[simp] theorem updCmd_badCheckers : (s.updCmd q n f).badCheckers = s.badCheckers := rfl
@[simp] theorem updCmd_tblQueue : (s.updCmd q n f).tblQueue = s.tblQueue := rfl
@[simp] theorem updCmd_tblSeq : (s.updCmd q n f).tblSeq = s.tblSeq := rfl
@[simp] theorem updCmd_tblCoil : (s.updCmd q n f).tblCoil = s.tblCoil := rfl
@[simp] theorem updCmd_tblPark : (s.updCmd q n f).tblPark = s.tblPark := rfl
@[simp] theorem updCmd_timeNs : (s.updCmd q n f).timeNs = s.timeNs := rfl
@[simp] theorem updCmd_hif : (s.updCmd q n f).hif = s.hif := rfl
@[simp] theorem updCmd_darit : (s.updCmd q n f).darit = s.darit := rfl
@[simp] theorem updCmd_slots : (s.updCmd q n f).slots = s.slots := rfl
@[simp] theorem updCmd_edgeFenced : (s.updCmd q n f).edgeFenced = s.edgeFenced := rfl
@[simp] theorem updCmd_segFenced : (s.updCmd q n f).segFenced = s.segFenced := rfl
@[simp] theorem updCmd_smp : (s.updCmd q n f).smp = s.smp := rfl
@[simp] theorem updCmd_lanesFenced : (s.updCmd q n f).lanesFenced = s.lanesFenced := rfl
@[simp] theorem updCmd_smpTurn : (s.updCmd q n f).smpTurn = s.smpTurn := rfl
@[simp] theorem updCmd_fls : (s.updCmd q n f).fls = s.fls := rfl
@[simp] theorem updCmd_tim : (s.updCmd q n f).tim = s.tim := rfl
@[simp] theorem updCmd_pwr : (s.updCmd q n f).pwr = s.pwr := rfl
@[simp] theorem updCmd_svc : (s.updCmd q n f).svc = s.svc := rfl
@[simp] theorem updCmd_reply : (s.updCmd q n f).reply = s.reply := rfl
@[simp] theorem updCmd_freshCtr : (s.updCmd q n f).freshCtr = s.freshCtr := rfl
@[simp] theorem updCmd_pending : (s.updCmd q n f).pending = s.pending := rfl
end

/-! ## updPart -/

section
variable (s : State) (p : Part) (f : EpochEntry → EpochEntry)
@[simp] theorem updPart_cores : (s.updPart p f).cores = s.cores := rfl
@[simp] theorem updPart_argMaps : (s.updPart p f).argMaps = s.argMaps := rfl
@[simp] theorem updPart_regions : (s.updPart p f).regions = s.regions := rfl
@[simp] theorem updPart_coreStore : (s.updPart p f).coreStore = s.coreStore := rfl
@[simp] theorem updPart_accMem : (s.updPart p f).accMem = s.accMem := rfl
@[simp] theorem updPart_regionMem : (s.updPart p f).regionMem = s.regionMem := rfl
@[simp] theorem updPart_stacked : (s.updPart p f).stacked = s.stacked := rfl
@[simp] theorem updPart_hostMem : (s.updPart p f).hostMem = s.hostMem := rfl
@[simp] theorem updPart_ctxs : (s.updPart p f).ctxs = s.ctxs := rfl
@[simp] theorem updPart_queues : (s.updPart p f).queues = s.queues := rfl
@[simp] theorem updPart_queueGens : (s.updPart p f).queueGens = s.queueGens := rfl
@[simp] theorem updPart_cmds : (s.updPart p f).cmds = s.cmds := rfl
@[simp] theorem updPart_copyA : (s.updPart p f).copyA = s.copyA := rfl
@[simp] theorem updPart_copyB : (s.updPart p f).copyB = s.copyB := rfl
@[simp] theorem updPart_seqs : (s.updPart p f).seqs = s.seqs := rfl
@[simp] theorem updPart_coils : (s.updPart p f).coils = s.coils := rfl
@[simp] theorem updPart_mbox : (s.updPart p f).mbox = s.mbox := rfl
@[simp] theorem updPart_ageMs : (s.updPart p f).ageMs = s.ageMs := rfl
@[simp] theorem updPart_preemptWait : (s.updPart p f).preemptWait = s.preemptWait := rfl
@[simp] theorem updPart_epochs : (s.updPart p f).epochs = s.epochs.set (partIndex p) (f s.epochs[partIndex p]) := rfl
@[simp] theorem updPart_fabric : (s.updPart p f).fabric = s.fabric := rfl
@[simp] theorem updPart_acctWait : (s.updPart p f).acctWait = s.acctWait := rfl
@[simp] theorem updPart_acctPreempt : (s.updPart p f).acctPreempt = s.acctPreempt := rfl
@[simp] theorem updPart_acctKernels : (s.updPart p f).acctKernels = s.acctKernels := rfl
@[simp] theorem updPart_acctEnergy : (s.updPart p f).acctEnergy = s.acctEnergy := rfl
@[simp] theorem updPart_cntDbIgnored : (s.updPart p f).cntDbIgnored = s.cntDbIgnored := rfl
@[simp] theorem updPart_cntFetchFail : (s.updPart p f).cntFetchFail = s.cntFetchFail := rfl
@[simp] theorem updPart_log : (s.updPart p f).log = s.log := rfl
@[simp] theorem updPart_nextReq : (s.updPart p f).nextReq = s.nextReq := rfl
@[simp] theorem updPart_acceptCtr : (s.updPart p f).acceptCtr = s.acceptCtr := rfl
@[simp] theorem updPart_acceptTurn : (s.updPart p f).acceptTurn = s.acceptTurn := rfl
@[simp] theorem updPart_badCheckers : (s.updPart p f).badCheckers = s.badCheckers := rfl
@[simp] theorem updPart_tblQueue : (s.updPart p f).tblQueue = s.tblQueue := rfl
@[simp] theorem updPart_tblSeq : (s.updPart p f).tblSeq = s.tblSeq := rfl
@[simp] theorem updPart_tblCoil : (s.updPart p f).tblCoil = s.tblCoil := rfl
@[simp] theorem updPart_tblPark : (s.updPart p f).tblPark = s.tblPark := rfl
@[simp] theorem updPart_timeNs : (s.updPart p f).timeNs = s.timeNs := rfl
@[simp] theorem updPart_hif : (s.updPart p f).hif = s.hif := rfl
@[simp] theorem updPart_darit : (s.updPart p f).darit = s.darit := rfl
@[simp] theorem updPart_slots : (s.updPart p f).slots = s.slots := rfl
@[simp] theorem updPart_edgeFenced : (s.updPart p f).edgeFenced = s.edgeFenced := rfl
@[simp] theorem updPart_segFenced : (s.updPart p f).segFenced = s.segFenced := rfl
@[simp] theorem updPart_smp : (s.updPart p f).smp = s.smp := rfl
@[simp] theorem updPart_lanesFenced : (s.updPart p f).lanesFenced = s.lanesFenced := rfl
@[simp] theorem updPart_smpTurn : (s.updPart p f).smpTurn = s.smpTurn := rfl
@[simp] theorem updPart_fls : (s.updPart p f).fls = s.fls := rfl
@[simp] theorem updPart_tim : (s.updPart p f).tim = s.tim := rfl
@[simp] theorem updPart_pwr : (s.updPart p f).pwr = s.pwr := rfl
@[simp] theorem updPart_svc : (s.updPart p f).svc = s.svc := rfl
@[simp] theorem updPart_reply : (s.updPart p f).reply = s.reply := rfl
@[simp] theorem updPart_freshCtr : (s.updPart p f).freshCtr = s.freshCtr := rfl
@[simp] theorem updPart_pending : (s.updPart p f).pending = s.pending := rfl
end

/-! ## updHif -/

section
variable (s : State) (h : HostPort) (f : Hif → Hif)
@[simp] theorem updHif_cores : (s.updHif h f).cores = s.cores := rfl
@[simp] theorem updHif_argMaps : (s.updHif h f).argMaps = s.argMaps := rfl
@[simp] theorem updHif_regions : (s.updHif h f).regions = s.regions := rfl
@[simp] theorem updHif_coreStore : (s.updHif h f).coreStore = s.coreStore := rfl
@[simp] theorem updHif_accMem : (s.updHif h f).accMem = s.accMem := rfl
@[simp] theorem updHif_regionMem : (s.updHif h f).regionMem = s.regionMem := rfl
@[simp] theorem updHif_stacked : (s.updHif h f).stacked = s.stacked := rfl
@[simp] theorem updHif_hostMem : (s.updHif h f).hostMem = s.hostMem := rfl
@[simp] theorem updHif_ctxs : (s.updHif h f).ctxs = s.ctxs := rfl
@[simp] theorem updHif_queues : (s.updHif h f).queues = s.queues := rfl
@[simp] theorem updHif_queueGens : (s.updHif h f).queueGens = s.queueGens := rfl
@[simp] theorem updHif_cmds : (s.updHif h f).cmds = s.cmds := rfl
@[simp] theorem updHif_copyA : (s.updHif h f).copyA = s.copyA := rfl
@[simp] theorem updHif_copyB : (s.updHif h f).copyB = s.copyB := rfl
@[simp] theorem updHif_seqs : (s.updHif h f).seqs = s.seqs := rfl
@[simp] theorem updHif_coils : (s.updHif h f).coils = s.coils := rfl
@[simp] theorem updHif_mbox : (s.updHif h f).mbox = s.mbox := rfl
@[simp] theorem updHif_ageMs : (s.updHif h f).ageMs = s.ageMs := rfl
@[simp] theorem updHif_preemptWait : (s.updHif h f).preemptWait = s.preemptWait := rfl
@[simp] theorem updHif_epochs : (s.updHif h f).epochs = s.epochs := rfl
@[simp] theorem updHif_fabric : (s.updHif h f).fabric = s.fabric := rfl
@[simp] theorem updHif_acctWait : (s.updHif h f).acctWait = s.acctWait := rfl
@[simp] theorem updHif_acctPreempt : (s.updHif h f).acctPreempt = s.acctPreempt := rfl
@[simp] theorem updHif_acctKernels : (s.updHif h f).acctKernels = s.acctKernels := rfl
@[simp] theorem updHif_acctEnergy : (s.updHif h f).acctEnergy = s.acctEnergy := rfl
@[simp] theorem updHif_cntDbIgnored : (s.updHif h f).cntDbIgnored = s.cntDbIgnored := rfl
@[simp] theorem updHif_cntFetchFail : (s.updHif h f).cntFetchFail = s.cntFetchFail := rfl
@[simp] theorem updHif_log : (s.updHif h f).log = s.log := rfl
@[simp] theorem updHif_nextReq : (s.updHif h f).nextReq = s.nextReq := rfl
@[simp] theorem updHif_acceptCtr : (s.updHif h f).acceptCtr = s.acceptCtr := rfl
@[simp] theorem updHif_acceptTurn : (s.updHif h f).acceptTurn = s.acceptTurn := rfl
@[simp] theorem updHif_badCheckers : (s.updHif h f).badCheckers = s.badCheckers := rfl
@[simp] theorem updHif_tblQueue : (s.updHif h f).tblQueue = s.tblQueue := rfl
@[simp] theorem updHif_tblSeq : (s.updHif h f).tblSeq = s.tblSeq := rfl
@[simp] theorem updHif_tblCoil : (s.updHif h f).tblCoil = s.tblCoil := rfl
@[simp] theorem updHif_tblPark : (s.updHif h f).tblPark = s.tblPark := rfl
@[simp] theorem updHif_timeNs : (s.updHif h f).timeNs = s.timeNs := rfl
@[simp] theorem updHif_hif : (s.updHif h f).hif = s.hif.set h (f s.hif[h]) := rfl
@[simp] theorem updHif_darit : (s.updHif h f).darit = s.darit := rfl
@[simp] theorem updHif_slots : (s.updHif h f).slots = s.slots := rfl
@[simp] theorem updHif_edgeFenced : (s.updHif h f).edgeFenced = s.edgeFenced := rfl
@[simp] theorem updHif_segFenced : (s.updHif h f).segFenced = s.segFenced := rfl
@[simp] theorem updHif_smp : (s.updHif h f).smp = s.smp := rfl
@[simp] theorem updHif_lanesFenced : (s.updHif h f).lanesFenced = s.lanesFenced := rfl
@[simp] theorem updHif_smpTurn : (s.updHif h f).smpTurn = s.smpTurn := rfl
@[simp] theorem updHif_fls : (s.updHif h f).fls = s.fls := rfl
@[simp] theorem updHif_tim : (s.updHif h f).tim = s.tim := rfl
@[simp] theorem updHif_pwr : (s.updHif h f).pwr = s.pwr := rfl
@[simp] theorem updHif_svc : (s.updHif h f).svc = s.svc := rfl
@[simp] theorem updHif_reply : (s.updHif h f).reply = s.reply := rfl
@[simp] theorem updHif_freshCtr : (s.updHif h f).freshCtr = s.freshCtr := rfl
@[simp] theorem updHif_pending : (s.updHif h f).pending = s.pending := rfl
end

/-! ## updPwr -/

section
variable (s : State) (f : Power → Power)
@[simp] theorem updPwr_cores : (s.updPwr f).cores = s.cores := rfl
@[simp] theorem updPwr_argMaps : (s.updPwr f).argMaps = s.argMaps := rfl
@[simp] theorem updPwr_regions : (s.updPwr f).regions = s.regions := rfl
@[simp] theorem updPwr_coreStore : (s.updPwr f).coreStore = s.coreStore := rfl
@[simp] theorem updPwr_accMem : (s.updPwr f).accMem = s.accMem := rfl
@[simp] theorem updPwr_regionMem : (s.updPwr f).regionMem = s.regionMem := rfl
@[simp] theorem updPwr_stacked : (s.updPwr f).stacked = s.stacked := rfl
@[simp] theorem updPwr_hostMem : (s.updPwr f).hostMem = s.hostMem := rfl
@[simp] theorem updPwr_ctxs : (s.updPwr f).ctxs = s.ctxs := rfl
@[simp] theorem updPwr_queues : (s.updPwr f).queues = s.queues := rfl
@[simp] theorem updPwr_queueGens : (s.updPwr f).queueGens = s.queueGens := rfl
@[simp] theorem updPwr_cmds : (s.updPwr f).cmds = s.cmds := rfl
@[simp] theorem updPwr_copyA : (s.updPwr f).copyA = s.copyA := rfl
@[simp] theorem updPwr_copyB : (s.updPwr f).copyB = s.copyB := rfl
@[simp] theorem updPwr_seqs : (s.updPwr f).seqs = s.seqs := rfl
@[simp] theorem updPwr_coils : (s.updPwr f).coils = s.coils := rfl
@[simp] theorem updPwr_mbox : (s.updPwr f).mbox = s.mbox := rfl
@[simp] theorem updPwr_ageMs : (s.updPwr f).ageMs = s.ageMs := rfl
@[simp] theorem updPwr_preemptWait : (s.updPwr f).preemptWait = s.preemptWait := rfl
@[simp] theorem updPwr_epochs : (s.updPwr f).epochs = s.epochs := rfl
@[simp] theorem updPwr_fabric : (s.updPwr f).fabric = s.fabric := rfl
@[simp] theorem updPwr_acctWait : (s.updPwr f).acctWait = s.acctWait := rfl
@[simp] theorem updPwr_acctPreempt : (s.updPwr f).acctPreempt = s.acctPreempt := rfl
@[simp] theorem updPwr_acctKernels : (s.updPwr f).acctKernels = s.acctKernels := rfl
@[simp] theorem updPwr_acctEnergy : (s.updPwr f).acctEnergy = s.acctEnergy := rfl
@[simp] theorem updPwr_cntDbIgnored : (s.updPwr f).cntDbIgnored = s.cntDbIgnored := rfl
@[simp] theorem updPwr_cntFetchFail : (s.updPwr f).cntFetchFail = s.cntFetchFail := rfl
@[simp] theorem updPwr_log : (s.updPwr f).log = s.log := rfl
@[simp] theorem updPwr_nextReq : (s.updPwr f).nextReq = s.nextReq := rfl
@[simp] theorem updPwr_acceptCtr : (s.updPwr f).acceptCtr = s.acceptCtr := rfl
@[simp] theorem updPwr_acceptTurn : (s.updPwr f).acceptTurn = s.acceptTurn := rfl
@[simp] theorem updPwr_badCheckers : (s.updPwr f).badCheckers = s.badCheckers := rfl
@[simp] theorem updPwr_tblQueue : (s.updPwr f).tblQueue = s.tblQueue := rfl
@[simp] theorem updPwr_tblSeq : (s.updPwr f).tblSeq = s.tblSeq := rfl
@[simp] theorem updPwr_tblCoil : (s.updPwr f).tblCoil = s.tblCoil := rfl
@[simp] theorem updPwr_tblPark : (s.updPwr f).tblPark = s.tblPark := rfl
@[simp] theorem updPwr_timeNs : (s.updPwr f).timeNs = s.timeNs := rfl
@[simp] theorem updPwr_hif : (s.updPwr f).hif = s.hif := rfl
@[simp] theorem updPwr_darit : (s.updPwr f).darit = s.darit := rfl
@[simp] theorem updPwr_slots : (s.updPwr f).slots = s.slots := rfl
@[simp] theorem updPwr_edgeFenced : (s.updPwr f).edgeFenced = s.edgeFenced := rfl
@[simp] theorem updPwr_segFenced : (s.updPwr f).segFenced = s.segFenced := rfl
@[simp] theorem updPwr_smp : (s.updPwr f).smp = s.smp := rfl
@[simp] theorem updPwr_lanesFenced : (s.updPwr f).lanesFenced = s.lanesFenced := rfl
@[simp] theorem updPwr_smpTurn : (s.updPwr f).smpTurn = s.smpTurn := rfl
@[simp] theorem updPwr_fls : (s.updPwr f).fls = s.fls := rfl
@[simp] theorem updPwr_tim : (s.updPwr f).tim = s.tim := rfl
@[simp] theorem updPwr_pwr : (s.updPwr f).pwr = f s.pwr := rfl
@[simp] theorem updPwr_svc : (s.updPwr f).svc = s.svc := rfl
@[simp] theorem updPwr_reply : (s.updPwr f).reply = s.reply := rfl
@[simp] theorem updPwr_freshCtr : (s.updPwr f).freshCtr = s.freshCtr := rfl
@[simp] theorem updPwr_pending : (s.updPwr f).pending = s.pending := rfl
end

/-! ## fresh -/

section
variable (s : State)
@[simp] theorem fresh_cores : (s.fresh).cores = s.cores := rfl
@[simp] theorem fresh_argMaps : (s.fresh).argMaps = s.argMaps := rfl
@[simp] theorem fresh_regions : (s.fresh).regions = s.regions := rfl
@[simp] theorem fresh_coreStore : (s.fresh).coreStore = s.coreStore := rfl
@[simp] theorem fresh_accMem : (s.fresh).accMem = s.accMem := rfl
@[simp] theorem fresh_regionMem : (s.fresh).regionMem = s.regionMem := rfl
@[simp] theorem fresh_stacked : (s.fresh).stacked = s.stacked := rfl
@[simp] theorem fresh_hostMem : (s.fresh).hostMem = s.hostMem := rfl
@[simp] theorem fresh_ctxs : (s.fresh).ctxs = s.ctxs := rfl
@[simp] theorem fresh_queues : (s.fresh).queues = s.queues := rfl
@[simp] theorem fresh_queueGens : (s.fresh).queueGens = s.queueGens := rfl
@[simp] theorem fresh_cmds : (s.fresh).cmds = s.cmds := rfl
@[simp] theorem fresh_copyA : (s.fresh).copyA = s.copyA := rfl
@[simp] theorem fresh_copyB : (s.fresh).copyB = s.copyB := rfl
@[simp] theorem fresh_seqs : (s.fresh).seqs = s.seqs := rfl
@[simp] theorem fresh_coils : (s.fresh).coils = s.coils := rfl
@[simp] theorem fresh_mbox : (s.fresh).mbox = s.mbox := rfl
@[simp] theorem fresh_ageMs : (s.fresh).ageMs = s.ageMs := rfl
@[simp] theorem fresh_preemptWait : (s.fresh).preemptWait = s.preemptWait := rfl
@[simp] theorem fresh_epochs : (s.fresh).epochs = s.epochs := rfl
@[simp] theorem fresh_fabric : (s.fresh).fabric = s.fabric := rfl
@[simp] theorem fresh_acctWait : (s.fresh).acctWait = s.acctWait := rfl
@[simp] theorem fresh_acctPreempt : (s.fresh).acctPreempt = s.acctPreempt := rfl
@[simp] theorem fresh_acctKernels : (s.fresh).acctKernels = s.acctKernels := rfl
@[simp] theorem fresh_acctEnergy : (s.fresh).acctEnergy = s.acctEnergy := rfl
@[simp] theorem fresh_cntDbIgnored : (s.fresh).cntDbIgnored = s.cntDbIgnored := rfl
@[simp] theorem fresh_cntFetchFail : (s.fresh).cntFetchFail = s.cntFetchFail := rfl
@[simp] theorem fresh_log : (s.fresh).log = s.log := rfl
@[simp] theorem fresh_nextReq : (s.fresh).nextReq = s.nextReq := rfl
@[simp] theorem fresh_acceptCtr : (s.fresh).acceptCtr = s.acceptCtr := rfl
@[simp] theorem fresh_acceptTurn : (s.fresh).acceptTurn = s.acceptTurn := rfl
@[simp] theorem fresh_badCheckers : (s.fresh).badCheckers = s.badCheckers := rfl
@[simp] theorem fresh_tblQueue : (s.fresh).tblQueue = s.tblQueue := rfl
@[simp] theorem fresh_tblSeq : (s.fresh).tblSeq = s.tblSeq := rfl
@[simp] theorem fresh_tblCoil : (s.fresh).tblCoil = s.tblCoil := rfl
@[simp] theorem fresh_tblPark : (s.fresh).tblPark = s.tblPark := rfl
@[simp] theorem fresh_timeNs : (s.fresh).timeNs = s.timeNs := rfl
@[simp] theorem fresh_hif : (s.fresh).hif = s.hif := rfl
@[simp] theorem fresh_darit : (s.fresh).darit = s.darit := rfl
@[simp] theorem fresh_slots : (s.fresh).slots = s.slots := rfl
@[simp] theorem fresh_edgeFenced : (s.fresh).edgeFenced = s.edgeFenced := rfl
@[simp] theorem fresh_segFenced : (s.fresh).segFenced = s.segFenced := rfl
@[simp] theorem fresh_smp : (s.fresh).smp = s.smp := rfl
@[simp] theorem fresh_lanesFenced : (s.fresh).lanesFenced = s.lanesFenced := rfl
@[simp] theorem fresh_smpTurn : (s.fresh).smpTurn = s.smpTurn := rfl
@[simp] theorem fresh_fls : (s.fresh).fls = s.fls := rfl
@[simp] theorem fresh_tim : (s.fresh).tim = s.tim := rfl
@[simp] theorem fresh_pwr : (s.fresh).pwr = s.pwr := rfl
@[simp] theorem fresh_svc : (s.fresh).svc = s.svc := rfl
@[simp] theorem fresh_reply : (s.fresh).reply = s.reply := rfl
@[simp] theorem fresh_freshCtr : (s.fresh).freshCtr = s.freshCtr + 1 := rfl
@[simp] theorem fresh_pending : (s.fresh).pending = s.pending := rfl
end

/-! ## updMbox -/

section
variable (s : State) (h : HostPort) (f : Mailbox → Mailbox)
@[simp] theorem updMbox_cores : (s.updMbox h f).cores = s.cores := rfl
@[simp] theorem updMbox_argMaps : (s.updMbox h f).argMaps = s.argMaps := rfl
@[simp] theorem updMbox_regions : (s.updMbox h f).regions = s.regions := rfl
@[simp] theorem updMbox_coreStore : (s.updMbox h f).coreStore = s.coreStore := rfl
@[simp] theorem updMbox_accMem : (s.updMbox h f).accMem = s.accMem := rfl
@[simp] theorem updMbox_regionMem : (s.updMbox h f).regionMem = s.regionMem := rfl
@[simp] theorem updMbox_stacked : (s.updMbox h f).stacked = s.stacked := rfl
@[simp] theorem updMbox_hostMem : (s.updMbox h f).hostMem = s.hostMem := rfl
@[simp] theorem updMbox_ctxs : (s.updMbox h f).ctxs = s.ctxs := rfl
@[simp] theorem updMbox_queues : (s.updMbox h f).queues = s.queues := rfl
@[simp] theorem updMbox_queueGens : (s.updMbox h f).queueGens = s.queueGens := rfl
@[simp] theorem updMbox_cmds : (s.updMbox h f).cmds = s.cmds := rfl
@[simp] theorem updMbox_copyA : (s.updMbox h f).copyA = s.copyA := rfl
@[simp] theorem updMbox_copyB : (s.updMbox h f).copyB = s.copyB := rfl
@[simp] theorem updMbox_seqs : (s.updMbox h f).seqs = s.seqs := rfl
@[simp] theorem updMbox_coils : (s.updMbox h f).coils = s.coils := rfl
@[simp] theorem updMbox_mbox : (s.updMbox h f).mbox = s.mbox.set h (f s.mbox[h]) := rfl
@[simp] theorem updMbox_ageMs : (s.updMbox h f).ageMs = s.ageMs := rfl
@[simp] theorem updMbox_preemptWait : (s.updMbox h f).preemptWait = s.preemptWait := rfl
@[simp] theorem updMbox_epochs : (s.updMbox h f).epochs = s.epochs := rfl
@[simp] theorem updMbox_fabric : (s.updMbox h f).fabric = s.fabric := rfl
@[simp] theorem updMbox_acctWait : (s.updMbox h f).acctWait = s.acctWait := rfl
@[simp] theorem updMbox_acctPreempt : (s.updMbox h f).acctPreempt = s.acctPreempt := rfl
@[simp] theorem updMbox_acctKernels : (s.updMbox h f).acctKernels = s.acctKernels := rfl
@[simp] theorem updMbox_acctEnergy : (s.updMbox h f).acctEnergy = s.acctEnergy := rfl
@[simp] theorem updMbox_cntDbIgnored : (s.updMbox h f).cntDbIgnored = s.cntDbIgnored := rfl
@[simp] theorem updMbox_cntFetchFail : (s.updMbox h f).cntFetchFail = s.cntFetchFail := rfl
@[simp] theorem updMbox_log : (s.updMbox h f).log = s.log := rfl
@[simp] theorem updMbox_nextReq : (s.updMbox h f).nextReq = s.nextReq := rfl
@[simp] theorem updMbox_acceptCtr : (s.updMbox h f).acceptCtr = s.acceptCtr := rfl
@[simp] theorem updMbox_acceptTurn : (s.updMbox h f).acceptTurn = s.acceptTurn := rfl
@[simp] theorem updMbox_badCheckers : (s.updMbox h f).badCheckers = s.badCheckers := rfl
@[simp] theorem updMbox_tblQueue : (s.updMbox h f).tblQueue = s.tblQueue := rfl
@[simp] theorem updMbox_tblSeq : (s.updMbox h f).tblSeq = s.tblSeq := rfl
@[simp] theorem updMbox_tblCoil : (s.updMbox h f).tblCoil = s.tblCoil := rfl
@[simp] theorem updMbox_tblPark : (s.updMbox h f).tblPark = s.tblPark := rfl
@[simp] theorem updMbox_timeNs : (s.updMbox h f).timeNs = s.timeNs := rfl
@[simp] theorem updMbox_hif : (s.updMbox h f).hif = s.hif := rfl
@[simp] theorem updMbox_darit : (s.updMbox h f).darit = s.darit := rfl
@[simp] theorem updMbox_slots : (s.updMbox h f).slots = s.slots := rfl
@[simp] theorem updMbox_edgeFenced : (s.updMbox h f).edgeFenced = s.edgeFenced := rfl
@[simp] theorem updMbox_segFenced : (s.updMbox h f).segFenced = s.segFenced := rfl
@[simp] theorem updMbox_smp : (s.updMbox h f).smp = s.smp := rfl
@[simp] theorem updMbox_lanesFenced : (s.updMbox h f).lanesFenced = s.lanesFenced := rfl
@[simp] theorem updMbox_smpTurn : (s.updMbox h f).smpTurn = s.smpTurn := rfl
@[simp] theorem updMbox_fls : (s.updMbox h f).fls = s.fls := rfl
@[simp] theorem updMbox_tim : (s.updMbox h f).tim = s.tim := rfl
@[simp] theorem updMbox_pwr : (s.updMbox h f).pwr = s.pwr := rfl
@[simp] theorem updMbox_svc : (s.updMbox h f).svc = s.svc := rfl
@[simp] theorem updMbox_reply : (s.updMbox h f).reply = s.reply := rfl
@[simp] theorem updMbox_freshCtr : (s.updMbox h f).freshCtr = s.freshCtr := rfl
@[simp] theorem updMbox_pending : (s.updMbox h f).pending = s.pending := rfl
end

/-! ## updSlots -/

section
variable (s : State) (f : TimeSlots → TimeSlots)
@[simp] theorem updSlots_cores : (s.updSlots f).cores = s.cores := rfl
@[simp] theorem updSlots_argMaps : (s.updSlots f).argMaps = s.argMaps := rfl
@[simp] theorem updSlots_regions : (s.updSlots f).regions = s.regions := rfl
@[simp] theorem updSlots_coreStore : (s.updSlots f).coreStore = s.coreStore := rfl
@[simp] theorem updSlots_accMem : (s.updSlots f).accMem = s.accMem := rfl
@[simp] theorem updSlots_regionMem : (s.updSlots f).regionMem = s.regionMem := rfl
@[simp] theorem updSlots_stacked : (s.updSlots f).stacked = s.stacked := rfl
@[simp] theorem updSlots_hostMem : (s.updSlots f).hostMem = s.hostMem := rfl
@[simp] theorem updSlots_ctxs : (s.updSlots f).ctxs = s.ctxs := rfl
@[simp] theorem updSlots_queues : (s.updSlots f).queues = s.queues := rfl
@[simp] theorem updSlots_queueGens : (s.updSlots f).queueGens = s.queueGens := rfl
@[simp] theorem updSlots_cmds : (s.updSlots f).cmds = s.cmds := rfl
@[simp] theorem updSlots_copyA : (s.updSlots f).copyA = s.copyA := rfl
@[simp] theorem updSlots_copyB : (s.updSlots f).copyB = s.copyB := rfl
@[simp] theorem updSlots_seqs : (s.updSlots f).seqs = s.seqs := rfl
@[simp] theorem updSlots_coils : (s.updSlots f).coils = s.coils := rfl
@[simp] theorem updSlots_mbox : (s.updSlots f).mbox = s.mbox := rfl
@[simp] theorem updSlots_ageMs : (s.updSlots f).ageMs = s.ageMs := rfl
@[simp] theorem updSlots_preemptWait : (s.updSlots f).preemptWait = s.preemptWait := rfl
@[simp] theorem updSlots_epochs : (s.updSlots f).epochs = s.epochs := rfl
@[simp] theorem updSlots_fabric : (s.updSlots f).fabric = s.fabric := rfl
@[simp] theorem updSlots_acctWait : (s.updSlots f).acctWait = s.acctWait := rfl
@[simp] theorem updSlots_acctPreempt : (s.updSlots f).acctPreempt = s.acctPreempt := rfl
@[simp] theorem updSlots_acctKernels : (s.updSlots f).acctKernels = s.acctKernels := rfl
@[simp] theorem updSlots_acctEnergy : (s.updSlots f).acctEnergy = s.acctEnergy := rfl
@[simp] theorem updSlots_cntDbIgnored : (s.updSlots f).cntDbIgnored = s.cntDbIgnored := rfl
@[simp] theorem updSlots_cntFetchFail : (s.updSlots f).cntFetchFail = s.cntFetchFail := rfl
@[simp] theorem updSlots_log : (s.updSlots f).log = s.log := rfl
@[simp] theorem updSlots_nextReq : (s.updSlots f).nextReq = s.nextReq := rfl
@[simp] theorem updSlots_acceptCtr : (s.updSlots f).acceptCtr = s.acceptCtr := rfl
@[simp] theorem updSlots_acceptTurn : (s.updSlots f).acceptTurn = s.acceptTurn := rfl
@[simp] theorem updSlots_badCheckers : (s.updSlots f).badCheckers = s.badCheckers := rfl
@[simp] theorem updSlots_tblQueue : (s.updSlots f).tblQueue = s.tblQueue := rfl
@[simp] theorem updSlots_tblSeq : (s.updSlots f).tblSeq = s.tblSeq := rfl
@[simp] theorem updSlots_tblCoil : (s.updSlots f).tblCoil = s.tblCoil := rfl
@[simp] theorem updSlots_tblPark : (s.updSlots f).tblPark = s.tblPark := rfl
@[simp] theorem updSlots_timeNs : (s.updSlots f).timeNs = s.timeNs := rfl
@[simp] theorem updSlots_hif : (s.updSlots f).hif = s.hif := rfl
@[simp] theorem updSlots_darit : (s.updSlots f).darit = s.darit := rfl
@[simp] theorem updSlots_slots : (s.updSlots f).slots = f s.slots := rfl
@[simp] theorem updSlots_edgeFenced : (s.updSlots f).edgeFenced = s.edgeFenced := rfl
@[simp] theorem updSlots_segFenced : (s.updSlots f).segFenced = s.segFenced := rfl
@[simp] theorem updSlots_smp : (s.updSlots f).smp = s.smp := rfl
@[simp] theorem updSlots_lanesFenced : (s.updSlots f).lanesFenced = s.lanesFenced := rfl
@[simp] theorem updSlots_smpTurn : (s.updSlots f).smpTurn = s.smpTurn := rfl
@[simp] theorem updSlots_fls : (s.updSlots f).fls = s.fls := rfl
@[simp] theorem updSlots_tim : (s.updSlots f).tim = s.tim := rfl
@[simp] theorem updSlots_pwr : (s.updSlots f).pwr = s.pwr := rfl
@[simp] theorem updSlots_svc : (s.updSlots f).svc = s.svc := rfl
@[simp] theorem updSlots_reply : (s.updSlots f).reply = s.reply := rfl
@[simp] theorem updSlots_freshCtr : (s.updSlots f).freshCtr = s.freshCtr := rfl
@[simp] theorem updSlots_pending : (s.updSlots f).pending = s.pending := rfl
end

/-! ## updSvc -/

section
variable (s : State) (f : Service → Service)
@[simp] theorem updSvc_cores : (s.updSvc f).cores = s.cores := rfl
@[simp] theorem updSvc_argMaps : (s.updSvc f).argMaps = s.argMaps := rfl
@[simp] theorem updSvc_regions : (s.updSvc f).regions = s.regions := rfl
@[simp] theorem updSvc_coreStore : (s.updSvc f).coreStore = s.coreStore := rfl
@[simp] theorem updSvc_accMem : (s.updSvc f).accMem = s.accMem := rfl
@[simp] theorem updSvc_regionMem : (s.updSvc f).regionMem = s.regionMem := rfl
@[simp] theorem updSvc_stacked : (s.updSvc f).stacked = s.stacked := rfl
@[simp] theorem updSvc_hostMem : (s.updSvc f).hostMem = s.hostMem := rfl
@[simp] theorem updSvc_ctxs : (s.updSvc f).ctxs = s.ctxs := rfl
@[simp] theorem updSvc_queues : (s.updSvc f).queues = s.queues := rfl
@[simp] theorem updSvc_queueGens : (s.updSvc f).queueGens = s.queueGens := rfl
@[simp] theorem updSvc_cmds : (s.updSvc f).cmds = s.cmds := rfl
@[simp] theorem updSvc_copyA : (s.updSvc f).copyA = s.copyA := rfl
@[simp] theorem updSvc_copyB : (s.updSvc f).copyB = s.copyB := rfl
@[simp] theorem updSvc_seqs : (s.updSvc f).seqs = s.seqs := rfl
@[simp] theorem updSvc_coils : (s.updSvc f).coils = s.coils := rfl
@[simp] theorem updSvc_mbox : (s.updSvc f).mbox = s.mbox := rfl
@[simp] theorem updSvc_ageMs : (s.updSvc f).ageMs = s.ageMs := rfl
@[simp] theorem updSvc_preemptWait : (s.updSvc f).preemptWait = s.preemptWait := rfl
@[simp] theorem updSvc_epochs : (s.updSvc f).epochs = s.epochs := rfl
@[simp] theorem updSvc_fabric : (s.updSvc f).fabric = s.fabric := rfl
@[simp] theorem updSvc_acctWait : (s.updSvc f).acctWait = s.acctWait := rfl
@[simp] theorem updSvc_acctPreempt : (s.updSvc f).acctPreempt = s.acctPreempt := rfl
@[simp] theorem updSvc_acctKernels : (s.updSvc f).acctKernels = s.acctKernels := rfl
@[simp] theorem updSvc_acctEnergy : (s.updSvc f).acctEnergy = s.acctEnergy := rfl
@[simp] theorem updSvc_cntDbIgnored : (s.updSvc f).cntDbIgnored = s.cntDbIgnored := rfl
@[simp] theorem updSvc_cntFetchFail : (s.updSvc f).cntFetchFail = s.cntFetchFail := rfl
@[simp] theorem updSvc_log : (s.updSvc f).log = s.log := rfl
@[simp] theorem updSvc_nextReq : (s.updSvc f).nextReq = s.nextReq := rfl
@[simp] theorem updSvc_acceptCtr : (s.updSvc f).acceptCtr = s.acceptCtr := rfl
@[simp] theorem updSvc_acceptTurn : (s.updSvc f).acceptTurn = s.acceptTurn := rfl
@[simp] theorem updSvc_badCheckers : (s.updSvc f).badCheckers = s.badCheckers := rfl
@[simp] theorem updSvc_tblQueue : (s.updSvc f).tblQueue = s.tblQueue := rfl
@[simp] theorem updSvc_tblSeq : (s.updSvc f).tblSeq = s.tblSeq := rfl
@[simp] theorem updSvc_tblCoil : (s.updSvc f).tblCoil = s.tblCoil := rfl
@[simp] theorem updSvc_tblPark : (s.updSvc f).tblPark = s.tblPark := rfl
@[simp] theorem updSvc_timeNs : (s.updSvc f).timeNs = s.timeNs := rfl
@[simp] theorem updSvc_hif : (s.updSvc f).hif = s.hif := rfl
@[simp] theorem updSvc_darit : (s.updSvc f).darit = s.darit := rfl
@[simp] theorem updSvc_slots : (s.updSvc f).slots = s.slots := rfl
@[simp] theorem updSvc_edgeFenced : (s.updSvc f).edgeFenced = s.edgeFenced := rfl
@[simp] theorem updSvc_segFenced : (s.updSvc f).segFenced = s.segFenced := rfl
@[simp] theorem updSvc_smp : (s.updSvc f).smp = s.smp := rfl
@[simp] theorem updSvc_lanesFenced : (s.updSvc f).lanesFenced = s.lanesFenced := rfl
@[simp] theorem updSvc_smpTurn : (s.updSvc f).smpTurn = s.smpTurn := rfl
@[simp] theorem updSvc_fls : (s.updSvc f).fls = s.fls := rfl
@[simp] theorem updSvc_tim : (s.updSvc f).tim = s.tim := rfl
@[simp] theorem updSvc_pwr : (s.updSvc f).pwr = s.pwr := rfl
@[simp] theorem updSvc_svc : (s.updSvc f).svc = f s.svc := rfl
@[simp] theorem updSvc_reply : (s.updSvc f).reply = s.reply := rfl
@[simp] theorem updSvc_freshCtr : (s.updSvc f).freshCtr = s.freshCtr := rfl
@[simp] theorem updSvc_pending : (s.updSvc f).pending = s.pending := rfl
end

/-! ## updFls -/

section
variable (s : State) (f : Flash → Flash)
@[simp] theorem updFls_cores : (s.updFls f).cores = s.cores := rfl
@[simp] theorem updFls_argMaps : (s.updFls f).argMaps = s.argMaps := rfl
@[simp] theorem updFls_regions : (s.updFls f).regions = s.regions := rfl
@[simp] theorem updFls_coreStore : (s.updFls f).coreStore = s.coreStore := rfl
@[simp] theorem updFls_accMem : (s.updFls f).accMem = s.accMem := rfl
@[simp] theorem updFls_regionMem : (s.updFls f).regionMem = s.regionMem := rfl
@[simp] theorem updFls_stacked : (s.updFls f).stacked = s.stacked := rfl
@[simp] theorem updFls_hostMem : (s.updFls f).hostMem = s.hostMem := rfl
@[simp] theorem updFls_ctxs : (s.updFls f).ctxs = s.ctxs := rfl
@[simp] theorem updFls_queues : (s.updFls f).queues = s.queues := rfl
@[simp] theorem updFls_queueGens : (s.updFls f).queueGens = s.queueGens := rfl
@[simp] theorem updFls_cmds : (s.updFls f).cmds = s.cmds := rfl
@[simp] theorem updFls_copyA : (s.updFls f).copyA = s.copyA := rfl
@[simp] theorem updFls_copyB : (s.updFls f).copyB = s.copyB := rfl
@[simp] theorem updFls_seqs : (s.updFls f).seqs = s.seqs := rfl
@[simp] theorem updFls_coils : (s.updFls f).coils = s.coils := rfl
@[simp] theorem updFls_mbox : (s.updFls f).mbox = s.mbox := rfl
@[simp] theorem updFls_ageMs : (s.updFls f).ageMs = s.ageMs := rfl
@[simp] theorem updFls_preemptWait : (s.updFls f).preemptWait = s.preemptWait := rfl
@[simp] theorem updFls_epochs : (s.updFls f).epochs = s.epochs := rfl
@[simp] theorem updFls_fabric : (s.updFls f).fabric = s.fabric := rfl
@[simp] theorem updFls_acctWait : (s.updFls f).acctWait = s.acctWait := rfl
@[simp] theorem updFls_acctPreempt : (s.updFls f).acctPreempt = s.acctPreempt := rfl
@[simp] theorem updFls_acctKernels : (s.updFls f).acctKernels = s.acctKernels := rfl
@[simp] theorem updFls_acctEnergy : (s.updFls f).acctEnergy = s.acctEnergy := rfl
@[simp] theorem updFls_cntDbIgnored : (s.updFls f).cntDbIgnored = s.cntDbIgnored := rfl
@[simp] theorem updFls_cntFetchFail : (s.updFls f).cntFetchFail = s.cntFetchFail := rfl
@[simp] theorem updFls_log : (s.updFls f).log = s.log := rfl
@[simp] theorem updFls_nextReq : (s.updFls f).nextReq = s.nextReq := rfl
@[simp] theorem updFls_acceptCtr : (s.updFls f).acceptCtr = s.acceptCtr := rfl
@[simp] theorem updFls_acceptTurn : (s.updFls f).acceptTurn = s.acceptTurn := rfl
@[simp] theorem updFls_badCheckers : (s.updFls f).badCheckers = s.badCheckers := rfl
@[simp] theorem updFls_tblQueue : (s.updFls f).tblQueue = s.tblQueue := rfl
@[simp] theorem updFls_tblSeq : (s.updFls f).tblSeq = s.tblSeq := rfl
@[simp] theorem updFls_tblCoil : (s.updFls f).tblCoil = s.tblCoil := rfl
@[simp] theorem updFls_tblPark : (s.updFls f).tblPark = s.tblPark := rfl
@[simp] theorem updFls_timeNs : (s.updFls f).timeNs = s.timeNs := rfl
@[simp] theorem updFls_hif : (s.updFls f).hif = s.hif := rfl
@[simp] theorem updFls_darit : (s.updFls f).darit = s.darit := rfl
@[simp] theorem updFls_slots : (s.updFls f).slots = s.slots := rfl
@[simp] theorem updFls_edgeFenced : (s.updFls f).edgeFenced = s.edgeFenced := rfl
@[simp] theorem updFls_segFenced : (s.updFls f).segFenced = s.segFenced := rfl
@[simp] theorem updFls_smp : (s.updFls f).smp = s.smp := rfl
@[simp] theorem updFls_lanesFenced : (s.updFls f).lanesFenced = s.lanesFenced := rfl
@[simp] theorem updFls_smpTurn : (s.updFls f).smpTurn = s.smpTurn := rfl
@[simp] theorem updFls_fls : (s.updFls f).fls = f s.fls := rfl
@[simp] theorem updFls_tim : (s.updFls f).tim = s.tim := rfl
@[simp] theorem updFls_pwr : (s.updFls f).pwr = s.pwr := rfl
@[simp] theorem updFls_svc : (s.updFls f).svc = s.svc := rfl
@[simp] theorem updFls_reply : (s.updFls f).reply = s.reply := rfl
@[simp] theorem updFls_freshCtr : (s.updFls f).freshCtr = s.freshCtr := rfl
@[simp] theorem updFls_pending : (s.updFls f).pending = s.pending := rfl
end

/-! ## updTim -/

section
variable (s : State) (f : TimeBase → TimeBase)
@[simp] theorem updTim_cores : (s.updTim f).cores = s.cores := rfl
@[simp] theorem updTim_argMaps : (s.updTim f).argMaps = s.argMaps := rfl
@[simp] theorem updTim_regions : (s.updTim f).regions = s.regions := rfl
@[simp] theorem updTim_coreStore : (s.updTim f).coreStore = s.coreStore := rfl
@[simp] theorem updTim_accMem : (s.updTim f).accMem = s.accMem := rfl
@[simp] theorem updTim_regionMem : (s.updTim f).regionMem = s.regionMem := rfl
@[simp] theorem updTim_stacked : (s.updTim f).stacked = s.stacked := rfl
@[simp] theorem updTim_hostMem : (s.updTim f).hostMem = s.hostMem := rfl
@[simp] theorem updTim_ctxs : (s.updTim f).ctxs = s.ctxs := rfl
@[simp] theorem updTim_queues : (s.updTim f).queues = s.queues := rfl
@[simp] theorem updTim_queueGens : (s.updTim f).queueGens = s.queueGens := rfl
@[simp] theorem updTim_cmds : (s.updTim f).cmds = s.cmds := rfl
@[simp] theorem updTim_copyA : (s.updTim f).copyA = s.copyA := rfl
@[simp] theorem updTim_copyB : (s.updTim f).copyB = s.copyB := rfl
@[simp] theorem updTim_seqs : (s.updTim f).seqs = s.seqs := rfl
@[simp] theorem updTim_coils : (s.updTim f).coils = s.coils := rfl
@[simp] theorem updTim_mbox : (s.updTim f).mbox = s.mbox := rfl
@[simp] theorem updTim_ageMs : (s.updTim f).ageMs = s.ageMs := rfl
@[simp] theorem updTim_preemptWait : (s.updTim f).preemptWait = s.preemptWait := rfl
@[simp] theorem updTim_epochs : (s.updTim f).epochs = s.epochs := rfl
@[simp] theorem updTim_fabric : (s.updTim f).fabric = s.fabric := rfl
@[simp] theorem updTim_acctWait : (s.updTim f).acctWait = s.acctWait := rfl
@[simp] theorem updTim_acctPreempt : (s.updTim f).acctPreempt = s.acctPreempt := rfl
@[simp] theorem updTim_acctKernels : (s.updTim f).acctKernels = s.acctKernels := rfl
@[simp] theorem updTim_acctEnergy : (s.updTim f).acctEnergy = s.acctEnergy := rfl
@[simp] theorem updTim_cntDbIgnored : (s.updTim f).cntDbIgnored = s.cntDbIgnored := rfl
@[simp] theorem updTim_cntFetchFail : (s.updTim f).cntFetchFail = s.cntFetchFail := rfl
@[simp] theorem updTim_log : (s.updTim f).log = s.log := rfl
@[simp] theorem updTim_nextReq : (s.updTim f).nextReq = s.nextReq := rfl
@[simp] theorem updTim_acceptCtr : (s.updTim f).acceptCtr = s.acceptCtr := rfl
@[simp] theorem updTim_acceptTurn : (s.updTim f).acceptTurn = s.acceptTurn := rfl
@[simp] theorem updTim_badCheckers : (s.updTim f).badCheckers = s.badCheckers := rfl
@[simp] theorem updTim_tblQueue : (s.updTim f).tblQueue = s.tblQueue := rfl
@[simp] theorem updTim_tblSeq : (s.updTim f).tblSeq = s.tblSeq := rfl
@[simp] theorem updTim_tblCoil : (s.updTim f).tblCoil = s.tblCoil := rfl
@[simp] theorem updTim_tblPark : (s.updTim f).tblPark = s.tblPark := rfl
@[simp] theorem updTim_timeNs : (s.updTim f).timeNs = s.timeNs := rfl
@[simp] theorem updTim_hif : (s.updTim f).hif = s.hif := rfl
@[simp] theorem updTim_darit : (s.updTim f).darit = s.darit := rfl
@[simp] theorem updTim_slots : (s.updTim f).slots = s.slots := rfl
@[simp] theorem updTim_edgeFenced : (s.updTim f).edgeFenced = s.edgeFenced := rfl
@[simp] theorem updTim_segFenced : (s.updTim f).segFenced = s.segFenced := rfl
@[simp] theorem updTim_smp : (s.updTim f).smp = s.smp := rfl
@[simp] theorem updTim_lanesFenced : (s.updTim f).lanesFenced = s.lanesFenced := rfl
@[simp] theorem updTim_smpTurn : (s.updTim f).smpTurn = s.smpTurn := rfl
@[simp] theorem updTim_fls : (s.updTim f).fls = s.fls := rfl
@[simp] theorem updTim_tim : (s.updTim f).tim = f s.tim := rfl
@[simp] theorem updTim_pwr : (s.updTim f).pwr = s.pwr := rfl
@[simp] theorem updTim_svc : (s.updTim f).svc = s.svc := rfl
@[simp] theorem updTim_reply : (s.updTim f).reply = s.reply := rfl
@[simp] theorem updTim_freshCtr : (s.updTim f).freshCtr = s.freshCtr := rfl
@[simp] theorem updTim_pending : (s.updTim f).pending = s.pending := rfl
end

/-! ## updDarit -/

section
variable (s : State) (f : Darit → Darit)
@[simp] theorem updDarit_cores : (s.updDarit f).cores = s.cores := rfl
@[simp] theorem updDarit_argMaps : (s.updDarit f).argMaps = s.argMaps := rfl
@[simp] theorem updDarit_regions : (s.updDarit f).regions = s.regions := rfl
@[simp] theorem updDarit_coreStore : (s.updDarit f).coreStore = s.coreStore := rfl
@[simp] theorem updDarit_accMem : (s.updDarit f).accMem = s.accMem := rfl
@[simp] theorem updDarit_regionMem : (s.updDarit f).regionMem = s.regionMem := rfl
@[simp] theorem updDarit_stacked : (s.updDarit f).stacked = s.stacked := rfl
@[simp] theorem updDarit_hostMem : (s.updDarit f).hostMem = s.hostMem := rfl
@[simp] theorem updDarit_ctxs : (s.updDarit f).ctxs = s.ctxs := rfl
@[simp] theorem updDarit_queues : (s.updDarit f).queues = s.queues := rfl
@[simp] theorem updDarit_queueGens : (s.updDarit f).queueGens = s.queueGens := rfl
@[simp] theorem updDarit_cmds : (s.updDarit f).cmds = s.cmds := rfl
@[simp] theorem updDarit_copyA : (s.updDarit f).copyA = s.copyA := rfl
@[simp] theorem updDarit_copyB : (s.updDarit f).copyB = s.copyB := rfl
@[simp] theorem updDarit_seqs : (s.updDarit f).seqs = s.seqs := rfl
@[simp] theorem updDarit_coils : (s.updDarit f).coils = s.coils := rfl
@[simp] theorem updDarit_mbox : (s.updDarit f).mbox = s.mbox := rfl
@[simp] theorem updDarit_ageMs : (s.updDarit f).ageMs = s.ageMs := rfl
@[simp] theorem updDarit_preemptWait : (s.updDarit f).preemptWait = s.preemptWait := rfl
@[simp] theorem updDarit_epochs : (s.updDarit f).epochs = s.epochs := rfl
@[simp] theorem updDarit_fabric : (s.updDarit f).fabric = s.fabric := rfl
@[simp] theorem updDarit_acctWait : (s.updDarit f).acctWait = s.acctWait := rfl
@[simp] theorem updDarit_acctPreempt : (s.updDarit f).acctPreempt = s.acctPreempt := rfl
@[simp] theorem updDarit_acctKernels : (s.updDarit f).acctKernels = s.acctKernels := rfl
@[simp] theorem updDarit_acctEnergy : (s.updDarit f).acctEnergy = s.acctEnergy := rfl
@[simp] theorem updDarit_cntDbIgnored : (s.updDarit f).cntDbIgnored = s.cntDbIgnored := rfl
@[simp] theorem updDarit_cntFetchFail : (s.updDarit f).cntFetchFail = s.cntFetchFail := rfl
@[simp] theorem updDarit_log : (s.updDarit f).log = s.log := rfl
@[simp] theorem updDarit_nextReq : (s.updDarit f).nextReq = s.nextReq := rfl
@[simp] theorem updDarit_acceptCtr : (s.updDarit f).acceptCtr = s.acceptCtr := rfl
@[simp] theorem updDarit_acceptTurn : (s.updDarit f).acceptTurn = s.acceptTurn := rfl
@[simp] theorem updDarit_badCheckers : (s.updDarit f).badCheckers = s.badCheckers := rfl
@[simp] theorem updDarit_tblQueue : (s.updDarit f).tblQueue = s.tblQueue := rfl
@[simp] theorem updDarit_tblSeq : (s.updDarit f).tblSeq = s.tblSeq := rfl
@[simp] theorem updDarit_tblCoil : (s.updDarit f).tblCoil = s.tblCoil := rfl
@[simp] theorem updDarit_tblPark : (s.updDarit f).tblPark = s.tblPark := rfl
@[simp] theorem updDarit_timeNs : (s.updDarit f).timeNs = s.timeNs := rfl
@[simp] theorem updDarit_hif : (s.updDarit f).hif = s.hif := rfl
@[simp] theorem updDarit_darit : (s.updDarit f).darit = f s.darit := rfl
@[simp] theorem updDarit_slots : (s.updDarit f).slots = s.slots := rfl
@[simp] theorem updDarit_edgeFenced : (s.updDarit f).edgeFenced = s.edgeFenced := rfl
@[simp] theorem updDarit_segFenced : (s.updDarit f).segFenced = s.segFenced := rfl
@[simp] theorem updDarit_smp : (s.updDarit f).smp = s.smp := rfl
@[simp] theorem updDarit_lanesFenced : (s.updDarit f).lanesFenced = s.lanesFenced := rfl
@[simp] theorem updDarit_smpTurn : (s.updDarit f).smpTurn = s.smpTurn := rfl
@[simp] theorem updDarit_fls : (s.updDarit f).fls = s.fls := rfl
@[simp] theorem updDarit_tim : (s.updDarit f).tim = s.tim := rfl
@[simp] theorem updDarit_pwr : (s.updDarit f).pwr = s.pwr := rfl
@[simp] theorem updDarit_svc : (s.updDarit f).svc = s.svc := rfl
@[simp] theorem updDarit_reply : (s.updDarit f).reply = s.reply := rfl
@[simp] theorem updDarit_freshCtr : (s.updDarit f).freshCtr = s.freshCtr := rfl
@[simp] theorem updDarit_pending : (s.updDarit f).pending = s.pending := rfl
end

/-! ## updSmp -/

section
variable (s : State) (q : SampleQ) (f : SmpQueue → SmpQueue)
@[simp] theorem updSmp_cores : (s.updSmp q f).cores = s.cores := rfl
@[simp] theorem updSmp_argMaps : (s.updSmp q f).argMaps = s.argMaps := rfl
@[simp] theorem updSmp_regions : (s.updSmp q f).regions = s.regions := rfl
@[simp] theorem updSmp_coreStore : (s.updSmp q f).coreStore = s.coreStore := rfl
@[simp] theorem updSmp_accMem : (s.updSmp q f).accMem = s.accMem := rfl
@[simp] theorem updSmp_regionMem : (s.updSmp q f).regionMem = s.regionMem := rfl
@[simp] theorem updSmp_stacked : (s.updSmp q f).stacked = s.stacked := rfl
@[simp] theorem updSmp_hostMem : (s.updSmp q f).hostMem = s.hostMem := rfl
@[simp] theorem updSmp_ctxs : (s.updSmp q f).ctxs = s.ctxs := rfl
@[simp] theorem updSmp_queues : (s.updSmp q f).queues = s.queues := rfl
@[simp] theorem updSmp_queueGens : (s.updSmp q f).queueGens = s.queueGens := rfl
@[simp] theorem updSmp_cmds : (s.updSmp q f).cmds = s.cmds := rfl
@[simp] theorem updSmp_copyA : (s.updSmp q f).copyA = s.copyA := rfl
@[simp] theorem updSmp_copyB : (s.updSmp q f).copyB = s.copyB := rfl
@[simp] theorem updSmp_seqs : (s.updSmp q f).seqs = s.seqs := rfl
@[simp] theorem updSmp_coils : (s.updSmp q f).coils = s.coils := rfl
@[simp] theorem updSmp_mbox : (s.updSmp q f).mbox = s.mbox := rfl
@[simp] theorem updSmp_ageMs : (s.updSmp q f).ageMs = s.ageMs := rfl
@[simp] theorem updSmp_preemptWait : (s.updSmp q f).preemptWait = s.preemptWait := rfl
@[simp] theorem updSmp_epochs : (s.updSmp q f).epochs = s.epochs := rfl
@[simp] theorem updSmp_fabric : (s.updSmp q f).fabric = s.fabric := rfl
@[simp] theorem updSmp_acctWait : (s.updSmp q f).acctWait = s.acctWait := rfl
@[simp] theorem updSmp_acctPreempt : (s.updSmp q f).acctPreempt = s.acctPreempt := rfl
@[simp] theorem updSmp_acctKernels : (s.updSmp q f).acctKernels = s.acctKernels := rfl
@[simp] theorem updSmp_acctEnergy : (s.updSmp q f).acctEnergy = s.acctEnergy := rfl
@[simp] theorem updSmp_cntDbIgnored : (s.updSmp q f).cntDbIgnored = s.cntDbIgnored := rfl
@[simp] theorem updSmp_cntFetchFail : (s.updSmp q f).cntFetchFail = s.cntFetchFail := rfl
@[simp] theorem updSmp_log : (s.updSmp q f).log = s.log := rfl
@[simp] theorem updSmp_nextReq : (s.updSmp q f).nextReq = s.nextReq := rfl
@[simp] theorem updSmp_acceptCtr : (s.updSmp q f).acceptCtr = s.acceptCtr := rfl
@[simp] theorem updSmp_acceptTurn : (s.updSmp q f).acceptTurn = s.acceptTurn := rfl
@[simp] theorem updSmp_badCheckers : (s.updSmp q f).badCheckers = s.badCheckers := rfl
@[simp] theorem updSmp_tblQueue : (s.updSmp q f).tblQueue = s.tblQueue := rfl
@[simp] theorem updSmp_tblSeq : (s.updSmp q f).tblSeq = s.tblSeq := rfl
@[simp] theorem updSmp_tblCoil : (s.updSmp q f).tblCoil = s.tblCoil := rfl
@[simp] theorem updSmp_tblPark : (s.updSmp q f).tblPark = s.tblPark := rfl
@[simp] theorem updSmp_timeNs : (s.updSmp q f).timeNs = s.timeNs := rfl
@[simp] theorem updSmp_hif : (s.updSmp q f).hif = s.hif := rfl
@[simp] theorem updSmp_darit : (s.updSmp q f).darit = s.darit := rfl
@[simp] theorem updSmp_slots : (s.updSmp q f).slots = s.slots := rfl
@[simp] theorem updSmp_edgeFenced : (s.updSmp q f).edgeFenced = s.edgeFenced := rfl
@[simp] theorem updSmp_segFenced : (s.updSmp q f).segFenced = s.segFenced := rfl
@[simp] theorem updSmp_lanesFenced : (s.updSmp q f).lanesFenced = s.lanesFenced := rfl
@[simp] theorem updSmp_smpTurn : (s.updSmp q f).smpTurn = s.smpTurn := rfl
@[simp] theorem updSmp_fls : (s.updSmp q f).fls = s.fls := rfl
@[simp] theorem updSmp_tim : (s.updSmp q f).tim = s.tim := rfl
@[simp] theorem updSmp_pwr : (s.updSmp q f).pwr = s.pwr := rfl
@[simp] theorem updSmp_svc : (s.updSmp q f).svc = s.svc := rfl
@[simp] theorem updSmp_reply : (s.updSmp q f).reply = s.reply := rfl
@[simp] theorem updSmp_freshCtr : (s.updSmp q f).freshCtr = s.freshCtr := rfl
@[simp] theorem updSmp_pending : (s.updSmp q f).pending = s.pending := rfl
end

end Sys2Proof.Machine.State
end

