-- ==== Sys2Proof/Laws/Ops.lean ====
section
/-! SUPPORT. What the shared operations can do: the log and its messages, the notes of reads, writes of the tiers, the parts' entries. -/

namespace Sys2Proof.Machine

/-! ## Parts and their updates -/

theorem partIndex_inj {p q : Part} (h : partIndex p = partIndex q) : p = q := by
  cases p <;> cases q <;> simp only [partIndex, Fin.mk.injEq] at h <;>
    first
      | (congr 1; exact Fin.ext (by omega))
      | (rename_i a b; have := a.isLt; have := b.isLt; omega)

@[simp] theorem part_updPart_self (s : State) (p : Part) (f : EpochEntry → EpochEntry) : (s.updPart p f).part p = f (s.part p) := by
  simp [State.part, State.updPart]

theorem part_updPart_other (s : State) {p q : Part} (h : q ≠ p) (f : EpochEntry → EpochEntry) : (s.updPart p f).part q = s.part q := by
  have : (partIndex p).val ≠ (partIndex q).val := fun e => h (partIndex_inj (Fin.ext e)).symm
  simp [State.part, State.updPart, this]

/-! ## The error log and the ports' messages -/

/-- A message touches its own port's interface alone. -/
theorem msix_frame (s : State) (h : HostPort) (vec : Nat) : s.msix h vec = { s with hif := (s.msix h vec).hif } := rfl

theorem msix_other (s : State) {h h' : HostPort} (ne : h'.val ≠ h.val) (vec : Nat) : (s.msix h vec).hif[h'] = s.hif[h'] := by
  simp [State.msix, State.updHif, ne.symm]

theorem portEvent_frame (s : State) (h : HostPort) (b : Fin 4) : s.portEvent h b = { s with hif := (s.portEvent h b).hif } := by
  unfold State.portEvent; dsimp only; split <;> rfl

/-- A record leaves everything but the log and the ports' interfaces. -/
theorem logEv_frame (s : State) (a : LogArgs) : s.logEv a = { s with log := (s.logEv a).log, hif := (s.logEv a).hif } := by
  unfold State.logEv
  dsimp only
  split
  · rfl
  · rw [portEvent_frame (s.portEvent 0 3), portEvent_frame s]

/-- A record without a status leaves the interfaces too. -/
theorem logEv_frame_quiet (s : State) {a : LogArgs} (h : a.status = 0) : s.logEv a = { s with log := (s.logEv a).log } := by
  unfold State.logEv; rw [if_pos h]

theorem portEvent_log (s : State) (h : HostPort) (b : Fin 4) : (s.portEvent h b).log = s.log := by rw [portEvent_frame]
theorem portEvent_timeNs (s : State) (h : HostPort) (b : Fin 4) : (s.portEvent h b).timeNs = s.timeNs := by rw [portEvent_frame]

/-- The record that `logEv` writes goes to the front of the log; the log keeps 8,192. -/
theorem logEv_recs (s : State) (a : LogArgs) : (s.logEv a).log.recs = List.take 8192
    ({ timeNs := s.timeNs, number := s.log.head.toNat, status := a.status, cause := a.cause, source := a.source, writing := false,
       unit := a.unit, ctx := a.ctx, epoch := a.epoch, bit := a.bit, address := a.address % 2 ^ 48 } :: s.log.recs) := by
  unfold State.logEv
  dsimp only
  split <;> simp [portEvent_log, portEvent_timeNs]

theorem logEv_head (s : State) (a : LogArgs) : (s.logEv a).log.head = s.log.head + 1 := by
  unfold State.logEv
  dsimp only
  split <;> simp [portEvent_log]

theorem logEv_length (s : State) (a : LogArgs) : (s.logEv a).log.recs.length ≤ 8192 := by
  rw [logEv_recs]; simp [List.length_take]

theorem logLimited_frame (s : State) (key max : Nat) (a : LogArgs) :
    s.logLimited key max a = { s with log := (s.logLimited key max a).log, hif := (s.logLimited key max a).hif } := by
  unfold State.logLimited
  dsimp only
  split
  · rw [logEv_frame]
  · rfl

theorem logLimited_length (s : State) (key max : Nat) (a : LogArgs) (h : s.log.recs.length ≤ 8192) :
    (s.logLimited key max a).log.recs.length ≤ 8192 := by
  unfold State.logLimited
  dsimp only
  split
  · exact logEv_length s a
  · exact h

theorem setPower_frame (s : State) (code : Nat) :
    s.setPower code = { s with pwr := { s.pwr with current := code }, log := (s.setPower code).log } := by
  unfold State.setPower
  split
  · rename_i h; subst h; rfl
  · unfold State.logPower; rw [logEv_frame_quiet _ rfl]; rfl

/-! ## The notes of reads -/

/-- What the notes of reads may touch: counts, the log, its messages, and blocks of stacked memory that a row repair mends. -/
def NotesOnly (s t : State) : Prop :=
  t = { s with regions := t.regions, log := t.log, hif := t.hif, stacked := t.stacked } ∧ (s.stacked.wf = true → t.stacked.wf = true)

theorem NotesOnly.of_eq {s t : State} (h : t = { s with regions := t.regions, log := t.log, hif := t.hif }) : NotesOnly s t := by
  refine ⟨?_, fun w => ?_⟩
  · rw [h]
  · rw [h]; exact w

theorem NotesOnly.refl (s : State) : NotesOnly s s := .of_eq rfl

theorem NotesOnly.trans {s t u : State} (a : NotesOnly s t) (b : NotesOnly t u) : NotesOnly s u :=
  ⟨by rw [b.1, a.1], fun w => b.2 (a.2 w)⟩

theorem NotesOnly.updRegion (s : State) (g : RegionId) (f : Region → Region) : NotesOnly s (s.updRegion g f) := .of_eq rfl
theorem NotesOnly.updCnt (s : State) (g : RegionId) (f : RegionCnt → RegionCnt) : NotesOnly s (s.updCnt g f) := .of_eq rfl

theorem NotesOnly.logEv (s : State) (a : LogArgs) : NotesOnly s (s.logEv a) := .of_eq (by rw [logEv_frame])

theorem NotesOnly.logLimited (s : State) (key max : Nat) (a : LogArgs) : NotesOnly s (s.logLimited key max a) :=
  .of_eq (by rw [logLimited_frame])

theorem NotesOnly.foldl {β : Type} (f : State → β → State) (hf : ∀ s b, NotesOnly s (f s b)) (l : List β) (s : State) :
    NotesOnly s (l.foldl f s) := by
  induction l generalizing s with
  | nil => exact .refl s
  | cons b l ih => exact (hf s b).trans (ih (f s b))

theorem mendStacked_notes (s : State) (b : Nat) : NotesOnly s (s.mendStacked b) := by
  unfold State.mendStacked
  split
  · split
    · exact ⟨rfl, fun w => Ram.putBlock_wf w b (by simp [leBytes])⟩
    · split
      · exact ⟨rfl, fun w => Ram.wf_erase w b⟩
      · exact .refl s
  · exact .refl s

theorem mendRow_notes (s : State) (row : Nat) : NotesOnly s (s.mendRow row) := NotesOnly.foldl _ mendStacked_notes _ s

theorem repairRow_notes (s : State) (g : RegionId) (addr : Nat) : NotesOnly s (s.repairRow g addr) := by
  unfold State.repairRow
  dsimp only
  split
  · exact .refl s
  · split
    · exact ((mendRow_notes s _).trans (.updRegion _ g _)).trans (.logEv _ _)
    · exact .logEv _ _

theorem rowError_notes (s : State) (g : RegionId) (addr : Nat) : NotesOnly s (s.rowError g addr) := by
  unfold State.rowError
  dsimp only
  split
  · exact (NotesOnly.updRegion s g _).trans (repairRow_notes _ _ _)
  · exact .updRegion s g _

theorem noteBlockBy_notes (s : State) (src unit : Nat) (l : Loc) (c : Checked) : NotesOnly s (s.noteBlockBy src unit l c) := by
  unfold State.noteBlockBy
  cases c with
  | clean _ => exact .refl s
  | corrected _ b =>
    dsimp only
    split
    · exact (NotesOnly.updCnt s _ _).trans (.logLimited _ _ _ _)
    · exact ((NotesOnly.updCnt s _ _).trans (.logLimited _ _ _ _)).trans (rowError_notes _ _ _)
  | unwritten => exact .logEv _ _
  | error =>
    dsimp only
    split
    · exact (NotesOnly.updCnt s _ _).trans (.logEv _ _)
    · exact ((NotesOnly.updCnt s _ _).trans (.logEv _ _)).trans (repairRow_notes _ _ _)

theorem noteBlock_notes (s : State) (l : Loc) (c : Checked) : NotesOnly s (s.noteBlock l c) := noteBlockBy_notes s _ _ l c

/-- Reading notes counts, the log and the messages of the log, and mends blocks of a repaired row. -/
theorem noteRead_notes (s : State) (l : Loc) (len : Nat) : NotesOnly s (s.noteRead l len) := by
  unfold State.noteRead
  split
  · dsimp only
    split
    · exact (NotesOnly.foldl _ (fun s e => noteBlock_notes s _ _) _ s).trans (.updCnt _ _ _)
    · exact NotesOnly.foldl _ (fun s e => noteBlock_notes s _ _) _ s
  · exact .refl s

theorem noteParts_notes (s : State) (l : Loc) (bs : List Nat) : NotesOnly s (s.noteParts l bs) := by
  unfold State.noteParts
  split
  · exact NotesOnly.foldl _ (fun s b => noteBlock_notes s _ _) _ s
  · exact .refl s

/-- What a failing access leaves: counts, the log and its messages. -/
theorem noteErr_notes (s : State) (n : ErrNote) : NotesOnly s (s.noteErr n) := by
  cases n with
  | none => exact .refl s
  | xlate ctx va => exact .logEv _ _
  | read l len => exact noteRead_notes s l len
  | part l bs => exact noteParts_notes s l bs

theorem cacheFill_notes (s : State) (g : RegionId) (ctx va : Nat) : NotesOnly s (s.cacheFill g ctx va) := by
  unfold State.cacheFill
  repeat' split
  all_goals first | exact .refl s | exact .updRegion s g _

theorem noteVirt_notes (s : State) (g : Option RegionId) (ctx va len : Nat) : NotesOnly s (s.noteVirt g ctx va len) := by
  unfold State.noteVirt
  split
  · exact .refl s
  · rename_i ls _
    have h := NotesOnly.foldl (fun (s : State) (l : Loc × Nat) => s.noteRead l.1 l.2) (fun s l => noteRead_notes s l.1 l.2) ls s
    dsimp only
    split
    · exact h.trans (NotesOnly.foldl _ (fun s p => cacheFill_notes s _ _ _) _ _)
    · exact h

theorem NotesOnly.memories {s t : State} (h : NotesOnly s t) (w : memoriesWf s = true) : memoriesWf t = true := by
  obtain ⟨e, k⟩ := h
  rw [e]
  simp only [memoriesWf, Bool.and_eq_true] at w ⊢
  simp only [w, and_self, k w.1.1.1.1.2]

/-! ## Writes of the tiers -/

/-- What a write of the tiers may touch. -/
def TiersOnly (s t : State) : Prop :=
  t = { s with coreStore := t.coreStore, accMem := t.accMem, regionMem := t.regionMem, stacked := t.stacked, hostMem := t.hostMem,
               regions := t.regions, log := t.log, hif := t.hif }

theorem TiersOnly.refl (s : State) : TiersOnly s s := rfl

theorem TiersOnly.trans {s t u : State} (a : TiersOnly s t) (b : TiersOnly t u) : TiersOnly s u := by
  unfold TiersOnly at *; rw [b, a]

theorem NotesOnly.tiers {s t : State} (h : NotesOnly s t) : TiersOnly s t := by
  unfold TiersOnly; rw [h.1]

theorem putRam_tiers (s : State) (l : Loc) (m : Ram) : TiersOnly s (s.putRam l m) := by cases l <;> rfl

theorem ramOf_wf {s : State} (h : memoriesWf s = true) {l : Loc} {m : Ram} {a : Nat} (e : s.ramOf l = some (m, a)) : m.wf = true := by
  simp [memoriesWf] at h
  cases l <;> simp [State.ramOf] at e <;> obtain ⟨rfl, _⟩ := e <;> simp [h]

theorem putRam_wf {s : State} (h : memoriesWf s = true) (l : Loc) {m : Ram} (hm : m.wf = true) : memoriesWf (s.putRam l m) = true := by
  simp [memoriesWf] at h ⊢
  cases l <;> simp [State.putRam, h, hm]

/-- A bind that answers: its first part answered. -/
theorem bind_ok {ε α β : Type} {x : Except ε α} {f : α → Except ε β} {b : β} (h : (x >>= f) = .ok b) : ∃ a, x = .ok a ∧ f a = .ok b := by
  cases x with
  | error e => exact nomatch h
  | ok a => exact ⟨a, rfl, h⟩

theorem countWrites_notes (s : State) (l : Loc) (ps : List (Nat × List Byte)) : NotesOnly s (s.countWrites l ps) := by
  unfold State.countWrites
  split
  · exact NotesOnly.foldl _ (fun s p => .updCnt s _ _) _ s
  · exact .refl s

/-- A write that answers: to a host's memory, or the notes of the blocks it reads first, its RAM written, its units counted. -/
theorem writeLoc_cases {s t : State} {l : Loc} {bs : List Byte} (e : s.writeLoc l bs = .ok t) :
    (∃ h, t = { s with hostMem := h } ∧ (spaceWf s.hostMem = true → spaceWf h = true))
    ∨ (∃ m a m', (s.noteParts l (partBlocks l.addr bs.length)).ramOf l = some (m, a) ∧ m.write a bs = some m'
        ∧ t = ((s.noteParts l (partBlocks l.addr bs.length)).putRam l m').countWrites l [(a, bs)]) := by
  unfold State.writeLoc at e
  dsimp only at e
  repeat' split at e
  all_goals cases e
  · exact .inl ⟨_, rfl, fun w => spaceWrite_wf w _ _⟩
  all_goals exact .inr ⟨_, _, _, ‹_›, ‹_›, rfl⟩

theorem writeLoc_tiers {s t : State} {l : Loc} {bs : List Byte} (e : s.writeLoc l bs = .ok t) : TiersOnly s t := by
  obtain ⟨h, rfl, _⟩ | ⟨m, a, m', _, _, rfl⟩ := writeLoc_cases e
  · rfl
  · exact ((noteParts_notes s _ _).tiers.trans (putRam_tiers _ _ _)).trans (countWrites_notes _ _ _).tiers

/-- A write keeps every memory canonical. -/
theorem writeLoc_wf {s t : State} (h : memoriesWf s = true) {l : Loc} {bs : List Byte} (e : s.writeLoc l bs = .ok t) : memoriesWf t = true := by
  obtain ⟨x, rfl, k⟩ | ⟨m, a, m', hm, hw, rfl⟩ := writeLoc_cases e
  · simp [memoriesWf] at h ⊢; simp [h, k]
  · have h' := (noteParts_notes s l (partBlocks l.addr bs.length)).memories h
    exact (countWrites_notes _ _ _).memories (putRam_wf h' _ (Ram.write_wf (ramOf_wf h' hm) hw))

/-- Ranges of a tier written as one: its RAM, or a host's memory. -/
theorem writePieces_cases {s t : State} {l : Loc} {ps : List (Nat × List Byte)} (e : s.writePieces l ps = .ok t) :
    (∃ m a m', (s.noteParts l (piecesPart ps)).ramOf l = some (m, a) ∧ m.writePieces ps = some m'
        ∧ t = ((s.noteParts l (piecesPart ps)).putRam l m').countWrites l ps)
    ∨ t = { s with hostMem := ps.foldl (fun h p => spaceWrite h p.1 p.2) s.hostMem } := by
  unfold State.writePieces at e
  dsimp only at e
  repeat' split at e
  all_goals cases e
  · exact .inl ⟨_, _, _, ‹_›, ‹_›, rfl⟩
  · exact .inr rfl

theorem writePieces_tiers {s t : State} {l : Loc} {ps : List (Nat × List Byte)} (e : s.writePieces l ps = .ok t) : TiersOnly s t := by
  obtain ⟨m, a, m', _, _, rfl⟩ | rfl := writePieces_cases e
  · exact ((noteParts_notes s _ _).tiers.trans (putRam_tiers _ _ _)).trans (countWrites_notes _ _ _).tiers
  · rfl

theorem foldl_spaceWrite_wf (ps : List (Nat × List Byte)) (c : List Host.Cell) (h : spaceWf c = true) :
    spaceWf (ps.foldl (fun h p => spaceWrite h p.1 p.2) c) = true := by
  induction ps generalizing c with
  | nil => exact h
  | cons p ps ih => exact ih _ (spaceWrite_wf h _ _)

theorem writePieces_wf {s t : State} (h : memoriesWf s = true) {l : Loc} {ps : List (Nat × List Byte)} (e : s.writePieces l ps = .ok t) :
    memoriesWf t = true := by
  obtain ⟨m, a, m', hm, hw, rfl⟩ | rfl := writePieces_cases e
  · have h' := (noteParts_notes s l (piecesPart ps)).memories h
    exact (countWrites_notes _ _ _).memories (putRam_wf h' _ (Ram.writePieces_wf (ramOf_wf h' hm) hw))
  · simp [memoriesWf] at h ⊢; simp [h, foldl_spaceWrite_wf]

/-- Several ranges written as one are written tier by tier. -/
theorem writeAll_steps {s t : State} {ws : List (Loc × List Byte)} (e : s.writeAll ws = .ok t) :
    ∃ s1 s2 s3 s4 p1 p2 p3 p4 p5, s.writePieces (.core 0) p1 = .ok s1 ∧ s1.writePieces (.acc 0) p2 = .ok s2
      ∧ s2.writePieces (.region 0) p3 = .ok s3 ∧ s3.writePieces (.stacked 0) p4 = .ok s4 ∧ s4.writePieces (.host 0 0) p5 = .ok t := by
  unfold State.writeAll at e
  split at e
  · exact nomatch e
  · obtain ⟨s1, h1, e⟩ := bind_ok e
    obtain ⟨s2, h2, e⟩ := bind_ok e
    obtain ⟨s3, h3, e⟩ := bind_ok e
    obtain ⟨s4, h4, h5⟩ := bind_ok e
    exact ⟨s1, s2, s3, s4, _, _, _, _, _, h1, h2, h3, h4, h5⟩

/-- Several ranges written as one touch the tiers alone and keep them canonical. -/
theorem writeAll_tiers {s t : State} {ws : List (Loc × List Byte)} (e : s.writeAll ws = .ok t) : TiersOnly s t := by
  obtain ⟨s1, s2, s3, s4, p1, p2, p3, p4, p5, h1, h2, h3, h4, h5⟩ := writeAll_steps e
  exact (((writePieces_tiers h1).trans (writePieces_tiers h2)).trans (writePieces_tiers h3)).trans
    ((writePieces_tiers h4).trans (writePieces_tiers h5))

theorem writeAll_wf {s t : State} (h : memoriesWf s = true) {ws : List (Loc × List Byte)} (e : s.writeAll ws = .ok t) : memoriesWf t = true := by
  obtain ⟨s1, s2, s3, s4, p1, p2, p3, p4, p5, h1, h2, h3, h4, h5⟩ := writeAll_steps e
  exact writePieces_wf (writePieces_wf (writePieces_wf (writePieces_wf (writePieces_wf h h1) h2) h3) h4) h5

theorem writeVirt_tiers {s t : State} {g : Option RegionId} {ctx va : Nat} {bs : List Byte} (e : s.writeVirt g ctx va bs = .ok t) :
    TiersOnly s t := by
  obtain ⟨ls, _, e⟩ := bind_ok e
  exact writeAll_tiers e

theorem writeVirt_wf {s t : State} (h : memoriesWf s = true) {g : Option RegionId} {ctx va : Nat} {bs : List Byte}
    (e : s.writeVirt g ctx va bs = .ok t) : memoriesWf t = true := by
  obtain ⟨ls, _, e⟩ := bind_ok e
  exact writeAll_wf h e

end Sys2Proof.Machine
end

