-- ==== Sys2Proof/WellFormed.lean ====
section
/-! DEFINITION. Operands that the block's surroundings can present: ranges that the manual gives the things a command names. -/

namespace Sys2Proof

/-- Queue ids are below 2^20 (R299). -/
def queueOk (q : Nat) : Bool := decide (q < 1048576)

/-- An access is 1, 2, 4 or 8 bytes wide. -/
def widthOk (w : Nat) : Bool := w == 1 || w == 2 || w == 4 || w == 8

/-- Coil ids are below 2^18 (R219). -/
def coilOk (c : Nat) : Bool := decide (c < 262144)

/-- A training observation names 17 logical lanes and a port 0 to 7 (R372, R385). -/
def trainOk (o : TrainObs) : Bool := o.map.length == 17 && o.map.all (fun l => decide (l < 17)) && decide (o.peerPort < 8)

/-- Nodes are below 4,096 (R374). -/
def frameOk (f : Frame) : Bool := decide (f.src < 4096) && decide (f.dst < 4096)

/-- The queue of a reader is one that can exist. -/
def readerOk : HostReader → Bool
  | .command q _ => queueOk q
  | .fetch q => queueOk q
  | .mailbox => true

/-- A command's operands are in range. -/
def Instr.wf : Instr → Bool
  | .doorbell _ q w _ => queueOk q && widthOk w
  | .commandAccept q => queueOk q
  | .commandFetchRetry q => queueOk q
  | .dispatchAgeing q _ => queueOk q
  | .kernel q _ => queueOk q
  | .instancePlacement q _ => queueOk q
  | .preemptionDecision q _ => queueOk q
  | .copy q _ => queueOk q
  | .fill q _ => queueOk q
  | .fork q _ => queueOk q
  | .cull q _ => queueOk q
  | .roundRun q _ => queueOk q
  | .roundPark q _ => queueOk q
  | .roundUnpark q _ => queueOk q
  | .roundConfig q _ => queueOk q
  | .roundClose q _ => queueOk q
  | .fence q _ => queueOk q
  | .signal q _ => queueOk q
  | .wait q _ => queueOk q
  | .waitRecheck q _ => queueOk q
  | .waitTimeout q _ => queueOk q
  | .hint q _ => queueOk q
  | .snapshot q _ => queueOk q
  | .commandCommit q _ => queueOk q
  | .heldWriteRetry q => queueOk q
  | .hostReadCompletionTimeout _ rd => readerOk rd.who
  | .coilUnparkComplete c => coilOk c
  | .coilParkComplete c => coilOk c
  | .portTraining _ o => trainOk o
  | .frameForward _ f => frameOk f
  | .trunkStateChange node dim _ _ => decide (node < 4096) && decide (dim < 3)
  | .registerWrite _ _ w _ => widthOk w
  | .stageData _ _ _ d => decide (d.length ≤ 65536)
  | .readLog _ _ n => decide (n ≤ 2048)
  | .attest _ n => n.length == 32
  | .doeAttest _ n => n.length == 32
  | .marginAdjust sl => sl.length == 200
  | _ => true

end Sys2Proof
end

