-- ==== Sys2Proof/Tests/Slice0.lean ====
section
/-! SUPPORT. Tests: the small states they start from, the checks of WellFormed, one witness for each statement's hypotheses, single steps. -/

namespace Sys2Proof.Tests

set_option Elab.async false

open Sys2Proof Sys2Proof.Machine

/-! ## Small states -/

/-- Values put at their low bits. -/
def place (fs : List (Nat × Nat)) : Nat := (fs.map (fun f => f.2 * 2 ^ f.1)).sum

/-- A RAM with the given 32-byte blocks written, in rising order; a short block ends in zeros. -/
def ram (bs : List (Nat × List Byte)) : Ram :=
  { cells := bs.flatMap (fun b => (List.range 32).map (fun i => (b.1 + i, b.2.getD i 0))), bad := [] }

/-- Little-endian words as bytes. -/
def words (k : Nat) (ws : List Nat) : List Byte := ws.flatMap (leBytes k)

/-- Bytes cut into blocks from an address on. -/
def blocks (a : Nat) (bs : List Byte) : List (Nat × List Byte) := (List.range (ceilDiv bs.length 32)).map (fun i => (a + 32 * i, (bs.drop (32 * i)).take 32))

/-- The tables of a context whose virtual page 0 is page 1 of stack 0, page 4 region memory of region 0, page 5 host memory of port 0. -/
def tables : List (Nat × List Byte) :=
  [(0, words 8 [0x1001]), (0x1000, words 8 [0x2001]), (0x2000, words 8 [0x200003]), (0x2020, words 8 [7, 11])]

/-- Stacked memory: the tables, and blocks at virtual addresses of page 0. -/
def mapped (bs : List (Nat × List Byte)) : Ram := ram (tables ++ bs.map (fun b => (0x200000 + b.1, b.2)))

def ctxA : Ctx :=
  { admin := false, altOk := true, home := 0, maxPrio := 7, exclCores := 0, root := 0, poolTable := 0x8000, poolCount := 1, eventCount := 4,
    eventTable := 0x4000, flashBase := 0, flashBlocks := 64, paused := false }

/-- A queue of context 0 whose ring lies at 0x1000, its completion ring at 0x2000, its status block at 0x3000. -/
def queueA : Queue :=
  { ctx := 0, prio := 3, role := 3, irqEn := false, minor := 0, major := 1, depth := 4, cmdRing := 0x1000, cplRing := 0x2000,
    statusBlock := 0x3000, vector := 0, gen := 1, state := .active, accepted := 0, completed := 0, tail := 0, fetchFailed := false, held := [],
    prevOk := none }

/-- A block in READY with both host ports up, every stack in service, and context 0. -/
def ready : State :=
  { State.reset with
    svc := { Service.reset with phase := 8 }
    pwr := { Power.reset with powered := true, inletDc := 250, flowCl := 500 }
    hif := Vector.replicate 2 { Hif.reset with up := true }
    regions := Vector.replicate 12 { Region.reset with stack := .inService }
    ctxs := [(0, ctxA)]
    stacked := mapped [] }

/-- An epoch table entry changed. -/
def part (p : Part) (f : EpochEntry → EpochEntry) (s : State := ready) : State := s.updPart p f

def away (st : PartState) : EpochEntry → EpochEntry := fun e => { e with state := st }

/-! ## Kernel instructions -/

/-- A tile descriptor of literal dimensions, rows `stride` bytes apart, in core store or (space 1) in virtual memory. -/
def desc (base fmt rows cols stride : Nat) (space : Nat := 0) : W256 :=
  BitVec.ofNat 256 (place [(0, base), (48, space), (52, fmt), (64, rows), (96, cols), (128, stride)])

def insn (fs : List (Nat × Nat)) : W128 := BitVec.ofNat 128 (place fs)

/-- Core 0's slot 0 runs, with w next: descriptors from register 0 on, scalar registers as listed, 8 slot names, 64 KiB of core store. -/
def running (w : W128) (ds : List W256) (ss : List (Fin 64 × W64)) : State :=
  let s := ready.updCore 0 (fun co => { co with icache := [{ ctx := 0, image := 0, index := 0, word := w }], token := true })
  s.updSlot 0 0 (fun sl => { sl with
    state := .running
    csUnits := 1
    units := [0, 1, 2, 3, 4, 5, 6, 7]
    acc := sl.acc.map (fun a => { a with phys := some 0 })
    hdr := { length := 4, accSlots := 8, csKib := 64 }
    s := ss.foldl (fun (v : Vector W64 64) e => v.set e.1 e.2) sl.s
    t := Vector.ofFn (fun i => ds.getD i.val 0)
    ts := Vector.ofFn (fun i => if i.val < ds.length then .resident else .invalid) })

/-- A state with n bytes of core 0's core store written, the first as given. -/
def stored (s : State) (n : Nat) (bs : List Byte := []) : State :=
  { s with coreStore := ram (blocks 0 (bs ++ zeros (n - bs.length))) }

/-- A one-tap window of a one-element map. -/
def window1 : List Byte :=
  words 4 [0x10100, 0, 0, 0] ++ (List.range 3).flatMap (fun _ => words 4 [0x10001, 0x10001, 0, 0])

/-- A pool of 4-bit pages, head dimension 64, one layer and head: two blocks of lists (576 bytes each) and two pages. -/
def poolBytes : List Byte :=
  words 4 [0x07000100 + 6 * 2 ^ 16, 0x201001, 1152, 0] ++ words 8 [0xB000, 2 + 8 * 2 ^ 32, 0x9000, 0xA000, 1 + 6 * 2 ^ 32, 0]

/-- A list block with one reference and one entry, at index 0. -/
def listBlock (level : Nat) (e : Nat) : List Byte :=
  words 4 [0x0100 + level * 2 ^ 16, 1 + (if e = 0 then 0 else 1) * 2 ^ 16, 0] ++ zeros 52 ++ words 8 [e] ++ zeros 504

/-- The pool's memory: descriptor, the tree of sequence 7 (root 0, leaf 1, page 0 with one token), counts and free stacks, page 0. -/
def poolBlocks : List (Nat × List Byte) :=
  blocks 0x8000 poolBytes ++ blocks 0x9000 (listBlock 1 (2 ^ 63 + 1)) ++ blocks 0x9240 (listBlock 0 (2 ^ 63 + 2 ^ 40))
    ++ blocks 0xA000 (words 2 [1] ++ zeros 62 ++ words 4 [1] ++ zeros 60 ++ words 4 [7, 6, 5, 4, 3, 2] ++ zeros 40)
    ++ [(0xB000, []), (0xB400, [])]

def seqA : Seq :=
  { state := .live, inFlight := true, parent := none, coil := none, kvFormat := 7, ctx := 0, pool := 0, root := 0x9000, length := 1,
    framePages := 0, seed := 0, step := 0, user := 0, bad := false }

/-- A command of queue 1, number 1, of a type, in a phase. -/
def cmdA (ty : Nat) (ph : Phase) (bytes : List Byte := []) : Cmd :=
  { q := 1, n := 1, bytes := words 4 [0x0100 + ty * 2 ^ 16] ++ bytes ++ zeros (60 - bytes.length), acceptedAt := 0, acceptIdx := 0, phase := ph, status := 0, prio := 3,
    capped := false, lossy := false, counted := false, mark := false, settled := false, held := false, heldOn := none, ending := none, endLogged := false, staged := 0,
    notes := false, flags := {}, dups := 0, trap := none, hdr := {}, args := 0, insts := [], targets := [], counter := 0, home := none, bitmap := 0,
    jstep := 0, pages := [], reserved := [], paths := [], culls := [], rounds := [], desc := [], roundDone := [], outs := [], deadline := none, bannedRegions := [], saves := [] }

/-- Sequence 7 with its pool, and a command that declares it, run by slot 0. -/
def pooled (s : State) : State :=
  { s with seqs := [(7, seqA)], stacked := mapped poolBlocks, queues := [(1, queueA)]
           cmds := [{ cmdA tyKernel .dispatched with targets := [7], insts := [{ index := 0, placed := some (0, 0), resume := 0, ended := false, flags := {} }] }] }.updSlot 0 0
    (fun sl => { sl with cmd := some (1, 1) })

/-- A pool like poolBytes's in a host's memory, whose unlisted bytes are zero: the tree of sequence 7 is empty but for the bytes given, and its
command has page 0. -/
def hostPool (s : State) (tree : List (Nat × Byte)) : State :=
  let desc := words 4 [0x07000100 + 6 * 2 ^ 16, 0x201001, 1152, 0] ++ words 8 [0xA0B000, 2 + 8 * 2 ^ 32, 0xA09000, 0xA0A000, 1 + 6 * 2 ^ 32, 0]
  { s with
    ctxs := [(0, { ctxA with poolTable := 0xA00000 })]
    seqs := [(7, { seqA with root := 0xA09000 })]
    queues := [(1, queueA)]
    cmds := [{ cmdA tyKernel .dispatched with
      targets := [7], insts := [{ index := 0, placed := some (0, 0), resume := 0, ended := false, flags := {} }]
      paths := [(7, 0, 0)], pages := [{ seq := 7, lh := 0, pn := 0, page := 0, taken := true, keys := [], values := [] }] }]
    hostMem := ((List.range 64).zip desc).filter (fun (e : Nat × Byte) => e.2 != 0) ++ tree }.updSlot 0 0 (fun sl => { sl with cmd := some (1, 1) })

def bf16Tile (base rows cols : Nat) : W256 := desc base 2 rows cols (ceilDiv (2 * cols) 16 * 16)
def fp32Tile (base rows cols : Nat) : W256 := desc base 0 rows cols (ceilDiv (4 * cols) 16 * 16)

/-- One state for each row that an engine executes, its instruction next in core 0's slot 0. -/
def engineStates : List (RowKind × Engine × W128 × State) :=
  let a16 := bf16Tile 0 1 16
  let b16 := bf16Tile 32 1 16
  let one (r : RowKind) (e : Engine) (w : W128) (s : State) : RowKind × Engine × W128 × State := (r, e, w, s)
  let go (r : RowKind) (e : Engine) (fs : List (Nat × Nat)) (ds : List W256) (ss : List (Fin 64 × W64)) (f : State → State) :=
    one r e (insn fs) (f (running (insn fs) ds ss))
  [ go .ldt .mover [(0, 0x040), (21, 1)] [a16, b16] [] (stored · 64),
    go .ldtGather .mover [(0, 0x040), (56, 1), (64, 10), (70, 12), (82, 11)]
      [BitVec.ofNat 256 (place [(52, 7), (64, 1), (96, 64), (128, 32), (160, 16), (192, 64)])] [(10, 7), (11, 1)]
      (fun s => hostPool (stored s 96) [(0x9040, 1), (0x9047, 0x80), (0x9285, 1), (0x9287, 0x80)]),
    go .ldtWindow .mover [(0, 0x040), (56, 2), (21, 1), (64, 10), (70, 11)] [desc 64 2 1 1 16, desc 80 2 1 1 16] [] (stored · 96 window1),
    go .stt .mover [(0, 0x041), (21, 1)] [a16, b16] [] (stored · 64),
    go .sttContrib .mover [(0, 0x041), (56, 1), (21, 1), (64, 10), (70, 11)] [fp32Tile 0 1 4, desc 0x6000 0 1 4 16 1] [(11, 0x7000)] (stored · 32),
    go .movt .mover [(0, 0x042), (21, 1)] [a16, b16] [] id,
    go .kvapp .mover [(0, 0x048), (64, 10), (70, 12), (82, 11)] [bf16Tile 0 1 64] [(10, 7), (11, 1)] (fun s => hostPool (stored s 128) []),
    go .vopTile .vector [(0, 0x080), (56, 1), (21, 1), (31, 0)] [a16, b16] [] (stored · 64),
    go .window .vector [(0, 0x080), (56, 0x10), (21, 1), (31, 0), (64, 10), (70, 11)] [desc 64 2 1 1 16, desc 80 2 1 1 16] []
      (stored · 96 window1),
    go .norm .vector [(0, 0x081), (21, 1), (36, 2)] [a16, b16, fp32Tile 64 1 2] [] (stored · 96),
    go .measure .vector [(0, 0x082), (56, 3), (21, 1)] [a16, fp32Tile 32 1 1] [] (stored · 64),
    go .cast .vector [(0, 0x083), (21, 1)] [a16, b16] [] (stored · 64),
    go .rot .vector [(0, 0x084), (21, 1)] [bf16Tile 0 1 32, bf16Tile 64 1 32] [] (stored · 128),
    go .argmax .vector [(0, 0x088), (21, 1)] [a16, desc 32 8 1 1 16] [] (stored · 64),
    go .gumbel .vector [(0, 0x089), (21, 1), (64, 10), (96, 0x3F800000)] [bf16Tile 0 1 1, fp32Tile 32 1 1] [(10, 7)]
      (fun s => { stored s 64 with seqs := [(7, seqA)] }),
    go .mma .anvil [(0, 0x100), (26, 0), (31, 1), (48, 1)] [bf16Tile 0 1 1, bf16Tile 32 1 1] [] (stored · 64),
    go .mma3 .anvil [(0, 0x101), (31, 1), (48, 1)] [fp32Tile 0 1 1, fp32Tile 32 1 1] [] (stored · 64),
    go .cmma .anvil [(0, 0x102), (31, 1), (36, 0), (48, 1), (64, 1)] [bf16Tile 0 1 2, desc 32 2 2 1 16] [] (stored · 64),
    go .score .anvil [(0, 0x108), (21, 2), (31, 1), (36, 3), (96, 0x3F800000)]
      [bf16Tile 0 1 64, bf16Tile 128 1 64, bf16Tile 256 1 1, fp32Tile 288 1 2] [] (stored · 320),
    go .step .anvil [(0, 0x110), (56, 1), (31, 1), (52, 1), (64, 10), (70, 10)] [bf16Tile 0 1 384, desc 0 4 128 384 0] [(10, 1)]
      (stored · 768) ]

/-- States for the sequencer's own instructions: the scalar class, LD and ST, branches, FENCE, CLAIM and COMMIT. -/
def scalarState (f : Nat) (fs : List (Nat × Nat)) (ss : List (Fin 64 × W64)) : State := running (insn ([(0, 0x010), (56, f)] ++ fs)) [] ss

/-- An incomplete instruction of slot 0. -/
def inFlightA (stores : Bool := false) : InFlight :=
  { ks := 0, index := 0, age := 0, reads := [], writes := [3], accs := [], cycles := 4, macs := 0, flags := {}, req := none, stores := stores, gather := none, remote := false }

def fenceState (f : Nat) (q : List InFlight) : State :=
  let s := running (insn [(0, 0x001), (56, f)]) [] []
  ({ s with
      queues := [(1, queueA)]
      cmds := [{ cmdA tyKernel .dispatched with insts := [{ index := 0, placed := some (0, 0), resume := 0, ended := false, flags := {} }] }] }.updCore 0
    (fun co => { co with movQ := q })).updSlot 0 0 (fun sl => { sl with cmd := some (1, 1) })

/-- CLAIM or COMMIT with a counter block at 0x6000 and a bitmap at 0x7000. -/
def atomState (fs : List (Nat × Nat)) (a : W64) : State :=
  (running (insn fs) [] [(8, a)]).updSlot 0 0 (fun sl => { sl with counter := 0x6000, bitmap := 0x7000 })

def scalarStates : List State :=
  (List.range 0x20).map (fun f => scalarState f [(50, 9), (44, 8)] [(8, 7)])
  ++ [scalarState 0x12 [(35, 3), (44, 8), (38, 9)] [(8, 5)], scalarState 0x11 [(44, 8), (38, 9)] [(8, 5)],
      scalarState 0x90 [(35, 3), (44, 8), (64, 5)] [(8, 5)], scalarState 0x88 [(50, 9), (44, 8), (64, 65)] [(8, 0xF000000000000000)],
      scalarState 0x1F [(50, 9), (64, 65)] []]

def loadStates : List State :=
  [stored (scalarState 0x98 [(50, 9), (44, 8), (64, 8)] [(8, 16)]) 32 (words 8 [1, 2, 3, 0x1122334455667788]),
   stored (scalarState 0x99 [(44, 8), (38, 9), (64, 8)] [(8, 16), (9, 0xABCD)]) 32,
   { scalarState 0x99 [(44, 8), (38, 9), (64, 0x800000)] [(8, 16), (9, 0xABCD)] with regionMem := ram [(0, [])] },
   { scalarState 0x98 [(50, 9), (44, 8), (64, 0x800000)] [(8, 16)] with regionMem := ram [(0, words 8 [0, 0, 5])] }]

def branchStates : List State :=
  [running (insn [(0, 0x011), (64, 3)]) [] [], running (insn [(0, 0x011), (64, 4)]) [] [],
   running (insn [(0, 0x011), (56, 1), (44, 8), (64, 2)]) [] [(8, 1)], running (insn [(0, 0x011), (56, 1), (44, 8), (64, 2)]) [] [(8, 0xFFFFFFFFFFFFFFFF)]]

def fenceStates : List State :=
  [fenceState 0x04 [inFlightA], fenceState 0x03 [inFlightA], fenceState 0x1F [], fenceState 0x10 [inFlightA true], fenceState 0x20 [inFlightA],
   fenceState 0x20 [], atomState [(0, 0x002), (50, 9), (44, 8), (64, 4096)] 0x6008, atomState [(0, 0x002), (50, 9), (44, 8), (64, 4097)] 0x6008,
   atomState [(0, 0x002), (50, 9), (44, 8), (64, 1)] 0x6000, atomState [(0, 0x003), (35, 2), (44, 8), (38, 9)] 0x7000,
   atomState [(0, 0x003), (44, 8), (38, 9)] 0x7000, atomState [(0, 0x003), (44, 8), (38, 9)] 0x7001]

/-- Words that a check of R66 turns away: an unassigned opcode, a reserved bit, an undefined FUNC, an unused field; and one turned off by PNEG. -/
def checkStates : List (RowKind × State) :=
  [(.ldt, running (insn [(0, 0x040), (14, 1)]) [] []), (.mma, running (insn [(0, 0x100), (56, 1)]) [] []),
   (.fence, running (insn [(0, 0x001), (44, 1)]) [] []), (.branch, running (insn [(0, 0x011), (44, 1)]) [] []),
   (.mma, running (insn [(0, 0x100), (13, 1), (56, 1)]) [] [])]

def movtStates : List State :=
  [running (insn [(0, 0x042), (56, 0), (21, 1)]) [bf16Tile 0 1 16] [], running (insn [(0, 0x042), (56, 2), (21, 1), (64, 10), (96, 0xFFFFFFF0)]) [bf16Tile 0 1 16] [(10, 32)],
   stored (running (insn [(0, 0x042), (56, 1), (21, 1), (64, 10)]) [] []) 32 (leBytes 32 (bf16Tile 0 1 16).toNat)]

/-- A slot that stops at its next issue, and two slots that may issue, of which one has been passed over. -/
def stopStates : List State :=
  [(running (insn [(0, 0x010), (56, 0)]) [] []).updSlot 0 0 (fun sl => { sl with stop := some .preempt }),
   (running (insn [(0, 0x010), (56, 0)]) [] []).updSlot 0 0 (fun sl => { sl with stop := some .cancel }),
   let s := running (insn [(0, 0x010), (56, 0)]) [] []
   s.updCore 0 (fun co => { co with slots := co.slots.set 1 { co.slots[(0 : KsId)] with s := co.slots[(0 : KsId)].s }, passed := co.passed.set 1 64 })]

/-! ## Completions, replies, the atomic unit, queues -/

def tileDest : W256 := desc 0x6000 0 1 4 16 1

/-- A contribution of id 0 with a sequence number to the reduction slot at 0x7000. -/
def contribA (sq : Nat) : AtomReq := .contrib 5 0 0 0 (BitVec.ofNat 64 (sq * 2 ^ 32)) 0x7000 tileDest 1 4 [1, 2, 3, 4] 0

/-- A contribution of id 1 to round 1. -/
def contribB : AtomReq := .contrib 5 0 0 0 (BitVec.ofNat 64 (2 ^ 32 + 1)) 0x7000 tileDest 1 4 [1, 2, 3, 4] 0

/-- An ordered reduction slot of two contributors in round 1 with one staging entry. -/
def stageBlocks : List (Nat × List Byte) :=
  [(0x6000, []), (0x7000, words 4 [0x10100, 0x10002, 1, 0, 0x7400]), (0x7020, []), (0x7400, []), (0x7420, []), (0x7440, [])]

/-- The instruction that sent it. -/
def waiterA : InFlight := { inFlightA true with req := some 5 }

/-- Slot 0 of core 0 runs a command and region 0's atomic unit holds the requests. -/
def unitState (rs : List AtomReq) (mem : List (Nat × List Byte)) : State :=
  { (fenceState 0 [waiterA]).updRegion 0 (fun r => { r with atomQ := rs }) with stacked := mapped mem }.updSlot 0 0 (fun sl => { sl with
    atoms := [{ req := 5, age := 0, commit := false, reg := 9, tile := 0, index := 0, reply := none }] })

/-- A counter block at 0x6000 in RUN and a bitmap of 8 tiles at 0x7000. -/
def shareBlocks : List (Nat × List Byte) :=
  [(0x6000, words 4 [0x10100, 0] ++ words 8 [3, 0x7000]), (0x6020, []), (0x7000, words 4 [0x10100, 0] ++ words 8 [8]), (0x7040, leBytes 1 1)]

/-- Slot 0 is STOPPING with nothing in the engines' queues. -/
def stopping (as : List AtomWait) : State :=
  ((unitState [] []).updCore 0 (fun co => { co with movQ := [] })).updSlot 0 0 (fun sl => { sl with state := .stopping, saved := 5, atoms := as })

def unitStates : List State :=
  [unitState [.claim 5 0 0 0x6000 2] shareBlocks, unitState [.commit 5 0 0 0x7000 0] shareBlocks, unitState [.commit 5 0 0 0x7000 7] shareBlocks,
   unitState [contribA 1] [(0x6000, []), (0x7000, words 4 [0x100, 1]), (0x7020, []), (0x7040, [])],
   unitState [contribA 2] stageBlocks, unitState [contribB] stageBlocks,
   unitState [contribA 1] [(0x6000, []), (0x7000, words 4 [0x100, 1]), (0x7020, []), (0x7040, leBytes 4 1)],
   (unitState [] []).updSlot 0 0 (fun sl => { sl with retries := [(0, contribA 2)] }),
   (unitState [] []).updSlot 0 0 (fun sl => { sl with pendS := [9], atoms := [{ req := 5, age := 0, commit := false, reg := 9, tile := 0, index := 0, reply := some 3 }] }),
   (unitState [] []).updSlot 0 0 (fun sl => { sl with pendP := [2], atoms := [{ req := 5, age := 0, commit := true, reg := 2, tile := 0, index := 0, reply := some 1 }] }),
   (unitState [] []).updSlot 0 0 (fun sl => { sl with stop := some .cancel, atoms := [{ req := 5, age := 0, commit := true, reg := 2, tile := 4, index := 0, reply := some 1 }] }),
   (unitState [] []).updSlot 0 0 (fun sl => { sl with stop := some .preempt, atoms := [{ req := 5, age := 0, commit := true, reg := 0, tile := 4, index := 0, reply := some 0 }] }),
   (unitState [] []).updSlot 0 0 (fun sl => { sl with stop := some .region, atoms := [{ req := 5, age := 3, commit := true, reg := 2, tile := 4, index := 0, reply := some 1 }, { req := 6, age := 2, commit := false, reg := 9, tile := 0, index := 0, reply := none }] }),
   stopping [{ req := 5, age := 3, commit := true, reg := 2, tile := 4, index := 0, reply := some 1 }],
   (unitState [] []).updSlot 0 0 (fun sl => { sl with state := .trapped, trap := some (0x21, 2) }),
   ready.updCore 0 (fun co => { co with anvQ := [{ inFlightA with writes := [0, 31] }, { inFlightA with ks := 1 }] })]

/-- Two instances of a command in slots 0 and 1, both trapped. -/
def twoTraps : State :=
  { (((unitState [] []).updSlot 0 0 (fun sl => { sl with state := .trapped, trap := some (0x21, 2) })).updSlot 0 1 (fun sl => { sl with
      state := .trapped, trap := some (0x10, 5), cmd := some (1, 1) })) with
    cmds := [{ cmdA tyKernel .dispatched with
      insts := [{ index := 0, placed := some (0, 0), resume := 0, ended := false, flags := {} }, { index := 1, placed := some (0, 1), resume := 0, ended := false, flags := {} }] }] }

/-- Queue 1 with its ring mapped. -/
def queued (qu : Queue) (cs : List Cmd) (mem : List (Nat × List Byte) := []) : State :=
  { ready with queues := [(1, qu)], cmds := cs, copyA := some 0, copyB := some 3, stacked := mapped mem }

def ringBlocks : List (Nat × List Byte) := blocks 0x1000 (cmdA tyFence .waiting).bytes

def queueStates : List State :=
  [ready, State.reset, queued queueA [], { queued queueA [] with svc := Service.reset },
   queued { queueA with tail := 1 } [] ringBlocks, queued { queueA with tail := 1, fetchFailed := true } [] ringBlocks, queued { queueA with tail := 1 } [],
   queued { queueA with tail := 1, fetchFailed := true } [],
   queued { queueA with held := [(.accepted (cmdA tyFence .waiting).bytes, true)] } [], queued { queueA with held := [(.status, true)] } [],
   queued queueA [cmdA tyFence .waiting], queued queueA [{ cmdA tyFence .waiting with prio := 7 }],
   queued queueA [{ cmdA tyFence .waiting with bytes := words 4 [0x0200] ++ zeros 60 }], queued queueA [{ cmdA tyFence .waiting with bytes := words 4 [0x70101] ++ zeros 60 }], queued queueA [cmdA 0x0C .waiting],
   queued queueA [cmdA tyFence .waiting (zeros 12 ++ [1])], queued queueA [cmdA tyFence .waiting [1]], queued queueA [cmdA tySignal .waiting (zeros 12 ++ [9])],
   queued { queueA with accepted := 1 } [{ cmdA tyFence .ended with settled := true, mark := true }],
   queued { queueA with accepted := 1 } [cmdA tyFence .ready]]

/-! ## Commands -/

/-- A command of queue 1, number 1, with values at byte offsets. -/
def cmdW (ty : Nat) (ph : Phase) (fs : List (Nat × Nat)) : Cmd :=
  { cmdA ty ph with bytes := leBytes 64 (place ([(8, 1), (16, ty)] ++ fs.map (fun f => (8 * f.1, f.2)))) }

/-- Queue 1 with one command of it, and stacked memory. -/
def sent (cm : Cmd) (mem : List (Nat × List Byte) := []) (s : State := ready) : State :=
  { s with queues := [(1, queueA)], cmds := [cm], stacked := mapped mem }

/-- A kernel image of one instruction. -/
def imageBytes (flags csKib : Nat) : List Byte :=
  words 4 [0x01000100, flags, 1, 0, csKib, 0x01010000, 0, crc32 (zeros 16)] ++ zeros 48

def kernelA (ph : Phase) (fs : List (Nat × Nat) := []) : Cmd := cmdW tyKernel ph ([(0x10, 0x6000)] ++ fs)

def hdrA : KHeader := { length := 1, csKib := 64, minAnvils := 1, maxInst := 1 }

/-- A dispatched KERNEL command with one instance to place. -/
def openA : Cmd := { kernelA .dispatched with hdr := hdrA, insts := [{ index := 0, placed := none, resume := 0, ended := false, flags := {} }] }

/-- A granted KERNEL command with a counter block in region memory, its bitmap of 8 tiles at 0x7000. -/
def countedA : State :=
  { sent (kernelA .granted [(0x20, 0x800000)]) (blocks 0x6000 (imageBytes 0 64) ++ [(0x7000, words 4 [0x100, 0] ++ words 8 [8]), (0x7020, []), (0x7040, [])])
    with regionMem := ram [(0, words 4 [0x100, 0] ++ words 8 [0, 0x7000]), (32, [])] }

/-- A granted KERNEL command that appends to sequence 7. -/
def targetA : State :=
  { sent (kernelA .granted [(0x28, 0x6100), (0x30, 1)]) (blocks 0x6000 (imageBytes 0 64) ++ [(0x6100, [7])])
    with seqs := [(7, { seqA with inFlight := false })] }

def kernelStates : List State :=
  let img := blocks 0x6000 (imageBytes 0 64)
  [countedA, targetA, sent (kernelA .granted) (blocks 0x6000 (imageBytes 8 64)), sent (kernelA .granted) (blocks 0x6000 (imageBytes 0 63)),
   { sent (kernelA .granted) img { ready with regions := ready.regions.map (fun r => { r with roleNow := 1 }) } with queues := [(1, { queueA with role := 2 })] },
   sent openA img, sent { openA with bytes := (kernelA .waiting [(0x18, 0x6000)]).bytes, hdr := { hdrA with argBytes := 32 }, args := 0x6000 } img]

/-- Core 0's slot 0 is LOADING. -/
def loadingA : State := (running 0 [] []).updSlot 0 0 (fun sl => { sl with state := .loading, argVA := 64 })

/-- Core 0's slot 0 runs an image whose next instruction is not in the core's cache. -/
def missA (pc : Nat) : State :=
  { (running 0 [] []).updCore 0 (fun co => { co with icache := [] }) with stacked := mapped (blocks 0x6000 (imageBytes 0 64)) }.updSlot 0 0
    (fun sl => { sl with image := 0x6000, pc := pc, hdr := hdrA })

/-- A KERNEL of priority 7 that needs a core to itself waits for core 0, the only one that could take it, where one of priority 3 runs. -/
def yieldA : State :=
  let s := running 0 [] []
  let s := { s with
    ctxs := [(0, ctxA), (1, ctxA)]
    queues := [(1, queueA), (2, queueA)]
    regions := Vector.ofFn (fun g => { s.regions[g] with role := if g = 0 then 3 else 1, roleNow := if g = 0 then 3 else 1 })
    cores := Vector.ofFn (fun c => { s.cores[c] with fenced := decide (c ≠ 0) })
    stacked := mapped (blocks 0x6000 (imageBytes 2 64))
    cmds := [{ openA with q := 2, counter := 0x800000, insts := [{ index := 0, placed := some (0, 0), resume := 0, ended := false, flags := {} }] },
      { kernelA .waiting with prio := 7 }] }
  { s with queues := [(1, { queueA with role := 2 }), (2, queueA)] }.updSlot 0 0 (fun sl => { sl with ctx := 1, cmd := some (2, 1) })

/-- A flash address of a COPY or FILL. -/
def flash (lba : Nat) : Nat := lba + 2 ^ 48

def copyA (ph : Phase) (src dst len : Nat) : Cmd := cmdW tyCopy ph [(0x10, src), (0x18, dst), (0x30, len + 2 ^ 32)]
def fillA (ph : Phase) (dst len more : Nat) : Cmd := cmdW tyFill ph [(0x18, dst), (0x30, len + 2 ^ 32 + more), (0x38, 0x1122334455667788)]

def copyStates : List State :=
  [sent (copyA .granted 0x6000 0x6020 32) [(0x6000, [1, 2, 3])], sent (copyA .granted 0x6000 0x6010 32) [(0x6000, [1, 2, 3])],
   sent (copyA .granted 0x6000 0x6020 0) [(0x6000, [1, 2, 3])], sent (fillA .granted 0x6020 32 0), sent (fillA .granted 0x6021 3 0) [(0x6020, [])],
   { sent (fillA .ready (flash 2) 4096 (2 ^ 57)) with fls := Flash.reset.write 8192 (List.replicate 4096 5) }]

/-- A FORK of one child, 9, at 0x6100: of sequence 7, or a root. -/
def forkA (parent : Bool) : State :=
  { sent (cmdW tyFork .granted [(0x10, 0x6100), (0x18, 7 + (if parent then 2 ^ 16 else 0)), (0x1C, 1)]) ([(0x6100, [9])] ++ poolBlocks)
    with seqs := [(7, { seqA with inFlight := false })] }

def cullA (busy : Bool) : State :=
  { sent (cmdW tyCull .granted [(0x10, 0x6100), (0x18, 1)]) ([(0x6100, [7])] ++ poolBlocks) with seqs := [(7, { seqA with inFlight := busy })] }

def eventCmd (ty : Nat) (ph : Phase) (flags v : Nat) : Cmd := cmdW ty ph [(0x10, flags), (0x18, v)]

def eventStates : List State :=
  [sent (cmdW tyFence .granted []), sent (eventCmd tySignal .granted 0x10001 5) [(0x4000, words 8 [0, 9])],
   sent (eventCmd tySignal .granted 1 5) [(0x4000, words 8 [0, 9])], sent (eventCmd tyWait .granted 1 9) [(0x4000, words 8 [0, 9])],
   sent (eventCmd tyWait .granted (1 + 7 * 2 ^ 32) 10) [(0x4000, words 8 [0, 9])],
   sent (eventCmd tyWait .dispatched 1 9) [(0x4000, words 8 [0, 9])],
   sent { eventCmd tyWait .dispatched 1 10 with deadline := some 0 } [(0x4000, words 8 [0, 9])]]

def hintA : Hint := { id := 0, ctx := 0, cls := 2, started := true }

/-- A granted HINT with n hints pending. -/
def hintState (n : Nat) : State :=
  { sent (cmdW tyHint .granted [(0x10, 2)]) with pwr := { ready.pwr with hints := List.replicate n hintA } }

/-- Two KERNELs wait for sequence 7, which is in flight; the first is at the end of its ageing. -/
def contendA : State :=
  let cm := kernelA .waiting [(0x28, 0x6100), (0x30, 1)]
  { sent cm (blocks 0x6000 (imageBytes 0 64) ++ [(0x6100, [7])]) with
    seqs := [(7, seqA)], queues := [(1, queueA), (2, queueA)], cmds := [{ cm with prio := 7, capped := true }, { cm with q := 2 }] }

/-- A KERNEL that names more accumulator slots than a core has units. -/
def wideKernel : State :=
  let s := sent (kernelA .granted) (blocks 0x6000 (imageBytes 0 (64 + 8 * 2 ^ 16)))
  { s with cores := s.cores.map (fun co => { co with accUnits := 0 }) }

/-- A KERNEL whose target list names one sequence twice. -/
def twiceA : State :=
  { sent (kernelA .granted [(0x28, 0x6100), (0x30, 2)]) (blocks 0x6000 (imageBytes 0 64) ++ [(0x6100, words 8 [7, 7])])
    with seqs := [(7, { seqA with inFlight := false })] }

/-- Slot 0 of core 0 is LOADING and its first instruction is not in the core's cache. -/
def loadMissA : State := (missA 0).updSlot 0 0 (fun sl => { sl with state := .loading })

/-- A FORK of one child with coil 12, of sequence 7 with coil 5 or as a root. -/
def forkCoilA (parent : Bool) : State :=
  { sent (cmdW tyFork .granted [(0x10, 0x6100), (0x18, 7 + (if parent then 2 ^ 16 else 0)), (0x1C, 1)])
      ([(0x6100, words 8 [9 + 12 * 2 ^ 16 + 2 ^ 34])] ++ poolBlocks)
    with seqs := [(7, { seqA with inFlight := false, coil := some 5 })], coils := [(5, rootCoil 0)] }

/-- A FORK of one child that exists. -/
def forkBad : State :=
  { sent (cmdW tyFork .granted [(0x10, 0x6100), (0x18, 7 + 2 ^ 16), (0x1C, 1)]) ([(0x6100, [7])] ++ poolBlocks)
    with seqs := [(7, { seqA with inFlight := false })] }

/-- A CULL of sequence 7 that is dispatched. -/
def culling (busy : Bool) : State :=
  { sent { cmdW tyCull .dispatched [(0x10, 0x6100), (0x18, 1)] with culls := [7] } ([(0x6100, [7])] ++ poolBlocks)
    with seqs := [(7, { seqA with inFlight := busy, state := .culling })] }

/-- A SIGNAL whose event lies in the memory of a region that resets. -/
def signalAway : State :=
  part (.region 0) (away .resetting)
    { sent (eventCmd tySignal .granted 1 5) with ctxs := [(0, { ctxA with eventTable := 0x800000 })], regionMem := ram [(0, [])] }

/-- A COPY to flash. -/
def copyFlash : State :=
  { sent (copyA .granted 0x6000 (flash 2) 4096) (blocks 0x6000 (List.replicate 4096 5)) with fls := { Flash.reset with state := .ready } }

/-- A COPY from a page that is not mapped, a FILL that discards flash, and a COPY to flash that is ready. -/
def copyMore : List State :=
  [sent (copyA .granted (9 * 2 ^ 21) 0x6020 32), { copyFlash with cmds := [fillA .granted (flash 2) 4096 (2 ^ 57)] },
   { copyFlash with cmds := [{ copyA .ready 0x6000 (flash 2) 4096 with saves := [(8192, List.replicate 4096 5)] }] }]

/-! ## Rounds, the commit point, quenches -/

/-- Coil 5, on core 0's unit 7. -/
def coilA (st : CoilStatus) : Coil :=
  { rootCoil 0 with status := st, threeGate := true, hasSeq := false, reset := false, roundLen := 1, unit := 7 }

/-- A descriptor of three gates and one step; a RUN's operands lie in host memory. -/
def roundDescA (run : Bool) : List Byte :=
  if run then words 4 [0x10100, 0x2210801, 1, 0] ++ words 8 [0xA00000, 0xA00000, 0xA00000, 0] ++ zeros 16 else words 4 [0x10100, 1] ++ zeros 56

/-- A ROUND of one entry: coil 5, round 1. -/
def roundW (op : Nat) (ph : Phase) : Cmd :=
  { cmdW tyRound ph [(0x10, 0x6000), (0x18, 0x6040), (0x20, op), (0x24, 1)] with
    rounds := if ph = .granted then [] else [{ coil := 5, place := 0, seq := 1, resetAt := 0 }]
    desc := if ph = .granted then [] else roundDescA (op == 0) }

/-- Coil 5's park area. -/
def parkBlocks : List (Nat × List Byte) := blocks (0x4D0000000 + 2048 * 5) (List.replicate 512 1)

def roundA (op : Nat) (ph : Phase) (st : CoilStatus) (seq : Nat := 0) : State :=
  { sent (roundW op ph) with
    stacked := ram (tables ++ blocks 0x206000 (words 8 [5 + 2 ^ 32] ++ zeros 56 ++ roundDescA (op == 0)) ++ parkBlocks)
    coils := [(5, { coilA st with roundSeq := seq })] }

/-- What a RUN computed for coil 5. -/
def savesA : List (Nat × List Byte) := [(2048 * 5, List.replicate 512 2)]

def roundStates : List State :=
  (List.range 5).flatMap (fun op => [roundA op .granted .resident, roundA op .granted .parked, roundA op .granted .parked 1,
    roundA op .dispatched .resident, roundA op .dispatched .parked])
  ++ [{ roundA 4 .granted .parked with regions := ready.regions.map (fun r => { r with roleNow := 1 }), queues := [(1, { queueA with role := 2 })] },
      { roundA 3 .granted .parked with coils := [] }, { roundA 2 .dispatched .unparking with cmds := [] }, { roundA 1 .dispatched .parking with cmds := [] },
      { roundA 1 .dispatched .resident with coils := [(5, { coilA .resident with holder := some (1, 1) })] }]

/-- Commands that are ready to commit. -/
def commitStates : List State :=
  (List.range 5).flatMap (fun op => [{ roundA op .ready .resident with cmds := [{ roundW op .ready with saves := savesA }] }])
  ++ [sent (kernelA .ready), { sent { kernelA .ready with targets := [7] } poolBlocks with seqs := [(7, seqA)] },
      { sent { kernelA .ready with targets := [7], dups := 1, pages :=
          [{ seq := 7, lh := 0, pn := 0, page := 1, taken := true, keys := [{ tok := 1, inst := 0, age := 0, vis := true }], values := [] }] } poolBlocks with
        seqs := [(7, seqA)] },
      sent { copyA .ready 0x6000 (flash 2) 4096 with saves := [(8192, List.replicate 4096 5)] }]
  ++ [tyFork, tyCull, tySignal, tyWait, tyHint, tySnapshot].flatMap (fun ty => [sent (cmdW ty .ready []), sent { cmdW ty .ready [] with status := 0x22 }])

def quenchA (ph : QuenchPhase) (redo : Bool) : Quench :=
  { phase := ph, scope := false, ctx := 0, q := 1, n := 1, entry := 3, label := 9, redo := redo, img := if ph = .write then some (ready.capture false 0) else none }

/-- A queue's descriptor: 8 DEFLATE samples from 0x6000, 4 slots of 1 MiB from 0x100000, history at 0x7000, CONS at 0x6800. -/
def smpBytes : List Byte :=
  words 4 [0x7C000100, 1 * 2 ^ 16] ++ words 8 [0, 0x6000, 8, 0x100000] ++ words 4 [2, 1048640, 1, 0x7FFFFFFF, 0, 0] ++ words 8 [0x7000, 0x6800, 0] ++ zeros 40

/-- A running sample queue. -/
def smpA (work : List SmpWork) : SmpQueue := { SmpQueue.reset with state := 1, desc := some (smpDescOf smpBytes), work := work }

/-- An entry of the sample table: a DEFLATE sample of two U16 elements, at 0x6400. -/
def entryA : List Byte := words 8 [0x6400 + 2 ^ 48] ++ words 4 [12, 0x10002, 0x2C] ++ zeros 12

def decoding : SmpWork := { pos := 0, entry := entryA, stage := none, try_ := 0, first := 0, lane := some 2, done := none, stop := none }

/-- A quench of context 0 by SNAPSHOT command 1 of queue 1. -/
def quenched (ph : QuenchPhase) (redo : Bool) (n : Nat) : State :=
  { running 0 [] [] with
    queues := [(1, queueA)]
    cmds := [cmdW tySnapshot .dispatched [(0x18, 9)],
      { openA with n := n, insts := [{ index := 0, placed := some (0, 0), resume := 0, ended := false, flags := {} }] }]
    smp := ready.smp.set 2 (smpA [decoding])
    fls := { Flash.reset with quench := some (quenchA ph redo), snaps := Flash.reset.snaps.set 3 { Snap.reset with state := .writing } } }

def quenchStates : List State :=
  [sent (cmdW tySnapshot .granted [(0x18, 9)]), { sent (cmdW tySnapshot .granted [(0x18, 9)]) with fls := { Flash.reset with snap8 := 0 } },
   { sent (cmdW tySnapshot .granted [(0x10, 1), (0x18, 9)]) with fls := { Flash.reset with snaps := Vector.replicate 16 { Snap.reset with state := .committed } } },
   quenched .drain false 2, quenched .capture false 2, quenched .capture true 2, quenched .write false 2]

/-- The round kernel of coil 5's RUN is on core 0, and ended. -/
def roundKernels : List State :=
  let s := roundA 0 .dispatched .resident
  [s.updSlot 0 0 (fun sl => { sl with state := .running, cmd := some (1, 1), round := some 5 }),
   { s with cmds := s.cmds.map (fun cm => { cm with roundDone := [5] }) }]

/-- A ROUND that names a coil of no context. -/
def roundBad : State := { roundA 0 .granted .resident with coils := [] }

/-- A KERNEL waits for 8 units of core 0, the only core in service, where coil 5 holds one of the 8. -/
def evictA (held : Bool) : State :=
  let s := sent { openA with hdr := { hdrA with accSlots := 8 }, bytes := (kernelA .waiting).bytes } (blocks 0x6000 (imageBytes 0 (64 + 8 * 2 ^ 16)))
  { s with
    coils := [(5, { coilA .resident with holder := if held then some (1, 1) else none })]
    cores := Vector.ofFn (fun c => { s.cores[c] with fenced := decide (c ≠ 0), accUnits := 8, coilUnits := if c = 0 then 0x80 else 0 }) }

/-- A ready KERNEL with a staged contribution, and one whose page was counted for another pool. -/
def commitMore : List State :=
  [sent { kernelA .ready with staged := 1 },
   { sent { kernelA .ready with targets := [7], pages :=
       [{ seq := 7, lh := 0, pn := 0, page := 1, taken := true, keys := [{ tok := 5, inst := 0, age := 0, vis := true }], values := [] }] } poolBlocks with
     seqs := [(7, seqA)] }]

/-- A ready RUN whose OUT row lies in a page that is not mapped. -/
def commitLost : State :=
  { roundA 0 .ready .resident with
    cmds := [{ roundW 0 .ready with saves := savesA, outs := [(5, 9 * 2 ^ 21, zeros 32)] }] }

/-! ## Mailboxes, faults and resets -/

/-- Mailbox 0 with operands written. -/
def mail (addr arg0 arg1 : Nat) (s : State := ready) : State :=
  { s with mbox := s.mbox.set 0 { s.mbox[(0 : HostPort)] with addr := BitVec.ofNat 64 addr, arg0 := BitVec.ofNat 32 arg0, arg1 := BitVec.ofNat 64 arg1 } }

/-- A context descriptor: context `id` of a host port, `excl` exclusive cores. -/
def ctxBytes (id port excl : Nat) : List Byte := words 4 [0x100 + id * 2 ^ 16 + port * 2 ^ 30, 7 + excl * 8] ++ zeros 56

/-- A queue descriptor: queue `q` of context `ctx`, rings and status block in virtual page 0. -/
def queueBytes (q ctx : Nat) : List Byte :=
  words 4 [0x100, q, ctx + 3 * 2 ^ 12, 4] ++ words 8 [0x1000, 0x2000, 0x3000] ++ zeros 24

def mailStates : List State :=
  [mail 0x1000 0 0, mail 0x1001 1 0, { mail 0x1000 0 0 with queues := [(1, queueA)], cmds := [cmdA tyFence .waiting] },
   mail 0 1 1 { ready with queues := [(1, { queueA with accepted := 3 })], cmds := [cmdA tyFence .waiting], ctxs := [(0, { ctxA with home := 1 }), (1, ctxA)] },
   mail 0 1 1 { ready with queues := [(1, { queueA with accepted := 3 })], cmds := [cmdA tyFence .waiting] },
   mail 0 1 2 { ready with queues := [(1, { queueA with accepted := 3 })], cmds := [{ cmdA tyFence .dispatched with n := 2 }, cmdA tyFence .ended] },
   mail 0 1 1 { ready with queues := [(1, { queueA with accepted := 3 })], cmds := [{ cmdA tyFence .ended with status := 0x22 }] },
   mail 0 1 1 { ready with queues := [(1, { queueA with accepted := 3 })], cmds := [{ cmdA tyFence .dispatched with held := true, phase := .waiting }] },
   mail 0 1 4 { ready with queues := [(1, { queueA with accepted := 3 })] }, mail 0 1 0 { ready with queues := [(1, queueA)] },
   mail 0 0x1000 0 { ready with regions := ready.regions.map (fun r => { r with tcache := [(0, 0, 0x200003), (0, 4, 7), (1, 0, 3)] }) },
   mail 0 0 0x200000 { ready with regions := ready.regions.map (fun r => { r with tcache := [(0, 0, 0x200003), (1, 0, 3)] }) },
   mail 0 0x1000 0x200000 { ready with regions := ready.regions.map (fun r => { r with tcache := [(0, 0, 0x200003), (0, 1, 5)] }) }]

/-- CTX_CREATE of context 5 with 2 exclusive cores waits for core 1. -/
def drainA : State :=
  let s := ready.updCore 0 (fun co => { co with owner := some 5 })
  let s := s.updCore 1 (fun co => { co with owner := some 5 })
  { s with mbox := s.mbox.set 0 { s.mbox[(0 : HostPort)] with busy := true, lastOp := 1, waitOp := some (.ctxCreate 0 (.data (ctxBytes 5 0 2))) } }

/-- A part whose epoch advanced 1 ms ago, at device time 2 ms. -/
def owing (late returning : Bool) : State :=
  part (.region 3) (fun e => { e with owed := 1, returning := returning, lastNs := some (if late then 1000000 else 1000001), state := .resetting })
    { ready with timeNs := 2000000 }

def copies (a b : Option RegionId) (s : State := ready) : State := { s with copyA := a, copyB := b }

def dieDown : State :=
  (regionsOf 1).foldl (fun s g => part (.region g) (away .fenced) s) (part (.die 1) (away .fenced))

def resetStates : List State :=
  [ready, running 0 [] [], part (.core 0) (away .fenced), ready.updCore 0 (fun co => { co with fenced := true }), part (.region 3) (away .resetting), part (.region 3) (away .fenced),
   part (.region 3) (fun e => { e with state := .resetting, returning := true }), part (.die 1) (away .fenced), dieDown,
   copies none none, copies (some 0) (some 3), copies (some 9) (some 4), copies (some 1) (some 11) (part (.region 0) (away .resetting)), owing true true, owing true false, owing false true]

/-- Only core 0 is in service. -/
def oneCore (s : State) : State := { s with cores := Vector.ofFn (fun c => { s.cores[c] with fenced := decide (c ≠ 0) }) }

/-- More mailbox states: too few cores, sequences of two contexts, a placed KERNEL to cancel. -/
def mailMore : List State :=
  [mail 0x1000 0 0 (oneCore ready), mail 0x1000 0 0 { ready with seqs := [(7, seqA), (8, { seqA with ctx := 1 })] },
   mail 0 1 1 { fenceState 0 [] with queues := [(1, { queueA with accepted := 3 })] }]

/-- A command with an instance on core 0, and a fenced die with a failing station. -/
def dieMore : List State := [fenceState 0 [], { dieDown with badCheckers := [.station 1 0] }]

/-! ## Fabric, time slots, scrub, flash -/

/-- A request of core 0 to region 3, whose stack starts at 0x3C0000000. -/
def reqA (epoch : Nat) (data : Option W256) : FabricReq :=
  { id := 5, requester := .core 0, target := .region 3, node := none, kind := .other, epoch := BitVec.ofNat 16 epoch, sram := false,
    addr := 3 * stackSpan, data := data, flips := 0, inc := 0 }

def waitA (stage : FabricStage) : FabricWait := { req := reqA 0 none, stage := stage, via := none }

/-- A transfer of request 5 that waits at a link since device time 0. -/
def transferA (l : FabLink) (cls beats : Nat) (write : Bool) : Transfer :=
  { id := 5, cls := cls, prio := .bulk, bytes := 32, link := l, rest := [.station 3 0 true], beats := beats, begun := false, since := 0, born := 0,
    promoted := false, chan := some 0, write := write, age := 0, vc := 0 }

def waiting (xs : List Transfer) (now : Nat := 0) : State :=
  { ready with slots := { ready.slots with waiting := xs }, timeNs := now, fabric := [waitA .served] }

def fabricStates : List State :=
  [{ ready with stacked := ram [(3 * stackSpan, [1, 2])] }, { ready with fabric := [waitA .absent] }, { ready with fabric := [waitA .served] },
   { part (.region 3) (away .resetting) with fabric := [waitA .absent] }, part (.region 3) (away .fenced),
   waiting [transferA (.segment 0 0 true) 0 1 false], waiting [transferA (.segment 0 0 true) 0 9 false],
   waiting [transferA (.controller 3) 0 1 true], waiting [transferA (.controller 3) 0 1 true] 1000000, waiting [transferA (.segment 0 0 true) 2 1 false], { ready with slots := { ready.slots with slot := 255 } },
   { ready with regionMem := ram [(3 * regionBytes, [1, 2])] },
   { ready with slots := { ready.slots with strobeAbsent := true } }, { ready with slots := { ready.slots with copied := some defaultTable } },
   { ready with slots := { ready.slots with copied := some defaultTable, slot := 255, framesLeft := 1 } },
   { ready with slots := { ready.slots with copied := some defaultTable, strobeAbsent := true } },
   { ready with slots := { ready.slots with shadow := Vector.replicate 256 0 } }, { ready with slots := { ready.slots with shadow := defaultTable.set 0 1 } },
   { ready with slots := { ready.slots with shadow := defaultTable.set 0 9 } },
   { ready with edgeFenced := ready.edgeFenced.set 0 true }, { ready with segFenced := ready.segFenced.set 0 true }]

/-- Stack 3's first block with one bad bit, or three. -/
def scrubA (bits : Nat) : State :=
  { ready with stacked := { ram [(3 * stackSpan, [1, 2])] with bad := [(3 * stackSpan / 32, BitVec.ofNat 288 bits)] } }

def flashA (n : Nat) : State := { ready with fls := { ready.fls with state := .ready, reads := [(4, n)] } }

def scrubStates : List State :=
  [ready, { ready with pwr := { ready.pwr with current := 2 } }, scrubA 1, scrubA 0xB, (scrubA 1).updRegion 3 (fun r => { r with writeback := some (3 * stackSpan / 32) }),
   (scrubA 0xB).updRegion 3 (fun r => { r with writeback := some (3 * stackSpan / 32) }), ready.updRegion 3 (fun r => { r with scrubPos := stackBlocks r - 1 }),
   flashA 50000, flashA 49999]

/-- Region 3's first memory block with one bad bit, and flash of two erase blocks, one worn by n cycles. -/
def scrubMore : List State :=
  [{ ready with regionMem := { ram [(3 * regionBytes, [1, 2])] with bad := [(3 * regionBytes / 32, 1)] } }]
  ++ [150, 151].map (fun n => { ready with fls := { ready.fls with state := .ready, mapped := [(7, 1)], cycles := [(1, 0), (2, n)], reads := [(1, 50000)] } })

/-! ## The sample engine, registers -/

/-- Eight entries of one DEFLATE sample of two U16 elements, CONS at 0x6800, the event table, a descriptor at 0x6A00. -/
def smpBlocks (descr : List Byte) : List (Nat × List Byte) :=
  (0x4000, []) :: (List.range 8).map (fun i => (0x6000 + 32 * i, entryA))
    ++ [(0x6800, [])] ++ blocks 0x6A00 descr ++ [(0x7000, []), (0x100040, [])]

/-- Sample queue 2 with the memory that its descriptor names. -/
def smpState (x : SmpQueue) (descr : List Byte := smpBytes) : State :=
  { ready with smp := ready.smp.set 2 { x with descAddr := 0x206A00 }, stacked := mapped (smpBlocks descr) }

def doneA : SmpDone := { droppedAt 0 0 0 with dropped := false, units := 4, payload := [1, 2, 3, 4] }

/-- An element's decode: two values. -/
def payloadA : DecodeOut := .payload [1, 2] 2 1 1 1 8 1 0

/-- A stored DEFLATE block of two U16 elements, and a stream with a block type that does not exist. -/
def streamA : List Byte := [1, 4, 0, 0xFB, 0xFF, 1, 0, 2, 0]
def streamBad : List Byte := [7]

def descA : SmpDesc := smpDescOf smpBytes

/-- Sample queue 2 in operation with a descriptor, its work, and the source's block. -/
def smpRun (d : SmpDesc) (work : List SmpWork) (src : List Byte := streamA) (f : SmpQueue → SmpQueue := id) : State :=
  { ready with
    smp := ready.smp.set 2 (f { smpA work with desc := some d, descAddr := 0x206A00 })
    stacked := mapped (((0x4000, []) :: (List.range 8).map (fun i => (0x6000 + 32 * i, entryA))) ++ [(0x6400, src), (0x6800, []), (0x7000, []), (0x8000, []), (0x100000, []), (0x100020, []), (0x100040, []), (0x1200C0, []),
      (0x200000, []), (0x200020, []), (0x200040, [])]) }

def handing (z : SmpDone) : SmpWork := { decoding with lane := none, done := some z }

/-- A packing descriptor: four staging slots from 0x8000, rows of two tokens of 4 bytes. -/
def packA : SmpDesc := { descA with pack := true, stageBase := 0x8000, stageSlots := 4, rowTokens := 2, tokenBytes := 4 }

/-- An open row of one sample of two tokens. -/
def rowA : RowSeg := { pos := 0, sample := 0, start := 0, length := 2, try_ := 0, reason := 0, units := 4, payload := [1, 2, 3, 4, 5, 6, 7, 8] }

def liveA : SmpDesc := { descA with live := true, maxAgeUs := 1000 }

def jpegA : SmpWork := { decoding with entry := words 8 [0x6400 + 2 ^ 49] ++ words 4 [12, 0, 0] ++ zeros 12 }

def smpStates : List State :=
  [smpState SmpQueue.reset, smpState { SmpQueue.reset with state := 3 } (zeros 128), smpState SmpQueue.reset (smpBytes.set 24 0),
   { smpState SmpQueue.reset with stacked := mapped [] }, { smpState SmpQueue.reset with smp := ready.smp.set 2 { SmpQueue.reset with descAddr := 14 * stackSpan } },
   smpRun descA [], smpRun { descA with startEpoch := 1048576 } [] streamA (fun x => { x with pos := 8 * 1048576, start := 8 * 1048576 }),
   smpRun descA [decoding], smpRun descA [decoding] streamBad, smpRun { descA with tries := 1 } [decoding] streamBad, smpRun liveA [decoding] streamBad,
   smpRun { descA with k := 2, floor := 0, initMean := 0 } [decoding], smpRun packA [decoding], smpRun { packA with stageSlots := 4, tokenBytes := 64 } [{ decoding with stage := some 0 }],
   smpRun packA [{ decoding with stage := some 0 }], smpRun descA [jpegA], { smpRun descA [decoding] with stacked := mapped [(0x6800, []), (0x7000, [])] },
   smpRun descA [{ decoding with lane := none, stop := some 0x21 }], smpRun descA [handing doneA],
   smpRun descA [handing doneA] streamA (fun x => { x with hands := 2 }), smpRun descA [handing (droppedAt 0 4 0)], smpRun { descA with epochs := 1, samples := 1 } [handing doneA],
   { smpRun liveA [handing doneA] with timeNs := 2000000 }, smpRun packA [handing doneA], smpRun packA [handing doneA] streamA (fun x => { x with row := [rowA] }),
   smpRun packA [handing doneA] streamA (fun x => { x with row := [rowA], hands := 2 }), { smpRun descA [] with lanesFenced := [2] }]

/-- A source block that reads uncorrectable. -/
def smpMore : List State :=
  let s := smpRun descA [decoding]
  let u := smpRun descA [jpegA]
  [{ s with stacked := { s.stacked with bad := [(0x206400 / 32, 0xB)] } }, { u with stacked := { u.stacked with bad := [(0x206400 / 32, 0xB)] } }]

def registerStates : List State :=
  [ready, { ready with svc := Service.reset }, { ready with fls := { ready.fls with state := .ready } },
   { running 0 [] [] with queues := [(1, { queueA with role := 2 })], cmds := [{ openA with insts := [{ index := 0, placed := some (0, 0), resume := 0, ended := false, flags := {} }] }] }]

/-! ## Snapshot transfers, Darit -/

def snapA (st : SnapState) (imported : Bool) (img : Option SnapImg) : Snap :=
  { Snap.reset with state := st, imported := imported, blocks := 1, img := img, image := zeros 0x20 ++ leBytes 4 0x96480001 ++ zeros 4060 }

/-- Transfer registers over one block of entry 3; host memory of port 0 as listed from 0 on. -/
def xferState (z : Snap) (f : Flash → Flash := id) (mem : List Byte := []) : State :=
  { ready with
    fls := f { Flash.reset with snaps := Flash.reset.snaps.set 3 z, xSnap := 3, xLen := 4096 }
    hostMem := ((List.range mem.length).zip mem).filter (fun e => e.2 != 0) }

/-- Context 6 with a queue and a sequence. -/
def imgA : SnapImg :=
  { scope := false, ctx := 6, ctxs := [(6, ctxA)], queues := [(9, { queueA with ctx := 6 })], cmds := [], seqs := [(4, { seqA with ctx := 6 })], coils := [],
    stacked := [(0x5000, 1)], region := [], roles := [], slots := [], samples := [], blocks := 1 }

/-- An image header of no blocks; its CRC. -/
def headerA : List Byte := putAt (headerBytes false 6 0 0 0 0x96480001 0) 0x28 (leBytes 4 2849276265)

def xferStates : List State :=
  [xferState (snapA .committed false (some imgA)), xferState (snapA .committed false (some imgA)) (fun f => { f with xOff := 4096 }),
   { xferState (snapA .committed false (some imgA)) with hif := Vector.replicate 2 Hif.reset }, xferState (snapA .writing true none),
   xferState { snapA .writing true none with blocks := 2 }, xferState (snapA .writing true none) id headerA, xferState Snap.reset, xferState { snapA .committed false (some imgA) with scope := true },
   { xferState (snapA .committed false (some imgA)) with ctxs := [] }]

/-- Darit in a line of 4 devices, this one at 1, its port 0 the + trunk. -/
def ringA (f : DPort → DPort) : State :=
  { ready with darit := { ready.darit with sizeX := 4, x := 1, ports := ready.darit.ports.set 0 (f { DPort.reset with enable := true }) } }

def upPort (x : DPort) : DPort := { x with st := .up, width := 16, peerValid := true, peerNode := 2 }

def obsA (cable : Cable) (lanes node : Nat) : TrainObs :=
  { cable := cable, lanes := BitVec.ofNat 17 lanes, inv := 0, map := [], peerNode := node, peerPort := 1, peerX := 4, peerY := 1, peerZ := 1, peerDim := 0,
    peerDir := true, peerInc := 7, peerAbiMajor := 1 }

def frameA (dst age : Nat) : Frame := { src := 0, dst := dst, incarnation := 0, prio := .bulk, channel := 0, ageUs := age, bytes := 32 }

def daritStates : List State :=
  [ready, { ready with darit := { ready.darit with sizeX := 4 } }, ringA id, ringA (fun x => { x with st := .detect }), ringA (fun x => { x with st := .training }), ringA upPort,
   { ringA id with fabric := [{ req := { reqA 0 none with target := .darit 0 }, stage := .served, via := none }] }.updPart (.darit 0) (away .fenced),
   { ringA id with darit := { (ringA id).darit with downTrunks := [(2, 0, false)] } }]

def gatherA : RemoteGather := { ctx := 0, seq := 7, layer := 0, head := 0, values := false, pos := 0, count := 1 }

/-- A request of core 0 to node n, at this device's port or lost on its way. -/
def peerReq (n : Nat) (st : FabricStage) (f : DPort → DPort := upPort) : State :=
  { ringA f with fabric := [{ req := { reqA 0 none with node := some n }, stage := st, via := none }] }

def daritMore : List State :=
  [peerReq 2 .served, peerReq 2 .lost, peerReq 2 .served id, peerReq 9 .served, ringA (fun x => { upPort x with spareUsed := true, laneFail := 1 }),
   ringA (fun x => { upPort x with width := 8, laneFail := 3 }), ringA (fun x => { upPort x with width := 8, laneFail := 0xFF00 }), ringA (fun x => { x with st := .held, cable := .txTx }),
   ringA (fun x => { upPort x with width := 8, laneFail := 0x0303 }),
   (let s := ringA upPort; { s with slots := { s.slots with waiting := [{ transferA (.darit 0) 1 1 false with rest := [] }] } })]

/-- An image's header of 2 blocks, in host memory and on its way to an empty entry. -/
def firstRange (n8 : Nat) : State :=
  let z := xferState Snap.reset (fun f => { f with snap8 := n8 }) (headerBytes false 6 0 0 2 0x96480001 1)
  { z with hif := Vector.replicate 2 { Hif.reset with up := true } }

def xferMore : List State :=
  [firstRange 4, firstRange 0, { firstRange 4 with fls := { (firstRange 4).fls with xOff := 4096 } },
   { xferState (snapA .committed false (some imgA)) with ctxs := [(6, ctxA)] },
   xferState { snapA .committed false (some imgA) with image := [] }, xferState (snapA .committed false (some { imgA with stacked := [(2 ^ 50, 1)] })),
   xferState { snapA .committed true (some imgA) with image := (zeros 0x20 ++ leBytes 4 0x96480001 ++ leBytes 4 1 ++ zeros 4060), blocks := 1 },
   { xferState (snapA .committed false (some { imgA with scope := true, roles := List.replicate 12 1, slots := List.replicate 256 0 })) with ctxs := [] }]

/-! ## Host ports, device time -/

/-- Host port 0 changed. -/
def port0 (f : Hif → Hif) (s : State := ready) : State := s.updHif 0 f

def hostStates : List State :=
  [ready, { ready with stacked := ram [(0x40000000, [1, 2, 3])] }.updHif 0 (fun x => { x with aptBase := 1, bar4Gib := 1 }), port0 (fun x => { x with aptEn := false }),
   port0 (fun x => { x with up := false }), port0 (fun x => { x with pba := [3] }), port0 (fun x => { x with pba := [3], up := false }),
   { port0 (fun x => { x with up := false }) with ctxs := [(0, { ctxA with home := 1 })] },
   { ready with queues := [(1, { queueA with tail := 1 })], copyA := some 0 }, mail 0 0 0 { ready with mbox := ready.mbox.set 0 { Mailbox.reset with busy := true } }]

def timeA (f : TimeBase → TimeBase) (s : State := ready) : State := { s with tim := f s.tim }

def timeStates : List State :=
  [ready, timeA (fun t => { t with active := 1 }), timeA (fun t => { t with active := 1, auto := false }), timeA (fun t => { t with armed := true, setLo := 9 }),
   timeA (fun t => { t with active := 3, tenOk := true }), timeA (fun t => { t with active := 3 }), timeA (fun t => { t with armed := true, active := 3 }), timeA (fun t => { t with active := 3, ppsOk := true })]

/-! ## Power, the module -/

/-- Power state and registers changed. -/
def power (f : Power → Power) (s : State := ready) : State := { s with pwr := f s.pwr }

def powerStates : List State :=
  [ready, { ready with ctxs := [] }, { running 0 [] [] with ctxs := [] }, running 0 [] [], power (fun p => { p with current := 1 }), power (fun p => { p with current := 2 }), power (fun p => { p with pendingReq := some 3 }),
   power (fun p => { p with current := 3, ashRegion := some Ram.empty, ashAcc := some Ram.empty }), power (fun p => { p with current := 4 }),
   power (fun p => { p with capped := true }), power (fun p => { p with msSamples := List.replicate 99 4100 }),
   power (fun p => { p with msMeans := List.replicate 10 4100 }), power (fun p => { p with msMeans := List.replicate 10 4100, ceil := 0 }),
   power (fun p => { p with msMeans := List.replicate 10 100, ceil := 3 }), power (fun p => { p with msMeans := List.replicate 10 3999, ceil := 3 }),
   { power (fun p => { p with pendingReq := some 4 }) with ctxs := [] }, running 0 [] [] |> power (fun p => { p with pendingReq := some 3 }),
   power (fun p => { p with standby := false }), power (fun p => { p with current := 4, powered := false }), power (fun p => { p with msMeans := List.replicate 10 100, gate := 3 })]

def thermalStates : List State :=
  [ready, running 0 [] [], hintState 0, power (fun p => { p with hints := [hintA] }), power (fun p => { p with hints := [{ hintA with started := false }] }),
   power (fun p => { p with hints := [{ hintA with started := false, cls := 15 }] }),
   power (fun p => { p with immMode := true, trims := Vector.replicate 200 7, frozen := (Vector.replicate 200 false).set 3 true }),
   power (fun p => { p with dieCeil := Vector.replicate 4 0, dieGate := Vector.replicate 4 1 }), power (fun p => { p with dieCeil := Vector.replicate 4 4 }), power (fun p => { p with tripped := true }),
   power (fun p => { p with dieSince := Vector.replicate 4 99 }), power (fun p => { p with dieSince := Vector.replicate 4 99, dieGate := Vector.replicate 4 1 }),
   (ready.updCore 5 (fun co => { co with fenced := true })),
   power (fun p => { p with coolantWarn := true }), power (fun p => { p with inletDc := 401 })]

def feedState (f : FeedState → FeedState) (s : State := ready) : State := power (fun p => { p with feeds := #v[f p.feeds[(0 : Feed)], f p.feeds[(1 : Feed)]] }) s

def moduleStates : List State :=
  [ready, feedState (fun x => { x with present := true }), feedState (fun x => { x with present := true }) (power (fun p => { p with powered := false })),
   feedState (fun x => { x with overV := true }), power (fun p => { p with current := 4 }), power (fun p => { p with tripped := true, powered := false, maxDc := Vector.replicate 5 300 }),
   power (fun p => { p with alert := true, page := 0xFF }), power (fun p => { p with page := 1 }),
   feedState (fun x => { x with present := true }) (power (fun p => { p with tripped := true, powered := false })), power (fun p => { p with current := 4, powered := false })]

def envA : StartEnv := { slotId := 3, smbAddr := 2, failingLanes := [], failedCheckers := [], coolantOk := true }

/-! ## The service port -/

def svcHdrA : SvcHdr := { abiMinor := 0, abiMajor := 1, opcode := 1, length := 0, reqId := 77, status := 0, opkey := 0, reserved := 0 }

def sigA : SvcSig := { key := [1], sig := [2] }

/-- A session is open; operator key 0 may be valid. -/
def session (f : Service → Service := id) (s : State := ready) : State := { s with svc := f { s.svc with session := some [9] } }

/-- Slot B of REGION is being filled: 2 of 4 bytes. -/
def staged : State :=
  session (fun v => { v with fw := v.fw.set 1 { v.fw[(1 : Fin 2)] with
    slots := v.fw[(1 : Fin 2)].slots.set 1 { state := .staging, image := [1, 2] }, size := 4 } })

/-- A test of region 3 waits for its drain. -/
def draining (force : Bool) (s : State := ready) : State :=
  { s.updRegion 3 (fun r => { r with drain := true }) with
    svc := { s.svc with tBusy := true, work := some (.test 2 3 (.testSramBist .mailbox 3 force 100)) } }

def vecTest (v : VecState) : State :=
  { ready.updCore 5 (fun co => { co with vec := v }) with
    svc := { ready.svc with tBusy := true, work := some (.test 4 5 (.testVectorEngine .mailbox 5 false 100)) } }

/-- Only region 3 is in service. -/
def alone : State := (List.finRange 12).foldl (fun s g => if g = 3 then s else part (.region g) (away .fenced) s) (session)

def keyed (v : Service) : Service := { v with opLock := true, opValid := 1 }

def serviceStates : List State :=
  [ready, session, session (fun v => { v with phase := 1 }), session (fun v => { v with phase := 9 }), staged]

def requestStates : List State :=
  [session, session keyed, session keyed alone, session (fun v => { keyed v with svn := #v[9, 9] }), session keyed (power (fun p => { p with tripped := true })),
   session keyed (power (fun p => { p with tripped := true, maxDc := Vector.replicate 5 850 })),
   { ready with slots := { ready.slots with active := Vector.replicate 256 0 } }, part (.region 3) (away .fenced), alone, ringA id,
   (running 0 [] []).updSlot 0 0 (fun sl => { sl with hdr := { sl.hdr with vecOps := true } }),
   draining false, draining true, draining false ((running 0 [] []).updCore 24 (fun co => { co with slots := (running 0 [] []).cores[(0 : CoreId)].slots })),
   vecTest .underTest, vecTest .inService]

/-- A test that a client of the service port asked for; work that others wait behind. -/
def portTest : State :=
  { draining false with svc := { (draining false).svc with work := some (.test 2 3 (.testSramBist (.service svcHdrA sigA) 3 false 100)) } }

def requestMore : List State :=
  [portTest, { draining false with svc := { (draining false).svc with work := some (.activate [3] (.activate svcHdrA sigA 8 false 100)) } },
   { vecTest .underTest with svc := { (vecTest .underTest).svc with work := some (.test 4 5 (.testVectorEngine (.service svcHdrA sigA) 5 false 100)) } },
   { vecTest .inService with svc := { (vecTest .inService).svc with work := some (.test 4 5 (.testVectorEngine (.service svcHdrA sigA) 5 false 100)) } },
   session keyed (draining false), session (fun v => { keyed v with waiting := List.replicate 16 (.resume svcHdrA sigA) }) (draining false),
   session (fun v => { keyed v with phase := 3 }), session (fun v => { keyed v with fuses := [0x8000000010000000] }),
   session (fun v => { keyed v with fuses := List.replicate 256 0x8000000010000000 }), part (.region 3) (away .resetting)]

/-! ## How witnesses are said -/

/-- A computation answers a value with a property. -/
def okIs {ε α : Type} (x : Except ε α) (p : α → Bool) : Bool :=
  match x with
  | .ok v => p v
  | .error _ => false

/-- A command answers a next state with a property. -/
def ran (o : Host.Outcome State Fault Refusal) (p : State → Bool) : Bool :=
  match o with
  | .next t => p t
  | _ => false

/-- There is a value, with a property. -/
def optIs {α : Type} (x : Option α) (p : α → Bool) : Bool :=
  match x with
  | some v => p v
  | none => false

/-! ## Witnesses: the whole machine -/

theorem wit_StepRunsFrontCommand : ({ ready with pending := [.lowPowerWake] }).pending = [Instr.lowPowerWake] ∧ ready.pending = [] := by decide

theorem wit_MemoriesStayCanonical : memoriesWf { ready with stacked := ram [(0x40, [1, 2])] } = true := by decide +kernel

/-! ## Witnesses: kernel instructions -/

/-- The hypotheses of EngineInstructionsIssue, its frame and its stores, on core 0's slot 0. -/
def issues (x : RowKind × Engine × W128 × State) : Bool :=
  let s := x.2.2.2
  let w := x.2.2.1
  s.coreUp 0 && (s.slot 0 0).state == .running && (s.slot 0 0).round == none && s.fetched 0 0 == some w && rowOf w == some x.1
  && check12 w == none && !(s.slot 0 0).pendP.contains (wPred w) && (s.slot 0 0).pred (wPred w) != wPneg w && check34 w x.1 == none
  && s.mayIssue 0 0 w x.1 && s.turn 0 0 && !(s.slot 0 0).stopsAtIssue && x.1.engine == some x.2.1
  && okIs (rowPlan s 0 0 x.1 (s.slot 0 0) w) (fun p => match p with
    | none => false
    | some p => !overcommit (s.slot 0 0).hdr p.names && p.names.all (fun n => (s.inFlightOf 0 0).all (fun y => !y.accs.contains n))
      && okIs (s.makeResident 0 0 p.names) (fun s1 => match s1 with
        | none => false
        | some s1 => okIs (p.apply (s1.updSlot 0 0 (fun sl => { sl with flags := {} }))) (fun _ => true)))

def rowAt (i : Nat) : RowKind × Engine × W128 × State := engineStates.getD i (.fence, .mover, 0, ready)

/-! Every row but STEP, whose 49,152 weights the kernel does not read. -/

theorem wit_EngineInstructionsIssue_mover : issues (rowAt 0) = true := by decide +kernel

theorem wit_EngineInstructionsIssue_mover_1 : issues (rowAt 1) = true := by decide +kernel

theorem wit_EngineInstructionsIssue_mover_2 : issues (rowAt 2) = true := by decide +kernel

theorem wit_EngineInstructionsIssue_mover_3 : issues (rowAt 3) = true := by decide +kernel

theorem wit_EngineInstructionsIssue_mover_4 : issues (rowAt 4) = true := by decide +kernel

theorem wit_EngineInstructionsIssue_mover_5 : issues (rowAt 5) = true := by decide +kernel

theorem wit_EngineInstructionsIssue_mover_6 : issues (rowAt 6) = true := by decide +kernel

theorem wit_EngineInstructionsIssue_vector : ∀ i < 8, issues (rowAt (7 + i)) = true := by decide +kernel

theorem wit_EngineInstructionsIssue_anvil : ∀ i < 4, issues (rowAt (15 + i)) = true := by decide +kernel

/-- LDT from core store to core store, with no table of virtual memory. -/
def copyState : State := { (rowAt 0).2.2.2 with stacked := Ram.empty }

theorem wit_EngineInstructionStores :
    memoriesWf copyState = true ∧ issues (.ldt, .mover, (rowAt 0).2.2.1, copyState) = true ∧ wMode (rowAt 0).2.2.1 1 = false
    ∧ okIs (copyState.tileOp 0 0 (wTD (rowAt 0).2.2.1) [fBF16] false) Tile.core = true := by decide +kernel

/-- nextIs for the word that a state has next in core 0's slot 0. -/
def nextB (r : RowKind) (w : W128) (s : State) : Bool :=
  s.coreUp 0 && (s.slot 0 0).state == .running && (s.slot 0 0).round == none && s.fetched 0 0 == some w && rowOf w == some r

/-- readyToIssue. -/
def readyB (r : RowKind) (w : W128) (s : State) : Bool :=
  nextB r w s && check12 w == none && !(s.slot 0 0).pendP.contains (wPred w) && (s.slot 0 0).pred (wPred w) != wPneg w && check34 w r == none
  && s.mayIssue 0 0 w r && s.turn 0 0 && !(s.slot 0 0).stopsAtIssue

theorem readyB_ready {r : RowKind} {w : W128} {s : State} (h : readyB r w s = true) : readyToIssue s 0 0 r w := by
  simp only [readyB, nextB, Bool.and_eq_true, beq_iff_eq, Bool.not_eq_true', bne_iff_ne] at h
  exact ⟨⟨h.1.1.1.1.1.1.1.1.1.1.1, h.1.1.1.1.1.1.1.1.1.1.2, h.1.1.1.1.1.1.1.1.1.2, h.1.1.1.1.1.1.1.1.2, h.1.1.1.1.1.1.1.2⟩, h.1.1.1.1.1.1.2,
    h.1.1.1.1.1.2, h.1.1.1.1.2, h.1.1.1.2, h.1.1.2, h.1.2, h.2⟩

theorem wit_EarlierChecksDecideFirst :
    (let w := insn [(0, 0x040), (14, 1)]; let s := running w [] []; nextB .ldt w s = true ∧ s.turn 0 0 = true ∧ check12 w ≠ none)
    ∧ (let w := insn [(0, 0x100), (13, 1), (56, 1)]; let s := running w [] []
       nextB .mma w s = true ∧ check12 w = none ∧ (s.slot 0 0).pred (wPred w) = wPneg w)
    ∧ (let w := insn [(0, 0x100), (56, 1)]; let s := running w [] []
       nextB .mma w s = true ∧ check12 w = none ∧ (s.slot 0 0).pred (wPred w) ≠ wPneg w ∧ check34 w .mma ≠ none)
    ∧ (let s := stopStates.getD 2 ready
       s.ready 0 0 = true ∧ s.ready 0 1 = true ∧ s.turn 0 1 = true ∧ 64 ≤ s.cores[(0 : CoreId)].passed[(1 : KsId)]) := by
  decide +kernel

/-- The word that slot 0 has next. -/
def wordOf (s : State) : W128 := (s.fetched 0 0).getD 0

theorem wit_MovtWritesOneDescriptor :
    ∀ s ∈ movtStates, readyB .movt (wordOf s) s = true ∧ overcommit (s.slot 0 0).hdr [] = false
      ∧ okIs (s.movtValue 0 0 (s.slot 0 0) (wordOf s)) (fun _ => true) = true := by decide +kernel

theorem wit_ScalarVopWritesOneRegister :
    (∀ f ∈ [0x00, 0x07, 0x08, 0x0E, 0x20, 0x22], readyB .scalar (wordOf (scalarStates.getD f ready)) (scalarStates.getD f ready) = true)
    ∧ readyB .scalar (wordOf (scalarState 0x1F [(50, 9), (64, 65)] [])) (scalarState 0x1F [(50, 9), (64, 65)] []) = true
    ∧ readyB .scalar (wordOf (scalarState 0x8E [(50, 9), (44, 8)] [(8, 7)])) (scalarState 0x8E [(50, 9), (44, 8)] [(8, 7)]) = true := by
  decide +kernel

theorem wit_ScalarLoadAndStore :
    ∀ s ∈ loadStates, readyB .scalar (wordOf s) s = true
      ∧ ((s.slot 0 0).s[wReg (wordOf s) 44] + BitVec.ofNat 64 (wImm (wordOf s))).toNat % 8 = 0
      ∧ okIs (s.wordPlace 0 0 ((s.slot 0 0).s[wReg (wordOf s) 44] + BitVec.ofNat 64 (wImm (wordOf s))).toNat 8 (wFunc (wordOf s) % 128 == 0x19))
          (fun l => s.locErr l == none && okIs (s.readLoc l 8) (fun _ => true)) = true := by decide +kernel

theorem wit_BranchSetsPc :
    (∀ s ∈ branchStates, readyB .branch (wordOf s) s = true)
    ∧ wImm (wordOf (branchStates.getD 0 ready)) < ((branchStates.getD 0 ready).slot 0 0).hdr.length
    ∧ ((branchStates.getD 1 ready).slot 0 0).hdr.length ≤ wImm (wordOf (branchStates.getD 1 ready)) := by decide +kernel

theorem wit_FencesClaimsAndCommits :
    (let s := fenceStates.getD 1 ready; readyB .fence (wordOf s) s = true ∧ s.fenceOpen 0 0 (wFunc (wordOf s)) = true)
    ∧ (let s := fenceStates.getD 0 ready; readyB .fence (wordOf s) s = true ∧ s.fenceOpen 0 0 (wFunc (wordOf s)) = false)
    ∧ (let s := fenceStates.getD 4 ready; readyB .fenceEnd (wordOf s) s = true ∧ s.fenceOpen 0 0 0x1F = false)
    ∧ (let s := fenceStates.getD 5 ready; readyB .fenceEnd (wordOf s) s = true ∧ s.fenceOpen 0 0 0x1F = true ∧ (s.slot 0 0).cmd = some (1, 1)
       ∧ optIs (s.cmd? 1 1) (fun cm => cm.phase == .dispatched && cm.type == tyKernel && cm.counter == 0 && cm.trap == none && cm.ending == none) = true)
    ∧ (let s := fenceStates.getD 6 ready
       let sl := s.slot 0 0
       readyB .claim (wordOf s) s = true ∧ wImm (wordOf s) = 4096 ∧ sl.counter ≠ 0 ∧ sl.s[wReg (wordOf s) 44].toNat = sl.counter + 8
       ∧ okIs (s.xlate (some (regionOfCore 0)) sl.ctx sl.counter true) (fun l => okIs (locRegion l) (fun _ => true)) = true)
    ∧ (let s := fenceStates.getD 7 ready; readyB .claim (wordOf s) s = true ∧ wImm (wordOf s) = 4097)
    ∧ (let s := fenceStates.getD 9 ready
       let sl := s.slot 0 0
       readyB .commit (wordOf s) s = true ∧ sl.counter ≠ 0 ∧ sl.s[wReg (wordOf s) 44].toNat = sl.bitmap
       ∧ okIs (s.xlate (some (regionOfCore 0)) sl.ctx sl.bitmap true) (fun l => okIs (locRegion l) (fun _ => true)) = true)
    ∧ (let s := fenceStates.getD 11 ready
       readyB .commit (wordOf s) s = true ∧ (s.slot 0 0).s[wReg (wordOf s) 44].toNat ≠ (s.slot 0 0).bitmap) := by decide +kernel

/-! ## Witnesses: completions, replies, the atomic unit -/

def unitAt (i : Nat) : State := unitStates.getD i ready

theorem wit_CompletionMakesTilesResident :
    ((unitAt 3).cores[(0 : CoreId)].queueOf .mover = [waiterA] ∧ waiterA.req = some 5 ∧ (unitAt 3).contribWaits 5 = true)
    ∧ ((unitAt 0).cores[(0 : CoreId)].queueOf .mover = [waiterA] ∧ (unitAt 0).contribWaits 5 = false)
    ∧ ((unitAt 15).cores[(0 : CoreId)].queueOf .anvil).length = 2 := by decide +kernel

/-- The answered request that slot 0 of core 0 has. -/
def answered (s : State) : Option AtomWait := (s.slot 0 0).atoms.find? (fun x => x.reply.isSome)

theorem wit_AtomicRepliesReachRegisters :
    (let s := unitAt 8; optIs (answered s) (fun a => a.reply.isSome && !a.commit) = true ∧ (s.slot 0 0).state = .running)
    ∧ (let s := unitAt 9; optIs (answered s) (fun a => a.reply.isSome && a.commit) = true ∧ (s.slot 0 0).stop = none)
    ∧ (let s := unitAt 12; optIs (answered s) (fun a => a.reply.isSome && a.commit) = true ∧ (s.slot 0 0).stop = some .region)
    ∧ (let s := unitAt 13
       optIs (answered s) (fun a => ((s.slot 0 0).atoms.filter (fun x => x.req != a.req)).isEmpty) = true ∧ (s.slot 0 0).state = .stopping
       ∧ s.inFlightOf 0 0 = [] ∧ (s.slot 0 0).cmd = some (1, 1)
       ∧ optIs (s.cmd? 1 1) (fun cm => cm.trap.isNone && cm.ending.isNone) = true) := by decide +kernel

theorem wit_TrapRecordEndsCommand :
    (let s := unitAt 14
     (s.slot 0 0).state = .trapped ∧ (s.slot 0 0).trap = some (0x21, 2) ∧ (s.slot 0 0).cmd = some (1, 1)
     ∧ optIs (s.cmd? 1 1) (fun cm => cm.phase == .dispatched && cm.insts.all (fun i => i.placed == some (0, 0))) = true)
    ∧ (let s := twoTraps
       (s.slot 0 1).trap = some (0x10, 5) ∧ (s.slot 0 1).cmd = some (1, 1)
       ∧ optIs (s.cmd? 1 1) (fun cm => cm.insts.any (fun i => !i.ended && i.placed == some (0, 1))) = true)
    ∧ trapRank 0x10 < trapRank 0x21 := by decide +kernel

/-- The answer that a contribution to the slot at 0x7000 gets. -/
def answerOf (r : AtomReq) (s : State) : Option Answer :=
  match r with
  | .contrib _ c k ctx tag rslot td rows cols es _ =>
    match (applyContrib 0 (destOf ctx td rows cols) rslot (fld tag.toNat 15 0) (fld tag.toNat 63 32) (s.placedAs c k) (es.map (·.toNat))).run s with
    | .ok x => some x.1
    | .error _ => none
  | _ => none

def isStaged : Answer → Bool
  | .staged => true
  | _ => false

def isApplied : Answer → Bool
  | .applied _ _ _ => true
  | _ => false

theorem wit_AtomicUnitAnswers_claim :
    (let s := unitAt 0
     s.regionState 0 = .inService ∧ s.regions[(0 : RegionId)].atomQ = [.claim 5 0 0 0x6000 2]
     ∧ okIs ((claimAct (s.slot 0 0).ctx 0x6000 2).run s) (fun x => x.1 == 3) = true) := by decide +kernel

theorem wit_AtomicUnitAnswers_counter : okIs ((getNat 0 0x6000 4).run (unitAt 0)) (fun x => fld x.1 17 16 == 1) = true := by decide +kernel

theorem wit_AtomicUnitAnswers_commit :
    (let s := unitAt 1
     s.regions[(0 : RegionId)].atomQ = [.commit 5 0 0 0x7000 0]
     ∧ okIs ((commitAct (s.slot 0 0).ctx 0x7000 0).run s) (fun x => x.1 == 0) = true) := by decide +kernel

theorem wit_AtomicUnitAnswers_twice :
    (let s := unitAt 2
     s.regions[(0 : RegionId)].atomQ = [.commit 5 0 0 0x7000 7]
     ∧ okIs ((commitAct (s.slot 0 0).ctx 0x7000 7).run s) (fun x => x.1 == 1) = true) := by decide +kernel

theorem wit_AtomicUnitAnswers_applied : optIs (answerOf (contribA 1) (unitAt 3)) isApplied = true := by decide +kernel

theorem wit_AtomicUnitAnswers_staged :
    optIs (answerOf contribB (unitAt 5)) isStaged = true ∧ ((unitAt 7).slot 0 0).retries = [(0, contribA 2)] := by decide +kernel

/-! ## Witnesses: queues and dispatch -/

def queueAt (i : Nat) : State := queueStates.getD i ready

theorem wit_DoorbellMovesTail :
    (ready.pwr.current ≠ 3 ∧ ready.isReady = true ∧ lookup ready.queues 1 = none)
    ∧ (let s := queueAt 2
       lookup s.queues 1 = some queueA ∧ lookup s.ctxs 0 = some ctxA ∧ s.isReady = true ∧ queueA.state = .active
       ∧ ((4 : W32) - BitVec.ofNat 32 queueA.completed).toNat ≤ queueA.depth ∧ queueA.depth < ((5 : W32) - BitVec.ofNat 32 queueA.completed).toNat)
    ∧ (let s := queueAt 3; optIs (lookup s.queues 1) (fun q => hasKey s.ctxs q.ctx) = true ∧ s.isReady = false) := by decide +kernel

theorem wit_CommandsAreAcceptedInOrder :
    (let s := queueAt 4
     let qu := { queueA with tail := 1 }
     lookup s.queues 1 = some qu ∧ s.mayFetch qu = true ∧ s.acceptsFrom 1 = true
     ∧ okIs (s.readVirt none 0 0x1000 64) (fun _ => true) = true)
    ∧ (let s := queueAt 7; optIs (lookup s.queues 1) (fun q => q.fetchFailed && s.mayFetch q) = true
       ∧ okIs (s.readVirt none 0 0x1000 64) (fun _ => true) = false)
    ∧ (let s := queueAt 8; optIs (lookup s.queues 1) (fun q => q.held.length == 1) = true ∧ s.cmds = [])
    ∧ (let s := queueAt 9; optIs (lookup s.queues 1) (fun q => q.held == [(.status, true)]) = true ∧ s.cmds = []) := by decide +kernel

/-- A state's first command, with its queue. -/
def firstCmd (s : State) (p : Cmd → Queue → Bool) : Bool :=
  match s.cmds with
  | cm :: _ => optIs (lookup s.queues cm.q) (fun qu => p cm qu)
  | [] => false

theorem wit_DispatchTakesTheFirst :
    (let s := queueAt 10
     s.pwr.current = 0 ∧ firstCmd s (fun cm qu => cm.phase == .waiting && s.dispatchable s.quenched cm && s.orderOk cm && s.ifOkHolds cm
       && s.checks14 cm qu == none && (s.needs cm qu.ctx).all (fun r => !s.missing cm qu s.fls.quench.isSome r) && !cm.held) = true)
    ∧ (let s := queueAt 11; firstCmd s (fun cm _ => cm.phase == .waiting && cm.prio == 7 && s.orderOk cm) = true) := by decide +kernel

theorem wit_FirstChecksInOrder :
    firstCmd (queueAt 12) (fun cm qu => fld (cm.at 0 4) 15 8 != qu.major) = true
    ∧ firstCmd (queueAt 14) (fun cm qu => fld (cm.at 0 4) 15 8 == qu.major && fld (cm.at 0 4) 7 0 ≤ qu.minor && 0x0B < cm.type) = true
    ∧ (let s := queueAt 15; firstCmd s (fun cm qu => cm.type == tyFence && !cm.reservedClean && s.checks14 cm qu == some 0x20
        && s.dispatchable s.quenched cm && s.orderOk cm && s.ifOkHolds cm) = true)
    ∧ (let s := queueAt 17; firstCmd s (fun cm qu => cm.reservedClean && !s.rangeClean cm qu.ctx) = true) := by decide +kernel

theorem wit_RecordsInQueueOrder :
    (let s := queueAt 18
     optIs (lookup s.queues 1) (fun q => !q.postHeld && q.state == .active) = true
     ∧ optIs (s.cmd? 1 1) (fun cm => cm.phase == .ended && cm.settled
         && okIs (s.writeVirt none 0 0x2000 (cm.record 4)) (fun t => okIs (t.writeVirt none 0 0x3000 (zeros 64)) (fun _ => true))) = true)
    ∧ (let s := queueAt 19; optIs (s.cmd? 1 1) (fun cm => cm.phase == .ready) = true) := by decide +kernel

/-! ## Witnesses: commands -/

def kernelAt (i : Nat) : State := kernelStates.getD i ready

/-- The state's command 1 of queue 1. -/
def theCmd (s : State) (p : Cmd → Bool) : Bool := optIs (s.cmd? 1 1) p

/-- What the checks of a KERNEL's header answer: none, when its read fails. -/
def headerOf (s : State) : Option (Except Nat KHeader) :=
  match s.cmd? 1 1, lookup s.queues 1 with
  | some cm, some qu =>
    match s.kernelHeader qu.ctx qu.major qu.minor (cm.at 0x10 8) with
    | .ok x => some x
    | .error _ => none
  | _, _ => none

/-- A granted KERNEL with one instance and no counter block. -/
def plainKernel : State := sent (kernelA .granted) (blocks 0x6000 (imageBytes 0 64))

theorem wit_KernelDispatches_header :
    theCmd plainKernel (fun cm => cm.phase == .granted && cm.type == tyKernel) = true
    ∧ optIs (headerOf plainKernel) (fun r => okIs r (fun h => h == hdrA && plainKernel.unitsFit h)) = true := by decide +kernel

theorem wit_KernelDispatches_act :
    theCmd plainKernel (fun cm => okIs ((kernelAct 0 cm hdrA).run plainKernel) (fun _ => true)) = true := by decide +kernel

theorem wit_KernelDispatches_counted :
    optIs (headerOf (kernelAt 0)) (fun r => okIs r (fun h => h == hdrA && (kernelAt 0).unitsFit h)) = true := by decide +kernel

theorem wit_KernelDispatches_bad : optIs (headerOf (kernelAt 2)) (fun r => !okIs r (fun _ => true)) = true := by decide +kernel

theorem wit_KernelDispatches_wide : optIs (headerOf wideKernel) (fun r => okIs r (fun h => !wideKernel.unitsFit h)) = true := by decide +kernel

theorem wit_KernelDispatches_roles :
    (∀ g : RegionId, roleAllows (kernelAt 4).regions[g].roleNow 2 = false) ∧ roleAllows plainKernel.regions[(0 : RegionId)].roleNow 3 = true := by
  decide +kernel

theorem wit_PlacementFillsASlot :
    let s := kernelAt 6
    theCmd s (fun cm => cm.phase == .dispatched && cm.type == tyKernel && !cm.held && cm.trap.isNone && cm.ending.isNone && !s.coresHeld cm
      && cm.nextInst.isSome && s.bestCore (s.anchor 0 (cm.at 0x38 8) (cm.at 0x20 8)) (s.coreTakes 0 3 cm.hdr cm.bannedRegions) == some 0
      && s.cores[(0 : CoreId)].freeSlot? == some 0 && s.cores[(0 : CoreId)].freeStore cm.hdr.storeBytes == some 0
      && okIs (s.readVirt none 0 cm.args cm.hdr.argBytes) (fun bs => bs.length == 32)) = true
    ∧ s.quenched 0 = false := by decide +kernel

theorem wit_SlotsLoadFetchAndYield :
    (let s := loadingA; s.coreUp 0 = true ∧ (s.slot 0 0).state = .loading ∧ s.fetched 0 0 ≠ none)
    ∧ (let s := loadMissA
       (s.slot 0 0).state = .loading ∧ (s.slot 0 0).pc < (s.slot 0 0).hdr.length
       ∧ okIs (s.readVirt (some 0) 0 0x6040 16) (fun _ => true) = true)
    ∧ (let s := missA 1; s.coreUp 0 = true ∧ (s.slot 0 0).state = .running ∧ (s.slot 0 0).round = none ∧ (s.slot 0 0).stopsAtIssue = false
       ∧ (s.slot 0 0).hdr.length ≤ (s.slot 0 0).pc)
    ∧ (let s := missA 0; (s.slot 0 0).pc < (s.slot 0 0).hdr.length ∧ s.fetched 0 0 = none) := by decide +kernel

theorem wit_SlotsLoadFetchAndYield_victim :
    theCmd yieldA (fun cm => yieldA.waitsForCore cm) = true
    ∧ optIs (headerOf yieldA) (fun r => okIs r (fun h =>
        (List.finRange 96).all (fun c => !yieldA.coreTakes 0 2 h [] c)
        && theCmd yieldA (fun cm => yieldA.victim cm { queueA with role := 2 } h == some (0, 0)))) = true := by decide +kernel

def copyAt (i : Nat) : State := copyStates.getD i ready

theorem wit_CopyAndFillMoveBytes :
    (let s := copyAt 0
     theCmd s (fun cm => cm.phase == .granted && cm.type == tyCopy && cm.dstExtent.kind != 1
       && s.copyCheck 0 [cm.srcExtent, cm.dstExtent] false (cm.srcExtent.overlaps cm.dstExtent) == none
       && (copyRows 0 cm.srcExtent cm.dstExtent (List.range cm.srcExtent.rows) (s.noteFlash cm.srcExtent)).2.isNone) = true)
    ∧ (let s := copyAt 1
       theCmd s (fun cm => (s.copyCheck 0 [cm.srcExtent, cm.dstExtent] false (cm.srcExtent.overlaps cm.dstExtent)).isSome) = true)
    ∧ (let s := copyMore.getD 0 ready
       theCmd s (fun cm => optIs (copyRows 0 cm.srcExtent cm.dstExtent (List.range cm.srcExtent.rows) (s.noteFlash cm.srcExtent)).2 (fun e => e.final)) = true)
    ∧ (let s := copyAt 3
       theCmd s (fun cm => cm.type == tyFill && cm.dstExtent.kind == 0 && s.copyCheck 0 [cm.dstExtent] false cm.discard == none
         && (fillRows 0 (cm.at 0x38 8) cm.dstExtent (List.range cm.dstExtent.rows) s).2.isNone) = true)
    ∧ theCmd (copyMore.getD 1 ready) (fun cm => cm.type == tyFill && cm.dstExtent.kind == 1 && cm.discard && cm.phase == .granted) = true
    ∧ theCmd (copyAt 5) (fun cm => cm.phase == .ready && cm.type == tyFill && cm.discard && cm.status == 0 && cm.staged == 0 && !cm.held) = true
    ∧ theCmd (copyMore.getD 2 ready) (fun cm => cm.phase == .ready && cm.type == tyCopy && cm.saves.length == 1 && cm.staged == 0) = true := by
  decide +kernel

theorem wit_ForkMakesAndCullEndsSequences :
    theCmd (forkA true) (fun cm => cm.phase == .granted && cm.type == tyFork && bit (cm.at 0x18 4) 16
      && okIs ((forkList 0 (cm.at 0x10 8) 1).run (forkA true)) (fun x => x.1.length == 1)) = true
    ∧ theCmd (forkA false) (fun cm => !bit (cm.at 0x18 4) 16) = true
    ∧ theCmd (cullA true) (fun cm => cm.phase == .granted && cm.type == tyCull
        && okIs ((cullList 0 (cm.at 0x10 8) 1).run (cullA true)) (fun x => x.1 == [7])) = true
    ∧ sortedKeys (cullA true).seqs = true
    ∧ (let s := culling false
       optIs (lookup s.seqs 7) (fun x => x.state == .culling && !x.inFlight && x.coil.isNone) = true ∧ s.gathering 7 = false) := by decide +kernel

def eventAt (i : Nat) : State := eventStates.getD i ready

theorem wit_FenceSignalWaitHint :
    theCmd (eventAt 0) (fun cm => cm.phase == .granted && cm.type == tyFence) = true
    ∧ (∀ i ∈ [1, 2], theCmd (eventAt i) (fun cm => cm.phase == .granted && cm.type == tySignal && !cm.held
        && bit (cm.at 0x10 4) 16 == (i == 1) && okIs ((getNat 0 0x4008 8).run (eventAt i)) (fun x => x.1 == 9)) = true)
    ∧ (∀ i ∈ [3, 4], theCmd (eventAt i) (fun cm => cm.phase == .granted && cm.type == tyWait && (cm.at 0x18 8 ≤ 9) == (i == 3)) = true)
    ∧ theCmd (eventAt 6) (fun cm => cm.phase == .dispatched && cm.type == tyWait && cm.deadline.isSome && cm.insts.isEmpty && cm.trap.isNone
        && cm.ending.isNone && !cm.held) = true
    ∧ (hintState 63).pwr.hints.length = 63 ∧ (hintState 64).pwr.hints.length = 64
    ∧ theCmd (hintState 64) (fun cm => cm.phase == .granted && cm.type == tyHint) = true ∧ hintA.started = true := by decide +kernel

/-! ## Witnesses: coils -/

theorem wit_RoundsTakeTheNextEntries :
    (let s := roundA 0 .granted .resident
     theCmd s (fun cm => cm.phase == .granted && cm.type == tyRound && cm.roundOp == 0
       && okIs ((roundCheck 0 cm).run s) (fun x => x.1.2.length == 1)) = true
     ∧ roleAllows s.regions[(0 : RegionId)].roleNow 3 = true ∧ s.regionState 0 ≠ .fenced)
    ∧ (∀ op ∈ [1, 2, 3, 4], theCmd (roundA op .granted .parked) (fun cm => cm.phase == .granted && cm.roundOp == op) = true)
    ∧ theCmd roundBad (fun cm => cm.roundOp == 0 && !okIs ((roundCheck 0 cm).run roundBad) (fun _ => true)) = true := by decide +kernel

/-- The entry of coil 5. -/
def coil5 (s : State) (p : Coil → Bool) : Bool := optIs (lookup s.coils 5) p

theorem wit_RoundsBecomeReady :
    (∀ op ∈ [0, 1, 2, 3, 4], theCmd (roundA op .dispatched .resident) (fun cm => cm.phase == .dispatched && cm.type == tyRound && !cm.held
        && cm.roundOp == op && cm.rounds.length == 1) = true)
    ∧ theCmd (roundKernels.getD 1 ready) (fun cm => cm.roundDone == [5]) = true
    ∧ (let s := roundKernels.getD 0 ready
       coil5 s (fun x => s.roundRuns 1 1 5 x) = true)
    ∧ (let s := roundA 0 .dispatched .resident
       coil5 s (fun x => !s.roundRuns 1 1 5 x && x.cores.all (fun c => s.cores[c].takesRound 0 ((roundDescOf (roundDescA true)).storeBytes 1))) = true
       ∧ s.groupResident 3 false [{ coil := 5, place := 0, seq := 1, resetAt := 0 }] = true)
    ∧ (let s := roundA 0 .dispatched .parked
       coil5 s (fun x => x.status == .parked && x.widthLog2 == 0 && !s.roundRuns 1 1 5 x) = true
       ∧ ((List.finRange 96).find? (s.groupCore 0 3 false (roundDescOf (roundDescA true)).slices ((roundDescOf (roundDescA true)).storeBytes 1) 2)).isSome
          = true)
    ∧ (let s := roundA 1 .dispatched .resident
       s.mustPark 1 (roundDescOf (roundDescA false)) { coil := 5, place := 0, seq := 1, resetAt := 0 } = true)
    ∧ (let s := roundA 1 .dispatched .parked
       s.mustPark 1 (roundDescOf (roundDescA false)) { coil := 5, place := 0, seq := 1, resetAt := 0 } = false) := by decide +kernel

/-- The ready ROUND of an OP. -/
def roundReady (op : Nat) : State := { roundA op .ready .resident with cmds := [roundW op .ready] }

theorem wit_RoundCommitMovesTheSequence :
    ∀ op ∈ [1, 2, 3, 4], sortedKeys (roundReady op).coils = true
      ∧ theCmd (roundReady op) (fun cm => cm.rounds.length == 1 && cm.outs.isEmpty && cm.roundOp == op
          && okIs ((commitRound 0 cm).run (roundReady op)) (fun _ => true)) = true := by decide +kernel

/-- A state with coil 5, reset, on its way. -/
def coilState (st : CoilStatus) : State := { roundA 0 .dispatched st with cmds := [], coils := [(5, { coilA st with reset := true })] }

theorem wit_CoilsMove :
    coil5 (coilState .unparking) (fun x => x.status == .unparking && !x.tail && x.widthLog2 == 0
      && okIs ((coilState .unparking).sliceBytes x 5) (fun _ => true)) = true
    ∧ coil5 (coilState .parking) (fun x => x.status == .parking && !x.tail && x.widthLog2 == 0) = true
    ∧ coil5 (evictA true) (fun x => x.holder.isSome && x.status == .resident && x.core == 0 && x.widthLog2 == 0 && !x.tail) = true
    ∧ coil5 (evictA false) (fun x => x.holder.isNone) = true ∧ (evictA false).coils.length = 1 ∧ (0 : CoreId) ∈ (evictA false).unitsWanted := by
  decide +kernel

/-! ## Witnesses: the commit point, quenches -/

theorem wit_CommitEndsCommands :
    theCmd (commitMore.getD 0 ready) (fun cm => cm.phase == .ready && !cm.held && cm.staged == 1) = true
    ∧ (let s := sent (kernelA .ready)
       theCmd s (fun cm => cm.phase == .ready && cm.type == tyKernel && cm.staged == 0
         && okIs ((commitAppends 0 cm).run s) (fun _ => true)) = true)
    ∧ (let s := { commitMore.getD 1 ready with ctxs := [(0, { ctxA with poolTable := 9 * 2 ^ 21 })] }
       theCmd s (fun cm => cm.staged == 0 && !okIs ((commitAppends 0 cm).run s) (fun _ => true)) = true)
    ∧ (let s := roundReady 4
       theCmd s (fun cm => cm.type == tyRound && okIs ((commitRound 0 cm).run s) (fun _ => true)) = true)
    ∧ theCmd commitLost (fun cm => cm.type == tyRound && cm.phase == .ready && !okIs ((commitRound 0 cm).run commitLost) (fun _ => true)) = true
    ∧ (∀ ty ∈ [tyFork, tyCull, tySignal, tyWait, tyHint, tySnapshot],
        theCmd (sent { cmdW ty .ready [] with status := 0x22 }) (fun cm => cm.type == ty && cm.phase == .ready && cm.status != 0) = true)
    ∧ theCmd (sent (copyA .ready 0x6000 (flash 2) 4096)) (fun cm => cm.type == tyCopy && cm.status == 0 && cm.staged == 0) = true := by
  decide +kernel

theorem wit_QuenchPhases :
    (let s := sent (cmdW tySnapshot .granted [(0x18, 9)])
     theCmd s (fun cm => cm.phase == .granted && cm.type == tySnapshot) = true ∧ s.fls.quench = none
     ∧ s.fls.emptyEntry = some 0 ∧ { s.fls with snap8 := 0 }.snapFree = 0)
    ∧ (let s := sent (cmdW tySnapshot .granted [(0x18, 9)])
       { s.fls with snaps := Vector.replicate 16 { Snap.reset with state := .committed } }.emptyEntry = none)
    ∧ optIs (quenched .drain false 2).fls.quench (fun z => z.phase == .drain) = true
    ∧ optIs (quenched .capture false 2).fls.quench (fun z => z.phase == .capture && !z.redo) = true
    ∧ optIs (quenched .capture true 2).fls.quench (fun z => z.phase == .capture && z.redo) = true
    ∧ optIs (quenched .write false 2).fls.quench (fun z => z.phase == .write && z.img.isSome && z.entry < 16) = true
    ∧ (quenched .write false 2).svc.waiting = []
    ∧ optIs ((quenched .drain false 2).cmd? 1 2) (fun cm => cm.phase == .dispatched && cm.insts.any (fun y => y.placed.isSome && !y.ended)) = true := by
  decide +kernel

/-! ## Witnesses: the mailboxes -/

/-- mailFree for host port 0. -/
def mailReady (s : State) : Bool :=
  s.pwr.current != 3 && s.isReady && !s.mbox[(0 : HostPort)].busy && s.mbox[(0 : HostPort)].waitOp.isNone && !s.mbox[(1 : HostPort)].busy

theorem wit_ContextsComeAndGo :
    (mailReady (mail 0x1000 0 0) = true ∧ (ctxBytes 5 0 2).length = 64 ∧ ctxDescClean (ctxBytes 5 0 2) = true
      ∧ ctxDescClean (words 4 [0x200] ++ zeros 60) = false)
    ∧ (let d := ctxDescOf (ctxBytes 5 0 0)
       d.home = 0 ∧ (ctxDescOf (ctxBytes 5 1 0)).home = 1 ∧ hasKey ready.ctxs d.id = false ∧ hasKey ready.ctxs (ctxDescOf (ctxBytes 0 0 0)).id = true
       ∧ d.ok ready.fls.dataBlocks = true ∧ d.excl = 0)
    ∧ (ctxDescOf (ctxBytes 5 0 2)).excl = 2 ∧ (ctxDescOf (ctxBytes 5 0 2)).ok ready.fls.dataBlocks = true ∧ ready.coils = []
    ∧ ((mailMore.getD 0 ready).chooseCores 2).length = 1
    ∧ ((ready.chooseCores 2).length = 2 ∧ ∀ c ∈ ready.chooseCores 2, ready.cores[c].resident = [])
    ∧ (let s := running 0 [] []; ∃ c ∈ s.chooseCores 96, ∃ sl ∈ s.cores[c].resident, sl.ctx ≠ 5) := by decide +kernel

theorem wit_ContextsComeAndGo_ends :
    (let s := mailMore.getD 1 ready; mailReady s = true ∧ optIs (lookup s.ctxs 0) (fun c => c.home == 0) = true ∧ sortedKeys s.ctxs = true
      ∧ ∀ e ∈ s.queues, e.2.ctx ≠ 0)
    ∧ (∃ e ∈ (mailStates.getD 2 ready).queues, e.2.ctx = 0)
    ∧ (let s := mailStates.getD 3 ready; optIs (lookup s.ctxs 0) (fun c => c.home == 1) = true)
    ∧ (drainA.mbox[(0 : HostPort)].waitOp = some (.ctxCreate 0 (.data (ctxBytes 5 0 2))) ∧ drainA.ownedBy 5 ≠ []
      ∧ hasKey drainA.ctxs 5 = false ∧ drainA.mbox[otherPort 0].behind = false ∧ (ctxDescOf (ctxBytes 5 0 2)).id = 5) := by decide +kernel

theorem wit_QueuesComeAndGo :
    (let s := mail 0x1000 0 0
     let qu := queueOf (queueBytes 9 0) 1
     mailReady s = true ∧ (queueBytes 9 0).length = 64 ∧ queueDescClean (queueBytes 9 0) = true ∧ qu.ctx = 0 ∧ qu.fieldsOk ctxA.maxPrio = true
     ∧ fld (leAt (queueBytes 9 0) 4 4) 19 0 = 9 ∧ s.tableWrites 9 = true ∧ s.mbox[(0 : HostPort)].addr.toNat % 64 = 0
     ∧ okIs (({ s with stacked := mapped [(0x3000, []), (0x3020, [])] }).writeVirt none 0 qu.statusBlock qu.statusBytes) (fun _ => true) = true)
    ∧ (let s := mail 0 1 0 { ready with queues := [(1, queueA)] }
       mailReady s = true ∧ sortedKeys s.queues = true ∧ lookup s.queues 1 = some queueA ∧ s.cmds = [] ∧ s.tableWrites 1 = true) := by
  decide +kernel

theorem wit_MailboxServices :
    (let s := mailStates.getD 12 ready
     mailReady s = true ∧ fld s.mbox[(0 : HostPort)].arg0.toNat 31 12 = 1 ∧ s.mbox[(0 : HostPort)].arg1.toNat % 2097152 = 0
     ∧ optIs (lookup s.ctxs 0) (fun c => c.home == 0) = true)
    ∧ (∀ i ∈ [4, 5, 6, 7, 8], mailReady (mailStates.getD i ready) = true ∧ hasKey (mailStates.getD i ready).queues 1 = true)
    ∧ theCmd (mailStates.getD 6 ready) (fun cm => cm.phase == .ended) = true ∧ theCmd (mailStates.getD 7 ready) (fun cm => cm.held) = true
    ∧ theCmd (mailStates.getD 4 ready) (fun cm => cm.phase == .waiting && cm.cancellable && !cm.placedAny) = true
    ∧ theCmd (mailMore.getD 2 ready) (fun cm => cm.cancellable && cm.placedAny) = true := by decide +kernel

/-! ## Witnesses: faults, resets, epochs -/

/-- plainCmds. -/
def plainB (s : State) : Bool := s.cmds.all (fun cm => cm.type != tyRound && cm.trap.isNone && cm.ending.isNone)

def commanded : State := dieMore.getD 0 ready

theorem wit_CoreFaultFencesTheCore :
    (commanded.coreUp 0 = true ∧ plainB commanded = true ∧ commanded.coils = [] ∧ (commanded.part (.core 0)).owed = 0
      ∧ (commanded.part (.core 0)).mayAdvance commanded.timeNs = true ∧ (commanded.slot 0 0).cmd = some (1, 1))
    ∧ (let s := running (insn [(0, 0x010)]) [] []; (s.slot 0 0).state = .running ∧ s.ready 0 0 = true)
    ∧ (part (.core 0) (away .fenced)).coreUp 0 = false := by decide +kernel

theorem wit_RegionResetKeepsTheStack :
    ready.regionState 3 = .inService ∧ plainB ready = true ∧ ready.coils = [] ∧ ready.fls.quench = none ∧ ready.copyA ≠ some 3
    ∧ ready.copyB ≠ some 3 ∧ (part (.region 3) (away .resetting)).regionState 3 ≠ .inService := by decide +kernel

theorem wit_RegionResetEnds :
    (let s := part (.region 3) (away .resetting)
     (s.part (.region 3)).state = .resetting ∧ (s.part (.region 3)).returning = false ∧ (s.part (.die 1)).state ≠ .fenced ∧ s.cmds = []
     ∧ s.fls.quench = none ∧ s.svc.fuses = [] ∧ s.badCheckers = [] ∧ s.regions[(3 : RegionId)].lanesBad = [] ∧ (s.part (.region 3)).owed = 0
     ∧ (s.part (.region 3)).mayAdvance s.timeNs = true ∧ s.svc.draining ≠ some 3)
    ∧ (ready.part (.region 3)).state ≠ .resetting := by decide +kernel

theorem wit_DieFaultAndReturn :
    ((commanded.part (.die 0)).state ≠ .fenced ∧ plainB commanded = true ∧ commanded.coils = [] ∧ commanded.fls.quench = none
      ∧ (∀ g : RegionId, dieOfRegion g = 0 → commanded.copyA ≠ some g ∧ commanded.copyB ≠ some g)
      ∧ theCmd commanded (fun cm => cm.phase == .dispatched && !cm.held && cm.insts.any (fun y => !y.ended && y.placed == some (0, 0))) = true)
    ∧ ((dieDown.part (.die 1)).state = .fenced ∧ dieDown.cmds = [] ∧ dieDown.coils = [] ∧ dieDown.svc.fuses = [] ∧ dieDown.badCheckers = []
      ∧ (dieDown.part (.die 1)).owed = 0 ∧ (dieDown.part (.die 1)).mayAdvance dieDown.timeNs = true
      ∧ ∀ g : RegionId, dieOfRegion g = 1 → dieDown.regions[g].outOfService = false ∧ dieDown.regions[g].lanesBad = []
          ∧ (dieDown.part (.region g)).owed = 0 ∧ (dieDown.part (.region g)).mayAdvance dieDown.timeNs = true)
    ∧ (dieMore.getD 1 ready).stationBad 1 = true := by decide +kernel

theorem wit_WarmResetKeepsTheStacks :
    (ready.diesOn = true ∧ (∀ g : RegionId, ready.channelBad g = false ∧ ready.regions[g].lanesBad = []) ∧ ready.log.recs.length ≤ 8192)
    ∧ (copies none none).isReady = true ∧ (copies none none).copyA = none
    ∧ ((copies (some 9) (some 4)).copyPlace 4 = some 0 ∧ (copies (some 9) (some 4)).copyPlace 9 = some 0) := by decide +kernel

theorem wit_EpochsMoveAtMostOncePerMillisecond :
    (let e := (owing true true).part (.region 3)
     0 < e.owed ∧ e.mayAdvance (owing true true).timeNs = true ∧ (owing true true).fls.quench = none ∧ e.returning = true ∧ e.owed = 1)
    ∧ (let e := (owing false true).part (.region 3)
       e.mayAdvance (owing false true).timeNs = false ∧ e.lastNs = some 1000001 ∧ (owing false true).timeNs < 1000001 + 1000000) := by
  decide +kernel

/-! ## Witnesses: fabric, time slots, scrub, flash -/

def fabricAt (i : Nat) : State := fabricStates.getD i ready

theorem wit_RequestsAndTimeSlots_requests :
    (let s := fabricAt 0
     s.remoteNode (reqA 0 none) = none ∧ s.fabric = [] ∧ s.stateOf (.region 3) = .inService ∧ (reqA 0 none).epoch = (s.part (.region 3)).epoch
     ∧ s.stackedOk (3 * stackSpan) = true ∧ okIs (s.readLoc (reqLoc (reqA 0 none)) 32) (fun _ => true) = true
     ∧ okIs (s.writeLoc (reqLoc (reqA 0 (some 9))) (leBytes 32 9)) (fun _ => true) = true ∧ (s.replyPath (reqA 0 none)).length ≠ 0)
    ∧ (reqA 1 none).epoch ≠ ((fabricAt 0).part (.region 3)).epoch
    ∧ ((fabricAt 1).fabric = [waitA .absent] ∧ sameClass (reqA 0 none) (reqA 0 none) = true)
    ∧ ((fabricAt 2).fabric.find? (fun w => w.req.id == 5 && w.stage == .served) = some (waitA .served) ∧ (fabricAt 2).slots.waiting = [])
    ∧ (fabricAt 3).stateOf (.region 3) = .resetting ∧ (fabricAt 4).stateOf (.region 3) = .fenced := by decide +kernel

theorem wit_RequestsAndTimeSlots_routes :
    (ready.cutOn 0 [true, false] = false ∧ (∀ e : Fin 4, ready.edgeFenced[e] = false) ∧ (∀ i : Fin 32, ready.segFenced[i] = false)
      ∧ ∀ d : DieId, (ready.part (.die d)).state ≠ .fenced)
    ∧ (let s := part (.die 1) (away .fenced); s.cutOn 0 [true, false] = true ∧ s.cutOn 0 [false, true] = false)
    ∧ (let s := { ready with edgeFenced := ready.edgeFenced.set 0 true }; s.cutOn 0 [true] = true ∧ s.cutOn 0 [false, true, false] = false) := by
  decide +kernel

theorem wit_RequestsAndTimeSlots_slots :
    (let x := transferA (.controller 3) 0 1 true
     (fabricAt 8).slots.waiting = [x] ∧ x.prio = .bulk ∧ x.promoted = false
     ∧ x.since + (fabricAt 8).regions[regionOfLink x.link].bulkAge ≤ (fabricAt 8).timeNs)
    ∧ (let x := transferA (.segment 0 0 true) 0 9 false
       (fabricAt 6).slots.waiting = [x] ∧ (fabricAt 6).timeNs + 5 + 1000 * x.age ≤ x.born + 1000000 ∧ (fabricAt 6).beatsOf x.link < x.beats)
    ∧ (let x := transferA (.segment 0 0 true) 0 1 false; (fabricAt 5).slots.waiting = [x] ∧ x.beats ≤ (fabricAt 5).beatsOf x.link)
    ∧ (let x := transferA (.controller 3) 0 1 true
       (fabricAt 7).slots.waiting = [x] ∧ x.write = true ∧ (fabricAt 7).regions[(3 : RegionId)].busWrite = []) := by decide +kernel

theorem wit_RequestsAndTimeSlots_strobe :
    (fabricAt 12).slots.strobeAbsent = true ∧ ready.slots.strobeAbsent = false ∧ ready.slots.waiting = [] ∧ ready.tim.slewNs = 0 := by decide +kernel

theorem wit_RequestsAndTimeSlots_table : tableError defaultTable = 0 := by decide +kernel

theorem wit_RequestsAndTimeSlots_tables :
    tableError (defaultTable.set 0 9) ≠ 0 ∧ (fabricAt 13).slots.copied = some defaultTable := by decide +kernel

theorem wit_RequestsAndTimeSlots_ends : (fabricAt 14).slots.framesLeft ≤ 1 ∧ (fabricAt 14).slots.slot = 255 := by decide +kernel

theorem wit_ScrubAndFlashCare :
    (ready.pwr.current < 2 ∧ ready.regionMem.bad = [] ∧ ready.coreStore.bad = [] ∧ ready.accMem.bad = [])
    ∧ (let s := scrubMore.getD 0 ready
       let b := 3 * regionBytes / 32
       s.regionMem.bad = [(b, 1)] ∧ (3 * regionBytes + 2048 * s.regions[(3 : RegionId)].sramPos % regionBytes) / 32 ≤ b
       ∧ (match s.regionMem.check b with
         | .corrected _ _ => true
         | _ => false) = true)
    ∧ (∀ n ∈ [1, 0xB], (scrubA n).regionState 3 = .inService ∧ (scrubA n).regions[(3 : RegionId)].writeback = none
        ∧ (scrubA n).regions[(3 : RegionId)].scrubPos < stackSpan / 32)
    ∧ ((scrubStates.getD 4 ready).regions[(3 : RegionId)].writeback).isSome = true
    ∧ (∃ d i, (scrubA 1).stackedCheck (3 * stackSpan / 32) = .corrected d i) := by
  refine ⟨by decide +kernel, by decide +kernel, by decide +kernel, by decide +kernel, ?_⟩
  have h : (match (scrubA 1).stackedCheck (3 * stackSpan / 32) with
    | .corrected _ _ => true
    | _ => false) = true := by decide +kernel
  revert h
  cases (scrubA 1).stackedCheck (3 * stackSpan / 32) <;> simp

theorem wit_ScrubAndFlashCare_flash :
    (flashA 50000).fls.readLimitK * 1000 ≤ (flashA 50000).fls.readsOf 4 ∧ (flashA 49999).fls.readsOf 4 < (flashA 49999).fls.readLimitK * 1000
    ∧ (∀ n ∈ [150, 151], ∃ s ∈ scrubMore, s.fls.leastWorn = some (1, 0) ∧ s.fls.cycles = [(1, 0), (2, n)])
    ∧ ready.fls.leastWorn = none := by decide +kernel

/-! ## Witnesses: sample queues, registers -/

def smpAt (i : Nat) : State := smpStates.getD i ready

theorem wit_SampleQueuesRun_start :
    ((smpAt 0).isReady = true ∧ (smpAt 0).smp[(2 : SampleQ)].state = 0 ∧ (smpAt 0).stackedOk 0x206A00 = true
      ∧ (smpAt 0).stackedOk (0x206A00 + 127) = true ∧ smpDescClean smpBytes = true ∧ (smpAt 0).smpDescOk (smpDescOf smpBytes) = true)
    ∧ smpDescClean (zeros 128) = false ∧ (smpAt 2).smpDescOk (smpDescOf (smpBytes.set 24 0)) = false
    ∧ (smpAt 4).stackedOk (14 * stackSpan) = false ∧ (smpAt 5).smp[(2 : SampleQ)].state = 1 := by decide +kernel

theorem wit_SampleQueuesRun_decode :
    (let s := smpAt 5
     let x := s.smp[(2 : SampleQ)]
     s.smpRuns 2 = some descA ∧ s.smpTurnOf 2 = true ∧ x.work = [] ∧ okIs (s.smpCons descA) (fun c => x.mayEnter descA c) = true
     ∧ descA.epochOf x.nextPos < 1048576
     ∧ okIs (s.smpEntry descA { decoding with lane := none, entry := [] }) (fun bs => bs == entryA
         && okIs (s.entryFails descA (smpEntryOf false bs)) (fun r => r.isNone)) = true
     ∧ (s.freeLane (smpEntryOf false entryA).codec).isSome = true)
    ∧ (let d := { descA with startEpoch := 1048576 }
       (smpAt 6).smpRuns 2 = some d ∧ 1048576 ≤ d.epochOf (smpAt 6).smp[(2 : SampleQ)].nextPos) := by decide +kernel

theorem wit_SampleQueuesRun_end :
    (let s := smpAt 7
     let e := smpEntryOf false entryA
     s.smpRuns 2 = some descA ∧ s.smp[(2 : SampleQ)].work.find? (fun y => y.pos == 0 && y.lane.isSome) = some decoding ∧ e.codec ≤ 1
     ∧ optIs (e.decodeOwn (s.source descA e).1) (fun o => okIs o.res (fun r => r.1 == [1, 2])
         && okIs (s.readVirt none 0 e.src o.read) (fun _ => true)
         && okIs (s.smpBudget s.smp[(2 : SampleQ)] descA 0) (fun b => o.units ≤ b)) = true)
    ∧ (let s := smpAt 8
       let e := smpEntryOf false entryA
       optIs (e.decodeOwn (s.source descA e).1) (fun o => !okIs o.res (fun _ => true)) = true)
    ∧ (let s := smpMore.getD 0 ready
       let e := smpEntryOf false entryA
       (e.decodeOwn (s.source descA e).1).isNone = true ∧ (s.source descA e).2.isSome = true)
    ∧ (smpEntryOf false jpegA.entry).codec = 2 ∧ ((smpEntryOf false jpegA.entry).decodeOther descA .truncated).isSome = true := by decide +kernel

theorem wit_SampleQueuesRun_handoff :
    (let s := smpAt 18
     s.smpRuns 2 = some descA ∧ s.smp[(2 : SampleQ)].work = [handing doneA] ∧ descA.last ≠ some 0 ∧ descA.pack = false
     ∧ s.smp[(2 : SampleQ)].row = [] ∧ okIs ((descA.room 0).run s) (fun r => r.1) = true)
    ∧ (smpAt 17).smp[(2 : SampleQ)].work = [{ decoding with lane := none, stop := some 0x21 }]
    ∧ okIs ((descA.room 2).run (smpAt 19)) (fun r => !r.1) = true
    ∧ (doneA.dropped = false ∧ liveA.live = true ∧ liveA.maxAgeUs * 1000 < (smpAt 22).timeNs - doneA.captureNs)
    ∧ ((smpAt 23).smpRuns 2 = some packA ∧ rowUsed [] + doneA.payload.length / packA.tokenBytes ≤ packA.rowTokens
      ∧ packA.rowTokens < rowUsed [rowA] + doneA.payload.length / packA.tokenBytes ∧ (smpAt 24).smp[(2 : SampleQ)].row = [rowA])
    ∧ (2 ∈ (smpAt 26).lanesFenced ∧ 3 ∉ (smpAt 26).lanesFenced) := by decide +kernel

theorem wit_RegisterRows :
    (ready.pwr.current = 0 ∧ ready.isReady = true ∧ ready.diesOn = true ∧ ready.excluded 0 1 = false)
    ∧ (registerStates.getD 3 ready).excluded 0 1 = true ∧ (registerStates.getD 1 ready).isReady = false
    ∧ (ready.wide 0 0x20100).isSome = true := by decide +kernel

/-! ## Witnesses: transfers, Darit -/

def xferAt (i : Nat) : State := xferStates.getD i ready
def xferMoreAt (i : Nat) : State := xferMore.getD i ready

/-- The entry that the transfer registers name. -/
def xferSnap (s : State) : Snap := s.fls.snaps[s.fls.xEntry]

/-- No transfer under way, the port up or not, the named entry so. -/
def xferIn (s : State) (st : SnapState) : Bool :=
  s.pwr.current != 3 && s.isReady && !s.fls.xBusy && decide ((xferSnap s).state = st)

theorem wit_TransferOperations_export :
    (xferIn (xferMoreAt 0) .empty = true
      ∧ (xferIn (xferAt 1) .committed = true ∧ (xferAt 1).fls.xRange (xferSnap (xferAt 1)).blocks = false))
    ∧ (xferIn (xferAt 2) .committed = true ∧ (xferAt 2).fls.xRange (xferSnap (xferAt 2)).blocks = true
      ∧ (xferAt 2).hif[(xferAt 2).fls.xHost].up = false)
    ∧ (xferIn (xferAt 0) .committed = true ∧ (xferAt 0).fls.xRange (xferSnap (xferAt 0)).blocks = true
      ∧ (xferAt 0).hif[(xferAt 0).fls.xHost].up = true) := by decide +kernel

/-- The entry with the range that the registers name taken in. -/
def xferTaken (s : State) : Snap :=
  (xferSnap s).take s.fls.xOff.toNat (spaceRead s.hostMem (hostKey s.fls.xHost s.fls.xAddr.toNat) s.fls.xLen.toNat)

/-- A range may come in to an entry that is being imported. -/
def xferMay (s : State) : Bool :=
  xferIn s .writing && s.hif[s.fls.xHost].up && (xferSnap s).imported && s.fls.xRange (xferSnap s).blocks

/-- The CRC fold on numbers, each step's value looked at before the next. -/
def crcSteps (l : List Byte) (c : Nat) : Nat :=
  match l with
  | [] => c
  | b :: t =>
    bif Nat.beq c 0 then crcSteps t (crcByte (BitVec.ofNat 32 c) b).toNat else crcSteps t (crcByte (BitVec.ofNat 32 c) b).toNat

theorem crcSteps_eq (l : List Byte) (c : BitVec 32) : crcSteps l c.toNat = (l.foldl crcByte c).toNat := by
  induction l generalizing c with
  | nil => rfl
  | cons b t ih => simp only [crcSteps, List.foldl_cons, BitVec.ofNat_toNat, BitVec.setWidth_eq, cond_eq_ite, ite_self, ih]

theorem crc32_eq (l : List Byte) : crc32 l = (BitVec.ofNat 32 (crcSteps l (0xFFFFFFFF#32).toNat) ^^^ 0xFFFFFFFF#32).toNat := by
  simp only [crc32, crcSteps_eq, BitVec.ofNat_toNat, BitVec.setWidth_eq]

theorem headerOk_imported : imageHeaderOk (xferTaken (xferAt 5)).image = true := by
  simp only [imageHeaderOk, headerCrc, crc32_eq]
  decide +kernel

theorem headerOk_zeros : imageHeaderOk (xferTaken (xferAt 3)).image = false := by
  have h : fld (leAt (xferTaken (xferAt 3)).image 0 4) 15 0 = 0 := by decide +kernel
  simp [imageHeaderOk, h]

theorem chunk_spoiled : imageChunksOk (xferSnap (xferMoreAt 6)).image = false := by
  simp only [imageChunksOk, crc32_eq]
  decide +kernel

theorem wit_TransferOperations_import_range :
    (xferMay (xferAt 4) = true ∧ (xferTaken (xferAt 4)).arrived ≠ 2 ^ (xferTaken (xferAt 4)).blocks - 1)
    ∧ (xferMay (xferAt 5) = true ∧ (xferTaken (xferAt 5)).arrived = 2 ^ (xferTaken (xferAt 5)).blocks - 1
      ∧ imageChunksOk (xferTaken (xferAt 5)).image = true)
    ∧ (xferMay (xferAt 3) = true ∧ (xferTaken (xferAt 3)).arrived = 2 ^ (xferTaken (xferAt 3)).blocks - 1) := by decide +kernel

theorem wit_TransferOperations_import_first :
    (xferIn (xferAt 0) .committed = true ∧ (xferAt 0).hif[(xferAt 0).fls.xHost].up = true)
    ∧ (xferIn (xferAt 2) .committed = true ∧ (xferAt 2).hif[(xferAt 2).fls.xHost].up = false)
    ∧ (let s := xferMoreAt 2
       xferIn s .empty = true ∧ s.hif[s.fls.xHost].up = true ∧ s.fls.xOff ≠ 0)
    ∧ (let s := xferMoreAt 0
       let n := imageBlocks (spaceRead s.hostMem (hostKey s.fls.xHost s.fls.xAddr.toNat) 4096)
       xferIn s .empty = true ∧ s.hif[s.fls.xHost].up = true ∧ s.fls.xOff = 0 ∧ 4096 ≤ s.fls.xLen.toNat ∧ s.fls.xRange n = true
       ∧ n ≤ s.fls.snapFree ∧ s.fls.xLen.toNat < n * 4096)
    ∧ (let s := xferMoreAt 1
       let n := imageBlocks (spaceRead s.hostMem (hostKey s.fls.xHost s.fls.xAddr.toNat) 4096)
       xferIn s .empty = true ∧ s.hif[s.fls.xHost].up = true ∧ s.fls.xOff = 0 ∧ 4096 ≤ s.fls.xLen.toNat ∧ s.fls.xRange n = true
       ∧ s.fls.snapFree < n) := by decide +kernel

theorem wit_TransferOperations_restore :
    (xferIn (xferAt 3) .writing = true ∧ (xferIn (xferAt 7) .committed = true ∧ (xferSnap (xferAt 7)).scope = true ∧ (xferAt 7).ctxs ≠ []))
    ∧ (let s := xferAt 8
       xferIn s .committed = true ∧ (xferSnap s).scope = false ∧ (xferSnap s).img = some imgA ∧ imgA.cmds = [] ∧ imgA.queues = [(9, { queueA with ctx := 6 })]
       ∧ s.restoreClash imgA = false ∧ imageHw (xferSnap s).image = s.svc.hwType.toNat ∧ s.restoreFits imgA = true ∧ (xferSnap s).imported = false)
    ∧ (optIs (xferSnap (xferMoreAt 3)).img (fun g => (xferMoreAt 3).restoreClash g) = true)
    ∧ (let s := xferMoreAt 4
       optIs (xferSnap s).img (fun g => !s.restoreClash g && imageHw (xferSnap s).image != s.svc.hwType.toNat) = true)
    ∧ (let s := xferMoreAt 5
       optIs (xferSnap s).img (fun g => !s.restoreClash g && imageHw (xferSnap s).image == s.svc.hwType.toNat && !s.restoreFits g) = true)
    ∧ (let s := xferMoreAt 6
       (xferSnap s).imported = true ∧ optIs (xferSnap s).img (fun g => !s.restoreClash g && imageHw (xferSnap s).image == s.svc.hwType.toNat && s.restoreFits g) = true)
    ∧ (let s := xferMoreAt 7
       s.ctxs = [] ∧ optIs (xferSnap s).img (fun g => g.scope && !s.restoreClash g && s.restoreFits g) = true)
    ∧ (xferIn (xferState (snapA .committed false none)) .committed = true) := by decide +kernel

def daritAt (i : Nat) : State := daritStates.getD i ready
def daritMoreAt (i : Nat) : State := daritMore.getD i ready

theorem wit_DaritPortsAndFrames_writes :
    ((daritAt 2).pwr.current ≠ 3 ∧ (daritAt 2).isReady = true ∧ (daritAt 2).fls.quench = none)
    ∧ ((daritAt 5).darit.ports[(0 : DaritPort)].st = .up ∧ ((daritAt 5).part (.darit 0)).owed = 0
      ∧ ((daritAt 5).part (.darit 0)).mayAdvance (daritAt 5).timeNs = true)
    ∧ (daritAt 2).darit.ports[(0 : DaritPort)].enable = true ∧ (daritAt 2).darit.ports[(1 : DaritPort)].enable = false := by decide +kernel

/-- The port in training and the training's finding. -/
def trainA (c : Cable) (lanes node : Nat) : Bool :=
  let s := daritAt 4
  let o := obsA c lanes node
  decide (s.pwr.current ≠ 3) && s.svc.work.isNone && s.fls.quench.isNone && decide (s.darit.ports[(0 : DaritPort)].st = .training) && (o.cable == c)

theorem wit_DaritPortsAndFrames_training :
    trainA .none 0 2 = true ∧ trainA .txTx 0 2 = true
    ∧ (trainA .ok 0 2 = true ∧ widthWith (~~~(obsA .ok 0 2).lanes) = 0)
    ∧ (trainA .ok 0x1FFFF 0 = true ∧ widthWith (~~~(obsA .ok 0x1FFFF 0).lanes) ≠ 0
      ∧ (daritAt 4).darit.exchange (daritAt 4).darit.ports[(0 : DaritPort)] (obsA .ok 0x1FFFF 0) ≠ 0)
    ∧ (trainA .ok 0x1FFFF 2 = true ∧ (daritAt 4).darit.exchange (daritAt 4).darit.ports[(0 : DaritPort)] (obsA .ok 0x1FFFF 2) = 0)
    ∧ widthWith (~~~(obsA .ok 0xFF 2).lanes) = 8
    ∧ (((daritAt 4).part (.darit 0)).owed = 0 ∧ ((daritAt 4).part (.darit 0)).mayAdvance (daritAt 4).timeNs = true)
    ∧ (daritAt 3).darit.ports[(0 : DaritPort)].st = .detect
    ∧ ((daritMoreAt 7).darit.ports[(0 : DaritPort)].st = .held ∧ (daritMoreAt 7).darit.ports[(0 : DaritPort)].cable = .txTx)
    ∧ ((daritAt 5).darit.ports[(0 : DaritPort)].st ≠ .detect ∧ (daritAt 5).darit.ports[(0 : DaritPort)].st ≠ .held) := by decide +kernel

/-- An UP port 0 whose lane fails, and the width left. -/
def laneOf (s : State) (lane : Fin 17) (w : Nat) : Bool :=
  let x := s.darit.ports[(0 : DaritPort)]
  decide (x.st = .up) && !x.laneFail.getLsbD lane.val && widthWith (x.laneFail ||| BitVec.twoPow 17 lane.val) == w

theorem wit_DaritPortsAndFrames_lanes :
    laneOf (daritAt 5) 3 16 = true
    ∧ (laneOf (daritMoreAt 4) 12 8 = true ∧ (daritMoreAt 4).darit.ports[(0 : DaritPort)].width ≠ 8)
    ∧ (laneOf (daritMoreAt 5) 5 8 = true ∧ (daritMoreAt 5).darit.ports[(0 : DaritPort)].width = 8)
    ∧ laneOf (daritMoreAt 8) 12 0 = true := by decide +kernel

theorem wit_DaritPortsAndFrames_frames :
    (let s := daritAt 5
     s.darit.ports[(0 : DaritPort)].st = .up ∧ s.pwr.current ≠ 1 ∧ s.pwr.current ≠ 2
     ∧ 1000 < (frameA 2 1001).ageUs ∧ (frameA 2 1000).ageUs ≤ 1000
     ∧ (frameA 1 0).dst = s.darit.nodeId ∧ (frameA 1 0).incarnation = s.darit.incarnation
     ∧ { frameA 1 0 with incarnation := 5 }.incarnation ≠ s.darit.incarnation ∧ s.limitCount (9 * 2 ^ 32) < 256
     ∧ (frameA 9 0).dst ≠ s.darit.nodeId ∧ (s.darit.route 9).isNone = true
     ∧ (frameA 2 0).dst ≠ s.darit.nodeId
     ∧ optIs (s.darit.route 2) (fun r => optIs r.first (fun d => s.darit.memberOn (dieOfPart (.darit 0)) d.1 d.2 == some 0)) = true)
    ∧ (let s := daritMoreAt 1
       ∃ w : FabricWait, s.fabric = [w] ∧ w.stage = .lost ∧ w.req.node = some 2 ∧ 2 ≠ s.darit.nodeId
         ∧ optIs (s.routeFor w.req 2) (fun r => optIs r.first (fun d => s.darit.memberOn (dieOfPart w.req.requester) d.1 d.2 == some 0)) = true) := by
  refine ⟨by decide +kernel, ⟨_, rfl, rfl, rfl, ?_⟩⟩
  decide +kernel

theorem wit_DaritPortsAndFrames_unroutable :
    ∃ w : FabricWait, (daritMoreAt 3).fabric = [w] ∧ w.stage = .served ∧ w.req.node = some 9 ∧ 9 ≠ (daritMoreAt 3).darit.nodeId
      ∧ ((daritMoreAt 3).routeFor w.req 9).isNone = true := by
  refine ⟨_, rfl, rfl, rfl, ?_⟩
  decide +kernel

theorem wit_DaritPortsAndFrames_trunks :
    2 ≠ (daritAt 7).darit.nodeId ∧ (daritAt 7).cmds = [] ∧ (daritAt 7).fabric = [] ∧ (daritAt 7).darit.trunkUp 2 0 false = false := by decide +kernel

/-! ## Witnesses: a peer's gathers, host ports, device time -/

/-- Sequence 7 with a pool whose descriptor alone lies in stacked memory. -/
def peerPool : State :=
  let d := words 4 [0x07000100 + 6 * 2 ^ 16, 0x201001, 1152, 0] ++ words 8 [0xA0B000, 2 + 8 * 2 ^ 32, 0xA09000, 0xA0A000, 1 + 6 * 2 ^ 32, 0]
  { ready with seqs := [(7, { seqA with root := 0xA09000 })], stacked := mapped (blocks 0x8000 d) }

theorem wit_DaritPortsAndFrames_gather :
    (let s := peerPool
     s.pwr.current ≠ 1 ∧ s.pwr.current ≠ 2 ∧ okIs (s.serveGather { gatherA with count := 0 }) (fun _ => true) = true)
    ∧ (match ready.serveGather gatherA with
      | .error (.status _ _) => true
      | _ => false) = true
    ∧ (lookup ready.seqs 8).isNone = true ∧ (lookup peerPool.seqs 7).all (fun x => x.ctx != 1) = true := by decide +kernel

def hostAt (i : Nat) : State := hostStates.getD i ready

theorem wit_HostPortsCarryAccesses_aperture :
    (let s := hostAt 1
     s.pwr.current ≠ 3 ∧ 0 + bar4Len (.read 3) ≤ s.hif[(0 : HostPort)].bar4Gib * 2 ^ 30 ∧ s.isReady = true ∧ s.hif[(0 : HostPort)].aptEn = true
     ∧ s.apertureOk 0x40000000 3 = true ∧ okIs (s.readLoc (.stacked 0x40000000) 3) (fun bs => bs == [1, 2, 3]) = true)
    ∧ (let s := hostAt 1
       s.apertureOk 0x40001000 32 = true ∧ !okIs (s.readLoc (.stacked 0x40001000) 3) (fun _ => true) = true
       ∧ s.locErr (.stacked 0x40001000) = none
       ∧ ((s.noteParts (.stacked 0x40001000) (partBlocks 0x40001000 32)).stacked.write 0x40001000 (zeros 32)).isSome = true
       ∧ ((s.noteParts (.stacked 0x40001000) (partBlocks 0x40001000 3)).stacked.write 0x40001000 (zeros 3)).isNone = true)
    ∧ ((hostAt 2).hif[(0 : HostPort)].aptEn = false ∧ (hostAt 2).pwr.current ≠ 3) := by decide +kernel

theorem wit_HostPortsCarryAccesses_ports :
    ((8 ∈ [1, 2, 4, 8, 16, 32, 64, 128, 256]) ∧ 3 ∉ [1, 2, 4, 8, 16, 32, 64, 128, 256])
    ∧ (fld 0x800000 23 16 % 1 = 0 ∧ (hostAt 1).hif[(0 : HostPort)].bar4Gib = 1)
    ∧ (3 ∈ (hostAt 4).hif[(0 : HostPort)].pba ∧ (hostAt 4).hif[(0 : HostPort)].up = true ∧ (hostAt 4).pwr.current ≠ 3 ∧ (hostAt 4).diesOn = true)
    ∧ (3 ∈ (hostAt 5).hif[(0 : HostPort)].pba ∧ (hostAt 5).hif[(0 : HostPort)].up = false)
    ∧ ((hostAt 3).hif[(0 : HostPort)].up = false ∧ (hostAt 3).diesOn = true ∧ (hostAt 3).queues = [] ∧ (hostAt 3).fls.xBusy = false
      ∧ (hostAt 3).hif[(0 : HostPort)].wait = [])
    ∧ ((hostAt 3).hif[otherPort (0 : HostPort)].up = true
      ∧ (hostAt 3).toRehome (0 : HostPort) = ((hostAt 3).ctxs.filter (fun e => e.2.home == (0 : HostPort) && e.2.altOk)).map Prod.fst)
    ∧ (ready.fls.quench = none ∧ (ready.part (.host 0)).owed = 0 ∧ (ready.part (.host 0)).mayAdvance ready.timeNs = true) := by decide +kernel

theorem wit_HostPortsCarryAccesses_reads :
    (hostReadStatus .timeout = some 0x10 ∧ hostReadStatus .poisoned = some 0x10 ∧ hostReadStatus .unsupported = some 0x21)
    ∧ ((hostAt 8).mbox[(0 : HostPort)].busy = true ∧ (hostAt 8).mbox[(0 : HostPort)].behind = false
      ∧ (hostAt 8).mbox[otherPort (0 : HostPort)].behind = false)
    ∧ (optIs (lookup (hostAt 7).queues 1) (fun qu => (hostAt 7).mayFetch qu) = true ∧ lookup (hostAt 0).queues 1 = none)
    ∧ ((hostPool ready []).cmds.any (fun c => c.q == 1 && c.n == 1 && c.phase == .dispatched && !c.held) = true)
    ∧ ready.cmds = [] := by decide +kernel

def timeAt (i : Nat) : State := timeStates.getD i ready

theorem wit_DeviceTimeFollowsItsSource :
    ((timeAt 1).tim.active = 1 + (0 : HostPort).val ∧ (timeAt 1).hif[(0 : HostPort)].up = true)
    ∧ ((0x7FFFFFFFFFFFFFFF : W64).toNat : Int) - (timeAt 1).timeNs > 1000000
    ∧ (timeAt 0).tim.active ≠ 1 + (0 : HostPort).val
    ∧ ((timeAt 3).tim.armed = true ∧ ((timeAt 3).timeNs : Int) + 1000000 < (timeAt 3).tim.armedNs)
    ∧ ((timeAt 6).tim.armed = true ∧ ((timeAt 6).tim.armedNs : Int) ≤ (timeAt 6).timeNs + 1000000)
    ∧ ((timeAt 4).tim.armed = false ∧ (timeAt 4).tim.active = 3 ∧ (timeAt 4).tim.tenOk = true)
    ∧ ((timeAt 5).tim.armed = false ∧ (timeAt 5).tim.active = 3 ∧ (timeAt 5).tim.tenOk = false)
    ∧ ((timeAt 1).tim.auto = true ∧ (timeAt 1).hif[otherPort (0 : HostPort)].up = true ∧ (timeAt 2).tim.auto = false)
    ∧ (timeAt 7).tim.ppsOk = true ∧ (timeAt 4).tim.tenOk = true
    ∧ (ready.pwr.current ≠ 3 ∧ ready.diesOn = true)
    ∧ (fld 0x03E80003 2 0 ≤ 3 ∧ 1 ≤ fld 0x03E80003 25 16 ∧ fld 0x03E80003 25 16 ≤ 1000 ∧ 3 < fld 7 2 0 ∧ fld 7 25 16 < 1) := by decide +kernel

/-! ## Witnesses: power, temperature, margin -/

def powerAt (i : Nat) : State := powerStates.getD i ready

theorem wit_PowerStatesAndTheCap_states :
    ((powerAt 1).idle = true ∧ (powerAt 1).diesOn = true ∧ (powerAt 1).pwr.current = 0 ∧ 1 ≤ (powerAt 1).pwr.autoDeepest)
    ∧ (let s := power (fun p => { p with current := 1 }) { ready with hif := ready.hif.map (fun x => { x with up := false }) }
       s.idle = true ∧ s.pwr.current = 1 ∧ 2 ≤ s.pwr.autoDeepest ∧ s.noPortUp = true)
    ∧ (powerAt 3).idle = false ∧ ((powerAt 0).pwr.current ≠ 1 ∧ (powerAt 0).pwr.current ≠ 2)
    ∧ (powerAt 4).pwr.current = 1 ∧ (powerAt 5).pwr.current = 2
    ∧ ((powerAt 0).pwr.current ≠ 3 ∧ (powerAt 0).diesOn = true ∧ (powerAt 0).ashOk = true ∧ (powerAt 0).ctxs ≠ [])
    ∧ ((powerAt 3).pwr.current ≠ 3 ∧ (powerAt 3).diesOn = true ∧ (powerAt 3).ashOk = false)
    ∧ ((powerAt 2).ctxs = [] ∧ (powerAt 2).diesOn = true ∧ (powerAt 2).ashOk = false)
    ∧ ((powerAt 1).ctxs = [] ∧ (powerAt 1).ashOk = true) := by decide +kernel

theorem wit_PowerStatesAndTheCap_requests :
    (powerAt 0).pwr.pendingReq = none ∧ ((powerAt 16).pwr.pendingReq = some 3 ∧ (powerAt 16).ashOk = false)
    ∧ ((powerAt 6).pwr.pendingReq = some 3 ∧ (powerAt 6).ashOk = true)
    ∧ ((powerAt 15).pwr.pendingReq = some 4 ∧ (powerAt 15).ashOk = true ∧ (powerAt 15).ctxs = [])
    ∧ ((power (fun p => { p with pendingReq := some 4 })).ctxs ≠ [])
    ∧ ((powerAt 7).pwr.current = 3 ∧ (powerAt 7).pwr.ashRegion = some Ram.empty ∧ (powerAt 7).pwr.ashAcc = some Ram.empty)
    ∧ ((powerAt 8).pwr.current = 4 ∧ (powerAt 8).pwr.powered = true) ∧ (powerAt 18).pwr.powered = false := by decide +kernel

theorem wit_PowerStatesAndTheCap_cap :
    (powerAt 17).pwr.standby = false ∧ (powerAt 0).pwr.standby = true ∧ (powerAt 9).pwr.capped = true
    ∧ (powerAt 0).pwr.msSamples.length < 99 ∧ (powerAt 10).pwr.msSamples.length = 99
    ∧ ((powerAt 11).pwr.effectiveW < (powerAt 11).pwr.meanW ∧ 0 < (powerAt 11).pwr.ceil ∧ (powerAt 11).diesOn = true)
    ∧ ((powerAt 12).pwr.effectiveW < (powerAt 12).pwr.meanW ∧ (powerAt 12).pwr.ceil = 0)
    ∧ (let p := (powerAt 13).pwr
       p.meanW ≤ p.effectiveW ∧ p.roomy = true ∧ p.hintLow = false ∧ p.gate = 0)
    ∧ (let p := (powerAt 19).pwr
       p.meanW ≤ p.effectiveW ∧ p.roomy = true ∧ p.hintLow = false ∧ 0 < p.gate)
    ∧ (let p := (powerAt 14).pwr
       p.meanW ≤ p.effectiveW ∧ p.roomy = false) := by decide +kernel

def thermalAt (i : Nat) : State := thermalStates.getD i ready

theorem wit_DroopThermalMarginEnergy_hints :
    (ready.coreUp 5 = true ∧ (thermalAt 12).coreUp 5 = false)
    ∧ ((thermalAt 4).pwr.hints.find? (fun x => x.id == hintA.id && !x.started) = some { hintA with started := false }
      ∧ 250 * (hintA.cls + 1) ≤ (thermalAt 4).pwr.effectiveW)
    ∧ ((thermalAt 5).pwr.hints.find? (fun x => x.id == hintA.id && !x.started)).isSome = true
    ∧ ((thermalAt 3).pwr.hints = [hintA] ∧ hintA.started = true ∧ (thermalAt 4).pwr.hints = [{ hintA with started := false }])
    ∧ (ready.diesOn = true ∧ (95 : Fin 200).val < 96 ∧ 96 ≤ (96 : Fin 200).val ∧ islandDie 96 < 4 ∧ islandDie 199 = 4) := by decide +kernel

theorem wit_DroopThermalMarginEnergy_thermal :
    (9 ≤ (thermalAt 10).pwr.dieSince[(0 : DieId)] ∧ 0 < (thermalAt 10).pwr.dieCeil[(0 : DieId)] ∧ (thermalAt 10).diesOn = true)
    ∧ (let s := power (fun p => { p with dieCeil := Vector.replicate 4 0, dieSince := Vector.replicate 4 99 })
       9 ≤ s.pwr.dieSince[(0 : DieId)] ∧ s.pwr.dieCeil[(0 : DieId)] = 0)
    ∧ (99 ≤ (thermalAt 10).pwr.dieSince[(0 : DieId)] ∧ (thermalAt 10).pwr.dieGate[(0 : DieId)] = 0)
    ∧ (99 ≤ (thermalAt 11).pwr.dieSince[(0 : DieId)] ∧ 0 < (thermalAt 11).pwr.dieGate[(0 : DieId)])
    ∧ (power (fun p => { p with dieSince := Vector.replicate 4 8 })).pwr.dieSince[(0 : DieId)] < 9
    ∧ ((thermalAt 9).pwr.tripped = true ∧ ready.pwr.tripped = false)
    ∧ (ready.pwr.capW = 4000 ∧ (thermalAt 13).pwr.coolantWarn = true ∧ (400 < (thermalAt 14).pwr.inletDc ∧ ¬ 400 < ready.pwr.inletDc)) := by
  decide +kernel

theorem wit_DroopThermalMarginEnergy_margin :
    ((thermalAt 6).pwr.immMode = true ∧ (thermalAt 6).diesOn = true ∧ (List.replicate 200 20).length = 200
      ∧ (thermalAt 6).pwr.frozen[(3 : Fin 200)] = true ∧ (thermalAt 6).pwr.frozen[(4 : Fin 200)] = false ∧ (thermalAt 6).pwr.trims[(4 : Fin 200)] ≤ 60)
    ∧ (ready.pwr.immMode = false ∧ ready.pwr.current ≠ 3)
    ∧ (10 ≤ fld 21 7 1 ∧ fld 21 7 1 ≤ 80 ∧ ¬ 10 ≤ fld 1 7 1)
    ∧ (hasKey ready.ctxs 0 = true ∧ hasKey ready.ctxs 9 = false) := by decide +kernel

/-! ## Witnesses: the module -/

def moduleAt (i : Nat) : State := moduleStates.getD i ready

theorem wit_ModuleFeedsAndSideband_power :
    (moduleAt 1).pwr.feeds[(0 : Feed)].present = true ∧ (moduleAt 0).pwr.feeds[(0 : Feed)].present = false
    ∧ ((moduleAt 2).pwr.anyFeed = true ∧ (moduleAt 2).pwr.powered = false ∧ (moduleAt 2).pwr.tripped = false)
    ∧ ((moduleAt 8).pwr.anyFeed = true ∧ (moduleAt 8).pwr.powered = false ∧ (moduleAt 8).pwr.tripped = true)
    ∧ ((moduleAt 0).pwr.anyFeed = false ∧ (moduleAt 0).pwr.powered = true)
    ∧ ((moduleAt 1).pwr.anyFeed = true ∧ (moduleAt 1).pwr.powered = true) := by decide +kernel

theorem wit_ModuleFeedsAndSideband_bus :
    ((moduleAt 0).pwr.standby = true ∧ (5 : Byte) ∉ [0, 1, 0xFF] ∧ (1 : Byte) ∈ [0, 1, 0xFF] ∧ (moduleAt 3).pwr.feeds[(0 : Feed)].overV = true)
    ∧ ((moduleAt 6).pwr.page = 0xFF ∧ (moduleAt 0).pwr.page = 0 ∧ (moduleAt 7).pwr.page = 1 ∧ (moduleAt 6).pwr.standby = true)
    ∧ ((moduleAt 0).limitCount (15 * 2 ^ 32) < 256)
    ∧ ((moduleAt 6).pwr.alertPin = true ∧ (moduleAt 1).pwr.alertPin = false)
    ∧ ((moduleAt 4).pwr.current = 4 ∧ (moduleAt 4).pwr.powered = true)
    ∧ ((moduleAt 5).pwr.current ≠ 4 ∧ (moduleAt 5).pwr.tripped = true ∧ (moduleAt 5).pwr.cool = true ∧ (moduleAt 5).pwr.standby = true)
    ∧ ((moduleAt 0).pwr.current ≠ 4 ∧ (moduleAt 0).pwr.tripped = false) := by decide +kernel

/-! ## Witnesses: the service port

Whether a signature holds is an opaque function of the model (log 11), so no witness says that one does; the states are those of the clauses. -/

theorem wit_ServiceSessionAndStaging_sessions :
    (ready.svc.session = none ∧ ready.pwr.standby = true ∧ session.svc.session ≠ none ∧ (session id (power (fun p => { p with standby := false }))).pwr.standby = false)
    ∧ ((session id (power (fun p => { p with current := 3 }))).pwr.current = 3
      ∧ (session id (power (fun p => { p with current := 4 }))).pwr.current = 4 ∧ (session id (power (fun p => { p with current := 4 }))).pwr.powered = true)
    ∧ (session.pwr.current ≠ 3 ∧ session.pwr.current ≠ 4 ∧ session.svc.phase = 8)
    ∧ ((session (fun v => { v with phase := 1 })).svc.phase = 1 ∧ session.pwr.tripped = false)
    ∧ ({ svcHdrA with abiMajor := 2 }.abiMajor ≠ 1)
    ∧ (let h := { svcHdrA with length := 66049 }
       h.abiMajor = 1 ∧ h.abiMinor = 0 ∧ h.reserved = 0 ∧ h.status = 0 ∧ 66048 < h.length.toNat) := by decide +kernel

theorem wit_ServiceSessionAndStaging_staging :
    (session.svc.session = some [9] ∧ hdrFails svcHdrA = none ∧ (List.replicate 32 (0 : Byte)).length = 32)
    ∧ (session (fun v => { v with phase := 9 })).svc.phase = 9
    ∧ (staged.svc.fw[(1 : Fin 2)].staging = true ∧ session.svc.fw[(1 : Fin 2)].staging = false ∧ kindIx 2 = 1)
    ∧ (let k := staged.svc.fw[(1 : Fin 2)]
       let img := (k.slots[k.spare]).image
       staged.svc.session = some [9] ∧ staged.svc.phase = 8 ∧ img.length + [(3 : Byte), 4].length ≤ k.size
       ∧ k.size < img.length + [(3 : Byte), 4, 5].length) := by decide +kernel

def requestAt (i : Nat) : State := requestStates.getD i ready
def requestMoreAt (i : Nat) : State := requestMore.getD i ready

/-- A session in READY with nothing that holds a request back. -/
def requestFree (s : State) : Bool :=
  s.svc.session.isSome && s.isReady && !s.pwr.tripped && s.pwr.current != 3 && s.pwr.current != 4 && (hdrFails svcHdrA).isNone && s.fls.quench.isNone

theorem wit_PrivilegedRequestsAndTests_requests :
    (requestFree (requestAt 0) = true ∧ (requestAt 0).authorised svcHdrA sigA [] = false)
    ∧ (requestFree (requestMoreAt 4) = true ∧ (requestMoreAt 4).svc.work ≠ none ∧ (requestMoreAt 4).svc.waiting.length < 16)
    ∧ (requestFree (requestMoreAt 5) = true ∧ 16 ≤ (requestMoreAt 5).svc.waiting.length)
    ∧ (requestFree (requestAt 1) = true ∧ (requestAt 1).svc.work = none ∧ (requestAt 1).svc.waiting = []
      ∧ (requestAt 1).maskRegions 0 = [] ∧ (requestAt 1).maskRegions 8 = [3] ∧ (requestAt 1).leavesOne 3 = true)
    ∧ ((requestAt 2).maskRegions 8 = [3] ∧ (requestAt 2).leavesOne 3 = false)
    ∧ (fuseReserved 0x8000000010000000 = false ∧ fuseOk 0x8000000010000000 = true ∧ (requestAt 1).svc.fuses = [] ∧ fuseReserved 1 = true)
    ∧ ((requestMoreAt 7).svc.fuses = [0x8000000010000000] ∧ bit (0x8000000010000000 : W64).toNat 63 = true)
    ∧ ((requestMoreAt 8).svc.fuses.length = 256) := by decide +kernel

theorem wit_PrivilegedRequestsAndTests_resume :
    ((requestAt 5).svc.session ≠ none ∧ (requestAt 5).pwr.tripped = true ∧ (requestAt 5).pwr.current ≠ 3 ∧ (requestAt 5).pwr.current ≠ 4
      ∧ (requestAt 5).svc.work = none ∧ (requestAt 5).svc.waiting = [] ∧ (requestAt 5).pwr.cool = false)
    ∧ ((requestAt 4).pwr.tripped = true ∧ (requestAt 4).pwr.cool = true) := by decide +kernel

theorem wit_PrivilegedRequestsAndTests_tests :
    ((requestAt 0).pwr.current ≠ 3 ∧ (requestAt 0).isReady = true ∧ (requestAt 0).svc.tBusy = false ∧ (requestAt 0).svc.work = none
      ∧ (requestAt 0).svc.waiting = [] ∧ (requestAt 0).fls.quench = none ∧ (requestAt 0).testSlots = true)
    ∧ ((requestAt 11).isReady = true ∧ (requestAt 11).svc.tBusy = true) ∧ (session (fun v => { v with phase := 1 })).isReady = false
    ∧ ((requestAt 6).testSlots = false)
    ∧ ((requestAt 0).regionState (regionN 3) = .inService ∧ (requestAt 0).leavesOne (regionN 3) = true)
    ∧ ((requestAt 7).regionState (regionN 3) ≠ .inService)
    ∧ ((requestAt 8).regionState (regionN 3) = .inService ∧ (requestAt 8).leavesOne (regionN 3) = false)
    ∧ ((requestAt 7).coreUp (coreN 24) = false ∧ (requestAt 0).coreUp (coreN 24) = true ∧ (requestAt 0).cores[coreN 24].vec = .inService
      ∧ (requestAt 0).cores[coreN 24].resident = [])
    ∧ ((requestAt 10).cores[coreN 0].resident.any (fun sl => sl.hdr.vecOps) = true ∧ (requestAt 10).coreUp (coreN 0) = true)
    ∧ (((requestAt 9).darit.portStart (requestAt 9).darit.ports[(0 : DaritPort)]).st = .training
      ∧ ((requestAt 9).darit.portStart (requestAt 9).darit.ports[(1 : DaritPort)]).st ≠ .training) := by decide +kernel

theorem wit_PrivilegedRequestsAndTests_drains :
    ((requestAt 11).svc.draining = some 3 ∧ (requestAt 11).regions[(3 : RegionId)].drain = true ∧ (requestAt 11).regionState 3 = .inService
      ∧ (requestAt 11).drainedRegion 3 = true ∧ (requestAt 11).svc.forced = false ∧ (requestAt 11).svc.waiting = [])
    ∧ ((requestAt 13).svc.draining = some 3 ∧ (requestAt 13).drainedRegion 3 = false) ∧ (requestAt 12).svc.forced = true
    ∧ (reqHdr (.testSramBist .mailbox 3 false 100) = none ∧ reqHdr (.testSramBist (.service svcHdrA sigA) 3 false 100) = some svcHdrA)
    ∧ ((requestMoreAt 0).svc.draining = some 3 ∧ (requestMoreAt 1).svc.draining = some 3)
    ∧ ((requestAt 14).svc.work = some (.test 4 5 (.testVectorEngine .mailbox 5 false 100)) ∧ (requestAt 14).cores[(5 : CoreId)].vec = .underTest
      ∧ (requestAt 14).svc.waiting = [])
    ∧ ((requestAt 15).cores[(5 : CoreId)].vec ≠ .underTest)
    ∧ ((requestMoreAt 2).svc.work = some (.test 4 5 (.testVectorEngine (.service svcHdrA sigA) 5 false 100))) := by decide +kernel

/-! ## Witnesses: the whole machine -/

theorem wit_DefaultSlotTable : 7 < 256 ∧ 7 % 8 = 7 ∧ 35 % 32 = 3 ∧ 43 % 32 = 11 ∧ 83 % 64 = 19 ∧ 115 % 64 = 51 ∧ (0 % 8 ≠ 7 ∧ 0 % 32 ≠ 19) := by decide

/-- (`wit_EngineInstructionStores` meets the hypotheses of EngineInstructionFrame, which are among those of EngineInstructionStores.) -/
theorem wit_CommandsLeaveTheQueue :
    ran (exec .serviceSessionClose { session with pending := [.glowEntry] }) (fun t => t.pending == [.glowEntry]) = true := by decide +kernel

theorem wit_FusesPersistAndTheLogIsBounded :
    (requestMoreAt 7).log.recs.length ≤ 8192
    ∧ ran (step { requestMoreAt 7 with pending := [.serviceSessionClose] }) (fun t => t.svc.fuses == [0x8000000010000000]) = true := by decide +kernel

theorem wit_WritesReadBackAndTouchNothingElse :
    (ram [(64, [1])]).wf = true ∧ ((ram [(64, [1])]).write 70 [9]).isSome = true ∧ ((ram [(64, [1])]).write 128 (zeros 32)).isSome = true := by
  decide +kernel

/-! ## Ill-formed operands, each refused by its check -/

theorem test_wf_queue : (Instr.commandAccept 1048576).wf = false ∧ (Instr.commandAccept 1048575).wf = true := by decide
theorem test_wf_width : (Instr.doorbell 0 1 3 0).wf = false ∧ (Instr.registerWrite 0 0x20100 16 0).wf = false := by decide
theorem test_wf_coil : (Instr.coilUnparkComplete 262144).wf = false ∧ (Instr.coilParkComplete 262143).wf = true := by decide
theorem test_wf_reader :
    (Instr.hostReadCompletionTimeout 0 { outcome := .timeout, who := .command 1048576 0 }).wf = false
      ∧ (Instr.hostReadCompletionTimeout 0 { outcome := .timeout, who := .fetch 1048576 }).wf = false := by decide
theorem test_wf_training :
    (Instr.portTraining 0 (obsA .ok 0 2)).wf = false
      ∧ (Instr.portTraining 0 { obsA .ok 0 2 with map := List.range 17 }).wf = true
      ∧ (Instr.portTraining 0 { obsA .ok 0 2 with map := List.replicate 17 17 }).wf = false
      ∧ (Instr.portTraining 0 { obsA .ok 0 2 with map := List.range 17, peerPort := 8 }).wf = false := by decide
theorem test_wf_frame : (Instr.frameForward 0 (frameA 4096 0)).wf = false ∧ (Instr.frameForward 0 { frameA 0 0 with src := 4096 }).wf = false := by decide
theorem test_wf_trunk : (Instr.trunkStateChange 4096 0 false true).wf = false ∧ (Instr.trunkStateChange 0 3 false true).wf = false := by decide
theorem test_wf_log : (Instr.readLog svcHdrA 0 2049).wf = false ∧ (Instr.readLog svcHdrA 0 2048).wf = true := by decide
theorem test_wf_stage : (Instr.stageData svcHdrA 1 0 (List.replicate 65537 0)).wf = false := by
  rw [Instr.wf, List.length_replicate]; rfl
theorem test_wf_nonces : (Instr.attest svcHdrA [1]).wf = false ∧ (Instr.doeAttest 0 [1]).wf = false := by decide
theorem test_wf_slacks : (Instr.marginAdjust [1]).wf = false := by decide

/-! ## Single values and steps, from the manual's tables -/

/-- The check value of the CRC that R350 names. -/
theorem test_crc : crc32 [0x31, 0x32, 0x33, 0x34, 0x35, 0x36, 0x37, 0x38, 0x39] = 0xCBF43926 := by decide +kernel

/-- R361: a flipped data bit is corrected; the mark of an unwritten block is no data. -/
theorem test_weave_flip : weaveDecode ((weaveEncode 5).flip (BitVec.twoPow 288 1)) = .corrected 5 1 ∧ weaveDecode unwrittenMark = .unwritten := by
  decide +kernel

/-- R414: a sample of 10 µs at 3 W is 30 µJ. -/
theorem test_energy : ran (exec (.powerSample 3) ready) (fun t => t.pwr.energyUj == ready.pwr.energyUj + 30) = true := by decide +kernel

/-- R453: a reading of 0.5 is not told by PAGE, which takes three values. -/
theorem test_page : ran (exec (.page (some 2)) ready) (fun t => t.pwr.page == ready.pwr.page) = true := by decide +kernel

/-- An idle block answers its own state. -/
theorem test_idle : step ready = .next ready := by rfl

end Sys2Proof.Tests
end

section
/-! PROOF. COMMAND_COMMIT, one rule per outcome (17, R327; 01, R6; 11, R210; 08, R151). -/

namespace Sys2Proof.Machine

/-! ## What a commit applies -/

theorem doneStatus_eq (cm : Cmd) :
    cm.doneStatus = if cm.dups = 0 ∧ cm.flags.emptyRows = 0 ∧ cm.notes = false then 0 else 1 := by
  simp [Cmd.doneStatus, stDone, stNotes, and_assoc]

theorem commitFlash_copy (s : State) {cm : Cmd} (h : cm.type = tyCopy) :
    s.commitFlash cm = { s with fls := cm.saves.foldl (fun f w => f.write w.1 w.2) s.fls } := by
  simp [State.commitFlash, h]

/-- A commit that is neither a COPY's nor a DISCARD's leaves the flash as it is. -/
theorem commitFlash_other (s : State) {cm : Cmd} (hc : cm.type ≠ tyCopy) (hf : cm.type = tyFill → cm.discard = false) :
    s.commitFlash cm = s := by
  have hd : ¬ (cm.type = tyFill ∧ cm.discard = true) := fun h => by simp [hf h.1] at h
  simp [State.commitFlash, hc, hd]

section
variable {s s1 : State} {q n st : Nat} {cm : Cmd} {note : ErrNote}

theorem commitKernel_of_ok {left : List (Nat × Nat)} (h : (commitAppends (s.queueCtx q) cm).run s = .ok (left, s1)) :
    s.commitKernel q n cm = ({ s1.updCmd q n (fun x => { x with pages := [], reserved := left }) with
      acctKernels := bump s1.acctKernels (s.queueCtx q) 1 }).endCmd q n cm.doneStatus true := by
  simp only [State.commitKernel, h]
  rfl

theorem commitKernel_of_status (h : (commitAppends (s.queueCtx q) cm).run s = .error (.status st note)) :
    s.commitKernel q n cm = (s.noteErr note).failCmd q n st := by
  simp only [State.commitKernel, h]

theorem commitRoundCmd_of_ok (h : (commitRound (s.queueCtx q) cm).run s = .ok ((), s1)) :
    s.commitRoundCmd q n cm = s1.endCmd q n 0 true := by
  simp only [State.commitRoundCmd, h, stDone]

theorem commitRoundCmd_of_status (h : (commitRound (s.queueCtx q) cm).run s = .error (.status st note)) :
    s.commitRoundCmd q n cm = (s.noteErr note).failCmd q n st := by
  simp only [State.commitRoundCmd, h]

/-! ## The row, by the command's state and type -/

theorem exec_commandCommit (s : State) (q n : Nat) : exec (.commandCommit q n) s = execCommandCommit q n s := rfl

variable (hcmd : s.cmd? q n = some cm) (hready : cm.phase = .ready) (hheld : cm.held = false)
include hcmd hready hheld

theorem exec_commandCommit_of_staged (hstaged : cm.staged ≠ 0) : exec (.commandCommit q n) s = .next s := by
  simp [exec_commandCommit, execCommandCommit, hcmd, hready, hheld, hstaged]

variable (hstaged : cm.staged = 0)
include hstaged

theorem exec_commandCommit_kernel (ht : cm.type = tyKernel) : exec (.commandCommit q n) s = .next (s.commitKernel q n cm) := by
  simp [exec_commandCommit, execCommandCommit, hcmd, hready, hheld, hstaged, ht]

theorem exec_commandCommit_round (ht : cm.type = tyRound) : exec (.commandCommit q n) s = .next (s.commitRoundCmd q n cm) := by
  simp [exec_commandCommit, execCommandCommit, hcmd, hready, hheld, hstaged, ht, tyRound, tyKernel]

variable (hk : cm.type ≠ tyKernel) (hr : cm.type ≠ tyRound)
include hk hr

/-- The other types come to their commit with the status that their work left. -/
theorem exec_commandCommit_failed (hst : cm.status ≠ 0) : exec (.commandCommit q n) s = .next (s.failCmd q n cm.status) := by
  simp [exec_commandCommit, execCommandCommit, hcmd, hready, hheld, hstaged, hk, hr, hst]

theorem exec_commandCommit_done (hst : cm.status = 0) :
    exec (.commandCommit q n) s = .next ((s.commitFlash cm).endCmd q n cm.doneStatus true) := by
  simp [exec_commandCommit, execCommandCommit, hcmd, hready, hheld, hstaged, hk, hr, hst]

end

/-- The types whose commit changes nothing but the command itself. -/
theorem type_ne_of_plain {cm : Cmd}
    (h : cm.type ∈ [tyFork, tyCull, tySignal, tyWait, tyHint, tySnapshot] ∨ cm.type = tyFill ∧ cm.discard = false) :
    cm.type ≠ tyKernel ∧ cm.type ≠ tyRound ∧ cm.type ≠ tyCopy ∧ (cm.type = tyFill → cm.discard = false) := by
  rcases h with h | ⟨ht, hd⟩
  · simp only [List.mem_cons, List.not_mem_nil, or_false, tyFork, tyCull, tySignal, tyWait, tyHint, tySnapshot] at h
    simp only [tyKernel, tyRound, tyCopy, tyFill]
    omega
  · simp [ht, hd, tyFill, tyKernel, tyRound, tyCopy]

/-- Settles O37: each case is the row's rule for that case, and the change that it applies. -/
theorem commitEndsCommands : Obligations.CommitEndsCommands := by
  unfold Obligations.CommitEndsCommands
  intro s q n cm hcmd hready hheld
  refine ⟨exec_commandCommit_of_staged hcmd hready hheld, fun hstaged => ?_⟩
  simp only [← doneStatus_eq]
  refine ⟨fun ht => ?kernel, fun ht => ?round, fun ht => ?plain, fun ht hst => ?copy⟩
  case kernel =>
    rw [exec_commandCommit_kernel hcmd hready hheld hstaged ht]
    exact ⟨fun left s1 h => by rw [commitKernel_of_ok h], fun st note h => by rw [commitKernel_of_status h]⟩
  case round =>
    rw [exec_commandCommit_round hcmd hready hheld hstaged ht]
    exact ⟨fun s1 h => by rw [commitRoundCmd_of_ok h], fun st note h => by rw [commitRoundCmd_of_status h]⟩
  case plain =>
    obtain ⟨hk, hr, hc, hf⟩ := type_ne_of_plain ht
    refine ⟨fun hst => ?_, exec_commandCommit_failed hcmd hready hheld hstaged hk hr⟩
    rw [exec_commandCommit_done hcmd hready hheld hstaged hk hr hst, commitFlash_other s hc hf]
  case copy =>
    have hk : cm.type ≠ tyKernel := by simp [ht, tyCopy, tyKernel]
    have hr : cm.type ≠ tyRound := by simp [ht, tyCopy, tyRound]
    rw [exec_commandCommit_done hcmd hready hheld hstaged hk hr hst, commitFlash_copy s ht]

end Sys2Proof.Machine
end

section
/-! PROOF. Acts: what a run that answers has done, and the acts that touch the tiers of memory alone. -/

namespace Sys2Proof.Machine

variable {α β : Type}

/-! ## Runs that answer -/

theorem Act.of_bind {a : Act α} {f : α → Act β} {s t : State} {y : β} (h : (a >>= f).run s = .ok (y, t)) :
    ∃ x u, a.run s = .ok (x, u) ∧ (f x).run u = .ok (y, t) := by
  obtain ⟨⟨x, u⟩, hx, hf⟩ := bind_ok h
  exact ⟨x, u, hx, hf⟩

theorem Act.of_pure {x y : α} {s t : State} (h : (pure x : Act α).run s = .ok (y, t)) : y = x ∧ t = s := by
  cases h; exact ⟨rfl, rfl⟩

theorem Act.of_get {x s t : State} (h : (get : Act State).run s = .ok (x, t)) : x = s ∧ t = s := by
  cases h; exact ⟨rfl, rfl⟩

theorem Act.of_modify {f : State → State} {x : PUnit} {s t : State} (h : (modify f : Act PUnit).run s = .ok (x, t)) : t = f s := by
  cases h; rfl

theorem Act.of_fail {n : Nat} {y : α} {s t : State} (h : (Act.fail n : Act α).run s = .ok (y, t)) : False := nomatch h

theorem Act.of_need {b : Bool} {n : Nat} {x : Unit} {s t : State} (h : (Act.need b n).run s = .ok (x, t)) : b = true ∧ t = s := by
  cases b with
  | true => exact ⟨rfl, (Act.of_pure h).2⟩
  | false => exact (Act.of_fail h).elim

theorem Act.of_lift {e : Except AccErr α} {y : α} {s t : State} (h : (Act.lift e).run s = .ok (y, t)) : e = .ok y ∧ t = s := by
  cases e with
  | error e => exact nomatch h
  | ok x => cases h; exact ⟨rfl, rfl⟩

theorem Act.of_get_bind {f : State → Act β} {y : β} {s t : State} (h : (get >>= f : Act β).run s = .ok (y, t)) :
    (f s).run s = .ok (y, t) := h

theorem Act.of_modify_pure {g : State → State} {x y : β} {s t : State}
    (h : (modify g >>= fun _ => pure x : Act β).run s = .ok (y, t)) : y = x ∧ t = g s := Act.of_pure (s := g s) h

theorem Act.of_need_bind {b : Bool} {n : Nat} {f : Unit → Act β} {y : β} {s t : State}
    (h : (Act.need b n >>= f).run s = .ok (y, t)) : b = true ∧ (f ()).run s = .ok (y, t) := by
  obtain ⟨_, u, hn, hf⟩ := Act.of_bind h
  obtain ⟨hb, rfl⟩ := Act.of_need hn
  exact ⟨hb, hf⟩

theorem Act.of_lift_bind {e : Except AccErr α} {f : α → Act β} {y : β} {s t : State}
    (h : (Act.lift e >>= f).run s = .ok (y, t)) : ∃ x, e = .ok x ∧ (f x).run s = .ok (y, t) := by
  obtain ⟨x, u, hl, hf⟩ := Act.of_bind h
  obtain ⟨he, rfl⟩ := Act.of_lift hl
  exact ⟨x, he, hf⟩

theorem Act.of_bind_pure {a : Act α} {g : α → β} {y : β} {s t : State} (h : (a >>= fun x => pure (g x)).run s = .ok (y, t)) :
    ∃ x, a.run s = .ok (x, t) ∧ y = g x := by
  obtain ⟨x, u, ha, hp⟩ := Act.of_bind h
  obtain ⟨hy, rfl⟩ := Act.of_pure hp
  exact ⟨x, ha, hy⟩

/-- A loop's first round, and the rest of it. -/
theorem Act.of_forIn_cons {b : β} {l : List β} {r y : α} {f : β → α → Act (ForInStep α)} {s t : State}
    (h : (forIn (b :: l) r f).run s = .ok (y, t)) :
    ∃ z u, (f b r).run s = .ok (z, u) ∧ ((z = .done y ∧ t = u) ∨ ∃ r', z = .yield r' ∧ (forIn l r' f).run u = .ok (y, t)) := by
  rw [List.forIn_cons] at h
  obtain ⟨z, u, hz, h⟩ := Act.of_bind h
  refine ⟨z, u, hz, ?_⟩
  cases z with
  | done r' => obtain ⟨rfl, rfl⟩ := Act.of_pure h; exact .inl ⟨rfl, rfl⟩
  | yield r' => exact .inr ⟨r', rfl, h⟩

/-- What every round of a loop keeps, the loop keeps. -/
theorem Act.forIn_keeps {P : State → Prop} {l : List β} {f : β → α → Act (ForInStep α)}
    (hf : ∀ b ∈ l, ∀ r s z t, P s → (f b r).run s = .ok (z, t) → P t) {r y : α} {s t : State} (hs : P s)
    (h : (forIn l r f).run s = .ok (y, t)) : P t := by
  induction l generalizing r s with
  | nil => exact (Act.of_pure h).2 ▸ hs
  | cons b l ih =>
    obtain ⟨z, u, hz, h⟩ := Act.of_forIn_cons h
    have hu : P u := hf b (by simp) r s z u hs hz
    rcases h with ⟨_, rfl⟩ | ⟨r', _, h⟩
    · exact hu
    · exact ih (fun b' hb => hf b' (by simp [hb])) hu h

/-- Rounds of a loop one after another, each of them a step of its element. -/
inductive Rounds (St : β → State → State → Prop) : List β → State → State → Prop
  | nil (s : State) : Rounds St [] s s
  | cons {b : β} {l : List β} {s u t : State} (head : St b s u) (tail : Rounds St l u t) : Rounds St (b :: l) s t

namespace Rounds

variable {St : β → State → State → Prop} {l : List β} {s t : State}

theorem keeps {P : State → Prop} (h : Rounds St l s t) (hs : P s) (hP : ∀ b ∈ l, ∀ s t, St b s t → P s → P t) : P t := by
  induction h with
  | nil s => exact hs
  | cons head _ ih => exact ih (hP _ (by simp) _ _ head hs) fun b hb => hP b (by simp [hb])

/-- What a round brings about is there at the end, where the rounds behind it keep it. -/
theorem brings {I : State → Prop} {Q : β → State → Prop} {R : β → β → Prop} (h : Rounds St l s t) (hl : l.Pairwise R) (hs : I s)
    (hI : ∀ b ∈ l, ∀ s t, St b s t → I s → I t ∧ Q b t)
    (hQ : ∀ b ∈ l, ∀ b' ∈ l, R b b' → ∀ s t, St b' s t → I s → Q b s → Q b t) : ∀ b ∈ l, Q b t := by
  induction h with
  | nil s => simp
  | cons head tail ih =>
    obtain ⟨hb, hl⟩ := List.pairwise_cons.1 hl
    have hu := hI _ (by simp) _ _ head hs
    refine List.forall_mem_cons.2 ⟨?_, ?_⟩
    · refine (tail.keeps (P := fun s => I s ∧ Q _ s) hu fun b' hb' s t hst h => ⟨(hI b' (by simp [hb']) s t hst h.1).1, ?_⟩).2
      exact hQ _ (by simp) b' (by simp [hb']) (hb b' hb') s t hst h.1 h.2
    · exact ih hl hu.1 (fun b hb => hI b (by simp [hb])) fun b hb b' hb' => hQ b (by simp [hb]) b' (by simp [hb'])

end Rounds

/-- A loop that never breaks off makes its rounds in turn. -/
theorem Act.rounds_of_forIn {St : β → State → State → Prop} {l : List β} {f : β → PUnit → Act (ForInStep PUnit)}
    (hf : ∀ b s z t, (f b ⟨⟩).run s = .ok (z, t) → z = .yield ⟨⟩ ∧ St b s t) {y : PUnit} {s t : State}
    (h : (forIn l ⟨⟩ f).run s = .ok (y, t)) : Rounds St l s t := by
  induction l generalizing s with
  | nil => rw [(Act.of_pure h).2]; exact .nil s
  | cons b l ih =>
    obtain ⟨z, u, hz, h⟩ := Act.of_forIn_cons h
    obtain ⟨rfl, hst⟩ := hf b s z u hz
    rcases h with ⟨e, _⟩ | ⟨_, _, h⟩
    · exact nomatch e
    · exact .cons hst (ih h)

/-! ## Acts that touch the tiers alone -/

/-- An act whose answering runs touch what a write of the tiers may touch, and nothing else. -/
structure TiersAct (a : Act α) : Prop where
  only : ∀ s x t, a.run s = .ok (x, t) → TiersOnly s t

namespace TiersAct

theorem of_same {a : Act α} (h : ∀ s x t, a.run s = .ok (x, t) → t = s) : TiersAct a := ⟨fun s x t e => h s x t e ▸ .refl s⟩

theorem pure (x : α) : TiersAct (Pure.pure x : Act α) := .of_same fun _ _ _ h => (Act.of_pure h).2
theorem get : TiersAct (MonadState.get : Act State) := .of_same fun _ _ _ h => (Act.of_get h).2
theorem fail (n : Nat) : TiersAct (Act.fail n : Act α) := ⟨fun _ _ _ h => (Act.of_fail h).elim⟩
theorem need (b : Bool) (n : Nat) : TiersAct (Act.need b n) := .of_same fun _ _ _ h => (Act.of_need h).2
theorem lift (e : Except AccErr α) : TiersAct (Act.lift e) := .of_same fun _ _ _ h => (Act.of_lift h).2

theorem bind {a : Act α} {f : α → Act β} (ha : TiersAct a) (hf : ∀ x, TiersAct (f x)) : TiersAct (a >>= f) := .mk fun s _ _ h => by
  obtain ⟨x, u, hx, h⟩ := Act.of_bind h
  exact (ha.only s x u hx).trans ((hf x).only u _ _ h)

theorem forIn {l : List β} {r : α} {f : β → α → Act (ForInStep α)} (hf : ∀ b r, TiersAct (f b r)) :
    TiersAct (forIn l r f) := .mk fun s _ _ h =>
  Act.forIn_keeps (P := TiersOnly s) (fun b _ r _ z t hs h => hs.trans ((hf b r).only _ z t h)) (.refl s) h

end TiersAct

/-! ## What the tiers are not -/

namespace TiersOnly

variable {s t : State} (h : TiersOnly s t)
include h

theorem epochs : t.epochs = s.epochs := by rw [h]
theorem cmds : t.cmds = s.cmds := by rw [h]
theorem seqs : t.seqs = s.seqs := by rw [h]
theorem coils : t.coils = s.coils := by rw [h]
theorem cmd? (q n : Nat) : t.cmd? q n = s.cmd? q n := by simp only [State.cmd?, h.cmds]
theorem regionState (g : RegionId) : t.regionState g = s.regionState g := by
  unfold State.regionState State.part
  rw [h.epochs]

end TiersOnly

/-! ## Memory accesses -/

theorem tiersAct_getVirt (ctx va len : Nat) : TiersAct (getVirt ctx va len) := .mk fun s x t h => by
  simp only [StateT.run, getVirt] at h
  split at h
  · cases h; exact (noteVirt_notes _ _ _ _ _).tiers
  · exact nomatch h

theorem tiersAct_putVirt (ctx va : Nat) (bs : List Byte) : TiersAct (putVirt ctx va bs) := .mk fun s x t h => by
  simp only [StateT.run, putVirt] at h
  split at h
  · rename_i e; cases h; exact writeVirt_tiers e
  · exact nomatch h

theorem tiersAct_getNat (ctx va k : Nat) : TiersAct (getNat ctx va k) := .bind (tiersAct_getVirt ..) fun _ => .pure _

theorem tiersAct_putNat (ctx va k v : Nat) : TiersAct (putNat ctx va k v) := tiersAct_putVirt ..

theorem tiersAct_getStacked (a len : Nat) : TiersAct (getStacked a len) := .mk fun s x t h => by
  simp only [StateT.run, getStacked] at h
  split at h
  · cases h; exact (noteRead_notes _ _ _).tiers
  · exact nomatch h

theorem tiersAct_putStacked (a : Nat) (bs : List Byte) : TiersAct (putStacked a bs) := .mk fun s x t h => by
  simp only [StateT.run, putStacked] at h
  split at h
  · rename_i e; cases h; exact writeLoc_tiers e
  · exact nomatch h

theorem tiersAct_copyReadable (a b len : Nat) : TiersAct (copyReadable a b len) := .mk fun s x t h => by
  simp only [StateT.run, copyReadable] at h
  split at h
  · exact (tiersAct_putStacked ..).only s x t h
  · cases h; exact .refl s
  · exact nomatch h

/-! ## Pools and list blocks -/

theorem tiersAct_poolAt (ctx num : Nat) : TiersAct (poolAt ctx num) := by
  refine .bind .get fun s => ?_
  split
  · exact .fail _
  · exact .bind (tiersAct_getVirt ..) fun _ => .pure _

theorem tiersAct_openPool (ctx num : Nat) : TiersAct (openPool ctx num) := by
  refine .bind .get fun s => ?_
  split
  · exact .fail _
  · refine .bind (.need ..) fun _ => .bind (tiersAct_getVirt ..) fun _ => ?_
    dsimp only
    split
    · exact .pure _
    · exact .bind (.need ..) fun _ => .bind (.need ..) fun _ => .bind (.need ..) fun _ => .bind (tiersAct_putVirt ..) fun _ =>
        .bind (tiersAct_putNat ..) fun _ => .bind (tiersAct_putNat ..) fun _ => .pure _

namespace Pool

variable (p : Pool)

theorem tiersAct_readBlock (j : Nat) : TiersAct (p.readBlock j) := .bind (tiersAct_getVirt ..) fun _ => .pure _

theorem tiersAct_writeBlock (j : Nat) (b : Block) : TiersAct (p.writeBlock j b) := .bind .get fun _ => tiersAct_putVirt ..

theorem tiersAct_blocksFree : TiersAct p.blocksFree := tiersAct_getNat ..

theorem tiersAct_popBlock : TiersAct p.popBlock :=
  .bind p.tiersAct_blocksFree fun _ => .bind (.need ..) fun _ => .bind (tiersAct_getNat ..) fun _ =>
    .bind (tiersAct_putNat ..) fun _ => .pure _

theorem tiersAct_pushBlock (id : Nat) : TiersAct (p.pushBlock id) :=
  .bind p.tiersAct_blocksFree fun _ => .bind (tiersAct_putNat ..) fun _ => tiersAct_putNat ..

theorem tiersAct_pushPage (id : Nat) : TiersAct (p.pushPage id) :=
  .bind (tiersAct_getNat ..) fun _ => .bind (tiersAct_putNat ..) fun _ => tiersAct_putNat ..

theorem tiersAct_releasePage (id : Nat) : TiersAct (p.releasePage id) := by
  refine .bind (tiersAct_getNat ..) fun _ => .bind (tiersAct_putNat ..) fun _ => ?_
  split
  · exact p.tiersAct_pushPage id
  · exact .pure _

theorem tiersAct_releaseBlock (f j : Nat) : TiersAct (p.releaseBlock f j) := by
  induction f generalizing j with
  | zero => exact .pure _
  | succ f ih =>
    unfold Pool.releaseBlock
    refine .bind (p.tiersAct_readBlock j) fun b => .bind (p.tiersAct_writeBlock ..) fun _ => ?_
    split
    · refine .bind (.forIn fun e _ => ?_) fun _ => p.tiersAct_pushBlock j
      repeat' split
      · exact .bind (p.tiersAct_releasePage _) fun _ => .pure _
      · exact .bind (ih _) fun _ => .pure _
      · exact .pure _
    · exact .pure _

end Pool

/-! ## Sequences of a list -/

/-- A LIVE sequence is what its id looks up, and nothing is changed. -/
theorem of_liveSeq {ctx id : Nat} {q : Seq} {s t : State} (h : (liveSeq ctx id).run s = .ok (q, t)) :
    lookup s.seqs id = some q ∧ t = s := by
  have h1 := Act.of_get_bind h
  split at h1
  · exact (Act.of_fail h1).elim
  · rename_i x hx
    obtain ⟨_, _, h2⟩ := Act.of_lift_bind h1
    obtain ⟨rfl, rfl⟩ := Act.of_pure (Act.of_need_bind h2).2
    exact ⟨hx, rfl⟩

theorem of_liveSeq_bind {ctx id : Nat} {f : Seq → Act β} {s t : State} {y : β} (h : (liveSeq ctx id >>= f).run s = .ok (y, t)) :
    ∃ q, lookup s.seqs id = some q ∧ (f q).run s = .ok (y, t) := by
  obtain ⟨q, u, hl, hf⟩ := Act.of_bind h
  obtain ⟨hq, rfl⟩ := of_liveSeq hl
  exact ⟨q, hq, hf⟩

theorem tiersAct_liveSeq (ctx id : Nat) : TiersAct (liveSeq ctx id) := .of_same fun _ _ _ h => (of_liveSeq h).2

theorem dupFree_iff (l : List Nat) : dupFree l = true ↔ l.Nodup := by
  induction l with
  | nil => simp [dupFree]
  | cons x l ih => simp [dupFree, ih]

/-- A fold of steps stays within a relation that each step stays within. -/
theorem foldl_within {R : State → State → Prop} (hr : ∀ s, R s s) (ht : ∀ {s t u}, R s t → R t u → R s u) {f : State → β → State}
    (hf : ∀ s b, R s (f s b)) (l : List β) (s : State) : R s (l.foldl f s) := by
  induction l generalizing s with
  | nil => exact hr s
  | cons b l ih => exact ht (hf s b) (ih (f s b))

/-! ## Sequences changed in turn -/

/-- Sequences changed one after another: nothing else is. -/
theorem foldl_updSeq_frame (f : Seq → Seq) (ids : List Nat) (s : State) :
    ids.foldl (fun s i => s.updSeq i f) s = { s with seqs := (ids.foldl (fun s i => s.updSeq i f) s).seqs } := by
  induction ids generalizing s with
  | nil => rfl
  | cons i ids ih => rw [List.foldl_cons, ih]; rfl

/-- Sequences changed one after another by a change that is the same when made twice. -/
theorem lookup_foldl_updSeq {f : Seq → Seq} (hf : ∀ x, f (f x) = f x) (ids : List Nat) (s : State) (id : Nat) :
    lookup (ids.foldl (fun s i => s.updSeq i f) s).seqs id = if id ∈ ids then (lookup s.seqs id).map f else lookup s.seqs id := by
  induction ids generalizing s with
  | nil => simp
  | cons i ids ih =>
    rw [List.foldl_cons, ih, State.updSeq_seqs]
    by_cases e : id = i
    · subst e
      cases hl : lookup s.seqs id <;> simp [lookup_modifyAt_self, hl, hf]
    · simp [lookup_modifyAt_ne _ f e, e]

/-! ## Commands of the store -/

/-- A command changed where it stands, its name kept. -/
theorem cmd?_updCmd_self (s : State) (q n : Nat) {f : Cmd → Cmd} (hf : ∀ c, (f c).q = c.q ∧ (f c).n = c.n) :
    (s.updCmd q n f).cmd? q n = (s.cmd? q n).map f := by
  have hp : (fun c : Cmd => c.q == q && c.n == n) ∘ (fun c => if c.q == q && c.n == n then f c else c)
      = fun c : Cmd => c.q == q && c.n == n := by
    funext c
    simp only [Function.comp]
    split <;> simp [hf]
  simp only [State.cmd?, State.updCmd, List.find?_map, hp]
  cases hc : s.cmds.find? (fun c => c.q == q && c.n == n) with
  | none => rfl
  | some c =>
    have := List.find?_some hc
    simp only [Option.map_some, this, if_true]

theorem granted?_of_granted {s : State} {q n ty : Nat} {cm : Cmd} (h : s.cmd? q n = some cm) (hp : cm.phase = .granted) (ht : cm.type = ty) :
    s.granted? q n ty = some cm := by
  simp [State.granted?, h, hp, ht]

end Sys2Proof.Machine
end

section
/-! PROOF. The values after reset (01, R17; 02, R36; 15, R293; 16, R320; 17, R330; 19, R370; 20, R396; 22, R445; logs 2, 3, 14). -/

namespace Sys2Proof.Machine

theorem reset_region (g : RegionId) : State.reset.regions[g] = Region.reset := by simp [State.reset]

theorem reset_part (p : Part) :
    State.reset.part p = { state := .inService, epoch := 0, lastNs := none, owed := 0, returning := false } := by
  simp [State.part, State.reset]

theorem reset_hif (h : HostPort) : State.reset.hif[h] = Hif.reset := by simp [State.reset]

theorem reset_mbox (h : HostPort) : State.reset.mbox[h] = Mailbox.reset := by simp [State.reset]

theorem reset_smp (q : SampleQ) : State.reset.smp[q] = SmpQueue.reset := by simp [State.reset]

theorem reset_slot (c : CoreId) (k : KsId) : State.reset.slot c k = KSlot.idle := by simp [State.slot, State.reset, Core.reset]

theorem reset_memoriesWf : memoriesWf State.reset = true := by decide

/-- Settles O2: each indexed part holds its own reset value, whatever its index. -/
theorem resetLeavesStatedValues : Obligations.ResetLeavesStatedValues := by
  unfold Obligations.ResetLeavesStatedValues
  simp only [reset_region, reset_part, reset_hif, reset_mbox, reset_smp, reset_slot, reset_memoriesWf]
  simp [Region.reset, Hif.reset, Mailbox.reset, SmpQueue.reset, KSlot.idle, State.reset, Service.reset, Power.reset, TimeBase.reset]

end Sys2Proof.Machine
end

section
/-! PROOF. The register rows (01, R17, R18; 02, R36; 20, R396, R403, R460; 21, R427; logs 111, 123). -/

namespace Sys2Proof.Machine

/-! ## What wakes the package, and what READY opens -/

theorem awake_of_not_ash {s : State} (h : s.pwr.current ≠ 3) : s.awake = s := by simp [State.awake, h]

theorem leaveLow_of_blaze {s : State} (h : s.pwr.current = 0) : s.leaveLow = s := by simp [State.leaveLow, h]

theorem late_of_ready {s : State} (h : s.pwr.current ≠ 3) (hr : s.isReady = true) (f : State → State) : s.late f = f s := by
  simp [State.late, awake_of_not_ash h, hr]

theorem late_of_not_ready {s : State} (h : s.pwr.current ≠ 3) (hr : s.isReady = false) (f : State → State) : s.late f = s := by
  simp [State.late, awake_of_not_ash h, hr]

theorem lateWindow_of_ready {s : State} (h : s.pwr.current = 0) (hr : s.isReady = true) (f : State → State) : s.lateWindow f = f s := by
  have h3 : s.pwr.current ≠ 3 := by omega
  simp only [State.lateWindow, awake_of_not_ash h3, leaveLow_of_blaze h, late_of_ready h3 hr]

/-! ## Roles (R17, R18) -/

theorem updRegion_self (s : State) (g : RegionId) (f : Region → Region) : (s.updRegion g f).regions[g] = f s.regions[g] := by simp

theorem updRegion_other (s : State) {g g' : RegionId} (h : g' ≠ g) (f : Region → Region) :
    (s.updRegion g f).regions[g'] = s.regions[g'] := by
  have : g.val ≠ g'.val := fun e => h (Fin.ext e.symm)
  simp [this]

theorem updRegion_twice (s : State) (g : RegionId) (f f' : Region → Region) :
    (s.updRegion g f).updRegion g f' = s.updRegion g (fun r => f' (f r)) := by simp [State.updRegion]

/-- What a region runs does not depend on what its registers say. -/
@[simp] theorem excluded_updRegion (s : State) (g g' : RegionId) (f : Region → Region) (role : Nat) :
    (s.updRegion g f).excluded g' role = s.excluded g' role := rfl

theorem writeRole_of_free {s : State} {g : RegionId} {v : Nat} (h : s.excluded g (fld v 1 0) = false) :
    s.writeRole g v = s.updRegion g (fun r => { r with role := fld v 1 0, roleNow := fld v 1 0, rolePending := false }) := by
  simp only [State.writeRole, State.roleEffect, updRegion_self, excluded_updRegion, h, Bool.not_false, Bool.and_self, if_true,
    updRegion_twice]

theorem writeRole_of_excluded {s : State} {g : RegionId} {v : Nat} (h : s.excluded g (fld v 1 0) = true) :
    s.writeRole g v = s.updRegion g (fun r => { r with role := fld v 1 0, rolePending := true }) := by
  simp [State.writeRole, State.roleEffect, h]

/-- The role written is there at once; whether it is in force waits for the drain. -/
theorem writeRole_spec (s : State) (g : RegionId) (v : Nat) :
    (s.writeRole g v).regions[g].role = fld v 1 0
    ∧ (s.excluded g (fld v 1 0) = false →
        (s.writeRole g v).regions[g] = { s.regions[g] with role := fld v 1 0, roleNow := fld v 1 0, rolePending := false })
    ∧ (s.excluded g (fld v 1 0) = true →
        (s.writeRole g v).regions[g] = { s.regions[g] with role := fld v 1 0, rolePending := true })
    ∧ (∀ g' : RegionId, g' ≠ g → (s.writeRole g v).regions[g'] = s.regions[g'])
    ∧ s.writeRole g v = { s with regions := (s.writeRole g v).regions } := by
  cases h : s.excluded g (fld v 1 0) with
  | false =>
    rw [writeRole_of_free h, updRegion_self]
    exact ⟨rfl, fun _ => rfl, (nomatch ·), fun g' ne => updRegion_other s ne _, rfl⟩
  | true =>
    rw [writeRole_of_excluded h, updRegion_self]
    exact ⟨rfl, (nomatch ·), fun _ => rfl, fun g' ne => updRegion_other s ne _, rfl⟩

/-! ## The watchdog period (R36; log 123) -/

theorem writeWdt_eq (r : Region) (v : Nat) : r.writeWdt v =
    if 1 ≤ fld v 9 0 ∧ fld v 9 0 ≤ 1000 then { r with wdtPeriod := fld v 9 0, wdtWriteErr := r.wdtWriteErr && !bit v 12 }
    else { r with wdtWriteErr := true } := by
  by_cases h : 1 ≤ fld v 9 0 ∧ fld v 9 0 ≤ 1000
  · simp [Region.writeWdt, h]
  · have h' : (decide (1 ≤ fld v 9 0) && decide (fld v 9 0 ≤ 1000)) = false := by simpa using h
    simp only [Region.writeWdt, h', h, if_false]
    simp

/-! ## The rows that READY opens, in Blaze -/

section
variable {s : State} {v : W32} (hp : s.pwr.current = 0) (hr : s.isReady = true)
include hp hr

theorem exec_roleWrite (g : RegionId) : exec (.roleWrite g v) s = .next (s.writeRole g v.toNat) :=
  congrArg Host.Outcome.next (late_of_ready (by omega) hr _)

theorem exec_snapshotPartitionWrite :
    exec (.snapshotPartitionWrite v) s = .next (s.updFls (fun f => f.writePart v.toNat)) :=
  congrArg Host.Outcome.next (late_of_ready (by omega) hr _)

theorem exec_watchdogPeriodWrite (g : RegionId) :
    exec (.watchdogPeriodWrite g v) s = .next (s.updRegion g (fun r => r.writeWdt v.toNat)) :=
  congrArg Host.Outcome.next (lateWindow_of_ready hp hr _)

theorem exec_anvilCountersClear (c : CoreId) : exec (.anvilCountersClear c v) s = .next
    (if bit v.toNat 0 then s.updCore c (fun co => { co with cntActive := 0, cntMac := 0 }) else s) :=
  congrArg Host.Outcome.next (lateWindow_of_ready hp hr _)

/-- Each CLEAR of a group of region counters zeroes its group through `clearCnt`, and nothing without bit 0. -/
theorem clearCnt_of_ready (g : RegionId) (f : RegionCnt → RegionCnt) :
    (.next (s.lateWindow (fun s => s.clearCnt g v.toNat f)) : Host.Outcome State Fault Refusal)
      = .next (if bit v.toNat 0 then s.updCnt g f else s) :=
  congrArg Host.Outcome.next (lateWindow_of_ready hp hr _)

end

/-! ## Before READY -/

section
variable {s : State} {v : W32} (hp : s.pwr.current ≠ 3) (hr : s.isReady = false)
include hp hr

theorem exec_snapshotPartitionWrite_early : exec (.snapshotPartitionWrite v) s = .next s :=
  congrArg Host.Outcome.next (late_of_not_ready hp hr _)

theorem exec_roleWrite_early (g : RegionId) : exec (.roleWrite g v) s = .next s :=
  congrArg Host.Outcome.next (late_of_not_ready hp hr _)

end

/-! ## Registers without a row of their own (R396) -/

section
variable {s : State} (h : HostPort) {off width : Nat} {v : W32} (hp : s.pwr.current ≠ 3)
include hp

theorem exec_registerWrite_discarded (hw : width ≠ 4 ∨ off % 4 ≠ 0) : exec (.registerWrite h off width v) s = .next s := by
  refine congrArg Host.Outcome.next ?_
  simp only [awake_of_not_ash hp]
  rcases hw with hw | hw <;> simp [hw]

theorem exec_registerWrite_taken (hd : s.diesOn = true) (ha : off % 4 = 0) :
    exec (.registerWrite h off 4 v) s = .next (s.barWrite h off v.toNat) := by
  refine congrArg Host.Outcome.next ?_
  simp [awake_of_not_ash hp, hd, ha]

end

theorem barWrite_evtEn (s : State) (h : HostPort) (v : Nat) :
    s.barWrite h 0x100C v = s.updHif h (fun x => { x with evtEn := BitVec.ofNat 4 v }) := by
  simp [State.barWrite, lateBlock, State.writeHif]

theorem barWrite_evt (s : State) (h : HostPort) (v : Nat) :
    s.barWrite h 0x1008 v = s.updHif h (fun x => { x with evt := x.evt &&& ~~~(BitVec.ofNat 4 v) }) := by
  simp [State.barWrite, lateBlock, State.writeHif]

theorem barWrite_dispatch {s : State} (hr : s.isReady = true) (h : HostPort) (v : Nat) : s.barWrite h 0x20C000 v = s.writeDispatch v := by
  simp [State.barWrite, lateBlock, State.writeSch, hr]

/-! ## Reads with an effect (R460, R427) -/

theorem exec_counterLoRead {s : State} (h : HostPort) {off v : Nat} (hp : s.pwr.current = 0) (hd : s.diesOn = true)
    (hw : s.wide h off = some v) : exec (.counterLoRead h off) s = .next (s.latch h off v) := by
  refine congrArg Host.Outcome.next ?_
  have h3 : s.pwr.current ≠ 3 := by omega
  simp [awake_of_not_ash h3, leaveLow_of_blaze hp, hd, hw]

/-- A latch answers LO, and keeps HI for the port. -/
theorem latch_spec (s : State) (h : HostPort) (off v : Nat) :
    (s.latch h off v).reply = leBytes 4 (v % 2 ^ 32)
    ∧ lookup (s.latch h off v).hif[h].latches (off + 4) = some (BitVec.ofNat 32 (v / 2 ^ 32))
    ∧ s.latch h off v = { s with reply := (s.latch h off v).reply, hif := (s.latch h off v).hif } := by
  refine ⟨rfl, ?_, rfl⟩
  simp [State.latch]

theorem exec_peakPowerRead {s : State} (h : HostPort) (hp : s.pwr.current = 0) (hd : s.diesOn = true) :
    exec (.peakPowerRead h) s
      = .next { s with reply := leBytes 4 (s.barRead h 0x2000C), pwr := { s.pwr with peakW := 0 } } := by
  refine congrArg Host.Outcome.next ?_
  have h3 : s.pwr.current ≠ 3 := by omega
  simp [awake_of_not_ash h3, hd, State.updPwr]

/-- Settles O51: each register by its row's rule. -/
theorem registerRows : Obligations.RegisterRows := by
  unfold Obligations.RegisterRows
  refine ⟨fun s v hp hr => ?blaze, fun s v hp hr => ?early, fun s h off width v hp hd => ?write, fun s h off hp hd => ?read⟩
  case blaze =>
    refine ⟨fun g => ⟨_, exec_roleWrite hp hr g, writeRole_spec s g v.toNat⟩, fun g => ?wdt, exec_anvilCountersClear hp hr,
      fun g => clearCnt_of_ready hp hr g _, fun g => clearCnt_of_ready hp hr g _, fun g => clearCnt_of_ready hp hr g _,
      fun g => clearCnt_of_ready hp hr g _, fun g => clearCnt_of_ready hp hr g _, fun g => clearCnt_of_ready hp hr g _,
      ⟨_, exec_snapshotPartitionWrite hp hr, rfl, rfl, rfl, rfl⟩⟩
    simp only [exec_watchdogPeriodWrite hp hr, writeWdt_eq]
  case early => exact ⟨exec_snapshotPartitionWrite_early hp hr, exec_roleWrite_early hp hr⟩
  case write =>
    refine ⟨exec_registerWrite_discarded h hp, ?_, ?_, fun hr => ?_⟩
    · rw [exec_registerWrite_taken h hp hd (by decide), barWrite_evtEn]
    · rw [exec_registerWrite_taken h hp hd (by decide), barWrite_evt]
    · rw [exec_registerWrite_taken h hp hd (by decide), barWrite_dispatch hr]
      simp [State.writeDispatch]
  case read =>
    exact ⟨fun v hw => ⟨_, exec_counterLoRead h hp hd hw, latch_spec s h off v⟩, ⟨_, exec_peakPowerRead h hp hd, rfl, rfl, rfl⟩⟩

end Sys2Proof.Machine
end

section
/-! PROOF. KERNEL's dispatch: what reading notes of a region, what the act touches, and the row by its outcomes (01, R11, R19; 03, R39, R40;
log 79). -/

namespace Sys2Proof.Machine

/-! ## What the notes of reads leave of a region -/

/-- A region but for its counts, its rows' errors and repairs, and its cache. -/
structure RegionNotes (s t : State) : Prop where
  region : ∀ g : RegionId, t.regions[g] = { s.regions[g] with
    cnt := t.regions[g].cnt, rowErrs := t.regions[g].rowErrs, softRows := t.regions[g].softRows, softUsed := t.regions[g].softUsed
    tcache := t.regions[g].tcache }

namespace RegionNotes

theorem of_eq {s t : State} (h : t.regions = s.regions) : RegionNotes s t := ⟨fun g => by simp only [h]⟩

theorem refl (s : State) : RegionNotes s s := .of_eq rfl

theorem trans {s t u : State} (a : RegionNotes s t) (b : RegionNotes t u) : RegionNotes s u :=
  ⟨fun g => by rw [b.region g, a.region g]⟩

theorem updRegion (s : State) (g : RegionId) {f : Region → Region}
    (h : ∀ r, f r = { r with
      cnt := (f r).cnt, rowErrs := (f r).rowErrs, softRows := (f r).softRows, softUsed := (f r).softUsed, tcache := (f r).tcache }) :
    RegionNotes s (s.updRegion g f) := ⟨fun g' => by
  by_cases e : g.val = g'.val
  · simpa [e] using h s.regions[g'.val]
  · simp [e]⟩

theorem updCnt (s : State) (g : RegionId) (f : RegionCnt → RegionCnt) : RegionNotes s (s.updCnt g f) := updRegion s g fun _ => rfl

theorem logEv (s : State) (a : LogArgs) : RegionNotes s (s.logEv a) := .of_eq (by rw [logEv_frame])

theorem logLimited (s : State) (key max : Nat) (a : LogArgs) : RegionNotes s (s.logLimited key max a) := .of_eq (by rw [logLimited_frame])

theorem foldl {β : Type} {f : State → β → State} (hf : ∀ s b, RegionNotes s (f s b)) (l : List β) (s : State) :
    RegionNotes s (l.foldl f s) := foldl_within .refl .trans hf l s

end RegionNotes

theorem mendStacked_regions (s : State) (b : Nat) : (s.mendStacked b).regions = s.regions := by
  unfold State.mendStacked
  repeat' split
  all_goals rfl

theorem repairRow_regionNotes (s : State) (g : RegionId) (addr : Nat) : RegionNotes s (s.repairRow g addr) := by
  unfold State.repairRow
  dsimp only
  split
  · exact .refl s
  · split
    · refine (RegionNotes.trans ?_ (.updRegion _ g fun _ => rfl)).trans (.logEv _ _)
      exact .foldl (fun s b => .of_eq (mendStacked_regions s b)) _ s
    · exact .logEv _ _

theorem rowError_regionNotes (s : State) (g : RegionId) (addr : Nat) : RegionNotes s (s.rowError g addr) := by
  have h := RegionNotes.updRegion s g (f := fun r => { r with
    rowErrs := insertAt r.rowErrs (addr / 1024)
      (s.timeNs :: ((lookup s.regions[g].rowErrs (addr / 1024)).getD []).filter (fun t => s.timeNs < t + 86400000000000)) }) fun _ => rfl
  unfold State.rowError
  dsimp only
  split
  · exact h.trans (repairRow_regionNotes ..)
  · exact h

theorem noteBlock_regionNotes (s : State) (l : Loc) (c : Checked) : RegionNotes s (s.noteBlock l c) := by
  unfold State.noteBlock State.noteBlockBy
  cases c with
  | clean _ => exact .refl s
  | unwritten => exact .logEv _ _
  | corrected _ b =>
    dsimp only
    split
    · exact (RegionNotes.updCnt ..).trans (.logLimited ..)
    · exact ((RegionNotes.updCnt ..).trans (.logLimited ..)).trans (rowError_regionNotes ..)
  | error =>
    dsimp only
    split
    · exact (RegionNotes.updCnt ..).trans (.logEv ..)
    · exact ((RegionNotes.updCnt ..).trans (.logEv ..)).trans (repairRow_regionNotes ..)

theorem noteRead_regionNotes (s : State) (l : Loc) (len : Nat) : RegionNotes s (s.noteRead l len) := by
  unfold State.noteRead
  split
  · dsimp only
    split
    · exact (RegionNotes.foldl (fun s _ => noteBlock_regionNotes s _ _) _ s).trans (.updCnt ..)
    · exact .foldl (fun s _ => noteBlock_regionNotes s _ _) _ s
  · exact .refl s

/-- A read of a device-owned operation leaves every region but its notes. -/
theorem noteVirt_regionNotes (s : State) (ctx va len : Nat) : RegionNotes s (s.noteVirt none ctx va len) := by
  unfold State.noteVirt
  split
  · exact .refl s
  · exact .foldl (fun s (l : Loc × Nat) => noteRead_regionNotes s l.1 l.2) _ s

theorem noteVirt_roleNow (s : State) (ctx va len : Nat) (g : RegionId) :
    (s.noteVirt none ctx va len).regions[g].roleNow = s.regions[g].roleNow := by rw [(noteVirt_regionNotes s ctx va len).region g]

theorem noteVirt_roleRegions (s : State) (ctx va len cls : Nat) : (s.noteVirt none ctx va len).roleRegions cls = s.roleRegions cls := by
  simp only [State.roleRegions, noteVirt_roleNow]

/-! ## What the dispatch's act touches (R39, R155 to R157) -/

theorem tiersAct_checkTargets (ctx : Nat) (cm : Cmd) : TiersAct (checkTargets ctx cm) := by
  refine .bind (.need ..) fun _ => ?_
  split
  · exact .pure _
  · exact .bind (tiersAct_getVirt ..) fun _ => .bind (.need ..) fun _ =>
      .bind (.forIn fun _ _ => .bind (tiersAct_liveSeq ..) fun _ => .pure _) fun _ => .pure _

theorem tiersAct_checkCounter (ctx cb : Nat) : TiersAct (checkCounter ctx cb) := by
  refine .bind (tiersAct_getVirt ..) fun _ => .bind (.need ..) fun _ => .bind (tiersAct_getVirt ..) fun _ => .bind (.need ..) fun _ =>
    .bind .get fun s => .bind (.need ..) fun _ => ?_
  split
  · exact .fail _
  · exact .bind (.need ..) fun _ => .pure _

theorem tiersAct_runCounter (ctx cb bm : Nat) : TiersAct (runCounter ctx cb bm) :=
  .bind (tiersAct_getNat ..) fun _ => .bind (tiersAct_getNat ..) fun _ => .bind (tiersAct_putNat ..) fun _ =>
    .bind (tiersAct_putNat ..) fun _ => .bind (tiersAct_putNat ..) fun _ => .bind (tiersAct_putNat ..) fun _ =>
    .bind (tiersAct_getNat ..) fun _ => .bind (tiersAct_putNat ..) fun _ => .bind (tiersAct_putNat ..) fun _ =>
    .bind (tiersAct_putNat ..) fun _ => .bind (tiersAct_putNat ..) fun _ => .bind (tiersAct_getNat ..) fun _ => tiersAct_putVirt ..

theorem tiersAct_kernelAct (ctx : Nat) (cm : Cmd) (h : KHeader) : TiersAct (kernelAct ctx cm h) := by
  refine .bind (.need ..) fun _ => .bind (tiersAct_checkTargets ..) fun _ => ?_
  dsimp only
  split
  · exact .pure _
  · exact .bind (tiersAct_checkCounter ..) fun _ => .bind (tiersAct_runCounter ..) fun _ => .pure _

/-! ## A validated header (R38, R39) -/

theorem maxInst_of_rangesOk {h : KHeader} (hr : h.rangesOk = true) : 1 ≤ h.maxInst := by
  simp only [KHeader.rangesOk, Bool.and_eq_true, decide_eq_true_eq] at hr
  exact hr.1.1.2

theorem maxInst_of_kernelHeader {s : State} {ctx major minor image : Nat} {h : KHeader}
    (e : s.kernelHeader ctx major minor image = .ok (.ok h)) : 1 ≤ h.maxInst := by
  obtain ⟨bs, _, e⟩ := bind_ok e
  split at e
  · exact nomatch e
  by_cases hr : (headerOf bs).rangesOk = true
  · simp only [hr, Bool.not_true, Bool.false_eq_true, if_false] at e
    obtain ⟨code, _, e⟩ := bind_ok e
    split at e
    · exact nomatch e
    split at e
    · exact nomatch e
    · cases e; exact maxInst_of_rangesOk hr
  · simp only [hr] at e
    exact nomatch e

/-! ## The instances, and the targets in flight (R11, R40) -/

theorem newInsts_length (s : State) (cm : Cmd) {h : KHeader} (hm : 1 ≤ h.maxInst) :
    1 ≤ (s.newInsts cm h).length ∧ (s.newInsts cm h).length ≤ h.maxInst := by
  have := Nat.mod_lt (Config.freeNat 4 [cm.q, cm.n, s.freshCtr]) hm
  simp only [State.newInsts, List.length_map, List.length_range]
  omega

theorem newInsts_open {s : State} {cm : Cmd} {h : KHeader} {x : Inst} (hx : x ∈ s.newInsts cm h) :
    x.placed = none ∧ x.ended = false ∧ x.resume = 0 := by
  obtain ⟨i, _, rfl⟩ := List.mem_map.1 hx
  exact ⟨rfl, rfl, rfl⟩

/-! ## The row, by its outcomes -/

/-- Targets taken in flight (R11). -/
def State.takeTargets (s : State) (ids : List Nat) : State := ids.foldl (fun s i => s.updSeq i (fun x => { x with inFlight := true })) s

/-- What a dispatch writes of a KERNEL's command, in the state with its targets taken. -/
def State.dispatchFields (s : State) (cm : Cmd) (ctx : Nat) (h : KHeader) (ids : List Nat) (bm j : Nat) (x : Cmd) : Cmd :=
  { x with
    phase := .dispatched
    hdr := h
    args := cm.at 0x18 8
    insts := s.newInsts cm h
    targets := ids
    counter := cm.at 0x20 8
    home := if cm.at 0x20 8 = 0 then none else s.counterHome ctx (cm.at 0x20 8)
    bitmap := bm
    jstep := j }

/-- The state that a KERNEL's dispatch leaves (R11, R40, R157). -/
def State.dispatchedKernel (s : State) (q n : Nat) (cm : Cmd) (ctx : Nat) (h : KHeader) (ids : List Nat) (bm j : Nat) : State :=
  ((s.takeTargets ids).updCmd q n ((s.takeTargets ids).dispatchFields cm ctx h ids bm j)).fresh

section
variable {s : State} {q n : Nat} {cm : Cmd} {qu : Queue} (hcmd : s.cmd? q n = some cm) (hp : cm.phase = .granted) (ht : cm.type = tyKernel)
  (hq : lookup s.queues q = some qu)
include hcmd hp ht hq

theorem exec_kernel_badHeader {st : Nat} (hh : s.kernelHeader qu.ctx qu.major qu.minor (cm.at 0x10 8) = .ok (.error st)) :
    exec (.kernel q n) s = .next ((s.noteVirt none qu.ctx (cm.at 0x10 8) 64).endCmd q n st false) := by
  show execKernel q n s = _
  simp only [execKernel, granted?_of_granted hcmd hp ht, hq, hh]

variable {h : KHeader} (hh : s.kernelHeader qu.ctx qu.major qu.minor (cm.at 0x10 8) = .ok (.ok h)) {s0 : State}
  (hs0 : s0 = s.noteVirt none qu.ctx (cm.at 0x10 8) (64 + 16 * h.length))
include hh hs0

theorem exec_kernel_noUnits (hu : s0.unitsFit h = false) : exec (.kernel q n) s = .next (s0.endCmd q n stLimit false) := by
  show execKernel q n s = _
  simp only [execKernel, granted?_of_granted hcmd hp ht, hq, hh, ← hs0, hu, Bool.not_false, if_true]

variable (hu : s0.unitsFit h = true)
include hu

theorem exec_kernel_failedCheck {e : AccErr} (ha : (kernelAct qu.ctx cm h).run s0 = .error e) :
    exec (.kernel q n) s = .next (s0.cmdErr q n e) := by
  show execKernel q n s = _
  simp only [execKernel, granted?_of_granted hcmd hp ht, hq, hh, ← hs0, hu, ha, Bool.not_true, Bool.false_eq_true, if_false]

variable {ids : List Nat} {bm j : Nat} {s1 : State} (ha : (kernelAct qu.ctx cm h).run s0 = .ok ((ids, bm, j), s1))
include ha

theorem exec_kernel_noRegion (hr : s.roleRegions qu.role = []) : exec (.kernel q n) s = .next (s0.endCmd q n stLimit false) := by
  have hr0 : s0.roleRegions qu.role = [] := by rw [hs0, noteVirt_roleRegions, hr]
  show execKernel q n s = _
  simp only [execKernel, granted?_of_granted hcmd hp ht, hq, hh, ← hs0, hu, ha, hr0, Bool.not_true, Bool.false_eq_true, if_false,
    List.isEmpty_nil, if_true]

theorem exec_kernel_dispatches {g : RegionId} (hg : g ∈ s.roleRegions qu.role) (hf : s.regionState g ≠ .fenced) :
    exec (.kernel q n) s = .next (s1.dispatchedKernel q n cm qu.ctx h ids bm j) := by
  have hg0 : g ∈ s0.roleRegions qu.role := by rw [hs0, noteVirt_roleRegions]; exact hg
  have hne : (s0.roleRegions qu.role).isEmpty = false := by simpa using List.ne_nil_of_mem hg0
  have hall : (s0.roleRegions qu.role).all (fun g => s0.regionState g == .fenced) = false :=
    List.all_eq_false.2 ⟨g, hg0, by rw [hs0, TiersOnly.regionState (noteVirt_notes ..).tiers]; simpa using hf⟩
  show execKernel q n s = _
  simp only [execKernel, granted?_of_granted hcmd hp ht, hq, hh, ← hs0, hu, ha, hne, hall, Bool.not_true, Bool.false_eq_true, if_false]
  rfl

end

theorem mem_roleRegions {s : State} {cls : Nat} {g : RegionId} :
    g ∈ s.roleRegions cls ↔ roleAllows s.regions[g].roleNow cls = true := by
  simp [State.roleRegions]

theorem takeTargets_frame (s : State) (ids : List Nat) : s.takeTargets ids = { s with seqs := (s.takeTargets ids).seqs } :=
  foldl_updSeq_frame _ ids s

theorem takeTargets_cmd? (s : State) (ids : List Nat) (q n : Nat) : (s.takeTargets ids).cmd? q n = s.cmd? q n := by
  rw [takeTargets_frame]; rfl

theorem dispatchedKernel_frame (s : State) (q n : Nat) (cm : Cmd) (ctx : Nat) (h : KHeader) (ids : List Nat) (bm j : Nat) :
    s.dispatchedKernel q n cm ctx h ids bm j = { s with
      cmds := (s.dispatchedKernel q n cm ctx h ids bm j).cmds
      seqs := (s.dispatchedKernel q n cm ctx h ids bm j).seqs
      freshCtr := (s.dispatchedKernel q n cm ctx h ids bm j).freshCtr } := by
  rw [State.dispatchedKernel, takeTargets_frame]
  rfl

theorem dispatchedKernel_cmd? (s : State) (q n : Nat) (cm : Cmd) (ctx : Nat) (h : KHeader) (ids : List Nat) (bm j : Nat) :
    (s.dispatchedKernel q n cm ctx h ids bm j).cmd? q n
      = (s.cmd? q n).map ((s.takeTargets ids).dispatchFields cm ctx h ids bm j) := by
  rw [← takeTargets_cmd? s ids]
  exact cmd?_updCmd_self (s.takeTargets ids) q n fun _ => ⟨rfl, rfl⟩

theorem dispatchedKernel_inFlight {s : State} {q n : Nat} {cm : Cmd} {ctx : Nat} {h : KHeader} {ids : List Nat} {bm j i : Nat} {x : Seq}
    (hi : i ∈ ids) (hx : lookup (s.dispatchedKernel q n cm ctx h ids bm j).seqs i = some x) : x.inFlight = true := by
  have e : (s.dispatchedKernel q n cm ctx h ids bm j).seqs = (s.takeTargets ids).seqs := rfl
  rw [e, State.takeTargets, lookup_foldl_updSeq (f := fun x => { x with inFlight := true }) (fun _ => rfl), if_pos hi] at hx
  obtain ⟨y, _, rfl⟩ := Option.map_eq_some_iff.1 hx
  rfl

/-- Settles O27: the row's outcomes in their order, and what the dispatch leaves. -/
theorem kernelDispatches : Obligations.KernelDispatches := by
  unfold Obligations.KernelDispatches
  intro s q n cm qu hcmd hp ht hq
  refine ⟨fun st hh => exec_kernel_badHeader hcmd hp ht hq hh, fun h hh => ?_⟩
  intro s0
  refine ⟨exec_kernel_noUnits hcmd hp ht hq hh rfl, fun st nt hu ha => exec_kernel_failedCheck hcmd hp ht hq hh rfl hu ha,
    fun ids bm j s1 hu ha => ⟨fun hno => ?none, fun ⟨g, hg, hf⟩ => ?dispatch⟩⟩
  case none =>
    refine exec_kernel_noRegion hcmd hp ht hq hh rfl hu ha (List.eq_nil_iff_forall_not_mem.2 fun g hg => ?_)
    rw [mem_roleRegions, hno g] at hg
    exact nomatch hg
  case dispatch =>
    have h0 : TiersOnly s s1 := (noteVirt_notes ..).tiers.trans ((tiersAct_kernelAct ..).only _ _ _ ha)
    have hc := dispatchedKernel_cmd? s1 q n cm qu.ctx h ids bm j
    rw [h0.cmd?, hcmd] at hc
    obtain ⟨hlo, hhi⟩ := newInsts_length (s1.takeTargets ids) cm (maxInst_of_kernelHeader hh)
    exact ⟨_, _, exec_kernel_dispatches hcmd hp ht hq hh rfl hu ha (mem_roleRegions.2 hg) hf, hc, rfl, rfl, rfl, rfl, rfl, rfl, rfl,
      hlo, hhi, fun x hx => newInsts_open hx, fun i hi x hx => dispatchedKernel_inFlight hi hx, dispatchedKernel_frame ..⟩

end Sys2Proof.Machine
end

section
/-! PROOF. FORK (11, R203, R204; 01, R9, R14; 12, R239). -/

namespace Sys2Proof.Machine

/-! ## A coil copied -/

/-- What a slice of a parent's coil leaves in the child's entry. -/
def Coil.copied (x : Coil) (seqTail : Nat) (idle : Bool) : Coil :=
  { x with
    status := if idle then .idle else .parked
    hasSeq := true
    tail := decide (seqTail ≠ 0)
    core := 0
    row := 0
    unit := 0
    unitLo := 0
    holder := none }

theorem tiersAct_copyVectors (l : List Nat) (a b : Nat) (reset : Bool) : TiersAct (forIn l PUnit.unit fun off _ =>
    if reset = true then do
      copyReadable (a + off) (b + off) 512
      pure (ForInStep.yield PUnit.unit)
    else do
      let bs ← getStacked (a + off) 512
      putStacked (b + off) bs
      pure (ForInStep.yield PUnit.unit)) := by
  refine .forIn fun off _ => ?_
  split
  · exact .bind (tiersAct_copyReadable ..) fun _ => .pure _
  · exact .bind (tiersAct_getStacked ..) fun _ => .bind (tiersAct_putStacked ..) fun _ => .pure _

theorem of_copyCoilSlice {x : Coil} {a b j : Nat} {idle : Bool} {s t : State} {y : Unit}
    (h : (copyCoilSlice x a b j idle).run s = .ok (y, t)) : t.seqs = s.seqs ∧ t.coils = insertAt s.coils b (x.copied j idle) := by
  have h := Act.of_get_bind h
  cases idle with
  | true => rw [Act.of_modify h]; exact ⟨rfl, rfl⟩
  | false =>
    obtain ⟨_, u, hl, h⟩ := Act.of_bind h
    have hu : TiersOnly s u := (tiersAct_copyVectors ..).only _ _ _ hl
    rw [Act.of_modify h, ← hu.seqs, ← hu.coils]
    exact ⟨rfl, rfl⟩

/-- A slice of the coil at a copied to the coil at b, the parent's entries as they stood in s0. -/
def sliceStep (s0 : State) (a b : Nat) (idle : Bool) (j : Nat) (s t : State) : Prop :=
  ∃ y, lookup s0.coils (a + j) = some y ∧ t.seqs = s.seqs ∧ t.coils = insertAt s.coils (b + j) (y.copied j idle)

theorem rounds_of_copyCoil {a b : Nat} {s t : State} {y : Unit} (h : (copyCoil a b).run s = .ok (y, t)) :
    ∃ x, lookup s.coils a = some x ∧ Rounds (sliceStep s a b (x.status == .idle)) (List.range (2 ^ x.widthLog2)) s t := by
  have h := Act.of_get_bind h
  split at h
  · exact (Act.of_fail h).elim
  rename_i x hx
  obtain ⟨_, hl, _⟩ := Act.of_bind_pure h
  refine ⟨x, hx, Act.rounds_of_forIn (fun j u z v hj => ?_) hl⟩
  split at hj
  · obtain ⟨_, hf, _⟩ := Act.of_bind_pure hj
    exact (Act.of_fail hf).elim
  rename_i y hy
  have hj := Act.of_get_bind hj
  split at hj
  · obtain ⟨_, hf, _⟩ := Act.of_lift_bind hj
    exact nomatch hf
  obtain ⟨_, hc, rfl⟩ := Act.of_bind_pure hj
  exact ⟨rfl, y, hy, of_copyCoilSlice hc⟩

/-- A coil copied: the child's first entry is its parent's, and entries outside the child's are as they were. -/
theorem of_copyCoil {a b : Nat} {s t : State} {y : Unit} (h : (copyCoil a b).run s = .ok (y, t)) :
    ∃ x, lookup s.coils a = some x ∧ t.seqs = s.seqs ∧ lookup t.coils b = some (x.copied 0 (x.status == .idle))
      ∧ ∀ i, (∀ j < 2 ^ x.widthLog2, i ≠ b + j) → lookup t.coils i = lookup s.coils i := by
  obtain ⟨x, hx, hr⟩ := rounds_of_copyCoil h
  refine ⟨x, hx, ?seqs, ?first, fun i hi => ?other⟩
  case seqs => exact hr.keeps (P := fun t => t.seqs = s.seqs) rfl fun _ _ _ _ ⟨_, _, hs, _⟩ e => hs.trans e
  case other =>
    refine hr.keeps (P := fun t => lookup t.coils i = lookup s.coils i) rfl fun j hj _ _ ⟨_, _, _, hc⟩ e => ?_
    rw [hc, lookup_insertAt_ne _ _ (hi j (List.mem_range.1 hj)), e]
  case first =>
    have hq := hr.brings (I := fun _ => True) (R := (· ≠ ·))
      (Q := fun j t => ∀ y, lookup s.coils (a + j) = some y → lookup t.coils (b + j) = some (y.copied j (x.status == .idle)))
      List.nodup_range trivial
      (fun j _ _ _ ⟨y, hy, _, hc⟩ _ => ⟨trivial, fun y' hy' => by
        obtain rfl := Option.some.inj (hy.symm.trans hy')
        rw [hc, lookup_insertAt_self]⟩)
      (fun j _ j' _ hne _ _ ⟨_, _, _, hc⟩ _ hq y hy => by rw [hc, lookup_insertAt_ne _ _ (by omega), hq y hy])
    exact hq 0 (List.mem_range.2 (Nat.two_pow_pos _)) x hx

/-! ## The checks of a list (R204) -/

/-- Two entries of a list name two sequences, and coils of k slices without a common one. -/
def ForkEntry.Apart (k : Nat) (e e' : ForkEntry) : Prop :=
  e.child ≠ e'.child ∧ ∀ c c', e.coil = some c → e'.coil = some c' → ∀ i < k, ∀ j < k, c + i ≠ c' + j

theorem of_coilsFree {s : State} {c k : Nat} (h : s.coilsFree c k = true) : ∀ j < k, lookup s.coils (c + j) = none := by
  simp only [State.coilsFree, Bool.and_eq_true, List.all_eq_true, List.mem_range, Bool.not_eq_true', hasKey, Option.isSome_eq_false_iff,
    Option.isNone_iff_eq_none] at h
  exact h.2

theorem mem_takenCoils {e : ForkEntry} {c k j : Nat} (hc : e.coil = some c) (hj : j < k) : c + j ∈ takenCoils [e] k := by
  simp [takenCoils, hc, hj, Nat.add_comm]

theorem apart_of_nodup {es : List ForkEntry} {k : Nat} (hs : (es.map (·.child)).Nodup) (hc : (takenCoils es k).Nodup) :
    es.Pairwise (ForkEntry.Apart k) := by
  have hc' : es.Pairwise (fun e e' => List.Disjoint (takenCoils [e] k) (takenCoils [e'] k)) := by
    have := (List.nodup_flatMap.1 hc).2
    refine this.imp fun {e e'} h => ?_
    simpa [takenCoils, Function.onFun] using h
  refine ((List.pairwise_map.1 hs).and hc').imp fun {e e'} ⟨hne, hd⟩ => ⟨hne, fun c c' h h' i hi j hj he => ?_⟩
  exact hd (mem_takenCoils h hi) (he ▸ mem_takenCoils h' hj)

/-- A list that passes names children that are not there, coils that are free, and nothing twice. -/
theorem of_forkChecks_bind {β : Type} {es : List ForkEntry} {pc : Option Bool} {k : Nat} {f : Unit → Act β} {s t : State} {y : β}
    (h : (forkChecks es pc k >>= f).run s = .ok (y, t)) :
    (∀ e ∈ es, lookup s.seqs e.child = none) ∧ (∀ e ∈ es, ∀ c, e.coil = some c → ∀ j < k, lookup s.coils (c + j) = none)
      ∧ es.Pairwise (ForkEntry.Apart k) ∧ (f ()).run s = .ok (y, t) := by
  obtain ⟨_, u, hc, hf⟩ := Act.of_bind h
  obtain ⟨h1, hc⟩ := Act.of_need_bind (Act.of_get_bind hc)
  obtain ⟨h2, rfl⟩ := Act.of_need hc
  simp only [Bool.and_eq_true, List.all_eq_true, dupFree_iff, Bool.not_eq_true', hasKey, Option.isSome_eq_false_iff,
    Option.isNone_iff_eq_none] at h1 h2
  refine ⟨h1.1, fun e he c hc => ?_, apart_of_nodup h1.2 h2.2, hf⟩
  have := (h2.1 e he).2
  rw [hc] at this
  exact of_coilsFree this

/-! ## Children (R14, R204) -/

/-- A child's descriptor: its parent's, with its own coil. -/
def Seq.childOf (p : Seq) (parent : Nat) (e : ForkEntry) : Seq := { p with inFlight := false, parent := some parent, coil := e.coil }

/-- The slices of a sequence's coil. -/
def State.slicesOf (s : State) (p : Seq) : Nat :=
  match p.coil with
  | some c => (match lookup s.coils c with
    | some x => 2 ^ x.widthLog2
    | none => 1)
  | none => 1

/-- One child made. -/
def childStep (p : Seq) (parent : Nat) (e : ForkEntry) (s t : State) : Prop :=
  t.seqs = insertAt s.seqs e.child (p.childOf parent e)
  ∧ ((∃ a b x, p.coil = some a ∧ e.coil = some b ∧ lookup s.coils a = some x ∧ lookup t.coils b = some (x.copied 0 (x.status == .idle))
        ∧ ∀ i, (∀ j < 2 ^ x.widthLog2, i ≠ b + j) → lookup t.coils i = lookup s.coils i)
    ∨ ((p.coil = none ∨ e.coil = none) ∧ t.coils = s.coils))

/-- What a FORK leaves of one child, its parent's coil as it stood in s0. -/
def childMade (s0 : State) (p : Seq) (parent : Nat) (e : ForkEntry) (t : State) : Prop :=
  lookup t.seqs e.child = some (p.childOf parent e)
  ∧ ∀ a b x, p.coil = some a → e.coil = some b → lookup s0.coils a = some x → lookup t.coils b = some (x.copied 0 (x.status == .idle))

/-- The parent's coil entry as it stood in s0. -/
def coilKept (s0 : State) (p : Seq) (s : State) : Prop := ∀ a, p.coil = some a → lookup s.coils a = lookup s0.coils a

section
variable {s0 : State} {p : Seq} {parent : Nat} {e : ForkEntry} {s t : State}

theorem slicesOf_eq {a : Nat} {x : Coil} (ha : p.coil = some a) (hx : lookup s0.coils a = some x) : s0.slicesOf p = 2 ^ x.widthLog2 := by
  simp [State.slicesOf, ha, hx]

theorem childStep_makes (hst : childStep p parent e s t) (hk : coilKept s0 p s)
    (hfree : ∀ c, e.coil = some c → ∀ j < s0.slicesOf p, lookup s0.coils (c + j) = none) :
    coilKept s0 p t ∧ childMade s0 p parent e t := by
  obtain ⟨hseq, hcoil⟩ := hst
  have hs : lookup t.seqs e.child = some (p.childOf parent e) := by rw [hseq, lookup_insertAt_self]
  rcases hcoil with ⟨a, b, x, ha, hb, hx, hbx, hother⟩ | ⟨hnone, hsame⟩
  · have hx0 : lookup s0.coils a = some x := (hk a ha).symm.trans hx
    refine ⟨fun a' ha' => ?_, hs, fun a' b' x' ha' hb' hx' => ?_⟩
    · obtain rfl := Option.some.inj (ha.symm.trans ha')
      rw [hother a (fun j hj he => ?_), hk a ha]
      have := hfree b hb j (slicesOf_eq ha hx0 ▸ hj)
      rw [← he, hx0] at this
      exact nomatch this
    · obtain rfl := Option.some.inj (ha.symm.trans ha')
      obtain rfl := Option.some.inj (hb.symm.trans hb')
      obtain rfl := Option.some.inj (hx0.symm.trans hx')
      exact hbx
  · refine ⟨fun a ha => by rw [hsame, hk a ha], hs, fun a b x ha hb => ?_⟩
    rcases hnone with h | h
    · exact nomatch h.symm.trans ha
    · exact nomatch h.symm.trans hb

theorem childStep_keeps {e' : ForkEntry} (hst : childStep p parent e' s t) (hk : coilKept s0 p s) (hap : e.Apart (s0.slicesOf p) e')
    (hm : childMade s0 p parent e s) : childMade s0 p parent e t := by
  obtain ⟨hseq, hcoil⟩ := hst
  refine ⟨by rw [hseq, lookup_insertAt_ne _ _ hap.1, hm.1], fun a b x ha hb hx => ?_⟩
  rcases hcoil with ⟨a', b', x', ha', hb', hx', _, hother⟩ | ⟨_, hsame⟩
  · obtain rfl := Option.some.inj (ha.symm.trans ha')
    obtain rfl := Option.some.inj (((hk a ha).symm.trans hx').symm.trans hx)
    rw [hother b (fun j hj => ?_), hm.2 a b x' ha hb hx]
    have hsl := slicesOf_eq ha hx
    exact hap.2 b b' hb hb' 0 (hsl ▸ Nat.two_pow_pos _) j (hsl ▸ hj)
  · rw [hsame, hm.2 a b x ha hb hx]

end

/-- Children that a FORK makes. -/
theorem of_forkChildren {ctx parent : Nat} {es : List ForkEntry} {s t : State} {y : Unit}
    (h : (forkChildren ctx parent es).run s = .ok (y, t)) :
    ∃ p, lookup s.seqs parent = some p ∧ ∀ e ∈ es, lookup s.seqs e.child = none ∧ childMade s p parent e t := by
  obtain ⟨p, hp, h⟩ := of_liveSeq_bind h
  obtain ⟨hnew, hfree, hap, h⟩ := of_forkChecks_bind (k := s.slicesOf p) (Act.of_get_bind h)
  obtain ⟨pool, s2, h2, h⟩ := Act.of_bind h
  obtain ⟨b, s3, h3, h⟩ := Act.of_bind h
  obtain ⟨_, h⟩ := Act.of_need_bind h
  obtain ⟨_, s4, h4, h⟩ := Act.of_bind h
  obtain ⟨_, h5, _⟩ := Act.of_bind_pure h
  have hmem : TiersOnly s s4 := (((tiersAct_poolAt ..).only _ _ _ h2).trans ((Pool.tiersAct_readBlock ..).only _ _ _ h3)).trans
    ((Pool.tiersAct_writeBlock ..).only _ _ _ h4)
  have hr : Rounds (childStep p parent) es s4 t := Act.rounds_of_forIn (fun e u z v he => ?round) h5
  case round =>
    split at he
    · rename_i a b ha hb
      obtain ⟨_, w, hcc, he⟩ := Act.of_bind he
      obtain ⟨x, hx, hs, hbx, hother⟩ := of_copyCoil hcc
      obtain ⟨rfl, rfl⟩ := Act.of_modify_pure he
      exact ⟨rfl, by rw [← hs]; rfl, .inl ⟨a, b, x, ha, hb, hx, hbx, hother⟩⟩
    · rename_i hn
      obtain ⟨rfl, rfl⟩ := Act.of_modify_pure he
      refine ⟨rfl, rfl, .inr ⟨?_, rfl⟩⟩
      cases ha : p.coil with
      | none => exact .inl rfl
      | some a => cases hb : e.coil with
        | none => exact .inr rfl
        | some b => exact (hn a b ha hb).elim
  have hk : coilKept s p s4 := fun a _ => by rw [hmem.coils]
  have hmade := hr.brings hap hk (fun e he _ _ hst hk => childStep_makes hst hk (hfree e he))
    fun e _ e' _ hap _ _ hst hk hm => childStep_keeps hst hk hap hm
  exact ⟨p, hp, fun e he => ⟨hnew e he, hmade e he⟩⟩

/-! ## Roots (R203, R239) -/

/-- One root made: its descriptor with some root block, its coil IDLE. -/
def rootStep (ctx : Nat) (cm : Cmd) (pool : Pool) (e : ForkEntry) (s t : State) : Prop :=
  (∃ root, t.seqs = insertAt s.seqs e.child (rootSeq ctx (cm.at 0x30 2) pool root e.coil cm))
  ∧ t.coils = (e.coil.map (fun c => insertAt s.coils c (rootCoil ctx))).getD s.coils

/-- What a FORK leaves of one root. -/
def rootMade (ctx : Nat) (cm : Cmd) (pool : Pool) (e : ForkEntry) (t : State) : Prop :=
  (∃ root, lookup t.seqs e.child = some (rootSeq ctx (cm.at 0x30 2) pool root e.coil cm))
  ∧ ∀ c, e.coil = some c → lookup t.coils c = some (rootCoil ctx)

theorem rootStep_makes {ctx : Nat} {cm : Cmd} {pool : Pool} {e : ForkEntry} {s t : State} (hst : rootStep ctx cm pool e s t) :
    rootMade ctx cm pool e t := by
  obtain ⟨⟨root, hs⟩, hc⟩ := hst
  refine ⟨⟨root, by rw [hs, lookup_insertAt_self]⟩, fun c he => ?_⟩
  rw [hc, he]
  exact lookup_insertAt_self ..

theorem rootStep_keeps {ctx : Nat} {cm : Cmd} {pool : Pool} {e e' : ForkEntry} {s t : State} (hst : rootStep ctx cm pool e' s t)
    (hap : e.Apart 1 e') (hm : rootMade ctx cm pool e s) : rootMade ctx cm pool e t := by
  obtain ⟨⟨_, hs⟩, hc⟩ := hst
  obtain ⟨⟨root, hr⟩, hm⟩ := hm
  refine ⟨⟨root, by rw [hs, lookup_insertAt_ne _ _ hap.1, hr]⟩, fun c he => ?_⟩
  rw [hc]
  cases he' : e'.coil with
  | none => exact hm c he
  | some c' =>
    have : c + 0 ≠ c' + 0 := hap.2 c c' he he' 0 (by decide) 0 (by decide)
    rw [Option.map_some, Option.getD_some, lookup_insertAt_ne _ _ (by omega), hm c he]

/-- Roots that a FORK makes. -/
theorem of_forkRoots {ctx : Nat} {cm : Cmd} {es : List ForkEntry} {s t : State} {y : Unit} (h : (forkRoots ctx cm es).run s = .ok (y, t)) :
    ∃ pool, ∀ e ∈ es, lookup s.seqs e.child = none ∧ rootMade ctx cm pool e t := by
  obtain ⟨pool, s1, h1, h⟩ := Act.of_bind h
  obtain ⟨hnew, _, hap, h⟩ := of_forkChecks_bind h
  obtain ⟨_, s2, _, h⟩ := Act.of_bind h
  obtain ⟨_, h⟩ := Act.of_need_bind h
  obtain ⟨_, hl, _⟩ := Act.of_bind_pure h
  have hr : Rounds (rootStep ctx cm pool) es s2 t := Act.rounds_of_forIn (fun e u z v he => ?round) hl
  case round =>
    obtain ⟨j, u1, hj, he⟩ := Act.of_bind he
    obtain ⟨_, u2, hw, he⟩ := Act.of_bind he
    obtain ⟨rfl, rfl⟩ := Act.of_modify_pure he
    have hmem : TiersOnly u u2 := ((Pool.tiersAct_popBlock ..).only _ _ _ hj).trans ((Pool.tiersAct_writeBlock ..).only _ _ _ hw)
    rw [rootStep, ← hmem.seqs, ← hmem.coils]
    refine ⟨rfl, ?_⟩
    cases e.coil with
    | none => exact ⟨⟨_, rfl⟩, rfl⟩
    | some c => exact ⟨⟨_, rfl⟩, rfl⟩
  have hmade := hr.brings (I := fun _ => True) hap trivial (fun e _ _ _ hst _ => ⟨trivial, rootStep_makes hst⟩)
    fun e _ e' _ hap _ _ hst _ hm => rootStep_keeps hst hap hm
  have hseqs : s1.seqs = s.seqs := ((tiersAct_openPool ..).only _ _ _ h1).seqs
  exact ⟨pool, fun e he => ⟨hseqs ▸ hnew e he, hmade e he⟩⟩

end Sys2Proof.Machine
end

section
/-! PROOF. The rows of FORK and CULL, and the deferred releases (01, R9, R14, R15; 11, R203 to R205). -/

namespace Sys2Proof.Machine

/-! ## FORK's act and row -/

theorem tiersAct_forkList (ctx va count : Nat) : TiersAct (forkList ctx va count) :=
  .bind (tiersAct_getVirt ..) fun _ => .bind (.need ..) fun _ => .pure _

section
variable {ctx : Nat} {cm : Cmd} {s s1 s2 : State} {es : List ForkEntry} {y : Unit} (h : (forkAct ctx cm).run s = .ok (y, s1))
  (hl : (forkList ctx (cm.at 0x10 8) (fld (cm.at 0x1C 4) 12 0)).run s = .ok (es, s2))
include h hl

/-- The act goes on with its list, in the state after the list's read. -/
theorem of_forkAct : (if bit (cm.at 0x18 4) 16 then forkChildren ctx (cm.at 0x18 2) es else forkRoots ctx cm es).run s2 = .ok (y, s1) := by
  obtain ⟨es', s2', hl', h⟩ := Act.of_bind h
  obtain ⟨rfl, rfl⟩ := Prod.mk.inj (Except.ok.inj (hl.symm.trans hl'))
  exact h

theorem forkAct_children (hb : bit (cm.at 0x18 4) 16 = true) :
    ∃ p, lookup s.seqs (cm.at 0x18 2) = some p ∧ ∀ e ∈ es, lookup s.seqs e.child = none ∧ childMade s p (cm.at 0x18 2) e s1 := by
  have hr := of_forkAct h hl
  rw [if_pos hb] at hr
  have hm : TiersOnly s s2 := (tiersAct_forkList ..).only _ _ _ hl
  obtain ⟨p, hp, hes⟩ := of_forkChildren hr
  refine ⟨p, hm.seqs ▸ hp, fun e he => ⟨hm.seqs ▸ (hes e he).1, (hes e he).2.1, fun a b x ha hb hx => ?_⟩⟩
  exact (hes e he).2.2 a b x ha hb (hm.coils ▸ hx)

theorem forkAct_roots (hb : bit (cm.at 0x18 4) 16 = false) :
    ∃ pool, ∀ e ∈ es, lookup s.seqs e.child = none ∧ rootMade ctx cm pool e s1 := by
  have hr := of_forkAct h hl
  rw [if_neg (by simp [hb])] at hr
  obtain ⟨pool, hes⟩ := of_forkRoots hr
  have hm : TiersOnly s s2 := (tiersAct_forkList ..).only _ _ _ hl
  exact ⟨pool, fun e he => ⟨hm.seqs ▸ (hes e he).1, (hes e he).2⟩⟩

end

section
variable {s : State} {q n : Nat} {cm : Cmd} (hcmd : s.cmd? q n = some cm) (hp : cm.phase = .granted)
include hcmd hp

theorem exec_fork_of_ok (ht : cm.type = tyFork) {s1 : State} (h : (forkAct (s.queueCtx q) cm).run s = .ok ((), s1)) :
    exec (.fork q n) s = .next (s1.updCmd q n (fun x => { x with phase := .ready })) := by
  show execFork q n s = _
  simp only [execFork, granted?_of_granted hcmd hp ht, h]

theorem exec_fork_of_status (ht : cm.type = tyFork) {st : Nat} {nt : ErrNote}
    (h : (forkAct (s.queueCtx q) cm).run s = .error (.status st nt)) : exec (.fork q n) s = .next ((s.noteErr nt).failCmd q n st) := by
  show execFork q n s = _
  simp only [execFork, granted?_of_granted hcmd hp ht, h, State.cmdErr]

end

/-! ## CULL's row (R15) -/

theorem tiersAct_cullList (ctx va count : Nat) : TiersAct (cullList ctx va count) :=
  .bind (tiersAct_getVirt ..) fun _ => .bind (.need ..) fun _ => .bind .get fun _ => .bind (.need ..) fun _ => .pure _

/-- A CULL's sequences on their way out, its command dispatched with them. -/
def State.cullTaken (s : State) (q n : Nat) (ids : List Nat) : State :=
  (ids.foldl (fun s i => s.updSeq i (fun x => { x with state := .culling })) s).updCmd q n (fun x => { x with
    phase := .dispatched
    culls := ids })

theorem exec_cull_of_ok {s s1 : State} {q n : Nat} {cm : Cmd} {ids : List Nat} (hcmd : s.cmd? q n = some cm) (hp : cm.phase = .granted)
    (ht : cm.type = tyCull) (h : (cullList (s.queueCtx q) (cm.at 0x10 8) (fld (cm.at 0x18 4) 12 0)).run s = .ok (ids, s1)) :
    exec (.cull q n) s = .next (s1.cullTaken q n ids).runCulls := by
  show execCull q n s = _
  simp only [execCull, granted?_of_granted hcmd hp ht, h]
  rfl

section
variable (s : State) (q n : Nat) (ids : List Nat)

theorem cullTaken_frame : s.cullTaken q n ids = { s with cmds := (s.cullTaken q n ids).cmds, seqs := (s.cullTaken q n ids).seqs } := by
  rw [State.cullTaken, foldl_updSeq_frame]
  rfl

theorem cullTaken_cmd? : (s.cullTaken q n ids).cmd? q n = (s.cmd? q n).map (fun x => { x with phase := .dispatched, culls := ids }) := by
  refine (cmd?_updCmd_self _ q n (f := fun x => { x with phase := .dispatched, culls := ids }) fun _ => ⟨rfl, rfl⟩).trans ?_
  rw [foldl_updSeq_frame]
  rfl

theorem lookup_cullTaken (id : Nat) : lookup (s.cullTaken q n ids).seqs id
    = if id ∈ ids then (lookup s.seqs id).map (fun x => { x with state := .culling }) else lookup s.seqs id :=
  lookup_foldl_updSeq (f := fun x => { x with state := .culling }) (fun _ => rfl) ids s id

theorem sortedKeys_cullTaken (h : sortedKeys s.seqs = true) : sortedKeys (s.cullTaken q n ids).seqs = true :=
  foldl_within (R := fun s t => sortedKeys s.seqs = true → sortedKeys t.seqs = true) (fun _ h => h) (fun a b h => b (a h))
    (fun _ i h => sortedKeys_modifyAt i _ h) ids s h

end

/-! ## Releases (R205) -/

theorem eraseCoil_seqs (s : State) (i : Nat) : (s.eraseCoil i).seqs = s.seqs := by
  have hfold {f : State → Nat → State} (hf : ∀ s j, (f s j).seqs = s.seqs) (l : List Nat) (s : State) : (l.foldl f s).seqs = s.seqs :=
    foldl_within (R := fun s t => t.seqs = s.seqs) (fun _ => rfl) (fun a b => b.trans a) hf l s
  unfold State.eraseCoil
  split
  · rfl
  · dsimp only
    rw [hfold fun _ _ => by rfl, hfold fun _ _ => by rfl]

/-- A culled sequence's descriptor and coil made FREE, the descriptor's blocks no longer bad (R205, R240). -/
def State.eraseSeq (s : State) (id : Nat) (x : Seq) : State :=
  let b := (s.tblSeq + 64 * id) / 32
  let s := { s with
    seqs := eraseAt s.seqs id
    stacked := { s.stacked with bad := eraseAt (eraseAt s.stacked.bad b) (b + 1) } }
  match x.coil with
  | some c => s.eraseCoil c
  | none => s

theorem eraseSeq_seqs (s : State) (id : Nat) (x : Seq) : (s.eraseSeq id x).seqs = eraseAt s.seqs id := by
  unfold State.eraseSeq
  cases x.coil with
  | none => rfl
  | some c => exact eraseCoil_seqs _ c

/-- A release that answers takes the sequence out of the table, and no other. -/
theorem of_releaseSeq {id : Nat} {s t : State} {y : Unit} (h : (releaseSeq id).run s = .ok (y, t)) :
    (lookup s.seqs id = none ∧ t = s) ∨ t.seqs = eraseAt s.seqs id := by
  have h := Act.of_get_bind h
  split at h
  · exact .inl ⟨‹_›, (Act.of_pure h).2⟩
  rename_i x hx
  have herase {u : State} (hu : u.seqs = s.seqs) (h : (modify (fun s => s.eraseSeq id x) : Act PUnit).run u = .ok (y, t)) :
      t.seqs = eraseAt s.seqs id := by rw [Act.of_modify h, eraseSeq_seqs, hu]
  refine .inr ?_
  cases hbad : s.seqBad id x with
  | true => rw [hbad] at h; exact herase rfl h
  | false =>
    rw [hbad] at h
    obtain ⟨pool, s1, h1, h⟩ := Act.of_bind h
    obtain ⟨_, s2, h2, h⟩ := Act.of_bind h
    have hm : TiersOnly s s2 := ((tiersAct_poolAt ..).only _ _ _ h1).trans ((pool.tiersAct_releaseBlock ..).only _ _ _ h2)
    exact herase hm.seqs h

theorem cullStep_of_not {s : State} {id : Nat} (h : s.canRelease id = false) (q n : Nat) : s.cullStep q n id = s := by
  simp [State.cullStep, h]

theorem cullStep_of_ok {s s1 : State} {id : Nat} (h : s.canRelease id = true) (hr : (releaseSeq id).run s = .ok ((), s1)) (q n : Nat) :
    s.cullStep q n id = s1.updCmd q n (fun cm => { cm with culls := cm.culls.filter (· != id) }) := by
  simp [State.cullStep, h, hr]

/-- A release takes sequences away; it changes and brings none. -/
theorem cullStep_seqs (s : State) (q n id : Nat) : (s.cullStep q n id).seqs.Sublist s.seqs := by
  unfold State.cullStep
  split
  · exact .refl _
  split
  · rename_i t h
    rw [State.updCmd_seqs]
    rcases of_releaseSeq h with ⟨_, rfl⟩ | h
    · exact .refl _
    · exact h ▸ eraseAt_sublist _ _
  · rw [State.updCmd_seqs, TiersOnly.seqs (noteErr_notes _ _).tiers]
  · exact .refl _

theorem runCulls_seqs (s : State) : s.runCulls.seqs.Sublist s.seqs := by
  have hfold {β : Type} {f : State → β → State} (hf : ∀ s b, (f s b).seqs.Sublist s.seqs) (l : List β) (s : State) :
      (l.foldl f s).seqs.Sublist s.seqs :=
    foldl_within (R := fun s t => t.seqs.Sublist s.seqs) (fun _ => .refl _) (fun a b => b.trans a) hf l s
  refine hfold (fun s cm => ?_) _ s
  split
  · exact hfold (fun s id => cullStep_seqs s cm.q cm.n id) _ s
  · exact .refl _

/-- With rising keys, what a table with entries taken out looks up stood there before. -/
theorem lookup_of_sublist {α : Type} {l r : List (Nat × α)} (h : l.Sublist r) (hr : sortedKeys r = true) {i : Nat} {v : α}
    (hl : lookup l i = some v) : lookup r i = some v := lookup_of_mem hr (h.subset (lookup_mem hl))

theorem canRelease_of_held {s : State} {id : Nat} {x : Seq} (hx : lookup s.seqs id = some x)
    (h : x.state ≠ .culling ∨ x.inFlight = true ∨ s.gathering id = true
      ∨ ∃ c y, x.coil = some c ∧ lookup s.coils c = some y ∧ y.holder ≠ none) : s.canRelease id = false := by
  simp only [State.canRelease, hx]
  rcases h with h | h | h | ⟨c, y, hc, hy, hh⟩
  · simp [h]
  · simp [h]
  · simp [h]
  · have hh : y.holder.isSome = true := Option.isSome_iff_ne_none.2 hh
    simp [hc, hy, hh]

theorem canRelease_of_free {s : State} {id : Nat} {x : Seq} (hx : lookup s.seqs id = some x) (hs : x.state = .culling)
    (hf : x.inFlight = false) (hg : s.gathering id = false) (hc : x.coil = none) : s.canRelease id = true := by
  simp [State.canRelease, hx, hs, hf, hg, hc]

/-- Settles O31: FORK by what its act makes of each entry, CULL by what it marks and what releases take away. -/
theorem forkMakesAndCullEndsSequences : Obligations.ForkMakesAndCullEndsSequences := by
  unfold Obligations.ForkMakesAndCullEndsSequences
  refine ⟨fun s q n cm hcmd hp ht => ⟨fun s1 h => ⟨exec_fork_of_ok hcmd hp ht h, fun es s2 hl e he => ?fork⟩,
      fun st nt h => exec_fork_of_status hcmd hp ht h⟩,
    fun s s1 q n cm ids hsort hcmd hp ht h => ?cull, fun s q n id x hsort hx => ⟨fun hheld => ?held, fun hs hf hg hc s1 h => ?release⟩⟩
  case fork =>
    cases hb : bit (cm.at 0x18 4) 16 with
    | true =>
      obtain ⟨p, hpar, hes⟩ := forkAct_children h hl hb
      obtain ⟨hnew, hseq, hcoil⟩ := hes e he
      refine ⟨hnew, fun p' _ hp' => ?_, (nomatch ·)⟩
      obtain rfl := Option.some.inj (hpar.symm.trans hp')
      refine ⟨hseq, fun a b x ha hb hx => (hcoil a b x ha hb hx).trans ?_⟩
      simp [Coil.copied]
    | false =>
      obtain ⟨pool, hes⟩ := forkAct_roots h hl hb
      obtain ⟨hnew, ⟨root, hseq⟩, hcoil⟩ := hes e he
      exact ⟨hnew, fun _ => (nomatch ·), fun _ => ⟨⟨_, hseq, rfl, rfl, rfl, rfl, rfl, rfl, rfl, rfl, rfl, rfl, rfl⟩, hcoil⟩⟩
  case cull =>
    have hm : TiersOnly s s1 := (tiersAct_cullList ..).only _ _ _ h
    have hlook := lookup_cullTaken s1 q n ids
    refine ⟨s1.cullTaken q n ids, exec_cull_of_ok hcmd hp ht h, cullTaken_frame .., ?_, fun id => hm.seqs ▸ hlook id, fun id hid x hx => ?_⟩
    · rw [cullTaken_cmd?, hm.cmd?, hcmd]
      rfl
    · have hx := lookup_of_sublist (runCulls_seqs _) (sortedKeys_cullTaken s1 q n ids (hm.seqs ▸ hsort)) hx
      rw [hlook, if_pos hid] at hx
      obtain ⟨_, _, rfl⟩ := Option.map_eq_some_iff.1 hx
      rfl
  case held => exact cullStep_of_not (canRelease_of_held hx hheld) q n
  case release =>
    rw [cullStep_of_ok (canRelease_of_free hx hs hf hg hc) h, State.updCmd_seqs]
    rcases of_releaseSeq h with ⟨hnone, _⟩ | herase
    · exact nomatch hnone.symm.trans hx
    · rw [herase, lookup_eraseAt_self id hsort]

end Sys2Proof.Machine
end

section
/-! PROOF. The slot table after reset (02, R27). -/

namespace Sys2Proof.Machine

theorem reset_active (n : Nat) (h : n < 256) : State.reset.slots.active[n] = defaultClass n := by simp [State.reset, defaultTable]

theorem reset_shadow (n : Nat) (h : n < 256) : State.reset.slots.shadow[n] = defaultClass n := by simp [State.reset, defaultTable]

/-- Settles O3: both tables list the default class of each time slot. -/
theorem defaultSlotTable : Obligations.DefaultSlotTable := by
  unfold Obligations.DefaultSlotTable
  intro n h
  rw [reset_active, reset_shadow]
  refine ⟨rfl, fun h1 => ?_, fun h2 => ?_, fun h3 => ?_, fun h4 => ?_, fun h5 => ?_, fun n1 n2 n3 n4 => ?_⟩
  · simp [defaultClass, h1]
  · simp [defaultClass, h2, show n % 8 ≠ 7 by omega]
  · simp [defaultClass, h3, show n % 8 ≠ 7 by omega]
  · simp [defaultClass, show n % 8 ≠ 7 by omega, show n % 32 = 19 by omega, show n / 32 % 2 = 0 by omega]
  · simp [defaultClass, show n % 8 ≠ 7 by omega, show n % 32 = 19 by omega, show n / 32 % 2 = 1 by omega]
  · simp [defaultClass, n1, n2, n3, n4]

end Sys2Proof.Machine
end

section
/-! PROOF. Region resets (02, R36; 08, R164; 17, R335, R339; logs 47, 49). -/

namespace Sys2Proof.Machine

/-! ## Parts and cores of a region -/

theorem mem_coresOf {g : RegionId} {c : CoreId} : c ∈ coresOf g ↔ regionOfCore c = g := by
  have hc := c.isLt
  have hg := g.isLt
  simp only [coresOf, List.mem_map, List.mem_range, coreN, regionOfCore, Fin.ext_iff]
  constructor
  · rintro ⟨k, hk, h⟩
    omega
  · intro h
    exact ⟨c.val % 8, by omega, by omega⟩

theorem foldl_resetPart_frame (l : List CoreId) (s : State) :
    l.foldl (fun s c => s.resetPart (.core c)) s = { s with epochs := (l.foldl (fun s c => s.resetPart (.core c)) s).epochs } := by
  induction l generalizing s with
  | nil => rfl
  | cons c l ih => rw [List.foldl_cons, ih]; rfl

theorem part_foldl_resetPart (l : List CoreId) (s : State) (p : Part) :
    ((l.foldl (fun s c => s.resetPart (.core c)) s).part p).state
      = if ∃ c ∈ l, p = .core c then .resetting else (s.part p).state := by
  induction l generalizing s with
  | nil => simp
  | cons c l ih =>
    rw [List.foldl_cons, ih]
    by_cases h : p = .core c
    · subst h; simp [State.resetPart]
    · simp [State.resetPart, part_updPart_other s h, h]

/-! ## Work lost with a core, where no command of it ends and no coil is resident -/

/-- No ROUND, no command that is ending, no coil: what is lost with a core ends no command and moves no coil. -/
def Quiet (s : State) : Prop := plainCmds s ∧ s.coils = []

/-- What a lost slot or core changes: the core itself, its argument maps, its memories, its commands' instances, its requests at the atomic
units. -/
structure CoreLoss (c : CoreId) (s t : State) : Prop where
  frame : t = { s with cores := t.cores, argMaps := t.argMaps, regions := t.regions, coreStore := t.coreStore, accMem := t.accMem,
                       cmds := t.cmds, freshCtr := t.freshCtr }
  cores : ∀ c' : CoreId, c' ≠ c → t.cores[c'] = s.cores[c']
  regions : ∀ g : RegionId, t.regions[g] = { s.regions[g] with atomQ := t.regions[g].atomQ }
  quiet : Quiet s → Quiet t

namespace CoreLoss

variable {c : CoreId} {s t u : State}

theorem refl (c : CoreId) (s : State) : CoreLoss c s s := ⟨rfl, fun _ _ => rfl, fun _ => rfl, id⟩

theorem trans (a : CoreLoss c s t) (b : CoreLoss c t u) : CoreLoss c s u :=
  ⟨by rw [b.frame, a.frame], fun c' h => (b.cores c' h).trans (a.cores c' h), fun g => by rw [b.regions, a.regions],
    fun h => b.quiet (a.quiet h)⟩

theorem updCore (s : State) (c : CoreId) (f : Core → Core) : CoreLoss c s (s.updCore c f) := by
  refine ⟨rfl, fun c' h => ?_, fun _ => rfl, id⟩
  have : c.val ≠ c'.val := fun e => h (Fin.ext e.symm)
  simp [this]

theorem clearCore (s : State) (c : CoreId) : CoreLoss c s (s.clearCore c) := ⟨rfl, fun _ _ => rfl, fun _ => rfl, id⟩

theorem countPart (s : State) (c : CoreId) (p : InFlight → Bool) : CoreLoss c s (s.countPart c p) := by
  unfold State.countPart
  split
  · split
    · exact (updCore s c _).trans ⟨rfl, fun _ _ => rfl, fun _ => rfl, id⟩
    · exact refl c s
  · exact refl c s

theorem dropRequests (c : CoreId) (s : State) (p : AtomReq → Bool) : CoreLoss c s (s.dropRequests p) :=
  ⟨rfl, fun _ _ => rfl, fun g => by simp [State.dropRequests], id⟩

theorem dropSlot (s : State) (c : CoreId) (k : KsId) : CoreLoss c s (s.dropSlot c k) :=
  ((((dropRequests c s _).trans (countPart _ c _)).trans (updCore _ c _)).trans (updCore _ c _)).trans
    ((updCore _ c _).trans ⟨rfl, fun _ _ => rfl, fun _ => rfl, id⟩)

/-- Instances of a command changed: the command stays as plain as it was. -/
theorem updCmd (c : CoreId) (s : State) (q n : Nat) {f : Cmd → Cmd}
    (hf : ∀ x, (f x).type = x.type ∧ (f x).trap = x.trap ∧ (f x).ending = x.ending) : CoreLoss c s (s.updCmd q n f) := by
  refine ⟨rfl, fun _ _ => rfl, fun _ => rfl, fun h => ⟨fun cm hcm => ?_, h.2⟩⟩
  obtain ⟨x, hx, rfl⟩ := List.mem_map.1 hcm
  have hx := h.1 x hx
  split
  · obtain ⟨ht, hr, he⟩ := hf x
    rwa [ht, hr, he]
  · exact hx

end CoreLoss

/-- A command that neither trapped nor is ending does not end when the last of its kernel slots leaves. -/
theorem trapEnd_of_plain {s : State} (h : plainCmds s) (q n : Nat) : s.trapEnd q n = s := by
  unfold State.trapEnd
  cases hc : s.cmd? q n with
  | none => rfl
  | some cm =>
    obtain ⟨_, ht, he⟩ := h cm (List.mem_of_find?_eq_some hc)
    simp [ht, he]

theorem loseCoils_of_none {s : State} (h : s.coils = []) (c : CoreId) : s.loseCoils c = s := by simp [State.loseCoils, h]

theorem replayRounds_of_plain {s : State} (h : plainCmds s) : s.replayRounds = s := by
  have : s.cmds.filter (fun cm => cm.type == tyRound && cm.phase == .dispatched && !cm.held) = [] := by
    simp only [List.filter_eq_nil_iff]
    intro cm hcm
    simp [(h cm hcm).1]
  simp [State.replayRounds, this]

theorem loseSlot_loss {s : State} (h : Quiet s) (c : CoreId) (k : KsId) : CoreLoss c s (s.loseSlot c k) := by
  unfold State.loseSlot
  split
  · exact .dropSlot s c k
  · have hd := CoreLoss.dropSlot s c k
    dsimp only
    rw [trapEnd_of_plain]
    · refine hd.trans (.updCmd c _ _ _ fun x => ?_)
      dsimp only
      split <;> exact ⟨rfl, rfl, rfl⟩
    · refine ((CoreLoss.updCmd c _ _ _ fun x => ?_).quiet (hd.quiet h)).1
      dsimp only
      split <;> exact ⟨rfl, rfl, rfl⟩

theorem loseCore_loss {s : State} (h : Quiet s) (c : CoreId) : CoreLoss c s (s.loseCore c) := by
  have hslots : CoreLoss c s ((List.finRange 4).foldl (fun s k => s.loseSlot c k) s) := by
    refine foldl_within (R := fun s t => Quiet s → CoreLoss c s t) (fun s _ => .refl c s)
      (fun a b hs => (a hs).trans (b ((a hs).quiet hs))) (fun s k hs => loseSlot_loss hs c k) _ s h
  unfold State.loseCore
  dsimp only
  rw [loseCoils_of_none (hslots.quiet h).2]
  exact (hslots.trans (.clearCore _ c)).trans (.updCore _ c _)

/-! ## A region cleared -/

/-- The cores of a list lost and restarted in turn. -/
structure CoresLost (l : List CoreId) (s t : State) : Prop where
  frame : t = { s with cores := t.cores, argMaps := t.argMaps, regions := t.regions, coreStore := t.coreStore, accMem := t.accMem,
                       cmds := t.cmds, freshCtr := t.freshCtr }
  free : ∀ c ∈ l, ∀ k, (t.slot c k).state = .free
  others : ∀ c : CoreId, c ∉ l → t.cores[c] = s.cores[c]
  regions : ∀ g : RegionId, t.regions[g] = { s.regions[g] with atomQ := t.regions[g].atomQ }
  quiet : Quiet t

theorem foldl_loseCore (l : List CoreId) {s : State} (h : Quiet s) :
    CoresLost l s (l.foldl (fun s c => (s.loseCore c).updCore c Core.restart) s) := by
  induction l generalizing s with
  | nil => exact ⟨rfl, by simp, fun _ _ => rfl, fun _ => rfl, h⟩
  | cons c l ih =>
    have hc : CoreLoss c s ((s.loseCore c).updCore c Core.restart) := (loseCore_loss h c).trans (.updCore _ c _)
    have hl := ih (hc.quiet h)
    rw [List.foldl_cons]
    refine ⟨by rw [hl.frame, hc.frame], fun c' hm k => ?_, fun c' hm => ?_, fun g => by rw [hl.regions, hc.regions], hl.quiet⟩
    · by_cases hin : c' ∈ l
      · exact hl.free c' hin k
      · obtain rfl := (List.mem_cons.1 hm).resolve_right hin
        have hslot : ((l.foldl (fun s c => (s.loseCore c).updCore c Core.restart) ((s.loseCore c').updCore c' Core.restart)).slot c' k)
            = (Core.restart (s.loseCore c').cores[c']).slots[k] := by
          simp only [State.slot, hl.others c' hin]
          simp
        rw [hslot]
        simp [Core.restart, Core.reset, KSlot.idle]
    · obtain ⟨hne, hin⟩ := not_or.1 (mt List.mem_cons.2 hm)
      rw [hl.others c' hin, hc.cores c' hne]

/-- What clearing a region leaves: its cores FREE, its memory unwritten, its registers restarted. -/
structure RegionCleared (g : RegionId) (s t : State) : Prop where
  frame : t = { s with cores := t.cores, argMaps := t.argMaps, regions := t.regions, coreStore := t.coreStore, accMem := t.accMem,
                       regionMem := t.regionMem, cmds := t.cmds, freshCtr := t.freshCtr }
  free : ∀ c : CoreId, regionOfCore c = g → ∀ k, (t.slot c k).state = .free
  others : ∀ c : CoreId, regionOfCore c ≠ g → t.cores[c] = s.cores[c]
  region : ∃ q, t.regions[g] = Region.restart { s.regions[g] with atomQ := q }
  regions : ∀ g' : RegionId, g' ≠ g → ∃ q, t.regions[g'] = { s.regions[g'] with atomQ := q }
  regionMem : t.regionMem = s.regionMem.mark (g.val * regionBytes) regionBytes
  quiet : Quiet t

theorem clearRegion_cleared {s : State} (h : Quiet s) (g : RegionId) : RegionCleared g s (s.clearRegion g) := by
  have hl := foldl_loseCore (coresOf g) h
  unfold State.clearRegion
  generalize (coresOf g).foldl (fun s c => (s.loseCore c).updCore c Core.restart) s = u at hl
  refine ⟨by rw [hl.frame]; rfl, fun c hc => hl.free c (mem_coresOf.2 hc), fun c hc => hl.others c (mt mem_coresOf.1 hc),
    ⟨u.regions[g].atomQ, ?_⟩, fun g' hg => ⟨u.regions[g'].atomQ, ?_⟩, ?_, hl.quiet⟩
  · rw [← hl.regions]
    simp
  · have : g.val ≠ g'.val := fun e => hg (Fin.ext e.symm)
    rw [← hl.regions]
    simp [this]
  · rw [hl.frame]
    rfl

/-! ## A region reset begun -/

/-- What the begin of a region's reset leaves, with the cause that it logs. -/
structure ResetBegun (g : RegionId) (cause : Nat) (s t : State) : Prop where
  away : (t.part (.region g)).state = .resetting
  cores : ∀ c : CoreId, regionOfCore c = g → (t.part (.core c)).state = .resetting ∧ ∀ k, (t.slot c k).state = .free
  others : ∀ c : CoreId, regionOfCore c ≠ g → t.cores[c] = s.cores[c]
  regionMem : t.regionMem = s.regionMem.mark (g.val * regionBytes) regionBytes
  stacked : t.stacked = s.stacked
  hostMem : t.hostMem = s.hostMem
  region : ∃ q, t.regions[g] = Region.restart { s.regions[g] with atomQ := q }
  regions : ∀ g' : RegionId, g' ≠ g → ∃ q, t.regions[g'] = { s.regions[g'] with atomQ := q }
  logged : ∃ r, t.log.recs = List.take 8192 (r :: s.log.recs) ∧ r.source = 8 ∧ r.unit = g.val ∧ r.cause = cause

theorem markCmds_quiet {s : State} (h : Quiet s) (g : RegionId) : Quiet (s.markCmds g) := by
  refine ⟨fun cm hcm => ?_, h.2⟩
  simp only [State.markCmds, State.markHomed, List.map_map, List.mem_map] at hcm
  obtain ⟨x, hx, rfl⟩ := hcm
  have hx := h.1 x hx
  simp only [Function.comp]
  split <;> split <;> exact hx

theorem quenchBroken_of_none {s : State} (h : s.fls.quench = none) : s.quenchBroken = s := by simp [State.quenchBroken, h]

theorem moveCopies_of_elsewhere {s : State} {g : RegionId} (ha : s.copyA ≠ some g) (hb : s.copyB ≠ some g) : s.moveCopies g = s := by
  simp [State.moveCopies, ha, hb]

theorem beginReset_of_away {s : State} {g : RegionId} (h : s.regionState g ≠ .inService) (cause : Nat) : s.beginReset g cause = s := by
  simp [State.beginReset, h]

/-- The state whose region a reset clears: logged, its commands marked, the region and its cores RESETTING. -/
def State.resetting (s : State) (g : RegionId) (cause : Nat) : State :=
  let s := s.logEv { source := 8, cause := cause, unit := g.val, epoch := (s.part (.region g)).epoch }
  (coresOf g).foldl (fun s c => s.resetPart (.core c)) ((s.markCmds g).resetPart (.region g))

theorem resetting_frame (s : State) (g : RegionId) (cause : Nat) :
    s.resetting g cause = { s with log := (s.resetting g cause).log, cmds := (s.markCmds g).cmds, epochs := (s.resetting g cause).epochs } := by
  unfold State.resetting
  dsimp only
  rw [foldl_resetPart_frame, logEv_frame_quiet s rfl]
  rfl

theorem resetting_quiet {s : State} (h : Quiet s) (g : RegionId) (cause : Nat) : Quiet (s.resetting g cause) := by
  rw [resetting_frame]
  exact markCmds_quiet h g

theorem resetting_log (s : State) (g : RegionId) (cause : Nat) :
    (s.resetting g cause).log = (s.logEv { source := 8, cause := cause, unit := g.val, epoch := (s.part (.region g)).epoch }).log := by
  unfold State.resetting
  dsimp only
  rw [foldl_resetPart_frame]
  rfl

theorem resetting_region (s : State) (g : RegionId) (cause : Nat) : ((s.resetting g cause).part (.region g)).state = .resetting := by
  unfold State.resetting
  dsimp only
  rw [part_foldl_resetPart, if_neg (by simp), State.resetPart, part_updPart_self]

theorem resetting_core (s : State) (g : RegionId) (cause : Nat) {c : CoreId} (h : regionOfCore c = g) :
    ((s.resetting g cause).part (.core c)).state = .resetting := by
  unfold State.resetting
  dsimp only
  rw [part_foldl_resetPart, if_pos ⟨c, mem_coresOf.2 h, rfl⟩]

theorem beginReset_of_quiet {s : State} {g : RegionId} (hs : s.regionState g = .inService) (hq : Quiet s) (hf : s.fls.quench = none)
    (ha : s.copyA ≠ some g) (hb : s.copyB ≠ some g) (cause : Nat) :
    s.beginReset g cause = (s.resetting g cause).clearRegion g := by
  have hbroken : ((s.logEv { source := 8, cause := cause, unit := g.val, epoch := (s.part (.region g)).epoch }).markCmds g).quenchBroken
      = (s.logEv { source := 8, cause := cause, unit := g.val, epoch := (s.part (.region g)).epoch }).markCmds g := by
    apply quenchBroken_of_none
    rw [logEv_frame_quiet s rfl]
    exact hf
  have hl := clearRegion_cleared (resetting_quiet hq g cause) g
  have hcopies : ((s.resetting g cause).clearRegion g).moveCopies g = (s.resetting g cause).clearRegion g := by
    apply moveCopies_of_elsewhere <;> rw [hl.frame, resetting_frame] <;> assumption
  have hbegin : s.beginReset g cause = (((s.resetting g cause).clearRegion g).moveCopies g).replayRounds := by
    simp only [State.beginReset, hs, bne_self_eq_false, Bool.false_eq_true, if_false, State.resetting, hbroken]
  rw [hbegin, hcopies, replayRounds_of_plain hl.quiet.1]

theorem beginReset_begun {s : State} {g : RegionId} (hs : s.regionState g = .inService) (hq : Quiet s) (hf : s.fls.quench = none)
    (ha : s.copyA ≠ some g) (hb : s.copyB ≠ some g) (cause : Nat) : ResetBegun g cause s (s.beginReset g cause) := by
  rw [beginReset_of_quiet hs hq hf ha hb]
  have hl := clearRegion_cleared (resetting_quiet hq g cause) g
  have hr := resetting_frame s g cause
  have hregion := resetting_region s g cause
  have hcore : ∀ c, regionOfCore c = g → _ := fun c hc => resetting_core s g cause hc
  have hlog := resetting_log s g cause
  generalize s.resetting g cause = u at hl hr hregion hcore hlog
  generalize u.clearRegion g = t at hl
  have hregions : u.regions = s.regions := by rw [hr]
  have hpart : ∀ p, t.part p = u.part p := fun p => by rw [hl.frame]; rfl
  refine ⟨?_, fun c hc => ⟨?_, hl.free c hc⟩, fun c hc => ?_, ?_, ?_, ?_, ?_, fun g' hg => ?_, ?_⟩
  · rw [hpart, hregion]
  · rw [hpart, hcore c hc]
  · rw [hl.others c hc, hr]
  · rw [hl.regionMem, hr]
  · rw [hl.frame, hr]
  · rw [hl.frame, hr]
  · rw [← hregions]
    exact hl.region
  · rw [← hregions]
    exact hl.regions g' hg
  · have ht : t.log = u.log := by rw [hl.frame]
    rw [ht, hlog, logEv_recs]
    exact ⟨_, rfl, rfl, rfl, rfl⟩

/-! ## The statement -/

theorem exec_regionReset (s : State) (g : RegionId) : exec (.regionReset g) s = .next (s.beginReset g 2) := rfl

theorem exec_regionWatchdogExpiry_of_inService {s : State} {g : RegionId} (h : s.regionState g = .inService) :
    exec (.regionWatchdogExpiry g) s
      = .next ((s.updRegion g (fun r => { r with wdtExpiries := satAdd 16 r.wdtExpiries 1 })).beginReset g 3) := by
  simp [exec, execRegionWatchdogExpiry, h]

/-- A reset or an expired watchdog of a region that is away does nothing. -/
theorem exec_reset_of_away {s : State} {g : RegionId} {i : Instr} (hi : i ∈ [Instr.regionReset g, .regionWatchdogExpiry g])
    (h : s.regionState g ≠ .inService) : exec i s = .next s := by
  simp only [List.mem_cons, List.not_mem_nil, or_false] at hi
  rcases hi with rfl | rfl
  · rw [exec_regionReset, beginReset_of_away h]
  · simp [exec, execRegionWatchdogExpiry, h]

/-- The watchdog's count, where the expiry is what asks for the reset. -/
def State.expired (s : State) (g : RegionId) (i : Instr) : State :=
  if i = .regionWatchdogExpiry g then s.updRegion g (fun r => { r with wdtExpiries := satAdd 16 r.wdtExpiries 1 }) else s

theorem exec_reset_of_inService {s : State} {g : RegionId} {i : Instr} (hi : i ∈ [Instr.regionReset g, .regionWatchdogExpiry g])
    (h : s.regionState g = .inService) :
    exec i s = .next ((s.expired g i).beginReset g (if i = .regionWatchdogExpiry g then 3 else 2)) := by
  simp only [List.mem_cons, List.not_mem_nil, or_false] at hi
  rcases hi with rfl | rfl
  · rfl
  · rw [exec_regionWatchdogExpiry_of_inService h, State.expired, if_pos rfl, if_pos rfl]

theorem expired_frame (s : State) (g : RegionId) (i : Instr) : s.expired g i = { s with regions := (s.expired g i).regions } := by
  unfold State.expired
  split <;> rfl

theorem expired_region (s : State) (g : RegionId) (i : Instr) : (s.expired g i).regions[g] = { s.regions[g] with
    wdtExpiries := if i = .regionWatchdogExpiry g then min (s.regions[g].wdtExpiries + 1) 65535 else s.regions[g].wdtExpiries } := by
  unfold State.expired
  split <;> simp [satAdd]

theorem expired_region_other (s : State) {g g' : RegionId} (h : g' ≠ g) (i : Instr) : (s.expired g i).regions[g'] = s.regions[g'] := by
  have : g.val ≠ g'.val := fun e => h (Fin.ext e.symm)
  unfold State.expired
  split <;> simp [this]

/-- Settles O43: from the state with the watchdog's count, by what the begin of a reset leaves. -/
theorem regionResetKeepsTheStack : Obligations.RegionResetKeepsTheStack := by
  unfold Obligations.RegionResetKeepsTheStack
  intro s g i hi
  refine ⟨exec_reset_of_away hi, fun hs hplain hcoils hf ha hb => ⟨_, exec_reset_of_inService hi hs, ?_⟩⟩
  have hx := expired_frame s g i
  have hb : ResetBegun g (if i = .regionWatchdogExpiry g then 3 else 2) (s.expired g i)
      ((s.expired g i).beginReset g (if i = .regionWatchdogExpiry g then 3 else 2)) := by
    apply beginReset_begun
    · rw [hx]; exact hs
    · rw [hx]; exact ⟨hplain, hcoils⟩
    · rw [hx]; exact hf
    · rw [hx]; exact ha
    · rw [hx]; exact hb
  generalize (s.expired g i).beginReset g (if i = .regionWatchdogExpiry g then 3 else 2) = t at hb
  obtain ⟨q, hg⟩ := hb.region
  rw [expired_region] at hg
  refine ⟨hb.away, hb.cores, fun c hc => ?_, ?_, ?_, ?_, ?_, ?_, ?_, ?_, ?_, fun g' hne => ?_, ?_⟩
  · rw [hb.others c hc, hx]
  · rw [hb.regionMem, hx]; rfl
  · rw [hb.stacked, hx]
  · rw [hb.hostMem, hx]
  · rw [hg]; rfl
  · rw [hg]; rfl
  · rw [hg]; rfl
  · rw [hg]; rfl
  · rw [hg]; rfl
  · obtain ⟨q', hg'⟩ := hb.regions g' hne
    rw [hg', expired_region_other s hne]
    exact ⟨rfl, rfl⟩
  · have hlog := hb.logged
    rwa [hx] at hlog

end Sys2Proof.Machine
end

section
/-! PROOF. Package warm resets and the command store's copies (02, R37; 17, R326, R335, R337; 22, R430; logs 46, 60, 137). -/

namespace Sys2Proof.Machine

/-! ## What a step of start-up keeps -/

/-- The log keeps its records, the newest 8,192, behind new ones. -/
def LogGrows (s t : State) : Prop := s.log.recs.length ≤ 8192 → ∃ l, t.log.recs = List.take 8192 (l ++ s.log.recs)

theorem LogGrows.of_eq {s t : State} (h : t.log = s.log) : LogGrows s t :=
  fun hl => ⟨[], by rw [h, List.nil_append, List.take_of_length_le hl]⟩

theorem LogGrows.trans {s t u : State} (a : LogGrows s t) (b : LogGrows t u) : LogGrows s u := by
  intro h
  obtain ⟨l, hl⟩ := a h
  obtain ⟨m, hm⟩ := b (by rw [hl]; exact List.length_take_le ..)
  refine ⟨m ++ l, ?_⟩
  rw [hm, hl, List.append_assoc]
  simp [List.take_append (l₁ := m), List.take_take]

/-- What start-up's steps change, and what they keep of the parts they change. -/
structure StartStep (s t : State) : Prop where
  frame : t = { s with cores := t.cores, regions := t.regions, stacked := t.stacked, copyA := t.copyA, copyB := t.copyB,
                       epochs := t.epochs, log := t.log, hif := t.hif, darit := t.darit, fls := t.fls, svc := t.svc }
  cells : t.fls.cells = s.fls.cells
  fused : t.svc.fuses = s.svc.fuses ∧ t.svc.svn = s.svc.svn ∧ t.svc.hwType = s.svc.hwType
  slot : ∀ c k, t.slot c k = s.slot c k
  region : ∀ g : RegionId, t.regions[g].role = s.regions[g].role ∧ t.regions[g].wdtExpiries = s.regions[g].wdtExpiries
    ∧ t.regions[g].lanesBad = s.regions[g].lanesBad
  log : LogGrows s t
  stacked : (∀ g : RegionId, s.channelBad g = false ∧ s.regions[g].lanesBad = []) → t.stacked = s.stacked

namespace StartStep

variable {s t u : State}

theorem refl (s : State) : StartStep s s :=
  ⟨rfl, rfl, ⟨rfl, rfl, rfl⟩, fun _ _ => rfl, fun _ => ⟨rfl, rfl, rfl⟩, .of_eq rfl, fun _ => rfl⟩

theorem channelBad (h : StartStep s t) (g : RegionId) : t.channelBad g = s.channelBad g := by rw [h.frame]; rfl

theorem trans (a : StartStep s t) (b : StartStep t u) : StartStep s u where
  frame := by rw [b.frame, a.frame]
  cells := b.cells.trans a.cells
  fused := by
    obtain ⟨af, as, ah⟩ := a.fused
    obtain ⟨bf, bs, bh⟩ := b.fused
    exact ⟨bf.trans af, bs.trans as, bh.trans ah⟩
  slot c k := (b.slot c k).trans (a.slot c k)
  region g := by
    obtain ⟨ar, aw, al⟩ := a.region g
    obtain ⟨br, bw, bl⟩ := b.region g
    exact ⟨br.trans ar, bw.trans aw, bl.trans al⟩
  log := a.log.trans b.log
  stacked h := (b.stacked fun g => by rw [a.channelBad, (a.region g).2.2]; exact h g).trans (a.stacked h)

theorem foldl {β : Type} {f : State → β → State} (hf : ∀ s b, StartStep s (f s b)) (l : List β) (s : State) :
    StartStep s (l.foldl f s) := foldl_within refl trans hf l s

theorem logEv (s : State) (a : LogArgs) : StartStep s (s.logEv a) := by
  rw [logEv_frame]
  exact ⟨rfl, rfl, ⟨rfl, rfl, rfl⟩, fun _ _ => rfl, fun _ => ⟨rfl, rfl, rfl⟩, fun _ => ⟨[_], logEv_recs s a⟩, fun _ => rfl⟩

theorem portEvent (s : State) (h : HostPort) (b : Fin 4) : StartStep s (s.portEvent h b) := by
  rw [portEvent_frame]
  exact ⟨rfl, rfl, ⟨rfl, rfl, rfl⟩, fun _ _ => rfl, fun _ => ⟨rfl, rfl, rfl⟩, .of_eq rfl, fun _ => rfl⟩

theorem updCore (s : State) (c : CoreId) {f : Core → Core} (hf : ∀ x, (f x).slots = x.slots := by exact fun _ => rfl) : StartStep s (s.updCore c f) := by
  refine ⟨rfl, rfl, ⟨rfl, rfl, rfl⟩, fun c' k => ?_, fun _ => ⟨rfl, rfl, rfl⟩, .of_eq rfl, fun _ => rfl⟩
  by_cases h : c.val = c'.val
  · obtain rfl := Fin.ext h
    simp [State.slot, hf]
  · simp [State.slot, h]

theorem updRegion (s : State) (g : RegionId) {f : Region → Region}
    (hf : (f s.regions[g]).role = s.regions[g].role ∧ (f s.regions[g]).wdtExpiries = s.regions[g].wdtExpiries
      ∧ (f s.regions[g]).lanesBad = s.regions[g].lanesBad := by exact ⟨rfl, rfl, rfl⟩) : StartStep s (s.updRegion g f) := by
  refine ⟨rfl, rfl, ⟨rfl, rfl, rfl⟩, fun _ _ => rfl, fun g' => ?_, .of_eq rfl, fun _ => rfl⟩
  by_cases h : g.val = g'.val
  · obtain rfl := Fin.ext h
    simpa using hf
  · simp [h]

theorem updSvc (s : State) {f : Service → Service}
    (hf : ∀ v, (f v).fuses = v.fuses ∧ (f v).svn = v.svn ∧ (f v).hwType = v.hwType := by exact fun _ => ⟨rfl, rfl, rfl⟩) :
    StartStep s (s.updSvc f) :=
  ⟨rfl, rfl, hf _, fun _ _ => rfl, fun _ => ⟨rfl, rfl, rfl⟩, .of_eq rfl, fun _ => rfl⟩

theorem updPart (s : State) (p : Part) (f : EpochEntry → EpochEntry) : StartStep s (s.updPart p f) :=
  ⟨rfl, rfl, ⟨rfl, rfl, rfl⟩, fun _ _ => rfl, fun _ => ⟨rfl, rfl, rfl⟩, .of_eq rfl, fun _ => rfl⟩

theorem updDarit (s : State) (f : Darit → Darit) : StartStep s (s.updDarit f) :=
  ⟨rfl, rfl, ⟨rfl, rfl, rfl⟩, fun _ _ => rfl, fun _ => ⟨rfl, rfl, rfl⟩, .of_eq rfl, fun _ => rfl⟩

theorem flash (s : State) {f : Flash} (hf : f.cells = s.fls.cells) : StartStep s { s with fls := f } :=
  ⟨rfl, hf, ⟨rfl, rfl, rfl⟩, fun _ _ => rfl, fun _ => ⟨rfl, rfl, rfl⟩, .of_eq rfl, fun _ => rfl⟩

/-- Stacked memory lost, where some stack has a failing lane or a failing checker. -/
theorem lost {s : State} (m : Ram) (h : ¬ ∀ g : RegionId, s.channelBad g = false ∧ s.regions[g].lanesBad = []) :
    StartStep s { s with stacked := m } :=
  ⟨rfl, rfl, ⟨rfl, rfl, rfl⟩, fun _ _ => rfl, fun _ => ⟨rfl, rfl, rfl⟩, .of_eq rfl, fun hgood => absurd hgood h⟩

theorem ite {p : Prop} [Decidable p] {a b : State} (ha : p → StartStep s a) (hb : ¬ p → StartStep s b) : StartStep s (if p then a else b) := by
  split
  · exact ha ‹_›
  · exact hb ‹_›

end StartStep

/-! ## Start-up's steps -/

theorem repairRegion_step (s : State) (g : RegionId) : StartStep s (s.repairRegion g).1 := by
  unfold State.repairRegion
  dsimp only
  exact (((StartStep.foldl (fun s _ => .logEv s _) _ s).trans (.foldl (fun s _ => .logEv s _) _ _)).trans
    (.updRegion _ g)).trans (.foldl (fun s c => .updCore s c) _ _)

theorem hardenRows_step (s : State) (g : RegionId) : StartStep s (s.hardenRows g) :=
  (StartStep.updRegion s g).trans (.foldl (fun s _ => .logEv s _) _ _)

/-- A training fails for its lanes or for a channel's checker, and the stack's contents are lost with it. -/
theorem trainStack_step (s : State) (g : RegionId) : StartStep s (s.trainStack g).1 := by
  have h1 : StartStep s (if s.channelBad g then s.logSelf g.val else s) := .ite (fun _ => .logEv s _) (fun _ => .refl s)
  have h2 := h1.trans (hardenRows_step _ g)
  unfold State.trainStack
  dsimp only
  generalize ((if s.channelBad g then s.logSelf g.val else s).hardenRows g) = u at h2
  have h3 : StartStep s (u.updRegion g (fun _ => u.regions[g].train.1)) := h2.trans (.updRegion u g)
  split
  next hbad =>
    dsimp only
    refine h3.trans ((StartStep.lost _ fun hgood => ?_).trans (.updRegion _ g))
    obtain ⟨hc, hl⟩ := hgood g
    have hl : u.regions[g].lanesBad = [] := by simpa [Region.train] using hl
    have htrain : u.regions[g].train.2 = false := by simp only [Region.train, hl, List.any_nil]
    rw [hc, htrain] at hbad
    exact nomatch hbad
  next =>
    dsimp only
    exact h3.trans (.updRegion _ g)

theorem startRegion_step (s : State) (g : RegionId) : StartStep s (s.startRegion g) := by
  have out (s : State) (step : Nat) : StartStep s ((s.updRegion g (fun r => { r with outOfService := true })).stepFailed step g.val) :=
    (StartStep.updRegion s g).trans (.logEv _ _)
  have h := (repairRegion_step s g).trans (trainStack_step _ g)
  unfold State.startRegion
  dsimp only
  refine ((h.trans (.ite (fun _ => out _ 5) (fun _ => .refl _))).trans (.ite (fun _ => out _ 4) (fun _ => .refl _))).trans
    (.ite (fun _ => .updPart _ _ _) (fun _ => .refl _))

theorem startDie_step (s : State) (d : DieId) : StartStep s (s.startDie d) := by
  unfold State.startDie
  refine .ite (fun _ => .refl s) (fun _ => ?_)
  refine (((StartStep.logEv s _).trans (.logEv _ _)).trans (.updPart _ _ _)).trans (.foldl (fun s g => ?_) _ _)
  exact ((StartStep.updRegion s g).trans (.updPart _ _ _)).trans (.foldl (fun s _ => .updPart s _ _) _ _)

theorem startParts_step (s : State) : StartStep s s.startParts :=
  ((StartStep.foldl startRegion_step _ s).trans (.foldl startDie_step _ _)).trans
    (.foldl (fun s _ => .ite (fun _ => .updPart s _ _) (fun _ => .refl s)) _ _)

theorem startFlash_step (s : State) : StartStep s s.startFlash := by
  unfold State.startFlash
  split
  · exact ((StartStep.logEv s _).trans (.logEv _ _)).trans (.flash _ (by
      simpa [State.stepFailed, State.logSelf, State.logSvc] using (((StartStep.logEv s _).trans (.logEv _ _)).cells).symm))
  · exact .flash s rfl

theorem runService_step (s : State) (l : Loaded) : StartStep s (s.runService l) :=
  (StartStep.updSvc s).trans (.ite (fun _ => .logEv _ _) (fun _ => .refl _))

theorem runRegion_step (s : State) (g : RegionId) (l : Loaded) : StartStep s (s.runRegion g l) :=
  ((StartStep.updRegion s g).trans (.updSvc _)).trans (.ite (fun _ => .logEv _ _) (fun _ => .refl _))

theorem layCopies_step (s : State) : StartStep s s.layCopies :=
  ⟨rfl, rfl, ⟨rfl, rfl, rfl⟩, fun _ _ => rfl, fun _ => ⟨rfl, rfl, rfl⟩, .of_eq rfl, fun _ => rfl⟩

theorem trainAll_step (s : State) : StartStep s s.trainAll :=
  (StartStep.updDarit s _).trans (.foldl (fun s _ => .logEv s _) _ _)

theorem enterReady_step (s : State) : StartStep s s.enterReady :=
  ((StartStep.updSvc s).trans (.portEvent _ _ _)).trans (.portEvent _ _ _)

theorem enterRecovery_step (s : State) (step : Nat) : StartStep s (s.enterRecovery step) :=
  ((StartStep.updSvc s).trans (.logEv _ _)).trans (.logEv _ _)

theorem finishStart_step (s : State) (a b : Loaded) : StartStep s (s.finishStart a b) := by
  unfold State.finishStart
  dsimp only
  refine .trans ?_ (enterReady_step _)
  refine .trans ?_ (trainAll_step _)
  refine .trans ?_ (layCopies_step _)
  refine .trans ?_ (.updSvc _)
  exact (runService_step s a).trans (.foldl (fun s g => .ite (fun _ => .refl s) (fun _ => runRegion_step s g b)) _ _)

theorem startUp_step (s : State) : StartStep s s.startUp := by
  have h := startParts_step s
  unfold State.startUp
  dsimp only
  split
  · exact h.trans (enterRecovery_step _ _)
  · split
    · exact (h.trans (startFlash_step _)).trans (finishStart_step _ _ _)
    · exact (h.trans (startFlash_step _)).trans (enterRecovery_step _ _)

theorem enterReady_phase (s : State) : s.enterReady.svc.phase = 8 := by
  unfold State.enterReady
  rw [portEvent_frame, portEvent_frame]
  rfl

theorem enterRecovery_phase (s : State) (step : Nat) : (s.enterRecovery step).svc.phase = 9 := by
  unfold State.enterRecovery State.stepFailed State.logSvc
  rw [logEv_frame, logEv_frame]
  rfl

/-- Start-up ends in READY or in RECOVERY. -/
theorem startUp_phase (s : State) : s.startUp.svc.phase = 8 ∨ s.startUp.svc.phase = 9 := by
  unfold State.startUp
  dsimp only
  split
  · exact .inr (enterRecovery_phase _ _)
  · split
    · exact .inl (enterReady_phase _)
    · exact .inr (enterRecovery_phase _ _)

/-! ## The warm reset -/

/-- What a package warm reset leaves of the state before it. -/
structure WarmKept (s t : State) : Prop where
  hostMem : t.hostMem = s.hostMem
  cells : t.fls.cells = s.fls.cells
  stacked : (∀ g : RegionId, s.channelBad g = false ∧ s.regions[g].lanesBad = []) → t.stacked = s.stacked
  log : LogGrows s t
  fused : t.svc.fuses = s.svc.fuses ∧ t.svc.svn = s.svc.svn ∧ t.svc.hwType = s.svc.hwType
  time : t.timeNs = s.timeNs
  lists : t.ctxs = [] ∧ t.queues = [] ∧ t.cmds = [] ∧ t.seqs = [] ∧ t.coils = [] ∧ t.fabric = []
  memories : t.coreStore = Ram.empty ∧ t.accMem = Ram.empty ∧ t.regionMem = Ram.empty
  free : ∀ c k, (t.slot c k).state = .free
  role : ∀ g : RegionId, t.regions[g].role = 3 ∧ t.regions[g].wdtExpiries = 0
  phase : t.svc.phase = 8 ∨ t.svc.phase = 9
  pending : t.pending = s.pending

theorem warm_slot (s : State) (c : CoreId) (k : KsId) : s.warm.slot c k = KSlot.idle := reset_slot c k

theorem warm_region (s : State) (g : RegionId) : s.warm.regions[g].role = 3 ∧ s.warm.regions[g].wdtExpiries = 0
    ∧ s.warm.regions[g].lanesBad = s.regions[g].lanesBad := by
  simp [State.warm, Region.reset]

theorem warmReset_kept (s : State) : WarmKept s s.warmReset := by
  have h := startUp_step s.warm
  have hphase := startUp_phase s.warm
  unfold State.warmReset
  generalize s.warm.startUp = t at h hphase
  refine ⟨?_, h.cells, fun hgood => h.stacked fun g => ?_, h.log, h.fused, ?_, ?_, ?_, fun c k => ?_, fun g => ?_, hphase, ?_⟩
  · rw [h.frame]; rfl
  · exact ⟨(hgood g).1, (warm_region s g).2.2.trans (hgood g).2⟩
  · rw [h.frame]; rfl
  · rw [h.frame]; exact ⟨rfl, rfl, rfl, rfl, rfl, rfl⟩
  · rw [h.frame]; exact ⟨rfl, rfl, rfl⟩
  · rw [h.slot, warm_slot]; rfl
  · obtain ⟨hrole, hwdt, _⟩ := h.region g
    obtain ⟨wrole, wwdt, _⟩ := warm_region s g
    exact ⟨hrole.trans wrole, hwdt.trans wwdt⟩
  · rw [h.frame]; rfl

/-- A record before the warm reset is one more that the log keeps. -/
theorem WarmKept.of_logEv {s t : State} {a : LogArgs} (h : WarmKept (s.logEv a) t) : WarmKept s t := by
  have hl := StartStep.logEv s a
  refine ⟨?_, h.cells.trans hl.cells, fun hgood => (h.stacked fun g => ?_).trans (hl.stacked hgood), hl.log.trans h.log, ?_, ?_, h.lists,
    h.memories, h.free, h.role, h.phase, ?_⟩
  · rw [h.hostMem, hl.frame]
  · rw [hl.channelBad, (hl.region g).2.2]
    exact hgood g
  · obtain ⟨hf, hs, ht⟩ := h.fused
    obtain ⟨lf, ls, lt⟩ := hl.fused
    exact ⟨hf.trans lf, hs.trans ls, ht.trans lt⟩
  · rw [h.time, hl.frame]
  · rw [h.pending, hl.frame]

theorem exec_packageWarmReset {s : State} (h : s.diesOn = true) : exec .packageWarmReset s = .next s.warmReset := by
  simp [exec, execPackageWarmReset, h]

theorem exec_controlCoreWatchdogExpiry {s : State} (h : s.diesOn = true) (w : ControlCore) :
    exec (.controlCoreWatchdogExpiry w) s = .next (s.logEv { source := 8, cause := 3, unit := wholeUnit }).warmReset := by
  have hon : (s.logEv { source := 8, cause := 3, unit := wholeUnit }).diesOn = true := by
    rw [logEv_frame]
    exact h
  simp only [exec, execControlCoreWatchdogExpiry]
  rw [if_pos hon]

theorem exec_commandStoreCopyLoss {s : State} (h : s.isReady = true) (loss : CopyLoss) : exec (.commandStoreCopyLoss loss) s
    = .next (loss.unreadable.foldl (fun s p => s.failCmd p.1 p.2 0x10) (s.loseCopy loss.second)) := by
  simp [exec, execCommandStoreCopyLoss, h, stData]

theorem loseCopy_last {s : State} (ha : s.copyA = none) (hb : s.copyB = none) (second : Bool) : s.loseCopy second = s.warmReset := by
  unfold State.loseCopy
  rw [ha, hb]
  cases second <;> rfl

theorem loseCopy_first {s : State} {a b : RegionId} (ha : s.copyA = some a) (hb : s.copyB = some b) :
    s.loseCopy false = { s with copyA := s.copyPlace b } := by
  unfold State.loseCopy
  rw [ha, hb]

theorem loseCopy_second {s : State} {a b : RegionId} (ha : s.copyA = some a) (hb : s.copyB = some b) :
    s.loseCopy true = { s with copyB := s.copyPlace a } := by
  unfold State.loseCopy
  rw [ha, hb]

theorem exec_warm {s : State} {i : Instr} {w : ControlCore} (hon : s.diesOn = true)
    (hi : i = .packageWarmReset ∨ i = .controlCoreWatchdogExpiry w
      ∨ ((∃ b, i = .commandStoreCopyLoss { second := b, unreadable := [] }) ∧ s.isReady = true ∧ s.copyA = none ∧ s.copyB = none)) :
    ∃ t, exec i s = .next t ∧ WarmKept s t := by
  rcases hi with rfl | rfl | ⟨⟨b, rfl⟩, hready, ha, hb⟩
  · exact ⟨_, exec_packageWarmReset hon, warmReset_kept s⟩
  · exact ⟨_, exec_controlCoreWatchdogExpiry hon w, (warmReset_kept _).of_logEv⟩
  · have hexec := exec_commandStoreCopyLoss hready { second := b, unreadable := [] }
    rw [List.foldl_nil, loseCopy_last ha hb] at hexec
    exact ⟨_, hexec, warmReset_kept s⟩

/-! ## The place of a copy -/

/-- A region whose stack may hold a copy of the command store (R326). -/
def State.takesCopy (s : State) (g : RegionId) : Bool :=
  s.regionState g == .inService && s.regions[g].stack == .inService && !s.regions[g].outOfService

/-- The regions of every die but one, in the order in which a copy's place is sought. -/
def regionsBut (d : DieId) : List RegionId := ((List.finRange 4).filter (fun e => e != d)).flatMap regionsOf

theorem mem_regionsBut (d : DieId) (g : RegionId) : g ∈ regionsBut d ↔ dieOfRegion g ≠ d := by
  revert d g
  decide

theorem regionsBut_sorted (d : DieId) : (regionsBut d).Pairwise (· < ·) := by
  revert d
  decide

theorem copyPlace_eq (s : State) (g : RegionId) : s.copyPlace g = (regionsBut (dieOfRegion g)).find? s.takesCopy := by
  rw [regionsBut, List.find?_flatMap]
  rfl

/-- The first of a rising list that a test picks: nothing before it is picked. -/
theorem not_of_lt_find? {l : List RegionId} (h : l.Pairwise (· < ·)) {p : RegionId → Bool} {g g' : RegionId} (hf : l.find? p = some g)
    (hm : g' ∈ l) (hlt : g' < g) : p g' = false := by
  obtain ⟨_, as, bs, rfl, hnot⟩ := List.find?_eq_some_iff_append.1 hf
  obtain ⟨_, hbs, _⟩ := List.pairwise_append.1 h
  rcases List.mem_append.1 hm with ha | hb
  · simpa using hnot g' ha
  · rcases List.mem_cons.1 hb with rfl | hb
    · exact absurd hlt (lt_irrefl _)
    · exact absurd (hlt.trans ((List.pairwise_cons.1 hbs).1 g' hb)) (lt_irrefl _)

/-- Settles O46: a warm reset by what every step of start-up keeps, a lost copy by the first region that takes it. -/
theorem warmResetKeepsTheStacks : Obligations.WarmResetKeepsTheStacks := by
  unfold Obligations.WarmResetKeepsTheStacks
  refine ⟨fun s w i hon hi => ?warm, fun s a b hready ha hb => ⟨fun l => ⟨?first, ?second⟩, fun g hg => ?place⟩⟩
  case warm =>
    obtain ⟨t, hexec, h⟩ := exec_warm hon hi
    obtain ⟨hfuses, hsvn, htype⟩ := h.fused
    obtain ⟨hctxs, hqueues, hcmds, hseqs, hcoils, hfabric⟩ := h.lists
    obtain ⟨hcore, hacc, hregion⟩ := h.memories
    exact ⟨t, hexec, h.hostMem, h.cells, h.stacked, h.log, hfuses, h.time, hsvn, htype, hctxs, hqueues, hcmds, hseqs, hcoils, hfabric,
      hcore, hacc, hregion, h.free, h.role, h.phase, h.pending⟩
  case first =>
    rw [exec_commandStoreCopyLoss hready, loseCopy_first ha hb]
  case second =>
    rw [exec_commandStoreCopyLoss hready, loseCopy_second ha hb]
  case place =>
    rw [copyPlace_eq] at hg
    have htakes := List.find?_some hg
    simp only [State.takesCopy, Bool.and_eq_true, beq_iff_eq] at htakes
    obtain ⟨⟨hstate, _⟩, _⟩ := htakes
    refine ⟨(mem_regionsBut _ g).1 (List.mem_of_find?_eq_some hg), hstate, fun g' hlt hdie hs hstack => ?_⟩
    have hnot := not_of_lt_find? (regionsBut_sorted _) hg ((mem_regionsBut _ g').2 hdie) hlt
    simp only [State.takesCopy, hs, hstack, beq_self_eq_true, Bool.true_and, Bool.not_eq_eq_eq_not, Bool.not_false] at hnot
    exact hnot

end Sys2Proof.Machine
end

section
/-! PROOF. What a checker reads of a block written whole, and that the notes of reads keep every byte of stacked memory (18, R356, R357, R360;
15, R286). -/

namespace Sys2Proof.Machine

/-! ## The weave code of a block as it was encoded -/

theorem foldl_xor_start (f : Nat → Bool) (l : List Nat) (a : Bool) :
    l.foldl (fun x i => x != f i) a = (a != l.foldl (fun x i => x != f i) false) := by
  induction l generalizing a with
  | nil => simp
  | cons i l ih => rw [List.foldl_cons, List.foldl_cons, ih, ih (false != f i)]; cases a <;> simp

theorem parity_xor {w : Nat} (a b : BitVec w) : parity (a ^^^ b) = (parity a != parity b) := by
  have h (l : List Nat) : l.foldl (fun x i => x != (a ^^^ b).getLsbD i) false
      = (l.foldl (fun x i => x != a.getLsbD i) false != l.foldl (fun x i => x != b.getLsbD i) false) := by
    induction l with
    | nil => rfl
    | cons i l ih =>
      simp only [List.foldl_cons]
      rw [foldl_xor_start, foldl_xor_start (fun i => a.getLsbD i), foldl_xor_start (fun i => b.getLsbD i), ih, BitVec.getLsbD_xor]
      cases a.getLsbD i <;> cases b.getLsbD i <;> simp
  exact h _

theorem getLsbD_dataRow (d : W256) (i j : Nat) (h : j < 16) : (dataRow d i).getLsbD j = d.getLsbD (16 * i + j) := by
  simp [dataRow, h]

theorem parity_dataRow (d : W256) (i : Nat) :
    parity (dataRow d i) = ((List.range 16).map (16 * i + ·)).foldl (fun a k => a != d.getLsbD k) false := by
  rw [parity, List.foldl_map]
  refine List.foldl_ext _ _ _ fun a j hj => ?_
  rw [getLsbD_dataRow d i j (List.mem_range.1 hj)]

theorem range_mul_eq_rows (n : Nat) : List.range (n * 16) = (List.range n).flatMap (fun i => (List.range 16).map (16 * i + ·)) := by
  induction n with
  | zero => rfl
  | succ n ih => rw [Nat.succ_mul, List.range_add, ih, List.range_succ (n := n), List.flatMap_append, List.flatMap_singleton, Nat.mul_comm n]

/-- A row at a time is a bit at a time. -/
theorem parity_eq_rows (d : W256) : parity d = (List.range 16).foldl (fun a i => a != parity (dataRow d i)) false := by
  rw [parity, range_mul_eq_rows 16, List.foldl_flatMap]
  refine List.foldl_ext _ _ _ fun a i _ => ?_
  rw [foldl_xor_start, parity_dataRow]

theorem parity_colParity (d : W256) : parity (colParity d) = parity d := by
  have h (l : List Nat) (c : W16) (a : Bool) (hc : parity c = a) :
      parity (l.foldl (fun a i => a ^^^ dataRow d i) c) = l.foldl (fun a i => a != parity (dataRow d i)) a := by
    induction l generalizing c a with
    | nil => exact hc
    | cons i l ih => exact ih _ _ (by rw [parity_xor, hc])
  rw [parity_eq_rows]
  exact h _ 0 false (by decide)

theorem setWidth_ushiftRight_append {v w : Nat} (a : BitVec w) (b : BitVec v) : ((a ++ b) >>> v).setWidth w = a := by
  ext i hi
  simp [BitVec.getLsbD_append, hi]

/-- A block read as it was encoded is clean. -/
theorem weaveDecode_weaveEncode (d : W256) : weaveDecode (weaveEncode d) = .clean d := by
  have hlow : (weaveCheck d).setWidth 16 = colParity d := BitVec.setWidth_append_eq_right
  have hhigh : (weaveCheck d >>> 16).setWidth 16 = rowParity d ^^^ fill16 (parity d) := setWidth_ushiftRight_append _ _
  have hrow : synRow (weaveEncode d) = 0 := by
    simp only [synRow, weaveEncode, hlow, hhigh, parity_colParity]
    rw [BitVec.xor_assoc _ _ (fill16 _), BitVec.xor_self]
    rfl
  have hcol : synCol (weaveEncode d) = 0 := by simp [synCol, weaveEncode, hlow]
  have hpop : popcount (0 : W16) = 0 := by decide
  simp only [weaveDecode, hrow, hcol, hpop, and_self, if_true]
  rfl

/-! ## Blocks written whole -/

theorem mapM_congr {f g : Nat → Option Byte} {l : List Nat} (h : ∀ i ∈ l, f i = g i) : l.mapM f = l.mapM g := by
  induction l with
  | nil => rfl
  | cons i l ih => rw [List.mapM_cons, List.mapM_cons, h i List.mem_cons_self, ih fun j hj => h j (List.mem_cons_of_mem i hj)]

theorem mapM_lookup_eq_some {f : Nat → Option Byte} {bytes : List Byte} {l : List Nat} (h : l.map f = bytes.map some) : l.mapM f = some bytes := by
  induction l generalizing bytes with
  | nil => rw [List.map_eq_nil_iff.1 h.symm]; rfl
  | cons i l ih =>
    cases bytes with
    | nil => simp at h
    | cons b bs =>
      obtain ⟨hb, hl⟩ := List.cons_eq_cons.1 h
      simp [List.mapM_cons, hb, ih hl]

theorem Ram.blockBytes_putBlock_self (m : Ram) (b : Nat) {bytes : List Byte} (hb : bytes.length = 32) :
    (m.putBlock b bytes).blockBytes b = some bytes := by
  apply mapM_lookup_eq_some
  apply List.ext_getElem (by simp [hb])
  intro i hi _
  have hi : i < 32 := by simpa using hi
  simp [Ram.lookup_putBlock m b bytes hb, show (32 * b + i) / 32 = b by omega, List.getD_eq_getElem?_getD, hb, hi, Nat.mod_eq_of_lt hi]

theorem Ram.blockBytes_putBlock_other (m : Ram) {b c : Nat} {bytes : List Byte} (hb : bytes.length = 32) (h : c ≠ b) :
    (m.putBlock b bytes).blockBytes c = m.blockBytes c := by
  have hne : ∀ i ∈ List.range 32, lookup (m.putBlock b bytes).cells (32 * c + i) = lookup m.cells (32 * c + i) := by
    intro i hi
    have := List.mem_range.1 hi
    rw [Ram.lookup_putBlock m b bytes hb, if_neg (by omega)]
  unfold Ram.blockBytes
  exact mapM_congr hne

theorem lookup_filter_ne (l : List (Nat × BitVec 288)) {b c : Nat} (h : c ≠ b) : lookup (l.filter (fun e => e.1 != b)) c = lookup l c := by
  rw [lookup_filter_key l (fun k => k != b)]
  simp [h]

theorem lookup_filter_self (l : List (Nat × BitVec 288)) (b : Nat) : lookup (l.filter (fun e => e.1 != b)) b = none := by
  rw [lookup_filter_key l (fun k => k != b)]
  simp

theorem ofNat_leNat_leBytes (d : W256) : BitVec.ofNat 256 (leNat (leBytes 32 d.toNat)) = d := by
  have := d.isLt
  rw [leNat_leBytes, Nat.mod_eq_of_lt (by simpa using this), BitVec.ofNat_toNat, BitVec.setWidth_eq]

theorem Ram.check_putBlock_self (m : Ram) (b : Nat) (d : W256) : (m.putBlock b (leBytes 32 d.toNat)).check b = .clean d := by
  have hbad : lookup (m.putBlock b (leBytes 32 d.toNat)).bad b = none := lookup_filter_self _ _
  simp only [Ram.check, Ram.stored, Ram.blockBytes_putBlock_self m b (leBytes_length _ _), hbad, ofNat_leNat_leBytes, weaveDecode_weaveEncode]

theorem Ram.stored_putBlock_other (m : Ram) {b c : Nat} {bytes : List Byte} (hb : bytes.length = 32) (h : c ≠ b) :
    (m.putBlock b bytes).stored c = m.stored c := by
  have hbad : lookup (m.putBlock b bytes).bad c = lookup m.bad c := lookup_filter_ne _ h
  simp only [Ram.stored, Ram.blockBytes_putBlock_other m hb h, hbad]

/-! ## Every byte of stacked memory reads as it did -/

/-- Every block of stacked memory delivers the bytes that it delivered. -/
def SameBytes (s t : State) : Prop := ∀ b, (t.stackedCheck b).bytes = (s.stackedCheck b).bytes

theorem SameBytes.sameStacked {s t : State} (h : SameBytes s t) : sameStacked s t := by
  intro a
  simp only [State.readStacked, funext h]

theorem stackedCheck_congr {s t : State} {b : Nat} (ht : t.tableBlock b = s.tableBlock b) (hm : t.stacked.stored b = s.stacked.stored b)
    (hb : lookup t.stacked.bad b = lookup s.stacked.bad b) : t.stackedCheck b = s.stackedCheck b := by
  simp only [State.stackedCheck, ht, Ram.check, hm, hb]

namespace SameBytes

variable {s t u : State}

theorem of_eq (h : ∀ b, t.stackedCheck b = s.stackedCheck b) : SameBytes s t := fun b => by rw [h b]

theorem refl (s : State) : SameBytes s s := fun _ => rfl

theorem trans (a : SameBytes s t) (b : SameBytes t u) : SameBytes s u := fun x => (b x).trans (a x)

theorem updRegion (s : State) (g : RegionId) (f : Region → Region) : SameBytes s (s.updRegion g f) := fun _ => rfl
theorem updCnt (s : State) (g : RegionId) (f : RegionCnt → RegionCnt) : SameBytes s (s.updCnt g f) := fun _ => rfl

theorem logEv (s : State) (a : LogArgs) : SameBytes s (s.logEv a) := by
  rw [logEv_frame]
  exact fun _ => rfl

theorem logLimited (s : State) (key max : Nat) (a : LogArgs) : SameBytes s (s.logLimited key max a) := by
  rw [logLimited_frame]
  exact fun _ => rfl

theorem foldl {β : Type} {f : State → β → State} (hf : ∀ s b, SameBytes s (f s b)) (l : List β) (s : State) : SameBytes s (l.foldl f s) :=
  foldl_within refl trans hf l s

/-- A block outside the tables written with the bytes that it delivers. -/
theorem putBlock {b : Nat} {d : W256} (hd : (s.stackedCheck b).bytes = some (leBytes 32 d.toNat)) (ht : s.tableBlock b = none) :
    SameBytes s { s with stacked := s.stacked.putBlock b (leBytes 32 d.toNat) } := by
  intro c
  by_cases h : c = b
  · subst h
    have hput : State.stackedCheck { s with stacked := s.stacked.putBlock c (leBytes 32 d.toNat) } c
        = (s.stacked.putBlock c (leBytes 32 d.toNat)).check c := by
      have ht' : State.tableBlock { s with stacked := s.stacked.putBlock c (leBytes 32 d.toNat) } c = none := ht
      simp only [State.stackedCheck, ht']
    rw [hput, Ram.check_putBlock_self, hd]
    rfl
  · rw [stackedCheck_congr (s := s) (t := { s with stacked := s.stacked.putBlock b (leBytes 32 d.toNat) }) rfl (Ram.stored_putBlock_other _ (leBytes_length _ _) h) (lookup_filter_ne _ h)]

/-- The bad bits of a table's block taken away, where the checker corrects them to the entry's bytes. -/
theorem eraseBad {b : Nat} {lost : Bool} {bs : List Byte} {d : W256} {n : Nat} (hd : s.stackedCheck b = .corrected d n)
    (ht : s.tableBlock b = some (lost, bs)) (hbs : BitVec.ofNat 256 (leNat bs) = d) :
    SameBytes s { s with stacked := { s.stacked with bad := s.stacked.bad.filter (fun e => e.1 != b) } } := by
  intro c
  by_cases h : c = b
  · subst h
    cases lost with
    | true => simp [State.stackedCheck, ht] at hd
    | false =>
      have hclean : State.stackedCheck { s with stacked := { s.stacked with bad := s.stacked.bad.filter (fun e => e.1 != c) } } c
          = .clean d := by
        have ht' : State.tableBlock { s with stacked := { s.stacked with bad := s.stacked.bad.filter (fun e => e.1 != c) } } c
            = some (false, bs) := ht
        simp only [State.stackedCheck, ht', lookup_filter_self, hbs]
      rw [hclean, hd]
      rfl
  · have hbad := lookup_filter_ne s.stacked.bad h
    have hstored : Ram.stored { s.stacked with bad := s.stacked.bad.filter (fun e => e.1 != b) } c = s.stacked.stored c := by
      simp only [Ram.stored, hbad]
      rfl
    rw [stackedCheck_congr (s := s)
      (t := { s with stacked := { s.stacked with bad := s.stacked.bad.filter (fun e => e.1 != b) } }) rfl hstored hbad]

end SameBytes

theorem mendStacked_sameBytes (s : State) (b : Nat) : SameBytes s (s.mendStacked b) := by
  unfold State.mendStacked
  cases hd : s.stackedCheck b with
  | corrected d n =>
    cases ht : s.tableBlock b with
    | none => exact .putBlock (by rw [hd]; rfl) ht
    | some x =>
      dsimp only
      split
      · exact .eraseBad hd ht ‹_›
      · exact .refl s
  | _ => exact .refl s

theorem repairRow_sameBytes (s : State) (g : RegionId) (addr : Nat) : SameBytes s (s.repairRow g addr) := by
  unfold State.repairRow
  dsimp only
  split
  · exact .refl s
  · split
    · exact ((SameBytes.foldl mendStacked_sameBytes _ s).trans (.updRegion _ g _)).trans (.logEv _ _)
    · exact .logEv _ _

theorem rowError_sameBytes (s : State) (g : RegionId) (addr : Nat) : SameBytes s (s.rowError g addr) := by
  unfold State.rowError
  dsimp only
  split
  · exact (SameBytes.updRegion s g _).trans (repairRow_sameBytes _ _ _)
  · exact .updRegion s g _

theorem noteBlockBy_sameBytes (s : State) (src unit : Nat) (l : Loc) (c : Checked) : SameBytes s (s.noteBlockBy src unit l c) := by
  unfold State.noteBlockBy
  cases c with
  | clean _ => exact .refl s
  | unwritten => exact .logEv _ _
  | corrected _ b =>
    dsimp only
    split
    · exact (SameBytes.updCnt s _ _).trans (.logLimited _ _ _ _)
    · exact ((SameBytes.updCnt s _ _).trans (.logLimited _ _ _ _)).trans (rowError_sameBytes _ _ _)
  | error =>
    dsimp only
    split
    · exact (SameBytes.updCnt s _ _).trans (.logEv _ _)
    · exact ((SameBytes.updCnt s _ _).trans (.logEv _ _)).trans (repairRow_sameBytes _ _ _)

theorem noteRead_sameBytes (s : State) (l : Loc) (len : Nat) : SameBytes s (s.noteRead l len) := by
  unfold State.noteRead
  split
  · dsimp only
    split
    · exact (SameBytes.foldl (fun s _ => noteBlockBy_sameBytes s _ _ _ _) _ s).trans (.updCnt _ _ _)
    · exact SameBytes.foldl (fun s _ => noteBlockBy_sameBytes s _ _ _ _) _ s
  · exact .refl s

end Sys2Proof.Machine
end

section
/-! PROOF. Requests to parts of this device: their service, their replies, their retries (17, R331, R332; 15, R277, R283, R284; logs 62, 149). -/

namespace Sys2Proof.Machine

/-! ## A whole block written -/

theorem noteParts_nil (s : State) (l : Loc) : s.noteParts l [] = s := by
  unfold State.noteParts
  split <;> rfl

/-- A whole block is read nowhere first. -/
theorem partBlocks_block (a : Nat) : partBlocks (a / 32 * 32) 32 = [] := by
  have hcovers : covers (a / 32) (a / 32 * 32) 32 = true := by
    simp only [covers, Bool.and_eq_true, decide_eq_true_eq]
    omega
  have hblocks : blocksOf (a / 32 * 32) 32 = [a / 32] := by
    have hone : (a / 32 * 32 + 32 - 1) / 32 - a / 32 * 32 / 32 + 1 = 1 := by omega
    simp only [blocksOf, hone]
    simp
  rw [partBlocks, hblocks, List.filter_cons_of_neg (by simp [hcovers]), List.filter_nil]

theorem writeLoc_region_block {s t : State} {a v : Nat} (h : s.writeLoc (.region (a / 32 * 32)) (leBytes 32 v) = .ok t) :
    ∃ m, t = { s with regionMem := m } := by
  unfold State.writeLoc at h
  simp only [leBytes_length, Loc.addr, partBlocks_block, noteParts_nil, State.ramOf] at h
  split at h
  · exact nomatch h
  · split at h
    · cases h
      exact ⟨_, rfl⟩
    · exact nomatch h

theorem writeLoc_stacked_block {s t : State} {a v : Nat} (h : s.writeLoc (.stacked (a / 32 * 32)) (leBytes 32 v) = .ok t) :
    ∃ m rs, t = { s with stacked := m, regions := rs } := by
  unfold State.writeLoc at h
  simp only [leBytes_length, Loc.addr, partBlocks_block, noteParts_nil, State.ramOf] at h
  split at h
  · exact nomatch h
  · split at h
    · cases h
      exact ⟨_, _, rfl⟩
    · exact nomatch h

/-! ## The access of a request -/

/-- The block of a request lies in a region's memory (R296, R297). -/
def State.blockIn (s : State) (r : FabricReq) (g : RegionId) : Prop :=
  if r.sram then r.addr / 32 * 32 / regionBytes = g.val else s.stackedOk (r.addr / 32 * 32) = true ∧ r.addr / 32 * 32 / stackSpan = g.val

/-- What the access of a request may change, and what it leaves of each memory. -/
structure Accessed (r : FabricReq) (s t : State) : Prop where
  frame : t = { s with regionMem := t.regionMem, stacked := t.stacked, regions := t.regions, log := t.log, hif := t.hif, reply := t.reply }
  regionMem : r.sram = false → t.regionMem = s.regionMem
  stacked : r.sram = true → SameBytes s t
  read : r.data = none → t.regionMem = s.regionMem ∧ SameBytes s t

theorem Accessed.reply (r : FabricReq) (s : State) (bs : List Byte) : Accessed r s { s with reply := bs } :=
  ⟨rfl, fun _ => rfl, fun _ _ => rfl, fun _ => ⟨rfl, fun _ => rfl⟩⟩

/-- The notes of a read, and a reply. -/
theorem Accessed.of_notes (r : FabricReq) {s u : State} (hn : NotesOnly s u) (hb : SameBytes s u) (bs : List Byte) :
    Accessed r s { u with reply := bs } := by
  have hm : u.regionMem = s.regionMem := by rw [hn.1]
  exact ⟨by rw [hn.1], fun _ => hm, fun _ => hb, fun _ => ⟨hm, hb⟩⟩

theorem Accessed.of_write {r : FabricReq} {s u : State} {d : W256} (hd : r.data = some d)
    (h : s.writeLoc (reqLoc r) (leBytes 32 d.toNat) = .ok u) (bs : List Byte) : Accessed r s { u.transitWrite r with reply := bs } := by
  cases hs : r.sram with
  | true =>
    simp only [reqLoc, hs, if_true] at h
    obtain ⟨m, rfl⟩ := writeLoc_region_block h
    unfold State.transitWrite
    simp only [hs, if_true]
    split <;> exact ⟨rfl, fun e => (nomatch hs.symm.trans e), fun _ _ => rfl, fun e => (nomatch hd.symm.trans e)⟩
  | false =>
    simp only [reqLoc, hs, Bool.false_eq_true, if_false] at h
    obtain ⟨m, rs, rfl⟩ := writeLoc_stacked_block h
    unfold State.transitWrite
    simp only [hs, Bool.false_eq_true, if_false]
    split <;> exact ⟨rfl, fun _ => rfl, fun e => (nomatch hs.symm.trans e), fun e => (nomatch hd.symm.trans e)⟩

theorem transitRead_accessed (s : State) (r : FabricReq) : Accessed r s (s.transitRead r) := by
  unfold State.transitRead
  split
  · exact .reply r s []
  · exact .of_notes r (noteBlockBy_notes ..) (noteBlockBy_sameBytes _ _ _ _ _) _

theorem fabricAccess_accessed (s : State) (r : FabricReq) : Accessed r s (s.fabricAccess r) := by
  unfold State.fabricAccess
  split
  next g _ =>
    by_cases hb : s.blockIn r g <;> unfold State.blockIn at hb
    · dsimp only
      rw [if_neg (not_not.2 hb)]
      split
      · split
        · exact .of_write ‹_› ‹_› []
        · exact .reply r s []
      · split
        · exact transitRead_accessed s r
        · split <;> exact .of_notes r (noteRead_notes ..) (noteRead_sameBytes _ _ _) _
    · dsimp only
      rw [if_pos hb]
      exact .reply r s []
  next => exact .reply r s []

section
variable {s : State} {r : FabricReq} {g : RegionId} (ht : r.target = .region g) (hb : s.blockIn r g)
include ht hb

theorem fabricAccess_write {d : W256} (hd : r.data = some d) {u : State} (h : s.writeLoc (reqLoc r) (leBytes 32 d.toNat) = .ok u) :
    s.fabricAccess r = { u.transitWrite r with reply := [] } := by
  unfold State.blockIn at hb
  simp only [State.fabricAccess, ht, hb, not_true_eq_false, if_false, hd, h]

theorem fabricAccess_read (hd : r.data = none) (hf : r.flips = 0) {bs : List Byte} (h : s.readLoc (reqLoc r) 32 = .ok bs) :
    s.fabricAccess r = { s.noteRead (reqLoc r) 32 with reply := bs } := by
  unfold State.blockIn at hb
  simp only [State.fabricAccess, ht, hb, not_true_eq_false, if_false, hd, hf, ne_eq, h]

theorem fabricAccess_transit (hd : r.data = none) (hf : r.flips ≠ 0) : s.fabricAccess r = s.transitRead r := by
  unfold State.blockIn at hb
  simp only [State.fabricAccess, ht, hb, not_true_eq_false, if_false, hd, hf, ne_eq, not_false_eq_true, if_true]

omit ht in
/-- A block of a region in service answers. -/
theorem locErr_reqLoc (hs : s.regionState g = .inService) : s.locErr (reqLoc r) = none := by
  have hg : regionN g.val = g := Fin.ext (Nat.mod_eq_of_lt g.isLt)
  unfold State.blockIn at hb
  cases h : r.sram with
  | true =>
    rw [if_pos h] at hb
    simp only [reqLoc, h, if_true, State.locErr, Loc.home, hb, hg, hs]
  | false =>
    rw [if_neg (by simp [h])] at hb
    simp only [reqLoc, h, Bool.false_eq_true, if_false, State.locErr, Loc.home, hb.2, hg, hs]

omit ht in
theorem transitRead_reply (hs : s.regionState g = .inService) :
    (s.transitRead r).reply = ((weaveDecode ((s.travelling r).flip r.flips)).bytes).getD [] := by
  simp only [State.transitRead, locErr_reqLoc hb hs]

end

/-! ## Replies on their way -/

/-- Paths inside the package follow the parts' entries, the fenced edges and the fenced segments. -/
theorem path_congr {s t : State} (he : t.epochs = s.epochs) (hd : t.edgeFenced = s.edgeFenced) (hs : t.segFenced = s.segFenced)
    (a b : Part) (mem : Fin 7) : t.path a b mem = s.path a b mem := by
  have hring : t.ring = s.ring := by
    funext d x y
    unfold State.ring State.ringUp State.ringCut State.segCut
    simp only [hs]
  have hcut (l : List Bool) (d : DieId) : t.cutOn d l = s.cutOn d l := by
    induction l generalizing d with
    | nil => rfl
    | cons h l ih => simp only [State.cutOn, ih, State.edgeCut, hd, State.part, he]
  have hroute : t.dieRoute = s.dieRoute := by
    funext x y
    simp only [State.dieRoute, hcut]
  have hacross (l : List Bool) (d : DieId) (st dest : Fin 8) : t.acrossDies d st l dest = s.acrossDies d st l dest := by
    induction l generalizing d st with
    | nil => simp only [State.acrossDies, hring]
    | cons h l ih => simp only [State.acrossDies, hring, ih]
  unfold State.path
  simp only [hring, hroute, hacross]

theorem Accessed.replyPath {r : FabricReq} {s t : State} (h : Accessed r s t) : t.replyPath r = s.replyPath r := by
  unfold State.replyPath
  rw [path_congr] <;> rw [h.frame]

theorem send_frame (s : State) (id cls : Nat) (prio : PrioClass) (bytes : Nat) (path : List FabLink) (chan : Option Nat) (write : Bool)
    (age : Nat) (vc : Fin 3) : s.send id cls prio bytes path chan write age vc
      = { s with slots := (s.send id cls prio bytes path chan write age vc).slots } := by
  unfold State.send
  split <;> rfl

theorem sendReply_frame (s : State) (r : FabricReq) : s.sendReply r = { s with slots := (s.sendReply r).slots } := send_frame ..

/-- A reply waits at the first link of its path. -/
theorem sendReply_waiting {s : State} {r : FabricReq} {l : FabLink} {rest : List FabLink} (h : s.replyPath r = l :: rest) :
    ∃ x, (s.sendReply r).slots.waiting = s.slots.waiting ++ [x] ∧ x.link = l ∧ x.rest = rest ∧ x.id = r.id ∧ x.cls = 0 ∧ x.prio = r.prio
      ∧ x.promoted = false ∧ x.since = s.timeNs ∧ x.born = s.timeNs := by
  simp only [State.sendReply, State.send, h, State.updSlots_slots]
  exact ⟨_, rfl, rfl, rfl, rfl, rfl, rfl, rfl, rfl, rfl⟩

/-! ## A request at its station -/

theorem station_served {s : State} {r : FabricReq} (h : s.stateOf r.target = .inService ∧ r.epoch = (s.part r.target).epoch) :
    s.station r = ((s.fabricAccess r).sendReply r, true) := by
  simp only [State.station, h.1, h.2, decide_true, beq_self_eq_true, Bool.and_self, if_true]

theorem station_absent {s : State} {r : FabricReq} (h : ¬ (s.stateOf r.target = .inService ∧ r.epoch = (s.part r.target).epoch)) :
    s.station r = (s.logAbsent r.target, false) := by
  have hno : (decide (s.stateOf r.target = .inService) && r.epoch == (s.part r.target).epoch) = false := by
    rw [Bool.eq_false_iff]
    simpa [Bool.and_eq_true] using h
  simp only [State.station, hno, Bool.false_eq_true, if_false]

theorem logAbsent_frame (s : State) (p : Part) : s.logAbsent p = { s with log := (s.logAbsent p).log, hif := (s.logAbsent p).hif } :=
  logLimited_frame ..

/-- A PART_ABSENT answer is logged, below the limit. -/
theorem logAbsent_recs {s : State} (p : Part) (h : s.limitCount (9 * 2 ^ 32) < 256) : ∃ x, (s.logAbsent p).log.recs = List.take 8192 (x :: s.log.recs)
    ∧ x.source = 9 ∧ x.cause = 0 ∧ x.unit = partUnit p ∧ x.epoch = (s.part p).epoch := by
  simp only [State.logAbsent, State.logLimited, h, if_true, logEv_recs]
  exact ⟨_, rfl, rfl, rfl, rfl, rfl⟩

theorem station_fabric (s : State) (r : FabricReq) : (s.station r).1.fabric = s.fabric := by
  by_cases h : s.stateOf r.target = .inService ∧ r.epoch = (s.part r.target).epoch
  · rw [station_served h, sendReply_frame, (fabricAccess_accessed s r).frame]
  · rw [station_absent h, logAbsent_frame]

/-- No earlier request of its class waits for its part. -/
def State.free (s : State) (r : FabricReq) : Prop := ∀ w ∈ s.fabric, w.stage = .absent → sameClass w.req r = false

theorem exec_fabricRequest (s : State) (r : FabricReq) : exec (.fabricRequest r) s = .next (s.request r) := rfl

theorem any_absent_eq_false {s : State} {r : FabricReq} (h : s.free r) :
    s.fabric.any (fun w => w.stage == .absent && sameClass w.req r) = false := by
  rw [List.any_eq_false]
  intro w hw
  by_cases e : w.stage = .absent
  · simp [h w hw e]
  · simp [e]

theorem request_served {s : State} {r : FabricReq} (hn : s.remoteNode r = none) (hfree : s.free r)
    (h : s.stateOf r.target = .inService ∧ r.epoch = (s.part r.target).epoch) :
    s.request r = ((s.fabricAccess r).sendReply r).addWait r .served none := by
  simp only [State.request, hn, any_absent_eq_false hfree, station_served h, Bool.false_eq_true, if_false, if_true]

theorem request_absent {s : State} {r : FabricReq} (hn : s.remoteNode r = none) (hfree : s.free r)
    (h : ¬ (s.stateOf r.target = .inService ∧ r.epoch = (s.part r.target).epoch)) :
    s.request r = (s.logAbsent r.target).addWait r .absent none := by
  simp only [State.request, hn, any_absent_eq_false hfree, station_absent h, Bool.false_eq_true, if_false]

theorem request_behind {s : State} {r : FabricReq} {w : FabricWait} (hn : s.remoteNode r = none) (hw : w ∈ s.fabric) (ha : w.stage = .absent)
    (hc : sameClass w.req r = true) : s.request r = s.addWait r .behind none := by
  have hany : s.fabric.any (fun w => w.stage == .absent && sameClass w.req r) = true := List.any_eq_true.2 ⟨w, hw, by simp [ha, hc]⟩
  simp only [State.request, hn, hany, if_true]

/-- A request's stage once it has been at its station. -/
def State.stageOf (s : State) (r : FabricReq) : FabricStage :=
  if s.stateOf r.target = .inService ∧ r.epoch = (s.part r.target).epoch then .served else .absent

theorem request_fabric {s : State} {r : FabricReq} (hn : s.remoteNode r = none) (hfree : s.free r) :
    (s.request r).fabric = s.fabric ++ [{ req := r, stage := s.stageOf r, via := none }] := by
  have hst := station_fabric s r
  unfold State.stageOf
  by_cases h : s.stateOf r.target = .inService ∧ r.epoch = (s.part r.target).epoch
  · rw [station_served h] at hst
    rw [request_served hn hfree h, if_pos h, State.addWait, hst]
  · rw [station_absent h] at hst
    rw [request_absent hn hfree h, if_neg h, State.addWait, hst]

/-- What a served request leaves beside its reply's transfer and its own entry. -/
theorem request_served_frame {s : State} {r : FabricReq} (hn : s.remoteNode r = none) (hfree : s.free r)
    (h : s.stateOf r.target = .inService ∧ r.epoch = (s.part r.target).epoch) :
    s.request r = { s.fabricAccess r with
      slots := (s.request r).slots
      fabric := s.fabric ++ [{ req := r, stage := .served, via := none }] } := by
  have ha : (s.fabricAccess r).fabric = s.fabric := by rw [(fabricAccess_accessed s r).frame]
  have hsend := sendReply_frame (s.fabricAccess r) r
  rw [request_served hn hfree h, State.addWait]
  generalize (s.fabricAccess r).sendReply r = v at hsend ⊢
  rw [hsend, ← ha]

theorem request_served_waiting {s : State} {r : FabricReq} (hn : s.remoteNode r = none) (hfree : s.free r)
    (h : s.stateOf r.target = .inService ∧ r.epoch = (s.part r.target).epoch) {l : FabLink} {rest : List FabLink}
    (hp : s.replyPath r = l :: rest) :
    ∃ x, (s.request r).slots.waiting = s.slots.waiting ++ [x] ∧ x.link = l ∧ x.rest = rest ∧ x.id = r.id ∧ x.cls = 0 ∧ x.prio = r.prio
      ∧ x.promoted = false ∧ x.since = s.timeNs ∧ x.born = s.timeNs := by
  have ha := fabricAccess_accessed s r
  have hsend := sendReply_waiting (s := s.fabricAccess r) (ha.replyPath.trans hp)
  rw [request_served hn hfree h, State.addWait]
  rw [ha.frame] at hsend ⊢
  exact hsend

/-! ## Requests made again -/

theorem again_of_none {s : State} {mine : FabricWait → Bool} (h : ∀ w ∈ s.fabric, mine w = false) (f : FabricReq → FabricReq) :
    s.again mine f = s := by
  have hnone : s.fabric.filter mine = [] := List.filter_eq_nil_iff.2 fun w hw => by simp [h w hw]
  have hall : s.fabric.filter (fun w => !mine w) = s.fabric := List.filter_eq_self.2 fun w hw => by simp [h w hw]
  simp only [State.again, hnone, hall, List.foldl_nil]

theorem again_of_one {s : State} {mine : FabricWait → Bool} {w : FabricWait} (hs : s.fabric = [w]) (h : mine w = true)
    (f : FabricReq → FabricReq) : s.again mine f = State.request { s with fabric := [] } (f w.req) := by
  simp [State.again, hs, h]

/-- No request to another device is held back behind others. -/
theorem tryAway_of_none {s : State} (h : ∀ w ∈ s.fabric, w.stage = .behind → s.remoteNode w.req = none) : s.tryAway false = s := by
  refine again_of_none (fun w hw => ?_) id
  by_cases hb : w.stage = .behind
  · simp [h w hw hb]
  · simp [hb]

/-- A request made again where no other waits. -/
theorem request_alone {s : State} {r : FabricReq} (hn : s.remoteNode r = none) :
    (State.request { s with fabric := [] } r).fabric = [{ req := r, stage := s.stageOf r, via := none }] :=
  request_fabric (s := { s with fabric := [] }) hn (fun _ hw => nomatch hw)

/-! ## Replies that arrive -/

section
variable {s : State} {id : Nat} {w : FabricWait} (hfind : s.fabric.find? (fun w => w.req.id == id && w.stage == .served) = some w)
  (hwait : ∀ x ∈ s.slots.waiting, x.id = id → x.cls ≠ 0)
include hfind hwait

/-- A reply whose transfer has come all its way: it ends its request, and with another epoch makes it again. -/
theorem exec_fabricReply (e : W16) : exec (.fabricReply id e) s = .next
    ((if e = w.req.epoch then { s with fabric := s.fabric.filter (fun x => !(x.req.id == id && x.stage == .served)) }
      else State.request { s with fabric := s.fabric.filter (fun x => !(x.req.id == id && x.stage == .served)) }
        { w.req with epoch := e }).tryAway false) := by
  have hany : s.slots.waiting.any (fun x => x.id == id && x.cls == clsCOMPUTE) = false := by
    rw [List.any_eq_false]
    intro x hx
    by_cases he : x.id = id
    · simp [clsCOMPUTE, hwait x hx he]
    · simp [he]
  simp only [exec, execFabricReply, hany, Bool.false_eq_true, if_false, hfind]

theorem exec_fabricReply_ends (hbehind : ∀ x ∈ s.fabric, x.stage = .behind → s.remoteNode x.req = none) :
    exec (.fabricReply id w.req.epoch) s
      = .next { s with fabric := s.fabric.filter (fun x => !(x.req.id == id && x.stage == .served)) } := by
  rw [exec_fabricReply hfind hwait, if_pos rfl, tryAway_of_none]
  exact fun x hx => hbehind x (List.mem_of_mem_filter hx)

theorem exec_fabricReply_reissues {e : W16} (he : e ≠ w.req.epoch) (hs : s.fabric = [w]) (hn : s.remoteNode w.req = none) :
    ∃ t, exec (.fabricReply id e) s = .next t
      ∧ t.fabric = [{ req := { w.req with epoch := e }, stage := s.stageOf { w.req with epoch := e }, via := none }] := by
  have hempty : s.fabric.filter (fun x => !(x.req.id == id && x.stage == .served)) = [] := by
    have hw := List.find?_some hfind
    simp only [Bool.and_eq_true, beq_iff_eq] at hw
    simp [hs, hw]
  have hfabric := request_alone (s := s) (r := { w.req with epoch := e }) hn
  refine ⟨_, exec_fabricReply hfind hwait e, ?_⟩
  rw [if_neg he, hempty, tryAway_of_none]
  · exact hfabric
  · rw [hfabric]
    intro x hx hb
    rw [List.mem_singleton.1 hx] at hb
    unfold State.stageOf at hb
    split at hb <;> exact nomatch hb

end

/-! ## Requests whose part is away, tried again -/

theorem exec_partAbsentRetry_fenced {s : State} {p : Part} (h : s.stateOf p = .fenced) : exec (.partAbsentRetry p) s = .next s := by
  simp only [exec, execPartAbsentRetry, h]

/-- What a record under a limit may touch. -/
def LogOnly (s t : State) : Prop := t = { s with log := t.log, hif := t.hif }

theorem foldl_logAbsent_logOnly (l : List FabricWait) (s : State) (p : Part) : LogOnly s (l.foldl (fun s _ => s.logAbsent p) s) := by
  refine foldl_within (R := LogOnly) (fun _ => rfl) (fun a b => ?_) (fun s _ => logAbsent_frame s p) l s
  unfold LogOnly at *
  rw [b, a]

theorem exec_partAbsentRetry_resetting {s : State} {p : Part} (h : s.stateOf p = .resetting) :
    ∃ t, exec (.partAbsentRetry p) s = .next t ∧ LogOnly s t := by
  simp only [exec, execPartAbsentRetry, h]
  exact ⟨_, rfl, foldl_logAbsent_logOnly _ s p⟩

theorem exec_partAbsentRetry_inService {s : State} {w : FabricWait} (h : s.stateOf w.req.target = .inService) (hs : s.fabric = [w])
    (hn : s.remoteNode w.req = none) (ha : w.stage = .absent) : ∃ t, exec (.partAbsentRetry w.req.target) s = .next t
      ∧ t.fabric = [{ req := { w.req with epoch := (s.part w.req.target).epoch }, stage := .served, via := none }] := by
  have hfabric := request_alone (s := s) (r := { w.req with epoch := (s.part w.req.target).epoch }) hn
  rw [State.stageOf, if_pos ⟨h, rfl⟩] at hfabric
  simp only [exec, execPartAbsentRetry, h, State.reissue]
  refine ⟨_, rfl, ?_⟩
  rw [again_of_one hs (by simp [ha, hn])]
  exact hfabric

end Sys2Proof.Machine
end

section
/-! PROOF. The way between dies and round a die's ring (02, R24, R25; log 118). -/

namespace Sys2Proof.Machine

/-! ## Between dies (R24) -/

/-- The edges that traffic between two dies crosses first: the horizontal one before the vertical one. -/
def firstWay (a b : DieId) : List Bool :=
  (if a.val % 2 = b.val % 2 then [] else [true]) ++ (if a.val / 2 = b.val / 2 then [] else [false])

/-- The other way round the four dies. -/
def otherWay : List Bool → List Bool
  | [x] => [!x, x, !x]
  | [true, false] => [false, true]
  | _ => []

theorem dieRoute_eq (s : State) (a b : DieId) : s.dieRoute a b
    = if s.cutOn a (firstWay a b) && !s.cutOn a (otherWay (firstWay a b)) then otherWay (firstWay a b) else firstWay a b := by
  unfold State.dieRoute firstWay
  by_cases h : a.val % 2 = b.val % 2 <;> by_cases v : a.val / 2 = b.val / 2 <;> simp [h, v, otherWay]

theorem dieRoute_of_open {s : State} {a b : DieId} (h : s.cutOn a (firstWay a b) = false) : s.dieRoute a b = firstWay a b := by
  simp [dieRoute_eq, h]

theorem dieRoute_of_cut {s : State} {a b : DieId} {l : List Bool} (hl : firstWay a b = l) (h : s.cutOn a l = true)
    (ho : s.cutOn a (otherWay l) = false) : s.dieRoute a b = otherWay l := by
  subst hl
  simp [dieRoute_eq, h, ho]

theorem cutOn_of_none_fenced {s : State} (he : ∀ e : Fin 4, s.edgeFenced[e] = false) (hd : ∀ d : DieId, (s.part (.die d)).state ≠ .fenced)
    (l : List Bool) (d : DieId) : s.cutOn d l = false := by
  induction l generalizing d with
  | nil => rfl
  | cons h l ih => simp [State.cutOn, State.edgeCut, he, hd, ih]

/-! ## Round the ring (R25) -/

theorem ringWalk_length (up : Bool) (n : Nat) (st : Fin 8) : (ringWalk up n st).length = n := by
  induction n generalizing st with
  | zero => rfl
  | succ n ih => simp [ringWalk, ih]

/-- With no segment fenced the shorter way is taken, the rising one on a tie of four hops. -/
theorem ringUp_of_none_fenced {s : State} (h : ∀ i : Fin 32, s.segFenced[i] = false) (d : DieId) (a b : Fin 8) :
    s.ringUp d a b = decide ((b.val + 8 - a.val) % 8 ≤ 4) := by
  have hseg (st : Fin 8) : s.segCut d st = false := h ⟨8 * d.val + st.val, by omega⟩
  have hcut (up : Bool) : s.ringCut d a b up = false := by simp [State.ringCut, hseg]
  have hshort : (ringHops a b true ≤ ringHops a b false) ↔ (b.val + 8 - a.val) % 8 ≤ 4 := by
    simp only [ringHops, if_true, Bool.false_eq_true, if_false]
    omega
  simp [State.ringUp, hcut, hshort]

theorem ringHops_shorter (a b : Fin 8) :
    ringHops a b (decide ((b.val + 8 - a.val) % 8 ≤ 4)) = min ((b.val + 8 - a.val) % 8) ((a.val + 8 - b.val) % 8) := by
  unfold ringHops
  by_cases h : (b.val + 8 - a.val) % 8 ≤ 4
  · simp only [h, decide_true, if_true]
    omega
  · simp only [h, decide_false, Bool.false_eq_true, if_false]
    omega

theorem ring_length {s : State} (h : ∀ i : Fin 32, s.segFenced[i] = false) (d : DieId) (a b : Fin 8) :
    (s.ring d a b).length = min ((b.val + 8 - a.val) % 8) ((a.val + 8 - b.val) % 8) := by
  rw [State.ring, List.length_map, ringWalk_length, ringUp_of_none_fenced h, ringHops_shorter]

theorem ring_segments {s : State} (h : ∀ i : Fin 32, s.segFenced[i] = false) (d : DieId) (a b : Fin 8) {l : FabLink} (hl : l ∈ s.ring d a b) :
    ∃ st, l = .segment d st (decide ((b.val + 8 - a.val) % 8 ≤ 4)) := by
  obtain ⟨st, _, rfl⟩ := List.mem_map.1 hl
  exact ⟨st, by rw [ringUp_of_none_fenced h]⟩

end Sys2Proof.Machine
end

section
/-! PROOF. Time slots and what they carry (02, R27 to R31, R34; 15, R283, R284; 17, R330; 19, R377; logs 39, 119 to 121). -/

namespace Sys2Proof.Machine

/-! ## The table's next entry -/

theorem effect_frame (t : TimeSlots) : t.effect = { t with
    active := t.effect.active, copied := t.effect.copied, framesLeft := t.effect.framesLeft, commits := t.effect.commits, err := t.effect.err } := by
  unfold TimeSlots.effect
  split
  · split <;> rfl
  · rfl

theorem next_slot (t : TimeSlots) : t.next.slot = (t.slot + 1) % 256 := by
  unfold TimeSlots.next
  rw [effect_frame]

theorem next_waiting (t : TimeSlots) : t.next.waiting = t.waiting := by
  unfold TimeSlots.next
  rw [effect_frame]
  dsimp only
  split <;> rfl

theorem next_frames (t : TimeSlots) : t.next.frames = if t.next.slot = 0 then t.frames + 1 else t.frames := by
  rw [next_slot]
  unfold TimeSlots.next
  rw [effect_frame]
  dsimp only
  split <;> rfl

/-! ## Device time -/

theorem slotNs_le (count : Nat) (slew : Int) : (slotNs count slew).1 ≤ 5 := by
  unfold slotNs
  split
  · simp
  · split <;> simp

theorem tick_timeNs_le (s : State) : s.tick.timeNs ≤ s.timeNs + 5 := Nat.add_le_add_left (slotNs_le _ _) _

/-- Where no offset is slewed a time slot is 4 ns. -/
theorem tick_of_settled {s : State} (h : s.tim.slewNs = 0) : s.tick = { s with timeNs := s.timeNs + 4 } := by
  have hns (n : Nat) : slotNs n 0 = (4, 0) := by simp [slotNs]
  simp only [State.tick, h, hns]
  rw [← h]

/-! ## What a time slot may change beside the table's entry and the time -/

/-- The transfers, and what their loss and their service count and log. -/
def Moved (s t : State) : Prop :=
  t = { s with slots := { s.slots with waiting := t.slots.waiting }, regions := t.regions, fabric := t.fabric, darit := t.darit, log := t.log }

namespace Moved

variable {s t u : State}

theorem refl (s : State) : Moved s s := rfl

theorem trans (a : Moved s t) (b : Moved t u) : Moved s u := by
  unfold Moved at *
  rw [b, a]

theorem foldl {β : Type} {f : State → β → State} (hf : ∀ s b, Moved s (f s b)) (l : List β) (s : State) : Moved s (l.foldl f s) :=
  foldl_within refl trans hf l s

end Moved

theorem logLimited_frame_quiet (s : State) (key max : Nat) {a : LogArgs} (h : a.status = 0) :
    s.logLimited key max a = { s with log := (s.logLimited key max a).log } := by
  unfold State.logLimited
  dsimp only
  split
  · rw [logEv_frame_quiet s h]
  · rfl

theorem dropTransfers_moved (s : State) (p : Transfer → Bool) : Moved s (s.dropTransfers p) := by
  unfold State.dropTransfers
  dsimp only
  split
  · exact .refl s
  · rfl

theorem dropAged_moved (s : State) (unit : Nat) : Moved s (s.dropAged unit) := by
  unfold State.dropAged
  rw [logLimited_frame_quiet _ _ _ rfl]
  rfl

theorem dropOld_moved (s : State) : Moved s s.dropOld :=
  (dropTransfers_moved s _).trans (.foldl (fun s _ => dropAged_moved s _) _ _)

theorem turnBus_moved (s : State) (t : Transfer) : Moved s (s.turnBus t) := by
  unfold State.turnBus
  split
  · dsimp only
    split <;> rfl
  · rfl

theorem turnBus_slots (s : State) (t : Transfer) : (s.turnBus t).slots = s.slots := by
  unfold State.turnBus
  split
  · dsimp only
    split <;> rfl
  · rfl

theorem sendFlit_moved (s : State) (t : Transfer) : Moved s (s.sendFlit t) := by
  unfold State.sendFlit
  split <;> rfl

theorem sendFlit_slots (s : State) (t : Transfer) : (s.sendFlit t).slots = s.slots := by
  unfold State.sendFlit
  split <;> rfl

theorem foldl_slots {f : State → Transfer → State} (hf : ∀ s t, (f s t).slots = s.slots) (l : List Transfer) (s : State) :
    (l.foldl f s).slots = s.slots := by
  induction l generalizing s with
  | nil => rfl
  | cons t l ih => rw [List.foldl_cons, ih, hf]

/-- The transfers that the links grant a time slot of a class. -/
def State.grantees (s : State) (cls : Nat) : List Transfer :=
  ((s.slots.waiting.map Transfer.link).eraseDups).filterMap (s.granted cls)

theorem grants_waiting (s : State) (cls : Nat) : (s.grants cls).slots.waiting = (s.grantees cls).foldl s.serve s.slots.waiting := by
  have h : ((s.grantees cls).foldl State.sendFlit ((s.grantees cls).foldl State.turnBus s)).slots = s.slots :=
    (foldl_slots sendFlit_slots _ _).trans (foldl_slots turnBus_slots _ _)
  unfold State.grantees at *
  simp only [State.grants, State.updSlots_slots, h]

theorem updWaiting_moved (s : State) (f : List Transfer → List Transfer) :
    Moved s (s.updSlots (fun x => { x with waiting := f x.waiting })) := rfl

theorem grants_moved (s : State) (cls : Nat) : Moved s (s.grants cls) := by
  unfold State.grants
  dsimp only
  refine .trans ?_ (updWaiting_moved _ (fun l => (s.grantees cls).foldl s.serve l))
  exact .trans (.foldl turnBus_moved _ s) (.foldl sendFlit_moved _ _)

/-! ## One transfer alone -/

theorem pickOne_one (x : Transfer) : pickOne [x] = some x := by
  unfold pickOne
  cases hb : x.begun <;> cases hp : x.promoted <;> cases hl : x.prio == .latency <;> simp [hb, hp, hl]

theorem pickCompute_of_compute {x : Transfer} (h : x.cls = 0) : pickCompute [x] = some x := by
  simp [pickCompute, clsCOMPUTE, h, pickOne_one]

theorem pickCompute_of_background {x : Transfer} (h : x.cls ≠ 0) : pickCompute [x] = none := by
  simp [pickCompute, clsCOMPUTE, h, pickOne]

theorem pickFlit_of_compute {x : Transfer} (h : x.cls = 0) (last : Bool) : pickFlit last [x] = some x := by
  have hfwd : pickOne ([x].filter (fun t => t.cls == clsFORWARD)) = none := by simp [clsFORWARD, h, pickOne]
  cases last <;> simp [pickFlit, pickCompute_of_compute h, hfwd]

/-- A slot of its own class, or a COMPUTE transfer in any slot, serves it. -/
theorem grantOf_served {x : Transfer} {cls : Nat} (h : x.cls = 0 ∨ x.cls = cls) : grantOf cls [x] = some x := by
  unfold grantOf
  by_cases hc : cls = clsCOMPUTE
  · rw [if_pos hc]
    exact pickCompute_of_compute (h.elim id fun e => e.trans hc)
  · rw [if_neg hc]
    by_cases he : x.cls = cls
    · simp [he]
    · simp [he, pickCompute_of_compute (h.resolve_right he)]

theorem grantOf_waits {x : Transfer} {cls : Nat} (h : x.cls ≠ 0) (he : x.cls ≠ cls) : grantOf cls [x] = none := by
  unfold grantOf
  split
  · exact pickCompute_of_background h
  · simp [he, pickCompute_of_background h]

/-- A transfer whose link no rule of its own keeps back: COMPUTE at a controller with no bus turned to writes or at a region memory,
COMPUTE at a Darit port that is UP, any class at another link. -/
structure Plain (s : State) (x : Transfer) : Prop where
  memory : ∀ g, x.link = .controller g ∨ x.link = .memory g → x.cls = 0
  darit : ∀ p, x.link = .darit p → x.cls = 0 ∧ s.darit.ports[p].st = .up
  bus : ∀ g, x.link = .controller g → s.regions[g].busWrite = []

section
variable {s : State} {x : Transfer} (hw : s.slots.waiting = [x])
include hw

theorem grants_of_waits {cls : Nat} (h : s.granted cls x.link = none) : (s.grants cls).slots.waiting = [x] := by
  have hg : s.grantees cls = [] := by simp [State.grantees, hw, List.eraseDups_cons, h]
  rw [grants_waiting, hg, hw, List.foldl_nil]

theorem grants_of_served {cls : Nat} (h : s.granted cls x.link = some x) :
    (x.beats ≤ s.beatsOf x.link → (s.grants cls).slots.waiting = x.move s.timeNs)
    ∧ (s.beatsOf x.link < x.beats → (s.grants cls).slots.waiting = [{ x with beats := x.beats - s.beatsOf x.link, begun := true }]) := by
  have hg : s.grantees cls = [x] := by simp [State.grantees, hw, List.eraseDups_cons, h]
  rw [grants_waiting, hg, hw, List.foldl_cons, List.foldl_nil, State.serve]
  refine ⟨fun hle => ?_, fun hlt => ?_⟩
  · simp [Nat.not_lt.2 hle]
  · simp [hlt]

variable (hp : Plain s x)
include hp

/-- A lone write at a controller whose bus reads waits for its batch, unless it is promoted. -/
theorem granted_write {cls : Nat} {g : RegionId} (hl : x.link = .controller g) (hwr : x.write = true) (hpr : x.promoted = false) :
    s.granted cls x.link = none := by
  have hone : s.slots.waiting.filter (fun t => t.link == .controller g) = [x] := by simp [hw, hl]
  have hb := hp.bus g hl
  have hready : ¬ readyAt s.regions[g].busWrite [x] x = true := by
    rw [hb]
    simp [readyAt, hwr, hpr]
  simp only [State.granted, hl, hone]
  rw [List.filter_cons_of_neg hready]
  rfl

/-- A background transfer waits for a slot of its class. -/
theorem granted_background {cls : Nat} (h : x.cls ≠ 0) (he : x.cls ≠ cls) : s.granted cls x.link = none := by
  have hone : s.slots.waiting.filter (fun t => t.link == x.link) = [x] := by simp [hw]
  unfold State.granted
  dsimp only
  rw [hone]
  split
  next g hl => exact absurd (hp.memory g (.inl hl)) h
  next g hl => exact absurd (hp.memory g (.inr hl)) h
  next p hl => exact absurd (hp.darit p hl).1 h
  next => exact grantOf_waits h he

theorem granted_served {cls : Nat} (h : x.cls = 0 ∨ x.cls = cls) (hr : ∀ g, x.link = .controller g → x.write = false) :
    s.granted cls x.link = some x := by
  have hone : s.slots.waiting.filter (fun t => t.link == x.link) = [x] := by simp [hw]
  unfold State.granted
  dsimp only
  rw [hone]
  split
  next g hl =>
    have hb := hp.bus g hl
    have hready : readyAt s.regions[g].busWrite [x] x = true := by
      rw [hb]
      simp [readyAt, hr g hl]
    rw [List.filter_cons_of_pos hready, List.filter_nil]
    exact pickCompute_of_compute (hp.memory g (.inl hl))
  next g hl => exact pickCompute_of_compute (hp.memory g (.inr hl))
  next p hl =>
    obtain ⟨hc, hup⟩ := hp.darit p hl
    rw [if_pos hup]
    exact pickFlit_of_compute hc _
  next => exact grantOf_served h

end

/-! ## A time slot -/

/-- The state in which a time slot's links grant it: the time moved, the table's next entry, the old messages discarded. -/
def State.slotBegun (s : State) : State := (s.tick.updSlots TimeSlots.next).dropOld

theorem exec_timeSlotStart (s : State) : exec .timeSlotStart s = .next (s.slotBegun.grants s.slotBegun.slots.cls) := rfl

theorem slotStart_moved (s : State) : Moved (s.tick.updSlots TimeSlots.next) (s.slotBegun.grants s.slotBegun.slots.cls) :=
  (dropOld_moved _).trans (grants_moved _ _)

theorem dropOld_of_young {s : State} (h : ∀ x ∈ s.slots.waiting, x.old s.timeNs = false) : s.dropOld = s := by
  have hgone : s.slots.waiting.filter (fun t => t.old s.timeNs) = [] := List.filter_eq_nil_iff.2 fun x hx => by simp [h x hx]
  have haged : s.slots.waiting.filter (fun t => t.cls == clsFORWARD && t.old s.timeNs) = [] :=
    List.filter_eq_nil_iff.2 fun x hx => by simp [h x hx]
  simp only [State.dropOld, haged, State.dropTransfers, hgone, List.isEmpty_nil, if_true, List.foldl_nil]

theorem slotBegun_of_young {s : State} (h : ∀ x ∈ s.slots.waiting, s.timeNs + 5 + 1000 * x.age ≤ x.born + 1000000) :
    s.slotBegun = s.tick.updSlots TimeSlots.next := by
  refine dropOld_of_young fun x hx => ?_
  have hx := h x (next_waiting s.slots ▸ hx)
  have ht := tick_timeNs_le s
  refine decide_eq_false ?_
  rw [State.updSlots_timeNs]
  omega

end Sys2Proof.Machine
end

section
/-! PROOF. The promotion of bulk transfers, the strobe, and the slot table's commits (02, R31, R33, R34; 15, R284). -/

namespace Sys2Proof.Machine

/-! ## Promotion (R284) -/

theorem exec_bulkPromotion_of_aged {s : State} {x : Transfer} (hw : s.slots.waiting = [x]) (hprio : x.prio = .bulk) (hcls : x.cls = 0)
    (hpr : x.promoted = false) (hage : x.since + s.regions[regionOfLink x.link].bulkAge ≤ s.timeNs) :
    exec (.bulkPromotion x.link x.id) s
      = .next ((s.updSlots (fun t => { t with waiting := [{ x with promoted := true }] })).updCnt (regionOfLink x.link)
          (fun r => { r with memAged := r.memAged + 1 })) := by
  have hhit : (x.link == x.link && x.id == x.id && x.prio == .bulk && x.cls == clsCOMPUTE && !x.promoted
      && decide (x.since + s.regions[regionOfLink x.link].bulkAge ≤ s.timeNs)) = true := by
    rw [decide_eq_true hage, hprio, hcls, hpr]
    simp [clsCOMPUTE]
  simp only [exec, execBulkPromotion, State.updSlots, hw, List.any_cons, List.any_nil, List.map_cons, List.map_nil, hhit, Bool.or_false, if_true]

/-! ## The strobe (R31) -/

theorem exec_strobeLost_of_present {s : State} (h : s.slots.strobeAbsent = false) : exec .strobeLost s
    = .next ((s.updSlots (fun t => { t with strobeAbsent := true, strobeLost := true, aligned := false })).logEv
        { source := 16, cause := 1, unit := wholeUnit }) := by
  simp only [exec, execStrobeLost, h, Bool.false_eq_true, if_false]

theorem exec_strobeLost_of_absent {s : State} (h : s.slots.strobeAbsent = true) : exec .strobeLost s = .next s := by
  simp only [exec, execStrobeLost, h, if_true]

theorem exec_strobeReturn_of_absent {s : State} (h : s.slots.strobeAbsent = true) : exec .strobeReturn s
    = .next ((s.updSlots (fun t => { t with strobeAbsent := false, framesLeft := 2 })).logEv
        { source := 16, cause := 2, unit := wholeUnit }) := by
  simp only [exec, execStrobeReturn, h, if_true]

theorem exec_strobeReturn_of_present {s : State} (h : s.slots.strobeAbsent = false) : exec .strobeReturn s = .next s := by
  simp only [exec, execStrobeReturn, h, Bool.false_eq_true, if_false]

/-- Time slots changed and a record without a status written. -/
theorem updSlots_logEv {s : State} {f : TimeSlots → TimeSlots} {a : LogArgs} (h : a.status = 0) :
    ((s.updSlots f).logEv a).slots = f s.slots
    ∧ (∃ r, ((s.updSlots f).logEv a).log.recs = List.take 8192 (r :: s.log.recs) ∧ r.source = a.source ∧ r.cause = a.cause ∧ r.unit = a.unit)
    ∧ (s.updSlots f).logEv a = { s with slots := ((s.updSlots f).logEv a).slots, log := ((s.updSlots f).logEv a).log } := by
  refine ⟨?_, ⟨_, logEv_recs _ a, rfl, rfl, rfl⟩, ?_⟩
  · rw [logEv_frame_quiet _ h]
    rfl
  · conv_lhs => rw [logEv_frame_quiet _ h]
    rw [logEv_frame_quiet _ h]
    rfl

/-! ## A COMMIT write and a due table (R33, R34) -/

theorem exec_slotTableCommit {s : State} (h : HostPort) (hash : s.pwr.current ≠ 3) (hready : s.isReady = true) :
    exec (.slotTableCommit h) s = .next { s with slots := s.slots.commit } := by
  simp only [exec, execSlotTableCommit, awake_of_not_ash hash, hready, if_true]
  rfl

theorem exec_slotTableEffect (s : State) : exec .slotTableEffect s = .next { s with slots := s.slots.effect } := rfl

theorem effect_of_copied {t : TimeSlots} {c : Vector (BitVec 4) 256} (h : t.copied = some c) :
    t.effect = if t.strobeAbsent = false ∧ t.framesLeft ≤ 1 ∧ t.slot = 255
      then { t with active := c, copied := none, framesLeft := 0, commits := t.commits + 1, err := 0 } else t := by
  have hdue : t.due = true ↔ t.strobeAbsent = false ∧ t.framesLeft ≤ 1 ∧ t.slot = 255 := by simp [TimeSlots.due, h, and_assoc]
  unfold TimeSlots.effect
  rw [h]
  exact if_congr hdue rfl rfl

/-! ## The checks of a copied table (R33) -/

theorem countsOk_iff (x : Vector (BitVec 4) 256) : countsOk x = true ↔
    8 ≤ classCount x 1 ∧ classCount x 1 ≤ 64 ∧ 4 ≤ classCount x 2 ∧ classCount x 2 ≤ 32 ∧ 8 ≤ classCount x 3 ∧ classCount x 3 ≤ 32
      ∧ 2 ≤ classCount x 4 ∧ classCount x 4 ≤ 16 ∧ classCount x 5 ≤ 16 ∧ 128 ≤ classCount x 0 := by
  simp only [countsOk, Bool.and_eq_true, decide_eq_true_eq, and_assoc]

theorem codesOk_iff (x : Vector (BitVec 4) 256) : x.toList.any (fun e => 5 < e.toNat) = false ↔ ∀ i : Fin 256, (x[i]).toNat ≤ 5 := by
  rw [List.any_eq_false]
  constructor
  · intro h i
    simpa using h x[i] (by simp)
  · intro h e he
    obtain ⟨i, hi, rfl⟩ := List.mem_iff_getElem.1 he
    simpa using h ⟨i, by simpa using hi⟩

/-- An entry of a table, counted round its end. -/
theorem getD_mod (x : Vector (BitVec 4) 256) (i : Fin 256) : x.toList.getD (i.val % 256) 0 = x[i] := by
  simp [List.getD_eq_getElem?_getD, Nat.mod_eq_of_lt i.isLt]

theorem runsOk_iff (x : Vector (BitVec 4) 256) : runsOk x = true ↔ ∀ i : Fin 256, x[i] = 0 ∨ x[i + 1] = 0 ∨ x[i + 2] = 0 := by
  have hnext (i : Fin 256) (k : Fin 256) : x.toList.getD ((i.val + k.val) % 256) 0 = x[i + k] := by
    rw [← getD_mod x (i + k), Fin.val_add, Nat.mod_mod]
  have hrow (i : Fin 256) : (!(x.toList.getD (i.val % 256) 0 != 0 && x.toList.getD ((i.val + 1) % 256) 0 != 0
      && x.toList.getD ((i.val + 2) % 256) 0 != 0)) = true ↔ x[i] = 0 ∨ x[i + 1] = 0 ∨ x[i + 2] = 0 := by
    have h1 : x.toList.getD ((i.val + 1) % 256) 0 = x[i + 1] := hnext i 1
    have h2 : x.toList.getD ((i.val + 2) % 256) 0 = x[i + 2] := hnext i 2
    rw [getD_mod, h1, h2]
    simp [Bool.not_and, or_assoc]
  simp only [runsOk, List.all_eq_true, List.mem_range]
  constructor
  · exact fun h i => (hrow i).1 (h i.val i.isLt)
  · exact fun h i hi => (hrow ⟨i, hi⟩).2 (h ⟨i, hi⟩)

theorem tableError_eq_zero_iff (x : Vector (BitVec 4) 256) :
    tableError x = 0 ↔ countsOk x = true ∧ x.toList.any (fun e => 5 < e.toNat) = false ∧ runsOk x = true := by
  unfold tableError
  cases countsOk x <;> cases x.toList.any (fun e => 5 < e.toNat) <;> cases runsOk x <;> simp

end Sys2Proof.Machine
end

section
/-! PROOF. Fabric requests and time slots (02, R24, R25, R28 to R31, R33, R34; 15, R284; 17, R331, R332). -/

namespace Sys2Proof.Machine

/-! ## What a served request leaves in the memories -/

section
variable {s : State} {r : FabricReq} (hn : s.remoteNode r = none) (hfree : s.free r)
  (h : s.stateOf r.target = .inService ∧ r.epoch = (s.part r.target).epoch)
include hn hfree h

/-- The memories and the reply of a served request are those of its access. -/
theorem request_served_memories : (s.request r).regionMem = (s.fabricAccess r).regionMem ∧ (s.request r).stacked = (s.fabricAccess r).stacked
    ∧ (s.request r).reply = (s.fabricAccess r).reply ∧ SameBytes (s.fabricAccess r) (s.request r) := by
  rw [request_served_frame hn hfree h]
  exact ⟨rfl, rfl, rfl, fun _ => rfl⟩

/-- Core store, accumulators, host memory and epochs are not the fabric's to change. -/
theorem request_served_elsewhere : (s.request r).coreStore = s.coreStore ∧ (s.request r).accMem = s.accMem
    ∧ (s.request r).hostMem = s.hostMem ∧ (s.request r).epochs = s.epochs := by
  rw [request_served_frame hn hfree h, (fabricAccess_accessed s r).frame]
  exact ⟨rfl, rfl, rfl, rfl⟩

/-- A write is in memory, with the bits that turned on its way (R24, R359). -/
theorem request_writes {g : RegionId} (ht : r.target = .region g) (hb : s.blockIn r g) {d : W256} (hd : r.data = some d) {s' : State}
    (hw : s.writeLoc (reqLoc r) (leBytes 32 d.toNat) = .ok s') :
    (s.request r).reply = []
    ∧ (r.flips = 0 → (s.request r).stacked = s'.stacked ∧ (s.request r).regionMem = s'.regionMem)
    ∧ (r.flips ≠ 0 → r.sram = true →
        (s.request r).regionMem = { s'.regionMem with bad := insertAt s'.regionMem.bad (r.addr / 32) r.flips } ∧ (s.request r).stacked = s'.stacked)
    ∧ (r.flips ≠ 0 → r.sram = false →
        (s.request r).stacked = { s'.stacked with bad := insertAt s'.stacked.bad (r.addr / 32) r.flips }
          ∧ (s.request r).regionMem = s'.regionMem) := by
  obtain ⟨hmem, hstk, hreply, _⟩ := request_served_memories hn hfree h
  rw [hmem, hstk, hreply, fabricAccess_write ht hb hd hw]
  refine ⟨rfl, fun hf => ?_, fun hf hsram => ?_, fun hf hsram => ?_⟩
  · simp only [State.transitWrite, hf, if_true, and_self]
  · simp only [State.transitWrite, hf, hsram, if_false, if_true, and_self]
  · simp only [State.transitWrite, hf, hsram, Bool.false_eq_true, if_false, and_self]

/-- A read leaves every byte; its reply is the bytes it reads, or what the reader decodes of them (R24, R359). -/
theorem request_reads {g : RegionId} (ht : r.target = .region g) (hb : s.blockIn r g) (hd : r.data = none) :
    sameMemory s (s.request r)
    ∧ (∀ bs, r.flips = 0 → s.readLoc (reqLoc r) 32 = .ok bs → (s.request r).reply = bs)
    ∧ (r.flips ≠ 0 → (s.request r).reply = ((weaveDecode ((s.travelling r).flip r.flips)).bytes).getD []) := by
  obtain ⟨hmem, _, hreply, hbytes⟩ := request_served_memories hn hfree h
  obtain ⟨hcore, hacc, hhost, _⟩ := request_served_elsewhere hn hfree h
  obtain ⟨hregion, hsame⟩ := (fabricAccess_accessed s r).read hd
  refine ⟨⟨hcore, hacc, hmem.trans hregion, (hsame.trans hbytes).sameStacked, hhost⟩, fun bs hf hr => ?_, fun hf => ?_⟩
  · rw [hreply, fabricAccess_read ht hb hd hf hr]
  · have hs : s.regionState g = .inService := by
      have hin := h.1
      rwa [ht] at hin
    rw [hreply, fabricAccess_transit ht hb hd hf, transitRead_reply hb hs]

end

/-- Where a request's block lies, by its two cases. -/
theorem blockIn_of {s : State} {r : FabricReq} {g : RegionId} (hr : r.sram = true → r.addr / 32 * 32 / regionBytes = g.val)
    (hs : r.sram = false → r.addr / 32 * 32 / stackSpan = g.val ∧ s.stackedOk (r.addr / 32 * 32) = true) : s.blockIn r g := by
  unfold State.blockIn
  cases h : r.sram with
  | true => simpa using hr h
  | false => simpa using (hs h).symm

/-! ## A time slot as a whole -/

section
variable {s t : State} (h : Moved (s.tick.updSlots TimeSlots.next) t)
include h

/-- The next entry and the time move, the transfers with what they count and log, and nothing else (R27, R31). -/
theorem Moved.slotStart_frame : t = { s with
    slots := t.slots, regions := t.regions, timeNs := t.timeNs, tim := t.tim, fabric := t.fabric, darit := t.darit, log := t.log } := by
  unfold Moved at h
  rw [h]
  rfl

theorem Moved.slotStart_slots : t.slots = { s.slots.next with waiting := t.slots.waiting } := by
  unfold Moved at h
  rw [h]
  rfl

theorem Moved.slotStart_time : t.timeNs = s.tick.timeNs ∧ t.tim = s.tick.tim := by
  unfold Moved at h
  rw [h]
  exact ⟨rfl, rfl⟩

theorem Moved.slotStart_slot : t.slots.slot = (s.slots.slot + 1) % 256 := by
  rw [h.slotStart_slots]
  exact next_slot s.slots

theorem Moved.slotStart_frames : t.slots.frames = if t.slots.slot = 0 then s.slots.frames + 1 else s.slots.frames := by
  rw [h.slotStart_slots]
  exact next_frames s.slots

theorem Moved.slotStart_settled (hs : s.tim.slewNs = 0) : t.timeNs = s.timeNs + 4 ∧ t.tim = s.tim := by
  obtain ⟨hns, htim⟩ := h.slotStart_time
  rw [tick_of_settled hs] at hns htim
  exact ⟨hns, htim⟩

end

/-- With no transfer nothing is granted. -/
theorem slotStart_idle {s : State} (h : s.slots.waiting = []) : (s.slotBegun.grants s.slotBegun.slots.cls).slots.waiting = [] := by
  have hbegun : s.slotBegun = s.tick.updSlots TimeSlots.next := slotBegun_of_young fun x hx => by simp [h] at hx
  have hnone : s.slotBegun.slots.waiting = [] := by rw [hbegun]; exact (next_waiting s.slots).trans h
  rw [grants_waiting, hnone, State.grantees, hnone]
  rfl

section
variable {s : State} {x : Transfer} (hw : s.slots.waiting = [x]) (hyoung : s.timeNs + 5 + 1000 * x.age ≤ x.born + 1000000)
include hw hyoung

/-- A young transfer alone is still there when the time slot's links grant it, and the links stand as before. -/
theorem slotBegun_of_one : s.slotBegun = s.tick.updSlots TimeSlots.next ∧ s.slotBegun.slots.waiting = [x] := by
  have hbegun : s.slotBegun = s.tick.updSlots TimeSlots.next := slotBegun_of_young fun y hy => by
    rw [hw, List.mem_singleton] at hy
    rwa [hy]
  rw [hbegun]
  exact ⟨rfl, (next_waiting s.slots).trans hw⟩

theorem slotBegun_plain (hp : Plain s x) : Plain s.slotBegun x := by
  rw [(slotBegun_of_one hw hyoung).1]
  exact ⟨hp.memory, hp.darit, hp.bus⟩

theorem slotBegun_beatsOf (l : FabLink) : s.slotBegun.beatsOf l = s.beatsOf l := by
  rw [(slotBegun_of_one hw hyoung).1]
  rfl

end

/-- What a time slot makes of a young transfer alone at a link (R28, R29, R283; log 119, 120). -/
theorem slotStart_one {s : State} {x : Transfer} (hw : s.slots.waiting = [x]) (hyoung : s.timeNs + 5 + 1000 * x.age ≤ x.born + 1000000)
    (hp : Plain s x) {t : State} (ht : t = s.slotBegun.grants s.slotBegun.slots.cls) :
    (∀ g, x.link = .controller g → x.write = true → x.promoted = false → t.slots.waiting = [x])
    ∧ (x.cls ≠ 0 → x.cls ≠ t.slots.cls → t.slots.waiting = [x])
    ∧ (x.cls = 0 ∨ x.cls = t.slots.cls → (∀ g, x.link = .controller g → x.write = false) →
      (x.beats ≤ s.beatsOf x.link → t.slots.waiting = x.move t.timeNs)
      ∧ (s.beatsOf x.link < x.beats → t.slots.waiting = [{ x with beats := x.beats - s.beatsOf x.link, begun := true }])) := by
  obtain ⟨_, hone⟩ := slotBegun_of_one hw hyoung
  have hplain := slotBegun_plain hw hyoung hp
  have hmoved := grants_moved s.slotBegun s.slotBegun.slots.cls
  have hcls : t.slots.cls = s.slotBegun.slots.cls := by rw [ht, hmoved]; rfl
  have htime : t.timeNs = s.slotBegun.timeNs := by rw [ht, hmoved]
  rw [hcls, htime, ht, ← slotBegun_beatsOf hw hyoung]
  refine ⟨fun g hl hwr hpr => ?_, fun hbg hne => ?_, fun hcls hrd => ?_⟩
  · exact grants_of_waits hone (granted_write hone hplain hl hwr hpr)
  · exact grants_of_waits hone (granted_background hone hplain hbg hne)
  · exact grants_of_served hone (granted_served hone hplain hcls hrd)

/-! ## The obligation -/

/-- Settles O48: a clause for each event of the fabric and of the time slots, from what its execution leaves; the served request from its
access, the time slot from the grant of the one transfer that waits. -/
theorem requestsAndTimeSlots : Obligations.RequestsAndTimeSlots := by
  unfold Obligations.RequestsAndTimeSlots
  refine ⟨fun s r hn hfree => ⟨fun h => ?served, fun h => ?absent⟩, fun s r w hn hw ha hc => ?behind, fun s id w hbehind hfind hwait => ?reply,
    fun s p => ?retry, fun s a b => ?between, fun s hseg d a b => ?round, fun s x hw hprio hcls hpr hage => ?promotion, fun s => ?slotStart,
    fun s => ?strobe, fun s h hash hready => ?commit, fun s c hc => ?effect, fun x => ?table⟩
  case served =>
    obtain ⟨hmem, hstk, _, hbytes⟩ := request_served_memories hn hfree h
    obtain ⟨hcore, hacc, _, hepochs⟩ := request_served_elsewhere hn hfree h
    have hfab := request_fabric hn hfree
    rw [State.stageOf, if_pos h] at hfab
    refine ⟨_, rfl, hfab, fun l rest hp => request_served_waiting hn hfree h hp, fun g ht hsram hstack => ⟨fun d s' hd hw => ?_, fun hd => ?_⟩,
      fun hsram => hmem.trans ((fabricAccess_accessed s r).regionMem hsram),
      fun hsram => (((fabricAccess_accessed s r).stacked hsram).trans hbytes).sameStacked, hcore, hacc, hepochs⟩
    · exact request_writes hn hfree h ht (blockIn_of hsram hstack) hd hw
    · exact request_reads hn hfree h ht (blockIn_of hsram hstack) hd
  case absent =>
    have hfab := request_fabric hn hfree
    rw [State.stageOf, if_neg h] at hfab
    refine ⟨_, rfl, hfab, fun hlim => ?_, ?_⟩ <;> rw [request_absent hn hfree h]
    · exact logAbsent_recs r.target hlim
    · unfold State.addWait
      rw [logAbsent_frame]
  case behind => rw [exec_fabricRequest, request_behind hn hw ha hc, State.addWait]
  case reply =>
    exact ⟨exec_fabricReply_ends hfind hwait hbehind, fun e he hs hn => exec_fabricReply_reissues hfind hwait he hs hn⟩
  case retry =>
    refine ⟨exec_partAbsentRetry_fenced, exec_partAbsentRetry_resetting, fun w hin hs hp hn ha => ?_⟩
    subst hp
    exact exec_partAbsentRetry_inService hin hs hn ha
  case between =>
    refine ⟨dieRoute_of_open, fun x hx hcut ho => dieRoute_of_cut hx hcut ho, fun hx hcut ho => ?_,
      fun he hd => cutOn_of_none_fenced he hd _ a⟩
    exact dieRoute_of_cut hx (hx ▸ hcut) ho
  case round => exact ⟨ring_length hseg d a b, fun l hl => ring_segments hseg d a b hl⟩
  case promotion =>
    refine ⟨_, exec_bulkPromotion_of_aged hw hprio hcls hpr hage, rfl, ?_, rfl⟩
    simp [State.updCnt, State.updRegion]
  case slotStart =>
    have hm := slotStart_moved s
    exact ⟨_, exec_timeSlotStart s, hm.slotStart_slot, hm.slotStart_frames, hm.slotStart_settled, slotStart_idle,
      fun x hw hyoung hmem hdarit hbus => slotStart_one hw hyoung ⟨hmem, hdarit, hbus⟩ rfl, hm.slotStart_frame⟩
  case strobe =>
    refine ⟨fun h => ?_, fun h => ?_, exec_strobeLost_of_absent, exec_strobeReturn_of_present⟩
    · exact ⟨_, exec_strobeLost_of_present h, updSlots_logEv rfl⟩
    · exact ⟨_, exec_strobeReturn_of_absent h, updSlots_logEv rfl⟩
  case commit => exact ⟨_, exec_slotTableCommit h hash hready, rfl, rfl⟩
  case effect => exact ⟨_, exec_slotTableEffect s, rfl, effect_of_copied hc⟩
  case table => rw [tableError_eq_zero_iff, countsOk_iff, codesOk_iff, runsOk_iff]

end Sys2Proof.Machine
end

section
/-! PROOF. Rules of the kernel slots: what a read of a slot or a core gives after an update, and what leaves every other slot
alone (03, R43, R48, R51). -/

namespace Sys2Proof.Machine

/-! ## Slots and cores after an update -/

section
variable (s : State) (c : CoreId) (k : KsId)

@[simp] theorem slot_updSlot_self (f : KSlot → KSlot) : (s.updSlot c k f).slot c k = f (s.slot c k) := by
  simp [State.slot, State.updSlot]

theorem slot_updSlot_other {c c' : CoreId} {k k' : KsId} (h : (c', k') ≠ (c, k)) (f : KSlot → KSlot) :
    (s.updSlot c k f).slot c' k' = s.slot c' k' := by
  by_cases hc : c.val = c'.val
  · obtain rfl : c = c' := Fin.ext hc
    have hk : k.val ≠ k'.val := fun e => h (by rw [Fin.ext e])
    simp [State.slot, State.updSlot, hk]
  · simp [State.slot, State.updSlot, hc]

@[simp] theorem cores_updCore_self (f : Core → Core) : (s.updCore c f).cores[c] = f s.cores[c] := by simp

theorem cores_updCore_other {c c' : CoreId} (h : c' ≠ c) (f : Core → Core) : (s.updCore c f).cores[c'] = s.cores[c'] := by
  have : c.val ≠ c'.val := fun e => h (Fin.ext e.symm)
  simp [this]

/-- A change of a core that keeps its slots changes no slot. -/
theorem slot_updCore {f : Core → Core} (c' : CoreId) (k' : KsId) (hf : ∀ co, (f co).slots = co.slots := by exact fun _ => rfl) :
    (s.updCore c f).slot c' k' = s.slot c' k' := by
  by_cases h : c' = c
  · subst h; simp only [State.slot, cores_updCore_self, hf]
  · simp only [State.slot, cores_updCore_other s h]

/-- A change of a slot leaves the rest of its core. -/
theorem cores_updSlot_self (f : KSlot → KSlot) :
    (s.updSlot c k f).cores[c] = { s.cores[c] with slots := s.cores[c].slots.set k (f (s.slot c k)) } := by
  simp [State.updSlot, State.slot]

end

@[simp] theorem queueOf_setQueue_self (co : Core) (e : Engine) (q : List InFlight) : (co.setQueue e q).queueOf e = q := by cases e <;> rfl

theorem queueOf_setQueue_other (co : Core) {e e' : Engine} (h : e' ≠ e) (q : List InFlight) : (co.setQueue e q).queueOf e' = co.queueOf e' := by
  cases e <;> cases e' <;> first | rfl | exact absurd rfl h

@[simp] theorem setQueue_slots (co : Core) (e : Engine) (q : List InFlight) : (co.setQueue e q).slots = co.slots := by cases e <;> rfl
@[simp] theorem setQueue_cntMac (co : Core) (e : Engine) (q : List InFlight) : (co.setQueue e q).cntMac = co.cntMac := by cases e <;> rfl
@[simp] theorem setQueue_cntActive (co : Core) (e : Engine) (q : List InFlight) : (co.setQueue e q).cntActive = co.cntActive := by cases e <;> rfl

end Sys2Proof.Machine

/-! ## Every slot but one -/

namespace Sys2Proof.otherSlots

open Machine

variable {s t u : State} {c : CoreId} {k : KsId}

theorem refl (s : State) (c : CoreId) (k : KsId) : otherSlots s s c k := fun _ _ _ => rfl

theorem trans (a : otherSlots s t c k) (b : otherSlots t u c k) : otherSlots s u c k := fun c' k' h => (b c' k' h).trans (a c' k' h)

theorem of_cores (h : t.cores = s.cores) : otherSlots s t c k := fun _ _ _ => by simp only [State.slot, h]

theorem updSlot (s : State) (c : CoreId) (k : KsId) (f : KSlot → KSlot) : otherSlots s (s.updSlot c k f) c k :=
  fun _ _ h => slot_updSlot_other s h f

theorem updCore (s : State) (c : CoreId) (k : KsId) {f : Core → Core} (hf : ∀ co, (f co).slots = co.slots := by exact fun _ => rfl) :
    otherSlots s (s.updCore c f) c k := fun _ _ _ => slot_updCore s c _ _ hf

end Sys2Proof.otherSlots
end

section
/-! PROOF. A trap, and a trap's record, while an anvil instruction of the slot executes: what it had counted is a free value (03, R50, R60; 06,
R126; log 124), so that the place in the sequence of free values moves on, which the frames of the statements here hold fixed. Four of them fail
by that alone. -/

namespace Sys2Proof.Machine

variable {s : State} {c : CoreId} {k : KsId}

/-! ## What is discarded with the slot -/

/-- The instruction that executes when it is discarded leaves a part of its counts, a free value. -/
theorem countPart_freshCtr {p : InFlight → Bool} {x : InFlight} {rest : List InFlight} (hq : s.cores[c].anvQ = x :: rest) (hp : p x = true) :
    (s.countPart c p).freshCtr = s.freshCtr + 1 := by
  simp only [State.countPart, hq, hp, if_true]
  rfl

theorem discardQueues_freshCtr {x : InFlight} {rest : List InFlight} (hq : s.cores[c].anvQ = x :: rest) (hk : x.ks = k) :
    (s.discardQueues c k).freshCtr = s.freshCtr + 1 :=
  countPart_freshCtr (s := s.dropRequests (fun x => x.of c k)) hq (by simp [hk])

/-- A trap of a slot whose MMA executes changes more than `trapOf` lets it. -/
theorem not_trapOf_trapSlot {x : InFlight} {rest : List InFlight} (hq : s.cores[c].anvQ = x :: rest) (hk : x.ks = k) (st st' index : Nat) :
    ¬ trapOf s (s.trapSlot c k st) c k st' index := by
  rintro ⟨_, _, _, _, h⟩
  have hctr : (s.trapSlot c k st).freshCtr = s.freshCtr := by rw [h]
  have := discardQueues_freshCtr hq hk
  exact absurd (this.symm.trans hctr) (Nat.succ_ne_self _)

/-! ## What stands at the sequencer -/

theorem issueSeq_of_trap {r : RowKind} {st : Nat} {act : KSlot → W128 → Except AccErr State} (hf : s.front c k = .trap (some r) st)
    (ht : s.turn c k = true) : s.issueSeq c k r act = s.trapSlot c k st := by
  simp [State.issueSeq, hf, ht]

theorem issueSeq_of_error {r : RowKind} {w : W128} {act : KSlot → W128 → Except AccErr State} {err : AccErr} (hf : s.front c k = .go r w)
    (ht : s.turn c k = true) (hs : (s.slot c k).stopsAtIssue = false) (ha : act (s.slot c k) w = .error err) :
    s.issueSeq c k r act = s.accFail c k err := by
  simp [State.issueSeq, hf, ht, hs, ha]

theorem front_of_check12 {r : RowKind} {w : W128} {st : Nat} (h : nextIs s c k r w) (hc : check12 w = some st) :
    s.front c k = .trap (some r) st := by
  obtain ⟨hup, hrun, hround, hfetch, hrow⟩ := h
  simp [State.front, hup, hrun, hround, hfetch, hrow, hc]

theorem front_of_ready {r : RowKind} {w : W128} (h : readyToIssue s c k r w) : s.front c k = .go r w := by
  obtain ⟨⟨hup, hrun, hround, hfetch, hrow⟩, h12, hpend, hpred, h34, hmay, _, _⟩ := h
  have hfree : wPred w ∉ (s.slot c k).pendP := by simpa using hpend
  simp [State.front, hup, hrun, hround, hfetch, hrow, h12, hfree, hpred, h34, hmay]

/-! ## A slot that runs while its MMA executes -/

/-- An MMA that kernel slot 0 has issued. -/
def executingEntry : InFlight :=
  { ks := 0, index := 0, age := 0, reads := [], writes := [], accs := [], cycles := 40, macs := 1, flags := {}, req := none, stores := false,
    gather := none, remote := false }

/-- After reset, but core 0's slot 0 runs an image of the one instruction w, its pc as given, and its MMA executes on the anvil group. -/
def executingState (w : W128) (pc : Nat) : State :=
  (State.reset.updCore 0 (fun co => { co with icache := [{ ctx := 0, image := 0, index := 0, word := w }], anvQ := [executingEntry] })).updSlot 0 0
    (fun sl => { sl with state := .running, pc := pc, hdr := { length := 1 } })

theorem executingState_anvQ (w : W128) (pc : Nat) : (executingState w pc).cores[(0 : CoreId)].anvQ = [executingEntry] := by
  simp [executingState, State.updSlot]

/-- FENCE with bit 14, which no FUNC uses, set. -/
def badFence : W128 := 0x4001

theorem executing_badFence : nextIs (executingState badFence 0) 0 0 .fence badFence := by
  unfold nextIs
  decide +kernel

/-- Refutes O12: check 2 traps a slot whose MMA executes, and `freshCtr` moves on. -/
theorem not_earlierChecksDecideFirst : ¬ Obligations.EarlierChecksDecideFirst := by
  unfold Obligations.EarlierChecksDecideFirst
  rintro ⟨h, _, _⟩
  have hnext := executing_badFence
  have hturn : (executingState badFence 0).turn 0 0 = true := by decide +kernel
  have hc : check12 badFence = some 0x20 := by decide +kernel
  obtain ⟨t, he, ht⟩ := (h _ _ _ _ _ hnext hturn).1 _ hc
  have : exec (rowInstr .fence 0 0) (executingState badFence 0) = .next ((executingState badFence 0).trapSlot 0 0 0x20) :=
    congrArg Host.Outcome.next (issueSeq_of_trap (front_of_check12 hnext hc) hturn)
  cases this.symm.trans he
  exact not_trapOf_trapSlot (executingState_anvQ _ _) rfl _ _ _ ht

/-- CLAIM with an immediate of 0. -/
def badClaim : W128 := 0x2

theorem executing_badClaim : readyToIssue (executingState badClaim 0) 0 0 .claim badClaim := by
  unfold readyToIssue nextIs
  decide +kernel

theorem exec_claim_of_count {w : W128} (h : readyToIssue s c k .claim w) (hi : ¬ (1 ≤ wImm w ∧ wImm w ≤ 4096)) :
    exec (.claim c k) s = .next (s.trapSlot c k stMalformed) := by
  obtain ⟨_, _, _, _, _, _, hturn, hstop⟩ := id h
  refine congrArg Host.Outcome.next (issueSeq_of_error (front_of_ready h) hturn hstop (err := .status stMalformed .none) ?_)
  have : (decide (1 ≤ wImm w) && decide (wImm w ≤ 4096)) = false := by simpa using hi
  simp [this, need]
  rfl

/-- Refutes O17: CLAIM with a count of 0 traps a slot whose MMA executes, and `freshCtr` moves on. -/
theorem not_fencesClaimsAndCommits : ¬ Obligations.FencesClaimsAndCommits := by
  unfold Obligations.FencesClaimsAndCommits
  rintro ⟨_, h, _⟩
  have hready := executing_badClaim
  have hcount : ¬ (1 ≤ wImm badClaim ∧ wImm badClaim ≤ 4096) := by decide
  obtain ⟨t, he, ht⟩ := (h _ _ _ _ (.core 0) 0 hready).2 fun hok => hcount ⟨hok.1, hok.2.1⟩
  cases (exec_claim_of_count hready hcount).symm.trans he
  exact not_trapOf_trapSlot (executingState_anvQ _ _) rfl _ _ _ ht

theorem exec_instructionFetchMiss_past (hup : s.coreUp c = true) (hrun : (s.slot c k).state = .running) (hround : (s.slot c k).round = none)
    (hstop : (s.slot c k).stopsAtIssue = false) (hpc : (s.slot c k).hdr.length ≤ (s.slot c k).pc) :
    exec (.instructionFetchMiss c k) s = .next (s.trapSlot c k stMalformed) := by
  simp [exec, execInstructionFetchMiss, hup, hrun, hround, hstop, hpc]

theorem executing_pastEnd : let s := executingState badFence 1
    s.coreUp 0 = true ∧ (s.slot 0 0).state = .running ∧ (s.slot 0 0).round = none ∧ (s.slot 0 0).stopsAtIssue = false
      ∧ (s.slot 0 0).hdr.length ≤ (s.slot 0 0).pc := by decide +kernel

/-- Refutes O29: the index past the image's end traps a slot whose MMA executes, and `freshCtr` moves on. -/
theorem not_slotsLoadFetchAndYield : ¬ Obligations.SlotsLoadFetchAndYield := by
  unfold Obligations.SlotsLoadFetchAndYield
  rintro ⟨_, h, _⟩
  obtain ⟨hup, hrun, hround, hstop, hpc⟩ := executing_pastEnd
  obtain ⟨t, he, ht⟩ := (h _ _ _ hup hrun hround hstop).1 hpc
  cases (exec_instructionFetchMiss_past hup hrun hround hstop hpc).symm.trans he
  exact not_trapOf_trapSlot (executingState_anvQ _ _) rfl _ _ _ ht

/-- A dispatched KERNEL of queue 1 with two instances, in slots 0 and 1 of core 0. -/
def twoPlacedCmd : Cmd :=
  { q := 1, n := 1, bytes := [], acceptedAt := 0, acceptIdx := 0, phase := .dispatched, status := 0, prio := 0, capped := false, lossy := false,
    counted := false, mark := false, settled := false, held := false, heldOn := none, ending := none, endLogged := false, staged := 0,
    notes := false, flags := {}, dups := 0, trap := none, hdr := {}, args := 0,
    insts := [{ index := 0, placed := some (0, 0), resume := 0, ended := false, flags := {} },
              { index := 1, placed := some (0, 1), resume := 0, ended := false, flags := {} }], targets := [], counter := 0, home := none,
    bitmap := 0, jstep := 0, pages := [], reserved := [], paths := [], culls := [], rounds := [], desc := [], roundDone := [], outs := [],
    deadline := none, bannedRegions := [], saves := [] }

/-- As `executingState`, but slot 0 is TRAPPED. -/
def trappedState : State :=
  { executingState badFence 0 with cmds := [twoPlacedCmd] }.updSlot 0 0 (fun sl =>
    { sl with state := .trapped, trap := some (0x21, 0), cmd := some (1, 1) })

theorem trapRecord_freshCtr : ∃ t, exec (.trapRecord 0 0) trappedState = .next t ∧ t.freshCtr = 1 := ⟨_, rfl, by decide +kernel⟩

/-- Refutes O20: the record frees a slot that has an entry at the head of the anvil queue, and `freshCtr` moves on. -/
theorem not_trapRecordEndsCommand : ¬ Obligations.TrapRecordEndsCommand := by
  unfold Obligations.TrapRecordEndsCommand
  rintro ⟨h, _⟩
  obtain ⟨s1, cm1, _, _, _, _, _, _, hframe, hnext, _⟩ := h trappedState 0 0 0x21 0 1 1 twoPlacedCmd
      (by decide +kernel) (by decide +kernel) (by decide +kernel)
    (by decide +kernel) (by decide +kernel)
  obtain ⟨t, ht, hctr⟩ := trapRecord_freshCtr
  have hother : ∃ i ∈ twoPlacedCmd.insts, ∃ p, i.ended = false ∧ i.placed = some p ∧ p ≠ ((0 : CoreId), (0 : KsId)) :=
    ⟨_, .tail _ (.head _), (0, 1), rfl, rfl, by decide⟩
  cases ht.symm.trans (hnext hother)
  have : s1.freshCtr = 0 := by rw [hframe]; rfl
  exact absurd (hctr.symm.trans this) (by decide)

end Sys2Proof.Machine
end

section
/-! PROOF. The completion of an engine's oldest entry (03, R48 to R50, R103, R126; 11, R217). -/

namespace Sys2Proof.Machine

/-- A vector set at the places that a list names, which the entries give. -/
theorem getElem_foldl_set {α β : Type} {n : Nat} (f : β → Fin n) (v : α) (l : List β) (t : Vector α n) (i : Fin n) :
    (l.foldl (fun (t : Vector α n) j => t.set (f j) v) t)[i] = if ∃ j ∈ l, f j = i then v else t[i] := by
  induction l generalizing t with
  | nil => simp
  | cons j l ih =>
    rw [List.foldl_cons, ih]
    by_cases hl : ∃ j ∈ l, f j = i
    · simp [hl]
    · by_cases hj : f j = i
      · subst hj; simp
      · have : (f j).val ≠ i.val := fun e => hj (Fin.ext e)
        simp [hl, hj, this]

variable {s : State} {c : CoreId} {e : Engine} {x : InFlight} {rest : List InFlight}

/-- What a completed entry leaves in its core: its place in the queue, and an anvil's counts. -/
def Core.popped (co : Core) (e : Engine) (x : InFlight) (rest : List InFlight) : Core :=
  let co := co.setQueue e rest
  if e = .anvil then { co with cntActive := co.cntActive + BitVec.ofNat 64 x.cycles, cntMac := co.cntMac + x.macs } else co

/-- What it leaves in its slot: its flags, and its tiles RESIDENT. -/
def KSlot.landed (sl : KSlot) (x : InFlight) : KSlot :=
  { sl with
    flags := sl.flags.join x.flags
    ts := x.writes.foldl (fun (t : Vector TState 32) i => t.set (i % 32) .resident (Nat.mod_lt _ (by decide))) sl.ts }

/-- The state in which an entry has completed, before its slot settles. -/
def State.landed (s : State) (c : CoreId) (e : Engine) (x : InFlight) (rest : List InFlight) : State :=
  (s.updCore c (fun co => co.popped e x rest)).updSlot c x.ks (fun sl => sl.landed x)

theorem popped_slots (co : Core) : (co.popped e x rest).slots = co.slots := by
  unfold Core.popped
  dsimp only
  split <;> simp

theorem popped_queueOf_self (co : Core) : (co.popped e x rest).queueOf e = rest := by
  unfold Core.popped
  dsimp only
  split
  · exact queueOf_setQueue_self co e rest
  · exact queueOf_setQueue_self co e rest

theorem popped_queueOf_other (co : Core) {e' : Engine} (h : e' ≠ e) : (co.popped e x rest).queueOf e' = co.queueOf e' := by
  unfold Core.popped
  dsimp only
  split
  · exact queueOf_setQueue_other co h rest
  · exact queueOf_setQueue_other co h rest

theorem popped_cntActive (co : Core) : (co.popped e x rest).cntActive = co.cntActive + (if e = .anvil then BitVec.ofNat 64 x.cycles else 0) := by
  unfold Core.popped
  dsimp only
  split <;> simp

theorem popped_cntMac (co : Core) : (co.popped e x rest).cntMac = if e = .anvil then co.cntMac + x.macs else co.cntMac := by
  unfold Core.popped
  dsimp only
  split <;> simp

theorem landed_ts (sl : KSlot) (x : InFlight) (i : Fin 32) :
    (sl.landed x).ts[i] = if ∃ j ∈ x.writes, j % 32 = i.val then .resident else sl.ts[i] := by
  have h := getElem_foldl_set (fun j => (⟨j % 32, Nat.mod_lt _ (by decide)⟩ : Fin 32)) TState.resident x.writes sl.ts i
  simp only [Fin.ext_iff] at h
  exact h

theorem landed_core : (s.landed c e x rest).cores[c] = { s.cores[c].popped e x rest with
    slots := s.cores[c].slots.set x.ks ((s.slot c x.ks).landed x) } := by
  rw [State.landed, cores_updSlot_self, cores_updCore_self, slot_updCore s c c x.ks popped_slots]
  simp only [popped_slots]

theorem landed_slot : (s.landed c e x rest).slot c x.ks = (s.slot c x.ks).landed x := by
  rw [State.landed, slot_updSlot_self, slot_updCore s c c x.ks popped_slots]

theorem landed_others : otherSlots s (s.landed c e x rest) c x.ks :=
  (otherSlots.updCore s c x.ks popped_slots).trans (.updSlot _ c x.ks _)

/-- The slot settles, or traps when another device refused the gather; a gather lets deferred releases run. -/
theorem completeHead_eq : s.completeHead c e x rest =
    (let u := if s.refused x then (s.landed c e x rest).fresh.trapSlotAt c x.ks 0x21 x.index else (s.landed c e x rest).settleStop c x.ks
     if x.gather.isSome then u.runCulls else u) := rfl

theorem exec_instructionComplete_waits (hq : s.cores[c].queueOf e = x :: rest) {id : Nat} (hr : x.req = some id) (hw : s.contribWaits id = true) :
    exec (.instructionComplete c e) s = .next s := by
  simp only [exec, execInstructionComplete, hq, hr, hw, if_true]

theorem exec_instructionComplete_completes (hq : s.cores[c].queueOf e = x :: rest) (hw : ∀ id, x.req = some id → s.contribWaits id = false) :
    exec (.instructionComplete c e) s = .next (s.completeHead c e x rest) := by
  simp only [exec, execInstructionComplete, hq]
  cases hr : x.req with
  | none => rfl
  | some id => simp [hw id hr]

theorem settleStop_of_not_stopping {k : KsId} (h : (s.slot c k).state ≠ .stopping) : s.settleStop c k = s := by
  simp [State.settleStop, h]

/-- Settles O18: the entry that completes leaves its core and its slot as `State.landed` says; what follows is `State.completeHead`'s own. -/
theorem completionMakesTilesResident : Obligations.CompletionMakesTilesResident := by
  intro s c e x rest hq
  exact ⟨fun ⟨id, hr, hw⟩ => exec_instructionComplete_waits hq hr hw, fun hw => ⟨s.landed c e x rest,
    by rw [exec_instructionComplete_completes hq hw, completeHead_eq],
    fun hs => settleStop_of_not_stopping (by rwa [landed_slot]),
    by rw [landed_core]; exact popped_queueOf_self _,
    fun e' he => by rw [landed_core]; exact popped_queueOf_other _ he,
    by rw [landed_slot]; exact landed_ts _ x,
    by rw [landed_slot]; rfl,
    by rw [landed_core]; exact popped_cntActive _,
    by rw [landed_core]; exact popped_cntMac _,
    landed_others, rfl⟩⟩

end Sys2Proof.Machine
end

section
/-! PROOF. The issue of an engine instruction (03, R48 to R51, R103, R109; logs 5, 115, 125). -/

namespace Sys2Proof.Machine

variable {s s1 s2 : State} {c : CoreId} {k : KsId} {r : RowKind} {e : Engine} {w : W128} {p : Plan}

/-! ## The row's issue -/

/-- A row that an engine executes issues with its own plan. -/
theorem exec_rowInstr_engine (s : State) (c : CoreId) (k : KsId) (he : r.engine = some e) :
    exec (rowInstr r c k) s = .next (s.issue c k r e (fun s ns => s.makeResident c k ns) (rowPlan s c k r)) := by
  cases r <;> cases he <;> rfl

theorem issue_of_ready (h : readyToIssue s c k r w) {plan : KSlot → W128 → Except AccErr (Option Plan)}
    (hp : plan (s.slot c k) w = .ok (some p)) (ho : overcommit (s.slot c k).hdr p.names = false)
    (hn : ∀ n ∈ p.names, ∀ x ∈ s.inFlightOf c k, n ∉ x.accs) {resident : State → List Nat → Except AccErr (Option State)}
    (hr : resident s p.names = .ok (some s1)) (hc : s1.carryOut c k e w r p = .ok s2) : s.issue c k r e resident plan = s2 := by
  have hfront := front_of_ready h
  obtain ⟨_, _, _, _, _, _, hturn, hstop⟩ := h
  simp only [State.issue, hfront, hturn, hstop, hp, ho, hr, hc]
  simpa using fun n hn1 x hx hm => absurd hm (hn n hn1 x hx)

/-! ## The entry and its slot -/

/-- The entry that an issued instruction makes of its plan, in the state of its effect. -/
def State.entryOf (s : State) (c : CoreId) (k : KsId) (e : Engine) (w : W128) (r : RowKind) (p : Plan) (macs : Nat) (flags : Flags) : InFlight :=
  { ks := k, index := (s.slot c k).pc, age := (s.slot c k).resAge, reads := (tilesRead w r).map (·.val),
    writes := (tilesWritten w r ++ descsWritten w r).map (·.val), accs := p.names,
    cycles := engineCycles e r (s.cores[c].queueOf e).isEmpty (s.slot c k).hdr.narrow p.cycles, macs := macs, flags := flags,
    req := if p.waitsAtomic then some (s.nextReq - 1) else none, gather := p.gather, remote := p.remote,
    stores := r == .kvapp || r == .sttContrib || (tilesWritten w r).any (fun i => fld (s.slot c k).t[i].toNat 50 48 == 1) }

/-- The core behind an entry: an anvil's issue is dated, and its token spent (R417). -/
def Core.entered (co : Core) (e : Engine) (x : InFlight) (now : Nat) : Core :=
  let co := co.setQueue e (co.queueOf e ++ [x])
  if e = .anvil then { co with anvilAt := some now, token := false } else co

/-- The slot behind an entry: its written tiles PENDING, its names reserved. -/
def KSlot.entered (sl : KSlot) (w : W128) (r : RowKind) (names : List Nat) : KSlot :=
  { sl with
    ts := (tilesWritten w r ++ descsWritten w r).foldl (fun (t : Vector TState 32) (i : Fin 32) => t.set i.val .pending i.isLt) sl.ts
    acc := names.foldl (fun a n => a.set (n % 16) { a[n % 16]'(Nat.mod_lt _ (by decide)) with lastRes := sl.resAge }
      (Nat.mod_lt _ (by decide))) sl.acc
    resAge := sl.resAge + 1 }

/-- The state in which an entry stands in its queue, the pc still at its instruction. -/
def State.entered (s : State) (c : CoreId) (k : KsId) (e : Engine) (w : W128) (r : RowKind) (names : List Nat) (x : InFlight) : State :=
  (s.updCore c (fun co => co.entered e x s.timeNs)).updSlot c k (fun sl => sl.entered w r names)

theorem enter_eq (s : State) (macs : Nat) (flags : Flags) : s.enter c k e w r p macs flags
    = (s.entered c k e w r p.names (s.entryOf c k e w r p macs flags)).advance c k := rfl

theorem entered_slots (co : Core) (x : InFlight) (now : Nat) : (co.entered e x now).slots = co.slots := by
  unfold Core.entered
  dsimp only
  split <;> simp

theorem entered_queueOf_self (co : Core) (x : InFlight) (now : Nat) : (co.entered e x now).queueOf e = co.queueOf e ++ [x] := by
  unfold Core.entered
  dsimp only
  split
  · exact queueOf_setQueue_self co e _
  · exact queueOf_setQueue_self co e _

theorem entered_queueOf_other (co : Core) (x : InFlight) (now : Nat) {e' : Engine} (h : e' ≠ e) :
    (co.entered e x now).queueOf e' = co.queueOf e' := by
  unfold Core.entered
  dsimp only
  split
  · exact queueOf_setQueue_other co h _
  · exact queueOf_setQueue_other co h _

theorem entered_cntMac (co : Core) (x : InFlight) (now : Nat) : (co.entered e x now).cntMac = co.cntMac := by
  unfold Core.entered
  dsimp only
  split <;> simp

theorem entered_ts (sl : KSlot) (names : List Nat) (i : Fin 32) :
    (sl.entered w r names).ts[i] = if i ∈ tilesWritten w r ++ descsWritten w r then .pending else sl.ts[i] := by
  have h := getElem_foldl_set id TState.pending (tilesWritten w r ++ descsWritten w r) sl.ts i
  simp only [id, exists_eq_right] at h
  exact h

/-- A name that a list holds has the age that the list's reservation gives, whatever else the list names. -/
theorem lastRes_of_reserved (age : Nat) {names : List Nat} (a : Vector AccName 16) {n : Fin 16} (h : n.val ∈ names ∨ a[n].lastRes = age) :
    ((names.foldl (fun a n => a.set (n % 16) { a[n % 16]'(Nat.mod_lt _ (by decide)) with lastRes := age }
      (Nat.mod_lt _ (by decide))) a)[n]).lastRes = age := by
  induction names generalizing a with
  | nil => simpa using h
  | cons m ms ih =>
    refine ih _ ?_
    by_cases hm : m % 16 = n.val
    · exact .inr (by simp [hm])
    · rcases h with h | h
      · rcases List.mem_cons.1 h with rfl | h
        · exact absurd (Nat.mod_eq_of_lt n.isLt) hm
        · exact .inl h
      · exact .inr (by simpa [Vector.getElem_set, hm] using h)

/-! ## The state that has issued -/

/-- The core of an instruction that moves the pc on, beside its slots. -/
theorem advance_core (s : State) : (s.advance c k).cores[c] = { s.cores[c] with
    lastSlot := k.val, passed := (s.advance c k).cores[c].passed
    slots := s.cores[c].slots.set k { s.slot c k with pc := (s.slot c k).pc + 1 } } := by
  rw [State.advance, cores_updCore_self, cores_updSlot_self]

theorem advance_slot (s : State) : (s.advance c k).slot c k = { s.slot c k with pc := (s.slot c k).pc + 1 } := by
  exact (slot_updCore _ c c k).trans (slot_updSlot_self s c k _)

theorem advance_others (s : State) : otherSlots s (s.advance c k) c k :=
  (otherSlots.updSlot s c k _).trans (.updCore _ c k)

theorem entered_core (s : State) (names : List Nat) (x : InFlight) : (s.entered c k e w r names x).cores[c] =
    { s.cores[c].entered e x s.timeNs with slots := s.cores[c].slots.set k ((s.slot c k).entered w r names) } := by
  rw [State.entered, cores_updSlot_self, cores_updCore_self, slot_updCore s c c k (entered_slots · x s.timeNs)]
  simp only [entered_slots]

theorem entered_slot (s : State) (names : List Nat) (x : InFlight) :
    (s.entered c k e w r names x).slot c k = (s.slot c k).entered w r names := by
  rw [State.entered, slot_updSlot_self, slot_updCore s c c k (entered_slots · x s.timeNs)]

theorem entered_others (s : State) (names : List Nat) (x : InFlight) : otherSlots s (s.entered c k e w r names x) c k :=
  (otherSlots.updCore s c k (entered_slots · x s.timeNs)).trans (.updSlot _ c k _)

/-- The effect's state with the flags and the count of before: what they gained waits in the entry (R103, R126). -/
def State.setBack (s : State) (c : CoreId) (k : KsId) (flags : Flags) (macs : Nat) : State :=
  (s.updSlot c k (fun sl => { sl with flags := flags })).updCore c (fun co => { co with cntMac := macs })

theorem setBack_core (s : State) (flags : Flags) (macs : Nat) : (s.setBack c k flags macs).cores[c] =
    { s.cores[c] with cntMac := macs, slots := s.cores[c].slots.set k { s.slot c k with flags := flags } } := by
  rw [State.setBack, cores_updCore_self, cores_updSlot_self]

theorem setBack_slot (s : State) (flags : Flags) (macs : Nat) : (s.setBack c k flags macs).slot c k = { s.slot c k with flags := flags } := by
  exact (slot_updCore _ c c k).trans (slot_updSlot_self s c k _)

theorem setBack_others (s : State) (flags : Flags) (macs : Nat) : otherSlots s (s.setBack c k flags macs) c k :=
  (otherSlots.updSlot s c k _).trans (.updCore _ c k)

/-- The state that an issue leaves behind an effect's: its flags and its count set back, its entry in the queue, the pc moved on. -/
def State.issued (s : State) (c : CoreId) (k : KsId) (e : Engine) (w : W128) (r : RowKind) (names : List Nat) (flags : Flags) (macs : Nat)
    (x : InFlight) : State := ((s.setBack c k flags macs).entered c k e w r names x).advance c k

/-- A plan's effect and its entry: flags and multiply-accumulates are counted from nothing and set back. -/
theorem carryOut_of_ok (ha : p.apply (s1.updSlot c k (fun sl => { sl with flags := {} })) = .ok s2) :
    s1.carryOut c k e w r p = .ok (s2.issued c k e w r p.names (s1.slot c k).flags s1.cores[c].cntMac
      ((s2.setBack c k (s1.slot c k).flags s1.cores[c].cntMac).entryOf c k e w r p (s2.cores[c].cntMac - s1.cores[c].cntMac)
        (s2.slot c k).flags)) := by
  rw [State.carryOut, ha]
  exact congrArg Except.ok (enter_eq _ _ _)

section
variable (s : State) (names : List Nat) (flags : Flags) (macs : Nat) (x : InFlight)

theorem issued_slot : (s.issued c k e w r names flags macs x).slot c k =
    { ({ s.slot c k with flags := flags } : KSlot).entered w r names with pc := (s.slot c k).pc + 1 } := by
  rw [State.issued, advance_slot, entered_slot, setBack_slot]
  rfl

theorem issued_lastSlot : (s.issued c k e w r names flags macs x).cores[c].lastSlot = k.val := by
  rw [State.issued, advance_core]

theorem issued_cntMac : (s.issued c k e w r names flags macs x).cores[c].cntMac = macs := by
  rw [State.issued, advance_core, entered_core, setBack_core]
  exact entered_cntMac _ x _

/-- An issue's queues are those that its entry's core shows. -/
theorem issued_queueOf (e' : Engine) :
    (s.issued c k e w r names flags macs x).cores[c].queueOf e' = (s.cores[c].entered e x s.timeNs).queueOf e' := by
  rw [State.issued, advance_core, entered_core, setBack_core]
  unfold Core.entered
  cases e <;> cases e' <;> rfl

theorem issued_others : otherSlots s (s.issued c k e w r names flags macs x) c k :=
  ((setBack_others s flags macs).trans (entered_others _ names x)).trans (advance_others _)

end

/-- Settles O9: the row issues its own plan, whose effect, set back and entered, is moved past. -/
theorem engineInstructionsIssue : Obligations.EngineInstructionsIssue := by
  intro s c k r e w p s1 s2 hready he hp ho hn hres ha
  have hexec := (exec_rowInstr_engine s c k he).trans (congrArg Host.Outcome.next (issue_of_ready hready hp ho hn hres (carryOut_of_ok ha)))
  refine ⟨_, (s2.setBack c k (s1.slot c k).flags s1.cores[c].cntMac).entryOf c k e w r p (s2.cores[c].cntMac - s1.cores[c].cntMac)
    (s2.slot c k).flags, hexec, ?_⟩
  have hbackSlot := setBack_slot (c := c) (k := k) s2 (s1.slot c k).flags s1.cores[c].cntMac
  have hbackCore := setBack_core (c := c) (k := k) s2 (s1.slot c k).flags s1.cores[c].cntMac
  generalize hx : State.entryOf _ c k e w r p _ _ = x
  have hslot := issued_slot (c := c) (k := k) (e := e) (w := w) (r := r) s2 p.names (s1.slot c k).flags s1.cores[c].cntMac x
  refine ⟨?_, by subst hx; rfl, ?_, by subst hx; rfl, by subst hx; rfl, by subst hx; rfl, by subst hx; rfl,
    by subst hx; rfl, ?_, fun e' he' => ?_, ?_, ?_, ?_, ?_, fun i => ?_, fun n hn => ?_, ?_, ?_, ?_, issued_others _ p.names _ _ _, rfl⟩
  · rw [issued_queueOf]; exact entered_queueOf_self _ x _
  · subst hx; rw [State.entryOf, hbackSlot]
  · subst hx; rw [State.entryOf, hbackSlot, hbackCore]; rfl
  · rw [issued_queueOf]; exact entered_queueOf_other _ x _ he'
  · rw [hslot]
  · exact issued_lastSlot (e := e) (w := w) (r := r) _ p.names _ _ _
  · rw [hslot]; rfl
  · exact issued_cntMac (e := e) (w := w) (r := r) _ p.names _ _ _
  · rw [hslot]; exact entered_ts _ p.names i
  · rw [hslot]; exact lastRes_of_reserved _ _ (.inl hn)
  · rw [hslot]; rfl
  · rw [hslot]; rfl
  · rw [hslot]; rfl

end Sys2Proof.Machine
end

section
/-! PROOF. Whole blocks forced into a RAM read back, and no other byte changes (15, R277; 18, R356). -/

namespace Sys2Proof.Machine

variable {m : Ram} {b : Nat} {bytes : List Byte}

/-! ## One block -/

theorem Ram.blockRead_putBlock_self (m : Ram) (b : Nat) (hb : bytes.length = 32) : (m.putBlock b bytes).blockRead b = some bytes := by
  have hlt := leNat_lt bytes
  have hle : leBytes 32 (leNat bytes) = bytes := by rw [← hb]; exact leBytes_leNat bytes
  have hd : (BitVec.ofNat 256 (leNat bytes)).toNat = leNat bytes := by
    rw [BitVec.toNat_ofNat, Nat.mod_eq_of_lt (by rw [hb] at hlt; exact hlt)]
  have h := Ram.check_putBlock_self m b (BitVec.ofNat 256 (leNat bytes))
  rw [hd, hle] at h
  simp only [Ram.blockRead, h, hd, hle]

theorem Ram.blockRead_putBlock_other (m : Ram) {b' : Nat} (hb : bytes.length = 32) (h : b' ≠ b) :
    (m.putBlock b bytes).blockRead b' = m.blockRead b' := by
  simp only [Ram.blockRead, Ram.check, Ram.stored_putBlock_other m hb h]

/-! ## Blocks in turn -/

/-- What blocks written in turn read: a written one its bytes, every other what it read before. -/
theorem Ram.blockRead_foldl_putBlock {f : Nat → List Byte} (hf : ∀ b, (f b).length = 32) (l : List Nat) (m : Ram) (b : Nat) :
    (l.foldl (fun r x => r.putBlock x (f x)) m).blockRead b = if b ∈ l then some (f b) else m.blockRead b := by
  induction l generalizing m with
  | nil => simp
  | cons x l ih =>
    rw [List.foldl_cons, ih]
    by_cases hl : b ∈ l
    · simp [hl]
    · by_cases hx : b = x
      · subst hx; simp [hl, Ram.blockRead_putBlock_self m b (hf b)]
      · simp [hl, hx, Ram.blockRead_putBlock_other m (hf x) hx]

theorem overlay_covered (old : List Byte) {addr : Nat} (h : addr ≤ 32 * b) (h' : 32 * b + 32 ≤ addr + bytes.length) :
    overlay b old addr bytes = (bytes.drop (32 * b - addr)).take 32 := by
  refine List.ext_getElem (by rw [overlay_length, List.length_take, List.length_drop]; omega) fun i hi _ => ?_
  rw [overlay_length] at hi
  have hin : addr ≤ 32 * b + i ∧ 32 * b + i < addr + bytes.length := by omega
  have hat : 32 * b - addr + i < bytes.length := by omega
  simp [overlay, hin, List.getD_eq_getElem?_getD, hat, show 32 * b + i - addr = 32 * b - addr + i by omega]

/-! ## A range of whole blocks -/

section
variable {B n : Nat} (hlen : bytes.length = 32 * n)

theorem blocksOf_whole : blocksOf (32 * B) (32 * n) = (List.range n).map (· + B) := by
  unfold blocksOf
  split
  · rw [show n = 0 by omega]; rfl
  · rw [show (32 * B + 32 * n - 1) / 32 - 32 * B / 32 + 1 = n by omega, show 32 * B / 32 = B by omega]

include hlen

theorem Ram.force_whole (m : Ram) (fill : Nat → Byte) : m.force fill (32 * B) bytes
    = ((List.range n).map (· + B)).foldl (fun r x => r.putBlock x (overlay x [] (32 * B) bytes)) m := by
  unfold Ram.force
  rw [hlen, blocksOf_whole]
  refine List.foldl_ext _ _ _ fun r x hx => ?_
  obtain ⟨i, hi, rfl⟩ := List.mem_map.1 hx
  have hi := List.mem_range.1 hi
  have hlo : 32 * B ≤ 32 * (i + B) := by omega
  have hhi : 32 * (i + B) + 32 ≤ 32 * B + bytes.length := by omega
  exact congrArg (r.putBlock (i + B)) ((overlay_covered _ hlo hhi).trans (overlay_covered _ hlo hhi).symm)

theorem Ram.blockRead_force_whole (m : Ram) (fill : Nat → Byte) (b : Nat) : (m.force fill (32 * B) bytes).blockRead b
    = if B ≤ b ∧ b < B + n then some ((bytes.drop (32 * (b - B))).take 32) else m.blockRead b := by
  rw [Ram.force_whole hlen, Ram.blockRead_foldl_putBlock fun x => overlay_length x [] (32 * B) bytes]
  by_cases h : B ≤ b ∧ b < B + n
  · have hmem : b ∈ (List.range n).map (· + B) := List.mem_map.2 ⟨b - B, List.mem_range.2 (by omega), by omega⟩
    rw [if_pos hmem, if_pos h, overlay_covered _ (by omega) (by omega), show 32 * b - 32 * B = 32 * (b - B) by omega]
  · have hmem : b ∉ (List.range n).map (· + B) := by
      intro hm
      obtain ⟨i, hi, rfl⟩ := List.mem_map.1 hm
      exact h ⟨by omega, by have := List.mem_range.1 hi; omega⟩
    rw [if_neg hmem, if_neg h]

end

theorem flatten_chunks (bs : List Byte) (n : Nat) : ((List.range n).map (fun i => (bs.drop (32 * i)).take 32)).flatten = bs.take (32 * n) := by
  induction n with
  | zero => simp
  | succ n ih => rw [List.range_succ, List.map_append, List.flatten_append, ih, Nat.mul_succ, List.take_add]; simp

theorem mapM_eq_some_map {α β : Type} {f : α → Option β} {g : α → β} {l : List α} (h : ∀ x ∈ l, f x = some (g x)) :
    l.mapM f = some (l.map g) := by
  induction l with
  | nil => rfl
  | cons x l ih => simp [List.mapM_cons, h x List.mem_cons_self, ih fun y hy => h y (List.mem_cons_of_mem x hy)]

/-- Bytes forced in with zeros up to the end of their last block: they read back, and a byte beside their blocks reads as before. -/
theorem Ram.read_force_padded (m : Ram) (fill : Nat → Byte) (B : Nat) (bs : List Byte) {pad : Nat}
    (h : bs.length + pad = 32 * ceilDiv bs.length 32) :
    (m.force fill (32 * B) (bs ++ zeros pad)).read (32 * B) bs.length = some bs := by
  have hlen : (bs ++ zeros pad).length = 32 * ceilDiv bs.length 32 := by simpa [zeros] using h
  have hblocks : blocksOf (32 * B) bs.length = (List.range (ceilDiv bs.length 32)).map (· + B) := by
    rw [← blocksOf_whole]
    unfold blocksOf ceilDiv
    by_cases h0 : bs.length = 0
    · simp [h0]
    · rw [if_neg h0, if_neg (by omega)]
      congr 2
      omega
  have hreads : ((List.range (ceilDiv bs.length 32)).map (· + B)).mapM (m.force fill (32 * B) (bs ++ zeros pad)).blockRead
      = some (((List.range (ceilDiv bs.length 32)).map (· + B)).map (fun b => ((bs ++ zeros pad).drop (32 * (b - B))).take 32)) := by
    refine mapM_eq_some_map fun b hb => ?_
    obtain ⟨i, hi, rfl⟩ := List.mem_map.1 hb
    have := List.mem_range.1 hi
    rw [Ram.blockRead_force_whole hlen, if_pos (by omega)]
  have hjoin : (((List.range (ceilDiv bs.length 32)).map (· + B)).map (fun b => ((bs ++ zeros pad).drop (32 * (b - B))).take 32)).flatten
      = bs ++ zeros pad := by
    rw [List.map_map]
    have := flatten_chunks (bs ++ zeros pad) (ceilDiv bs.length 32)
    rw [← hlen, List.take_length] at this
    simpa [Function.comp_def] using this
  rw [Ram.read, hblocks, hreads]
  simp only [hjoin]
  simp

theorem Ram.read_force_other (m : Ram) (fill : Nat → Byte) {B n a : Nat} (h : bytes.length = 32 * n) (ha : a < 32 * B ∨ 32 * B + 32 * n ≤ a) :
    (m.force fill (32 * B) bytes).read a 1 = m.read a 1 := by
  have hone : blocksOf a 1 = [a / 32] := by simp [blocksOf]
  have hb : (m.force fill (32 * B) bytes).blockRead (a / 32) = m.blockRead (a / 32) := by
    rw [Ram.blockRead_force_whole h, if_neg (by omega)]
  simp only [Ram.read, hone, List.mapM_cons, List.mapM_nil, hb]

end Sys2Proof.Machine
end

section
/-! PROOF. The placement of instances (03, R43 to R45; 09, R313; log 18). -/

namespace Sys2Proof.Machine

theorem noteVirt_none_sameBytes (s : State) (ctx va len : Nat) : SameBytes s (s.noteVirt none ctx va len) := by
  unfold State.noteVirt
  split
  · exact .refl s
  · exact SameBytes.foldl (fun s (l : Loc × Nat) => noteRead_sameBytes s l.1 l.2) _ s

/-- The slots of a region's cores keep their argument blocks at whole blocks of its memory. -/
theorem argPlace_eq (c : CoreId) (k : KsId) : ∃ B, argPlace c k = 32 * B :=
  ⟨argPlace c k / 32, by unfold argPlace regionBytes; omega⟩

theorem pad_eq (n : Nat) : n + (32 - n % 32) % 32 = 32 * ceilDiv n 32 := by
  unfold ceilDiv
  omega

/-- A command whose instances of one place in it are seated in a slot. -/
def Cmd.seated (cm : Cmd) (i : Inst) (c : CoreId) (k : KsId) : Cmd :=
  { cm with insts := cm.insts.map (fun j => if j.index = i.index then { j with placed := some (c, k) } else j) }

/-- A placement whose core has a free slot and store: the slot filled, the arguments copied, the command told. -/
theorem place_eq (s : State) (cm : Cmd) (i : Inst) (ctx : Nat) (c : CoreId) (bs : List Byte) {k : KsId} {base : Nat}
    (hk : s.cores[c].freeSlot? = some k) (hb : s.cores[c].freeStore cm.hdr.storeBytes = some base) :
    s.place cm i ctx c bs = (({ s.updSlot c k (fun _ => placedSlot s.cores[c] c k ctx (cm.at 0x10 8) cm i base s.nextReq) with
      nextReq := s.nextReq + 1 } : State).copyArgs c k ctx bs).updCmd cm.q cm.n (·.seated i c k) := by
  simp only [State.place, hk, hb]
  rfl

/-- The registers that a placement gives (R44, R45). -/
theorem placedSlot_s (co : Core) (c : CoreId) (k : KsId) (ctx image : Nat) (cm : Cmd) (i : Inst) (base no : Nat) (r : Fin 64) :
    (placedSlot co c k ctx image cm i base no).s[r] = if r = 1 then BitVec.ofNat 64 i.index else if r = 2 then BitVec.ofNat 64 cm.insts.length
      else if r = 5 then i.resume else if r = 60 then BitVec.ofNat 64 co.cap0 else if r = 61 then 0xFFF else 0 := by
  simp only [placedSlot, Fin.getElem_fin, Vector.getElem_set, Vector.getElem_replicate, Fin.ext_iff, eq_comm (b := r.val),
    Fin.coe_ofNat_eq_mod, Nat.reduceMod]
  grind

theorem copyArgs_argMaps (s : State) (c : CoreId) (k : KsId) (ctx : Nat) (bs : List Byte) : (s.copyArgs c k ctx bs).argMaps =
    if bs = [] then s.argMaps else
      { core := c, ks := k, ctx := ctx, va := argBlockAt c k, len := bs.length, addr := argPlace c k } :: s.argMaps := by
  cases bs <;> rfl

theorem copyArgs_frame (s : State) (c : CoreId) (k : KsId) (ctx : Nat) (bs : List Byte) :
    s.copyArgs c k ctx bs = { s with argMaps := (s.copyArgs c k ctx bs).argMaps, regionMem := (s.copyArgs c k ctx bs).regionMem } := by
  cases bs <;> rfl

theorem copyArgs_regionMem (s : State) (c : CoreId) (k : KsId) (ctx : Nat) {bs : List Byte} (h : bs ≠ []) : (s.copyArgs c k ctx bs).regionMem =
    s.regionMem.force (fun _ => 0) (argPlace c k) (bs ++ zeros ((32 - bs.length % 32) % 32)) := by
  simp [State.copyArgs, h]

/-- The arguments read back from the slot's place in the home region. -/
theorem copyArgs_read (s : State) (c : CoreId) (k : KsId) (ctx : Nat) (bs : List Byte) :
    (s.copyArgs c k ctx bs).regionMem.read (argPlace c k) bs.length = some bs := by
  obtain ⟨B, hB⟩ := argPlace_eq c k
  by_cases h : bs = []
  · subst h; rfl
  · rw [copyArgs_regionMem s c k ctx h, hB]
    exact Ram.read_force_padded _ _ B bs (pad_eq _)

theorem copyArgs_read_other (s : State) (c : CoreId) (k : KsId) (ctx : Nat) (bs : List Byte) {a : Nat}
    (ha : a < argPlace c k ∨ argPlace c k + ceilDiv bs.length 32 * 32 ≤ a) :
    (s.copyArgs c k ctx bs).regionMem.read a 1 = s.regionMem.read a 1 := by
  obtain ⟨B, hB⟩ := argPlace_eq c k
  by_cases h : bs = []
  · subst h; rfl
  · have hlen : (bs ++ zeros ((32 - bs.length % 32) % 32)).length = 32 * ceilDiv bs.length 32 := by
      rw [List.length_append, ← pad_eq]; simp [zeros]
    rw [copyArgs_regionMem s c k ctx h, hB]
    exact Ram.read_force_other _ _ hlen (by omega)

/-- Settles O28: the notes of the arguments' read touch no core and no command; the rest is the placement's. -/
theorem placementFillsASlot : Obligations.PlacementFillsASlot := by
  intro s q n cm qu i c k base bs hcm hqu hphase htype hheld htrap hending hquench hcores hinst hbest hk hbase hread
  obtain ⟨hframe, -⟩ := noteVirt_notes s none qu.ctx cm.args cm.hdr.argBytes
  have hsame := noteVirt_none_sameBytes s qu.ctx cm.args cm.hdr.argBytes
  have hexec : exec (.instancePlacement q n) s = .next ((s.noteVirt none qu.ctx cm.args cm.hdr.argBytes).place cm i qu.ctx c bs) := by
    simp [exec, execInstancePlacement, hcm, hqu, hphase, htype, hheld, htrap, hending, hquench, hcores, hinst, hbest, hread]
  generalize s.noteVirt none qu.ctx cm.args cm.hdr.argBytes = s1 at hframe hsame hexec
  have hcores1 : s1.cores = s.cores := by rw [hframe]
  obtain ⟨hq, hn⟩ : cm.q = q ∧ cm.n = n := by simpa using List.find?_some hcm
  have hplace := place_eq s1 cm i qu.ctx c bs (hcores1 ▸ hk) (hcores1 ▸ hbase)
  refine ⟨_, cm.seated i c k, hexec, ?_⟩
  generalize hsl : placedSlot s1.cores[c] c k qu.ctx (cm.at 0x10 8) cm i base s1.nextReq = sl at hplace
  generalize ht : s1.place cm i qu.ctx c bs = t at hplace ⊢
  generalize hu : ({ s1.updSlot c k (fun _ => sl) with nextReq := s1.nextReq + 1 } : State) = u at hplace
  have hframeU := copyArgs_frame u c k qu.ctx bs
  have htcores : t.cores = (s1.updSlot c k (fun _ => sl)).cores := by rw [hplace, hframeU, ← hu]; rfl
  have hslot : t.slot c k = sl := by
    simp only [State.slot, htcores]
    exact slot_updSlot_self s1 c k _
  have hcmds : t.cmd? q n = (s1.cmd? q n).map (·.seated i c k) := by
    rw [hplace, hq, hn, cmd?_updCmd_self _ q n (f := (·.seated i c k)) fun _ => ⟨rfl, rfl⟩, hframeU, ← hu]
    rfl
  have hargs : t.argMaps = (u.copyArgs c k qu.ctx bs).argMaps := by rw [hplace]; rfl
  have hmem : t.regionMem = (u.copyArgs c k qu.ctx bs).regionMem := by rw [hplace]; rfl
  refine ⟨?_, ?_, fun _ => ?_, fun a ha => ?_, ?_, rfl, ?_, ?_, ?_⟩
  · rw [hslot, ← hsl]
    refine ⟨rfl, rfl, rfl, rfl, rfl, by rw [← hq, ← hn]; rfl, fun r => ?_, fun r => ?_, fun r => ?_, rfl, rfl, rfl⟩
    · rw [placedSlot_s, hcores1]
    · simp [placedSlot, KSlot.idle]
    · simp [placedSlot, KSlot.idle]
  · rw [hargs, copyArgs_argMaps, ← hu, hframe]; rfl
  · rw [hmem, copyArgs_read]
  · rw [hmem, copyArgs_read_other _ c k _ _ ha, ← hu, hframe]; rfl
  · rw [hcmds, hframe]
    exact congrArg _ hcm
  · exact fun c' k' h => by
      simp only [State.slot, htcores]
      exact (slot_updSlot_other s1 h _).trans (by simp only [State.slot, hcores1])
  · exact (hsame.trans (show SameBytes s1 t by rw [hplace, hframeU, ← hu]; exact fun _ => rfl)).sameStacked
  · rw [hplace, hframeU, ← hu, hframe]; rfl

end Sys2Proof.Machine
end

section
/-! PROOF. What an engine instruction's effect may touch, by the operations that effects are made of (03, R48, R49, R66; 04; 06; 11). -/

namespace Sys2Proof.Machine

/-! ## Answers of a run that may fail -/

/-- What a run answers, where it answers. -/
def Answers {α : Type} (P : α → Prop) (x : Except AccErr α) : Prop := ∀ a, x = .ok a → P a

namespace Answers

variable {α β : Type} {P : α → Prop} {Q : β → Prop} {x : Except AccErr α} {f : α → Except AccErr β}

theorem ok {a : α} (h : P a) : Answers P (.ok a) := fun _ e => by cases e; exact h

theorem error (e : AccErr) : Answers P (.error e) := fun _ h => nomatch h

theorem bind (hx : Answers P x) (hf : ∀ a, P a → Answers Q (f a)) : Answers Q (x >>= f) := fun b h => by
  obtain ⟨a, ha, hb⟩ := bind_ok h
  exact hf a (hx a ha) b hb

/-- A step whose answer may be any. -/
theorem check (hf : ∀ a, Answers Q (f a)) : Answers Q (x >>= f) := bind (P := fun _ => True) (fun _ _ => trivial) fun a _ => hf a

theorem map {g : α → β} (hx : Answers P x) (hg : ∀ a, P a → Q (g a)) : Answers Q (x.map g) := fun b h => by
  cases x with
  | error _ => exact nomatch h
  | ok a => cases h; exact hg a (hx a rfl)

theorem ite {c : Prop} [Decidable c] {y : Except AccErr α} (hx : Answers P x) (hy : Answers P y) : Answers P (if c then x else y) := by
  split
  · exact hx
  · exact hy

theorem imp {P' : α → Prop} (hx : Answers P x) (h : ∀ a, P a → P' a) : Answers P' x := fun a e => h a (hx a e)

end Answers

/-! ## The effect of an instruction of one slot -/

/-- What an instruction of slot (c, k) may change: of the slot neither registers, predicates, pc and tile states nor a descriptor outside
`ds`, no other slot, and of the block only what the instructions name. -/
structure SlotEffect (ds : List (Fin 32)) (c : CoreId) (k : KsId) (s t : State) : Prop where
  frame : t = { s with cores := t.cores, regions := t.regions, coreStore := t.coreStore, accMem := t.accMem, regionMem := t.regionMem,
                       stacked := t.stacked, hostMem := t.hostMem, cmds := t.cmds, log := t.log, hif := t.hif, nextReq := t.nextReq,
                       freshCtr := t.freshCtr }
  others : otherSlots s t c k
  regs : (t.slot c k).s = (s.slot c k).s
  preds : (t.slot c k).p = (s.slot c k).p
  pc : (t.slot c k).pc = (s.slot c k).pc
  states : (t.slot c k).ts = (s.slot c k).ts
  descs : ∀ i ∉ ds, (t.slot c k).t[i] = (s.slot c k).t[i]

namespace SlotEffect

variable {ds : List (Fin 32)} {c : CoreId} {k : KsId} {s t u : State}

theorem refl (s : State) : SlotEffect ds c k s s := ⟨rfl, .refl s c k, rfl, rfl, rfl, rfl, fun _ _ => rfl⟩

theorem trans (a : SlotEffect ds c k s t) (b : SlotEffect ds c k t u) : SlotEffect ds c k s u where
  frame := by rw [b.frame, a.frame]
  others := a.others.trans b.others
  regs := b.regs.trans a.regs
  preds := b.preds.trans a.preds
  pc := b.pc.trans a.pc
  states := b.states.trans a.states
  descs i hi := (b.descs i hi).trans (a.descs i hi)

/-- A change beside the cores. -/
theorem of_rest (h : t = { s with regions := t.regions, coreStore := t.coreStore, accMem := t.accMem, regionMem := t.regionMem,
                                  stacked := t.stacked, hostMem := t.hostMem, cmds := t.cmds, log := t.log, hif := t.hif,
                                  nextReq := t.nextReq, freshCtr := t.freshCtr }) : SlotEffect ds c k s t := by
  have hcores : t.cores = s.cores := by rw [h]
  have hslot : t.slot c k = s.slot c k := by simp only [State.slot, hcores]
  exact ⟨by rw [h], .of_cores hcores, by rw [hslot], by rw [hslot], by rw [hslot], by rw [hslot], fun _ _ => by rw [hslot]⟩

theorem of_tiers (h : TiersOnly s t) : SlotEffect ds c k s t := of_rest (by rw [h])

theorem of_notes (h : NotesOnly s t) : SlotEffect ds c k s t := of_tiers h.tiers

/-- A change of the slot that keeps what instructions read of it. -/
theorem updSlot (s : State) {f : KSlot → KSlot} (hs : ∀ sl, (f sl).s = sl.s := by exact fun _ => rfl)
    (hp : ∀ sl, (f sl).p = sl.p := by exact fun _ => rfl) (hpc : ∀ sl, (f sl).pc = sl.pc := by exact fun _ => rfl)
    (hts : ∀ sl, (f sl).ts = sl.ts := by exact fun _ => rfl)
    (ht : ∀ sl, ∀ i ∉ ds, (f sl).t[i] = sl.t[i] := by exact fun _ _ _ => rfl) : SlotEffect ds c k s (s.updSlot c k f) where
  frame := rfl
  others := .updSlot s c k f
  regs := by rw [slot_updSlot_self, hs]
  preds := by rw [slot_updSlot_self, hp]
  pc := by rw [slot_updSlot_self, hpc]
  states := by rw [slot_updSlot_self, hts]
  descs i hi := by rw [slot_updSlot_self, ht _ i hi]

/-- A change of the core that keeps its slots. -/
theorem updCore (s : State) {f : Core → Core} (hf : ∀ co, (f co).slots = co.slots := by exact fun _ => rfl) :
    SlotEffect ds c k s (s.updCore c f) := by
  have hslot := slot_updCore s (f := f) c c k hf
  exact ⟨rfl, .updCore s c k hf, by rw [hslot], by rw [hslot], by rw [hslot], by rw [hslot], fun _ _ => by rw [hslot]⟩

theorem fresh (s : State) : SlotEffect ds c k s s.fresh := of_rest rfl

theorem updRegion (s : State) (g : RegionId) (f : Region → Region) : SlotEffect ds c k s (s.updRegion g f) := of_rest rfl

theorem accWrite (s : State) (ps : List (Nat × List Byte)) : SlotEffect ds c k s (s.accWrite ps) := of_rest rfl

theorem addFlags (s : State) (f : Flags) : SlotEffect ds c k s (s.addFlags c k f) := updSlot s

theorem setKind (s : State) (base rows cols : Nat) (kind : AccKind) : SlotEffect ds c k s (s.setKind c k base rows cols kind) := updSlot s

theorem countMac (s : State) (n : Nat) : SlotEffect ds c k s (s.countMac c n) := updCore s

theorem foldl {β : Type} {f : State → β → State} (hf : ∀ s b, SlotEffect ds c k s (f s b)) (l : List β) (s : State) :
    SlotEffect ds c k s (l.foldl f s) := foldl_within refl trans hf l s

end SlotEffect

/-! ## Notes of operands' reads -/

section
variable {ds : List (Fin 32)} {c : CoreId} {k : KsId}

theorem noteRange_effect (s : State) (c' : CoreId) (k' : KsId) (a len : Nat) (any : Bool) :
    SlotEffect ds c k s (s.noteRange c' k' a len any) := by
  unfold State.noteRange
  split
  · exact .foldl (fun s l => .of_notes (noteRead_notes s _ _)) _ s
  · exact .refl s

theorem noteRows_effect (s : State) (t : Tile) (want : Nat → Bool) : SlotEffect ds c k s (s.noteRows c k t want) := by
  unfold State.noteRows
  split
  · exact .refl s
  · refine .foldl (fun s r => ?_) _ s
    dsimp only
    split
    · exact .of_notes (noteRead_notes s _ _)
    · exact .of_notes (noteVirt_notes s _ _ _ _)

theorem noteTile_effect (s : State) (t : Tile) : SlotEffect ds c k s (s.noteTile c k t) := noteRows_effect s t _

theorem noteOption_effect (s : State) (t : Option Tile) : SlotEffect ds c k s (match t with
    | some t => s.noteTile c k t
    | none => s) := by
  cases t with
  | none => exact .refl s
  | some t => exact noteTile_effect s t

/-! ## Results written -/

/-- The run's answers are effects on a state. -/
abbrev Effects (ds : List (Fin 32)) (c : CoreId) (k : KsId) (s : State) (x : Except AccErr State) : Prop := Answers (SlotEffect ds c k s) x

theorem Answers.after {s u : State} {x : Except AccErr State} (h : SlotEffect ds c k s u) (hx : Effects ds c k u x) : Effects ds c k s x :=
  hx.imp fun _ ht => h.trans ht

/-- One run behind another. -/
theorem Answers.seq {s : State} {x : Except AccErr State} {f : State → Except AccErr State} (hx : Effects ds c k s x)
    (hf : ∀ u, Effects ds c k u (f u)) : Effects ds c k s (x >>= f) := Answers.bind hx fun u hu => .after hu (hf u)

theorem Answers.mapEffect {s : State} {x : Except AccErr State} {g : State → State} (hx : Effects ds c k s x)
    (hg : ∀ u, SlotEffect ds c k u (g u)) : Effects ds c k s (x.map g) := Answers.map hx fun u hu => hu.trans (hg u)

theorem Answers.foldlM {β : Type} {f : State → β → Except AccErr State} (hf : ∀ s b, Effects ds c k s (f s b)) (l : List β) (s : State) :
    Effects ds c k s (l.foldlM f s) := by
  induction l generalizing s with
  | nil => exact .ok (.refl s)
  | cons b l ih => rw [List.foldlM_cons]; exact .seq (hf s b) fun u => ih u

theorem writeRaw_effects (s : State) (t : Tile) (raw scales : List (List Nat)) : Effects ds c k s (s.writeRaw c k t raw scales) :=
  have hwrite (ws : List (Loc × List Byte)) : Effects ds c k s (s.writeAll ws) := fun _ h => .of_tiers (writeAll_tiers h)
  .check fun _ => .ite (.check fun _ => hwrite _) (.check fun _ => hwrite _)

theorem writeFree_effects (s : State) (t : Tile) : Effects ds c k s (s.writeFree c k t) := .after (.fresh s) (writeRaw_effects _ t _ _)

theorem writeNums_effects (s : State) (t : Tile) (nanovf : Bool) (xs : List (List Num)) :
    Effects ds c k s (s.writeNums c k t nanovf xs) := .seq (writeRaw_effects s t _ _) fun u => .ok (.addFlags u _)

theorem drain_effect (s : State) (l : List Drained) : SlotEffect ds c k s (s.drain c k l) := by
  have hovf (co : Core) : (l.foldl (fun co d => co.setOvf d.addr d.ovf) co).slots = co.slots := by
    induction l generalizing co with
    | nil => rfl
    | cons d l ih => exact (ih _).trans (by cases d with | mk a b o _ _ => cases o <;> rfl)
  exact ((SlotEffect.accWrite s _).trans (.updCore _ hovf)).trans (.addFlags _ _)

theorem accumF_effects (s : State) (base m n : Nat) (ovw : Bool) (sums : Nat → Nat → List Num) :
    Effects ds c k s (s.accumF c k base m n ovw sums) := .check fun _ => .ok ((drain_effect s _).trans (.fresh _))

theorem accumI_effects (s : State) (base m n : Nat) (ovw : Bool) (sums : Nat → Nat → List Int) :
    Effects ds c k s (s.accumI c k base m n ovw sums) := .check fun _ => .ok ((drain_effect s _).trans (.fresh _))

end

end Sys2Proof.Machine
end

section
/-! PROOF. Names made resident, and the effects of the anvil group's and the vector engine's instructions (04, R74 to R81; 06, R132 to R136). -/

namespace Sys2Proof.Machine

variable {ds : List (Fin 32)} {c : CoreId} {k : KsId}

/-! ## Names made resident (R134) -/

theorem spillOut_effects (s : State) (n tile : Nat) : Effects ds c k s (s.spillOut c k n tile) :=
  .check fun _ => .bind (P := SlotEffect ds c k s) (fun _ h => .of_tiers (writePieces_tiers h)) fun u hu =>
    .ok (hu.trans ((SlotEffect.updSlot u).trans (.fresh _)))

theorem spillIn_effect (s : State) (n phys : Nat) (rows : List (List Nat)) : SlotEffect ds c k s (s.spillIn c k n phys rows) := by
  have hovf (l : List (Nat × Option Bool)) (co : Core) : (l.foldl (fun co m => co.setOvf m.1 m.2) co).slots = co.slots := by
    induction l generalizing co with
    | nil => rfl
    | cons m l ih => exact (ih _).trans (by rcases m with ⟨a, _ | _⟩ <;> rfl)
  exact ((SlotEffect.updSlot s).trans (.accWrite _ _)).trans (.updCore _ (hovf _))

theorem makeResident1_effect (s : State) (wanted : List Nat) (n : Nat) :
    Answers (fun o => ∀ t ∈ o, SlotEffect ds c k s t) (s.makeResident1 c k wanted n) := by
  have hin (u : State) (phys : Nat) (rows : List (List Nat)) : ∀ t ∈ some (u.spillIn c k n phys rows), SlotEffect ds c k u t := by
    rintro _ ⟨⟩
    exact spillIn_effect u n phys rows
  unfold State.makeResident1
  dsimp only
  split
  · exact .ok fun _ h => by cases h; exact .refl s
  · split
    · exact .error _
    · exact .ok (hin s _ _)
    · split
      · exact .ok fun _ h => nomatch h
      · split
        · exact .map (spillOut_effects s _ _) fun u hu t ht => hu.trans (hin u _ _ t ht)
        · exact .ok fun _ h => nomatch h

theorem makeResident_effect {s s1 : State} {names : List Nat} (h : s.makeResident c k names = .ok (some s1)) : SlotEffect ds c k s s1 := by
  have hall (u : Except AccErr (Option State)) (hu : Answers (fun o => ∀ t ∈ o, SlotEffect ds c k s t) u) (l : List Nat) :
      Answers (fun o => ∀ t ∈ o, SlotEffect ds c k s t) (l.foldl (fun acc n => match acc with
        | .ok (some s) => s.makeResident1 c k names n
        | r => r) u) := by
    induction l generalizing u with
    | nil => exact hu
    | cons n l ih =>
      refine ih _ ?_
      match u, hu with
      | .ok (some v), hu => exact (makeResident1_effect v names n).imp fun _ ht t h => (hu _ rfl _ rfl).trans (ht t h)
      | .ok none, hu => exact hu
      | .error _, hu => exact hu
  exact hall _ (.ok fun _ h => by cases h; exact .refl s) names _ h s1 rfl

/-! ## Plans -/

/-- Every effect of a row's plan, where it has one, stays within the slot's. -/
def PlanEffects (ds : List (Fin 32)) (c : CoreId) (k : KsId) (x : Except AccErr (Option Plan)) : Prop :=
  Answers (fun o => ∀ p ∈ o, ∀ s, Effects ds c k s (p.apply s)) x

namespace PlanEffects

variable {α : Type} {e : Except AccErr α} {f : α → Except AccErr (Option Plan)} {x y : Except AccErr (Option Plan)}

theorem check (hf : ∀ a, PlanEffects ds c k (f a)) : PlanEffects ds c k (e >>= f) := Answers.check hf

theorem none : PlanEffects ds c k (.ok none) := .ok fun _ h => nomatch h

theorem some {p : Plan} (h : ∀ s, Effects ds c k s (p.apply s)) : PlanEffects ds c k (.ok (some p)) := .ok fun _ e => by cases e; exact h

theorem ite {q : Prop} [Decidable q] (hx : PlanEffects ds c k x) (hy : PlanEffects ds c k y) : PlanEffects ds c k (if q then x else y) :=
  Answers.ite hx hy

/-- A step taken in one of two ways. -/
theorem choice {q : Prop} [Decidable q] {e' : Except AccErr α} (hf : ∀ a, PlanEffects ds c k (f a)) :
    PlanEffects ds c k (if q then e >>= f else e' >>= f) := ite (check hf) (check hf)

theorem malformed : PlanEffects ds c k malformed := Answers.error _

end PlanEffects

/-- A step taken in one of two ways. -/
theorem Answers.choice {α β : Type} {P : β → Prop} {q : Prop} [Decidable q] {e e' : Except AccErr α} {f : α → Except AccErr β}
    (hf : ∀ a, Answers P (f a)) : Answers P (if q then e >>= f else e' >>= f) := .ite (.check hf) (.check hf)

/-! ## MMA, MMA3, CMMA -/

theorem noteList_effect (s : State) (w : W128) (sl : KSlot) : SlotEffect ds c k s (s.noteList c k w sl) := by
  unfold State.noteList
  split
  · exact noteRange_effect s c k _ _ _
  · exact .refl s

theorem noteTile2_effect (s : State) (a b : Tile) : SlotEffect ds c k s ((s.noteTile c k a).noteTile c k b) :=
  (noteTile_effect s a).trans (noteTile_effect _ b)

/-- An accumulation whose overwrite form also sets the names' kind. -/
theorem setKindIf_effects (s : State) (q : Prop) [Decidable q] (base rows cols : Nat) (kind : AccKind) :
    Effects ds c k s (.ok (if q then s.setKind c k base rows cols kind else s)) := by
  split
  · exact .ok (.setKind s base rows cols kind)
  · exact .ok (.refl s)

theorem mmaOne_effects (s : State) (zmul : Bool) (p : Problem) : Effects ds c k s (s.mmaOne c k zmul p) := by
  refine .ite ?_ ?_
  · exact .check fun _ => .check fun _ => .after (noteTile2_effect s _ _) (.seq (accumI_effects _ _ _ _ _ _) fun u => setKindIf_effects u _ _ _ _ _)
  · exact .check fun _ => .check fun _ => .after (noteTile2_effect s _ _) (.seq (accumF_effects _ _ _ _ _ _) fun u => setKindIf_effects u _ _ _ _ _)

theorem planMma_effects (s : State) (sl : KSlot) (w : W128) : PlanEffects ds c k (s.planMma c k sl w) := by
  unfold State.planMma
  repeat refine .check fun _ => ?_
  refine .ite .none (.check fun _ => .some fun s => ?_)
  exact .after (noteList_effect s w sl) (.mapEffect (.foldlM (fun u p => mmaOne_effects u _ p) _ _) fun u => .countMac u _)

theorem mma3One_effects (s : State) (p : Problem) : Effects ds c k s (s.mma3One c k p) :=
  .check fun _ => .check fun _ => .after (noteTile2_effect s _ _) (.seq (accumF_effects _ _ _ _ _ _) fun u => setKindIf_effects u _ _ _ _ _)

theorem planMma3_effects (s : State) (sl : KSlot) (w : W128) : PlanEffects ds c k (s.planMma3 c k sl w) := by
  unfold State.planMma3
  repeat refine .check fun _ => ?_
  refine .ite .none (.check fun _ => .some fun s => ?_)
  exact .after (noteList_effect s w sl) (.mapEffect (.foldlM (fun u p => mma3One_effects u p) _ _) fun u => .countMac u _)

theorem applyCmma_effects (s : State) (w : W128) (ta tb tc te : Tile) : Effects ds c k s (s.applyCmma c k w ta tb tc te) := by
  have hnotes : SlotEffect ds c k s ((((s.noteTile c k ta).noteTile c k tb).noteTile c k tc).noteTile c k te) :=
    (noteTile2_effect s ta tb).trans (noteTile2_effect _ tc te)
  have hkinds (u : State) (q : Prop) [Decidable q] (b b' m n : Nat) (kind : AccKind) :
      Effects ds c k u (.ok (if q then (u.setKind c k b m n kind).setKind c k b' m n kind else u)) := by
    split
    · exact .ok ((SlotEffect.setKind u b m n kind).trans (.setKind _ b' m n kind))
    · exact .ok (.refl u)
  refine .ite ?_ ?_
  · exact .check fun _ => .check fun _ => .check fun _ => .check fun _ => .after hnotes
      (.seq (accumI_effects _ _ _ _ _ _) fun u => .seq (accumI_effects u _ _ _ _ _) fun u => hkinds u _ _ _ _ _ _)
  · exact .check fun _ => .check fun _ => .check fun _ => .check fun _ => .after hnotes
      (.seq (accumF_effects _ _ _ _ _ _) fun u => .seq (accumF_effects u _ _ _ _ _) fun u => hkinds u _ _ _ _ _ _)

theorem planCmma_effects (s : State) (sl : KSlot) (w : W128) : PlanEffects ds c k (s.planCmma c k sl w) := by
  unfold State.planCmma
  repeat refine .check fun _ => ?_
  refine .ite .none (.check fun _ => .some fun s => ?_)
  exact .mapEffect (applyCmma_effects s w _ _ _ _) fun u => .countMac u _

/-! ## SCORE, STEP -/

theorem applyScore_effects (s : State) (w : W128) (ta tb tc td : Tile) : Effects ds c k s (s.applyScore c k w ta tb tc td) :=
  .choice fun _ => .choice fun _ => .check fun _ => .check fun _ => .choice fun _ => .after (noteTile2_effect s ta tb)
    (.seq (writeRaw_effects _ td _ _) fun u => .seq (writeRaw_effects u tc _ _) fun u => .ok (.addFlags u _))

theorem planScore_effects (s : State) (sl : KSlot) (w : W128) : PlanEffects ds c k (s.planScore c k sl w) := by
  unfold State.planScore
  repeat refine .check fun _ => ?_
  refine .ite .none (.check fun _ => .some fun s => ?_)
  exact .mapEffect (applyScore_effects s w _ _ _ _) fun u => .countMac u _

theorem applyStep_effects (s : State) (w : W128) (ta tb : Tile) (td : Option Tile) (steps streams : Nat) :
    Effects ds c k s (s.applyStep c k w ta tb td steps streams) := by
  have hkept (ps : List (Nat × List Byte)) (l : List Nat) (cols : Nat) : SlotEffect ds c k s
      (l.foldl (fun s n => s.setKind c k n streams cols .float) (((s.noteTile c k ta).noteTile c k tb).accWrite ps)) :=
    ((noteTile2_effect s ta tb).trans (.accWrite _ ps)).trans (.foldl (fun u n => .setKind u n _ _ _) l _)
  refine .check fun _ => .check fun _ => .check fun _ => ?_
  cases td with
  | none => exact .ok (hkept _ _ _)
  | some td => exact .after (hkept _ _ _) (writeRaw_effects _ td _ _)

theorem planStep_effects (s : State) (sl : KSlot) (w : W128) : PlanEffects ds c k (s.planStep c k sl w) := by
  unfold State.planStep
  refine .check fun _ => .check fun _ => .check fun _ => .choice fun _ => ?_
  repeat refine .check fun _ => ?_
  refine .ite .none (.check fun _ => .some fun s => ?_)
  exact .mapEffect (applyStep_effects s w _ _ _ _ _) fun u => .countMac u _

/-! ## The vector engine -/

/-- The notes of operands of which an instruction has those that it names. -/
theorem noteOptions_effect (s : State) (l : List (Option Tile)) : SlotEffect ds c k s (l.foldl (fun (s : State) t => match t with
    | some t => s.noteTile c k t
    | none => s) s) := .foldl (fun s t => noteOption_effect s t) l s

theorem applyVop_effects (s : State) (w : W128) (o : VopOps) : Effects ds c k s (s.applyVop c k w o) := by
  have hwrite (l : List (Option Tile)) (f : Flags) (xs : List (List Num)) : Effects ds c k s
      (((l.foldl (fun (s : State) t => match t with
        | some t => s.noteTile c k t
        | none => s) s).addFlags c k f).writeNums c k o.td false xs) :=
    .after ((noteOptions_effect s l).trans (.addFlags _ f)) (writeNums_effects _ _ _ _)
  rcases o with ⟨ta, _ | tb, _ | tc, td, rows, cols⟩ <;> exact .check fun _ => .check fun _ => .check fun _ => hwrite _ _ _

theorem planVop_effects (s : State) (sl : KSlot) (w : W128) : PlanEffects ds c k (s.planVop c k sl w) := by
  unfold State.planVop
  refine .check fun _ => .check fun _ => .check fun _ => .choice fun _ => .choice fun _ => .choice fun _ => .choice fun _ => ?_
  repeat refine .check fun _ => ?_
  exact .ite .none (.check fun _ => .some fun s => applyVop_effects s w _)

theorem applyWindow_effects (s : State) (d : WinDesc) (opos : Nat) (ta tb : Tile) (tc : Option Tile) (td : Tile) :
    Effects ds c k s (s.applyWindow c k d opos ta tb tc td) := by
  have hwrite (f : Flags) (xs : List (List Num)) : Effects ds c k s
      ((((s.noteRows c k ta (d.names opos td.rows)).noteTile c k tb).addFlags c k f).writeNums c k td false xs) :=
    .after (((noteRows_effect s ta _).trans (noteTile_effect _ tb)).trans (.addFlags _ f)) (writeNums_effects _ td _ _)
  cases tc <;> exact .check fun _ => .check fun _ => .check fun _ => hwrite _ _

theorem planWindow_effects (s : State) (sl : KSlot) (w : W128) : PlanEffects ds c k (s.planWindow c k sl w) := by
  unfold State.planWindow
  refine .check fun _ => .check fun _ => .choice fun _ => ?_
  repeat refine .check fun _ => ?_
  exact .ite .none (.check fun _ => .some fun s => applyWindow_effects s _ _ _ _ _ _)

theorem applyNorm_effects (s : State) (w : W128) (ta tc td : Tile) : Effects ds c k s (s.applyNorm c k w ta tc td) :=
  .check fun _ => .check fun _ => .after (noteTile2_effect s ta tc) (.seq (writeNums_effects _ td _ _) fun u =>
    .ite (.ok (.addFlags u _)) (.ok (.refl u)))

theorem planNorm_effects (s : State) (sl : KSlot) (w : W128) : PlanEffects ds c k (s.planNorm c k sl w) := by
  unfold State.planNorm
  repeat refine .check fun _ => ?_
  exact .ite .none (.check fun _ => .some fun s => applyNorm_effects s w _ _ _)

theorem applyMeasure_effects (s : State) (w : W128) (src td : Tile) : Effects ds c k s (s.applyMeasure c k w src td) := by
  have hnote : SlotEffect ds c k s (if wMode w 1 then s else s.noteTile c k src) := by
    split
    · exact .refl s
    · exact noteTile_effect s src
  exact .choice fun _ => .after hnote (writeRaw_effects _ td _ _)

theorem planMeasure_effects (s : State) (sl : KSlot) (w : W128) : PlanEffects ds c k (s.planMeasure c k sl w) := by
  unfold State.planMeasure
  refine .choice fun _ => ?_
  repeat refine .check fun _ => ?_
  exact .ite .none (.check fun _ => .some fun s => applyMeasure_effects s w _ _)

theorem applyCast_effects (s : State) (w : W128) (ta tb tc : Option Tile) (td : Tile) : Effects ds c k s (s.applyCast c k w ta tb tc td) := by
  have hwrite (l : List (Option Tile)) (raw scales : List (List Nat)) (f : Flags) : Effects ds c k s (do
      let s ← (l.foldl (fun (s : State) t => match t with
        | some t => s.noteTile c k t
        | none => s) s).writeRaw c k td raw scales
      return s.addFlags c k f) :=
    .after (noteOptions_effect s l) (.seq (writeRaw_effects _ td _ _) fun u => .ok (.addFlags u f))
  cases ta <;> cases tb <;> cases tc <;> exact .check fun _ => .check fun _ => .check fun _ => .ite (hwrite _ _ _ _) (hwrite _ _ _ _)

theorem planCast_effects (s : State) (sl : KSlot) (w : W128) : PlanEffects ds c k (s.planCast c k sl w) := by
  unfold State.planCast
  refine .check fun _ => .choice fun _ => .choice fun _ => .choice fun _ => ?_
  repeat refine .check fun _ => ?_
  exact .ite .none (.check fun _ => .some fun s => applyCast_effects s w _ _ _ _)

theorem planRot_effects (s : State) (sl : KSlot) (w : W128) : PlanEffects ds c k (s.planRot c k sl w) := by
  unfold State.planRot
  repeat refine .check fun _ => ?_
  refine .ite .none (.check fun _ => .some fun s => Answers.check fun _ => .ite ?_ ?_)
  · exact .mapEffect (writeFree_effects s _) fun u => .addFlags u _
  · exact .after (noteTile_effect s _) (writeNums_effects _ _ _ _)

theorem planArgmax_effects (s : State) (sl : KSlot) (w : W128) : PlanEffects ds c k (s.planArgmax c k sl w) := by
  unfold State.planArgmax
  repeat refine .check fun _ => ?_
  exact .ite .none (.check fun _ => .some fun s => Answers.check fun _ => .after (noteTile_effect s _) (writeRaw_effects _ _ _ _))

theorem planGumbel_effects (s : State) (sl : KSlot) (w : W128) : PlanEffects ds c k (s.planGumbel c k sl w) := by
  unfold State.planGumbel
  refine .check fun _ => .check fun _ => .check fun _ => .check fun _ => ?_
  dsimp only
  cases lookup s.seqs sl.s[wReg w 64].toNat with
  | none => exact .malformed
  | some sq =>
    refine .check fun _ => .check fun _ => .check fun _ => .check fun _ => .ite .none (.check fun _ => .some fun s => ?_)
    exact Answers.check fun _ => .after (noteTile_effect s _) (.seq (writeNums_effects _ _ _ _) fun u => .ok (.addFlags u _))

end Sys2Proof.Machine
end

section
/-! PROOF. The effects of the tensor mover's instructions, and what an engine instruction leaves alone (04, R82, R83; 11, R207 to R214). -/

namespace Sys2Proof.Machine

variable {ds : List (Fin 32)} {c : CoreId} {k : KsId}

/-! ## Copies -/

theorem copyTile_effects (s : State) (a d : Tile) : Effects ds c k s (s.copyTile c k a d) :=
  .check fun _ => .check fun _ => .after (noteTile_effect s a) (writeRaw_effects _ d _ _)

theorem planLdt_effects (s : State) (sl : KSlot) (w : W128) : PlanEffects ds c k (s.planLdt c k sl w) := by
  unfold State.planLdt
  repeat refine .check fun _ => ?_
  exact .ite .none (.some fun s => copyTile_effects s _ _)

theorem planLdtWindow_effects (s : State) (sl : KSlot) (w : W128) : PlanEffects ds c k (s.planLdtWindow c k sl w) := by
  unfold State.planLdtWindow
  repeat refine .check fun _ => ?_
  exact .ite .none (.some fun s => Answers.check fun _ =>
    .ite (writeFree_effects s _) (.after (noteRows_effect s _ _) (writeRaw_effects _ _ _ _)))

theorem storeAcc_effects (s : State) (base : Nat) (td : Tile) : Effects ds c k s (s.storeAcc c k base td) :=
  .check fun _ => .seq (writeRaw_effects s td _ _) fun u => .ok (.addFlags u _)

theorem planStt_effects (s : State) (sl : KSlot) (w : W128) : PlanEffects ds c k (s.planStt c k sl w) := by
  refine .ite ?_ ?_
  · repeat refine .check fun _ => ?_
    exact .ite .none (.some fun s => storeAcc_effects s _ _)
  · repeat refine .check fun _ => ?_
    exact .ite .none (.some fun s => copyTile_effects s _ _)

/-! ## Contributions and descriptors -/

theorem sendContrib_effects (s : State) (w : W128) (ta : Option Tile) (td : Tile) (g : RegionId) :
    Effects ds c k s (s.sendContrib c k w ta td g) := by
  have hsend (u : State) (r : AtomReq) (n : Nat) (f : Flags) : SlotEffect ds c k u
      (({ u.updRegion g (fun x => { x with atomQ := x.atomQ ++ [r] }) with nextReq := n } : State).addFlags c k f) :=
    (SlotEffect.of_rest rfl).trans (.addFlags _ f)
  refine .check fun a => .ok ?_
  cases ta with
  | none => exact hsend s _ _ _
  | some t => exact (noteTile_effect s t).trans (hsend _ _ _ _)

theorem planContrib_effects (s : State) (sl : KSlot) (w : W128) : PlanEffects ds c k (s.planContrib c k sl w) := by
  refine .check fun _ => .check fun _ => .choice fun _ => ?_
  repeat refine .check fun _ => ?_
  exact .ite .none (.check fun _ => .some fun s => sendContrib_effects s w _ _ _)

/-- MOVT writes its own descriptor alone. -/
theorem planMovt_effects (s : State) (sl : KSlot) (w : W128) : PlanEffects [wTD w] c k (s.planMovt c k sl w) := by
  refine .check fun v => .some fun s => .ok ?_
  have hset (u : State) : SlotEffect [wTD w] c k u (u.updSlot c k (fun sl => { sl with t := sl.t.set (wTD w) v })) := by
    refine .updSlot u (ht := fun sl i hi => ?_)
    have hne : (wTD w).val ≠ i.val := fun e => hi (List.mem_singleton.2 (Fin.ext e.symm))
    simp [hne]
  split
  · exact (noteRange_effect s c k _ _ _).trans (hset _)
  · exact hset s

/-! ## Acts on pools (R200, R202, R208, R213) -/

namespace TiersAct

theorem mapM {α β : Type} {f : α → Act β} (hf : ∀ a, TiersAct (f a)) (l : List α) : TiersAct (l.mapM f) := by
  induction l with
  | nil => exact .pure _
  | cons a l ih => rw [List.mapM_cons]; exact .bind (hf a) fun _ => .bind ih fun _ => .pure _

theorem ite {α : Type} {q : Prop} [Decidable q] {a b : Act α} (ha : TiersAct a) (hb : TiersAct b) : TiersAct (if q then a else b) := by
  split
  · exact ha
  · exact hb

end TiersAct

section
variable (p : Pool)

theorem tiersAct_descend (l : List Nat) (j : Nat) (own : Bool) : TiersAct (p.descend l j own) := by
  induction l generalizing j own with
  | nil => exact .pure _
  | cons i rest ih =>
    cases rest with
    | nil => exact .bind (p.tiersAct_readBlock j) fun _ => .pure _
    | cons i' rest => exact .bind (p.tiersAct_readBlock j) fun b => .ite (ih _ _) (.pure _)

theorem tiersAct_endBelow (f j pn : Nat) : TiersAct (p.endBelow f j pn) := by
  induction f generalizing j pn with
  | zero => exact .pure _
  | succ f ih =>
    refine .bind (p.tiersAct_readBlock j) fun b => ?_
    split
    · exact .pure _
    · exact .ite (.pure _) (ih _ _)

theorem tiersAct_layerEnd (root lh : Nat) : TiersAct (p.layerEnd root lh) := by
  refine .bind (tiersAct_descend p _ _ _) fun r => ?_
  cases r with
  | none => exact .pure _
  | some e => exact .ite (tiersAct_endBelow p _ _ _) (.pure _)

theorem tiersAct_takePage : TiersAct p.takePage :=
  .bind (.bind (tiersAct_getNat ..) fun _ => .bind (.need ..) fun _ => .bind (tiersAct_getNat ..) fun _ =>
    .bind (tiersAct_putNat ..) fun _ => .pure _) fun _ => .bind (tiersAct_putVirt ..) fun _ => .pure _

theorem tiersAct_copyTokens (src dst fill : Nat) : TiersAct (p.copyTokens src dst fill) :=
  have hcopy (va va' len : Nat) : TiersAct (do
      let bs ← getVirt p.ctx va len
      putVirt p.ctx va' bs
      pure (ForInStep.yield PUnit.unit)) := .bind (tiersAct_getVirt ..) fun _ => .bind (tiersAct_putVirt ..) fun _ => .pure _
  .bind (.forIn fun _ _ => .bind (.forIn fun _ _ => hcopy _ _ _) fun _ => .pure _) fun _ => .pure _

theorem tiersAct_choosePage (root lh pn : Nat) : TiersAct (p.choosePage root lh pn) := by
  have htake : TiersAct (p.takePage >>= fun id => pure (id, true, false)) := .bind (tiersAct_takePage p) fun _ => .pure _
  refine .bind (tiersAct_descend p _ _ _) fun r => ?_
  cases r with
  | none => exact htake
  | some e =>
    exact .ite (.bind (tiersAct_getNat ..) fun _ => .ite (.pure _) (.bind (tiersAct_takePage p) fun _ =>
      .bind (tiersAct_copyTokens p _ _ _) fun _ => .pure _)) htake

theorem tiersAct_gatherPage (sq : Seq) (own : List AppendPage) (seq inst lh endPos pos : Nat) (values : Bool) :
    TiersAct (gatherPage p sq own seq inst lh endPos pos values) := by
  refine .ite (.bind (tiersAct_descend p _ _ _) fun r => ?_) ?_
  · cases r with
    | none => exact .fail _
    | some e => exact .ite (.pure _) (.fail _)
  · split
    · exact .fail _
    · exact .bind (.need ..) fun _ => .pure _

theorem tiersAct_gatherTokens (sq : Seq) (own : List AppendPage) (inst : Nat) (a : KvArgs) (values : Bool) :
    TiersAct (gatherTokens p sq own inst a values) :=
  .bind (tiersAct_layerEnd p _ _) fun _ => .mapM (fun _ => .bind (tiersAct_gatherPage p _ _ _ _ _ _ _ _) fun _ =>
    .bind (.mapM (fun _ => tiersAct_getVirt ..) _) fun _ => .pure _) _

end

/-! ## Gathers -/

theorem putGather_effects (s : State) (td : Tile) (decode : Bool) (fmt : Nat) (toks : List (List Nat × List Nat)) :
    Effects ds c k s (s.putGather c k td decode fmt toks) := .ite (writeNums_effects s td _ _) (writeRaw_effects s td _ _)

theorem planRemote_effects (s u : State) (td : Tile) (a : KvArgs) : Effects ds c k u ((s.planRemote c k td a).apply u) :=
  .after (.fresh u) (writeRaw_effects _ td _ _)

theorem planLocal_effects (s : State) (sl : KSlot) (w : W128) (a : KvArgs) (td : Tile) (plain : Bool) :
    Answers (fun p : Plan => ∀ u, Effects ds c k u (p.apply u)) (s.planLocal c k sl w a td plain) := by
  unfold State.planLocal
  dsimp only
  split
  · exact .error _
  · repeat refine .check fun _ => ?_
    refine .ok fun u => .bind (P := fun x => TiersOnly u x.2) (fun x h => (tiersAct_gatherTokens _ _ _ _ _ _).only u x.1 x.2 h) fun x hx => ?_
    exact .after (.of_tiers hx) (putGather_effects x.2 td _ _ _)

theorem planGather_effects (s : State) (sl : KSlot) (w : W128) : PlanEffects ds c k (s.planGather c k sl w) := by
  have hplan (p : Plan) (hp : ∀ u, Effects ds c k u (p.apply u)) (q r : Bool) (b : Prop) [Decidable b] :
      PlanEffects ds c k (do need q stLimit; need r stMalformed; return if b then none else some p) := by
    refine .check fun _ => .check fun _ => ?_
    split
    · exact .none
    · exact .some hp
  refine .check fun td => .check fun _ => .check fun src => .check fun _ => ?_
  cases src with
  | node n => exact .check fun _ => .some fun u => planRemote_effects s u td _
  | here => exact Answers.bind (planLocal_effects s sl w _ td true) fun p hp => hplan p hp _ _ _
  | asPeer => exact Answers.bind (planLocal_effects s sl w _ td false) fun p hp => hplan p hp _ _ _

/-! ## Tokens appended (R83, R208, R209) -/

/-- An act whose answering runs stay within the effect of an instruction of the slot. -/
structure EffectAct {α : Type} (ds : List (Fin 32)) (c : CoreId) (k : KsId) (a : Act α) : Prop where
  only : ∀ s x t, a.run s = .ok (x, t) → SlotEffect ds c k s t

namespace EffectAct

variable {α β : Type}

theorem tiers {a : Act α} (h : TiersAct a) : EffectAct ds c k a := ⟨fun s x t e => .of_tiers (h.only s x t e)⟩

theorem pure (x : α) : EffectAct ds c k (Pure.pure x : Act α) := tiers (.pure x)

theorem bind {a : Act α} {f : α → Act β} (ha : EffectAct ds c k a) (hf : ∀ x, EffectAct ds c k (f x)) : EffectAct ds c k (a >>= f) :=
  .mk fun s _ _ h => by
    obtain ⟨x, u, hx, h⟩ := Act.of_bind h
    exact (ha.only s x u hx).trans ((hf x).only u _ _ h)

theorem modify {f : State → State} (hf : ∀ s, SlotEffect ds c k s (f s)) : EffectAct ds c k (modify f : Act PUnit) :=
  .mk fun s _ _ h => Act.of_modify h ▸ hf s

theorem forIn {l : List β} {r : α} {f : β → α → Act (ForInStep α)} (hf : ∀ b r, EffectAct ds c k (f b r)) :
    EffectAct ds c k (forIn l r f) := .mk fun s _ _ h =>
  Act.forIn_keeps (P := SlotEffect ds c k s) (fun b _ r _ z t hs h => hs.trans ((hf b r).only _ z t h)) (.refl s) h

end EffectAct

theorem updCmd_effect (s : State) (q n : Nat) (f : Cmd → Cmd) : SlotEffect ds c k s (s.updCmd q n f) := .of_rest rfl

theorem effectAct_touchPage (p : Pool) (q n : Nat) (sq : Seq) (seq lh pn : Nat) : EffectAct ds c k (touchPage p q n sq seq lh pn) := by
  refine .bind (.tiers .get) fun s => ?_
  split
  · exact .tiers (.fail _)
  · split
    · exact .pure _
    · have hkeep (copied : Bool) (f : Cmd → Cmd) (g : State → RegionId) (h : RegionCnt → RegionCnt) (u : State) : SlotEffect ds c k u
          (if copied then (u.updCmd q n f).updCnt (g (u.updCmd q n f)) h else u.updCmd q n f) := by
        split
        · exact .of_rest rfl
        · exact updCmd_effect u q n f
      have hids : TiersAct ((List.range p.levels).mapM (fun _ => p.popBlock)) := .mapM (fun _ => p.tiersAct_popBlock) _
      refine .bind (.tiers (tiersAct_choosePage p _ _ _)) fun r => ?_
      dsimp only
      split
      · exact .bind (.tiers hids) fun _ => .bind (.modify fun u => hkeep _ _ (fun s => (s.poolHome p).getD 0) _ u) fun _ => .pure _
      · exact .bind (.tiers (.pure _)) fun _ => .bind (.modify fun u => hkeep _ _ (fun s => (s.poolHome p).getD 0) _ u) fun _ => .pure _

theorem effectAct_putToken (p : Pool) (q n inst age : Nat) (sq : Seq) (a : KvArgs) (values : Bool) (pos : Nat) (scales elems : List Nat) :
    EffectAct ds c k (putToken p q n inst age sq a values pos scales elems) := by
  refine .bind (effectAct_touchPage p q n sq _ _ _) fun pg => .bind (.tiers (.need ..)) fun _ => ?_
  exact .bind (.forIn fun _ _ => .bind (.tiers (tiersAct_putVirt ..)) fun _ => .pure _) fun _ => .modify fun s => updCmd_effect s q n _

theorem applyKvapp_effects (s : State) (w : W128) (a : KvArgs) (ta : Option Tile) (q n : Nat) (sq : Seq) (p : Pool) :
    Effects ds c k s (s.applyKvapp c k w a ta q n sq p) := by
  have hact (u : State) (inst age : Nat) (toks : List (List Nat × List Nat × Flags)) (f : Flags) : Effects ds c k u (do
      let (_, s) ← (do
        for x in (List.range toks.length).zip toks do
          putToken p q n inst age sq a (wMode w 3) (a.pos + x.1) x.2.1 x.2.2.1 : Act Unit).run u
      return s.addFlags c k f) := by
    have htoks : EffectAct ds c k (do
        for x in (List.range toks.length).zip toks do
          putToken p q n inst age sq a (wMode w 3) (a.pos + x.1) x.2.1 x.2.2.1 : Act Unit) :=
      .bind (.forIn fun x _ => .bind (effectAct_putToken p q n inst age sq a _ _ _ _) fun _ => .pure _) fun _ => .pure _
    exact .bind (P := fun x => SlotEffect ds c k u x.2) (fun x h => htoks.only u x.1 x.2 h) fun x hx => .ok (hx.trans (.addFlags _ f))
  cases ta with
  | none => exact .check fun _ => hact s _ _ _ _
  | some t => exact .check fun _ => .after (noteTile_effect s t) (hact _ _ _ _ _)

theorem planKvapp_effects (s : State) (sl : KSlot) (w : W128) : PlanEffects ds c k (s.planKvapp c k sl w) := by
  refine .choice fun ta => .check fun _ => .check fun r => ?_
  repeat refine .check fun _ => ?_
  exact .ite .none (.some fun s => applyKvapp_effects s w _ _ _ _ _ _)

/-! ## Every row -/

theorem rowPlan_effects (s : State) (r : RowKind) (sl : KSlot) (w : W128) : PlanEffects (descsWritten w r) c k (rowPlan s c k r sl w) := by
  cases r with
  | fence | fenceEnd | claim | commit | scalar | branch => exact .none
  | ldt => exact planLdt_effects s sl w
  | ldtGather => exact planGather_effects s sl w
  | ldtWindow => exact planLdtWindow_effects s sl w
  | stt => exact planStt_effects s sl w
  | sttContrib => exact planContrib_effects s sl w
  | movt => exact planMovt_effects s sl w
  | kvapp => exact planKvapp_effects s sl w
  | vopTile => exact planVop_effects s sl w
  | window => exact planWindow_effects s sl w
  | norm => exact planNorm_effects s sl w
  | measure => exact planMeasure_effects s sl w
  | cast => exact planCast_effects s sl w
  | rot => exact planRot_effects s sl w
  | argmax => exact planArgmax_effects s sl w
  | gumbel => exact planGumbel_effects s sl w
  | mma => exact planMma_effects s sl w
  | mma3 => exact planMma3_effects s sl w
  | cmma => exact planCmma_effects s sl w
  | score => exact planScore_effects s sl w
  | step => exact planStep_effects s sl w

/-- Settles O10: the names' residency and the plan's effect stay within the slot's. -/
theorem engineInstructionFrame : Obligations.EngineInstructionFrame := by
  intro s c k r w p s1 s2 _ hplan hres happly
  have heffect : SlotEffect (descsWritten w r) c k s s2 :=
    (makeResident_effect hres).trans (rowPlan_effects s r (s.slot c k) w _ hplan p rfl s1 s2 happly)
  exact ⟨heffect.regs, heffect.preds, heffect.pc, heffect.descs, heffect.states, heffect.others, heffect.frame⟩

end Sys2Proof.Machine
end

section
/-! PROOF. The sequencer's own issue, the branch class and the arithmetic of the scalar class (03, R50, R51, R56, R60; 04, R84, R85). -/

namespace Sys2Proof.Machine

variable {s t : State} {c : CoreId} {k : KsId} {r : RowKind} {w : W128}

/-! ## The sequencer's own issue -/

theorem issueSeq_of_ok (h : readyToIssue s c k r w) {act : KSlot → W128 → Except AccErr State} (ha : act (s.slot c k) w = .ok t) :
    s.issueSeq c k r act = t := by
  have hfront := front_of_ready h
  obtain ⟨_, _, _, _, _, _, hturn, hstop⟩ := h
  simp [State.issueSeq, hfront, hturn, hstop, ha]

/-! ## Branches -/

theorem exec_vopBranch_of_index (h : readyToIssue s c k .branch w) (ht : branchTarget (s.slot c k) w < (s.slot c k).hdr.length) :
    exec (.vopBranch c k) s = .next ((s.advance c k).updSlot c k (fun x => { x with pc := branchTarget (s.slot c k) w })) := by
  refine congrArg Host.Outcome.next (issueSeq_of_ok h ?_)
  simp only [need, ht, decide_true, if_true]
  rfl

theorem exec_vopBranch_past (h : readyToIssue s c k .branch w) (ht : (s.slot c k).hdr.length ≤ branchTarget (s.slot c k) w) :
    exec (.vopBranch c k) s = .next (s.trapSlot c k stMalformed) := by
  obtain ⟨_, _, _, _, _, _, hturn, hstop⟩ := id h
  refine congrArg Host.Outcome.next (issueSeq_of_error (front_of_ready h) hturn hstop (err := .status stMalformed .none) ?_)
  simp only [need, Nat.not_lt.2 ht, decide_false, Bool.false_eq_true, if_false]
  rfl

/-- A branch to index 1. -/
def branchToOne : W128 := 0x10000000000000011

theorem executing_branchToOne : readyToIssue (executingState branchToOne 0) 0 0 .branch branchToOne := by
  unfold readyToIssue nextIs
  decide +kernel

/-- Refutes O16: a branch past the end of an image of one instruction traps a slot whose MMA executes, and `freshCtr` moves on. -/
theorem not_branchSetsPc : ¬ Obligations.BranchSetsPc := by
  unfold Obligations.BranchSetsPc
  intro h
  have hready := executing_branchToOne
  have hlength : ((executingState branchToOne 0).slot 0 0).hdr.length = 1 := by decide +kernel
  have hpast : ((executingState branchToOne 0).slot 0 0).hdr.length ≤ branchTarget ((executingState branchToOne 0).slot 0 0) branchToOne := by
    rw [hlength]; decide
  obtain ⟨t, he, ht⟩ := (h _ _ _ _ hready).2 (by rw [hlength]; decide)
  cases (exec_vopBranch_past hready hpast).symm.trans he
  exact not_trapOf_trapSlot (executingState_anvQ _ _) rfl _ _ _ ht

/-! ## Arithmetic of the scalar class -/

theorem exec_vopScalar_of_ok (h : readyToIssue s c k .scalar w) (ha : s.scalar c k (s.slot c k) w = .ok t) :
    exec (.vopScalar c k) s = .next t := congrArg Host.Outcome.next (issueSeq_of_ok h ha)

/-- A change of the slot from what it holds, and the pc moved on. -/
theorem advance_updSlot (s : State) (c : CoreId) (k : KsId) (f : KSlot → KSlot) :
    (s.updSlot c k f).advance c k = afterIssue s c k (f (s.slot c k)) := rfl

/-- Operand B of the scalar class: the immediate, or SB. -/
def KSlot.scalarB (sl : KSlot) (w : W128) : W64 := if 128 ≤ wFunc w then BitVec.ofNat 64 (wImm w) else sl.s[wReg w 38]

theorem scalar_op (hc : wFunc w % 128 ≤ 0x0E) : s.scalar c k (s.slot c k) w = .ok (afterIssue s c k ((s.slot c k).setS (wReg w 50)
    (scalarOp (wFunc w % 128) (s.slot c k).s[wReg w 44] ((s.slot c k).scalarB w)))) := by
  unfold State.scalar
  dsimp only
  rw [if_neg (by omega), if_neg (by omega), if_neg (by omega), if_neg (by omega), advance_updSlot]
  rfl

theorem scalar_movi (hc : wFunc w % 128 = 0x1F) :
    s.scalar c k (s.slot c k) w = .ok (afterIssue s c k ((s.slot c k).setS (wReg w 50) (BitVec.ofNat 64 (wImm w)))) := by
  unfold State.scalar
  dsimp only
  rw [if_pos hc, advance_updSlot]
  rfl

theorem scalar_cmp (hl : 0x10 ≤ wFunc w % 128) (hh : wFunc w % 128 ≤ 0x15) : s.scalar c k (s.slot c k) w =
    .ok (afterIssue s c k ((s.slot c k).setPred (wPD w).val
      (scalarCmp (wFunc w % 128) (s.slot c k).s[wReg w 44] ((s.slot c k).scalarB w)))) := by
  unfold State.scalar
  dsimp only
  rw [if_neg (by omega), if_neg (by omega), if_neg (by omega), if_pos hl, advance_updSlot]
  rfl

theorem setPred_eq (sl : KSlot) (i : Fin 8) (v : Bool) : sl.setPred i.val v = if i = 0 then sl else { sl with p := sl.p.set i v } := by
  have hi : i.val % 8 = i.val := Nat.mod_eq_of_lt i.isLt
  by_cases h : i = 0
  · subst h; rfl
  · have h0 : i.val ≠ 0 := fun e => h (Fin.ext e)
    simp only [KSlot.setPred, hi, h0, h, if_false]

/-! ## Values of the operations -/

theorem scalarOp_sra (a b : W64) : (scalarOp 0x08 a b).toInt = a.toInt / 2 ^ (b.toNat % 64) := by
  simp only [scalarOp, BitVec.toInt_sshiftRight, Int.shiftRight_eq_div_pow]
  norm_cast

theorem scalarOp_smin (a b : W64) : (scalarOp 0x09 a b).toInt = min a.toInt b.toInt := by
  simp only [scalarOp, BitVec.slt_iff_toInt_lt]
  split <;> omega

theorem scalarOp_smax (a b : W64) : (scalarOp 0x0A a b).toInt = max a.toInt b.toInt := by
  simp only [scalarOp, BitVec.slt_iff_toInt_lt]
  split <;> omega

theorem scalarOp_umin (a b : W64) : (scalarOp 0x0B a b).toNat = min a.toNat b.toNat := by
  simp only [scalarOp, BitVec.ult_iff_toNat_lt]
  split <;> omega

theorem scalarOp_umax (a b : W64) : (scalarOp 0x0C a b).toNat = max a.toNat b.toNat := by
  simp only [scalarOp, BitVec.ult_iff_toNat_lt]
  split <;> omega

theorem scalarOp_div (a b : W64) : (scalarOp 0x0D a b).toNat = if b = 0 then 2 ^ 64 - 1 else a.toNat / b.toNat := by
  simp only [scalarOp]
  split
  · rfl
  · exact BitVec.toNat_udiv

theorem scalarOp_rem (a b : W64) : (scalarOp 0x0E a b).toNat = if b = 0 then a.toNat else a.toNat % b.toNat := by
  simp only [scalarOp]
  split
  · rfl
  · exact BitVec.toNat_umod

theorem scalarCmp_ne (a b : W64) : scalarCmp 0x11 a b = decide (a ≠ b) := (decide_not (p := a = b)).symm

theorem scalarCmp_slt (a b : W64) : scalarCmp 0x12 a b = decide (a.toInt < b.toInt) := BitVec.slt_eq_decide
theorem scalarCmp_ult (a b : W64) : scalarCmp 0x13 a b = decide (a.toNat < b.toNat) := BitVec.ult_eq_decide

theorem scalarCmp_sge (a b : W64) : scalarCmp 0x14 a b = decide (b.toInt ≤ a.toInt) := by
  simp only [scalarCmp, BitVec.slt_eq_decide, ← decide_not, not_lt]

theorem scalarCmp_uge (a b : W64) : scalarCmp 0x15 a b = decide (b.toNat ≤ a.toNat) := by
  simp only [scalarCmp, BitVec.ult_eq_decide, ← decide_not, not_lt]

/-- Settles O14: each kind of operation by its own rule, the values of the operations one by one. -/
theorem scalarVopWritesOneRegister : Obligations.ScalarVopWritesOneRegister := by
  refine ⟨fun s c k w h => ⟨fun hc => ?_, fun hc => ?_, fun hl hh => ?_⟩, fun a b => ⟨rfl, rfl, rfl, rfl, rfl, rfl, rfl, rfl,
    scalarOp_sra a b, scalarOp_smin a b, scalarOp_smax a b, scalarOp_umin a b, scalarOp_umax a b, scalarOp_div a b, scalarOp_rem a b,
    rfl, scalarCmp_ne a b, scalarCmp_slt a b, scalarCmp_ult a b, scalarCmp_sge a b, scalarCmp_uge a b⟩⟩
  · exact exec_vopScalar_of_ok h (scalar_op hc)
  · exact exec_vopScalar_of_ok h (scalar_movi hc)
  · rw [exec_vopScalar_of_ok h (scalar_cmp hl hh), setPred_eq]
    rfl

end Sys2Proof.Machine
end

section
/-! PROOF. Scalar LD and ST: the words that an operand register addresses lie in core store or region memory, whose checkers' notes count and
log alone (03, R53; 04, R84; 15, R277; 18, R360; log 17). -/

namespace Sys2Proof.Machine

variable {s t u : State} {c : CoreId} {k : KsId} {w : W128} {l : Loc}

/-! ## Notes of SRAM reads -/

/-- What the notes of a read touch where no row of a stack is repaired: counts, the log and its messages. -/
def CountsOnly (s t : State) : Prop := t = { s with regions := t.regions, log := t.log, hif := t.hif }

namespace CountsOnly

theorem refl (s : State) : CountsOnly s s := rfl

theorem trans (a : CountsOnly s t) (b : CountsOnly t u) : CountsOnly s u := by unfold CountsOnly at *; rw [b, a]

theorem updCnt (s : State) (g : RegionId) (f : RegionCnt → RegionCnt) : CountsOnly s (s.updCnt g f) := rfl

theorem logEv (s : State) (a : LogArgs) : CountsOnly s (s.logEv a) := by unfold CountsOnly; rw [logEv_frame]

theorem logLimited (s : State) (key max : Nat) (a : LogArgs) : CountsOnly s (s.logLimited key max a) := by
  unfold CountsOnly; rw [logLimited_frame]

theorem foldl {β : Type} {f : State → β → State} {l : List β} (hf : ∀ s, ∀ b ∈ l, CountsOnly s (f s b)) (s : State) :
    CountsOnly s (l.foldl f s) := by
  induction l generalizing s with
  | nil => exact .refl s
  | cons b l ih => exact (hf s b (by simp)).trans (ih (fun s b hb => hf s b (by simp [hb])) (f s b))

theorem cores (h : CountsOnly s t) : t.cores = s.cores := by rw [h]
theorem slot (h : CountsOnly s t) : t.slot c k = s.slot c k := by simp only [State.slot, h.cores]

end CountsOnly

/-- A place outside the stacks: its checker's SOURCE is not theirs. -/
def Loc.sram (l : Loc) : Prop := l.source.1 ≠ 3

theorem Loc.sram_at (h : l.sram) (a : Nat) : (l.at a).sram := by cases l <;> exact h

theorem Loc.sram_of_holdsWord {g : RegionId} {any : Bool} (h : l.holdsWord g any = true) : l.sram := by
  cases l with
  | stacked a => exact nomatch h
  | _ => exact fun e => nomatch e

theorem noteBlock_counts (h : l.sram) (s : State) (x : Checked) : CountsOnly s (s.noteBlock l x) := by
  have hsram : (l.source.1 != 3) = true := bne_iff_ne.2 h
  unfold State.noteBlock State.noteBlockBy
  cases x with
  | clean _ => exact .refl s
  | unwritten => exact .logEv _ _
  | corrected _ b => simp only [hsram, if_true]; exact (CountsOnly.updCnt ..).trans (.logLimited ..)
  | error => simp only [hsram, if_true]; exact (CountsOnly.updCnt ..).trans (.logEv ..)

theorem noteRead_counts (h : l.sram) (s : State) (len : Nat) : CountsOnly s (s.noteRead l len) := by
  unfold State.noteRead
  split
  · dsimp only
    split
    · exact (CountsOnly.foldl (fun s _ _ => noteBlock_counts (Loc.sram_at h _) s _) s).trans (.updCnt ..)
    · exact .foldl (fun s _ _ => noteBlock_counts (Loc.sram_at h _) s _) s
  · exact .refl s

theorem noteParts_counts (h : l.sram) (s : State) (bs : List Nat) : CountsOnly s (s.noteParts l bs) := by
  unfold State.noteParts
  split
  · exact .foldl (fun s _ _ => noteBlock_counts (Loc.sram_at h _) s _) s
  · exact .refl s

/-! ## Words -/

theorem of_need {b : Bool} {st : Nat} {x : Unit} (h : need b st = .ok x) : b = true := by
  cases b with
  | true => rfl
  | false => exact nomatch h

/-- Operand words lie in core store or in region memory. -/
theorem wordPlaces_sram {a len : Nat} {write any : Bool} {ls : List (Loc × Nat)} (h : s.wordPlaces c k a len write any = .ok ls) :
    ∀ x ∈ ls, x.1.sram := by
  unfold State.wordPlaces at h
  dsimp only at h
  split at h
  · split at h
    · cases h
      exact List.forall_mem_singleton.2 fun e => nomatch e
    · exact nomatch h
  · obtain ⟨ls', _, h⟩ := bind_ok h
    obtain ⟨_, hneed, h⟩ := bind_ok h
    cases h
    intro x hx
    exact Loc.sram_of_holdsWord (List.all_eq_true.1 (of_need hneed) x hx)

theorem noteRange_counts (s : State) (c : CoreId) (k : KsId) (a len : Nat) (any : Bool) : CountsOnly s (s.noteRange c k a len any) := by
  unfold State.noteRange
  split
  next ls h => exact .foldl (fun s x hx => noteRead_counts (wordPlaces_sram h x hx) s x.2) s
  next => exact .refl s

theorem wordRead_of_ok {a : Nat} {bs : List Byte} (ha : a % 8 = 0) (hl : s.wordPlace c k a 8 false = .ok l) (hb : s.readLoc l 8 = .ok bs) :
    s.wordRead c k a 8 8 = .ok bs := by
  simp [State.wordRead, ha, hl, hb]

/-- A write of SRAM that answers: the notes of the blocks it covers in part, and its RAM written. -/
theorem writeLoc_sram {bs : List Byte} {m m' : Ram} {x : Nat} (h : l.sram) (he : s.locErr l = none) (hr : s.ramOf l = some (m, x))
    (hw : m.write x bs = some m') : ∃ u, CountsOnly s u ∧ s.writeLoc l bs = .ok (u.putRam l m') := by
  have hnotes := noteParts_counts h s (partBlocks l.addr bs.length)
  refine ⟨_, hnotes, ?_⟩
  have hram : (s.noteParts l (partBlocks l.addr bs.length)).ramOf l = some (m, x) := by
    rw [hnotes]
    cases l <;> exact hr
  unfold State.writeLoc
  cases l with
  | host p a => exact nomatch hr
  | stacked a => exact absurd rfl h
  | core a => simp only [he, hram, hw]; rfl
  | acc a => simp only [he, hram, hw]; rfl
  | region a => simp only [he, hram, hw]; rfl

theorem putRam_cores (s : State) (l : Loc) (m : Ram) : (s.putRam l m).cores = s.cores := by cases l <;> rfl

theorem wordWrite_of_place {a : Nat} {bs : List Byte} (ha : a % 8 = 0) (hl : s.wordPlace c k a bs.length true = .ok l) :
    s.wordWrite c k a bs = s.writeLoc l bs := by
  simp [State.wordWrite, ha, hl]

/-! ## LD and ST -/

/-- The address of scalar LD and ST: SA + IMM. -/
def KSlot.scalarAddr (sl : KSlot) (w : W128) : Nat := (sl.s[wReg w 44] + BitVec.ofNat 64 (wImm w)).toNat

theorem scalar_load {bs : List Byte} (hc : wFunc w % 128 = 0x18) (hb : s.wordRead c k ((s.slot c k).scalarAddr w) 8 8 = .ok bs) :
    s.scalar c k (s.slot c k) w = .ok (((s.noteWord c k ((s.slot c k).scalarAddr w) 8).updSlot c k
      (fun x => x.setS (wReg w 50) (BitVec.ofNat 64 (leNat bs)))).advance c k) := by
  unfold KSlot.scalarAddr at hb
  unfold State.scalar
  dsimp only
  rw [if_neg (by omega), if_pos hc, hb]
  rfl

theorem scalar_store (hc : wFunc w % 128 = 0x19)
    (hb : s.wordWrite c k ((s.slot c k).scalarAddr w) (leBytes 8 ((s.slot c k).s[wReg w 38]).toNat) = .ok t) :
    s.scalar c k (s.slot c k) w = .ok (t.advance c k) := by
  unfold KSlot.scalarAddr at hb
  unfold State.scalar
  dsimp only
  rw [if_neg (by omega), if_neg (by omega), if_pos hc, hb]
  rfl

/-- What moving the pc on leaves of a state that differs from s beside the cores. -/
theorem advance_after (h : t.cores = s.cores) :
    (t.advance c k).slot c k = { s.slot c k with pc := (s.slot c k).pc + 1 } ∧ otherSlots s (t.advance c k) c k := by
  have hslot : t.slot c k = s.slot c k := by simp only [State.slot, h]
  exact ⟨by rw [advance_slot, hslot], (otherSlots.of_cores h).trans (advance_others t)⟩

section
variable (h : readyToIssue s c k .scalar w) (ha : (s.slot c k).scalarAddr w % 8 = 0)
include h ha

theorem exec_load {bs : List Byte} (hc : wFunc w % 128 = 0x18) (hl : s.wordPlace c k ((s.slot c k).scalarAddr w) 8 false = .ok l)
    (hb : s.readLoc l 8 = .ok bs) : ∃ t, exec (.vopScalar c k) s = .next t
      ∧ t.slot c k = { s.slot c k with
          pc := (s.slot c k).pc + 1, s := (s.slot c k).s.set (wReg w 50) (BitVec.ofNat 64 (leNat bs)) }
      ∧ otherSlots s t c k ∧ sameMemory s t
      ∧ t = { s with cores := t.cores, regions := t.regions, log := t.log, hif := t.hif } := by
  have hnotes : CountsOnly s (s.noteWord c k ((s.slot c k).scalarAddr w) 8) := noteRange_counts ..
  refine ⟨_, exec_vopScalar_of_ok h (scalar_load hc (wordRead_of_ok ha hl hb)), ?_⟩
  generalize s.noteWord c k ((s.slot c k).scalarAddr w) 8 = u at hnotes
  refine ⟨?_, ?_, ?_, ?_⟩
  · rw [advance_slot, slot_updSlot_self, hnotes.slot]; rfl
  · exact ((otherSlots.of_cores hnotes.cores).trans (.updSlot u c k _)).trans (advance_others _)
  · rw [hnotes]; exact ⟨rfl, rfl, rfl, fun _ => rfl, rfl⟩
  · rw [hnotes]; rfl

/-- A store into a RAM that is not the stacks': the notes of the blocks it covers in part, its RAM written, the pc moved on. -/
theorem exec_store {m m' : Ram} {x : Nat} (hc : wFunc w % 128 = 0x19)
    (hl : s.wordPlace c k ((s.slot c k).scalarAddr w) 8 true = .ok l) (he : s.locErr l = none) (hsram : l.sram)
    (hr : s.ramOf l = some (m, x)) (hw : m.write x (leBytes 8 ((s.slot c k).s[wReg w 38]).toNat) = some m') :
    ∃ u, CountsOnly s u ∧ exec (.vopScalar c k) s = .next ((u.putRam l m').advance c k)
      ∧ ((u.putRam l m').advance c k).slot c k = { s.slot c k with pc := (s.slot c k).pc + 1 }
      ∧ otherSlots s ((u.putRam l m').advance c k) c k := by
  obtain ⟨u, hu, hwrite⟩ := writeLoc_sram hsram he hr hw
  refine ⟨u, hu, exec_vopScalar_of_ok h (scalar_store hc ?_), advance_after ?_⟩
  · rw [wordWrite_of_place ha (by rw [leBytes_length]; exact hl), hwrite]
  · rw [putRam_cores, hu.cores]

end

/-- Settles O15: a load leaves the notes of its read, a store those of the blocks that it covers in part and its RAM written. -/
theorem scalarLoadAndStore : Obligations.ScalarLoadAndStore := by
  intro s c k w h sl a ha
  refine ⟨fun l bs hc hl hb => exec_load h ha hc hl hb, fun l x m hc hl he => ⟨?_, ?_⟩⟩
  · rintro rfl hw
    obtain ⟨u, hu, hexec, hslot, hothers⟩ := exec_store h ha hc hl he (fun e => nomatch e) rfl hw
    exact ⟨_, hexec, rfl, hslot, hothers, by rw [hu]; rfl⟩
  · rintro rfl hw
    obtain ⟨u, hu, hexec, hslot, hothers⟩ := exec_store h ha hc hl he (fun e => nomatch e) rfl hw
    exact ⟨_, hexec, rfl, hslot, hothers, by rw [hu]; rfl⟩

end Sys2Proof.Machine
end

section
/-! PROOF. MOVT (04, R67, R70, R73, R82; 03, R49). -/

namespace Sys2Proof.Machine

variable {s : State} {c : CoreId} {k : KsId} {w : W128} {v : W256}

/-! ## The value -/

theorem setFld_lt {n d : Nat} (hi x : Nat) (hn : hi < n) (hd : d < 2 ^ n) : setFld d hi 0 x < 2 ^ n := by
  obtain ⟨m, rfl⟩ := Nat.exists_eq_add_of_lt hn
  have hpow : 2 ^ (hi + m + 1) = 2 ^ (hi + 1) * 2 ^ m := by rw [← pow_add]; congr 1; omega
  have hq : d / 2 ^ (hi + 1) < 2 ^ m := Nat.div_lt_of_lt_mul (hpow ▸ hd)
  have hx := Nat.mod_lt x (Nat.two_pow_pos (hi + 1))
  have hkeep : d - d % 2 ^ (hi + 1) = 2 ^ (hi + 1) * (d / 2 ^ (hi + 1)) := by have := Nat.div_add_mod d (2 ^ (hi + 1)); omega
  simp only [setFld, fld, pow_zero, Nat.div_one, mul_one, Nat.sub_zero, hkeep, hpow]
  calc _ < 2 ^ (hi + 1) * (d / 2 ^ (hi + 1)) + 2 ^ (hi + 1) := by omega
    _ = 2 ^ (hi + 1) * (d / 2 ^ (hi + 1) + 1) := by ring
    _ ≤ 2 ^ (hi + 1) * 2 ^ m := Nat.mul_le_mul_left _ hq

/-- A copy comes from a register that is not INVALID. -/
theorem movtValue_copy (hf : wFunc w = 0) (h : s.movtValue c k (s.slot c k) w = .ok v) :
    (s.slot c k).ts[wTA w] ≠ .invalid ∧ v = (s.slot c k).t[wTA w] := by
  unfold State.movtValue at h
  rw [if_neg (by omega)] at h
  obtain ⟨_, hneed, h⟩ := bind_ok h
  rw [if_pos hf] at h
  cases h
  exact ⟨bne_iff_ne.1 (of_need hneed), rfl⟩

theorem movtValue_rebase (hf : wFunc w = 2) (h : s.movtValue c k (s.slot c k) w = .ok v) :
    v.toNat = setFld (s.slot c k).t[wTA w].toNat 47 0 (movtAddr (s.slot c k) w) := by
  unfold State.movtValue at h
  rw [if_neg (by omega)] at h
  obtain ⟨_, _, h⟩ := bind_ok h
  rw [if_neg (by omega), if_pos hf] at h
  cases h
  exact Nat.mod_eq_of_lt (setFld_lt 47 _ (by decide) (s.slot c k).t[wTA w].isLt)

/-! ## The effect -/

/-- A descriptor register written behind the notes of a read. -/
theorem planMovt_of_value (hv : s.movtValue c k (s.slot c k) w = .ok v) : ∃ p, s.planMovt c k (s.slot c k) w = .ok (some p) ∧ p.names = []
    ∧ ∀ u, ∃ u', CountsOnly u u' ∧ p.apply u = .ok (u'.updSlot c k (fun sl => { sl with t := sl.t.set (wTD w) v })) := by
  unfold State.planMovt
  rw [hv]
  refine ⟨_, rfl, rfl, fun u => ⟨_, ?_, rfl⟩⟩
  split
  · exact noteRange_counts u c k _ 32 true
  · exact .refl u

theorem ts_of_issued_movt {ts ts' : Vector TState 32}
    (h : ∀ i : Fin 32, ts'[i] = if i ∈ tilesWritten w .movt ++ descsWritten w .movt then .pending else ts[i]) :
    ts' = ts.set (wTD w) .pending := by
  refine Vector.ext fun i hi => ?_
  have hi' := h ⟨i, hi⟩
  simp only [tilesWritten, descsWritten, List.nil_append, List.mem_singleton, Fin.ext_iff, Fin.getElem_fin] at hi'
  simp only [hi', Vector.getElem_set, eq_comm (a := i)]

/-- Settles O13: the plan's effect is the register's write behind a read's notes, and the row issues as every engine instruction does. -/
theorem movtWritesOneDescriptor : Obligations.MovtWritesOneDescriptor := by
  intro s c k w v h ho hv
  obtain ⟨p, hp, hnames, happly⟩ := planMovt_of_value hv
  obtain ⟨u, hu, ha⟩ := happly (s.updSlot c k (fun sl => { sl with flags := {} }))
  obtain ⟨t, x, hexec, _, _, _, _, _, _, _, _, _, _, hpc, _, _, _, hts, _, hs, ht, hpred, hothers, hframe⟩ :=
    engineInstructionsIssue s c k .movt .mover w p s _ h rfl hp (by rw [hnames]; exact ho) (by simp [hnames]) (by rw [hnames]; rfl) ha
  have hslot : u.slot c k = { s.slot c k with flags := {} } := hu.slot.trans (slot_updSlot_self s c k _)
  rw [slot_updSlot_self, hslot] at hpc hs ht hpred
  simp only [slot_updSlot_self, hslot] at hts
  have hbefore : otherSlots s u c k := (otherSlots.updSlot s c k _).trans (.of_cores hu.cores)
  refine ⟨t, hexec, ht, ts_of_issued_movt hts, hs, hpred, hpc, ?_, (hbefore.trans (.updSlot u c k _)).trans hothers,
    fun hf => movtValue_copy hf hv, fun hf => movtValue_rebase hf hv⟩
  rw [hframe, hu]
  exact ⟨rfl, rfl, rfl, fun _ => rfl, rfl⟩

end Sys2Proof.Machine
end

section
/-! PROOF. COMMIT on a bitmap that lies in the queue table (08, R159; 16, R297, R299; log 67). The table's blocks are read as their entries'
bytes, and a write to a table's place goes to the RAM beneath, where no read finds it: a done bit set there still reads clear. -/

namespace Sys2Proof.Machine

/-- Whether an act answers from a state, with an answer and a state that p accepts. -/
def Act.answers {α : Type} (a : Act α) (s : State) (p : α → State → Bool) : Bool :=
  match a.run s with
  | .ok (x, t) => p x t
  | .error _ => false

theorem Act.of_answers {α : Type} {a : Act α} {s : State} {p : α → State → Bool} (h : a.answers s p = true) :
    ∃ x t, a.run s = .ok (x, t) ∧ p x t = true := by
  unfold Act.answers at h
  split at h
  · exact ⟨_, _, ‹_›, h⟩
  · exact nomatch h

/-- A context whose top table is at the bottom of stack 0. -/
def tableCtx : Ctx :=
  { admin := false, altOk := true, home := 0, maxPrio := 7, exclCores := 0, root := 0, poolTable := 0, poolCount := 0, eventCount := 0,
    eventTable := 0, flashBase := 0, flashBlocks := 0, paused := false }

/-- A queue of context 0. Its entry begins with MINOR 0; the 8 bytes at offset 8, where a bitmap has TILES, end with DEPTH 4. -/
def tableQueue : Queue :=
  { ctx := 0, prio := 0, role := 0, irqEn := false, minor := 0, major := 1, depth := 4, cmdRing := 0, cplRing := 0, statusBlock := 0, vector := 0,
    gen := 1, state := .active, accepted := 0, completed := 0, tail := 0, fetchFailed := false, held := [], prevOk := none }

/-- A written block of stacked memory: a word of 8 bytes, then zeros. -/
def wordBlock (addr word : Nat) : List Host.Cell := (List.range 32).map (fun i => (addr + i, (leBytes 8 word).getD i 0))

/-- After reset, but queues 0 and 1 exist, and context 0's page 0 is the queue table's first page, writable. A bitmap at address 0 has its header
in the entry of queue 0 and its done bits in that of queue 1, whose block has been written. -/
def tableMapped : State :=
  { State.reset with
    ctxs := [(0, tableCtx)]
    queues := [(0, tableQueue), (1, tableQueue)]
    stacked :=
      { cells := wordBlock 0 0x1001 ++ wordBlock 0x1000 0x2001 ++ wordBlock 0x2000 (State.reset.tblQueue + 3)
          ++ wordBlock (State.reset.tblQueue + 64) 0
        bad := [] } }

theorem tableMapped_wf : memoriesWf tableMapped = true := by decide +kernel

/-- Two COMMITs of tile 0 in turn both find its bit clear, at one and the same place. -/
theorem commitAct_tableMapped_twice : ∃ s1 s2, (commitAct 0 0 0).run tableMapped = .ok (1, s1) ∧ (commitAct 0 0 0).run s1 = .ok (1, s2)
    ∧ s1.xlateRange none 0 (0 + 0x40 + 0 / 8) 1 false = tableMapped.xlateRange none 0 (0 + 0x40 + 0 / 8) 1 false := by
  have h : (commitAct 0 0 0).answers tableMapped (fun v s1 => v == 1
      && decide (s1.xlateRange none 0 (0 + 0x40 + 0 / 8) 1 false = tableMapped.xlateRange none 0 (0 + 0x40 + 0 / 8) 1 false)
      && (commitAct 0 0 0).answers s1 (fun v _ => v == 1)) = true := by decide +kernel
  obtain ⟨v, s1, hfirst, h⟩ := Act.of_answers h
  simp only [Bool.and_eq_true, beq_iff_eq, decide_eq_true_eq] at h
  obtain ⟨⟨rfl, hplace⟩, h⟩ := h
  obtain ⟨v, s2, hsecond, h⟩ := Act.of_answers h
  obtain rfl := eq_of_beq h
  exact ⟨s1, s2, hfirst, hsecond, hplace⟩

/-- Refutes O21: on a bitmap in the queue table a second COMMIT of a tile is answered 1 again, for the bit that the first set reads clear. -/
theorem not_atomicUnitAnswers : ¬ Obligations.AtomicUnitAnswers := by
  unfold Obligations.AtomicUnitAnswers
  rintro ⟨_, hcommitsOnce, _⟩
  obtain ⟨s1, s2, hfirst, hsecond, hplace⟩ := commitAct_tableMapped_twice
  exact absurd (hcommitsOnce tableMapped s1 s2 0 0 0 1 tableMapped_wf hfirst hsecond hplace) (by decide)

end Sys2Proof.Machine
end

section
/-! PROOF. Core faults (08, R165; 17, R338; 18, R361). -/

namespace Sys2Proof.Machine

/-! ## What a discarded kernel slot leaves of its core -/

/-- A core keeps its fence, its kernel slots and a fence of its vector engine. -/
structure CoreKept (a b : Core) : Prop where
  fenced : b.fenced = a.fenced
  slots : b.slots = a.slots
  vec : a.vec = .fenced → b.vec = .fenced

theorem CoreKept.trans {a b d : Core} (h : CoreKept a b) (h' : CoreKept b d) : CoreKept a d :=
  ⟨h'.fenced.trans h.fenced, h'.slots.trans h.slots, fun hv => h'.vec (h.vec hv)⟩

/-- A fenced vector engine takes up no test. -/
theorem settleVec_kept (co : Core) : CoreKept co co.settleVec := by
  unfold Core.settleVec
  split
  next h => exact ⟨rfl, rfl, fun hv => by simp [hv] at h⟩
  next => exact ⟨rfl, rfl, id⟩

theorem countPart_kept (s : State) (c : CoreId) (p : InFlight → Bool) : CoreKept s.cores[c] (s.countPart c p).cores[c] := by
  unfold State.countPart
  split
  · split
    · simp only [State.fresh_cores, cores_updCore_self]
      exact ⟨rfl, rfl, id⟩
    · exact ⟨rfl, rfl, id⟩
  · exact ⟨rfl, rfl, id⟩

theorem discardQueues_kept (s : State) (c : CoreId) (k : KsId) : CoreKept s.cores[c] (s.discardQueues c k).cores[c] := by
  refine (countPart_kept (s.dropRequests fun x => x.of c k) c fun e => e.ks == k).trans ?_
  rw [State.discardQueues, State.dropEntries, cores_updCore_self]
  exact ⟨rfl, rfl, id⟩

/-- The slot is FREE, its flags still to be read; the rest of the core is kept. -/
theorem dropSlot_kept (s : State) (c : CoreId) (k : KsId) :
    CoreKept { s.cores[c] with slots := s.cores[c].slots.set k (s.slot c k).freed } (s.dropSlot c k).cores[c] := by
  obtain ⟨hfenced, hslots, hvec⟩ := discardQueues_kept s c k
  have hslot : (s.discardQueues c k).slot c k = s.slot c k := by simp only [State.slot, hslots]
  have hcore : (s.dropSlot c k).cores[c] = ((s.discardQueues c k).updSlot c k KSlot.freed).cores[c].settleVec :=
    cores_updCore_self _ c Core.settleVec
  rw [hcore]
  refine .trans ?_ (settleVec_kept _)
  rw [cores_updSlot_self, hslot, hslots]
  exact ⟨hfenced, rfl, hvec⟩

theorem dropSlot_slot (s : State) (c : CoreId) (k x : KsId) :
    (s.dropSlot c k).slot c x = if x = k then (s.slot c x).freed else s.slot c x := by
  have hslots : (s.dropSlot c k).slot c x = (s.cores[c].slots.set k (s.slot c k).freed)[x] :=
    congrArg (fun v : Vector KSlot 4 => v[x]) (dropSlot_kept s c k).slots
  rw [hslots]
  by_cases h : x = k
  · subst h; simp
  · have : k.val ≠ x.val := fun e => h (Fin.ext e.symm)
    simp [h, this, State.slot]

theorem countPart_frame (s : State) (c : CoreId) (p : InFlight → Bool) :
    s.countPart c p = { s with cores := (s.countPart c p).cores, freshCtr := (s.countPart c p).freshCtr } := by
  unfold State.countPart
  split
  · split <;> rfl
  · rfl

/-- Nothing of the command store and of a memory goes with the slot alone. -/
theorem dropSlot_frame (s : State) (c : CoreId) (k : KsId) : s.dropSlot c k = { s with
    cores := (s.dropSlot c k).cores, argMaps := (s.dropSlot c k).argMaps, regions := (s.dropSlot c k).regions,
    freshCtr := (s.dropSlot c k).freshCtr } := by
  unfold State.dropSlot State.clearSlot State.discardQueues State.dropEntries
  rw [countPart_frame]
  rfl

/-! ## What a command loses with one of its places -/

/-- What the command had placed there has ended. -/
def Cmd.goneFrom (cm : Cmd) (c : CoreId) (k : KsId) : Prop := ∀ y ∈ cm.insts, y.placed = some (c, k) → y.ended = true

/-- A command without one of its places, as `loseSlot_of_cmd` says: what ran there waits again, its appends and flags are taken back, and the
command is lossy (R165, R338). -/
def Cmd.lose (c : CoreId) (k : KsId) (cm : Cmd) : Cmd :=
  let cm' := match (cm.insts.find? (fun i => i.placed == some (c, k) && !i.ended)).map Inst.index with
    | some i => (cm.forgetAll i).dropFlags i
    | none => cm
  { cm'.unplace c k 0 with lossy := true }

/-- What losing places keeps of a command: its name, its phase, LOSSY, and the places already lost. -/
structure CmdKept (x y : Cmd) : Prop where
  name : y.q = x.q ∧ y.n = x.n
  plain : y.type = x.type ∧ y.trap = x.trap ∧ y.ending = x.ending
  phase : y.phase = x.phase
  lossy : x.lossy = true → y.lossy = true
  gone : ∀ c k, x.goneFrom c k → y.goneFrom c k

namespace CmdKept

variable {x y z : Cmd}

theorem refl (x : Cmd) : CmdKept x x := ⟨⟨rfl, rfl⟩, ⟨rfl, rfl, rfl⟩, rfl, id, fun _ _ => id⟩

theorem trans (a : CmdKept x y) (b : CmdKept y z) : CmdKept x z := by
  obtain ⟨hq, hn⟩ := a.name
  obtain ⟨ht, hr, he⟩ := a.plain
  obtain ⟨hq', hn'⟩ := b.name
  obtain ⟨ht', hr', he'⟩ := b.plain
  exact ⟨⟨hq'.trans hq, hn'.trans hn⟩, ⟨ht'.trans ht, hr'.trans hr, he'.trans he⟩, b.phase.trans a.phase, fun h => b.lossy (a.lossy h),
    fun c k h => b.gone c k (a.gone c k h)⟩

theorem forgetAll (x : Cmd) (i : Nat) : CmdKept x (x.forgetAll i) := ⟨⟨rfl, rfl⟩, ⟨rfl, rfl, rfl⟩, rfl, id, fun _ _ => id⟩

theorem dropFlags (x : Cmd) (i : Nat) : CmdKept x (x.dropFlags i) := by
  refine ⟨⟨rfl, rfl⟩, ⟨rfl, rfl, rfl⟩, rfl, id, fun c k h y' hy' => ?_⟩
  obtain ⟨y, hy, rfl⟩ := List.mem_map.1 hy'
  split <;> exact h y hy

theorem unplace (x : Cmd) (c : CoreId) (k : KsId) (r : W64) : CmdKept x (x.unplace c k r) := by
  refine ⟨⟨rfl, rfl⟩, ⟨rfl, rfl, rfl⟩, rfl, id, fun c' k' h y' hy' => ?_⟩
  obtain ⟨y, hy, rfl⟩ := List.mem_map.1 hy'
  split
  · exact fun hp => nomatch hp
  · exact h y hy

theorem lose (c : CoreId) (k : KsId) (x : Cmd) : CmdKept x (x.lose c k) := by
  have hun (y : Cmd) : CmdKept y { y.unplace c k 0 with lossy := true } := by
    have h := unplace y c k 0
    exact ⟨h.name, h.plain, h.phase, fun _ => rfl, h.gone⟩
  unfold Cmd.lose
  dsimp only
  split
  · exact ((forgetAll x _).trans (dropFlags _ _)).trans (hun _)
  · exact hun x

end CmdKept

theorem unplace_goneFrom (cm : Cmd) (c : CoreId) (k : KsId) (r : W64) : (cm.unplace c k r).goneFrom c k := by
  intro y' hy'
  obtain ⟨y, _, rfl⟩ := List.mem_map.1 hy'
  split
  next => exact fun hp => nomatch hp
  next hstays =>
    intro hp
    simpa [hp] using hstays

theorem lose_lossy (c : CoreId) (k : KsId) (cm : Cmd) : (cm.lose c k).lossy = true ∧ (cm.lose c k).goneFrom c k :=
  ⟨rfl, unplace_goneFrom _ c k 0⟩

theorem cmd?_updCmd_other (s : State) {q n q' n' : Nat} {f : Cmd → Cmd} (hf : ∀ x, (f x).q = x.q ∧ (f x).n = x.n) (h : (q, n) ≠ (q', n')) :
    (s.updCmd q n f).cmd? q' n' = s.cmd? q' n' := by
  have hp : (fun x : Cmd => x.q == q' && x.n == n') ∘ (fun x => if x.q == q && x.n == n then f x else x)
      = fun x : Cmd => x.q == q' && x.n == n' := by
    funext x
    simp only [Function.comp]
    split <;> simp [hf]
  simp only [State.cmd?, State.updCmd, List.find?_map, hp]
  cases hx : s.cmds.find? (fun x => x.q == q' && x.n == n') with
  | none => rfl
  | some x =>
    have hname := List.find?_some hx
    simp only [Bool.and_eq_true, beq_iff_eq] at hname
    obtain ⟨rfl, rfl⟩ := hname
    have hother : ¬ (x.q == q && x.n == n) = true := by
      simp only [Bool.and_eq_true, beq_iff_eq]
      rintro ⟨rfl, rfl⟩
      exact h rfl
    rw [Option.map_some, if_neg hother]

/-! ## Kernel slots of a core lost in turn -/

theorem loseSlot_of_empty {s : State} {c : CoreId} {k : KsId} (h : (s.slot c k).cmd = none) : s.loseSlot c k = s.dropSlot c k := by
  simp only [State.loseSlot, h]

/-- The loss ends no command, where none has trapped or is ending. -/
theorem loseSlot_of_cmd {s : State} {c : CoreId} {k : KsId} {q n : Nat} (h : (s.slot c k).cmd = some (q, n)) (hs : Quiet s) :
    s.loseSlot c k = (s.dropSlot c k).updCmd q n (Cmd.lose c k) := by
  have hq : Quiet ((s.dropSlot c k).updCmd q n (Cmd.lose c k)) :=
    (CoreLoss.updCmd c _ q n fun x => (CmdKept.lose c k x).plain).quiet ((CoreLoss.dropSlot s c k).quiet hs)
  have hlose : s.loseSlot c k = ((s.dropSlot c k).updCmd q n (Cmd.lose c k)).trapEnd q n := by
    unfold State.loseSlot
    split
    next hnone => exact nomatch hnone.symm.trans h
    next hsome => cases hsome.symm.trans h; rfl
  rw [hlose, trapEnd_of_plain hq.1]

/-- What a list of one core's kernel slots leaves when they are lost. -/
structure SlotsLost (c : CoreId) (l : List KsId) (s t : State) : Prop where
  loss : CoreLoss c s t
  coreStore : t.coreStore = s.coreStore
  accMem : t.accMem = s.accMem
  fenced : t.cores[c].fenced = s.cores[c].fenced
  vec : s.cores[c].vec = .fenced → t.cores[c].vec = .fenced
  slots : ∀ x, t.slot c x = if x ∈ l then (s.slot c x).freed else s.slot c x
  cmds : ∀ q n cm, s.cmd? q n = some cm → ∃ cm', t.cmd? q n = some cm' ∧ CmdKept cm cm'
    ∧ ∀ x ∈ l, (s.slot c x).cmd = some (q, n) → cm'.lossy = true ∧ cm'.goneFrom c x

namespace SlotsLost

variable {c : CoreId} {s t u : State}

theorem refl (c : CoreId) (s : State) : SlotsLost c [] s s :=
  ⟨.refl c s, rfl, rfl, rfl, id, fun _ => by simp, fun _ _ cm h => ⟨cm, h, .refl cm, by simp⟩⟩

theorem cons {k : KsId} {l : List KsId} (a : SlotsLost c [k] s t) (b : SlotsLost c l t u) : SlotsLost c (k :: l) s u := by
  refine ⟨a.loss.trans b.loss, b.coreStore.trans a.coreStore, b.accMem.trans a.accMem, b.fenced.trans a.fenced,
    fun h => b.vec (a.vec h), fun x => ?slots, fun q n cm hcm => ?cmds⟩
  case slots =>
    rw [b.slots, a.slots]
    by_cases hk : x = k <;> by_cases hl : x ∈ l <;> simp [hk, hl, KSlot.freed]
  case cmds =>
    obtain ⟨cm1, hcm1, hkept1, hlost1⟩ := a.cmds q n cm hcm
    obtain ⟨cm2, hcm2, hkept2, hlost2⟩ := b.cmds q n cm1 hcm1
    refine ⟨cm2, hcm2, hkept1.trans hkept2, fun x hx hslot => ?_⟩
    by_cases hk : x = k
    · obtain ⟨hlossy, hgone⟩ := hlost1 x (by simp [hk]) hslot
      exact ⟨hkept2.lossy hlossy, hkept2.gone c x hgone⟩
    · refine hlost2 x ((List.mem_cons.1 hx).resolve_left hk) ?_
      rwa [a.slots, if_neg (by simpa using hk)]

theorem loseSlot (h : Quiet s) (c : CoreId) (k : KsId) : SlotsLost c [k] s (s.loseSlot c k) := by
  have hcore := dropSlot_kept s c k
  have hslot (x : KsId) : (s.dropSlot c k).slot c x = if x ∈ [k] then (s.slot c x).freed else s.slot c x := by
    simpa using dropSlot_slot s c k x
  have hstore : (s.dropSlot c k).coreStore = s.coreStore := by rw [dropSlot_frame]
  have hacc : (s.dropSlot c k).accMem = s.accMem := by rw [dropSlot_frame]
  have hcmd (q n : Nat) : (s.dropSlot c k).cmd? q n = s.cmd? q n := by rw [dropSlot_frame]; rfl
  cases hc : (s.slot c k).cmd with
  | none =>
    rw [loseSlot_of_empty hc]
    refine ⟨.dropSlot s c k, hstore, hacc, hcore.fenced, hcore.vec, hslot, fun q n cm hcm => ⟨cm, (hcmd q n).trans hcm, .refl cm, ?_⟩⟩
    simp [hc]
  | some qn =>
    obtain ⟨q0, n0⟩ := qn
    have hloss := loseSlot_loss h c k
    rw [loseSlot_of_cmd hc h] at hloss ⊢
    refine ⟨hloss, hstore, hacc, hcore.fenced, hcore.vec, hslot, fun q n cm hcm => ?_⟩
    by_cases hqn : (q0, n0) = (q, n)
    · obtain ⟨rfl, rfl⟩ := Prod.mk.inj hqn
      refine ⟨cm.lose c k, ?_, .lose c k cm, fun x hx _ => ?_⟩
      · rw [cmd?_updCmd_self _ _ _ fun x => (CmdKept.lose c k x).name, hcmd, hcm]
        rfl
      · obtain rfl := List.mem_singleton.1 hx
        exact lose_lossy c x cm
    · refine ⟨cm, ?_, .refl cm, ?_⟩
      · rw [cmd?_updCmd_other _ (fun x => (CmdKept.lose c k x).name) hqn, hcmd, hcm]
      · simp [hc, hqn]

theorem foldl (l : List KsId) (h : Quiet s) : SlotsLost c l s (l.foldl (fun s k => s.loseSlot c k) s) := by
  induction l generalizing s with
  | nil => exact .refl c s
  | cons k l ih =>
    have hk := loseSlot h c k
    exact hk.cons (ih (hk.loss.quiet h))

end SlotsLost

/-! ## A core lost -/

/-- What a lost core leaves: its kernel slots FREE, its commands lossy and gone from there, its memories unwritten. -/
structure CoreEmptied (c : CoreId) (s t : State) : Prop where
  loss : CoreLoss c s t
  fenced : t.cores[c].fenced = s.cores[c].fenced
  vec : s.cores[c].vec = .fenced → t.cores[c].vec = .fenced
  icache : t.cores[c].icache = []
  free : ∀ x, t.slot c x = (s.slot c x).freed
  cmds : ∀ q n cm, s.cmd? q n = some cm → ∃ cm', t.cmd? q n = some cm' ∧ CmdKept cm cm'
    ∧ ∀ x, (s.slot c x).cmd = some (q, n) → cm'.lossy = true ∧ cm'.goneFrom c x
  coreStore : t.coreStore = s.coreStore.mark (c.val * coreStoreBytes) coreStoreBytes
  accMem : t.accMem = s.accMem.mark (c.val * accBytes) accBytes

theorem loseCore_emptied {s : State} (h : Quiet s) (c : CoreId) : CoreEmptied c s (s.loseCore c) := by
  have hl := SlotsLost.foldl (c := c) (List.finRange 4) h
  unfold State.loseCore
  dsimp only
  generalize (List.finRange 4).foldl (fun s k => s.loseSlot c k) s = u at hl
  rw [loseCoils_of_none (hl.loss.quiet h).2]
  have hcore := cores_updCore_self (u.clearCore c) c (fun co => { co with icache := [], token := false })
  refine ⟨(hl.loss.trans (.clearCore u c)).trans (.updCore _ c _), ?_, fun hv => ?_, ?_, fun x => ?_, fun q n cm hcm => ?_, ?_, ?_⟩
  · rw [hcore]; exact hl.fenced
  · rw [hcore]; exact hl.vec hv
  · rw [hcore]
  · rw [slot_updCore]
    exact (hl.slots x).trans (if_pos (List.mem_finRange x))
  · obtain ⟨cm', hcm', hkept, hlost⟩ := hl.cmds q n cm hcm
    exact ⟨cm', hcm', hkept, fun x => hlost x (List.mem_finRange x)⟩
  · rw [State.updCore_coreStore, ← hl.coreStore]
    rfl
  · rw [State.updCore_accMem, ← hl.accMem]
    rfl

/-! ## The fault -/

/-- The state in which a core that faults loses what it holds: logged, the core fenced. -/
def State.faulted (s : State) (c : CoreId) : State :=
  let s := s.logEv { source := 8, cause := 1, unit := c.val, epoch := (s.part (.core c)).epoch }
  (s.fencePart (.core c)).updCore c (fun co => { co with fenced := true })

theorem coreFault_of_down {s : State} {c : CoreId} (h : s.coreUp c = false) : s.coreFault c = s := by simp [State.coreFault, h]

theorem fencePart_frame (s : State) (p : Part) : s.fencePart p = { s with epochs := (s.fencePart p).epochs } := by
  unfold State.fencePart
  split <;> rfl

theorem fencePart_of_inService {s : State} {p : Part} (h : (s.part p).state = .inService) :
    s.fencePart p = s.updPart p (fun e => { e.advance s.timeNs with state := .fenced, returning := false }) := by
  simp [State.fencePart, h]

theorem faulted_frame (s : State) (c : CoreId) :
    s.faulted c = { s with log := (s.faulted c).log, epochs := (s.faulted c).epochs, cores := (s.faulted c).cores } := by
  unfold State.faulted
  dsimp only
  rw [fencePart_frame, logEv_frame_quiet s rfl]
  rfl

theorem faulted_log (s : State) (c : CoreId) :
    (s.faulted c).log = (s.logEv { source := 8, cause := 1, unit := c.val, epoch := (s.part (.core c)).epoch }).log := by
  unfold State.faulted
  dsimp only
  rw [fencePart_frame]
  rfl

theorem faulted_cores (s : State) (c : CoreId) : (s.faulted c).cores = (s.updCore c fun co => { co with fenced := true }).cores := by
  unfold State.faulted
  dsimp only
  rw [fencePart_frame, logEv_frame_quiet s rfl]
  rfl

theorem state_of_coreUp {s : State} {c : CoreId} (h : s.coreUp c = true) : (s.part (.core c)).state = .inService := by
  simp only [State.coreUp, Bool.and_eq_true, beq_iff_eq] at h
  obtain ⟨⟨_, hstate⟩, _⟩ := h
  exact hstate

/-- The advance that the core's fence owes is made at once or delayed; no other part is touched. -/
theorem faulted_part {s : State} {c : CoreId} (h : s.coreUp c = true) (p : Part) : (s.faulted c).part p
    = if p = .core c then { (s.part p).advance s.timeNs with state := .fenced, returning := false } else s.part p := by
  have hfence : (s.faulted c).epochs = (s.fencePart (.core c)).epochs := by
    unfold State.faulted
    dsimp only
    rw [logEv_frame_quiet s rfl, fencePart_of_inService (state_of_coreUp h), fencePart_of_inService]
    · rfl
    · exact state_of_coreUp h
  have hpart : (s.faulted c).part p = (s.fencePart (.core c)).part p := congrArg (fun v => v[partIndex p]) hfence
  rw [hpart, fencePart_of_inService (state_of_coreUp h)]
  split
  next hp => subst hp; rw [part_updPart_self]
  next hp => rw [part_updPart_other s hp]

/-- Whatever was fenced on the core before stays fenced, and its kernel slots wait for their loss. -/
theorem faulted_core (s : State) (c : CoreId) : (s.faulted c).cores[c] = { s.cores[c] with fenced := true } := by
  simp [faulted_cores]

theorem faulted_core_other (s : State) {c c' : CoreId} (h : c' ≠ c) : (s.faulted c).cores[c'] = s.cores[c'] := by
  simp only [faulted_cores, cores_updCore_other s h]

theorem coreFault_of_up {s : State} {c : CoreId} (h : s.coreUp c = true) (hq : Quiet s) : s.coreFault c = (s.faulted c).loseCore c := by
  have hf : Quiet (s.faulted c) := by rw [faulted_frame]; exact hq
  have hp := ((loseCore_loss hf c).quiet hf).1
  rw [← replayRounds_of_plain hp]
  simp only [State.coreFault, h, State.faulted, Bool.not_true, Bool.false_eq_true, if_false]

/-- What the fault of a core that executes leaves. -/
structure CoreFenced (c : CoreId) (s t : State) : Prop where
  fenced : t.cores[c].fenced = true
  vec : s.cores[c].vec = .fenced → t.cores[c].vec = .fenced
  icache : t.cores[c].icache = []
  part : ∀ p, t.part p = if p = .core c then { (s.part p).advance s.timeNs with state := .fenced, returning := false } else s.part p
  logged : ∃ r, t.log.recs = List.take 8192 (r :: s.log.recs) ∧ r.source = 8 ∧ r.cause = 1 ∧ r.unit = c.val
  free : ∀ x, t.slot c x = (s.slot c x).freed
  others : ∀ c' x, c' ≠ c → t.slot c' x = s.slot c' x
  cmds : ∀ q n cm, s.cmd? q n = some cm → ∃ cm', t.cmd? q n = some cm' ∧ CmdKept cm cm'
    ∧ ∀ x, (s.slot c x).cmd = some (q, n) → cm'.lossy = true ∧ cm'.goneFrom c x
  coreStore : t.coreStore = s.coreStore.mark (c.val * coreStoreBytes) coreStoreBytes
  accMem : t.accMem = s.accMem.mark (c.val * accBytes) accBytes
  memories : t.regionMem = s.regionMem ∧ t.stacked = s.stacked ∧ t.hostMem = s.hostMem

theorem coreFault_fenced {s : State} {c : CoreId} (h : s.coreUp c = true) (hq : Quiet s) : CoreFenced c s (s.coreFault c) := by
  rw [coreFault_of_up h hq]
  have hf := faulted_frame s c
  have hcore := faulted_core s c
  have hother (c' : CoreId) (hc : c' ≠ c) := faulted_core_other s hc
  have hpart := faulted_part h
  have hlog := faulted_log s c
  generalize s.faulted c = u at hf hcore hother hpart hlog
  have hl := loseCore_emptied (s := u) (by rw [hf]; exact hq) c
  generalize u.loseCore c = t at hl
  have hslot (x : KsId) : u.slot c x = s.slot c x := by simp only [State.slot, hcore]
  refine ⟨?_, fun hv => hl.vec ?_, hl.icache, fun p => ?_, ?_, fun x => ?_, fun c' x hc => ?_, fun q n cm hcm => ?_, ?_, ?_, ?_, ?_, ?_⟩
  · rw [hl.fenced, hcore]
  · rw [hcore]; exact hv
  · rw [hl.loss.frame, ← hpart]; rfl
  · rw [hl.loss.frame, hlog, logEv_recs]
    exact ⟨_, rfl, rfl, rfl, rfl⟩
  · rw [hl.free, hslot]
  · simp only [State.slot, hl.loss.cores c' hc, hother c' hc]
  · obtain ⟨cm', hcm', hkept, hlost⟩ := hl.cmds q n cm (by rw [hf]; exact hcm)
    exact ⟨cm', hcm', hkept, fun x hx => hlost x (by rw [hslot]; exact hx)⟩
  · rw [hl.coreStore, hf]
  · rw [hl.accMem, hf]
  · rw [hl.loss.frame, hf]
  · rw [hl.loss.frame, hf]
  · rw [hl.loss.frame, hf]

/-! ## The statement -/

/-- The state in which the core of an event faults: its vector engine fenced first, where that is what failed. -/
def State.beforeFault (s : State) (c : CoreId) (i : Instr) : State :=
  if i = .coreFault c .vectorEngine then
    s.updCore c (fun co => { co with vec := .fenced, vecChanges := satAdd 16 co.vecChanges 1 })
  else s

theorem beforeFault_core (s : State) (c : CoreId) (i : Instr) : ∃ v n, (s.beforeFault c i).cores[c] = { s.cores[c] with vec := v, vecChanges := n }
    ∧ (i = .coreFault c .vectorEngine → v = .fenced) := by
  unfold State.beforeFault
  split
  next => exact ⟨_, _, cores_updCore_self s c _, fun _ => rfl⟩
  next h => exact ⟨_, _, rfl, fun e => absurd e h⟩

theorem beforeFault_frame (s : State) (c : CoreId) (i : Instr) : s.beforeFault c i = { s with cores := (s.beforeFault c i).cores } := by
  unfold State.beforeFault
  split <;> rfl

theorem beforeFault_slot (s : State) (c : CoreId) (i : Instr) (c' : CoreId) (x : KsId) : (s.beforeFault c i).slot c' x = s.slot c' x := by
  unfold State.beforeFault
  split
  · exact slot_updCore s c c' x
  · rfl

theorem beforeFault_part (s : State) (c : CoreId) (i : Instr) (p : Part) : (s.beforeFault c i).part p = s.part p := by
  rw [beforeFault_frame]
  rfl

theorem beforeFault_coreUp (s : State) (c : CoreId) (i : Instr) : (s.beforeFault c i).coreUp c = s.coreUp c := by
  obtain ⟨v, n, hcore, _⟩ := beforeFault_core s c i
  simp only [State.coreUp, State.regionState, beforeFault_part, hcore]

/-- The events of a core's fault: what the core's checkers and sensors find, and a kernel slot that stalls. -/
def FaultOf (s : State) (c : CoreId) (k : KsId) (i : Instr) : Prop :=
  i ∈ [Instr.coreFault c .checker, .coreFault c .vectorEngine, .coreFault c .stall, .coreFault c .droop]
    ∨ (i = .kernelSlotStall c k ∧ (s.slot c k).state = .running ∧ s.ready c k = true)

section

variable {s : State} {c : CoreId} {k : KsId} {i : Instr}

theorem exec_kernelSlotStall (hrun : (s.slot c k).state = .running) (hready : s.ready c k = true) :
    exec (.kernelSlotStall c k) s = .next (s.coreFault c) := by
  simp [exec, execKernelSlotStall, hrun, hready]

theorem exec_fault_of_down (hi : FaultOf s c k i) (h : s.coreUp c = false) : exec i s = .next s := by
  simp only [FaultOf, List.mem_cons, List.not_mem_nil, or_false] at hi
  rcases hi with (rfl | rfl | rfl | rfl) | ⟨rfl, hrun, hready⟩
  case inl.inr.inl => simp [exec, execCoreFault, h]
  case inr => rw [exec_kernelSlotStall hrun hready, coreFault_of_down h]
  all_goals exact congrArg Host.Outcome.next (coreFault_of_down h)

theorem exec_fault_of_up (hi : FaultOf s c k i) (h : s.coreUp c = true) : exec i s = .next ((s.beforeFault c i).coreFault c) := by
  simp only [FaultOf, List.mem_cons, List.not_mem_nil, or_false] at hi
  rcases hi with (rfl | rfl | rfl | rfl) | ⟨rfl, hrun, hready⟩
  case inl.inr.inl => simp [exec, execCoreFault, h, State.beforeFault]
  case inr => rw [exec_kernelSlotStall hrun hready, State.beforeFault, if_neg nofun]
  all_goals rw [State.beforeFault, if_neg (by simp)]; rfl

end

/-- An advance made at once moves the epoch on by one. -/
theorem advance_epoch {e : EpochEntry} {now : Nat} (howed : e.owed = 0) (h : e.mayAdvance now = true) : (e.advance now).epoch = e.epoch + 1 := by
  simp [EpochEntry.advance, howed, h]

/-- Settles O42: from the state with the vector engine fenced where it failed, by what the fault of a core that executes leaves. -/
theorem coreFaultFencesTheCore : Obligations.CoreFaultFencesTheCore := by
  unfold Obligations.CoreFaultFencesTheCore
  intro s c k i hi
  refine ⟨exec_fault_of_down hi, fun h hplain hcoils => ?_⟩
  obtain ⟨v, n, hcore, hvec⟩ := beforeFault_core s c i
  have hframe := beforeFault_frame s c i
  have hslot := beforeFault_slot s c i
  have hpart := beforeFault_part s c i
  have ht : CoreFenced c (s.beforeFault c i) ((s.beforeFault c i).coreFault c) := by
    apply coreFault_fenced
    · rw [beforeFault_coreUp, h]
    · rw [hframe]; exact ⟨hplain, hcoils⟩
  have hexec := exec_fault_of_up hi h
  generalize s.beforeFault c i = u at hcore hframe hslot hpart ht hexec
  generalize u.coreFault c = t at ht hexec
  obtain ⟨r, hrecs, hsource, hcause, hunit⟩ := ht.logged
  obtain ⟨hregion, hstacked, hhost⟩ := ht.memories
  refine ⟨t, r, hexec, ht.fenced, ?_, ?_, hsource, hcause, hunit, fun howed hmay => ?_, fun p hp => ?_, fun x => ?_, ht.icache,
    fun c' x hc => ?_, fun q n x cm hx hcm => ?_, ?_, ?_, ?_, ?_, ?_, fun hi => ht.vec ?_⟩
  · rw [ht.part, if_pos rfl]
  · rw [hrecs, hframe]
  · rw [ht.part, if_pos rfl, hpart, hframe]
    exact advance_epoch howed hmay
  · rw [ht.part, if_neg hp, hpart]
  · rw [ht.free, hslot]
  · rw [ht.others c' x hc, hslot]
  · obtain ⟨cm', hcm', hkept, hlost⟩ := ht.cmds q n cm (by rw [hframe]; exact hcm)
    obtain ⟨hlossy, hgone⟩ := hlost x (by rw [hslot]; exact hx)
    exact ⟨cm', hcm', hlossy, hkept.phase, hgone⟩
  · rw [ht.coreStore, hframe]; rfl
  · rw [ht.accMem, hframe]; rfl
  · rw [hregion, hframe]
  · rw [hstacked, hframe]
  · rw [hhost, hframe]
  · rw [hcore]; exact hvec hi

end Sys2Proof.Machine
end

section
/-! PROOF. What the return of held commands and of waiting requests leaves of the ring and of the parts' entries (17, R330, R334; 19, R378 to
R380). -/

namespace Sys2Proof.Machine

/-! ## The ring and the parts' entries kept -/

/-- The ring's registers, and the state and epoch of every part, are as they were. -/
structure RingKept (s t : State) : Prop where
  darit : t.darit = s.darit
  epochs : t.epochs = s.epochs

namespace RingKept

variable {s t u : State}

theorem refl (s : State) : RingKept s s := ⟨rfl, rfl⟩

theorem trans (a : RingKept s t) (b : RingKept t u) : RingKept s u := ⟨b.darit.trans a.darit, b.epochs.trans a.epochs⟩

theorem foldl {β : Type} {f : State → β → State} (hf : ∀ s b, RingKept s (f s b)) (l : List β) (s : State) : RingKept s (l.foldl f s) :=
  foldl_within refl trans hf l s

theorem part (h : RingKept s t) (p : Part) : t.part p = s.part p := by simp only [State.part, h.epochs]

theorem of_tiers (h : TiersOnly s t) : RingKept s t := ⟨by rw [h], h.epochs⟩

theorem of_notes (h : NotesOnly s t) : RingKept s t := of_tiers h.tiers

theorem logEv (s : State) (a : LogArgs) : RingKept s (s.logEv a) := of_notes (.logEv s a)

theorem logAbsent (s : State) (p : Part) : RingKept s (s.logAbsent p) := of_notes (.logLimited s _ _ _)

theorem updCmd (s : State) (q n : Nat) (f : Cmd → Cmd) : RingKept s (s.updCmd q n f) := ⟨rfl, rfl⟩

end RingKept

/-! ## What a command owes (08, R157; 11, R209) -/

/-- An act whose answering runs keep the ring and the parts' entries. -/
structure RingAct {α : Type} (a : Act α) : Prop where
  kept : ∀ s x t, a.run s = .ok (x, t) → RingKept s t

namespace RingAct

variable {α β : Type}

theorem of_tiers {a : Act α} (h : TiersAct a) : RingAct a := ⟨fun s x t e => .of_tiers (h.only s x t e)⟩

theorem bind {a : Act α} {f : α → Act β} (ha : RingAct a) (hf : ∀ x, RingAct (f x)) : RingAct (a >>= f) := .mk fun s _ _ h => by
  obtain ⟨x, u, hx, h⟩ := Act.of_bind h
  exact (ha.kept s x u hx).trans ((hf x).kept u _ _ h)

end RingAct

theorem ringAct_heldBytes (ctx va len salt : Nat) : RingAct (heldBytes ctx va len salt) := .mk fun s x t h => by
  simp only [StateT.run, heldBytes] at h
  split at h
  · exact nomatch h
  · cases h; exact ⟨rfl, rfl⟩

theorem ringAct_idleCounter (ctx : Nat) (cm : Cmd) : RingAct (idleCounter ctx cm) := by
  unfold idleCounter
  split
  · exact .bind (ringAct_heldBytes ..) fun _ => .bind (ringAct_heldBytes ..) fun _ =>
      .bind (.of_tiers (tiersAct_putVirt ..)) fun _ => .of_tiers (tiersAct_putVirt ..)
  · exact .of_tiers (.pure _)

theorem returnOne_kept {push : Pool → Act Unit} (hp : ∀ p, TiersAct (push p)) (ctx seq : Nat) (x : State × List Nat) :
    RingKept x.1 (returnOne ctx seq push x).1.1 := by
  unfold returnOne
  split
  · exact .refl _
  · split
    · exact .refl _
    · split
      next h => exact .of_tiers ((TiersAct.bind (tiersAct_poolAt ..) hp).only _ _ _ h)
      next => exact .of_notes (noteErr_notes ..)
      next => exact .refl _

theorem returnEach_kept {α : Type} {push : α → Pool → Act Unit} (hp : ∀ a p, TiersAct (push a p)) (ctx : Nat) (seq : α → Nat) (l : List α)
    (x : State × List Nat) : RingKept x.1 (returnEach ctx seq push l x).1.1 :=
  List.foldlRecOn (motive := fun (y : (State × List Nat) × List α) => RingKept x.1 y.1.1) l.reverse _ (.refl _)
    fun y hy b _ => hy.trans (returnOne_kept (hp b) ctx (seq b) y.1)

theorem returnTaken_kept (s : State) (ctx : Nat) (cm : Cmd) : RingKept s (s.returnTaken ctx cm).1 :=
  (returnEach_kept (fun _ p => p.tiersAct_pushBlock _) ctx _ cm.reserved (s, [])).trans
    (returnEach_kept (fun _ p => p.tiersAct_pushPage _) ctx AppendPage.seq (cm.pages.filter AppendPage.taken) _)

theorem noteOwed_kept (s : State) (q n : Nat) (cm : Cmd) (e : AccErr) : RingKept s (s.noteOwed q n cm e) := by
  cases e with
  | status st nt =>
    unfold State.noteOwed
    dsimp only
    split
    · exact .refl s
    · exact (RingKept.of_notes (noteErr_notes s nt)).trans (.updCmd ..)
  | resetting g => exact .logAbsent s _
  | fenced g => exact .logAbsent s _
  | hostDown p => exact .refl s
  | noRoute node => exact .refl s

theorem payOwed_kept (s : State) (q n : Nat) : RingKept s (s.payOwed q n).1 := by
  unfold State.payOwed
  split
  · exact .refl s
  next cm _ =>
    dsimp only
    split
    next => exact noteOwed_kept s q n cm _
    next h => exact ((ringAct_idleCounter _ cm).kept _ _ _ h).trans ((returnTaken_kept _ _ cm).trans (.updCmd ..))

/-! ## What a command holds (01, R11; 12, R227, R233, R234) -/

theorem clearSlot_kept (s : State) (c : CoreId) (k : KsId) : RingKept s (s.clearSlot c k) := by
  have h := dropSlot_frame s c k
  unfold State.dropSlot at h
  rw [h]
  exact ⟨rfl, rfl⟩

theorem endRounds_kept (s : State) (q n : Nat) (p : Nat → Bool) : RingKept s (s.endRounds q n p) := by
  refine RingKept.foldl (fun s c => RingKept.foldl (fun s k => ?_) _ s) _ s
  split
  · exact clearSlot_kept s c k
  · exact .refl s

theorem stopRounds_kept (s : State) (q n : Nat) : RingKept s (s.stopRounds q n) := by
  unfold State.stopRounds
  split
  · exact .refl s
  · split
    · exact (endRounds_kept s q n _).trans (.updCmd ..)
    · exact .refl s

theorem releaseHolds_kept (s : State) (q n : Nat) (cm : Cmd) : RingKept s (s.releaseHolds q n cm) := by
  refine (stopRounds_kept s q n).trans ?_
  unfold State.releaseHolds
  dsimp only
  rw [foldl_updSeq_frame]
  exact ⟨rfl, rfl⟩

/-! ## Held commands dispatched again (17, R340; 19, R380) -/

theorem redispatch_kept (s : State) (q n : Nat) : RingKept s (s.redispatch q n) := by
  have hpay := payOwed_kept s q n
  unfold State.redispatch
  split
  · exact .refl s
  next cm _ =>
    generalize s.payOwed q n = r at hpay ⊢
    obtain ⟨u, paid⟩ := r
    dsimp only at hpay ⊢
    split
    · exact (hpay.trans (releaseHolds_kept u q n cm)).trans (.updCmd ..)
    · exact hpay

theorem unhold_kept (s : State) (p : HoldWhy → Bool) : RingKept s (s.unhold p) :=
  .foldl (f := fun s (cm : Cmd) => s.redispatch cm.q cm.n) (fun s cm => redispatch_kept s cm.q cm.n) _ s

/-! ## Requests made again (17, R331, R332; 19, R379, R380) -/

theorem sendAway_frame (s : State) (r : FabricReq) (via : RouteAcc) : s.sendAway r via = { s with slots := (s.sendAway r via).slots } := by
  unfold State.sendAway
  split
  · rfl
  · split
    · rfl
    · exact send_frame ..

theorem requestAway_kept (s : State) (r : FabricReq) (node : Nat) : RingKept s (s.requestAway r node) := by
  unfold State.requestAway
  split
  · exact (RingKept.logEv s _).trans ⟨rfl, rfl⟩
  · split
    · exact ⟨rfl, rfl⟩
    · rw [sendAway_frame]; exact ⟨rfl, rfl⟩

theorem station_kept (s : State) (r : FabricReq) : RingKept s (s.station r).1 := by
  unfold State.station
  split
  · rw [sendReply_frame, (fabricAccess_accessed s r).frame]; exact ⟨rfl, rfl⟩
  · exact .logAbsent s _

theorem request_kept (s : State) (r : FabricReq) : RingKept s (s.request r) := by
  unfold State.request
  split
  · exact requestAway_kept s r _
  · split
    · exact ⟨rfl, rfl⟩
    · exact (station_kept s r).trans ⟨rfl, rfl⟩

theorem again_kept (s : State) (mine : FabricWait → Bool) (f : FabricReq → FabricReq) : RingKept s (s.again mine f) :=
  RingKept.trans (t := { s with fabric := s.fabric.filter (fun w => !mine w) }) ⟨rfl, rfl⟩
    (.foldl (f := fun s (w : FabricWait) => s.request (f w.req)) (fun s w => request_kept s (f w.req)) _ _)

/-! ## Routes computed again (R378) -/

theorem routesChanged_kept (s : State) : RingKept s s.routesChanged :=
  ((RingKept.logEv s _).trans (unhold_kept _ _)).trans (again_kept ..)

end Sys2Proof.Machine
end

section
/-! PROOF. Darit port resets: configuration, RETRAIN, topology (19, R373, R374, R378, R384, R389, R390; 17, R330, R335; logs 50, 59). -/

namespace Sys2Proof.Machine

/-! ## Ports of the ring -/

theorem updPort_port (s : State) (p : DaritPort) (f : DPort → DPort) : (s.updPort p f).darit.ports[p] = f s.darit.ports[p] := by
  simp [State.updPort]

theorem updPort_twice (s : State) (p : DaritPort) (f g : DPort → DPort) : (s.updPort p f).updPort p g = s.updPort p (fun x => g (f x)) := by
  simp [State.updPort, State.updDarit]

theorem quenchBroken_frame (s : State) : s.quenchBroken = { s with fls := s.quenchBroken.fls } := by
  unfold State.quenchBroken
  split <;> rfl

theorem quenchMended_frame (s : State) : s.quenchMended = { s with fls := s.quenchMended.fls } := by
  unfold State.quenchMended
  split
  · split <;> rfl
  · rfl

theorem quenchMended_of_none {s : State} (h : s.fls.quench = none) : s.quenchMended = s := by simp [State.quenchMended, h]

theorem logDarit_frame (s : State) (cause unit : Nat) : s.logDarit cause unit = { s with log := (s.logDarit cause unit).log } :=
  logEv_frame_quiet s rfl

/-- A port's registers at their reset values in a state, with a cause; its configuration stays (R389). -/
def DPort.resetTo (st : LinkState) (cause : Nat) (x : DPort) : DPort :=
  { DPort.reset with enable := x.enable, dim := x.dim, dir := x.dir, st := st, cause := cause }

theorem portStart_eq (d : Darit) (x : DPort) : d.portStart x = x.resetTo (d.portStart x).st (d.portStart x).cause := by
  unfold Darit.portStart
  dsimp only
  split
  · rfl
  · split <;> rfl

theorem portStart_st (d : Darit) (x : DPort) : (d.portStart x).st ∈ [LinkState.disabled, .held, .training] := by
  unfold Darit.portStart
  dsimp only
  split
  · simp [DPort.reset]
  · split <;> simp

/-! ## A port that comes to another state -/

/-- What a port's new state leaves of its part and of the frames on it (R335, R378, R384). -/
structure PortWritten (s t : State) (p : DaritPort) (y : DPort) : Prop where
  state : (t.part (.darit p)).state = if y.st = .training then .resetting else .fenced
  epoch : s.darit.ports[p].st ≠ .up → (t.part (.darit p)).epoch = (s.part (.darit p)).epoch
  lost : s.darit.ports[p].st = .up → ∀ x ∈ t.slots.waiting, x.link ≠ .darit p
  advanced : s.darit.ports[p].st = .up → (s.part (.darit p)).owed = 0 → (s.part (.darit p)).mayAdvance s.timeNs = true →
    (t.part (.darit p)).epoch = (s.part (.darit p)).epoch + 1

/-- A port in a new state: its registers, its part, the frames lost with it, and that no other port or part is touched. -/
structure PortMoved (p : DaritPort) (y : DPort) (s t : State) : Prop where
  frame : t = { s with darit := { s.darit with ports := s.darit.ports.set p y }, epochs := t.epochs, log := t.log, slots := t.slots,
                       fabric := t.fabric, fls := t.fls }
  written : PortWritten s t p y
  others : ∀ q, q ≠ .darit p → t.part q = s.part q
  waiting : ∀ x ∈ t.slots.waiting, x ∈ s.slots.waiting
  quiet : s.fls.quench = none → t.fls = s.fls

namespace PortMoved

variable {p : DaritPort} {y : DPort} {s t : State}

theorem port (h : PortMoved p y s t) : t.darit.ports[p] = y := by rw [h.frame]; simp

theorem port_other (h : PortMoved p y s t) {q : DaritPort} (hq : q ≠ p) : t.darit.ports[q] = s.darit.ports[q] := by
  have : p.val ≠ q.val := fun e => hq (Fin.ext e.symm)
  rw [h.frame]; simp [this]

theorem frame_quiet (h : PortMoved p y s t) (hq : s.fls.quench = none) :
    t = { s with darit := t.darit, epochs := t.epochs, log := t.log, slots := t.slots, fabric := t.fabric } := by
  have := h.quiet hq
  rw [h.frame, this]

theorem logDarit (h : PortMoved p y s t) (cause unit : Nat) : PortMoved p y s (t.logDarit cause unit) := by
  obtain ⟨hf, hw, ho, hx, hq⟩ := h
  rw [logDarit_frame]
  exact ⟨by rw [hf], ⟨hw.state, hw.epoch, hw.lost, hw.advanced⟩, ho, hx, hq⟩

end PortMoved

theorem dropTransfers_waiting (s : State) (f : Transfer → Bool) : (s.dropTransfers f).slots.waiting = s.slots.waiting.filter (fun x => !f x) := by
  unfold State.dropTransfers
  dsimp only
  split
  next h =>
    have hall : ∀ x ∈ s.slots.waiting, f x = false := by simpa using h
    exact (List.filter_eq_self.2 fun x hx => by simp [hall x hx]).symm
  next => rfl

theorem dropTransfers_frame (s : State) (f : Transfer → Bool) :
    s.dropTransfers f = { s with slots := (s.dropTransfers f).slots, fabric := (s.dropTransfers f).fabric } := by
  unfold State.dropTransfers
  dsimp only
  split <;> rfl

/-- What leaves with a port that was UP: the frames on it, and its epoch (R335, R378, R384). -/
structure FramesLost (p : DaritPort) (s t : State) : Prop where
  frame : t = { s with epochs := t.epochs, log := t.log, slots := t.slots, fabric := t.fabric }
  epoch : s.darit.ports[p].st ≠ .up → (t.part (.darit p)).epoch = (s.part (.darit p)).epoch
  lost : s.darit.ports[p].st = .up → ∀ x ∈ t.slots.waiting, x.link ≠ .darit p
  advanced : s.darit.ports[p].st = .up → (s.part (.darit p)).owed = 0 → (s.part (.darit p)).mayAdvance s.timeNs = true →
    (t.part (.darit p)).epoch = (s.part (.darit p)).epoch + 1
  others : ∀ q, q ≠ .darit p → t.part q = s.part q
  waiting : ∀ x ∈ t.slots.waiting, x ∈ s.slots.waiting

/-- A part's entry as its port leaves. -/
def EpochEntry.left (now : Nat) (e : EpochEntry) : EpochEntry := { e.advance now with state := .resetting, returning := false }

theorem portLeaves_of_up {s : State} {p : DaritPort} (h : s.darit.ports[p].st = .up) : FramesLost p s (s.portLeaves p) := by
  have hw := dropTransfers_waiting s fun x => x.link == .darit p
  have hf := dropTransfers_frame s fun x => x.link == .darit p
  rw [State.portLeaves, if_pos h]
  generalize s.dropTransfers (fun x => x.link == .darit p) = u at hw hf ⊢
  change FramesLost p s ((u.updPart (.darit p) (EpochEntry.left u.timeNs)).logDarit 6 wholeUnit)
  have hpart (q : Part) : u.part q = s.part q := by rw [hf]; rfl
  have hself := (part_updPart_self u (.darit p) (EpochEntry.left s.timeNs)).trans (congrArg _ (hpart _))
  have hother (q : Part) (hq : q ≠ .darit p) := (part_updPart_other u hq (EpochEntry.left s.timeNs)).trans (hpart q)
  have htime : u.timeNs = s.timeNs := by rw [hf]
  rw [logDarit_frame, htime]
  refine ⟨by rw [hf]; rfl, fun hn => absurd h hn, fun _ x hx => ?_, fun _ howed hmay => ?_, hother, fun x hx => ?_⟩
  · replace hx : x ∈ u.slots.waiting := hx
    rw [hw] at hx
    simpa using (List.mem_filter.1 hx).2
  · exact (congrArg EpochEntry.epoch hself).trans (advance_epoch howed hmay)
  · replace hx : x ∈ u.slots.waiting := hx
    rw [hw] at hx
    exact (List.mem_filter.1 hx).1

theorem portLeaves_lost (s : State) (p : DaritPort) : FramesLost p s (s.portLeaves p) := by
  by_cases h : s.darit.ports[p].st = .up
  · exact portLeaves_of_up h
  · rw [State.portLeaves, if_neg h]
    exact ⟨rfl, fun _ => rfl, fun h' => absurd h' h, fun h' => absurd h' h, fun _ _ => rfl, fun _ => id⟩

/-- A port's registers and its part's state set once its frames are lost. -/
theorem FramesLost.moved {p : DaritPort} {s u : State} (h : FramesLost p s u) (g : DPort → DPort) {f : EpochEntry → EpochEntry}
    (hs : ∀ e, (f e).state = if (g s.darit.ports[p]).st = .training then .resetting else .fenced) (hep : ∀ e, (f e).epoch = e.epoch)
    {fl : Flash} (hfl : s.fls.quench = none → fl = s.fls) :
    PortMoved p (g s.darit.ports[p]) s { (u.updPort p g).updPart (.darit p) f with fls := fl } := by
  have hself : ((u.updPort p g).updPart (.darit p) f).part (.darit p) = f (u.part (.darit p)) := part_updPart_self _ _ _
  refine ⟨by rw [h.frame]; rfl, ⟨?_, fun hn => ?_, h.lost, fun hup howed hmay => ?_⟩, fun q hq => ?_, h.waiting, hfl⟩
  · exact (congrArg EpochEntry.state hself).trans (hs _)
  · exact (congrArg EpochEntry.epoch hself).trans ((hep _).trans (h.epoch hn))
  · exact (congrArg EpochEntry.epoch hself).trans ((hep _).trans (h.advanced hup howed hmay))
  · exact (part_updPart_other (u.updPort p g) hq f).trans (h.others q hq)

theorem portTo_moved (s : State) (p : DaritPort) (st : LinkState) (cause : Nat) :
    PortMoved p (s.darit.ports[p].resetTo st cause) s (s.portTo p st cause) := by
  have hl := portLeaves_lost s p
  have hfls : (s.portLeaves p).fls = s.fls := by rw [hl.frame]
  unfold State.portTo
  dsimp only
  split
  next hst =>
    rw [quenchBroken_frame]
    refine hl.moved (DPort.resetTo st cause) (f := fun e => { e with state := .resetting, returning := false })
      (fun _ => (if_pos hst).symm) (fun _ => rfl) fun hq => ?_
    rw [quenchBroken_of_none]
    · exact hfls
    · exact (congrArg Flash.quench hfls).trans hq
  next hst =>
    rw [State.portRests, quenchMended_frame]
    refine hl.moved (DPort.resetTo st cause) (f := fun e => { e with state := .fenced, returning := false })
      (fun _ => (if_neg hst).symm) (fun _ => rfl) fun hq => ?_
    rw [quenchMended_of_none]
    · exact hfls
    · exact (congrArg Flash.quench hfls).trans hq

/-- A port reset: to where its registers and the shape send it (R384, R389). -/
theorem portReset_moved (s : State) (p : DaritPort) : PortMoved p (s.darit.portStart s.darit.ports[p]) s (s.portReset p) := by
  have h := portTo_moved s p (s.darit.portStart s.darit.ports[p]).st (s.darit.portStart s.darit.ports[p]).cause
  rw [← portStart_eq] at h
  unfold State.portReset
  dsimp only
  split
  · exact h.logDarit 5 p.val
  · exact h

/-! ## The rows of a port (R384, R389) -/

/-- Registers written before a port's reset are set again by it; the state in which the port was counts. -/
theorem PortMoved.of_updPort {p : DaritPort} {y : DPort} {s t : State} {f : DPort → DPort} (h : PortMoved p y (s.updPort p f) t)
    (hst : (f s.darit.ports[p]).st = s.darit.ports[p].st) : PortMoved p y s t := by
  obtain ⟨hf, ⟨hstate, hepoch, hlost, hadv⟩, ho, hx, hq⟩ := h
  have hset : (s.updPort p f).darit.ports.set p y = s.darit.ports.set p y := by simp [State.updPort]
  rw [hset] at hf
  rw [updPort_port, hst] at hepoch hlost hadv
  exact ⟨hf, ⟨hstate, hepoch, hlost, hadv⟩, ho, hx, hq⟩

/-- A write of DRT_PCFG resets the port with the registers that it writes. -/
theorem writePcfg_moved (s : State) (p : DaritPort) (v : Nat) : PortMoved p
    (s.darit.portStart { s.darit.ports[p] with enable := bit v 3, dim := fld v 2 1, dir := bit v 0 }) s (s.writePcfg p v) := by
  have h := portReset_moved (s.updPort p fun x => { x with enable := bit v 3, dim := fld v 2 1, dir := bit v 0 }) p
  rw [updPort_port] at h
  exact h.of_updPort rfl

end Sys2Proof.Machine
end

section
/-! PROOF. Topology writes: every enabled port trains again (19, R374, R378, R384, R390). -/

namespace Sys2Proof.Machine

/-! ## Ports reset in turn -/

namespace PortWritten

variable {s t u : State} {p : DaritPort} {y : DPort}

/-- What stands after the port's reset keeps its part and brings no frame. -/
theorem after (h : PortWritten s u p y) (hp : t.part (.darit p) = u.part (.darit p)) (hw : ∀ x ∈ t.slots.waiting, x ∈ u.slots.waiting) :
    PortWritten s t p y := by
  obtain ⟨hstate, hepoch, hlost, hadv⟩ := h
  rw [← hp] at hstate hepoch hadv
  exact ⟨hstate, hepoch, fun hup x hx => hlost hup x (hw x hx), hadv⟩

/-- What stood before the port's reset is the port's register state, its part and the time. -/
theorem before (h : PortWritten u t p y) (hp : u.part (.darit p) = s.part (.darit p)) (hport : u.darit.ports[p] = s.darit.ports[p])
    (htime : u.timeNs = s.timeNs) : PortWritten s t p y := by
  obtain ⟨hstate, hepoch, hlost, hadv⟩ := h
  rw [hport, hp] at hepoch hadv
  rw [hport] at hlost
  rw [htime] at hadv
  exact ⟨hstate, hepoch, hlost, hadv⟩

end PortWritten

/-- A port reset where it is enabled. -/
def State.resetEnabled (s : State) (p : DaritPort) : State := if s.darit.ports[p].enable then s.portReset p else s

/-- What a port holds that is reset where it is enabled. -/
def Darit.restarted (d : Darit) (q : DaritPort) : DPort := if d.ports[q].enable then d.portStart d.ports[q] else d.ports[q]

/-- The ports of a list reset in turn, where they are enabled. -/
structure PortsReset (l : List DaritPort) (s t : State) : Prop where
  frame : t = { s with darit := { s.darit with ports := t.darit.ports }, epochs := t.epochs, log := t.log, slots := t.slots,
                       fabric := t.fabric, fls := t.fls }
  restarted : ∀ q ∈ l, t.darit.ports[q] = s.darit.restarted q
  untouched : ∀ q, q ∉ l → t.darit.ports[q] = s.darit.ports[q] ∧ t.part (.darit q) = s.part (.darit q)
  written : ∀ q ∈ l, s.darit.ports[q].enable = true → PortWritten s t q (s.darit.portStart s.darit.ports[q])
  waiting : ∀ x ∈ t.slots.waiting, x ∈ s.slots.waiting
  quiet : s.fls.quench = none → t.fls = s.fls

theorem resetEnabled_reset (s : State) (p : DaritPort) : PortsReset [p] s (s.resetEnabled p) := by
  unfold State.resetEnabled
  split
  next he =>
    have h := portReset_moved s p
    refine ⟨by rw [h.frame], fun q hq => ?_, fun q hq => ?_, fun q hq _ => ?_, h.waiting, h.quiet⟩
    · obtain rfl := List.mem_singleton.1 hq
      rw [h.port, Darit.restarted, if_pos he]
    · have hne : q ≠ p := fun e => hq (List.mem_singleton.2 e)
      exact ⟨h.port_other hne, h.others _ fun e => hne (Part.darit.inj e)⟩
    · obtain rfl := List.mem_singleton.1 hq
      exact h.written
  next he =>
    refine ⟨rfl, fun q hq => ?_, fun q _ => ⟨rfl, rfl⟩, fun q hq hen => ?_, fun _ => id, fun _ => rfl⟩
    · obtain rfl := List.mem_singleton.1 hq
      rw [Darit.restarted, if_neg he]
    · obtain rfl := List.mem_singleton.1 hq
      exact absurd hen he

theorem PortsReset.cons {p : DaritPort} {l : List DaritPort} {s u t : State} (a : PortsReset [p] s u) (b : PortsReset l u t) (hp : p ∉ l) :
    PortsReset (p :: l) s t := by
  have hdarit : u.darit = { s.darit with ports := u.darit.ports } := by rw [a.frame]
  have htime : u.timeNs = s.timeNs := by rw [a.frame]
  have hstart (x : DPort) : u.darit.portStart x = s.darit.portStart x := by rw [hdarit]; rfl
  have hkept (q : DaritPort) (hq : q ∈ l) : u.darit.ports[q] = s.darit.ports[q] ∧ u.part (.darit q) = s.part (.darit q) :=
    a.untouched q fun e => hp (List.mem_singleton.1 e ▸ hq)
  obtain ⟨htport, htpart⟩ := b.untouched p hp
  refine ⟨by rw [b.frame, a.frame], fun q hq => ?_, fun q hq => ?_, fun q hq hen => ?_, fun x hx => a.waiting x (b.waiting x hx), fun hq => ?_⟩
  · rcases List.mem_cons.1 hq with rfl | hq
    · exact htport.trans (a.restarted q (by simp))
    · rw [b.restarted q hq, Darit.restarted, Darit.restarted, (hkept q hq).1, hstart]
  · obtain ⟨hqp, hql⟩ := not_or.1 fun h => hq (List.mem_cons.2 h)
    obtain ⟨haport, hapart⟩ := a.untouched q (by simpa using hqp)
    obtain ⟨hbport, hbpart⟩ := b.untouched q hql
    exact ⟨hbport.trans haport, hbpart.trans hapart⟩
  · rcases List.mem_cons.1 hq with rfl | hq
    · exact (a.written q (by simp) hen).after htpart b.waiting
    · obtain ⟨hport, hpart⟩ := hkept q hq
      have h := b.written q hq (by rw [hport]; exact hen)
      rw [hport, hstart] at h
      exact h.before hpart hport htime
  · have hfls := a.quiet hq
    exact (b.quiet (by rw [hfls]; exact hq)).trans hfls

theorem foldl_resetEnabled {l : List DaritPort} (hl : l.Nodup) (s : State) : PortsReset l s (l.foldl State.resetEnabled s) := by
  induction l generalizing s with
  | nil => exact ⟨rfl, fun _ h => (nomatch h), fun _ _ => ⟨rfl, rfl⟩, fun _ h => (nomatch h), fun _ => id, fun _ => rfl⟩
  | cons p l ih =>
    obtain ⟨hp, hl⟩ := List.nodup_cons.1 hl
    exact (resetEnabled_reset s p).cons (ih hl _) hp

theorem PortsReset.frame_quiet {l : List DaritPort} {s t : State} (h : PortsReset l s t) (hq : s.fls.quench = none) :
    t = { s with darit := t.darit, epochs := t.epochs, log := t.log, slots := t.slots, fabric := t.fabric } := by
  have := h.quiet hq
  rw [h.frame, this]

/-! ## A topology write (R374, R390) -/

/-- The ring's registers with DRT_TOPO or DRT_NODE written. -/
def Darit.placed (d : Darit) (node : Bool) (v : Nat) : Darit :=
  if node then { d with x := fld v 5 0, y := fld v 13 8, z := fld v 19 16 }
  else { d with sizeX := fld v 6 0, sizeY := fld v 14 8, sizeZ := fld v 20 16 }

theorem place_eq_placed (d : Darit) (node : Bool) (v : Nat) :
    d.place node v = { d.placed node v with cfgErr := d.cfgErr || !(d.placed node v).shapeValid, ports := d.ports } := by
  cases node <;> rfl

/-- A topology write: the registers written, and every enabled port reset under them. -/
theorem writeTopology_reset (s : State) (node : Bool) (v : Nat) :
    PortsReset (List.finRange 8) { s with darit := s.darit.place node v } (s.writeTopology node v) :=
  foldl_resetEnabled (List.nodup_finRange 8) _

section
variable (s : State) (node : Bool) (v : Nat)

theorem writeTopology_darit : (s.writeTopology node v).darit = { s.darit.placed node v with
    cfgErr := s.darit.cfgErr || !(s.darit.placed node v).shapeValid, ports := (s.writeTopology node v).darit.ports } := by
  have h := congrArg State.darit (writeTopology_reset s node v).frame
  rw [place_eq_placed] at h
  exact h

theorem writeTopology_port (q : DaritPort) : (s.writeTopology node v).darit.ports[q]
    = if s.darit.ports[q].enable then (s.darit.placed node v).portStart s.darit.ports[q] else s.darit.ports[q] := by
  have h := (writeTopology_reset s node v).restarted q (List.mem_finRange q)
  rw [place_eq_placed] at h
  exact h

theorem writeTopology_written {q : DaritPort} (hen : s.darit.ports[q].enable = true) :
    PortWritten s (s.writeTopology node v) q ((s.darit.placed node v).portStart s.darit.ports[q]) := by
  have h := writeTopology_reset s node v
  rw [place_eq_placed] at h
  obtain ⟨hstate, hepoch, hlost, hadv⟩ := h.written q (List.mem_finRange q) hen
  exact ⟨hstate, hepoch, hlost, hadv⟩

end

end Sys2Proof.Machine
end

section
/-! PROOF. Darit training and the sensing of cables (19, R384 to R387; 17, R330; 23, R452; logs 50, 59). -/

namespace Sys2Proof.Machine

/-! ## What a training run notes -/

theorem trainRef_frame (s : State) : s.trainRef = { s with tim := s.trainRef.tim, log := s.trainRef.log } := by
  unfold State.trainRef
  dsimp only
  split
  · rw [logEv_frame_quiet _ rfl]
  · rfl

theorem logDarit_logOnly (s : State) (cause unit : Nat) : LogOnly s (s.logDarit cause unit) := logEv_frame s _

theorem LogOnly.trans {s t u : State} (a : LogOnly s t) (b : LogOnly t u) : LogOnly s u := by
  unfold LogOnly at *
  rw [b, a]

theorem logLanes_logOnly (s : State) (p : DaritPort) (f : BitVec 17) : LogOnly s (s.logLanes p f) := by
  have hfold := foldl_within (R := LogOnly) (fun _ => rfl) LogOnly.trans (f := fun s (_ : Nat) => s.logDarit 1 p.val)
    (fun s _ => logDarit_logOnly s 1 p.val) (List.range (failedIn f 0 17)) s
  unfold State.logLanes
  dsimp only
  generalize List.foldl _ s _ = u at hfold ⊢
  have hspare : LogOnly s (if spareCarries f then u.logDarit 2 p.val else u) := by
    split
    · exact hfold.trans (logDarit_logOnly ..)
    · exact hfold
  split
  · exact hspare.trans (logDarit_logOnly ..)
  · exact hspare

/-- The state in which a training run has noted its reference and the lanes that it found failed. -/
def State.lanesNoted (s : State) (p : DaritPort) (o : TrainObs) : State := s.trainRef.logLanes p (~~~o.lanes)

theorem lanesNoted_frame (s : State) (p : DaritPort) (o : TrainObs) : s.lanesNoted p o =
    { s with tim := (s.lanesNoted p o).tim, log := (s.lanesNoted p o).log, hif := (s.lanesNoted p o).hif } := by
  have h := logLanes_logOnly s.trainRef p (~~~o.lanes)
  unfold LogOnly at h
  rw [State.lanesNoted, h, trainRef_frame]

theorem trainRef_darit (s : State) : s.trainRef.darit = s.darit := by rw [trainRef_frame]

theorem lanesNoted_darit (s : State) (p : DaritPort) (o : TrainObs) : (s.lanesNoted p o).darit = s.darit := by rw [lanesNoted_frame]

/-! ## A training run to its end (R384 to R387) -/

theorem exec_portTraining {s : State} (p : DaritPort) (o : TrainObs) (hp : s.pwr.current ≠ 3) (hw : s.svc.work = none) :
    exec (.portTraining p o) s = .next (s.trainPort p o) := by simp only [exec, execPortTraining, awake_of_not_ash hp, hw]

theorem trainPort_of_other {s : State} {p : DaritPort} (h : s.darit.ports[p].st ≠ .training) (o : TrainObs) : s.trainPort p o = s :=
  if_pos (bne_iff_ne.2 h)

section
variable {s : State} {p : DaritPort} {o : TrainObs} (h : s.darit.ports[p].st = .training)
include h

theorem trainPort_of_none (hc : o.cable = .none) :
    s.trainPort p o = (s.trainRef.updPort p (fun x => { x with st := .detect, cable := .none })).portRests p := by
  simp only [State.trainPort, h, hc, bne_self_eq_false, Bool.false_eq_true, if_false]

theorem trainPort_of_txTx (hc : o.cable = .txTx) : s.trainPort p o = s.trainRef.holdPort p 0 (fun x => { x with cable := .txTx }) := by
  simp only [State.trainPort, h, hc, bne_self_eq_false, Bool.false_eq_true, if_false]

theorem trainPort_of_noWidth (hc : o.cable = .ok) (hw : widthWith (~~~o.lanes) = 0) :
    s.trainPort p o = (s.lanesNoted p o).holdPort p 1 (seenLanes o) := by
  simp only [State.trainPort, h, hc, hw, bne_self_eq_false, Bool.false_eq_true, if_false, if_true, State.lanesNoted]

theorem trainPort_of_width (hc : o.cable = .ok) (hw : widthWith (~~~o.lanes) ≠ 0) : s.trainPort p o =
    if s.darit.exchange s.darit.ports[p] o = 0 then (s.lanesNoted p o).portUp p o
    else (s.lanesNoted p o).holdPort p (s.darit.exchange s.darit.ports[p] o) (seenPeer o) := by
  simp only [State.trainPort, h, hc, bne_self_eq_false, Bool.false_eq_true, if_false]
  rw [← State.lanesNoted, lanesNoted_darit, if_neg hw]
  split
  next he => rw [if_pos he]
  next he => rw [if_neg he]

end

/-! ## Where it ends -/

theorem logDarit_darit (s : State) (cause unit : Nat) : (s.logDarit cause unit).darit = s.darit := by rw [logDarit_frame]

theorem portRests_darit (s : State) (p : DaritPort) : (s.portRests p).darit = s.darit := by
  rw [State.portRests, quenchMended_frame]
  rfl

theorem holdPort_port (s : State) (p : DaritPort) (cause : Nat) (f : DPort → DPort) :
    (s.holdPort p cause f).darit.ports[p] = { f s.darit.ports[p] with st := .held, cause := cause } := by
  rw [State.holdPort, portRests_darit, logDarit_darit, updPort_port]

/-- A port that comes UP with what its lanes and the exchange showed. -/
def DPort.cameUp (x : DPort) (o : TrainObs) : DPort :=
  { seenPeer o x with st := .up, width := widthWith (~~~o.lanes), cause := if widthWith (~~~o.lanes) = 8 then 1 else 0, rxSeq := 0 }

theorem learn_frame (s : State) (node : Nat) (inc : W16) :
    s.learn node inc = { s with darit := { s.darit with incs := insertAt s.darit.incs node inc }, cmds := (s.learn node inc).cmds } := by
  unfold State.learn
  cases lookup s.darit.incs node with
  | none => rfl
  | some i => dsimp only; split <;> rfl

theorem portUp_kept (s : State) (p : DaritPort) (o : TrainObs) : RingKept
    (((s.updPort p (fun x => x.cameUp o)).learn (o.peerNode % 4096) o.peerInc).returnPart (.darit p)) (s.portUp p o) := by
  refine (routesChanged_kept _).trans ?_
  rw [State.portUp, quenchMended_frame]
  exact ⟨rfl, rfl⟩

theorem portUp_port (s : State) (p : DaritPort) (o : TrainObs) : (s.portUp p o).darit.ports[p] = s.darit.ports[p].cameUp o := by
  rw [(portUp_kept s p o).darit, ← updPort_port s p fun x => x.cameUp o, learn_frame]
  rfl

theorem portUp_incs (s : State) (p : DaritPort) (o : TrainObs) :
    lookup (s.portUp p o).darit.incs (o.peerNode % 4096) = some o.peerInc := by
  rw [(portUp_kept s p o).darit, learn_frame]
  exact lookup_insertAt_self ..

/-- A part's return that owes no advance is at once. -/
theorem settle_advance {e : EpochEntry} {now : Nat} (howed : e.owed = 0) (h : e.mayAdvance now = true) :
    ({ e.advance now with returning := true } : EpochEntry).settle.state = .inService
      ∧ ({ e.advance now with returning := true } : EpochEntry).settle.epoch = e.epoch + 1 := by
  simp [EpochEntry.settle, EpochEntry.advance, howed, h]

theorem portUp_part {s : State} {p : DaritPort} (o : TrainObs) (howed : (s.part (.darit p)).owed = 0)
    (h : (s.part (.darit p)).mayAdvance s.timeNs = true) : ((s.portUp p o).part (.darit p)).state = .inService
      ∧ ((s.portUp p o).part (.darit p)).epoch = (s.part (.darit p)).epoch + 1 := by
  rw [(portUp_kept s p o).part, learn_frame, State.returnPart, part_updPart_self]
  exact settle_advance howed h

section
variable {s : State} {p : DaritPort} {o : TrainObs} (h : s.darit.ports[p].st = .training)
include h

theorem trainPort_port_of_none (hc : o.cable = .none) :
    (s.trainPort p o).darit.ports[p] = { s.darit.ports[p] with st := .detect, cable := .none } := by
  rw [trainPort_of_none h hc, portRests_darit, updPort_port, trainRef_darit]

theorem trainPort_port_of_txTx (hc : o.cable = .txTx) :
    (s.trainPort p o).darit.ports[p] = { s.darit.ports[p] with st := .held, cause := 0, cable := .txTx } := by
  rw [trainPort_of_txTx h hc, holdPort_port, trainRef_darit]

theorem trainPort_port_of_noWidth (hc : o.cable = .ok) (hw : widthWith (~~~o.lanes) = 0) :
    (s.trainPort p o).darit.ports[p] = { seenLanes o s.darit.ports[p] with st := .held, cause := 1 } := by
  rw [trainPort_of_noWidth h hc hw, holdPort_port, lanesNoted_darit]

variable (hc : o.cable = .ok) (hw : widthWith (~~~o.lanes) ≠ 0)
include hc hw

theorem trainPort_port_of_refused (he : s.darit.exchange s.darit.ports[p] o ≠ 0) : (s.trainPort p o).darit.ports[p]
    = { seenPeer o s.darit.ports[p] with st := .held, cause := s.darit.exchange s.darit.ports[p] o } := by
  rw [trainPort_of_width h hc hw, if_neg he, holdPort_port, lanesNoted_darit]

variable (he : s.darit.exchange s.darit.ports[p] o = 0)
include he

theorem trainPort_port_of_up : (s.trainPort p o).darit.ports[p] = s.darit.ports[p].cameUp o := by
  rw [trainPort_of_width h hc hw, if_pos he, portUp_port, lanesNoted_darit]

theorem trainPort_incs_of_up : lookup (s.trainPort p o).darit.incs (o.peerNode % 4096) = some o.peerInc := by
  rw [trainPort_of_width h hc hw, if_pos he, portUp_incs]

theorem trainPort_part_of_up (howed : (s.part (.darit p)).owed = 0) (hmay : (s.part (.darit p)).mayAdvance s.timeNs = true) :
    ((s.trainPort p o).part (.darit p)).state = .inService
      ∧ ((s.trainPort p o).part (.darit p)).epoch = (s.part (.darit p)).epoch + 1 := by
  have hnoted := lanesNoted_frame s p o
  have hpart : (s.lanesNoted p o).part (.darit p) = s.part (.darit p) := by rw [hnoted]; rfl
  have htime : (s.lanesNoted p o).timeNs = s.timeNs := by rw [hnoted]
  rw [trainPort_of_width h hc hw, if_pos he, ← hpart]
  exact portUp_part o (by rw [hpart]; exact howed) (by rw [hpart, htime]; exact hmay)

end

/-! ## A cable sensed again (R385) -/

theorem sensing_iff (x : DPort) : (decide (x.st = .detect) || (decide (x.st = .held) && decide (x.cable = .txTx))) = true
    ↔ x.st = .detect ∨ (x.st = .held ∧ x.cable = .txTx) := by
  simp only [Bool.or_eq_true, Bool.and_eq_true, decide_eq_true_eq]

section
variable {s : State} {p : DaritPort}

theorem exec_cableSense_of_other (c : Cable) (h : s.darit.ports[p].st ≠ .detect)
    (h' : s.darit.ports[p].st ≠ .held ∨ s.darit.ports[p].cable ≠ .txTx) : exec (.cableSense p c) s = .next s :=
  congrArg Host.Outcome.next (if_neg fun hs => ((sensing_iff _).1 hs).elim h fun e => h'.elim (· e.1) (· e.2))

variable (h : s.darit.ports[p].st = .detect ∨ (s.darit.ports[p].st = .held ∧ s.darit.ports[p].cable = .txTx))
include h

theorem exec_cableSense_ok : exec (.cableSense p .ok) s
    = .next ((s.updPort p (fun x => { x with st := .training, cable := .ok, cause := 0 })).resetPart (.darit p)) :=
  congrArg Host.Outcome.next (if_pos ((sensing_iff _).2 h))

theorem exec_cableSense_none : exec (.cableSense p .none) s = .next (s.updPort p (fun x => { x with st := .detect, cable := .none })) :=
  congrArg Host.Outcome.next (if_pos ((sensing_iff _).2 h))

theorem exec_cableSense_txTx : exec (.cableSense p .txTx) s = .next (s.updPort p (fun x => { x with st := .held, cable := .txTx })) :=
  congrArg Host.Outcome.next (if_pos ((sensing_iff _).2 h))

end

end Sys2Proof.Machine
end

section
/-! PROOF. Darit faults in service, flits and frames (19, R373, R376, R377, R380, R382, R388, R391; 17, R330, R341; log 151). -/

namespace Sys2Proof.Machine

/-! ## Lanes that fail (R388) -/

/-- The failed lanes of a port with one more. -/
def DPort.lost (x : DPort) (lane : Fin 17) : BitVec 17 := x.laneFail ||| BitVec.twoPow 17 lane.val

/-- A failed lane noted at its port and logged. -/
def State.laneLost (s : State) (p : DaritPort) (lane : Fin 17) : State :=
  (s.updPort p (fun x => { x with laneFail := x.lost lane })).logDarit 1 p.val

theorem laneLost_frame (s : State) (p : DaritPort) (lane : Fin 17) :
    s.laneLost p lane = { s with darit := (s.laneLost p lane).darit, log := (s.laneLost p lane).log } := by
  rw [State.laneLost, logDarit_frame]
  rfl

theorem laneLost_port (s : State) (p : DaritPort) (lane : Fin 17) :
    (s.laneLost p lane).darit.ports[p] = { s.darit.ports[p] with laneFail := s.darit.ports[p].lost lane } := by
  rw [State.laneLost, logDarit_darit, updPort_port]

theorem ofNat_two_pow_eq_twoPow (lane : Fin 17) : BitVec.ofNat 17 (2 ^ lane.val) = BitVec.twoPow 17 lane.val :=
  BitVec.eq_of_toNat_eq (by simp [BitVec.toNat_twoPow])

section
variable {s : State} {p : DaritPort} {lane : Fin 17} (hup : s.darit.ports[p].st = .up)
  (hl : s.darit.ports[p].laneFail.getLsbD lane.val = false)
include hup hl

theorem exec_laneFailure : exec (.laneFailure p lane) s = .next (
    if widthWith (s.darit.ports[p].lost lane) = 16 then
      if lane.val = 16 then s.laneLost p lane
      else ((s.laneLost p lane).updPort p (fun x => { x with spareUsed := true })).logDarit 2 p.val
    else if (s.darit.ports[p].width = 8 && widthWith (s.darit.ports[p].lost lane) = 8) = true then s.laneLost p lane
    else if widthWith (s.darit.ports[p].lost lane) = 8 then (s.laneLost p lane).portTo p .training 0
    else ((s.laneLost p lane).portTo p .down 7).logDarit 4 p.val) := by
  simp only [exec, execLaneFailure, State.loseLane, hup, hl, bne_self_eq_false, Bool.or_self, Bool.false_eq_true, if_false,
    ofNat_two_pow_eq_twoPow]
  rfl

/-- The spare takes the place of the first lane that fails; a failed spare is noted. -/
theorem exec_laneFailure_spare (hw : widthWith (s.darit.ports[p].lost lane) = 16) : ∃ t, exec (.laneFailure p lane) s = .next t
    ∧ t.darit.ports[p] = { s.darit.ports[p] with laneFail := s.darit.ports[p].lost lane
                                                 spareUsed := s.darit.ports[p].spareUsed || decide (lane.val ≠ 16) }
    ∧ t = { s with darit := t.darit, log := t.log } := by
  have he := exec_laneFailure hup hl
  rw [if_pos hw] at he
  by_cases h : lane.val = 16
  · rw [if_pos h] at he
    exact ⟨_, he, by rw [laneLost_port]; simp [h], laneLost_frame s p lane⟩
  · rw [if_neg h] at he
    refine ⟨_, he, by rw [logDarit_darit, updPort_port, laneLost_port]; simp [h], ?_⟩
    rw [logDarit_frame, laneLost_frame]
    rfl

theorem exec_laneFailure_retrains (hw : widthWith (s.darit.ports[p].lost lane) = 8) (h8 : s.darit.ports[p].width ≠ 8) :
    exec (.laneFailure p lane) s = .next ((s.laneLost p lane).portTo p .training 0) := by
  rw [exec_laneFailure hup hl, if_neg (by rw [hw]; decide), if_neg (by simp only [h8, decide_false, Bool.false_and]; decide), if_pos hw]

theorem exec_laneFailure_borne (hw : widthWith (s.darit.ports[p].lost lane) = 8) (h8 : s.darit.ports[p].width = 8) :
    exec (.laneFailure p lane) s = .next (s.laneLost p lane) := by
  rw [exec_laneFailure hup hl, if_neg (by rw [hw]; decide), if_pos (by simp only [h8, hw, decide_true, Bool.and_self])]

theorem exec_laneFailure_down (hw : widthWith (s.darit.ports[p].lost lane) = 0) :
    exec (.laneFailure p lane) s = .next (((s.laneLost p lane).portTo p .down 7).logDarit 4 p.val) := by
  have h0 : (0 : Nat) ≠ 8 := by decide
  rw [exec_laneFailure hup hl, hw, if_neg (by decide), if_neg (by simp only [h0, decide_false, Bool.and_false]; decide), if_neg h0]

end

/-! ## A fault of a port (R341, R388) -/

section
variable {s : State} {p : DaritPort} (hup : s.darit.ports[p].st = .up)
include hup

theorem exec_daritPortFault : exec (.daritPortFault p) s = .next ((s.logDarit 4 p.val).portReset p) :=
  congrArg Host.Outcome.next (if_pos hup)

end

theorem PortMoved.sameMemory {p : DaritPort} {y : DPort} {s t : State} (h : PortMoved p y s t) : sameMemory s t := by
  rw [h.frame]
  exact ⟨rfl, rfl, rfl, SameBytes.sameStacked fun _ => rfl, rfl⟩

theorem PortMoved.state_ne {p : DaritPort} {y : DPort} {s t : State} (h : PortMoved p y s t) : (t.part (.darit p)).state ≠ .inService := by
  rw [h.written.state]
  split <;> nofun

/-- A record before a port's reset changes nothing of what the reset leaves. -/
theorem PortMoved.of_logDarit {p : DaritPort} {y : DPort} {s t : State} {cause unit : Nat} (h : PortMoved p y (s.logDarit cause unit) t) :
    PortMoved p y s t := by
  rw [logDarit_frame] at h
  obtain ⟨hf, ⟨hstate, hepoch, hlost, hadv⟩, ho, hx, hq⟩ := h
  exact ⟨hf, ⟨hstate, hepoch, hlost, hadv⟩, ho, hx, hq⟩

/-! ## Flits (R373, R377) -/

section
variable {s : State} {p : DaritPort} (hup : s.darit.ports[p].st = .up) (n : BitVec 12) (fec : Nat)
include hup

theorem exec_flitReceive_bad : exec (.flitReceive p n { crcOk := false, fec := fec }) s = .next (s.updPort p (fun x => { x with
    fecCorr := x.fecCorr + BitVec.ofNat 64 fec, replay := x.replay + 1 })) := by
  simp only [exec, execFlitReceive, hup, bne_self_eq_false, Bool.false_eq_true, if_false, Bool.not_false, if_true, updPort_twice]

theorem exec_flitReceive_good : exec (.flitReceive p n { crcOk := true, fec := fec }) s = .next (s.updPort p (fun x => { x with
    fecCorr := x.fecCorr + BitVec.ofNat 64 fec, rxFlits := x.rxFlits + 1, rxSeq := if n = x.rxSeq then x.rxSeq + 1 else x.rxSeq })) := by
  simp only [exec, execFlitReceive, hup, bne_self_eq_false, Bool.false_eq_true, if_false, Bool.not_true, updPort_twice]

end

/-! ## Frames (R376, R377, R380, R382) -/

theorem leaveLow_of_awake {s : State} (h1 : s.pwr.current ≠ 1) (h2 : s.pwr.current ≠ 2) : s.leaveLow = s := by
  simp [State.leaveLow, h1, h2]

theorem dropAged_darit (s : State) (unit : Nat) : (s.dropAged unit).darit = { s.darit with aged := s.darit.aged + 1 } := by
  unfold State.dropAged
  rw [logLimited_frame_quiet _ _ _ rfl]
  rfl

theorem dropAged_frame (s : State) (unit : Nat) : s.dropAged unit = { s with darit := (s.dropAged unit).darit, log := (s.dropAged unit).log } := by
  unfold State.dropAged
  rw [logLimited_frame_quiet _ _ _ rfl]
  rfl

section
variable {s : State} {p : DaritPort} {fr : Frame} (hup : s.darit.ports[p].st = .up) (h1 : s.pwr.current ≠ 1) (h2 : s.pwr.current ≠ 2)
include hup h1 h2

theorem exec_frameForward_of_aged (ha : 1000 < fr.ageUs) : exec (.frameForward p fr) s = .next (s.dropAged p.val) := by
  simp only [exec, execFrameForward, leaveLow_of_awake h1 h2, State.forward, hup, bne_self_eq_false, Bool.false_eq_true, if_false, ha, if_true]

variable (ha : fr.ageUs ≤ 1000)
include ha

theorem exec_frameForward_here (hd : fr.dst = s.darit.nodeId) : exec (.frameForward p fr) s
    = .next (if fr.incarnation = s.darit.incarnation then s else s.logAbsent (.darit p)) := by
  simp only [exec, execFrameForward, leaveLow_of_awake h1 h2, State.forward, hup, bne_self_eq_false, Bool.false_eq_true, if_false,
    not_lt.2 ha, hd, if_true]

variable (hd : fr.dst ≠ s.darit.nodeId)
include hd

theorem exec_frameForward_noRoute (hr : s.darit.route fr.dst = none) : exec (.frameForward p fr) s
    = .next (s.logEv { source := 11, cause := 7, status := stAbsent, unit := p.val, address := fr.dst }) := by
  simp only [exec, execFrameForward, leaveLow_of_awake h1 h2, State.forward, hup, bne_self_eq_false, Bool.false_eq_true, if_false,
    not_lt.2 ha, hd, hr]

theorem exec_frameForward_sent {r : RouteAcc} {d : Nat × Bool} {q : DaritPort} (hr : s.darit.route fr.dst = some r) (hf : r.first = some d)
    (hq : s.darit.memberOn (dieOfPart (.darit p)) d.1 d.2 = some q) : exec (.frameForward p fr) s
    = .next (s.sendOn p q fr (s.darit.outChannel fr.channel r d)) := by
  simp only [exec, execFrameForward, leaveLow_of_awake h1 h2, State.forward, hup, bne_self_eq_false, Bool.false_eq_true, if_false,
    not_lt.2 ha, hd, hr, hf, hq]

end

/-- A transfer waits at the first link of a path that has one. -/
theorem send_waiting (s : State) (id cls : Nat) (prio : PrioClass) (bytes : Nat) (path : List FabLink) (l : FabLink) (chan : Option Nat)
    (write : Bool) (age : Nat) (vc : Fin 3) : ∃ x, s.send id cls prio bytes (path ++ [l]) chan write age vc
        = { s with slots := { s.slots with waiting := s.slots.waiting ++ [x] } }
      ∧ x.link :: x.rest = path ++ [l] ∧ x.id = id ∧ x.cls = cls ∧ x.prio = prio ∧ x.bytes = bytes ∧ x.age = age ∧ x.vc = vc := by
  cases path with
  | nil => exact ⟨_, rfl, rfl, rfl, rfl, rfl, rfl, rfl, rfl⟩
  | cons a path => exact ⟨_, rfl, rfl, rfl, rfl, rfl, rfl, rfl, rfl⟩

end Sys2Proof.Machine
end

section
/-! PROOF. Requests to peers without a reply, the trunks of other devices, and a peer's gathers (19, R378 to R380, R382; 11, R217). -/

namespace Sys2Proof.Machine

/-! ## A request that gets no reply (R379, R382) -/

/-- A request alone on its way to another device, taken back with its transfer. -/
def State.takenBack (s : State) (id : Nat) : State :=
  { s with fabric := [], slots := { s.slots with waiting := s.slots.waiting.filter (fun y => !(y.id == id && y.cls == 0)) } }

theorem sendAway_sent {s : State} {r : FabricReq} {via : RouteAcc} {d : Nat × Bool} {q : DaritPort} (hf : via.first = some d)
    (hq : s.darit.memberOn (dieOfPart r.requester) d.1 d.2 = some q) : ∃ x, s.sendAway r via
        = { s with slots := { s.slots with waiting := s.slots.waiting ++ [x] } }
      ∧ x.link :: x.rest = s.path r.requester (.darit q) (reqStation r) ++ [FabLink.darit q] ∧ x.id = r.id ∧ x.cls = 0 := by
  obtain ⟨x, hx, hpath, hid, hcls, _⟩ := send_waiting s r.id clsCOMPUTE r.prio (32 + (if r.data.isSome then 32 else 0))
    (s.path r.requester (.darit q) (reqStation r)) (.darit q) none r.data.isSome 0 (s.darit.outChannel 0 via d)
  refine ⟨x, ?_, hpath, hid, hcls⟩
  rw [← hx]
  simp only [State.sendAway, hf, hq]

section
variable {s : State} {n : Nat} {w : FabricWait} (hs : s.fabric = [w]) (hst : w.stage = .served ∨ w.stage = .lost)
  (hn : w.req.node = some n) (hne : n ≠ s.darit.nodeId)
include hs hst hn hne

theorem exec_remoteRequestTimeout : exec (.remoteRequestTimeout w.req.id) s
    = .next (((s.takenBack w.req.id).reissueAway w.req).tryAway false) := by
  have hr : s.remoteNode w.req = some n := by simp only [State.remoteNode, hn, hne, if_false]
  rcases hst with h | h <;> simp [exec, execRemoteRequestTimeout, hs, hr, h, State.takenBack, State.updSlots, clsCOMPUTE]

theorem exec_remoteRequestTimeout_absent (hroute : s.routeFor w.req n = none) : exec (.remoteRequestTimeout w.req.id) s
    = .next { (s.takenBack w.req.id).logEv { source := 11, cause := 7, status := stAbsent, unit := wholeUnit, address := n } with
        fabric := [{ req := w.req, stage := .absent, via := none }] } := by
  have hr : (s.takenBack w.req.id).remoteNode w.req = some n := by simp only [State.remoteNode, hn]; exact if_neg hne
  have hroute' : (s.takenBack w.req.id).routeFor w.req n = none := hroute
  have hnone : ((s.takenBack w.req.id).logEv { source := 11, cause := 7, status := stAbsent, unit := wholeUnit, address := n }).fabric = [] := by
    rw [logEv_frame]; rfl
  rw [exec_remoteRequestTimeout hs hst hn hne]
  simp only [State.reissueAway, hr, hroute', hnone]
  rw [tryAway_of_none]
  intro x hx hb
  rw [List.mem_singleton.1 hx] at hb
  exact nomatch hb

theorem exec_remoteRequestTimeout_sent {r : RouteAcc} (hroute : s.routeFor w.req n = some r) : exec (.remoteRequestTimeout w.req.id) s
    = .next { (s.takenBack w.req.id).sendAway w.req r with fabric := [{ req := w.req, stage := .served, via := some r }] } := by
  have hr : (s.takenBack w.req.id).remoteNode w.req = some n := by simp only [State.remoteNode, hn]; exact if_neg hne
  have hroute' : (s.takenBack w.req.id).routeFor w.req n = some r := hroute
  have hnone : ((s.takenBack w.req.id).sendAway w.req r).fabric = [] := by rw [sendAway_frame]; rfl
  rw [exec_remoteRequestTimeout hs hst hn hne]
  simp only [State.reissueAway, hr, hroute', hnone]
  rw [tryAway_of_none]
  intro x hx hb
  rw [List.mem_singleton.1 hx] at hb
  exact nomatch hb

end

/-! ## Trunks of other devices (R378) -/

/-- The trunks that are down once one has come up or gone down. -/
def Darit.trunksAfter (d : Darit) (y : Nat × Nat × Bool) (up : Bool) : List (Nat × Nat × Bool) :=
  if up then d.downTrunks.filter (· != y) else if d.downTrunks.contains y then d.downTrunks else y :: d.downTrunks

theorem trunksAfter_contains (d : Darit) (y : Nat × Nat × Bool) (up : Bool) : (d.trunksAfter y up).contains y = !up := by
  unfold Darit.trunksAfter
  cases up with
  | true => simp
  | false =>
    by_cases h : y ∈ d.downTrunks
    · simp [h]
    · simp [h]

theorem mem_trunksAfter_other (d : Darit) {x y : Nat × Nat × Bool} (h : x ≠ y) (up : Bool) : x ∈ d.trunksAfter y up ↔ x ∈ d.downTrunks := by
  unfold Darit.trunksAfter
  cases up with
  | true => simp [h]
  | false => by_cases hy : y ∈ d.downTrunks <;> simp [h, hy]

/-- The trunk of another device come up or gone down. -/
def State.trunkSet (s : State) (y : Nat × Nat × Bool) (up : Bool) : State :=
  { s with darit := { s.darit with downTrunks := s.darit.trunksAfter y up } }

theorem trunkUp_trunkSet {s : State} {node : Nat} (h : node ≠ s.darit.nodeId) (dim : Nat) (minus up : Bool) :
    (s.trunkSet (node, dim, minus) up).darit.trunkUp node dim minus = up := by
  have hup : (s.trunkSet (node, dim, minus) up).darit.trunkUp node dim minus
      = !(s.darit.trunksAfter (node, dim, minus) up).contains (node, dim, minus) := if_neg h
  rw [hup, trunksAfter_contains, Bool.not_not]

/-- Routes computed again where no command is held and no request waits. -/
theorem routesChanged_of_idle {s : State} (hc : s.cmds = []) (hf : s.fabric = []) : s.routesChanged = s.logDarit 6 wholeUnit := by
  have hc' : (s.logDarit 6 wholeUnit).cmds = [] := by rw [logDarit_frame]; exact hc
  have hf' : (s.logDarit 6 wholeUnit).fabric = [] := by rw [logDarit_frame]; exact hf
  unfold State.routesChanged State.unhold
  dsimp only
  rw [hc']
  exact again_of_none (fun w hw => by rw [List.filter_nil, List.foldl_nil, hf'] at hw; exact nomatch hw) id

theorem exec_trunkStateChange {s : State} {node : Nat} (h : node ≠ s.darit.nodeId) (dim : Nat) (minus up : Bool) :
    exec (.trunkStateChange node dim minus up) s = .next (s.trunkSet (node, dim, minus) up).routesChanged :=
  congrArg Host.Outcome.next (if_neg h)

/-! ## A gather that a peer asks for (R217) -/

section
variable {s : State} {r : RemoteGather} (h1 : s.pwr.current ≠ 1) (h2 : s.pwr.current ≠ 2)
include h1 h2

theorem exec_remoteGatherServe_ok {g : Nat} {toks : List (List Nat × List Nat)} {s1 : State} (h : s.serveGather r = .ok (g, toks, s1)) :
    exec (.remoteGatherServe r) s = .next { s1.updCnt (regionN g) (fun x => { x with
        kvServed := x.kvServed + BitVec.ofNat 64 (if r.count = 0 then 0 else (r.pos + r.count - 1) / 16 - r.pos / 16 + 1) }) with
      reply := leBytes 1 0 ++ toks.flatMap tokenBytes } := by
  simp only [exec, execRemoteGatherServe, leaveLow_of_awake h1 h2, h, stDone]

theorem exec_remoteGatherServe_status {st : Nat} {nt : ErrNote} (h : s.serveGather r = .error (.status st nt)) :
    exec (.remoteGatherServe r) s = .next { s.noteErr nt with reply := leBytes 1 (if st = 0x10 then 0x10 else 0x21) } := by
  simp only [exec, execRemoteGatherServe, leaveLow_of_awake h1 h2, h]
  rfl

end

/-- A gather from a sequence that is not the context's is malformed. -/
theorem serveGather_of_foreign {s : State} {r : RemoteGather}
    (h : ∀ x, lookup s.seqs r.seq = some x → s.seqBad r.seq x = false ∧ x.ctx ≠ r.ctx) :
    s.serveGather r = .error (.status 0x21 .none) := by
  unfold State.serveGather
  split
  next => rfl
  next x hx =>
    obtain ⟨hbad, hctx⟩ := h x hx
    have hno : (x.ctx == r.ctx) = false := beq_eq_false_iff_ne.2 hctx
    simp only [State.needSeq, hbad, Bool.false_eq_true, if_false, hno, need]
    rfl

end Sys2Proof.Machine
end

section
/-! PROOF. The rows of the Darit ring (11, R217; 19, R373, R377, R378, R380, R382, R384 to R390). -/

namespace Sys2Proof.Machine

/-! ## Configuration -/

/-- What a port's new state leaves, in the order in which the rows state it. -/
theorem PortWritten.clauses {s t : State} {p : DaritPort} {y : DPort} (h : PortWritten s t p y) :
    (t.part (.darit p)).state = (if y.st = .training then .resetting else .fenced)
      ∧ (s.darit.ports[p].st ≠ .up → (t.part (.darit p)).epoch = (s.part (.darit p)).epoch)
      ∧ (s.darit.ports[p].st = .up → (∀ x ∈ t.slots.waiting, x.link ≠ .darit p)
        ∧ ((s.part (.darit p)).owed = 0 → (s.part (.darit p)).mayAdvance s.timeNs = true →
            (t.part (.darit p)).epoch = (s.part (.darit p)).epoch + 1)) :=
  ⟨h.state, h.epoch, fun hup => ⟨h.lost hup, h.advanced hup⟩⟩

section
variable {s : State} (hp : s.pwr.current ≠ 3) (hr : s.isReady = true)
include hp hr

theorem exec_portConfigWrite (p : DaritPort) (v : W32) : exec (.portConfigWrite p v) s = .next (s.writePcfg p v.toNat) := by
  simp only [exec, execPortConfigWrite, awake_of_not_ash hp, hr, if_true]

theorem exec_retrain (p : DaritPort) : exec (.retrain p) s = .next (s.portReset p) := by
  simp only [exec, execRetrain, awake_of_not_ash hp, hr, if_true]

theorem exec_portCountersClear (p : DaritPort) (v : W32) : exec (.portCountersClear p v) s = .next (if bit v.toNat 1 then
    s.updPort p (fun x => { x with txFlits := 0, rxFlits := 0, replay := 0, fecCorr := 0, fwd := 0 }) else s) := by
  simp only [exec, execPortCountersClear, awake_of_not_ash hp, hr, Bool.true_and]

theorem exec_agedCounterClear (v : W32) : exec (.agedCounterClear v) s
    = .next (if bit v.toNat 0 then { s with darit := { s.darit with aged := 0 } } else s) := by
  simp only [exec, execAgedCounterClear, awake_of_not_ash hp, hr, Bool.true_and]
  rfl

theorem exec_topologyWrite (node : Bool) (v : W32) : exec (.topologyWrite node v) s = .next (s.writeTopology node v.toNat) := by
  simp only [exec, execTopologyWrite, awake_of_not_ash hp, hr, if_true]

end

/-! ## The obligation -/

/-- Settles O53: port resets by what a port's new state leaves, training and the other rows by the end that each case comes to; routes computed
again keep the ring and the parts' entries. -/
theorem daritPortsAndFrames : Obligations.DaritPortsAndFrames := by
  unfold Obligations.DaritPortsAndFrames
  refine ⟨fun s p v hp hr hq => ?writes, fun s p o hp hw hq => ?training, fun s p => ?cables, fun s p hup => ?up,
    fun s n w hs hst hn hne => ?requests, fun s node dim minus up hne => ?trunks, fun s r h1 h2 => ?gathers⟩
  case writes =>
    refine ⟨?_, ?_, exec_portCountersClear hp hr p v, exec_agedCounterClear hp hr v, fun node => ?_⟩
    · have h := writePcfg_moved s p v.toNat
      refine ⟨_, exec_portConfigWrite hp hr p v, by rw [h.frame], ?_, ?_, ?_, portStart_st _ _, h.written.clauses, h.frame_quiet hq⟩
      all_goals rw [portStart_eq]; rfl
    · have h := portReset_moved s p
      exact ⟨_, exec_retrain hp hr p, by rw [h.frame], h.written.clauses, h.frame_quiet hq⟩
    · exact ⟨_, exec_topologyWrite hp hr node v, writeTopology_darit s node _, writeTopology_port s node _,
        fun q hen => (writeTopology_written s node _ hen).clauses, (writeTopology_reset s node _).frame_quiet hq⟩
  case training =>
    have hexec := exec_portTraining p o hp hw
    refine ⟨fun h => by rw [hexec, trainPort_of_other h], fun h => ⟨fun hc => ?_, fun hc => ?_, fun hc hn => ?_, fun hc hn he => ?_,
      fun hc hn he => ?_⟩⟩
    · have hport := trainPort_port_of_none h hc
      exact ⟨_, hexec, congrArg DPort.st hport, congrArg DPort.cable hport⟩
    · have hport := trainPort_port_of_txTx h hc
      exact ⟨_, hexec, congrArg DPort.st hport, congrArg DPort.cause hport, congrArg DPort.cable hport⟩
    · have hport := trainPort_port_of_noWidth h hc hn
      exact ⟨_, hexec, congrArg DPort.st hport, congrArg DPort.cause hport, congrArg DPort.laneFail hport⟩
    · have hport := trainPort_port_of_refused h hc hn he
      exact ⟨_, hexec, congrArg DPort.st hport, congrArg DPort.cause hport, congrArg DPort.peerNode hport⟩
    · have hport := trainPort_port_of_up h hc hn he
      exact ⟨_, hexec, congrArg DPort.st hport, congrArg DPort.width hport, congrArg DPort.cause hport, congrArg DPort.peerNode hport,
        congrArg DPort.laneFail hport, congrArg DPort.map hport, congrArg DPort.laneInv hport, trainPort_part_of_up h hc hn he,
        trainPort_incs_of_up h hc hn he⟩
  case cables =>
    refine ⟨fun h => ⟨⟨_, exec_cableSense_ok h, ?_, ?_, rfl⟩, exec_cableSense_none h, exec_cableSense_txTx h⟩,
      fun h h' c => exec_cableSense_of_other c h h'⟩
    · exact updPort_port s p fun x => { x with st := .training, cable := .ok, cause := 0 }
    · exact congrArg EpochEntry.state (part_updPart_self _ _ _)
  case up =>
    have hfault := portReset_moved (s.logDarit 4 p.val) p
    rw [logDarit_darit] at hfault
    replace hfault := hfault.of_logDarit
    refine ⟨fun lane hl => ⟨exec_laneFailure_spare hup hl, fun hw h8 => ?_, fun hw h8 => ?_, fun hw => ?_⟩,
      ⟨_, exec_daritPortFault hup, hfault.port, hfault.state_ne, fun _ => hfault.port_other, hfault.sameMemory⟩,
      exec_flitReceive_bad hup, exec_flitReceive_good hup, fun fr h1 h2 => ⟨fun ha => ?_, fun ha hd => ⟨fun hi => ?_, fun hi => ?_⟩,
        fun ha hd hr => ?_, fun r d q ha hd hr hf hq => ?_⟩⟩
    · exact ⟨_, exec_laneFailure_retrains hup hl hw h8, congrArg DPort.st (portTo_moved _ p .training 0).port⟩
    · exact ⟨_, exec_laneFailure_borne hup hl hw h8, laneLost_port s p lane, laneLost_frame s p lane⟩
    · have hport := ((portTo_moved (s.laneLost p lane) p .down 7).logDarit 4 p.val).port
      exact ⟨_, exec_laneFailure_down hup hl hw, congrArg DPort.st hport, congrArg DPort.cause hport⟩
    · exact ⟨_, exec_frameForward_of_aged hup h1 h2 ha, dropAged_darit s p.val, dropAged_frame s p.val⟩
    · rw [exec_frameForward_here hup h1 h2 ha hd, if_pos hi]
    · refine ⟨_, exec_frameForward_here hup h1 h2 ha hd, ?_⟩
      rw [if_neg hi]
      refine ⟨fun hlimit => ?_, logAbsent_frame s _⟩
      obtain ⟨x, hrecs, hsource, _, hunit, _⟩ := logAbsent_recs (.darit p) hlimit
      exact ⟨x, hrecs, hsource, hunit⟩
    · exact ⟨_, exec_frameForward_noRoute hup h1 h2 ha hd hr, ⟨_, logEv_recs s _, rfl, rfl⟩, logEv_frame s _⟩
    · obtain ⟨x, hx, hpath, hid, hcls, hprio, hbytes, hage, hvc⟩ := send_waiting { s with nextReq := s.nextReq + 1 } s.nextReq clsFORWARD
        fr.prio (32 + fr.bytes) (s.path (.darit p) (.darit q) 0) (.darit q) none false fr.ageUs (s.darit.outChannel fr.channel r d)
      refine ⟨_, x, exec_frameForward_sent hup h1 h2 ha hd hr hf hq, ?_⟩
      rw [State.sendOn, hx]
      exact ⟨rfl, hpath, hid, hcls, hprio, hbytes, hage, hvc, rfl⟩
  case requests =>
    refine ⟨fun hroute => ⟨_, exec_remoteRequestTimeout_absent hs hst hn hne hroute, rfl, ?_, ?_⟩, fun r hroute =>
      ⟨_, exec_remoteRequestTimeout_sent hs hst hn hne hroute, rfl, fun d q hf hq => ?_, ?_⟩⟩
    · exact ⟨_, logEv_recs _ _, rfl, rfl⟩
    · rw [logEv_frame]; rfl
    · obtain ⟨x, hx, hpath, hid, hcls⟩ := sendAway_sent (s := s.takenBack w.req.id) hf hq
      refine ⟨x, by rw [hx]; rfl, hid, hcls, hpath.trans ?_⟩
      rw [path_congr] <;> rfl
    · rw [sendAway_frame]; rfl
  case trunks =>
    have hkept := routesChanged_kept (s.trunkSet (node, dim, minus) up)
    refine ⟨_, exec_trunkStateChange hne dim minus up, by rw [hkept.darit, trunkUp_trunkSet hne], by rw [hkept.darit]; rfl, fun y hy => ?_,
      fun hc hf => ?_⟩
    · rw [hkept.darit]
      exact mem_trunksAfter_other s.darit hy up
    · have hidle : (s.trunkSet (node, dim, minus) up).routesChanged = (s.trunkSet (node, dim, minus) up).logDarit 6 wholeUnit :=
        routesChanged_of_idle hc hf
      rw [hidle, logDarit_frame]
      rfl
  case gathers =>
    refine ⟨fun g toks s1 h => ⟨_, exec_remoteGatherServe_ok h1 h2 h, rfl, ?_, rfl⟩, fun st nt h => exec_remoteGatherServe_status h1 h2 h,
      fun h => exec_remoteGatherServe_status h1 h2 (serveGather_of_foreign h)⟩
    simp [State.updCnt]

end Sys2Proof.Machine
end

section
/-! PROOF. ROUND's dispatch: what its checks touch, its row by its outcomes, and what the dispatch leaves (12, R225 to R229, R242; log 140). -/

namespace Sys2Proof.Machine

/-! ## What the checks touch (R225, R226, R229) -/

theorem tiersAct_roundList (ctx va count : Nat) : TiersAct (roundList ctx va count) :=
  .bind (tiersAct_getVirt ..) fun _ => .bind (.need ..) fun _ => .pure _

theorem tiersAct_roundCheck (ctx : Nat) (cm : Cmd) : TiersAct (roundCheck ctx cm) := by
  refine .bind (tiersAct_roundList ..) fun es => .bind ?descriptor fun db => .bind (.need ..) fun _ => .bind .get fun s =>
    .bind (.forIn fun e _ => ?entry) fun _ => .bind (.need ..) fun _ => ?fits
  case descriptor =>
    split
    · exact tiersAct_getVirt ..
    · exact .pure _
  case entry =>
    split
    · exact .bind (.lift _) fun _ => .pure _
    · exact .pure _
  case fits =>
    dsimp only
    split
    · exact .bind (.need ..) fun _ => .pure _
    · exact .pure _

/-! ## Coils held in turn -/

/-- Coils of entries held by a command (R229). -/
def State.holdCoils (s : State) (q n : Nat) (es : List RoundEntry) : State :=
  es.foldl (fun s e => s.updCoil e.coil (fun x => { x with holder := some (q, n) })) s

theorem holdCoils_frame (s : State) (q n : Nat) (es : List RoundEntry) : s.holdCoils q n es = { s with coils := (s.holdCoils q n es).coils } := by
  induction es generalizing s with
  | nil => rfl
  | cons e es ih =>
    rw [State.holdCoils, List.foldl_cons]
    exact ih (s.updCoil e.coil _)

theorem lookup_holdCoils (s : State) (q n : Nat) (es : List RoundEntry) (i : Nat) : lookup (s.holdCoils q n es).coils i
    = if i ∈ es.map RoundEntry.coil then (lookup s.coils i).map (fun x => { x with holder := some (q, n) }) else lookup s.coils i := by
  induction es generalizing s with
  | nil => simp [State.holdCoils]
  | cons e es ih =>
    rw [State.holdCoils, List.foldl_cons, ← State.holdCoils, ih, State.updCoil_coils]
    by_cases h : i = e.coil
    · subst h
      cases hl : lookup s.coils e.coil <;> simp [lookup_modifyAt_self, hl]
    · simp [lookup_modifyAt_ne _ _ h, h]

/-- A held coil names its holder. -/
theorem holder_of_holdCoils {s : State} {q n : Nat} {es : List RoundEntry} {e : RoundEntry} (he : e ∈ es) {x : Coil}
    (hx : lookup (s.holdCoils q n es).coils e.coil = some x) : x.holder = some (q, n) := by
  rw [lookup_holdCoils, if_pos (List.mem_map_of_mem he)] at hx
  obtain ⟨y, _, rfl⟩ := Option.map_eq_some_iff.1 hx
  rfl

/-! ## What the dispatch leaves -/

/-- The skipped entries counted at the region whose firmware dispatches the command (R242; log 140). -/
def State.skipsCounted (s : State) (cls skipped : Nat) : State :=
  s.updCnt (s.firmwareOf cls) (fun r => { r with coilSkip := r.coilSkip + BitVec.ofNat 64 skipped })

/-- What a dispatch writes of a ROUND's command. -/
def Cmd.roundDispatched (cm : Cmd) (desc : List Byte) (ready : List RoundEntry) : Cmd :=
  { cm with phase := .dispatched, rounds := ready, desc := desc }

/-- The state that a ROUND's dispatch leaves, of all its entries and of those that are next on their coils (R227, R229). -/
def State.dispatchedRound (s : State) (q n cls : Nat) (desc : List Byte) (es ready : List RoundEntry) : State :=
  ((s.skipsCounted cls (es.length - ready.length)).holdCoils q n ready).updCmd q n (fun x => x.roundDispatched desc ready)

section
variable (s : State) (q n cls : Nat) (desc : List Byte) (es ready : List RoundEntry)

theorem dispatchedRound_frame : s.dispatchedRound q n cls desc es ready = { s with
    cmds := (s.dispatchedRound q n cls desc es ready).cmds
    coils := ((s.skipsCounted cls (es.length - ready.length)).holdCoils q n ready).coils
    regions := (s.skipsCounted cls (es.length - ready.length)).regions } := by
  rw [State.dispatchedRound, holdCoils_frame]
  rfl

theorem dispatchedRound_cmd? : (s.dispatchedRound q n cls desc es ready).cmd? q n = (s.cmd? q n).map (fun x => x.roundDispatched desc ready) := by
  rw [State.dispatchedRound, cmd?_updCmd_self, holdCoils_frame]
  · rfl
  · exact fun _ => ⟨rfl, rfl⟩

theorem skipsCounted_self (skipped : Nat) : ((s.skipsCounted cls skipped).regions[s.firmwareOf cls]).cnt.coilSkip
    = s.regions[s.firmwareOf cls].cnt.coilSkip + BitVec.ofNat 64 skipped := by
  simp [State.skipsCounted, State.updCnt]

theorem skipsCounted_other (skipped : Nat) {g : RegionId} (h : g ≠ s.firmwareOf cls) :
    (s.skipsCounted cls skipped).regions[g] = s.regions[g] := updRegion_other s h _

end

/-- The region whose firmware dispatches has a role that the class may use, where there is one. -/
theorem roleAllows_firmwareOf {s : State} {cls : Nat} {g : RegionId} (h : roleAllows s.regions[g].roleNow cls = true) :
    roleAllows s.regions[s.firmwareOf cls].roleNow cls = true := by
  rw [← mem_roleRegions] at h ⊢
  unfold State.firmwareOf
  dsimp only
  cases hf : (s.roleRegions cls).find? (fun g => s.regionState g == .inService) with
  | some g' => exact List.mem_of_find?_eq_some hf
  | none =>
    cases hl : s.roleRegions cls with
    | nil => rw [hl] at h; exact nomatch h
    | cons g' l => exact List.mem_cons_self

/-! ## The row, by its outcomes -/

/-- The row of each operation, and its code (R226). -/
def roundRows (q n : Nat) : List (Instr × Nat) :=
  [(.roundRun q n, 0), (.roundPark q n, 1), (.roundUnpark q n, 2), (.roundConfig q n, 3), (.roundClose q n, 4)]

theorem exec_round {i : Instr} {q n op : Nat} (hi : (i, op) ∈ roundRows q n) (s : State) : exec i s = .next (s.roundRow q n op) := by
  simp only [roundRows, List.mem_cons, Prod.mk.injEq, List.not_mem_nil, or_false] at hi
  obtain ⟨rfl, rfl⟩ | ⟨rfl, rfl⟩ | ⟨rfl, rfl⟩ | ⟨rfl, rfl⟩ | ⟨rfl, rfl⟩ := hi
  all_goals rfl

section
variable {s : State} {q n : Nat} {cm : Cmd} {qu : Queue} {i : Instr} (hi : (i, cm.roundOp) ∈ roundRows q n) (hcmd : s.cmd? q n = some cm)
  (hq : lookup s.queues q = some qu) (hp : cm.phase = .granted) (ht : cm.type = tyRound)
include hi hcmd hq hp ht

theorem exec_round_of_granted : exec i s = .next (s.roundDispatch q n cm qu) := by
  simp [exec_round hi, State.roundRow, hcmd, hq, hp, ht]

theorem exec_round_failedCheck {e : AccErr} (h : (roundCheck qu.ctx cm).run s = .error e) : exec i s = .next (s.cmdErr q n e) := by
  simp only [exec_round_of_granted hi hcmd hq hp ht, State.roundDispatch, h]

variable {db : List Byte} {es : List RoundEntry} {s1 : State} (h : (roundCheck qu.ctx cm).run s = .ok ((db, es), s1))
include h

theorem exec_round_noRegion (hr : s1.roleRegions qu.role = []) : exec i s = .next (s1.endCmd q n stLimit false) := by
  simp only [exec_round_of_granted hi hcmd hq hp ht, State.roundDispatch, h, hr, List.isEmpty_nil, if_true]

theorem exec_round_dispatches {g : RegionId} (hg : g ∈ s1.roleRegions qu.role) (hf : s1.regionState g ≠ .fenced) : exec i s
    = .next ((s1.dispatchedRound q n qu.role db es (es.filter (s1.entryReady cm.roundOp))).continueRound q n) := by
  have hne : (s1.roleRegions qu.role).isEmpty = false := by simpa using List.ne_nil_of_mem hg
  have hall : (s1.roleRegions qu.role).all (fun g => s1.regionState g == .fenced) = false :=
    List.all_eq_false.2 ⟨g, hg, by simpa using hf⟩
  simp only [exec_round_of_granted hi hcmd hq hp ht, State.roundDispatch, h, hne, hall, Bool.false_eq_true, if_false]
  rfl

end

/-- Settles O33: the row's outcomes in their order, and what the dispatch leaves. -/
theorem roundsTakeTheNextEntries : Obligations.RoundsTakeTheNextEntries := by
  unfold Obligations.RoundsTakeTheNextEntries
  intro s q n cm qu i hi hcmd hq hp ht
  refine ⟨fun st nt h => exec_round_failedCheck hi hcmd hq hp ht h, fun db es s1 h => ⟨fun hno => ?none, fun ⟨g, hg, hf⟩ => ?dispatch⟩⟩
  case none =>
    refine exec_round_noRegion hi hcmd hq hp ht h (List.eq_nil_iff_forall_not_mem.2 fun g hg => ?_)
    rw [mem_roleRegions, hno g] at hg
    exact nomatch hg
  case dispatch =>
    have hc := dispatchedRound_cmd? s1 q n qu.role db es (es.filter (s1.entryReady cm.roundOp))
    rw [((tiersAct_roundCheck ..).only _ _ _ h).cmd?, hcmd] at hc
    refine ⟨_, _, exec_round_dispatches hi hcmd hq hp ht h (mem_roleRegions.2 hg) hf, hc, rfl, rfl, ?_, ?_, ?_⟩
    · rw [dispatchedRound_frame]
      exact ⟨roleAllows_firmwareOf hg, skipsCounted_self .., fun g' hg' => skipsCounted_other _ _ _ hg'⟩
    · intro e he x hx
      rw [dispatchedRound_frame] at hx
      exact holder_of_holdCoils he hx
    · rw [dispatchedRound_frame]

end Sys2Proof.Machine
end

section
/-! PROOF. What a reader of stacked memory finds at a coil's entry (12, R219; 16, R299; log 67): the entry as it stands, so that a change of the
entry changes what stacked memory reads as. Two statements here fail by that: they hold every byte of stacked memory fixed while an entry
changes. -/

namespace Sys2Proof.Machine

/-! ## A block of the coil table as it is read -/

/-- The device's tables where they lie after reset (16, R299; 01, R7; 12, R219). -/
def State.tablesAtReset (s : State) : Prop :=
  s.tblQueue = State.reset.tblQueue ∧ s.tblSeq = State.reset.tblSeq ∧ s.tblCoil = State.reset.tblCoil

theorem coilBytes_length (x : Coil) (i park now : Nat) : (x.bytes i park now).length = 32 := by simp [Coil.bytes]

/-- A table's block without bad bits delivers the entry's bytes. -/
theorem bytes_stackedCheck_of_table {s : State} {b : Nat} {bs : List Byte} (ht : s.tableBlock b = some (false, bs)) (hl : bs.length = 32)
    (hb : lookup s.stacked.bad b = none) : (s.stackedCheck b).bytes = some bs := by
  have hlt : leNat bs < 2 ^ 256 := lt_of_lt_of_eq (leNat_lt bs) (by rw [hl]; norm_num)
  have hbs : leBytes 32 (leNat bs) = bs := hl ▸ leBytes_leNat bs
  simp only [State.stackedCheck, ht, hb, Checked.bytes, BitVec.toNat_ofNat, Nat.mod_eq_of_lt hlt, hbs]

theorem tableBlock_of_coil {s : State} (h : s.tablesAtReset) {i : Nat} (hi : i < 262144) {x : Coil} (hx : lookup s.coils i = some x) {b : Nat}
    (hb : 32 * b = s.tblCoil + 32 * i) : s.tableBlock b = some (x.bad, x.bytes i (s.tblPark + 2048 * i) s.freshCtr) := by
  obtain ⟨hqueue, hseq, hcoil⟩ := h
  have hnum : State.reset.tblQueue = 0x4C0000000 ∧ State.reset.tblSeq = 0x4C4000000 ∧ State.reset.tblCoil = 0x4C8000000 := ⟨rfl, rfl, rfl⟩
  have hq : ¬ (s.tblQueue ≤ 32 * b ∧ 32 * b < s.tblQueue + 64 * 2 ^ 20) := by omega
  have hs : ¬ (s.tblSeq ≤ 32 * b ∧ 32 * b < s.tblSeq + 64 * 65536) := by omega
  have hc : s.tblCoil ≤ 32 * b ∧ 32 * b < s.tblCoil + 32 * 262144 := by omega
  have hj : (32 * b - s.tblCoil) / 32 = i := by omega
  simp only [State.tableBlock, Bool.and_eq_true, decide_eq_true_eq, if_neg hq, if_neg hs, if_pos hc, hj, hx]

/-- A byte of a coil's entry, read at the entry's place in the table. -/
theorem readStacked_of_coil {s : State} (h : s.tablesAtReset) (hbad : s.stacked.bad = []) {i : Nat} (hi : i < 262144) {x : Coil}
    (hx : lookup s.coils i = some x) (hgood : x.bad = false) {j : Nat} (hj : j < 32) : s.readStacked (s.tblCoil + 32 * i + j) 1
      = some (((x.bytes i (s.tblPark + 2048 * i) s.freshCtr).drop j).take 1) := by
  have hcoil : s.tblCoil = 0x4C8000000 := by
    obtain ⟨_, _, hcoil⟩ := h
    exact hcoil
  have hblock : 32 * ((s.tblCoil + 32 * i + j) / 32) = s.tblCoil + 32 * i := by omega
  have hpos : (s.tblCoil + 32 * i + j) % 32 = j := by omega
  have hread := bytes_stackedCheck_of_table ((tableBlock_of_coil h hi hx hblock).trans (by rw [hgood])) (coilBytes_length ..)
    (by rw [hbad]; rfl)
  simp [State.readStacked, blocksOf, hread, hpos]

/-- Where stacked memory reads as it did, a coil's entry has the bytes that it had. -/
theorem coilBytes_of_sameStacked {s t : State} (hst : sameStacked s t) (h : s.tablesAtReset) (hbad : s.stacked.bad = [])
    (ht : t = { s with coils := t.coils, cores := t.cores }) {i : Nat} (hi : i < 262144) {x y : Coil} (hx : lookup s.coils i = some x)
    (hy : lookup t.coils i = some y) (hgx : x.bad = false) (hgy : y.bad = false) {j : Nat} (hj : j < 32) :
    ((y.bytes i (s.tblPark + 2048 * i) s.freshCtr).drop j).take 1 = ((x.bytes i (s.tblPark + 2048 * i) s.freshCtr).drop j).take 1 := by
  have hread := hst (s.tblCoil + 32 * i + j)
  have hplaces : t.tablesAtReset ∧ t.stacked.bad = [] ∧ t.tblCoil = s.tblCoil ∧ t.tblPark = s.tblPark ∧ t.freshCtr = s.freshCtr := by
    rw [ht]; exact ⟨h, hbad, rfl, rfl, rfl⟩
  obtain ⟨ht', hbad', hcoil, hpark, hfresh⟩ := hplaces
  rw [readStacked_of_coil h hbad hi hx hgx hj, ← hcoil, readStacked_of_coil ht' hbad' hi hy hgy hj, hpark, hfresh] at hread
  exact Option.some.inj hread

/-! ## Counterexamples -/

/-- After reset, but coil 0 is open. -/
def openedCoil (x : Coil) : State := { State.reset with coils := [(0, x)] }

theorem openedCoil_tablesAtReset (x : Coil) : (openedCoil x).tablesAtReset := ⟨rfl, rfl, rfl⟩

/-- A coil on its way out of core 0's units. -/
def parkingCoil : Coil := { rootCoil 0 with status := .parking }

/-- Refutes O36: the end of a park makes the entry's STATUS PARKED, where a reader of the coil table finds it. -/
theorem not_coilsMove : ¬ Obligations.CoilsMove := by
  unfold Obligations.CoilsMove
  rintro ⟨_, hpark, _⟩
  obtain ⟨t, _, _, hentry, _, ⟨_, _, _, hstacked, _⟩, hframe⟩ := hpark (openedCoil parkingCoil) 0 parkingCoil rfl rfl rfl rfl
  have hbytes := coilBytes_of_sameStacked hstacked (openedCoil_tablesAtReset _) rfl hframe (by decide) rfl hentry rfl rfl (j := 2) (by decide)
  exact absurd hbytes (by decide)

/-- Round 1 of coil 0, in a list of that entry. -/
def firstRound : RoundEntry := { coil := 0, place := 0, seq := 1, resetAt := 0 }

/-- A dispatched ROUND of queue 1 with that entry, of an operation, with a descriptor. -/
def roundOfOne (op : Byte) (desc : List Byte) : Cmd :=
  { twoPlacedCmd with bytes := zeros 2 ++ [6] ++ zeros 29 ++ [op], insts := [], rounds := [firstRound], desc := desc }

theorem commitRound_park : (commitRound 0 (roundOfOne 1 [])).run (openedCoil (rootCoil 0))
    = .ok ((), (openedCoil (rootCoil 0)).updCoil 0 (fun x => { x with roundSeq := 1 })) := rfl

/-- Refutes O35: PARK's commit moves the entry's ROUND_SEQ on, where a reader of the coil table finds it. -/
theorem not_roundCommitMovesTheSequence : ¬ Obligations.RoundCommitMovesTheSequence := by
  unfold Obligations.RoundCommitMovesTheSequence
  intro h
  obtain ⟨hentries, _⟩ := h _ _ _ _ firstRound rfl rfl rfl commitRound_park
  obtain ⟨hseq, _⟩ := hentries (rootCoil 0) rfl
  obtain ⟨hentry, _, _, _, hstacked, _⟩ := hseq (.inl (by decide))
  have hbytes := coilBytes_of_sameStacked hstacked (openedCoil_tablesAtReset _) rfl rfl (by decide) rfl hentry rfl rfl (j := 8) (by decide)
  exact absurd hbytes (by decide)

end Sys2Proof.Machine
end

section
/-! PROOF. A round kernel that ends while its slot's MMA executes (03, R50; 06, R126; 12, R233, R234; log 124): what the MMA had counted is a free
value, so that the place in the sequence of free values moves on, which the frame of a RUN's end holds fixed. -/

namespace Sys2Proof.Machine

/-! ## What a round's arithmetic touches (R223, R233, R234) -/

theorem tiersAct_parkVector (coil k off : Nat) : TiersAct (parkVector coil k off) :=
  .bind .get fun _ => .bind (.mapM (fun _ => .bind (tiersAct_getStacked ..) fun _ => .pure _) _) fun _ => .pure _

theorem tiersAct_coilState (x : Coil) (coil : Nat) : TiersAct (coilState x coil) := by
  have hlow (off : Nat) : TiersAct
      (if x.pair then (parkVector coil (2 ^ x.widthLog2) off).map some else pure none : Act (Option (List Nat))) :=
    .ite (.bind (tiersAct_parkVector ..) fun _ => .pure _) (.pure _)
  exact .ite (.pure _) <| .bind (tiersAct_parkVector ..) fun _ => .ite (.bind (hlow _) fun _ => .pure _) <|
    .bind (tiersAct_parkVector ..) fun _ => .bind (hlow _) fun _ => .pure _

theorem tiersAct_getMatrix (ctx base rows cols fmt : Nat) : TiersAct (getMatrix ctx base rows cols fmt) :=
  .mapM (fun _ => .bind (tiersAct_getVirt ..) fun _ => .pure _) _

theorem tiersAct_runEntry (ctx count : Nat) (d : RoundDesc) (wx wh : List (List Num)) (e : RoundEntry) :
    TiersAct (runEntry ctx count d wx wh e) := by
  refine .bind .get fun s => ?_
  split
  · exact .fail _
  · exact .bind (tiersAct_coilState ..) fun _ => .bind (.mapM (fun _ => .bind (tiersAct_getVirt ..) fun _ => .pure _) _) fun _ => .pure _

theorem TiersOnly.cores {s t : State} (h : TiersOnly s t) : t.cores = s.cores := by rw [h]

theorem tiersAct_runAll (ctx count : Nat) (d : RoundDesc) (es : List RoundEntry) : TiersAct (runAll ctx count d es) :=
  .bind (tiersAct_getMatrix ..) fun _ => .bind (tiersAct_getMatrix ..) fun _ =>
    .bind (.forIn fun _ _ => .bind (tiersAct_runEntry ..) fun _ => .bind (.forIn fun _ _ => .pure _) fun _ => .pure _) fun _ => .pure _

/-! ## The end of a round kernel -/

theorem freshCtr_le_clearSlot (s : State) (c : CoreId) (k : KsId) : s.freshCtr ≤ (s.clearSlot c k).freshCtr := by
  show s.freshCtr ≤ ((s.dropRequests _).countPart c _).freshCtr
  unfold State.countPart
  repeat' split
  · exact Nat.le_succ _
  · exact Nat.le_refl _
  · exact Nat.le_refl _

theorem freshCtr_le_foldl {β : Type} {f : State → β → State} (hf : ∀ s b, s.freshCtr ≤ (f s b).freshCtr) (l : List β) (s : State) :
    s.freshCtr ≤ (l.foldl f s).freshCtr :=
  foldl_within (R := fun s t => s.freshCtr ≤ t.freshCtr) (fun _ => Nat.le_refl _) Nat.le_trans hf l s

/-- A round kernel in core 0's slot 0 whose MMA executes is ended with that MMA's counts. -/
theorem freshCtr_lt_endRounds {s : State} {q n i : Nat} {p : Nat → Bool} (hcmd : (s.slot 0 0).cmd = some (q, n))
    (hround : (s.slot 0 0).round = some i) (hp : p i = true) {x : InFlight} {rest : List InFlight}
    (hq : s.cores[(0 : CoreId)].anvQ = x :: rest) (hk : x.ks = 0) : s.freshCtr < (s.endRounds q n p).freshCtr := by
  have hstep (c : CoreId) (s : State) (k : KsId) : s.freshCtr
      ≤ (if (s.slot c k).cmd == some (q, n) && (s.slot c k).round.any p then s.clearSlot c k else s).freshCtr := by
    split
    · exact freshCtr_le_clearSlot s c k
    · exact Nat.le_refl _
  have hfirst : (s.clearSlot 0 0).freshCtr = s.freshCtr + 1 := discardQueues_freshCtr hq hk
  rw [State.endRounds, List.finRange_succ (n := 95), List.foldl_cons]
  refine lt_of_lt_of_le ?_ (freshCtr_le_foldl (fun s c => freshCtr_le_foldl (hstep c) _ s) _ _)
  rw [List.finRange_succ (n := 3), List.foldl_cons]
  refine lt_of_lt_of_le ?_ (freshCtr_le_foldl (hstep 0) _ _)
  simp only [hcmd, hround, Option.any_some, hp, BEq.rfl, Bool.and_self, if_true, hfirst]
  exact Nat.lt_succ_self _

/-! ## A RUN of one group -/

section
variable {s : State} {q n : Nat} {cm : Cmd} {qu : Queue} {e : RoundEntry} {g : List RoundEntry} {x : Coil}

theorem roundRow_of_run (hcmd : s.cmd? q n = some cm) (hq : lookup s.queues q = some qu) (hp : cm.phase = .dispatched)
    (ht : cm.type = tyRound) (hheld : cm.held = false) (hop : cm.roundOp = 0) :
    s.roundRow q n 0 = s.continueRun q n cm qu (roundDescOf cm.desc) := by
  simp [State.roundRow, State.continueRound, hcmd, hq, hp, ht, hheld, hop, opUnpark, opRun]

/-- A RUN of one group takes that group on, then looks at its command. -/
theorem continueRun_of_one {d : RoundDesc} (hg : groupsOf d.pair cm.rounds = [g]) :
    ∃ f, s.continueRun q n cm qu d = (s.runGroup q n cm qu d g).updCmd q n f := by
  simp only [State.continueRun, hg, List.foldl_cons, List.foldl_nil]
  exact ⟨_, rfl⟩

variable (hx : lookup s.coils e.coil = some x) (hd : e.coil ∉ cm.roundDone) (hr : s.roundRuns q n e.coil x = true)
include hx hd hr

/-- A group whose round kernel runs: that kernel's end, and the command's new contents. -/
theorem runGroup_of_running {d : RoundDesc} {o : GroupOut} {s1 : State}
    (h : (runAll qu.ctx (fld (cm.at 0x24 4) 12 0) d (e :: g)).run s = .ok (o, s1)) :
    ∃ f, s.runGroup q n cm qu d (e :: g) = (s1.endRounds q n (· == e.coil)).updCmd q n f := by
  have hopen : cm.roundDone.contains e.coil = false := by simpa using hd
  simp only [State.runGroup, List.head?_cons, hx, hopen, hr, State.finishRound, h, Bool.false_eq_true, if_false, if_true]
  exact ⟨_, rfl⟩

theorem exec_roundRun_of_running (hcmd : s.cmd? q n = some cm) (hq : lookup s.queues q = some qu) (hp : cm.phase = .dispatched)
    (ht : cm.type = tyRound) (hheld : cm.held = false) (hop : cm.roundOp = 0)
    (hg : groupsOf (roundDescOf cm.desc).pair cm.rounds = [e :: g]) {o : GroupOut} {s1 : State}
    (h : (runAll qu.ctx (fld (cm.at 0x24 4) 12 0) (roundDescOf cm.desc) (e :: g)).run s = .ok (o, s1)) :
    ∃ f f', exec (.roundRun q n) s = .next (((s1.endRounds q n (· == e.coil)).updCmd q n f).updCmd q n f') := by
  obtain ⟨f, hf⟩ := runGroup_of_running hx hd hr h
  obtain ⟨f', hf'⟩ := continueRun_of_one (s := s) (q := q) (n := n) (qu := qu) hg
  refine ⟨f, f', ?_⟩
  rw [exec_round (q := q) (n := n) (op := 0) (by simp [roundRows]), roundRow_of_run hcmd hq hp ht hheld hop, hf', hf]

end

/-! ## The counterexample -/

/-- A descriptor of LEN 0 and no inputs, whose WH lies in FP4: its round reads no memory. -/
def emptyDesc : List Byte := [0, 0, 0, 0, 0, 0, 0x30, 0]

/-- After reset, but the round kernel of coil 0's RUN is in core 0's slot 0, and that slot's MMA executes on the anvil group. -/
def executingRound : State :=
  { (executingState 0 0).updSlot 0 0 (fun sl => { sl with cmd := some (1, 1), round := some 0 }) with
    queues := [(1, tableQueue)]
    cmds := [roundOfOne 0 emptyDesc]
    coils := [(0, rootCoil 0)] }

theorem executingRound_anvQ : executingRound.cores[(0 : CoreId)].anvQ = [executingEntry] := by
  simp [executingRound, executingState, State.updSlot]

theorem runAll_executingRound : ∃ o s1, (runAll 0 (fld ((roundOfOne 0 emptyDesc).at 0x24 4) 12 0) (roundDescOf emptyDesc) [firstRound]).run
    executingRound = .ok (o, s1) := by
  have h : (runAll 0 (fld ((roundOfOne 0 emptyDesc).at 0x24 4) 12 0) (roundDescOf emptyDesc) [firstRound]).answers executingRound
      (fun _ _ => true) = true := by decide +kernel
  obtain ⟨o, s1, hrun, _⟩ := Act.of_answers h
  exact ⟨o, s1, hrun⟩

/-- Refutes O34: the end of the round kernel frees a slot that has an entry at the head of the anvil queue, and `freshCtr` moves on. -/
theorem not_roundsBecomeReady : ¬ Obligations.RoundsBecomeReady := by
  unfold Obligations.RoundsBecomeReady
  intro h
  have hcmd : executingRound.cmd? 1 1 = some (roundOfOne 0 emptyDesc) := rfl
  have hq : lookup executingRound.queues 1 = some tableQueue := rfl
  have hx : lookup executingRound.coils firstRound.coil = some (rootCoil 0) := rfl
  have ht : (roundOfOne 0 emptyDesc).type = tyRound := by decide
  have hop : (roundOfOne 0 emptyDesc).roundOp = 0 := by decide
  have hgroups : groupsOf (roundDescOf emptyDesc).pair [firstRound] = [[firstRound]] := by decide
  have hopen : firstRound.coil ∉ (roundOfOne 0 emptyDesc).roundDone := by decide
  have hruns : executingRound.roundRuns 1 1 firstRound.coil (rootCoil 0) = true := by decide +kernel
  obtain ⟨o, s1, hact⟩ := runAll_executingRound
  obtain ⟨_, hgroup⟩ := (h executingRound 1 1 _ tableQueue hcmd hq rfl ht rfl).1 hop
  obtain ⟨t, he, _, _, hframe⟩ := (hgroup firstRound [] (rootCoil 0) hgroups hx hopen).1 o s1 hruns hact
  obtain ⟨f, f', hexec⟩ := exec_roundRun_of_running hx hopen hruns hcmd hq rfl ht rfl hop hgroups hact
  have hends : t = ((s1.endRounds 1 1 (· == firstRound.coil)).updCmd 1 1 f).updCmd 1 1 f' :=
    Host.Outcome.next.inj (he.symm.trans hexec)
  have hmoved : t.freshCtr = (s1.endRounds 1 1 (· == firstRound.coil)).freshCtr := by
    rw [hends, State.updCmd_freshCtr, State.updCmd_freshCtr]
  have hkept : t.freshCtr = s1.freshCtr := by rw [hframe]
  have hcores : s1.cores = executingRound.cores := ((tiersAct_runAll ..).only _ _ _ hact).cores
  have hslot : s1.slot 0 0 = executingRound.slot 0 0 := by rw [State.slot, hcores]; rfl
  have hqueue : s1.cores[(0 : CoreId)].anvQ = [executingEntry] := by rw [hcores]; exact executingRound_anvQ
  have hlt : s1.freshCtr < (s1.endRounds 1 1 (· == firstRound.coil)).freshCtr :=
    freshCtr_lt_endRounds (i := 0) (by rw [hslot]; rfl) (by rw [hslot]; rfl) rfl hqueue rfl
  exact absurd (hkept.symm.trans hmoved) (Nat.ne_of_lt hlt)

end Sys2Proof.Machine
end

section
/-! PROOF. The sample queues' registers, and what a step leaves that reads and then changes one queue (14, R256, R264, R269). -/

namespace Sys2Proof.Machine

/-! ## One queue changed -/

theorem updSmp_self (s : State) (q : SampleQ) (f : SmpQueue → SmpQueue) : (s.updSmp q f).smp[q] = f s.smp[q] := by simp [State.updSmp]

theorem updSmp_twice (s : State) (q : SampleQ) (f g : SmpQueue → SmpQueue) :
    (s.updSmp q f).updSmp q g = s.updSmp q (fun x => g (f x)) := by simp [State.updSmp]

/-- A queue changed to what it is. -/
theorem updSmp_of_kept {s : State} {q : SampleQ} {f : SmpQueue → SmpQueue} (h : f s.smp[q] = s.smp[q]) : s.updSmp q f = s := by
  simp only [State.updSmp, h]
  simp

/-- A queue changed after reads, of which the checkers made notes. -/
structure SmpNoted (q : SampleQ) (y : SmpQueue) (s t : State) : Prop where
  smp : t.smp = s.smp.set q y
  memory : sameMemory s t
  frame : t = { s with smp := t.smp, regions := t.regions, log := t.log, hif := t.hif, stacked := t.stacked }

theorem SmpNoted.of_notes {s u : State} (hn : NotesOnly s u) (hb : SameBytes s u) (q : SampleQ) {f : SmpQueue → SmpQueue} {y : SmpQueue}
    (hf : f s.smp[q] = y) : SmpNoted q y s (u.updSmp q f) := by
  have hu := hn.1
  have hsmp : u.smp = s.smp := by rw [hu]
  have hbytes : SameBytes s (u.updSmp q f) := hb.trans fun _ => rfl
  refine ⟨?_, ⟨?_, ?_, ?_, hbytes.sameStacked, ?_⟩, ?_⟩
  · simp only [State.updSmp, hsmp, hf]
  all_goals rw [hu]; rfl

theorem noteVirt_sameBytes (s : State) (ctx va len : Nat) : SameBytes s (s.noteVirt none ctx va len) := by
  unfold State.noteVirt
  split
  · exact .refl s
  · exact .foldl (fun s (l : Loc × Nat) => noteRead_sameBytes s l.1 l.2) _ s

/-! ## START (R255, R256) -/

/-- What a descriptor's bytes make of a queue that starts (R255, R256). -/
def State.startedBy (s : State) (bs : List Byte) : SmpQueue → SmpQueue :=
  if smpDescClean bs then if s.smpDescOk (smpDescOf bs) then (·.run (smpDescOf bs)) else (·.fail 0x21) else (·.fail 0x20)

section
variable {s : State} {q : SampleQ}

/-- A START that reads its descriptor: the notes of the read, and the queue as the descriptor makes it. -/
theorem smpStart_noted (bs : List Byte) : SmpNoted q (s.startedBy bs s.smp[q]) s
    ((s.noteRead (.stacked s.smp[q].descAddr) 128).updSmp q (s.startedBy bs)) :=
  .of_notes (noteRead_notes ..) (noteRead_sameBytes _ _ _) q rfl

theorem exec_sampleQueueStart (hp : s.pwr.current ≠ 3) (hr : s.isReady = true) : exec (.sampleQueueStart q) s = .next (s.smpStart q) := by
  refine congrArg Host.Outcome.next ?_
  simp only [awake_of_not_ash hp, hr, if_true]

theorem smpStart_of_other (h0 : s.smp[q].state ≠ 0) (h3 : s.smp[q].state ≠ 3) : s.smpStart q = s := by
  simp only [State.smpStart, smpIdle, smpError, bne_iff_ne.2 h0, bne_iff_ne.2 h3, Bool.and_self, if_true]

/-- A read of stacked memory that fails with a status notes the range that it read. -/
theorem readLoc_stacked_status {a len st : Nat} {note : ErrNote} (h : s.readLoc (.stacked a) len = .error (.status st note)) :
    note = .read (.stacked a) len := by
  have hl : s.locErr (.stacked a) ≠ some (.status st note) := by
    simp only [State.locErr, Loc.home]
    split <;> simp
  unfold State.readLoc at h
  split at h
  · rename_i e he
    exact absurd (he.trans (congrArg some (Except.error.inj h))) hl
  · dsimp only at h
    split at h
    · exact nomatch h
    · cases h; rfl

variable (h : s.smp[q].state = 0 ∨ s.smp[q].state = 3)
include h

theorem startable_of_idle_or_error : (s.smp[q].state != smpIdle && s.smp[q].state != smpError) = false := by
  rcases h with h | h <;> rw [h] <;> rfl

theorem smpStart_of_noAddress (ha : s.stackedOk s.smp[q].descAddr = false ∨ s.stackedOk (s.smp[q].descAddr + 127) = false) :
    s.smpStart q = s.updSmp q (·.fail 0x21) := by
  have hno : (s.stackedOk s.smp[q].descAddr && s.stackedOk (s.smp[q].descAddr + 127)) = false := Bool.and_eq_false_iff.2 ha
  simp only [State.smpStart, startable_of_idle_or_error h, hno, Bool.false_eq_true, if_false, Bool.not_false, if_true, stMalformed]

variable (h0 : s.stackedOk s.smp[q].descAddr = true) (h1 : s.stackedOk (s.smp[q].descAddr + 127) = true)
include h0 h1

theorem smpStart_of_unreadable {st : Nat} {note : ErrNote} (hb : s.readLoc (.stacked s.smp[q].descAddr) 128 = .error (.status st note)) :
    s.smpStart q = (s.noteRead (.stacked s.smp[q].descAddr) 128).updSmp q (·.fail 0x10) := by
  have hnote : s.noteErr note = s.noteRead (.stacked s.smp[q].descAddr) 128 := by rw [readLoc_stacked_status hb]; rfl
  simp only [State.smpStart, startable_of_idle_or_error h, h0, h1, hb, hnote, Bool.and_self, Bool.not_true, Bool.false_eq_true, if_false, stData]

theorem smpStart_of_read {bs : List Byte} (hb : s.readLoc (.stacked s.smp[q].descAddr) 128 = .ok bs) :
    s.smpStart q = (s.noteRead (.stacked s.smp[q].descAddr) 128).updSmp q (s.startedBy bs) := by
  have hok (d : SmpDesc) : (s.noteRead (.stacked s.smp[q].descAddr) 128).smpDescOk d = s.smpDescOk d := by
    rw [(noteRead_notes ..).1]; rfl
  simp only [State.smpStart, startable_of_idle_or_error h, h0, h1, hb, hok, Bool.and_self, Bool.not_true, Bool.false_eq_true, if_false]
  cases hc : smpDescClean bs with
  | false => simp [State.startedBy, hc, stVersion]
  | true => cases hd : s.smpDescOk (smpDescOf bs) <;> simp [State.startedBy, hc, hd, stMalformed]

end

/-! ## The other registers (R263, R269) -/

section
variable {s : State} (q : SampleQ) (hp : s.pwr.current ≠ 3)
include hp

theorem exec_sampleQueueStop_other (h : s.smp[q].state ≠ 1) : exec (.sampleQueueStop q) s = .next s := by
  refine congrArg Host.Outcome.next ?_
  simp only [awake_of_not_ash hp, smpRunning, beq_eq_false_iff_ne.2 h, Bool.and_false, Bool.false_eq_true, if_false]

variable (hr : s.isReady = true)
include hr

theorem exec_sampleTailWrite (tail : W32) : exec (.sampleTailWrite q tail) s = .next (s.updSmp q (fun x => { x with tail := tail })) := by
  refine congrArg Host.Outcome.next ?_
  simp only [awake_of_not_ash hp, hr, if_true]

theorem exec_sampleCountersClear : exec (.sampleCountersClear q) s
    = .next (s.updSmp q (fun x => { x with fails := Vector.replicate 8 0, out := 0, drop := 0, sat := 0 })) := by
  refine congrArg Host.Outcome.next ?_
  simp only [awake_of_not_ash hp, hr, if_true]

theorem exec_sampleQueueStop_running (h : s.smp[q].state = 1) :
    exec (.sampleQueueStop q) s = .next (s.updSmp q (fun x => x.halt 0 x.error)) := by
  refine congrArg Host.Outcome.next ?_
  simp only [awake_of_not_ash hp, hr, h, smpRunning, BEq.rfl, Bool.and_self, if_true, smpIdle]

end

theorem halt_eq (x : SmpQueue) (st err : Nat) :
    x.halt st err = { x with state := st, error := err, pos := if x.row = [] then x.pos else x.rowFirst, row := [], work := [] } := by
  simp only [SmpQueue.halt, List.isEmpty_iff]


end Sys2Proof.Machine
end

section
/-! PROOF. The grant of a decode lane (14, R253, R257, R260, R262, R263, R268; log 86). -/

namespace Sys2Proof.Machine

/-! ## A try begun -/

section
variable {s : State} {q : SampleQ} {d : SmpDesc} {pos : Nat} {w : SmpWork} (n : Nat)
  (hw : s.smp[q].work.find? (fun y => y.pos == pos) = some w)
include hw

/-- A position that is to stop the queue begins no try. -/
theorem beginTry_of_stop (hs : w.stop.isSome = true) : State.beginTry q d pos (n + 1) s = s := by
  simp only [State.beginTry, hw, hs, Bool.or_true, Bool.true_or, if_true]

/-- A try that needs a lane, and one is free for it. -/
theorem beginTry_of_lane (hl : w.lane = none) (hd : w.done = none) (hs : w.stop = none) {bs : List Byte} {l : Nat} (he : s.smpEntry d w = .ok bs)
    (hf : s.entryFails d (smpEntryOf d.live bs) = .ok none) (hfree : s.freeLane (smpEntryOf d.live bs).codec = some l) :
    State.beginTry q d pos (n + 1) s = s.updSmp q (fun x => x.updWork pos (fun w => { w with
      lane := some l, entry := bs, stage := if w.stage.isSome then w.stage else x.freeStage d })) := by
  simp only [State.beginTry, hw, hl, hd, hs, he, hf, hfree, Option.isSome_none, Bool.or_self, Bool.false_eq_true, if_false]

end

/-! ## The row -/

section
variable {s : State} {q : SampleQ} {d : SmpDesc}

theorem exec_sampleDecodeStart_of_not (h : s.smpReady q = false ∨ s.smpTurnOf q = false) : exec (.sampleDecodeStart q) s = .next s := by
  have hno : (s.smpReady q && s.smpTurnOf q) = false := Bool.and_eq_false_iff.2 h
  show execSampleDecodeStart q s = _
  unfold execSampleDecodeStart
  split
  · simp only [hno, Bool.false_eq_true, if_false]
  · rfl

theorem exec_sampleDecodeStart_of_grant (hruns : s.smpRuns q = some d) (hready : s.smpReady q = true) (hturn : s.smpTurnOf q = true) :
    exec (.sampleDecodeStart q) s = .next (State.smpGrant { s with smpTurn := q.val } q d) := by
  show execSampleDecodeStart q s = _
  simp only [execSampleDecodeStart, hruns, hready, hturn, Bool.and_self, if_true]

end

/-! ## The next position enters decode -/

/-- What the queues bring together does not change with a queue that brings the same. -/
theorem flatMap_set_of_eq {α β : Type} {n : Nat} (v : Vector α n) (i : Fin n) {y : α} {f : α → List β} (h : f y = f v[i]) :
    (v.set i y).toList.flatMap f = v.toList.flatMap f := by
  have hset : (v.toList.map f).set i (f y) = v.toList.map f := by
    rw [h]
    refine List.ext_getElem (by simp) fun j h1 h2 => ?_
    by_cases e : i.val = j
    · subst e; simp
    · simp [e]
  rw [List.flatMap_def, List.flatMap_def, Vector.toList_set, List.map_set, hset]

theorem enter_of_limit {d : SmpDesc} {g : Nat} (h : 1048576 ≤ d.epochOf g) : d.enter g =
    { pos := g, try_ := 0, first := 0, lane := none, done := none, stop := some 0x22, entry := [], stage := none } := by
  simp only [SmpDesc.enter, h, if_true, stLimit]

theorem enter_of_open {d : SmpDesc} {g : Nat} (h : d.epochOf g < 1048576) : d.enter g =
    { pos := g, try_ := 0, first := 0, lane := none, done := none, stop := none, entry := [], stage := none } := by
  simp only [SmpDesc.enter, Nat.not_le.2 h, if_false]

/-- A change of the last position in decode leaves the others. -/
theorem updWork_append {x : SmpQueue} {w : SmpWork} {g : Nat} (hg : w.pos = g) (h : ∀ y ∈ x.work, y.pos ≠ g) (f : SmpWork → SmpWork) :
    SmpQueue.updWork { x with work := x.work ++ [w] } g f = { x with work := x.work ++ [f w] } := by
  have hkeep : x.work.map (fun y => if y.pos = g then f y else y) = x.work :=
    (List.map_congr_left fun y hy => if_neg (h y hy)).trans (List.map_id' _)
  simp only [SmpQueue.updWork, List.map_append, hkeep, List.map_cons, List.map_nil, hg, if_true]

/-- The next position entered into decode, the turn taken (R253, R260). -/
def State.intoDecode (s : State) (q : SampleQ) (d : SmpDesc) : State :=
  { s with smpTurn := q.val }.updSmp q (fun x => { x with work := x.work ++ [d.enter x.nextPos] })

section
variable {s : State} {q : SampleQ} {d : SmpDesc} {cons : Nat} (hruns : s.smpRuns q = some d) (hturn : s.smpTurnOf q = true)
  (hwork : ∀ y ∈ s.smp[q].work, (y.lane ≠ none ∨ y.done ≠ none ∨ y.stop ≠ none) ∧ y.pos ≠ s.smp[q].nextPos)
  (hcons : s.smpCons d = .ok cons) (henter : s.smp[q].mayEnter d cons = true)

section
include hwork

/-- No position in decode waits for a lane. -/
theorem work_find?_waiting : s.smp[q].work.find? (fun w => w.lane.isNone && w.done.isNone && w.stop.isNone) = none := by
  refine List.find?_eq_none.2 fun y hy => ?_
  rcases (hwork y hy).1 with h | h | h <;> simp [h]

theorem intoDecode_find? : (s.intoDecode q d).smp[q].work.find? (fun y => y.pos == s.smp[q].nextPos) = some (d.enter s.smp[q].nextPos) := by
  have hnone : s.smp[q].work.find? (fun y => y.pos == s.smp[q].nextPos) = none :=
    List.find?_eq_none.2 fun y hy => by simpa using (hwork y hy).2
  simp only [State.intoDecode, updSmp_self, List.find?_append, hnone, Option.none_or]
  exact List.find?_cons_of_pos (beq_self_eq_true _)

end

/-- The queue as the next position enters decode, changed again. -/
theorem intoDecode_updSmp (f : SmpQueue → SmpQueue) : (s.intoDecode q d).updSmp q f = { s with
    smpTurn := q.val, smp := s.smp.set q (f { s.smp[q] with work := s.smp[q].work ++ [d.enter s.smp[q].nextPos] }) } := by
  simp only [State.intoDecode, updSmp_twice]
  rfl

/-- The position that enters works on no lane yet. -/
theorem intoDecode_busyLanes : (s.intoDecode q d).busyLanes = s.busyLanes := by
  have hlanes : (s.smp[q].work ++ [d.enter s.smp[q].nextPos]).filterMap SmpWork.lane = s.smp[q].work.filterMap SmpWork.lane := by
    rw [List.filterMap_append]
    exact List.append_nil _
  exact flatMap_set_of_eq s.smp q hlanes

theorem intoDecode_freeLane (codec : Nat) : (s.intoDecode q d).freeLane codec = s.freeLane codec := by
  simp only [State.freeLane, intoDecode_busyLanes]
  rfl

/-- The position that enters takes no staging slot yet. -/
theorem freeStage_enter (x : SmpQueue) (g : Nat) : SmpQueue.freeStage { x with work := x.work ++ [d.enter g] } d = x.freeStage d := by
  have hany (i : Nat) : (x.work ++ [d.enter g]).any (fun w => w.stage == some i) = x.work.any (fun w => w.stage == some i) := by
    rw [List.any_append]
    exact Bool.or_false _
  simp only [SmpQueue.freeStage, hany]

section
include hwork hcons henter

theorem smpReady_of_next (hruns : s.smpRuns q = some d)
    (h : ((d.enter s.smp[q].nextPos).stop.isSome || s.tryReady d (d.enter s.smp[q].nextPos)) = true) : s.smpReady q = true := by
  simp only [State.smpReady, hruns, work_find?_waiting hwork, hcons, henter, h, Bool.and_self]

theorem smpGrant_of_next : State.smpGrant { s with smpTurn := q.val } q d = State.beginTry q d s.smp[q].nextPos 10 (s.intoDecode q d) := by
  have hcons' : State.smpCons { s with smpTurn := q.val } d = .ok cons := hcons
  simp only [State.smpGrant, work_find?_waiting hwork, hcons', henter, Bool.not_true, Bool.false_eq_true, if_false]
  rfl

end

include hruns hturn hwork hcons henter

theorem exec_sampleDecodeStart_limit (hl : 1048576 ≤ d.epochOf s.smp[q].nextPos) : exec (.sampleDecodeStart q) s = .next { s with
    smpTurn := q.val, smp := s.smp.set q { s.smp[q] with work := s.smp[q].work ++ [d.enter s.smp[q].nextPos] } } := by
  have hstop : (d.enter s.smp[q].nextPos).stop.isSome = true := by rw [enter_of_limit hl]; rfl
  have hready := smpReady_of_next hwork hcons henter hruns (by rw [hstop, Bool.true_or])
  rw [exec_sampleDecodeStart_of_grant hruns hready hturn, smpGrant_of_next hwork hcons henter,
    beginTry_of_stop 9 (intoDecode_find? hwork) hstop]
  rfl

theorem exec_sampleDecodeStart_lane (hl : d.epochOf s.smp[q].nextPos < 1048576) {bs : List Byte} {l : Nat}
    (he : s.smpEntry d (d.enter s.smp[q].nextPos) = .ok bs) (hf : s.entryFails d (smpEntryOf d.live bs) = .ok none)
    (hfree : s.freeLane (smpEntryOf d.live bs).codec = some l) : exec (.sampleDecodeStart q) s = .next { s with
      smpTurn := q.val
      smp := s.smp.set q { s.smp[q] with work := s.smp[q].work ++
        [{ d.enter s.smp[q].nextPos with lane := some l, entry := bs, stage := s.smp[q].freeStage d }] } } := by
  have htry : s.tryReady d (d.enter s.smp[q].nextPos) = true := by simp only [State.tryReady, he, hf, hfree, Option.isSome_some]
  have hready := smpReady_of_next hwork hcons henter hruns (by rw [htry, Bool.or_true])
  have hstop : (d.enter s.smp[q].nextPos).stop = none := by rw [enter_of_open hl]
  rw [exec_sampleDecodeStart_of_grant hruns hready hturn, smpGrant_of_next hwork hcons henter,
    beginTry_of_lane 9 (intoDecode_find? hwork) rfl rfl hstop he hf ((intoDecode_freeLane _).trans hfree), intoDecode_updSmp]
  simp only [freeStage_enter]
  rw [updWork_append (w := d.enter s.smp[q].nextPos) (g := s.smp[q].nextPos) rfl fun y hy => (hwork y hy).2]
  rfl

end

end Sys2Proof.Machine
end
section
/-! PROOF. The end of a decode (14, R253, R257 to R260, R264, R265, R268; log 34). -/

namespace Sys2Proof.Machine

/-! ## A try that failed (R264, R268) -/

/-- A try that failed with reason i + 1: counted there; the frame dropped, the next try, or the end of the queue. -/
theorem failTry_eq (x : SmpQueue) (d : SmpDesc) (pos capture : Nat) (i : Fin 8) : x.failTry d pos (i.val + 1) capture = { x with
    fails := x.fails.set i (x.fails[i] + 1)
    work := x.work.map (fun y => if y.pos ≠ pos then y
      else if d.live then { y with lane := none, done := some (droppedAt pos (i.val + 1) capture) }
      else if y.try_ < d.tries then
        { y with lane := none, entry := [], try_ := y.try_ + 1, first := if y.first = 0 then i.val + 1 else y.first }
      else { y with lane := none, first := if y.first = 0 then i.val + 1 else y.first, stop := some 0x12 }) } := by
  have hi : (i.val + 1 - 1) % 8 = i.val := Nat.mod_eq_of_lt i.isLt
  simp only [SmpQueue.failTry, SmpQueue.countFail, SmpQueue.updWork, hi, ite_not, stInput]
  rfl

/-! ## The stream's outcome -/

section
variable {s : State} {q : SampleQ} {d : SmpDesc} {w : SmpWork}

theorem exec_sampleDecodeEnd (out : DecodeOut) (hruns : s.smpRuns q = some d)
    (hw : s.smp[q].work.find? (fun y => y.pos == w.pos && y.lane.isSome) = some w) :
    exec (.sampleDecodeEnd q w.pos out) s = .next (s.smpEnd q d w out) := by
  show execSampleDecodeEnd q w.pos out s = _
  simp only [execSampleDecodeEnd, hruns, hw]

/-- Rice and DEFLATE streams come out as the source says, the others as the operand does. -/
theorem smpEnd_of_stream {out : DecodeOut} {o : StreamOut}
    (hown : (smpEntryOf d.live w.entry).codec ≤ 1 →
      (smpEntryOf d.live w.entry).decodeOwn (s.source d (smpEntryOf d.live w.entry)).1 = some o)
    (hother : 1 < (smpEntryOf d.live w.entry).codec → (smpEntryOf d.live w.entry).decodeOther d out = some o) :
    s.smpEnd q d w out = s.smpOutcome q d w (smpEntryOf d.live w.entry) o := by
  by_cases h : (smpEntryOf d.live w.entry).codec ≤ 1
  · simp only [State.smpEnd, h, if_true, hown h]
  · simp only [State.smpEnd, h, if_false, hother (Nat.lt_of_not_le h)]

theorem smpEnd_of_noSource {out : DecodeOut} {e : AccErr} (hc : (smpEntryOf d.live w.entry).codec ≤ 1)
    (hown : (smpEntryOf d.live w.entry).decodeOwn (s.source d (smpEntryOf d.live w.entry)).1 = none)
    (hsrc : (s.source d (smpEntryOf d.live w.entry)).2 = some e) : s.smpEnd q d w out = s.smpAccErr q w.pos e := by
  simp only [State.smpEnd, hc, if_true, hown, hsrc]

variable {e : SmpEntry} {o : StreamOut}

theorem smpOutcome_of_unreadable {er : AccErr} (h : s.readVirt none d.ctx e.src o.read = .error er) :
    s.smpOutcome q d w e o = s.smpAccErr q w.pos er := by
  simp only [State.smpOutcome, h]

/-- A try that fails after its source was read. -/
def State.failedTry (s : State) (q : SampleQ) (d : SmpDesc) (w : SmpWork) (e : SmpEntry) (read : Nat) (reason : Nat) : State :=
  (s.noteVirt none d.ctx e.src read).updSmp q (fun x => x.failTry d w.pos reason e.capture)

theorem failedTry_noted (read : Nat) (i : Fin 8) :
    SmpNoted q (s.smp[q].failTry d w.pos (i.val + 1) e.capture) s (s.failedTry q d w e read (i.val + 1)) :=
  .of_notes (noteVirt_notes ..) (noteVirt_sameBytes _ _ _ _) q rfl

variable {bs : List Byte} {b : Nat} (hread : s.readVirt none d.ctx e.src o.read = .ok bs) (hb : s.smpBudget s.smp[q] d w.pos = .ok b)
include hread hb

theorem smpOutcome_of_overBudget (h : b < o.units) : s.smpOutcome q d w e o = s.failedTry q d w e o.read 5 := by
  simp only [State.smpOutcome, hread, hb, h, if_true, State.failedTry]

variable (h : o.units ≤ b)
include h

theorem smpOutcome_of_badStream {r : Nat} (hr : o.res = .error r) : s.smpOutcome q d w e o = s.failedTry q d w e o.read r := by
  simp only [State.smpOutcome, hread, hb, Nat.not_lt.2 h, if_false, hr, State.failedTry]

variable {elems : List Nat} {wd ht ch fr : Nat} (hr : o.res = .ok (elems, wd, ht, ch, fr))
include hr

theorem smpOutcome_of_badPayload {r : Nat} (hf : d.finish w e o.units elems wd ht ch fr = .error r) :
    s.smpOutcome q d w e o = s.failedTry q d w e o.read r := by
  simp only [State.smpOutcome, hread, hb, Nat.not_lt.2 h, if_false, hr, hf, State.failedTry]

theorem smpOutcome_of_finished {z : SmpDone} {sat : Nat} {s' : State} (hf : d.finish w e o.units elems wd ht ch fr = .ok (z, sat))
    (hs : (s.noteVirt none d.ctx e.src o.read).stageSample d w z = .ok s') :
    s.smpOutcome q d w e o = s'.updSmp q (fun x =>
      { x.updWork w.pos (fun w => { w with lane := none, done := some z }) with sat := x.sat + BitVec.ofNat 64 sat }) := by
  simp only [State.smpOutcome, hread, hb, Nat.not_lt.2 h, if_false, hr, hf, hs]

end

/-! ## A lane that fails (R260; log 35) -/

/-- A queue whose sample leaves a lane. -/
def SmpQueue.offLane (x : SmpQueue) (lane : Nat) : SmpQueue :=
  { x with work := x.work.map (fun w => if w.lane = some lane then { w with lane := none } else w) }

theorem offLane_lane {x : SmpQueue} {lane : Nat} {y : SmpWork} (hy : y ∈ (x.offLane lane).work) : y.lane ≠ some lane := by
  obtain ⟨w, _, rfl⟩ := List.mem_map.1 hy
  split
  · simp
  · assumption

section
variable {s : State} {lane : Nat}

/-- The record of a lane's failure. -/
def laneRecord (lane : Nat) : LogArgs := { source := 8, cause := 1, unit := 0xFFFF, address := lane }

theorem exec_decodeLaneFault_of_fails (hl : lane < 10) (hf : lane ∉ s.lanesFenced) :
    exec (.decodeLaneFault lane) s = .next { s with
      log := (s.logEv (laneRecord lane)).log, lanesFenced := lane :: s.lanesFenced, smp := s.smp.map (·.offLane lane) } := by
  have hin : (decide (lane < 10) && !s.lanesFenced.contains lane) = true := by simp [hl, hf]
  have hlog : s.logEv { source := 8, cause := 1, unit := 0xFFFF, address := lane } = { s with log := (s.logEv (laneRecord lane)).log } :=
    logEv_frame_quiet s rfl
  show execDecodeLaneFault lane s = _
  simp only [execDecodeLaneFault, hin, if_true, hlog]
  rfl

theorem exec_decodeLaneFault_of_other (h : 10 ≤ lane ∨ lane ∈ s.lanesFenced) : exec (.decodeLaneFault lane) s = .next s := by
  have hout : (decide (lane < 10) && !s.lanesFenced.contains lane) = false := by
    rcases h with h | h <;> simp [h]
  show execDecodeLaneFault lane s = _
  simp only [execDecodeLaneFault, hout, Bool.false_eq_true, if_false]

end

end Sys2Proof.Machine
end

section
/-! PROOF. Hand-off: the acts that touch no queue, and one rule per outcome (14, R257, R260, R262, R263, R267, R268). -/

namespace Sys2Proof.Machine

/-! ## Acts run forward -/

section
variable {α β : Type}

theorem Act.run_bind_of_ok {a : Act α} {f : α → Act β} {s u : State} {x : α} (h : a.run s = .ok (x, u)) :
    (a >>= f).run s = (f x).run u := by
  rw [StateT.run_bind, h]
  rfl

theorem Act.run_modify_bind (g : State → State) (f : PUnit → Act β) (s : State) : (modify g >>= f).run s = (f ⟨⟩).run (g s) := rfl

theorem Act.run_get_bind (f : State → Act β) (s : State) : (get >>= f : Act β).run s = (f s).run s := rfl

end

/-! ## What a hand-off writes leaves the sample queues -/

theorem TiersOnly.smp {s t : State} (h : TiersOnly s t) : t.smp = s.smp := by rw [h]

theorem tiersAct_room (d : SmpDesc) (i : Nat) : TiersAct (d.room i) := .bind (tiersAct_getNat ..) fun _ => .pure _

theorem tiersAct_signalAct (ctx va : Nat) (add : Bool) (value : Nat) : TiersAct (signalAct ctx va add value) :=
  .bind (tiersAct_getNat ..) fun _ => tiersAct_putNat ..

theorem tiersAct_handSlot (d : SmpDesc) (i : Nat) (header payload : List Byte) : TiersAct (handSlot d i header payload) :=
  .bind (tiersAct_putVirt ..) fun _ => .bind (tiersAct_putVirt ..) fun _ => .bind .get fun _ => tiersAct_signalAct ..

theorem tiersAct_keepUnits (d : SmpDesc) (pos units : Nat) : TiersAct (keepUnits d pos units) := tiersAct_putNat ..

theorem tiersAct_keepRow (d : SmpDesc) (row : List RowSeg) : TiersAct (row.forM (fun g => keepUnits d g.pos g.units)) := by
  induction row with
  | nil => exact .pure _
  | cons g row ih => exact .bind (tiersAct_keepUnits ..) fun _ => ih

/-! ## The end of a queue (R262) -/

section
variable {s : State} {q : SampleQ} {d : SmpDesc}

theorem finishQueue_of_open (h : d.last ≠ some s.smp[q].pos) : (finishQueue q d).run s = .ok ((), s) := by
  have hend : s.smp[q].atEnd d = false := beq_eq_false_iff_ne.2 h
  rw [finishQueue, Act.run_get_bind]
  simp only [hend, Bool.false_eq_true, if_false]
  rfl

/-- A queue without an open row after its last position is IDLE. -/
def SmpQueue.endedAt (x : SmpQueue) (d : SmpDesc) : SmpQueue := if d.last = some x.pos then { x with state := 0, work := [] } else x

theorem finishQueue_of_noRow (h : s.smp[q].row = []) : (finishQueue q d).run s = .ok ((), s.updSmp q (·.endedAt d)) := by
  by_cases hend : d.last = some s.smp[q].pos
  · have hat : s.smp[q].atEnd d = true := beq_iff_eq.2 hend
    have hhalt : s.smp[q].halt smpIdle s.smp[q].error = s.smp[q].endedAt d := by
      simp only [halt_eq, SmpQueue.endedAt, h, hend, if_true, smpIdle]
    rw [finishQueue, Act.run_get_bind]
    simp only [hat, if_true, h, List.isEmpty_nil]
    exact congrArg (fun y => Except.ok ((), { s with smp := s.smp.set q y })) hhalt
  · rw [finishQueue_of_open hend, updSmp_of_kept (f := (·.endedAt d)) (if_neg hend)]

end

/-! ## The row -/

section
variable {s t : State} {q : SampleQ} {d : SmpDesc} {w : SmpWork} {rest : List SmpWork} 

theorem exec_sampleHandoff_of_ok (hruns : s.smpRuns q = some d) (h : (handOff q d).run s = .ok ((), t)) : exec (.sampleHandoff q) s = .next t := by
  show execSampleHandoff q s = _
  simp only [execSampleHandoff, hruns, h]

variable (hw : s.smp[q].work = w :: rest)
include hw

theorem handOff_of_stop {st : Nat} (hs : w.stop = some st) :
    (handOff q d).run s = (finishQueue q d).run (s.updSmp q (·.fail st)) := by
  rw [handOff, Act.run_get_bind]
  simp only [hw, hs]
  rfl

theorem handOff_of_unfinished (hs : w.stop = none) (hd : w.done = none) : (handOff q d).run s = (finishQueue q d).run s := by
  rw [handOff, Act.run_get_bind]
  simp only [hw, hs, hd]

theorem handOff_of_packed {z : SmpDone} (hs : w.stop = none) (hd : w.done = some z) (hp : d.pack = true)
    (h : (packSample q d z).run s = .ok ((), t)) : (handOff q d).run s = (finishQueue q d).run t := by
  rw [handOff, Act.run_get_bind]
  simp only [hw, hs, hd, hp, if_true]
  exact Act.run_bind_of_ok h

theorem handOff_of_handed {z : SmpDone} (hs : w.stop = none) (hd : w.done = some z) (hp : d.pack = false)
    (h : (handSample q d z).run s = .ok ((), t)) : (handOff q d).run s = (finishQueue q d).run t := by
  rw [handOff, Act.run_get_bind]
  simp only [hw, hs, hd, hp, Bool.false_eq_true, if_false]
  exact Act.run_bind_of_ok h

end

/-! ## A sample in its own slot (R263, R268) -/

/-- A queue that has handed off a sample, or a frame dropped, here for its age (R268). -/
def SmpQueue.handedOff (x : SmpQueue) (dropped late : Bool) : SmpQueue :=
  let y : SmpQueue := { x with hands := x.hands + 1, out := x.out + 1, drop := if dropped then x.drop + 1 else x.drop }
  (if late then y.countFail reasonStale else y).pass

/-- Whether a finished sample is too old for its hand-off (R268). -/
def State.lateAt (s : State) (d : SmpDesc) (z : SmpDone) : Bool := !z.dropped && stale d s.timeNs z.captureNs

theorem lateAt_iff {s : State} {d : SmpDesc} {z : SmpDone} :
    s.lateAt d z = true ↔ z.dropped = false ∧ d.live = true ∧ d.maxAgeUs * 1000 < s.timeNs - z.captureNs := by
  simp [State.lateAt, stale]

/-- What is handed off of a sample: a late one as dropped (R268). -/
def SmpDone.handedAs (z : SmpDone) (pos : Nat) (late : Bool) : SmpDone := if late then droppedAt pos reasonStale z.captureNs else z

section
variable {s s0 s1 s2 : State} {q : SampleQ} {d : SmpDesc} {z : SmpDone}

theorem handSample_of_noRoom (h : (d.room s.smp[q].hands).run s = .ok (false, s0)) : (handSample q d z).run s = .ok ((), s0) := by
  rw [handSample, Act.run_get_bind, Act.run_bind_of_ok h]
  rfl

theorem handSample_of_room (h : (d.room s.smp[q].hands).run s = .ok (true, s0)) {z' : SmpDone}
    (hz : z.handedAs s.smp[q].pos (s.lateAt d z) = z')
    (hslot : (handSlot d s.smp[q].hands (slotHeader (if z'.dropped then 2 else 0) s.smp[q].pos z' z'.payload.length) z'.payload).run s0
      = .ok ((), s1))
    (hkeep : (keepUnits d s.smp[q].pos z'.units).run s1 = .ok ((), s2)) :
    (handSample q d z).run s = .ok ((), s2.updSmp q (·.handedOff z'.dropped (s.lateAt d z))) := by
  subst hz
  rw [handSample, Act.run_get_bind, Act.run_bind_of_ok h]
  exact (Act.run_bind_of_ok hslot).trans (Act.run_bind_of_ok hkeep)

end

/-! ## The open row (R267) -/

theorem keepRow_forIn (d : SmpDesc) (row : List RowSeg) : (forIn row PUnit.unit fun g _ => do
    keepUnits d g.pos g.units
    pure (ForInStep.yield PUnit.unit) : Act PUnit) = row.forM (fun g => keepUnits d g.pos g.units) := by
  induction row with
  | nil => rfl
  | cons g row ih =>
    rw [List.forIn_cons, bind_assoc]
    simp only [pure_bind, ih]
    rfl

section
variable {s s0 s1 s2 : State} {q : SampleQ} {d : SmpDesc}

theorem closeRow_of_noRoom (h : (d.room s.smp[q].hands).run s = .ok (false, s0)) : (closeRow q d).run s = .ok (false, s0) := by
  rw [closeRow, Act.run_get_bind, Act.run_bind_of_ok h]
  rfl

theorem closeRow_of_room (h : (d.room s.smp[q].hands).run s = .ok (true, s0))
    (hslot : (handSlot d s.smp[q].hands (rowHeader d.outFmt s.smp[q].rowFirst s.smp[q].row.length (rowPayload d s.smp[q].row).length)
      (rowPayload d s.smp[q].row)).run s0 = .ok ((), s1))
    (hkeep : (s.smp[q].row.forM (fun g => keepUnits d g.pos g.units)).run s1 = .ok ((), s2)) :
    (closeRow q d).run s = .ok (true, s2.updSmp q (fun x => { x with hands := x.hands + 1, row := [], out := x.out + 1 })) := by
  rw [← keepRow_forIn] at hkeep
  rw [closeRow, Act.run_get_bind, Act.run_bind_of_ok h]
  exact (Act.run_bind_of_ok hslot).trans (Act.run_bind_of_ok hkeep)

/-- A sample's segment of the open row. -/
def SmpQueue.segOf (x : SmpQueue) (d : SmpDesc) (z : SmpDone) : RowSeg :=
  { pos := x.pos, sample := z.sample, start := rowUsed x.row, length := z.payload.length / d.tokenBytes, try_ := z.try_, reason := z.reason
    units := z.units, payload := z.payload }

/-- A queue that has taken a sample into its open row. -/
def SmpQueue.packed (x : SmpQueue) (d : SmpDesc) (z : SmpDone) : SmpQueue :=
  { x with rowFirst := if x.row.isEmpty then x.pos else x.rowFirst, row := x.row ++ [x.segOf d z] }.pass

/-- Whether a sample does not fit the open row. -/
def SmpQueue.rowFull (x : SmpQueue) (d : SmpDesc) (z : SmpDone) : Bool :=
  decide (d.rowTokens < rowUsed x.row + z.payload.length / d.tokenBytes) || x.row.length == 4096

variable {z : SmpDone}

theorem packSample_of_fits (h : s.smp[q].rowFull d z = false) : (packSample q d z).run s = .ok ((), s.updSmp q (·.packed d z)) := by
  have hfull : (decide (d.rowTokens < rowUsed s.smp[q].row + z.payload.length / d.tokenBytes) || s.smp[q].row.length == 4096) = false := h
  rw [packSample, Act.run_get_bind]
  simp only [hfull]
  rfl

theorem packSample_of_waits (h : s.smp[q].rowFull d z = true) (hc : (closeRow q d).run s = .ok (false, s0)) :
    (packSample q d z).run s = .ok ((), s0) := by
  have hfull : (decide (d.rowTokens < rowUsed s.smp[q].row + z.payload.length / d.tokenBytes) || s.smp[q].row.length == 4096) = true := h
  rw [packSample, Act.run_get_bind]
  simp only [hfull, if_true]
  exact Act.run_bind_of_ok hc

theorem packSample_of_closed (h : s.smp[q].rowFull d z = true) (hc : (closeRow q d).run s = .ok (true, s0)) :
    (packSample q d z).run s = .ok ((), s0.updSmp q (·.packed d z)) := by
  have hfull : (decide (d.rowTokens < rowUsed s.smp[q].row + z.payload.length / d.tokenBytes) || s.smp[q].row.length == 4096) = true := h
  rw [packSample, Act.run_get_bind]
  simp only [hfull, if_true]
  exact Act.run_bind_of_ok hc

end

end Sys2Proof.Machine
end

section
/-! PROOF. The sample engine's rows (14, R253, R256, R258 to R260, R262 to R265, R267 to R269; logs 34, 35, 86, 87). -/

namespace Sys2Proof.Machine

/-! ## SAMPLE_HANDOFF, by its outcomes -/

section
variable {s s0 s1 s2 : State} {q : SampleQ} {d : SmpDesc} {w : SmpWork} {rest : List SmpWork} (hruns : s.smpRuns q = some d)
  (hw : s.smp[q].work = w :: rest)
include hruns hw

theorem exec_sampleHandoff_stop {st : Nat} (hs : w.stop = some st) (hlast : d.last ≠ some s.smp[q].handed) :
    exec (.sampleHandoff q) s = .next (s.updSmp q (·.fail st)) := by
  refine exec_sampleHandoff_of_ok hruns ((handOff_of_stop hw hs).trans (finishQueue_of_open ?_))
  rw [updSmp_self]
  exact hlast

theorem exec_sampleHandoff_unfinished (hs : w.stop = none) (hd : w.done = none) (hlast : d.last ≠ some s.smp[q].pos) :
    exec (.sampleHandoff q) s = .next s :=
  exec_sampleHandoff_of_ok hruns ((handOff_of_unfinished hw hs hd).trans (finishQueue_of_open hlast))

variable {z : SmpDone} (hs : w.stop = none) (hd : w.done = some z)
include hs hd

section
variable (hp : d.pack = false)
include hp

theorem exec_sampleHandoff_handNoRoom (hlast : d.last ≠ some s.smp[q].pos) (h : (d.room s.smp[q].hands).run s = .ok (false, s0)) :
    exec (.sampleHandoff q) s = .next s0 := by
  refine exec_sampleHandoff_of_ok hruns ((handOff_of_handed hw hs hd hp (handSample_of_noRoom h)).trans (finishQueue_of_open ?_))
  rw [((tiersAct_room ..).only _ _ _ h).smp]
  exact hlast

theorem exec_sampleHandoff_handed (hrow : s.smp[q].row = []) (h : (d.room s.smp[q].hands).run s = .ok (true, s0)) {z' : SmpDone}
    (hz : z.handedAs s.smp[q].pos (s.lateAt d z) = z')
    (hslot : (handSlot d s.smp[q].hands (slotHeader (if z'.dropped then 2 else 0) s.smp[q].pos z' z'.payload.length) z'.payload).run s0
      = .ok ((), s1))
    (hkeep : (keepUnits d s.smp[q].pos z'.units).run s1 = .ok ((), s2)) :
    exec (.sampleHandoff q) s = .next (s2.updSmp q (fun x => (x.handedOff z'.dropped (s.lateAt d z)).endedAt d)) := by
  have htiers : TiersOnly s s2 := (((tiersAct_room ..).only _ _ _ h).trans ((tiersAct_handSlot ..).only _ _ _ hslot)).trans
    ((tiersAct_keepUnits ..).only _ _ _ hkeep)
  have hrow2 : (s2.updSmp q (·.handedOff z'.dropped (s.lateAt d z))).smp[q].row = [] := by
    rw [updSmp_self, htiers.smp, ← hrow]
    cases s.lateAt d z <;> rfl
  rw [exec_sampleHandoff_of_ok hruns
    ((handOff_of_handed hw hs hd hp (handSample_of_room h hz hslot hkeep)).trans (finishQueue_of_noRow hrow2)), updSmp_twice]

end

section
variable (hp : d.pack = true)
include hp

theorem exec_sampleHandoff_fits (hlast : d.last ≠ some (s.smp[q].pos + 1)) (h : s.smp[q].rowFull d z = false) :
    exec (.sampleHandoff q) s = .next (s.updSmp q (·.packed d z)) := by
  refine exec_sampleHandoff_of_ok hruns ((handOff_of_packed hw hs hd hp (packSample_of_fits h)).trans (finishQueue_of_open ?_))
  rw [updSmp_self]
  exact hlast

variable (hfull : s.smp[q].rowFull d z = true)
include hfull

theorem exec_sampleHandoff_rowNoRoom (hlast : d.last ≠ some s.smp[q].pos) (h : (d.room s.smp[q].hands).run s = .ok (false, s0)) :
    exec (.sampleHandoff q) s = .next s0 := by
  refine exec_sampleHandoff_of_ok hruns
    ((handOff_of_packed hw hs hd hp (packSample_of_waits hfull (closeRow_of_noRoom h))).trans (finishQueue_of_open ?_))
  rw [((tiersAct_room ..).only _ _ _ h).smp]
  exact hlast

theorem exec_sampleHandoff_rowCloses (hlast : d.last ≠ some (s.smp[q].pos + 1)) (h : (d.room s.smp[q].hands).run s = .ok (true, s0))
    (hslot : (handSlot d s.smp[q].hands (rowHeader d.outFmt s.smp[q].rowFirst s.smp[q].row.length (rowPayload d s.smp[q].row).length)
      (rowPayload d s.smp[q].row)).run s0 = .ok ((), s1))
    (hkeep : (s.smp[q].row.forM (fun g => keepUnits d g.pos g.units)).run s1 = .ok ((), s2)) :
    s2.smp = s.smp ∧ exec (.sampleHandoff q) s = .next (s2.updSmp q (fun x =>
      SmpQueue.packed { x with hands := x.hands + 1, row := [], out := x.out + 1 } d z)) := by
  have htiers : TiersOnly s s2 := (((tiersAct_room ..).only _ _ _ h).trans ((tiersAct_handSlot ..).only _ _ _ hslot)).trans
    ((tiersAct_keepRow ..).only _ _ _ hkeep)
  refine ⟨htiers.smp, ?_⟩
  rw [← updSmp_twice s2 q (fun x => { x with hands := x.hands + 1, row := [], out := x.out + 1 }) (·.packed d z)]
  refine exec_sampleHandoff_of_ok hruns
    ((handOff_of_packed hw hs hd hp (packSample_of_closed hfull (closeRow_of_room h hslot hkeep))).trans (finishQueue_of_open ?_))
  rw [updSmp_self, updSmp_self, htiers.smp]
  exact hlast

end

end

/-! ## The statement -/

/-- Settles O50: each row by its rule for the case at hand. -/
theorem sampleQueuesRun : Obligations.SampleQueuesRun := by
  unfold Obligations.SampleQueuesRun
  refine ⟨fun s q hp hr => ?start, fun s q tail hp hr => ?registers, fun s q => ?grant, fun s q d w out o hruns hw => ?ended,
    fun s q d w out st nt hruns hw => ?unread, fun s s0 s1 s2 q d w rest hruns hw hpos hhanded => ?handoff, fun s lane => ?lane⟩
  case start =>
    intro x a
    simp only [exec_sampleQueueStart hp hr]
    refine ⟨fun h0 h3 => by rw [smpStart_of_other h0 h3], fun h => ⟨fun ha => by rw [smpStart_of_noAddress h ha]; rfl,
      fun h0 h1 => ⟨fun st note hb => by rw [smpStart_of_unreadable h h0 h1 hb], fun bs hb => ?_⟩⟩⟩
    rw [smpStart_of_read h h0 h1 hb]
    obtain ⟨hsmp, hmem, hframe⟩ := smpStart_noted (s := s) (q := q) bs
    refine ⟨_, rfl, fun hc => ?_, fun hc hd => ?_, fun hc hd => ?_, hmem, hframe⟩
    · rw [hsmp]; simp [State.startedBy, hc, x]
    · rw [hsmp]; simp [State.startedBy, hc, hd, x]
    · rw [hsmp]; simp [State.startedBy, hc, hd, x, SmpQueue.run, SmpDesc.start, smpRunning]
  case registers =>
    refine ⟨exec_sampleTailWrite q hp hr tail, exec_sampleCountersClear q hp hr, fun h => ?_, exec_sampleQueueStop_other q hp⟩
    rw [exec_sampleQueueStop_running q hp hr h, State.updSmp, halt_eq]
  case grant =>
    refine ⟨exec_sampleDecodeStart_of_not, fun d cons hruns hturn hwork hcons henter => ⟨fun hl => ?_, fun bs l hl => ?_⟩⟩
    · rw [exec_sampleDecodeStart_limit hruns hturn hwork hcons henter hl, enter_of_limit hl]
    · have hlane := exec_sampleDecodeStart_lane hruns hturn hwork hcons henter hl (bs := bs) (l := l)
      rw [enter_of_open hl] at hlane
      exact hlane
  case ended =>
    intro e hown hother failed
    have hexec := exec_sampleDecodeEnd out hruns hw
    rw [smpEnd_of_stream hown hother] at hexec
    have hfailed (i : Fin 8) (h : s.smpOutcome q d w e o = s.failedTry q d w e o.read (i.val + 1)) : failed i := by
      obtain ⟨hsmp, hmem, hframe⟩ := failedTry_noted (s := s) (q := q) (d := d) (w := w) (e := e) o.read i
      rw [failTry_eq] at hsmp
      exact ⟨_, hexec.trans (congrArg Host.Outcome.next h), hsmp, hmem, hframe⟩
    refine ⟨fun st nt hread => by rw [hexec, smpOutcome_of_unreadable hread]; rfl, fun bs b hread hb => ⟨fun hu => ?_, fun hu i hi => ?_,
      fun hu elems wd h ch fr hres => ⟨fun i hi => ?_, fun z sat s' hf hst => ?_⟩⟩⟩
    · exact hfailed 4 (smpOutcome_of_overBudget hread hb hu)
    · exact hfailed i (smpOutcome_of_badStream hread hb hu hi)
    · exact hfailed i (smpOutcome_of_badPayload hread hb hu hres hi)
    · rw [hexec, smpOutcome_of_finished hread hb hu hres hf hst]
      rfl
  case unread =>
    intro e hc hown hsrc
    rw [exec_sampleDecodeEnd out hruns hw, smpEnd_of_noSource hc hown hsrc]
    rfl
  case handoff =>
    intro x ended
    refine ⟨fun st hs => exec_sampleHandoff_stop hruns hw hs hhanded, fun hs hd => exec_sampleHandoff_unfinished hruns hw hs hd hpos,
      fun z hs hd hp hrow => ?hand, fun z hs hd hp hnext => ?pack⟩
    case hand =>
      intro late
      refine ⟨exec_sampleHandoff_handNoRoom hruns hw hs hd hp hpos, fun hroom => ⟨fun hlate hslot hkeep => ?_, fun hlate => ?_⟩⟩
      · have hl : s.lateAt d z = false := by rw [← Bool.not_eq_true, lateAt_iff]; exact hlate
        rw [exec_sampleHandoff_handed hruns hw hs hd hp hrow hroom (z' := z) (by rw [hl]; rfl) hslot hkeep, hl]
        rfl
      · intro z' hslot hkeep
        have hl : s.lateAt d z = true := lateAt_iff.2 hlate
        refine ⟨rfl, ?_⟩
        rw [exec_sampleHandoff_handed hruns hw hs hd hp hrow hroom (z' := z') (by rw [hl]; rfl) hslot hkeep, hl]
        rfl
    case pack =>
      intro n seg
      refine ⟨fun hfit hlen => ?_, fun hfull => ?_⟩
      · have hfits : s.smp[q].rowFull d z = false := by
          rw [SmpQueue.rowFull, Bool.or_eq_false_iff]
          exact ⟨decide_eq_false (Nat.not_lt.2 hfit), beq_eq_false_iff_ne.2 hlen⟩
        rw [exec_sampleHandoff_fits hruns hw hs hd hp hnext hfits]
        simp only [State.updSmp, SmpQueue.packed, SmpQueue.pass, List.isEmpty_iff]
        rfl
      · intro p
        have hfulls : s.smp[q].rowFull d z = true := by
          rw [SmpQueue.rowFull, Bool.or_eq_true, decide_eq_true_eq, beq_iff_eq]
          exact hfull
        refine ⟨exec_sampleHandoff_rowNoRoom hruns hw hs hd hp hfulls hpos, fun hroom hslot hkeep => ?_⟩
        obtain ⟨hsmp, hexec⟩ := exec_sampleHandoff_rowCloses hruns hw hs hd hp hfulls hnext hroom hslot hkeep
        rw [hexec, State.updSmp, hsmp]
        rfl
  case lane =>
    refine ⟨fun hl hf => ?_, exec_decodeLaneFault_of_other⟩
    refine ⟨_, exec_decodeLaneFault_of_fails hl hf, rfl, fun q y hy => ?_, fun q => ?_, ⟨_, logEv_recs s (laneRecord lane), rfl, rfl⟩, rfl⟩
    · refine offLane_lane (x := s.smp[q]) ?_
      simpa using hy
    · simp [SmpQueue.offLane]

end Sys2Proof.Machine
end

section
/-! PROOF. EXPORT, IMPORT, RELEASE and DISCARD (17, R349 to R351, R353, R354; logs 107, 108). -/

namespace Sys2Proof.Machine

theorem xfer_of_ready {s : State} (hp : s.pwr.current ≠ 3) (hr : s.isReady = true) (hb : s.fls.xBusy = false) (f : State → State) :
    s.awake.xfer f = f s := by
  simp only [State.xfer, awake_of_not_ash hp, hr, hb, Bool.not_false, Bool.and_self, if_true]

/-! ## EXPORT -/

section
variable {s : State}

theorem exportRange_of_refused (h : (s.fls.snaps[s.fls.xEntry]).state ≠ .committed ∨ s.fls.xRange (s.fls.snaps[s.fls.xEntry]).blocks = false) :
    s.exportRange = s.xDone 0 0x21 := by
  have hno : ((s.fls.snaps[s.fls.xEntry]).state != .committed || !s.fls.xRange (s.fls.snaps[s.fls.xEntry]).blocks) = true := by
    rcases h with h | h
    · rw [bne_iff_ne.2 h, Bool.true_or]
    · rw [h, Bool.not_false, Bool.or_true]
  simp only [State.exportRange, hno, if_true, opEXPORT, stMalformed]

variable (hz : (s.fls.snaps[s.fls.xEntry]).state = .committed) (hr : s.fls.xRange (s.fls.snaps[s.fls.xEntry]).blocks = true)
include hz hr

theorem exportable : ((s.fls.snaps[s.fls.xEntry]).state != .committed || !s.fls.xRange (s.fls.snaps[s.fls.xEntry]).blocks) = false := by
  rw [hz, hr]
  rfl

theorem exportRange_of_down (hu : s.hif[s.fls.xHost].up = false) : s.exportRange = s.updFls (fun f => f.xWait 0) := by
  simp only [State.exportRange, exportable hz hr, hu, Bool.not_false, Bool.false_eq_true, if_false, if_true, opEXPORT]

theorem exportRange_of_up (hu : s.hif[s.fls.xHost].up = true) : ∃ rd, s.exportRange = { s with
    fls := { s.fls.xEnd 0 0 with reads := rd }
    hostMem := spaceWrite s.hostMem (hostKey s.fls.xHost s.fls.xAddr.toNat)
      (((s.fls.snaps[s.fls.xEntry]).image.drop s.fls.xOff.toNat).take s.fls.xLen.toNat) } := by
  simp only [State.exportRange, exportable hz hr, hu, Bool.not_true, Bool.false_eq_true, if_false]
  exact ⟨_, rfl⟩

end

/-! ## What a range of an import leaves of the flash -/

theorem program_snaps (f : Flash) (key : Nat) : (f.program key).snaps = f.snaps ∧ (f.program key).hostWr = f.hostWr := by
  unfold Flash.program
  dsimp only
  repeat' split
  all_goals exact ⟨rfl, rfl⟩

/-- Units programmed leave the catalogue and the count of what hosts write. -/
theorem foldl_program_snaps (keys : List Nat) (f : Flash) :
    (keys.foldl Flash.program f).snaps = f.snaps ∧ (keys.foldl Flash.program f).hostWr = f.hostWr := by
  induction keys generalizing f with
  | nil => exact ⟨rfl, rfl⟩
  | cons k keys ih =>
    obtain ⟨hsnaps, hwr⟩ := program_snaps f k
    rw [List.foldl_cons, (ih _).1, (ih _).2, hsnaps, hwr]
    exact ⟨rfl, rfl⟩

/-- The bytes of the range that an import takes. -/
def State.importBytes (s : State) : List Byte := spaceRead s.hostMem (hostKey s.fls.xHost s.fls.xAddr.toNat) s.fls.xLen.toNat

/-- An entry's range taken, its blocks programmed. -/
def State.tookRange (s : State) (i : Fin 16) (y : Snap) : State :=
  s.updFls (fun f => Flash.programSnap { f with snaps := f.snaps.set i y } i (s.fls.xOff.toNat / 4096) (s.fls.xLen.toNat / 4096))

theorem tookRange_flash (s : State) (i : Fin 16) (y : Snap) : (s.tookRange i y).fls.snaps = s.fls.snaps.set i y
    ∧ (s.tookRange i y).fls.hostWr = s.fls.hostWr + BitVec.ofNat 64 (s.fls.xLen.toNat / 4096) := foldl_program_snaps _ _

/-- An entry whose image has arrived whole and right (R350, R351). -/
def Snap.checkedIn (z : Snap) : Snap :=
  { z with
    state := .committed
    scope := imageScope z.image
    ctx := imageCtx z.image
    label := BitVec.ofNat 64 (leAt z.image 8 8)
    timeNs := leAt z.image 0x10 8
    img := imageState z.image }

/-- What an import leaves: its entry, its status, BUSY clear, and the blocks counted that the host wrote. -/
structure ImportLeft (s : State) (i : Fin 16) (z : Snap) (st : Nat) (t : State) : Prop where
  snaps : t.fls.snaps = s.fls.snaps.set i z
  status : t.fls.xStatus = st
  hostWr : t.fls.hostWr = s.fls.hostWr + BitVec.ofNat 64 (s.fls.xLen.toNat / 4096)
  frame : t = { s with fls := t.fls }
  op : t.fls.xLast = 1
  busy : t.fls.xBusy = false

namespace ImportLeft

variable {s t : State} {i : Fin 16} {z : Snap} {st : Nat}

theorem entry (h : ImportLeft s i z st t) : t.fls.snaps[i] = z := by rw [h.snaps]; simp

theorem others (h : ImportLeft s i z st t) (j : Fin 16) (hj : j ≠ i) : t.fls.snaps[j] = s.fls.snaps[j] := by
  have hne : i.val ≠ j.val := fun e => hj (Fin.ext e.symm)
  rw [h.snaps]
  simp [hne]

/-- The entry of a range that has been taken, written once more, and the operation ended. -/
theorem of_entry {y : Snap} {f : Flash → Flash} (hf : ∀ x : Flash, (f x).snaps = x.snaps.set i z ∧ (f x).hostWr = x.hostWr) (st : Nat) :
    ImportLeft s i z st (((s.tookRange i y).updFls f).xDone 1 st) := by
  obtain ⟨hsnaps, hwr⟩ := tookRange_flash s i y
  refine ⟨?_, rfl, (hf _).2.trans hwr, rfl, rfl, rfl⟩
  refine (hf _).1.trans ?_
  rw [hsnaps, Vector.set_set]

end ImportLeft

section
variable (s : State) (i : Fin 16) (z : Snap)

/-- The entry is whole when each of its blocks has arrived. -/
theorem importTake_eq : s.importTake i z =
    if (z.take s.fls.xOff.toNat s.importBytes).arrived = 2 ^ (z.take s.fls.xOff.toNat s.importBytes).blocks - 1
    then (s.tookRange i (z.take s.fls.xOff.toNat s.importBytes)).importEnd i (z.take s.fls.xOff.toNat s.importBytes)
    else (s.tookRange i (z.take s.fls.xOff.toNat s.importBytes)).xDone 1 0 := rfl

variable {s i z} {y : Snap} (hy : z.take s.fls.xOff.toNat s.importBytes = y)
include hy

theorem importTake_of_part (h : y.arrived ≠ 2 ^ y.blocks - 1) : ImportLeft s i y 0 (s.importTake i z) := by
  obtain ⟨hsnaps, hwr⟩ := tookRange_flash s i y
  rw [importTake_eq, hy, if_neg h]
  exact ⟨hsnaps, rfl, hwr, rfl, rfl, rfl⟩

variable (h : y.arrived = 2 ^ y.blocks - 1)
include h

theorem importTake_of_right (hh : imageHeaderOk y.image = true) (hc : imageChunksOk y.image = true) :
    ImportLeft s i y.checkedIn 0 (s.importTake i z) := by
  rw [importTake_eq, hy, if_pos h, State.importEnd, hh, hc, Bool.and_self, if_pos rfl]
  refine .of_entry ?_ 0
  exact fun _ => ⟨rfl, rfl⟩

theorem importTake_of_wrong (hno : imageHeaderOk y.image = false ∨ imageChunksOk y.image = false) :
    ImportLeft s i Snap.reset 0x10 (s.importTake i z) := by
  rw [importTake_eq, hy, if_pos h, State.importEnd, Bool.and_eq_false_iff.2 hno, if_neg Bool.false_ne_true]
  refine .of_entry ?_ 0x10
  exact fun _ => ⟨rfl, rfl⟩

end

/-! ## IMPORT -/

section
variable {s : State}

theorem importRange_of_down (hu : s.hif[s.fls.xHost].up = false) : s.importRange = s.updFls (fun f => f.xWait 1) := by
  simp only [State.importRange, hu, Bool.not_false, if_true, opIMPORT]

variable (hu : s.hif[s.fls.xHost].up = true)
include hu

theorem importRange_of_empty (hz : (s.fls.snaps[s.fls.xEntry]).state = .empty) : s.importRange = s.importFirst s.fls.xEntry := by
  simp only [State.importRange, hu, hz, Bool.not_true, Bool.false_eq_true, if_false, if_true]

theorem importRange_of_writing (hz : (s.fls.snaps[s.fls.xEntry]).state = .writing) (hi : (s.fls.snaps[s.fls.xEntry]).imported = true)
    (hr : s.fls.xRange (s.fls.snaps[s.fls.xEntry]).blocks = true) :
    s.importRange = s.importTake s.fls.xEntry s.fls.snaps[s.fls.xEntry] := by
  simp only [State.importRange, hu, hz, hi, hr, Bool.not_true, Bool.false_eq_true, if_false, reduceCtorEq, decide_true, Bool.and_self, if_true]

theorem importRange_of_refused (he : (s.fls.snaps[s.fls.xEntry]).state ≠ .empty)
    (hr : (s.fls.snaps[s.fls.xEntry]).state = .writing → (s.fls.snaps[s.fls.xEntry]).imported = true →
      s.fls.xRange (s.fls.snaps[s.fls.xEntry]).blocks = false) : s.importRange = s.xDone 1 0x21 := by
  have hno : ¬ ((decide ((s.fls.snaps[s.fls.xEntry]).state = .writing) && (s.fls.snaps[s.fls.xEntry]).imported
      && s.fls.xRange (s.fls.snaps[s.fls.xEntry]).blocks) = true) := by
    simp only [Bool.and_eq_true, decide_eq_true_eq]
    rintro ⟨⟨hw, hi⟩, hx⟩
    exact absurd ((hr hw hi).symm.trans hx) Bool.false_ne_true
  simp only [State.importRange, hu, he, hno, Bool.not_true, Bool.false_eq_true, if_false, opIMPORT, stMalformed]

end

/-! ## The first range of an import -/

/-- The blocks that the header of a first range asks for. -/
def State.importBlocks (s : State) : Nat := imageBlocks (spaceRead s.hostMem (hostKey s.fls.xHost s.fls.xAddr.toNat) 4096)

/-- An entry that an import begins. -/
def Snap.opened (n : Nat) : Snap := { Snap.reset with state := .writing, imported := true, blocks := n }

section
variable {s : State} {i : Fin 16}

theorem importFirst_of_refused (h : s.fls.xOff ≠ 0 ∨ s.fls.xLen.toNat < 4096 ∨ s.fls.xRange s.importBlocks = false) :
    s.importFirst i = s.xDone 1 0x21 := by
  have hno : (decide (s.fls.xOff ≠ 0) || decide (s.fls.xLen.toNat < 4096) || !s.fls.xRange s.importBlocks) = true := by
    simpa [or_assoc] using h
  exact if_pos hno

variable (h0 : s.fls.xOff = 0) (hl : 4096 ≤ s.fls.xLen.toNat) (hr : s.fls.xRange s.importBlocks = true)
include h0 hl hr

theorem firstRange : ¬ ((decide (s.fls.xOff ≠ 0) || decide (s.fls.xLen.toNat < 4096) || !s.fls.xRange s.importBlocks) = true) := by
  simp [h0, hl, hr]

theorem importFirst_of_full (h : s.fls.snapFree < s.importBlocks) : s.importFirst i = s.xDone 1 0x22 :=
  (if_neg (firstRange h0 hl hr)).trans (if_pos h)

theorem importFirst_of_room (h : s.importBlocks ≤ s.fls.snapFree) : s.importFirst i = s.importTake i (Snap.opened s.importBlocks) :=
  (if_neg (firstRange h0 hl hr)).trans (if_neg (Nat.not_lt.2 h))

end

/-- A first range, taken into an entry that an import begins. -/
theorem opened_take {s : State} (h0 : s.fls.xOff = 0) (n : Nat) : (Snap.opened n).take s.fls.xOff.toNat s.importBytes
    = { Snap.opened n with image := s.importBytes, arrived := 2 ^ (s.fls.xLen.toNat / 4096) - 1 } := by
  have hlen : s.importBytes.length = s.fls.xLen.toNat := by simp [State.importBytes, spaceRead]
  simp [Snap.take, Snap.opened, Snap.reset, h0, hlen, arrivedMask, flashBlock, putAt, zeros]

/-- A first range of fewer blocks than the image has leaves the entry WRITING. -/
theorem importTake_opened {s : State} (i : Fin 16) (h0 : s.fls.xOff = 0) {n : Nat} (h : s.fls.xLen.toNat < n * 4096) :
    ImportLeft s i { Snap.opened n with image := s.importBytes, arrived := 2 ^ (s.fls.xLen.toNat / 4096) - 1 } 0
      (s.importTake i (Snap.opened n)) := by
  refine importTake_of_part (opened_take h0 n) ?_
  have hlt : 2 ^ (s.fls.xLen.toNat / 4096) < 2 ^ n := Nat.pow_lt_pow_right (by decide) (by omega)
  have hpos : 0 < 2 ^ (s.fls.xLen.toNat / 4096) := Nat.two_pow_pos _
  show 2 ^ (s.fls.xLen.toNat / 4096) - 1 ≠ 2 ^ n - 1
  omega

/-! ## RELEASE and DISCARD -/

theorem discardSnap_of_uncommitted {s : State} (h : (s.fls.snaps[s.fls.xEntry]).state ≠ .committed) : s.discardSnap = s.xDone 4 0x41 :=
  if_pos (bne_iff_ne.2 h)

theorem discardSnap_of_committed {s : State} (h : (s.fls.snaps[s.fls.xEntry]).state = .committed) :
    s.discardSnap = (s.updFls (fun f => f.dropSnap s.fls.xEntry)).xDone 4 0 := by
  simp only [State.discardSnap, h, bne_self_eq_false, Bool.false_eq_true, if_false, opDISCARD, stDone]

end Sys2Proof.Machine
end

section
/-! PROOF. RESTORE: the conditions in their order, and what comes back (17, R352; 14, R269; logs 109, 146). -/

namespace Sys2Proof.Machine

/-! ## Steps that each change a place of their own -/

/-- What stands at each place after steps over different places, each of which changes its own place alone. -/
theorem get_foldl_of_separate {ι β : Type} [DecidableEq ι] {step : State → ι → State} {get : State → ι → β} {new : β → ι → β}
    (hself : ∀ s i, get (step s i) i = new (get s i) i) (hother : ∀ s i j, j ≠ i → get (step s i) j = get s j)
    {l : List ι} (hl : l.Nodup) (s : State) (k : ι) : get (l.foldl step s) k = if k ∈ l then new (get s k) k else get s k := by
  induction l generalizing s with
  | nil => simp
  | cons i l ih =>
    obtain ⟨hi, hl⟩ := List.nodup_cons.1 hl
    rw [List.foldl_cons, ih hl]
    by_cases h : k = i
    · subst h; simp [hi, hself]
    · simp [h, hother s i k h]

/-! ## Contexts (R295, R314) -/

/-- A context put back, its dispatch paused, with exclusive cores chosen again. -/
def State.putCtx (s : State) (e : Nat × Ctx) : State :=
  (s.addCtx { id := e.1, excl := e.2.exclCores, home := e.2.home, ctx := { e.2 with paused := true } }).setOwner
    ((s.addCtx { id := e.1, excl := e.2.exclCores, home := e.2.home, ctx := { e.2 with paused := true } }).chooseCores e.2.exclCores)
    (some e.1)

theorem setOwner_frame (s : State) (cs : List CoreId) (o : Option Nat) : s.setOwner cs o = { s with cores := (s.setOwner cs o).cores } := by
  induction cs generalizing s with
  | nil => rfl
  | cons c cs ih =>
    have h := ih (s.updCore c (fun co => { co with owner := o }))
    exact h

/-- What contexts put back may change. -/
def CtxsOnly (s t : State) : Prop := t = { s with
  ctxs := t.ctxs, acctWait := t.acctWait, acctPreempt := t.acctPreempt, acctKernels := t.acctKernels, acctEnergy := t.acctEnergy
  cores := t.cores }

theorem putCtx_frame (s : State) (e : Nat × Ctx) : CtxsOnly s (s.putCtx e) := by
  unfold CtxsOnly State.putCtx
  rw [setOwner_frame]
  rfl

theorem putCtx_ctxs (s : State) (e : Nat × Ctx) : (s.putCtx e).ctxs = insertAt s.ctxs e.1 { e.2 with paused := true } := by
  rw [State.putCtx, setOwner_frame]
  rfl

/-- A context without exclusive cores takes none. -/
theorem putCtx_cores (s : State) {e : Nat × Ctx} (h : e.2.exclCores = 0) : (s.putCtx e).cores = s.cores := by
  rw [State.putCtx, h]
  rfl

theorem foldl_putCtx_frame (l : List (Nat × Ctx)) (s : State) : CtxsOnly s (l.foldl State.putCtx s) :=
  foldl_within (R := CtxsOnly) (fun _ => rfl) (fun a b => by unfold CtxsOnly at *; rw [b, a]) putCtx_frame l s

theorem foldl_putCtx_ctxs (l : List (Nat × Ctx)) (s : State) : (l.foldl State.putCtx s).ctxs
    = l.foldl (fun l (e : Nat × Ctx) => insertAt l e.1 { e.2 with paused := true }) s.ctxs := by
  induction l generalizing s with
  | nil => rfl
  | cons e l ih => rw [List.foldl_cons, List.foldl_cons, ih, putCtx_ctxs]

theorem foldl_putCtx_cores {l : List (Nat × Ctx)} (h : ∀ e ∈ l, e.2.exclCores = 0) (s : State) : (l.foldl State.putCtx s).cores = s.cores := by
  induction l generalizing s with
  | nil => rfl
  | cons e l ih => rw [List.foldl_cons, ih (fun e he => h e (List.mem_cons_of_mem _ he)), putCtx_cores s (h e List.mem_cons_self)]

/-! ## Structures back in place -/

/-- The structures of an image in place, but for its contexts. -/
def State.putTables (s : State) (g : SnapImg) : State :=
  { s with
    stacked := s.stacked.restoreCells g.stacked
    regionMem := s.regionMem.restoreCells g.region
    queueGens := (g.queues.map (fun e => (e.1, { e.2 with gen := e.2.gen + 1 }))).foldl (fun t e => insertAt t e.1 e.2.gen) s.queueGens
    queues := (g.queues.map (fun e => (e.1, { e.2 with gen := e.2.gen + 1 }))).foldl (fun t e => insertAt t e.1 e.2) s.queues
    cmds := s.cmds ++ g.cmds
    seqs := g.seqs.foldl (fun t e => insertAt t e.1 e.2) s.seqs
    coils := g.coils.foldl (fun t e => insertAt t e.1 e.2.parkedAway) s.coils }

theorem putTables_of_one (s : State) {g : SnapImg} {q : Nat} {qu : Queue} (h : g.queues = [(q, qu)]) :
    lookup (s.putTables g).queues q = some { qu with gen := qu.gen + 1 } ∧ lookup (s.putTables g).queueGens q = some (qu.gen + 1) := by
  simp only [State.putTables, h, List.map_cons, List.map_nil, List.foldl_cons, List.foldl_nil, lookup_insertAt_self, and_self]

theorem putBack_eq (s : State) (g : SnapImg) : s.putBack g = g.ctxs.foldl State.putCtx (s.putTables g) := rfl

theorem parkedAway_eq (x : Coil) : x.parkedAway = { x with status := if x.reset = true ∨ x.status = .idle then .idle else .parked } := by
  cases h : x.reset <;> simp [Coil.parkedAway, h]

/-! ## Sample queues (R269) -/

/-- A sample queue after a RESTORE: resumed, unless one runs there or the image has none. -/
def SmpQueue.restored (x : SmpQueue) (y : Option SmpQueue) : SmpQueue :=
  match y with
  | some y => if x.state = 1 then x else x.resume y
  | none => x

/-- The image's sample queue put back. -/
def State.resumeSample (g : SnapImg) (s : State) (i : SampleQ) : State := s.updSmp i (fun x => x.restored (lookup g.samples i.val))

theorem foldl_resumeSample_frame (g : SnapImg) (l : List SampleQ) (s : State) :
    l.foldl (State.resumeSample g) s = { s with smp := (l.foldl (State.resumeSample g) s).smp } :=
  foldl_within (R := fun s t : State => t = { s with smp := t.smp }) (fun _ => rfl) (fun a b => by rw [b, a]) (fun _ _ => rfl) l s

theorem foldl_resumeSample_smp (g : SnapImg) (s : State) (k : SampleQ) :
    ((List.finRange 64).foldl (State.resumeSample g) s).smp[k] = s.smp[k].restored (lookup g.samples k.val) := by
  have hother (s : State) (i j : SampleQ) (h : j ≠ i) : (s.resumeSample g i).smp[j] = s.smp[j] := by
    have hne : i.val ≠ j.val := fun e => h (Fin.ext e.symm)
    simp [State.resumeSample, State.updSmp, hne]
  rw [get_foldl_of_separate (get := fun s (k : SampleQ) => s.smp[k]) (new := fun x k => x.restored (lookup g.samples k.val))
    (fun s i => updSmp_self s i _) hother (List.nodup_finRange 64), if_pos (List.mem_finRange k)]

/-! ## Roles (R17, R18) -/

/-- The image's role of a region written. -/
def State.restoreRole (g : SnapImg) (s : State) (r : RegionId) : State :=
  (s.updRegion r (fun x => { x with role := g.roles.getD r.val x.role, rolePending := true })).roleEffect r

theorem roleEffect_frame (s : State) (r : RegionId) : s.roleEffect r = { s with regions := (s.roleEffect r).regions } := by
  unfold State.roleEffect
  dsimp only
  split <;> rfl

/-- A role that takes effect stays the one that was written. -/
theorem roleEffect_role (s : State) (r k : RegionId) : (s.roleEffect r).regions[k].role = s.regions[k].role := by
  unfold State.roleEffect
  dsimp only
  split
  · by_cases h : k = r
    · subst h; rw [updRegion_self]
    · rw [updRegion_other s h]
  · rfl

theorem foldl_restoreRole_frame (g : SnapImg) (l : List RegionId) (s : State) :
    l.foldl (State.restoreRole g) s = { s with regions := (l.foldl (State.restoreRole g) s).regions } :=
  foldl_within (R := fun s t : State => t = { s with regions := t.regions }) (fun _ => rfl) (fun a b => by rw [b, a])
    (fun s r => by rw [State.restoreRole, roleEffect_frame]; rfl) l s

theorem foldl_restoreRole_role (g : SnapImg) (s : State) (k : RegionId) :
    ((List.finRange 12).foldl (State.restoreRole g) s).regions[k].role = g.roles.getD k.val s.regions[k].role := by
  have hself (s : State) (r : RegionId) : (s.restoreRole g r).regions[r].role = g.roles.getD r.val s.regions[r].role := by
    rw [State.restoreRole, roleEffect_role, updRegion_self]
  have hother (s : State) (r k : RegionId) (h : k ≠ r) : (s.restoreRole g r).regions[k].role = s.regions[k].role := by
    rw [State.restoreRole, roleEffect_role, updRegion_other s h]
  rw [get_foldl_of_separate (get := fun s (k : RegionId) => s.regions[k].role) (new := fun x k => g.roles.getD k.val x) hself hother
    (List.nodup_finRange 12), if_pos (List.mem_finRange k)]

/-! ## What comes back besides -/

/-- A slot table in force. -/
def State.activeSlots (s : State) (a : Vector (BitVec 4) 256) : State := { s with slots := { s.slots with active := a } }

theorem activeSlots_smp (s : State) (a : Vector (BitVec 4) 256) : (s.activeSlots a).smp = s.smp := rfl
theorem activeSlots_regions (s : State) (a : Vector (BitVec 4) 256) : (s.activeSlots a).regions = s.regions := rfl
theorem activeSlots_active (s : State) (a : Vector (BitVec 4) 256) : (s.activeSlots a).slots.active = a := rfl

/-- The slot table of an image (R352). -/
def SnapImg.table (g : SnapImg) : Vector (BitVec 4) 256 := Vector.ofFn (fun i : Fin 256 => g.slots.getD i.val 0)

theorem table_get (g : SnapImg) (n : Fin 256) : g.table[n] = g.slots.getD n.val 0 := Vector.getElem_ofFn n.isLt

theorem restoreRest_eq (s : State) (g : SnapImg) : s.restoreRest g =
    if (!g.scope) = true then (List.finRange 64).foldl (State.resumeSample g) s
    else ((List.finRange 12).foldl (State.restoreRole g) ((List.finRange 64).foldl (State.resumeSample g) s)).activeSlots g.table := by
  unfold State.restoreRest
  rw [List.foldl_ext _ (State.resumeSample g) s fun s i _ => ?resumes]
  case resumes =>
    unfold State.resumeSample SmpQueue.restored
    cases lookup g.samples i.val with
    | none => exact (updSmp_of_kept rfl).symm
    | some x =>
      by_cases h : s.smp[i].state = 1
      · simp only [smpRunning, h, if_true]
        exact (updSmp_of_kept (f := fun y => if y.state = 1 then y else y.resume x) (if_pos h)).symm
      · simp only [smpRunning, h, if_false]
        exact congrArg (fun y => { s with smp := s.smp.set i y }) (if_neg h).symm
  generalize (List.finRange 64).foldl (State.resumeSample g) s = t
  exact congrArg (fun u : State => if (!g.scope) = true then t else u.activeSlots g.table) (List.foldl_ext _ _ _ fun _ _ _ => rfl)

/-- What comes back besides memory and tables: sample queues, and with a whole device's image its roles and slot table. -/
structure RestBack (s : State) (g : SnapImg) (t : State) : Prop where
  smp : ∀ k : SampleQ, t.smp[k] = s.smp[k].restored (lookup g.samples k.val)
  context : g.scope = false → t.regions = s.regions ∧ t.slots = s.slots
  device : g.scope = true → (∀ k : RegionId, t.regions[k].role = g.roles.getD k.val s.regions[k].role)
    ∧ ∀ n : Fin 256, t.slots.active[n] = g.slots.getD n.val 0

theorem restoreRest_back (s : State) (g : SnapImg) : RestBack s g (s.restoreRest g)
    ∧ s.restoreRest g = { s with
        smp := (s.restoreRest g).smp, regions := (s.restoreRest g).regions, slots := (s.restoreRest g).slots } := by
  have hframe := foldl_resumeSample_frame g (List.finRange 64) s
  have hsmp := foldl_resumeSample_smp g s
  rw [restoreRest_eq]
  generalize (List.finRange 64).foldl (State.resumeSample g) s = t at hframe hsmp ⊢
  have hrest : t.regions = s.regions ∧ t.slots = s.slots := by rw [hframe]; exact ⟨rfl, rfl⟩
  cases hs : g.scope with
  | false => exact ⟨⟨hsmp, fun _ => hrest, fun h => (nomatch hs.symm.trans h)⟩, by rw [hframe]; rfl⟩
  | true =>
    have hroles := foldl_restoreRole_role g t
    have huframe := foldl_restoreRole_frame g (List.finRange 12) t
    generalize (List.finRange 12).foldl (State.restoreRole g) t = u at hroles huframe ⊢
    have hu : u.smp = t.smp := by rw [huframe]
    have hback : RestBack s g (u.activeSlots g.table) := by
      refine ⟨fun k => ?_, fun h => (nomatch hs.symm.trans h), fun _ => ⟨fun k => ?_, fun n => ?_⟩⟩
      · rw [activeSlots_smp, hu, hsmp k]
      · rw [activeSlots_regions, hroles k, hrest.1]
      · rw [activeSlots_active, table_get]
    exact ⟨hback, by rw [huframe, hframe]; rfl⟩

/-! ## RESTORE -/

section
variable {s : State}

theorem scope_free {z : Snap} (h : z.scope = false ∨ s.ctxs = []) : (z.scope && !s.ctxs.isEmpty) = false := by
  rcases h with h | h
  · rw [h, Bool.false_and]
  · rw [h, List.isEmpty_nil, Bool.not_true, Bool.and_false]

theorem image_fits {z : Snap} {g : SnapImg} (hm : imageHw z.image = s.svc.hwType.toNat) (hf : s.restoreFits g = true) :
    (decide (imageHw z.image ≠ s.svc.hwType.toNat) || !s.restoreFits g) = false := by
  rw [hf, decide_eq_false (not_not_intro hm)]
  rfl

theorem restoreSnap_of_uncommitted (h : (s.fls.snaps[s.fls.xEntry]).state ≠ .committed) : s.restoreSnap = s.xDone 2 0x21 :=
  if_pos (bne_iff_ne.2 h)

variable (hz : (s.fls.snaps[s.fls.xEntry]).state = .committed)
include hz

theorem restoreSnap_of_busy (hs : (s.fls.snaps[s.fls.xEntry]).scope = true) (hc : s.ctxs ≠ []) : s.restoreSnap = s.xDone 2 0x41 := by
  have hne : s.ctxs.isEmpty = false := by simpa using hc
  simp only [State.restoreSnap, hz, hs, hne, bne_self_eq_false, Bool.not_false, Bool.and_self, Bool.false_eq_true, if_false, if_true,
    opRESTORE, stBusy]

variable (hfree : (s.fls.snaps[s.fls.xEntry]).scope = false ∨ s.ctxs = [])
include hfree

theorem restoreSnap_of_noState (hi : (s.fls.snaps[s.fls.xEntry]).img = none) : s.restoreSnap = s.xDone 2 0x10 := by
  simp only [State.restoreSnap, hz, scope_free hfree, hi, bne_self_eq_false, Bool.false_eq_true, if_false, opRESTORE, stData]

variable {g : SnapImg} (hi : (s.fls.snaps[s.fls.xEntry]).img = some g)
include hi

theorem restoreSnap_of_clash (hc : s.restoreClash g = true) : s.restoreSnap = s.xDone 2 0x21 := by
  simp only [State.restoreSnap, hz, scope_free hfree, hi, hc, bne_self_eq_false, Bool.false_eq_true, if_false, if_true, opRESTORE,
    stMalformed]

variable (hc : s.restoreClash g = false)
include hc

theorem restoreSnap_of_misfit (hm : imageHw (s.fls.snaps[s.fls.xEntry]).image ≠ s.svc.hwType.toNat ∨ s.restoreFits g = false) :
    s.restoreSnap = s.xDone 2 0x22 := by
  have hno : (decide (imageHw (s.fls.snaps[s.fls.xEntry]).image ≠ s.svc.hwType.toNat) || !s.restoreFits g) = true := by
    simpa using hm
  simp only [State.restoreSnap, hz, scope_free hfree, hi, hc, hno, bne_self_eq_false, Bool.false_eq_true, if_false, if_true, opRESTORE,
    stLimit]

variable (hm : imageHw (s.fls.snaps[s.fls.xEntry]).image = s.svc.hwType.toNat) (hf : s.restoreFits g = true)
include hm hf

theorem restoreSnap_of_wrong (him : (s.fls.snaps[s.fls.xEntry]).imported = true)
    (hk : imageChunksOk (s.fls.snaps[s.fls.xEntry]).image = false) : s.restoreSnap = s.xDone 2 0x10 := by
  simp only [State.restoreSnap, hz, scope_free hfree, hi, hc, image_fits hm hf, him, hk, bne_self_eq_false, Bool.not_false,
    Bool.and_self, Bool.false_eq_true, if_false, if_true, opRESTORE, stData]

theorem restoreSnap_of_right (hk : (s.fls.snaps[s.fls.xEntry]).imported = true → imageChunksOk (s.fls.snaps[s.fls.xEntry]).image = true) :
    s.restoreSnap = (s.restoreImg g).xDone 2 0 := by
  have hright : ((s.fls.snaps[s.fls.xEntry]).imported && !imageChunksOk (s.fls.snaps[s.fls.xEntry]).image) = false := by
    cases him : (s.fls.snaps[s.fls.xEntry]).imported with
    | false => rfl
    | true => rw [hk him]; rfl
  simp only [State.restoreSnap, hz, scope_free hfree, hi, hc, image_fits hm hf, hright, bne_self_eq_false,
    Bool.false_eq_true, if_false, opRESTORE, stDone]

end

/-! ## The image restored, where it holds no commands -/

section
variable {s : State} {g : SnapImg}

theorem restoreImg_of_noCmds (h : g.cmds = []) : s.restoreImg g = (s.putBack g).restoreRest g := by
  rw [State.restoreImg, h]
  rfl

theorem putBack_frame (s : State) (g : SnapImg) : CtxsOnly (s.putTables g) (s.putBack g) := by
  rw [putBack_eq]
  exact foldl_putCtx_frame ..

/-- What a RESTORE does to each part of the state, but for commands. -/
structure Restored (s : State) (g : SnapImg) (t : State) : Prop where
  fls : t.fls = s.fls
  stacked : t.stacked = s.stacked.restoreCells g.stacked
  regionMem : t.regionMem = s.regionMem.restoreCells g.region
  coreStore : t.coreStore = s.coreStore
  ctxs : t.ctxs = g.ctxs.foldl (fun l (e : Nat × Ctx) => insertAt l e.1 { e.2 with paused := true }) s.ctxs
  seqs : t.seqs = g.seqs.foldl (fun l (e : Nat × Seq) => insertAt l e.1 e.2) s.seqs
  coils : t.coils = g.coils.foldl (fun l (e : Nat × Coil) => insertAt l e.1 e.2.parkedAway) s.coils
  queues : t.queues = (s.putTables g).queues
  queueGens : t.queueGens = (s.putTables g).queueGens
  cmds : t.cmds = s.cmds ++ g.cmds
  cores : (∀ e ∈ g.ctxs, e.2.exclCores = 0) → t.cores = s.cores
  rest : RestBack s g t

theorem restoreRest_restored (s : State) (g : SnapImg) : Restored s g ((s.putBack g).restoreRest g) := by
  have hctxs : (s.putBack g).ctxs = _ := (congrArg State.ctxs (putBack_eq s g)).trans (foldl_putCtx_ctxs g.ctxs (s.putTables g))
  have hcores (h : ∀ e ∈ g.ctxs, e.2.exclCores = 0) : (s.putBack g).cores = s.cores :=
    (congrArg State.cores (putBack_eq s g)).trans (foldl_putCtx_cores h (s.putTables g))
  have hback := putBack_frame s g
  obtain ⟨hrest, hframe⟩ := restoreRest_back (s.putBack g) g
  generalize (s.putBack g).restoreRest g = t at *
  generalize s.putBack g = u at *
  unfold CtxsOnly at hback
  have hkept : RestBack s g t := by
    have hs : u.smp = s.smp ∧ u.regions = s.regions ∧ u.slots = s.slots := by rw [hback]; exact ⟨rfl, rfl, rfl⟩
    obtain ⟨hsmp, hcontext, hdevice⟩ := hrest
    simp only [hs] at hsmp hcontext hdevice
    exact ⟨hsmp, hcontext, hdevice⟩
  refine ⟨?_, ?_, ?_, ?_, ?ctxs, ?_, ?_, ?_, ?_, ?_, fun h => ?cores, hkept⟩
  case ctxs => rw [hframe]; exact hctxs
  case cores => rw [hframe]; exact hcores h
  all_goals rw [hframe, hback] <;> rfl

end

/-! ## The statement -/

/-- Settles O52: each operation by its rule for the case at hand. -/
theorem transferOperations : Obligations.TransferOperations := by
  unfold Obligations.TransferOperations
  intro s hp hr hb f i z ended
  have hexec (op : State → State) : s.awake.xfer op = op s := xfer_of_ready hp hr hb op
  have hexport : exec .exportImage s = .next s.exportRange := congrArg Host.Outcome.next (hexec _)
  have himport : exec .importImage s = .next s.importRange := congrArg Host.Outcome.next (hexec _)
  have hrestore : exec .restore s = .next s.restoreSnap := congrArg Host.Outcome.next (hexec _)
  have hdiscard : exec .discard s = .next s.discardSnap := congrArg Host.Outcome.next (hexec _)
  rw [hexport, himport, hrestore, hdiscard]
  refine ⟨fun h => ?refused, fun hz hx hu => ?waits, fun hz hx hu => ?exported, fun hu hz hi hx => ?range, fun hu he hx => ?noRange,
    fun hu => ?down, fun hu hz => ?first, fun h => ?uncommitted, fun hz hs hc => ?busy, fun hz hfree => ⟨fun hi => ?noState, fun g hi => ?image⟩,
    congrArg Host.Outcome.next (hexec _), fun h => ?kept, fun hz => ?discarded, fun op hop => ?invalid⟩
  case refused => rw [exportRange_of_refused h]; rfl
  case waits => rw [exportRange_of_down hz hx hu]; rfl
  case exported =>
    obtain ⟨rd, h⟩ := exportRange_of_up hz hx hu
    exact ⟨rd, congrArg Host.Outcome.next h⟩
  case range =>
    intro bs y
    have htake : s.importRange = s.importTake i z := importRange_of_writing hu hz hi hx
    rw [htake]
    by_cases ha : y.arrived = 2 ^ y.blocks - 1
    · by_cases hok : imageHeaderOk y.image = true ∧ imageChunksOk y.image = true
      · have h : ImportLeft s i y.checkedIn 0 (s.importTake i z) := importTake_of_right rfl ha hok.1 hok.2
        refine ⟨_, rfl, h.frame, h.op, h.busy, h.hostWr, h.others, fun hn => absurd ha hn, fun _ _ => ?_, fun _ hno => ?_⟩
        · rw [h.entry]
          exact ⟨rfl, rfl, h.status⟩
        · simp [hok.1, hok.2] at hno
      · have hno : imageHeaderOk y.image = false ∨ imageChunksOk y.image = false := by
          rwa [← Bool.and_eq_false_iff, ← Bool.not_eq_true, Bool.and_eq_true]
        have h : ImportLeft s i Snap.reset 0x10 (s.importTake i z) := importTake_of_wrong rfl ha hno
        exact ⟨_, rfl, h.frame, h.op, h.busy, h.hostWr, h.others, fun hn => absurd ha hn, fun _ h' => absurd h' hok,
          fun _ _ => ⟨h.entry, h.status⟩⟩
    · have h : ImportLeft s i y 0 (s.importTake i z) := importTake_of_part rfl ha
      exact ⟨_, rfl, h.frame, h.op, h.busy, h.hostWr, h.others, fun _ => ⟨h.entry, h.status⟩, fun e => absurd e ha, fun e => absurd e ha⟩
  case noRange => rw [importRange_of_refused hu he hx]; rfl
  case down => rw [importRange_of_down hu]; rfl
  case first =>
    intro n
    rw [importRange_of_empty hu hz]
    refine ⟨fun h => by rw [importFirst_of_refused h]; rfl,
      fun h0 hl hx => ⟨fun h => by rw [importFirst_of_full h0 hl hx h]; rfl, fun h hpart => ?_⟩⟩
    have htake : s.importFirst s.fls.xEntry = s.importTake i (Snap.opened n) := importFirst_of_room h0 hl hx h
    have hleft := importTake_opened i h0 hpart
    rw [htake]
    refine ⟨_, rfl, hleft.frame, hleft.op, hleft.status, hleft.busy, ?_⟩
    rw [hleft.entry]
    clear_value n
    exact ⟨rfl, rfl, rfl⟩
  case uncommitted => rw [restoreSnap_of_uncommitted h]; rfl
  case busy => rw [restoreSnap_of_busy hz hs hc]; rfl
  case noState => rw [restoreSnap_of_noState hz hfree hi]; rfl
  case image =>
    refine ⟨fun hc => by rw [restoreSnap_of_clash hz hfree hi hc]; rfl, fun hc hm => by rw [restoreSnap_of_misfit hz hfree hi hc hm]; rfl,
      fun hc hm hf => ⟨fun him hk => by rw [restoreSnap_of_wrong hz hfree hi hc hm hf him hk]; rfl, fun hk hcmds => ?_⟩⟩
    rw [restoreSnap_of_right hz hfree hi hc hm hf hk, restoreImg_of_noCmds hcmds]
    have h := restoreRest_restored s g
    generalize (s.putBack g).restoreRest g = t at h
    refine ⟨_, rfl, ?_, h.stacked, h.regionMem, h.coreStore, h.ctxs, h.seqs, ?_, fun q qu hq => ?_, ?_, h.cores, fun k => ?_,
      h.rest.context, h.rest.device⟩
    · exact congrArg (fun x : Flash => x.xEnd 2 0) h.fls
    · simp only [← parkedAway_eq]
      exact h.coils
    · obtain ⟨hqueue, hgen⟩ := putTables_of_one s hq
      exact ⟨(congrArg (lookup · q) h.queues).trans hqueue, (congrArg (lookup · q) h.queueGens).trans hgen⟩
    · exact h.cmds.trans (by rw [hcmds, List.append_nil])
    · exact h.rest.smp k
  case kept => rw [discardSnap_of_uncommitted h]; rfl
  case discarded => rw [discardSnap_of_committed hz]; rfl
  case invalid =>
    refine congrArg Host.Outcome.next ((hexec _).trans ?_)
    exact if_neg (Nat.not_lt.2 hop)

end Sys2Proof.Machine
end

section
/-! PROOF. A range written reads back, and every byte beside it reads as before (15, R277; 18, R357). -/

namespace Sys2Proof.Machine

variable {m m' : Ram} {addr : Nat} {bytes : List Byte}

/-! ## One block of a write -/

theorem overlay_getElem? (b : Nat) (old : List Byte) (addr : Nat) (bytes : List Byte) {i : Nat} (hi : i < 32) :
    (overlay b old addr bytes)[i]? = some (if addr ≤ 32 * b + i ∧ 32 * b + i < addr + bytes.length
      then bytes.getD (32 * b + i - addr) 0 else old.getD i 0) := by
  simp [overlay, hi]

/-- A block written reads as its old bytes with the new ones laid over; one covered in part was read first. -/
theorem Ram.blockRead_writeBlock_self {b : Nat} (h : m.writeBlock addr bytes b = some m') :
    ∃ old, m'.blockRead b = some (overlay b old addr bytes) ∧ (covers b addr bytes.length = false → m.blockRead b = some old) := by
  unfold Ram.writeBlock at h
  split at h
  · rename_i hc
    cases h
    exact ⟨[], Ram.blockRead_putBlock_self m b (overlay_length ..), fun hn => absurd (hn.symm.trans hc) (by decide)⟩
  · split at h
    · rename_i old hold
      cases h
      exact ⟨old, Ram.blockRead_putBlock_self m b (overlay_length ..), fun _ => hold⟩
    · cases h

theorem Ram.blockRead_writeBlock_other {b c : Nat} (h : m.writeBlock addr bytes b = some m') (hc : c ≠ b) :
    m'.blockRead c = m.blockRead c := by
  unfold Ram.writeBlock at h
  split at h
  · cases h; exact Ram.blockRead_putBlock_other m (overlay_length ..) hc
  · split at h
    · cases h; exact Ram.blockRead_putBlock_other m (overlay_length ..) hc
    · cases h

/-! ## Blocks written in turn -/

theorem Ram.blockRead_writeBlocks_other {l : List Nat} {c : Nat}
    (h : l.foldlM (fun r b => r.writeBlock addr bytes b) m = some m') (hc : c ∉ l) : m'.blockRead c = m.blockRead c := by
  induction l generalizing m with
  | nil => cases h; rfl
  | cons b l ih =>
    rw [List.foldlM_cons] at h
    obtain ⟨r, hr, hrest⟩ := Option.bind_eq_some_iff.1 h
    obtain ⟨hb, hl⟩ := not_or.1 (mt List.mem_cons.2 hc)
    exact (ih hrest hl).trans (Ram.blockRead_writeBlock_other hr hb)

theorem Ram.blockRead_writeBlocks_mem {l : List Nat} {c : Nat}
    (h : l.foldlM (fun r b => r.writeBlock addr bytes b) m = some m') (hl : l.Nodup) (hc : c ∈ l) :
    ∃ old, m'.blockRead c = some (overlay c old addr bytes) ∧ (covers c addr bytes.length = false → m.blockRead c = some old) := by
  induction l generalizing m with
  | nil => cases hc
  | cons b l ih =>
    rw [List.foldlM_cons] at h
    obtain ⟨r, hr, hrest⟩ := Option.bind_eq_some_iff.1 h
    obtain ⟨hb, hl⟩ := List.nodup_cons.1 hl
    rcases List.mem_cons.1 hc with rfl | hc
    · obtain ⟨old, hnew, hold⟩ := Ram.blockRead_writeBlock_self hr
      exact ⟨old, (Ram.blockRead_writeBlocks_other hrest hb).trans hnew, hold⟩
    · obtain ⟨old, hnew, hold⟩ := ih hrest hl hc
      have hne : c ≠ b := fun e => hb (e ▸ hc)
      exact ⟨old, hnew, fun hn => (Ram.blockRead_writeBlock_other hr hne).symm.trans (hold hn)⟩

theorem mem_blocksOf {addr len b : Nat} : b ∈ blocksOf addr len ↔ len ≠ 0 ∧ addr / 32 ≤ b ∧ b ≤ (addr + len - 1) / 32 := by
  unfold blocksOf
  split
  · simp [*]
  · rw [List.mem_map]
    constructor
    · rintro ⟨i, hi, rfl⟩
      have := List.mem_range.1 hi
      omega
    · rintro ⟨_, h1, h2⟩
      exact ⟨b - addr / 32, List.mem_range.2 (by omega), by omega⟩

theorem nodup_blocksOf (addr len : Nat) : (blocksOf addr len).Nodup := by
  unfold blocksOf
  split
  · exact List.nodup_nil
  · exact List.Nodup.map (fun _ _ h => Nat.add_right_cancel h) List.nodup_range

/-- What the blocks of a range read after a write of the range. -/
theorem Ram.blockRead_write_mem {b : Nat} (h : m.write addr bytes = some m') (hb : b ∈ blocksOf addr bytes.length) :
    ∃ old, m'.blockRead b = some (overlay b old addr bytes) ∧ (covers b addr bytes.length = false → m.blockRead b = some old) :=
  Ram.blockRead_writeBlocks_mem h (nodup_blocksOf ..) hb

theorem Ram.blockRead_write_other {b : Nat} (h : m.write addr bytes = some m') (hb : b ∉ blocksOf addr bytes.length) :
    m'.blockRead b = m.blockRead b := Ram.blockRead_writeBlocks_other h hb

/-! ## Bytes of a read -/

theorem take_one_drop (l : List Byte) (i : Nat) : (l.drop i).take 1 = l[i]?.toList := by
  rw [List.take_one, List.head?_drop]

theorem Ram.read_one (m : Ram) (a : Nat) : m.read a 1 = (m.blockRead (a / 32)).map (fun bs => bs[a % 32]?.toList) := by
  have hone : blocksOf a 1 = [a / 32] := by simp [blocksOf]
  cases h : m.blockRead (a / 32) with
  | none => simp [Ram.read, hone, h]
  | some bs => simp [Ram.read, hone, h, take_one_drop]

/-- Byte k of blocks laid end to end is byte k mod 32 of block k / 32. -/
theorem getElem?_flatten_blocks {f : Nat → List Byte} (n : Nat) (hf : ∀ i < n, (f i).length = 32) {k : Nat} (hk : k < 32 * n) :
    ((List.range n).map f).flatten[k]? = (f (k / 32))[k % 32]? := by
  induction n with
  | zero => omega
  | succ n ih =>
    have hlen : ((List.range n).map f).flatten.length = 32 * n := by
      rw [List.length_flatten, List.map_map, List.map_congr_left (f := List.length ∘ f) (g := fun _ => 32) fun i hi =>
        hf i (Nat.lt_succ_of_lt (List.mem_range.1 hi))]
      simp [Nat.mul_comm]
    rw [List.range_succ, List.map_append, List.flatten_append, List.getElem?_append]
    split
    · exact ih (fun i hi => hf i (by omega)) (by omega)
    · rw [hlen, show k / 32 = n by omega, show k % 32 = k - 32 * n by omega]
      simp

/-- Blocks that hold the bytes of a range deliver them to a read of it. -/
theorem Ram.read_eq_of_blocks (f : Nat → List Byte) (hf : ∀ b ∈ blocksOf addr bytes.length, m.blockRead b = some (f b))
    (hbytes : ∀ i < bytes.length, (f ((addr + i) / 32))[(addr + i) % 32]? = bytes[i]?) : m.read addr bytes.length = some bytes := by
  rw [Ram.read, mapM_eq_some_map hf]
  refine congrArg some (List.ext_getElem? fun i => ?_)
  by_cases hi : i < bytes.length
  · have hne : bytes.length ≠ 0 := by omega
    have hblocks : (blocksOf addr bytes.length).map f
        = (List.range ((addr + bytes.length - 1) / 32 - addr / 32 + 1)).map (fun i => f (i + addr / 32)) := by
      simp [blocksOf, hne, Function.comp_def]
    have hlen (j : Nat) (hj : j < (addr + bytes.length - 1) / 32 - addr / 32 + 1) : (f (j + addr / 32)).length = 32 :=
      Ram.blockRead_length (hf _ (mem_blocksOf.2 ⟨hne, by omega, by omega⟩))
    rw [List.getElem?_take_of_lt hi, List.getElem?_drop, hblocks, getElem?_flatten_blocks _ hlen (by omega), ← hbytes i hi,
      show (addr % 32 + i) / 32 + addr / 32 = (addr + i) / 32 by omega, show (addr % 32 + i) % 32 = (addr + i) % 32 by omega]
  · rw [List.getElem?_eq_none (by rw [List.length_take]; omega), List.getElem?_eq_none (by omega)]

/-! ## The range, and what lies beside it -/

theorem Ram.read_write_self (h : m.write addr bytes = some m') : m'.read addr bytes.length = some bytes := by
  refine Ram.read_eq_of_blocks (fun b => (m'.blockRead b).getD []) (fun b hb => ?_) fun i hi => ?_
  · obtain ⟨old, hnew, _⟩ := Ram.blockRead_write_mem h hb
    rw [hnew]; rfl
  · have hmem : (addr + i) / 32 ∈ blocksOf addr bytes.length := mem_blocksOf.2 ⟨by omega, by omega, by omega⟩
    obtain ⟨old, hnew, _⟩ := Ram.blockRead_write_mem h hmem
    rw [hnew, Option.getD_some, overlay_getElem? _ _ _ _ (Nat.mod_lt _ (by decide)), if_pos (by omega),
      show 32 * ((addr + i) / 32) + (addr + i) % 32 - addr = i by omega]
    simp [hi]

theorem Ram.read_write_other (h : m.write addr bytes = some m') {a : Nat} (ha : a < addr ∨ addr + bytes.length ≤ a) :
    m'.read a 1 = m.read a 1 := by
  rw [Ram.read_one, Ram.read_one]
  by_cases hb : a / 32 ∈ blocksOf addr bytes.length
  · obtain ⟨old, hnew, hold⟩ := Ram.blockRead_write_mem h hb
    have hpart : covers (a / 32) addr bytes.length = false := by
      simp only [covers, Bool.and_eq_false_iff, decide_eq_false_iff_not]
      omega
    have hlen := Ram.blockRead_length (hold hpart)
    have hi : a % 32 < 32 := Nat.mod_lt _ (by decide)
    rw [hnew, hold hpart, Option.map_some, Option.map_some, overlay_getElem? _ _ _ _ hi, if_neg (by omega)]
    simp [hlen, hi]
  · rw [Ram.blockRead_write_other h hb]

/-- Settles O8: a block written reads as its old bytes with the new ones laid over them, and one covered in part was read first. -/
theorem writesReadBackAndTouchNothingElse : Obligations.WritesReadBackAndTouchNothingElse := by
  intro m m' addr bytes _ h
  exact ⟨Ram.read_write_self h, fun a ha => Ram.read_write_other h ha⟩

end Sys2Proof.Machine
end

section
/-! PROOF. COPY and FILL by their outcomes, and what a commit makes of flash (15, R275, R278, R280, R288). -/

namespace Sys2Proof.Machine

/-! ## Rows -/

section
variable {s s1 : State} {ctx r pat : Nat} {src dst : Extent} {rest : List Nat} {bs : List Byte}

theorem Extent.local?_of_mem {e : Extent} (h : e.kind = 0) (d : Darit) : e.local? d = true := by simp [Extent.local?, h]

theorem readExtent_of_mem (h : src.kind = 0) : s.readExtent ctx src r = s.readVirt none ctx (src.addr + r * src.stride) src.rowBytes := by
  rw [State.readExtent, if_pos (Extent.local?_of_mem h _)]

theorem writeExtent_of_mem (h : dst.kind = 0) : s.writeExtent ctx dst r bs = s.writeVirt none ctx (dst.addr + r * dst.stride) bs := by
  rw [State.writeExtent, if_pos (Extent.local?_of_mem h _)]

theorem copyRows_of_row (hs : src.kind = 0) (hd : dst.kind = 0)
    (hread : s.readVirt none ctx (src.addr + r * src.stride) src.rowBytes = .ok bs)
    (hwrite : (s.noteVirt none ctx (src.addr + r * src.stride) src.rowBytes).writeVirt none ctx (dst.addr + r * dst.stride) bs = .ok s1) :
    copyRows ctx src dst (r :: rest) s = copyRows ctx src dst rest s1 := by
  simp only [copyRows, readExtent_of_mem hs, hread, Extent.local?_of_mem hs, if_true, writeExtent_of_mem hd, hwrite]

/-- Byte k of a pattern, as a number's byte and as a byte of its eight. -/
theorem leAt_leBytes_one (pat : Nat) {k : Nat} (h : k < 8) : leAt (leBytes 8 pat) k 1 = pat / 2 ^ (8 * k) % 256 := by
  interval_cases k <;> simp [leAt, leBytes, leNat] <;> omega

theorem fillRow_eq_pattern (pat addr len : Nat) :
    fillRow pat addr len = (List.range len).map (fun i => BitVec.ofNat 8 (leAt (leBytes 8 pat) ((addr + i) % 8) 1)) := by
  unfold fillRow
  refine List.map_congr_left fun i _ => BitVec.eq_of_toNat_eq ?_
  rw [leAt_leBytes_one pat (Nat.mod_lt _ (by decide)), BitVec.toNat_ofNat, BitVec.toNat_ofNat]
  exact (Nat.mod_mod _ _).symm

theorem fillRows_of_row (hd : dst.kind = 0)
    (hwrite : s.writeVirt none ctx (dst.addr + r * dst.stride) ((List.range dst.rowBytes).map (fun i =>
      BitVec.ofNat 8 (leAt (leBytes 8 pat) ((dst.addr + r * dst.stride + i) % 8) 1))) = .ok s1) :
    fillRows ctx pat dst (r :: rest) s = fillRows ctx pat dst rest s1 := by
  simp only [fillRows, writeExtent_of_mem hd, fillRow_eq_pattern, hwrite]

end

/-! ## COPY -/

section
variable {s s1 : State} {q n : Nat} {cm : Cmd} (hcmd : s.cmd? q n = some cm) (hphase : cm.phase = .granted)
include hcmd hphase

section
variable (htype : cm.type = tyCopy)
include htype

theorem execCopy_refused {st : Nat}
    (h : s.copyCheck (s.queueCtx q) [cm.srcExtent, cm.dstExtent] (cm.dstExtent.kind == 1) (cm.srcExtent.overlaps cm.dstExtent) = some st) :
    execCopy q n s = .next (s.endCmd q n st false) := by
  simp only [execCopy, granted?_of_granted hcmd hphase htype, h]

variable (hcheck : s.copyCheck (s.queueCtx q) [cm.srcExtent, cm.dstExtent] (cm.dstExtent.kind == 1)
  (cm.srcExtent.overlaps cm.dstExtent) = none)
include hcheck

theorem execCopy_done (hk : cm.dstExtent.kind ≠ 1)
    (h : copyRows (s.queueCtx q) cm.srcExtent cm.dstExtent (List.range cm.srcExtent.rows) (s.noteFlash cm.srcExtent) = (s1, none)) :
    execCopy q n s = .next ((s1.spoilAliased (s.queueCtx q) cm.srcExtent cm.dstExtent).updCmd q n (fun x => { x with phase := .ready })) := by
  simp only [execCopy, granted?_of_granted hcmd hphase htype, hcheck, hk, if_false, h]

theorem execCopy_failed {e : AccErr} (hk : cm.dstExtent.kind ≠ 1)
    (h : copyRows (s.queueCtx q) cm.srcExtent cm.dstExtent (List.range cm.srcExtent.rows) (s.noteFlash cm.srcExtent) = (s1, some e))
    (hf : e.final = true) : execCopy q n s = .next ((s1.spoilExtent (s.queueCtx q) cm.dstExtent).cmdErr q n e) := by
  simp only [execCopy, granted?_of_granted hcmd hphase htype, hcheck, hk, if_false, h, hf, if_true]

theorem execCopy_flash (hk : cm.dstExtent.kind = 1) :
    execCopy q n s = .next ((s.noteFlash cm.srcExtent).copyToFlash q n (s.queueCtx q) cm.srcExtent cm.dstExtent) := by
  simp only [execCopy, granted?_of_granted hcmd hphase htype, hcheck]
  rw [if_pos hk]

end

/-! ## FILL -/

variable (htype : cm.type = tyFill)
  (hcheck : s.copyCheck (s.queueCtx q) [cm.dstExtent] (cm.dstExtent.kind == 1) ((cm.dstExtent.kind == 1) != cm.discard) = none)
include htype hcheck

theorem execFill_flash (hk : cm.dstExtent.kind = 1) : execFill q n s = .next (s.updCmd q n (fun x => { x with phase := .ready })) := by
  simp only [execFill, granted?_of_granted hcmd hphase htype, hcheck]
  rw [if_pos hk]

theorem execFill_done (hk : cm.dstExtent.kind ≠ 1)
    (h : fillRows (s.queueCtx q) (cm.at 0x38 8) cm.dstExtent (List.range cm.dstExtent.rows) s = (s1, none)) :
    execFill q n s = .next (s1.updCmd q n (fun x => { x with phase := .ready })) := by
  simp only [execFill, granted?_of_granted hcmd hphase htype, hcheck, hk, if_false, h]

end

/-! ## A COPY into flash -/

/-- Notes of reads, with every byte of stacked memory as it was. -/
def Noted (s t : State) : Prop := NotesOnly s t ∧ SameBytes s t

namespace Noted

theorem refl (s : State) : Noted s s := ⟨.refl s, .refl s⟩

theorem trans {s t u : State} (a : Noted s t) (b : Noted t u) : Noted s u := ⟨a.1.trans b.1, a.2.trans b.2⟩

theorem noteVirt (s : State) (ctx va len : Nat) : Noted s (s.noteVirt none ctx va len) :=
  ⟨noteVirt_notes .., noteVirt_none_sameBytes s ctx va len⟩

theorem sameMemory {s t : State} (h : Noted s t) : sameMemory s t := by
  obtain ⟨⟨hframe, _⟩, hbytes⟩ := h
  rw [hframe] at hbytes ⊢
  exact ⟨rfl, rfl, rfl, hbytes.sameStacked, rfl⟩

end Noted

theorem noteFlash_frame (s : State) (e : Extent) : s.noteFlash e = { s with fls := (s.noteFlash e).fls } := by
  unfold State.noteFlash
  split <;> rfl

theorem copyToFlash_of_rows {s : State} {q n ctx : Nat} {src dst : Extent} {rows : List (List Byte)}
    (h : (List.range src.rows).mapM (fun r => s.readExtent ctx src r) = .ok rows) :
    ∃ u, Noted s u ∧ s.copyToFlash q n ctx src dst
      = u.updCmd q n (fun x => { x with phase := .ready, saves := [(dst.addr * flashBlock, rows.flatten)] }) := by
  simp only [State.copyToFlash, h]
  split
  · exact ⟨_, foldl_within .refl .trans (fun s r => .noteVirt s _ _ _) _ s, rfl⟩
  · exact ⟨s, .refl s, rfl⟩

/-- The rows of a COPY into flash, kept for the commit: nothing of memory changes, and of flash what reading it counts. -/
theorem copyToFlash_keeps_rows {s : State} {q n ctx : Nat} {cm : Cmd} {src dst : Extent} {rows : List (List Byte)}
    (hcmd : s.cmd? q n = some cm) (h : (List.range src.rows).mapM (fun r => (s.noteFlash src).readExtent ctx src r) = .ok rows) :
    let t := (s.noteFlash src).copyToFlash q n ctx src dst
    t.cmd? q n = some { cm with phase := .ready, saves := [(dst.addr * 4096, rows.flatten)] }
      ∧ sameMemory s t ∧ t.fls = (s.noteFlash src).fls := by
  obtain ⟨u, hu, ht⟩ := copyToFlash_of_rows (q := q) (n := n) (dst := dst) h
  have hframe := hu.1.1
  have hcmdu : u.cmd? q n = some cm := by
    rw [hu.1.tiers.cmd?, noteFlash_frame]
    exact hcmd
  have hmem : sameMemory (s.noteFlash src) u := hu.sameMemory
  rw [noteFlash_frame s src] at hmem
  dsimp only
  rw [ht]
  refine ⟨(cmd?_updCmd_self u q n ?_).trans (by rw [hcmdu]; rfl), hmem, by rw [State.updCmd_fls, hframe]⟩
  exact fun c => ⟨rfl, rfl⟩

/-! ## The commit -/

theorem commitFlash_discard (s : State) {cm : Cmd} (ht : cm.type = tyFill) (hd : cm.discard = true) :
    s.commitFlash cm = { s with fls := s.fls.unmap cm.dstExtent.addr (cm.dstExtent.bytes / flashBlock) } := by
  simp [State.commitFlash, ht, hd, tyFill, tyCopy]

/-- Bytes of unmapped blocks read zero. -/
theorem spaceByte_unmap (f : Flash) {lba m a : Nat} (h : lba * flashBlock ≤ a) (h' : a < (lba + m) * flashBlock) :
    spaceByte (f.unmap lba m).cells a = 0 := by
  have hnone : lookup (f.unmap lba m).cells a = none := by
    have hout : (decide (a < lba * flashBlock) || decide ((lba + m) * flashBlock ≤ a)) = false := by simp [h, h']
    rw [Flash.unmap, lookup_filter_key f.cells (fun k => decide (k < lba * flashBlock) || decide ((lba + m) * flashBlock ≤ k)), hout]
    rfl
  rw [spaceByte, hnone]
  rfl

/-- Settles O30: each row by its outcome, the rows of a COPY and of a FILL in turn, and the bytes that a commit leaves in flash. -/
theorem copyAndFillMoveBytes : Obligations.CopyAndFillMoveBytes := by
  unfold Obligations.CopyAndFillMoveBytes
  refine ⟨⟨fun s q n cm hcmd hphase htype => ⟨fun st h => execCopy_refused hcmd hphase htype h, fun hcheck => ⟨fun s1 hk h => ?_,
      fun s1 e hk h hf => ?_, fun rows hk h => ?_⟩⟩,
    fun s s1 ctx r src dst rest bs hs hd hread hwrite => copyRows_of_row hs hd hread hwrite,
    fun s s1 q n cm hcmd hphase htype => ?fill,
    fun s s1 ctx pat r dst rest hd hwrite => fillRows_of_row hd hwrite⟩,
    fun s q n cm hcmd hready hheld hst hstaged => ⟨fun ht hd => ?discard, fun a bs ht hsaves => ?saves⟩,
    fun f lba m a h h' => spaceByte_unmap f h h', fun f a i bs _ hi => ?bytes⟩
  · exact execCopy_done hcmd hphase htype hcheck hk h
  · exact execCopy_failed hcmd hphase htype hcheck hk h hf
  · exact ⟨_, execCopy_flash hcmd hphase htype hcheck hk, copyToFlash_keeps_rows hcmd h⟩
  case fill =>
    intro dst hcheck
    exact ⟨fun hk => execFill_flash hcmd hphase htype hcheck hk, fun hk h => execFill_done hcmd hphase htype hcheck hk h⟩
  case discard =>
    rw [exec_commandCommit_done hcmd hready hheld hstaged (by simp [ht, tyFill, tyKernel]) (by simp [ht, tyFill, tyRound]) hst,
      commitFlash_discard s ht hd]
    rfl
  case saves =>
    rw [exec_commandCommit_done hcmd hready hheld hstaged (by simp [ht, tyCopy, tyKernel]) (by simp [ht, tyCopy, tyRound]) hst,
      commitFlash_copy s ht, hsaves]
    rfl
  case bytes =>
    rw [Flash.write_cells, spaceByte_spaceWrite, if_pos (by omega), Nat.add_sub_cancel_left]

end Sys2Proof.Machine
end

section
/-! PROOF. The scrubbers of SRAM: whole slots, and slots that meet one bad block at most (18, R362; 21, R411). -/

namespace Sys2Proof.Machine

/-! ## What a scrubber may touch -/

/-- What the scrubbers of SRAM may touch, their positions aside. -/
structure SramScrub (s t : State) : Prop where
  frame : t = { s with coreStore := t.coreStore, accMem := t.accMem, regionMem := t.regionMem, regions := t.regions, log := t.log, hif := t.hif }
  pos : ∀ g : RegionId, t.regions[g].sramPos = s.regions[g].sramPos

namespace SramScrub

variable {s t u : State} {l : Loc}

theorem refl (s : State) : SramScrub s s := ⟨rfl, fun _ => rfl⟩

theorem trans (a : SramScrub s t) (b : SramScrub t u) : SramScrub s u :=
  ⟨by rw [b.frame, a.frame], fun g => (b.pos g).trans (a.pos g)⟩

theorem foldl {β : Type} {f : State → β → State} (hf : ∀ s b, SramScrub s (f s b)) (l : List β) (s : State) : SramScrub s (l.foldl f s) :=
  foldl_within refl trans hf l s

theorem regionState (h : SramScrub s t) (g : RegionId) : t.regionState g = s.regionState g := by
  unfold State.regionState State.part
  rw [h.frame]

theorem noteBlock (hl : l.sram) (s : State) (c : Checked) : SramScrub s (s.noteBlock l c) where
  frame := by
    have h := noteBlock_counts hl s c
    unfold CountsOnly at h
    rw [h]
  pos g := by rw [(noteBlock_regionNotes s l c).region g]

theorem putRam (hl : l.sram) (s : State) (m : Ram) : SramScrub s (s.putRam l m) := by
  cases l with
  | stacked a => exact absurd rfl hl
  | _ => exact ⟨rfl, fun _ => rfl⟩

theorem scrubBlock (hl : l.sram) (s : State) (b : Nat) : SramScrub s (s.scrubBlock l b) := by
  unfold State.scrubBlock
  repeat' split
  · exact refl s
  · exact (noteBlock (Loc.sram_at hl _) s _).trans (putRam hl _ _)
  · exact noteBlock (Loc.sram_at hl _) s _
  · exact refl s

theorem scrubRange (hl : l.sram) (s : State) (addr len : Nat) : SramScrub s (s.scrubRange l addr len) := by
  unfold State.scrubRange
  split
  · exact foldl (fun s b => scrubBlock hl s b) _ s
  · exact refl s

theorem scrubCore (s : State) (pos : Nat) (c : CoreId) : SramScrub s (s.scrubCore pos c) := by
  unfold State.scrubCore
  dsimp only
  repeat' split
  · exact refl s
  · exact scrubRange (l := .core 0) (fun e => nomatch e) ..
  · exact scrubRange (l := .acc 0) (fun e => nomatch e) ..

end SramScrub

/-- The position of a region's scrubbers moved on. -/
def Region.sramNext (r : Region) : Region := { r with sramPos := (r.sramPos + 1) % 81920 }

theorem scrubRegion_of_away {s : State} {g : RegionId} (h : s.regionState g ≠ .inService) : s.scrubRegion g = s := by
  simp [State.scrubRegion, h]

/-- The scrubbers of a region that is in service: region memory's range, the cores', the position moved on. -/
theorem scrubRegion_of_inService {s : State} {g : RegionId} (h : s.regionState g = .inService) :
    s.scrubRegion g = ((coresOf g).foldl (fun t c => t.scrubCore s.regions[g].sramPos c)
      (s.scrubRange (.region 0) (g.val * regionBytes + scrubBytes * s.regions[g].sramPos % regionBytes) scrubBytes)).updRegion g
        Region.sramNext := by
  simp only [State.scrubRegion, h, bne_self_eq_false, Bool.false_eq_true, if_false]
  rfl

/-! ## Every region's position -/

/-- A slot's scrub of some regions: each in service has its position moved on. -/
structure SlotScrub (l : List RegionId) (s t : State) : Prop where
  frame : t = { s with coreStore := t.coreStore, accMem := t.accMem, regionMem := t.regionMem, regions := t.regions, log := t.log, hif := t.hif }
  pos : ∀ g : RegionId, t.regions[g].sramPos
    = if g ∈ l ∧ s.regionState g = .inService then (s.regions[g].sramPos + 1) % 81920 else s.regions[g].sramPos

theorem scrubRegion_slotScrub (s : State) (g : RegionId) : SlotScrub [g] s (s.scrubRegion g) := by
  by_cases h : s.regionState g = .inService
  · obtain ⟨u, hu, ht⟩ : ∃ u, SramScrub s u ∧ s.scrubRegion g = u.updRegion g Region.sramNext :=
      ⟨_, (SramScrub.scrubRange (l := .region 0) (fun e => nomatch e) ..).trans (.foldl (fun s c => .scrubCore s _ c) _ _), scrubRegion_of_inService h⟩
    rw [ht]
    refine ⟨by rw [hu.frame]; rfl, fun g' => ?_⟩
    by_cases e : g' = g
    · subst e
      rw [updRegion_self, if_pos ⟨List.mem_singleton_self _, h⟩, ← hu.pos g']
      rfl
    · rw [updRegion_other u e, if_neg fun hg => e (List.mem_singleton.1 hg.1), hu.pos g']
  · rw [scrubRegion_of_away h]
    refine ⟨rfl, fun g' => (if_neg ?_).symm⟩
    rintro ⟨hg, hs⟩
    exact h (List.mem_singleton.1 hg ▸ hs)

theorem foldl_scrubRegion_slotScrub {l : List RegionId} (hl : l.Nodup) (s : State) : SlotScrub l s (l.foldl State.scrubRegion s) := by
  induction l generalizing s with
  | nil => exact ⟨rfl, fun g => (if_neg (by simp)).symm⟩
  | cons g l ih =>
    obtain ⟨hg, hl⟩ := List.nodup_cons.1 hl
    have hhead := scrubRegion_slotScrub s g
    have htail := ih hl (s.scrubRegion g)
    rw [List.foldl_cons]
    refine ⟨by rw [htail.frame, hhead.frame], fun g' => ?_⟩
    have hstate : (s.scrubRegion g).regionState g' = s.regionState g' := by
      unfold State.regionState State.part
      rw [hhead.frame]
    rw [htail.pos g', hhead.pos g', hstate]
    by_cases e : g' = g
    · subst e; simp [hg]
    · simp [e]

/-! ## Regions whose range holds no bad block -/

/-- Positions moved on, and nothing else. -/
structure PosOnly (s t : State) : Prop where
  frame : t = { s with regions := t.regions }
  region : ∀ g : RegionId, t.regions[g] = { s.regions[g] with sramPos := t.regions[g].sramPos }

namespace PosOnly

variable {s t u : State}

theorem refl (s : State) : PosOnly s s := ⟨rfl, fun _ => rfl⟩

theorem trans (a : PosOnly s t) (b : PosOnly t u) : PosOnly s u :=
  ⟨by rw [b.frame, a.frame], fun g => by rw [b.region g, a.region g]⟩

theorem sramNext (s : State) (g : RegionId) : PosOnly s (s.updRegion g Region.sramNext) := by
  refine ⟨rfl, fun g' => ?_⟩
  by_cases e : g' = g
  · subst e; rw [updRegion_self]; rfl
  · rw [updRegion_other s e]

theorem regionState (h : PosOnly s t) (g : RegionId) : t.regionState g = s.regionState g := by
  unfold State.regionState State.part
  rw [h.frame]

end PosOnly

/-- The blocks of a region's memory; a region holds 2^20 of them. -/
def Ram.cleanIn (m : Ram) (g : RegionId) : Prop := ∀ e ∈ m.bad, e.1 / 1048576 ≠ g.val

theorem mem_badIn {m : Ram} {addr len b : Nat} : b ∈ m.badIn addr len ↔ (∃ e ∈ m.bad, e.1 = b) ∧ addr / 32 ≤ b ∧ b < (addr + len) / 32 := by
  simp [Ram.badIn]

theorem badIn_of_cleanIn {m : Ram} {g : RegionId} (h : m.cleanIn g) (pos : Nat) :
    m.badIn (g.val * regionBytes + scrubBytes * pos % regionBytes) scrubBytes = [] := by
  refine List.eq_nil_iff_forall_not_mem.2 fun b hb => ?_
  obtain ⟨⟨e, he, rfl⟩, h1, h2⟩ := mem_badIn.1 hb
  have hne := h e he
  simp only [regionBytes, scrubBytes] at h1 h2
  omega

theorem scrubRange_of_noBad {s : State} {l : Loc} {m : Ram} {a addr len : Nat} (hm : s.ramOf l = some (m, a)) (h : m.badIn addr len = []) :
    s.scrubRange l addr len = s := by
  simp only [State.scrubRange, hm, h, List.foldl_nil]

section
variable {s : State} (hcore : s.coreStore.bad = []) (hacc : s.accMem.bad = [])
include hcore hacc

theorem scrubCore_of_noBad (pos : Nat) (c : CoreId) : s.scrubCore pos c = s := by
  have hnone {m : Ram} (h : m.bad = []) (addr len : Nat) : m.badIn addr len = [] := by simp [Ram.badIn, h]
  unfold State.scrubCore
  dsimp only
  repeat' split
  · rfl
  · exact scrubRange_of_noBad (l := .core 0) rfl (hnone hcore ..)
  · exact scrubRange_of_noBad (l := .acc 0) rfl (hnone hacc ..)

theorem foldl_scrubCore_of_noBad (pos : Nat) (l : List CoreId) : l.foldl (fun t c => t.scrubCore pos c) s = s := by
  induction l with
  | nil => rfl
  | cons c l ih => rw [List.foldl_cons, scrubCore_of_noBad hcore hacc, ih]

theorem scrubRegion_of_cleanIn {g : RegionId} (h : s.regionMem.cleanIn g) : PosOnly s (s.scrubRegion g) := by
  by_cases hs : s.regionState g = .inService
  · rw [scrubRegion_of_inService hs, scrubRange_of_noBad (l := .region 0) rfl (badIn_of_cleanIn h _), foldl_scrubCore_of_noBad hcore hacc]
    exact .sramNext s g
  · rw [scrubRegion_of_away hs]
    exact .refl s

theorem foldl_scrubRegion_of_cleanIn {l : List RegionId} (h : ∀ g ∈ l, s.regionMem.cleanIn g) : PosOnly s (l.foldl State.scrubRegion s) := by
  induction l generalizing s with
  | nil => exact .refl s
  | cons g l ih =>
    have hhead := scrubRegion_of_cleanIn hcore hacc (h g List.mem_cons_self)
    refine hhead.trans (ih ?_ ?_ fun g' hg' => ?_)
    · rw [hhead.frame]; exact hcore
    · rw [hhead.frame]; exact hacc
    · rw [hhead.frame]; exact h g' (List.mem_cons_of_mem g hg')

end

/-! ## A region whose range holds one correctable block -/

/-- A corrected block of SRAM is counted for its part, and logged. -/
theorem noteBlock_corrected_sram {l : Loc} (hl : l.sram) (s : State) (d : W256) (i : Nat) :
    ∃ key a, s.noteBlock l (.corrected d i)
      = (s.updCnt (l.home.getD 0) (fun r => { r with ceSram := r.ceSram + 1 })).logLimited key 1 a := by
  have hsram : (l.source.1 != 3) = true := bne_iff_ne.2 hl
  simp only [State.noteBlock, State.noteBlockBy, hsram, if_true]
  exact ⟨_, _, rfl⟩

/-- A correctable block of region memory: counted, logged, mended. -/
theorem scrubBlock_region_corrected {s : State} {g : RegionId} {b i : Nat} {d : W256} (hb : b / 1048576 = g.val)
    (h : s.regionMem.check b = .corrected d i) :
    let t := s.scrubBlock (.region 0) b
    t.regionMem = s.regionMem.putBlock b (leBytes 32 d.toNat) ∧ t.regions[g].cnt.ceSram = s.regions[g].cnt.ceSram + 1
      ∧ t.coreStore = s.coreStore ∧ t.accMem = s.accMem := by
  have hhome : regionN (32 * b / regionBytes) = g := Fin.ext (by
    have := g.isLt
    simp only [regionN, regionBytes]
    omega)
  obtain ⟨key, a, hnote⟩ := noteBlock_corrected_sram (l := .region (32 * b)) (fun e => nomatch e) s d i
  have hmend : s.scrubBlock (.region 0) b = { s.noteBlock (.region (32 * b)) (.corrected d i) with regionMem := s.regionMem.mend b } := by
    simp only [State.scrubBlock, State.ramOf, h]
    rfl
  dsimp only
  rw [hmend, hnote, logLimited_frame]
  refine ⟨by simp only [Ram.mend, h], ?_, rfl, rfl⟩
  simp only [Loc.home, Option.getD_some, hhome]
  exact congrArg (fun r : Region => r.cnt.ceSram) (updRegion_self s g _)

section
variable {s : State} (hcore : s.coreStore.bad = []) (hacc : s.accMem.bad = [])
include hcore hacc

/-- A region's scrub that passes the one bad block, which is correctable. -/
theorem scrubRegion_mends {g : RegionId} {b d i : Nat} {m : BitVec 288} (hs : s.regionState g = .inService) (hbad : s.regionMem.bad = [(b, m)])
    (hlo : (g.val * regionBytes + 2048 * s.regions[g].sramPos % regionBytes) / 32 ≤ b)
    (hhi : b < (g.val * regionBytes + 2048 * s.regions[g].sramPos % regionBytes) / 32 + 64)
    (h : s.regionMem.check b = .corrected (BitVec.ofNat 256 d) i) :
    let t := s.scrubRegion g
    t.regionMem = s.regionMem.putBlock b (leBytes 32 (BitVec.ofNat 256 d).toNat)
      ∧ t.regions[g].cnt.ceSram = s.regions[g].cnt.ceSram + 1 ∧ t.coreStore = s.coreStore ∧ t.accMem = s.accMem := by
  have hregion : b / 1048576 = g.val := by
    simp only [regionBytes] at hlo hhi
    omega
  have hin : s.regionMem.badIn (g.val * regionBytes + scrubBytes * s.regions[g].sramPos % regionBytes) scrubBytes = [b] := by
    simp only [Ram.badIn, hbad, List.map_cons, List.map_nil, List.filter_cons, List.filter_nil]
    rw [if_pos]
    simp only [scrubBytes, regionBytes, Bool.and_eq_true] at hlo hhi ⊢
    exact ⟨decide_eq_true hlo, decide_eq_true (by omega)⟩
  obtain ⟨hmem, hcnt, hcs, hac⟩ := scrubBlock_region_corrected hregion h
  have hrange : s.scrubRange (.region 0) (g.val * regionBytes + scrubBytes * s.regions[g].sramPos % regionBytes) scrubBytes
      = s.scrubBlock (.region 0) b := by
    simp only [State.scrubRange, State.ramOf, hin, List.foldl_cons, List.foldl_nil]
  dsimp only
  rw [scrubRegion_of_inService hs, hrange, foldl_scrubCore_of_noBad (by rw [hcs, hcore]) (by rw [hac, hacc])]
  refine ⟨hmem, ?_, hcs, hac⟩
  rw [updRegion_self, ← hcnt]
  rfl

/-- A slot that meets one bad block, in region g's range and correctable. -/
theorem foldl_scrubRegion_mends {g : RegionId} {b d i : Nat} {m : BitVec 288} (hs : s.regionState g = .inService)
    (hbad : s.regionMem.bad = [(b, m)]) (hlo : (g.val * regionBytes + 2048 * s.regions[g].sramPos % regionBytes) / 32 ≤ b)
    (hhi : b < (g.val * regionBytes + 2048 * s.regions[g].sramPos % regionBytes) / 32 + 64)
    (h : s.regionMem.check b = .corrected (BitVec.ofNat 256 d) i) {l : List RegionId} (hl : l.Nodup) (hg : g ∈ l) :
    let t := l.foldl State.scrubRegion s
    t.regionMem = s.regionMem.putBlock b (leBytes 32 (BitVec.ofNat 256 d).toNat)
      ∧ t.regions[g].cnt.ceSram = s.regions[g].cnt.ceSram + 1 ∧ t.coreStore = s.coreStore ∧ t.accMem = s.accMem := by
  have hregion : b / 1048576 = g.val := by
    simp only [regionBytes] at hlo hhi
    omega
  obtain ⟨l1, l2, rfl⟩ := List.append_of_mem hg
  have hne : ∀ g' ∈ l1, s.regionMem.cleanIn g' := by
    intro g' hg' e he hv
    rw [hbad, List.mem_singleton] at he
    have : g' = g := Fin.ext (by rw [← hv, he, hregion])
    exact (List.disjoint_of_nodup_append hl) (this ▸ hg') List.mem_cons_self
  have hg1 : g ∉ l1 := fun hg1 => (List.disjoint_of_nodup_append hl) hg1 List.mem_cons_self
  have hu := foldl_scrubRegion_of_cleanIn hcore hacc hne
  have hpos := (foldl_scrubRegion_slotScrub (List.nodup_append.1 hl).1 s).pos g
  rw [if_neg fun hin => hg1 hin.1] at hpos
  rw [List.foldl_append, List.foldl_cons]
  generalize l1.foldl State.scrubRegion s = u at hu hpos
  obtain ⟨hc, ha, hr⟩ : u.coreStore = s.coreStore ∧ u.accMem = s.accMem ∧ u.regionMem = s.regionMem := by
    rw [hu.frame]
    exact ⟨rfl, rfl, rfl⟩
  obtain ⟨hmem, hcnt, hcs, hac⟩ := scrubRegion_mends (s := u) (g := g) (b := b) (d := d) (i := i) (m := m) (by rw [hc, hcore])
    (by rw [ha, hacc]) (by rw [hu.regionState, hs]) (by rw [hr, hbad]) (by rw [hpos]; exact hlo) (by rw [hpos]; exact hhi) (by rw [hr, h])
  have hclean : ∀ g' ∈ l2, (u.scrubRegion g).regionMem.cleanIn g' := by
    intro g' _ e he
    rw [hmem, hr] at he
    simp [Ram.putBlock, hbad] at he
  have ht := foldl_scrubRegion_of_cleanIn (by rw [hcs, hc, hcore]) (by rw [hac, ha, hacc]) hclean
  have hcntU : u.regions[g].cnt = s.regions[g].cnt := by rw [hu.region g]
  generalize l2.foldl State.scrubRegion (u.scrubRegion g) = t at ht
  dsimp only
  rw [ht.region g, ht.frame]
  exact ⟨by rw [hmem, hr], by rw [hcnt, hcntU], by rw [hcs, hc], by rw [hac, ha]⟩

end

/-! ## The slot -/

theorem exec_sramScrubSlot_awake {s : State} (h : s.pwr.current < 2) :
    exec .sramScrubSlot s = .next ((List.finRange 12).foldl State.scrubRegion s) := by
  show execSramScrubSlot s = _
  simp [execSramScrubSlot, State.scrubs, h]

theorem exec_sramScrubSlot_asleep {s : State} (h : ¬ s.pwr.current < 2) : exec .sramScrubSlot s = .next s := by
  show execSramScrubSlot s = _
  simp [execSramScrubSlot, State.scrubs, h]

end Sys2Proof.Machine
end

section
/-! PROOF. The stacks' scrub (15, R286; 18, R363; 21, R411). -/

namespace Sys2Proof.Machine

/-! ## A region's counts -/

/-- A region's counts are as they were. -/
def CntKept (g : RegionId) (s t : State) : Prop := t.regions[g].cnt = s.regions[g].cnt

namespace CntKept

variable {g : RegionId} {s t u : State}

theorem refl (s : State) : CntKept g s s := rfl

theorem trans (a : CntKept g s t) (b : CntKept g t u) : CntKept g s u := Eq.trans b a

theorem of_regions (h : t.regions = s.regions) : CntKept g s t := by simp only [CntKept, h]

theorem updRegion (s : State) (g' : RegionId) {f : Region → Region} (hf : ∀ r, (f r).cnt = r.cnt := by exact fun _ => rfl) :
    CntKept g s (s.updRegion g' f) := by
  unfold CntKept
  by_cases e : g = g'
  · subst e; rw [updRegion_self, hf]
  · rw [updRegion_other s e]

theorem logEv (s : State) (a : LogArgs) : CntKept g s (s.logEv a) := of_regions (by rw [logEv_frame])

theorem logLimited (s : State) (key max : Nat) (a : LogArgs) : CntKept g s (s.logLimited key max a) := of_regions (by rw [logLimited_frame])

theorem repairRow (s : State) (g' : RegionId) (addr : Nat) : CntKept g s (s.repairRow g' addr) := by
  unfold State.repairRow
  dsimp only
  split
  · exact refl s
  · split
    · refine (trans ?_ (updRegion _ g')).trans (logEv _ _)
      exact foldl_within refl trans (fun s b => of_regions (mendStacked_regions s b)) _ s
    · exact logEv _ _

theorem rowError (s : State) (g' : RegionId) (addr : Nat) : CntKept g s (s.rowError g' addr) := by
  unfold State.rowError
  dsimp only
  split
  · exact (updRegion s g').trans (repairRow ..)
  · exact updRegion s g'

end CntKept

/-- A corrected block of a stack is counted once for its region. -/
theorem noteBlock_corrected_ceHbm (s : State) {a : Nat} {g : RegionId} (h : regionN (a / stackSpan) = g) (d : W256) (i : Nat) :
    (s.noteBlock (.stacked a) (.corrected d i)).regions[g].cnt.ceHbm = s.regions[g].cnt.ceHbm + 1 := by
  obtain ⟨key, args, addr, hnote⟩ : ∃ key args addr, s.noteBlock (.stacked a) (.corrected d i)
      = ((s.updCnt g (fun r => { r with ceHbm := r.ceHbm + 1 })).logLimited key 1 args).rowError g addr := by
    subst h
    exact ⟨_, _, _, rfl⟩
  have hkept : CntKept g (s.updCnt g (fun r => { r with ceHbm := r.ceHbm + 1 })) (s.noteBlock (.stacked a) (.corrected d i)) := by
    rw [hnote]
    exact (CntKept.logLimited ..).trans (.rowError ..)
  rw [show _ = _ from hkept]
  exact congrArg (fun r : Region => r.cnt.ceHbm) (updRegion_self s g _)

/-! ## The pass -/

theorem Region.scrubNext_scrubPos (r : Region) : r.scrubNext.scrubPos = if r.scrubPos + 1 < stackBlocks r then r.scrubPos + 1 else 0 := by
  unfold Region.scrubNext
  split <;> rfl

theorem Region.scrubNext_cnt (r : Region) : r.scrubNext.cnt = r.cnt := by
  unfold Region.scrubNext
  split <;> rfl

theorem Region.scrubNext_writeback (r : Region) : r.scrubNext.writeback = r.writeback := by
  unfold Region.scrubNext
  split <;> rfl

theorem Noted.updRegion (s : State) (g : RegionId) (f : Region → Region) : Noted s (s.updRegion g f) := ⟨.updRegion s g f, .updRegion s g f⟩

theorem Noted.noteBlock (s : State) (l : Loc) (c : Checked) : Noted s (s.noteBlock l c) :=
  ⟨noteBlock_notes .., noteBlockBy_sameBytes s _ _ l c⟩

/-- The block that a stack's pass has come to. -/
def scrubBlockOf (s : State) (g : RegionId) : Nat := g.val * (stackSpan / 32) + s.regions[g].scrubPos

/-- What one scrub read leaves of a region, by what it does before the pass moves on. -/
structure ScrubReads (g : RegionId) (s t : State) : Prop where
  pos : t.regions[g].scrubPos = if s.regions[g].scrubPos + 1 < stackBlocks s.regions[g] then s.regions[g].scrubPos + 1 else 0
  noted : Noted s t

theorem ScrubReads.of_notes {g : RegionId} {s u : State} (hu : Noted s u) (hpos : u.regions[g].scrubPos = s.regions[g].scrubPos)
    (hpages : u.regions[g].pages2M = s.regions[g].pages2M) : ScrubReads g s (u.updRegion g Region.scrubNext) where
  pos := by rw [updRegion_self, Region.scrubNext_scrubPos, stackBlocks, stackBlocks, hpos, hpages]
  noted := hu.trans (.updRegion u g _)

section
variable {s : State} {g : RegionId}

theorem scrubRead_of_corrected {d : W256} {i : Nat} (h : s.stackedCheck (scrubBlockOf s g) = .corrected d i) :
    s.scrubRead g = ((s.noteBlock (.stacked (32 * scrubBlockOf s g)) (.corrected d i)).updRegion g
      (fun r => { r with writeback := some (scrubBlockOf s g) })).updRegion g Region.scrubNext := by
  unfold scrubBlockOf at h
  simp only [State.scrubRead, h]
  rfl

theorem scrubRead_corrected (hp : s.regions[g].scrubPos < stackSpan / 32) {d : W256} {i : Nat}
    (h : s.stackedCheck (scrubBlockOf s g) = .corrected d i) :
    ScrubReads g s (s.scrubRead g) ∧ (s.scrubRead g).regions[g].writeback = some (scrubBlockOf s g)
      ∧ (s.scrubRead g).regions[g].cnt.ceHbm = s.regions[g].cnt.ceHbm + 1 := by
  have hhome : regionN (32 * scrubBlockOf s g / stackSpan) = g := Fin.ext (by
    have := g.isLt
    simp only [regionN, scrubBlockOf, stackSpan] at hp ⊢
    omega)
  have hregion := (noteBlock_regionNotes s (.stacked (32 * scrubBlockOf s g)) (.corrected d i)).region g
  have hce := noteBlock_corrected_ceHbm s hhome d i
  have hnoted := (Noted.noteBlock s (.stacked (32 * scrubBlockOf s g)) (.corrected d i)).trans
    (.updRegion _ g (fun r => { r with writeback := some (scrubBlockOf s g) }))
  rw [scrubRead_of_corrected h]
  generalize s.noteBlock (.stacked (32 * scrubBlockOf s g)) (.corrected d i) = u at hregion hce hnoted
  refine ⟨.of_notes hnoted ?_ ?_, ?_, ?_⟩
  · rw [updRegion_self, hregion]
  · rw [updRegion_self, hregion]
  · rw [updRegion_self, Region.scrubNext_writeback, updRegion_self]
  · rw [updRegion_self, Region.scrubNext_cnt, updRegion_self]
    exact hce

theorem scrubRead_other (hw : s.regions[g].writeback = none) (h : ∀ d i, s.stackedCheck (scrubBlockOf s g) ≠ .corrected d i) :
    ScrubReads g s (s.scrubRead g) ∧ (s.scrubRead g).regions[g].writeback = none := by
  obtain ⟨u, hu, hregion, ht⟩ : ∃ u, Noted s u ∧ RegionNotes s u ∧ s.scrubRead g = u.updRegion g Region.scrubNext := by
    unfold scrubBlockOf at h
    unfold State.scrubRead
    dsimp only
    split
    · exact absurd ‹_› (h _ _)
    · exact ⟨_, Noted.noteBlock .., noteBlock_regionNotes .., rfl⟩
    · exact ⟨s, .refl s, .refl s, rfl⟩
  rw [ht]
  refine ⟨.of_notes hu (by rw [hregion.region g]) (by rw [hregion.region g]), ?_⟩
  rw [updRegion_self, Region.scrubNext_writeback, hregion.region g]
  exact hw

theorem exec_stackScrubRead (ha : s.pwr.current < 2) (hs : s.regionState g = .inService) (hw : s.regions[g].writeback = none) :
    exec (.stackScrubRead g) s = .next (s.scrubRead g) := by
  show execStackScrubRead g s = _
  rw [execStackScrubRead, if_pos]
  simp only [State.scrubs, ha, hs, hw, decide_true, beq_self_eq_true, Option.isNone_none, Bool.and_self]

/-! ## The write-back -/

theorem exec_scrubWriteback {b : Nat} (ha : s.pwr.current < 2) (hs : s.regionState g = .inService) (hw : s.regions[g].writeback = some b) :
    exec (.scrubWriteback g) s = .next ((s.mendStacked b).updRegion g (fun r => { r with writeback := none })) := by
  show execScrubWriteback g s = _
  simp only [execScrubWriteback, State.scrubs, ha, hs, hw, decide_true, beq_self_eq_true, Bool.and_self, if_true]

theorem mendStacked_frame (s : State) (b : Nat) : s.mendStacked b = { s with stacked := (s.mendStacked b).stacked } := by
  unfold State.mendStacked
  repeat' split
  all_goals rfl

theorem mendStacked_of_corrected {b i : Nat} {d : W256} (ht : s.tableBlock b = none) (h : s.stackedCheck b = .corrected d i) :
    (s.mendStacked b).stacked = s.stacked.putBlock b (leBytes 32 d.toNat) := by
  simp only [State.mendStacked, h, ht]

theorem mendStacked_of_other {b : Nat} (h : ∀ d i, s.stackedCheck b ≠ .corrected d i) : s.mendStacked b = s := by
  unfold State.mendStacked
  split
  · exact absurd ‹_› (h _ _)
  · rfl

end

end Sys2Proof.Machine
end

section
/-! PROOF. The care of flash: an erase block's data moved to a fresh one (15, R290, R291, R294; log 147). -/

namespace Sys2Proof.Machine

variable {f : Flash}

/-! ## One unit programmed -/

theorem findBelow_isSome {p : Nat → Bool} {n i : Nat} (hi : i < n) (hp : p i = true) : (findBelow p n).isSome = true := by
  rw [findBelow, List.find?_isSome]
  exact ⟨i, List.mem_range.2 hi, hp⟩

/-- A list of entries leaves a number below its length, or that length, without one. -/
theorem exists_unlisted {α : Type} (l : List (Nat × α)) : ∃ i < l.length + 1, hasKey l i = false := by
  by_contra hnone
  have hall : ∀ i < l.length + 1, hasKey l i = true := fun i hi => Bool.of_not_eq_false fun e => hnone ⟨i, hi, e⟩
  have hsub : Finset.range (l.length + 1) ⊆ (l.map (·.1)).toFinset := by
    intro i hi
    have hk := hall i (Finset.mem_range.1 hi)
    rw [hasKey, Option.isSome_iff_exists] at hk
    obtain ⟨v, hv⟩ := hk
    exact List.mem_toFinset.2 (List.mem_map_of_mem (lookup_mem hv))
  have hle := (Finset.card_le_card hsub).trans (List.toFinset_card_le _)
  simp at hle

/-- A block never opened is the fresh one while there are some. -/
theorem hasKey_freshBlock (h : f.cycles.length < eraseBlocks) : hasKey f.cycles f.freshBlock = false := by
  obtain ⟨i, hi, hk⟩ := exists_unlisted f.cycles
  have hsome := findBelow_isSome (p := fun b => !hasKey f.cycles b) (n := min (f.cycles.length + 1) eraseBlocks) (i := i) (by omega)
    (by simp [hk])
  unfold Flash.freshBlock
  cases hb : findBelow (fun b => !hasKey f.cycles b) (min (f.cycles.length + 1) eraseBlocks) with
  | none => simp [hb] at hsome
  | some b =>
    have := List.find?_some hb
    simpa using this

/-- The block being filled, as one unit finds it: the open one while it has room, else a fresh one. -/
def Flash.ready (f : Flash) : Flash :=
  match f.opened with
  | some (_, n) => if n < eraseUnits then f else f.openFresh
  | none => f.openFresh

theorem Flash.ready_opened (f : Flash) : ∃ b n, f.ready.opened = some (b, n) := by
  unfold Flash.ready
  split
  · split
    · exact ⟨_, _, ‹_›⟩
    · exact ⟨_, _, rfl⟩
  · exact ⟨_, _, rfl⟩

theorem Flash.program_eq {key b n : Nat} (h : f.ready.opened = some (b, n)) : f.program key
    = { f.ready with mapped := insertAt f.ready.mapped key b, opened := some (b, n + 1), mediaWr := f.ready.mediaWr + 1 } := by
  show (match f.ready.opened with
    | some (b, n) => { f.ready with mapped := insertAt f.ready.mapped key b, opened := some (b, n + 1), mediaWr := f.ready.mediaWr + 1 }
    | none => f.ready) = _
  rw [h]

/-! ## What programming may touch -/

/-- What programming units may touch, with rising keys of the counts of reads kept. -/
structure Programs (f g : Flash) : Prop where
  frame : g = { f with reads := g.reads, mapped := g.mapped, cycles := g.cycles, opened := g.opened, mediaWr := g.mediaWr }
  reads : sortedKeys f.reads = true → sortedKeys g.reads = true

namespace Programs

variable {f g h : Flash}

theorem refl (f : Flash) : Programs f f := ⟨rfl, id⟩

theorem trans (a : Programs f g) (b : Programs g h) : Programs f h := ⟨by rw [b.frame, a.frame], fun w => b.reads (a.reads w)⟩

theorem ready (f : Flash) : Programs f f.ready := by
  unfold Flash.ready
  repeat' split
  · exact refl f
  all_goals exact ⟨rfl, sortedKeys_eraseAt _⟩

theorem program (f : Flash) (key : Nat) : Programs f (f.program key) := by
  obtain ⟨b, n, hb⟩ := f.ready_opened
  rw [Flash.program_eq hb]
  exact (ready f).trans ⟨rfl, id⟩

theorem moveBlock (f : Flash) (b : Nat) : Programs f (f.moveBlock b) := by
  have hfold (l : List Nat) (g : Flash) : Programs g (l.foldl Flash.program g) := by
    induction l generalizing g with
    | nil => exact refl g
    | cons k l ih => exact (program g k).trans (ih _)
  have hclose (o : Option (Nat × Nat)) : Programs f { f with opened := o } := ⟨rfl, id⟩
  exact (hclose _).trans (hfold _ _)

end Programs

theorem Flash.ready_mediaWr (f : Flash) : f.ready.mediaWr = f.mediaWr := by
  unfold Flash.ready
  repeat' split
  all_goals rfl

theorem Flash.ready_mapped (f : Flash) : f.ready.mapped = f.mapped := by
  unfold Flash.ready
  repeat' split
  all_goals rfl

theorem Flash.program_mediaWr (f : Flash) (key : Nat) : (f.program key).mediaWr = f.mediaWr + 1 := by
  obtain ⟨b, n, hb⟩ := f.ready_opened
  rw [Flash.program_eq hb, ← f.ready_mediaWr]

theorem Flash.foldl_program_mediaWr (l : List Nat) (f : Flash) : (l.foldl Flash.program f).mediaWr = f.mediaWr + BitVec.ofNat 64 l.length := by
  induction l generalizing f with
  | nil => simp
  | cons k l ih =>
    rw [List.foldl_cons, ih, Flash.program_mediaWr, List.length_cons, BitVec.add_assoc, Nat.add_comm, BitVec.ofNat_add]
    rfl

/-- A block moved is programmed unit by unit. -/
theorem Flash.moveBlock_mediaWr (f : Flash) (b : Nat) :
    (f.moveBlock b).mediaWr = f.mediaWr + BitVec.ofNat 64 (f.mapped.filter (fun e => e.2 == b)).length := by
  unfold Flash.moveBlock
  rw [Flash.foldl_program_mediaWr, List.length_map]

/-! ## Nothing is left in the block -/

/-- With `room` units still to program and `old` the block they come from: the open block is another one with room for them, or a fresh
block can be opened that is another one. -/
structure Movable (old room : Nat) (f : Flash) : Prop where
  opened : ∀ b n, f.opened = some (b, n) → b ≠ old
  known : hasKey f.cycles old = true
  fits : (∃ b n, f.opened = some (b, n) ∧ n + room ≤ eraseUnits) ∨ (f.cycles.length < eraseBlocks ∧ room ≤ eraseUnits)

theorem hasKey_insertAt {α : Type} {l : List (Nat × α)} {i j : Nat} (v : α) (h : hasKey l i = true) : hasKey (insertAt l j v) i = true := by
  unfold hasKey at *
  by_cases e : i = j
  · subst e; rw [lookup_insertAt_self]; rfl
  · rw [lookup_insertAt_ne _ _ e, h]

/-- A fresh block opened is not the old one, and holds all that is to come. -/
theorem Movable.openFresh {old room : Nat} (h : Movable old room f) (hc : f.cycles.length < eraseBlocks) (hr : room ≤ eraseUnits) :
    Movable old room f.openFresh ∧ ∃ b n, f.openFresh.opened = some (b, n) ∧ n + room ≤ eraseUnits := by
  have hne : f.freshBlock ≠ old := fun e => by
    have := hasKey_freshBlock hc
    rw [e, h.known] at this
    cases this
  have hopen : f.openFresh.opened = some (f.freshBlock, 0) := rfl
  have hfits : ∃ b n, f.openFresh.opened = some (b, n) ∧ n + room ≤ eraseUnits := ⟨_, 0, hopen, by omega⟩
  refine ⟨⟨fun b n hb => ?_, hasKey_insertAt _ h.known, .inl hfits⟩, hfits⟩
  rw [hopen] at hb
  cases hb
  exact hne

theorem Movable.ready {old room : Nat} (h : Movable old (room + 1) f) :
    Movable old (room + 1) f.ready ∧ ∃ b n, f.ready.opened = some (b, n) ∧ (n + (room + 1) ≤ eraseUnits
      ∨ (f.ready.cycles.length < eraseBlocks ∧ room + 1 ≤ eraseUnits)) := by
  unfold Flash.ready
  split
  · rename_i b n hb
    split
    · refine ⟨h, b, n, hb, ?_⟩
      rcases h.fits with ⟨b', n', hb', hn'⟩ | hf
      · rw [hb] at hb'
        cases hb'
        exact .inl hn'
      · exact .inr hf
    · rename_i hfull
      rcases h.fits with ⟨b', n', hb', hn'⟩ | ⟨hc, hr⟩
      · rw [hb] at hb'
        cases hb'
        omega
      · obtain ⟨hm, b', n', hb', hn'⟩ := h.openFresh hc hr
        exact ⟨hm, b', n', hb', .inl hn'⟩
  · rename_i hnone
    rcases h.fits with ⟨b', n', hb', _⟩ | ⟨hc, hr⟩
    · rw [hnone] at hb'
      cases hb'
    · obtain ⟨hm, b', n', hb', hn'⟩ := h.openFresh hc hr
      exact ⟨hm, b', n', hb', .inl hn'⟩

/-- A unit programmed is out of the old block, and no other comes into it. -/
theorem Movable.program {old room key : Nat} (h : Movable old (room + 1) f) : Movable old room (f.program key)
    ∧ lookup (f.program key).mapped key ≠ some old ∧ ∀ k ≠ key, lookup (f.program key).mapped k = lookup f.mapped k := by
  obtain ⟨hm, b, n, hb, hfits⟩ := h.ready
  have hne := hm.opened b n hb
  rw [Flash.program_eq hb]
  refine ⟨⟨fun b' n' hb' => ?_, hm.known, ?_⟩, ?_, fun k hk => ?_⟩
  · cases hb'
    exact hne
  · rcases hfits with hn | ⟨hc, hr⟩
    · exact .inl ⟨b, n + 1, rfl, by omega⟩
    · exact .inr ⟨hc, by omega⟩
  · rw [lookup_insertAt_self]
    exact fun e => hne (Option.some.inj e)
  · rw [lookup_insertAt_ne _ _ hk, f.ready_mapped]

/-- With every unit of the old block among the keys still to program, none is left in it. -/
theorem foldl_program_leaves_block {old : Nat} (l : List Nat) (h : Movable old l.length f)
    (hl : ∀ k, lookup f.mapped k = some old → k ∈ l) (k : Nat) : lookup (l.foldl Flash.program f).mapped k ≠ some old := by
  induction l generalizing f with
  | nil => exact fun e => nomatch hl k e
  | cons key l ih =>
    obtain ⟨hm, hkey, hother⟩ := h.program (key := key)
    refine ih hm fun k hk => ?_
    have hne : k ≠ key := fun e => hkey (e ▸ hk)
    rw [hother k hne] at hk
    exact (List.mem_cons.1 (hl k hk)).resolve_left hne

theorem moveBlock_leaves_block {old : Nat} (hk : hasKey f.cycles old = true) (hc : f.cycles.length < eraseBlocks)
    (hn : (f.mapped.filter (fun e => e.2 == old)).length ≤ eraseUnits) (k : Nat) : lookup (f.moveBlock old).mapped k ≠ some old := by
  have h : Movable old (f.mapped.filter (fun e => e.2 == old)).length
      { f with opened := if f.opened.any (fun o => o.1 == old) then none else f.opened } := by
    refine ⟨fun b n hb => ?_, hk, .inr ⟨hc, hn⟩⟩
    dsimp only at hb
    split at hb
    · cases hb
    · rename_i hany
      simpa [hb] using hany
  rw [← List.length_map (f := Prod.fst)] at h
  exact foldl_program_leaves_block _ h (fun k hk => List.mem_map.2 ⟨(k, old), List.mem_filter.2 ⟨lookup_mem hk, by simp⟩, rfl⟩) k

/-! ## The rows -/

section
variable {s : State}

theorem exec_flashReadDisturb_due {block : Nat} (h : s.fls.readLimitK * 1000 ≤ s.fls.readsOf block) :
    exec (.flashReadDisturb block) s = .next { s with fls := { s.fls.moveBlock block with
      reads := eraseAt (s.fls.moveBlock block).reads block, reloc := (s.fls.moveBlock block).reloc + 1 } } := by
  show execFlashReadDisturb block s = _
  rw [execFlashReadDisturb, if_pos h]
  rfl

theorem exec_flashReadDisturb_early {block : Nat} (h : s.fls.readsOf block < s.fls.readLimitK * 1000) :
    exec (.flashReadDisturb block) s = .next s := by
  show execFlashReadDisturb block s = _
  rw [execFlashReadDisturb, if_neg (by omega)]

theorem exec_flashWearLevel_due {b c : Nat} (hl : s.fls.leastWorn = some (b, c)) (h : ∃ e ∈ s.fls.cycles, c + 150 < e.2) :
    exec .flashWearLevel s = .next { s with fls := { s.fls.moveBlock b with wear := (s.fls.moveBlock b).wear + 1 } } := by
  have hany : s.fls.cycles.any (fun e => c + 150 < e.2) = true := by simpa using h
  show execFlashWearLevel s = _
  simp only [execFlashWearLevel, hl, hany, if_true]
  rfl

theorem exec_flashWearLevel_even {b c : Nat} (hl : s.fls.leastWorn = some (b, c)) (h : ∀ e ∈ s.fls.cycles, e.2 ≤ c + 150) :
    exec .flashWearLevel s = .next s := by
  have hany : s.fls.cycles.any (fun e => c + 150 < e.2) = false := by simpa using h
  show execFlashWearLevel s = _
  simp only [execFlashWearLevel, hl, hany, Bool.false_eq_true, if_false]

theorem exec_flashWearLevel_empty (hl : s.fls.leastWorn = none) : exec .flashWearLevel s = .next s := by
  show execFlashWearLevel s = _
  simp only [execFlashWearLevel, hl]

end

/-- Settles O49: the scrubbers by their ranges, the stacks' pass by the block it reads, and the moves of flash by their bounds. -/
theorem scrubAndFlashCare : Obligations.ScrubAndFlashCare := by
  unfold Obligations.ScrubAndFlashCare
  refine ⟨fun s => ?sram, fun s g ha hs hw hp => ?read, fun s g b ha hs hw => ?back, fun s => ?flash⟩
  case sram =>
    by_cases ha : s.pwr.current < 2
    · refine ⟨_, exec_sramScrubSlot_awake ha, ?_⟩
      have hslot := foldl_scrubRegion_slotScrub (List.nodup_finRange 12) s
      have hclean (hreg : s.regionMem.bad = []) : ∀ g ∈ List.finRange 12, s.regionMem.cleanIn g := fun g _ e he => by
        rw [hreg] at he
        cases he
      have hquiet (hcore : s.coreStore.bad = []) (hacc : s.accMem.bad = []) (hreg : s.regionMem.bad = []) :=
        foldl_scrubRegion_of_cleanIn hcore hacc (hclean hreg)
      have hmends (hcore : s.coreStore.bad = []) (hacc : s.accMem.bad = []) (g : RegionId) (b d i : Nat) (m : BitVec 288)
          (hs : s.regionState g = .inService) (hbad : s.regionMem.bad = [(b, m)]) hlo hhi h :=
        foldl_scrubRegion_mends (d := d) (i := i) hcore hacc hs hbad hlo hhi h (List.nodup_finRange 12) (List.mem_finRange g)
      generalize (List.finRange 12).foldl State.scrubRegion s = t at *
      refine ⟨by rw [hslot.frame], by rw [hslot.frame], fun h => absurd ha (Nat.not_lt.2 h), fun g => ?_,
        fun _ hcore hacc => ⟨fun hreg => ⟨(hquiet hcore hacc hreg).region, (hquiet hcore hacc hreg).frame⟩, hmends hcore hacc⟩⟩
      rw [hslot.pos g]
      simp [ha]
    · exact ⟨s, exec_sramScrubSlot_asleep ha, rfl, rfl, fun _ => rfl, fun g => by simp [ha], fun h => absurd h ha⟩
  case read =>
    refine ⟨_, exec_stackScrubRead ha hs hw, ?_⟩
    by_cases h : ∃ d i, s.stackedCheck (scrubBlockOf s g) = .corrected d i
    · obtain ⟨d, i, h⟩ := h
      obtain ⟨hread, hback, hce⟩ := scrubRead_corrected hp h
      exact ⟨hread.pos, fun _ => ⟨hback, hce⟩, fun hno => absurd h (hno d i), hread.noted.sameMemory⟩
    · have hno : ∀ d i, s.stackedCheck (scrubBlockOf s g) ≠ .corrected d i := fun d i e => h ⟨d, i, e⟩
      obtain ⟨hread, hback⟩ := scrubRead_other hw hno
      exact ⟨hread.pos, fun hyes => absurd hyes h, fun _ => hback, hread.noted.sameMemory⟩
  case back =>
    refine ⟨_, exec_scrubWriteback ha hs hw, fun d i ht h => mendStacked_of_corrected ht h, fun h => by rw [mendStacked_of_other h]; rfl,
      ((mendStacked_sameBytes s b).trans (.updRegion _ g _)).sameStacked, ?_, fun g' hg => ?_, by rw [mendStacked_frame]; rfl⟩
    · rw [updRegion_self, mendStacked_frame]
    · rw [updRegion_other _ hg, mendStacked_frame]
  case flash =>
    intro moved
    have hmoved {t : State} {block : Nat} (hm : t.fls.mapped = (s.fls.moveBlock block).mapped)
        (hw : t.fls.mediaWr = (s.fls.moveBlock block).mediaWr) : moved t block := by
      refine ⟨hw.trans (Flash.moveBlock_mediaWr s.fls block), fun _ hk hc hn => ?_⟩
      rw [hm]
      exact moveBlock_leaves_block hk hc hn
    refine ⟨fun block => ⟨fun h => ?_, exec_flashReadDisturb_early⟩, fun b c hl => ⟨fun h => ?_, exec_flashWearLevel_even hl⟩,
      exec_flashWearLevel_empty, rfl⟩
    · have hmove := Programs.moveBlock s.fls block
      refine ⟨_, exec_flashReadDisturb_due h, hmoved rfl rfl, by rw [hmove.frame], rfl, fun hsort => ?_⟩
      exact congrArg (Option.getD · 0) (lookup_eraseAt_self block (hmove.reads hsort))
    · have hmove := Programs.moveBlock s.fls b
      exact ⟨_, exec_flashWearLevel_due hl h, hmoved rfl rfl, by rw [hmove.frame], rfl⟩

end Sys2Proof.Machine
end

section
/-! PROOF. Canonical memories: what keeps them so, for states, runs that may fail, acts and commands, and the operations that every meaning
is made of (15, R277; 18, R361). -/

namespace Sys2Proof.Machine

-- One proof after another: all proofs of these files at once take more memory than the check has.
set_option Elab.async false

/-- Every memory is in its canonical form. -/
def Canonical (s : State) : Prop := memoriesWf s = true

/-- An act that answers leaves canonical memories canonical. -/
structure CanonicalAct {α : Type} (a : Act α) : Prop where
  keeps : ∀ {s x t}, Canonical s → a.run s = .ok (x, t) → Canonical t

/-- The next state that a command answers, if it answers one, is canonical. -/
def CanonicalNext (o : Host.Outcome State Fault Refusal) : Prop := ∀ t, o = .next t → Canonical t

theorem CanonicalNext.next {s : State} (h : Canonical s) : CanonicalNext (.next s) := fun _ e => by cases e; exact h

/-! ## The parts of the form -/

theorem canonical_iff (s : State) : Canonical s ↔ s.coreStore.wf = true ∧ s.accMem.wf = true ∧ s.regionMem.wf = true ∧ s.stacked.wf = true
    ∧ savedWf s.pwr.ashRegion = true ∧ savedWf s.pwr.ashAcc = true ∧ spaceWf s.hostMem = true ∧ spaceWf s.fls.cells = true := by
  simp only [Canonical, memoriesWf, Bool.and_eq_true, and_assoc]

namespace Canonical

variable {s t : State}

theorem coreStore (h : Canonical s) : s.coreStore.wf = true := ((canonical_iff s).1 h).1
theorem accMem (h : Canonical s) : s.accMem.wf = true := ((canonical_iff s).1 h).2.1
theorem regionMem (h : Canonical s) : s.regionMem.wf = true := ((canonical_iff s).1 h).2.2.1
theorem stacked (h : Canonical s) : s.stacked.wf = true := ((canonical_iff s).1 h).2.2.2.1
theorem ashRegion (h : Canonical s) : savedWf s.pwr.ashRegion = true := ((canonical_iff s).1 h).2.2.2.2.1
theorem ashAcc (h : Canonical s) : savedWf s.pwr.ashAcc = true := ((canonical_iff s).1 h).2.2.2.2.2.1
theorem hostMem (h : Canonical s) : spaceWf s.hostMem = true := ((canonical_iff s).1 h).2.2.2.2.2.2.1
theorem cells (h : Canonical s) : spaceWf s.fls.cells = true := ((canonical_iff s).1 h).2.2.2.2.2.2.2

/-- Memories changed, each to a canonical one. -/
theorem of_memories (h : Canonical s) (hcore : s.coreStore.wf = true → t.coreStore.wf = true := by exact fun h => h)
    (hacc : s.accMem.wf = true → t.accMem.wf = true := by exact fun h => h)
    (hregion : s.regionMem.wf = true → t.regionMem.wf = true := by exact fun h => h)
    (hstacked : s.stacked.wf = true → t.stacked.wf = true := by exact fun h => h)
    (hashRegion : savedWf s.pwr.ashRegion = true → savedWf t.pwr.ashRegion = true := by exact fun h => h)
    (hashAcc : savedWf s.pwr.ashAcc = true → savedWf t.pwr.ashAcc = true := by exact fun h => h)
    (hhost : spaceWf s.hostMem = true → spaceWf t.hostMem = true := by exact fun h => h)
    (hcells : spaceWf s.fls.cells = true → spaceWf t.fls.cells = true := by exact fun h => h) : Canonical t :=
  (canonical_iff t).2 ⟨hcore h.coreStore, hacc h.accMem, hregion h.regionMem, hstacked h.stacked, hashRegion h.ashRegion, hashAcc h.ashAcc,
    hhost h.hostMem, hcells h.cells⟩

/-- Memories as they were: what else of the state changed does not matter. -/
theorem same (h : Canonical s) (hcore : t.coreStore = s.coreStore := by exact rfl) (hacc : t.accMem = s.accMem := by exact rfl)
    (hregion : t.regionMem = s.regionMem := by exact rfl) (hstacked : t.stacked = s.stacked := by exact rfl)
    (hashRegion : t.pwr.ashRegion = s.pwr.ashRegion := by exact rfl) (hashAcc : t.pwr.ashAcc = s.pwr.ashAcc := by exact rfl)
    (hhost : t.hostMem = s.hostMem := by exact rfl) (hcells : t.fls.cells = s.fls.cells := by exact rfl) : Canonical t := by
  rw [canonical_iff] at h ⊢
  rwa [hcore, hacc, hregion, hstacked, hashRegion, hashAcc, hhost, hcells]

/-- The power controller changed, but not what Ash keeps. -/
theorem updPwr (h : Canonical s) {f : Power → Power} (hr : (f s.pwr).ashRegion = s.pwr.ashRegion := by exact rfl)
    (ha : (f s.pwr).ashAcc = s.pwr.ashAcc := by exact rfl) : Canonical (s.updPwr f) := h.same (hashRegion := hr) (hashAcc := ha)

/-- Flash changed, but not its bytes. -/
theorem updFls (h : Canonical s) {f : Flash → Flash} (hc : (f s.fls).cells = s.fls.cells := by exact rfl) : Canonical (s.updFls f) :=
  h.same (hcells := hc)

theorem of_notes (h : Canonical s) (n : NotesOnly s t) : Canonical t := n.memories h

theorem ite {c : Prop} [Decidable c] (hs : Canonical s) (ht : Canonical t) : Canonical (if c then s else t) := by
  split
  · exact hs
  · exact ht

/-- A fold of steps that keep the form. -/
theorem foldl {β : Type} {f : State → β → State} {l : List β} (hf : ∀ s b, Canonical s → Canonical (f s b)) (h : Canonical s) :
    Canonical (l.foldl f s) := by
  induction l generalizing s with
  | nil => exact h
  | cons b l ih => exact ih (hf s b h)

end Canonical

theorem Answers.canonicalFoldlM {β : Type} {f : State → β → Except AccErr State} {l : List β} {s : State}
    (hf : ∀ s b, Canonical s → Answers Canonical (f s b)) (h : Canonical s) : Answers Canonical (l.foldlM f s) := by
  induction l generalizing s with
  | nil => exact .ok h
  | cons b l ih => rw [List.foldlM_cons]; exact .bind (hf s b h) fun t ht => ih ht

/-! ## Acts -/

namespace CanonicalAct

variable {α β : Type}

theorem of_same {a : Act α} (h : ∀ {s x t}, a.run s = .ok (x, t) → t = s) : CanonicalAct a := ⟨fun hs e => h e ▸ hs⟩

theorem pure {x : α} : CanonicalAct (Pure.pure x : Act α) := of_same fun h => (Act.of_pure h).2
theorem get : CanonicalAct (MonadState.get : Act State) := of_same fun h => (Act.of_get h).2
theorem fail {n : Nat} : CanonicalAct (Act.fail n : Act α) := ⟨fun _ h => (Act.of_fail h).elim⟩
theorem need {b : Bool} {n : Nat} : CanonicalAct (Act.need b n) := of_same fun h => (Act.of_need h).2
theorem lift {e : Except AccErr α} : CanonicalAct (Act.lift e) := of_same fun h => (Act.of_lift h).2

theorem modify {f : State → State} (hf : ∀ s, Canonical s → Canonical (f s)) : CanonicalAct (modify f : Act PUnit) :=
  ⟨fun hs h => Act.of_modify h ▸ hf _ hs⟩

theorem bind {a : Act α} {f : α → Act β} (ha : CanonicalAct a) (hf : ∀ x, CanonicalAct (f x)) : CanonicalAct (a >>= f) := ⟨fun hs h => by
  obtain ⟨x, u, hx, h⟩ := Act.of_bind h
  exact (hf x).keeps (ha.keeps hs hx) h⟩

/-- An act by its runs. -/
theorem of_run {a : Act α} (h : ∀ s, Canonical s → Answers (fun r => Canonical r.2) (a.run s)) : CanonicalAct a :=
  ⟨fun {s x t} hs e => h s hs (x, t) e⟩

theorem map {a : Act α} {f : α → β} (ha : CanonicalAct a) : CanonicalAct (f <$> a) := bind ha fun _ => pure

theorem forIn {l : List β} {r : α} {f : β → α → Act (ForInStep α)} (hf : ∀ b r, CanonicalAct (f b r)) : CanonicalAct (forIn l r f) :=
  ⟨fun hs h => Act.forIn_keeps (fun b _ r _ _ _ hs h => (hf b r).keeps hs h) hs h⟩

theorem mapM {f : β → Act α} {l : List β} (hf : ∀ b, CanonicalAct (f b)) : CanonicalAct (l.mapM f) := by
  induction l with
  | nil => exact pure
  | cons b l ih => rw [List.mapM_cons]; exact bind (hf b) fun _ => bind ih fun _ => pure

theorem foldlM {f : α → β → Act α} {l : List β} {a : α} (hf : ∀ a b, CanonicalAct (f a b)) : CanonicalAct (l.foldlM f a) := by
  induction l generalizing a with
  | nil => exact pure
  | cons b l ih => rw [List.foldlM_cons]; exact bind (hf a b) fun _ => ih

/-- A run whose value and state a checked computation goes on with. -/
theorem answers {a : Act α} (ha : CanonicalAct a) {s : State} (hs : Canonical s) : Answers (fun r => Canonical r.2) (a.run s) :=
  fun _ h => ha.keeps hs h

end CanonicalAct

/-! ## Notes, and writes of the tiers -/

namespace Canonical

variable {s t : State}

theorem logEv (h : Canonical s) {a : LogArgs} : Canonical (s.logEv a) := h.of_notes (.logEv s a)
theorem logLimited (h : Canonical s) {key max : Nat} {a : LogArgs} : Canonical (s.logLimited key max a) := h.of_notes (.logLimited s key max a)
theorem noteBlockBy (h : Canonical s) {src unit : Nat} {l : Loc} {c : Checked} : Canonical (s.noteBlockBy src unit l c) :=
  h.of_notes (noteBlockBy_notes ..)
theorem noteBlock (h : Canonical s) {l : Loc} {c : Checked} : Canonical (s.noteBlock l c) := h.of_notes (noteBlock_notes ..)
theorem noteRead (h : Canonical s) {l : Loc} {len : Nat} : Canonical (s.noteRead l len) := h.of_notes (noteRead_notes ..)
theorem noteErr (h : Canonical s) {n : ErrNote} : Canonical (s.noteErr n) := h.of_notes (noteErr_notes ..)
theorem noteVirt (h : Canonical s) {g : Option RegionId} {ctx va len : Nat} : Canonical (s.noteVirt g ctx va len) :=
  h.of_notes (noteVirt_notes ..)
theorem mendStacked (h : Canonical s) {b : Nat} : Canonical (s.mendStacked b) := h.of_notes (mendStacked_notes s b)

theorem putRam (h : Canonical s) {l : Loc} {m : Ram} (hm : m.wf = true) : Canonical (s.putRam l m) := putRam_wf h l hm
theorem writeLoc (h : Canonical s) {l : Loc} {bs : List Byte} : Answers Canonical (s.writeLoc l bs) := fun _ e => writeLoc_wf h e
theorem writePieces (h : Canonical s) {l : Loc} {ps : List (Nat × List Byte)} : Answers Canonical (s.writePieces l ps) :=
  fun _ e => writePieces_wf h e
theorem writeAll (h : Canonical s) {ws : List (Loc × List Byte)} : Answers Canonical (s.writeAll ws) := fun _ e => writeAll_wf h e
theorem writeVirt (h : Canonical s) {g : Option RegionId} {ctx va : Nat} {bs : List Byte} : Answers Canonical (s.writeVirt g ctx va bs) :=
  fun _ e => writeVirt_wf h e

end Canonical

end Sys2Proof.Machine
end

section
/-! PROOF. Canonical memories: the shared operations, instruction words, kernel slots and operands (03, 04, 05). -/

namespace Sys2Proof.Machine

set_option Elab.async false

variable {s : State}

theorem Canonical.reset : Canonical State.reset := reset_memoriesWf

theorem Canonical.updCore (hs : Canonical s) {c : CoreId} {f : Core → Core} : Canonical (s.updCore c f) := .same hs

theorem Canonical.updRegion (hs : Canonical s) {g : RegionId} {f : Region → Region} : Canonical (s.updRegion g f) := .same hs

theorem Canonical.updSlot (hs : Canonical s) {c : CoreId} {k : KsId} {f : KSlot → KSlot} : Canonical (s.updSlot c k f) := .updCore hs

theorem Canonical.updCnt (hs : Canonical s) {g : RegionId} {f : RegionCnt → RegionCnt} : Canonical (s.updCnt g f) := .updRegion hs

theorem Canonical.updSeq (hs : Canonical s) {i : Nat} {f : Seq → Seq} : Canonical (s.updSeq i f) := .same hs

theorem Canonical.updCoil (hs : Canonical s) {i : Nat} {f : Coil → Coil} : Canonical (s.updCoil i f) := .same hs

theorem Canonical.updQueue (hs : Canonical s) {q : Nat} {f : Queue → Queue} : Canonical (s.updQueue q f) := .same hs

theorem Canonical.updCmd (hs : Canonical s) {q n : Nat} {f : Cmd → Cmd} : Canonical (s.updCmd q n f) := .same hs

theorem Canonical.updPart (hs : Canonical s) {p : Part} {f : EpochEntry → EpochEntry} : Canonical (s.updPart p f) := .same hs

theorem Canonical.updHif (hs : Canonical s) {h : HostPort} {f : Hif → Hif} : Canonical (s.updHif h f) := .same hs

theorem Canonical.msix (hs : Canonical s) {h : HostPort} {vec : Nat} {ctx : Option Nat} : Canonical (s.msix h vec ctx) := .updHif hs

theorem Canonical.portEvent (hs : Canonical s) {h : HostPort} {b : Fin 4} : Canonical (s.portEvent h b) := by
  unfold State.portEvent
  dsimp only
  split
  · exact .msix (.updHif hs)
  · exact .updHif hs

theorem Canonical.logPower (hs : Canonical s) {cause unit : Nat} : Canonical (s.logPower cause unit) := .logEv hs

theorem Canonical.setPower (hs : Canonical s) {code : Nat} : Canonical (s.setPower code) := by
  unfold State.setPower
  split
  · exact hs
  · exact .logPower (.updPwr hs)

theorem Canonical.logAbsent (hs : Canonical s) {p : Part} : Canonical (s.logAbsent p) := .logLimited hs

theorem Canonical.mendRow (hs : Canonical s) {row : Nat} : Canonical (s.mendRow row) := .foldl (fun _ _ h => .mendStacked h) hs

theorem Canonical.repairRow (hs : Canonical s) {g : RegionId} {addr : Nat} : Canonical (s.repairRow g addr) := by
  unfold State.repairRow
  dsimp only
  split
  · exact hs
  · split
    · exact .logEv (.updRegion (.mendRow hs))
    · exact .logEv hs

theorem Canonical.rowError (hs : Canonical s) {g : RegionId} {addr : Nat} : Canonical (s.rowError g addr) := by
  unfold State.rowError
  dsimp only
  split
  · exact .repairRow (.updRegion hs)
  · exact .updRegion hs

theorem Canonical.noteParts (hs : Canonical s) {l : Loc} {blocks : List Nat} : Canonical (s.noteParts l blocks) := by
  unfold State.noteParts
  split
  · exact .foldl (fun _ _ h1 => .noteBlock h1) hs
  · exact hs

theorem Canonical.logXlate (hs : Canonical s) {ctx va : Nat} : Canonical (s.logXlate ctx va) := .logEv hs

theorem Canonical.countWrites (hs : Canonical s) {l : Loc} {ps : List (Nat × List Byte)} : Canonical (s.countWrites l ps) := by
  unfold State.countWrites
  split
  · exact .foldl (fun _ _ h1 => .updCnt h1) hs
  · exact hs

theorem Canonical.cacheFill (hs : Canonical s) {g : RegionId} {ctx va : Nat} : Canonical (s.cacheFill g ctx va) := by
  unfold State.cacheFill
  split
  · split
    · split
      · exact .updRegion hs
      · exact hs
    · exact hs
  · exact hs

theorem Canonical.fresh (hs : Canonical s) : Canonical (s.fresh) := .same hs

theorem Canonical.countPart (hs : Canonical s) {c : CoreId} {p : InFlight → Bool} : Canonical (s.countPart c p) := by
  unfold State.countPart
  split
  · split
    · exact .fresh (.updCore hs)
    · exact hs
  · exact hs

theorem Canonical.dropEntries (hs : Canonical s) {c : CoreId} {p : InFlight → Bool} : Canonical (s.dropEntries c p) := .updCore (.countPart hs)

theorem Canonical.dropRequests (hs : Canonical s) {p : AtomReq → Bool} : Canonical (s.dropRequests p) := .same hs

theorem Canonical.discardQueues (hs : Canonical s) {c : CoreId} {k : KsId} : Canonical (s.discardQueues c k) := .dropEntries (.dropRequests hs)

theorem Canonical.discardIssued (hs : Canonical s) {c : CoreId} {k : KsId} : Canonical (s.discardIssued c k) := .updSlot (.discardQueues hs)

theorem Canonical.clearSlot (hs : Canonical s) {c : CoreId} {k : KsId} : Canonical (s.clearSlot c k) := by
  unfold State.clearSlot
  exact .same (.discardQueues hs)

theorem Canonical.freeSlot (hs : Canonical s) {c : CoreId} {k : KsId} : Canonical (s.freeSlot c k) := by
  unfold State.freeSlot
  refine .clearSlot ?_
  split
  · exact .updCmd hs
  · exact hs

theorem Canonical.dropSlot (hs : Canonical s) {c : CoreId} {k : KsId} : Canonical (s.dropSlot c k) := .clearSlot hs

theorem Canonical.trapSlotAt (hs : Canonical s) {c : CoreId} {k : KsId} {status index : Nat} : Canonical (s.trapSlotAt c k status index) :=
  .updSlot (.discardIssued hs)

theorem Canonical.trapSlot (hs : Canonical s) {c : CoreId} {k : KsId} {status : Nat} : Canonical (s.trapSlot c k status) := .trapSlotAt hs

theorem Canonical.addFlags (hs : Canonical s) {c : CoreId} {k : KsId} {f : Flags} : Canonical (s.addFlags c k f) := .updSlot hs

theorem Canonical.noteRange (hs : Canonical s) {c : CoreId} {k : KsId} {addr len : Nat} {anyRegion : Bool} :
    Canonical (s.noteRange c k addr len anyRegion) := by
  unfold State.noteRange
  split
  · exact .foldl (fun _ _ h1 => .noteRead h1) hs
  · exact hs

theorem Canonical.noteWord (hs : Canonical s) {c : CoreId} {k : KsId} {addr len : Nat} : Canonical (s.noteWord c k addr len) := .noteRange hs

theorem Canonical.noteRows (hs : Canonical s) {c : CoreId} {k : KsId} {t : Tile} {want : Nat → Bool} : Canonical (s.noteRows c k t want) := by
  unfold State.noteRows
  split
  · exact hs
  · refine .foldl (fun _ _ h1 => ?_) hs
    dsimp only
    split
    · exact .noteRead h1
    · exact .noteVirt h1

theorem Canonical.noteTile (hs : Canonical s) {c : CoreId} {k : KsId} {t : Tile} : Canonical (s.noteTile c k t) := .noteRows hs

theorem Canonical.writeRaw (hs : Canonical s) {c : CoreId} {k : KsId} {t : Tile} {raw scales : List (List Nat)} :
    Answers Canonical (s.writeRaw c k t raw scales) := by
  unfold State.writeRaw
  refine .check fun _ => ?_
  dsimp only
  split <;> exact .check fun _ => (Canonical.writeAll hs)

theorem Canonical.writeFree (hs : Canonical s) {c : CoreId} {k : KsId} {t : Tile} : Answers Canonical (s.writeFree c k t) :=
  Canonical.writeRaw (.fresh hs)

theorem Canonical.writeNums (hs : Canonical s) {c : CoreId} {k : KsId} {t : Tile} {nanovf : Bool} {xs : List (List Num)} :
    Answers Canonical (s.writeNums c k t nanovf xs) :=
  .bind (Canonical.writeRaw hs) fun _ h1 => .ok (.addFlags h1)

end Sys2Proof.Machine
end

section
/-! PROOF. Canonical memories: accumulators, pools and page trees, and the life of a command (06, 07, 11, 16). -/

namespace Sys2Proof.Machine

set_option Elab.async false

variable {s : State}

theorem Canonical.accWrite (hs : Canonical s) {ps : List (Nat × List Byte)} : Canonical (s.accWrite ps) :=
  hs.of_memories (hacc := fun h => Ram.forcePieces_wf h _ _)

theorem Canonical.spillOut (hs : Canonical s) {c : CoreId} {k : KsId} {n tile : Nat} : Answers Canonical (s.spillOut c k n tile) :=
  .check fun _ => .bind (Canonical.writePieces hs) fun _ h1 => .ok (.fresh (.updSlot h1))

theorem Canonical.spillIn (hs : Canonical s) {c : CoreId} {k : KsId} {n phys : Nat} {rows : List (List Nat)} :
    Canonical (s.spillIn c k n phys rows) :=
  .updCore (.accWrite (.updSlot hs))

theorem Canonical.makeResident1 (hs : Canonical s) {c : CoreId} {k : KsId} {wanted : List Nat} {n : Nat} :
    Answers (fun o => ∀ t ∈ o, Canonical t) (s.makeResident1 c k wanted n) := by
  unfold State.makeResident1
  dsimp only
  split
  · exact .ok fun _ h => by cases h; exact hs
  · split
    · exact .error _
    · exact .ok fun _ h => by cases h; exact .spillIn hs
    · split
      · exact .ok fun _ h => nomatch h
      · split
        · exact .map (Canonical.spillOut hs) fun _ h => fun _ e => by cases e; exact .spillIn h
        · exact .ok fun _ h => nomatch h

theorem Canonical.makeResident (hs : Canonical s) {c : CoreId} {k : KsId} {names : List Nat} :
    Answers (fun o => ∀ t ∈ o, Canonical t) (s.makeResident c k names) := by
  have hall (u : Except AccErr (Option State)) (hu : Answers (fun o => ∀ t ∈ o, Canonical t) u) (l : List Nat) :
      Answers (fun o => ∀ t ∈ o, Canonical t) (l.foldl (fun acc n => match acc with
        | .ok (some s) => s.makeResident1 c k names n
        | r => r) u) := by
    induction l generalizing u with
    | nil => exact hu
    | cons n l ih =>
      refine ih _ ?_
      dsimp only
      split
      · exact .makeResident1 (hu _ rfl _ rfl)
      · exact hu
  exact hall _ (.ok fun _ h => by cases h; exact hs) names

theorem Canonical.drain (hs : Canonical s) {c : CoreId} {k : KsId} {ds : List Drained} : Canonical (s.drain c k ds) :=
  .addFlags (.updCore (.accWrite hs))

theorem Canonical.setKind (hs : Canonical s) {c : CoreId} {k : KsId} {base rows cols : Nat} {kind : AccKind} :
    Canonical (s.setKind c k base rows cols kind) :=
  .updSlot hs

theorem Canonical.countMac (hs : Canonical s) {c : CoreId} {n : Nat} : Canonical (s.countMac c n) := .updCore hs

theorem CanonicalAct.getVirt {ctx va len : Nat} : CanonicalAct (getVirt ctx va len) := .of_run fun s hs => by
  simp only [StateT.run, Machine.getVirt]
  split
  · exact .ok (.noteVirt hs)
  · exact .error _

theorem CanonicalAct.putVirt {ctx va : Nat} {bs : List Byte} : CanonicalAct (putVirt ctx va bs) := .of_run fun s hs => by
  simp only [StateT.run, Machine.putVirt]
  split
  · exact .ok (Canonical.writeVirt hs _ ‹_›)
  · exact .error _

theorem CanonicalAct.getNat {ctx va k : Nat} : CanonicalAct (getNat ctx va k) := .bind .getVirt fun _ => .pure

theorem CanonicalAct.putNat {ctx va k v : Nat} : CanonicalAct (putNat ctx va k v) := .putVirt

theorem CanonicalAct.openPool {ctx num : Nat} : CanonicalAct (openPool ctx num) := by
  unfold Machine.openPool
  refine .bind .get fun _ => ?_
  split
  · exact .fail
  · refine .bind .need fun _ => .bind .getVirt fun _ => ?_
    dsimp only
    split
    · exact .pure
    · exact .bind .need fun _ => .bind .need fun _ => .bind .need fun _ => .bind .putVirt fun _ => .bind .putNat fun _ => .bind .putNat fun _ =>
        .pure

theorem CanonicalAct.poolAt {ctx num : Nat} : CanonicalAct (poolAt ctx num) := by
  unfold Machine.poolAt
  refine .bind .get fun _ => ?_
  split
  · exact .fail
  · exact .bind .getVirt fun _ => .pure

theorem CanonicalAct.pagesFree {p : Pool} : CanonicalAct (Pool.pagesFree p) := .getNat

theorem CanonicalAct.blocksFree {p : Pool} : CanonicalAct (Pool.blocksFree p) := .getNat

theorem CanonicalAct.popPage {p : Pool} : CanonicalAct (Pool.popPage p) :=
  .bind .pagesFree fun _ => .bind .need fun _ => .bind .getNat fun _ => .bind .putNat fun _ => .pure

theorem CanonicalAct.pushPage {p : Pool} {id : Nat} : CanonicalAct (Pool.pushPage p id) := .bind .pagesFree fun _ => .bind .putNat fun _ => .putNat

theorem CanonicalAct.popBlock {p : Pool} : CanonicalAct (Pool.popBlock p) :=
  .bind .blocksFree fun _ => .bind .need fun _ => .bind .getNat fun _ => .bind .putNat fun _ => .pure

theorem CanonicalAct.pushBlock {p : Pool} {id : Nat} : CanonicalAct (Pool.pushBlock p id) :=
  .bind .blocksFree fun _ => .bind .putNat fun _ => .putNat

theorem CanonicalAct.count {p : Pool} {page : Nat} : CanonicalAct (Pool.count p page) := .getNat

theorem CanonicalAct.setCount {p : Pool} {page n : Nat} : CanonicalAct (Pool.setCount p page n) := .putNat

theorem CanonicalAct.takePage {p : Pool} : CanonicalAct (Pool.takePage p) := .bind .popPage fun _ => .bind .putVirt fun _ => .pure

theorem CanonicalAct.readBlock {p : Pool} {j : Nat} : CanonicalAct (Pool.readBlock p j) := .bind .getVirt fun _ => .pure

theorem CanonicalAct.writeBlock {p : Pool} {j : Nat} {b : Block} : CanonicalAct (Pool.writeBlock p j b) := .bind .get fun _ => .putVirt

theorem CanonicalAct.descend {p : Pool} {is : List Nat} {j : Nat} {own : Bool} : CanonicalAct (p.descend is j own) := by
  induction is generalizing j own with
  | nil => exact .pure
  | cons i is ih =>
    cases is with
    | nil => exact .bind .readBlock fun _ => .pure
    | cons i' is =>
      rw [Pool.descend]
      · refine .bind .readBlock fun _ => ?_
        dsimp only
        split
        · exact ih
        · exact .pure
      · exact fun h => nomatch h

theorem CanonicalAct.endBelow {p : Pool} {f j pn : Nat} : CanonicalAct (p.endBelow f j pn) := by
  induction f generalizing j pn with
  | zero => exact .pure
  | succ f ih =>
    rw [Pool.endBelow]
    refine .bind .readBlock fun _ => ?_
    split
    · exact .pure
    · split
      · exact .pure
      · exact ih

theorem CanonicalAct.layerEnd {p : Pool} {root lh : Nat} : CanonicalAct (Pool.layerEnd p root lh) := by
  unfold Machine.Pool.layerEnd
  refine .bind .descend fun _ => ?_
  split
  · split
    · exact .endBelow
    · exact .pure
  · exact .pure

theorem CanonicalAct.releasePage {p : Pool} {id : Nat} : CanonicalAct (Pool.releasePage p id) := by
  unfold Machine.Pool.releasePage
  refine .bind .count fun _ => .bind .setCount fun _ => ?_
  split
  · exact .pushPage
  · exact .pure

theorem CanonicalAct.releaseBlock {p : Pool} {f j : Nat} : CanonicalAct (p.releaseBlock f j) := by
  induction f generalizing j with
  | zero => exact .pure
  | succ f ih =>
    rw [Pool.releaseBlock]
    refine .bind .readBlock fun _ => .bind .writeBlock fun _ => ?_
    split
    · refine .bind (.forIn fun _ _ => ?_) fun _ => .pushBlock
      split
      · split
        · exact .bind .releasePage fun _ => .pure
        · exact .bind ih fun _ => .pure
      · exact .pure
    · exact .pure

theorem CanonicalAct.copyTokens {p : Pool} {src dst fill : Nat} : CanonicalAct (Pool.copyTokens p src dst fill) :=
  .bind (.forIn fun _ _ => .bind (.forIn fun _ _ => .bind .getVirt fun _ => .bind .putVirt fun _ => .pure) fun _ => .pure) fun _ => .pure

theorem CanonicalAct.choosePage {p : Pool} {root lh pn : Nat} : CanonicalAct (Pool.choosePage p root lh pn) := by
  unfold Machine.Pool.choosePage
  refine .bind .descend fun _ => ?_
  split
  · split
    · refine .bind .count fun _ => ?_
      split
      · exact .pure
      · exact .bind .takePage fun _ => .bind .copyTokens fun _ => .pure
    · exact .bind .takePage fun _ => .pure
  · exact .bind .takePage fun _ => .pure

theorem CanonicalAct.raise {p : Pool} {leaf : Bool} {id : Nat} : CanonicalAct (Pool.raise p leaf id) := by
  unfold Machine.Pool.raise
  split
  · exact .bind .count fun _ => .bind .need fun _ => .setCount
  · exact .bind .readBlock fun _ => .bind .need fun _ => .writeBlock

theorem CanonicalAct.ownBlock {p : Pool} {level : Nat} {child : Option Nat} {res : List Nat} : CanonicalAct (Pool.ownBlock p level child res) := by
  unfold Machine.Pool.ownBlock
  split
  · split
    · exact .fail
    · exact .bind .writeBlock fun _ => .pure
  · refine .bind .readBlock fun _ => ?_
    split
    · split
      · exact .fail
      · refine .bind (.forIn fun _ _ => ?_) fun _ => .bind .writeBlock fun _ => .bind .writeBlock fun _ => .pure
        split
        · exact .bind .raise fun _ => .pure
        · exact .pure
    · exact .pure

theorem CanonicalAct.setEntry {p : Pool} {j i : Nat} {e : ListEntry} : CanonicalAct (Pool.setEntry p j i e) := .bind .readBlock fun _ => .writeBlock

theorem CanonicalAct.linkPath {p : Pool} {is : List Nat} {j : Nat} {res : List Nat} {new : ListEntry} {n : Nat} :
    CanonicalAct (p.linkPath is j res new n) := by
  induction is generalizing j res n with
  | nil => exact .pure
  | cons i is ih =>
    cases is with
    | nil =>
      refine .bind .readBlock fun _ => .bind .setEntry fun _ => ?_
      dsimp only
      split
      · refine .bind .setCount fun _ => ?_
        split
        · exact .bind .releasePage fun _ => .pure
        · exact .pure
      · exact .pure
    | cons i' is =>
      rw [Pool.linkPath]
      · exact .bind .readBlock fun _ => .bind .ownBlock fun _ => .bind .setEntry fun _ => ih
      · exact fun h => nomatch h

theorem CanonicalAct.commitPage {p : Pool} {root : Nat} {res : List Nat} {lh pn page fill : Nat} :
    CanonicalAct (Pool.commitPage p root res lh pn page fill) := by
  unfold Machine.Pool.commitPage
  refine .bind .ownBlock fun _ => ?_
  split
  · refine .bind .linkPath fun _ => ?_
    split
    exact .pure

theorem CanonicalAct.treeLength {p : Pool} {root : Nat} : CanonicalAct (Pool.treeLength p root) := .bind (.mapM fun _ => .layerEnd) fun _ => .pure

theorem CanonicalAct.liveSeq {ctx id : Nat} : CanonicalAct (liveSeq ctx id) := by
  unfold Machine.liveSeq
  refine .bind .get fun _ => ?_
  split
  · exact .fail
  · exact .bind .lift fun _ => .bind .need fun _ => .pure

theorem Canonical.refreshCoils (hs : Canonical s) {c : CoreId} : Canonical (s.refreshCoils c) := .updCore hs

theorem Canonical.eraseCoil (hs : Canonical s) {i : Nat} : Canonical (s.eraseCoil i) := by
  unfold State.eraseCoil
  split
  · exact hs
  · exact .foldl (fun _ _ h1 => .refreshCoils h1) (.foldl (fun _ _ h1 => .same h1) hs)

theorem Ram.wf_eraseBad {m : Ram} (h : m.wf = true) (b : Nat) : ({ m with bad := eraseAt m.bad b } : Ram).wf = true := by
  obtain ⟨hcells, hwhole, hbad, hmask⟩ := (Ram.wf_iff m).1 h
  exact (Ram.wf_iff _).2 ⟨hcells, hwhole, sortedKeys_eraseAt _ hbad, fun x hx => hmask x ((eraseAt_sublist _ _).subset hx)⟩

theorem Canonical.eraseSeq (hs : Canonical s) {id : Nat} {x : Seq} : Canonical (s.eraseSeq id x) := by
  have h : Canonical { s with
      seqs := eraseAt s.seqs id
      stacked := { s.stacked with
        bad := eraseAt (eraseAt s.stacked.bad ((s.tblSeq + 64 * id) / 32)) ((s.tblSeq + 64 * id) / 32 + 1) } } :=
    hs.of_memories (hstacked := fun h => Ram.wf_eraseBad (Ram.wf_eraseBad h _) _)
  unfold State.eraseSeq
  dsimp only
  split
  · exact .eraseCoil h
  · exact h

theorem canonicalAct_eraseSeq (id : Nat) (x : Seq) : CanonicalAct (modify fun s => s.eraseSeq id x : Act PUnit) :=
  .modify fun _ hs => .eraseSeq hs

theorem CanonicalAct.releaseSeq {id : Nat} : CanonicalAct (releaseSeq id) := by
  unfold Machine.releaseSeq
  refine .bind .get fun _ => ?_
  split
  · exact .pure
  · dsimp only
    split
    · exact .bind .poolAt fun _ => .bind .releaseBlock fun _ => canonicalAct_eraseSeq id _
    · exact canonicalAct_eraseSeq id _

theorem Canonical.cullStep (hs : Canonical s) {q n id : Nat} : Canonical (s.cullStep q n id) := by
  unfold State.cullStep
  split
  · exact hs
  · split
    · exact .updCmd (CanonicalAct.keeps .releaseSeq hs ‹_›)
    · exact .updCmd (.noteErr hs)
    · exact hs

theorem Canonical.runCulls (hs : Canonical s) : Canonical (s.runCulls) := by
  unfold State.runCulls
  refine .foldl (fun _ _ h1 => ?_) hs
  split
  · exact .updCmd (.foldl (fun _ _ h2 => .cullStep h2) h1)
  · exact h1

theorem Canonical.roleEffect (hs : Canonical s) {g : RegionId} : Canonical (s.roleEffect g) := by
  unfold State.roleEffect
  dsimp only
  split
  · exact .updRegion hs
  · exact hs

theorem Canonical.roleEffects (hs : Canonical s) : Canonical (s.roleEffects) := .foldl (fun _ _ h => .roleEffect h) hs

theorem Canonical.holdWrite (hs : Canonical s) {q : Nat} {w : HeldWrite} {e : AccErr} {va : Nat} : Canonical (s.holdWrite q w e va) := by
  unfold State.holdWrite
  split
  · exact hs
  · dsimp only
    split
    · split
      · exact .updQueue hs
      · exact .noteErr (.updQueue hs)
    · split
      · exact .updQueue hs
      · exact .logEv (.updQueue hs)
    · exact .logAbsent (.updQueue hs)
    · exact .logAbsent (.updQueue hs)
    · exact .updQueue hs

theorem Canonical.postRecord (hs : Canonical s) {q : Nat} {qu : Queue} : Canonical (s.postRecord q qu) := by
  unfold State.postRecord
  split
  · exact hs
  · split
    · exact hs
    · dsimp only
      split
      · exact .holdWrite hs
      · split
        · exact .holdWrite ((Canonical.writeVirt hs) _ ‹_›)
        · split
          · split
            · exact .msix (.same ((Canonical.writeVirt ((Canonical.writeVirt hs) _ ‹_›)) _ ‹_›))
            · exact .same ((Canonical.writeVirt ((Canonical.writeVirt hs) _ ‹_›)) _ ‹_›)
          · exact .same ((Canonical.writeVirt ((Canonical.writeVirt hs) _ ‹_›)) _ ‹_›)

theorem Canonical.postNext (hs : Canonical s) {q : Nat} : Canonical (s.postNext q) := by
  unfold State.postNext
  split
  · exact hs
  · split
    · exact hs
    · exact .postRecord hs

theorem Canonical.postGo {f q : Nat} (hs : Canonical s) : Canonical (State.postGo f q s) := by
  induction f generalizing s with
  | zero => exact hs
  | succ f ih =>
    rw [State.postGo]
    split
    · split
      · exact .postNext hs
      · exact ih (.postNext hs)
    · exact hs

theorem Canonical.post (hs : Canonical s) {q : Nat} : Canonical (s.post q) := .postGo hs

theorem CanonicalAct.heldBytes {ctx va len salt : Nat} : CanonicalAct (heldBytes ctx va len salt) := .of_run fun s hs => by
  simp only [StateT.run, Machine.heldBytes]
  split
  · exact .error _
  · exact .ok (.fresh hs)

theorem CanonicalAct.idleCounter {ctx : Nat} {cm : Cmd} : CanonicalAct (idleCounter ctx cm) := by
  unfold Machine.idleCounter
  split
  · exact .bind .heldBytes fun _ => .bind .heldBytes fun _ => .bind .putVirt fun _ => .putVirt
  · exact .pure

theorem Canonical.returnOne {x : State × List Nat} (hx : Canonical x.1) {ctx seq : Nat} {push : Pool → Act Unit}
    (hp : ∀ p, CanonicalAct (push p)) : Canonical (returnOne ctx seq push x).1.1 := by
  unfold Machine.returnOne
  split
  · exact hx
  · split
    · exact hx
    · split
      · exact (CanonicalAct.bind .poolAt hp).keeps hx ‹_›
      · exact .noteErr hx
      · exact hx

theorem Canonical.returnEach {α : Type} {x : State × List Nat} (hx : Canonical x.1) {ctx : Nat} {seq : α → Nat} {push : α → Pool → Act Unit}
    (hp : ∀ a p, CanonicalAct (push a p)) {l : List α} : Canonical (returnEach ctx seq push l x).1.1 := by
  unfold Machine.returnEach
  generalize l.reverse = l, ([] : List α) = r
  induction l generalizing x r with
  | nil => exact hx
  | cons a l ih => exact ih (.returnOne hx (hp a)) _

theorem Canonical.returnTaken (hs : Canonical s) {ctx : Nat} {cm : Cmd} : Canonical (s.returnTaken ctx cm).1 := by
  unfold State.returnTaken
  exact .returnEach (.returnEach (x := (s, [])) hs fun _ _ => .pushBlock) fun _ _ => .pushPage

theorem Canonical.endRounds (hs : Canonical s) {q n : Nat} {p : Nat → Bool} : Canonical (s.endRounds q n p) := by
  unfold State.endRounds
  refine .foldl (fun _ _ h1 => .foldl (fun _ _ h2 => ?_) h1) hs
  split
  · exact .clearSlot h2
  · exact h2

theorem Canonical.stopRounds (hs : Canonical s) {q n : Nat} : Canonical (s.stopRounds q n) := by
  unfold State.stopRounds
  split
  · exact hs
  · split
    · exact .updCmd (.endRounds hs)
    · exact hs

theorem Canonical.releaseHolds (hs : Canonical s) {q n : Nat} {cm : Cmd} : Canonical (s.releaseHolds q n cm) := by
  unfold State.releaseHolds
  exact .same (.foldl (fun _ _ h1 => .updSeq h1) (.stopRounds hs))

theorem Canonical.noteOwed (hs : Canonical s) {q n : Nat} {cm : Cmd} {e : AccErr} : Canonical (s.noteOwed q n cm e) := by
  unfold State.noteOwed
  split
  · split
    · exact hs
    · exact .updCmd (.noteErr hs)
  · exact .logAbsent hs
  · exact .logAbsent hs
  · exact hs
  · exact hs

theorem Canonical.payOwed (hs : Canonical s) {q n : Nat} : Canonical (s.payOwed q n).1 := by
  unfold State.payOwed
  split
  · exact hs
  · dsimp only
    split
    · exact .noteOwed hs
    · exact .updCmd (.returnTaken (CanonicalAct.keeps .idleCounter hs ‹_›))

theorem Canonical.settle (hs : Canonical s) {q n : Nat} : Canonical (s.settle q n) := by
  unfold State.settle
  split
  · exact hs
  · split
    · exact hs
    · dsimp only
      split
      · exact .payOwed hs
      · exact .roleEffects (.runCulls (.updCmd (.releaseHolds (.payOwed hs))))

theorem Canonical.settleQueue (hs : Canonical s) {q : Nat} : Canonical (s.settleQueue q) := .foldl (fun _ _ h1 => .settle h1) hs

theorem Canonical.endCmd (hs : Canonical s) {q n status : Nat} {commit : Bool} : Canonical (s.endCmd q n status commit) :=
  .post (.settle (.updCmd hs))

theorem Canonical.trapEnd (hs : Canonical s) {q n : Nat} : Canonical (s.trapEnd q n) := by
  unfold State.trapEnd
  split
  · exact hs
  · split
    · exact hs
    · split
      · exact .endCmd hs
      · refine .endCmd ?_
        split
        · exact .same hs
        · exact hs
      · exact hs

theorem Canonical.askAll (hs : Canonical s) {q n : Nat} {why : StopWhy} : Canonical (s.askAll q n why) := by
  unfold State.askAll
  split
  · exact hs
  · refine .foldl (fun _ _ h1 => ?_) hs
    split
    · exact .updSlot h1
    · exact h1

theorem Canonical.endWith (hs : Canonical s) {q n status : Nat} {h : Option HostPort} {why : StopWhy} : Canonical (s.endWith q n status h why) := by
  unfold State.endWith
  split
  · exact hs
  · refine .trapEnd (.askAll ?_)
    split
    · exact hs
    · exact .updCmd hs

theorem Canonical.failCmd (hs : Canonical s) {q n status : Nat} : Canonical (s.failCmd q n status) := .endWith hs

theorem Canonical.stopInstances (hs : Canonical s) {q n : Nat} : Canonical (s.stopInstances q n) := by
  unfold State.stopInstances
  split
  · exact hs
  · refine .foldl (fun _ _ h1 => ?_) hs
    split
    · exact .updCmd (.freeSlot h1)
    · exact h1

theorem Canonical.holdCmd (hs : Canonical s) {q n : Nat} {why : HoldWhy} : Canonical (s.holdCmd q n why) :=
  .updCmd (.trapEnd (.stopRounds (.stopInstances hs)))

theorem Canonical.requeue (hs : Canonical s) {q n : Nat} : Canonical (s.requeue q n) := .updCmd hs

theorem Canonical.cmdErr (hs : Canonical s) {q n : Nat} {e : AccErr} : Canonical (s.cmdErr q n e) := by
  unfold State.cmdErr
  split
  · exact .failCmd (.noteErr hs)
  · exact .requeue (.logAbsent hs)
  · exact .requeue hs
  · exact .requeue (.holdCmd (.logAbsent hs))
  · exact .requeue (.holdCmd (.logEv hs))

end Sys2Proof.Machine
end

section
/-! PROOF. Canonical memories: the issue rule, and what the anvil group and the vector engine plan (03, 04, 06, 09, 10, 12, 13). -/

namespace Sys2Proof.Machine

set_option Elab.async false

variable {s : State}

theorem Canonical.accFail (hs : Canonical s) {c : CoreId} {k : KsId} {e : AccErr} : Canonical (s.accFail c k e) := by
  unfold State.accFail
  split
  · exact .trapSlot (.noteErr hs)
  · exact .logAbsent hs
  · exact hs
  · dsimp only
    split
    · exact .holdCmd (.logAbsent hs)
    · exact .logAbsent hs
  · dsimp only
    split
    · exact .holdCmd (.logEv hs)
    · exact .logEv hs

theorem Canonical.advance (hs : Canonical s) {c : CoreId} {k : KsId} : Canonical (s.advance c k) := .updCore (.updSlot hs)

theorem Canonical.settleStop (hs : Canonical s) {c : CoreId} {k : KsId} : Canonical (s.settleStop c k) := by
  unfold State.settleStop
  dsimp only
  split
  · exact hs
  · split
    · exact .freeSlot hs
    · rename_i q n _
      have h : Canonical ((s.freeSlot c k).updCmd q n fun cm => cm.unplace c k (s.slot c k).saved) := .updCmd (.freeSlot hs)
      refine .trapEnd ?_
      split
      · exact h.same
      · exact h

theorem Canonical.stopNow (hs : Canonical s) {c : CoreId} {k : KsId} : Canonical (s.stopNow c k) := .settleStop (.updSlot (.discardIssued hs))

theorem Canonical.spoilAcc (hs : Canonical s) {c : CoreId} {k : KsId} {names : List Nat} : Canonical (s.spoilAcc c k names) := by
  have hwf (fill : Nat → Byte) (bytes : Nat → List Byte) (l : List Nat) (m : Ram) (h : m.wf = true) :
      (l.foldl (fun m a => m.force fill a (bytes a)) m).wf = true := by
    induction l generalizing m with
    | nil => exact h
    | cons a l ih => exact ih _ (Ram.force_wf h _ _ _)
  unfold State.spoilAcc
  exact .fresh (hs.of_memories (hacc := fun h => hwf _ _ _ _ h))

theorem Canonical.applyFail (hs : Canonical s) {c : CoreId} {k : KsId} {w : W128} {r : RowKind} {names : List Nat} {err : AccErr} :
    Canonical (s.applyFail c k w r names err) := by
  unfold State.applyFail
  split
  · refine .accFail (.updSlot ?_)
    split
    · exact .spoilAcc hs
    · exact hs
  · exact .accFail hs

theorem Canonical.enter (hs : Canonical s) {c : CoreId} {k : KsId} {e : Engine} {w : W128} {r : RowKind} {p : Plan} {macs : Nat}
    {flags : Flags} : Canonical (s.enter c k e w r p macs flags) :=
  .advance (.updSlot (.updCore hs))

/-- Every effect of a row's plan, where it has one, keeps memories canonical. -/
def CanonicalPlan (x : Except AccErr (Option Plan)) : Prop :=
  Answers (fun o => ∀ p ∈ o, ∀ s, Canonical s → Answers Canonical (p.apply s)) x

namespace CanonicalPlan

variable {α : Type} {e e' : Except AccErr α} {f : α → Except AccErr (Option Plan)} {x y : Except AccErr (Option Plan)}

theorem check (hf : ∀ a, CanonicalPlan (f a)) : CanonicalPlan (e >>= f) := Answers.check hf

theorem none : CanonicalPlan (.ok none) := .ok fun _ h => nomatch h

theorem some {p : Plan} (h : ∀ s, Canonical s → Answers Canonical (p.apply s)) : CanonicalPlan (.ok (some p)) :=
  .ok fun _ e => by cases e; exact h

theorem ite {q : Prop} [Decidable q] (hx : CanonicalPlan x) (hy : CanonicalPlan y) : CanonicalPlan (if q then x else y) := Answers.ite hx hy

/-- A step taken in one of two ways. -/
theorem choice {q : Prop} [Decidable q] (hf : ∀ a, CanonicalPlan (f a)) : CanonicalPlan (if q then e >>= f else e' >>= f) :=
  ite (check hf) (check hf)

theorem malformed : CanonicalPlan malformed := Answers.error _

end CanonicalPlan

theorem Canonical.carryOut (hs : Canonical s) {c : CoreId} {k : KsId} {e : Engine} {w : W128} {r : RowKind} {p : Plan}
    (hp : ∀ s, Canonical s → Answers Canonical (p.apply s)) : Answers Canonical (s.carryOut c k e w r p) :=
  .bind (hp _ (.updSlot hs)) fun _ h1 => .ok (.enter (.updCore (.updSlot h1)))

theorem Canonical.issue (hs : Canonical s) {c : CoreId} {k : KsId} {r : RowKind} {e : Engine}
    {plan : KSlot → W128 → Except AccErr (Option Plan)} (hplan : ∀ sl w, CanonicalPlan (plan sl w)) :
    Canonical (s.issue c k r e (fun s ns => s.makeResident c k ns) plan) := by
  unfold State.issue
  dsimp only
  split
  · split
    · exact .stopNow hs
    · exact hs
  · split
    · exact hs
    · exact .trapSlot hs
  · split
    · exact hs
    · split
      · exact .stopNow hs
      · exact .advance hs
  · split
    · exact hs
    · split
      · exact .stopNow hs
      · split
        · exact .accFail hs
        · exact .advance hs
        · rename_i p hp
          split
          · exact .trapSlot hs
          · split
            · exact hs
            · split
              · exact .accFail hs
              · exact hs
              · rename_i s1 h1
                have hs1 : Canonical s1 := Canonical.makeResident hs _ h1 _ rfl
                split
                · exact .applyFail hs1
                · exact Canonical.carryOut hs1 (hplan _ _ _ hp _ rfl) _ ‹_›

theorem Canonical.issueSeq (hs : Canonical s) {c : CoreId} {k : KsId} {r : RowKind} {act : KSlot → W128 → Except AccErr State}
    (hact : ∀ sl w, Answers Canonical (act sl w)) : Canonical (s.issueSeq c k r act) := by
  unfold State.issueSeq
  dsimp only
  split
  · split
    · exact .stopNow hs
    · exact hs
  · split
    · exact hs
    · exact .trapSlot hs
  · split
    · exact hs
    · split
      · exact .stopNow hs
      · exact .advance hs
  · split
    · exact hs
    · split
      · exact .stopNow hs
      · split
        · exact .accFail hs
        · exact hact _ _ _ ‹_›

theorem Canonical.accumF (hs : Canonical s) {c : CoreId} {k : KsId} {base m n : Nat} {ovw : Bool} {sums : Nat → Nat → List Num} :
    Answers Canonical (s.accumF c k base m n ovw sums) :=
  .check fun _ => .ok (.fresh (.drain hs))

theorem Canonical.accumI (hs : Canonical s) {c : CoreId} {k : KsId} {base m n : Nat} {ovw : Bool} {sums : Nat → Nat → List Int} :
    Answers Canonical (s.accumI c k base m n ovw sums) :=
  .check fun _ => .ok (.fresh (.drain hs))

theorem Canonical.noteList (hs : Canonical s) {c : CoreId} {k : KsId} {w : W128} {sl : KSlot} : Canonical (s.noteList c k w sl) := by
  unfold State.noteList
  split
  · exact .noteRange hs
  · exact hs

/-- An accumulation whose overwrite form also sets the names' kind. -/
theorem Canonical.setKindIf (hs : Canonical s) {q : Prop} [Decidable q] {c : CoreId} {k : KsId} {base rows cols : Nat} {kind : AccKind} :
    Answers Canonical (.ok (if q then s.setKind c k base rows cols kind else s)) := by
  split
  · exact .ok (.setKind hs)
  · exact .ok hs

theorem Canonical.mmaOne (hs : Canonical s) {c : CoreId} {k : KsId} {zmul : Bool} {p : Problem} : Answers Canonical (s.mmaOne c k zmul p) := by
  refine .ite ?_ ?_
  · exact .check fun _ => .check fun _ => .bind (Canonical.accumI (.noteTile (.noteTile hs))) fun _ h => .setKindIf h
  · exact .check fun _ => .check fun _ => .bind (Canonical.accumF (.noteTile (.noteTile hs))) fun _ h => .setKindIf h

theorem canonicalPlan_mma {c : CoreId} {k : KsId} {sl : KSlot} {w : W128} : CanonicalPlan (s.planMma c k sl w) := by
  unfold State.planMma
  repeat refine .check fun _ => ?_
  refine .ite .none (.check fun _ => .some fun s hs => ?_)
  exact .map (.canonicalFoldlM (fun _ _ h => .mmaOne h) (.noteList hs)) fun _ h => .countMac h

theorem Canonical.mma3One (hs : Canonical s) {c : CoreId} {k : KsId} {p : Problem} : Answers Canonical (s.mma3One c k p) :=
  .check fun _ => .check fun _ => .bind (Canonical.accumF (.noteTile (.noteTile hs))) fun _ h => .setKindIf h

theorem canonicalPlan_mma3 {c : CoreId} {k : KsId} {sl : KSlot} {w : W128} : CanonicalPlan (s.planMma3 c k sl w) := by
  unfold State.planMma3
  repeat refine .check fun _ => ?_
  refine .ite .none (.check fun _ => .some fun s hs => ?_)
  exact .map (.canonicalFoldlM (fun _ _ h => .mma3One h) (.noteList hs)) fun _ h => .countMac h

theorem Canonical.applyCmma (hs : Canonical s) {c : CoreId} {k : KsId} {w : W128} {ta tb tc te : Tile} :
    Answers Canonical (s.applyCmma c k w ta tb tc te) := by
  unfold State.applyCmma
  dsimp only
  split
  · refine .check fun _ => .check fun _ => .check fun _ => .check fun _ => .bind (Canonical.accumI (.noteTile (.noteTile (.noteTile
      (.noteTile hs))))) fun _ h1 => .bind (Canonical.accumI h1) fun _ h2 => .ok ?_
    split
    · exact .setKind (.setKind h2)
    · exact h2
  · refine .check fun _ => .check fun _ => .check fun _ => .check fun _ => .bind (Canonical.accumF (.noteTile (.noteTile (.noteTile
      (.noteTile hs))))) fun _ h1 => .bind (Canonical.accumF h1) fun _ h2 => .ok ?_
    split
    · exact .setKind (.setKind h2)
    · exact h2

theorem canonicalPlan_cmma {c : CoreId} {k : KsId} {sl : KSlot} {w : W128} : CanonicalPlan (s.planCmma c k sl w) := by
  unfold State.planCmma
  repeat refine .check fun _ => ?_
  refine .ite .none (.check fun _ => .some fun s hs => ?_)
  exact .map (Canonical.applyCmma hs) fun _ h => .countMac h

theorem Canonical.applyScore (hs : Canonical s) {c : CoreId} {k : KsId} {w : W128} {ta tb tc td : Tile} :
    Answers Canonical (s.applyScore c k w ta tb tc td) :=
  .choice fun _ => .choice fun _ => .check fun _ => .check fun _ => .choice fun _ =>
    .bind (Canonical.writeRaw (.noteTile (.noteTile hs))) fun _ h => .bind (Canonical.writeRaw h) fun _ h => .ok (.addFlags h)

theorem canonicalPlan_score {c : CoreId} {k : KsId} {sl : KSlot} {w : W128} : CanonicalPlan (s.planScore c k sl w) := by
  unfold State.planScore
  repeat refine .check fun _ => ?_
  refine .ite .none (.check fun _ => .some fun s hs => ?_)
  exact .map (Canonical.applyScore hs) fun _ h => .countMac h

theorem Canonical.applyStep (hs : Canonical s) {c : CoreId} {k : KsId} {w : W128} {ta tb : Tile} {td : Option Tile} {steps streams : Nat} :
    Answers Canonical (s.applyStep c k w ta tb td steps streams) := by
  have hkept (ps : List (Nat × List Byte)) (l : List Nat) (cols : Nat) : Canonical
      (l.foldl (fun s n => s.setKind c k n streams cols .float) (((s.noteTile c k ta).noteTile c k tb).accWrite ps)) :=
    .foldl (fun _ _ h => .setKind h) (.accWrite (.noteTile (.noteTile hs)))
  refine .check fun _ => .check fun _ => .check fun _ => ?_
  cases td with
  | none => exact .ok (hkept _ _ _)
  | some td => exact .writeRaw (hkept _ _ _)

theorem canonicalPlan_step {c : CoreId} {k : KsId} {sl : KSlot} {w : W128} : CanonicalPlan (s.planStep c k sl w) := by
  unfold State.planStep
  refine .check fun _ => .check fun _ => .check fun _ => .choice fun _ => ?_
  repeat refine .check fun _ => ?_
  refine .ite .none (.check fun _ => .some fun s hs => ?_)
  exact .map (Canonical.applyStep hs) fun _ h => .countMac h

/-- The notes of operands of which an instruction has those that it names. -/
theorem Canonical.noteOptions (hs : Canonical s) {c : CoreId} {k : KsId} {l : List (Option Tile)} :
    Canonical (l.foldl (fun (s : State) t => match t with
      | some t => s.noteTile c k t
      | none => s) s) := .foldl (fun s t h => by
  cases t with
  | none => exact h
  | some t => exact .noteTile h) hs

theorem Canonical.applyVop (hs : Canonical s) {c : CoreId} {k : KsId} {w : W128} {o : VopOps} : Answers Canonical (s.applyVop c k w o) := by
  have hwrite (l : List (Option Tile)) (f : Flags) (xs : List (List Num)) : Answers Canonical
      (((l.foldl (fun (s : State) t => match t with
        | some t => s.noteTile c k t
        | none => s) s).addFlags c k f).writeNums c k o.td false xs) := .writeNums (.addFlags (.noteOptions hs))
  rcases o with ⟨ta, _ | tb, _ | tc, td, rows, cols⟩ <;> exact .check fun _ => .check fun _ => .check fun _ => hwrite _ _ _

theorem canonicalPlan_vop {c : CoreId} {k : KsId} {sl : KSlot} {w : W128} : CanonicalPlan (s.planVop c k sl w) := by
  unfold State.planVop
  refine .check fun _ => .check fun _ => .check fun _ => .choice fun _ => .choice fun _ => .choice fun _ => .choice fun _ => ?_
  repeat refine .check fun _ => ?_
  exact .ite .none (.check fun _ => .some fun s hs => .applyVop hs)

theorem Canonical.applyWindow (hs : Canonical s) {c : CoreId} {k : KsId} {d : WinDesc} {opos : Nat} {ta tb : Tile} {tc : Option Tile}
    {td : Tile} : Answers Canonical (s.applyWindow c k d opos ta tb tc td) := by
  unfold State.applyWindow
  refine .check fun _ => .check fun _ => ?_
  dsimp only
  split <;> exact .check fun _ => (Canonical.writeNums (.addFlags (.noteTile (.noteRows hs))))

theorem canonicalPlan_window {c : CoreId} {k : KsId} {sl : KSlot} {w : W128} : CanonicalPlan (s.planWindow c k sl w) := by
  unfold State.planWindow
  refine .check fun _ => .check fun _ => .choice fun _ => ?_
  repeat refine .check fun _ => ?_
  exact .ite .none (.check fun _ => .some fun s hs => .applyWindow hs)

theorem Canonical.applyNorm (hs : Canonical s) {c : CoreId} {k : KsId} {w : W128} {ta tc td : Tile} :
    Answers Canonical (s.applyNorm c k w ta tc td) := by
  unfold State.applyNorm
  refine .check fun _ => .check fun _ => .bind (Canonical.writeNums (.noteTile (.noteTile hs))) fun _ h1 => ?_
  split
  · exact .ok (.addFlags h1)
  · exact .ok h1

theorem canonicalPlan_norm {c : CoreId} {k : KsId} {sl : KSlot} {w : W128} : CanonicalPlan (s.planNorm c k sl w) := by
  unfold State.planNorm
  repeat refine .check fun _ => ?_
  exact .ite .none (.check fun _ => .some fun s hs => .applyNorm hs)

theorem Canonical.applyMeasure (hs : Canonical s) {c : CoreId} {k : KsId} {w : W128} {src td : Tile} :
    Answers Canonical (s.applyMeasure c k w src td) := by
  have hnote : Canonical (if wMode w 1 then s else s.noteTile c k src) := by
    split
    · exact hs
    · exact .noteTile hs
  exact .choice fun _ => .writeRaw hnote

theorem canonicalPlan_measure {c : CoreId} {k : KsId} {sl : KSlot} {w : W128} : CanonicalPlan (s.planMeasure c k sl w) := by
  unfold State.planMeasure
  refine .choice fun _ => ?_
  repeat refine .check fun _ => ?_
  exact .ite .none (.check fun _ => .some fun s hs => .applyMeasure hs)

theorem Canonical.applyCast (hs : Canonical s) {c : CoreId} {k : KsId} {w : W128} {ta tb tc : Option Tile} {td : Tile} :
    Answers Canonical (s.applyCast c k w ta tb tc td) := by
  have hwrite (l : List (Option Tile)) (raw scales : List (List Nat)) (f : Flags) : Answers Canonical (do
      let s ← (l.foldl (fun (s : State) t => match t with
        | some t => s.noteTile c k t
        | none => s) s).writeRaw c k td raw scales
      return s.addFlags c k f) := .bind (Canonical.writeRaw (.noteOptions hs)) fun _ h => .ok (.addFlags h)
  cases ta <;> cases tb <;> cases tc <;> exact .check fun _ => .check fun _ => .check fun _ => .ite (hwrite _ _ _ _) (hwrite _ _ _ _)

theorem canonicalPlan_cast {c : CoreId} {k : KsId} {sl : KSlot} {w : W128} : CanonicalPlan (s.planCast c k sl w) := by
  unfold State.planCast
  refine .check fun _ => .choice fun _ => .choice fun _ => .choice fun _ => ?_
  repeat refine .check fun _ => ?_
  exact .ite .none (.check fun _ => .some fun s hs => .applyCast hs)

theorem Canonical.rotOverlap (hs : Canonical s) {c : CoreId} {k : KsId} {td : Tile} : Answers Canonical (s.rotOverlap c k td) :=
  .map (Canonical.writeFree hs) fun _ h => .addFlags h

theorem canonicalPlan_rot {c : CoreId} {k : KsId} {sl : KSlot} {w : W128} : CanonicalPlan (s.planRot c k sl w) := by
  unfold State.planRot
  repeat refine .check fun _ => ?_
  exact .ite .none (.check fun _ => .some fun s hs => Answers.check fun _ => .ite (.rotOverlap hs) (.writeNums (.noteTile hs)))

theorem canonicalPlan_argmax {c : CoreId} {k : KsId} {sl : KSlot} {w : W128} : CanonicalPlan (s.planArgmax c k sl w) := by
  unfold State.planArgmax
  repeat refine .check fun _ => ?_
  exact .ite .none (.check fun _ => .some fun s hs => Answers.check fun _ => .writeRaw (.noteTile hs))

theorem canonicalPlan_gumbel {c : CoreId} {k : KsId} {sl : KSlot} {w : W128} : CanonicalPlan (s.planGumbel c k sl w) := by
  unfold State.planGumbel
  refine .check fun _ => .check fun _ => .check fun _ => .check fun _ => ?_
  dsimp only
  cases lookup s.seqs sl.s[wReg w 64].toNat with
  | none => exact .malformed
  | some sq =>
    refine .check fun _ => .check fun _ => .check fun _ => .check fun _ => .ite .none (.check fun _ => .some fun s hs => ?_)
    exact Answers.check fun _ => .bind (Canonical.writeNums (.noteTile hs)) fun _ h => .ok (.addFlags h)

end Sys2Proof.Machine
end

section
/-! PROOF. Canonical memories: wakes, placement, queues, events and samples (03, 14, 16, 21). -/

namespace Sys2Proof.Machine

set_option Elab.async false

variable {s : State}

theorem Canonical.enterAsh (hs : Canonical s) : Canonical s.enterAsh := by
  unfold State.enterAsh
  refine .setPower ?_
  exact hs.of_memories (hcore := fun _ => Ram.empty_wf) (hacc := fun _ => Ram.empty_wf) (hregion := fun _ => Ram.empty_wf)
    (hashRegion := fun _ => hs.regionMem) (hashAcc := fun _ => Ram.keep_wf hs.accMem _)

/-- What Ash kept, or what stands where it kept nothing. -/
theorem wf_getD_saved {o : Option Ram} {m : Ram} (ho : savedWf o = true) (hm : m.wf = true) : (o.getD m).wf = true := by
  cases o with
  | none => exact hm
  | some m' => exact ho

theorem Canonical.leaveAsh (hs : Canonical s) : Canonical s.leaveAsh := by
  unfold State.leaveAsh
  refine .setPower ?_
  exact hs.of_memories (hacc := wf_getD_saved hs.ashAcc) (hregion := wf_getD_saved hs.ashRegion)
    (hashRegion := fun _ => rfl) (hashAcc := fun _ => rfl)

theorem Canonical.awake (hs : Canonical s) : Canonical (s.awake) := by
  unfold State.awake
  split
  · exact .leaveAsh hs
  · exact hs

theorem Canonical.leaveLow (hs : Canonical s) : Canonical (s.leaveLow) := by
  unfold State.leaveLow
  split
  · exact .setPower hs
  · exact hs

theorem Canonical.ignoreDoorbell (hs : Canonical s) {h : HostPort} {q : Nat} : Canonical (s.ignoreDoorbell h q) := .logEv (.same hs)

theorem Canonical.refuseBar (hs : Canonical s) {h : HostPort} {addr : Nat} : Canonical (s.refuseBar h addr) := .logEv (.updHif hs)

theorem Canonical.doorbell (hs : Canonical s) {h : HostPort} {q width : Nat} {word : W64} : Canonical (s.doorbell h q width word) := by
  unfold State.doorbell
  split
  · exact .refuseBar hs
  · split
    · exact .updQueue hs
    · exact .ignoreDoorbell hs

theorem CanonicalNext.execDoorbell (hs : Canonical s) {h : HostPort} {q width : Nat} {word : W64} :
    CanonicalNext (execDoorbell h q width word s) :=
  .next (.doorbell (.awake hs))

theorem Canonical.fetchFail (hs : Canonical s) {q : Nat} {qu : Queue} {va : Nat} : Canonical (s.fetchFail q qu va) := .updQueue (.logEv (.same hs))

theorem Canonical.acceptBytes (hs : Canonical s) {q : Nat} {qu : Queue} {bytes : List Byte} : Canonical (s.acceptBytes q qu bytes) := by
  unfold State.acceptBytes
  dsimp only
  split
  · exact .holdWrite hs
  · exact .same ((Canonical.writeVirt hs) _ ‹_›)

theorem Canonical.fetchNext (hs : Canonical s) {q : Nat} {qu : Queue} : Canonical (s.fetchNext q qu) := by
  unfold State.fetchNext
  split
  · exact .acceptBytes (.updQueue (.noteVirt hs))
  · exact .fetchFail (.noteErr hs)
  · exact .logAbsent hs
  · exact .logAbsent hs
  · exact hs

theorem CanonicalNext.execCommandAccept (hs : Canonical s) {q : Nat} : CanonicalNext (execCommandAccept q s) := by
  unfold Machine.execCommandAccept
  refine .next ?_
  split
  · exact hs
  · split
    · exact .fetchNext hs
    · exact hs

theorem CanonicalNext.execCommandFetchRetry (hs : Canonical s) {q : Nat} : CanonicalNext (execCommandFetchRetry q s) := by
  unfold Machine.execCommandFetchRetry
  refine .next ?_
  split
  · exact hs
  · split
    · exact .fetchNext hs
    · exact hs

theorem Canonical.grant (hs : Canonical s) {cm : Cmd} {ctx : Nat} : Canonical (s.grant cm ctx) := by
  unfold State.grant
  refine .updCmd ?_
  split
  · exact hs
  · exact .same hs

theorem Canonical.dispatchGo (hs : Canonical s) {stopped : Nat → Bool} {quenching : Bool} {cms : List Cmd} {blocked : List Res} :
    Canonical (dispatchGo stopped quenching cms blocked s) := by
  induction cms generalizing s blocked with
  | nil => exact hs
  | cons cm rest ih =>
    unfold Machine.dispatchGo
    dsimp only
    split
    · exact ih hs
    · split
      · exact ih hs
      · split
        · exact ih (.endCmd hs)
        · split
          · exact ih (.endCmd hs)
          · split
            · exact ih hs
            · split
              · exact ih hs
              · exact .grant hs

theorem Canonical.dispatch (hs : Canonical s) {stopped : Nat → Bool} {quenching : Bool} : Canonical (s.dispatch stopped quenching) := by
  unfold State.dispatch
  split
  · exact hs
  · exact .dispatchGo hs

theorem CanonicalNext.execDispatchAgeing (hs : Canonical s) {q n : Nat} : CanonicalNext (execDispatchAgeing q n s) := by
  unfold Machine.execDispatchAgeing
  refine .next ?_
  split
  · exact hs
  · split
    · exact .updCmd hs
    · exact hs

theorem Canonical.retryWrite (hs : Canonical s) {q : Nat} {w : HeldWrite} : Canonical (s.retryWrite q w) := by
  unfold State.retryWrite
  split
  · exact hs
  · split
    · exact .acceptBytes hs
    · exact .postRecord hs
    · split
      · exact .holdWrite hs
      · exact .updQueue ((Canonical.writeVirt hs) _ ‹_›)

theorem Canonical.retryHeld (hs : Canonical s) {q : Nat} : Canonical (s.retryHeld q) := by
  unfold State.retryHeld
  split
  · exact hs
  · exact .foldl (fun _ _ h1 => .retryWrite h1) hs

theorem CanonicalNext.execHeldWriteRetry (hs : Canonical s) {q : Nat} : CanonicalNext (execHeldWriteRetry q s) :=
  .next (.post (.retryHeld (.settleQueue hs)))

theorem Canonical.dispatchAwake (hs : Canonical s) : Canonical (s.dispatchAwake) := by
  unfold State.dispatchAwake
  split
  · exact hs
  · dsimp only
    split
    · exact .dispatch hs
    · exact .leaveLow (.dispatch hs)

theorem CanonicalNext.execCommandDispatch (hs : Canonical s) : CanonicalNext (execCommandDispatch s) := .next (.dispatchAwake hs)

theorem CanonicalNext.execFence (hs : Canonical s) {q n : Nat} : CanonicalNext (execFence q n s) := by
  unfold Machine.execFence
  refine .next ?_
  split
  · exact .endCmd hs
  · exact hs

theorem CanonicalAct.signalAct {ctx va : Nat} {add : Bool} {value : Nat} : CanonicalAct (signalAct ctx va add value) :=
  .bind .getNat fun _ => .putNat

theorem Canonical.eventErr (hs : Canonical s) {q n : Nat} {e : AccErr} : Canonical (s.eventErr q n e) := by
  unfold State.eventErr
  split
  · exact .logAbsent hs
  · exact hs
  · exact .cmdErr hs

theorem CanonicalNext.execSignal (hs : Canonical s) {q n : Nat} : CanonicalNext (execSignal q n s) := by
  unfold Machine.execSignal
  refine .next ?_
  split
  · exact hs
  · dsimp only
    split
    · exact .updCmd (CanonicalAct.keeps .signalAct (.updCmd hs) ‹_›)
    · exact .eventErr (.updCmd hs)

theorem Canonical.recheck (hs : Canonical s) {q n : Nat} {cm : Cmd} : Canonical (s.recheck q n cm) := by
  unfold State.recheck
  dsimp only
  split
  · split
    · exact .updCmd (CanonicalAct.keeps .getNat hs ‹_›)
    · exact CanonicalAct.keeps .getNat hs ‹_›
  · exact .eventErr hs

theorem CanonicalNext.execWait (hs : Canonical s) {q n : Nat} : CanonicalNext (execWait q n s) := by
  unfold Machine.execWait
  refine .next ?_
  split
  · exact hs
  · exact .recheck (.updCmd hs)

theorem CanonicalNext.execWaitRecheck (hs : Canonical s) {q n : Nat} : CanonicalNext (execWaitRecheck q n s) := by
  unfold Machine.execWaitRecheck
  refine .next ?_
  split
  · exact .recheck hs
  · exact hs

theorem CanonicalNext.execWaitTimeout (hs : Canonical s) {q n : Nat} : CanonicalNext (execWaitTimeout q n s) := by
  unfold Machine.execWaitTimeout
  refine .next ?_
  split
  · split
    · exact .failCmd hs
    · exact hs
  · exact hs

theorem Canonical.recordHint (hs : Canonical s) {ctx cls : Nat} : Canonical (s.recordHint ctx cls) := by
  unfold State.recordHint
  split
  · exact .same hs
  · exact .logEv (.same hs)

theorem CanonicalNext.execHint (hs : Canonical s) {q n : Nat} : CanonicalNext (execHint q n s) := by
  unfold Machine.execHint
  refine .next ?_
  split
  · exact .updCmd (.recordHint hs)
  · exact hs

theorem Canonical.updSmp (hs : Canonical s) {q : SampleQ} {f : SmpQueue → SmpQueue} : Canonical (s.updSmp q f) := .same hs

theorem Canonical.smpStart (hs : Canonical s) {q : SampleQ} : Canonical (s.smpStart q) := by
  unfold State.smpStart
  dsimp only
  split
  · exact hs
  · split
    · exact .updSmp hs
    · split
      · exact .updSmp (.noteErr hs)
      · exact hs
      · repeat' split
        all_goals exact .updSmp (.noteRead hs)

theorem CanonicalNext.execSampleQueueStart (hs : Canonical s) {q : SampleQ} : CanonicalNext (execSampleQueueStart q s) := by
  unfold Machine.execSampleQueueStart
  refine .next ?_
  dsimp only
  split
  · exact .smpStart (.awake hs)
  · exact .awake hs

theorem CanonicalNext.execSampleQueueStop (hs : Canonical s) {q : SampleQ} : CanonicalNext (execSampleQueueStop q s) := by
  unfold Machine.execSampleQueueStop
  refine .next ?_
  dsimp only
  split
  · exact .updSmp (.awake hs)
  · exact .awake hs

theorem CanonicalNext.execSampleCountersClear (hs : Canonical s) {q : SampleQ} : CanonicalNext (execSampleCountersClear q s) := by
  unfold Machine.execSampleCountersClear
  refine .next ?_
  dsimp only
  split
  · exact .updSmp (.awake hs)
  · exact .awake hs

theorem CanonicalNext.execSampleTailWrite (hs : Canonical s) {q : SampleQ} {tail : W32} : CanonicalNext (execSampleTailWrite q tail s) := by
  unfold Machine.execSampleTailWrite
  refine .next ?_
  dsimp only
  split
  · exact .updSmp (.awake hs)
  · exact .awake hs

theorem Canonical.smpAccErr (hs : Canonical s) {q : SampleQ} {pos : Nat} {e : AccErr} : Canonical (s.smpAccErr q pos e) := by
  unfold State.smpAccErr
  split
  · exact .updSmp (.noteErr hs)
  · exact hs

theorem Canonical.beginTry (hs : Canonical s) {q : SampleQ} {d : SmpDesc} {pos f : Nat} : Canonical (State.beginTry q d pos f s) := by
  induction f generalizing s with
  | zero => exact hs
  | succ f ih =>
    unfold State.beginTry
    dsimp only
    split
    · exact hs
    · split
      · exact hs
      · split
        · exact ih (.updSmp (.noteErr hs))
        · exact .smpAccErr hs
        · split
          · exact .smpAccErr hs
          · exact ih (.updSmp hs)
          · split
            · exact .updSmp hs
            · exact hs

theorem Canonical.smpGrant (hs : Canonical s) {q : SampleQ} {d : SmpDesc} : Canonical (s.smpGrant q d) := by
  unfold State.smpGrant
  dsimp only
  split
  · exact .beginTry hs
  · split
    · exact .updSmp (.noteErr hs)
    · exact hs
    · split
      · exact hs
      · exact .beginTry (.updSmp hs)

theorem CanonicalNext.execSampleDecodeStart (hs : Canonical s) {q : SampleQ} : CanonicalNext (execSampleDecodeStart q s) := by
  unfold Machine.execSampleDecodeStart
  refine .next ?_
  split
  · split
    · exact .smpGrant (.same hs)
    · exact hs
  · exact hs

theorem Canonical.stageSample (hs : Canonical s) {d : SmpDesc} {w : SmpWork} {z : SmpDone} : Answers Canonical (s.stageSample d w z) := by
  unfold State.stageSample
  split
  · exact .ok hs
  · exact Canonical.writeVirt hs

theorem Canonical.smpOutcome (hs : Canonical s) {q : SampleQ} {d : SmpDesc} {w : SmpWork} {e : SmpEntry} {o : StreamOut} :
    Canonical (s.smpOutcome q d w e o) := by
  unfold State.smpOutcome
  split
  · exact .smpAccErr hs
  · exact .smpAccErr hs
  · dsimp only
    split
    · exact .updSmp (.noteVirt hs)
    · split
      · exact .updSmp (.noteVirt hs)
      · split
        · exact .updSmp (.noteVirt hs)
        · split
          · exact .smpAccErr (.noteVirt hs)
          · exact .updSmp ((Canonical.stageSample (.noteVirt hs)) _ ‹_›)

theorem Canonical.smpEnd (hs : Canonical s) {q : SampleQ} {d : SmpDesc} {w : SmpWork} {out : DecodeOut} : Canonical (s.smpEnd q d w out) := by
  unfold State.smpEnd
  dsimp only
  split
  · generalize s.source d (smpEntryOf d.live w.entry) = r
    obtain ⟨src, er⟩ := r
    dsimp only
    split
    · exact .smpOutcome hs
    · exact .smpAccErr hs
    · exact hs
  · split
    · exact .smpOutcome hs
    · exact hs

theorem CanonicalNext.execSampleDecodeEnd (hs : Canonical s) {q : SampleQ} {pos : Nat} {out : DecodeOut} :
    CanonicalNext (execSampleDecodeEnd q pos out s) := by
  unfold Machine.execSampleDecodeEnd
  refine .next ?_
  split
  · exact hs
  · split
    · exact .smpEnd hs
    · exact hs

theorem CanonicalNext.execDecodeLaneFault (hs : Canonical s) {lane : Nat} : CanonicalNext (execDecodeLaneFault lane s) := by
  unfold Machine.execDecodeLaneFault
  refine .next ?_
  split
  · exact .same (.logEv hs)
  · exact hs

theorem CanonicalAct.room {d : SmpDesc} {i : Nat} : CanonicalAct (SmpDesc.room d i) := .bind .getNat fun _ => .pure

theorem CanonicalAct.handSlot {d : SmpDesc} {i : Nat} {header payload : List Byte} : CanonicalAct (handSlot d i header payload) :=
  .bind .putVirt fun _ => .bind .putVirt fun _ => .bind .get fun _ => .signalAct

theorem CanonicalAct.keepUnits {d : SmpDesc} {pos units : Nat} : CanonicalAct (keepUnits d pos units) := .putNat

theorem CanonicalAct.closeRow {q : SampleQ} {d : SmpDesc} : CanonicalAct (closeRow q d) := by
  unfold Machine.closeRow
  refine .bind .get fun _ => .bind .room fun _ => ?_
  split
  · exact .bind .handSlot fun _ => .bind (.forIn fun _ _ => .bind .keepUnits fun _ => .pure) fun _ => .bind (.modify fun _ h0 =>
      .updSmp h0) fun _ => .pure
  · exact .pure

theorem CanonicalAct.packSample {q : SampleQ} {d : SmpDesc} {z : SmpDone} : CanonicalAct (packSample q d z) := by
  unfold Machine.packSample
  refine .bind .get fun _ => .bind ?_ fun _ => ?_
  · split
    · exact .closeRow
    · exact .pure
  · split
    · exact .modify fun _ h0 => .updSmp h0
    · exact .pure

theorem CanonicalAct.handSample {q : SampleQ} {d : SmpDesc} {z : SmpDone} : CanonicalAct (handSample q d z) := by
  unfold Machine.handSample
  refine .bind .get fun _ => .bind .room fun _ => ?_
  split
  · exact .bind .handSlot fun _ => .bind .keepUnits fun _ => .modify fun _ h0 => .updSmp h0
  · exact .pure

theorem CanonicalAct.finishQueue {q : SampleQ} {d : SmpDesc} : CanonicalAct (finishQueue q d) := by
  unfold Machine.finishQueue
  refine .bind .get fun _ => ?_
  dsimp only
  split
  · refine .bind ?_ fun _ => ?_
    · split
      · exact .pure
      · exact .closeRow
    · split
      · exact .modify fun _ h0 => .updSmp h0
      · exact .pure
  · exact .pure

theorem CanonicalAct.handOff {q : SampleQ} {d : SmpDesc} : CanonicalAct (handOff q d) := by
  unfold Machine.handOff
  refine .bind .get fun _ => ?_
  dsimp only
  split
  · split
    · exact .bind (.modify fun _ h0 => .updSmp h0) fun _ => .finishQueue
    · split
      · exact .bind .packSample fun _ => .finishQueue
      · exact .bind .handSample fun _ => .finishQueue
    · exact .finishQueue
  · exact .finishQueue

theorem CanonicalNext.execSampleHandoff (hs : Canonical s) {q : SampleQ} : CanonicalNext (execSampleHandoff q s) := by
  unfold Machine.execSampleHandoff
  refine .next ?_
  split
  · exact hs
  · split
    · exact CanonicalAct.keeps .handOff hs ‹_›
    · exact .updSmp (.noteErr hs)
    · exact hs

theorem Canonical.stopSamples (hs : Canonical s) {ctx : Nat} : Canonical (s.stopSamples ctx) := .same hs

end Sys2Proof.Machine
end

section
/-! PROOF. Canonical memories: the sequencer's instructions, completions and atomics, kernel commands, FORK and CULL (03, 04, 07, 08, 11). -/

namespace Sys2Proof.Machine

set_option Elab.async false

variable {s : State}

theorem CanonicalAct.sweepBlock {ctx : Nat} {cm : Cmd} : CanonicalAct (sweepBlock ctx cm) :=
  .bind .getNat fun _ => .bind .putNat fun _ => .bind .putNat fun _ => .bind .getNat fun _ => .bind .putNat fun _ => .bind .getNat fun _ =>
    .putNat

theorem Canonical.shareEnd (hs : Canonical s) {q n : Nat} {cm : Cmd} : Canonical (s.shareEnd q n cm) := by
  unfold State.shareEnd
  dsimp only
  split
  · exact .failCmd (.noteErr hs)
  · exact hs
  · split
    · exact .updCmd (CanonicalAct.keeps (.bind .getNat fun _ => .bind .getNat fun _ => .bind .getNat fun _ => .bind .getVirt fun _ => .pure)
        hs ‹_›)
    · split
      · exact .failCmd (CanonicalAct.keeps (.bind .getNat fun _ => .bind .getNat fun _ => .bind .getNat fun _ => .bind .getVirt fun _ =>
          .pure) hs ‹_›)
      · split
        · exact .failCmd (CanonicalAct.keeps (.bind .getNat fun _ => .bind .getNat fun _ => .bind .getNat fun _ => .bind .getVirt fun _ =>
            .pure) hs ‹_›)
        · split
          · exact .updCmd (CanonicalAct.keeps .sweepBlock (CanonicalAct.keeps (.bind .getNat fun _ => .bind .getNat fun _ =>
              .bind .getNat fun _ => .bind .getVirt fun _ => .pure) hs ‹_›) ‹_›)
          · exact .failCmd (.noteErr (CanonicalAct.keeps (.bind .getNat fun _ => .bind .getNat fun _ => .bind .getNat fun _ =>
              .bind .getVirt fun _ => .pure) hs ‹_›))
          · exact CanonicalAct.keeps (.bind .getNat fun _ => .bind .getNat fun _ => .bind .getNat fun _ => .bind .getVirt fun _ => .pure) hs ‹_›

theorem Canonical.instancesEnd (hs : Canonical s) {q n : Nat} : Canonical (s.instancesEnd q n) := by
  unfold State.instancesEnd
  split
  · exact hs
  · split
    · exact hs
    · split
      · exact .trapEnd hs
      · split
        · exact .updCmd hs
        · exact .shareEnd hs

theorem Canonical.endInstance (hs : Canonical s) {c : CoreId} {k : KsId} : Canonical (s.endInstance c k) := by
  unfold State.endInstance
  split
  · exact .freeSlot hs
  · exact .instancesEnd (.updCmd (.freeSlot hs))

theorem Canonical.showWrites (hs : Canonical s) {c : CoreId} {k : KsId} : Canonical (s.showWrites c k) := by
  unfold State.showWrites
  split
  · exact hs
  · exact .updCmd hs

theorem CanonicalNext.execFenceInstruction (hs : Canonical s) {c : CoreId} {k : KsId} : CanonicalNext (execFenceInstruction c k s) :=
  .next (.issueSeq hs fun sl w => by
    dsimp only
    split
    · exact .ok hs
    · refine .ok (.advance ?_)
      split
      · exact .showWrites hs
      · exact hs)

theorem CanonicalNext.execFenceEnd (hs : Canonical s) {c : CoreId} {k : KsId} : CanonicalNext (execFenceEnd c k s) :=
  .next (.issueSeq hs fun _ _ => .ite (.ok hs) (.ok (.endInstance (.advance (.showWrites hs)))))

theorem Canonical.sendAtom (hs : Canonical s) {c : CoreId} {k : KsId} {g : RegionId} {r : AtomReq} {wait : AtomWait} {pred : Bool} :
    Canonical (s.sendAtom c k g r wait pred) :=
  .advance (.same hs)

theorem CanonicalNext.execClaim (hs : Canonical s) {c : CoreId} {k : KsId} : CanonicalNext (execClaim c k s) :=
  .next (.issueSeq hs fun _ _ => .check fun _ => .check fun _ => .check fun _ => .check fun _ => .ok (.sendAtom hs))

theorem CanonicalNext.execCommit (hs : Canonical s) {c : CoreId} {k : KsId} : CanonicalNext (execCommit c k s) :=
  .next (.issueSeq hs fun _ _ => .check fun _ => .check fun _ => .check fun _ => .ok (.sendAtom hs))

theorem Canonical.wordWrite (hs : Canonical s) {c : CoreId} {k : KsId} {a : Nat} {bytes : List Byte} :
    Answers Canonical (s.wordWrite c k a bytes) := by
  unfold State.wordWrite
  split
  · exact .error _
  · split
    · exact .error _
    · exact .writeLoc hs

theorem Canonical.scalar (hs : Canonical s) {c : CoreId} {k : KsId} {sl : KSlot} {w : W128} : Answers Canonical (s.scalar c k sl w) := by
  unfold State.scalar
  dsimp only
  split
  · exact .ok (.advance (.updSlot hs))
  · split
    · exact .check fun _ => .ok (.advance (.updSlot (.noteWord hs)))
    · split
      · exact .bind (Canonical.wordWrite hs) fun _ h1 => .ok (.advance h1)
      · split <;> exact .ok (.advance (.updSlot hs))

theorem CanonicalNext.execVopScalar (hs : Canonical s) {c : CoreId} {k : KsId} : CanonicalNext (execVopScalar c k s) :=
  .next (.issueSeq hs fun _ _ => .scalar hs)

theorem CanonicalNext.execVopBranch (hs : Canonical s) {c : CoreId} {k : KsId} : CanonicalNext (execVopBranch c k s) :=
  .next (.issueSeq hs fun _ _ => .check fun _ => .ok (.updSlot (.advance hs)))

theorem Canonical.completeHead (hs : Canonical s) {c : CoreId} {e : Engine} {x : InFlight} {rest : List InFlight} :
    Canonical (s.completeHead c e x rest) := by
  unfold State.completeHead
  extract_lets s1 s2 s3
  have h2 : Canonical s2 := .updSlot (.updCore hs)
  have h3 : Canonical s3 := by
    unfold s3
    split
    · exact .trapSlotAt (.fresh h2)
    · exact .settleStop h2
  split
  · exact .runCulls h3
  · exact h3

theorem CanonicalNext.execInstructionComplete (hs : Canonical s) {c : CoreId} {e : Engine} : CanonicalNext (execInstructionComplete c e s) := by
  unfold Machine.execInstructionComplete
  refine .next ?_
  split
  · exact hs
  · split
    · split
      · exact hs
      · exact .completeHead hs
    · exact .completeHead hs

theorem Canonical.discardAfter (hs : Canonical s) {c : CoreId} {k : KsId} {age : Nat} : Canonical (s.discardAfter c k age) := by
  unfold State.discardAfter
  dsimp only
  split
  · exact .updCmd (.updSlot (.dropEntries (.dropRequests hs)))
  · exact .updSlot (.dropEntries (.dropRequests hs))

theorem Canonical.stopAtTile (hs : Canonical s) {c : CoreId} {k : KsId} {tile age : Nat} : Canonical (s.stopAtTile c k tile age) :=
  .settleStop (.updSlot (.discardAfter hs))

theorem Canonical.takeReply (hs : Canonical s) {c : CoreId} {k : KsId} {a : AtomWait} {v : W64} : Canonical (s.takeReply c k a v) := by
  unfold State.takeReply
  extract_lets s1 sl
  have h1 : Canonical s1 := .updSlot hs
  split
  · exact .stopAtTile h1
  · exact .settleStop h1

theorem CanonicalNext.execAtomicReply (hs : Canonical s) {c : CoreId} {k : KsId} : CanonicalNext (execAtomicReply c k s) := by
  unfold Machine.execAtomicReply
  refine .next ?_
  split
  · split
    · exact .takeReply hs
    · exact hs
  · exact hs

theorem CanonicalNext.execTrapRecord (hs : Canonical s) {c : CoreId} {k : KsId} : CanonicalNext (execTrapRecord c k s) := by
  unfold Machine.execTrapRecord
  refine .next ?_
  dsimp only
  split
  · exact .trapEnd (.askAll (.updCmd (.freeSlot hs)))
  · exact hs

theorem CanonicalAct.claimAct {ctx cb imm : Nat} : CanonicalAct (claimAct ctx cb imm) := by
  unfold Machine.claimAct
  refine .bind .getNat fun _ => .bind .getNat fun _ => .bind .getNat fun _ => .bind .getNat fun _ => .bind .need fun _ => .bind .need fun _ =>
    .bind .getNat fun _ => ?_
  dsimp only
  split
  · refine .bind .putNat fun _ => .bind .putNat fun _ => ?_
    split
    · refine .bind .putNat fun _ => ?_
      split
      · exact .bind .putNat fun _ => .bind .putNat fun _ => .pure
      · exact .pure
    · refine .bind .getNat fun _ => .bind .getNat fun _ => .bind .getVirt fun _ => ?_
      split
      · exact .bind .putNat fun _ => .pure
      · exact .pure
  · split
    · refine .bind .putNat fun _ => ?_
      split
      · exact .bind .putNat fun _ => .bind .putNat fun _ => .pure
      · exact .pure
    · refine .bind .getNat fun _ => .bind .getNat fun _ => .bind .getVirt fun _ => ?_
      split
      · exact .bind .putNat fun _ => .pure
      · exact .pure

theorem Canonical.takeReq (hs : Canonical s) {g : RegionId} {id : Nat} : Canonical (s.takeReq g id) := .updRegion hs

theorem Canonical.reply1 (hs : Canonical s) {c : CoreId} {k : KsId} {id : Nat} {v : W64} : Canonical (s.reply1 c k id v) := .updSlot hs

theorem Canonical.absentAtom (hs : Canonical s) {g : RegionId} {p : AtomReq → Bool} : Canonical (s.absentAtom g p) := by
  unfold State.absentAtom
  split
  · exact .accFail hs
  · exact hs

theorem Canonical.atomErr (hs : Canonical s) {g : RegionId} {c : CoreId} {k : KsId} {id idx : Nat} {e : AccErr} :
    Canonical (s.atomErr g c k id idx e) := by
  unfold State.atomErr
  split
  · exact .trapSlotAt (.takeReq (.noteErr hs))
  · exact .accFail hs

theorem CanonicalNext.execAtomicClaim (hs : Canonical s) {g : RegionId} : CanonicalNext (execAtomicClaim g s) := by
  unfold Machine.execAtomicClaim
  refine .next ?_
  split
  · exact .absentAtom hs
  · split
    · exact hs
    · split
      · exact .reply1 (.updCnt (.takeReq (CanonicalAct.keeps .claimAct hs ‹_›)))
      · exact .atomErr hs

theorem CanonicalAct.commitAct {ctx bm tile : Nat} : CanonicalAct (commitAct ctx bm tile) := by
  unfold Machine.commitAct
  refine .bind .getNat fun _ => .bind .need fun _ => .bind .getNat fun _ => ?_
  split
  · exact .bind .getNat fun _ => .bind .putNat fun _ => .pure
  · exact .bind .putNat fun _ => .pure

theorem CanonicalNext.execAtomicCommit (hs : Canonical s) {g : RegionId} : CanonicalNext (execAtomicCommit g s) := by
  unfold Machine.execAtomicCommit
  refine .next ?_
  split
  · exact .absentAtom hs
  · split
    · exact hs
    · split
      · refine .reply1 (.takeReq ?_)
        split
        · exact .updCnt (CanonicalAct.keeps .commitAct hs ‹_›)
        · exact CanonicalAct.keeps .commitAct hs ‹_›
      · exact .atomErr hs

theorem CanonicalAct.addDest {d : Dest} {data : List Nat} : CanonicalAct (addDest d data) :=
  .bind (.forIn fun _ _ => .bind .getVirt fun _ => .bind .putVirt fun _ => .pure) fun _ => .pure

theorem CanonicalAct.readRSlot {g : RegionId} {d : Dest} {rs : Nat} : CanonicalAct (readRSlot g d rs) :=
  .bind .getVirt fun _ => .bind .need fun _ => .bind .need fun _ => .bind .get fun _ => .bind .need fun _ => .pure

theorem CanonicalAct.findStaged {r : RSlot} {d : Dest} {key : Nat × Nat} : CanonicalAct (findStaged r d key) := by
  unfold Machine.findStaged
  refine .bind (.forIn fun _ _ => .bind .getNat fun _ => .bind .getNat fun _ => ?_) fun _ => .pure
  split <;> exact .pure

theorem CanonicalAct.countAt {ctx va n : Nat} : CanonicalAct (countAt ctx va n) := .bind .getNat fun _ => .putNat

theorem CanonicalAct.drainStaged {r : RSlot} {d : Dest} {k nx : Nat} {l : List (Staged × Flags)} : CanonicalAct (drainStaged r d k nx l) := by
  induction k generalizing nx l with
  | zero => exact .pure
  | succ k ih =>
    unfold Machine.drainStaged
    refine .bind .findStaged fun _ => ?_
    split
    · exact .pure
    · exact .bind .getVirt fun _ => .bind .addDest fun _ => .bind .putVirt fun _ => ih

theorem CanonicalAct.applyContrib {g : RegionId} {d : Dest} {rs id seq : Nat} {me : Staged} {data : List Nat} :
    CanonicalAct (applyContrib g d rs id seq me data) := by
  unfold Machine.applyContrib
  refine .bind .readRSlot fun _ => .bind .need fun _ => ?_
  split
  · refine .bind .getNat fun _ => ?_
    split
    · exact .bind .countAt fun _ => .pure
    · exact .bind .addDest fun _ => .bind .putNat fun _ => .bind .countAt fun _ => .pure
  · refine .bind .findStaged fun _ => ?_
    split
    · exact .bind .countAt fun _ => .pure
    · split
      · exact .pure
      · split
        · refine .bind .findStaged fun _ => ?_
          split
          · exact .pure
          · exact .bind .putVirt fun _ => .pure
        · refine .bind .addDest fun _ => .bind .drainStaged fun _ => ?_
          split
          · refine .bind .countAt fun _ => ?_
            dsimp only
            split
            · exact .bind .putNat fun _ => .bind .putNat fun _ => .pure
            · exact .bind .putNat fun _ => .pure

theorem Canonical.noteStaged (hs : Canonical s) {c : CoreId} {k : KsId} : Canonical (s.noteStaged c k) := by
  unfold State.noteStaged
  dsimp only
  split
  · exact .updCmd (.updSlot hs)
  · exact .updSlot hs

theorem Canonical.unstage (hs : Canonical s) {b : Staged} {f : Flags} : Canonical (s.unstage b f) := by
  unfold State.unstage
  dsimp only
  split
  · exact .updSlot (.updCmd hs)
  · exact .updCmd (.updCmd hs)

theorem Canonical.answerContrib (hs : Canonical s) {g : RegionId} {r : AtomReq} : Canonical (s.answerContrib g r) := by
  unfold State.answerContrib
  split
  · dsimp only
    split
    · exact .atomErr hs
    · exact .foldl (fun _ _ h2 => .unstage h2) (.addFlags (.updCnt (.takeReq (CanonicalAct.keeps .applyContrib hs ‹_›))))
    · exact .updCnt (.takeReq (CanonicalAct.keeps .applyContrib hs ‹_›))
    · exact .noteStaged (.takeReq (CanonicalAct.keeps .applyContrib hs ‹_›))
    · exact .updSlot (.updCnt (.takeReq (CanonicalAct.keeps .applyContrib hs ‹_›)))
  · exact hs

theorem CanonicalNext.execAtomicContribution (hs : Canonical s) {g : RegionId} : CanonicalNext (execAtomicContribution g s) := by
  unfold Machine.execAtomicContribution
  refine .next ?_
  split
  · exact .absentAtom hs
  · split
    · exact .answerContrib hs
    · exact hs

theorem CanonicalNext.execContributionRetry (hs : Canonical s) {c : CoreId} {k : KsId} : CanonicalNext (execContributionRetry c k s) := by
  unfold Machine.execContributionRetry
  refine .next ?_
  split
  · exact hs
  · exact .updRegion (.updSlot hs)

theorem CanonicalAct.checkCounter {ctx cb : Nat} : CanonicalAct (checkCounter ctx cb) := by
  unfold Machine.checkCounter
  refine .bind .getVirt fun _ => .bind .need fun _ => .bind .getVirt fun _ => .bind .need fun _ => .bind .get fun _ => .bind .need fun _ => ?_
  split
  · exact .fail
  · exact .bind .need fun _ => .pure

theorem CanonicalAct.runCounter {ctx cb bm : Nat} : CanonicalAct (runCounter ctx cb bm) :=
  .bind .getNat fun _ => .bind .getNat fun _ => .bind .putNat fun _ => .bind .putNat fun _ => .bind .putNat fun _ => .bind .putNat fun _ =>
    .bind .getNat fun _ => .bind .putNat fun _ => .bind .putNat fun _ => .bind .putNat fun _ => .bind .putNat fun _ => .bind .getNat fun _ =>
    .putVirt

theorem CanonicalAct.checkTargets {ctx : Nat} {cm : Cmd} : CanonicalAct (checkTargets ctx cm) := by
  unfold Machine.checkTargets
  refine .bind .need fun _ => ?_
  split
  · exact .pure
  · exact .bind .getVirt fun _ => .bind .need fun _ => .bind (.forIn fun _ _ => .bind .liveSeq fun _ => .pure) fun _ => .pure

theorem CanonicalAct.kernelAct {ctx : Nat} {cm : Cmd} {h : KHeader} : CanonicalAct (kernelAct ctx cm h) := by
  unfold Machine.kernelAct
  refine .bind .need fun _ => .bind .checkTargets fun _ => ?_
  dsimp only
  split
  · exact .pure
  · exact .bind .checkCounter fun _ => .bind .runCounter fun _ => .pure

theorem CanonicalNext.execKernel (hs : Canonical s) {q n : Nat} : CanonicalNext (execKernel q n s) := by
  unfold Machine.execKernel
  refine .next ?_
  split
  · split
    · exact .cmdErr hs
    · exact .endCmd (.noteVirt hs)
    · dsimp only
      split
      · exact .endCmd (.noteVirt hs)
      · split
        · exact .cmdErr (.noteVirt hs)
        · split
          · exact .endCmd (.noteVirt hs)
          · split
            · exact .requeue (.holdCmd (.noteVirt hs))
            · exact .fresh (.updCmd (.foldl (fun _ _ h2 => .updSeq h2) (CanonicalAct.keeps .kernelAct (.noteVirt hs) ‹_›)))
  · exact hs

theorem Canonical.copyArgs (hs : Canonical s) {c : CoreId} {k : KsId} {ctx : Nat} {args : List Byte} : Canonical (s.copyArgs c k ctx args) := by
  unfold State.copyArgs
  split
  · exact hs
  · have hwf := Ram.force_wf hs.regionMem (fun _ => 0) (argPlace c k) (args ++ zeros ((32 - args.length % 32) % 32))
    exact hs.of_memories (hregion := fun _ => hwf)

theorem Canonical.place (hs : Canonical s) {cm : Cmd} {i : Inst} {ctx : Nat} {c : CoreId} {args : List Byte} :
    Canonical (s.place cm i ctx c args) := by
  unfold State.place
  extract_lets co
  split
  · extract_lets s1
    have h1 : Canonical s1 := .updSlot hs
    exact .updCmd (.copyArgs h1.same)
  · exact hs

theorem CanonicalNext.execInstancePlacement (hs : Canonical s) {q n : Nat} : CanonicalNext (execInstancePlacement q n s) := by
  unfold Machine.execInstancePlacement
  refine .next ?_
  split
  · split
    · exact hs
    · split
      · exact hs
      · dsimp only
        split
        · exact hs
        · split
          · exact .place (.noteVirt hs)
          · split
            · exact .place hs
            · exact .cmdErr hs
  · exact hs

theorem Canonical.fetchLine (hs : Canonical s) {c : CoreId} {k : KsId} : Canonical (s.fetchLine c k) := by
  unfold State.fetchLine
  dsimp only
  split
  · exact .accFail hs
  · exact .updCore (.noteVirt hs)

theorem CanonicalNext.execInstructionFetchMiss (hs : Canonical s) {c : CoreId} {k : KsId} : CanonicalNext (execInstructionFetchMiss c k s) := by
  unfold Machine.execInstructionFetchMiss
  refine .next ?_
  dsimp only
  split
  · exact hs
  · split
    · exact .stopNow hs
    · split
      · exact .trapSlot hs
      · split
        · exact hs
        · exact .fetchLine hs

theorem CanonicalNext.execLoadingComplete (hs : Canonical s) {c : CoreId} {k : KsId} : CanonicalNext (execLoadingComplete c k s) := by
  unfold Machine.execLoadingComplete
  refine .next ?_
  split
  · exact hs
  · extract_lets s1
    have h1 : Canonical s1 := by
      unfold s1
      split
      · exact hs
      · exact .fetchLine hs
    split
    · exact .updSlot h1
    · exact h1

theorem CanonicalNext.execPreemptionDecision (hs : Canonical s) {q n : Nat} : CanonicalNext (execPreemptionDecision q n s) := by
  unfold Machine.execPreemptionDecision
  refine .next ?_
  split
  · split
    · exact hs
    · split
      · split
        · exact hs
        · split
          · exact .updSlot hs
          · exact hs
      · exact hs
  · exact hs

theorem Canonical.dropTransfers (hs : Canonical s) {p : Transfer → Bool} : Canonical (s.dropTransfers p) := by
  unfold State.dropTransfers
  dsimp only
  split
  · exact hs
  · exact .same hs

theorem CanonicalAct.getStacked {a len : Nat} : CanonicalAct (getStacked a len) := .of_run fun s hs => by
  simp only [StateT.run, Machine.getStacked]
  split
  · exact .ok (.noteRead hs)
  · exact .error _

theorem CanonicalAct.putStacked {a : Nat} {bs : List Byte} : CanonicalAct (putStacked a bs) := .of_run fun s hs => by
  simp only [StateT.run, Machine.putStacked]
  split
  · exact .ok (Canonical.writeLoc hs _ ‹_›)
  · exact .error _

theorem CanonicalAct.copyReadable {a b len : Nat} : CanonicalAct (copyReadable a b len) := .of_run fun s hs => by
  simp only [StateT.run, Machine.copyReadable]
  split
  · exact fun _ h => CanonicalAct.putStacked.keeps hs h
  · exact .ok hs
  · exact .error _

theorem CanonicalAct.forkList {ctx va count : Nat} : CanonicalAct (forkList ctx va count) := .bind .getVirt fun _ => .bind .need fun _ => .pure

theorem CanonicalAct.forkChecks {es : List ForkEntry} {parentCoil : Option Bool} {k : Nat} : CanonicalAct (forkChecks es parentCoil k) :=
  .bind .get fun _ => .bind .need fun _ => .need

theorem CanonicalAct.copyCoilSlice {x : Coil} {from_ to_ seqTail : Nat} {idle : Bool} : CanonicalAct (copyCoilSlice x from_ to_ seqTail idle) := by
  unfold Machine.copyCoilSlice
  refine .bind .get fun _ => ?_
  dsimp only
  split
  · refine .bind (.forIn fun _ _ => ?_) fun _ => .modify fun _ h0 => .same h0
    split
    · exact .bind .copyReadable fun _ => .pure
    · exact .bind .getStacked fun _ => .bind .putStacked fun _ => .pure
  · exact .modify fun _ h0 => .same h0

theorem CanonicalAct.copyCoil {parent child : Nat} : CanonicalAct (copyCoil parent child) := by
  unfold Machine.copyCoil
  refine .bind .get fun _ => ?_
  split
  · exact .fail
  · refine .bind (.forIn fun _ _ => ?_) fun _ => .pure
    split
    · exact .bind .fail fun _ => .pure
    · refine .bind .get fun _ => ?_
      dsimp only
      split
      · exact .bind .lift fun _ => .bind .copyCoilSlice fun _ => .pure
      · exact .bind .copyCoilSlice fun _ => .pure

theorem CanonicalAct.forkChildren {ctx parent : Nat} {es : List ForkEntry} : CanonicalAct (forkChildren ctx parent es) := by
  unfold Machine.forkChildren
  refine .bind .liveSeq fun _ => .bind .get fun _ => .bind .forkChecks fun _ => .bind .poolAt fun _ => .bind .readBlock fun _ =>
    .bind .need fun _ => .bind .writeBlock fun _ => .bind (.forIn fun _ _ => ?_) fun _ => .pure
  dsimp only
  split
  · exact .bind .copyCoil fun _ => .bind (.modify fun _ h0 => .same h0) fun _ => .pure
  · exact .bind (.modify fun _ h0 => .same h0) fun _ => .pure

theorem CanonicalAct.forkRoots {ctx : Nat} {cm : Cmd} {es : List ForkEntry} : CanonicalAct (forkRoots ctx cm es) := by
  unfold Machine.forkRoots
  refine .bind .openPool fun _ => .bind .forkChecks fun _ => .bind .blocksFree fun _ => .bind .need fun _ => .bind (.forIn fun _ _ =>
    .bind .popBlock fun _ => .bind .writeBlock fun _ => .bind (.modify fun _ h0 => ?_) fun _ => .pure) fun _ => .pure
  dsimp only
  split <;> exact .same h0

theorem CanonicalAct.forkAct {ctx : Nat} {cm : Cmd} : CanonicalAct (forkAct ctx cm) := by
  unfold Machine.forkAct
  refine .bind .forkList fun _ => ?_
  split
  · exact .forkChildren
  · exact .forkRoots

theorem CanonicalNext.execFork (hs : Canonical s) {q n : Nat} : CanonicalNext (execFork q n s) := by
  unfold Machine.execFork
  refine .next ?_
  split
  · exact hs
  · split
    · exact .updCmd (CanonicalAct.keeps .forkAct hs ‹_›)
    · exact .cmdErr hs

theorem CanonicalAct.cullList {ctx va count : Nat} : CanonicalAct (cullList ctx va count) :=
  .bind .getVirt fun _ => .bind .need fun _ => .bind .get fun _ => .bind .need fun _ => .pure

theorem CanonicalNext.execCull (hs : Canonical s) {q n : Nat} : CanonicalNext (execCull q n s) := by
  unfold Machine.execCull
  refine .next ?_
  split
  · exact hs
  · split
    · exact .runCulls (.updCmd (.foldl (fun _ _ h2 => .updSeq h2) (CanonicalAct.keeps .cullList hs ‹_›)))
    · exact .cmdErr hs

end Sys2Proof.Machine
end

section
/-! PROOF. Canonical memories: rounds and coils, COPY and FILL, images (12, 15, 17). -/

namespace Sys2Proof.Machine

set_option Elab.async false

variable {s : State}

theorem CanonicalAct.roundList {ctx va count : Nat} : CanonicalAct (roundList ctx va count) := .bind .getVirt fun _ => .bind .need fun _ => .pure

theorem CanonicalAct.roundCheck {ctx : Nat} {cm : Cmd} : CanonicalAct (roundCheck ctx cm) := by
  unfold Machine.roundCheck
  refine .bind .roundList fun _ => .bind ?_ fun _ => .bind .need fun _ => .bind .get fun _ => .bind (.forIn fun _ _ => ?_) fun _ =>
    .bind .need fun _ => ?_
  · split
    · exact .getVirt
    · exact .pure
  · split
    · exact .bind .lift fun _ => .pure
    · exact .pure
  · dsimp only
    split
    · exact .bind .need fun _ => .pure
    · exact .pure

theorem Canonical.setStatus (hs : Canonical s) {coil : Nat} {st : CoilStatus} : Canonical (s.setStatus coil st) := by
  unfold State.setStatus
  split
  · exact hs
  · exact .foldl (fun _ _ h1 => .refreshCoils h1) (.foldl (fun _ _ h1 => .updCoil h1) hs)

theorem Canonical.sendGroup (hs : Canonical s) {c : CoreId} {u lo : Nat} {g : List RoundEntry} : Canonical (s.sendGroup c u lo g) := by
  unfold State.sendGroup
  refine .foldl (fun _ _ h1 => ?_) hs
  split
  · exact h1
  · exact .setStatus (.foldl (fun _ _ h2 => .updCoil h2) h1)

theorem Canonical.bringGroup (hs : Canonical s) {ctx cls : Nat} {pair : Bool} {k bytes extra : Nat} {g : List RoundEntry} :
    Canonical (s.bringGroup ctx cls pair k bytes extra g) := by
  unfold State.bringGroup
  split
  · exact hs
  · split
    · split
      · exact hs
      · split
        · exact .sendGroup hs
        · split
          · exact hs
          · exact .sendGroup hs
        · exact hs
    · refine .foldl (fun _ _ h1 => ?_) hs
      split
      · split
        · exact .setStatus h1
        · exact h1
      · exact h1

theorem CanonicalAct.parkVector {coil k off : Nat} : CanonicalAct (parkVector coil k off) :=
  .bind .get fun _ => .bind (.mapM fun _ => .bind .getStacked fun _ => .pure) fun _ => .pure

theorem CanonicalAct.coilState {x : Coil} {coil : Nat} : CanonicalAct (coilState x coil) := by
  have hlo (b : Bool) (k off : Nat) :
    CanonicalAct (if b then some <$> Machine.parkVector coil k off else Pure.pure none : Act (Option (List Nat))) := by
    split
    · exact .map .parkVector
    · exact .pure
  unfold Machine.coilState
  dsimp only
  split
  · exact .pure
  · refine .bind .parkVector fun _ => ?_
    split
    · exact .bind (hlo _ _ _) fun _ => .pure
    · exact .bind .parkVector fun _ => .bind (hlo _ _ _) fun _ => .pure

theorem CanonicalAct.getMatrix {ctx base rows cols fmt : Nat} : CanonicalAct (getMatrix ctx base rows cols fmt) :=
  .mapM fun _ => .bind .getVirt fun _ => .pure

theorem CanonicalAct.runEntry {ctx count : Nat} {d : RoundDesc} {wx wh : List (List Num)} {e : RoundEntry} :
    CanonicalAct (runEntry ctx count d wx wh e) := by
  unfold Machine.runEntry
  refine .bind .get fun _ => ?_
  split
  · exact .fail
  · refine .bind .coilState fun _ => .bind (.mapM fun _ => .bind .getVirt fun _ => .pure) fun _ => ?_
    dsimp only
    split <;> exact .pure

theorem CanonicalAct.runAll {ctx count : Nat} {d : RoundDesc} {es : List RoundEntry} : CanonicalAct (runAll ctx count d es) := by
  unfold Machine.runAll
  refine .bind .getMatrix fun _ => .bind .getMatrix fun _ => .bind (.forIn fun _ _ => .bind .runEntry fun _ => ?_) fun _ => .pure
  split
  exact .bind (.forIn fun _ _ => .pure) fun _ => .pure

theorem Canonical.placeRound (hs : Canonical s) {q n ctx bytes coil : Nat} {c : CoreId} : Canonical (State.placeRound q n ctx bytes coil s c) := by
  unfold State.placeRound
  dsimp only
  split
  · exact .updSlot (.same hs)
  · exact hs

theorem Canonical.roundErr (hs : Canonical s) {q n : Nat} {e : AccErr} : Canonical (s.roundErr q n e) := by
  unfold State.roundErr
  split
  · exact .logAbsent hs
  · exact hs
  · exact .cmdErr hs

theorem Canonical.finishRound (hs : Canonical s) {q n : Nat} {cm : Cmd} {ctx : Nat} {d : RoundDesc} {g : List RoundEntry} {coil : Nat} :
    Canonical (s.finishRound q n cm ctx d g coil) := by
  unfold State.finishRound
  split
  · exact .updCmd (.endRounds (CanonicalAct.keeps .runAll hs ‹_›))
  · exact .roundErr hs

theorem Canonical.runGroup (hs : Canonical s) {q n : Nat} {cm : Cmd} {qu : Queue} {d : RoundDesc} {g : List RoundEntry} :
    Canonical (s.runGroup q n cm qu d g) := by
  unfold State.runGroup
  split
  · exact hs
  · split
    · exact hs
    · dsimp only
      split
      · exact hs
      · split
        · exact .finishRound hs
        · split
          · split
            · exact .foldl (fun _ _ h => .placeRound h) hs
            · exact hs
          · exact .bringGroup hs

theorem Canonical.continueRun (hs : Canonical s) {q n : Nat} {cm : Cmd} {qu : Queue} {d : RoundDesc} : Canonical (s.continueRun q n cm qu d) :=
  .updCmd (.foldl (fun _ _ h1 => .runGroup h1) hs)

theorem Canonical.restartRound (hs : Canonical s) {q n coil : Nat} {pair : Bool} : Canonical (s.restartRound q n coil pair) := by
  unfold State.restartRound
  split
  · exact hs
  · split
    · exact hs
    · split
      · exact hs
      · exact .updCmd (.endRounds hs)

theorem Canonical.continueUnpark (hs : Canonical s) {q n : Nat} {cm : Cmd} {qu : Queue} : Canonical (s.continueUnpark q n cm qu) := by
  unfold State.continueUnpark
  dsimp only
  split
  · exact .updCmd hs
  · refine .foldl (fun _ _ h1 => ?_) hs
    split
    · exact h1
    · exact .foldl (fun _ _ h2 => .bringGroup h2) h1

theorem Canonical.continuePark (hs : Canonical s) {q n : Nat} {cm : Cmd} {d : RoundDesc} : Canonical (s.continuePark q n cm d) := by
  unfold State.continuePark
  dsimp only
  split
  · exact .updCmd hs
  · refine .foldl (fun _ _ h1 => ?_) hs
    split
    · split
      · exact .setStatus h1
      · exact h1
    · exact h1

theorem Canonical.continueRound (hs : Canonical s) {q n : Nat} : Canonical (s.continueRound q n) := by
  unfold State.continueRound
  split
  · split
    · exact hs
    · dsimp only
      split
      · exact .continueUnpark hs
      · split
        · exact .continueRun hs
        · exact .continuePark hs
  · exact hs

theorem Canonical.roundDispatch (hs : Canonical s) {q n : Nat} {cm : Cmd} {qu : Queue} : Canonical (s.roundDispatch q n cm qu) := by
  unfold State.roundDispatch
  split
  · exact .cmdErr hs
  · dsimp only
    split
    · exact .endCmd (CanonicalAct.keeps .roundCheck hs ‹_›)
    · split
      · exact .requeue (.holdCmd (CanonicalAct.keeps .roundCheck hs ‹_›))
      · exact .continueRound (.updCmd (.foldl (fun _ _ h2 => .updCoil h2) (.updCnt (CanonicalAct.keeps .roundCheck hs ‹_›))))

theorem Canonical.roundRow (hs : Canonical s) {q n op : Nat} : Canonical (s.roundRow q n op) := by
  unfold State.roundRow
  split
  · split
    · exact hs
    · split
      · exact .roundDispatch hs
      · exact .continueRound hs
  · exact hs

theorem CanonicalNext.execRoundRun (hs : Canonical s) {q n : Nat} : CanonicalNext (execRoundRun q n s) := .next (.roundRow hs)

theorem CanonicalNext.execRoundPark (hs : Canonical s) {q n : Nat} : CanonicalNext (execRoundPark q n s) := .next (.roundRow hs)

theorem CanonicalNext.execRoundUnpark (hs : Canonical s) {q n : Nat} : CanonicalNext (execRoundUnpark q n s) := .next (.roundRow hs)

theorem CanonicalNext.execRoundConfig (hs : Canonical s) {q n : Nat} : CanonicalNext (execRoundConfig q n s) := .next (.roundRow hs)

theorem CanonicalNext.execRoundClose (hs : Canonical s) {q n : Nat} : CanonicalNext (execRoundClose q n s) := .next (.roundRow hs)

theorem Canonical.continueHolder (hs : Canonical s) {coil : Nat} : Canonical (s.continueHolder coil) := by
  unfold State.continueHolder
  split
  · split
    · exact .continueRound hs
    · exact hs
  · exact hs

theorem Canonical.forceUnits (hs : Canonical s) {ps : List (Nat × List Byte)} :
    Canonical { s with accMem := s.accMem.forcePieces (Config.freeByte s.freshCtr) ps } :=
  hs.of_memories (hacc := fun h => Ram.forcePieces_wf h _ _)

theorem Canonical.unparkDone (hs : Canonical s) {coil : Nat} {x : Coil} : Canonical (s.unparkDone coil x) := by
  unfold State.unparkDone
  split
  · split
    · exact .roundErr hs
    · exact hs
  · exact .continueHolder (.updCnt (.setStatus (.forceUnits hs)))

theorem CanonicalNext.execCoilUnparkComplete (hs : Canonical s) {coil : Nat} : CanonicalNext (execCoilUnparkComplete coil s) := by
  unfold Machine.execCoilUnparkComplete
  refine .next ?_
  split
  · split
    · exact .unparkDone hs
    · exact hs
  · exact hs

theorem CanonicalNext.execCoilParkComplete (hs : Canonical s) {coil : Nat} : CanonicalNext (execCoilParkComplete coil s) := by
  unfold Machine.execCoilParkComplete
  refine .next ?_
  split
  · split
    · exact .continueHolder (.setStatus hs)
    · exact hs
  · exact hs

theorem CanonicalNext.execCoilEviction (hs : Canonical s) {c : CoreId} : CanonicalNext (execCoilEviction c s) := by
  unfold Machine.execCoilEviction
  refine .next ?_
  dsimp only
  split
  · exact hs
  · exact .updCnt (.foldl (fun _ _ h1 => .setStatus h1) hs)

theorem CanonicalAct.commitRun {cm : Cmd} {len : Nat} {e : RoundEntry} : CanonicalAct (commitRun cm len e) := by
  unfold Machine.commitRun
  refine .bind .get fun _ => ?_
  split
  · exact .pure
  · refine .bind (.forIn fun _ _ => .bind (.forIn fun _ _ => .bind .putStacked fun _ => .pure) fun _ => ?_) fun _ =>
      (.modify fun _ h0 => .updCnt (.foldl (fun _ _ h1 => .updCoil h1) h0))
    split
    · split
      · exact .bind (.modify fun _ h => .forceUnits h) fun _ => .pure
      · exact .pure
    · exact .pure

theorem CanonicalAct.commitConfig {ctx : Nat} {d : RoundDesc} {e : RoundEntry} : CanonicalAct (commitConfig ctx d e) := by
  unfold Machine.commitConfig
  refine .bind .get fun _ => ?_
  dsimp only
  split
  · exact .bind (.forIn fun _ _ => .bind .putStacked fun _ => .pure) fun _ => .modify fun _ h0 => .foldl (fun _ _ h1 => .same h1)
      (.foldl (fun _ _ h1 => .same h1) h0)
  · exact .modify fun _ h0 => .foldl (fun _ _ h1 => .same h1) (.foldl (fun _ _ h1 => .same h1) h0)

theorem CanonicalAct.commitSeq {e : RoundEntry} : CanonicalAct (commitSeq e) := by
  unfold Machine.commitSeq
  refine .modify fun _ h0 => ?_
  split
  · exact .foldl (fun _ _ h1 => .updCoil h1) h0
  · exact h0

theorem CanonicalAct.commitRound {ctx : Nat} {cm : Cmd} : CanonicalAct (commitRound ctx cm) := by
  unfold Machine.commitRound
  refine .bind (.forIn fun _ _ => ?_) fun _ => .bind (.forIn fun _ _ => .bind .putVirt fun _ => .pure) fun _ => .pure
  split
  · exact .bind .commitRun fun _ => .pure
  · split
    · exact .bind .commitConfig fun _ => .pure
    · split
      · exact .bind (.modify fun _ h0 => .eraseCoil h0) fun _ => .pure
      · exact .bind .commitSeq fun _ => .pure

theorem Canonical.writeExtent (hs : Canonical s) {ctx : Nat} {e : Extent} {r : Nat} {bs : List Byte} :
    Answers Canonical (s.writeExtent ctx e r bs) := by
  unfold State.writeExtent
  split
  · exact Canonical.writeVirt hs
  · split
    · exact .error _
    · exact .ok hs

theorem Canonical.spoilPart (hs : Canonical s) {ctx : Nat} {p : Nat × Nat} : Canonical (State.spoilPart ctx s p) := by
  unfold State.spoilPart
  split
  · exact (Canonical.writeVirt hs) _ ‹_›
  · exact hs

theorem Canonical.spoil (hs : Canonical s) {ctx va len : Nat} : Canonical (s.spoil ctx va len) := by
  unfold State.spoil
  split
  · exact .fresh ((Canonical.writeVirt hs) _ ‹_›)
  · exact .fresh (.foldl (fun _ _ h => .spoilPart h) hs)

theorem Canonical.spoilExtent (hs : Canonical s) {ctx : Nat} {e : Extent} : Canonical (s.spoilExtent ctx e) := by
  unfold State.spoilExtent
  split
  · exact .foldl (fun _ _ h1 => .spoil h1) hs
  · exact hs

theorem Canonical.copyRows (hs : Canonical s) {ctx : Nat} {src dst : Extent} {rows : List Nat} {t : State} {o : Option AccErr}
    (e : copyRows ctx src dst rows s = (t, o)) : Canonical t := by
  induction rows generalizing s with
  | nil => cases e; exact hs
  | cons r rest ih =>
    unfold Machine.copyRows at e
    split at e
    · cases e; exact hs
    · extract_lets s1 at e
      have h1 : Canonical s1 := by
        unfold s1
        split
        · exact .noteVirt hs
        · exact hs
      split at e
      · exact (Prod.mk.inj e).1 ▸ h1
      · exact ih (Canonical.writeExtent h1 _ ‹_›) e

theorem Canonical.spoilAliased (hs : Canonical s) {ctx : Nat} {src dst : Extent} : Canonical (s.spoilAliased ctx src dst) := by
  unfold State.spoilAliased
  dsimp only
  split
  · exact hs
  · refine .foldl (fun _ _ h1 => ?_) hs
    split
    · exact .foldl (fun _ _ h2 => .spoil h2) h1
    · exact h1

theorem Canonical.copyToFlash (hs : Canonical s) {q n ctx : Nat} {src dst : Extent} : Canonical (s.copyToFlash q n ctx src dst) := by
  unfold State.copyToFlash
  split
  · exact .cmdErr hs
  · refine .updCmd ?_
    split
    · exact .foldl (fun _ _ h1 => .noteVirt h1) hs
    · exact hs

theorem Canonical.noteFlash (hs : Canonical s) {e : Extent} : Canonical (s.noteFlash e) := by
  unfold State.noteFlash
  split
  · exact hs.same
  · exact hs

theorem CanonicalNext.execCopy (hs : Canonical s) {q n : Nat} : CanonicalNext (execCopy q n s) := by
  unfold Machine.execCopy
  refine .next ?_
  split
  · exact hs
  · dsimp only
    split
    · exact .endCmd hs
    · split
      · exact .copyToFlash (.noteFlash hs)
      · split
        · exact .updCmd (.spoilAliased (.copyRows (.noteFlash hs) ‹_›))
        · refine .cmdErr ?_
          split
          · exact .spoilExtent (.copyRows (.noteFlash hs) ‹_›)
          · exact .copyRows (.noteFlash hs) ‹_›

theorem Canonical.fillRows (hs : Canonical s) {ctx pattern : Nat} {dst : Extent} {rows : List Nat} {t : State} {o : Option AccErr}
    (e : fillRows ctx pattern dst rows s = (t, o)) : Canonical t := by
  induction rows generalizing s with
  | nil => cases e; exact hs
  | cons r rest ih =>
    unfold Machine.fillRows at e
    split at e
    · cases e; exact hs
    · exact ih (Canonical.writeExtent hs _ ‹_›) e

theorem CanonicalNext.execFill (hs : Canonical s) {q n : Nat} : CanonicalNext (execFill q n s) := by
  unfold Machine.execFill
  refine .next ?_
  split
  · exact hs
  · dsimp only
    split
    · exact .endCmd hs
    · split
      · exact .updCmd hs
      · split
        · exact .updCmd (.fillRows hs ‹_›)
        · refine .cmdErr ?_
          split
          · exact .spoilExtent (.fillRows hs ‹_›)
          · exact .fillRows hs ‹_›

theorem Canonical.commitFlash (hs : Canonical s) {cm : Cmd} : Canonical (s.commitFlash cm) := by
  have hwf (l : List (Nat × List Byte)) (f : Flash) (h : spaceWf f.cells = true) :
      spaceWf (l.foldl (fun f w => f.write w.1 w.2) f).cells = true := by
    induction l generalizing f with
    | nil => exact h
    | cons w l ih => exact ih _ (Flash.write_wf h _ _)
  unfold State.commitFlash
  dsimp only
  split
  · exact hs.of_memories (hcells := fun h => hwf _ _ h)
  · split
    · exact hs.of_memories (hcells := fun h => Flash.unmap_wf h _ _)
    · exact hs

theorem Canonical.askStop (hs : Canonical s) {cm : Cmd} {why : StopWhy} : Canonical (s.askStop cm why) := by
  unfold State.askStop
  split
  · exact hs
  · refine .foldl (fun _ _ h1 => ?_) hs
    split
    · exact .updSlot h1
    · exact h1

theorem Canonical.quenchBroken (hs : Canonical s) : Canonical (s.quenchBroken) := by
  unfold State.quenchBroken
  split
  · exact .updFls hs
  · exact hs

theorem Canonical.quenchMended (hs : Canonical s) : Canonical (s.quenchMended) := by
  unfold State.quenchMended
  split
  · split
    · exact .updFls hs
    · exact hs
  · exact hs

end Sys2Proof.Machine
end

section
/-! PROOF. Canonical memories: firmware, start-up, recovery, the service port and the fabric (02, 17, 18, 22). -/

namespace Sys2Proof.Machine

set_option Elab.async false

variable {s : State}

theorem Canonical.updSvc (hs : Canonical s) {f : Service → Service} : Canonical (s.updSvc f) := .same hs

theorem Canonical.logSvc (hs : Canonical s) {cause unit : Nat} {status address : optParam Nat 0} :
    Canonical (s.logSvc cause unit status address) :=
  .logEv hs

theorem Canonical.runRegion (hs : Canonical s) {g : RegionId} {l : Loaded} : Canonical (s.runRegion g l) := by
  unfold State.runRegion
  dsimp only
  split
  · exact .logSvc (.updSvc (.updRegion hs))
  · exact .updSvc (.updRegion hs)

theorem Canonical.runService (hs : Canonical s) {l : Loaded} : Canonical (s.runService l) := by
  unfold State.runService
  dsimp only
  split
  · exact .logSvc (.updSvc hs)
  · exact .updSvc hs

theorem Canonical.regionOut (hs : Canonical s) {g : RegionId} : Canonical (s.regionOut g) := .updSvc (.updRegion hs)

theorem Canonical.updFw (hs : Canonical s) {kind : Nat} {f : FwKind → FwKind} : Canonical (s.updFw kind f) := .updSvc hs

theorem Canonical.updDarit (hs : Canonical s) {f : Darit → Darit} : Canonical (s.updDarit f) := .same hs

theorem Canonical.logSelf (hs : Canonical s) {unit : Nat} : Canonical (s.logSelf unit) := .logEv hs

theorem Canonical.repairRegion (hs : Canonical s) {g : RegionId} : Canonical (s.repairRegion g).1 :=
  .foldl (fun _ _ h => .updCore h) (.updRegion (.foldl (fun _ _ h => .logEv h) (.foldl (fun _ _ h => .logSelf h) hs)))

theorem Canonical.hardenRows (hs : Canonical s) {g : RegionId} : Canonical (s.hardenRows g) := .foldl (fun _ _ h1 => .logEv h1) (.updRegion hs)

/-- A stack's contents lost. -/
theorem Canonical.markStack (hs : Canonical s) {g : RegionId} : Canonical { s with stacked := s.stacked.mark (g.val * stackSpan) stackSpan } :=
  have hspan : 32 ∣ stackSpan := by decide
  have hwf : (s.stacked.mark (g.val * stackSpan) stackSpan).wf = true := Ram.mark_wf hs.stacked (Dvd.dvd.mul_left hspan g.val) hspan
  hs.of_memories (hstacked := fun _ => hwf)

theorem Canonical.trainStack (hs : Canonical s) {g : RegionId} : Canonical (s.trainStack g).1 := by
  unfold State.trainStack
  extract_lets s1 s2
  have h2 : Canonical s2 := by
    refine .hardenRows ?_
    unfold s1
    split
    · exact .logSelf hs
    · exact hs
  dsimp only
  split
  · have h3 : Canonical (s2.updRegion g fun _ => s2.regions[g].train.1) := .updRegion h2
    exact .updRegion (.markStack h3)
  · exact .updRegion (.updRegion h2)

theorem Canonical.layCopies (hs : Canonical s) : Canonical (s.layCopies) := .same hs

theorem Canonical.bare (hs : Canonical s) : Canonical s.bare :=
  Canonical.reset.of_memories (hashRegion := fun _ => rfl) (hashAcc := fun _ => rfl) (hhost := fun _ => hs.hostMem) (hcells := fun _ => hs.cells)

theorem Canonical.warm (hs : Canonical s) : Canonical s.warm := (Canonical.bare hs).of_memories (hstacked := fun _ => hs.stacked)

theorem Canonical.stepFailed (hs : Canonical s) {step unit : Nat} : Canonical (s.stepFailed step unit) := .logSvc hs

theorem Canonical.startRegion (hs : Canonical s) {g : RegionId} : Canonical (s.startRegion g) := by
  unfold State.startRegion
  have h1 := Canonical.repairRegion hs (g := g)
  generalize s.repairRegion g = r at h1 ⊢
  obtain ⟨s1, out⟩ := r
  have h2 := Canonical.trainStack h1 (g := g)
  dsimp -zeta only at h2 ⊢
  generalize s1.trainStack g = r at h2 ⊢
  obtain ⟨s2, bad⟩ := r
  dsimp -zeta only at h2 ⊢
  extract_lets s3 s4
  have h3 : Canonical s3 := by
    unfold s3
    split
    · exact .stepFailed (.updRegion h2)
    · exact h2
  have h4 : Canonical s4 := by
    unfold s4
    split
    · exact .stepFailed (.updRegion h3)
    · exact h3
  split
  · exact .updPart h4
  · exact h4

theorem Canonical.startFenced (hs : Canonical s) {p : Part} : Canonical (s.startFenced p) := .updPart hs

theorem Canonical.startDie (hs : Canonical s) {d : DieId} : Canonical (s.startDie d) := by
  unfold State.startDie
  split
  · exact hs
  · exact .foldl (fun _ _ h1 => .foldl (fun _ _ h2 => .startFenced h2) (.startFenced (.updRegion h1))) (.startFenced (.stepFailed (.logSelf hs)))

theorem Canonical.markFenced (hs : Canonical s) : Canonical (s.markFenced) := by
  unfold State.markFenced
  refine .foldl (fun _ _ h1 => ?_) hs
  split
  · exact .updPart h1
  · exact h1

theorem Canonical.enterRecovery (hs : Canonical s) {step : Nat} : Canonical (s.enterRecovery step) := .logSvc (.stepFailed (.updSvc hs))

theorem Canonical.enterReady (hs : Canonical s) : Canonical (s.enterReady) := .portEvent (.portEvent (.updSvc hs))

theorem Canonical.trainAll (hs : Canonical s) : Canonical (s.trainAll) := .foldl (fun _ _ h1 => .logEv h1) (.updDarit hs)

theorem Canonical.finishStart (hs : Canonical s) {sv rg : Loaded} : Canonical (s.finishStart sv rg) := by
  unfold State.finishStart
  refine .enterReady (.trainAll (.layCopies (.updSvc (.foldl (fun _ _ h1 => ?_) (.runService hs)))))
  split
  · exact h1
  · exact .runRegion h1

theorem Canonical.startParts (hs : Canonical s) : Canonical (s.startParts) :=
  .markFenced (.foldl (fun _ _ h => .startDie h) (.foldl (fun _ _ h => .startRegion h) hs))

theorem Canonical.startFlash (hs : Canonical s) : Canonical s.startFlash := by
  unfold State.startFlash
  split
  · exact (Canonical.stepFailed (.logSelf hs (unit := wholeUnit)) (step := 3) (unit := wholeUnit)).same
  · exact hs.same

theorem Canonical.startUp (hs : Canonical s) : Canonical (s.startUp) := by
  unfold State.startUp
  dsimp only
  split
  · exact .enterRecovery (.startParts hs)
  · split
    · exact .finishStart (.startFlash (.startParts hs))
    · exact .enterRecovery (.startFlash (.startParts hs))

theorem Canonical.coldStart (hs : Canonical s) : Canonical (s.coldStart) := .startUp (.bare hs)

theorem Canonical.warmReset (hs : Canonical s) : Canonical (s.warmReset) := .startUp (.warm hs)

theorem Canonical.leaveCold (hs : Canonical s) : Canonical (s.leaveCold) := by
  unfold State.leaveCold
  dsimp only
  split
  · split
    · exact .enterRecovery (.startParts (.bare (.setPower hs)))
    · exact .finishStart (.startFlash (.startParts (.bare (.setPower hs))))
  · exact .coldStart (.setPower hs)

theorem CanonicalNext.execPackageWarmReset (hs : Canonical s) : CanonicalNext (execPackageWarmReset s) := by
  unfold Machine.execPackageWarmReset
  refine .next ?_
  split
  · exact .warmReset hs
  · exact hs

theorem CanonicalNext.execControlCoreWatchdogExpiry (hs : Canonical s) {core : ControlCore} :
    CanonicalNext (execControlCoreWatchdogExpiry core s) := by
  unfold Machine.execControlCoreWatchdogExpiry
  refine .next ?_
  dsimp only
  split
  · exact .warmReset (.logEv hs)
  · exact .logEv hs

theorem Canonical.loseCopy (hs : Canonical s) {second : Bool} : Canonical (s.loseCopy second) := by
  unfold State.loseCopy
  split
  · exact .same hs
  · exact .same hs
  · exact .same hs
  · exact .same hs
  · exact .warmReset hs

theorem Canonical.fencePart (hs : Canonical s) {p : Part} : Canonical (s.fencePart p) := by
  unfold State.fencePart
  split
  · exact hs
  · exact .updPart hs

theorem Canonical.resetPart (hs : Canonical s) {p : Part} : Canonical (s.resetPart p) := .updPart hs

theorem Canonical.returnPart (hs : Canonical s) {p : Part} : Canonical (s.returnPart p) := .updPart hs

theorem CanonicalNext.execEpochAdvance (hs : Canonical s) {p : Part} : CanonicalNext (execEpochAdvance p s) := by
  unfold Machine.execEpochAdvance
  refine .next ?_
  dsimp only
  split
  · exact .quenchMended (.updPart hs)
  · exact hs

theorem Canonical.loseSlot (hs : Canonical s) {c : CoreId} {k : KsId} : Canonical (s.loseSlot c k) := by
  unfold State.loseSlot
  split
  · exact .dropSlot hs
  · exact .trapEnd (.updCmd (.dropSlot hs))

theorem Canonical.loseCoils (hs : Canonical s) {c : CoreId} : Canonical (s.loseCoils c) := by
  unfold State.loseCoils
  refine .foldl (fun _ _ h1 => ?_) hs
  dsimp only
  split
  · exact .restartRound (.setStatus h1)
  · exact .setStatus h1

theorem Canonical.replayRounds (hs : Canonical s) : Canonical (s.replayRounds) := .foldl (fun _ _ h1 => .continueRound h1) hs

theorem Canonical.clearCore (hs : Canonical s) {c : CoreId} : Canonical (s.clearCore c) :=
  have hstore : 32 ∣ coreStoreBytes := by decide
  have hunits : 32 ∣ accBytes := by decide
  have hcore : (s.coreStore.mark (c.val * coreStoreBytes) coreStoreBytes).wf = true :=
    Ram.mark_wf hs.coreStore (Dvd.dvd.mul_left hstore c.val) hstore
  have hacc : (s.accMem.mark (c.val * accBytes) accBytes).wf = true := Ram.mark_wf hs.accMem (Dvd.dvd.mul_left hunits c.val) hunits
  hs.of_memories (hcore := fun _ => hcore) (hacc := fun _ => hacc)

theorem Canonical.loseCore (hs : Canonical s) {c : CoreId} : Canonical (s.loseCore c) := by
  unfold State.loseCore
  extract_lets s1
  have h1 : Canonical s1 := .foldl (fun _ _ h => .loseSlot h) hs
  exact .updCore (.clearCore (.loseCoils h1))

theorem Canonical.coreFault (hs : Canonical s) {c : CoreId} : Canonical (s.coreFault c) := by
  unfold State.coreFault
  split
  · exact hs
  · exact .replayRounds (.loseCore (.updCore (.fencePart (.logEv hs))))

theorem CanonicalNext.execCoreFault (hs : Canonical s) {c : CoreId} {why : CoreFaultCause} : CanonicalNext (execCoreFault c why s) := by
  unfold Machine.execCoreFault
  refine .next ?_
  split
  · split
    · exact .coreFault (.updCore hs)
    · exact hs
  · exact .coreFault hs
  · exact .coreFault hs
  · exact .coreFault hs

theorem CanonicalNext.execKernelSlotStall (hs : Canonical s) {c : CoreId} {k : KsId} : CanonicalNext (execKernelSlotStall c k s) := by
  unfold Machine.execKernelSlotStall
  refine .next ?_
  split
  · exact .coreFault hs
  · exact hs

theorem Canonical.markHomed (hs : Canonical s) {g : RegionId} : Canonical (s.markHomed g) := .same hs

theorem Canonical.markCmds (hs : Canonical s) {g : RegionId} : Canonical (s.markCmds g) := .same hs

theorem Canonical.markRegion (hs : Canonical s) {g : RegionId} :
    Canonical { s with regionMem := s.regionMem.mark (g.val * regionBytes) regionBytes } :=
  have hspan : 32 ∣ regionBytes := by decide
  have hwf : (s.regionMem.mark (g.val * regionBytes) regionBytes).wf = true := Ram.mark_wf hs.regionMem (Dvd.dvd.mul_left hspan g.val) hspan
  hs.of_memories (hregion := fun _ => hwf)

theorem Canonical.clearRegion (hs : Canonical s) {g : RegionId} : Canonical (s.clearRegion g) :=
  .updRegion (.markRegion (.foldl (fun _ _ h => .updCore (.loseCore h)) hs))

theorem Canonical.moveCopies (hs : Canonical s) {g : RegionId} : Canonical (s.moveCopies g) := by
  unfold State.moveCopies
  extract_lets s1
  have h1 : Canonical s1 := by
    unfold s1
    split
    · exact .loseCopy hs
    · exact hs
  split
  · exact .loseCopy h1
  · exact h1

theorem CanonicalNext.execCommandStoreCopyLoss (hs : Canonical s) {loss : CopyLoss} : CanonicalNext (execCommandStoreCopyLoss loss s) := by
  unfold Machine.execCommandStoreCopyLoss
  refine .next ?_
  split
  · exact .foldl (fun _ _ h1 => .failCmd h1) (.loseCopy hs)
  · exact hs

theorem Canonical.beginReset (hs : Canonical s) {g : RegionId} {cause : Nat} : Canonical (s.beginReset g cause) := by
  unfold State.beginReset
  split
  · exact hs
  · exact .replayRounds (.moveCopies (.clearRegion (.foldl (fun _ _ h1 => .resetPart h1) (.resetPart (.quenchBroken (.markCmds (.logEv hs)))))))

theorem CanonicalNext.execRegionReset (hs : Canonical s) {g : RegionId} : CanonicalNext (execRegionReset g s) := .next (.beginReset hs)

theorem CanonicalNext.execRegionWatchdogExpiry (hs : Canonical s) {g : RegionId} : CanonicalNext (execRegionWatchdogExpiry g s) := by
  unfold Machine.execRegionWatchdogExpiry
  refine .next ?_
  split
  · exact hs
  · exact .beginReset (.updRegion hs)

theorem CanonicalAct.rebuildAct {ctx : Nat} {cm : Cmd} : CanonicalAct (rebuildAct ctx cm) :=
  .bind .getNat fun _ => .bind .getNat fun _ => .putVirt

theorem Canonical.failAll (hs : Canonical s) {l : List (Nat × Nat)} : Canonical (s.failAll l) := .foldl (fun _ _ h1 => .failCmd h1) hs

theorem Canonical.rebuildGo (hs : Canonical s) {cms : List Cmd} {bad bad' : List (Nat × Nat)} {t : State}
    (e : rebuildGo cms s bad = some (t, bad')) : Canonical t := by
  induction cms generalizing s bad with
  | nil => cases e; exact hs
  | cons cm cms ih =>
    unfold Machine.rebuildGo at e
    split at e
    · exact ih (CanonicalAct.rebuildAct.keeps hs ‹_›) e
    · exact ih (.noteErr hs) e
    · exact ih hs e
    · exact nomatch e

theorem Canonical.answering (hs : Canonical s) {g : RegionId} : Canonical (s.answering g) := .updPart (.updPart hs)

theorem Canonical.reloadRegion (hs : Canonical s) {g : RegionId} : Canonical (s.reloadRegion g).1 := by
  unfold State.reloadRegion
  have h1 := Canonical.repairRegion hs (g := g)
  generalize s.repairRegion g = r at h1 ⊢
  obtain ⟨s1, out⟩ := r
  have h2 := Canonical.trainStack h1 (g := g)
  dsimp only at h2 ⊢
  generalize s1.trainStack g = r at h2 ⊢
  obtain ⟨s2, bad⟩ := r
  dsimp only at h2 ⊢
  split
  · exact .runRegion h2
  · exact .regionOut h2

theorem Canonical.returnCores (hs : Canonical s) {g : RegionId} : Canonical (s.returnCores g) := by
  unfold State.returnCores
  refine .foldl (fun _ _ h1 => ?_) hs
  split
  · exact .fencePart h1
  · exact .returnPart h1

theorem Canonical.leaveService (hs : Canonical s) {g : RegionId} : Canonical (s.leaveService g) :=
  .foldl (fun _ _ h1 => .fencePart h1) (.fencePart hs)

theorem Canonical.finishReset (hs : Canonical s) {g : RegionId} {t : State} (e : s.finishReset g = some t) : Canonical t := by
  unfold State.finishReset at e
  have h1 := Canonical.reloadRegion hs (g := g)
  generalize s.reloadRegion g = r at h1 e
  obtain ⟨s1, ok⟩ := r
  dsimp -zeta only at h1 e
  split at e
  · rw [← Option.some.inj e]
    exact .quenchMended (.leaveService h1)
  · split at e
    · exact nomatch e
    · rename_i s2 bad h2
      have h3 : Canonical s2 := .rebuildGo (.answering h1) h2
      rw [← Option.some.inj e]
      exact .quenchMended (.runCulls (.replayRounds (.failAll (.returnCores (.returnPart h3.same)))))

theorem Canonical.updPort (hs : Canonical s) {p : DaritPort} {f : DPort → DPort} : Canonical (s.updPort p f) := .updDarit hs

theorem Canonical.logDarit (hs : Canonical s) {cause unit : Nat} : Canonical (s.logDarit cause unit) := .logEv hs

theorem Canonical.portLeaves (hs : Canonical s) {p : DaritPort} : Canonical (s.portLeaves p) := by
  unfold State.portLeaves
  split
  · exact .logDarit (.updPart (.dropTransfers hs))
  · exact hs

theorem Canonical.portRests (hs : Canonical s) {p : DaritPort} : Canonical (s.portRests p) := .quenchMended (.updPart hs)

theorem Canonical.portTo (hs : Canonical s) {p : DaritPort} {st : LinkState} {cause : Nat} : Canonical (s.portTo p st cause) := by
  unfold State.portTo
  dsimp only
  split
  · exact .quenchBroken (.resetPart (.updPort (.portLeaves hs)))
  · exact .portRests (.updPort (.portLeaves hs))

theorem Canonical.portReset (hs : Canonical s) {p : DaritPort} : Canonical (s.portReset p) := by
  unfold State.portReset
  dsimp only
  split
  · exact .logDarit (.portTo hs)
  · exact .portTo hs

theorem Canonical.portFenced (hs : Canonical s) {p : DaritPort} : Canonical (s.portFenced p) := by
  unfold State.portFenced
  split
  · exact .logDarit (.portTo hs)
  · exact hs

theorem Canonical.dieFault (hs : Canonical s) {d : DieId} : Canonical (s.dieFault d) := by
  unfold State.dieFault
  split
  · exact hs
  · exact .replayRounds (.foldl (fun _ _ h => .moveCopies h) (.foldl (fun _ _ h => .portFenced h) (.foldl (fun _ _ h1 => .holdCmd h1)
      (.foldl (fun _ _ h1 => .foldl (fun _ _ h => .loseCore h) h1) (.foldl (fun _ _ h1 => .foldl (fun _ _ h2 => .fencePart h2) (.fencePart h1))
      (.quenchBroken (.fencePart (.logEv hs))))))))

theorem CanonicalNext.execDieFault (hs : Canonical s) {d : DieId} : CanonicalNext (execDieFault d s) := .next (.dieFault hs)

theorem Canonical.redispatch (hs : Canonical s) {q n : Nat} : Canonical (s.redispatch q n) := by
  unfold State.redispatch
  split
  · exact hs
  · have h1 := Canonical.payOwed hs (q := q) (n := n)
    generalize s.payOwed q n = r at h1 ⊢
    obtain ⟨s1, paid⟩ := r
    dsimp only at h1 ⊢
    split
    · exact .updCmd (.releaseHolds h1)
    · exact h1

theorem Canonical.unhold (hs : Canonical s) {p : HoldWhy → Bool} : Canonical (s.unhold p) := .foldl (fun _ _ h1 => .redispatch h1) hs

theorem Canonical.loseStack (hs : Canonical s) {g : RegionId} : Canonical (s.loseStack g) := (Canonical.markStack hs (g := g)).same

theorem Canonical.regionBack (hs : Canonical s) {lost : List RegionId} {g : RegionId} : Canonical (State.regionBack lost s g) := by
  unfold State.regionBack
  extract_lets s1 s2
  have h1 : Canonical s1 := .clearRegion (.markHomed hs)
  have h2 : Canonical s2 := by
    unfold s2
    split
    · exact .loseStack h1
    · exact h1
  split
  · exact h2
  · exact .resetPart h2

theorem Canonical.finishAll (hs : Canonical s) {gs : List RegionId} {t : State} (e : finishAll gs s = some t) : Canonical t := by
  induction gs generalizing s with
  | nil => cases e; exact hs
  | cons g gs ih =>
    unfold Machine.finishAll at e
    split at e
    · exact ih hs e
    · split at e
      · exact ih (.finishReset hs ‹_›) e
      · exact nomatch e

theorem Canonical.dieReturn (hs : Canonical s) {d : DieId} {lost : List RegionId} : Canonical (s.dieReturn d lost) := by
  unfold State.dieReturn
  split
  · exact hs
  · split
    · exact .logSelf hs
    · dsimp only
      split
      · exact hs
      · exact .quenchMended (.runCulls (.unhold (.foldl (fun _ _ h => .portReset h) (.finishAll (.foldl (fun _ _ h => .regionBack h) (.returnPart
          (.resetPart (.logEv hs)))) ‹_›))))

theorem CanonicalNext.execDieReturn (hs : Canonical s) {d : DieId} {stacksLost : List RegionId} : CanonicalNext (execDieReturn d stacksLost s) :=
  .next (.dieReturn hs)

theorem Canonical.answer (hs : Canonical s) {h : SvcHdr} {status : Nat} {body : List Byte} : Canonical (s.answer h status body) := .same hs

theorem Canonical.portWake (hs : Canonical s) : Canonical (s.portWake) := by
  unfold State.portWake
  split
  · exact .updSvc (.leaveCold hs)
  · exact .awake hs

theorem Canonical.svc? (hs : Canonical s) {h : SvcHdr} {w : SvcWhen} {f : State → State} (hf : ∀ s, Canonical s → Canonical (f s)) :
    Canonical (s.svc? h w f) := by
  unfold State.svc?
  extract_lets s1
  have h1 : Canonical s1 := .portWake hs
  split
  · exact h1
  · split
    · exact .answer h1
    · split
      · exact hf _ h1
      · exact .answer h1

theorem CanonicalNext.execServiceSessionConnect (hs : Canonical s) : CanonicalNext (execServiceSessionConnect s) := by
  unfold Machine.execServiceSessionConnect
  refine .next ?_
  split
  · exact hs
  · exact .fresh (.updSvc hs)

theorem CanonicalNext.execServiceSessionClose (hs : Canonical s) : CanonicalNext (execServiceSessionClose s) := .next (.updSvc hs)

theorem CanonicalNext.execHello (hs : Canonical s) {hdr : SvcHdr} : CanonicalNext (execHello hdr s) := .next (.svc? hs fun _ h1 => .answer h1)

theorem CanonicalNext.execStatus (hs : Canonical s) {hdr : SvcHdr} : CanonicalNext (execStatus hdr s) := .next (.svc? hs fun _ h1 => .answer h1)

theorem CanonicalNext.execReadLog (hs : Canonical s) {hdr : SvcHdr} {first count : Nat} : CanonicalNext (execReadLog hdr first count s) := by
  unfold Machine.execReadLog
  refine .next (.svc? hs fun _ h1 => ?_)
  split <;> exact .answer h1

theorem CanonicalNext.execAttest (hs : Canonical s) {hdr : SvcHdr} {nonce : List Byte} : CanonicalNext (execAttest hdr nonce s) := by
  unfold Machine.execAttest
  refine .next (.svc? hs fun _ h1 => ?_)
  split <;> exact .answer h1

theorem CanonicalNext.execDoeAttest (hs : Canonical s) {port : HostPort} {nonce : List Byte} : CanonicalNext (execDoeAttest port nonce s) := by
  unfold Machine.execDoeAttest
  refine .next ?_
  split
  · exact .same hs
  · exact hs

theorem Canonical.stageBegin (hs : Canonical s) {h : SvcHdr} {kind size : Nat} : Canonical (s.stageBegin h kind size) := by
  unfold State.stageBegin
  dsimp only
  split
  · exact .answer hs
  · split
    · exact .answer hs
    · exact .answer (.updFw hs)

theorem CanonicalNext.execStageBegin (hs : Canonical s) {hdr : SvcHdr} {kind size : Nat} : CanonicalNext (execStageBegin hdr kind size s) :=
  .next (.svc? hs fun _ h1 => .stageBegin h1)

theorem Canonical.stageData (hs : Canonical s) {h : SvcHdr} {kind off : Nat} {data : List Byte} : Canonical (s.stageData h kind off data) := by
  unfold State.stageData
  dsimp only
  split
  · exact .answer hs
  · exact .answer (.updFw hs)

theorem CanonicalNext.execStageData (hs : Canonical s) {hdr : SvcHdr} {kind off : Nat} {data : List Byte} :
    CanonicalNext (execStageData hdr kind off data s) :=
  .next (.svc? hs fun _ h1 => .stageData h1)

theorem Canonical.stageEnd (hs : Canonical s) {h : SvcHdr} {kind : Nat} : Canonical (s.stageEnd h kind) := by
  unfold State.stageEnd
  dsimp only
  split
  · exact .answer hs
  · split <;> exact .answer (.logSvc (.updFw hs))

theorem CanonicalNext.execStageEnd (hs : Canonical s) {hdr : SvcHdr} {kind : Nat} : CanonicalNext (execStageEnd hdr kind s) :=
  .next (.svc? hs fun _ h1 => .stageEnd h1)

theorem Canonical.updSlots (hs : Canonical s) {f : TimeSlots → TimeSlots} : Canonical (s.updSlots f) := .same hs

theorem Canonical.send (hs : Canonical s) {id cls : Nat} {prio : PrioClass} {bytes : Nat} {path : List FabLink} {chan : Option Nat}
    {write : Bool} {age : optParam Nat 0} {vc : optParam (Fin 3) 0} : Canonical (s.send id cls prio bytes path chan write age vc) := by
  unfold State.send
  split
  · exact hs
  · exact .updSlots hs

theorem Canonical.transitRead (hs : Canonical s) {r : FabricReq} : Canonical (s.transitRead r) := by
  unfold State.transitRead
  split
  · exact .same hs
  · exact .same (.noteBlockBy hs)

theorem Ram.wf_insertBad {m : Ram} (h : m.wf = true) (b : Nat) {v : BitVec 288} (hv : v ≠ 0) :
    ({ m with bad := insertAt m.bad b v } : Ram).wf = true := by
  obtain ⟨hcells, hwhole, hbad, hmask⟩ := (Ram.wf_iff m).1 h
  refine (Ram.wf_iff _).2 ⟨hcells, hwhole, sortedKeys_insertAt _ _ hbad, fun x hx => ?_⟩
  rcases mem_insertAt hx with rfl | hx
  · exact hv
  · exact hmask x hx

theorem Canonical.transitWrite (hs : Canonical s) {r : FabricReq} : Canonical (s.transitWrite r) := by
  unfold State.transitWrite
  split
  · exact hs
  · rename_i hr
    split
    · exact hs.of_memories (hregion := fun h => Ram.wf_insertBad h _ hr)
    · exact hs.of_memories (hstacked := fun h => Ram.wf_insertBad h _ hr)

theorem Canonical.fabricAccess (hs : Canonical s) {r : FabricReq} : Canonical (s.fabricAccess r) := by
  unfold State.fabricAccess
  split
  · extract_lets a here
    refine .ite hs.same ?_
    split
    · split
      · rename_i s1 h1
        have h2 : Canonical (s1.transitWrite r) := .transitWrite (Canonical.writeLoc hs _ h1)
        exact h2.same
      · exact hs.same
    · have h1 : Canonical (s.noteRead (reqLoc r) 32) := .noteRead hs
      refine .ite (.transitRead hs) ?_
      split
      · exact h1.same
      · exact h1.same
  · exact hs.same

theorem Canonical.sendReply (hs : Canonical s) {r : FabricReq} : Canonical (s.sendReply r) := .send hs

theorem Canonical.sendAway (hs : Canonical s) {r : FabricReq} {via : RouteAcc} : Canonical (s.sendAway r via) := by
  unfold State.sendAway
  split
  · exact hs
  · split
    · exact hs
    · exact .send hs

theorem Canonical.station (hs : Canonical s) {r : FabricReq} : Canonical (s.station r).1 := by
  unfold State.station
  split
  · exact .sendReply (.fabricAccess hs)
  · exact .logAbsent hs

theorem Canonical.addWait (hs : Canonical s) {r : FabricReq} {stage : FabricStage} {via : Option RouteAcc} : Canonical (s.addWait r stage via) :=
  .same hs

theorem Canonical.requestAway (hs : Canonical s) {r : FabricReq} {node : Nat} : Canonical (s.requestAway r node) := by
  unfold State.requestAway
  split
  · exact .addWait (.logEv hs)
  · split
    · exact .addWait hs
    · exact .addWait (.sendAway hs)

theorem Canonical.request (hs : Canonical s) {r : FabricReq} : Canonical (s.request r) := by
  unfold State.request
  split
  · exact .requestAway hs
  · split
    · exact .addWait hs
    · exact .addWait (.station hs)

theorem Canonical.reissueAway (hs : Canonical s) {r : FabricReq} : Canonical (s.reissueAway r) := by
  unfold State.reissueAway
  split
  · exact .request hs
  · split
    · exact .same (.logEv hs)
    · exact .same (.sendAway hs)

theorem CanonicalNext.execFabricRequest (hs : Canonical s) {r : FabricReq} : CanonicalNext (execFabricRequest r s) := .next (.request hs)

theorem Canonical.again (hs : Canonical s) {mine : FabricWait → Bool} {f : FabricReq → FabricReq} : Canonical (s.again mine f) :=
  .foldl (fun _ _ h1 => .request h1) (.same hs)

theorem Canonical.tryAway (hs : Canonical s) {rejected : Bool} : Canonical (s.tryAway rejected) := .again hs

theorem CanonicalNext.execFabricReply (hs : Canonical s) {id : Nat} {epoch : W16} : CanonicalNext (execFabricReply id epoch s) := by
  unfold Machine.execFabricReply
  refine .next ?_
  split
  · exact hs
  · split
    · exact hs
    · refine .tryAway ?_
      split
      · exact .same hs
      · exact .request (.same hs)

theorem Canonical.reissue (hs : Canonical s) {p : Part} : Canonical (s.reissue p) := .again hs

theorem CanonicalNext.execPartAbsentRetry (hs : Canonical s) {p : Part} : CanonicalNext (execPartAbsentRetry p s) := by
  unfold Machine.execPartAbsentRetry
  refine .next ?_
  split
  · exact .reissue hs
  · exact .foldl (fun _ _ h1 => .logAbsent h1) hs
  · exact hs

theorem CanonicalNext.execBulkPromotion (hs : Canonical s) {link : FabLink} {id : Nat} : CanonicalNext (execBulkPromotion link id s) := by
  unfold Machine.execBulkPromotion
  refine .next ?_
  dsimp only
  split
  · exact .updCnt (.updSlots hs)
  · exact hs

theorem Canonical.turnBus (hs : Canonical s) {t : Transfer} : Canonical (s.turnBus t) := by
  unfold State.turnBus
  split
  · dsimp only
    split
    · exact hs
    · exact .updCnt (.updRegion hs)
  · exact hs

theorem Canonical.sendFlit (hs : Canonical s) {t : Transfer} : Canonical (s.sendFlit t) := by
  unfold State.sendFlit
  split
  · exact .updPort hs
  · exact hs

theorem Canonical.grants (hs : Canonical s) {cls : Nat} : Canonical (s.grants cls) :=
  .updSlots (.foldl (fun _ _ h => .sendFlit h) (.foldl (fun _ _ h => .turnBus h) hs))

theorem Canonical.tick (hs : Canonical s) : Canonical (s.tick) := .same hs

theorem Canonical.dropAged (hs : Canonical s) {unit : Nat} : Canonical (s.dropAged unit) := .logLimited (.updDarit hs)

theorem Canonical.dropOld (hs : Canonical s) : Canonical (s.dropOld) := .foldl (fun _ _ h1 => .dropAged h1) (.dropTransfers hs)

theorem CanonicalNext.execTimeSlotStart (hs : Canonical s) : CanonicalNext (execTimeSlotStart s) :=
  .next (.grants (.dropOld (.updSlots (.tick hs))))

theorem CanonicalNext.execSlotTableEffect (hs : Canonical s) : CanonicalNext (execSlotTableEffect s) := .next (.updSlots hs)

theorem CanonicalNext.execStrobeLost (hs : Canonical s) : CanonicalNext (execStrobeLost s) := by
  unfold Machine.execStrobeLost
  refine .next ?_
  split
  · exact hs
  · exact .logEv (.updSlots hs)

theorem CanonicalNext.execStrobeReturn (hs : Canonical s) : CanonicalNext (execStrobeReturn s) := by
  unfold Machine.execStrobeReturn
  refine .next ?_
  split
  · exact .logEv (.updSlots hs)
  · exact hs

theorem CanonicalNext.execSlotTableCommit (hs : Canonical s) {port : HostPort} : CanonicalNext (execSlotTableCommit port s) := by
  unfold Machine.execSlotTableCommit
  refine .next ?_
  dsimp only
  split
  · exact .updSlots (.awake hs)
  · exact .awake hs

end Sys2Proof.Machine
end

section
/-! PROOF. Canonical memories: the mover, links, privileged requests, a quench, the mailbox and commit points (04, 16, 17, 19, 22). -/

namespace Sys2Proof.Machine

set_option Elab.async false

variable {s : State}

theorem Canonical.copyTile (hs : Canonical s) {c : CoreId} {k : KsId} {src d : Tile} : Answers Canonical (s.copyTile c k src d) :=
  .check fun _ => .check fun _ => (Canonical.writeRaw (.noteTile hs))

theorem canonicalPlan_ldt {c : CoreId} {k : KsId} {sl : KSlot} {w : W128} : CanonicalPlan (s.planLdt c k sl w) := by
  unfold State.planLdt
  repeat refine .check fun _ => ?_
  exact .ite .none (.some fun s hs => .copyTile hs)

theorem canonicalPlan_ldtWindow {c : CoreId} {k : KsId} {sl : KSlot} {w : W128} : CanonicalPlan (s.planLdtWindow c k sl w) := by
  unfold State.planLdtWindow
  repeat refine .check fun _ => ?_
  exact .ite .none (.some fun s hs => Answers.check fun _ => .ite (.writeFree hs) (.writeRaw (.noteRows hs)))

theorem Canonical.storeAcc (hs : Canonical s) {c : CoreId} {k : KsId} {base : Nat} {td : Tile} : Answers Canonical (s.storeAcc c k base td) :=
  .check fun _ => .bind (Canonical.writeRaw hs) fun _ h1 => .ok (.addFlags h1)

theorem canonicalPlan_stt {c : CoreId} {k : KsId} {sl : KSlot} {w : W128} : CanonicalPlan (s.planStt c k sl w) := by
  refine .ite ?_ ?_
  · repeat refine .check fun _ => ?_
    exact .ite .none (.some fun s hs => .storeAcc hs)
  · repeat refine .check fun _ => ?_
    exact .ite .none (.some fun s hs => .copyTile hs)

theorem Canonical.sendContrib (hs : Canonical s) {c : CoreId} {k : KsId} {w : W128} {ta : Option Tile} {td : Tile} {g : RegionId} :
    Answers Canonical (s.sendContrib c k w ta td g) := by
  refine .check fun _ => .ok (.addFlags ?_)
  cases ta with
  | none => exact hs.same
  | some t => exact (Canonical.noteTile hs (c := c) (k := k) (t := t)).same

theorem canonicalPlan_contrib {c : CoreId} {k : KsId} {sl : KSlot} {w : W128} : CanonicalPlan (s.planContrib c k sl w) := by
  refine .check fun _ => .check fun _ => .choice fun _ => ?_
  repeat refine .check fun _ => ?_
  exact .ite .none (.check fun _ => .some fun s hs => .sendContrib hs)

theorem canonicalPlan_movt {c : CoreId} {k : KsId} {sl : KSlot} {w : W128} : CanonicalPlan (s.planMovt c k sl w) := by
  refine .check fun v => .some fun s hs => .ok (.updSlot ?_)
  split
  · exact .noteRange hs
  · exact hs

theorem CanonicalAct.touchPage {p : Pool} {q n : Nat} {sq : Seq} {seq lh pn : Nat} : CanonicalAct (touchPage p q n sq seq lh pn) := by
  unfold Machine.touchPage
  refine .bind .get fun _ => ?_
  split
  · exact .fail
  · split
    · exact .pure
    · refine .bind .choosePage fun _ => ?_
      split
      · dsimp only
        split
        · refine .bind (.mapM fun _ => .popBlock) fun _ => .bind (.modify fun _ h0 => ?_) fun _ => .pure
          split
          · exact .updCnt (.updCmd h0)
          · exact .updCmd h0
        · refine .bind .pure fun _ => .bind (.modify fun _ h0 => ?_) fun _ => .pure
          split
          · exact .updCnt (.updCmd h0)
          · exact .updCmd h0

theorem CanonicalAct.putToken {p : Pool} {q n inst age : Nat} {sq : Seq} {args : KvArgs} {values : Bool} {pos : Nat} {scales elems : List Nat} :
    CanonicalAct (putToken p q n inst age sq args values pos scales elems) :=
  .bind .touchPage fun _ => .bind .need fun _ => .bind (.forIn fun _ _ => .bind .putVirt fun _ => .pure) fun _ => .modify fun _ h0 => .updCmd h0

theorem Canonical.applyKvapp (hs : Canonical s) {c : CoreId} {k : KsId} {w : W128} {a : KvArgs} {ta : Option Tile} {q n : Nat} {sq : Seq}
    {p : Pool} : Answers Canonical (s.applyKvapp c k w a ta q n sq p) := by
  have hact (u : State) (hu : Canonical u) (inst age : Nat) (toks : List (List Nat × List Nat × Flags)) (f : Flags) : Answers Canonical (do
      let (_, s) ← (do
        for x in (List.range toks.length).zip toks do
          putToken p q n inst age sq a (wMode w 3) (a.pos + x.1) x.2.1 x.2.2.1 : Act Unit).run u
      return s.addFlags c k f) := by
    have htoks : CanonicalAct (do
        for x in (List.range toks.length).zip toks do
          putToken p q n inst age sq a (wMode w 3) (a.pos + x.1) x.2.1 x.2.2.1 : Act Unit) :=
      .bind (.forIn fun _ _ => .bind .putToken fun _ => .pure) fun _ => .pure
    exact .bind (htoks.answers hu) fun _ h => .ok (.addFlags h)
  cases ta with
  | none => exact .check fun _ => hact s hs _ _ _ _
  | some t => exact .check fun _ => hact _ (.noteTile hs) _ _ _ _

theorem canonicalPlan_kvapp {c : CoreId} {k : KsId} {sl : KSlot} {w : W128} : CanonicalPlan (s.planKvapp c k sl w) := by
  refine .choice fun ta => .check fun _ => .check fun r => ?_
  repeat refine .check fun _ => ?_
  exact .ite .none (.some fun s hs => .applyKvapp hs)

theorem CanonicalAct.gatherPage {p : Pool} {sq : Seq} {own : List AppendPage} {seq inst lh endPos pos : Nat} {values : Bool} :
    CanonicalAct (gatherPage p sq own seq inst lh endPos pos values) := by
  unfold Machine.gatherPage
  split
  · refine .bind .descend fun _ => ?_
    split
    · split
      · exact .pure
      · exact .fail
    · exact .fail
  · split
    · exact .fail
    · exact .bind .need fun _ => .pure

theorem CanonicalAct.readToken {p : Pool} {page : Nat} {values : Bool} {t : Nat} : CanonicalAct (readToken p page values t) :=
  .bind (.mapM fun _ => .getVirt) fun _ => .pure

theorem Canonical.putGather (hs : Canonical s) {c : CoreId} {k : KsId} {td : Tile} {decode : Bool} {fmt : Nat}
    {toks : List (List Nat × List Nat)} : Answers Canonical (s.putGather c k td decode fmt toks) := by
  unfold State.putGather
  split
  · exact Canonical.writeNums hs
  · exact Canonical.writeRaw hs

theorem CanonicalAct.gatherTokens {p : Pool} {sq : Seq} {own : List AppendPage} {inst : Nat} {args : KvArgs} {values : Bool} :
    CanonicalAct (gatherTokens p sq own inst args values) :=
  .bind .layerEnd fun _ => .mapM fun _ => .bind .gatherPage fun _ => .readToken

theorem canonicalPlan_local {c : CoreId} {k : KsId} {sl : KSlot} {w : W128} {a : KvArgs} {td : Tile} {plain : Bool} :
    Answers (fun p : Plan => ∀ u, Canonical u → Answers Canonical (p.apply u)) (s.planLocal c k sl w a td plain) := by
  unfold State.planLocal
  dsimp only
  split
  · exact .error _
  · repeat refine .check fun _ => ?_
    exact .ok fun u hu => .bind (CanonicalAct.gatherTokens.answers hu) fun _ h => .putGather h

theorem canonicalPlan_gather {c : CoreId} {k : KsId} {sl : KSlot} {w : W128} : CanonicalPlan (s.planGather c k sl w) := by
  have hplan (p : Plan) (hp : ∀ u, Canonical u → Answers Canonical (p.apply u)) (q r : Bool) (b : Prop) [Decidable b] :
      CanonicalPlan (do need q stLimit; need r stMalformed; return if b then none else some p) := by
    refine .check fun _ => .check fun _ => ?_
    split
    · exact .none
    · exact .some hp
  refine .check fun td => .check fun _ => .check fun src => .check fun _ => ?_
  cases src with
  | node n => exact .check fun _ => .some fun u hu => .writeRaw (.fresh hu)
  | here => exact Answers.bind canonicalPlan_local fun p hp => hplan p hp _ _ _
  | asPeer => exact Answers.bind canonicalPlan_local fun p hp => hplan p hp _ _ _

theorem canonicalPlan_row {c : CoreId} {k : KsId} {r : RowKind} {sl : KSlot} {w : W128} : CanonicalPlan (rowPlan s c k r sl w) := by
  cases r with
  | fence | fenceEnd | claim | commit | scalar | branch => exact .none
  | ldt => exact canonicalPlan_ldt (sl := sl)
  | ldtGather => exact canonicalPlan_gather (sl := sl)
  | ldtWindow => exact canonicalPlan_ldtWindow (sl := sl)
  | stt => exact canonicalPlan_stt (sl := sl)
  | sttContrib => exact canonicalPlan_contrib (sl := sl)
  | movt => exact canonicalPlan_movt (sl := sl)
  | kvapp => exact canonicalPlan_kvapp (sl := sl)
  | vopTile => exact canonicalPlan_vop (sl := sl)
  | window => exact canonicalPlan_window (sl := sl)
  | norm => exact canonicalPlan_norm (sl := sl)
  | measure => exact canonicalPlan_measure (sl := sl)
  | cast => exact canonicalPlan_cast (sl := sl)
  | rot => exact canonicalPlan_rot (sl := sl)
  | argmax => exact canonicalPlan_argmax (sl := sl)
  | gumbel => exact canonicalPlan_gumbel (sl := sl)
  | mma => exact canonicalPlan_mma (sl := sl)
  | mma3 => exact canonicalPlan_mma3 (sl := sl)
  | cmma => exact canonicalPlan_cmma (sl := sl)
  | score => exact canonicalPlan_score (sl := sl)
  | step => exact canonicalPlan_step (sl := sl)

/-- An engine's row, by its plan. -/
theorem CanonicalNext.issue (hs : Canonical s) {c : CoreId} {k : KsId} {r : RowKind} {e : Engine} :
    CanonicalNext (.next (s.issue c k r e (fun s ns => s.makeResident c k ns) (rowPlan s c k r))) :=
  .next (.issue hs fun _ _ => canonicalPlan_row)

theorem Canonical.writePcfg (hs : Canonical s) {p : DaritPort} {v : Nat} : Canonical (s.writePcfg p v) := .portReset (.updPort hs)

theorem CanonicalNext.execPortConfigWrite (hs : Canonical s) {p : DaritPort} {v : W32} : CanonicalNext (execPortConfigWrite p v s) := by
  unfold Machine.execPortConfigWrite
  refine .next ?_
  dsimp only
  split
  · exact .writePcfg (.awake hs)
  · exact .awake hs

theorem Canonical.writeTopology (hs : Canonical s) {node : Bool} {v : Nat} : Canonical (s.writeTopology node v) := by
  unfold State.writeTopology
  refine .foldl (fun _ _ h1 => ?_) (.updDarit hs)
  split
  · exact .portReset h1
  · exact h1

theorem CanonicalNext.execTopologyWrite (hs : Canonical s) {node : Bool} {v : W32} : CanonicalNext (execTopologyWrite node v s) := by
  unfold Machine.execTopologyWrite
  refine .next ?_
  dsimp only
  split
  · exact .writeTopology (.awake hs)
  · exact .awake hs

theorem CanonicalNext.execRetrain (hs : Canonical s) {p : DaritPort} : CanonicalNext (execRetrain p s) := by
  unfold Machine.execRetrain
  refine .next ?_
  dsimp only
  split
  · exact .portReset (.awake hs)
  · exact .awake hs

theorem CanonicalNext.execPortCountersClear (hs : Canonical s) {p : DaritPort} {v : W32} : CanonicalNext (execPortCountersClear p v s) := by
  unfold Machine.execPortCountersClear
  refine .next ?_
  dsimp only
  split
  · exact .updPort (.awake hs)
  · exact .awake hs

theorem CanonicalNext.execAgedCounterClear (hs : Canonical s) {v : W32} : CanonicalNext (execAgedCounterClear v s) := by
  unfold Machine.execAgedCounterClear
  refine .next ?_
  dsimp only
  split
  · exact .updDarit (.awake hs)
  · exact .awake hs

theorem Canonical.holdPort (hs : Canonical s) {p : DaritPort} {cause : Nat} {f : DPort → DPort} : Canonical (s.holdPort p cause f) :=
  .portRests (.logDarit (.updPort hs))

theorem Canonical.logLanes (hs : Canonical s) {p : DaritPort} {f : BitVec 17} : Canonical (s.logLanes p f) := by
  unfold State.logLanes
  dsimp only
  split
  · refine .logDarit ?_
    split
    · exact .logDarit (.foldl (fun _ _ h1 => .logDarit h1) hs)
    · exact .foldl (fun _ _ h1 => .logDarit h1) hs
  · split
    · exact .logDarit (.foldl (fun _ _ h1 => .logDarit h1) hs)
    · exact .foldl (fun _ _ h1 => .logDarit h1) hs

theorem Canonical.learn (hs : Canonical s) {node : Nat} {inc : W16} : Canonical (s.learn node inc) := by
  unfold State.learn
  extract_lets changed s1
  have h1 : Canonical s1 := .updDarit hs
  exact .ite h1.same h1

theorem Canonical.routesChanged (hs : Canonical s) : Canonical (s.routesChanged) := .tryAway (.unhold (.logDarit hs))

theorem Canonical.portUp (hs : Canonical s) {p : DaritPort} {o : TrainObs} : Canonical (s.portUp p o) :=
  .quenchMended (.routesChanged (.returnPart (.learn (.updPort hs))))

theorem Canonical.trainRef (hs : Canonical s) : Canonical (s.trainRef) := by
  unfold State.trainRef
  dsimp only
  split
  · exact .logEv (.same hs)
  · exact .same hs

theorem Canonical.trainPort (hs : Canonical s) {p : DaritPort} {o : TrainObs} : Canonical (s.trainPort p o) := by
  unfold State.trainPort
  dsimp only
  split
  · exact hs
  · split
    · exact .portRests (.updPort (.trainRef hs))
    · exact .holdPort (.trainRef hs)
    · split
      · exact .holdPort (.logLanes (.trainRef hs))
      · split
        · exact .portUp (.logLanes (.trainRef hs))
        · exact .holdPort (.logLanes (.trainRef hs))

theorem Canonical.senseCable (hs : Canonical s) {p : DaritPort} {o : Cable} : Canonical (s.senseCable p o) := by
  unfold State.senseCable
  dsimp only
  split
  · split
    · exact .resetPart (.updPort hs)
    · exact .updPort hs
    · exact .updPort hs
  · exact hs

theorem CanonicalNext.execCableSense (hs : Canonical s) {p : DaritPort} {o : Cable} : CanonicalNext (execCableSense p o s) := .next (.senseCable hs)

theorem Canonical.loseLane (hs : Canonical s) {p : DaritPort} {lane : Fin 17} : Canonical (s.loseLane p lane) := by
  unfold State.loseLane
  dsimp only
  split
  · exact hs
  · split
    · split
      · exact .logDarit (.updPort hs)
      · exact .logDarit (.updPort (.logDarit (.updPort hs)))
    · split
      · exact .logDarit (.updPort hs)
      · split
        · exact .portTo (.logDarit (.updPort hs))
        · exact .logDarit (.portTo (.logDarit (.updPort hs)))

theorem CanonicalNext.execLaneFailure (hs : Canonical s) {p : DaritPort} {lane : Fin 17} : CanonicalNext (execLaneFailure p lane s) :=
  .next (.loseLane hs)

theorem CanonicalNext.execDaritPortFault (hs : Canonical s) {p : DaritPort} : CanonicalNext (execDaritPortFault p s) := by
  unfold Machine.execDaritPortFault
  refine .next ?_
  split
  · exact .portReset (.logDarit hs)
  · exact hs

theorem CanonicalNext.execFlitReceive (hs : Canonical s) {p : DaritPort} {seq : BitVec 12} {check : FlitCheck} :
    CanonicalNext (execFlitReceive p seq check s) := by
  unfold Machine.execFlitReceive
  refine .next ?_
  dsimp only
  split
  · exact hs
  · split <;> exact .updPort (.updPort hs)

theorem Canonical.sendOn (hs : Canonical s) {p q : DaritPort} {f : Frame} {vc : Fin 3} : Canonical (s.sendOn p q f vc) := .send (.same hs)

theorem Canonical.forward (hs : Canonical s) {p : DaritPort} {f : Frame} : Canonical (s.forward p f) := by
  unfold State.forward
  split
  · exact hs
  · split
    · exact .dropAged hs
    · split
      · split
        · exact hs
        · exact .logAbsent hs
      · split
        · exact .logEv hs
        · split
          · exact hs
          · split
            · exact .sendOn hs
            · exact hs

theorem CanonicalNext.execFrameForward (hs : Canonical s) {p : DaritPort} {f : Frame} : CanonicalNext (execFrameForward p f s) :=
  .next (.forward (.leaveLow hs))

theorem CanonicalNext.execRemoteRequestTimeout (hs : Canonical s) {id : Nat} : CanonicalNext (execRemoteRequestTimeout id s) := by
  unfold Machine.execRemoteRequestTimeout
  refine .next ?_
  dsimp only
  split
  · exact hs
  · exact .tryAway (.reissueAway (.updSlots (.same hs)))

theorem CanonicalNext.execTrunkStateChange (hs : Canonical s) {node dim : Nat} {minus up : Bool} :
    CanonicalNext (execTrunkStateChange node dim minus up s) := by
  unfold Machine.execTrunkStateChange
  refine .next ?_
  split
  · exact hs
  · exact .routesChanged (.updDarit hs)

theorem Canonical.serveGather (hs : Canonical s) {r : RemoteGather} : Answers (fun x => Canonical x.2.2) (s.serveGather r) := by
  unfold State.serveGather
  split
  · exact .error _
  · exact .check fun _ => .check fun _ => .check fun _ => .check fun _ => .bind (CanonicalAct.gatherTokens.answers hs) fun _ h => .ok h

theorem CanonicalNext.execRemoteGatherServe (hs : Canonical s) {r : RemoteGather} : CanonicalNext (execRemoteGatherServe r s) := by
  unfold Machine.execRemoteGatherServe
  refine .next ?_
  extract_lets s1
  have h1 : Canonical s1 := .leaveLow hs
  split
  · rename_i g toks s2 e
    have h2 : Canonical s2 := Canonical.serveGather h1 (r := r) (g, toks, s2) e
    exact h2.same
  · rename_i st nt _
    exact (Canonical.noteErr h1 (n := nt)).same
  · exact h1.same

theorem Canonical.refuseAuth (hs : Canonical s) {h : SvcHdr} : Canonical (s.refuseAuth h) := .answer (.logSvc hs)

theorem Canonical.testEnd (hs : Canonical s) {i : Instr} {status unit : Nat} {pass : Bool} : Canonical (s.testEnd i status unit pass) := by
  unfold State.testEnd
  dsimp only
  split
  · refine .answer ?_
    split
    · exact .logSvc hs
    · exact hs
  · refine .updSvc ?_
    split
    · exact .logSvc hs
    · exact hs

theorem Canonical.reqEnd (hs : Canonical s) {i : Instr} {status : Nat} : Canonical (s.reqEnd i status) := by
  unfold State.reqEnd
  split
  · exact .answer hs
  · exact hs

theorem Canonical.askRegion (hs : Canonical s) {g : RegionId} : Canonical (s.askRegion g) :=
  .foldl (fun _ _ h1 => .foldl (fun _ _ h2 => .updSlot h2) h1) hs

theorem Canonical.unaskRegion (hs : Canonical s) {g : RegionId} : Canonical (s.unaskRegion g) :=
  .foldl (fun _ _ h1 => .foldl (fun _ _ h2 => .updSlot h2) h1) hs

theorem Canonical.parkRegion (hs : Canonical s) {g : RegionId} : Canonical (s.parkRegion g) := .foldl (fun _ _ h1 => .setStatus h1) hs

theorem Canonical.beginDrain (hs : Canonical s) {g : RegionId} : Canonical (s.beginDrain g) := .askRegion (.parkRegion (.updRegion hs))

theorem Canonical.activateNext (hs : Canonical s) {i : Instr} {left : List Nat} : Canonical (s.activateNext i left) := by
  unfold State.activateNext
  split
  · exact .reqEnd (.updSvc hs)
  · split
    · exact .reqEnd (.updSvc hs)
    · exact .beginDrain (.updSvc hs)

theorem Canonical.commitSvn (hs : Canonical s) {i : Instr} {kind : Nat} : Canonical (s.commitSvn i kind) := by
  unfold State.commitSvn
  split
  · exact .reqEnd hs
  · exact .reqEnd (.logSvc (.updFw (.updSvc hs)))

theorem Canonical.programFuse (hs : Canonical s) {i : Instr} {entry : Nat} : Canonical (s.programFuse i entry) := by
  unfold State.programFuse
  split
  · exact .reqEnd hs
  · split
    · exact .reqEnd hs
    · split
      · exact .reqEnd hs
      · exact .reqEnd (.updSvc hs)

theorem Canonical.leaveTrip (hs : Canonical s) : Canonical (s.leaveTrip) := .coldStart (.updPwr hs)

theorem Canonical.resume (hs : Canonical s) {i : Instr} : Canonical (s.resume i) := by
  unfold State.resume
  split
  · exact .reqEnd hs
  · split
    · exact .reqEnd hs
    · exact .reqEnd (.leaveTrip hs)

theorem Canonical.checkerOut (hs : Canonical s) {target : Nat} : Canonical (s.checkerOut target) := by
  unfold State.checkerOut
  dsimp only
  split
  · exact .updFls (.logSelf hs)
  · split
    · exact .logSelf hs
    · exact .quenchMended (.leaveService (.regionOut (.updRegion (.beginReset (.logSelf hs)))))

theorem Canonical.inSlotTest (hs : Canonical s) {i : Instr} {limit target timeout : Nat} {pass checker : Bool} :
    Canonical (s.inSlotTest i limit target timeout pass checker) := by
  unfold State.inSlotTest
  split
  · exact .testEnd hs
  · split
    · exact .testEnd hs
    · refine .testEnd ?_
      split
      · exact .checkerOut hs
      · exact hs

theorem Canonical.regionTest (hs : Canonical s) {i : Instr} {kind target timeout : Nat} : Canonical (s.regionTest i kind target timeout) := by
  unfold State.regionTest
  split
  · exact .testEnd hs
  · split
    · exact .testEnd hs
    · split
      · exact .testEnd hs
      · exact .beginDrain (.updSvc hs)

theorem Canonical.vectorTest (hs : Canonical s) {i : Instr} {target timeout : Nat} : Canonical (s.vectorTest i target timeout) := by
  unfold State.vectorTest
  split
  · exact .testEnd hs
  · dsimp only
    split
    · exact .testEnd hs
    · exact .updCore (.updSvc hs)

theorem Canonical.portTest (hs : Canonical s) {i : Instr} {target timeout : Nat} : Canonical (s.portTest i target timeout) := by
  unfold State.portTest
  split
  · split
    · exact .testEnd hs
    · dsimp only
      split
      · exact .updSvc (.portReset hs)
      · exact .testEnd (.portReset hs)
  · exact .testEnd hs

theorem Canonical.runRequest (hs : Canonical s) {i : Instr} : Canonical (s.runRequest i) := by
  unfold State.runRequest
  split
  · split
    · exact .activateNext hs
    · exact .reqEnd hs
  · exact .commitSvn hs
  · exact .reqEnd (.warmReset hs)
  · exact .programFuse hs
  · exact .resume hs
  · exact .inSlotTest hs
  · exact .inSlotTest hs
  · exact .regionTest hs
  · exact .regionTest hs
  · exact .vectorTest hs
  · exact .portTest hs
  · exact hs

theorem Canonical.serveGo (hs : Canonical s) {f : Nat} : Canonical (serveGo f s) := by
  induction f generalizing s with
  | zero => exact hs
  | succ f ih =>
    unfold Machine.serveGo
    split
    · exact hs
    · exact .ite (ih (.runRequest (.updSvc hs))) hs

theorem Canonical.serveNext (hs : Canonical s) : Canonical (s.serveNext) := .serveGo hs

theorem Canonical.submit (hs : Canonical s) {i : Instr} : Canonical (s.submit i) := by
  unfold State.submit
  split
  · exact .runRequest hs
  · split
    · exact .updSvc hs
    · split
      · exact .answer hs
      · exact .testEnd hs

theorem Canonical.privileged (hs : Canonical s) {h : SvcHdr} {sig : SvcSig} {body : List Byte} {w : SvcWhen} {i : Instr} :
    Canonical (s.privileged h sig body w i) := by
  unfold State.privileged
  refine .svc? hs fun _ h1 => ?_
  split
  · exact .submit h1
  · exact .refuseAuth h1

theorem CanonicalNext.execActivate (hs : Canonical s) {hdr : SvcHdr} {sig : SvcSig} {mask : BitVec 12} {force : Bool} {timeoutMs : Nat} :
    CanonicalNext (execActivate hdr sig mask force timeoutMs s) :=
  .next (.privileged hs)

theorem CanonicalNext.execCommitSvn (hs : Canonical s) {hdr : SvcHdr} {sig : SvcSig} {kind : Nat} :
    CanonicalNext (execCommitSvn hdr sig kind s) :=
  .next (.privileged hs)

theorem CanonicalNext.execResetPackage (hs : Canonical s) {hdr : SvcHdr} {sig : SvcSig} : CanonicalNext (execResetPackage hdr sig s) :=
  .next (.privileged hs)

theorem CanonicalNext.execFuseProgram (hs : Canonical s) {hdr : SvcHdr} {sig : SvcSig} {entry : W64} :
    CanonicalNext (execFuseProgram hdr sig entry s) :=
  .next (.privileged hs)

theorem CanonicalNext.execResume (hs : Canonical s) {hdr : SvcHdr} {sig : SvcSig} : CanonicalNext (execResume hdr sig s) := .next (.privileged hs)

theorem Canonical.mailTest (hs : Canonical s) {kind target : Nat} {force : Bool} {i : Instr} : Canonical (s.mailTest kind target force i) := by
  unfold State.mailTest
  dsimp only
  split
  · exact .updSvc hs
  · exact .submit (.updSvc (.updSvc hs))

theorem Canonical.askTest (hs : Canonical s) {src : TestSrc} {kind target : Nat} {force : Bool} {timeoutMs : Nat} {i : Instr} :
    Canonical (s.askTest src kind target force timeoutMs i) := by
  unfold State.askTest
  split
  · split
    · exact .mailTest (.awake hs)
    · exact hs
  · exact .privileged hs

theorem CanonicalNext.execTestCheckerPatterns (hs : Canonical s) {src : TestSrc} {target : Nat} {force : Bool} {timeoutMs : Nat} {pass : Bool} :
    CanonicalNext (execTestCheckerPatterns src target force timeoutMs pass s) :=
  .next (.askTest hs)

theorem CanonicalNext.execTestSensorCalibration (hs : Canonical s) {src : TestSrc} {target : Nat} {force : Bool} {timeoutMs : Nat}
    {pass : Bool} : CanonicalNext (execTestSensorCalibration src target force timeoutMs pass s) :=
  .next (.askTest hs)

theorem CanonicalNext.execTestSramBist (hs : Canonical s) {src : TestSrc} {target : Nat} {force : Bool} {timeoutMs : Nat} :
    CanonicalNext (execTestSramBist src target force timeoutMs s) :=
  .next (.askTest hs)

theorem CanonicalNext.execTestStackRetrain (hs : Canonical s) {src : TestSrc} {target : Nat} {force : Bool} {timeoutMs : Nat} :
    CanonicalNext (execTestStackRetrain src target force timeoutMs s) :=
  .next (.askTest hs)

theorem CanonicalNext.execTestVectorEngine (hs : Canonical s) {src : TestSrc} {target : Nat} {force : Bool} {timeoutMs : Nat} :
    CanonicalNext (execTestVectorEngine src target force timeoutMs s) :=
  .next (.askTest hs)

theorem CanonicalNext.execTestDaritRetrain (hs : Canonical s) {src : TestSrc} {target : Nat} {force : Bool} {timeoutMs : Nat} :
    CanonicalNext (execTestDaritRetrain src target force timeoutMs s) :=
  .next (.askTest hs)

theorem CanonicalNext.execTestInvalidKind (hs : Canonical s) {kind : BitVec 3} : CanonicalNext (execTestInvalidKind kind s) := by
  unfold Machine.execTestInvalidKind
  refine .next ?_
  split
  · exact hs
  · exact .updSvc hs

theorem CanonicalNext.execRegionDrainComplete (hs : Canonical s) {g : RegionId} : CanonicalNext (execRegionDrainComplete g s) := by
  unfold Machine.execRegionDrainComplete
  refine .next ?_
  split
  · exact .beginReset hs
  · exact hs

theorem Canonical.endWork (hs : Canonical s) {status unit : Nat} {pass : Bool} : Canonical (s.endWork status unit pass) := by
  unfold State.endWork
  split
  · exact .serveNext (.testEnd (.updSvc hs))
  · exact .serveNext (.reqEnd (.updSvc hs))
  · exact hs

theorem CanonicalNext.execRegionDrainTimeout (hs : Canonical s) {g : RegionId} : CanonicalNext (execRegionDrainTimeout g s) := by
  unfold Machine.execRegionDrainTimeout
  refine .next ?_
  split
  · split
    · exact .beginReset hs
    · exact .endWork (.unaskRegion (.updRegion hs))
  · exact hs

theorem Canonical.afterReset (hs : Canonical s) {g : RegionId} : Canonical (s.afterReset g) := by
  unfold State.afterReset
  dsimp only
  split
  · exact .updRegion hs
  · split
    · split
      · exact .endWork (.updRegion hs)
      · exact .serveNext (.activateNext (.logSvc (.updRegion hs)))
    · exact .endWork (.updRegion hs)

theorem CanonicalNext.execRegionResetEnd (hs : Canonical s) {g : RegionId} : CanonicalNext (execRegionResetEnd g s) := by
  unfold Machine.execRegionResetEnd
  refine .next ?_
  split
  · exact hs
  · split
    · exact .afterReset (.finishReset hs ‹_›)
    · exact hs

theorem CanonicalNext.execVectorEngineTestEnd (hs : Canonical s) {c : CoreId} {pass : Bool} : CanonicalNext (execVectorEngineTestEnd c pass s) := by
  unfold Machine.execVectorEngineTestEnd
  refine .next ?_
  split
  · exact .endWork (.updCore hs)
  · exact hs

theorem CanonicalNext.execVectorEngineTestTimeout (hs : Canonical s) {c : CoreId} : CanonicalNext (execVectorEngineTestTimeout c s) := by
  unfold Machine.execVectorEngineTestTimeout
  refine .next ?_
  split
  · exact .endWork (.updCore hs)
  · exact hs

theorem CanonicalNext.execPortTraining (hs : Canonical s) {p : DaritPort} {o : TrainObs} : CanonicalNext (execPortTraining p o s) := by
  unfold Machine.execPortTraining
  refine .next ?_
  dsimp only
  split
  · split
    · exact .endWork (.trainPort (.awake hs))
    · exact .trainPort (.awake hs)
  · exact .trainPort (.awake hs)

theorem Canonical.beginQuench (hs : Canonical s) {q n : Nat} {cm : Cmd} : Canonical (s.beginQuench q n cm) := by
  unfold State.beginQuench
  dsimp only
  split
  · exact .endCmd hs
  · split
    · exact .endCmd hs
    · exact .updCmd (.foldl (fun _ _ h1 => .askStop h1) (.updFls hs))

theorem CanonicalNext.execSnapshot (hs : Canonical s) {q n : Nat} : CanonicalNext (execSnapshot q n s) := by
  unfold Machine.execSnapshot
  refine .next ?_
  split
  · exact hs
  · split
    · exact .requeue hs
    · exact .beginQuench hs

theorem Canonical.discardWork (hs : Canonical s) {cm : Cmd} : Canonical (s.discardWork cm) := by
  unfold State.discardWork
  split
  · exact .updCmd (.stopInstances hs)
  · split
    · exact .updCmd (.stopRounds hs)
    · exact hs

theorem Canonical.drainSamples (hs : Canonical s) {scope : Bool} {ctx : Nat} : Canonical (s.drainSamples scope ctx) := .same hs

theorem CanonicalNext.execQuenchDrainEnd (hs : Canonical s) : CanonicalNext (execQuenchDrainEnd s) := by
  unfold Machine.execQuenchDrainEnd
  refine .next ?_
  split
  · split
    · exact hs
    · exact .updFls (.drainSamples (.foldl (fun _ _ h => .discardWork h) hs))
  · exact hs

theorem CanonicalNext.execQuenchCaptureEnd (hs : Canonical s) : CanonicalNext (execQuenchCaptureEnd s) := by
  unfold Machine.execQuenchCaptureEnd
  refine .next ?_
  split
  · split
    · exact hs
    · exact .updFls hs
  · exact hs

theorem Flash.programSnap_cells (f : Flash) (i : Fin 16) (first n : Nat) : (f.programSnap i first n).cells = f.cells :=
  Flash.foldl_cells _ Flash.program_cells _ _

theorem Flash.freeOlder_cells (f : Flash) (i : Fin 16) : (f.freeOlder i).cells = f.cells :=
  Flash.foldl_cells _ (fun f j => by dsimp only; split <;> rfl) _ _

theorem Canonical.commitSnapshot (hs : Canonical s) {z : Quench} {img : SnapImg} : Canonical (s.commitSnapshot z img) := by
  unfold State.commitSnapshot
  refine .serveNext (.updCmd (.updFls hs ?_))
  dsimp only
  rw [Flash.freeOlder_cells, Flash.programSnap_cells]

theorem CanonicalNext.execQuenchWriteEnd (hs : Canonical s) : CanonicalNext (execQuenchWriteEnd s) := by
  unfold Machine.execQuenchWriteEnd
  refine .next ?_
  split
  · split
    · exact .commitSnapshot hs
    · exact hs
  · exact hs

theorem Canonical.updMbox (hs : Canonical s) {h : HostPort} {f : Mailbox → Mailbox} : Canonical (s.updMbox h f) := .same hs

theorem Canonical.mailEnd (hs : Canonical s) {h : HostPort} {status result : Nat} : Canonical (s.mailEnd h status result) := .updMbox hs

theorem Canonical.mailWait (hs : Canonical s) {h : HostPort} {i : Instr} : Canonical (s.mailWait h i) := .updMbox hs

theorem Canonical.mailBehind (hs : Canonical s) {h : HostPort} {i : Instr} : Canonical (s.mailBehind h i) := .updMbox hs

theorem Canonical.noteHostRead (hs : Canonical s) {h : HostPort} {rd : HostRead} : Canonical (s.noteHostRead h rd) := by
  unfold State.noteHostRead
  split
  · exact .logEv (.updHif hs)
  · exact hs

theorem Canonical.setOwner (hs : Canonical s) {cs : List CoreId} {o : Option Nat} : Canonical (s.setOwner cs o) :=
  .foldl (fun _ _ h1 => .updCore h1) hs

theorem Canonical.parkOff (hs : Canonical s) {cs : List CoreId} {ctx : Nat} : Canonical (s.parkOff cs ctx) := by
  unfold State.parkOff
  refine .foldl (fun _ _ h1 => ?_) hs
  split
  · exact .setStatus h1
  · exact h1

theorem Canonical.addCtx (hs : Canonical s) {d : CtxDesc} : Canonical (s.addCtx d) := .same hs

theorem Canonical.ctxDrain (hs : Canonical s) {h : HostPort} {i : Instr} {d : CtxDesc} : Canonical (s.ctxDrain h i d) := by
  unfold State.ctxDrain
  dsimp only
  split
  · exact .mailEnd (.addCtx (.parkOff hs))
  · exact .mailWait (.parkOff hs)

theorem Canonical.ctxCreate (hs : Canonical s) {h : HostPort} {i : Instr} {rd : HostRead} : Canonical (s.ctxCreate h i rd) := by
  unfold State.ctxCreate
  split
  · exact .mailEnd (.noteHostRead hs)
  · dsimp only
    split
    · exact .mailEnd hs
    · split
      · exact .mailEnd hs
      · split
        · exact .mailEnd hs
        · split
          · exact .mailEnd (.addCtx hs)
          · split
            · exact .ctxDrain hs
            · split
              · exact .mailEnd hs
              · exact .ctxDrain (.setOwner hs)

theorem Canonical.dropCtx (hs : Canonical s) {ctx : Nat} : Canonical (s.dropCtx ctx) := by
  unfold State.dropCtx
  exact .same (.foldl (fun _ _ h1 => .eraseCoil h1) (.setOwner (.stopSamples hs)))

theorem Canonical.ctxDestroy (hs : Canonical s) {h : HostPort} : Canonical (s.ctxDestroy h) := by
  unfold State.ctxDestroy
  dsimp only
  split
  · exact .mailEnd hs
  · split
    · exact .mailEnd hs
    · split
      · exact .mailEnd hs
      · exact .mailEnd (.dropCtx hs)

theorem Canonical.writeStatus (hs : Canonical s) {q : Nat} : Canonical (s.writeStatus q) := by
  unfold State.writeStatus
  split
  · exact hs
  · split
    · exact (Canonical.writeVirt hs) _ ‹_›
    · exact .holdWrite hs

theorem Canonical.queueCreate (hs : Canonical s) {h : HostPort} {i : Instr} {rd : HostRead} : Canonical (s.queueCreate h i rd) := by
  unfold State.queueCreate
  split
  · exact .mailEnd (.noteHostRead hs)
  · dsimp only
    split
    · exact .mailEnd hs
    · split
      · exact .mailEnd hs
      · split
        · exact .mailEnd hs
        · split
          · exact .mailEnd hs
          · split
            · exact .mailWait hs
            · exact .mailEnd (.writeStatus (.same hs))

theorem Canonical.abandonQuench (hs : Canonical s) {q n : Nat} : Canonical (s.abandonQuench q n) := by
  unfold State.abandonQuench
  split
  · split
    · exact .serveNext (.updFls hs)
    · exact hs
  · exact hs

theorem Canonical.cancelOne (hs : Canonical s) {h : HostPort} {q n : Nat} : Canonical (s.cancelOne h q n) := .endWith (.abandonQuench hs)

theorem Canonical.cancelUpTo (hs : Canonical s) {h : HostPort} {q upTo : Nat} : Canonical (s.cancelUpTo h q upTo) :=
  .foldl (fun _ _ h1 => .cancelOne h1) hs

theorem Canonical.cancelOp (hs : Canonical s) {h : HostPort} {i : Instr} : Canonical (s.cancelOp h i) := by
  unfold State.cancelOp
  extract_lets q s1
  split
  · exact .mailEnd hs
  · have h1 : Canonical s1 := .ite hs (.cancelUpTo (.updMbox hs))
    exact .ite (.mailWait h1) (.mailEnd h1)

theorem Canonical.dropOwed (hs : Canonical s) {cm : Cmd} : Canonical (s.dropOwed cm) := by
  unfold State.dropOwed
  split
  · exact hs
  · exact .updCmd (.releaseHolds hs)

theorem Canonical.freeQueue (hs : Canonical s) {q : Nat} {h : HostPort} {i : Instr} : Canonical (s.freeQueue q h i) := by
  unfold State.freeQueue
  dsimp only
  split
  · exact .mailWait (.writeStatus (.updQueue hs))
  · exact .mailEnd (.roleEffects (.same (.writeStatus (.updQueue hs))))

theorem Canonical.queueDestroy (hs : Canonical s) {h : HostPort} {i : Instr} : Canonical (s.queueDestroy h i) := by
  unfold State.queueDestroy
  extract_lets q s1 s2 s3
  split
  · exact .mailEnd hs
  · have h1 : Canonical s1 := .ite hs (.cancelUpTo (.writeStatus (.updQueue hs)))
    have h2 : Canonical s2 := .settleQueue h1
    have h3 : Canonical s3 := .runCulls (.foldl (fun _ _ h => .dropOwed h) h2)
    exact .ite (.mailWait h3) (.freeQueue h3)

theorem Canonical.invalidate (hs : Canonical s) {ctx first pages : Nat} : Canonical (s.invalidate ctx first pages) := .same hs

theorem Canonical.invalidateOp (hs : Canonical s) {h : HostPort} : Canonical (s.invalidateOp h) := by
  unfold State.invalidateOp
  dsimp only
  split
  · exact .mailEnd hs
  · split
    · exact .mailEnd hs
    · split
      · exact .mailEnd hs
      · exact .mailEnd (.invalidate hs)

theorem Canonical.queryOp (hs : Canonical s) {h : HostPort} : Canonical (s.queryOp h) := by
  unfold State.queryOp
  dsimp only
  split <;> exact .mailEnd hs

theorem Canonical.runMail (hs : Canonical s) {i : Instr} : Canonical (s.runMail i) := by
  unfold State.runMail
  split
  · exact .ctxCreate hs
  · exact .ctxDestroy hs
  · exact .queueCreate hs
  · exact .queueDestroy hs
  · exact .invalidateOp hs
  · exact .cancelOp hs
  · exact .queryOp hs
  · exact hs

theorem Canonical.nextMail (hs : Canonical s) {h : HostPort} : Canonical (s.nextMail h) := by
  unfold State.nextMail
  dsimp only
  split
  · exact .runMail hs
  · exact hs

theorem Canonical.mail (hs : Canonical s) {h : HostPort} {op : Nat} {i : Instr} : Canonical (s.mail h op i) := by
  unfold State.mail
  dsimp only
  split
  · exact hs
  · split
    · split
      · exact .nextMail (.runMail hs)
      · exact hs
    · split
      · exact .mailBehind (.updMbox hs)
      · exact .runMail (.updMbox hs)

theorem CanonicalNext.execCtxCreate (hs : Canonical s) {h : HostPort} {rd : HostRead} : CanonicalNext (execCtxCreate h rd s) :=
  .next (.mail (.awake hs))

theorem CanonicalNext.execCtxDestroy (hs : Canonical s) {h : HostPort} : CanonicalNext (execCtxDestroy h s) := .next (.mail (.awake hs))

theorem CanonicalNext.execQueueCreate (hs : Canonical s) {h : HostPort} {rd : HostRead} : CanonicalNext (execQueueCreate h rd s) :=
  .next (.mail (.awake hs))

theorem CanonicalNext.execQueueDestroy (hs : Canonical s) {h : HostPort} : CanonicalNext (execQueueDestroy h s) := .next (.mail (.awake hs))

theorem CanonicalNext.execInvalidate (hs : Canonical s) {h : HostPort} : CanonicalNext (execInvalidate h s) := .next (.mail (.awake hs))

theorem CanonicalNext.execCancel (hs : Canonical s) {h : HostPort} : CanonicalNext (execCancel h s) := .next (.mail (.awake hs))

theorem CanonicalNext.execQuery (hs : Canonical s) {h : HostPort} : CanonicalNext (execQuery h s) := .next (.mail (.awake hs))

theorem CanonicalNext.execAdmInvalidOp (hs : Canonical s) {h : HostPort} {op : BitVec 4} : CanonicalNext (execAdmInvalidOp h op s) := by
  unfold Machine.execAdmInvalidOp
  refine .next ?_
  dsimp only
  split
  · exact .awake hs
  · exact .updMbox (.awake hs)

theorem CanonicalNext.execCtxCreateDrainTimeout (hs : Canonical s) {h : HostPort} : CanonicalNext (execCtxCreateDrainTimeout h s) := by
  unfold Machine.execCtxCreateDrainTimeout
  refine .next ?_
  split
  · split
    · dsimp only
      split
      · exact hs
      · exact .nextMail (.mailEnd (.setOwner hs))
    · exact hs
  · exact hs

theorem CanonicalAct.checkHead {p : Pool} {root lh : Nat} {ps : List AppendPage} : CanonicalAct (checkHead p root lh ps) :=
  .bind .layerEnd fun _ => .bind .need fun _ => .bind .need fun _ => .pure

theorem CanonicalAct.checkAppends {p : Pool} {sq : Seq} {ps : List AppendPage} : CanonicalAct (checkAppends p sq ps) :=
  .mapM fun _ => .bind .checkHead fun _ => .pure

theorem CanonicalAct.linkAppends {p : Pool} {ps : List AppendPage} {ends : List (Nat × Nat)} {a : AppendAcc} :
    CanonicalAct (linkAppends p ps ends a) :=
  .foldlM fun _ _ => .foldlM fun _ _ => .bind .commitPage fun _ => .pure

theorem CanonicalAct.commitTarget {ctx : Nat} {cm : Cmd} {id : Nat} : CanonicalAct (commitTarget ctx cm id) := by
  unfold Machine.commitTarget
  refine .bind .get fun _ => ?_
  split
  · exact .pure
  · dsimp only
    split
    · exact .bind (.modify fun _ h0 => .updSeq h0) fun _ => .pure
    · exact .bind .poolAt fun _ => .bind .checkAppends fun _ => .bind .linkAppends fun _ => .bind .treeLength fun _ => .bind (.modify fun _ h0 =>
        .updCnt (.updSeq h0)) fun _ => .pure

theorem CanonicalAct.checkTarget {ctx : Nat} {cm : Cmd} {id : Nat} : CanonicalAct (checkTarget ctx cm id) := by
  unfold Machine.checkTarget
  refine .bind .get fun _ => ?_
  split
  · exact .pure
  · dsimp only
    split
    · exact .pure
    · exact .bind .poolAt fun _ => .bind .checkAppends fun _ => .pure

theorem CanonicalAct.commitAppends {ctx : Nat} {cm : Cmd} : CanonicalAct (commitAppends ctx cm) :=
  .bind (.forIn fun _ _ => .bind .checkTarget fun _ => .pure) fun _ => .bind (.mapM fun _ => .commitTarget) fun _ => .pure

theorem Canonical.commitKernel (hs : Canonical s) {q n : Nat} {cm : Cmd} : Canonical (s.commitKernel q n cm) := by
  unfold State.commitKernel
  dsimp only
  split
  · exact .endCmd (.same (CanonicalAct.keeps .commitAppends hs ‹_›))
  · exact .failCmd (.noteErr hs)
  · exact .logAbsent hs
  · exact hs
  · exact .cmdErr hs

theorem Canonical.commitRoundCmd (hs : Canonical s) {q n : Nat} {cm : Cmd} : Canonical (s.commitRoundCmd q n cm) := by
  unfold State.commitRoundCmd
  split
  · exact .endCmd (CanonicalAct.keeps .commitRound hs ‹_›)
  · exact .failCmd (.noteErr hs)
  · exact .logAbsent hs
  · exact hs
  · exact .cmdErr hs

theorem CanonicalNext.execCommandCommit (hs : Canonical s) {q n : Nat} : CanonicalNext (execCommandCommit q n s) := by
  unfold Machine.execCommandCommit
  refine .next ?_
  split
  · exact hs
  · split
    · exact hs
    · split
      · exact .instancesEnd hs
      · split
        · exact hs
        · split
          · exact .commitKernel hs
          · split
            · exact .commitRoundCmd hs
            · split
              · exact .failCmd hs
              · exact .endCmd (.commitFlash hs)

end Sys2Proof.Machine
end

section
/-! PROOF. Canonical memories: power, the module, snapshot transfers, host ports and device time (17, 20, 21, 23). -/

namespace Sys2Proof.Machine

set_option Elab.async false

variable {s : State}

theorem CanonicalNext.execGlowEntry (hs : Canonical s) : CanonicalNext (execGlowEntry s) := by
  unfold Machine.execGlowEntry
  refine .next ?_
  split
  · exact .setPower hs
  · exact hs

theorem CanonicalNext.execEmberEntry (hs : Canonical s) : CanonicalNext (execEmberEntry s) := by
  unfold Machine.execEmberEntry
  refine .next ?_
  split
  · exact .setPower hs
  · exact hs

theorem CanonicalNext.execLowPowerWake (hs : Canonical s) : CanonicalNext (execLowPowerWake s) := .next (.leaveLow hs)

theorem Canonical.requestAsh (hs : Canonical s) : Canonical (s.requestAsh) := by
  unfold State.requestAsh
  dsimp only
  split
  · exact .enterAsh (.updPwr hs)
  · exact .updPwr hs

theorem CanonicalNext.execAshRequest (hs : Canonical s) : CanonicalNext (execAshRequest s) := by
  unfold Machine.execAshRequest
  refine .next ?_
  dsimp only
  split
  · exact .requestAsh (.awake hs)
  · exact .awake hs

theorem Canonical.unpower (hs : Canonical s) : Canonical (s.unpower) := by
  unfold State.unpower
  exact .updPwr (.same (.bare hs))

theorem Canonical.enterCold (hs : Canonical s) : Canonical (s.enterCold) := .setPower (.updPwr (.unpower hs))

theorem Canonical.requestCold (hs : Canonical s) : Canonical (s.requestCold) := by
  unfold State.requestCold
  split
  · exact .updPwr hs
  · dsimp only
    split
    · exact .enterCold (.updPwr hs)
    · exact .updPwr hs

theorem CanonicalNext.execColdRequest (hs : Canonical s) : CanonicalNext (execColdRequest s) := by
  unfold Machine.execColdRequest
  refine .next ?_
  dsimp only
  split
  · exact .requestCold (.awake hs)
  · exact .awake hs

theorem CanonicalNext.execPowerRequestTimeout (hs : Canonical s) : CanonicalNext (execPowerRequestTimeout s) := by
  unfold Machine.execPowerRequestTimeout
  refine .next ?_
  split
  · exact hs
  · split
    · exact .updPwr hs
    · split
      · exact .enterAsh hs
      · exact .enterCold hs

theorem CanonicalNext.execAshWake (hs : Canonical s) : CanonicalNext (execAshWake s) := .next (.awake hs)

theorem CanonicalNext.execColdWake (hs : Canonical s) : CanonicalNext (execColdWake s) := by
  unfold Machine.execColdWake
  refine .next ?_
  split
  · exact .leaveCold hs
  · exact hs

theorem CanonicalNext.execPowerSample (hs : Canonical s) {watts : Nat} : CanonicalNext (execPowerSample watts s) := by
  have havg (p : Power) : (p.average watts).ashRegion = p.ashRegion ∧ (p.average watts).ashAcc = p.ashAcc := by
    unfold Power.average
    dsimp only
    constructor <;> split <;> rfl
  refine .next (.ite (.fresh (.updPwr hs (havg _).1 (havg _).2)) hs)

theorem Canonical.repoint (hs : Canonical s) : Canonical (s.repoint) := .foldl (fun _ _ h1 => .updCore h1) hs

theorem Power.step_ash (p : Power) : p.step.ashRegion = p.ashRegion ∧ p.step.ashAcc = p.ashAcc := by
  unfold Power.step
  constructor <;> split
  · split <;> rfl
  · split
    · split <;> rfl
    · rfl
  · split <;> rfl
  · split
    · split <;> rfl
    · rfl

theorem Canonical.stepCeil (hs : Canonical s) : Canonical (s.stepCeil) := by
  unfold State.stepCeil
  extract_lets was s1
  have h1 : Canonical s1 := .repoint (.updPwr hs (Power.step_ash _).1 (Power.step_ash _).2)
  exact .ite (.logPower h1) h1

theorem CanonicalNext.execCeilingStep (hs : Canonical s) : CanonicalNext (execCeilingStep s) := by
  unfold Machine.execCeilingStep
  refine .next ?_
  split
  · exact .stepCeil hs
  · exact hs

theorem CanonicalNext.execAnvilTokenGrant (hs : Canonical s) {c : CoreId} : CanonicalNext (execAnvilTokenGrant c s) := by
  unfold Machine.execAnvilTokenGrant
  refine .next ?_
  split
  · exact .updCore hs
  · exact hs

theorem Power.startHint_ash (p : Power) (id : Nat) : (p.startHint id).ashRegion = p.ashRegion ∧ (p.startHint id).ashAcc = p.ashAcc := by
  unfold Power.startHint
  split
  · exact ⟨rfl, rfl⟩
  · dsimp only
    split <;> exact ⟨rfl, rfl⟩

theorem CanonicalNext.execHintStart (hs : Canonical s) {id : Nat} : CanonicalNext (execHintStart id s) :=
  .next (.repoint (.updPwr hs (Power.startHint_ash _ _).1 (Power.startHint_ash _ _).2))

theorem CanonicalNext.execHintEnd (hs : Canonical s) {id : Nat} : CanonicalNext (execHintEnd id s) := .next (.updPwr hs)

theorem CanonicalNext.execHintEarlyEnd (hs : Canonical s) {id : Nat} : CanonicalNext (execHintEarlyEnd id s) := by
  unfold Machine.execHintEarlyEnd
  refine .next ?_
  split
  · exact .updPwr hs
  · exact hs

theorem CanonicalNext.execDroopTrip (hs : Canonical s) {island : Fin 200} {deep : Bool} : CanonicalNext (execDroopTrip island deep s) :=
  .next (.updPwr hs)

theorem CanonicalNext.execDroopRecover (hs : Canonical s) {island : Fin 200} : CanonicalNext (execDroopRecover island s) := .next (.updPwr hs)

theorem Power.freeze_ash (p : Power) (i : Fin 200) : (p.freeze i).ashRegion = p.ashRegion ∧ (p.freeze i).ashAcc = p.ashAcc := by
  unfold Power.freeze
  split <;> exact ⟨rfl, rfl⟩

theorem Canonical.droopFault (hs : Canonical s) {i : Fin 200} : Canonical (s.droopFault i) := by
  unfold State.droopFault
  extract_lets s1
  have h1 : Canonical s1 := .updPwr (.logPower hs) (Power.freeze_ash _ _).1 (Power.freeze_ash _ _).2
  exact .ite (.coreFault h1) (.ite (.dieFault h1) (.warmReset h1))

theorem CanonicalNext.execDroopFault (hs : Canonical s) {island : Fin 200} : CanonicalNext (execDroopFault island s) := by
  unfold Machine.execDroopFault
  refine .next ?_
  split
  · exact .droopFault hs
  · exact hs

theorem Canonical.stackTemp (hs : Canonical s) {g : RegionId} {t : Nat} : Canonical (s.stackTemp g t) := .updPwr (.updRegion hs)

theorem Power.dieStep_ash (p : Power) (d : DieId) (t : Nat) :
    (p.dieStep d t).ashRegion = p.ashRegion ∧ (p.dieStep d t).ashAcc = p.ashAcc := by
  unfold Power.dieStep
  dsimp only
  split
  · split <;> exact ⟨rfl, rfl⟩
  · split
    · split <;> exact ⟨rfl, rfl⟩
    · exact ⟨rfl, rfl⟩

theorem Canonical.dieTemp (hs : Canonical s) {d : DieId} {t : Nat} {temps : List Nat} : Canonical (s.dieTemp d t temps) := by
  unfold State.dieTemp
  extract_lets was s1 s2
  have h1 : Canonical s1 := .repoint (.updPwr hs (Power.dieStep_ash _ _ _).1 (Power.dieStep_ash _ _ _).2)
  have h2 : Canonical s2 := .foldl (fun _ _ h => .stackTemp h) h1
  exact .ite (.logPower h2) h2

theorem Canonical.thermal (hs : Canonical s) {die : Fin 5} {t : Nat} {temps : List Nat} : Canonical (s.thermal die t temps) := by
  unfold State.thermal
  dsimp only
  split
  · split
    · exact .dieTemp (.updPwr hs)
    · exact .updPwr hs
  · exact .updPwr hs

theorem CanonicalNext.execThermalSample (hs : Canonical s) {die : Fin 5} {hottestDc : Nat} {stackDc : List Nat} :
    CanonicalNext (execThermalSample die hottestDc stackDc s) :=
  .next (.thermal hs)

theorem Canonical.trip (hs : Canonical s) : Canonical (s.trip) := by
  unfold State.trip
  exact .updPwr (.same (.unpower (.logPower hs)))

theorem CanonicalNext.execThermalTrip (hs : Canonical s) : CanonicalNext (execThermalTrip s) := by
  unfold Machine.execThermalTrip
  refine .next ?_
  split
  · exact hs
  · exact .trip hs

theorem Canonical.coolant (hs : Canonical s) {inletDc flowCl : Nat} : Canonical (s.coolant inletDc flowCl) := by
  unfold State.coolant
  dsimp only
  split
  · exact .logPower (.updPwr hs)
  · exact .updPwr hs

theorem CanonicalNext.execCoolantSample (hs : Canonical s) {inletDc flowCl : Nat} : CanonicalNext (execCoolantSample inletDc flowCl s) :=
  .next (.coolant hs)

theorem CanonicalNext.execCoolantWarnEnd (hs : Canonical s) : CanonicalNext (execCoolantWarnEnd s) := by
  unfold Machine.execCoolantWarnEnd
  refine .next ?_
  split
  · exact hs
  · exact .updPwr hs

theorem CanonicalNext.execMarginAdjust (hs : Canonical s) {slacks : List Nat} : CanonicalNext (execMarginAdjust slacks s) := by
  unfold Machine.execMarginAdjust
  refine .next ?_
  split
  · exact .fresh (.updPwr hs)
  · exact hs

theorem CanonicalNext.execMarginModeWrite (hs : Canonical s) {v : W32} : CanonicalNext (execMarginModeWrite v s) := by
  unfold Machine.execMarginModeWrite
  refine .next ?_
  dsimp only
  split
  · exact .updPwr (.awake hs)
  · exact .awake hs

theorem CanonicalNext.execEnergyAttribution (hs : Canonical s) {cores parts : List (Nat × Nat)} :
    CanonicalNext (execEnergyAttribution cores parts s) :=
  .next (.updPwr (Canonical.same hs))

theorem Canonical.logModule (hs : Canonical s) {cause unit : Nat} : Canonical (s.logModule cause unit) := .logEv hs

theorem Canonical.updFeed (hs : Canonical s) {f : Feed} {g : FeedState → FeedState} : Canonical (s.updFeed f g) := .updPwr hs

theorem Canonical.loseFeed (hs : Canonical s) {f : Feed} {why : FeedState → FeedState} : Canonical (s.loseFeed f why) := by
  unfold State.loseFeed
  dsimp only
  split
  · exact .logPower (.updPwr (.updFeed hs))
  · exact .updPwr (.updFeed hs)

theorem CanonicalNext.execFeedFailure (hs : Canonical s) {f : Feed} : CanonicalNext (execFeedFailure f s) := by
  unfold Machine.execFeedFailure
  refine .next ?_
  split
  · exact .loseFeed hs
  · exact hs

theorem CanonicalNext.execFeedReturn (hs : Canonical s) {f : Feed} : CanonicalNext (execFeedReturn f s) := .next (.updPwr (.updFeed hs))

theorem CanonicalNext.execFeedOvervoltage (hs : Canonical s) {f : Feed} : CanonicalNext (execFeedOvervoltage f s) :=
  .next (.logModule (.loseFeed hs))

theorem CanonicalNext.execFeedReversePolarity (hs : Canonical s) {f : Feed} : CanonicalNext (execFeedReversePolarity f s) :=
  .next (.logModule (.loseFeed hs))

theorem CanonicalNext.execFeedShort (hs : Canonical s) {f : Feed} : CanonicalNext (execFeedShort f s) := .next (.loseFeed hs)

theorem Canonical.powerUp (hs : Canonical s) {env : StartEnv} : Canonical (s.powerUp env) := by
  unfold State.powerUp
  extract_lets s1 s2 s3
  have h1 : Canonical s1 := .updPwr hs
  have h2 : Canonical s2 := .ite h1 (.logModule h1)
  have h3 : Canonical s3 := h2.same
  exact .ite h3 (.coldStart (.updPwr h3))

theorem CanonicalNext.execPowerGood (hs : Canonical s) {env : StartEnv} : CanonicalNext (execPowerGood env s) := by
  unfold Machine.execPowerGood
  refine .next ?_
  split
  · exact .powerUp hs
  · exact hs

theorem CanonicalNext.execPowerLoss (hs : Canonical s) : CanonicalNext (execPowerLoss s) := by
  unfold Machine.execPowerLoss
  refine .next ?_
  split
  · exact hs
  · exact .unpower hs

theorem Canonical.lose (hs : Canonical s) : Canonical (s.lose) := by
  unfold State.lose
  refine .updPwr ?_
  exact Canonical.reset.of_memories (hhost := fun _ => hs.hostMem) (hcells := fun _ => hs.cells)

theorem CanonicalNext.execPowerRemoved (hs : Canonical s) : CanonicalNext (execPowerRemoved s) := by
  unfold Machine.execPowerRemoved
  refine .next ?_
  split
  · exact hs
  · exact .lose hs

theorem Canonical.updTim (hs : Canonical s) {f : TimeBase → TimeBase} : Canonical (s.updTim f) := .same hs

theorem Canonical.losePps (hs : Canonical s) : Canonical (s.losePps) := by
  unfold State.losePps
  dsimp only
  split
  · exact .logModule (.updTim hs)
  · exact .updTim hs

theorem Canonical.loseTen (hs : Canonical s) : Canonical (s.loseTen) := by
  unfold State.loseTen
  dsimp only
  split
  · exact .logModule (.updTim hs)
  · exact .updTim hs

theorem Canonical.clockInput (hs : Canonical s) {i : ClockInput} {present : Bool} : Canonical (s.clockInput i present) := by
  unfold State.clockInput
  split
  · exact .updTim hs
  · exact .updTim hs
  · split
    · exact .updTim hs
    · exact .losePps hs
  · split
    · exact .updTim hs
    · exact .loseTen hs

theorem CanonicalNext.execClockInputChange (hs : Canonical s) {i : ClockInput} {present : Bool} :
    CanonicalNext (execClockInputChange i present s) :=
  .next (.clockInput hs)

theorem Canonical.smb (hs : Canonical s) {bytes : List Byte} : Canonical (s.smb bytes) := by
  unfold State.smb
  split
  · exact .same hs
  · exact hs

theorem CanonicalNext.execPage (hs : Canonical s) {write : Option Byte} : CanonicalNext (execPage write s) := by
  unfold Machine.execPage
  refine .next ?_
  split
  · exact .smb hs
  · split
    · exact .updPwr hs
    · exact hs

theorem CanonicalNext.execClearFaults (hs : Canonical s) : CanonicalNext (execClearFaults s) := by
  unfold Machine.execClearFaults
  refine .next ?_
  split
  · exact .updPwr hs
  · exact hs

theorem CanonicalNext.execStatusWord (hs : Canonical s) : CanonicalNext (execStatusWord s) := .next (.smb hs)

theorem CanonicalNext.execStatusInput (hs : Canonical s) : CanonicalNext (execStatusInput s) := by
  unfold Machine.execStatusInput
  refine .next ?_
  split
  · exact .updPwr (.smb hs)
  · exact hs

theorem CanonicalNext.execReadEin (hs : Canonical s) : CanonicalNext (execReadEin s) := .next (.smb hs)

theorem CanonicalNext.execReadVin (hs : Canonical s) : CanonicalNext (execReadVin s) := .next (.smb hs)

theorem CanonicalNext.execReadIin (hs : Canonical s) : CanonicalNext (execReadIin s) := .next (.smb hs)

theorem CanonicalNext.execReadTemperature1 (hs : Canonical s) : CanonicalNext (execReadTemperature1 s) := .next (.smb hs)

theorem CanonicalNext.execReadPin (hs : Canonical s) : CanonicalNext (execReadPin s) := .next (.smb hs)

theorem CanonicalNext.execPmbusRevision (hs : Canonical s) : CanonicalNext (execPmbusRevision s) := .next (.smb hs)

theorem CanonicalNext.execMfrId (hs : Canonical s) : CanonicalNext (execMfrId s) := .next (.smb hs)

theorem CanonicalNext.execMfrModel (hs : Canonical s) : CanonicalNext (execMfrModel s) := .next (.smb hs)

theorem CanonicalNext.execMfrWake (hs : Canonical s) : CanonicalNext (execMfrWake s) := by
  unfold Machine.execMfrWake
  refine .next ?_
  split
  · exact .leaveCold hs
  · split
    · exact .leaveTrip hs
    · exact hs

theorem CanonicalNext.execSmbusRefused (hs : Canonical s) {code : Byte} : CanonicalNext (execSmbusRefused code s) := by
  unfold Machine.execSmbusRefused
  refine .next ?_
  split
  · exact .logLimited (.updPwr hs)
  · exact hs

theorem CanonicalNext.execAlertResponse (hs : Canonical s) : CanonicalNext (execAlertResponse s) := by
  unfold Machine.execAlertResponse
  refine .next ?_
  split
  · exact .smb hs
  · exact hs

theorem Canonical.xDone (hs : Canonical s) {op status : Nat} : Canonical (s.xDone op status) := .updFls hs

theorem Canonical.exportRange (hs : Canonical s) : Canonical (s.exportRange) := by
  unfold State.exportRange
  extract_lets f z bs s1
  have h1 : Canonical s1 := .updFls hs
  exact .ite (.xDone hs) (.ite (.updFls hs) (.xDone (h1.of_memories (hhost := fun h => spaceWrite_wf h _ _))))

theorem Canonical.importEnd (hs : Canonical s) {i : Fin 16} {z : Snap} : Canonical (s.importEnd i z) := by
  unfold State.importEnd
  split <;> exact .xDone (.updFls hs)

theorem Canonical.importTake (hs : Canonical s) {i : Fin 16} {z : Snap} : Canonical (s.importTake i z) := by
  unfold State.importTake
  extract_lets f bs z1 s1
  have h1 : Canonical s1 := .updFls hs (Flash.programSnap_cells _ _ _ _)
  exact .ite (.importEnd h1) (.xDone h1)

theorem Canonical.importFirst (hs : Canonical s) {i : Fin 16} : Canonical (s.importFirst i) := by
  unfold State.importFirst
  dsimp only
  split
  · exact .xDone hs
  · split
    · exact .xDone hs
    · exact .importTake hs

theorem Canonical.importRange (hs : Canonical s) : Canonical (s.importRange) := by
  unfold State.importRange
  dsimp only
  split
  · exact .updFls hs
  · split
    · exact .importFirst hs
    · split
      · exact .importTake hs
      · exact .xDone hs

theorem Canonical.putBack (hs : Canonical s) {g : SnapImg} : Canonical (s.putBack g) := by
  unfold State.putBack
  extract_lets qs s1
  have h1 : Canonical s1 :=
    hs.of_memories (hregion := fun h => Ram.restoreCells_wf h _) (hstacked := fun h => Ram.restoreCells_wf h _)
  exact .foldl (fun _ _ h => .setOwner (.addCtx h)) h1

theorem Canonical.restoreCmd (hs : Canonical s) {c : Cmd} : Canonical (s.restoreCmd c) := by
  unfold State.restoreCmd
  split
  · exact hs
  · dsimp only
    split
    · split
      · exact .redispatch hs
      · exact .updCmd (.releaseHolds (.redispatch hs))
    · exact .redispatch hs

theorem Canonical.restoreRest (hs : Canonical s) {g : SnapImg} : Canonical (s.restoreRest g) := by
  unfold State.restoreRest
  extract_lets s1 s2
  have hone (t : State) (i : Fin 64) (x : SmpQueue) (h : Canonical t) :
      Canonical (if t.smp[i].state = smpRunning then t else { t with smp := t.smp.set i (t.smp[i].resume x) }) := .ite h h.same
  have h1 : Canonical s1 := .foldl (fun t i h => by
    split
    · exact hone t i _ h
    · exact h) hs
  have h2 : Canonical s2 := .foldl (fun _ _ h => .roleEffect (.updRegion h)) h1
  clear_value s2 s1
  exact .ite h1 h2.same

theorem Canonical.restoreImg (hs : Canonical s) {g : SnapImg} : Canonical (s.restoreImg g) :=
  .restoreRest (.foldl (fun _ _ h => .restoreCmd h) (.putBack hs))

theorem Canonical.restoreSnap (hs : Canonical s) : Canonical (s.restoreSnap) := by
  unfold State.restoreSnap
  dsimp only
  split
  · exact .xDone hs
  · split
    · exact .xDone hs
    · split
      · exact .xDone hs
      · split
        · exact .xDone hs
        · split
          · exact .xDone hs
          · split
            · exact .xDone hs
            · exact .xDone (.restoreImg hs)

theorem Canonical.releaseAll (hs : Canonical s) : Canonical (s.releaseAll) := .xDone (.same hs)

theorem Canonical.discardSnap (hs : Canonical s) : Canonical (s.discardSnap) := by
  unfold State.discardSnap
  dsimp only
  split
  · exact .xDone hs
  · exact .xDone (.updFls hs)

theorem Canonical.xfer (hs : Canonical s) {f : State → State} (hf : ∀ t, Canonical t → Canonical (f t)) : Canonical (s.xfer f) :=
  .ite (hf s hs) hs

theorem CanonicalNext.execExportImage (hs : Canonical s) : CanonicalNext (execExportImage s) := .next (.xfer (.awake hs) fun _ h => .exportRange h)

theorem CanonicalNext.execImportImage (hs : Canonical s) : CanonicalNext (execImportImage s) := .next (.xfer (.awake hs) fun _ h => .importRange h)

theorem CanonicalNext.execRestore (hs : Canonical s) : CanonicalNext (execRestore s) := .next (.xfer (.awake hs) fun _ h => .restoreSnap h)

theorem CanonicalNext.execRelease (hs : Canonical s) : CanonicalNext (execRelease s) := .next (.xfer (.awake hs) fun _ h => .releaseAll h)

theorem CanonicalNext.execDiscard (hs : Canonical s) : CanonicalNext (execDiscard s) := .next (.xfer (.awake hs) fun _ h => .discardSnap h)

theorem CanonicalNext.execXferInvalidOp (hs : Canonical s) {op : BitVec 3} : CanonicalNext (execXferInvalidOp op s) :=
  .next (.xfer (.awake hs) fun _ h => .ite h (.xDone h))

theorem Canonical.xferResume (hs : Canonical s) : Canonical (s.xferResume) := by
  unfold State.xferResume
  split
  · exact hs
  · split
    · exact .exportRange hs
    · split
      · exact .importRange hs
      · exact hs

theorem Canonical.logPort (hs : Canonical s) {cause : Nat} {h : HostPort} {ctx : Option Nat} : Canonical (s.logPort cause h ctx) := .logEv hs

theorem Canonical.bar4Read (hs : Canonical s) {addr len : Nat} : Canonical (s.bar4Read addr len) := by
  unfold State.bar4Read
  dsimp only
  split <;> exact .same (.noteRead hs)

theorem Canonical.bar4Write (hs : Canonical s) {addr : Nat} {bytes : List Byte} : Canonical (s.bar4Write addr bytes) := by
  unfold State.bar4Write
  split
  · exact (Canonical.writeLoc hs) _ ‹_›
  · exact .noteRead hs

theorem Canonical.bar4Refuse (hs : Canonical s) {h : HostPort} {addr : Nat} : Canonical (s.bar4Refuse h addr) :=
  (Canonical.refuseBar hs (h := h) (addr := addr)).same

theorem Canonical.bar4 (hs : Canonical s) {h : HostPort} {off : Nat} {op : Bar4Op} : Canonical (s.bar4 h off op) := by
  unfold State.bar4
  dsimp only
  split
  · exact hs
  · split
    · exact .bar4Refuse hs
    · split
      · exact .bar4Read hs
      · exact .bar4Write hs

theorem CanonicalNext.execBar4Access (hs : Canonical s) {h : HostPort} {off : Nat} {op : Bar4Op} : CanonicalNext (execBar4Access h off op s) :=
  .next (.bar4 (.awake hs))

theorem CanonicalNext.execBar4Resize (hs : Canonical s) {h : HostPort} {gib : Nat} : CanonicalNext (execBar4Resize h gib s) := by
  unfold Machine.execBar4Resize
  refine .next ?_
  split
  · exact .updHif hs
  · exact hs

theorem CanonicalNext.execApertureBaseWrite (hs : Canonical s) {h : HostPort} {v : W32} : CanonicalNext (execApertureBaseWrite h v s) := by
  unfold Machine.execApertureBaseWrite
  refine .next ?_
  dsimp only
  split
  · exact .updHif (.awake hs)
  · exact .awake hs

theorem Canonical.unmask (hs : Canonical s) {h : HostPort} {vec : Nat} : Canonical (s.unmask h vec) := by
  unfold State.unmask
  dsimp only
  split
  · exact .msix (.updHif hs)
  · exact .updHif hs

theorem CanonicalNext.execMsixUnmask (hs : Canonical s) {h : HostPort} {vec : Fin 2048} : CanonicalNext (execMsixUnmask h vec s) := by
  unfold Machine.execMsixUnmask
  refine .next ?_
  dsimp only
  split
  · exact .unmask (.awake hs)
  · exact .awake hs

theorem Canonical.portDown (hs : Canonical s) {h : HostPort} : Canonical (s.portDown h) := by
  unfold State.portDown
  split
  · exact hs
  · exact .portEvent (.logPort (.updHif hs))

theorem CanonicalNext.execHostPortDown (hs : Canonical s) {h : HostPort} : CanonicalNext (execHostPortDown h s) := .next (.portDown hs)

theorem Canonical.sendHeld (hs : Canonical s) {h : HostPort} : Canonical (s.sendHeld h) := .foldl (fun _ _ h1 => .msix h1) (.updHif hs)

theorem Canonical.resumeQueue (hs : Canonical s) {q : Nat} : Canonical (s.resumeQueue q) := .post (.retryHeld (.settleQueue hs))

theorem Canonical.resumeQueues (hs : Canonical s) : Canonical (s.resumeQueues) := .foldl (fun _ _ h => .resumeQueue h) hs

theorem Canonical.hostUp (hs : Canonical s) {h : HostPort} : Canonical (s.hostUp h) := by
  unfold State.hostUp
  split
  · exact hs
  · refine .xferResume (.resumeQueues (.sendHeld ?_))
    split
    · exact .logPort (.logPort (.fresh (.updHif hs)))
    · exact .logPort (.fresh (.updHif hs))

theorem CanonicalNext.execHostPortUp (hs : Canonical s) {h : HostPort} : CanonicalNext (execHostPortUp h s) := by
  unfold Machine.execHostPortUp
  refine .next ?_
  split
  · exact .hostUp hs
  · exact hs

theorem Canonical.moveHeld (hs : Canonical s) {h : HostPort} {ids : List Nat} : Canonical (s.moveHeld h ids) :=
  .foldl (fun _ _ h1 => .msix h1) (.updHif hs)

theorem Canonical.rehome (hs : Canonical s) {h : HostPort} : Canonical (s.rehome h) := by
  unfold State.rehome
  dsimp only
  split
  · exact hs
  · exact .portEvent (.moveHeld (.foldl (fun _ _ h1 => .logPort h1) (.same hs)))

theorem CanonicalNext.execRehomeTimeout (hs : Canonical s) {h : HostPort} : CanonicalNext (execRehomeTimeout h s) := .next (.rehome hs)

theorem Canonical.portRef (hs : Canonical s) {h : HostPort} : Canonical (s.portRef h) := by
  unfold State.portRef
  dsimp only
  split
  · exact .logModule (.updTim hs)
  · exact .updTim hs

theorem Canonical.portResets (hs : Canonical s) {h : HostPort} {why : PortResetCause} : Canonical (s.portResets h why) := by
  unfold State.portResets
  refine .quenchMended (.returnPart (.quenchBroken (.resetPart ?_)))
  split
  · refine .portRef (.updHif (.portDown ?_))
    split
    · exact .logPort hs
    · exact hs
  · refine .updHif (.portDown ?_)
    split
    · exact .logPort hs
    · exact hs

theorem Canonical.hostReset (hs : Canonical s) {h : HostPort} {why : PortResetCause} : Canonical (s.hostReset h why) := by
  unfold State.hostReset
  dsimp only
  split
  · exact .leaveCold (.portResets hs)
  · split
    · exact .leaveTrip (.portResets hs)
    · exact .portResets hs

theorem CanonicalNext.execHostPortReset (hs : Canonical s) {h : HostPort} {why : PortResetCause} : CanonicalNext (execHostPortReset h why s) :=
  .next (.hostReset hs)

theorem Canonical.failRead (hs : Canonical s) {h : HostPort} {st : Nat} {who : HostReader} : Canonical (s.failRead h st who) := by
  unfold State.failRead
  split
  · split
    · exact .failCmd hs
    · exact hs
  · split
    · split
      · exact .fetchFail hs
      · exact hs
    · exact hs
  · split
    · exact .nextMail (.mailEnd hs)
    · exact hs

theorem CanonicalNext.execHostReadCompletionTimeout (hs : Canonical s) {h : HostPort} {rd : FailedRead} :
    CanonicalNext (execHostReadCompletionTimeout h rd s) := by
  unfold Machine.execHostReadCompletionTimeout
  refine .next ?_
  split
  · exact .failRead (.noteHostRead hs)
  · exact hs

theorem Canonical.steer (hs : Canonical s) {off : Int} : Canonical (s.steer off) := by
  unfold State.steer
  dsimp only
  split
  · exact .same hs
  · exact .updTim hs

theorem CanonicalNext.execPtmExchange (hs : Canonical s) {h : HostPort} {rootNs : W64} : CanonicalNext (execPtmExchange h rootNs s) := by
  unfold Machine.execPtmExchange
  refine .next ?_
  split
  · exact .steer hs
  · exact hs

theorem Canonical.pps (hs : Canonical s) {measured : Int} : Canonical (s.pps measured) := by
  unfold State.pps
  dsimp only
  split
  · exact .updTim (.steer (.updTim hs))
  · split
    · split
      · exact .steer (.updTim hs)
      · exact .updTim (.updTim hs)
    · exact .updTim hs

theorem CanonicalNext.execPpsEdge (hs : Canonical s) {measuredNs : Int} : CanonicalNext (execPpsEdge measuredNs s) := .next (.pps hs)

theorem Canonical.losePtm (hs : Canonical s) {h : HostPort} : Canonical (s.losePtm h) := by
  unfold State.losePtm
  split
  · exact hs
  · split <;> exact .updTim hs

theorem CanonicalNext.execTimeReferenceLoss (hs : Canonical s) {r : TimeRef} : CanonicalNext (execTimeReferenceLoss r s) := by
  unfold Machine.execTimeReferenceLoss
  refine .next ?_
  split
  · exact .losePtm hs
  · exact .losePps hs
  · exact .loseTen hs

theorem CanonicalNext.execTimeSourceWrite (hs : Canonical s) {v : W32} : CanonicalNext (execTimeSourceWrite v s) := by
  unfold Machine.execTimeSourceWrite
  refine .next ?_
  dsimp only
  split
  · exact .updTim (.awake hs)
  · exact .awake hs

theorem CanonicalNext.execTimeSetArm (hs : Canonical s) {v : W32} : CanonicalNext (execTimeSetArm v s) := by
  unfold Machine.execTimeSetArm
  refine .next ?_
  dsimp only
  split
  · exact .updTim (.awake hs)
  · exact .awake hs

end Sys2Proof.Machine
end

section
/-! PROOF. Canonical memories: scrub, the care of flash, registers, and every command (15, R277, R290, R291; 18, R361 to R363; 20, R396). -/

namespace Sys2Proof.Machine

set_option Elab.async false

variable {s : State}

theorem Canonical.scrubBlock (hs : Canonical s) {l : Loc} {b : Nat} : Canonical (s.scrubBlock l b) := by
  unfold State.scrubBlock
  split
  · exact hs
  · rename_i m _ hm
    split
    · exact .putRam (.noteBlock hs) (Ram.mend_wf (ramOf_wf hs hm) b)
    · exact .noteBlock hs
    · exact hs

theorem Canonical.scrubRange (hs : Canonical s) {l : Loc} {addr len : Nat} : Canonical (s.scrubRange l addr len) := by
  unfold State.scrubRange
  split
  · exact .foldl (fun _ _ h1 => .scrubBlock h1) hs
  · exact hs

theorem Canonical.scrubCore (hs : Canonical s) {pos : Nat} {c : CoreId} : Canonical (s.scrubCore pos c) := by
  unfold State.scrubCore
  dsimp only
  split
  · exact hs
  · split <;> exact .scrubRange hs

theorem Canonical.scrubRegion (hs : Canonical s) {g : RegionId} : Canonical (s.scrubRegion g) := by
  unfold State.scrubRegion
  split
  · exact hs
  · exact .updRegion (.foldl (fun _ _ h1 => .scrubCore h1) (.scrubRange hs))

theorem CanonicalNext.execSramScrubSlot (hs : Canonical s) : CanonicalNext (execSramScrubSlot s) := by
  unfold Machine.execSramScrubSlot
  refine .next ?_
  split
  · exact .foldl (fun _ _ h => .scrubRegion h) hs
  · exact hs

theorem Canonical.scrubRead (hs : Canonical s) {g : RegionId} : Canonical (s.scrubRead g) := by
  unfold State.scrubRead
  refine .updRegion ?_
  split
  · exact .updRegion (.noteBlock hs)
  · exact .noteBlock hs
  · exact hs

theorem CanonicalNext.execStackScrubRead (hs : Canonical s) {g : RegionId} : CanonicalNext (execStackScrubRead g s) := by
  unfold Machine.execStackScrubRead
  refine .next ?_
  split
  · exact .scrubRead hs
  · exact hs

theorem CanonicalNext.execScrubWriteback (hs : Canonical s) {g : RegionId} : CanonicalNext (execScrubWriteback g s) := by
  unfold Machine.execScrubWriteback
  refine .next ?_
  split
  · split
    · exact .updRegion (.mendStacked hs)
    · exact hs
  · exact hs

theorem Flash.moveBlock_cells (f : Flash) (b : Nat) : (f.moveBlock b).cells = f.cells := Flash.foldl_cells _ Flash.program_cells _ _

theorem CanonicalNext.execFlashReadDisturb (hs : Canonical s) {block : Nat} : CanonicalNext (execFlashReadDisturb block s) :=
  .next (.ite (.updFls hs (Flash.moveBlock_cells _ _)) hs)

theorem CanonicalNext.execFlashWearLevel (hs : Canonical s) : CanonicalNext (execFlashWearLevel s) := by
  unfold Machine.execFlashWearLevel
  refine .next ?_
  split
  · rename_i b _ _
    split
    · exact .updFls hs (Flash.moveBlock_cells s.fls b)
    · exact hs
  · exact hs

theorem CanonicalNext.execFlashSparesExhausted (hs : Canonical s) : CanonicalNext (execFlashSparesExhausted s) := .next (.updFls hs)

theorem Canonical.latch (hs : Canonical s) {h : HostPort} {off v : Nat} : Canonical (s.latch h off v) := .updHif (.same hs)

theorem CanonicalNext.execCounterLoRead (hs : Canonical s) {h : HostPort} {off : Nat} : CanonicalNext (execCounterLoRead h off s) := by
  unfold Machine.execCounterLoRead
  refine .next ?_
  extract_lets s1
  have h1 : Canonical s1 := .ite (.leaveLow (.awake hs)) (.awake hs)
  split
  · exact h1
  · split
    · exact .latch h1
    · exact h1

theorem CanonicalNext.execPeakPowerRead (hs : Canonical s) {h : HostPort} : CanonicalNext (execPeakPowerRead h s) := by
  unfold Machine.execPeakPowerRead
  refine .next ?_
  dsimp only
  split
  · exact .updPwr (.same (.awake hs))
  · exact .awake hs

theorem Canonical.writeRole (hs : Canonical s) {g : RegionId} {v : Nat} : Canonical (s.writeRole g v) := .roleEffect (.updRegion hs)

theorem Canonical.late (hs : Canonical s) {f : State → State} (hf : ∀ t, Canonical t → Canonical (f t)) : Canonical (s.late f) :=
  .ite (hf _ (.awake hs)) (.awake hs)

theorem Canonical.lateWindow (hs : Canonical s) {f : State → State} (hf : ∀ t, Canonical t → Canonical (f t)) : Canonical (s.lateWindow f) :=
  .late (.leaveLow (.awake hs)) hf

theorem CanonicalNext.execRoleWrite (hs : Canonical s) {g : RegionId} {v : W32} : CanonicalNext (execRoleWrite g v s) :=
  .next (.late hs fun _ h1 => .writeRole h1)

theorem CanonicalNext.execWatchdogPeriodWrite (hs : Canonical s) {g : RegionId} {v : W32} : CanonicalNext (execWatchdogPeriodWrite g v s) :=
  .next (.lateWindow hs fun _ h1 => .updRegion h1)

theorem Canonical.clearCnt (hs : Canonical s) {g : RegionId} {v : Nat} {f : RegionCnt → RegionCnt} : Canonical (s.clearCnt g v f) := by
  unfold State.clearCnt
  split
  · exact .updCnt hs
  · exact hs

theorem CanonicalNext.execAnvilCountersClear (hs : Canonical s) {c : CoreId} {v : W32} : CanonicalNext (execAnvilCountersClear c v s) :=
  .next (.lateWindow hs fun _ h => .ite (.updCore h) h)

theorem CanonicalNext.execAtomicCountersClear (hs : Canonical s) {g : RegionId} {v : W32} : CanonicalNext (execAtomicCountersClear g v s) :=
  .next (.lateWindow hs fun _ h1 => .clearCnt h1)

theorem CanonicalNext.execTileCountersClear (hs : Canonical s) {g : RegionId} {v : W32} : CanonicalNext (execTileCountersClear g v s) :=
  .next (.lateWindow hs fun _ h1 => .clearCnt h1)

theorem CanonicalNext.execPageCountersClear (hs : Canonical s) {g : RegionId} {v : W32} : CanonicalNext (execPageCountersClear g v s) :=
  .next (.lateWindow hs fun _ h1 => .clearCnt h1)

theorem CanonicalNext.execCoilCountersClear (hs : Canonical s) {g : RegionId} {v : W32} : CanonicalNext (execCoilCountersClear g v s) :=
  .next (.lateWindow hs fun _ h1 => .clearCnt h1)

theorem CanonicalNext.execMemoryCountersClear (hs : Canonical s) {g : RegionId} {v : W32} : CanonicalNext (execMemoryCountersClear g v s) :=
  .next (.lateWindow hs fun _ h1 => .clearCnt h1)

theorem CanonicalNext.execIntegrityCountersClear (hs : Canonical s) {g : RegionId} {v : W32} : CanonicalNext (execIntegrityCountersClear g v s) :=
  .next (.lateWindow hs fun _ h1 => .clearCnt h1)

theorem CanonicalNext.execSnapshotPartitionWrite (hs : Canonical s) {v : W32} : CanonicalNext (execSnapshotPartitionWrite v s) :=
  .next (.late hs fun _ h1 => .updFls h1)

theorem Canonical.writeMsix (hs : Canonical s) {h : HostPort} {o v : Nat} : Canonical (s.writeMsix h o v) := by
  unfold State.writeMsix
  split
  · split
    · exact .updHif hs
    · exact .unmask hs
  · exact .updHif hs

theorem Canonical.writeHif (hs : Canonical s) {h : HostPort} {off v : Nat} : Canonical (s.writeHif h off v) := by
  unfold State.writeHif
  split
  · split
    · exact .updSvc hs
    · exact hs
  · exact .updHif hs
  · exact .updHif hs
  · exact .updHif hs
  · split
    · exact .writeMsix hs
    · exact hs

theorem Canonical.writeTim (hs : Canonical s) {o v : Nat} : Canonical (s.writeTim o v) := by
  unfold State.writeTim
  split
  · exact .updTim hs
  · exact .updTim hs
  · exact .updTim hs
  · exact hs

theorem Canonical.writePwrState (hs : Canonical s) {v : Nat} : Canonical (s.writePwrState v) := by
  unfold State.writePwrState
  dsimp only
  split
  · refine .updPwr ?_
    split
    · exact .updPwr hs
    · exact hs
  · refine .requestAsh ?_
    split
    · exact .updPwr hs
    · exact hs
  · refine .requestCold ?_
    split
    · exact .updPwr hs
    · exact hs
  · split
    · exact .updPwr hs
    · exact hs

theorem Canonical.writePwr (hs : Canonical s) {o v : Nat} : Canonical (s.writePwr o v) := by
  unfold State.writePwr
  split
  · exact .writePwrState hs
  · exact .updPwr hs
  · split
    · exact .updPwr hs
    · exact hs
  · exact .updPwr hs
  · exact .updPwr hs
  · exact .updPwr hs
  · exact hs

theorem Canonical.writeTest (hs : Canonical s) {v : Nat} : Canonical (s.writeTest v) := by
  unfold State.writeTest
  dsimp only
  split
  · exact .updSvc hs
  · split
    · exact hs
    · split
      · exact .mailTest (.fresh (.updSvc hs))
      · exact .updSvc (.updSvc hs)

theorem Canonical.writeSvc (hs : Canonical s) {o v : Nat} : Canonical (s.writeSvc o v) := by
  unfold State.writeSvc
  split
  · exact .writeTest hs
  · split
    · exact .updSvc hs
    · exact hs
  · exact hs

theorem Canonical.mailOp (hs : Canonical s) {p : HostPort} {op : Nat} : Canonical (s.mailOp p op) := by
  unfold State.mailOp
  dsimp only
  split
  · exact .mail hs
  · exact .mail hs
  · exact .mail hs
  · exact .mail hs
  · exact .mail hs
  · exact .mail hs
  · exact .mail hs
  · exact .updMbox hs

theorem Canonical.writeMail (hs : Canonical s) {p : HostPort} {o v : Nat} : Canonical (s.writeMail p o v) := by
  unfold State.writeMail
  split
  · exact hs
  · split
    · exact .updMbox hs
    · exact .updMbox hs
    · exact .updMbox hs
    · exact .updMbox hs
    · exact .updMbox hs
    · exact .mailOp hs
    · exact hs

theorem Canonical.writeQue (hs : Canonical s) {o v : Nat} : Canonical (s.writeQue o v) := by
  unfold State.writeQue
  split
  · exact .writeMail hs
  · split
    · exact .writeMail hs
    · exact hs

theorem Canonical.writeDispatch (hs : Canonical s) {v : Nat} : Canonical (s.writeDispatch v) := .same hs

theorem Canonical.writeSch (hs : Canonical s) {o v : Nat} : Canonical (s.writeSch o v) := by
  unfold State.writeSch
  split
  · exact .writeDispatch hs
  · split
    · exact .updSlots hs
    · split
      · split
        · exact .updSlots hs
        · exact hs
      · split
        · exact .updSlots hs
        · split
          · exact .writeRole hs
          · exact hs

theorem Canonical.writeSmpCtrl (hs : Canonical s) {q : SampleQ} {v : Nat} : Canonical (s.writeSmpCtrl q v) := by
  unfold State.writeSmpCtrl
  extract_lets s1 s2
  have h1 : Canonical s1 := .ite (.updSmp hs) hs
  have h2 : Canonical s2 := .ite (.updSmp h1) h1
  exact .ite (.smpStart h2) h2

theorem Canonical.writeSmp (hs : Canonical s) {o v : Nat} : Canonical (s.writeSmp o v) := by
  unfold State.writeSmp
  split
  · dsimp only
    split
    · exact .updSmp hs
    · exact .updSmp hs
    · exact .writeSmpCtrl hs
    · exact .updSmp hs
    · exact hs
  · exact hs

theorem Canonical.writeXfer (hs : Canonical s) {v : Nat} : Canonical (s.writeXfer v) := by
  unfold State.writeXfer
  split
  · exact hs
  · dsimp only
    split
    · exact .updFls hs
    · split
      · exact .exportRange (.updFls hs)
      · exact .importRange (.updFls hs)
      · exact .restoreSnap (.updFls hs)
      · exact .releaseAll (.updFls hs)
      · exact .discardSnap (.updFls hs)
      · exact .xDone (.updFls hs)

theorem Canonical.writeFls (hs : Canonical s) {o v : Nat} : Canonical (s.writeFls o v) := by
  unfold State.writeFls
  split
  · exact .updFls hs
  · split
    · exact .updFls hs
    · exact hs
  · exact .updFls hs
  · exact .updFls hs
  · exact .updFls hs
  · exact .updFls hs
  · exact .updFls hs
  · exact .writeXfer hs
  · exact hs

theorem Canonical.writePctrl (hs : Canonical s) {p : DaritPort} {v : Nat} : Canonical (s.writePctrl p v) := by
  unfold State.writePctrl
  dsimp only
  split
  · refine .portReset ?_
    split
    · exact .updPort hs
    · exact hs
  · split
    · exact .updPort hs
    · exact hs

theorem Canonical.writeDrtG (hs : Canonical s) {o v : Nat} : Canonical (s.writeDrtG o v) := by
  unfold State.writeDrtG
  split
  · exact .writeTopology hs
  · exact .writeTopology hs
  · exact .updDarit hs
  · exact .updDarit hs
  · split
    · exact .updDarit hs
    · exact hs
  · exact hs

theorem Canonical.writeDrt (hs : Canonical s) {o v : Nat} : Canonical (s.writeDrt o v) := by
  unfold State.writeDrt
  split
  · exact .writeDrtG hs
  · split
    · split
      · exact .writePcfg hs
      · exact .writePctrl hs
      · exact hs
    · exact hs

theorem Canonical.writeWindow (hs : Canonical s) {g : RegionId} {o v : Nat} : Canonical (s.writeWindow g o v) := by
  unfold State.writeWindow
  split
  · split
    · exact .updCore hs
    · exact hs
  · split
    · split
      · exact .updRegion hs
      · exact hs
    · split
      · exact .updRegion hs
      · exact hs
    · exact .updRegion hs
    · exact .clearCnt hs

theorem Canonical.barWrite (hs : Canonical s) {h : HostPort} {off v : Nat} : Canonical (s.barWrite h off v) := by
  unfold State.barWrite
  refine .ite hs (.ite (.writeHif hs) (.ite (.writeTim hs) (.ite (.writePwr hs) (.ite (.updSvc hs) (.ite (.writeSvc hs) ?_)))))
  exact .ite (.writeQue hs) (.ite (.writeSch hs) (.ite (.writeSmp hs) (.ite (.writeFls hs) (.ite (.writeDrt hs)
    (.ite (.writeWindow (.leaveLow hs)) hs)))))

theorem CanonicalNext.execRegisterWrite (hs : Canonical s) {h : HostPort} {off width : Nat} {v : W32} :
    CanonicalNext (execRegisterWrite h off width v s) := by
  unfold Machine.execRegisterWrite
  refine .next ?_
  dsimp only
  split
  · exact .awake hs
  · exact .barWrite (.awake hs)

/-- Every command keeps the form: its own operations do. -/
theorem CanonicalNext.exec (hs : Canonical s) {i : Instr} : CanonicalNext (exec i s) := by
  unfold Machine.exec
  split
  · exact .execFenceInstruction hs
  · exact .execFenceEnd hs
  · exact .execClaim hs
  · exact .execCommit hs
  · exact .execVopScalar hs
  · exact .execVopBranch hs
  · exact .issue hs
  · exact .issue hs
  · exact .issue hs
  · exact .issue hs
  · exact .issue hs
  · exact .issue hs
  · exact .issue hs
  · exact .issue hs
  · exact .issue hs
  · exact .issue hs
  · exact .issue hs
  · exact .issue hs
  · exact .issue hs
  · exact .issue hs
  · exact .issue hs
  · exact .issue hs
  · exact .issue hs
  · exact .issue hs
  · exact .issue hs
  · exact .issue hs
  · exact .execInstructionComplete hs
  · exact .execAtomicReply hs
  · exact .execTrapRecord hs
  · exact .execAtomicClaim hs
  · exact .execAtomicCommit hs
  · exact .execAtomicContribution hs
  · exact .execContributionRetry hs
  · exact .execDoorbell hs
  · exact .execCommandAccept hs
  · exact .execCommandFetchRetry hs
  · exact .execCommandDispatch hs
  · exact .execDispatchAgeing hs
  · exact .execKernel hs
  · exact .execInstancePlacement hs
  · exact .execLoadingComplete hs
  · exact .execInstructionFetchMiss hs
  · exact .execPreemptionDecision hs
  · exact .execCopy hs
  · exact .execFill hs
  · exact .execFork hs
  · exact .execCull hs
  · exact .execRoundRun hs
  · exact .execRoundPark hs
  · exact .execRoundUnpark hs
  · exact .execRoundConfig hs
  · exact .execRoundClose hs
  · exact .execFence hs
  · exact .execSignal hs
  · exact .execWait hs
  · exact .execWaitRecheck hs
  · exact .execWaitTimeout hs
  · exact .execHint hs
  · exact .execSnapshot hs
  · exact .execQuenchDrainEnd hs
  · exact .execQuenchCaptureEnd hs
  · exact .execQuenchWriteEnd hs
  · exact .execCommandCommit hs
  · exact .execHeldWriteRetry hs
  · exact .execCtxCreate hs
  · exact .execCtxDestroy hs
  · exact .execQueueCreate hs
  · exact .execQueueDestroy hs
  · exact .execInvalidate hs
  · exact .execCancel hs
  · exact .execQuery hs
  · exact .execAdmInvalidOp hs
  · exact .execCoreFault hs
  · exact .execKernelSlotStall hs
  · exact .execRegionWatchdogExpiry hs
  · exact .execControlCoreWatchdogExpiry hs
  · exact .execRegionReset hs
  · exact .execEpochAdvance hs
  · exact .execDieFault hs
  · exact .execDieReturn hs
  · exact .execPackageWarmReset hs
  · exact .execCommandStoreCopyLoss hs
  · exact .execFabricRequest hs
  · exact .execFabricReply hs
  · exact .execPartAbsentRetry hs
  · exact .execBulkPromotion hs
  · exact .execCoilUnparkComplete hs
  · exact .execCoilParkComplete hs
  · exact .execCoilEviction hs
  · exact .execTimeSlotStart hs
  · exact .execStrobeLost hs
  · exact .execStrobeReturn hs
  · exact .execSlotTableEffect hs
  · exact .execSlotTableCommit hs
  · exact .execSramScrubSlot hs
  · exact .execStackScrubRead hs
  · exact .execScrubWriteback hs
  · exact .execFlashReadDisturb hs
  · exact .execFlashWearLevel hs
  · exact .execFlashSparesExhausted hs
  · exact .execSampleDecodeStart hs
  · exact .execSampleDecodeEnd hs
  · exact .execSampleHandoff hs
  · exact .execDecodeLaneFault hs
  · exact .execSampleQueueStart hs
  · exact .execSampleQueueStop hs
  · exact .execSampleCountersClear hs
  · exact .execSampleTailWrite hs
  · exact .execRoleWrite hs
  · exact .execWatchdogPeriodWrite hs
  · exact .execAnvilCountersClear hs
  · exact .execAtomicCountersClear hs
  · exact .execTileCountersClear hs
  · exact .execPageCountersClear hs
  · exact .execCoilCountersClear hs
  · exact .execMemoryCountersClear hs
  · exact .execIntegrityCountersClear hs
  · exact .execSnapshotPartitionWrite hs
  · exact .execExportImage hs
  · exact .execImportImage hs
  · exact .execRestore hs
  · exact .execRelease hs
  · exact .execDiscard hs
  · exact .execXferInvalidOp hs
  · exact .execPortConfigWrite hs
  · exact .execTopologyWrite hs
  · exact .execRetrain hs
  · exact .execPortCountersClear hs
  · exact .execAgedCounterClear hs
  · exact .execPortTraining hs
  · exact .execCableSense hs
  · exact .execLaneFailure hs
  · exact .execDaritPortFault hs
  · exact .execFlitReceive hs
  · exact .execFrameForward hs
  · exact .execRemoteRequestTimeout hs
  · exact .execTrunkStateChange hs
  · exact .execRemoteGatherServe hs
  · exact .execBar4Access hs
  · exact .execBar4Resize hs
  · exact .execApertureBaseWrite hs
  · exact .execCounterLoRead hs
  · exact .execPeakPowerRead hs
  · exact .execMsixUnmask hs
  · exact .execHostPortDown hs
  · exact .execHostPortUp hs
  · exact .execRehomeTimeout hs
  · exact .execHostPortReset hs
  · exact .execPtmExchange hs
  · exact .execPpsEdge hs
  · exact .execTimeReferenceLoss hs
  · exact .execTimeSourceWrite hs
  · exact .execTimeSetArm hs
  · exact .execGlowEntry hs
  · exact .execEmberEntry hs
  · exact .execLowPowerWake hs
  · exact .execAshRequest hs
  · exact .execColdRequest hs
  · exact .execPowerRequestTimeout hs
  · exact .execAshWake hs
  · exact .execColdWake hs
  · exact .execPowerSample hs
  · exact .execCeilingStep hs
  · exact .execAnvilTokenGrant hs
  · exact .execHintStart hs
  · exact .execHintEnd hs
  · exact .execHintEarlyEnd hs
  · exact .execDroopTrip hs
  · exact .execDroopRecover hs
  · exact .execDroopFault hs
  · exact .execThermalSample hs
  · exact .execThermalTrip hs
  · exact .execCoolantSample hs
  · exact .execCoolantWarnEnd hs
  · exact .execMarginAdjust hs
  · exact .execMarginModeWrite hs
  · exact .execEnergyAttribution hs
  · exact .execFeedFailure hs
  · exact .execFeedReturn hs
  · exact .execFeedOvervoltage hs
  · exact .execFeedReversePolarity hs
  · exact .execFeedShort hs
  · exact .execPowerGood hs
  · exact .execPowerLoss hs
  · exact .execPowerRemoved hs
  · exact .execClockInputChange hs
  · exact .execServiceSessionConnect hs
  · exact .execHello hs
  · exact .execStatus hs
  · exact .execReadLog hs
  · exact .execAttest hs
  · exact .execDoeAttest hs
  · exact .execStageBegin hs
  · exact .execStageData hs
  · exact .execStageEnd hs
  · exact .execActivate hs
  · exact .execCommitSvn hs
  · exact .execResetPackage hs
  · exact .execFuseProgram hs
  · exact .execResume hs
  · exact .execTestCheckerPatterns hs
  · exact .execTestSensorCalibration hs
  · exact .execTestSramBist hs
  · exact .execTestStackRetrain hs
  · exact .execTestVectorEngine hs
  · exact .execTestDaritRetrain hs
  · exact .execTestInvalidKind hs
  · exact .execRegionDrainComplete hs
  · exact .execRegionDrainTimeout hs
  · exact .execPage hs
  · exact .execClearFaults hs
  · exact .execStatusWord hs
  · exact .execStatusInput hs
  · exact .execReadEin hs
  · exact .execReadVin hs
  · exact .execReadIin hs
  · exact .execReadTemperature1 hs
  · exact .execReadPin hs
  · exact .execPmbusRevision hs
  · exact .execMfrId hs
  · exact .execMfrModel hs
  · exact .execMfrWake hs
  · exact .execSmbusRefused hs
  · exact .execAlertResponse hs
  · exact .execRegisterWrite hs
  · exact .execRegionResetEnd hs
  · exact .execCtxCreateDrainTimeout hs
  · exact .execVectorEngineTestEnd hs
  · exact .execVectorEngineTestTimeout hs
  · exact .execServiceSessionClose hs
  · exact .execHostReadCompletionTimeout hs

/-- Settles O4: every command keeps each memory's form, and a step is the command at the front. -/
theorem memoriesStayCanonical : Obligations.MemoriesStayCanonical := by
  intro s t hs h
  unfold Machine.step at h
  split at h
  · cases h
    exact hs
  · exact CanonicalNext.exec (Canonical.same hs) t h

end Sys2Proof.Machine
end

section
/-! PROOF. What persists: the waiting commands, what fuses hold, the log's bound and the host ports' links, for states, runs that may fail,
acts and commands, and the
operations that every meaning is made of (18, R365, R367; 22, R437; log 1). -/

namespace Sys2Proof.Machine

-- One proof after another: all proofs of these files at once take more memory than the check has.
set_option Elab.async false

/-- What fuses hold is there still: field entries, the identity, the revocations, and the committed SVNs or higher ones (R365, R437). -/
structure FusesKept (v w : Service) : Prop where
  fuses : v.fuses <+: w.fuses
  serial : w.serial = v.serial
  hwType : w.hwType = v.hwType
  revoked : w.revoked = v.revoked
  svn : ∀ k : Fin 2, v.svn[k] ≤ w.svn[k]

/-- The host ports as they are linked, and their counts of reads that timed out (R400, R407). -/
def PortsKept (s t : State) : Prop := ∀ h : HostPort, t.hif[h].up = s.hif[h].up ∧ t.hif[h].cntCplTimeout = s.hif[h].cntCplTimeout

/-- What no command takes from a state: the waiting commands, what fuses hold, and the bound of the log (R365, R367); where `ports` asks for it,
the host ports' links too, which only their own commands and the package's resets change. -/
structure Persists (ports : Bool) (s₀ s : State) : Prop where
  links : ports = true → PortsKept s₀ s
  pending : s.pending = s₀.pending
  fused : FusesKept s₀.svc s.svc
  log : s₀.log.recs.length ≤ 8192 → s.log.recs.length ≤ 8192

/-- An act that answers takes nothing of that. -/
structure PersistsAct (ports : Bool) (s₀ : State) {α : Type} (a : Act α) : Prop where
  keeps : ∀ {s x t}, Persists ports s₀ s → a.run s = .ok (x, t) → Persists ports s₀ t

/-- Nor does the next state that a command answers, if it answers one. -/
def PersistsNext (ports : Bool) (s₀ : State) (o : Host.Outcome State Fault Refusal) : Prop := ∀ t, o = .next t → Persists ports s₀ t

theorem PersistsNext.next {s₀ s : State} (h : Persists ports s₀ s) : PersistsNext ports s₀ (.next s) := fun _ e => by cases e; exact h

/-! ## Its parts -/

namespace FusesKept

variable {u v w : Service}

theorem refl (v : Service) : FusesKept v v := ⟨List.prefix_rfl, rfl, rfl, rfl, fun _ => le_rfl⟩

theorem trans (h : FusesKept u v) (h' : FusesKept v w) : FusesKept u w :=
  ⟨h.fuses.trans h'.fuses, h'.serial.trans h.serial, h'.hwType.trans h.hwType, h'.revoked.trans h.revoked, fun k => (h.svn k).trans (h'.svn k)⟩

/-- A change of what lies beside the fuses. -/
theorem beside (hfuses : w.fuses = v.fuses := by exact rfl) (hserial : w.serial = v.serial := by exact rfl)
    (hhw : w.hwType = v.hwType := by exact rfl) (hrev : w.revoked = v.revoked := by exact rfl) (hsvn : w.svn = v.svn := by exact rfl) :
    FusesKept v w :=
  ⟨hfuses ▸ List.prefix_rfl, hserial, hhw, hrev, fun _ => hsvn ▸ le_rfl⟩

/-- A committed SVN raised. -/
theorem raisesSvn {i : Fin 2} {n : Nat} (hn : v.svn[i] ≤ n) : FusesKept v { v with svn := v.svn.set i n } := by
  refine ⟨List.prefix_rfl, rfl, rfl, rfl, fun k => ?_⟩
  by_cases hk : i.val = k.val
  · obtain rfl := Fin.ext hk
    simpa using hn
  · simp [hk]

/-- A field entry written behind the others. -/
theorem addsFuse {e : W64} : FusesKept v { v with fuses := v.fuses ++ [e] } := ⟨List.prefix_append .., rfl, rfl, rfl, fun _ => le_rfl⟩

end FusesKept

namespace PortsKept

variable {s t u : State}

theorem of_eq (h : t.hif = s.hif) : PortsKept s t := fun p => by
  rw [h]
  exact ⟨rfl, rfl⟩

theorem refl (s : State) : PortsKept s s := of_eq rfl

theorem trans (a : PortsKept s t) (b : PortsKept t u) : PortsKept s u := fun h =>
  ⟨(b h).1.trans (a h).1, (b h).2.trans (a h).2⟩

theorem updHif (s : State) (h : HostPort) {f : Hif → Hif}
    (hf : ∀ x, (f x).up = x.up ∧ (f x).cntCplTimeout = x.cntCplTimeout) : PortsKept s (s.updHif h f) := fun p => by
  by_cases hp : h.val = p.val
  · obtain rfl := Fin.ext hp
    have e : (s.updHif h f).hif[h] = f s.hif[h] := by simp [State.updHif]
    rw [e]
    exact hf _
  · simp [State.updHif, hp]

theorem msix (s : State) (h : HostPort) (vec : Nat) (ctx : Option Nat) : PortsKept s (s.msix h vec ctx) :=
  updHif s h fun x => by
    split
    · exact ⟨rfl, rfl⟩
    · split
      · exact ⟨rfl, rfl⟩
      · exact ⟨rfl, rfl⟩

theorem portEvent (s : State) (h : HostPort) (b : Fin 4) : PortsKept s (s.portEvent h b) := by
  have hevt := updHif s h (f := fun x => { x with evt := x.evt ||| BitVec.ofNat 4 (2 ^ b.val) }) fun _ => ⟨rfl, rfl⟩
  unfold State.portEvent
  dsimp only
  split
  · exact hevt.trans (msix _ _ _ none)
  · exact hevt

theorem logEv (s : State) (a : LogArgs) : PortsKept s (s.logEv a) := by
  unfold State.logEv
  dsimp only
  split
  · exact of_eq rfl
  · exact ((portEvent s 0 3).trans (portEvent _ 1 3)).trans (of_eq rfl)

end PortsKept

namespace Persists

variable {ports : Bool} {s₀ s t : State}

theorem refl (s : State) : Persists ports s s := ⟨fun _ => .refl s, rfl, .refl _, id⟩

/-- A change of anything else. -/
theorem same (h : Persists ports s₀ s) (hpend : t.pending = s.pending := by exact rfl) (hsvc : t.svc = s.svc := by exact rfl)
    (hlog : t.log.recs = s.log.recs := by exact rfl) (hhif : t.hif = s.hif := by exact rfl) : Persists ports s₀ t :=
  ⟨fun hp => (h.links hp).trans (.of_eq hhif), hpend.trans h.pending, hsvc ▸ h.fused, fun h0 => hlog ▸ h.log h0⟩

/-- A change of the host ports, where nothing is asked of them. -/
theorem anyPorts (h : Persists false s₀ s) (hpend : t.pending = s.pending := by exact rfl) (hsvc : t.svc = s.svc := by exact rfl)
    (hlog : t.log.recs = s.log.recs := by exact rfl) : Persists false s₀ t :=
  ⟨(nomatch ·), hpend.trans h.pending, hsvc ▸ h.fused, fun h0 => hlog ▸ h.log h0⟩

/-- A change of what the service processor holds beside the fuses. -/
theorem service (h : Persists ports s₀ s) (hfused : FusesKept s.svc t.svc := by exact FusesKept.beside) (hpend : t.pending = s.pending := by exact rfl)
    (hlog : t.log.recs = s.log.recs := by exact rfl) (hhif : t.hif = s.hif := by exact rfl) : Persists ports s₀ t :=
  ⟨fun hp => (h.links hp).trans (.of_eq hhif), hpend.trans h.pending, h.fused.trans hfused, fun h0 => hlog ▸ h.log h0⟩

theorem updPwr (h : Persists ports s₀ s) {f : Power → Power} : Persists ports s₀ (s.updPwr f) := h.same

theorem updFls (h : Persists ports s₀ s) {f : Flash → Flash} : Persists ports s₀ (s.updFls f) := h.same

theorem logEv (h : Persists ports s₀ s) {a : LogArgs} : Persists ports s₀ (s.logEv a) := by
  refine ⟨fun hp => (h.links hp).trans (.logEv s a), ?_, ?_, fun _ => logEv_length s a⟩
  · rw [logEv_frame]
    exact h.pending
  · rw [logEv_frame]
    exact h.fused

theorem logLimited (h : Persists ports s₀ s) {key max : Nat} {a : LogArgs} : Persists ports s₀ (s.logLimited key max a) := by
  unfold State.logLimited
  dsimp only
  split
  · exact (logEv h).same
  · exact h.same

theorem ite {c : Prop} [Decidable c] (hs : Persists ports s₀ s) (ht : Persists ports s₀ t) : Persists ports s₀ (if c then s else t) := by
  split
  · exact hs
  · exact ht

/-- A fold of steps that keep it. -/
theorem foldl {β : Type} {f : State → β → State} {l : List β} (hf : ∀ s b, Persists ports s₀ s → Persists ports s₀ (f s b)) (h : Persists ports s₀ s) :
    Persists ports s₀ (l.foldl f s) := by
  induction l generalizing s with
  | nil => exact h
  | cons b l ih => exact ih (hf s b h)

end Persists

theorem Answers.persistsFoldlM {β : Type} {f : State → β → Except AccErr State} {l : List β} {s₀ s : State}
    (hf : ∀ s b, Persists ports s₀ s → Answers (Persists ports s₀) (f s b)) (h : Persists ports s₀ s) : Answers (Persists ports s₀) (l.foldlM f s) := by
  induction l generalizing s with
  | nil => exact .ok h
  | cons b l ih => rw [List.foldlM_cons]; exact .bind (hf s b h) fun t ht => ih ht

/-! ## Acts -/

namespace PersistsAct

variable {ports : Bool} {α β : Type} {s₀ : State}

theorem of_same {a : Act α} (h : ∀ {s x t}, a.run s = .ok (x, t) → t = s) : PersistsAct ports s₀ a := ⟨fun hs e => h e ▸ hs⟩

theorem pure {x : α} : PersistsAct ports s₀ (Pure.pure x : Act α) := of_same fun h => (Act.of_pure h).2
theorem get : PersistsAct ports s₀ (MonadState.get : Act State) := of_same fun h => (Act.of_get h).2
theorem fail {n : Nat} : PersistsAct ports s₀ (Act.fail n : Act α) := ⟨fun _ h => (Act.of_fail h).elim⟩
theorem need {b : Bool} {n : Nat} : PersistsAct ports s₀ (Act.need b n) := of_same fun h => (Act.of_need h).2
theorem lift {e : Except AccErr α} : PersistsAct ports s₀ (Act.lift e) := of_same fun h => (Act.of_lift h).2

theorem modify {f : State → State} (hf : ∀ s, Persists ports s₀ s → Persists ports s₀ (f s)) : PersistsAct ports s₀ (modify f : Act PUnit) :=
  ⟨fun hs h => Act.of_modify h ▸ hf _ hs⟩

theorem bind {a : Act α} {f : α → Act β} (ha : PersistsAct ports s₀ a) (hf : ∀ x, PersistsAct ports s₀ (f x)) :
    PersistsAct ports s₀ (a >>= f) := ⟨fun hs h => by
  obtain ⟨x, u, hx, h⟩ := Act.of_bind h
  exact (hf x).keeps (ha.keeps hs hx) h⟩

/-- An act by its runs. -/
theorem of_run {a : Act α} (h : ∀ s, Persists ports s₀ s → Answers (fun r => Persists ports s₀ r.2) (a.run s)) : PersistsAct ports s₀ a :=
  ⟨fun {s x t} hs e => h s hs (x, t) e⟩

theorem map {a : Act α} {f : α → β} (ha : PersistsAct ports s₀ a) : PersistsAct ports s₀ (f <$> a) := bind ha fun _ => pure

theorem forIn {l : List β} {r : α} {f : β → α → Act (ForInStep α)} (hf : ∀ b r, PersistsAct ports s₀ (f b r)) : PersistsAct ports s₀ (forIn l r f) :=
  ⟨fun hs h => Act.forIn_keeps (fun b _ r _ _ _ hs h => (hf b r).keeps hs h) hs h⟩

theorem mapM {f : β → Act α} {l : List β} (hf : ∀ b, PersistsAct ports s₀ (f b)) : PersistsAct ports s₀ (l.mapM f) := by
  induction l with
  | nil => exact pure
  | cons b l ih => rw [List.mapM_cons]; exact bind (hf b) fun _ => bind ih fun _ => pure

theorem foldlM {f : α → β → Act α} {l : List β} {a : α} (hf : ∀ a b, PersistsAct ports s₀ (f a b)) : PersistsAct ports s₀ (l.foldlM f a) := by
  induction l generalizing a with
  | nil => exact pure
  | cons b l ih => rw [List.foldlM_cons]; exact bind (hf a b) fun _ => ih

/-- A run whose value and state a checked computation goes on with. -/
theorem answers {a : Act α} (ha : PersistsAct ports s₀ a) {s : State} (hs : Persists ports s₀ s) :
    Answers (fun r => Persists ports s₀ r.2) (a.run s) :=
  fun _ h => ha.keeps hs h

end PersistsAct

/-! ## Notes, and writes of the tiers -/

namespace Persists

variable {ports : Bool} {s₀ s t : State}

theorem updRegion (h : Persists ports s₀ s) {g : RegionId} {f : Region → Region} : Persists ports s₀ (s.updRegion g f) := h.same

theorem updCnt (h : Persists ports s₀ s) {g : RegionId} {f : RegionCnt → RegionCnt} : Persists ports s₀ (s.updCnt g f) := updRegion h

theorem mendStacked (h : Persists ports s₀ s) {b : Nat} : Persists ports s₀ (s.mendStacked b) := by
  unfold State.mendStacked
  split
  · split
    · exact h.same
    · exact ite h.same h
  · exact h

theorem mendRow (h : Persists ports s₀ s) {row : Nat} : Persists ports s₀ (s.mendRow row) := foldl (fun _ _ h => mendStacked h) h

theorem repairRow (h : Persists ports s₀ s) {g : RegionId} {addr : Nat} : Persists ports s₀ (s.repairRow g addr) := by
  unfold State.repairRow
  dsimp only
  split
  · exact h
  · exact ite (logEv (updRegion (mendRow h))) (logEv h)

theorem rowError (h : Persists ports s₀ s) {g : RegionId} {addr : Nat} : Persists ports s₀ (s.rowError g addr) := by
  unfold State.rowError
  exact ite (repairRow (updRegion h)) (updRegion h)

theorem noteBlockBy (h : Persists ports s₀ s) {src unit : Nat} {l : Loc} {c : Checked} : Persists ports s₀ (s.noteBlockBy src unit l c) := by
  unfold State.noteBlockBy
  cases c with
  | clean _ => exact h
  | corrected _ b => exact ite (logLimited (updCnt h)) (rowError (logLimited (updCnt h)))
  | unwritten => exact logEv h
  | error => exact ite (logEv (updCnt h)) (repairRow (logEv (updCnt h)))

theorem noteBlock (h : Persists ports s₀ s) {l : Loc} {c : Checked} : Persists ports s₀ (s.noteBlock l c) := noteBlockBy h

theorem noteRead (h : Persists ports s₀ s) {l : Loc} {len : Nat} : Persists ports s₀ (s.noteRead l len) := by
  unfold State.noteRead
  split
  · dsimp only
    split
    · exact updCnt (foldl (fun _ _ h => noteBlock h) h)
    · exact foldl (fun _ _ h => noteBlock h) h
  · exact h

theorem noteParts (h : Persists ports s₀ s) {l : Loc} {blocks : List Nat} : Persists ports s₀ (s.noteParts l blocks) := by
  unfold State.noteParts
  split
  · exact foldl (fun _ _ h => noteBlock h) h
  · exact h

theorem noteErr (h : Persists ports s₀ s) {n : ErrNote} : Persists ports s₀ (s.noteErr n) := by
  cases n with
  | none => exact h
  | xlate ctx va => exact logEv h
  | read l len => exact noteRead h
  | part l bs => exact noteParts h

theorem cacheFill (h : Persists ports s₀ s) {g : RegionId} {ctx va : Nat} : Persists ports s₀ (s.cacheFill g ctx va) := by
  unfold State.cacheFill
  split
  · split
    · exact ite (updRegion h) h
    · exact h
  · exact h

theorem noteVirt (h : Persists ports s₀ s) {g : Option RegionId} {ctx va len : Nat} : Persists ports s₀ (s.noteVirt g ctx va len) := by
  unfold State.noteVirt
  split
  · exact h
  · dsimp only
    split
    · exact foldl (fun _ _ h => cacheFill h) (foldl (fun _ _ h => noteRead h) h)
    · exact foldl (fun _ _ h => noteRead h) h

theorem countWrites (h : Persists ports s₀ s) {l : Loc} {ps : List (Nat × List Byte)} : Persists ports s₀ (s.countWrites l ps) := by
  unfold State.countWrites
  split
  · exact foldl (fun _ _ h => updCnt h) h
  · exact h

theorem putRam (h : Persists ports s₀ s) {l : Loc} {m : Ram} : Persists ports s₀ (s.putRam l m) := by cases l <;> exact h.same

theorem writeLoc (h : Persists false s₀ s) {l : Loc} {bs : List Byte} : Answers (Persists false s₀) (s.writeLoc l bs) := fun _ e => by
  obtain ⟨_, rfl, _⟩ | ⟨m, a, m', _, _, rfl⟩ := writeLoc_cases e
  · exact h.same
  · exact countWrites (putRam (noteParts h))

theorem writePieces (h : Persists ports s₀ s) {l : Loc} {ps : List (Nat × List Byte)} :
    Answers (Persists ports s₀) (s.writePieces l ps) := fun _ e => by
  obtain ⟨m, a, m', _, _, rfl⟩ | rfl := writePieces_cases e
  · exact countWrites (putRam (noteParts h))
  · exact h.same

theorem writeAll (h : Persists ports s₀ s) {ws : List (Loc × List Byte)} : Answers (Persists ports s₀) (s.writeAll ws) := fun _ e => by
  obtain ⟨s1, s2, s3, s4, p1, p2, p3, p4, p5, h1, h2, h3, h4, h5⟩ := writeAll_steps e
  exact writePieces (writePieces (writePieces (writePieces (writePieces h _ h1) _ h2) _ h3) _ h4) _ h5

theorem writeVirt (h : Persists ports s₀ s) {g : Option RegionId} {ctx va : Nat} {bs : List Byte} :
    Answers (Persists ports s₀) (s.writeVirt g ctx va bs) := fun _ e => by
  obtain ⟨ls, _, e⟩ := bind_ok e
  exact writeAll h _ e

end Persists

end Sys2Proof.Machine
end

section
/-! PROOF. What persists: the shared operations, instruction words, kernel slots and operands (03, 04, 05). -/

namespace Sys2Proof.Machine

set_option Elab.async false

variable {ports : Bool} {s₀ s : State}

theorem Persists.updCore (hs : Persists ports s₀ s) {c : CoreId} {f : Core → Core} : Persists ports s₀ (s.updCore c f) := .same hs

theorem Persists.updSlot (hs : Persists ports s₀ s) {c : CoreId} {k : KsId} {f : KSlot → KSlot} : Persists ports s₀ (s.updSlot c k f) := .updCore hs

theorem Persists.updSeq (hs : Persists ports s₀ s) {i : Nat} {f : Seq → Seq} : Persists ports s₀ (s.updSeq i f) := .same hs

theorem Persists.updCoil (hs : Persists false s₀ s) {i : Nat} {f : Coil → Coil} : Persists false s₀ (s.updCoil i f) := .same hs

theorem Persists.updQueue (hs : Persists ports s₀ s) {q : Nat} {f : Queue → Queue} : Persists ports s₀ (s.updQueue q f) := .same hs

theorem Persists.updCmd (hs : Persists ports s₀ s) {q n : Nat} {f : Cmd → Cmd} : Persists ports s₀ (s.updCmd q n f) := .same hs

theorem Persists.updPart (hs : Persists false s₀ s) {p : Part} {f : EpochEntry → EpochEntry} : Persists false s₀ (s.updPart p f) := .same hs

theorem Persists.updHif (hs : Persists ports s₀ s) {h : HostPort} {f : Hif → Hif}
    (hf : ∀ x, (f x).up = x.up ∧ (f x).cntCplTimeout = x.cntCplTimeout := by exact fun _ => ⟨rfl, rfl⟩) : Persists ports s₀ (s.updHif h f) :=
  ⟨fun hp => (hs.links hp).trans (.updHif s h hf), hs.pending, hs.fused, hs.log⟩

/-- Any change of a port, where nothing is asked of the ports. -/
theorem Persists.anyHif (hs : Persists false s₀ s) {h : HostPort} {f : Hif → Hif} : Persists false s₀ (s.updHif h f) := .anyPorts hs

theorem Persists.msix (hs : Persists ports s₀ s) {h : HostPort} {vec : Nat} {ctx : Option Nat} : Persists ports s₀ (s.msix h vec ctx) :=
  ⟨fun hp => (hs.links hp).trans (.msix s h vec ctx), hs.pending, hs.fused, hs.log⟩

theorem Persists.portEvent (hs : Persists false s₀ s) {h : HostPort} {b : Fin 4} : Persists false s₀ (s.portEvent h b) := by
  unfold State.portEvent
  dsimp only
  split
  · exact .msix (.updHif hs)
  · exact .updHif hs

theorem Persists.logPower (hs : Persists false s₀ s) {cause unit : Nat} : Persists false s₀ (s.logPower cause unit) := .logEv hs

theorem Persists.setPower (hs : Persists false s₀ s) {code : Nat} : Persists false s₀ (s.setPower code) := by
  unfold State.setPower
  split
  · exact hs
  · exact .logPower (.updPwr hs)

theorem Persists.logAbsent (hs : Persists ports s₀ s) {p : Part} : Persists ports s₀ (s.logAbsent p) := .logLimited hs

theorem Persists.logXlate (hs : Persists false s₀ s) {ctx va : Nat} : Persists false s₀ (s.logXlate ctx va) := .logEv hs

theorem Persists.fresh (hs : Persists ports s₀ s) : Persists ports s₀ (s.fresh) := .same hs

theorem Persists.countPart (hs : Persists ports s₀ s) {c : CoreId} {p : InFlight → Bool} : Persists ports s₀ (s.countPart c p) := by
  unfold State.countPart
  split
  · split
    · exact .fresh (.updCore hs)
    · exact hs
  · exact hs

theorem Persists.dropEntries (hs : Persists ports s₀ s) {c : CoreId} {p : InFlight → Bool} :
    Persists ports s₀ (s.dropEntries c p) := .updCore (.countPart hs)

theorem Persists.dropRequests (hs : Persists ports s₀ s) {p : AtomReq → Bool} : Persists ports s₀ (s.dropRequests p) := .same hs

theorem Persists.discardQueues (hs : Persists ports s₀ s) {c : CoreId} {k : KsId} :
    Persists ports s₀ (s.discardQueues c k) := .dropEntries (.dropRequests hs)

theorem Persists.discardIssued (hs : Persists false s₀ s) {c : CoreId} {k : KsId} :
    Persists false s₀ (s.discardIssued c k) := .updSlot (.discardQueues hs)

theorem Persists.clearSlot (hs : Persists ports s₀ s) {c : CoreId} {k : KsId} : Persists ports s₀ (s.clearSlot c k) := by
  unfold State.clearSlot
  exact .same (.discardQueues hs)

theorem Persists.freeSlot (hs : Persists false s₀ s) {c : CoreId} {k : KsId} : Persists false s₀ (s.freeSlot c k) := by
  unfold State.freeSlot
  refine .clearSlot ?_
  split
  · exact .updCmd hs
  · exact hs

theorem Persists.dropSlot (hs : Persists false s₀ s) {c : CoreId} {k : KsId} : Persists false s₀ (s.dropSlot c k) := .clearSlot hs

theorem Persists.trapSlotAt (hs : Persists false s₀ s) {c : CoreId} {k : KsId} {status index : Nat} :
    Persists false s₀ (s.trapSlotAt c k status index) :=
  .updSlot (.discardIssued hs)

theorem Persists.trapSlot (hs : Persists false s₀ s) {c : CoreId} {k : KsId} {status : Nat} :
    Persists false s₀ (s.trapSlot c k status) := .trapSlotAt hs

theorem Persists.addFlags (hs : Persists false s₀ s) {c : CoreId} {k : KsId} {f : Flags} : Persists false s₀ (s.addFlags c k f) := .updSlot hs

theorem Persists.noteRange (hs : Persists false s₀ s) {c : CoreId} {k : KsId} {addr len : Nat} {anyRegion : Bool} :
    Persists false s₀ (s.noteRange c k addr len anyRegion) := by
  unfold State.noteRange
  split
  · exact .foldl (fun _ _ h1 => .noteRead h1) hs
  · exact hs

theorem Persists.noteWord (hs : Persists false s₀ s) {c : CoreId} {k : KsId} {addr len : Nat} :
    Persists false s₀ (s.noteWord c k addr len) := .noteRange hs

theorem Persists.noteRows (hs : Persists false s₀ s) {c : CoreId} {k : KsId} {t : Tile} {want : Nat → Bool} :
    Persists false s₀ (s.noteRows c k t want) := by
  unfold State.noteRows
  split
  · exact hs
  · refine .foldl (fun _ _ h1 => ?_) hs
    dsimp only
    split
    · exact .noteRead h1
    · exact .noteVirt h1

theorem Persists.noteTile (hs : Persists false s₀ s) {c : CoreId} {k : KsId} {t : Tile} : Persists false s₀ (s.noteTile c k t) := .noteRows hs

theorem Persists.writeRaw (hs : Persists false s₀ s) {c : CoreId} {k : KsId} {t : Tile} {raw scales : List (List Nat)} :
    Answers (Persists false s₀) (s.writeRaw c k t raw scales) := by
  unfold State.writeRaw
  refine .check fun _ => ?_
  dsimp only
  split <;> exact .check fun _ => (Persists.writeAll hs)

theorem Persists.writeFree (hs : Persists false s₀ s) {c : CoreId} {k : KsId} {t : Tile} : Answers (Persists false s₀) (s.writeFree c k t) :=
  Persists.writeRaw (.fresh hs)

theorem Persists.writeNums (hs : Persists false s₀ s) {c : CoreId} {k : KsId} {t : Tile} {nanovf : Bool} {xs : List (List Num)} :
    Answers (Persists false s₀) (s.writeNums c k t nanovf xs) :=
  .bind (Persists.writeRaw hs) fun _ h1 => .ok (.addFlags h1)

end Sys2Proof.Machine
end

section
/-! PROOF. What persists: accumulators, pools and page trees, and the life of a command (06, 07, 11, 16). -/

namespace Sys2Proof.Machine

set_option Elab.async false

variable {ports : Bool} {s₀ s : State}

theorem Persists.accWrite (hs : Persists false s₀ s) {ps : List (Nat × List Byte)} : Persists false s₀ (s.accWrite ps) :=
  .same hs

theorem Persists.spillOut (hs : Persists false s₀ s) {c : CoreId} {k : KsId} {n tile : Nat} : Answers (Persists false s₀) (s.spillOut c k n tile) :=
  .check fun _ => .bind (Persists.writePieces hs) fun _ h1 => .ok (.fresh (.updSlot h1))

theorem Persists.spillIn (hs : Persists false s₀ s) {c : CoreId} {k : KsId} {n phys : Nat} {rows : List (List Nat)} :
    Persists false s₀ (s.spillIn c k n phys rows) := by
  unfold State.spillIn
  exact .updCore (.accWrite (.updSlot hs))

theorem Persists.makeResident1 (hs : Persists false s₀ s) {c : CoreId} {k : KsId} {wanted : List Nat} {n : Nat} :
    Answers (fun o => ∀ t ∈ o, Persists false s₀ t) (s.makeResident1 c k wanted n) := by
  unfold State.makeResident1
  dsimp only
  split
  · exact .ok fun _ h => by cases h; exact hs
  · split
    · exact .error _
    · exact .ok fun _ h => by cases h; exact .spillIn hs
    · split
      · exact .ok fun _ h => nomatch h
      · split
        · exact .map (Persists.spillOut hs) fun _ h => fun _ e => by cases e; exact .spillIn h
        · exact .ok fun _ h => nomatch h

theorem Persists.makeResident (hs : Persists false s₀ s) {c : CoreId} {k : KsId} {names : List Nat} :
    Answers (fun o => ∀ t ∈ o, Persists false s₀ t) (s.makeResident c k names) := by
  have hall (u : Except AccErr (Option State)) (hu : Answers (fun o => ∀ t ∈ o, Persists false s₀ t) u) (l : List Nat) :
      Answers (fun o => ∀ t ∈ o, Persists false s₀ t) (l.foldl (fun acc n => match acc with
        | .ok (some s) => s.makeResident1 c k names n
        | r => r) u) := by
    induction l generalizing u with
    | nil => exact hu
    | cons n l ih =>
      refine ih _ ?_
      dsimp only
      split
      · exact .makeResident1 (hu _ rfl _ rfl)
      · exact hu
  exact hall _ (.ok fun _ h => by cases h; exact hs) names

theorem Persists.drain (hs : Persists false s₀ s) {c : CoreId} {k : KsId} {ds : List Drained} : Persists false s₀ (s.drain c k ds) :=
  .addFlags (.updCore (.accWrite hs))

theorem Persists.setKind (hs : Persists false s₀ s) {c : CoreId} {k : KsId} {base rows cols : Nat} {kind : AccKind} :
    Persists false s₀ (s.setKind c k base rows cols kind) :=
  .updSlot hs

theorem Persists.countMac (hs : Persists false s₀ s) {c : CoreId} {n : Nat} : Persists false s₀ (s.countMac c n) := .updCore hs

theorem PersistsAct.getVirt {ctx va len : Nat} : PersistsAct ports s₀ (getVirt ctx va len) := .of_run fun s hs => by
  simp only [StateT.run, Machine.getVirt]
  split
  · exact .ok (.noteVirt hs)
  · exact .error _

theorem PersistsAct.putVirt {ctx va : Nat} {bs : List Byte} : PersistsAct ports s₀ (putVirt ctx va bs) := .of_run fun s hs => by
  simp only [StateT.run, Machine.putVirt]
  split
  · exact .ok (Persists.writeVirt hs _ ‹_›)
  · exact .error _

theorem PersistsAct.getNat {ctx va k : Nat} : PersistsAct ports s₀ (getNat ctx va k) := .bind .getVirt fun _ => .pure

theorem PersistsAct.putNat {ctx va k v : Nat} : PersistsAct ports s₀ (putNat ctx va k v) := .putVirt

theorem PersistsAct.openPool {ctx num : Nat} : PersistsAct false s₀ (openPool ctx num) := by
  unfold Machine.openPool
  refine .bind .get fun _ => ?_
  split
  · exact .fail
  · refine .bind .need fun _ => .bind .getVirt fun _ => ?_
    dsimp only
    split
    · exact .pure
    · exact .bind .need fun _ => .bind .need fun _ => .bind .need fun _ => .bind .putVirt fun _ => .bind .putNat fun _ => .bind .putNat fun _ =>
        .pure

theorem PersistsAct.poolAt {ctx num : Nat} : PersistsAct ports s₀ (poolAt ctx num) := by
  unfold Machine.poolAt
  refine .bind .get fun _ => ?_
  split
  · exact .fail
  · exact .bind .getVirt fun _ => .pure

theorem PersistsAct.pagesFree {p : Pool} : PersistsAct ports s₀ (Pool.pagesFree p) := .getNat

theorem PersistsAct.blocksFree {p : Pool} : PersistsAct ports s₀ (Pool.blocksFree p) := .getNat

theorem PersistsAct.popPage {p : Pool} : PersistsAct false s₀ (Pool.popPage p) :=
  .bind .pagesFree fun _ => .bind .need fun _ => .bind .getNat fun _ => .bind .putNat fun _ => .pure

theorem PersistsAct.pushPage {p : Pool} {id : Nat} :
    PersistsAct ports s₀ (Pool.pushPage p id) := .bind .pagesFree fun _ => .bind .putNat fun _ => .putNat

theorem PersistsAct.popBlock {p : Pool} : PersistsAct false s₀ (Pool.popBlock p) :=
  .bind .blocksFree fun _ => .bind .need fun _ => .bind .getNat fun _ => .bind .putNat fun _ => .pure

theorem PersistsAct.pushBlock {p : Pool} {id : Nat} : PersistsAct ports s₀ (Pool.pushBlock p id) :=
  .bind .blocksFree fun _ => .bind .putNat fun _ => .putNat

theorem PersistsAct.count {p : Pool} {page : Nat} : PersistsAct ports s₀ (Pool.count p page) := .getNat

theorem PersistsAct.setCount {p : Pool} {page n : Nat} : PersistsAct ports s₀ (Pool.setCount p page n) := .putNat

theorem PersistsAct.takePage {p : Pool} : PersistsAct false s₀ (Pool.takePage p) := .bind .popPage fun _ => .bind .putVirt fun _ => .pure

theorem PersistsAct.readBlock {p : Pool} {j : Nat} : PersistsAct ports s₀ (Pool.readBlock p j) := .bind .getVirt fun _ => .pure

theorem PersistsAct.writeBlock {p : Pool} {j : Nat} {b : Block} : PersistsAct ports s₀ (Pool.writeBlock p j b) := .bind .get fun _ => .putVirt

theorem PersistsAct.descend {p : Pool} {is : List Nat} {j : Nat} {own : Bool} : PersistsAct false s₀ (p.descend is j own) := by
  induction is generalizing j own with
  | nil => exact .pure
  | cons i is ih =>
    cases is with
    | nil => exact .bind .readBlock fun _ => .pure
    | cons i' is =>
      rw [Pool.descend]
      · refine .bind .readBlock fun _ => ?_
        dsimp only
        split
        · exact ih
        · exact .pure
      · exact fun h => nomatch h

theorem PersistsAct.endBelow {p : Pool} {f j pn : Nat} : PersistsAct false s₀ (p.endBelow f j pn) := by
  induction f generalizing j pn with
  | zero => exact .pure
  | succ f ih =>
    rw [Pool.endBelow]
    refine .bind .readBlock fun _ => ?_
    split
    · exact .pure
    · split
      · exact .pure
      · exact ih

theorem PersistsAct.layerEnd {p : Pool} {root lh : Nat} : PersistsAct false s₀ (Pool.layerEnd p root lh) := by
  unfold Machine.Pool.layerEnd
  refine .bind .descend fun _ => ?_
  split
  · split
    · exact .endBelow
    · exact .pure
  · exact .pure

theorem PersistsAct.releasePage {p : Pool} {id : Nat} : PersistsAct ports s₀ (Pool.releasePage p id) := by
  unfold Machine.Pool.releasePage
  refine .bind .count fun _ => .bind .setCount fun _ => ?_
  split
  · exact .pushPage
  · exact .pure

theorem PersistsAct.releaseBlock {p : Pool} {f j : Nat} : PersistsAct ports s₀ (p.releaseBlock f j) := by
  induction f generalizing j with
  | zero => exact .pure
  | succ f ih =>
    rw [Pool.releaseBlock]
    refine .bind .readBlock fun _ => .bind .writeBlock fun _ => ?_
    split
    · refine .bind (.forIn fun _ _ => ?_) fun _ => .pushBlock
      split
      · split
        · exact .bind .releasePage fun _ => .pure
        · exact .bind ih fun _ => .pure
      · exact .pure
    · exact .pure

theorem PersistsAct.copyTokens {p : Pool} {src dst fill : Nat} : PersistsAct false s₀ (Pool.copyTokens p src dst fill) :=
  .bind (.forIn fun _ _ => .bind (.forIn fun _ _ => .bind .getVirt fun _ => .bind .putVirt fun _ => .pure) fun _ => .pure) fun _ => .pure

theorem PersistsAct.choosePage {p : Pool} {root lh pn : Nat} : PersistsAct false s₀ (Pool.choosePage p root lh pn) := by
  unfold Machine.Pool.choosePage
  refine .bind .descend fun _ => ?_
  split
  · split
    · refine .bind .count fun _ => ?_
      split
      · exact .pure
      · exact .bind .takePage fun _ => .bind .copyTokens fun _ => .pure
    · exact .bind .takePage fun _ => .pure
  · exact .bind .takePage fun _ => .pure

theorem PersistsAct.raise {p : Pool} {leaf : Bool} {id : Nat} : PersistsAct false s₀ (Pool.raise p leaf id) := by
  unfold Machine.Pool.raise
  split
  · exact .bind .count fun _ => .bind .need fun _ => .setCount
  · exact .bind .readBlock fun _ => .bind .need fun _ => .writeBlock

theorem PersistsAct.ownBlock {p : Pool} {level : Nat} {child : Option Nat} {res : List Nat} :
    PersistsAct false s₀ (Pool.ownBlock p level child res) := by
  unfold Machine.Pool.ownBlock
  split
  · split
    · exact .fail
    · exact .bind .writeBlock fun _ => .pure
  · refine .bind .readBlock fun _ => ?_
    split
    · split
      · exact .fail
      · refine .bind (.forIn fun _ _ => ?_) fun _ => .bind .writeBlock fun _ => .bind .writeBlock fun _ => .pure
        split
        · exact .bind .raise fun _ => .pure
        · exact .pure
    · exact .pure

theorem PersistsAct.setEntry {p : Pool} {j i : Nat} {e : ListEntry} :
    PersistsAct false s₀ (Pool.setEntry p j i e) := .bind .readBlock fun _ => .writeBlock

theorem PersistsAct.linkPath {p : Pool} {is : List Nat} {j : Nat} {res : List Nat} {new : ListEntry} {n : Nat} :
    PersistsAct false s₀ (p.linkPath is j res new n) := by
  induction is generalizing j res n with
  | nil => exact .pure
  | cons i is ih =>
    cases is with
    | nil =>
      refine .bind .readBlock fun _ => .bind .setEntry fun _ => ?_
      dsimp only
      split
      · refine .bind .setCount fun _ => ?_
        split
        · exact .bind .releasePage fun _ => .pure
        · exact .pure
      · exact .pure
    | cons i' is =>
      rw [Pool.linkPath]
      · exact .bind .readBlock fun _ => .bind .ownBlock fun _ => .bind .setEntry fun _ => ih
      · exact fun h => nomatch h

theorem PersistsAct.commitPage {p : Pool} {root : Nat} {res : List Nat} {lh pn page fill : Nat} :
    PersistsAct false s₀ (Pool.commitPage p root res lh pn page fill) := by
  unfold Machine.Pool.commitPage
  refine .bind .ownBlock fun _ => ?_
  split
  · refine .bind .linkPath fun _ => ?_
    split
    exact .pure

theorem PersistsAct.treeLength {p : Pool} {root : Nat} :
    PersistsAct false s₀ (Pool.treeLength p root) := .bind (.mapM fun _ => .layerEnd) fun _ => .pure

theorem PersistsAct.liveSeq {ctx id : Nat} : PersistsAct false s₀ (liveSeq ctx id) := by
  unfold Machine.liveSeq
  refine .bind .get fun _ => ?_
  split
  · exact .fail
  · exact .bind .lift fun _ => .bind .need fun _ => .pure

theorem Persists.refreshCoils (hs : Persists ports s₀ s) {c : CoreId} : Persists ports s₀ (s.refreshCoils c) := by
  unfold State.refreshCoils
  exact .updCore hs

theorem Persists.eraseCoil (hs : Persists ports s₀ s) {i : Nat} : Persists ports s₀ (s.eraseCoil i) := by
  unfold State.eraseCoil
  split
  · exact hs
  · exact .foldl (fun _ _ h1 => .refreshCoils h1) (.foldl (fun _ _ h1 => .same h1) hs)

theorem Persists.eraseSeq (hs : Persists ports s₀ s) {id : Nat} {x : Seq} : Persists ports s₀ (s.eraseSeq id x) := by
  have h : Persists ports s₀ { s with
      seqs := eraseAt s.seqs id
      stacked := { s.stacked with
        bad := eraseAt (eraseAt s.stacked.bad ((s.tblSeq + 64 * id) / 32)) ((s.tblSeq + 64 * id) / 32 + 1) } } :=
    .same hs
  unfold State.eraseSeq
  dsimp only
  split
  · exact .eraseCoil h
  · exact h

theorem persistsAct_eraseSeq (id : Nat) (x : Seq) : PersistsAct ports s₀ (modify fun s => s.eraseSeq id x : Act PUnit) :=
  .modify fun _ hs => .eraseSeq hs

theorem PersistsAct.releaseSeq {id : Nat} : PersistsAct ports s₀ (releaseSeq id) := by
  unfold Machine.releaseSeq
  refine .bind .get fun _ => ?_
  split
  · exact .pure
  · dsimp only
    split
    · exact .bind .poolAt fun _ => .bind .releaseBlock fun _ => persistsAct_eraseSeq id _
    · exact persistsAct_eraseSeq id _

theorem Persists.cullStep (hs : Persists ports s₀ s) {q n id : Nat} : Persists ports s₀ (s.cullStep q n id) := by
  unfold State.cullStep
  split
  · exact hs
  · split
    · exact .updCmd (PersistsAct.keeps .releaseSeq hs ‹_›)
    · exact .updCmd (.noteErr hs)
    · exact hs

theorem Persists.runCulls (hs : Persists ports s₀ s) : Persists ports s₀ (s.runCulls) := by
  unfold State.runCulls
  refine .foldl (fun _ _ h1 => ?_) hs
  split
  · exact .updCmd (.foldl (fun _ _ h2 => .cullStep h2) h1)
  · exact h1

theorem Persists.roleEffect (hs : Persists ports s₀ s) {g : RegionId} : Persists ports s₀ (s.roleEffect g) := by
  unfold State.roleEffect
  dsimp only
  split
  · exact .updRegion hs
  · exact hs

theorem Persists.roleEffects (hs : Persists ports s₀ s) : Persists ports s₀ (s.roleEffects) := .foldl (fun _ _ h => .roleEffect h) hs

theorem Persists.holdWrite (hs : Persists ports s₀ s) {q : Nat} {w : HeldWrite} {e : AccErr} {va : Nat} :
    Persists ports s₀ (s.holdWrite q w e va) := by
  unfold State.holdWrite
  split
  · exact hs
  · dsimp only
    split
    · split
      · exact .updQueue hs
      · exact .noteErr (.updQueue hs)
    · split
      · exact .updQueue hs
      · exact .logEv (.updQueue hs)
    · exact .logAbsent (.updQueue hs)
    · exact .logAbsent (.updQueue hs)
    · exact .updQueue hs

theorem Persists.postRecord (hs : Persists ports s₀ s) {q : Nat} {qu : Queue} : Persists ports s₀ (s.postRecord q qu) := by
  unfold State.postRecord
  split
  · exact hs
  · split
    · exact hs
    · dsimp only
      split
      · exact .holdWrite hs
      · split
        · exact .holdWrite ((Persists.writeVirt hs) _ ‹_›)
        · split
          · split
            · exact .msix (.same ((Persists.writeVirt ((Persists.writeVirt hs) _ ‹_›)) _ ‹_›))
            · exact .same ((Persists.writeVirt ((Persists.writeVirt hs) _ ‹_›)) _ ‹_›)
          · exact .same ((Persists.writeVirt ((Persists.writeVirt hs) _ ‹_›)) _ ‹_›)

theorem Persists.postNext (hs : Persists ports s₀ s) {q : Nat} : Persists ports s₀ (s.postNext q) := by
  unfold State.postNext
  split
  · exact hs
  · split
    · exact hs
    · exact .postRecord hs

theorem Persists.postGo {f q : Nat} (hs : Persists ports s₀ s) : Persists ports s₀ (State.postGo f q s) := by
  induction f generalizing s with
  | zero => exact hs
  | succ f ih =>
    rw [State.postGo]
    split
    · split
      · exact .postNext hs
      · exact ih (.postNext hs)
    · exact hs

theorem Persists.post (hs : Persists ports s₀ s) {q : Nat} : Persists ports s₀ (s.post q) := .postGo hs

theorem PersistsAct.heldBytes {ctx va len salt : Nat} : PersistsAct ports s₀ (heldBytes ctx va len salt) := .of_run fun s hs => by
  simp only [StateT.run, Machine.heldBytes]
  split
  · exact .error _
  · exact .ok (.fresh hs)

theorem PersistsAct.idleCounter {ctx : Nat} {cm : Cmd} : PersistsAct ports s₀ (idleCounter ctx cm) := by
  unfold Machine.idleCounter
  split
  · exact .bind .heldBytes fun _ => .bind .heldBytes fun _ => .bind .putVirt fun _ => .putVirt
  · exact .pure

theorem Persists.returnOne {x : State × List Nat} (hx : Persists ports s₀ x.1) {ctx seq : Nat} {push : Pool → Act Unit}
    (hp : ∀ p, PersistsAct ports s₀ (push p)) : Persists ports s₀ (returnOne ctx seq push x).1.1 := by
  unfold Machine.returnOne
  split
  · exact hx
  · split
    · exact hx
    · split
      · exact (PersistsAct.bind .poolAt hp).keeps hx ‹_›
      · exact .noteErr hx
      · exact hx

theorem Persists.returnEach {α : Type} {x : State × List Nat} (hx : Persists ports s₀ x.1) {ctx : Nat} {seq : α → Nat} {push : α → Pool → Act Unit}
    (hp : ∀ a p, PersistsAct ports s₀ (push a p)) {l : List α} : Persists ports s₀ (returnEach ctx seq push l x).1.1 := by
  unfold Machine.returnEach
  generalize l.reverse = l, ([] : List α) = r
  induction l generalizing x r with
  | nil => exact hx
  | cons a l ih => exact ih (.returnOne hx (hp a)) _

theorem Persists.returnTaken (hs : Persists ports s₀ s) {ctx : Nat} {cm : Cmd} : Persists ports s₀ (s.returnTaken ctx cm).1 := by
  unfold State.returnTaken
  exact .returnEach (.returnEach (x := (s, [])) hs fun _ _ => .pushBlock) fun _ _ => .pushPage

theorem Persists.endRounds (hs : Persists ports s₀ s) {q n : Nat} {p : Nat → Bool} : Persists ports s₀ (s.endRounds q n p) := by
  unfold State.endRounds
  refine .foldl (fun _ _ h1 => .foldl (fun _ _ h2 => ?_) h1) hs
  split
  · exact .clearSlot h2
  · exact h2

theorem Persists.stopRounds (hs : Persists ports s₀ s) {q n : Nat} : Persists ports s₀ (s.stopRounds q n) := by
  unfold State.stopRounds
  split
  · exact hs
  · split
    · exact .updCmd (.endRounds hs)
    · exact hs

theorem Persists.releaseHolds (hs : Persists ports s₀ s) {q n : Nat} {cm : Cmd} : Persists ports s₀ (s.releaseHolds q n cm) := by
  unfold State.releaseHolds
  exact .same (.foldl (fun _ _ h1 => .updSeq h1) (.stopRounds hs))

theorem Persists.noteOwed (hs : Persists ports s₀ s) {q n : Nat} {cm : Cmd} {e : AccErr} : Persists ports s₀ (s.noteOwed q n cm e) := by
  unfold State.noteOwed
  split
  · split
    · exact hs
    · exact .updCmd (.noteErr hs)
  · exact .logAbsent hs
  · exact .logAbsent hs
  · exact hs
  · exact hs

theorem Persists.payOwed (hs : Persists ports s₀ s) {q n : Nat} : Persists ports s₀ (s.payOwed q n).1 := by
  unfold State.payOwed
  split
  · exact hs
  · dsimp only
    split
    · exact .noteOwed hs
    · exact .updCmd (.returnTaken (PersistsAct.keeps .idleCounter hs ‹_›))

theorem Persists.settle (hs : Persists ports s₀ s) {q n : Nat} : Persists ports s₀ (s.settle q n) := by
  unfold State.settle
  split
  · exact hs
  · split
    · exact hs
    · dsimp only
      split
      · exact .payOwed hs
      · exact .roleEffects (.runCulls (.updCmd (.releaseHolds (.payOwed hs))))

theorem Persists.settleQueue (hs : Persists ports s₀ s) {q : Nat} : Persists ports s₀ (s.settleQueue q) := .foldl (fun _ _ h1 => .settle h1) hs

theorem Persists.endCmd (hs : Persists ports s₀ s) {q n status : Nat} {commit : Bool} : Persists ports s₀ (s.endCmd q n status commit) :=
  .post (.settle (.updCmd hs))

theorem Persists.trapEnd (hs : Persists ports s₀ s) {q n : Nat} : Persists ports s₀ (s.trapEnd q n) := by
  unfold State.trapEnd
  split
  · exact hs
  · split
    · exact hs
    · split
      · exact .endCmd hs
      · refine .endCmd ?_
        split
        · exact .same hs
        · exact hs
      · exact hs

theorem Persists.askAll (hs : Persists ports s₀ s) {q n : Nat} {why : StopWhy} : Persists ports s₀ (s.askAll q n why) := by
  unfold State.askAll
  split
  · exact hs
  · refine .foldl (fun _ _ h1 => ?_) hs
    split
    · exact .updSlot h1
    · exact h1

theorem Persists.endWith (hs : Persists ports s₀ s) {q n status : Nat} {h : Option HostPort} {why : StopWhy} :
    Persists ports s₀ (s.endWith q n status h why) := by
  unfold State.endWith
  split
  · exact hs
  · refine .trapEnd (.askAll ?_)
    split
    · exact hs
    · exact .updCmd hs

theorem Persists.failCmd (hs : Persists ports s₀ s) {q n status : Nat} : Persists ports s₀ (s.failCmd q n status) := .endWith hs

theorem Persists.stopInstances (hs : Persists false s₀ s) {q n : Nat} : Persists false s₀ (s.stopInstances q n) := by
  unfold State.stopInstances
  split
  · exact hs
  · refine .foldl (fun _ _ h1 => ?_) hs
    split
    · exact .updCmd (.freeSlot h1)
    · exact h1

theorem Persists.holdCmd (hs : Persists false s₀ s) {q n : Nat} {why : HoldWhy} : Persists false s₀ (s.holdCmd q n why) :=
  .updCmd (.trapEnd (.stopRounds (.stopInstances hs)))

theorem Persists.requeue (hs : Persists false s₀ s) {q n : Nat} : Persists false s₀ (s.requeue q n) := .updCmd hs

theorem Persists.cmdErr (hs : Persists false s₀ s) {q n : Nat} {e : AccErr} : Persists false s₀ (s.cmdErr q n e) := by
  unfold State.cmdErr
  split
  · exact .failCmd (.noteErr hs)
  · exact .requeue (.logAbsent hs)
  · exact .requeue hs
  · exact .requeue (.holdCmd (.logAbsent hs))
  · exact .requeue (.holdCmd (.logEv hs))

end Sys2Proof.Machine
end

section
/-! PROOF. What persists: the issue rule, and what the anvil group and the vector engine plan (03, 04, 06, 09, 10, 12, 13). -/

namespace Sys2Proof.Machine

set_option Elab.async false

variable {ports : Bool} {s₀ s : State}

theorem Persists.accFail (hs : Persists false s₀ s) {c : CoreId} {k : KsId} {e : AccErr} : Persists false s₀ (s.accFail c k e) := by
  unfold State.accFail
  split
  · exact .trapSlot (.noteErr hs)
  · exact .logAbsent hs
  · exact hs
  · dsimp only
    split
    · exact .holdCmd (.logAbsent hs)
    · exact .logAbsent hs
  · dsimp only
    split
    · exact .holdCmd (.logEv hs)
    · exact .logEv hs

theorem Persists.advance (hs : Persists false s₀ s) {c : CoreId} {k : KsId} : Persists false s₀ (s.advance c k) := by
  unfold State.advance
  exact .updCore (.updSlot hs)

theorem Persists.settleStop (hs : Persists false s₀ s) {c : CoreId} {k : KsId} : Persists false s₀ (s.settleStop c k) := by
  unfold State.settleStop
  dsimp only
  split
  · exact hs
  · split
    · exact .freeSlot hs
    · rename_i q n _
      have h : Persists false s₀ ((s.freeSlot c k).updCmd q n fun cm => cm.unplace c k (s.slot c k).saved) := .updCmd (.freeSlot hs)
      refine .trapEnd ?_
      split
      · exact h.same
      · exact h

theorem Persists.stopNow (hs : Persists false s₀ s) {c : CoreId} {k : KsId} :
    Persists false s₀ (s.stopNow c k) := .settleStop (.updSlot (.discardIssued hs))

theorem Persists.spoilAcc (hs : Persists false s₀ s) {c : CoreId} {k : KsId} {names : List Nat} : Persists false s₀ (s.spoilAcc c k names) := by
  unfold State.spoilAcc
  exact .fresh (.same hs)

theorem Persists.applyFail (hs : Persists false s₀ s) {c : CoreId} {k : KsId} {w : W128} {r : RowKind} {names : List Nat} {err : AccErr} :
    Persists false s₀ (s.applyFail c k w r names err) := by
  unfold State.applyFail
  split
  · refine .accFail (.updSlot ?_)
    split
    · exact .spoilAcc hs
    · exact hs
  · exact .accFail hs

theorem Persists.enter (hs : Persists false s₀ s) {c : CoreId} {k : KsId} {e : Engine} {w : W128} {r : RowKind} {p : Plan} {macs : Nat}
    {flags : Flags} : Persists false s₀ (s.enter c k e w r p macs flags) :=
  .advance (.updSlot (.updCore hs))

/-- Every effect of a row's plan, where it has one, takes nothing of what persists. -/
def PersistsPlan (ports : Bool) (s₀ : State) (x : Except AccErr (Option Plan)) : Prop :=
  Answers (fun o => ∀ p ∈ o, ∀ s, Persists ports s₀ s → Answers (Persists ports s₀) (p.apply s)) x

namespace PersistsPlan

variable {ports : Bool} {α : Type} {s₀ : State} {e e' : Except AccErr α} {f : α → Except AccErr (Option Plan)} {x y : Except AccErr (Option Plan)}

theorem check (hf : ∀ a, PersistsPlan false s₀ (f a)) : PersistsPlan false s₀ (e >>= f) := Answers.check hf

theorem none : PersistsPlan false s₀ (.ok none) := .ok fun _ h => nomatch h

theorem some {p : Plan} (h : ∀ s, Persists false s₀ s → Answers (Persists false s₀) (p.apply s)) : PersistsPlan false s₀ (.ok (some p)) :=
  .ok fun _ e => by cases e; exact h

theorem ite {q : Prop} [Decidable q] (hx : PersistsPlan ports s₀ x) (hy : PersistsPlan ports s₀ y) :
    PersistsPlan ports s₀ (if q then x else y) := Answers.ite hx hy

/-- A step taken in one of two ways. -/
theorem choice {q : Prop} [Decidable q] (hf : ∀ a, PersistsPlan false s₀ (f a)) : PersistsPlan false s₀ (if q then e >>= f else e' >>= f) :=
  ite (check hf) (check hf)

theorem malformed : PersistsPlan false s₀ malformed := Answers.error _

end PersistsPlan

theorem Persists.carryOut (hs : Persists false s₀ s) {c : CoreId} {k : KsId} {e : Engine} {w : W128} {r : RowKind} {p : Plan}
    (hp : ∀ s, Persists false s₀ s → Answers (Persists false s₀) (p.apply s)) : Answers (Persists false s₀) (s.carryOut c k e w r p) :=
  .bind (hp _ (.updSlot hs)) fun _ h1 => .ok (.enter (.updCore (.updSlot h1)))

theorem Persists.issue (hs : Persists false s₀ s) {c : CoreId} {k : KsId} {r : RowKind} {e : Engine}
    {plan : KSlot → W128 → Except AccErr (Option Plan)} (hplan : ∀ sl w, PersistsPlan false s₀ (plan sl w)) :
    Persists false s₀ (s.issue c k r e (fun s ns => s.makeResident c k ns) plan) := by
  unfold State.issue
  dsimp only
  split
  · split
    · exact .stopNow hs
    · exact hs
  · split
    · exact hs
    · exact .trapSlot hs
  · split
    · exact hs
    · split
      · exact .stopNow hs
      · exact .advance hs
  · split
    · exact hs
    · split
      · exact .stopNow hs
      · split
        · exact .accFail hs
        · exact .advance hs
        · rename_i p hp
          split
          · exact .trapSlot hs
          · split
            · exact hs
            · split
              · exact .accFail hs
              · exact hs
              · rename_i s1 h1
                have hs1 : Persists false s₀ s1 := Persists.makeResident hs _ h1 _ rfl
                split
                · exact .applyFail hs1
                · exact Persists.carryOut hs1 (hplan _ _ _ hp _ rfl) _ ‹_›

theorem Persists.issueSeq (hs : Persists false s₀ s) {c : CoreId} {k : KsId} {r : RowKind} {act : KSlot → W128 → Except AccErr State}
    (hact : ∀ sl w, Answers (Persists false s₀) (act sl w)) : Persists false s₀ (s.issueSeq c k r act) := by
  unfold State.issueSeq
  dsimp only
  split
  · split
    · exact .stopNow hs
    · exact hs
  · split
    · exact hs
    · exact .trapSlot hs
  · split
    · exact hs
    · split
      · exact .stopNow hs
      · exact .advance hs
  · split
    · exact hs
    · split
      · exact .stopNow hs
      · split
        · exact .accFail hs
        · exact hact _ _ _ ‹_›

theorem Persists.accumF (hs : Persists false s₀ s) {c : CoreId} {k : KsId} {base m n : Nat} {ovw : Bool} {sums : Nat → Nat → List Num} :
    Answers (Persists false s₀) (s.accumF c k base m n ovw sums) :=
  .check fun _ => .ok (.fresh (.drain hs))

theorem Persists.accumI (hs : Persists false s₀ s) {c : CoreId} {k : KsId} {base m n : Nat} {ovw : Bool} {sums : Nat → Nat → List Int} :
    Answers (Persists false s₀) (s.accumI c k base m n ovw sums) :=
  .check fun _ => .ok (.fresh (.drain hs))

theorem Persists.noteList (hs : Persists false s₀ s) {c : CoreId} {k : KsId} {w : W128} {sl : KSlot} : Persists false s₀ (s.noteList c k w sl) := by
  unfold State.noteList
  split
  · exact .noteRange hs
  · exact hs

/-- An accumulation whose overwrite form also sets the names' kind. -/
theorem Persists.setKindIf (hs : Persists false s₀ s) {q : Prop} [Decidable q] {c : CoreId} {k : KsId} {base rows cols : Nat} {kind : AccKind} :
    Answers (Persists false s₀) (.ok (if q then s.setKind c k base rows cols kind else s)) := by
  split
  · exact .ok (.setKind hs)
  · exact .ok hs

theorem Persists.mmaOne (hs : Persists false s₀ s) {c : CoreId} {k : KsId} {zmul : Bool} {p : Problem} :
    Answers (Persists false s₀) (s.mmaOne c k zmul p) := by
  refine .ite ?_ ?_
  · exact .check fun _ => .check fun _ => .bind (Persists.accumI (.noteTile (.noteTile hs))) fun _ h => .setKindIf h
  · exact .check fun _ => .check fun _ => .bind (Persists.accumF (.noteTile (.noteTile hs))) fun _ h => .setKindIf h

theorem persistsPlan_mma {c : CoreId} {k : KsId} {sl : KSlot} {w : W128} : PersistsPlan false s₀ (s.planMma c k sl w) := by
  unfold State.planMma
  repeat refine .check fun _ => ?_
  refine .ite .none (.check fun _ => .some fun s hs => ?_)
  exact .map (.persistsFoldlM (fun _ _ h => .mmaOne h) (.noteList hs)) fun _ h => .countMac h

theorem Persists.mma3One (hs : Persists false s₀ s) {c : CoreId} {k : KsId} {p : Problem} : Answers (Persists false s₀) (s.mma3One c k p) :=
  .check fun _ => .check fun _ => .bind (Persists.accumF (.noteTile (.noteTile hs))) fun _ h => .setKindIf h

theorem persistsPlan_mma3 {c : CoreId} {k : KsId} {sl : KSlot} {w : W128} : PersistsPlan false s₀ (s.planMma3 c k sl w) := by
  unfold State.planMma3
  repeat refine .check fun _ => ?_
  refine .ite .none (.check fun _ => .some fun s hs => ?_)
  exact .map (.persistsFoldlM (fun _ _ h => .mma3One h) (.noteList hs)) fun _ h => .countMac h

theorem Persists.applyCmma (hs : Persists false s₀ s) {c : CoreId} {k : KsId} {w : W128} {ta tb tc te : Tile} :
    Answers (Persists false s₀) (s.applyCmma c k w ta tb tc te) := by
  unfold State.applyCmma
  dsimp only
  split
  · refine .check fun _ => .check fun _ => .check fun _ => .check fun _ => .bind (Persists.accumI (.noteTile (.noteTile (.noteTile
      (.noteTile hs))))) fun _ h1 => .bind (Persists.accumI h1) fun _ h2 => .ok ?_
    split
    · exact .setKind (.setKind h2)
    · exact h2
  · refine .check fun _ => .check fun _ => .check fun _ => .check fun _ => .bind (Persists.accumF (.noteTile (.noteTile (.noteTile
      (.noteTile hs))))) fun _ h1 => .bind (Persists.accumF h1) fun _ h2 => .ok ?_
    split
    · exact .setKind (.setKind h2)
    · exact h2

theorem persistsPlan_cmma {c : CoreId} {k : KsId} {sl : KSlot} {w : W128} : PersistsPlan false s₀ (s.planCmma c k sl w) := by
  unfold State.planCmma
  repeat refine .check fun _ => ?_
  refine .ite .none (.check fun _ => .some fun s hs => ?_)
  exact .map (Persists.applyCmma hs) fun _ h => .countMac h

theorem Persists.applyScore (hs : Persists false s₀ s) {c : CoreId} {k : KsId} {w : W128} {ta tb tc td : Tile} :
    Answers (Persists false s₀) (s.applyScore c k w ta tb tc td) :=
  .choice fun _ => .choice fun _ => .check fun _ => .check fun _ => .choice fun _ =>
    .bind (Persists.writeRaw (.noteTile (.noteTile hs))) fun _ h => .bind (Persists.writeRaw h) fun _ h => .ok (.addFlags h)

theorem persistsPlan_score {c : CoreId} {k : KsId} {sl : KSlot} {w : W128} : PersistsPlan false s₀ (s.planScore c k sl w) := by
  unfold State.planScore
  repeat refine .check fun _ => ?_
  refine .ite .none (.check fun _ => .some fun s hs => ?_)
  exact .map (Persists.applyScore hs) fun _ h => .countMac h

theorem Persists.applyStep (hs : Persists false s₀ s) {c : CoreId} {k : KsId} {w : W128} {ta tb : Tile} {td : Option Tile} {steps streams : Nat} :
    Answers (Persists false s₀) (s.applyStep c k w ta tb td steps streams) := by
  have hkept (ps : List (Nat × List Byte)) (l : List Nat) (cols : Nat) : Persists false s₀
      (l.foldl (fun s n => s.setKind c k n streams cols .float) (((s.noteTile c k ta).noteTile c k tb).accWrite ps)) :=
    .foldl (fun _ _ h => .setKind h) (.accWrite (.noteTile (.noteTile hs)))
  refine .check fun _ => .check fun _ => .check fun _ => ?_
  cases td with
  | none => exact .ok (hkept _ _ _)
  | some td => exact .writeRaw (hkept _ _ _)

theorem persistsPlan_step {c : CoreId} {k : KsId} {sl : KSlot} {w : W128} : PersistsPlan false s₀ (s.planStep c k sl w) := by
  unfold State.planStep
  refine .check fun _ => .check fun _ => .check fun _ => .choice fun _ => ?_
  repeat refine .check fun _ => ?_
  refine .ite .none (.check fun _ => .some fun s hs => ?_)
  exact .map (Persists.applyStep hs) fun _ h => .countMac h

/-- The notes of operands of which an instruction has those that it names. -/
theorem Persists.noteOptions (hs : Persists false s₀ s) {c : CoreId} {k : KsId} {l : List (Option Tile)} :
    Persists false s₀ (l.foldl (fun (s : State) t => match t with
      | some t => s.noteTile c k t
      | none => s) s) := .foldl (fun s t h => by
  cases t with
  | none => exact h
  | some t => exact .noteTile h) hs

theorem Persists.applyVop (hs : Persists false s₀ s) {c : CoreId} {k : KsId} {w : W128} {o : VopOps} :
    Answers (Persists false s₀) (s.applyVop c k w o) := by
  have hwrite (l : List (Option Tile)) (f : Flags) (xs : List (List Num)) : Answers (Persists false s₀)
      (((l.foldl (fun (s : State) t => match t with
        | some t => s.noteTile c k t
        | none => s) s).addFlags c k f).writeNums c k o.td false xs) := .writeNums (.addFlags (.noteOptions hs))
  rcases o with ⟨ta, _ | tb, _ | tc, td, rows, cols⟩ <;> exact .check fun _ => .check fun _ => .check fun _ => hwrite _ _ _

theorem persistsPlan_vop {c : CoreId} {k : KsId} {sl : KSlot} {w : W128} : PersistsPlan false s₀ (s.planVop c k sl w) := by
  unfold State.planVop
  refine .check fun _ => .check fun _ => .check fun _ => .choice fun _ => .choice fun _ => .choice fun _ => .choice fun _ => ?_
  repeat refine .check fun _ => ?_
  exact .ite .none (.check fun _ => .some fun s hs => .applyVop hs)

theorem Persists.applyWindow (hs : Persists false s₀ s) {c : CoreId} {k : KsId} {d : WinDesc} {opos : Nat} {ta tb : Tile} {tc : Option Tile}
    {td : Tile} : Answers (Persists false s₀) (s.applyWindow c k d opos ta tb tc td) := by
  unfold State.applyWindow
  refine .check fun _ => .check fun _ => ?_
  dsimp only
  split <;> exact .check fun _ => (Persists.writeNums (.addFlags (.noteTile (.noteRows hs))))

theorem persistsPlan_window {c : CoreId} {k : KsId} {sl : KSlot} {w : W128} : PersistsPlan false s₀ (s.planWindow c k sl w) := by
  unfold State.planWindow
  refine .check fun _ => .check fun _ => .choice fun _ => ?_
  repeat refine .check fun _ => ?_
  exact .ite .none (.check fun _ => .some fun s hs => .applyWindow hs)

theorem Persists.applyNorm (hs : Persists false s₀ s) {c : CoreId} {k : KsId} {w : W128} {ta tc td : Tile} :
    Answers (Persists false s₀) (s.applyNorm c k w ta tc td) := by
  unfold State.applyNorm
  refine .check fun _ => .check fun _ => .bind (Persists.writeNums (.noteTile (.noteTile hs))) fun _ h1 => ?_
  split
  · exact .ok (.addFlags h1)
  · exact .ok h1

theorem persistsPlan_norm {c : CoreId} {k : KsId} {sl : KSlot} {w : W128} : PersistsPlan false s₀ (s.planNorm c k sl w) := by
  unfold State.planNorm
  repeat refine .check fun _ => ?_
  exact .ite .none (.check fun _ => .some fun s hs => .applyNorm hs)

theorem Persists.applyMeasure (hs : Persists false s₀ s) {c : CoreId} {k : KsId} {w : W128} {src td : Tile} :
    Answers (Persists false s₀) (s.applyMeasure c k w src td) := by
  have hnote : Persists false s₀ (if wMode w 1 then s else s.noteTile c k src) := by
    split
    · exact hs
    · exact .noteTile hs
  exact .choice fun _ => .writeRaw hnote

theorem persistsPlan_measure {c : CoreId} {k : KsId} {sl : KSlot} {w : W128} : PersistsPlan false s₀ (s.planMeasure c k sl w) := by
  unfold State.planMeasure
  refine .choice fun _ => ?_
  repeat refine .check fun _ => ?_
  exact .ite .none (.check fun _ => .some fun s hs => .applyMeasure hs)

theorem Persists.applyCast (hs : Persists false s₀ s) {c : CoreId} {k : KsId} {w : W128} {ta tb tc : Option Tile} {td : Tile} :
    Answers (Persists false s₀) (s.applyCast c k w ta tb tc td) := by
  have hwrite (l : List (Option Tile)) (raw scales : List (List Nat)) (f : Flags) : Answers (Persists false s₀) (do
      let s ← (l.foldl (fun (s : State) t => match t with
        | some t => s.noteTile c k t
        | none => s) s).writeRaw c k td raw scales
      return s.addFlags c k f) := .bind (Persists.writeRaw (.noteOptions hs)) fun _ h => .ok (.addFlags h)
  cases ta <;> cases tb <;> cases tc <;> exact .check fun _ => .check fun _ => .check fun _ => .ite (hwrite _ _ _ _) (hwrite _ _ _ _)

theorem persistsPlan_cast {c : CoreId} {k : KsId} {sl : KSlot} {w : W128} : PersistsPlan false s₀ (s.planCast c k sl w) := by
  unfold State.planCast
  refine .check fun _ => .choice fun _ => .choice fun _ => .choice fun _ => ?_
  repeat refine .check fun _ => ?_
  exact .ite .none (.check fun _ => .some fun s hs => .applyCast hs)

theorem Persists.rotOverlap (hs : Persists false s₀ s) {c : CoreId} {k : KsId} {td : Tile} : Answers (Persists false s₀) (s.rotOverlap c k td) :=
  .map (Persists.writeFree hs) fun _ h => .addFlags h

theorem persistsPlan_rot {c : CoreId} {k : KsId} {sl : KSlot} {w : W128} : PersistsPlan false s₀ (s.planRot c k sl w) := by
  unfold State.planRot
  repeat refine .check fun _ => ?_
  exact .ite .none (.check fun _ => .some fun s hs => Answers.check fun _ => .ite (.rotOverlap hs) (.writeNums (.noteTile hs)))

theorem persistsPlan_argmax {c : CoreId} {k : KsId} {sl : KSlot} {w : W128} : PersistsPlan false s₀ (s.planArgmax c k sl w) := by
  unfold State.planArgmax
  repeat refine .check fun _ => ?_
  exact .ite .none (.check fun _ => .some fun s hs => Answers.check fun _ => .writeRaw (.noteTile hs))

theorem persistsPlan_gumbel {c : CoreId} {k : KsId} {sl : KSlot} {w : W128} : PersistsPlan false s₀ (s.planGumbel c k sl w) := by
  unfold State.planGumbel
  refine .check fun _ => .check fun _ => .check fun _ => .check fun _ => ?_
  dsimp only
  cases lookup s.seqs sl.s[wReg w 64].toNat with
  | none => exact .malformed
  | some sq =>
    refine .check fun _ => .check fun _ => .check fun _ => .check fun _ => .ite .none (.check fun _ => .some fun s hs => ?_)
    exact Answers.check fun _ => .bind (Persists.writeNums (.noteTile hs)) fun _ h => .ok (.addFlags h)

end Sys2Proof.Machine
end

section
/-! PROOF. What persists: wakes, placement, queues, events and samples (03, 14, 16, 21). -/

namespace Sys2Proof.Machine

set_option Elab.async false

variable {ports : Bool} {s₀ s : State}

theorem Persists.enterAsh (hs : Persists false s₀ s) : Persists false s₀ s.enterAsh := by
  unfold State.enterAsh
  refine .setPower ?_
  exact .same hs

theorem Persists.leaveAsh (hs : Persists false s₀ s) : Persists false s₀ s.leaveAsh := by
  unfold State.leaveAsh
  refine .setPower ?_
  exact .same hs

theorem Persists.awake (hs : Persists false s₀ s) : Persists false s₀ (s.awake) := by
  unfold State.awake
  split
  · exact .leaveAsh hs
  · exact hs

theorem Persists.leaveLow (hs : Persists false s₀ s) : Persists false s₀ (s.leaveLow) := by
  unfold State.leaveLow
  split
  · exact .setPower hs
  · exact hs

theorem Persists.ignoreDoorbell (hs : Persists false s₀ s) {h : HostPort} {q : Nat} : Persists false s₀ (s.ignoreDoorbell h q) := .logEv (.same hs)

theorem Persists.refuseBar (hs : Persists false s₀ s) {h : HostPort} {addr : Nat} : Persists false s₀ (s.refuseBar h addr) := .logEv (.updHif hs)

theorem Persists.doorbell (hs : Persists false s₀ s) {h : HostPort} {q width : Nat} {word : W64} : Persists false s₀ (s.doorbell h q width word) := by
  unfold State.doorbell
  split
  · exact .refuseBar hs
  · split
    · exact .updQueue hs
    · exact .ignoreDoorbell hs

theorem PersistsNext.execDoorbell (hs : Persists false s₀ s) {h : HostPort} {q width : Nat} {word : W64} :
    PersistsNext false s₀ (execDoorbell h q width word s) :=
  .next (.doorbell (.awake hs))

theorem Persists.fetchFail (hs : Persists false s₀ s) {q : Nat} {qu : Queue} {va : Nat} :
    Persists false s₀ (s.fetchFail q qu va) := .updQueue (.logEv (.same hs))

theorem Persists.acceptBytes (hs : Persists ports s₀ s) {q : Nat} {qu : Queue} {bytes : List Byte} :
    Persists ports s₀ (s.acceptBytes q qu bytes) := by
  unfold State.acceptBytes
  dsimp only
  split
  · exact .holdWrite hs
  · exact .same ((Persists.writeVirt hs) _ ‹_›)

theorem Persists.fetchNext (hs : Persists false s₀ s) {q : Nat} {qu : Queue} : Persists false s₀ (s.fetchNext q qu) := by
  unfold State.fetchNext
  split
  · exact .acceptBytes (.updQueue (.noteVirt hs))
  · exact .fetchFail (.noteErr hs)
  · exact .logAbsent hs
  · exact .logAbsent hs
  · exact hs

theorem PersistsNext.execCommandAccept (hs : Persists false s₀ s) {q : Nat} : PersistsNext false s₀ (execCommandAccept q s) := by
  unfold Machine.execCommandAccept
  refine .next ?_
  split
  · exact hs
  · split
    · exact .fetchNext hs
    · exact hs

theorem PersistsNext.execCommandFetchRetry (hs : Persists false s₀ s) {q : Nat} : PersistsNext false s₀ (execCommandFetchRetry q s) := by
  unfold Machine.execCommandFetchRetry
  refine .next ?_
  split
  · exact hs
  · split
    · exact .fetchNext hs
    · exact hs

theorem Persists.grant (hs : Persists false s₀ s) {cm : Cmd} {ctx : Nat} : Persists false s₀ (s.grant cm ctx) := by
  unfold State.grant
  refine .updCmd ?_
  split
  · exact hs
  · exact .same hs

theorem Persists.dispatchGo (hs : Persists false s₀ s) {stopped : Nat → Bool} {quenching : Bool} {cms : List Cmd} {blocked : List Res} :
    Persists false s₀ (dispatchGo stopped quenching cms blocked s) := by
  induction cms generalizing s blocked with
  | nil => exact hs
  | cons cm rest ih =>
    unfold Machine.dispatchGo
    dsimp only
    split
    · exact ih hs
    · split
      · exact ih hs
      · split
        · exact ih (.endCmd hs)
        · split
          · exact ih (.endCmd hs)
          · split
            · exact ih hs
            · split
              · exact ih hs
              · exact .grant hs

theorem Persists.dispatch (hs : Persists false s₀ s) {stopped : Nat → Bool} {quenching : Bool} :
    Persists false s₀ (s.dispatch stopped quenching) := by
  unfold State.dispatch
  split
  · exact hs
  · exact .dispatchGo hs

theorem PersistsNext.execDispatchAgeing (hs : Persists false s₀ s) {q n : Nat} : PersistsNext false s₀ (execDispatchAgeing q n s) := by
  unfold Machine.execDispatchAgeing
  refine .next ?_
  split
  · exact hs
  · split
    · exact .updCmd hs
    · exact hs

theorem Persists.retryWrite (hs : Persists ports s₀ s) {q : Nat} {w : HeldWrite} : Persists ports s₀ (s.retryWrite q w) := by
  unfold State.retryWrite
  split
  · exact hs
  · split
    · exact .acceptBytes hs
    · exact .postRecord hs
    · split
      · exact .holdWrite hs
      · exact .updQueue ((Persists.writeVirt hs) _ ‹_›)

theorem Persists.retryHeld (hs : Persists ports s₀ s) {q : Nat} : Persists ports s₀ (s.retryHeld q) := by
  unfold State.retryHeld
  split
  · exact hs
  · exact .foldl (fun _ _ h1 => .retryWrite h1) hs

theorem PersistsNext.execHeldWriteRetry (hs : Persists false s₀ s) {q : Nat} : PersistsNext false s₀ (execHeldWriteRetry q s) :=
  .next (.post (.retryHeld (.settleQueue hs)))

theorem Persists.dispatchAwake (hs : Persists false s₀ s) : Persists false s₀ (s.dispatchAwake) := by
  unfold State.dispatchAwake
  split
  · exact hs
  · dsimp only
    split
    · exact .dispatch hs
    · exact .leaveLow (.dispatch hs)

theorem PersistsNext.execCommandDispatch (hs : Persists false s₀ s) : PersistsNext false s₀ (execCommandDispatch s) := .next (.dispatchAwake hs)

theorem PersistsNext.execFence (hs : Persists false s₀ s) {q n : Nat} : PersistsNext false s₀ (execFence q n s) := by
  unfold Machine.execFence
  refine .next ?_
  split
  · exact .endCmd hs
  · exact hs

theorem PersistsAct.signalAct {ctx va : Nat} {add : Bool} {value : Nat} : PersistsAct false s₀ (signalAct ctx va add value) :=
  .bind .getNat fun _ => .putNat

theorem Persists.eventErr (hs : Persists false s₀ s) {q n : Nat} {e : AccErr} : Persists false s₀ (s.eventErr q n e) := by
  unfold State.eventErr
  split
  · exact .logAbsent hs
  · exact hs
  · exact .cmdErr hs

theorem PersistsNext.execSignal (hs : Persists false s₀ s) {q n : Nat} : PersistsNext false s₀ (execSignal q n s) := by
  unfold Machine.execSignal
  refine .next ?_
  split
  · exact hs
  · dsimp only
    split
    · exact .updCmd (PersistsAct.keeps .signalAct (.updCmd hs) ‹_›)
    · exact .eventErr (.updCmd hs)

theorem Persists.recheck (hs : Persists false s₀ s) {q n : Nat} {cm : Cmd} : Persists false s₀ (s.recheck q n cm) := by
  unfold State.recheck
  dsimp only
  split
  · split
    · exact .updCmd (PersistsAct.keeps .getNat hs ‹_›)
    · exact PersistsAct.keeps .getNat hs ‹_›
  · exact .eventErr hs

theorem PersistsNext.execWait (hs : Persists false s₀ s) {q n : Nat} : PersistsNext false s₀ (execWait q n s) := by
  unfold Machine.execWait
  refine .next ?_
  split
  · exact hs
  · exact .recheck (.updCmd hs)

theorem PersistsNext.execWaitRecheck (hs : Persists false s₀ s) {q n : Nat} : PersistsNext false s₀ (execWaitRecheck q n s) := by
  unfold Machine.execWaitRecheck
  refine .next ?_
  split
  · exact .recheck hs
  · exact hs

theorem PersistsNext.execWaitTimeout (hs : Persists false s₀ s) {q n : Nat} : PersistsNext false s₀ (execWaitTimeout q n s) := by
  unfold Machine.execWaitTimeout
  refine .next ?_
  split
  · split
    · exact .failCmd hs
    · exact hs
  · exact hs

theorem Persists.recordHint (hs : Persists false s₀ s) {ctx cls : Nat} : Persists false s₀ (s.recordHint ctx cls) := by
  unfold State.recordHint
  split
  · exact .same hs
  · exact .logEv (.same hs)

theorem PersistsNext.execHint (hs : Persists false s₀ s) {q n : Nat} : PersistsNext false s₀ (execHint q n s) := by
  unfold Machine.execHint
  refine .next ?_
  split
  · exact .updCmd (.recordHint hs)
  · exact hs

theorem Persists.updSmp (hs : Persists false s₀ s) {q : SampleQ} {f : SmpQueue → SmpQueue} : Persists false s₀ (s.updSmp q f) := .same hs

theorem Persists.smpStart (hs : Persists false s₀ s) {q : SampleQ} : Persists false s₀ (s.smpStart q) := by
  unfold State.smpStart
  dsimp only
  split
  · exact hs
  · split
    · exact .updSmp hs
    · split
      · exact .updSmp (.noteErr hs)
      · exact hs
      · repeat' split
        all_goals exact .updSmp (.noteRead hs)

theorem PersistsNext.execSampleQueueStart (hs : Persists false s₀ s) {q : SampleQ} : PersistsNext false s₀ (execSampleQueueStart q s) := by
  unfold Machine.execSampleQueueStart
  refine .next ?_
  dsimp only
  split
  · exact .smpStart (.awake hs)
  · exact .awake hs

theorem PersistsNext.execSampleQueueStop (hs : Persists false s₀ s) {q : SampleQ} : PersistsNext false s₀ (execSampleQueueStop q s) := by
  unfold Machine.execSampleQueueStop
  refine .next ?_
  dsimp only
  split
  · exact .updSmp (.awake hs)
  · exact .awake hs

theorem PersistsNext.execSampleCountersClear (hs : Persists false s₀ s) {q : SampleQ} : PersistsNext false s₀ (execSampleCountersClear q s) := by
  unfold Machine.execSampleCountersClear
  refine .next ?_
  dsimp only
  split
  · exact .updSmp (.awake hs)
  · exact .awake hs

theorem PersistsNext.execSampleTailWrite (hs : Persists false s₀ s) {q : SampleQ} {tail : W32} :
    PersistsNext false s₀ (execSampleTailWrite q tail s) := by
  unfold Machine.execSampleTailWrite
  refine .next ?_
  dsimp only
  split
  · exact .updSmp (.awake hs)
  · exact .awake hs

theorem Persists.smpAccErr (hs : Persists false s₀ s) {q : SampleQ} {pos : Nat} {e : AccErr} : Persists false s₀ (s.smpAccErr q pos e) := by
  unfold State.smpAccErr
  split
  · exact .updSmp (.noteErr hs)
  · exact hs

theorem Persists.beginTry (hs : Persists false s₀ s) {q : SampleQ} {d : SmpDesc} {pos f : Nat} : Persists false s₀ (State.beginTry q d pos f s) := by
  induction f generalizing s with
  | zero => exact hs
  | succ f ih =>
    unfold State.beginTry
    dsimp only
    split
    · exact hs
    · split
      · exact hs
      · split
        · exact ih (.updSmp (.noteErr hs))
        · exact .smpAccErr hs
        · split
          · exact .smpAccErr hs
          · exact ih (.updSmp hs)
          · split
            · exact .updSmp hs
            · exact hs

theorem Persists.smpGrant (hs : Persists false s₀ s) {q : SampleQ} {d : SmpDesc} : Persists false s₀ (s.smpGrant q d) := by
  unfold State.smpGrant
  dsimp only
  split
  · exact .beginTry hs
  · split
    · exact .updSmp (.noteErr hs)
    · exact hs
    · split
      · exact hs
      · exact .beginTry (.updSmp hs)

theorem PersistsNext.execSampleDecodeStart (hs : Persists false s₀ s) {q : SampleQ} : PersistsNext false s₀ (execSampleDecodeStart q s) := by
  unfold Machine.execSampleDecodeStart
  refine .next ?_
  split
  · split
    · exact .smpGrant (.same hs)
    · exact hs
  · exact hs

theorem Persists.stageSample (hs : Persists false s₀ s) {d : SmpDesc} {w : SmpWork} {z : SmpDone} :
    Answers (Persists false s₀) (s.stageSample d w z) := by
  unfold State.stageSample
  split
  · exact .ok hs
  · exact Persists.writeVirt hs

theorem Persists.smpOutcome (hs : Persists false s₀ s) {q : SampleQ} {d : SmpDesc} {w : SmpWork} {e : SmpEntry} {o : StreamOut} :
    Persists false s₀ (s.smpOutcome q d w e o) := by
  unfold State.smpOutcome
  split
  · exact .smpAccErr hs
  · exact .smpAccErr hs
  · dsimp only
    split
    · exact .updSmp (.noteVirt hs)
    · split
      · exact .updSmp (.noteVirt hs)
      · split
        · exact .updSmp (.noteVirt hs)
        · split
          · exact .smpAccErr (.noteVirt hs)
          · exact .updSmp ((Persists.stageSample (.noteVirt hs)) _ ‹_›)

theorem Persists.smpEnd (hs : Persists false s₀ s) {q : SampleQ} {d : SmpDesc} {w : SmpWork} {out : DecodeOut} :
    Persists false s₀ (s.smpEnd q d w out) := by
  unfold State.smpEnd
  dsimp only
  split
  · generalize s.source d (smpEntryOf d.live w.entry) = r
    obtain ⟨src, er⟩ := r
    dsimp only
    split
    · exact .smpOutcome hs
    · exact .smpAccErr hs
    · exact hs
  · split
    · exact .smpOutcome hs
    · exact hs

theorem PersistsNext.execSampleDecodeEnd (hs : Persists false s₀ s) {q : SampleQ} {pos : Nat} {out : DecodeOut} :
    PersistsNext false s₀ (execSampleDecodeEnd q pos out s) := by
  unfold Machine.execSampleDecodeEnd
  refine .next ?_
  split
  · exact hs
  · split
    · exact .smpEnd hs
    · exact hs

theorem PersistsNext.execDecodeLaneFault (hs : Persists false s₀ s) {lane : Nat} : PersistsNext false s₀ (execDecodeLaneFault lane s) := by
  unfold Machine.execDecodeLaneFault
  refine .next ?_
  split
  · exact .same (.logEv hs)
  · exact hs

theorem PersistsAct.room {d : SmpDesc} {i : Nat} : PersistsAct false s₀ (SmpDesc.room d i) := .bind .getNat fun _ => .pure

theorem PersistsAct.handSlot {d : SmpDesc} {i : Nat} {header payload : List Byte} : PersistsAct false s₀ (handSlot d i header payload) :=
  .bind .putVirt fun _ => .bind .putVirt fun _ => .bind .get fun _ => .signalAct

theorem PersistsAct.keepUnits {d : SmpDesc} {pos units : Nat} : PersistsAct false s₀ (keepUnits d pos units) := .putNat

theorem PersistsAct.closeRow {q : SampleQ} {d : SmpDesc} : PersistsAct false s₀ (closeRow q d) := by
  unfold Machine.closeRow
  refine .bind .get fun _ => .bind .room fun _ => ?_
  split
  · exact .bind .handSlot fun _ => .bind (.forIn fun _ _ => .bind .keepUnits fun _ => .pure) fun _ => .bind (.modify fun _ h0 =>
      .updSmp h0) fun _ => .pure
  · exact .pure

theorem PersistsAct.packSample {q : SampleQ} {d : SmpDesc} {z : SmpDone} : PersistsAct false s₀ (packSample q d z) := by
  unfold Machine.packSample
  refine .bind .get fun _ => .bind ?_ fun _ => ?_
  · split
    · exact .closeRow
    · exact .pure
  · split
    · exact .modify fun _ h0 => .updSmp h0
    · exact .pure

theorem PersistsAct.handSample {q : SampleQ} {d : SmpDesc} {z : SmpDone} : PersistsAct false s₀ (handSample q d z) := by
  unfold Machine.handSample
  refine .bind .get fun _ => .bind .room fun _ => ?_
  split
  · exact .bind .handSlot fun _ => .bind .keepUnits fun _ => .modify fun _ h0 => .updSmp h0
  · exact .pure

theorem PersistsAct.finishQueue {q : SampleQ} {d : SmpDesc} : PersistsAct false s₀ (finishQueue q d) := by
  unfold Machine.finishQueue
  refine .bind .get fun _ => ?_
  dsimp only
  split
  · refine .bind ?_ fun _ => ?_
    · split
      · exact .pure
      · exact .closeRow
    · split
      · exact .modify fun _ h0 => .updSmp h0
      · exact .pure
  · exact .pure

theorem PersistsAct.handOff {q : SampleQ} {d : SmpDesc} : PersistsAct false s₀ (handOff q d) := by
  unfold Machine.handOff
  refine .bind .get fun _ => ?_
  dsimp only
  split
  · split
    · exact .bind (.modify fun _ h0 => .updSmp h0) fun _ => .finishQueue
    · split
      · exact .bind .packSample fun _ => .finishQueue
      · exact .bind .handSample fun _ => .finishQueue
    · exact .finishQueue
  · exact .finishQueue

theorem PersistsNext.execSampleHandoff (hs : Persists false s₀ s) {q : SampleQ} : PersistsNext false s₀ (execSampleHandoff q s) := by
  unfold Machine.execSampleHandoff
  refine .next ?_
  split
  · exact hs
  · split
    · exact PersistsAct.keeps .handOff hs ‹_›
    · exact .updSmp (.noteErr hs)
    · exact hs

theorem Persists.stopSamples (hs : Persists false s₀ s) {ctx : Nat} : Persists false s₀ (s.stopSamples ctx) := .same hs

end Sys2Proof.Machine
end

section
/-! PROOF. What persists: the sequencer's instructions, completions and atomics, kernel commands, FORK and CULL (03, 04, 07, 08, 11). -/

namespace Sys2Proof.Machine

set_option Elab.async false

variable {ports : Bool} {s₀ s : State}

theorem PersistsAct.sweepBlock {ctx : Nat} {cm : Cmd} : PersistsAct false s₀ (sweepBlock ctx cm) :=
  .bind .getNat fun _ => .bind .putNat fun _ => .bind .putNat fun _ => .bind .getNat fun _ => .bind .putNat fun _ => .bind .getNat fun _ =>
    .putNat

theorem Persists.shareEnd (hs : Persists false s₀ s) {q n : Nat} {cm : Cmd} : Persists false s₀ (s.shareEnd q n cm) := by
  unfold State.shareEnd
  dsimp only
  split
  · exact .failCmd (.noteErr hs)
  · exact hs
  · split
    · exact .updCmd (PersistsAct.keeps (.bind .getNat fun _ => .bind .getNat fun _ => .bind .getNat fun _ => .bind .getVirt fun _ => .pure)
        hs ‹_›)
    · split
      · exact .failCmd (PersistsAct.keeps (.bind .getNat fun _ => .bind .getNat fun _ => .bind .getNat fun _ => .bind .getVirt fun _ =>
          .pure) hs ‹_›)
      · split
        · exact .failCmd (PersistsAct.keeps (.bind .getNat fun _ => .bind .getNat fun _ => .bind .getNat fun _ => .bind .getVirt fun _ =>
            .pure) hs ‹_›)
        · split
          · exact .updCmd (PersistsAct.keeps .sweepBlock (PersistsAct.keeps (.bind .getNat fun _ => .bind .getNat fun _ =>
              .bind .getNat fun _ => .bind .getVirt fun _ => .pure) hs ‹_›) ‹_›)
          · exact .failCmd (.noteErr (PersistsAct.keeps (.bind .getNat fun _ => .bind .getNat fun _ => .bind .getNat fun _ =>
              .bind .getVirt fun _ => .pure) hs ‹_›))
          · exact PersistsAct.keeps (.bind .getNat fun _ => .bind .getNat fun _ => .bind .getNat fun _ => .bind .getVirt fun _ => .pure) hs ‹_›

theorem Persists.instancesEnd (hs : Persists false s₀ s) {q n : Nat} : Persists false s₀ (s.instancesEnd q n) := by
  unfold State.instancesEnd
  split
  · exact hs
  · split
    · exact hs
    · split
      · exact .trapEnd hs
      · split
        · exact .updCmd hs
        · exact .shareEnd hs

theorem Persists.endInstance (hs : Persists false s₀ s) {c : CoreId} {k : KsId} : Persists false s₀ (s.endInstance c k) := by
  unfold State.endInstance
  split
  · exact .freeSlot hs
  · exact .instancesEnd (.updCmd (.freeSlot hs))

theorem Persists.showWrites (hs : Persists false s₀ s) {c : CoreId} {k : KsId} : Persists false s₀ (s.showWrites c k) := by
  unfold State.showWrites
  split
  · exact hs
  · exact .updCmd hs

theorem PersistsNext.execFenceInstruction (hs : Persists false s₀ s) {c : CoreId} {k : KsId} : PersistsNext false s₀ (execFenceInstruction c k s) :=
  .next (.issueSeq hs fun sl w => by
    dsimp only
    split
    · exact .ok hs
    · refine .ok (.advance ?_)
      split
      · exact .showWrites hs
      · exact hs)

theorem PersistsNext.execFenceEnd (hs : Persists false s₀ s) {c : CoreId} {k : KsId} : PersistsNext false s₀ (execFenceEnd c k s) :=
  .next (.issueSeq hs fun _ _ => .ite (.ok hs) (.ok (.endInstance (.advance (.showWrites hs)))))

theorem Persists.sendAtom (hs : Persists false s₀ s) {c : CoreId} {k : KsId} {g : RegionId} {r : AtomReq} {wait : AtomWait} {pred : Bool} :
    Persists false s₀ (s.sendAtom c k g r wait pred) :=
  .advance (.same hs)

theorem PersistsNext.execClaim (hs : Persists false s₀ s) {c : CoreId} {k : KsId} : PersistsNext false s₀ (execClaim c k s) :=
  .next (.issueSeq hs fun _ _ => .check fun _ => .check fun _ => .check fun _ => .check fun _ => .ok (.sendAtom hs))

theorem PersistsNext.execCommit (hs : Persists false s₀ s) {c : CoreId} {k : KsId} : PersistsNext false s₀ (execCommit c k s) :=
  .next (.issueSeq hs fun _ _ => .check fun _ => .check fun _ => .check fun _ => .ok (.sendAtom hs))

theorem Persists.wordWrite (hs : Persists false s₀ s) {c : CoreId} {k : KsId} {a : Nat} {bytes : List Byte} :
    Answers (Persists false s₀) (s.wordWrite c k a bytes) := by
  unfold State.wordWrite
  split
  · exact .error _
  · split
    · exact .error _
    · exact .writeLoc hs

theorem Persists.scalar (hs : Persists false s₀ s) {c : CoreId} {k : KsId} {sl : KSlot} {w : W128} :
    Answers (Persists false s₀) (s.scalar c k sl w) := by
  unfold State.scalar
  dsimp only
  split
  · exact .ok (.advance (.updSlot hs))
  · split
    · exact .check fun _ => .ok (.advance (.updSlot (.noteWord hs)))
    · split
      · exact .bind (Persists.wordWrite hs) fun _ h1 => .ok (.advance h1)
      · split <;> exact .ok (.advance (.updSlot hs))

theorem PersistsNext.execVopScalar (hs : Persists false s₀ s) {c : CoreId} {k : KsId} : PersistsNext false s₀ (execVopScalar c k s) :=
  .next (.issueSeq hs fun _ _ => .scalar hs)

theorem PersistsNext.execVopBranch (hs : Persists false s₀ s) {c : CoreId} {k : KsId} : PersistsNext false s₀ (execVopBranch c k s) :=
  .next (.issueSeq hs fun _ _ => .check fun _ => .ok (.updSlot (.advance hs)))

theorem Persists.completeHead (hs : Persists false s₀ s) {c : CoreId} {e : Engine} {x : InFlight} {rest : List InFlight} :
    Persists false s₀ (s.completeHead c e x rest) := by
  unfold State.completeHead
  extract_lets s1 s2 s3
  have h2 : Persists false s₀ s2 := .updSlot (.updCore hs)
  have h3 : Persists false s₀ s3 := by
    unfold s3
    split
    · exact .trapSlotAt (.fresh h2)
    · exact .settleStop h2
  split
  · exact .runCulls h3
  · exact h3

theorem PersistsNext.execInstructionComplete (hs : Persists false s₀ s) {c : CoreId} {e : Engine} :
    PersistsNext false s₀ (execInstructionComplete c e s) := by
  unfold Machine.execInstructionComplete
  refine .next ?_
  split
  · exact hs
  · split
    · split
      · exact hs
      · exact .completeHead hs
    · exact .completeHead hs

theorem Persists.discardAfter (hs : Persists false s₀ s) {c : CoreId} {k : KsId} {age : Nat} : Persists false s₀ (s.discardAfter c k age) := by
  unfold State.discardAfter
  dsimp only
  split
  · exact .updCmd (.updSlot (.dropEntries (.dropRequests hs)))
  · exact .updSlot (.dropEntries (.dropRequests hs))

theorem Persists.stopAtTile (hs : Persists false s₀ s) {c : CoreId} {k : KsId} {tile age : Nat} : Persists false s₀ (s.stopAtTile c k tile age) :=
  .settleStop (.updSlot (.discardAfter hs))

theorem Persists.takeReply (hs : Persists false s₀ s) {c : CoreId} {k : KsId} {a : AtomWait} {v : W64} : Persists false s₀ (s.takeReply c k a v) := by
  unfold State.takeReply
  extract_lets s1 sl
  have h1 : Persists false s₀ s1 := .updSlot hs
  split
  · exact .stopAtTile h1
  · exact .settleStop h1

theorem PersistsNext.execAtomicReply (hs : Persists false s₀ s) {c : CoreId} {k : KsId} : PersistsNext false s₀ (execAtomicReply c k s) := by
  unfold Machine.execAtomicReply
  refine .next ?_
  split
  · split
    · exact .takeReply hs
    · exact hs
  · exact hs

theorem PersistsNext.execTrapRecord (hs : Persists false s₀ s) {c : CoreId} {k : KsId} : PersistsNext false s₀ (execTrapRecord c k s) := by
  unfold Machine.execTrapRecord
  refine .next ?_
  dsimp only
  split
  · exact .trapEnd (.askAll (.updCmd (.freeSlot hs)))
  · exact hs

theorem PersistsAct.claimAct {ctx cb imm : Nat} : PersistsAct false s₀ (claimAct ctx cb imm) := by
  unfold Machine.claimAct
  refine .bind .getNat fun _ => .bind .getNat fun _ => .bind .getNat fun _ => .bind .getNat fun _ => .bind .need fun _ => .bind .need fun _ =>
    .bind .getNat fun _ => ?_
  dsimp only
  split
  · refine .bind .putNat fun _ => .bind .putNat fun _ => ?_
    split
    · refine .bind .putNat fun _ => ?_
      split
      · exact .bind .putNat fun _ => .bind .putNat fun _ => .pure
      · exact .pure
    · refine .bind .getNat fun _ => .bind .getNat fun _ => .bind .getVirt fun _ => ?_
      split
      · exact .bind .putNat fun _ => .pure
      · exact .pure
  · split
    · refine .bind .putNat fun _ => ?_
      split
      · exact .bind .putNat fun _ => .bind .putNat fun _ => .pure
      · exact .pure
    · refine .bind .getNat fun _ => .bind .getNat fun _ => .bind .getVirt fun _ => ?_
      split
      · exact .bind .putNat fun _ => .pure
      · exact .pure

theorem Persists.takeReq (hs : Persists false s₀ s) {g : RegionId} {id : Nat} : Persists false s₀ (s.takeReq g id) := .updRegion hs

theorem Persists.reply1 (hs : Persists false s₀ s) {c : CoreId} {k : KsId} {id : Nat} {v : W64} : Persists false s₀ (s.reply1 c k id v) := .updSlot hs

theorem Persists.absentAtom (hs : Persists false s₀ s) {g : RegionId} {p : AtomReq → Bool} : Persists false s₀ (s.absentAtom g p) := by
  unfold State.absentAtom
  split
  · exact .accFail hs
  · exact hs

theorem Persists.atomErr (hs : Persists false s₀ s) {g : RegionId} {c : CoreId} {k : KsId} {id idx : Nat} {e : AccErr} :
    Persists false s₀ (s.atomErr g c k id idx e) := by
  unfold State.atomErr
  split
  · exact .trapSlotAt (.takeReq (.noteErr hs))
  · exact .accFail hs

theorem PersistsNext.execAtomicClaim (hs : Persists false s₀ s) {g : RegionId} : PersistsNext false s₀ (execAtomicClaim g s) := by
  unfold Machine.execAtomicClaim
  refine .next ?_
  split
  · exact .absentAtom hs
  · split
    · exact hs
    · split
      · exact .reply1 (.updCnt (.takeReq (PersistsAct.keeps .claimAct hs ‹_›)))
      · exact .atomErr hs

theorem PersistsAct.commitAct {ctx bm tile : Nat} : PersistsAct false s₀ (commitAct ctx bm tile) := by
  unfold Machine.commitAct
  refine .bind .getNat fun _ => .bind .need fun _ => .bind .getNat fun _ => ?_
  split
  · exact .bind .getNat fun _ => .bind .putNat fun _ => .pure
  · exact .bind .putNat fun _ => .pure

theorem PersistsNext.execAtomicCommit (hs : Persists false s₀ s) {g : RegionId} : PersistsNext false s₀ (execAtomicCommit g s) := by
  unfold Machine.execAtomicCommit
  refine .next ?_
  split
  · exact .absentAtom hs
  · split
    · exact hs
    · split
      · refine .reply1 (.takeReq ?_)
        split
        · exact .updCnt (PersistsAct.keeps .commitAct hs ‹_›)
        · exact PersistsAct.keeps .commitAct hs ‹_›
      · exact .atomErr hs

theorem PersistsAct.addDest {d : Dest} {data : List Nat} : PersistsAct false s₀ (addDest d data) :=
  .bind (.forIn fun _ _ => .bind .getVirt fun _ => .bind .putVirt fun _ => .pure) fun _ => .pure

theorem PersistsAct.readRSlot {g : RegionId} {d : Dest} {rs : Nat} : PersistsAct false s₀ (readRSlot g d rs) :=
  .bind .getVirt fun _ => .bind .need fun _ => .bind .need fun _ => .bind .get fun _ => .bind .need fun _ => .pure

theorem PersistsAct.findStaged {r : RSlot} {d : Dest} {key : Nat × Nat} : PersistsAct false s₀ (findStaged r d key) := by
  unfold Machine.findStaged
  refine .bind (.forIn fun _ _ => .bind .getNat fun _ => .bind .getNat fun _ => ?_) fun _ => .pure
  split <;> exact .pure

theorem PersistsAct.countAt {ctx va n : Nat} : PersistsAct false s₀ (countAt ctx va n) := .bind .getNat fun _ => .putNat

theorem PersistsAct.drainStaged {r : RSlot} {d : Dest} {k nx : Nat} {l : List (Staged × Flags)} : PersistsAct false s₀ (drainStaged r d k nx l) := by
  induction k generalizing nx l with
  | zero => exact .pure
  | succ k ih =>
    unfold Machine.drainStaged
    refine .bind .findStaged fun _ => ?_
    split
    · exact .pure
    · exact .bind .getVirt fun _ => .bind .addDest fun _ => .bind .putVirt fun _ => ih

theorem PersistsAct.applyContrib {g : RegionId} {d : Dest} {rs id seq : Nat} {me : Staged} {data : List Nat} :
    PersistsAct false s₀ (applyContrib g d rs id seq me data) := by
  unfold Machine.applyContrib
  refine .bind .readRSlot fun _ => .bind .need fun _ => ?_
  split
  · refine .bind .getNat fun _ => ?_
    split
    · exact .bind .countAt fun _ => .pure
    · exact .bind .addDest fun _ => .bind .putNat fun _ => .bind .countAt fun _ => .pure
  · refine .bind .findStaged fun _ => ?_
    split
    · exact .bind .countAt fun _ => .pure
    · split
      · exact .pure
      · split
        · refine .bind .findStaged fun _ => ?_
          split
          · exact .pure
          · exact .bind .putVirt fun _ => .pure
        · refine .bind .addDest fun _ => .bind .drainStaged fun _ => ?_
          split
          · refine .bind .countAt fun _ => ?_
            dsimp only
            split
            · exact .bind .putNat fun _ => .bind .putNat fun _ => .pure
            · exact .bind .putNat fun _ => .pure

theorem Persists.noteStaged (hs : Persists false s₀ s) {c : CoreId} {k : KsId} : Persists false s₀ (s.noteStaged c k) := by
  unfold State.noteStaged
  dsimp only
  split
  · exact .updCmd (.updSlot hs)
  · exact .updSlot hs

theorem Persists.unstage (hs : Persists false s₀ s) {b : Staged} {f : Flags} : Persists false s₀ (s.unstage b f) := by
  unfold State.unstage
  dsimp only
  split
  · exact .updSlot (.updCmd hs)
  · exact .updCmd (.updCmd hs)

theorem Persists.answerContrib (hs : Persists false s₀ s) {g : RegionId} {r : AtomReq} : Persists false s₀ (s.answerContrib g r) := by
  unfold State.answerContrib
  split
  · dsimp only
    split
    · exact .atomErr hs
    · exact .foldl (fun _ _ h2 => .unstage h2) (.addFlags (.updCnt (.takeReq (PersistsAct.keeps .applyContrib hs ‹_›))))
    · exact .updCnt (.takeReq (PersistsAct.keeps .applyContrib hs ‹_›))
    · exact .noteStaged (.takeReq (PersistsAct.keeps .applyContrib hs ‹_›))
    · exact .updSlot (.updCnt (.takeReq (PersistsAct.keeps .applyContrib hs ‹_›)))
  · exact hs

theorem PersistsNext.execAtomicContribution (hs : Persists false s₀ s) {g : RegionId} : PersistsNext false s₀ (execAtomicContribution g s) := by
  unfold Machine.execAtomicContribution
  refine .next ?_
  split
  · exact .absentAtom hs
  · split
    · exact .answerContrib hs
    · exact hs

theorem PersistsNext.execContributionRetry (hs : Persists false s₀ s) {c : CoreId} {k : KsId} :
    PersistsNext false s₀ (execContributionRetry c k s) := by
  unfold Machine.execContributionRetry
  refine .next ?_
  split
  · exact hs
  · exact .updRegion (.updSlot hs)

theorem PersistsAct.checkCounter {ctx cb : Nat} : PersistsAct false s₀ (checkCounter ctx cb) := by
  unfold Machine.checkCounter
  refine .bind .getVirt fun _ => .bind .need fun _ => .bind .getVirt fun _ => .bind .need fun _ => .bind .get fun _ => .bind .need fun _ => ?_
  split
  · exact .fail
  · exact .bind .need fun _ => .pure

theorem PersistsAct.runCounter {ctx cb bm : Nat} : PersistsAct false s₀ (runCounter ctx cb bm) :=
  .bind .getNat fun _ => .bind .getNat fun _ => .bind .putNat fun _ => .bind .putNat fun _ => .bind .putNat fun _ => .bind .putNat fun _ =>
    .bind .getNat fun _ => .bind .putNat fun _ => .bind .putNat fun _ => .bind .putNat fun _ => .bind .putNat fun _ => .bind .getNat fun _ =>
    .putVirt

theorem PersistsAct.checkTargets {ctx : Nat} {cm : Cmd} : PersistsAct false s₀ (checkTargets ctx cm) := by
  unfold Machine.checkTargets
  refine .bind .need fun _ => ?_
  split
  · exact .pure
  · exact .bind .getVirt fun _ => .bind .need fun _ => .bind (.forIn fun _ _ => .bind .liveSeq fun _ => .pure) fun _ => .pure

theorem PersistsAct.kernelAct {ctx : Nat} {cm : Cmd} {h : KHeader} : PersistsAct false s₀ (kernelAct ctx cm h) := by
  unfold Machine.kernelAct
  refine .bind .need fun _ => .bind .checkTargets fun _ => ?_
  dsimp only
  split
  · exact .pure
  · exact .bind .checkCounter fun _ => .bind .runCounter fun _ => .pure

theorem PersistsNext.execKernel (hs : Persists false s₀ s) {q n : Nat} : PersistsNext false s₀ (execKernel q n s) := by
  unfold Machine.execKernel
  refine .next ?_
  split
  · split
    · exact .cmdErr hs
    · exact .endCmd (.noteVirt hs)
    · dsimp only
      split
      · exact .endCmd (.noteVirt hs)
      · split
        · exact .cmdErr (.noteVirt hs)
        · split
          · exact .endCmd (.noteVirt hs)
          · split
            · exact .requeue (.holdCmd (.noteVirt hs))
            · exact .fresh (.updCmd (.foldl (fun _ _ h2 => .updSeq h2) (PersistsAct.keeps .kernelAct (.noteVirt hs) ‹_›)))
  · exact hs

theorem Persists.copyArgs (hs : Persists false s₀ s) {c : CoreId} {k : KsId} {ctx : Nat} {args : List Byte} :
    Persists false s₀ (s.copyArgs c k ctx args) := by
  unfold State.copyArgs
  split
  · exact hs
  · exact .same hs

theorem Persists.place (hs : Persists false s₀ s) {cm : Cmd} {i : Inst} {ctx : Nat} {c : CoreId} {args : List Byte} :
    Persists false s₀ (s.place cm i ctx c args) := by
  unfold State.place
  extract_lets co
  split
  · extract_lets s1
    have h1 : Persists false s₀ s1 := .updSlot hs
    exact .updCmd (.copyArgs h1.same)
  · exact hs

theorem PersistsNext.execInstancePlacement (hs : Persists false s₀ s) {q n : Nat} : PersistsNext false s₀ (execInstancePlacement q n s) := by
  unfold Machine.execInstancePlacement
  refine .next ?_
  split
  · split
    · exact hs
    · split
      · exact hs
      · dsimp only
        split
        · exact hs
        · split
          · exact .place (.noteVirt hs)
          · split
            · exact .place hs
            · exact .cmdErr hs
  · exact hs

theorem Persists.fetchLine (hs : Persists false s₀ s) {c : CoreId} {k : KsId} : Persists false s₀ (s.fetchLine c k) := by
  unfold State.fetchLine
  dsimp only
  split
  · exact .accFail hs
  · exact .updCore (.noteVirt hs)

theorem PersistsNext.execInstructionFetchMiss (hs : Persists false s₀ s) {c : CoreId} {k : KsId} :
    PersistsNext false s₀ (execInstructionFetchMiss c k s) := by
  unfold Machine.execInstructionFetchMiss
  refine .next ?_
  dsimp only
  split
  · exact hs
  · split
    · exact .stopNow hs
    · split
      · exact .trapSlot hs
      · split
        · exact hs
        · exact .fetchLine hs

theorem PersistsNext.execLoadingComplete (hs : Persists false s₀ s) {c : CoreId} {k : KsId} : PersistsNext false s₀ (execLoadingComplete c k s) := by
  unfold Machine.execLoadingComplete
  refine .next ?_
  split
  · exact hs
  · extract_lets s1
    have h1 : Persists false s₀ s1 := by
      unfold s1
      split
      · exact hs
      · exact .fetchLine hs
    split
    · exact .updSlot h1
    · exact h1

theorem PersistsNext.execPreemptionDecision (hs : Persists false s₀ s) {q n : Nat} : PersistsNext false s₀ (execPreemptionDecision q n s) := by
  unfold Machine.execPreemptionDecision
  refine .next ?_
  split
  · split
    · exact hs
    · split
      · split
        · exact hs
        · split
          · exact .updSlot hs
          · exact hs
      · exact hs
  · exact hs

theorem Persists.dropTransfers (hs : Persists false s₀ s) {p : Transfer → Bool} : Persists false s₀ (s.dropTransfers p) := by
  unfold State.dropTransfers
  dsimp only
  split
  · exact hs
  · exact .same hs

theorem PersistsAct.getStacked {a len : Nat} : PersistsAct false s₀ (getStacked a len) := .of_run fun s hs => by
  simp only [StateT.run, Machine.getStacked]
  split
  · exact .ok (.noteRead hs)
  · exact .error _

theorem PersistsAct.putStacked {a : Nat} {bs : List Byte} : PersistsAct false s₀ (putStacked a bs) := .of_run fun s hs => by
  simp only [StateT.run, Machine.putStacked]
  split
  · exact .ok (Persists.writeLoc hs _ ‹_›)
  · exact .error _

theorem PersistsAct.copyReadable {a b len : Nat} : PersistsAct false s₀ (copyReadable a b len) := .of_run fun s hs => by
  simp only [StateT.run, Machine.copyReadable]
  split
  · exact fun _ h => PersistsAct.putStacked.keeps hs h
  · exact .ok hs
  · exact .error _

theorem PersistsAct.forkList {ctx va count : Nat} : PersistsAct false s₀ (forkList ctx va count) := .bind .getVirt fun _ => .bind .need fun _ => .pure

theorem PersistsAct.forkChecks {es : List ForkEntry} {parentCoil : Option Bool} {k : Nat} : PersistsAct false s₀ (forkChecks es parentCoil k) :=
  .bind .get fun _ => .bind .need fun _ => .need

theorem PersistsAct.copyCoilSlice {x : Coil} {from_ to_ seqTail : Nat} {idle : Bool} :
    PersistsAct false s₀ (copyCoilSlice x from_ to_ seqTail idle) := by
  unfold Machine.copyCoilSlice
  refine .bind .get fun _ => ?_
  dsimp only
  split
  · refine .bind (.forIn fun _ _ => ?_) fun _ => .modify fun _ h0 => .same h0
    split
    · exact .bind .copyReadable fun _ => .pure
    · exact .bind .getStacked fun _ => .bind .putStacked fun _ => .pure
  · exact .modify fun _ h0 => .same h0

theorem PersistsAct.copyCoil {parent child : Nat} : PersistsAct false s₀ (copyCoil parent child) := by
  unfold Machine.copyCoil
  refine .bind .get fun _ => ?_
  split
  · exact .fail
  · refine .bind (.forIn fun _ _ => ?_) fun _ => .pure
    split
    · exact .bind .fail fun _ => .pure
    · refine .bind .get fun _ => ?_
      dsimp only
      split
      · exact .bind .lift fun _ => .bind .copyCoilSlice fun _ => .pure
      · exact .bind .copyCoilSlice fun _ => .pure

theorem PersistsAct.forkChildren {ctx parent : Nat} {es : List ForkEntry} : PersistsAct false s₀ (forkChildren ctx parent es) := by
  unfold Machine.forkChildren
  refine .bind .liveSeq fun _ => .bind .get fun _ => .bind .forkChecks fun _ => .bind .poolAt fun _ => .bind .readBlock fun _ =>
    .bind .need fun _ => .bind .writeBlock fun _ => .bind (.forIn fun _ _ => ?_) fun _ => .pure
  dsimp only
  split
  · exact .bind .copyCoil fun _ => .bind (.modify fun _ h0 => .same h0) fun _ => .pure
  · exact .bind (.modify fun _ h0 => .same h0) fun _ => .pure

theorem PersistsAct.forkRoots {ctx : Nat} {cm : Cmd} {es : List ForkEntry} : PersistsAct false s₀ (forkRoots ctx cm es) := by
  unfold Machine.forkRoots
  refine .bind .openPool fun _ => .bind .forkChecks fun _ => .bind .blocksFree fun _ => .bind .need fun _ => .bind (.forIn fun _ _ =>
    .bind .popBlock fun _ => .bind .writeBlock fun _ => .bind (.modify fun _ h0 => ?_) fun _ => .pure) fun _ => .pure
  dsimp only
  split <;> exact .same h0

theorem PersistsAct.forkAct {ctx : Nat} {cm : Cmd} : PersistsAct false s₀ (forkAct ctx cm) := by
  unfold Machine.forkAct
  refine .bind .forkList fun _ => ?_
  split
  · exact .forkChildren
  · exact .forkRoots

theorem PersistsNext.execFork (hs : Persists false s₀ s) {q n : Nat} : PersistsNext false s₀ (execFork q n s) := by
  unfold Machine.execFork
  refine .next ?_
  split
  · exact hs
  · split
    · exact .updCmd (PersistsAct.keeps .forkAct hs ‹_›)
    · exact .cmdErr hs

theorem PersistsAct.cullList {ctx va count : Nat} : PersistsAct false s₀ (cullList ctx va count) :=
  .bind .getVirt fun _ => .bind .need fun _ => .bind .get fun _ => .bind .need fun _ => .pure

theorem PersistsNext.execCull (hs : Persists false s₀ s) {q n : Nat} : PersistsNext false s₀ (execCull q n s) := by
  unfold Machine.execCull
  refine .next ?_
  split
  · exact hs
  · split
    · exact .runCulls (.updCmd (.foldl (fun _ _ h2 => .updSeq h2) (PersistsAct.keeps .cullList hs ‹_›)))
    · exact .cmdErr hs

end Sys2Proof.Machine
end

section
/-! PROOF. What persists: rounds and coils, COPY and FILL, images (12, 15, 17). -/

namespace Sys2Proof.Machine

set_option Elab.async false

variable {ports : Bool} {s₀ s : State}

theorem PersistsAct.roundList {ctx va count : Nat} :
    PersistsAct false s₀ (roundList ctx va count) := .bind .getVirt fun _ => .bind .need fun _ => .pure

theorem PersistsAct.roundCheck {ctx : Nat} {cm : Cmd} : PersistsAct false s₀ (roundCheck ctx cm) := by
  unfold Machine.roundCheck
  refine .bind .roundList fun _ => .bind ?_ fun _ => .bind .need fun _ => .bind .get fun _ => .bind (.forIn fun _ _ => ?_) fun _ =>
    .bind .need fun _ => ?_
  · split
    · exact .getVirt
    · exact .pure
  · split
    · exact .bind .lift fun _ => .pure
    · exact .pure
  · dsimp only
    split
    · exact .bind .need fun _ => .pure
    · exact .pure

theorem Persists.setStatus (hs : Persists false s₀ s) {coil : Nat} {st : CoilStatus} : Persists false s₀ (s.setStatus coil st) := by
  unfold State.setStatus
  split
  · exact hs
  · exact .foldl (fun _ _ h1 => .refreshCoils h1) (.foldl (fun _ _ h1 => .updCoil h1) hs)

theorem Persists.sendGroup (hs : Persists false s₀ s) {c : CoreId} {u lo : Nat} {g : List RoundEntry} : Persists false s₀ (s.sendGroup c u lo g) := by
  unfold State.sendGroup
  refine .foldl (fun _ _ h1 => ?_) hs
  split
  · exact h1
  · exact .setStatus (.foldl (fun _ _ h2 => .updCoil h2) h1)

theorem Persists.bringGroup (hs : Persists false s₀ s) {ctx cls : Nat} {pair : Bool} {k bytes extra : Nat} {g : List RoundEntry} :
    Persists false s₀ (s.bringGroup ctx cls pair k bytes extra g) := by
  unfold State.bringGroup
  split
  · exact hs
  · split
    · split
      · exact hs
      · split
        · exact .sendGroup hs
        · split
          · exact hs
          · exact .sendGroup hs
        · exact hs
    · refine .foldl (fun _ _ h1 => ?_) hs
      split
      · split
        · exact .setStatus h1
        · exact h1
      · exact h1

theorem PersistsAct.parkVector {coil k off : Nat} : PersistsAct false s₀ (parkVector coil k off) :=
  .bind .get fun _ => .bind (.mapM fun _ => .bind .getStacked fun _ => .pure) fun _ => .pure

theorem PersistsAct.coilState {x : Coil} {coil : Nat} : PersistsAct false s₀ (coilState x coil) := by
  have hlo (b : Bool) (k off : Nat) :
    PersistsAct false s₀ (if b then some <$> Machine.parkVector coil k off else Pure.pure none : Act (Option (List Nat))) := by
    split
    · exact .map .parkVector
    · exact .pure
  unfold Machine.coilState
  dsimp only
  split
  · exact .pure
  · refine .bind .parkVector fun _ => ?_
    split
    · exact .bind (hlo _ _ _) fun _ => .pure
    · exact .bind .parkVector fun _ => .bind (hlo _ _ _) fun _ => .pure

theorem PersistsAct.getMatrix {ctx base rows cols fmt : Nat} : PersistsAct false s₀ (getMatrix ctx base rows cols fmt) :=
  .mapM fun _ => .bind .getVirt fun _ => .pure

theorem PersistsAct.runEntry {ctx count : Nat} {d : RoundDesc} {wx wh : List (List Num)} {e : RoundEntry} :
    PersistsAct false s₀ (runEntry ctx count d wx wh e) := by
  unfold Machine.runEntry
  refine .bind .get fun _ => ?_
  split
  · exact .fail
  · refine .bind .coilState fun _ => .bind (.mapM fun _ => .bind .getVirt fun _ => .pure) fun _ => ?_
    dsimp only
    split <;> exact .pure

theorem PersistsAct.runAll {ctx count : Nat} {d : RoundDesc} {es : List RoundEntry} : PersistsAct false s₀ (runAll ctx count d es) := by
  unfold Machine.runAll
  refine .bind .getMatrix fun _ => .bind .getMatrix fun _ => .bind (.forIn fun _ _ => .bind .runEntry fun _ => ?_) fun _ => .pure
  split
  exact .bind (.forIn fun _ _ => .pure) fun _ => .pure

theorem Persists.placeRound (hs : Persists false s₀ s) {q n ctx bytes coil : Nat} {c : CoreId} :
    Persists false s₀ (State.placeRound q n ctx bytes coil s c) := by
  unfold State.placeRound
  dsimp only
  split
  · exact .updSlot (.same hs)
  · exact hs

theorem Persists.roundErr (hs : Persists false s₀ s) {q n : Nat} {e : AccErr} : Persists false s₀ (s.roundErr q n e) := by
  unfold State.roundErr
  split
  · exact .logAbsent hs
  · exact hs
  · exact .cmdErr hs

theorem Persists.finishRound (hs : Persists false s₀ s) {q n : Nat} {cm : Cmd} {ctx : Nat} {d : RoundDesc} {g : List RoundEntry} {coil : Nat} :
    Persists false s₀ (s.finishRound q n cm ctx d g coil) := by
  unfold State.finishRound
  split
  · exact .updCmd (.endRounds (PersistsAct.keeps .runAll hs ‹_›))
  · exact .roundErr hs

theorem Persists.runGroup (hs : Persists false s₀ s) {q n : Nat} {cm : Cmd} {qu : Queue} {d : RoundDesc} {g : List RoundEntry} :
    Persists false s₀ (s.runGroup q n cm qu d g) := by
  unfold State.runGroup
  split
  · exact hs
  · split
    · exact hs
    · dsimp only
      split
      · exact hs
      · split
        · exact .finishRound hs
        · split
          · split
            · exact .foldl (fun _ _ h => .placeRound h) hs
            · exact hs
          · exact .bringGroup hs

theorem Persists.continueRun (hs : Persists false s₀ s) {q n : Nat} {cm : Cmd} {qu : Queue} {d : RoundDesc} :
    Persists false s₀ (s.continueRun q n cm qu d) :=
  .updCmd (.foldl (fun _ _ h1 => .runGroup h1) hs)

theorem Persists.restartRound (hs : Persists false s₀ s) {q n coil : Nat} {pair : Bool} : Persists false s₀ (s.restartRound q n coil pair) := by
  unfold State.restartRound
  split
  · exact hs
  · split
    · exact hs
    · split
      · exact hs
      · exact .updCmd (.endRounds hs)

theorem Persists.continueUnpark (hs : Persists false s₀ s) {q n : Nat} {cm : Cmd} {qu : Queue} : Persists false s₀ (s.continueUnpark q n cm qu) := by
  unfold State.continueUnpark
  dsimp only
  split
  · exact .updCmd hs
  · refine .foldl (fun _ _ h1 => ?_) hs
    split
    · exact h1
    · exact .foldl (fun _ _ h2 => .bringGroup h2) h1

theorem Persists.continuePark (hs : Persists false s₀ s) {q n : Nat} {cm : Cmd} {d : RoundDesc} : Persists false s₀ (s.continuePark q n cm d) := by
  unfold State.continuePark
  dsimp only
  split
  · exact .updCmd hs
  · refine .foldl (fun _ _ h1 => ?_) hs
    split
    · split
      · exact .setStatus h1
      · exact h1
    · exact h1

theorem Persists.continueRound (hs : Persists false s₀ s) {q n : Nat} : Persists false s₀ (s.continueRound q n) := by
  unfold State.continueRound
  split
  · split
    · exact hs
    · dsimp only
      split
      · exact .continueUnpark hs
      · split
        · exact .continueRun hs
        · exact .continuePark hs
  · exact hs

theorem Persists.roundDispatch (hs : Persists false s₀ s) {q n : Nat} {cm : Cmd} {qu : Queue} : Persists false s₀ (s.roundDispatch q n cm qu) := by
  unfold State.roundDispatch
  split
  · exact .cmdErr hs
  · dsimp only
    split
    · exact .endCmd (PersistsAct.keeps .roundCheck hs ‹_›)
    · split
      · exact .requeue (.holdCmd (PersistsAct.keeps .roundCheck hs ‹_›))
      · exact .continueRound (.updCmd (.foldl (fun _ _ h2 => .updCoil h2) (.updCnt (PersistsAct.keeps .roundCheck hs ‹_›))))

theorem Persists.roundRow (hs : Persists false s₀ s) {q n op : Nat} : Persists false s₀ (s.roundRow q n op) := by
  unfold State.roundRow
  split
  · split
    · exact hs
    · split
      · exact .roundDispatch hs
      · exact .continueRound hs
  · exact hs

theorem PersistsNext.execRoundRun (hs : Persists false s₀ s) {q n : Nat} : PersistsNext false s₀ (execRoundRun q n s) := .next (.roundRow hs)

theorem PersistsNext.execRoundPark (hs : Persists false s₀ s) {q n : Nat} : PersistsNext false s₀ (execRoundPark q n s) := .next (.roundRow hs)

theorem PersistsNext.execRoundUnpark (hs : Persists false s₀ s) {q n : Nat} : PersistsNext false s₀ (execRoundUnpark q n s) := .next (.roundRow hs)

theorem PersistsNext.execRoundConfig (hs : Persists false s₀ s) {q n : Nat} : PersistsNext false s₀ (execRoundConfig q n s) := .next (.roundRow hs)

theorem PersistsNext.execRoundClose (hs : Persists false s₀ s) {q n : Nat} : PersistsNext false s₀ (execRoundClose q n s) := .next (.roundRow hs)

theorem Persists.continueHolder (hs : Persists false s₀ s) {coil : Nat} : Persists false s₀ (s.continueHolder coil) := by
  unfold State.continueHolder
  split
  · split
    · exact .continueRound hs
    · exact hs
  · exact hs

theorem Persists.forceUnits (hs : Persists false s₀ s) {ps : List (Nat × List Byte)} :
    Persists false s₀ { s with accMem := s.accMem.forcePieces (Config.freeByte s.freshCtr) ps } :=
  .same hs

theorem Persists.unparkDone (hs : Persists false s₀ s) {coil : Nat} {x : Coil} : Persists false s₀ (s.unparkDone coil x) := by
  unfold State.unparkDone
  split
  · split
    · exact .roundErr hs
    · exact hs
  · exact .continueHolder (.updCnt (.setStatus (.forceUnits hs)))

theorem PersistsNext.execCoilUnparkComplete (hs : Persists false s₀ s) {coil : Nat} : PersistsNext false s₀ (execCoilUnparkComplete coil s) := by
  unfold Machine.execCoilUnparkComplete
  refine .next ?_
  split
  · split
    · exact .unparkDone hs
    · exact hs
  · exact hs

theorem PersistsNext.execCoilParkComplete (hs : Persists false s₀ s) {coil : Nat} : PersistsNext false s₀ (execCoilParkComplete coil s) := by
  unfold Machine.execCoilParkComplete
  refine .next ?_
  split
  · split
    · exact .continueHolder (.setStatus hs)
    · exact hs
  · exact hs

theorem PersistsNext.execCoilEviction (hs : Persists false s₀ s) {c : CoreId} : PersistsNext false s₀ (execCoilEviction c s) := by
  unfold Machine.execCoilEviction
  refine .next ?_
  dsimp only
  split
  · exact hs
  · exact .updCnt (.foldl (fun _ _ h1 => .setStatus h1) hs)

theorem PersistsAct.commitRun {cm : Cmd} {len : Nat} {e : RoundEntry} : PersistsAct false s₀ (commitRun cm len e) := by
  unfold Machine.commitRun
  refine .bind .get fun _ => ?_
  split
  · exact .pure
  · refine .bind (.forIn fun _ _ => .bind (.forIn fun _ _ => .bind .putStacked fun _ => .pure) fun _ => ?_) fun _ =>
      (.modify fun _ h0 => .updCnt (.foldl (fun _ _ h1 => .updCoil h1) h0))
    split
    · split
      · exact .bind (.modify fun _ h => .forceUnits h) fun _ => .pure
      · exact .pure
    · exact .pure

theorem PersistsAct.commitConfig {ctx : Nat} {d : RoundDesc} {e : RoundEntry} : PersistsAct false s₀ (commitConfig ctx d e) := by
  unfold Machine.commitConfig
  refine .bind .get fun _ => ?_
  dsimp only
  split
  · exact .bind (.forIn fun _ _ => .bind .putStacked fun _ => .pure) fun _ => .modify fun _ h0 => .foldl (fun _ _ h1 => .same h1)
      (.foldl (fun _ _ h1 => .same h1) h0)
  · exact .modify fun _ h0 => .foldl (fun _ _ h1 => .same h1) (.foldl (fun _ _ h1 => .same h1) h0)

theorem PersistsAct.commitSeq {e : RoundEntry} : PersistsAct false s₀ (commitSeq e) := by
  unfold Machine.commitSeq
  refine .modify fun _ h0 => ?_
  split
  · exact .foldl (fun _ _ h1 => .updCoil h1) h0
  · exact h0

theorem PersistsAct.commitRound {ctx : Nat} {cm : Cmd} : PersistsAct false s₀ (commitRound ctx cm) := by
  unfold Machine.commitRound
  refine .bind (.forIn fun _ _ => ?_) fun _ => .bind (.forIn fun _ _ => .bind .putVirt fun _ => .pure) fun _ => .pure
  split
  · exact .bind .commitRun fun _ => .pure
  · split
    · exact .bind .commitConfig fun _ => .pure
    · split
      · exact .bind (.modify fun _ h0 => .eraseCoil h0) fun _ => .pure
      · exact .bind .commitSeq fun _ => .pure

theorem Persists.writeExtent (hs : Persists false s₀ s) {ctx : Nat} {e : Extent} {r : Nat} {bs : List Byte} :
    Answers (Persists false s₀) (s.writeExtent ctx e r bs) := by
  unfold State.writeExtent
  split
  · exact Persists.writeVirt hs
  · split
    · exact .error _
    · exact .ok hs

theorem Persists.spoilPart (hs : Persists false s₀ s) {ctx : Nat} {p : Nat × Nat} : Persists false s₀ (State.spoilPart ctx s p) := by
  unfold State.spoilPart
  split
  · exact (Persists.writeVirt hs) _ ‹_›
  · exact hs

theorem Persists.spoil (hs : Persists false s₀ s) {ctx va len : Nat} : Persists false s₀ (s.spoil ctx va len) := by
  unfold State.spoil
  split
  · exact .fresh ((Persists.writeVirt hs) _ ‹_›)
  · exact .fresh (.foldl (fun _ _ h => .spoilPart h) hs)

theorem Persists.spoilExtent (hs : Persists false s₀ s) {ctx : Nat} {e : Extent} : Persists false s₀ (s.spoilExtent ctx e) := by
  unfold State.spoilExtent
  split
  · exact .foldl (fun _ _ h1 => .spoil h1) hs
  · exact hs

theorem Persists.copyRows (hs : Persists false s₀ s) {ctx : Nat} {src dst : Extent} {rows : List Nat} {t : State} {o : Option AccErr}
    (e : copyRows ctx src dst rows s = (t, o)) : Persists false s₀ t := by
  induction rows generalizing s with
  | nil => cases e; exact hs
  | cons r rest ih =>
    unfold Machine.copyRows at e
    split at e
    · cases e; exact hs
    · extract_lets s1 at e
      have h1 : Persists false s₀ s1 := by
        unfold s1
        split
        · exact .noteVirt hs
        · exact hs
      split at e
      · exact (Prod.mk.inj e).1 ▸ h1
      · exact ih (Persists.writeExtent h1 _ ‹_›) e

theorem Persists.spoilAliased (hs : Persists false s₀ s) {ctx : Nat} {src dst : Extent} : Persists false s₀ (s.spoilAliased ctx src dst) := by
  unfold State.spoilAliased
  dsimp only
  split
  · exact hs
  · refine .foldl (fun _ _ h1 => ?_) hs
    split
    · exact .foldl (fun _ _ h2 => .spoil h2) h1
    · exact h1

theorem Persists.copyToFlash (hs : Persists false s₀ s) {q n ctx : Nat} {src dst : Extent} : Persists false s₀ (s.copyToFlash q n ctx src dst) := by
  unfold State.copyToFlash
  split
  · exact .cmdErr hs
  · refine .updCmd ?_
    split
    · exact .foldl (fun _ _ h1 => .noteVirt h1) hs
    · exact hs

theorem Persists.noteFlash (hs : Persists false s₀ s) {e : Extent} : Persists false s₀ (s.noteFlash e) := by
  unfold State.noteFlash
  split
  · exact hs.same
  · exact hs

theorem PersistsNext.execCopy (hs : Persists false s₀ s) {q n : Nat} : PersistsNext false s₀ (execCopy q n s) := by
  unfold Machine.execCopy
  refine .next ?_
  split
  · exact hs
  · dsimp only
    split
    · exact .endCmd hs
    · split
      · exact .copyToFlash (.noteFlash hs)
      · split
        · exact .updCmd (.spoilAliased (.copyRows (.noteFlash hs) ‹_›))
        · refine .cmdErr ?_
          split
          · exact .spoilExtent (.copyRows (.noteFlash hs) ‹_›)
          · exact .copyRows (.noteFlash hs) ‹_›

theorem Persists.fillRows (hs : Persists false s₀ s) {ctx pattern : Nat} {dst : Extent} {rows : List Nat} {t : State} {o : Option AccErr}
    (e : fillRows ctx pattern dst rows s = (t, o)) : Persists false s₀ t := by
  induction rows generalizing s with
  | nil => cases e; exact hs
  | cons r rest ih =>
    unfold Machine.fillRows at e
    split at e
    · cases e; exact hs
    · exact ih (Persists.writeExtent hs _ ‹_›) e

theorem PersistsNext.execFill (hs : Persists false s₀ s) {q n : Nat} : PersistsNext false s₀ (execFill q n s) := by
  unfold Machine.execFill
  refine .next ?_
  split
  · exact hs
  · dsimp only
    split
    · exact .endCmd hs
    · split
      · exact .updCmd hs
      · split
        · exact .updCmd (.fillRows hs ‹_›)
        · refine .cmdErr ?_
          split
          · exact .spoilExtent (.fillRows hs ‹_›)
          · exact .fillRows hs ‹_›

theorem Persists.commitFlash (hs : Persists false s₀ s) {cm : Cmd} : Persists false s₀ (s.commitFlash cm) := by
  unfold State.commitFlash
  dsimp only
  split
  · exact .same hs
  · split
    · exact .same hs
    · exact hs

theorem Persists.askStop (hs : Persists false s₀ s) {cm : Cmd} {why : StopWhy} : Persists false s₀ (s.askStop cm why) := by
  unfold State.askStop
  split
  · exact hs
  · refine .foldl (fun _ _ h1 => ?_) hs
    split
    · exact .updSlot h1
    · exact h1

theorem Persists.quenchBroken (hs : Persists false s₀ s) : Persists false s₀ (s.quenchBroken) := by
  unfold State.quenchBroken
  split
  · exact .updFls hs
  · exact hs

theorem Persists.quenchMended (hs : Persists false s₀ s) : Persists false s₀ (s.quenchMended) := by
  unfold State.quenchMended
  split
  · split
    · exact .updFls hs
    · exact hs
  · exact hs

end Sys2Proof.Machine
end

section
/-! PROOF. What persists: firmware, start-up, recovery, the service port and the fabric (02, 17, 18, 22). -/

namespace Sys2Proof.Machine

set_option Elab.async false

variable {ports : Bool} {s₀ s : State}

theorem Persists.updSvc (hs : Persists false s₀ s) {f : Service → Service} (hf : FusesKept s.svc (f s.svc) := by exact FusesKept.beside) :
    Persists false s₀ (s.updSvc f) :=
  hs.service hf

theorem Persists.logSvc (hs : Persists false s₀ s) {cause unit : Nat} {status address : optParam Nat 0} :
    Persists false s₀ (s.logSvc cause unit status address) :=
  .logEv hs

theorem Persists.runRegion (hs : Persists false s₀ s) {g : RegionId} {l : Loaded} : Persists false s₀ (s.runRegion g l) := by
  unfold State.runRegion
  dsimp only
  split
  · exact .logSvc (.updSvc (.updRegion hs))
  · exact .updSvc (.updRegion hs)

theorem Persists.runService (hs : Persists false s₀ s) {l : Loaded} : Persists false s₀ (s.runService l) := by
  unfold State.runService
  dsimp only
  split
  · exact .logSvc (.updSvc hs)
  · exact .updSvc hs

theorem Persists.regionOut (hs : Persists false s₀ s) {g : RegionId} : Persists false s₀ (s.regionOut g) := .updSvc (.updRegion hs)

theorem Persists.updFw (hs : Persists false s₀ s) {kind : Nat} {f : FwKind → FwKind} : Persists false s₀ (s.updFw kind f) := .updSvc hs

theorem Persists.updDarit (hs : Persists false s₀ s) {f : Darit → Darit} : Persists false s₀ (s.updDarit f) := .same hs

theorem Persists.logSelf (hs : Persists false s₀ s) {unit : Nat} : Persists false s₀ (s.logSelf unit) := .logEv hs

theorem Persists.repairRegion (hs : Persists false s₀ s) {g : RegionId} : Persists false s₀ (s.repairRegion g).1 :=
  .foldl (fun _ _ h => .updCore h) (.updRegion (.foldl (fun _ _ h => .logEv h) (.foldl (fun _ _ h => .logSelf h) hs)))

theorem Persists.hardenRows (hs : Persists false s₀ s) {g : RegionId} :
    Persists false s₀ (s.hardenRows g) := .foldl (fun _ _ h1 => .logEv h1) (.updRegion hs)

/-- A stack's contents lost. -/
theorem Persists.markStack (hs : Persists false s₀ s) {g : RegionId} :
    Persists false s₀ { s with stacked := s.stacked.mark (g.val * stackSpan) stackSpan } :=
  .same hs

theorem Persists.trainStack (hs : Persists false s₀ s) {g : RegionId} : Persists false s₀ (s.trainStack g).1 := by
  unfold State.trainStack
  extract_lets s1 s2
  have h2 : Persists false s₀ s2 := by
    refine .hardenRows ?_
    unfold s1
    split
    · exact .logSelf hs
    · exact hs
  dsimp only
  split
  · dsimp only
    exact .updRegion (.markStack (.updRegion h2))
  · dsimp only
    exact .updRegion (.updRegion h2)

theorem Persists.layCopies (hs : Persists false s₀ s) : Persists false s₀ (s.layCopies) := .same hs

theorem Persists.bare (hs : Persists false s₀ s) : Persists false s₀ s.bare :=
  ⟨(nomatch ·), hs.pending, hs.fused.trans .beside, hs.log⟩

theorem Persists.warm (hs : Persists false s₀ s) : Persists false s₀ s.warm := .same (Persists.bare hs)

theorem Persists.stepFailed (hs : Persists false s₀ s) {step unit : Nat} : Persists false s₀ (s.stepFailed step unit) := .logSvc hs

theorem Persists.startRegion (hs : Persists false s₀ s) {g : RegionId} : Persists false s₀ (s.startRegion g) := by
  unfold State.startRegion
  have h1 := Persists.repairRegion hs (g := g)
  generalize s.repairRegion g = r at h1 ⊢
  obtain ⟨s1, out⟩ := r
  have h2 := Persists.trainStack h1 (g := g)
  dsimp -zeta only at h2 ⊢
  generalize s1.trainStack g = r at h2 ⊢
  obtain ⟨s2, bad⟩ := r
  dsimp -zeta only at h2 ⊢
  extract_lets s3 s4
  have h3 : Persists false s₀ s3 := by
    unfold s3
    split
    · exact .stepFailed (.updRegion h2)
    · exact h2
  have h4 : Persists false s₀ s4 := by
    unfold s4
    split
    · exact .stepFailed (.updRegion h3)
    · exact h3
  split
  · exact .updPart h4
  · exact h4

theorem Persists.startFenced (hs : Persists false s₀ s) {p : Part} : Persists false s₀ (s.startFenced p) := .updPart hs

theorem Persists.startDie (hs : Persists false s₀ s) {d : DieId} : Persists false s₀ (s.startDie d) := by
  unfold State.startDie
  split
  · exact hs
  · exact .foldl (fun _ _ h1 => .foldl (fun _ _ h2 => .startFenced h2) (.startFenced (.updRegion h1))) (.startFenced (.stepFailed (.logSelf hs)))

theorem Persists.markFenced (hs : Persists false s₀ s) : Persists false s₀ (s.markFenced) := by
  unfold State.markFenced
  refine .foldl (fun _ _ h1 => ?_) hs
  split
  · exact .updPart h1
  · exact h1

theorem Persists.enterRecovery (hs : Persists false s₀ s) {step : Nat} :
    Persists false s₀ (s.enterRecovery step) := .logSvc (.stepFailed (.updSvc hs))

theorem Persists.enterReady (hs : Persists false s₀ s) : Persists false s₀ (s.enterReady) := .portEvent (.portEvent (.updSvc hs))

theorem Persists.trainAll (hs : Persists false s₀ s) : Persists false s₀ (s.trainAll) := .foldl (fun _ _ h1 => .logEv h1) (.updDarit hs)

theorem Persists.finishStart (hs : Persists false s₀ s) {sv rg : Loaded} : Persists false s₀ (s.finishStart sv rg) := by
  unfold State.finishStart
  extract_lets s1 s2 s3
  have h2 : Persists false s₀ s2 := .foldl (fun _ _ h1 => ?_) (.runService hs)
  · clear_value s2
    exact .enterReady (.trainAll (.layCopies (.updSvc h2)))
  split
  · exact h1
  · exact .runRegion h1

theorem Persists.startParts (hs : Persists false s₀ s) : Persists false s₀ (s.startParts) :=
  .markFenced (.foldl (fun _ _ h => .startDie h) (.foldl (fun _ _ h => .startRegion h) hs))

theorem Persists.startFlash (hs : Persists false s₀ s) : Persists false s₀ s.startFlash := by
  unfold State.startFlash
  split
  · exact (Persists.stepFailed (.logSelf hs (unit := wholeUnit)) (step := 3) (unit := wholeUnit)).same
  · exact hs.same

theorem Persists.startUp (hs : Persists false s₀ s) : Persists false s₀ (s.startUp) := by
  unfold State.startUp
  dsimp only
  split
  · exact .enterRecovery (.startParts hs)
  · split
    · exact .finishStart (.startFlash (.startParts hs))
    · exact .enterRecovery (.startFlash (.startParts hs))

theorem Persists.coldStart (hs : Persists false s₀ s) : Persists false s₀ (s.coldStart) := .startUp (.bare hs)

theorem Persists.warmReset (hs : Persists false s₀ s) : Persists false s₀ (s.warmReset) := .startUp (.warm hs)

theorem Persists.leaveCold (hs : Persists false s₀ s) : Persists false s₀ (s.leaveCold) := by
  unfold State.leaveCold
  dsimp only
  split
  · split
    · exact .enterRecovery (.startParts (.bare (.setPower hs)))
    · exact .finishStart (.startFlash (.startParts (.bare (.setPower hs))))
  · exact .coldStart (.setPower hs)

theorem PersistsNext.execPackageWarmReset (hs : Persists false s₀ s) : PersistsNext false s₀ (execPackageWarmReset s) := by
  unfold Machine.execPackageWarmReset
  refine .next ?_
  split
  · exact .warmReset hs
  · exact hs

theorem PersistsNext.execControlCoreWatchdogExpiry (hs : Persists false s₀ s) {core : ControlCore} :
    PersistsNext false s₀ (execControlCoreWatchdogExpiry core s) := by
  unfold Machine.execControlCoreWatchdogExpiry
  refine .next ?_
  dsimp only
  split
  · exact .warmReset (.logEv hs)
  · exact .logEv hs

theorem Persists.loseCopy (hs : Persists false s₀ s) {second : Bool} : Persists false s₀ (s.loseCopy second) := by
  unfold State.loseCopy
  split
  · exact .same hs
  · exact .same hs
  · exact .same hs
  · exact .same hs
  · exact .warmReset hs

theorem Persists.fencePart (hs : Persists false s₀ s) {p : Part} : Persists false s₀ (s.fencePart p) := by
  unfold State.fencePart
  split
  · exact hs
  · exact .updPart hs

theorem Persists.resetPart (hs : Persists false s₀ s) {p : Part} : Persists false s₀ (s.resetPart p) := .updPart hs

theorem Persists.returnPart (hs : Persists false s₀ s) {p : Part} : Persists false s₀ (s.returnPart p) := .updPart hs

theorem PersistsNext.execEpochAdvance (hs : Persists false s₀ s) {p : Part} : PersistsNext false s₀ (execEpochAdvance p s) := by
  unfold Machine.execEpochAdvance
  refine .next ?_
  dsimp only
  split
  · exact .quenchMended (.updPart hs)
  · exact hs

theorem Persists.loseSlot (hs : Persists false s₀ s) {c : CoreId} {k : KsId} : Persists false s₀ (s.loseSlot c k) := by
  unfold State.loseSlot
  split
  · exact .dropSlot hs
  · exact .trapEnd (.updCmd (.dropSlot hs))

theorem Persists.loseCoils (hs : Persists false s₀ s) {c : CoreId} : Persists false s₀ (s.loseCoils c) := by
  unfold State.loseCoils
  refine .foldl (fun _ _ h1 => ?_) hs
  dsimp only
  split
  · exact .restartRound (.setStatus h1)
  · exact .setStatus h1

theorem Persists.replayRounds (hs : Persists false s₀ s) : Persists false s₀ (s.replayRounds) := .foldl (fun _ _ h1 => .continueRound h1) hs

theorem Persists.clearCore (hs : Persists false s₀ s) {c : CoreId} : Persists false s₀ (s.clearCore c) :=
  .same hs

theorem Persists.loseCore (hs : Persists false s₀ s) {c : CoreId} : Persists false s₀ (s.loseCore c) := by
  unfold State.loseCore
  extract_lets s1
  have h1 : Persists false s₀ s1 := .foldl (fun _ _ h => .loseSlot h) hs
  exact .updCore (.clearCore (.loseCoils h1))

theorem Persists.coreFault (hs : Persists false s₀ s) {c : CoreId} : Persists false s₀ (s.coreFault c) := by
  unfold State.coreFault
  split
  · exact hs
  · exact .replayRounds (.loseCore (.updCore (.fencePart (.logEv hs))))

theorem PersistsNext.execCoreFault (hs : Persists false s₀ s) {c : CoreId} {why : CoreFaultCause} :
    PersistsNext false s₀ (execCoreFault c why s) := by
  unfold Machine.execCoreFault
  refine .next ?_
  split
  · split
    · exact .coreFault (.updCore hs)
    · exact hs
  · exact .coreFault hs
  · exact .coreFault hs
  · exact .coreFault hs

theorem PersistsNext.execKernelSlotStall (hs : Persists false s₀ s) {c : CoreId} {k : KsId} : PersistsNext false s₀ (execKernelSlotStall c k s) := by
  unfold Machine.execKernelSlotStall
  refine .next ?_
  split
  · exact .coreFault hs
  · exact hs

theorem Persists.markHomed (hs : Persists false s₀ s) {g : RegionId} : Persists false s₀ (s.markHomed g) := .same hs

theorem Persists.markCmds (hs : Persists false s₀ s) {g : RegionId} : Persists false s₀ (s.markCmds g) := .same hs

theorem Persists.markRegion (hs : Persists false s₀ s) {g : RegionId} :
    Persists false s₀ { s with regionMem := s.regionMem.mark (g.val * regionBytes) regionBytes } :=
  .same hs

theorem Persists.clearRegion (hs : Persists false s₀ s) {g : RegionId} : Persists false s₀ (s.clearRegion g) :=
  .updRegion (.markRegion (.foldl (fun _ _ h => .updCore (.loseCore h)) hs))

theorem Persists.moveCopies (hs : Persists false s₀ s) {g : RegionId} : Persists false s₀ (s.moveCopies g) := by
  unfold State.moveCopies
  extract_lets s1
  have h1 : Persists false s₀ s1 := by
    unfold s1
    split
    · exact .loseCopy hs
    · exact hs
  split
  · exact .loseCopy h1
  · exact h1

theorem PersistsNext.execCommandStoreCopyLoss (hs : Persists false s₀ s) {loss : CopyLoss} :
    PersistsNext false s₀ (execCommandStoreCopyLoss loss s) := by
  unfold Machine.execCommandStoreCopyLoss
  refine .next ?_
  split
  · exact .foldl (fun _ _ h1 => .failCmd h1) (.loseCopy hs)
  · exact hs

theorem Persists.beginReset (hs : Persists false s₀ s) {g : RegionId} {cause : Nat} : Persists false s₀ (s.beginReset g cause) := by
  unfold State.beginReset
  split
  · exact hs
  · exact .replayRounds (.moveCopies (.clearRegion (.foldl (fun _ _ h1 => .resetPart h1) (.resetPart (.quenchBroken (.markCmds (.logEv hs)))))))

theorem PersistsNext.execRegionReset (hs : Persists false s₀ s) {g : RegionId} : PersistsNext false s₀ (execRegionReset g s) := .next (.beginReset hs)

theorem PersistsNext.execRegionWatchdogExpiry (hs : Persists false s₀ s) {g : RegionId} : PersistsNext false s₀ (execRegionWatchdogExpiry g s) := by
  unfold Machine.execRegionWatchdogExpiry
  refine .next ?_
  split
  · exact hs
  · exact .beginReset (.updRegion hs)

theorem PersistsAct.rebuildAct {ctx : Nat} {cm : Cmd} : PersistsAct false s₀ (rebuildAct ctx cm) :=
  .bind .getNat fun _ => .bind .getNat fun _ => .putVirt

theorem Persists.failAll (hs : Persists false s₀ s) {l : List (Nat × Nat)} : Persists false s₀ (s.failAll l) := .foldl (fun _ _ h1 => .failCmd h1) hs

theorem Persists.rebuildGo (hs : Persists false s₀ s) {cms : List Cmd} {bad bad' : List (Nat × Nat)} {t : State}
    (e : rebuildGo cms s bad = some (t, bad')) : Persists false s₀ t := by
  induction cms generalizing s bad with
  | nil => cases e; exact hs
  | cons cm cms ih =>
    unfold Machine.rebuildGo at e
    split at e
    · exact ih (PersistsAct.rebuildAct.keeps hs ‹_›) e
    · exact ih (.noteErr hs) e
    · exact ih hs e
    · exact nomatch e

theorem Persists.answering (hs : Persists false s₀ s) {g : RegionId} : Persists false s₀ (s.answering g) := .updPart (.updPart hs)

theorem Persists.reloadRegion (hs : Persists false s₀ s) {g : RegionId} : Persists false s₀ (s.reloadRegion g).1 := by
  unfold State.reloadRegion
  have h1 := Persists.repairRegion hs (g := g)
  generalize s.repairRegion g = r at h1 ⊢
  obtain ⟨s1, out⟩ := r
  have h2 := Persists.trainStack h1 (g := g)
  dsimp only at h2 ⊢
  generalize s1.trainStack g = r at h2 ⊢
  obtain ⟨s2, bad⟩ := r
  dsimp only at h2 ⊢
  split
  · exact .runRegion h2
  · exact .regionOut h2

theorem Persists.returnCores (hs : Persists false s₀ s) {g : RegionId} : Persists false s₀ (s.returnCores g) := by
  unfold State.returnCores
  refine .foldl (fun _ _ h1 => ?_) hs
  split
  · exact .fencePart h1
  · exact .returnPart h1

theorem Persists.leaveService (hs : Persists false s₀ s) {g : RegionId} : Persists false s₀ (s.leaveService g) :=
  .foldl (fun _ _ h1 => .fencePart h1) (.fencePart hs)

theorem Persists.finishReset (hs : Persists false s₀ s) {g : RegionId} {t : State} (e : s.finishReset g = some t) : Persists false s₀ t := by
  unfold State.finishReset at e
  have h1 := Persists.reloadRegion hs (g := g)
  generalize s.reloadRegion g = r at h1 e
  obtain ⟨s1, ok⟩ := r
  dsimp -zeta only at h1 e
  split at e
  · rw [← Option.some.inj e]
    exact .quenchMended (.leaveService h1)
  · split at e
    · exact nomatch e
    · rename_i s2 bad h2
      have h3 : Persists false s₀ s2 := .rebuildGo (.answering h1) h2
      rw [← Option.some.inj e]
      exact .quenchMended (.runCulls (.replayRounds (.failAll (.returnCores (.returnPart h3.same)))))

theorem Persists.updPort (hs : Persists false s₀ s) {p : DaritPort} {f : DPort → DPort} : Persists false s₀ (s.updPort p f) := .updDarit hs

theorem Persists.logDarit (hs : Persists false s₀ s) {cause unit : Nat} : Persists false s₀ (s.logDarit cause unit) := .logEv hs

theorem Persists.portLeaves (hs : Persists false s₀ s) {p : DaritPort} : Persists false s₀ (s.portLeaves p) := by
  unfold State.portLeaves
  split
  · exact .logDarit (.updPart (.dropTransfers hs))
  · exact hs

theorem Persists.portRests (hs : Persists false s₀ s) {p : DaritPort} : Persists false s₀ (s.portRests p) := .quenchMended (.updPart hs)

theorem Persists.portTo (hs : Persists false s₀ s) {p : DaritPort} {st : LinkState} {cause : Nat} : Persists false s₀ (s.portTo p st cause) := by
  unfold State.portTo
  dsimp only
  split
  · exact .quenchBroken (.resetPart (.updPort (.portLeaves hs)))
  · exact .portRests (.updPort (.portLeaves hs))

theorem Persists.portReset (hs : Persists false s₀ s) {p : DaritPort} : Persists false s₀ (s.portReset p) := by
  unfold State.portReset
  dsimp only
  split
  · exact .logDarit (.portTo hs)
  · exact .portTo hs

theorem Persists.portFenced (hs : Persists false s₀ s) {p : DaritPort} : Persists false s₀ (s.portFenced p) := by
  unfold State.portFenced
  split
  · exact .logDarit (.portTo hs)
  · exact hs

theorem Persists.dieFault (hs : Persists false s₀ s) {d : DieId} : Persists false s₀ (s.dieFault d) := by
  unfold State.dieFault
  split
  · exact hs
  · exact .replayRounds (.foldl (fun _ _ h => .moveCopies h) (.foldl (fun _ _ h => .portFenced h) (.foldl (fun _ _ h1 => .holdCmd h1)
      (.foldl (fun _ _ h1 => .foldl (fun _ _ h => .loseCore h) h1) (.foldl (fun _ _ h1 => .foldl (fun _ _ h2 => .fencePart h2) (.fencePart h1))
      (.quenchBroken (.fencePart (.logEv hs))))))))

theorem PersistsNext.execDieFault (hs : Persists false s₀ s) {d : DieId} : PersistsNext false s₀ (execDieFault d s) := .next (.dieFault hs)

theorem Persists.redispatch (hs : Persists false s₀ s) {q n : Nat} : Persists false s₀ (s.redispatch q n) := by
  unfold State.redispatch
  split
  · exact hs
  · have h1 := Persists.payOwed hs (q := q) (n := n)
    generalize s.payOwed q n = r at h1 ⊢
    obtain ⟨s1, paid⟩ := r
    dsimp only at h1 ⊢
    split
    · exact .updCmd (.releaseHolds h1)
    · exact h1

theorem Persists.unhold (hs : Persists false s₀ s) {p : HoldWhy → Bool} : Persists false s₀ (s.unhold p) := .foldl (fun _ _ h1 => .redispatch h1) hs

theorem Persists.loseStack (hs : Persists false s₀ s) {g : RegionId} : Persists false s₀ (s.loseStack g) := (Persists.markStack hs (g := g)).same

theorem Persists.regionBack (hs : Persists false s₀ s) {lost : List RegionId} {g : RegionId} : Persists false s₀ (State.regionBack lost s g) := by
  unfold State.regionBack
  extract_lets s1 s2
  have h1 : Persists false s₀ s1 := .clearRegion (.markHomed hs)
  have h2 : Persists false s₀ s2 := by
    unfold s2
    split
    · exact .loseStack h1
    · exact h1
  split
  · exact h2
  · exact .resetPart h2

theorem Persists.finishAll (hs : Persists false s₀ s) {gs : List RegionId} {t : State} (e : finishAll gs s = some t) : Persists false s₀ t := by
  induction gs generalizing s with
  | nil => cases e; exact hs
  | cons g gs ih =>
    unfold Machine.finishAll at e
    split at e
    · exact ih hs e
    · split at e
      · exact ih (.finishReset hs ‹_›) e
      · exact nomatch e

theorem Persists.dieReturn (hs : Persists false s₀ s) {d : DieId} {lost : List RegionId} : Persists false s₀ (s.dieReturn d lost) := by
  unfold State.dieReturn
  split
  · exact hs
  · split
    · exact .logSelf hs
    · dsimp only
      split
      · exact hs
      · exact .quenchMended (.runCulls (.unhold (.foldl (fun _ _ h => .portReset h) (.finishAll (.foldl (fun _ _ h => .regionBack h) (.returnPart
          (.resetPart (.logEv hs)))) ‹_›))))

theorem PersistsNext.execDieReturn (hs : Persists false s₀ s) {d : DieId} {stacksLost : List RegionId} :
    PersistsNext false s₀ (execDieReturn d stacksLost s) :=
  .next (.dieReturn hs)

theorem Persists.answer (hs : Persists false s₀ s) {h : SvcHdr} {status : Nat} {body : List Byte} :
    Persists false s₀ (s.answer h status body) := .same hs

theorem Persists.portWake (hs : Persists false s₀ s) : Persists false s₀ (s.portWake) := by
  unfold State.portWake
  split
  · exact .updSvc (.leaveCold hs)
  · exact .awake hs

theorem Persists.svc? (hs : Persists false s₀ s) {h : SvcHdr} {w : SvcWhen} {f : State → State} (hf : ∀ s, Persists false s₀ s → Persists false s₀ (f s)) :
    Persists false s₀ (s.svc? h w f) := by
  unfold State.svc?
  extract_lets s1
  have h1 : Persists false s₀ s1 := .portWake hs
  split
  · exact h1
  · split
    · exact .answer h1
    · split
      · exact hf _ h1
      · exact .answer h1

theorem PersistsNext.execServiceSessionConnect (hs : Persists false s₀ s) : PersistsNext false s₀ (execServiceSessionConnect s) := by
  unfold Machine.execServiceSessionConnect
  refine .next ?_
  split
  · exact hs
  · exact .fresh (.updSvc hs)

theorem PersistsNext.execServiceSessionClose (hs : Persists false s₀ s) : PersistsNext false s₀ (execServiceSessionClose s) := .next (.updSvc hs)

theorem PersistsNext.execHello (hs : Persists false s₀ s) {hdr : SvcHdr} :
    PersistsNext false s₀ (execHello hdr s) := .next (.svc? hs fun _ h1 => .answer h1)

theorem PersistsNext.execStatus (hs : Persists false s₀ s) {hdr : SvcHdr} :
    PersistsNext false s₀ (execStatus hdr s) := .next (.svc? hs fun _ h1 => .answer h1)

theorem PersistsNext.execReadLog (hs : Persists false s₀ s) {hdr : SvcHdr} {first count : Nat} :
    PersistsNext false s₀ (execReadLog hdr first count s) := by
  unfold Machine.execReadLog
  refine .next (.svc? hs fun _ h1 => ?_)
  split <;> exact .answer h1

theorem PersistsNext.execAttest (hs : Persists false s₀ s) {hdr : SvcHdr} {nonce : List Byte} : PersistsNext false s₀ (execAttest hdr nonce s) := by
  unfold Machine.execAttest
  refine .next (.svc? hs fun _ h1 => ?_)
  split <;> exact .answer h1

theorem PersistsNext.execDoeAttest (hs : Persists false s₀ s) {port : HostPort} {nonce : List Byte} :
    PersistsNext false s₀ (execDoeAttest port nonce s) := by
  unfold Machine.execDoeAttest
  refine .next ?_
  split
  · exact .same hs
  · exact hs

theorem Persists.stageBegin (hs : Persists false s₀ s) {h : SvcHdr} {kind size : Nat} : Persists false s₀ (s.stageBegin h kind size) := by
  unfold State.stageBegin
  dsimp only
  split
  · exact .answer hs
  · split
    · exact .answer hs
    · exact .answer (.updFw hs)

theorem PersistsNext.execStageBegin (hs : Persists false s₀ s) {hdr : SvcHdr} {kind size : Nat} :
    PersistsNext false s₀ (execStageBegin hdr kind size s) :=
  .next (.svc? hs fun _ h1 => .stageBegin h1)

theorem Persists.stageData (hs : Persists false s₀ s) {h : SvcHdr} {kind off : Nat} {data : List Byte} :
    Persists false s₀ (s.stageData h kind off data) := by
  unfold State.stageData
  dsimp only
  split
  · exact .answer hs
  · exact .answer (.updFw hs)

theorem PersistsNext.execStageData (hs : Persists false s₀ s) {hdr : SvcHdr} {kind off : Nat} {data : List Byte} :
    PersistsNext false s₀ (execStageData hdr kind off data s) :=
  .next (.svc? hs fun _ h1 => .stageData h1)

theorem Persists.stageEnd (hs : Persists false s₀ s) {h : SvcHdr} {kind : Nat} : Persists false s₀ (s.stageEnd h kind) := by
  unfold State.stageEnd
  dsimp only
  split
  · exact .answer hs
  · split <;> exact .answer (.logSvc (.updFw hs))

theorem PersistsNext.execStageEnd (hs : Persists false s₀ s) {hdr : SvcHdr} {kind : Nat} : PersistsNext false s₀ (execStageEnd hdr kind s) :=
  .next (.svc? hs fun _ h1 => .stageEnd h1)

theorem Persists.updSlots (hs : Persists false s₀ s) {f : TimeSlots → TimeSlots} : Persists false s₀ (s.updSlots f) := .same hs

theorem Persists.send (hs : Persists false s₀ s) {id cls : Nat} {prio : PrioClass} {bytes : Nat} {path : List FabLink} {chan : Option Nat}
    {write : Bool} {age : optParam Nat 0} {vc : optParam (Fin 3) 0} : Persists false s₀ (s.send id cls prio bytes path chan write age vc) := by
  unfold State.send
  split
  · exact hs
  · exact .updSlots hs

theorem Persists.transitRead (hs : Persists false s₀ s) {r : FabricReq} : Persists false s₀ (s.transitRead r) := by
  unfold State.transitRead
  split
  · exact .same hs
  · exact .same (.noteBlockBy hs)

theorem Persists.transitWrite (hs : Persists false s₀ s) {r : FabricReq} : Persists false s₀ (s.transitWrite r) := by
  unfold State.transitWrite
  split
  · exact hs
  · split
    · exact .same hs
    · exact .same hs

theorem Persists.fabricAccess (hs : Persists false s₀ s) {r : FabricReq} : Persists false s₀ (s.fabricAccess r) := by
  unfold State.fabricAccess
  split
  · extract_lets a here
    refine .ite hs.same ?_
    split
    · split
      · rename_i s1 h1
        have h2 : Persists false s₀ (s1.transitWrite r) := .transitWrite (Persists.writeLoc hs _ h1)
        exact h2.same
      · exact hs.same
    · have h1 : Persists false s₀ (s.noteRead (reqLoc r) 32) := .noteRead hs
      refine .ite (.transitRead hs) ?_
      split
      · exact h1.same
      · exact h1.same
  · exact hs.same

theorem Persists.sendReply (hs : Persists false s₀ s) {r : FabricReq} : Persists false s₀ (s.sendReply r) := .send hs

theorem Persists.sendAway (hs : Persists false s₀ s) {r : FabricReq} {via : RouteAcc} : Persists false s₀ (s.sendAway r via) := by
  unfold State.sendAway
  split
  · exact hs
  · split
    · exact hs
    · exact .send hs

theorem Persists.station (hs : Persists false s₀ s) {r : FabricReq} : Persists false s₀ (s.station r).1 := by
  unfold State.station
  split
  · exact .sendReply (.fabricAccess hs)
  · exact .logAbsent hs

theorem Persists.addWait (hs : Persists false s₀ s) {r : FabricReq} {stage : FabricStage} {via : Option RouteAcc} :
    Persists false s₀ (s.addWait r stage via) :=
  .same hs

theorem Persists.requestAway (hs : Persists false s₀ s) {r : FabricReq} {node : Nat} : Persists false s₀ (s.requestAway r node) := by
  unfold State.requestAway
  split
  · exact .addWait (.logEv hs)
  · split
    · exact .addWait hs
    · exact .addWait (.sendAway hs)

theorem Persists.request (hs : Persists false s₀ s) {r : FabricReq} : Persists false s₀ (s.request r) := by
  unfold State.request
  split
  · exact .requestAway hs
  · split
    · exact .addWait hs
    · exact .addWait (.station hs)

theorem Persists.reissueAway (hs : Persists false s₀ s) {r : FabricReq} : Persists false s₀ (s.reissueAway r) := by
  unfold State.reissueAway
  split
  · exact .request hs
  · split
    · exact .same (.logEv hs)
    · exact .same (.sendAway hs)

theorem PersistsNext.execFabricRequest (hs : Persists false s₀ s) {r : FabricReq} :
    PersistsNext false s₀ (execFabricRequest r s) := .next (.request hs)

theorem Persists.again (hs : Persists false s₀ s) {mine : FabricWait → Bool} {f : FabricReq → FabricReq} : Persists false s₀ (s.again mine f) :=
  .foldl (fun _ _ h1 => .request h1) (.same hs)

theorem Persists.tryAway (hs : Persists false s₀ s) {rejected : Bool} : Persists false s₀ (s.tryAway rejected) := .again hs

theorem PersistsNext.execFabricReply (hs : Persists false s₀ s) {id : Nat} {epoch : W16} : PersistsNext false s₀ (execFabricReply id epoch s) := by
  unfold Machine.execFabricReply
  refine .next ?_
  split
  · exact hs
  · split
    · exact hs
    · refine .tryAway ?_
      split
      · exact .same hs
      · exact .request (.same hs)

theorem Persists.reissue (hs : Persists false s₀ s) {p : Part} : Persists false s₀ (s.reissue p) := .again hs

theorem PersistsNext.execPartAbsentRetry (hs : Persists false s₀ s) {p : Part} : PersistsNext false s₀ (execPartAbsentRetry p s) := by
  unfold Machine.execPartAbsentRetry
  refine .next ?_
  split
  · exact .reissue hs
  · exact .foldl (fun _ _ h1 => .logAbsent h1) hs
  · exact hs

theorem PersistsNext.execBulkPromotion (hs : Persists false s₀ s) {link : FabLink} {id : Nat} :
    PersistsNext false s₀ (execBulkPromotion link id s) := by
  unfold Machine.execBulkPromotion
  refine .next ?_
  dsimp only
  split
  · exact .updCnt (.updSlots hs)
  · exact hs

theorem Persists.turnBus (hs : Persists false s₀ s) {t : Transfer} : Persists false s₀ (s.turnBus t) := by
  unfold State.turnBus
  split
  · dsimp only
    split
    · exact hs
    · exact .updCnt (.updRegion hs)
  · exact hs

theorem Persists.sendFlit (hs : Persists false s₀ s) {t : Transfer} : Persists false s₀ (s.sendFlit t) := by
  unfold State.sendFlit
  split
  · exact .updPort hs
  · exact hs

theorem Persists.grants (hs : Persists false s₀ s) {cls : Nat} : Persists false s₀ (s.grants cls) := by
  unfold State.grants
  exact .updSlots (.foldl (fun _ _ h => .sendFlit h) (.foldl (fun _ _ h => .turnBus h) hs))

theorem Persists.tick (hs : Persists false s₀ s) : Persists false s₀ (s.tick) := .same hs

theorem Persists.dropAged (hs : Persists false s₀ s) {unit : Nat} : Persists false s₀ (s.dropAged unit) := .logLimited (.updDarit hs)

theorem Persists.dropOld (hs : Persists false s₀ s) : Persists false s₀ (s.dropOld) := .foldl (fun _ _ h1 => .dropAged h1) (.dropTransfers hs)

theorem PersistsNext.execTimeSlotStart (hs : Persists false s₀ s) : PersistsNext false s₀ (execTimeSlotStart s) :=
  .next (.grants (.dropOld (.updSlots (.tick hs))))

theorem PersistsNext.execSlotTableEffect (hs : Persists false s₀ s) : PersistsNext false s₀ (execSlotTableEffect s) := .next (.updSlots hs)

theorem PersistsNext.execStrobeLost (hs : Persists false s₀ s) : PersistsNext false s₀ (execStrobeLost s) := by
  unfold Machine.execStrobeLost
  refine .next ?_
  split
  · exact hs
  · exact .logEv (.updSlots hs)

theorem PersistsNext.execStrobeReturn (hs : Persists false s₀ s) : PersistsNext false s₀ (execStrobeReturn s) := by
  unfold Machine.execStrobeReturn
  refine .next ?_
  split
  · exact .logEv (.updSlots hs)
  · exact hs

theorem PersistsNext.execSlotTableCommit (hs : Persists false s₀ s) {port : HostPort} : PersistsNext false s₀ (execSlotTableCommit port s) := by
  unfold Machine.execSlotTableCommit
  refine .next ?_
  dsimp only
  split
  · exact .updSlots (.awake hs)
  · exact .awake hs

end Sys2Proof.Machine
end

section
/-! PROOF. What persists: the mover, links, privileged requests, a quench, the mailbox and commit points (04, 16, 17, 19, 22). -/

namespace Sys2Proof.Machine

set_option Elab.async false

variable {ports : Bool} {s₀ s : State}

theorem Persists.copyTile (hs : Persists false s₀ s) {c : CoreId} {k : KsId} {src d : Tile} : Answers (Persists false s₀) (s.copyTile c k src d) :=
  .check fun _ => .check fun _ => (Persists.writeRaw (.noteTile hs))

theorem persistsPlan_ldt {c : CoreId} {k : KsId} {sl : KSlot} {w : W128} : PersistsPlan false s₀ (s.planLdt c k sl w) := by
  unfold State.planLdt
  repeat refine .check fun _ => ?_
  exact .ite .none (.some fun s hs => .copyTile hs)

theorem persistsPlan_ldtWindow {c : CoreId} {k : KsId} {sl : KSlot} {w : W128} : PersistsPlan false s₀ (s.planLdtWindow c k sl w) := by
  unfold State.planLdtWindow
  repeat refine .check fun _ => ?_
  exact .ite .none (.some fun s hs => Answers.check fun _ => .ite (.writeFree hs) (.writeRaw (.noteRows hs)))

theorem Persists.storeAcc (hs : Persists false s₀ s) {c : CoreId} {k : KsId} {base : Nat} {td : Tile} :
    Answers (Persists false s₀) (s.storeAcc c k base td) :=
  .check fun _ => .bind (Persists.writeRaw hs) fun _ h1 => .ok (.addFlags h1)

theorem persistsPlan_stt {c : CoreId} {k : KsId} {sl : KSlot} {w : W128} : PersistsPlan false s₀ (s.planStt c k sl w) := by
  refine .ite ?_ ?_
  · repeat refine .check fun _ => ?_
    exact .ite .none (.some fun s hs => .storeAcc hs)
  · repeat refine .check fun _ => ?_
    exact .ite .none (.some fun s hs => .copyTile hs)

theorem Persists.sendContrib (hs : Persists false s₀ s) {c : CoreId} {k : KsId} {w : W128} {ta : Option Tile} {td : Tile} {g : RegionId} :
    Answers (Persists false s₀) (s.sendContrib c k w ta td g) := by
  refine .check fun _ => .ok (.addFlags ?_)
  cases ta with
  | none => exact hs.same
  | some t => exact (Persists.noteTile hs (c := c) (k := k) (t := t)).same

theorem persistsPlan_contrib {c : CoreId} {k : KsId} {sl : KSlot} {w : W128} : PersistsPlan false s₀ (s.planContrib c k sl w) := by
  refine .check fun _ => .check fun _ => .choice fun _ => ?_
  repeat refine .check fun _ => ?_
  exact .ite .none (.check fun _ => .some fun s hs => .sendContrib hs)

theorem persistsPlan_movt {c : CoreId} {k : KsId} {sl : KSlot} {w : W128} : PersistsPlan false s₀ (s.planMovt c k sl w) := by
  refine .check fun v => .some fun s hs => .ok (.updSlot ?_)
  split
  · exact .noteRange hs
  · exact hs

theorem PersistsAct.touchPage {p : Pool} {q n : Nat} {sq : Seq} {seq lh pn : Nat} : PersistsAct false s₀ (touchPage p q n sq seq lh pn) := by
  unfold Machine.touchPage
  refine .bind .get fun _ => ?_
  split
  · exact .fail
  · split
    · exact .pure
    · refine .bind .choosePage fun _ => ?_
      split
      · dsimp only
        split
        · refine .bind (.mapM fun _ => .popBlock) fun _ => .bind (.modify fun _ h0 => ?_) fun _ => .pure
          split
          · exact .updCnt (.updCmd h0)
          · exact .updCmd h0
        · refine .bind .pure fun _ => .bind (.modify fun _ h0 => ?_) fun _ => .pure
          split
          · exact .updCnt (.updCmd h0)
          · exact .updCmd h0

theorem PersistsAct.putToken {p : Pool} {q n inst age : Nat} {sq : Seq} {args : KvArgs} {values : Bool} {pos : Nat} {scales elems : List Nat} :
    PersistsAct false s₀ (putToken p q n inst age sq args values pos scales elems) :=
  .bind .touchPage fun _ => .bind .need fun _ => .bind (.forIn fun _ _ => .bind .putVirt fun _ => .pure) fun _ => .modify fun _ h0 => .updCmd h0

theorem Persists.applyKvapp (hs : Persists false s₀ s) {c : CoreId} {k : KsId} {w : W128} {a : KvArgs} {ta : Option Tile} {q n : Nat} {sq : Seq}
    {p : Pool} : Answers (Persists false s₀) (s.applyKvapp c k w a ta q n sq p) := by
  have hact (u : State) (hu : Persists false s₀ u) (inst age : Nat) (toks : List (List Nat × List Nat × Flags)) (f : Flags) : Answers (Persists false s₀) (do
      let (_, s) ← (do
        for x in (List.range toks.length).zip toks do
          putToken p q n inst age sq a (wMode w 3) (a.pos + x.1) x.2.1 x.2.2.1 : Act Unit).run u
      return s.addFlags c k f) := by
    have htoks : PersistsAct false s₀ (do
        for x in (List.range toks.length).zip toks do
          putToken p q n inst age sq a (wMode w 3) (a.pos + x.1) x.2.1 x.2.2.1 : Act Unit) :=
      .bind (.forIn fun _ _ => .bind .putToken fun _ => .pure) fun _ => .pure
    exact .bind (htoks.answers hu) fun _ h => .ok (.addFlags h)
  cases ta with
  | none => exact .check fun _ => hact s hs _ _ _ _
  | some t => exact .check fun _ => hact _ (.noteTile hs) _ _ _ _

theorem persistsPlan_kvapp {c : CoreId} {k : KsId} {sl : KSlot} {w : W128} : PersistsPlan false s₀ (s.planKvapp c k sl w) := by
  refine .choice fun ta => .check fun _ => .check fun r => ?_
  repeat refine .check fun _ => ?_
  exact .ite .none (.some fun s hs => .applyKvapp hs)

theorem PersistsAct.gatherPage {p : Pool} {sq : Seq} {own : List AppendPage} {seq inst lh endPos pos : Nat} {values : Bool} :
    PersistsAct false s₀ (gatherPage p sq own seq inst lh endPos pos values) := by
  unfold Machine.gatherPage
  split
  · refine .bind .descend fun _ => ?_
    split
    · split
      · exact .pure
      · exact .fail
    · exact .fail
  · split
    · exact .fail
    · exact .bind .need fun _ => .pure

theorem PersistsAct.readToken {p : Pool} {page : Nat} {values : Bool} {t : Nat} : PersistsAct false s₀ (readToken p page values t) :=
  .bind (.mapM fun _ => .getVirt) fun _ => .pure

theorem Persists.putGather (hs : Persists false s₀ s) {c : CoreId} {k : KsId} {td : Tile} {decode : Bool} {fmt : Nat}
    {toks : List (List Nat × List Nat)} : Answers (Persists false s₀) (s.putGather c k td decode fmt toks) := by
  unfold State.putGather
  split
  · exact Persists.writeNums hs
  · exact Persists.writeRaw hs

theorem PersistsAct.gatherTokens {p : Pool} {sq : Seq} {own : List AppendPage} {inst : Nat} {args : KvArgs} {values : Bool} :
    PersistsAct false s₀ (gatherTokens p sq own inst args values) :=
  .bind .layerEnd fun _ => .mapM fun _ => .bind .gatherPage fun _ => .readToken

theorem persistsPlan_local {c : CoreId} {k : KsId} {sl : KSlot} {w : W128} {a : KvArgs} {td : Tile} {plain : Bool} :
    Answers (fun p : Plan => ∀ u, Persists false s₀ u → Answers (Persists false s₀) (p.apply u)) (s.planLocal c k sl w a td plain) := by
  unfold State.planLocal
  dsimp only
  split
  · exact .error _
  · repeat refine .check fun _ => ?_
    exact .ok fun u hu => .bind (PersistsAct.gatherTokens.answers hu) fun _ h => .putGather h

theorem persistsPlan_gather {c : CoreId} {k : KsId} {sl : KSlot} {w : W128} : PersistsPlan false s₀ (s.planGather c k sl w) := by
  have hplan (p : Plan) (hp : ∀ u, Persists false s₀ u → Answers (Persists false s₀) (p.apply u)) (q r : Bool) (b : Prop) [Decidable b] :
      PersistsPlan false s₀ (do need q stLimit; need r stMalformed; return if b then none else some p) := by
    refine .check fun _ => .check fun _ => ?_
    split
    · exact .none
    · exact .some hp
  refine .check fun td => .check fun _ => .check fun src => .check fun _ => ?_
  cases src with
  | node n => exact .check fun _ => .some fun u hu => .writeRaw (.fresh hu)
  | here => exact Answers.bind persistsPlan_local fun p hp => hplan p hp _ _ _
  | asPeer => exact Answers.bind persistsPlan_local fun p hp => hplan p hp _ _ _

theorem persistsPlan_row {c : CoreId} {k : KsId} {r : RowKind} {sl : KSlot} {w : W128} : PersistsPlan false s₀ (rowPlan s c k r sl w) := by
  cases r with
  | fence | fenceEnd | claim | commit | scalar | branch => exact .none
  | ldt => exact persistsPlan_ldt (sl := sl)
  | ldtGather => exact persistsPlan_gather (sl := sl)
  | ldtWindow => exact persistsPlan_ldtWindow (sl := sl)
  | stt => exact persistsPlan_stt (sl := sl)
  | sttContrib => exact persistsPlan_contrib (sl := sl)
  | movt => exact persistsPlan_movt (sl := sl)
  | kvapp => exact persistsPlan_kvapp (sl := sl)
  | vopTile => exact persistsPlan_vop (sl := sl)
  | window => exact persistsPlan_window (sl := sl)
  | norm => exact persistsPlan_norm (sl := sl)
  | measure => exact persistsPlan_measure (sl := sl)
  | cast => exact persistsPlan_cast (sl := sl)
  | rot => exact persistsPlan_rot (sl := sl)
  | argmax => exact persistsPlan_argmax (sl := sl)
  | gumbel => exact persistsPlan_gumbel (sl := sl)
  | mma => exact persistsPlan_mma (sl := sl)
  | mma3 => exact persistsPlan_mma3 (sl := sl)
  | cmma => exact persistsPlan_cmma (sl := sl)
  | score => exact persistsPlan_score (sl := sl)
  | step => exact persistsPlan_step (sl := sl)

/-- An engine's row, by its plan. -/
theorem PersistsNext.issue (hs : Persists false s₀ s) {c : CoreId} {k : KsId} {r : RowKind} {e : Engine} :
    PersistsNext false s₀ (.next (s.issue c k r e (fun s ns => s.makeResident c k ns) (rowPlan s c k r))) :=
  .next (.issue hs fun _ _ => persistsPlan_row)

theorem Persists.writePcfg (hs : Persists false s₀ s) {p : DaritPort} {v : Nat} : Persists false s₀ (s.writePcfg p v) := .portReset (.updPort hs)

theorem PersistsNext.execPortConfigWrite (hs : Persists false s₀ s) {p : DaritPort} {v : W32} :
    PersistsNext false s₀ (execPortConfigWrite p v s) := by
  unfold Machine.execPortConfigWrite
  refine .next ?_
  dsimp only
  split
  · exact .writePcfg (.awake hs)
  · exact .awake hs

theorem Persists.writeTopology (hs : Persists false s₀ s) {node : Bool} {v : Nat} : Persists false s₀ (s.writeTopology node v) := by
  unfold State.writeTopology
  refine .foldl (fun _ _ h1 => ?_) (.updDarit hs)
  split
  · exact .portReset h1
  · exact h1

theorem PersistsNext.execTopologyWrite (hs : Persists false s₀ s) {node : Bool} {v : W32} : PersistsNext false s₀ (execTopologyWrite node v s) := by
  unfold Machine.execTopologyWrite
  refine .next ?_
  dsimp only
  split
  · exact .writeTopology (.awake hs)
  · exact .awake hs

theorem PersistsNext.execRetrain (hs : Persists false s₀ s) {p : DaritPort} : PersistsNext false s₀ (execRetrain p s) := by
  unfold Machine.execRetrain
  refine .next ?_
  dsimp only
  split
  · exact .portReset (.awake hs)
  · exact .awake hs

theorem PersistsNext.execPortCountersClear (hs : Persists false s₀ s) {p : DaritPort} {v : W32} :
    PersistsNext false s₀ (execPortCountersClear p v s) := by
  unfold Machine.execPortCountersClear
  refine .next ?_
  dsimp only
  split
  · exact .updPort (.awake hs)
  · exact .awake hs

theorem PersistsNext.execAgedCounterClear (hs : Persists false s₀ s) {v : W32} : PersistsNext false s₀ (execAgedCounterClear v s) := by
  unfold Machine.execAgedCounterClear
  refine .next ?_
  dsimp only
  split
  · exact .updDarit (.awake hs)
  · exact .awake hs

theorem Persists.holdPort (hs : Persists false s₀ s) {p : DaritPort} {cause : Nat} {f : DPort → DPort} : Persists false s₀ (s.holdPort p cause f) :=
  .portRests (.logDarit (.updPort hs))

theorem Persists.logLanes (hs : Persists false s₀ s) {p : DaritPort} {f : BitVec 17} : Persists false s₀ (s.logLanes p f) := by
  unfold State.logLanes
  dsimp only
  split
  · refine .logDarit ?_
    split
    · exact .logDarit (.foldl (fun _ _ h1 => .logDarit h1) hs)
    · exact .foldl (fun _ _ h1 => .logDarit h1) hs
  · split
    · exact .logDarit (.foldl (fun _ _ h1 => .logDarit h1) hs)
    · exact .foldl (fun _ _ h1 => .logDarit h1) hs

theorem Persists.learn (hs : Persists false s₀ s) {node : Nat} {inc : W16} : Persists false s₀ (s.learn node inc) := by
  unfold State.learn
  extract_lets changed s1
  have h1 : Persists false s₀ s1 := .updDarit hs
  exact .ite h1.same h1

theorem Persists.routesChanged (hs : Persists false s₀ s) : Persists false s₀ (s.routesChanged) := .tryAway (.unhold (.logDarit hs))

theorem Persists.portUp (hs : Persists false s₀ s) {p : DaritPort} {o : TrainObs} : Persists false s₀ (s.portUp p o) :=
  .quenchMended (.routesChanged (.returnPart (.learn (.updPort hs))))

theorem Persists.trainRef (hs : Persists false s₀ s) : Persists false s₀ (s.trainRef) := by
  unfold State.trainRef
  dsimp only
  split
  · exact .logEv (.same hs)
  · exact .same hs

theorem Persists.trainPort (hs : Persists false s₀ s) {p : DaritPort} {o : TrainObs} : Persists false s₀ (s.trainPort p o) := by
  unfold State.trainPort
  dsimp only
  split
  · exact hs
  · split
    · exact .portRests (.updPort (.trainRef hs))
    · exact .holdPort (.trainRef hs)
    · split
      · exact .holdPort (.logLanes (.trainRef hs))
      · split
        · exact .portUp (.logLanes (.trainRef hs))
        · exact .holdPort (.logLanes (.trainRef hs))

theorem Persists.senseCable (hs : Persists false s₀ s) {p : DaritPort} {o : Cable} : Persists false s₀ (s.senseCable p o) := by
  unfold State.senseCable
  dsimp only
  split
  · split
    · exact .resetPart (.updPort hs)
    · exact .updPort hs
    · exact .updPort hs
  · exact hs

theorem PersistsNext.execCableSense (hs : Persists false s₀ s) {p : DaritPort} {o : Cable} :
    PersistsNext false s₀ (execCableSense p o s) := .next (.senseCable hs)

theorem Persists.loseLane (hs : Persists false s₀ s) {p : DaritPort} {lane : Fin 17} : Persists false s₀ (s.loseLane p lane) := by
  unfold State.loseLane
  dsimp only
  split
  · exact hs
  · split
    · split
      · exact .logDarit (.updPort hs)
      · exact .logDarit (.updPort (.logDarit (.updPort hs)))
    · split
      · exact .logDarit (.updPort hs)
      · split
        · exact .portTo (.logDarit (.updPort hs))
        · exact .logDarit (.portTo (.logDarit (.updPort hs)))

theorem PersistsNext.execLaneFailure (hs : Persists false s₀ s) {p : DaritPort} {lane : Fin 17} : PersistsNext false s₀ (execLaneFailure p lane s) :=
  .next (.loseLane hs)

theorem PersistsNext.execDaritPortFault (hs : Persists false s₀ s) {p : DaritPort} : PersistsNext false s₀ (execDaritPortFault p s) := by
  unfold Machine.execDaritPortFault
  refine .next ?_
  split
  · exact .portReset (.logDarit hs)
  · exact hs

theorem PersistsNext.execFlitReceive (hs : Persists false s₀ s) {p : DaritPort} {seq : BitVec 12} {check : FlitCheck} :
    PersistsNext false s₀ (execFlitReceive p seq check s) := by
  unfold Machine.execFlitReceive
  refine .next ?_
  dsimp only
  split
  · exact hs
  · split <;> exact .updPort (.updPort hs)

theorem Persists.sendOn (hs : Persists false s₀ s) {p q : DaritPort} {f : Frame} {vc : Fin 3} :
    Persists false s₀ (s.sendOn p q f vc) := .send (.same hs)

theorem Persists.forward (hs : Persists false s₀ s) {p : DaritPort} {f : Frame} : Persists false s₀ (s.forward p f) := by
  unfold State.forward
  split
  · exact hs
  · split
    · exact .dropAged hs
    · split
      · split
        · exact hs
        · exact .logAbsent hs
      · split
        · exact .logEv hs
        · split
          · exact hs
          · split
            · exact .sendOn hs
            · exact hs

theorem PersistsNext.execFrameForward (hs : Persists false s₀ s) {p : DaritPort} {f : Frame} : PersistsNext false s₀ (execFrameForward p f s) :=
  .next (.forward (.leaveLow hs))

theorem PersistsNext.execRemoteRequestTimeout (hs : Persists false s₀ s) {id : Nat} : PersistsNext false s₀ (execRemoteRequestTimeout id s) := by
  unfold Machine.execRemoteRequestTimeout
  refine .next ?_
  dsimp only
  split
  · exact hs
  · exact .tryAway (.reissueAway (.updSlots (.same hs)))

theorem PersistsNext.execTrunkStateChange (hs : Persists false s₀ s) {node dim : Nat} {minus up : Bool} :
    PersistsNext false s₀ (execTrunkStateChange node dim minus up s) := by
  unfold Machine.execTrunkStateChange
  refine .next ?_
  split
  · exact hs
  · exact .routesChanged (.updDarit hs)

theorem Persists.serveGather (hs : Persists false s₀ s) {r : RemoteGather} : Answers (fun x => Persists false s₀ x.2.2) (s.serveGather r) := by
  unfold State.serveGather
  split
  · exact .error _
  · exact .check fun _ => .check fun _ => .check fun _ => .check fun _ => .bind (PersistsAct.gatherTokens.answers hs) fun _ h => .ok h

theorem PersistsNext.execRemoteGatherServe (hs : Persists false s₀ s) {r : RemoteGather} : PersistsNext false s₀ (execRemoteGatherServe r s) := by
  unfold Machine.execRemoteGatherServe
  refine .next ?_
  extract_lets s1
  have h1 : Persists false s₀ s1 := .leaveLow hs
  split
  · rename_i g toks s2 e
    have h2 : Persists false s₀ s2 := Persists.serveGather h1 (r := r) (g, toks, s2) e
    exact h2.same
  · rename_i st nt _
    exact (Persists.noteErr h1 (n := nt)).same
  · exact h1.same

theorem Persists.refuseAuth (hs : Persists false s₀ s) {h : SvcHdr} : Persists false s₀ (s.refuseAuth h) := .answer (.logSvc hs)

theorem Persists.testEnd (hs : Persists false s₀ s) {i : Instr} {status unit : Nat} {pass : Bool} :
    Persists false s₀ (s.testEnd i status unit pass) := by
  unfold State.testEnd
  dsimp only
  split
  · refine .answer ?_
    split
    · exact .logSvc hs
    · exact hs
  · refine .updSvc ?_
    split
    · exact .logSvc hs
    · exact hs

theorem Persists.reqEnd (hs : Persists false s₀ s) {i : Instr} {status : Nat} : Persists false s₀ (s.reqEnd i status) := by
  unfold State.reqEnd
  split
  · exact .answer hs
  · exact hs

theorem Persists.askRegion (hs : Persists false s₀ s) {g : RegionId} : Persists false s₀ (s.askRegion g) :=
  .foldl (fun _ _ h1 => .foldl (fun _ _ h2 => .updSlot h2) h1) hs

theorem Persists.unaskRegion (hs : Persists false s₀ s) {g : RegionId} : Persists false s₀ (s.unaskRegion g) :=
  .foldl (fun _ _ h1 => .foldl (fun _ _ h2 => .updSlot h2) h1) hs

theorem Persists.parkRegion (hs : Persists false s₀ s) {g : RegionId} : Persists false s₀ (s.parkRegion g) := .foldl (fun _ _ h1 => .setStatus h1) hs

theorem Persists.beginDrain (hs : Persists false s₀ s) {g : RegionId} : Persists false s₀ (s.beginDrain g) := .askRegion (.parkRegion (.updRegion hs))

theorem Persists.activateNext (hs : Persists false s₀ s) {i : Instr} {left : List Nat} : Persists false s₀ (s.activateNext i left) := by
  unfold State.activateNext
  split
  · exact .reqEnd (.updSvc hs)
  · split
    · exact .reqEnd (.updSvc hs)
    · exact .beginDrain (.updSvc hs)

theorem Persists.commitSvn (hs : Persists false s₀ s) {i : Instr} {kind : Nat} : Persists false s₀ (s.commitSvn i kind) := by
  unfold State.commitSvn
  split
  · exact .reqEnd hs
  · exact .reqEnd (.logSvc (.updFw (.updSvc hs (.raisesSvn (le_max_left _ _)))))

theorem Persists.programFuse (hs : Persists false s₀ s) {i : Instr} {entry : Nat} : Persists false s₀ (s.programFuse i entry) := by
  unfold State.programFuse
  split
  · exact .reqEnd hs
  · split
    · exact .reqEnd hs
    · split
      · exact .reqEnd hs
      · exact .reqEnd (.updSvc hs .addsFuse)

theorem Persists.leaveTrip (hs : Persists false s₀ s) : Persists false s₀ (s.leaveTrip) := .coldStart (.updPwr hs)

theorem Persists.resume (hs : Persists false s₀ s) {i : Instr} : Persists false s₀ (s.resume i) := by
  unfold State.resume
  split
  · exact .reqEnd hs
  · split
    · exact .reqEnd hs
    · exact .reqEnd (.leaveTrip hs)

theorem Persists.checkerOut (hs : Persists false s₀ s) {target : Nat} : Persists false s₀ (s.checkerOut target) := by
  unfold State.checkerOut
  dsimp only
  split
  · exact .updFls (.logSelf hs)
  · split
    · exact .logSelf hs
    · exact .quenchMended (.leaveService (.regionOut (.updRegion (.beginReset (.logSelf hs)))))

theorem Persists.inSlotTest (hs : Persists false s₀ s) {i : Instr} {limit target timeout : Nat} {pass checker : Bool} :
    Persists false s₀ (s.inSlotTest i limit target timeout pass checker) := by
  unfold State.inSlotTest
  split
  · exact .testEnd hs
  · split
    · exact .testEnd hs
    · refine .testEnd ?_
      split
      · exact .checkerOut hs
      · exact hs

theorem Persists.regionTest (hs : Persists false s₀ s) {i : Instr} {kind target timeout : Nat} :
    Persists false s₀ (s.regionTest i kind target timeout) := by
  unfold State.regionTest
  split
  · exact .testEnd hs
  · split
    · exact .testEnd hs
    · split
      · exact .testEnd hs
      · exact .beginDrain (.updSvc hs)

theorem Persists.vectorTest (hs : Persists false s₀ s) {i : Instr} {target timeout : Nat} : Persists false s₀ (s.vectorTest i target timeout) := by
  unfold State.vectorTest
  split
  · exact .testEnd hs
  · dsimp only
    split
    · exact .testEnd hs
    · exact .updCore (.updSvc hs)

theorem Persists.portTest (hs : Persists false s₀ s) {i : Instr} {target timeout : Nat} : Persists false s₀ (s.portTest i target timeout) := by
  unfold State.portTest
  split
  · split
    · exact .testEnd hs
    · dsimp only
      split
      · exact .updSvc (.portReset hs)
      · exact .testEnd (.portReset hs)
  · exact .testEnd hs

theorem Persists.runRequest (hs : Persists false s₀ s) {i : Instr} : Persists false s₀ (s.runRequest i) := by
  unfold State.runRequest
  split
  · split
    · exact .activateNext hs
    · exact .reqEnd hs
  · exact .commitSvn hs
  · exact .reqEnd (.warmReset hs)
  · exact .programFuse hs
  · exact .resume hs
  · exact .inSlotTest hs
  · exact .inSlotTest hs
  · exact .regionTest hs
  · exact .regionTest hs
  · exact .vectorTest hs
  · exact .portTest hs
  · exact hs

theorem Persists.serveGo (hs : Persists false s₀ s) {f : Nat} : Persists false s₀ (serveGo f s) := by
  induction f generalizing s with
  | zero => exact hs
  | succ f ih =>
    unfold Machine.serveGo
    split
    · exact hs
    · exact .ite (ih (.runRequest (.updSvc hs))) hs

theorem Persists.serveNext (hs : Persists false s₀ s) : Persists false s₀ (s.serveNext) := .serveGo hs

theorem Persists.submit (hs : Persists false s₀ s) {i : Instr} : Persists false s₀ (s.submit i) := by
  unfold State.submit
  split
  · exact .runRequest hs
  · split
    · exact .updSvc hs
    · split
      · exact .answer hs
      · exact .testEnd hs

theorem Persists.privileged (hs : Persists false s₀ s) {h : SvcHdr} {sig : SvcSig} {body : List Byte} {w : SvcWhen} {i : Instr} :
    Persists false s₀ (s.privileged h sig body w i) := by
  unfold State.privileged
  refine .svc? hs fun _ h1 => ?_
  split
  · exact .submit h1
  · exact .refuseAuth h1

theorem PersistsNext.execActivate (hs : Persists false s₀ s) {hdr : SvcHdr} {sig : SvcSig} {mask : BitVec 12} {force : Bool} {timeoutMs : Nat} :
    PersistsNext false s₀ (execActivate hdr sig mask force timeoutMs s) :=
  .next (.privileged hs)

theorem PersistsNext.execCommitSvn (hs : Persists false s₀ s) {hdr : SvcHdr} {sig : SvcSig} {kind : Nat} :
    PersistsNext false s₀ (execCommitSvn hdr sig kind s) :=
  .next (.privileged hs)

theorem PersistsNext.execResetPackage (hs : Persists false s₀ s) {hdr : SvcHdr} {sig : SvcSig} : PersistsNext false s₀ (execResetPackage hdr sig s) :=
  .next (.privileged hs)

theorem PersistsNext.execFuseProgram (hs : Persists false s₀ s) {hdr : SvcHdr} {sig : SvcSig} {entry : W64} :
    PersistsNext false s₀ (execFuseProgram hdr sig entry s) :=
  .next (.privileged hs)

theorem PersistsNext.execResume (hs : Persists false s₀ s) {hdr : SvcHdr} {sig : SvcSig} :
    PersistsNext false s₀ (execResume hdr sig s) := .next (.privileged hs)

theorem Persists.mailTest (hs : Persists false s₀ s) {kind target : Nat} {force : Bool} {i : Instr} :
    Persists false s₀ (s.mailTest kind target force i) := by
  unfold State.mailTest
  dsimp only
  split
  · exact .updSvc hs
  · exact .submit (.updSvc (.updSvc hs))

theorem Persists.askTest (hs : Persists false s₀ s) {src : TestSrc} {kind target : Nat} {force : Bool} {timeoutMs : Nat} {i : Instr} :
    Persists false s₀ (s.askTest src kind target force timeoutMs i) := by
  unfold State.askTest
  split
  · split
    · exact .mailTest (.awake hs)
    · exact hs
  · exact .privileged hs

theorem PersistsNext.execTestCheckerPatterns (hs : Persists false s₀ s) {src : TestSrc} {target : Nat} {force : Bool} {timeoutMs : Nat} {pass : Bool} :
    PersistsNext false s₀ (execTestCheckerPatterns src target force timeoutMs pass s) :=
  .next (.askTest hs)

theorem PersistsNext.execTestSensorCalibration (hs : Persists false s₀ s) {src : TestSrc} {target : Nat} {force : Bool} {timeoutMs : Nat}
    {pass : Bool} : PersistsNext false s₀ (execTestSensorCalibration src target force timeoutMs pass s) :=
  .next (.askTest hs)

theorem PersistsNext.execTestSramBist (hs : Persists false s₀ s) {src : TestSrc} {target : Nat} {force : Bool} {timeoutMs : Nat} :
    PersistsNext false s₀ (execTestSramBist src target force timeoutMs s) :=
  .next (.askTest hs)

theorem PersistsNext.execTestStackRetrain (hs : Persists false s₀ s) {src : TestSrc} {target : Nat} {force : Bool} {timeoutMs : Nat} :
    PersistsNext false s₀ (execTestStackRetrain src target force timeoutMs s) :=
  .next (.askTest hs)

theorem PersistsNext.execTestVectorEngine (hs : Persists false s₀ s) {src : TestSrc} {target : Nat} {force : Bool} {timeoutMs : Nat} :
    PersistsNext false s₀ (execTestVectorEngine src target force timeoutMs s) :=
  .next (.askTest hs)

theorem PersistsNext.execTestDaritRetrain (hs : Persists false s₀ s) {src : TestSrc} {target : Nat} {force : Bool} {timeoutMs : Nat} :
    PersistsNext false s₀ (execTestDaritRetrain src target force timeoutMs s) :=
  .next (.askTest hs)

theorem PersistsNext.execTestInvalidKind (hs : Persists false s₀ s) {kind : BitVec 3} : PersistsNext false s₀ (execTestInvalidKind kind s) := by
  unfold Machine.execTestInvalidKind
  refine .next ?_
  split
  · exact hs
  · refine .updSvc hs ?_
    split
    · exact .beside
    · exact .beside

theorem PersistsNext.execRegionDrainComplete (hs : Persists false s₀ s) {g : RegionId} : PersistsNext false s₀ (execRegionDrainComplete g s) := by
  unfold Machine.execRegionDrainComplete
  refine .next ?_
  split
  · exact .beginReset hs
  · exact hs

theorem Persists.endWork (hs : Persists false s₀ s) {status unit : Nat} {pass : Bool} : Persists false s₀ (s.endWork status unit pass) := by
  unfold State.endWork
  split
  · exact .serveNext (.testEnd (.updSvc hs))
  · exact .serveNext (.reqEnd (.updSvc hs))
  · exact hs

theorem PersistsNext.execRegionDrainTimeout (hs : Persists false s₀ s) {g : RegionId} : PersistsNext false s₀ (execRegionDrainTimeout g s) := by
  unfold Machine.execRegionDrainTimeout
  refine .next ?_
  split
  · split
    · exact .beginReset hs
    · exact .endWork (.unaskRegion (.updRegion hs))
  · exact hs

theorem Persists.afterReset (hs : Persists false s₀ s) {g : RegionId} : Persists false s₀ (s.afterReset g) := by
  unfold State.afterReset
  dsimp only
  split
  · exact .updRegion hs
  · split
    · split
      · exact .endWork (.updRegion hs)
      · exact .serveNext (.activateNext (.logSvc (.updRegion hs)))
    · exact .endWork (.updRegion hs)

theorem PersistsNext.execRegionResetEnd (hs : Persists false s₀ s) {g : RegionId} : PersistsNext false s₀ (execRegionResetEnd g s) := by
  unfold Machine.execRegionResetEnd
  refine .next ?_
  split
  · exact hs
  · split
    · exact .afterReset (.finishReset hs ‹_›)
    · exact hs

theorem PersistsNext.execVectorEngineTestEnd (hs : Persists false s₀ s) {c : CoreId} {pass : Bool} :
    PersistsNext false s₀ (execVectorEngineTestEnd c pass s) := by
  unfold Machine.execVectorEngineTestEnd
  refine .next ?_
  split
  · exact .endWork (.updCore hs)
  · exact hs

theorem PersistsNext.execVectorEngineTestTimeout (hs : Persists false s₀ s) {c : CoreId} :
    PersistsNext false s₀ (execVectorEngineTestTimeout c s) := by
  unfold Machine.execVectorEngineTestTimeout
  refine .next ?_
  split
  · exact .endWork (.updCore hs)
  · exact hs

theorem PersistsNext.execPortTraining (hs : Persists false s₀ s) {p : DaritPort} {o : TrainObs} : PersistsNext false s₀ (execPortTraining p o s) := by
  unfold Machine.execPortTraining
  refine .next ?_
  dsimp only
  split
  · split
    · exact .endWork (.trainPort (.awake hs))
    · exact .trainPort (.awake hs)
  · exact .trainPort (.awake hs)

theorem Persists.beginQuench (hs : Persists false s₀ s) {q n : Nat} {cm : Cmd} : Persists false s₀ (s.beginQuench q n cm) := by
  unfold State.beginQuench
  dsimp only
  split
  · exact .endCmd hs
  · split
    · exact .endCmd hs
    · exact .updCmd (.foldl (fun _ _ h1 => .askStop h1) (.updFls hs))

theorem PersistsNext.execSnapshot (hs : Persists false s₀ s) {q n : Nat} : PersistsNext false s₀ (execSnapshot q n s) := by
  unfold Machine.execSnapshot
  refine .next ?_
  split
  · exact hs
  · split
    · exact .requeue hs
    · exact .beginQuench hs

theorem Persists.discardWork (hs : Persists false s₀ s) {cm : Cmd} : Persists false s₀ (s.discardWork cm) := by
  unfold State.discardWork
  split
  · exact .updCmd (.stopInstances hs)
  · split
    · exact .updCmd (.stopRounds hs)
    · exact hs

theorem Persists.drainSamples (hs : Persists false s₀ s) {scope : Bool} {ctx : Nat} : Persists false s₀ (s.drainSamples scope ctx) := .same hs

theorem PersistsNext.execQuenchDrainEnd (hs : Persists false s₀ s) : PersistsNext false s₀ (execQuenchDrainEnd s) := by
  unfold Machine.execQuenchDrainEnd
  refine .next ?_
  split
  · split
    · exact hs
    · exact .updFls (.drainSamples (.foldl (fun _ _ h => .discardWork h) hs))
  · exact hs

theorem PersistsNext.execQuenchCaptureEnd (hs : Persists false s₀ s) : PersistsNext false s₀ (execQuenchCaptureEnd s) := by
  unfold Machine.execQuenchCaptureEnd
  refine .next ?_
  split
  · split
    · exact hs
    · exact .updFls hs
  · exact hs

theorem Persists.commitSnapshot (hs : Persists false s₀ s) {z : Quench} {img : SnapImg} : Persists false s₀ (s.commitSnapshot z img) := by
  unfold State.commitSnapshot
  refine .serveNext (.updCmd (.updFls hs))

theorem PersistsNext.execQuenchWriteEnd (hs : Persists false s₀ s) : PersistsNext false s₀ (execQuenchWriteEnd s) := by
  unfold Machine.execQuenchWriteEnd
  refine .next ?_
  split
  · split
    · exact .commitSnapshot hs
    · exact hs
  · exact hs

theorem Persists.updMbox (hs : Persists false s₀ s) {h : HostPort} {f : Mailbox → Mailbox} : Persists false s₀ (s.updMbox h f) := .same hs

theorem Persists.mailEnd (hs : Persists false s₀ s) {h : HostPort} {status result : Nat} :
    Persists false s₀ (s.mailEnd h status result) := .updMbox hs

theorem Persists.mailWait (hs : Persists false s₀ s) {h : HostPort} {i : Instr} : Persists false s₀ (s.mailWait h i) := .updMbox hs

theorem Persists.mailBehind (hs : Persists false s₀ s) {h : HostPort} {i : Instr} : Persists false s₀ (s.mailBehind h i) := .updMbox hs

theorem Persists.noteHostRead (hs : Persists false s₀ s) {h : HostPort} {rd : HostRead} : Persists false s₀ (s.noteHostRead h rd) := by
  unfold State.noteHostRead
  split
  · exact .logEv (.anyHif hs)
  · exact hs

theorem Persists.setOwner (hs : Persists false s₀ s) {cs : List CoreId} {o : Option Nat} : Persists false s₀ (s.setOwner cs o) :=
  .foldl (fun _ _ h1 => .updCore h1) hs

theorem Persists.parkOff (hs : Persists false s₀ s) {cs : List CoreId} {ctx : Nat} : Persists false s₀ (s.parkOff cs ctx) := by
  unfold State.parkOff
  refine .foldl (fun _ _ h1 => ?_) hs
  split
  · exact .setStatus h1
  · exact h1

theorem Persists.addCtx (hs : Persists false s₀ s) {d : CtxDesc} : Persists false s₀ (s.addCtx d) := .same hs

theorem Persists.ctxDrain (hs : Persists false s₀ s) {h : HostPort} {i : Instr} {d : CtxDesc} : Persists false s₀ (s.ctxDrain h i d) := by
  unfold State.ctxDrain
  dsimp only
  split
  · exact .mailEnd (.addCtx (.parkOff hs))
  · exact .mailWait (.parkOff hs)

theorem Persists.ctxCreate (hs : Persists false s₀ s) {h : HostPort} {i : Instr} {rd : HostRead} : Persists false s₀ (s.ctxCreate h i rd) := by
  unfold State.ctxCreate
  split
  · exact .mailEnd (.noteHostRead hs)
  · dsimp only
    split
    · exact .mailEnd hs
    · split
      · exact .mailEnd hs
      · split
        · exact .mailEnd hs
        · split
          · exact .mailEnd (.addCtx hs)
          · split
            · exact .ctxDrain hs
            · split
              · exact .mailEnd hs
              · exact .ctxDrain (.setOwner hs)

theorem Persists.dropCtx (hs : Persists false s₀ s) {ctx : Nat} : Persists false s₀ (s.dropCtx ctx) := by
  unfold State.dropCtx
  exact .same (.foldl (fun _ _ h1 => .eraseCoil h1) (.setOwner (.stopSamples hs)))

theorem Persists.ctxDestroy (hs : Persists false s₀ s) {h : HostPort} : Persists false s₀ (s.ctxDestroy h) := by
  unfold State.ctxDestroy
  dsimp only
  split
  · exact .mailEnd hs
  · split
    · exact .mailEnd hs
    · split
      · exact .mailEnd hs
      · exact .mailEnd (.dropCtx hs)

theorem Persists.writeStatus (hs : Persists false s₀ s) {q : Nat} : Persists false s₀ (s.writeStatus q) := by
  unfold State.writeStatus
  split
  · exact hs
  · split
    · exact (Persists.writeVirt hs) _ ‹_›
    · exact .holdWrite hs

theorem Persists.queueCreate (hs : Persists false s₀ s) {h : HostPort} {i : Instr} {rd : HostRead} : Persists false s₀ (s.queueCreate h i rd) := by
  unfold State.queueCreate
  split
  · exact .mailEnd (.noteHostRead hs)
  · dsimp only
    split
    · exact .mailEnd hs
    · split
      · exact .mailEnd hs
      · split
        · exact .mailEnd hs
        · split
          · exact .mailEnd hs
          · split
            · exact .mailWait hs
            · exact .mailEnd (.writeStatus (.same hs))

theorem Persists.abandonQuench (hs : Persists false s₀ s) {q n : Nat} : Persists false s₀ (s.abandonQuench q n) := by
  unfold State.abandonQuench
  split
  · split
    · exact .serveNext (.updFls hs)
    · exact hs
  · exact hs

theorem Persists.cancelOne (hs : Persists false s₀ s) {h : HostPort} {q n : Nat} :
    Persists false s₀ (s.cancelOne h q n) := .endWith (.abandonQuench hs)

theorem Persists.cancelUpTo (hs : Persists false s₀ s) {h : HostPort} {q upTo : Nat} : Persists false s₀ (s.cancelUpTo h q upTo) :=
  .foldl (fun _ _ h1 => .cancelOne h1) hs

theorem Persists.cancelOp (hs : Persists false s₀ s) {h : HostPort} {i : Instr} : Persists false s₀ (s.cancelOp h i) := by
  unfold State.cancelOp
  extract_lets q s1
  split
  · exact .mailEnd hs
  · have h1 : Persists false s₀ s1 := .ite hs (.cancelUpTo (.updMbox hs))
    exact .ite (.mailWait h1) (.mailEnd h1)

theorem Persists.dropOwed (hs : Persists false s₀ s) {cm : Cmd} : Persists false s₀ (s.dropOwed cm) := by
  unfold State.dropOwed
  split
  · exact hs
  · exact .updCmd (.releaseHolds hs)

theorem Persists.freeQueue (hs : Persists false s₀ s) {q : Nat} {h : HostPort} {i : Instr} : Persists false s₀ (s.freeQueue q h i) := by
  unfold State.freeQueue
  dsimp only
  split
  · exact .mailWait (.writeStatus (.updQueue hs))
  · exact .mailEnd (.roleEffects (.same (.writeStatus (.updQueue hs))))

theorem Persists.queueDestroy (hs : Persists false s₀ s) {h : HostPort} {i : Instr} : Persists false s₀ (s.queueDestroy h i) := by
  unfold State.queueDestroy
  extract_lets q s1 s2 s3
  split
  · exact .mailEnd hs
  · have h1 : Persists false s₀ s1 := .ite hs (.cancelUpTo (.writeStatus (.updQueue hs)))
    have h2 : Persists false s₀ s2 := .settleQueue h1
    have h3 : Persists false s₀ s3 := .runCulls (.foldl (fun _ _ h => .dropOwed h) h2)
    exact .ite (.mailWait h3) (.freeQueue h3)

theorem Persists.invalidate (hs : Persists false s₀ s) {ctx first pages : Nat} : Persists false s₀ (s.invalidate ctx first pages) := .same hs

theorem Persists.invalidateOp (hs : Persists false s₀ s) {h : HostPort} : Persists false s₀ (s.invalidateOp h) := by
  unfold State.invalidateOp
  dsimp only
  split
  · exact .mailEnd hs
  · split
    · exact .mailEnd hs
    · split
      · exact .mailEnd hs
      · exact .mailEnd (.invalidate hs)

theorem Persists.queryOp (hs : Persists false s₀ s) {h : HostPort} : Persists false s₀ (s.queryOp h) := by
  unfold State.queryOp
  dsimp only
  split <;> exact .mailEnd hs

theorem Persists.runMail (hs : Persists false s₀ s) {i : Instr} : Persists false s₀ (s.runMail i) := by
  unfold State.runMail
  split
  · exact .ctxCreate hs
  · exact .ctxDestroy hs
  · exact .queueCreate hs
  · exact .queueDestroy hs
  · exact .invalidateOp hs
  · exact .cancelOp hs
  · exact .queryOp hs
  · exact hs

theorem Persists.nextMail (hs : Persists false s₀ s) {h : HostPort} : Persists false s₀ (s.nextMail h) := by
  unfold State.nextMail
  dsimp only
  split
  · exact .runMail hs
  · exact hs

theorem Persists.mail (hs : Persists false s₀ s) {h : HostPort} {op : Nat} {i : Instr} : Persists false s₀ (s.mail h op i) := by
  unfold State.mail
  dsimp only
  split
  · exact hs
  · split
    · split
      · exact .nextMail (.runMail hs)
      · exact hs
    · split
      · exact .mailBehind (.updMbox hs)
      · exact .runMail (.updMbox hs)

theorem PersistsNext.execCtxCreate (hs : Persists false s₀ s) {h : HostPort} {rd : HostRead} : PersistsNext false s₀ (execCtxCreate h rd s) :=
  .next (.mail (.awake hs))

theorem PersistsNext.execCtxDestroy (hs : Persists false s₀ s) {h : HostPort} :
    PersistsNext false s₀ (execCtxDestroy h s) := .next (.mail (.awake hs))

theorem PersistsNext.execQueueCreate (hs : Persists false s₀ s) {h : HostPort} {rd : HostRead} : PersistsNext false s₀ (execQueueCreate h rd s) :=
  .next (.mail (.awake hs))

theorem PersistsNext.execQueueDestroy (hs : Persists false s₀ s) {h : HostPort} :
    PersistsNext false s₀ (execQueueDestroy h s) := .next (.mail (.awake hs))

theorem PersistsNext.execInvalidate (hs : Persists false s₀ s) {h : HostPort} :
    PersistsNext false s₀ (execInvalidate h s) := .next (.mail (.awake hs))

theorem PersistsNext.execCancel (hs : Persists false s₀ s) {h : HostPort} : PersistsNext false s₀ (execCancel h s) := .next (.mail (.awake hs))

theorem PersistsNext.execQuery (hs : Persists false s₀ s) {h : HostPort} : PersistsNext false s₀ (execQuery h s) := .next (.mail (.awake hs))

theorem PersistsNext.execAdmInvalidOp (hs : Persists false s₀ s) {h : HostPort} {op : BitVec 4} :
    PersistsNext false s₀ (execAdmInvalidOp h op s) := by
  unfold Machine.execAdmInvalidOp
  refine .next ?_
  dsimp only
  split
  · exact .awake hs
  · exact .updMbox (.awake hs)

theorem PersistsNext.execCtxCreateDrainTimeout (hs : Persists false s₀ s) {h : HostPort} : PersistsNext false s₀ (execCtxCreateDrainTimeout h s) := by
  unfold Machine.execCtxCreateDrainTimeout
  refine .next ?_
  split
  · split
    · dsimp only
      split
      · exact hs
      · exact .nextMail (.mailEnd (.setOwner hs))
    · exact hs
  · exact hs

theorem PersistsAct.checkHead {p : Pool} {root lh : Nat} {ps : List AppendPage} : PersistsAct false s₀ (checkHead p root lh ps) :=
  .bind .layerEnd fun _ => .bind .need fun _ => .bind .need fun _ => .pure

theorem PersistsAct.checkAppends {p : Pool} {sq : Seq} {ps : List AppendPage} : PersistsAct false s₀ (checkAppends p sq ps) :=
  .mapM fun _ => .bind .checkHead fun _ => .pure

theorem PersistsAct.linkAppends {p : Pool} {ps : List AppendPage} {ends : List (Nat × Nat)} {a : AppendAcc} :
    PersistsAct false s₀ (linkAppends p ps ends a) :=
  .foldlM fun _ _ => .foldlM fun _ _ => .bind .commitPage fun _ => .pure

theorem PersistsAct.commitTarget {ctx : Nat} {cm : Cmd} {id : Nat} : PersistsAct false s₀ (commitTarget ctx cm id) := by
  unfold Machine.commitTarget
  refine .bind .get fun _ => ?_
  split
  · exact .pure
  · dsimp only
    split
    · exact .bind (.modify fun _ h0 => .updSeq h0) fun _ => .pure
    · exact .bind .poolAt fun _ => .bind .checkAppends fun _ => .bind .linkAppends fun _ => .bind .treeLength fun _ => .bind (.modify fun _ h0 =>
        .updCnt (.updSeq h0)) fun _ => .pure

theorem PersistsAct.checkTarget {ctx : Nat} {cm : Cmd} {id : Nat} : PersistsAct false s₀ (checkTarget ctx cm id) := by
  unfold Machine.checkTarget
  refine .bind .get fun _ => ?_
  split
  · exact .pure
  · dsimp only
    split
    · exact .pure
    · exact .bind .poolAt fun _ => .bind .checkAppends fun _ => .pure

theorem PersistsAct.commitAppends {ctx : Nat} {cm : Cmd} : PersistsAct false s₀ (commitAppends ctx cm) :=
  .bind (.forIn fun _ _ => .bind .checkTarget fun _ => .pure) fun _ => .bind (.mapM fun _ => .commitTarget) fun _ => .pure

theorem Persists.commitKernel (hs : Persists false s₀ s) {q n : Nat} {cm : Cmd} : Persists false s₀ (s.commitKernel q n cm) := by
  unfold State.commitKernel
  dsimp only
  split
  · exact .endCmd (.same (PersistsAct.keeps .commitAppends hs ‹_›))
  · exact .failCmd (.noteErr hs)
  · exact .logAbsent hs
  · exact hs
  · exact .cmdErr hs

theorem Persists.commitRoundCmd (hs : Persists false s₀ s) {q n : Nat} {cm : Cmd} : Persists false s₀ (s.commitRoundCmd q n cm) := by
  unfold State.commitRoundCmd
  split
  · exact .endCmd (PersistsAct.keeps .commitRound hs ‹_›)
  · exact .failCmd (.noteErr hs)
  · exact .logAbsent hs
  · exact hs
  · exact .cmdErr hs

theorem PersistsNext.execCommandCommit (hs : Persists false s₀ s) {q n : Nat} : PersistsNext false s₀ (execCommandCommit q n s) := by
  unfold Machine.execCommandCommit
  refine .next ?_
  split
  · exact hs
  · split
    · exact hs
    · split
      · exact .instancesEnd hs
      · split
        · exact hs
        · split
          · exact .commitKernel hs
          · split
            · exact .commitRoundCmd hs
            · split
              · exact .failCmd hs
              · exact .endCmd (.commitFlash hs)

end Sys2Proof.Machine
end

section
/-! PROOF. What persists: power, the module, snapshot transfers, host ports and device time (17, 20, 21, 23). -/

namespace Sys2Proof.Machine

set_option Elab.async false

variable {ports : Bool} {s₀ s : State}

theorem PersistsNext.execGlowEntry (hs : Persists false s₀ s) : PersistsNext false s₀ (execGlowEntry s) := by
  unfold Machine.execGlowEntry
  refine .next ?_
  split
  · exact .setPower hs
  · exact hs

theorem PersistsNext.execEmberEntry (hs : Persists false s₀ s) : PersistsNext false s₀ (execEmberEntry s) := by
  unfold Machine.execEmberEntry
  refine .next ?_
  split
  · exact .setPower hs
  · exact hs

theorem PersistsNext.execLowPowerWake (hs : Persists false s₀ s) : PersistsNext false s₀ (execLowPowerWake s) := .next (.leaveLow hs)

theorem Persists.requestAsh (hs : Persists false s₀ s) : Persists false s₀ (s.requestAsh) := by
  unfold State.requestAsh
  dsimp only
  split
  · exact .enterAsh (.updPwr hs)
  · exact .updPwr hs

theorem PersistsNext.execAshRequest (hs : Persists false s₀ s) : PersistsNext false s₀ (execAshRequest s) := by
  unfold Machine.execAshRequest
  refine .next ?_
  dsimp only
  split
  · exact .requestAsh (.awake hs)
  · exact .awake hs

theorem Persists.unpower (hs : Persists false s₀ s) : Persists false s₀ (s.unpower) := by
  unfold State.unpower
  exact .updPwr (.same (.bare hs))

theorem Persists.enterCold (hs : Persists false s₀ s) : Persists false s₀ (s.enterCold) := .setPower (.updPwr (.unpower hs))

theorem Persists.requestCold (hs : Persists false s₀ s) : Persists false s₀ (s.requestCold) := by
  unfold State.requestCold
  split
  · exact .updPwr hs
  · dsimp only
    split
    · exact .enterCold (.updPwr hs)
    · exact .updPwr hs

theorem PersistsNext.execColdRequest (hs : Persists false s₀ s) : PersistsNext false s₀ (execColdRequest s) := by
  unfold Machine.execColdRequest
  refine .next ?_
  dsimp only
  split
  · exact .requestCold (.awake hs)
  · exact .awake hs

theorem PersistsNext.execPowerRequestTimeout (hs : Persists false s₀ s) : PersistsNext false s₀ (execPowerRequestTimeout s) := by
  unfold Machine.execPowerRequestTimeout
  refine .next ?_
  split
  · exact hs
  · split
    · exact .updPwr hs
    · split
      · exact .enterAsh hs
      · exact .enterCold hs

theorem PersistsNext.execAshWake (hs : Persists false s₀ s) : PersistsNext false s₀ (execAshWake s) := .next (.awake hs)

theorem PersistsNext.execColdWake (hs : Persists false s₀ s) : PersistsNext false s₀ (execColdWake s) := by
  unfold Machine.execColdWake
  refine .next ?_
  split
  · exact .leaveCold hs
  · exact hs

theorem PersistsNext.execPowerSample (hs : Persists false s₀ s) {watts : Nat} : PersistsNext false s₀ (execPowerSample watts s) := by
  refine .next (.ite (.fresh (.updPwr hs)) hs)

theorem Persists.repoint (hs : Persists false s₀ s) : Persists false s₀ (s.repoint) := .foldl (fun _ _ h1 => .updCore h1) hs

theorem Persists.stepCeil (hs : Persists false s₀ s) : Persists false s₀ (s.stepCeil) := by
  unfold State.stepCeil
  extract_lets was s1
  have h1 : Persists false s₀ s1 := .repoint (.updPwr hs)
  exact .ite (.logPower h1) h1

theorem PersistsNext.execCeilingStep (hs : Persists false s₀ s) : PersistsNext false s₀ (execCeilingStep s) := by
  unfold Machine.execCeilingStep
  refine .next ?_
  split
  · exact .stepCeil hs
  · exact hs

theorem PersistsNext.execAnvilTokenGrant (hs : Persists false s₀ s) {c : CoreId} : PersistsNext false s₀ (execAnvilTokenGrant c s) := by
  unfold Machine.execAnvilTokenGrant
  refine .next ?_
  split
  · exact .updCore hs
  · exact hs

theorem PersistsNext.execHintStart (hs : Persists false s₀ s) {id : Nat} : PersistsNext false s₀ (execHintStart id s) :=
  .next (.repoint (.updPwr hs))

theorem PersistsNext.execHintEnd (hs : Persists false s₀ s) {id : Nat} : PersistsNext false s₀ (execHintEnd id s) := .next (.updPwr hs)

theorem PersistsNext.execHintEarlyEnd (hs : Persists false s₀ s) {id : Nat} : PersistsNext false s₀ (execHintEarlyEnd id s) := by
  unfold Machine.execHintEarlyEnd
  refine .next ?_
  split
  · exact .updPwr hs
  · exact hs

theorem PersistsNext.execDroopTrip (hs : Persists false s₀ s) {island : Fin 200} {deep : Bool} :
    PersistsNext false s₀ (execDroopTrip island deep s) :=
  .next (.updPwr hs)

theorem PersistsNext.execDroopRecover (hs : Persists false s₀ s) {island : Fin 200} :
    PersistsNext false s₀ (execDroopRecover island s) := .next (.updPwr hs)

theorem Persists.droopFault (hs : Persists false s₀ s) {i : Fin 200} : Persists false s₀ (s.droopFault i) := by
  unfold State.droopFault
  extract_lets s1
  have h1 : Persists false s₀ s1 := .updPwr (.logPower hs)
  exact .ite (.coreFault h1) (.ite (.dieFault h1) (.warmReset h1))

theorem PersistsNext.execDroopFault (hs : Persists false s₀ s) {island : Fin 200} : PersistsNext false s₀ (execDroopFault island s) := by
  unfold Machine.execDroopFault
  refine .next ?_
  split
  · exact .droopFault hs
  · exact hs

theorem Persists.stackTemp (hs : Persists false s₀ s) {g : RegionId} {t : Nat} : Persists false s₀ (s.stackTemp g t) := .updPwr (.updRegion hs)

theorem Persists.dieTemp (hs : Persists false s₀ s) {d : DieId} {t : Nat} {temps : List Nat} : Persists false s₀ (s.dieTemp d t temps) := by
  unfold State.dieTemp
  extract_lets was s1 s2
  have h1 : Persists false s₀ s1 := .repoint (.updPwr hs)
  have h2 : Persists false s₀ s2 := .foldl (fun _ _ h => .stackTemp h) h1
  exact .ite (.logPower h2) h2

theorem Persists.thermal (hs : Persists false s₀ s) {die : Fin 5} {t : Nat} {temps : List Nat} : Persists false s₀ (s.thermal die t temps) := by
  unfold State.thermal
  dsimp only
  split
  · split
    · exact .dieTemp (.updPwr hs)
    · exact .updPwr hs
  · exact .updPwr hs

theorem PersistsNext.execThermalSample (hs : Persists false s₀ s) {die : Fin 5} {hottestDc : Nat} {stackDc : List Nat} :
    PersistsNext false s₀ (execThermalSample die hottestDc stackDc s) :=
  .next (.thermal hs)

theorem Persists.trip (hs : Persists false s₀ s) : Persists false s₀ (s.trip) := by
  unfold State.trip
  obtain ⟨_, hpend, _, hlog⟩ := Persists.unpower (.logPower (cause := 3) (unit := wholeUnit) hs)
  exact ⟨(nomatch ·), hpend, hs.fused.trans .beside, hlog⟩

theorem PersistsNext.execThermalTrip (hs : Persists false s₀ s) : PersistsNext false s₀ (execThermalTrip s) := by
  unfold Machine.execThermalTrip
  refine .next ?_
  split
  · exact hs
  · exact .trip hs

theorem Persists.coolant (hs : Persists false s₀ s) {inletDc flowCl : Nat} : Persists false s₀ (s.coolant inletDc flowCl) := by
  unfold State.coolant
  dsimp only
  split
  · exact .logPower (.updPwr hs)
  · exact .updPwr hs

theorem PersistsNext.execCoolantSample (hs : Persists false s₀ s) {inletDc flowCl : Nat} :
    PersistsNext false s₀ (execCoolantSample inletDc flowCl s) :=
  .next (.coolant hs)

theorem PersistsNext.execCoolantWarnEnd (hs : Persists false s₀ s) : PersistsNext false s₀ (execCoolantWarnEnd s) := by
  unfold Machine.execCoolantWarnEnd
  refine .next ?_
  split
  · exact hs
  · exact .updPwr hs

theorem PersistsNext.execMarginAdjust (hs : Persists false s₀ s) {slacks : List Nat} : PersistsNext false s₀ (execMarginAdjust slacks s) := by
  unfold Machine.execMarginAdjust
  refine .next ?_
  split
  · exact .fresh (.updPwr hs)
  · exact hs

theorem PersistsNext.execMarginModeWrite (hs : Persists false s₀ s) {v : W32} : PersistsNext false s₀ (execMarginModeWrite v s) := by
  unfold Machine.execMarginModeWrite
  refine .next ?_
  dsimp only
  split
  · exact .updPwr (.awake hs)
  · exact .awake hs

theorem PersistsNext.execEnergyAttribution (hs : Persists false s₀ s) {cores parts : List (Nat × Nat)} :
    PersistsNext false s₀ (execEnergyAttribution cores parts s) :=
  .next ⟨(nomatch ·), hs.pending, hs.fused, hs.log⟩

theorem Persists.logModule (hs : Persists false s₀ s) {cause unit : Nat} : Persists false s₀ (s.logModule cause unit) := .logEv hs

theorem Persists.updFeed (hs : Persists false s₀ s) {f : Feed} {g : FeedState → FeedState} : Persists false s₀ (s.updFeed f g) := .updPwr hs

theorem Persists.loseFeed (hs : Persists false s₀ s) {f : Feed} {why : FeedState → FeedState} : Persists false s₀ (s.loseFeed f why) := by
  unfold State.loseFeed
  dsimp only
  split
  · exact .logPower (.updPwr (.updFeed hs))
  · exact .updPwr (.updFeed hs)

theorem PersistsNext.execFeedFailure (hs : Persists false s₀ s) {f : Feed} : PersistsNext false s₀ (execFeedFailure f s) := by
  unfold Machine.execFeedFailure
  refine .next ?_
  split
  · exact .loseFeed hs
  · exact hs

theorem PersistsNext.execFeedReturn (hs : Persists false s₀ s) {f : Feed} :
    PersistsNext false s₀ (execFeedReturn f s) := .next (.updPwr (.updFeed hs))

theorem PersistsNext.execFeedOvervoltage (hs : Persists false s₀ s) {f : Feed} : PersistsNext false s₀ (execFeedOvervoltage f s) :=
  .next (.logModule (.loseFeed hs))

theorem PersistsNext.execFeedReversePolarity (hs : Persists false s₀ s) {f : Feed} : PersistsNext false s₀ (execFeedReversePolarity f s) :=
  .next (.logModule (.loseFeed hs))

theorem PersistsNext.execFeedShort (hs : Persists false s₀ s) {f : Feed} : PersistsNext false s₀ (execFeedShort f s) := .next (.loseFeed hs)

theorem Persists.powerUp (hs : Persists false s₀ s) {env : StartEnv} : Persists false s₀ (s.powerUp env) := by
  unfold State.powerUp
  extract_lets s1 s2 s3
  have h1 : Persists false s₀ s1 := .updPwr hs
  have h2 : Persists false s₀ s2 := .ite h1 (.logModule h1)
  have h3 : Persists false s₀ s3 := h2.same
  exact .ite h3 (.coldStart (.updPwr h3))

theorem PersistsNext.execPowerGood (hs : Persists false s₀ s) {env : StartEnv} : PersistsNext false s₀ (execPowerGood env s) := by
  unfold Machine.execPowerGood
  refine .next ?_
  split
  · exact .powerUp hs
  · exact hs

theorem PersistsNext.execPowerLoss (hs : Persists false s₀ s) : PersistsNext false s₀ (execPowerLoss s) := by
  unfold Machine.execPowerLoss
  refine .next ?_
  split
  · exact hs
  · exact .unpower hs

theorem Persists.lose (hs : Persists false s₀ s) : Persists false s₀ (s.lose) := by
  unfold State.lose
  refine .updPwr ?_
  exact ⟨(nomatch ·), hs.pending, hs.fused.trans .beside, fun _ => Nat.zero_le _⟩

theorem PersistsNext.execPowerRemoved (hs : Persists false s₀ s) : PersistsNext false s₀ (execPowerRemoved s) := by
  unfold Machine.execPowerRemoved
  refine .next ?_
  split
  · exact hs
  · exact .lose hs

theorem Persists.updTim (hs : Persists false s₀ s) {f : TimeBase → TimeBase} : Persists false s₀ (s.updTim f) := .same hs

theorem Persists.losePps (hs : Persists false s₀ s) : Persists false s₀ (s.losePps) := by
  unfold State.losePps
  dsimp only
  split
  · exact .logModule (.updTim hs)
  · exact .updTim hs

theorem Persists.loseTen (hs : Persists false s₀ s) : Persists false s₀ (s.loseTen) := by
  unfold State.loseTen
  dsimp only
  split
  · exact .logModule (.updTim hs)
  · exact .updTim hs

theorem Persists.clockInput (hs : Persists false s₀ s) {i : ClockInput} {present : Bool} : Persists false s₀ (s.clockInput i present) := by
  unfold State.clockInput
  split
  · exact .updTim hs
  · exact .updTim hs
  · split
    · exact .updTim hs
    · exact .losePps hs
  · split
    · exact .updTim hs
    · exact .loseTen hs

theorem PersistsNext.execClockInputChange (hs : Persists false s₀ s) {i : ClockInput} {present : Bool} :
    PersistsNext false s₀ (execClockInputChange i present s) :=
  .next (.clockInput hs)

theorem Persists.smb (hs : Persists false s₀ s) {bytes : List Byte} : Persists false s₀ (s.smb bytes) := by
  unfold State.smb
  split
  · exact .same hs
  · exact hs

theorem PersistsNext.execPage (hs : Persists false s₀ s) {write : Option Byte} : PersistsNext false s₀ (execPage write s) := by
  unfold Machine.execPage
  refine .next ?_
  split
  · exact .smb hs
  · split
    · exact .updPwr hs
    · exact hs

theorem PersistsNext.execClearFaults (hs : Persists false s₀ s) : PersistsNext false s₀ (execClearFaults s) := by
  unfold Machine.execClearFaults
  refine .next ?_
  split
  · exact .updPwr hs
  · exact hs

theorem PersistsNext.execStatusWord (hs : Persists false s₀ s) : PersistsNext false s₀ (execStatusWord s) := .next (.smb hs)

theorem PersistsNext.execStatusInput (hs : Persists false s₀ s) : PersistsNext false s₀ (execStatusInput s) := by
  unfold Machine.execStatusInput
  refine .next ?_
  split
  · exact .updPwr (.smb hs)
  · exact hs

theorem PersistsNext.execReadEin (hs : Persists false s₀ s) : PersistsNext false s₀ (execReadEin s) := .next (.smb hs)

theorem PersistsNext.execReadVin (hs : Persists false s₀ s) : PersistsNext false s₀ (execReadVin s) := .next (.smb hs)

theorem PersistsNext.execReadIin (hs : Persists false s₀ s) : PersistsNext false s₀ (execReadIin s) := .next (.smb hs)

theorem PersistsNext.execReadTemperature1 (hs : Persists false s₀ s) : PersistsNext false s₀ (execReadTemperature1 s) := .next (.smb hs)

theorem PersistsNext.execReadPin (hs : Persists false s₀ s) : PersistsNext false s₀ (execReadPin s) := .next (.smb hs)

theorem PersistsNext.execPmbusRevision (hs : Persists false s₀ s) : PersistsNext false s₀ (execPmbusRevision s) := .next (.smb hs)

theorem PersistsNext.execMfrId (hs : Persists false s₀ s) : PersistsNext false s₀ (execMfrId s) := .next (.smb hs)

theorem PersistsNext.execMfrModel (hs : Persists false s₀ s) : PersistsNext false s₀ (execMfrModel s) := .next (.smb hs)

theorem PersistsNext.execMfrWake (hs : Persists false s₀ s) : PersistsNext false s₀ (execMfrWake s) := by
  unfold Machine.execMfrWake
  refine .next ?_
  split
  · exact .leaveCold hs
  · split
    · exact .leaveTrip hs
    · exact hs

theorem PersistsNext.execSmbusRefused (hs : Persists false s₀ s) {code : Byte} : PersistsNext false s₀ (execSmbusRefused code s) := by
  unfold Machine.execSmbusRefused
  refine .next ?_
  split
  · exact .logLimited (.updPwr hs)
  · exact hs

theorem PersistsNext.execAlertResponse (hs : Persists false s₀ s) : PersistsNext false s₀ (execAlertResponse s) := by
  unfold Machine.execAlertResponse
  refine .next ?_
  split
  · exact .smb hs
  · exact hs

theorem Persists.xDone (hs : Persists ports s₀ s) {op status : Nat} : Persists ports s₀ (s.xDone op status) := .updFls hs

theorem Persists.exportRange (hs : Persists ports s₀ s) : Persists ports s₀ (s.exportRange) := by
  unfold State.exportRange
  extract_lets f z bs s1
  have h1 : Persists ports s₀ s1 := .updFls hs
  exact .ite (.xDone hs) (.ite (.updFls hs) (.xDone (.same h1)))

theorem Persists.importEnd (hs : Persists ports s₀ s) {i : Fin 16} {z : Snap} : Persists ports s₀ (s.importEnd i z) := by
  unfold State.importEnd
  split <;> exact .xDone (.updFls hs)

theorem Persists.importTake (hs : Persists ports s₀ s) {i : Fin 16} {z : Snap} : Persists ports s₀ (s.importTake i z) := by
  unfold State.importTake
  extract_lets f bs z1 s1
  have h1 : Persists ports s₀ s1 := .updFls hs
  exact .ite (.importEnd h1) (.xDone h1)

theorem Persists.importFirst (hs : Persists ports s₀ s) {i : Fin 16} : Persists ports s₀ (s.importFirst i) := by
  unfold State.importFirst
  dsimp only
  split
  · exact .xDone hs
  · split
    · exact .xDone hs
    · exact .importTake hs

theorem Persists.importRange (hs : Persists ports s₀ s) : Persists ports s₀ (s.importRange) := by
  unfold State.importRange
  dsimp only
  split
  · exact .updFls hs
  · split
    · exact .importFirst hs
    · split
      · exact .importTake hs
      · exact .xDone hs

theorem Persists.putBack (hs : Persists false s₀ s) {g : SnapImg} : Persists false s₀ (s.putBack g) := by
  unfold State.putBack
  extract_lets qs s1
  have h1 : Persists false s₀ s1 :=
    .same hs
  exact .foldl (fun _ _ h => .setOwner (.addCtx h)) h1

theorem Persists.restoreCmd (hs : Persists false s₀ s) {c : Cmd} : Persists false s₀ (s.restoreCmd c) := by
  unfold State.restoreCmd
  split
  · exact hs
  · dsimp only
    split
    · split
      · exact .redispatch hs
      · exact .updCmd (.releaseHolds (.redispatch hs))
    · exact .redispatch hs

theorem Persists.restoreRest (hs : Persists false s₀ s) {g : SnapImg} : Persists false s₀ (s.restoreRest g) := by
  unfold State.restoreRest
  extract_lets s1 s2
  have hone (t : State) (i : Fin 64) (x : SmpQueue) (h : Persists false s₀ t) :
      Persists false s₀ (if t.smp[i].state = smpRunning then t else { t with smp := t.smp.set i (t.smp[i].resume x) }) := .ite h h.same
  have h1 : Persists false s₀ s1 := .foldl (fun t i h => by
    split
    · exact hone t i _ h
    · exact h) hs
  have h2 : Persists false s₀ s2 := .foldl (fun _ _ h => .roleEffect (.updRegion h)) h1
  clear_value s2 s1
  exact .ite h1 h2.same

theorem Persists.restoreImg (hs : Persists false s₀ s) {g : SnapImg} : Persists false s₀ (s.restoreImg g) :=
  .restoreRest (.foldl (fun _ _ h => .restoreCmd h) (.putBack hs))

theorem Persists.restoreSnap (hs : Persists false s₀ s) : Persists false s₀ (s.restoreSnap) := by
  unfold State.restoreSnap
  dsimp only
  split
  · exact .xDone hs
  · split
    · exact .xDone hs
    · split
      · exact .xDone hs
      · split
        · exact .xDone hs
        · split
          · exact .xDone hs
          · split
            · exact .xDone hs
            · exact .xDone (.restoreImg hs)

theorem Persists.releaseAll (hs : Persists false s₀ s) : Persists false s₀ (s.releaseAll) := .xDone (.same hs)

theorem Persists.discardSnap (hs : Persists false s₀ s) : Persists false s₀ (s.discardSnap) := by
  unfold State.discardSnap
  dsimp only
  split
  · exact .xDone hs
  · exact .xDone (.updFls hs)

theorem Persists.xfer (hs : Persists false s₀ s) {f : State → State} (hf : ∀ t, Persists false s₀ t → Persists false s₀ (f t)) :
    Persists false s₀ (s.xfer f) :=
  .ite (hf s hs) hs

theorem PersistsNext.execExportImage (hs : Persists false s₀ s) :
    PersistsNext false s₀ (execExportImage s) := .next (.xfer (.awake hs) fun _ h => .exportRange h)

theorem PersistsNext.execImportImage (hs : Persists false s₀ s) :
    PersistsNext false s₀ (execImportImage s) := .next (.xfer (.awake hs) fun _ h => .importRange h)

theorem PersistsNext.execRestore (hs : Persists false s₀ s) :
    PersistsNext false s₀ (execRestore s) := .next (.xfer (.awake hs) fun _ h => .restoreSnap h)

theorem PersistsNext.execRelease (hs : Persists false s₀ s) :
    PersistsNext false s₀ (execRelease s) := .next (.xfer (.awake hs) fun _ h => .releaseAll h)

theorem PersistsNext.execDiscard (hs : Persists false s₀ s) :
    PersistsNext false s₀ (execDiscard s) := .next (.xfer (.awake hs) fun _ h => .discardSnap h)

theorem PersistsNext.execXferInvalidOp (hs : Persists false s₀ s) {op : BitVec 3} : PersistsNext false s₀ (execXferInvalidOp op s) :=
  .next (.xfer (.awake hs) fun _ h => .ite h (.xDone h))

theorem Persists.xferResume (hs : Persists ports s₀ s) : Persists ports s₀ (s.xferResume) := by
  unfold State.xferResume
  split
  · exact hs
  · split
    · exact .exportRange hs
    · split
      · exact .importRange hs
      · exact hs

theorem Persists.logPort (hs : Persists ports s₀ s) {cause : Nat} {h : HostPort} {ctx : Option Nat} :
    Persists ports s₀ (s.logPort cause h ctx) := .logEv hs

theorem Persists.bar4Read (hs : Persists false s₀ s) {addr len : Nat} : Persists false s₀ (s.bar4Read addr len) := by
  unfold State.bar4Read
  dsimp only
  split <;> exact .same (.noteRead hs)

theorem Persists.bar4Write (hs : Persists false s₀ s) {addr : Nat} {bytes : List Byte} : Persists false s₀ (s.bar4Write addr bytes) := by
  unfold State.bar4Write
  split
  · exact (Persists.writeLoc hs) _ ‹_›
  · exact .noteRead hs

theorem Persists.bar4Refuse (hs : Persists false s₀ s) {h : HostPort} {addr : Nat} : Persists false s₀ (s.bar4Refuse h addr) :=
  (Persists.refuseBar hs (h := h) (addr := addr)).same

theorem Persists.bar4 (hs : Persists false s₀ s) {h : HostPort} {off : Nat} {op : Bar4Op} : Persists false s₀ (s.bar4 h off op) := by
  unfold State.bar4
  dsimp only
  split
  · exact hs
  · split
    · exact .bar4Refuse hs
    · split
      · exact .bar4Read hs
      · exact .bar4Write hs

theorem PersistsNext.execBar4Access (hs : Persists false s₀ s) {h : HostPort} {off : Nat} {op : Bar4Op} :
    PersistsNext false s₀ (execBar4Access h off op s) :=
  .next (.bar4 (.awake hs))

theorem PersistsNext.execBar4Resize (hs : Persists false s₀ s) {h : HostPort} {gib : Nat} : PersistsNext false s₀ (execBar4Resize h gib s) := by
  unfold Machine.execBar4Resize
  refine .next ?_
  split
  · exact .updHif hs
  · exact hs

theorem PersistsNext.execApertureBaseWrite (hs : Persists false s₀ s) {h : HostPort} {v : W32} :
    PersistsNext false s₀ (execApertureBaseWrite h v s) := by
  unfold Machine.execApertureBaseWrite
  refine .next ?_
  dsimp only
  split
  · exact .updHif (.awake hs)
  · exact .awake hs

theorem Persists.unmask (hs : Persists false s₀ s) {h : HostPort} {vec : Nat} : Persists false s₀ (s.unmask h vec) := by
  unfold State.unmask
  dsimp only
  split
  · exact .msix (.updHif hs)
  · exact .updHif hs

theorem PersistsNext.execMsixUnmask (hs : Persists false s₀ s) {h : HostPort} {vec : Fin 2048} : PersistsNext false s₀ (execMsixUnmask h vec s) := by
  unfold Machine.execMsixUnmask
  refine .next ?_
  dsimp only
  split
  · exact .unmask (.awake hs)
  · exact .awake hs

theorem Persists.portDown (hs : Persists false s₀ s) {h : HostPort} : Persists false s₀ (s.portDown h) := by
  unfold State.portDown
  split
  · exact hs
  · exact .portEvent (.logPort (.anyHif hs))

theorem PersistsNext.execHostPortDown (hs : Persists false s₀ s) {h : HostPort} : PersistsNext false s₀ (execHostPortDown h s) := .next (.portDown hs)

theorem Persists.sendHeld (hs : Persists ports s₀ s) {h : HostPort} : Persists ports s₀ (s.sendHeld h) := .foldl (fun _ _ h1 => .msix h1) (.updHif hs)

theorem Persists.resumeQueue (hs : Persists ports s₀ s) {q : Nat} : Persists ports s₀ (s.resumeQueue q) := .post (.retryHeld (.settleQueue hs))

theorem Persists.resumeQueues (hs : Persists ports s₀ s) : Persists ports s₀ (s.resumeQueues) := .foldl (fun _ _ h => .resumeQueue h) hs

theorem Persists.hostUp (hs : Persists false s₀ s) {h : HostPort} : Persists false s₀ (s.hostUp h) := by
  unfold State.hostUp
  split
  · exact hs
  · refine .xferResume (.resumeQueues (.sendHeld ?_))
    split
    · exact .logPort (.logPort (.fresh (.anyHif hs)))
    · exact .logPort (.fresh (.anyHif hs))

theorem PersistsNext.execHostPortUp (hs : Persists false s₀ s) {h : HostPort} : PersistsNext false s₀ (execHostPortUp h s) := by
  unfold Machine.execHostPortUp
  refine .next ?_
  split
  · exact .hostUp hs
  · exact hs

theorem Persists.moveHeld (hs : Persists false s₀ s) {h : HostPort} {ids : List Nat} : Persists false s₀ (s.moveHeld h ids) :=
  .foldl (fun _ _ h1 => .msix h1) (.updHif hs)

theorem Persists.rehome (hs : Persists false s₀ s) {h : HostPort} : Persists false s₀ (s.rehome h) := by
  unfold State.rehome
  dsimp only
  split
  · exact hs
  · exact .portEvent (.moveHeld (.foldl (fun _ _ h1 => .logPort h1) (.same hs)))

theorem PersistsNext.execRehomeTimeout (hs : Persists false s₀ s) {h : HostPort} : PersistsNext false s₀ (execRehomeTimeout h s) := .next (.rehome hs)

theorem Persists.portRef (hs : Persists false s₀ s) {h : HostPort} : Persists false s₀ (s.portRef h) := by
  unfold State.portRef
  dsimp only
  split
  · exact .logModule (.updTim hs)
  · exact .updTim hs

theorem Persists.portResets (hs : Persists false s₀ s) {h : HostPort} {why : PortResetCause} : Persists false s₀ (s.portResets h why) := by
  unfold State.portResets
  refine .quenchMended (.returnPart (.quenchBroken (.resetPart ?_)))
  split
  · refine .portRef (.anyHif (.portDown ?_))
    split
    · exact .logPort hs
    · exact hs
  · refine .anyHif (.portDown ?_)
    split
    · exact .logPort hs
    · exact hs

theorem Persists.hostReset (hs : Persists false s₀ s) {h : HostPort} {why : PortResetCause} : Persists false s₀ (s.hostReset h why) := by
  unfold State.hostReset
  dsimp only
  split
  · exact .leaveCold (.portResets hs)
  · split
    · exact .leaveTrip (.portResets hs)
    · exact .portResets hs

theorem PersistsNext.execHostPortReset (hs : Persists false s₀ s) {h : HostPort} {why : PortResetCause} :
    PersistsNext false s₀ (execHostPortReset h why s) :=
  .next (.hostReset hs)

theorem Persists.failRead (hs : Persists false s₀ s) {h : HostPort} {st : Nat} {who : HostReader} : Persists false s₀ (s.failRead h st who) := by
  unfold State.failRead
  split
  · split
    · exact .failCmd hs
    · exact hs
  · split
    · split
      · exact .fetchFail hs
      · exact hs
    · exact hs
  · split
    · exact .nextMail (.mailEnd hs)
    · exact hs

theorem PersistsNext.execHostReadCompletionTimeout (hs : Persists false s₀ s) {h : HostPort} {rd : FailedRead} :
    PersistsNext false s₀ (execHostReadCompletionTimeout h rd s) := by
  unfold Machine.execHostReadCompletionTimeout
  refine .next ?_
  split
  · exact .failRead (.noteHostRead hs)
  · exact hs

theorem Persists.steer (hs : Persists false s₀ s) {off : Int} : Persists false s₀ (s.steer off) := by
  unfold State.steer
  dsimp only
  split
  · exact .same hs
  · exact .updTim hs

theorem PersistsNext.execPtmExchange (hs : Persists false s₀ s) {h : HostPort} {rootNs : W64} :
    PersistsNext false s₀ (execPtmExchange h rootNs s) := by
  unfold Machine.execPtmExchange
  refine .next ?_
  split
  · exact .steer hs
  · exact hs

theorem Persists.pps (hs : Persists false s₀ s) {measured : Int} : Persists false s₀ (s.pps measured) := by
  unfold State.pps
  dsimp only
  split
  · exact .updTim (.steer (.updTim hs))
  · split
    · split
      · exact .steer (.updTim hs)
      · exact .updTim (.updTim hs)
    · exact .updTim hs

theorem PersistsNext.execPpsEdge (hs : Persists false s₀ s) {measuredNs : Int} : PersistsNext false s₀ (execPpsEdge measuredNs s) := .next (.pps hs)

theorem Persists.losePtm (hs : Persists false s₀ s) {h : HostPort} : Persists false s₀ (s.losePtm h) := by
  unfold State.losePtm
  split
  · exact hs
  · split <;> exact .updTim hs

theorem PersistsNext.execTimeReferenceLoss (hs : Persists false s₀ s) {r : TimeRef} : PersistsNext false s₀ (execTimeReferenceLoss r s) := by
  unfold Machine.execTimeReferenceLoss
  refine .next ?_
  split
  · exact .losePtm hs
  · exact .losePps hs
  · exact .loseTen hs

theorem PersistsNext.execTimeSourceWrite (hs : Persists false s₀ s) {v : W32} : PersistsNext false s₀ (execTimeSourceWrite v s) := by
  unfold Machine.execTimeSourceWrite
  refine .next ?_
  dsimp only
  split
  · exact .updTim (.awake hs)
  · exact .awake hs

theorem PersistsNext.execTimeSetArm (hs : Persists false s₀ s) {v : W32} : PersistsNext false s₀ (execTimeSetArm v s) := by
  unfold Machine.execTimeSetArm
  refine .next ?_
  dsimp only
  split
  · exact .updTim (.awake hs)
  · exact .awake hs

end Sys2Proof.Machine
end

section
/-! PROOF. What persists: scrub, the care of flash, registers, and every command (15, R277, R290, R291; 18, R361 to R363; 20, R396). -/

namespace Sys2Proof.Machine

set_option Elab.async false

variable {ports : Bool} {s₀ s : State}

theorem Persists.scrubBlock (hs : Persists false s₀ s) {l : Loc} {b : Nat} : Persists false s₀ (s.scrubBlock l b) := by
  unfold State.scrubBlock
  split
  · exact hs
  · rename_i m _ hm
    split
    · exact .putRam (.noteBlock hs)
    · exact .noteBlock hs
    · exact hs

theorem Persists.scrubRange (hs : Persists false s₀ s) {l : Loc} {addr len : Nat} : Persists false s₀ (s.scrubRange l addr len) := by
  unfold State.scrubRange
  split
  · exact .foldl (fun _ _ h1 => .scrubBlock h1) hs
  · exact hs

theorem Persists.scrubCore (hs : Persists false s₀ s) {pos : Nat} {c : CoreId} : Persists false s₀ (s.scrubCore pos c) := by
  unfold State.scrubCore
  dsimp only
  split
  · exact hs
  · split <;> exact .scrubRange hs

theorem Persists.scrubRegion (hs : Persists false s₀ s) {g : RegionId} : Persists false s₀ (s.scrubRegion g) := by
  unfold State.scrubRegion
  split
  · exact hs
  · exact .updRegion (.foldl (fun _ _ h1 => .scrubCore h1) (.scrubRange hs))

theorem PersistsNext.execSramScrubSlot (hs : Persists false s₀ s) : PersistsNext false s₀ (execSramScrubSlot s) := by
  unfold Machine.execSramScrubSlot
  refine .next ?_
  split
  · exact .foldl (fun _ _ h => .scrubRegion h) hs
  · exact hs

theorem Persists.scrubRead (hs : Persists false s₀ s) {g : RegionId} : Persists false s₀ (s.scrubRead g) := by
  unfold State.scrubRead
  refine .updRegion ?_
  split
  · exact .updRegion (.noteBlock hs)
  · exact .noteBlock hs
  · exact hs

theorem PersistsNext.execStackScrubRead (hs : Persists false s₀ s) {g : RegionId} : PersistsNext false s₀ (execStackScrubRead g s) := by
  unfold Machine.execStackScrubRead
  refine .next ?_
  split
  · exact .scrubRead hs
  · exact hs

theorem PersistsNext.execScrubWriteback (hs : Persists false s₀ s) {g : RegionId} : PersistsNext false s₀ (execScrubWriteback g s) := by
  unfold Machine.execScrubWriteback
  refine .next ?_
  split
  · split
    · exact .updRegion (.mendStacked hs)
    · exact hs
  · exact hs

theorem PersistsNext.execFlashReadDisturb (hs : Persists false s₀ s) {block : Nat} : PersistsNext false s₀ (execFlashReadDisturb block s) :=
  .next (.ite (.updFls hs) hs)

theorem PersistsNext.execFlashWearLevel (hs : Persists false s₀ s) : PersistsNext false s₀ (execFlashWearLevel s) := by
  unfold Machine.execFlashWearLevel
  refine .next ?_
  split
  · rename_i b _ _
    split
    · exact .updFls hs
    · exact hs
  · exact hs

theorem PersistsNext.execFlashSparesExhausted (hs : Persists false s₀ s) : PersistsNext false s₀ (execFlashSparesExhausted s) := .next (.updFls hs)

theorem Persists.latch (hs : Persists false s₀ s) {h : HostPort} {off v : Nat} : Persists false s₀ (s.latch h off v) := .updHif (.same hs)

theorem PersistsNext.execCounterLoRead (hs : Persists false s₀ s) {h : HostPort} {off : Nat} : PersistsNext false s₀ (execCounterLoRead h off s) := by
  unfold Machine.execCounterLoRead
  refine .next ?_
  extract_lets s1
  have h1 : Persists false s₀ s1 := .ite (.leaveLow (.awake hs)) (.awake hs)
  split
  · exact h1
  · split
    · exact .latch h1
    · exact h1

theorem PersistsNext.execPeakPowerRead (hs : Persists false s₀ s) {h : HostPort} : PersistsNext false s₀ (execPeakPowerRead h s) := by
  unfold Machine.execPeakPowerRead
  refine .next ?_
  dsimp only
  split
  · exact .updPwr (.same (.awake hs))
  · exact .awake hs

theorem Persists.writeRole (hs : Persists false s₀ s) {g : RegionId} {v : Nat} : Persists false s₀ (s.writeRole g v) := .roleEffect (.updRegion hs)

theorem Persists.late (hs : Persists false s₀ s) {f : State → State} (hf : ∀ t, Persists false s₀ t → Persists false s₀ (f t)) :
    Persists false s₀ (s.late f) :=
  .ite (hf _ (.awake hs)) (.awake hs)

theorem Persists.lateWindow (hs : Persists false s₀ s) {f : State → State} (hf : ∀ t, Persists false s₀ t → Persists false s₀ (f t)) :
    Persists false s₀ (s.lateWindow f) :=
  .late (.leaveLow (.awake hs)) hf

theorem PersistsNext.execRoleWrite (hs : Persists false s₀ s) {g : RegionId} {v : W32} : PersistsNext false s₀ (execRoleWrite g v s) :=
  .next (.late hs fun _ h1 => .writeRole h1)

theorem PersistsNext.execWatchdogPeriodWrite (hs : Persists false s₀ s) {g : RegionId} {v : W32} :
    PersistsNext false s₀ (execWatchdogPeriodWrite g v s) :=
  .next (.lateWindow hs fun _ h1 => .updRegion h1)

theorem Persists.clearCnt (hs : Persists false s₀ s) {g : RegionId} {v : Nat} {f : RegionCnt → RegionCnt} : Persists false s₀ (s.clearCnt g v f) := by
  unfold State.clearCnt
  split
  · exact .updCnt hs
  · exact hs

theorem PersistsNext.execAnvilCountersClear (hs : Persists false s₀ s) {c : CoreId} {v : W32} :
    PersistsNext false s₀ (execAnvilCountersClear c v s) :=
  .next (.lateWindow hs fun _ h => .ite (.updCore h) h)

theorem PersistsNext.execAtomicCountersClear (hs : Persists false s₀ s) {g : RegionId} {v : W32} :
    PersistsNext false s₀ (execAtomicCountersClear g v s) :=
  .next (.lateWindow hs fun _ h1 => .clearCnt h1)

theorem PersistsNext.execTileCountersClear (hs : Persists false s₀ s) {g : RegionId} {v : W32} :
    PersistsNext false s₀ (execTileCountersClear g v s) :=
  .next (.lateWindow hs fun _ h1 => .clearCnt h1)

theorem PersistsNext.execPageCountersClear (hs : Persists false s₀ s) {g : RegionId} {v : W32} :
    PersistsNext false s₀ (execPageCountersClear g v s) :=
  .next (.lateWindow hs fun _ h1 => .clearCnt h1)

theorem PersistsNext.execCoilCountersClear (hs : Persists false s₀ s) {g : RegionId} {v : W32} :
    PersistsNext false s₀ (execCoilCountersClear g v s) :=
  .next (.lateWindow hs fun _ h1 => .clearCnt h1)

theorem PersistsNext.execMemoryCountersClear (hs : Persists false s₀ s) {g : RegionId} {v : W32} :
    PersistsNext false s₀ (execMemoryCountersClear g v s) :=
  .next (.lateWindow hs fun _ h1 => .clearCnt h1)

theorem PersistsNext.execIntegrityCountersClear (hs : Persists false s₀ s) {g : RegionId} {v : W32} :
    PersistsNext false s₀ (execIntegrityCountersClear g v s) :=
  .next (.lateWindow hs fun _ h1 => .clearCnt h1)

theorem PersistsNext.execSnapshotPartitionWrite (hs : Persists false s₀ s) {v : W32} : PersistsNext false s₀ (execSnapshotPartitionWrite v s) :=
  .next (.late hs fun _ h1 => .updFls h1)

theorem Persists.writeMsix (hs : Persists false s₀ s) {h : HostPort} {o v : Nat} : Persists false s₀ (s.writeMsix h o v) := by
  unfold State.writeMsix
  split
  · split
    · exact .updHif hs
    · exact .unmask hs
  · exact .updHif hs

theorem Persists.writeHif (hs : Persists false s₀ s) {h : HostPort} {off v : Nat} : Persists false s₀ (s.writeHif h off v) := by
  unfold State.writeHif
  split
  · split
    · exact .updSvc hs
    · exact hs
  · exact .updHif hs
  · exact .updHif hs
  · exact .updHif hs
  · split
    · exact .writeMsix hs
    · exact hs

theorem Persists.writeTim (hs : Persists false s₀ s) {o v : Nat} : Persists false s₀ (s.writeTim o v) := by
  unfold State.writeTim
  split
  · exact .updTim hs
  · exact .updTim hs
  · exact .updTim hs
  · exact hs

theorem Persists.writePwrState (hs : Persists false s₀ s) {v : Nat} : Persists false s₀ (s.writePwrState v) := by
  unfold State.writePwrState
  dsimp only
  split
  · refine .updPwr ?_
    split
    · exact .updPwr hs
    · exact hs
  · refine .requestAsh ?_
    split
    · exact .updPwr hs
    · exact hs
  · refine .requestCold ?_
    split
    · exact .updPwr hs
    · exact hs
  · split
    · exact .updPwr hs
    · exact hs

theorem Persists.writePwr (hs : Persists false s₀ s) {o v : Nat} : Persists false s₀ (s.writePwr o v) := by
  unfold State.writePwr
  split
  · exact .writePwrState hs
  · exact .updPwr hs
  · split
    · exact .updPwr hs
    · exact hs
  · exact .updPwr hs
  · exact .updPwr hs
  · exact .updPwr hs
  · exact hs

theorem Persists.writeTest (hs : Persists false s₀ s) {v : Nat} : Persists false s₀ (s.writeTest v) := by
  unfold State.writeTest
  dsimp only
  split
  · exact .updSvc hs
  · split
    · exact hs
    · split
      · exact .mailTest (.fresh (.updSvc hs))
      · refine .updSvc (.updSvc hs) ?_
        split
        · exact .refl _
        · exact .beside

theorem FusesKept.writeSec (x : Service) (o v : Nat) : FusesKept x (x.writeSec o v) := by
  unfold Service.writeSec
  split
  · exact .refl x
  · split
    · exact .beside
    · split
      · exact .beside
      · exact .refl x

theorem Persists.writeSvc (hs : Persists false s₀ s) {o v : Nat} : Persists false s₀ (s.writeSvc o v) := by
  unfold State.writeSvc
  split
  · exact .writeTest hs
  · split
    · exact .updSvc hs
    · exact hs
  · exact hs

theorem Persists.mailOp (hs : Persists false s₀ s) {p : HostPort} {op : Nat} : Persists false s₀ (s.mailOp p op) := by
  unfold State.mailOp
  dsimp only
  split
  · exact .mail hs
  · exact .mail hs
  · exact .mail hs
  · exact .mail hs
  · exact .mail hs
  · exact .mail hs
  · exact .mail hs
  · exact .updMbox hs

theorem Persists.writeMail (hs : Persists false s₀ s) {p : HostPort} {o v : Nat} : Persists false s₀ (s.writeMail p o v) := by
  unfold State.writeMail
  split
  · exact hs
  · split
    · exact .updMbox hs
    · exact .updMbox hs
    · exact .updMbox hs
    · exact .updMbox hs
    · exact .updMbox hs
    · exact .mailOp hs
    · exact hs

theorem Persists.writeQue (hs : Persists false s₀ s) {o v : Nat} : Persists false s₀ (s.writeQue o v) := by
  unfold State.writeQue
  split
  · exact .writeMail hs
  · split
    · exact .writeMail hs
    · exact hs

theorem Persists.writeDispatch (hs : Persists false s₀ s) {v : Nat} : Persists false s₀ (s.writeDispatch v) := .same hs

theorem Persists.writeSch (hs : Persists false s₀ s) {o v : Nat} : Persists false s₀ (s.writeSch o v) := by
  unfold State.writeSch
  split
  · exact .writeDispatch hs
  · split
    · exact .updSlots hs
    · split
      · split
        · exact .updSlots hs
        · exact hs
      · split
        · exact .updSlots hs
        · split
          · exact .writeRole hs
          · exact hs

theorem Persists.writeSmpCtrl (hs : Persists false s₀ s) {q : SampleQ} {v : Nat} : Persists false s₀ (s.writeSmpCtrl q v) := by
  unfold State.writeSmpCtrl
  extract_lets s1 s2
  have h1 : Persists false s₀ s1 := .ite (.updSmp hs) hs
  have h2 : Persists false s₀ s2 := .ite (.updSmp h1) h1
  exact .ite (.smpStart h2) h2

theorem Persists.writeSmp (hs : Persists false s₀ s) {o v : Nat} : Persists false s₀ (s.writeSmp o v) := by
  unfold State.writeSmp
  split
  · dsimp only
    split
    · exact .updSmp hs
    · exact .updSmp hs
    · exact .writeSmpCtrl hs
    · exact .updSmp hs
    · exact hs
  · exact hs

theorem Persists.writeXfer (hs : Persists false s₀ s) {v : Nat} : Persists false s₀ (s.writeXfer v) := by
  unfold State.writeXfer
  split
  · exact hs
  · dsimp only
    split
    · exact .updFls hs
    · split
      · exact .exportRange (.updFls hs)
      · exact .importRange (.updFls hs)
      · exact .restoreSnap (.updFls hs)
      · exact .releaseAll (.updFls hs)
      · exact .discardSnap (.updFls hs)
      · exact .xDone (.updFls hs)

theorem Persists.writeFls (hs : Persists false s₀ s) {o v : Nat} : Persists false s₀ (s.writeFls o v) := by
  unfold State.writeFls
  split
  · exact .updFls hs
  · split
    · exact .updFls hs
    · exact hs
  · exact .updFls hs
  · exact .updFls hs
  · exact .updFls hs
  · exact .updFls hs
  · exact .updFls hs
  · exact .writeXfer hs
  · exact hs

theorem Persists.writePctrl (hs : Persists false s₀ s) {p : DaritPort} {v : Nat} : Persists false s₀ (s.writePctrl p v) := by
  unfold State.writePctrl
  dsimp only
  split
  · refine .portReset ?_
    split
    · exact .updPort hs
    · exact hs
  · split
    · exact .updPort hs
    · exact hs

theorem Persists.writeDrtG (hs : Persists false s₀ s) {o v : Nat} : Persists false s₀ (s.writeDrtG o v) := by
  unfold State.writeDrtG
  split
  · exact .writeTopology hs
  · exact .writeTopology hs
  · exact .updDarit hs
  · exact .updDarit hs
  · split
    · exact .updDarit hs
    · exact hs
  · exact hs

theorem Persists.writeDrt (hs : Persists false s₀ s) {o v : Nat} : Persists false s₀ (s.writeDrt o v) := by
  unfold State.writeDrt
  split
  · exact .writeDrtG hs
  · split
    · split
      · exact .writePcfg hs
      · exact .writePctrl hs
      · exact hs
    · exact hs

theorem Persists.writeWindow (hs : Persists false s₀ s) {g : RegionId} {o v : Nat} : Persists false s₀ (s.writeWindow g o v) := by
  unfold State.writeWindow
  split
  · split
    · exact .updCore hs
    · exact hs
  · split
    · split
      · exact .updRegion hs
      · exact hs
    · split
      · exact .updRegion hs
      · exact hs
    · exact .updRegion hs
    · exact .clearCnt hs

theorem Persists.barWrite (hs : Persists false s₀ s) {h : HostPort} {off v : Nat} : Persists false s₀ (s.barWrite h off v) := by
  unfold State.barWrite
  refine .ite hs (.ite (.writeHif hs) (.ite (.writeTim hs) (.ite (.writePwr hs) (.ite (.updSvc hs (.writeSec _ _ _)) (.ite (.writeSvc hs) ?_)))))
  exact .ite (.writeQue hs) (.ite (.writeSch hs) (.ite (.writeSmp hs) (.ite (.writeFls hs) (.ite (.writeDrt hs)
    (.ite (.writeWindow (.leaveLow hs)) hs)))))

theorem PersistsNext.execRegisterWrite (hs : Persists false s₀ s) {h : HostPort} {off width : Nat} {v : W32} :
    PersistsNext false s₀ (execRegisterWrite h off width v s) := by
  unfold Machine.execRegisterWrite
  refine .next ?_
  dsimp only
  split
  · exact .awake hs
  · exact .barWrite (.awake hs)

/-- Every command keeps the form: its own operations do. -/
theorem PersistsNext.exec (hs : Persists false s₀ s) {i : Instr} : PersistsNext false s₀ (exec i s) := by
  unfold Machine.exec
  split
  · exact .execFenceInstruction hs
  · exact .execFenceEnd hs
  · exact .execClaim hs
  · exact .execCommit hs
  · exact .execVopScalar hs
  · exact .execVopBranch hs
  · exact .issue hs
  · exact .issue hs
  · exact .issue hs
  · exact .issue hs
  · exact .issue hs
  · exact .issue hs
  · exact .issue hs
  · exact .issue hs
  · exact .issue hs
  · exact .issue hs
  · exact .issue hs
  · exact .issue hs
  · exact .issue hs
  · exact .issue hs
  · exact .issue hs
  · exact .issue hs
  · exact .issue hs
  · exact .issue hs
  · exact .issue hs
  · exact .issue hs
  · exact .execInstructionComplete hs
  · exact .execAtomicReply hs
  · exact .execTrapRecord hs
  · exact .execAtomicClaim hs
  · exact .execAtomicCommit hs
  · exact .execAtomicContribution hs
  · exact .execContributionRetry hs
  · exact .execDoorbell hs
  · exact .execCommandAccept hs
  · exact .execCommandFetchRetry hs
  · exact .execCommandDispatch hs
  · exact .execDispatchAgeing hs
  · exact .execKernel hs
  · exact .execInstancePlacement hs
  · exact .execLoadingComplete hs
  · exact .execInstructionFetchMiss hs
  · exact .execPreemptionDecision hs
  · exact .execCopy hs
  · exact .execFill hs
  · exact .execFork hs
  · exact .execCull hs
  · exact .execRoundRun hs
  · exact .execRoundPark hs
  · exact .execRoundUnpark hs
  · exact .execRoundConfig hs
  · exact .execRoundClose hs
  · exact .execFence hs
  · exact .execSignal hs
  · exact .execWait hs
  · exact .execWaitRecheck hs
  · exact .execWaitTimeout hs
  · exact .execHint hs
  · exact .execSnapshot hs
  · exact .execQuenchDrainEnd hs
  · exact .execQuenchCaptureEnd hs
  · exact .execQuenchWriteEnd hs
  · exact .execCommandCommit hs
  · exact .execHeldWriteRetry hs
  · exact .execCtxCreate hs
  · exact .execCtxDestroy hs
  · exact .execQueueCreate hs
  · exact .execQueueDestroy hs
  · exact .execInvalidate hs
  · exact .execCancel hs
  · exact .execQuery hs
  · exact .execAdmInvalidOp hs
  · exact .execCoreFault hs
  · exact .execKernelSlotStall hs
  · exact .execRegionWatchdogExpiry hs
  · exact .execControlCoreWatchdogExpiry hs
  · exact .execRegionReset hs
  · exact .execEpochAdvance hs
  · exact .execDieFault hs
  · exact .execDieReturn hs
  · exact .execPackageWarmReset hs
  · exact .execCommandStoreCopyLoss hs
  · exact .execFabricRequest hs
  · exact .execFabricReply hs
  · exact .execPartAbsentRetry hs
  · exact .execBulkPromotion hs
  · exact .execCoilUnparkComplete hs
  · exact .execCoilParkComplete hs
  · exact .execCoilEviction hs
  · exact .execTimeSlotStart hs
  · exact .execStrobeLost hs
  · exact .execStrobeReturn hs
  · exact .execSlotTableEffect hs
  · exact .execSlotTableCommit hs
  · exact .execSramScrubSlot hs
  · exact .execStackScrubRead hs
  · exact .execScrubWriteback hs
  · exact .execFlashReadDisturb hs
  · exact .execFlashWearLevel hs
  · exact .execFlashSparesExhausted hs
  · exact .execSampleDecodeStart hs
  · exact .execSampleDecodeEnd hs
  · exact .execSampleHandoff hs
  · exact .execDecodeLaneFault hs
  · exact .execSampleQueueStart hs
  · exact .execSampleQueueStop hs
  · exact .execSampleCountersClear hs
  · exact .execSampleTailWrite hs
  · exact .execRoleWrite hs
  · exact .execWatchdogPeriodWrite hs
  · exact .execAnvilCountersClear hs
  · exact .execAtomicCountersClear hs
  · exact .execTileCountersClear hs
  · exact .execPageCountersClear hs
  · exact .execCoilCountersClear hs
  · exact .execMemoryCountersClear hs
  · exact .execIntegrityCountersClear hs
  · exact .execSnapshotPartitionWrite hs
  · exact .execExportImage hs
  · exact .execImportImage hs
  · exact .execRestore hs
  · exact .execRelease hs
  · exact .execDiscard hs
  · exact .execXferInvalidOp hs
  · exact .execPortConfigWrite hs
  · exact .execTopologyWrite hs
  · exact .execRetrain hs
  · exact .execPortCountersClear hs
  · exact .execAgedCounterClear hs
  · exact .execPortTraining hs
  · exact .execCableSense hs
  · exact .execLaneFailure hs
  · exact .execDaritPortFault hs
  · exact .execFlitReceive hs
  · exact .execFrameForward hs
  · exact .execRemoteRequestTimeout hs
  · exact .execTrunkStateChange hs
  · exact .execRemoteGatherServe hs
  · exact .execBar4Access hs
  · exact .execBar4Resize hs
  · exact .execApertureBaseWrite hs
  · exact .execCounterLoRead hs
  · exact .execPeakPowerRead hs
  · exact .execMsixUnmask hs
  · exact .execHostPortDown hs
  · exact .execHostPortUp hs
  · exact .execRehomeTimeout hs
  · exact .execHostPortReset hs
  · exact .execPtmExchange hs
  · exact .execPpsEdge hs
  · exact .execTimeReferenceLoss hs
  · exact .execTimeSourceWrite hs
  · exact .execTimeSetArm hs
  · exact .execGlowEntry hs
  · exact .execEmberEntry hs
  · exact .execLowPowerWake hs
  · exact .execAshRequest hs
  · exact .execColdRequest hs
  · exact .execPowerRequestTimeout hs
  · exact .execAshWake hs
  · exact .execColdWake hs
  · exact .execPowerSample hs
  · exact .execCeilingStep hs
  · exact .execAnvilTokenGrant hs
  · exact .execHintStart hs
  · exact .execHintEnd hs
  · exact .execHintEarlyEnd hs
  · exact .execDroopTrip hs
  · exact .execDroopRecover hs
  · exact .execDroopFault hs
  · exact .execThermalSample hs
  · exact .execThermalTrip hs
  · exact .execCoolantSample hs
  · exact .execCoolantWarnEnd hs
  · exact .execMarginAdjust hs
  · exact .execMarginModeWrite hs
  · exact .execEnergyAttribution hs
  · exact .execFeedFailure hs
  · exact .execFeedReturn hs
  · exact .execFeedOvervoltage hs
  · exact .execFeedReversePolarity hs
  · exact .execFeedShort hs
  · exact .execPowerGood hs
  · exact .execPowerLoss hs
  · exact .execPowerRemoved hs
  · exact .execClockInputChange hs
  · exact .execServiceSessionConnect hs
  · exact .execHello hs
  · exact .execStatus hs
  · exact .execReadLog hs
  · exact .execAttest hs
  · exact .execDoeAttest hs
  · exact .execStageBegin hs
  · exact .execStageData hs
  · exact .execStageEnd hs
  · exact .execActivate hs
  · exact .execCommitSvn hs
  · exact .execResetPackage hs
  · exact .execFuseProgram hs
  · exact .execResume hs
  · exact .execTestCheckerPatterns hs
  · exact .execTestSensorCalibration hs
  · exact .execTestSramBist hs
  · exact .execTestStackRetrain hs
  · exact .execTestVectorEngine hs
  · exact .execTestDaritRetrain hs
  · exact .execTestInvalidKind hs
  · exact .execRegionDrainComplete hs
  · exact .execRegionDrainTimeout hs
  · exact .execPage hs
  · exact .execClearFaults hs
  · exact .execStatusWord hs
  · exact .execStatusInput hs
  · exact .execReadEin hs
  · exact .execReadVin hs
  · exact .execReadIin hs
  · exact .execReadTemperature1 hs
  · exact .execReadPin hs
  · exact .execPmbusRevision hs
  · exact .execMfrId hs
  · exact .execMfrModel hs
  · exact .execMfrWake hs
  · exact .execSmbusRefused hs
  · exact .execAlertResponse hs
  · exact .execRegisterWrite hs
  · exact .execRegionResetEnd hs
  · exact .execCtxCreateDrainTimeout hs
  · exact .execVectorEngineTestEnd hs
  · exact .execVectorEngineTestTimeout hs
  · exact .execServiceSessionClose hs
  · exact .execHostReadCompletionTimeout hs

/-! ## A step of the machine -/

/-- Settles O1, by the queue's two shapes. -/
theorem stepRunsFrontCommand : Obligations.StepRunsFrontCommand := by
  refine ⟨fun c rest s h => ?_, fun s h => ?_⟩
  · unfold step
    rw [h]
  · unfold step
    rw [h]

/-- A step is the command at the front, or leaves the state. -/
theorem persists_step {s t : State} (h : step s = .next t) : FusesKept s.svc t.svc ∧ (s.log.recs.length ≤ 8192 → t.log.recs.length ≤ 8192) := by
  cases hp : s.pending with
  | nil =>
    rw [stepRunsFrontCommand.2 s hp] at h
    cases h
    exact ⟨.refl _, id⟩
  | cons c rest =>
    rw [stepRunsFrontCommand.1 c rest s hp] at h
    have hkept : Persists false { s with pending := rest } t := PersistsNext.exec (.refl _) t h
    exact ⟨hkept.fused, hkept.log⟩

/-- Settles O5: every command leaves the waiting commands. -/
theorem commandsLeaveTheQueue : Obligations.CommandsLeaveTheQueue := fun _ s t h => (PersistsNext.exec (.refl s) t h).pending

/-- Settles O6: every command keeps what fuses hold and the log's bound. -/
theorem fusesPersistAndTheLogIsBounded : Obligations.FusesPersistAndTheLogIsBounded := by
  refine ⟨fun s t h => ?_, fun s t hlog h => (persists_step h).2 hlog⟩
  obtain ⟨hfuses, hserial, hhw, hrevoked, hsvn⟩ := (persists_step h).1
  exact ⟨hfuses, hserial, hhw, hrevoked, hsvn⟩

end Sys2Proof.Machine
end

section
/-! PROOF. Doorbells (16, R302; 18, R367; 20, R403). -/

namespace Sys2Proof.Machine

/-- A field of a word, as the bits cut out of it. -/
theorem fld_toNat_extract {w : Nat} (x : BitVec w) {hi lo n : Nat} (h : hi - lo + 1 = n := by exact rfl) :
    fld x.toNat hi lo = (x.extractLsb' lo n).toNat := by
  simp only [fld, BitVec.extractLsb'_toNat, Nat.shiftRight_eq_div_pow, h]

/-- How far a doorbell's TAIL lies ahead of COMPLETED. -/
theorem tailAhead_eq (word : W64) (n : Nat) :
    (fld word.toNat 31 0 + 2 ^ 32 - n % 2 ^ 32) % 2 ^ 32 = (word.extractLsb' 0 32 - BitVec.ofNat 32 n).toNat := by
  rw [fld_toNat_extract word (n := 32), BitVec.toNat_sub, BitVec.toNat_ofNat]
  have := (word.extractLsb' 0 32).isLt
  have : n % 2 ^ 32 < 2 ^ 32 := Nat.mod_lt _ (by decide)
  omega

/-- R302's conditions for a queue whose context exists. -/
theorem doorbellOk_iff {s : State} {h : HostPort} {q width : Nat} {word : W64} {qu : Queue} {cx : Ctx}
    (hq : lookup s.queues q = some qu) (hc : lookup s.ctxs qu.ctx = some cx) :
    s.doorbellOk h q width word = true ↔
      width = 8 ∧ qu.state = .active ∧ word.extractLsb' 32 16 = qu.gen ∧ word.extractLsb' 48 16 = 0 ∧ cx.home = h
        ∧ (word.extractLsb' 0 32 - BitVec.ofNat 32 qu.completed).toNat ≤ qu.depth := by
  unfold State.doorbellOk
  simp only [hq, hc, fld_toNat_extract word (hi := 47) (lo := 32) (n := 16), fld_toNat_extract word (hi := 63) (lo := 48) (n := 16), tailAhead_eq,
    Bool.and_eq_true, beq_iff_eq, decide_eq_true_eq, BitVec.toNat_eq, and_assoc]
  rfl

/-- What an ignored doorbell leaves: its count and a record (R302). -/
theorem ignoreDoorbell_spec (s : State) (h : HostPort) (q : Nat) :
    ∃ r, (s.ignoreDoorbell h q).cntDbIgnored = s.cntDbIgnored + 1
      ∧ (s.ignoreDoorbell h q).log.recs = List.take 8192 (r :: s.log.recs) ∧ r.source = 10 ∧ r.cause = 1
      ∧ s.ignoreDoorbell h q = { s with cntDbIgnored := (s.ignoreDoorbell h q).cntDbIgnored, log := (s.ignoreDoorbell h q).log } := by
  unfold State.ignoreDoorbell
  refine ⟨_, ?_, logEv_recs _ _, rfl, rfl, ?_⟩
  · rw [logEv_frame_quiet _ rfl]
  · rw [logEv_frame_quiet _ rfl]

section

variable {s : State} {h : HostPort} {q width : Nat} {word : W64}

theorem exec_doorbell_taken (hp : s.pwr.current ≠ 3) (hr : s.isReady = true) (hok : s.doorbellOk h q width word = true) :
    exec (.doorbell h q width word) s = .next (s.updQueue q (fun qu => { qu with tail := BitVec.ofNat 32 word.toNat })) :=
  congrArg Host.Outcome.next (by simp [awake_of_not_ash hp, State.doorbell, hr, hok])

theorem exec_doorbell_ignored (hp : s.pwr.current ≠ 3) (hr : s.isReady = true) (hok : s.doorbellOk h q width word = false) :
    exec (.doorbell h q width word) s = .next (s.ignoreDoorbell h q) :=
  congrArg Host.Outcome.next (by simp [awake_of_not_ash hp, State.doorbell, hr, hok])

theorem exec_doorbell_early (hp : s.pwr.current ≠ 3) (hr : s.isReady = false) :
    exec (.doorbell h q width word) s = .next (s.refuseBar h (8 * q)) :=
  congrArg Host.Outcome.next (by simp [awake_of_not_ash hp, State.doorbell, hr])

end

/-- An access that is refused counts at its port (R397, R403). -/
theorem refuseBar_spec (s : State) (h : HostPort) (addr : Nat) :
    (s.refuseBar h addr).hif[h].cntBar4Refused = s.hif[h].cntBar4Refused + 1
      ∧ s.refuseBar h addr = { s with hif := (s.refuseBar h addr).hif, log := (s.refuseBar h addr).log } := by
  unfold State.refuseBar
  rw [logEv_frame_quiet _ rfl]
  exact ⟨by simp [State.updHif], rfl⟩

/-- Settles O22: the row by its three outcomes, and what each leaves. -/
theorem doorbellMovesTail : Obligations.DoorbellMovesTail := by
  refine ⟨fun s h q width word hp hr hq => ?_, fun s h q width word qu cx hp hq hc => ⟨fun hr => ⟨fun hok => ?_, fun hno => ?_⟩, fun hr => ?_⟩⟩
  · have hno : s.doorbellOk h q width word = false := by simp [State.doorbellOk, hq]
    obtain ⟨r, hspec⟩ := ignoreDoorbell_spec s h q
    exact ⟨_, r, exec_doorbell_ignored hp hr hno, hspec⟩
  · refine ⟨_, exec_doorbell_taken hp hr ((doorbellOk_iff hq hc).2 hok), ?_, fun q' ne => lookup_modifyAt_ne _ _ ne, rfl⟩
    rw [State.updQueue_queues, lookup_modifyAt_self, hq]
    simp [BitVec.extractLsb']
  · have hno : s.doorbellOk h q width word = false := Bool.eq_false_iff.2 fun hok => hno ((doorbellOk_iff hq hc).1 hok)
    obtain ⟨r, hspec⟩ := ignoreDoorbell_spec s h q
    exact ⟨_, r, exec_doorbell_ignored hp hr hno, hspec⟩
  · exact ⟨_, exec_doorbell_early hp hr, refuseBar_spec s h (8 * q)⟩

end Sys2Proof.Machine
end

section
/-! PROOF. What the end of a command may touch: its instances' places, what it owes and holds, the releases that follow, and its queue's records
(01, R15; 08, R157; 11, R205, R209; 16, R311; 17, R327). -/

namespace Sys2Proof.Machine

/-! ## What an end may touch -/

/-- What the end of a command may touch. -/
def EndsOnly (s t : State) : Prop :=
  t = { s with cores := t.cores, argMaps := t.argMaps, regions := t.regions, coreStore := t.coreStore, accMem := t.accMem,
               regionMem := t.regionMem, stacked := t.stacked, hostMem := t.hostMem, queues := t.queues, cmds := t.cmds, seqs := t.seqs,
               coils := t.coils, log := t.log, hif := t.hif, freshCtr := t.freshCtr }

namespace EndsOnly

variable {s t u : State} {α β : Type}

theorem refl (s : State) : EndsOnly s s := rfl

theorem trans (a : EndsOnly s t) (b : EndsOnly t u) : EndsOnly s u := by
  unfold EndsOnly at *
  rw [b, a]

theorem foldl {f : State → β → State} (hf : ∀ s b, EndsOnly s (f s b)) (l : List β) (s : State) : EndsOnly s (l.foldl f s) :=
  foldl_within refl trans hf l s

theorem of_tiers (h : TiersOnly s t) : EndsOnly s t := by
  unfold EndsOnly
  rw [h]

theorem of_notes (h : NotesOnly s t) : EndsOnly s t := of_tiers h.tiers

theorem logEv (s : State) (a : LogArgs) : EndsOnly s (s.logEv a) := of_notes (.logEv s a)

theorem logAbsent (s : State) (p : Part) : EndsOnly s (s.logAbsent p) := of_notes (.logLimited s _ _ _)

theorem noteErr (s : State) (n : ErrNote) : EndsOnly s (s.noteErr n) := of_notes (noteErr_notes s n)

theorem updCmd (s : State) (q n : Nat) (f : Cmd → Cmd) : EndsOnly s (s.updCmd q n f) := rfl

theorem updQueue (s : State) (q : Nat) (f : Queue → Queue) : EndsOnly s (s.updQueue q f) := rfl

end EndsOnly

/-- An act whose answering runs touch what an end may touch. -/
structure EndsAct {α : Type} (a : Act α) : Prop where
  only : ∀ s x t, a.run s = .ok (x, t) → EndsOnly s t

namespace EndsAct

variable {α β : Type}

theorem of_tiers {a : Act α} (h : TiersAct a) : EndsAct a := ⟨fun s x t e => .of_tiers (h.only s x t e)⟩

theorem bind {a : Act α} {f : α → Act β} (ha : EndsAct a) (hf : ∀ x, EndsAct (f x)) : EndsAct (a >>= f) := .mk fun s _ _ h => by
  obtain ⟨x, u, hx, h⟩ := Act.of_bind h
  exact (ha.only s x u hx).trans ((hf x).only u _ _ h)

end EndsAct

/-! ## What it owes -/

theorem endsAct_heldBytes (ctx va len salt : Nat) : EndsAct (heldBytes ctx va len salt) := .mk fun s x t h => by
  simp only [StateT.run, heldBytes] at h
  split at h
  · exact nomatch h
  · cases h
    rfl

theorem endsAct_idleCounter (ctx : Nat) (cm : Cmd) : EndsAct (idleCounter ctx cm) := by
  unfold idleCounter
  split
  · exact .bind (endsAct_heldBytes ..) fun _ => .bind (endsAct_heldBytes ..) fun _ =>
      .bind (.of_tiers (tiersAct_putVirt ..)) fun _ => .of_tiers (tiersAct_putVirt ..)
  · exact .of_tiers (.pure _)

theorem returnOne_ends {push : Pool → Act Unit} (hp : ∀ p, TiersAct (push p)) (ctx seq : Nat) (x : State × List Nat) :
    EndsOnly x.1 (returnOne ctx seq push x).1.1 := by
  unfold returnOne
  split
  · exact .refl _
  · split
    · exact .refl _
    · split
      next h => exact .of_tiers ((TiersAct.bind (tiersAct_poolAt ..) hp).only _ _ _ h)
      next => exact .noteErr ..
      next => exact .refl _

theorem returnEach_ends {α : Type} {push : α → Pool → Act Unit} (hp : ∀ a p, TiersAct (push a p)) (ctx : Nat) (seq : α → Nat) (l : List α)
    (x : State × List Nat) : EndsOnly x.1 (returnEach ctx seq push l x).1.1 :=
  List.foldlRecOn (motive := fun (y : (State × List Nat) × List α) => EndsOnly x.1 y.1.1) l.reverse _ (.refl _)
    fun y hy b _ => hy.trans (returnOne_ends (hp b) ctx (seq b) y.1)

theorem returnTaken_ends (s : State) (ctx : Nat) (cm : Cmd) : EndsOnly s (s.returnTaken ctx cm).1 :=
  (returnEach_ends (fun _ p => p.tiersAct_pushBlock _) ctx _ cm.reserved (s, [])).trans
    (returnEach_ends (fun _ p => p.tiersAct_pushPage _) ctx AppendPage.seq (cm.pages.filter AppendPage.taken) _)

theorem noteOwed_ends (s : State) (q n : Nat) (cm : Cmd) (e : AccErr) : EndsOnly s (s.noteOwed q n cm e) := by
  cases e with
  | status st nt =>
    unfold State.noteOwed
    dsimp only
    split
    · exact .refl s
    · exact (EndsOnly.noteErr s nt).trans (.updCmd ..)
  | resetting g => exact .logAbsent s _
  | fenced g => exact .logAbsent s _
  | hostDown p => exact .refl s
  | noRoute node => exact .refl s

theorem payOwed_ends (s : State) (q n : Nat) : EndsOnly s (s.payOwed q n).1 := by
  unfold State.payOwed
  split
  · exact .refl s
  next cm _ =>
    dsimp only
    split
    next => exact noteOwed_ends s q n cm _
    next h => exact ((endsAct_idleCounter _ cm).only _ _ _ h).trans ((returnTaken_ends _ _ cm).trans (.updCmd ..))

/-! ## What it holds -/

theorem clearSlot_ends (s : State) (c : CoreId) (k : KsId) : EndsOnly s (s.clearSlot c k) := by
  have h := dropSlot_frame s c k
  unfold State.dropSlot at h
  rw [h]
  rfl

theorem endRounds_ends (s : State) (q n : Nat) (p : Nat → Bool) : EndsOnly s (s.endRounds q n p) := by
  refine EndsOnly.foldl (fun s c => EndsOnly.foldl (fun s k => ?_) _ s) _ s
  split
  · exact clearSlot_ends s c k
  · exact .refl s

theorem stopRounds_ends (s : State) (q n : Nat) : EndsOnly s (s.stopRounds q n) := by
  unfold State.stopRounds
  split
  · exact .refl s
  · split
    · exact (endRounds_ends s q n _).trans (.updCmd ..)
    · exact .refl s

theorem releaseHolds_ends (s : State) (q n : Nat) (cm : Cmd) : EndsOnly s (s.releaseHolds q n cm) := by
  refine (stopRounds_ends s q n).trans ?_
  unfold State.releaseHolds
  dsimp only
  rw [foldl_updSeq_frame]
  rfl

/-! ## Releases and roles that follow -/

theorem eraseCoil_ends (s : State) (i : Nat) : EndsOnly s (s.eraseCoil i) := by
  unfold State.eraseCoil
  split
  · exact .refl s
  · exact (EndsOnly.foldl (f := fun s j => { s with coils := eraseAt s.coils (i + j) }) (fun _ _ => by rfl) _ s).trans
      (.foldl (fun _ _ => by rfl) _ _)

theorem eraseSeq_ends (s : State) (id : Nat) (x : Seq) : EndsOnly s (s.eraseSeq id x) := by
  unfold State.eraseSeq
  cases x.coil with
  | none => rfl
  | some c => exact EndsOnly.trans (by rfl) (eraseCoil_ends _ c)

theorem releaseSeq_ends {id : Nat} {s t : State} {y : Unit} (h : (releaseSeq id).run s = .ok (y, t)) : EndsOnly s t := by
  have h := Act.of_get_bind h
  split at h
  · rw [(Act.of_pure h).2]
    exact .refl s
  rename_i x hx
  have herase {u : State} (hu : EndsOnly s u) (h : (modify (fun s => s.eraseSeq id x) : Act PUnit).run u = .ok (y, t)) : EndsOnly s t := by
    rw [Act.of_modify h]
    exact hu.trans (eraseSeq_ends u id x)
  cases hbad : s.seqBad id x with
  | true =>
    rw [hbad] at h
    exact herase (.refl s) h
  | false =>
    rw [hbad] at h
    obtain ⟨pool, s1, h1, h⟩ := Act.of_bind h
    obtain ⟨_, s2, h2, h⟩ := Act.of_bind h
    exact herase (.of_tiers (((tiersAct_poolAt ..).only _ _ _ h1).trans ((pool.tiersAct_releaseBlock ..).only _ _ _ h2))) h

theorem cullStep_ends (s : State) (q n id : Nat) : EndsOnly s (s.cullStep q n id) := by
  unfold State.cullStep
  split
  · exact .refl s
  split
  next h => exact (releaseSeq_ends h).trans (.updCmd ..)
  next => exact (EndsOnly.noteErr ..).trans (.updCmd ..)
  next => exact .refl s

theorem runCulls_ends (s : State) : EndsOnly s s.runCulls := by
  refine EndsOnly.foldl (fun s cm => ?_) _ s
  split
  · exact (EndsOnly.foldl (fun s id => cullStep_ends s cm.q cm.n id) _ s).trans (.updCmd ..)
  · exact .refl s

theorem roleEffects_ends (s : State) : EndsOnly s s.roleEffects := by
  refine EndsOnly.foldl (fun s g => ?_) _ s
  unfold State.roleEffect
  dsimp only
  split
  · rfl
  · rfl

theorem settle_ends (s : State) (q n : Nat) : EndsOnly s (s.settle q n) := by
  unfold State.settle
  split
  · exact .refl s
  · split
    · exact .refl s
    · dsimp only
      split
      · exact payOwed_ends s q n
      · exact ((((payOwed_ends s q n).trans (releaseHolds_ends _ q n _)).trans (.updCmd ..)).trans (runCulls_ends _)).trans (roleEffects_ends _)

/-! ## Records -/

theorem holdWrite_ends (s : State) (q : Nat) (w : HeldWrite) (e : AccErr) (va : Nat) : EndsOnly s (s.holdWrite q w e va) := by
  unfold State.holdWrite
  split
  · exact .refl s
  · extract_lets logged logs s1
    refine (EndsOnly.updQueue s q _ : EndsOnly s s1).trans ?_
    split
    · split
      · exact .refl _
      · exact .noteErr ..
    · split
      · exact .refl _
      · exact .logEv ..
    · exact .logAbsent ..
    · exact .logAbsent ..
    · exact .refl _

theorem writeVirt_ends {s t : State} {g : Option RegionId} {ctx va : Nat} {bs : List Byte} (e : s.writeVirt g ctx va bs = .ok t) : EndsOnly s t :=
  .of_tiers (writeVirt_tiers e)

theorem postRecord_ends (s : State) (q : Nat) (qu : Queue) : EndsOnly s (s.postRecord q qu) := by
  unfold State.postRecord
  split
  · exact .refl s
  split
  · exact .refl s
  dsimp only
  split
  next => exact holdWrite_ends ..
  next s1 h1 =>
  split
  next => exact (writeVirt_ends h1).trans (holdWrite_ends ..)
  next s2 h2 =>
  refine ((writeVirt_ends h1).trans (writeVirt_ends h2)).trans ?_
  split
  · split
    · rfl
    · rfl
  · rfl

theorem postNext_ends (s : State) (q : Nat) : EndsOnly s (s.postNext q) := by
  unfold State.postNext
  split
  · exact .refl s
  · split
    · exact .refl s
    · exact postRecord_ends s q _

theorem post_ends (s : State) (q : Nat) : EndsOnly s (s.post q) := by
  unfold State.post
  generalize s.cmds.length = f
  induction f generalizing s with
  | zero => exact .refl s
  | succ f ih =>
    rw [State.postGo]
    split
    · split
      · exact postNext_ends s q
      · exact (postNext_ends s q).trans (ih _)
    · exact .refl s

/-- The end of a command touches no more than that. -/
theorem endCmd_ends (s : State) (q n status : Nat) (commit : Bool) : EndsOnly s (s.endCmd q n status commit) :=
  ((EndsOnly.updCmd s q n _).trans (settle_ends _ q n)).trans (post_ends _ q)

end Sys2Proof.Machine
end

section
/-! PROOF. Dispatch: the order of waiting commands, the pass over them, ageing, and the checks that every command meets first (16, R307, R308,
R312; 21, R409). -/

namespace Sys2Proof.Machine

/-! ## The order of waiting commands -/

/-- Earlier in the order: by priority, then acceptance, then queue, then place in the queue. -/
theorem before_iff (a b : Cmd) : a.before b = true ↔ b.prio < a.prio ∨ (a.prio = b.prio ∧ (a.acceptedAt < b.acceptedAt
    ∨ (a.acceptedAt = b.acceptedAt ∧ (a.q < b.q ∨ (a.q = b.q ∧ a.acceptIdx < b.acceptIdx))))) := by
  unfold Cmd.before
  split
  next h => simp [h]
  next h =>
  have hp : a.prio = b.prio := not_not.1 h
  split
  next h => simp [hp, h]
  next h =>
  have ht : a.acceptedAt = b.acceptedAt := not_not.1 h
  split
  next h => simp [hp, ht, h]
  next h => simp [hp, ht, not_not.1 h]

/-- Two commands, one before the other: a third that is not behind the first is before the second. -/
theorem before_of_before_of_not {a b c : Cmd} (h : a.before b = true) (hc : a.before c = false) : c.before b = true := by
  rw [← Bool.not_eq_true] at hc
  rw [before_iff] at h hc ⊢
  omega

theorem before_asymm {a b : Cmd} (h : a.before b = true) : b.before a = false := by
  rw [← Bool.not_eq_true]
  rw [before_iff] at h ⊢
  omega

theorem insertCmd_perm (c : Cmd) (l : List Cmd) : (insertCmd c l).Perm (c :: l) := by
  induction l with
  | nil => exact .refl _
  | cons x l ih =>
    unfold insertCmd
    split
    · exact .refl _
    · exact (ih.cons x).trans (.swap c x l)

theorem insertCmd_sorted {c : Cmd} {l : List Cmd} (h : l.Pairwise (fun a b => b.before a = false)) :
    (insertCmd c l).Pairwise (fun a b => b.before a = false) := by
  induction l with
  | nil => exact List.pairwise_singleton _ _
  | cons x l ih =>
    obtain ⟨hx, hl⟩ := List.pairwise_cons.1 h
    unfold insertCmd
    split
    next hc =>
      refine List.pairwise_cons.2 ⟨fun y hy => ?_, h⟩
      rcases List.mem_cons.1 hy with rfl | hy
      · exact before_asymm hc
      · rw [← Bool.not_eq_true]
        exact fun hyc => Bool.noConfusion ((hx y hy).symm.trans (before_of_before_of_not (b := x) (a := c) hc (before_asymm hyc)))
    next hc =>
      refine List.pairwise_cons.2 ⟨fun y hy => ?_, ih hl⟩
      rcases List.mem_cons.1 ((insertCmd_perm c l).mem_iff.1 hy) with rfl | hy
      · exact Bool.not_eq_true _ ▸ hc
      · exact hx y hy

theorem sortCmds_perm (l : List Cmd) : (sortCmds l).Perm l := by
  induction l with
  | nil => exact .refl _
  | cons c l ih => exact (insertCmd_perm c _).trans (ih.cons c)

theorem sortCmds_sorted (l : List Cmd) : (sortCmds l).Pairwise (fun a b => b.before a = false) := by
  induction l with
  | nil => exact .nil
  | cons c l ih => exact insertCmd_sorted ih

/-! ## The pass -/

/-- The resources that a command keeps back, and the pass behind it. -/
theorem dispatchGo_passed {s : State} {x : Cmd} (h : passedOver s x) (rest : List Cmd) (blocked : List Res) :
    ∃ blocked', dispatchGo s.quenched s.fls.quench.isSome (x :: rest) blocked s = dispatchGo s.quenched s.fls.quench.isSome rest blocked' s
      ∧ ∀ r, r ∈ blocked' ↔ r ∈ blocked ∨ keepsBack s x r := by
  rw [dispatchGo]
  cases hd : s.dispatchable s.quenched x with
  | false => exact ⟨blocked, by simp, fun r => by simp [keepsBack, hd]⟩
  | true =>
  cases ho : s.orderOk x with
  | false => exact ⟨blocked, by simp, fun r => by simp [keepsBack, ho]⟩
  | true =>
  obtain ⟨qu, hq, hif, hch, r, hr, hm⟩ : ∃ qu, lookup s.queues x.q = some qu ∧ s.ifOkHolds x = true ∧ s.checks14 x qu = none
      ∧ ∃ r ∈ s.needs x qu.ctx, s.missing x qu s.fls.quench.isSome r = true := by simpa [passedOver, hd, ho] using h
  have hwant : ((s.needs x qu.ctx).filter (s.missing x qu s.fls.quench.isSome)).isEmpty = false := by
    rw [List.isEmpty_eq_false_iff_exists_mem]
    exact ⟨r, List.mem_filter.2 ⟨hr, hm⟩⟩
  simp only [hq, hif, hch, hwant, Bool.not_true, Bool.or_self, Bool.false_eq_true, if_false, Bool.not_false, if_true]
  refine ⟨_, rfl, fun r => ?_⟩
  cases hcap : x.capped with
  | false => simp [keepsBack, hcap]
  | true => simp [keepsBack, hcap, hd, ho, hq, or_comm]

/-- The commands that a pass goes past, one after another. -/
theorem dispatchGo_passed_all {s : State} {pre : List Cmd} (h : ∀ x ∈ pre, passedOver s x) (rest : List Cmd) (blocked : List Res) :
    ∃ blocked', dispatchGo s.quenched s.fls.quench.isSome (pre ++ rest) blocked s = dispatchGo s.quenched s.fls.quench.isSome rest blocked' s
      ∧ ∀ r, r ∈ blocked' ↔ r ∈ blocked ∨ ∃ x ∈ pre, keepsBack s x r := by
  induction pre generalizing blocked with
  | nil => exact ⟨blocked, rfl, fun r => by simp⟩
  | cons x pre ih =>
    obtain ⟨b1, h1, hb1⟩ := dispatchGo_passed (h x (by simp)) (pre ++ rest) blocked
    obtain ⟨b2, h2, hb2⟩ := ih (fun y hy => h y (by simp [hy])) b1
    exact ⟨b2, h1.trans h2, fun r => by rw [hb2, hb1]; simp [or_assoc]⟩

section

variable {s : State} {cm : Cmd} {rest : List Cmd} {blocked : List Res} {qu : Queue} (hq : lookup s.queues cm.q = some qu)
  (hd : s.dispatchable s.quenched cm = true) (ho : s.orderOk cm = true) (hif : s.ifOkHolds cm = true)
include hq hd ho hif

/-- A command with everything it takes, none of it kept back, is granted. -/
theorem dispatchGo_grants (hch : s.checks14 cm qu = none)
    (hr : ∀ r ∈ s.needs cm qu.ctx, s.missing cm qu s.fls.quench.isSome r = false ∧ r ∉ blocked) :
    dispatchGo s.quenched s.fls.quench.isSome (cm :: rest) blocked s = s.grant cm qu.ctx := by
  have hwant : (s.needs cm qu.ctx).filter (s.missing cm qu s.fls.quench.isSome) = [] :=
    List.filter_eq_nil_iff.2 fun r h => by simp [(hr r h).1]
  have hfree : (s.needs cm qu.ctx).any (fun r => blocked.contains r) = false :=
    List.any_eq_false.2 fun r h => by simp [(hr r h).2]
  rw [dispatchGo]
  simp only [hd, ho, hif, hq, hch, hwant, hfree, Bool.not_true, Bool.or_self, Bool.false_eq_true, if_false, List.isEmpty_nil]

/-- A command that wants a resource which is kept back is gone past. -/
theorem dispatchGo_waits (hch : s.checks14 cm qu = none) {r : Res} (hr : r ∈ s.needs cm qu.ctx) (hb : r ∈ blocked) :
    dispatchGo s.quenched s.fls.quench.isSome [cm] blocked s = s := by
  have hkept : (s.needs cm qu.ctx).any (fun r => blocked.contains r) = true := List.any_eq_true.2 ⟨r, hr, by simpa using hb⟩
  rw [dispatchGo]
  simp only [hd, ho, hif, hq, hch, hkept, Bool.not_true, Bool.or_self, Bool.false_eq_true, if_false, if_true]
  split
  · rfl
  · rfl

/-- A command that fails a check of R307 ends, and the pass goes on. -/
theorem dispatchGo_fails {st : Nat} (hch : s.checks14 cm qu = some st) :
    dispatchGo s.quenched s.fls.quench.isSome [cm] [] s = s.endCmd cm.q cm.n st false := by
  simp [dispatchGo, hd, ho, hif, hq, hch]

end

/-- In Blaze a dispatch is its pass. -/
theorem exec_commandDispatch {s t : State} (hp : s.pwr.current = 0) (hg : ∀ x ∈ s.cmds, x.phase ≠ .granted)
    (h : dispatchGo s.quenched s.fls.quench.isSome (sortCmds (s.cmds.filter (fun x => x.phase == .waiting))) [] s = t) (ht : t.pwr = s.pwr) :
    exec .commandDispatch s = .next t := by
  have hnone : s.cmds.any (fun c => c.phase == .granted) = false := List.any_eq_false.2 fun x hx => by simp [hg x hx]
  have hpass : s.dispatch s.quenched s.fls.quench.isSome = t := by simp [State.dispatch, hnone, h]
  refine congrArg Host.Outcome.next ?_
  simp only [State.dispatchAwake, hp, hpass, leaveLow_of_blaze (ht ▸ hp : t.pwr.current = 0)]
  simp

/-! ## The grant, and ageing -/

theorem grant_frame (s : State) (cm : Cmd) (ctx : Nat) :
    s.grant cm ctx = { s with cmds := (s.grant cm ctx).cmds, acctWait := (s.grant cm ctx).acctWait } := by
  unfold State.grant
  dsimp only
  split
  · rfl
  · rfl

theorem grant_acctWait (s : State) (cm : Cmd) (ctx : Nat) : (s.grant cm ctx).acctWait
    = if cm.counted then s.acctWait else bump s.acctWait ctx (BitVec.ofNat 64 (s.timeNs - cm.acceptedAt)) := by
  unfold State.grant
  cases cm.counted <;> rfl

theorem grant_cmds (s : State) (cm : Cmd) (ctx : Nat) :
    (s.grant cm ctx).cmds = (s.updCmd cm.q cm.n (fun x => { x with phase := .granted, counted := true })).cmds := by
  unfold State.grant
  cases cm.counted <;> rfl

theorem grant_cmd? (s : State) (cm : Cmd) (ctx q n : Nat) :
    (s.grant cm ctx).cmd? q n = (s.updCmd cm.q cm.n (fun x => { x with phase := .granted, counted := true })).cmd? q n := by
  simp only [State.cmd?, grant_cmds]

theorem exec_dispatchAgeing {s : State} {q n : Nat} {cm : Cmd} (h : s.cmd? q n = some cm) (hp : cm.phase = .waiting) (hh : cm.held = false)
    (ho : s.orderOk cm = true) : exec (.dispatchAgeing q n) s
      = .next (s.updCmd q n (fun c => if c.prio < 7 then { c with prio := c.prio + 1 } else { c with capped := true })) :=
  congrArg Host.Outcome.next (by simp [h, hp, hh, ho])

/-- Settles O24: the order of the sort, the pass up to the first command that it does not go past, and ageing. -/
theorem dispatchTakesTheFirst : Obligations.DispatchTakesTheFirst := by
  refine ⟨fun l => ⟨sortCmds_perm l, sortCmds_sorted l⟩, before_iff,
    fun s cm pre post qu hp hg hsort hpre hq hcm hd ho hif hch => ?pass, fun s q n cm hcm hp hh ho => ?ageing⟩
  case pass =>
    obtain ⟨blocked, hgo, hb⟩ := dispatchGo_passed_all hpre (cm :: post) []
    simp only [List.not_mem_nil, false_or] at hb
    rw [← hsort] at hgo
    refine ⟨fun hr => ?_, fun hpost ⟨r, hr, hkept⟩ => ?_⟩
    · have hgrant := dispatchGo_grants (rest := post) (blocked := blocked) hq hd ho hif hch fun r h =>
        ⟨(hr r h).1, fun hmem => by
          obtain ⟨x, hx, hk⟩ := (hb r).1 hmem
          exact (hr r h).2 x hx hk⟩
      refine ⟨_, exec_commandDispatch hp hg (hgo.trans hgrant) (by rw [grant_frame]), ?_, fun q n ne => ?_, grant_acctWait .., grant_frame ..⟩
      · rw [grant_cmd?, cmd?_updCmd_self _ _ _ fun _ => by exact ⟨rfl, rfl⟩, hcm]
        rfl
      · rw [grant_cmd?, cmd?_updCmd_other _ (fun _ => by exact ⟨rfl, rfl⟩) ne.symm]
    · subst hpost
      exact exec_commandDispatch hp hg (hgo.trans (dispatchGo_waits hq hd ho hif hch hr ((hb r).2 hkept))) rfl
  case ageing =>
    have hname (x : Cmd) : (if x.prio < 7 then { x with prio := x.prio + 1 } else { x with capped := true } : Cmd).q = x.q
        ∧ (if x.prio < 7 then { x with prio := x.prio + 1 } else { x with capped := true } : Cmd).n = x.n := by
      split
      · exact ⟨rfl, rfl⟩
      · exact ⟨rfl, rfl⟩
    refine ⟨_, exec_dispatchAgeing hcm hp hh ho, ?_, fun q' n' ne => cmd?_updCmd_other s hname ne.symm, rfl⟩
    rw [cmd?_updCmd_self s q n hname, hcm]
    rfl

/-- Settles O25: the checks one behind another, and the end of the one waiting command that fails one. -/
theorem firstChecksInOrder : Obligations.FirstChecksInOrder := by
  refine fun s cm qu => ⟨fun h => if_pos h, fun hmaj hmin => ?later, fun st hp hg hone hch hq hd ho hif => ?ends⟩
  case later =>
    have habi : ¬ (fld (cm.at 0 4) 15 8 ≠ qu.major ∨ qu.minor < fld (cm.at 0 4) 7 0) := by omega
    refine ⟨fun ht => (if_neg habi).trans (if_pos ht), fun h1 h2 => ?_⟩
    have htype : ¬ (cm.type = 0 ∨ 0x0B < cm.type) := by omega
    have hchecks : s.checks14 cm qu = if !cm.reservedClean then some stVersion else if !s.rangeClean cm qu.ctx then some stMalformed else none :=
      (if_neg habi).trans (if_neg htype)
    refine ⟨fun hr => ?_, fun hr hc => ?_⟩
    · rw [hchecks, hr]
      rfl
    · rw [hchecks, hr, hc]
      rfl
  case ends =>
    refine exec_commandDispatch hp hg ?_ (by rw [endCmd_ends s cm.q cm.n st false])
    rw [hone]
    exact dispatchGo_fails hq hd ho hif hch

end Sys2Proof.Machine
end

section
/-! PROOF. The queue engine and records in queue order (16, R301, R303, R304, R310, R311; 17, R325, R326; R462). -/

namespace Sys2Proof.Machine

/-! ## Records -/

/-- A command found in the store under its name. -/
theorem cmd?_name {s : State} {q n : Nat} {cm : Cmd} (h : s.cmd? q n = some cm) : cm.q = q ∧ cm.n = n := by
  simpa only [Bool.and_eq_true, beq_iff_eq] using List.find?_some h

theorem cmd?_mem {s : State} {q n : Nat} {cm : Cmd} (h : s.cmd? q n = some cm) : cm ∈ s.cmds := List.mem_of_find?_eq_some h

theorem TiersOnly.queues {s t : State} (h : TiersOnly s t) : t.queues = s.queues := by rw [h]

/-- A command taken out of the store. -/
theorem cmd?_filter_gone (s : State) (q n : Nat) : State.cmd? { s with cmds := s.cmds.filter (fun c => !(c.q == q && c.n == n)) } q n = none := by
  refine List.find?_eq_none.2 fun x hx => ?_
  have hne := (List.mem_filter.1 hx).2
  revert hne
  cases (x.q == q && x.n == n) <;> simp

theorem record_length (cm : Cmd) (depth : Nat) : (cm.record depth).length = 32 := by simp [Cmd.record]

section

variable {s : State} {q : Nat} {qu : Queue} (hq : lookup s.queues q = some qu)
include hq

/-- A queue whose next command has not ended with its writes made posts nothing. -/
theorem postNext_waits (h : ∀ cm, s.cmd? q (qu.completed + 1) = some cm → cm.phase ≠ .ended ∨ cm.settled = false) : s.postNext q = s := by
  have hrec : s.postRecord q qu = s := by
    unfold State.postRecord
    cases hc : s.cmd? q (qu.completed + 1) with
    | none => rfl
    | some cm =>
      refine if_pos ?_
      rcases h cm hc with h | h
      · simp [h]
      · simp [h]
  simp [State.postNext, hq, hrec]

end

/-- A queue without ended commands posts nothing, however often it looks. -/
theorem post_of_none_ended {s : State} {q : Nat} (h : ∀ x ∈ s.cmds, x.q = q → x.phase ≠ .ended) : s.post q = s := by
  have hnext : s.postNext q = s := by
    cases hq : lookup s.queues q with
    | none => simp [State.postNext, hq]
    | some qu => exact postNext_waits hq fun cm hc => .inl (h cm (cmd?_mem hc) (cmd?_name hc).1)
  unfold State.post
  cases s.cmds.length with
  | zero => rfl
  | succ f =>
    rw [State.postGo, hnext]
    cases lookup s.queues q <;> simp

/-- A record posted: the command's bytes at its ring place, then COMPLETED, and the command out of the store (R311). -/
theorem postNext_posts {s s1 s2 : State} {q : Nat} {qu : Queue} {cm : Cmd} (hq : lookup s.queues q = some qu) (hheld : qu.postHeld = false)
    (hact : qu.state = .active) (hc : s.cmd? q (qu.completed + 1) = some cm) (hp : cm.phase = .ended) (hs : cm.settled = true)
    (h1 : s.writeVirt none qu.ctx (qu.cplRing + 32 * (qu.completed % qu.depth)) (cm.record qu.depth) = .ok s1)
    (h2 : s1.writeVirt none qu.ctx qu.statusBlock ({ qu with completed := qu.completed + 1 } : Queue).statusBytes = .ok s2) :
    ∃ u hif, u = { s2.updQueue q (fun x => { x with
            completed := cm.n, held := x.held.filter (fun w => w.1.accepts), prevOk := if cm.type = tyHint then x.prevOk else some cm.mark }) with
          cmds := s2.cmds.filter (fun c => !(c.q == q && c.n == cm.n)) }
      ∧ s.postNext q = { u with hif := hif } := by
  have hn : cm.n = qu.completed + 1 := (cmd?_name hc).2
  refine ⟨_, (s.postNext q).hif, rfl, ?_⟩
  have hpost : s.postNext q = s.postRecord q qu := by simp [State.postNext, hq, hheld, hact]
  have hended : (cm.phase != .ended || !cm.settled) = false := by simp [hp, hs]
  rw [hpost, State.postRecord]
  simp only [hc, hended, Bool.false_eq_true, if_false]
  rw [show (cm.n - 1) = qu.completed by omega, h1]
  dsimp only
  rw [hn, h2]
  dsimp only
  split
  · split
    · rfl
    · rfl
  · rfl

/-- Settles O26: what a queue whose next command is not there yet leaves, and what posting its record leaves. -/
theorem recordsInQueueOrder : Obligations.RecordsInQueueOrder := by
  refine fun s q qu hq hheld hact => ⟨postNext_waits hq, fun cm s1 s2 hc hp hs h1 h2 => ?_, record_length⟩
  obtain ⟨u, hif, hu, hpost⟩ := postNext_posts hq hheld hact hc hp hs h1 h2
  have hn : cm.n = qu.completed + 1 := (cmd?_name hc).2
  have hqueues : s2.queues = s.queues := (writeVirt_tiers h2).queues.trans (writeVirt_tiers h1).queues
  have hall : qu.held.filter (fun w => w.1.accepts) = qu.held :=
    List.filter_eq_self.2 fun w hw => by simpa using List.any_eq_false.1 hheld w hw
  rw [hpost, hu]
  refine ⟨?_, hn ▸ cmd?_filter_gone _ q cm.n, rfl, rfl, rfl⟩
  simp only [State.updQueue_queues, lookup_modifyAt_self, hqueues, hq, Option.map_some, hall, hn]

/-! ## Acceptance -/

/-- What the acceptance of a command leaves, its write of ACCEPTED made (R303, R325). -/
theorem acceptBytes_of_written {s s1 : State} {q : Nat} {qu : Queue} {bs : List Byte}
    (h : s.writeVirt none qu.ctx qu.statusBlock ({ qu with accepted := qu.accepted + 1 } : Queue).statusBytes = .ok s1) :
    s.acceptBytes q qu bs = { s1.updQueue q (fun x => { x with
        accepted := x.accepted + 1, held := x.held.filter (fun w => !w.1.accepts) }) with
      cmds := s.cmds ++ [newCmd q (qu.accepted + 1) qu.prio s.timeNs s.acceptCtr bs], acceptCtr := s.acceptCtr + 1,
      acceptTurn := s1.turnAfter q } := by
  have ht := writeVirt_tiers h
  have hcmds : s1.cmds = s.cmds := ht.cmds
  have htime : s1.timeNs = s.timeNs := by rw [ht]
  have hctr : s1.acceptCtr = s.acceptCtr := by rw [ht]
  unfold State.acceptBytes
  simp only [h, State.updQueue_cmds, State.updQueue_timeNs, State.updQueue_acceptCtr, hcmds, htime, hctr]

section

variable {s : State} {q : Nat} {qu : Queue} {i : Instr} (hq : lookup s.queues q = some qu) (hf : s.mayFetch qu = true)
  (hi : i = .commandAccept q ∧ qu.fetchFailed = false ∧ s.acceptsFrom q = true ∨ i = .commandFetchRetry q ∧ qu.fetchFailed = true)
include hq hf hi

theorem exec_fetchNext : exec i s = .next (s.fetchNext q qu) := by
  rcases hi with ⟨rfl, hfail, hturn⟩ | ⟨rfl, hfail⟩
  · exact congrArg Host.Outcome.next (by simp [hq, hf, hfail, hturn])
  · exact congrArg Host.Outcome.next (by simp [hq, hf, hfail])

end

/-- A queue that may fetch has no acceptance of its own waiting. -/
theorem filter_held_of_mayFetch {s : State} {qu : Queue} (h : s.mayFetch qu = true) : qu.held.filter (fun w => !w.1.accepts) = qu.held := by
  have hacc : qu.acceptHeld = false := by
    simp only [State.mayFetch, Bool.and_eq_true, Bool.not_eq_true'] at h
    exact h.1.1.1.2
  exact List.filter_eq_self.2 fun w hw => by simpa using List.any_eq_false.1 hacc w hw

/-- What a failing access notes leaves every byte of stacked memory. -/
theorem noteErr_sameBytes (s : State) (n : ErrNote) : SameBytes s (s.noteErr n) := by
  cases n with
  | none => exact .refl s
  | xlate ctx va => exact .logEv s _
  | read l len => exact noteRead_sameBytes s l len
  | part l bs =>
    unfold State.noteErr State.noteParts
    dsimp only
    split
    · exact SameBytes.foldl (fun s _ => noteBlockBy_sameBytes s _ _ _ _) _ s
    · exact .refl s

/-- A queue's registers beside its table entry changed: stacked memory reads as it did. -/
theorem updQueue_sameBytes (s : State) (q : Nat) {f : Queue → Queue} (hf : ∀ x i, (f x).entryBytes i = x.entryBytes i) :
    SameBytes s (s.updQueue q f) := by
  have htable (b : Nat) : (s.updQueue q f).tableBlock b = s.tableBlock b := by
    unfold State.tableBlock
    dsimp only [State.updQueue_tblQueue, State.updQueue_tblSeq, State.updQueue_tblCoil, State.updQueue_tblPark, State.updQueue_freshCtr,
      State.updQueue_seqs, State.updQueue_coils, State.updQueue_queueGens, State.updQueue_queues]
    generalize (32 * b - s.tblQueue) / 64 = i
    by_cases h : i = q
    · rw [h, lookup_modifyAt_self]
      cases lookup s.queues q with
      | none => rfl
      | some x =>
        simp only [Option.map_some, hf]
        rfl
    · rw [lookup_modifyAt_ne _ _ h]
      rfl
  exact .of_eq fun b => stackedCheck_congr (htable b) rfl rfl

/-- What a failed command read leaves: its count, a record, and FETCH_FAILED (R304). -/
theorem fetchFail_spec {s : State} {q : Nat} {qu : Queue} (hq : lookup s.queues q = some qu) (va : Nat) :
    lookup (s.fetchFail q qu va).queues q = some { qu with fetchFailed := true }
      ∧ (s.fetchFail q qu va).cntFetchFail = s.cntFetchFail + 1 ∧ (s.fetchFail q qu va).cmds = s.cmds ∧ sameMemory s (s.fetchFail q qu va) := by
  have hbytes : SameBytes s (s.fetchFail q qu va) :=
    (SameBytes.trans (t := { s with cntFetchFail := s.cntFetchFail + 1 }) (fun _ => by rfl) (.logEv _ _)).trans
      (updQueue_sameBytes _ q fun _ _ => rfl)
  refine ⟨?_, ?_, ?_, ?_, ?_, ?_, hbytes.sameStacked, ?_⟩
  all_goals unfold State.fetchFail
  · rw [State.updQueue_queues, lookup_modifyAt_self, logEv_frame, hq]
    rfl
  all_goals
    rw [logEv_frame]
    rfl

/-- A queue's held writes, one of them: the retry of that write, then the records. -/
theorem exec_heldWriteRetry {s : State} {q : Nat} {qu : Queue} {w : HeldWrite} {logged : Bool} (hq : lookup s.queues q = some qu)
    (hheld : qu.held = [(w, logged)]) (hnone : ∀ x ∈ s.cmds, x.q = q → x.phase ≠ .ended) :
    exec (.heldWriteRetry q) s = .next ((s.retryWrite q w).post q) := by
  have hsettle : s.settleQueue q = s := by
    have hempty : s.cmds.filter (fun c => c.q == q && c.phase == .ended && !c.settled) = [] :=
      List.filter_eq_nil_iff.2 fun x hx => by
        by_cases h : x.q = q
        · simp [hnone x hx h]
        · simp [h]
    unfold State.settleQueue
    rw [hempty]
    rfl
  refine congrArg Host.Outcome.next ?_
  simp only [hsettle, State.retryHeld, hq, hheld, List.foldl_cons, List.foldl_nil]

/-- Settles O23: the fetch by its outcomes, and a held write that can be made. -/
theorem commandsAreAcceptedInOrder : Obligations.CommandsAreAcceptedInOrder := by
  refine ⟨fun s q qu i hq hf hi => ⟨fun bs s1 hread hw => ?accept, fun st note hread => ?fail⟩,
    fun s s1 q qu hq hnone => ⟨fun bs logged hheld hw => ?held, fun logged hheld hw => ?status⟩⟩
  case accept =>
    have hn : NotesOnly s (s.noteVirt none qu.ctx qu.nextVA 64) := noteVirt_notes ..
    have hfetch : s.fetchNext q qu
        = ((s.noteVirt none qu.ctx qu.nextVA 64).updQueue q (fun x => { x with fetchFailed := false })).acceptBytes q qu bs := by
      simp only [State.fetchNext, Queue.nextVA, hread]
    rw [acceptBytes_of_written hw] at hfetch
    have hcmds := hn.tiers.cmds
    have htime : (s.noteVirt none qu.ctx qu.nextVA 64).timeNs = s.timeNs := by rw [hn.1]
    have hctr : (s.noteVirt none qu.ctx qu.nextVA 64).acceptCtr = s.acceptCtr := by rw [hn.1]
    have hqueues : s1.queues = modifyAt s.queues q (fun x => { x with fetchFailed := false }) := by
      rw [writeVirt_tiers hw, hn.1]
      rfl
    simp only [State.updQueue_cmds, State.updQueue_timeNs, State.updQueue_acceptCtr, hcmds, htime, hctr] at hfetch
    refine ⟨_, newCmd q (qu.accepted + 1) qu.prio s.timeNs s.acceptCtr bs, (exec_fetchNext hq hf hi).trans (congrArg _ hfetch), rfl, rfl, rfl,
      rfl, rfl, rfl, rfl, rfl, rfl, rfl, ?_, rfl⟩
    simp only [State.updQueue_queues, hqueues, lookup_modifyAt_self, hq, Option.map_some, filter_held_of_mayFetch hf]
  case fail =>
    have hn : NotesOnly s (s.noteErr note) := noteErr_notes s note
    have hfetch : s.fetchNext q qu = (s.noteErr note).fetchFail q qu qu.nextVA := by simp only [State.fetchNext, Queue.nextVA, hread]
    have hq' : lookup (s.noteErr note).queues q = some qu := by rw [hn.1]; exact hq
    obtain ⟨hlook, hcnt, hcmds, hcore, hacc, hreg, hst, hhost⟩ := fetchFail_spec hq' qu.nextVA
    refine ⟨_, (exec_fetchNext hq hf hi).trans (congrArg _ hfetch), hlook, hcnt.trans (by rw [hn.1]), hcmds.trans hn.tiers.cmds,
      hcore.trans (by rw [hn.1]), hacc.trans (by rw [hn.1]), hreg.trans (by rw [hn.1]), fun a => (hst a).trans ?_, hhost.trans (by rw [hn.1])⟩
    exact (noteErr_sameBytes s note).sameStacked a
  case held =>
    have hretry : s.retryWrite q (.accepted bs) = s.acceptBytes q qu bs := by simp only [State.retryWrite, hq]
    have hexec := exec_heldWriteRetry hq hheld hnone
    rw [hretry, acceptBytes_of_written hw, post_of_none_ended] at hexec
    · refine ⟨_, newCmd q (qu.accepted + 1) qu.prio s.timeNs s.acceptCtr bs, hexec, rfl, rfl, rfl, rfl, rfl, ?_, rfl⟩
      have hqueues : s1.queues = s.queues := (writeVirt_tiers hw).queues
      simp only [State.updQueue_queues, hqueues, lookup_modifyAt_self, hq, Option.map_some, hheld]
      rfl
    · intro x hx hxq
      rcases List.mem_append.1 hx with hx | hx
      · exact hnone x hx hxq
      · rw [List.mem_singleton.1 hx]
        exact fun h => nomatch h
  case status =>
    have hretry : s.retryWrite q .status = s1.updQueue q (fun x => { x with held := x.held.filter (fun y => y.1 != .status) }) := by
      simp only [State.retryWrite, hq, hw]
    have hexec := exec_heldWriteRetry hq hheld hnone
    have ht := writeVirt_tiers hw
    rw [hretry, post_of_none_ended] at hexec
    · refine ⟨_, hexec, ?_, rfl⟩
      have hqueues : s1.queues = s.queues := ht.queues
      simp only [State.updQueue_queues, hqueues, lookup_modifyAt_self, hq, Option.map_some, hheld]
      rfl
    · intro x hx
      exact hnone x (ht.cmds ▸ hx)

end Sys2Proof.Machine
end

section
/-! PROOF. FENCE, SIGNAL, WAIT and HINT (16, R308, R309; 21, R418, R419). -/

namespace Sys2Proof.Machine

/-! ## Commands at work -/

theorem working?_of_granted {s : State} {q n ty : Nat} {cm : Cmd} (h : s.cmd? q n = some cm) (hp : cm.phase ∈ [.granted, .dispatched])
    (ht : cm.type = ty) (hh : cm.held = false) : s.working? q n ty = some cm := by
  rcases List.mem_cons.1 hp with hp | hp
  · simp [State.working?, h, hp, ht, hh]
  · simp [State.working?, h, List.mem_singleton.1 hp, ht, hh]

theorem waiting?_of_dispatched {s : State} {q n : Nat} {cm : Cmd} (h : s.cmd? q n = some cm) (hp : cm.phase = .dispatched)
    (ht : cm.type = tyWait) (hh : cm.held = false) : s.waiting? q n = some cm := by simp [State.waiting?, h, hp, ht, hh]

/-- A command's phase changed where it stands. -/
theorem cmd?_updCmd_phase {s : State} {q n : Nat} {cm : Cmd} (h : s.cmd? q n = some cm) (p : Phase) :
    (s.updCmd q n (fun x => { x with phase := p })).cmd? q n = some { cm with phase := p } := by
  rw [cmd?_updCmd_self s q n fun _ => by exact ⟨rfl, rfl⟩, h]
  rfl

/-! ## Runs forward -/

theorem Act.run_bind_ok {α β : Type} {a : Act α} {f : α → Act β} {s t : State} {x : α} (h : a.run s = .ok (x, t)) :
    (a >>= f).run s = (f x).run t := by
  show (a.run s >>= fun p => (f p.1).run p.2) = _
  rw [h]
  rfl

theorem Act.run_bind_error {α β : Type} {a : Act α} {f : α → Act β} {s : State} {e : AccErr} (h : a.run s = .error e) :
    (a >>= f).run s = .error e := by
  show (a.run s >>= fun p => (f p.1).run p.2) = _
  rw [h]
  rfl

theorem run_putNat_ok {ctx va k v : Nat} {s t : State} (h : s.writeVirt none ctx va (leBytes k v) = .ok t) :
    (putNat ctx va k v).run s = .ok ((), t) := by
  simp only [StateT.run, putNat, putVirt, h]

/-! ## SIGNAL (R309) -/

/-- The place of an event does not depend on the commands. -/
theorem eventVA_updCmd {s : State} {ctx : Nat} {cx : Ctx} (hc : lookup s.ctxs ctx = some cx) (q n : Nat) (f : Cmd → Cmd) (i : Nat) :
    (s.updCmd q n f).eventVA ctx i = cx.eventTable + 8 * i := by
  simp only [State.eventVA, State.updCmd_ctxs, hc]

section

variable {s : State} {q n : Nat} {cm : Cmd} {cx : Ctx} (h : s.cmd? q n = some cm) (hp : cm.phase ∈ [.granted, .dispatched])
  (ht : cm.type = tySignal) (hh : cm.held = false) (hc : lookup s.ctxs (s.queueCtx q) = some cx)
include h hp ht hh hc

theorem exec_signal_of_run {x : Unit} {u : State}
    (hr : (signalAct (s.queueCtx q) (cx.eventTable + 8 * cm.at 0x10 2) (bit (cm.at 0x10 4) 16) (cm.at 0x18 8)).run
      (s.updCmd q n (fun x => { x with phase := .dispatched })) = .ok (x, u)) :
    exec (.signal q n) s = .next (u.updCmd q n (fun x => { x with phase := .ready })) := by
  refine congrArg Host.Outcome.next ?_
  have hctx : (s.updCmd q n (fun x => { x with phase := .dispatched })).queueCtx q = s.queueCtx q := rfl
  simp only [working?_of_granted h hp ht hh, hctx, eventVA_updCmd hc, hr]

theorem exec_signal_of_error {e : AccErr}
    (hr : (signalAct (s.queueCtx q) (cx.eventTable + 8 * cm.at 0x10 2) (bit (cm.at 0x10 4) 16) (cm.at 0x18 8)).run
      (s.updCmd q n (fun x => { x with phase := .dispatched })) = .error e) :
    exec (.signal q n) s = .next ((s.updCmd q n (fun x => { x with phase := .dispatched })).eventErr q n e) := by
  refine congrArg Host.Outcome.next ?_
  have hctx : (s.updCmd q n (fun x => { x with phase := .dispatched })).queueCtx q = s.queueCtx q := rfl
  simp only [working?_of_granted h hp ht hh, hctx, eventVA_updCmd hc, hr]

theorem exec_signal_ok {old : Nat} {s0 s1 : State}
    (hget : (getNat (s.queueCtx q) (cx.eventTable + 8 * cm.at 0x10 2) 8).run (s.updCmd q n (fun x => { x with phase := .dispatched }))
      = .ok (old, s0))
    (hput : s0.writeVirt none (s.queueCtx q) (cx.eventTable + 8 * cm.at 0x10 2)
      (leBytes 8 (signalled (bit (cm.at 0x10 4) 16) old (cm.at 0x18 8))) = .ok s1) :
    exec (.signal q n) s = .next (s1.updCmd q n (fun x => { x with phase := .ready })) := by
  have hrun := (Act.run_bind_ok (f := fun old => putNat (s.queueCtx q) (cx.eventTable + 8 * cm.at 0x10 2) 8
    (signalled (bit (cm.at 0x10 4) 16) old (cm.at 0x18 8))) hget).trans (run_putNat_ok hput)
  exact exec_signal_of_run h hp ht hh hc hrun

theorem exec_signal_resetting {g : RegionId}
    (hget : (getNat (s.queueCtx q) (cx.eventTable + 8 * cm.at 0x10 2) 8).run (s.updCmd q n (fun x => { x with phase := .dispatched }))
      = .error (.resetting g)) :
    exec (.signal q n) s = .next ((s.updCmd q n (fun x => { x with phase := .dispatched })).logAbsent (.region g)) := by
  exact exec_signal_of_error h hp ht hh hc (Act.run_bind_error hget)

end

/-! ## WAIT (R309) -/

/-- A WAIT that reads its event: at VALUE or above it may commit. -/
theorem recheck_of_ok {s s1 : State} {q n v : Nat} {cm : Cmd} {cx : Ctx} (hc : lookup s.ctxs (s.queueCtx q) = some cx)
    (h : (getNat (s.queueCtx q) (cx.eventTable + 8 * cm.at 0x10 2) 8).run s = .ok (v, s1)) :
    s.recheck q n cm = if cm.at 0x18 8 ≤ v then s1.updCmd q n (fun x => { x with phase := .ready }) else s1 := by
  have hva : s.eventVA (s.queueCtx q) (cm.at 0x10 2) = cx.eventTable + 8 * cm.at 0x10 2 := by simp only [State.eventVA, hc]
  simp only [State.recheck, hva, h]

/-- What a look at an event leaves of its command and the rest. -/
theorem recheck_spec {s s1 : State} {q n v : Nat} {cm x : Cmd} {cx : Ctx} (hc : lookup s.ctxs (s.queueCtx q) = some cx)
    (hx : s.cmd? q n = some x) (hp : x.phase = .dispatched)
    (h : (getNat (s.queueCtx q) (cx.eventTable + 8 * cm.at 0x10 2) 8).run s = .ok (v, s1)) :
    (s.recheck q n cm).cmd? q n = some { x with phase := if cm.at 0x18 8 ≤ v then .ready else .dispatched }
      ∧ s.recheck q n cm = { s1 with cmds := (s.recheck q n cm).cmds } := by
  have hx1 : s1.cmd? q n = some x := (((tiersAct_getNat ..).only _ _ _ h).cmd? q n).trans hx
  rw [recheck_of_ok hc h]
  split
  next => exact ⟨cmd?_updCmd_phase hx1 _, rfl⟩
  next => exact ⟨hp ▸ hx1, rfl⟩

/-- A WAIT with no instances that fails ends at once (R309). -/
theorem failCmd_of_unplaced {s : State} {q n st : Nat} {cm : Cmd} (h : s.cmd? q n = some cm) (hp : cm.phase ≠ .ended) (hi : cm.insts = [])
    (ht : cm.trap = none) (he : cm.ending = none) :
    s.failCmd q n st = (s.updCmd q n (fun x => { x with ending := some (st, none) })).endCmd q n st false := by
  have h1 : (s.updCmd q n (fun x => { x with ending := some (st, none) })).cmd? q n = some { cm with ending := some (st, none) } := by
    rw [cmd?_updCmd_self s q n fun _ => by exact ⟨rfl, rfl⟩, h]
    rfl
  have hask : (s.updCmd q n (fun x => { x with ending := some (st, none) })).askAll q n .abort
      = s.updCmd q n (fun x => { x with ending := some (st, none) }) := by
    unfold State.askAll
    simp only [h1, hi, List.foldl_nil]
  simp [State.failCmd, State.endWith, h, he, hask, State.trapEnd, h1, hp, Cmd.placedAny, hi, ht]

/-! ## HINT (R418, R419) -/

theorem exec_hint {s : State} {q n : Nat} {cm : Cmd} (h : s.cmd? q n = some cm) (hp : cm.phase = .granted) (ht : cm.type = tyHint) :
    exec (.hint q n) s = .next ((s.recordHint (s.queueCtx q) (cm.at 0x10 4)).updCmd q n (fun x => { x with phase := .ready })) :=
  congrArg Host.Outcome.next (by simp only [granted?_of_granted h hp ht])

theorem recordHint_room {s : State} (h : s.pwr.hints.length < 64) (ctx cls : Nat) : s.recordHint ctx cls = { s with
    pwr := { s.pwr with hints := s.pwr.hints ++ [{ id := s.nextReq, ctx := ctx, cls := cls, started := false }] }
    nextReq := s.nextReq + 1 } := if_pos h

theorem recordHint_full {s : State} (h : 64 ≤ s.pwr.hints.length) (ctx cls : Nat) : s.recordHint ctx cls
    = State.logEv { s with pwr := { s.pwr with hintMiss := s.pwr.hintMiss + 1 } } { source := 13, cause := 8, ctx := some ctx } :=
  if_neg (Nat.not_lt.2 h)

/-- Settles O32: each command by its outcomes. -/
theorem fenceSignalWaitHint : Obligations.FenceSignalWaitHint := by
  refine ⟨⟨fun s q n cm h hp ht => ?fence, fun s q n cm cx h hp ht hh hc => ?signal, fun s s1 q n v cm cx h hp ht hc hget => ?wait,
    fun s q n cm cx h hp ht hh hc => ⟨fun v s1 hget => ?recheck, fun hd hi htr he => ?timeout⟩⟩,
    fun s q n cm h hp ht => ⟨fun hroom => ?hint, fun hfull => ?miss⟩, fun s c x hx hs => ?waived⟩
  case fence => exact congrArg Host.Outcome.next (by simp only [granted?_of_granted h hp ht]; rfl)
  case signal =>
    intro va s'
    refine ⟨fun s0 s1 old hget hput => ⟨_, exec_signal_ok h hp ht hh hc hget hput, ?_, rfl⟩, fun g => exec_signal_resetting h hp ht hh hc⟩
    have ht1 : TiersOnly s' s1 := ((tiersAct_getNat ..).only _ _ _ hget).trans (writeVirt_tiers hput)
    have h1 : s1.cmd? q n = some { cm with phase := .dispatched } := (ht1.cmd? q n).trans (cmd?_updCmd_phase h _)
    exact cmd?_updCmd_phase h1 _
  case wait =>
    have hexec : exec (.wait q n) s = .next ((s.updCmd q n (fun x => { x with
        phase := .dispatched
        deadline := if cm.at 0x14 4 = 0 then none else some (s.timeNs + 1000 * cm.at 0x14 4) })).recheck q n cm) :=
      congrArg Host.Outcome.next (by simp only [granted?_of_granted h hp ht])
    have h1 : (s.updCmd q n (fun x => { x with
        phase := .dispatched
        deadline := if cm.at 0x14 4 = 0 then none else some (s.timeNs + 1000 * cm.at 0x14 4) })).cmd? q n = some { cm with
          phase := .dispatched
          deadline := if cm.at 0x14 4 = 0 then none else some (s.timeNs + 1000 * cm.at 0x14 4) } := by
      rw [cmd?_updCmd_self s q n fun _ => by exact ⟨rfl, rfl⟩, h]
      rfl
    obtain ⟨hcmd, hframe⟩ := recheck_spec (by exact hc) h1 rfl hget
    exact ⟨_, hexec, hcmd, hframe⟩
  case recheck =>
    have hexec : exec (.waitRecheck q n) s = .next (s.recheck q n cm) :=
      congrArg Host.Outcome.next (by simp only [waiting?_of_dispatched h hp ht hh])
    obtain ⟨hcmd, hframe⟩ := recheck_spec hc h hp hget
    exact ⟨_, hexec, hcmd, hframe⟩
  case timeout =>
    refine congrArg Host.Outcome.next ?_
    simp only [waiting?_of_dispatched h hp ht hh, hd, if_true]
    exact failCmd_of_unplaced h (by simp [hp]) hi htr he
  case hint =>
    have hexec := exec_hint h hp ht
    rw [recordHint_room hroom] at hexec
    exact ⟨_, _, hexec, rfl, rfl, rfl, rfl, cmd?_updCmd_phase (by exact h) _, rfl⟩
  case miss =>
    have hexec := exec_hint h hp ht
    rw [recordHint_full hfull] at hexec
    have hframe := logEv_frame_quiet { s with pwr := { s.pwr with hintMiss := s.pwr.hintMiss + 1 } }
      (a := { source := 13, cause := 8, ctx := some (s.queueCtx q) }) rfl
    refine ⟨_, _, hexec, ?_, logEv_recs _ _, rfl, rfl, rfl, cmd?_updCmd_phase ?_ _, ?_⟩
    · rw [hframe]
      rfl
    · rw [hframe]
      exact h
    · rw [hframe]
      rfl
  case waived =>
    have hany : s.pwr.hints.any (fun h => h.started && h.ctx == x.ctx) = true := List.any_eq_true.2 ⟨x, hx, by simp [hs]⟩
    simp [State.anvilReady, hany]

end Sys2Proof.Machine
end


section
/-! PROOF. CTX_DESTROY and the sequence table (16, R317; 01, R7; log 67). The context's sequences become FREE, and a reader of the sequence table
finds that: the statement holds every byte of stacked memory fixed while the table's entries change. -/

namespace Sys2Proof.Machine

/-- A byte of a table's good entry, read at its place. -/
theorem readStacked_of_tableBlock {s : State} {b : Nat} {bs : List Byte} (ht : s.tableBlock b = some (false, bs)) (hl : bs.length = 32)
    (hb : lookup s.stacked.bad b = none) {j : Nat} (hj : j < 32) : s.readStacked (32 * b + j) 1 = some ((bs.drop j).take 1) := by
  have hblock : (32 * b + j) / 32 = b := by omega
  have hpos : (32 * b + j) % 32 = j := by omega
  simp [State.readStacked, blocksOf, hblock, hpos, bytes_stackedCheck_of_table ht hl hb]

/-- Byte 2 of a FREE descriptor has STATE's bit 16 clear, whatever its free fields hold. -/
theorem freeSeqBytes_state (id now : Nat) : (((halfOf (freeSeqBytes id now) 0).drop 2).take 1) ≠ [1] := by
  simp only [freeSeqBytes, halfOf, leBytes, List.cons_append, List.nil_append, List.drop_succ_cons, List.drop_zero, List.take_succ_cons,
    List.take_zero, Nat.mul_zero, ne_eq, List.cons.injEq, and_true, ← BitVec.toNat_inj, BitVec.toNat_ofNat, BitVec.ofNat_eq_ofNat]
  omega

theorem halfOf_freeSeqBytes_length (id now h : Nat) (hh : h < 2) : (halfOf (freeSeqBytes id now) h).length = 32 := by
  simp [halfOf, freeSeqBytes, zeros]
  omega

/-- A live sequence of context 0 with nothing in it. -/
def bareSeq : Seq :=
  { state := .live, inFlight := false, parent := none, coil := none, kvFormat := 0, ctx := 0, pool := 0, root := 0, length := 0, framePages := 0,
    seed := 0, step := 0, user := 0, bad := false }

/-- READY after reset, but context 0 of port 0 exists with one live sequence and no queue. -/
def oneSequence : State :=
  { State.reset with svc := { State.reset.svc with phase := 8 }, ctxs := [(0, tableCtx)], seqs := [(0, bareSeq)] }

theorem oneSequence_mailFree : mailFree oneSequence 0 := by
  refine ⟨by decide, rfl, rfl, rfl, rfl⟩

/-- The sequence's descriptor says LIVE in byte 2. -/
theorem readStacked_oneSequence : oneSequence.readStacked (32 * (State.reset.tblSeq / 32) + 2) 1 = some [1] :=
  (readStacked_of_tableBlock (bs := halfOf (bareSeq.bytes 0 oneSequence.freshCtr) 0) rfl rfl rfl (by decide)).trans rfl

/-- After CTX_DESTROY the sequence is FREE. -/
theorem readStacked_ctxDestroy {t : State} (h : exec (.ctxDestroy 0) oneSequence = .next t) :
    t.readStacked (32 * (State.reset.tblSeq / 32) + 2) 1 ≠ some [1] := by
  obtain rfl : _ = t := Host.Outcome.next.inj h
  rw [readStacked_of_tableBlock (bs := halfOf (freeSeqBytes 0 State.reset.freshCtr) 0) rfl (halfOf_freeSeqBytes_length _ _ _ (by decide)) rfl
    (by decide)]
  exact fun he => freeSeqBytes_state _ _ (Option.some.inj he)

/-- Refutes O39: CTX_DESTROY frees the context's sequences, and the sequence table reads differently afterwards. -/
theorem not_contextsComeAndGo : ¬ Obligations.ContextsComeAndGo := by
  unfold Obligations.ContextsComeAndGo
  rintro ⟨_, hdestroy, _⟩
  obtain ⟨_, _, hgone⟩ := hdestroy oneSequence 0 tableCtx oneSequence_mailFree rfl
  obtain ⟨t, hexec, _, _, _, _, _, _, _, hstacked, _⟩ := hgone rfl rfl (fun e he => nomatch he)
  exact readStacked_ctxDestroy hexec ((hstacked _).trans readStacked_oneSequence)

end Sys2Proof.Machine
end


section
/-! PROOF. QUEUE_CREATE where the status block's translation passes through the new queue's own table entry (16, R297, R299, R300; log 67). A
top table laid over the queue table finds its entry in the GENERATION of a queue that is not there; the creation moves that on, and the status
block, which could be written before, cannot be written any more. -/

namespace Sys2Proof.Machine

/-- The 8 bytes at offset 16 of a table's good entry, read at their place. -/
theorem readStacked_word_of_tableBlock {s : State} {b : Nat} {bs : List Byte} (ht : s.tableBlock b = some (false, bs)) (hl : bs.length = 32)
    (hb : lookup s.stacked.bad b = none) : s.readStacked (32 * b + 16) 8 = some ((bs.drop 16).take 8) := by
  have hfirst : (32 * b + 16) / 32 = b := by omega
  have hlast : (32 * b + 23) / 32 = b := by omega
  have hpos : (32 * b + 16) % 32 = 16 := by omega
  simp [State.readStacked, blocksOf, hfirst, hlast, hpos, bytes_stackedCheck_of_table ht hl hb]

/-- The word at offset 48 of the entry of a queue that is not there. -/
theorem leNat_noQueueBytes (q now : Nat) (gen : W16) :
    leNat (((halfOf (noQueueBytes q now gen) 1).drop 16).take 8) = gen.toNat + freeBits 2 q 7 now 2 * 2 ^ 16 := by
  have hgen := gen.isLt
  have hfree : freeBits 2 q 7 now 2 < 4 := Nat.mod_lt _ (by decide)
  simp only [noQueueBytes, halfOf, leBytes, zeros, List.replicate, List.cons_append, List.nil_append, List.drop_succ_cons, List.drop_zero,
    List.take_succ_cons, List.take_zero, leNat, BitVec.toNat_ofNat, BitVec.ofNat_eq_ofNat]
  omega

/-- A queue descriptor of queue 0 in context 0, its status block in the page whose top entry has index 6. -/
def selfMappedDesc : List Byte :=
  leBytes 4 0x0100 ++ leBytes 4 0 ++ leBytes 4 0 ++ leBytes 4 2 ++ leBytes 8 0 ++ leBytes 8 0 ++ leBytes 8 (6 * 2 ^ 39 + 0x8000) ++ zeros 24

/-- READY after reset, but queue 0 has gone once and context 0's top table lies over the queue table: its entry 6 is the GENERATION of queue 0.
Wherever that entry's free bits point there is a middle table, and all of those give page 0, writable. -/
def selfMapped : State :=
  { State.reset with
    svc := { State.reset.svc with phase := 8 }
    ctxs := [(0, { tableCtx with root := State.reset.tblQueue })]
    queueGens := [(0, 1)]
    stacked :=
      { cells := wordBlock 0 0x1001 ++ wordBlock 0x1000 0x3 ++ wordBlock 0x10000 0x1001 ++ wordBlock 0x20000 0x1001 ++ wordBlock 0x30000 0x1001
        bad := [] } }

/-- The queue that the descriptor asks for. -/
def selfMappedQueue : Queue := queueOf selfMappedDesc 2

theorem entryAt_selfMapped : ∃ f < 4, selfMapped.entryAt (State.reset.tblQueue + 48) = .ok (1 + f * 2 ^ 16) := by
  refine ⟨freeBits 2 0 7 0 2, Nat.mod_lt _ (by decide), ?_⟩
  have hok : selfMapped.stackedOk (State.reset.tblQueue + 48) = true := by decide +kernel
  have herr : selfMapped.locErr (.stacked (State.reset.tblQueue + 48)) = none := by decide +kernel
  have hread : selfMapped.readStacked (State.reset.tblQueue + 48) 8 = some (((halfOf (noQueueBytes 0 0 1) 1).drop 16).take 8) :=
    readStacked_word_of_tableBlock (b := State.reset.tblQueue / 32 + 1) rfl (by simp [halfOf, noQueueBytes, zeros]) rfl
  simp only [State.entryAt, hok, if_true, State.readLoc, herr, hread, Except.map, leNat_noQueueBytes, BitVec.toNat_ofNat, BitVec.ofNat_eq_ofNat]

theorem eq_of_toOption {ε α : Type} {e : Except ε α} {x : α} (h : e.toOption = some x) : e = .ok x := by
  cases e with
  | error _ => exact nomatch h
  | ok y => exact congrArg _ (Option.some.inj h)

/-- The walk of the status block's address, while queue 0 is not there. -/
theorem walk_selfMapped : selfMapped.walk State.reset.tblQueue (6 * 2 ^ 39 + 0x8000) = .ok 3 := by
  obtain ⟨f, hf, htop⟩ := entryAt_selfMapped
  have hplace : State.reset.tblQueue + 8 * fld (6 * 2 ^ 39 + 0x8000) 47 39 = State.reset.tblQueue + 48 := by decide
  have hnext : ∀ f < 4, tableNext (1 + f * 2 ^ 16) = some (f * 2 ^ 16) := by decide
  have hmid : ∀ f < 4, (selfMapped.entryAt (f * 2 ^ 16 + 8 * fld (6 * 2 ^ 39 + 0x8000) 38 30)).toOption = some 0x1001 := by decide +kernel
  have hleaf := eq_of_toOption (e := selfMapped.entryAt (0x1000 + 8 * fld (6 * 2 ^ 39 + 0x8000) 29 21)) (x := 3) (by decide +kernel)
  have hlow : tableNext 0x1001 = some 0x1000 := by decide
  simp only [State.walk, hplace, htop, bind, Except.bind, hnext f hf, eq_of_toOption (hmid f hf), hlow, hleaf]

theorem xlate_selfMapped : selfMapped.xlate none 0 (6 * 2 ^ 39 + 0x8000) true = .ok (.stacked 0x8000) := by
  have hctx : lookup selfMapped.ctxs 0 = some { tableCtx with root := State.reset.tblQueue } := rfl
  have harg : selfMapped.argLoc 0 (6 * 2 ^ 39 + 0x8000) = none := rfl
  have hleaf : selfMapped.leafLoc 3 (6 * 2 ^ 39 + 0x8000) true = some (.stacked 0x8000) := by decide +kernel
  have hlow : ¬ 2 ^ 48 ≤ 6 * 2 ^ 39 + 0x8000 := by decide
  simp only [State.xlate, hctx, if_neg hlow, harg, State.cached, walk_selfMapped, hleaf]

/-- Before the creation the status block can be written. -/
theorem writeVirt_selfMapped : ∃ s1, selfMapped.writeVirt none selfMappedQueue.ctx selfMappedQueue.statusBlock selfMappedQueue.statusBytes
    = .ok s1 := by
  have hrange : selfMapped.xlateRange none 0 (6 * 2 ^ 39 + 0x8000) selfMappedQueue.statusBytes.length true = .ok [(.stacked 0x8000, 64)] := by
    have hpages : pagesOf (6 * 2 ^ 39 + 0x8000) selfMappedQueue.statusBytes.length = [(6 * 2 ^ 39 + 0x8000, 64)] := by decide +kernel
    have hpast : selfMapped.pastArgs 0 (6 * 2 ^ 39 + 0x8000) 64 = false := rfl
    simp only [State.xlateRange, hpages, List.mapM_cons, List.mapM_nil, hpast, Bool.false_eq_true, if_false, xlate_selfMapped, Except.map]
    rfl
  have hwrite : (selfMapped.writeAll (dealOut [(.stacked 0x8000, 64)] selfMappedQueue.statusBytes)).toOption.isSome = true := by
    decide +kernel
  have hctx : selfMappedQueue.ctx = 0 := by decide
  have hblock : selfMappedQueue.statusBlock = 6 * 2 ^ 39 + 0x8000 := by decide
  simp only [State.writeVirt, hctx, hblock, hrange, bind, Except.bind]
  cases h : selfMapped.writeAll (dealOut [(.stacked 0x8000, 64)] selfMappedQueue.statusBytes) with
  | error e => rw [h] at hwrite; exact nomatch hwrite
  | ok s1 => exact ⟨s1, rfl⟩

/-- After it the entry's low bit is clear: the write is held. -/
theorem held_selfMapped {t : State} (h : exec (.queueCreate 0 (.data selfMappedDesc)) selfMapped = .next t) :
    (lookup t.queues 0).map (fun x => x.held.isEmpty) = some false := by
  obtain rfl : _ = t := Host.Outcome.next.inj h
  decide +kernel

/-- Refutes O40: the status block's translation goes through the table entry that the creation changes, so that a write which the state before
allows is held. -/
theorem not_queuesComeAndGo : ¬ Obligations.QueuesComeAndGo := by
  unfold Obligations.QueuesComeAndGo
  rintro ⟨hcreate, _⟩
  obtain ⟨s1, hs1⟩ := writeVirt_selfMapped
  obtain ⟨_, hnew⟩ := hcreate selfMapped s1 0 selfMappedDesc { tableCtx with root := State.reset.tblQueue } ⟨by decide, rfl, rfl, rfl, rfl⟩
    (by decide) (by decide) rfl
  obtain ⟨t, hexec, _, hqueue, _⟩ := hnew rfl rfl (by decide) rfl (by decide +kernel) hs1
  have hheld := held_selfMapped hexec
  have hq : lookup t.queues 0 = some selfMappedQueue := hqueue
  rw [hq] at hheld
  exact absurd hheld (by decide)

end Sys2Proof.Machine
end


section
/-! PROOF. The mailbox's services (16, R298, R316, R318, R319): an operation that arrives at a free mailbox runs at once. -/

namespace Sys2Proof.Machine

/-! ## An operation at a free mailbox -/

theorem otherPort_ne (h : HostPort) : otherPort h ≠ h := by revert h; decide

/-- The other mailbox. -/
theorem updMbox_mbox_other {s : State} {h h' : HostPort} (hne : h' ≠ h) (f : Mailbox → Mailbox) : (s.updMbox h f).mbox[h'] = s.mbox[h'] :=
  Vector.getElem_set_ne (Fin.isLt h) (Fin.isLt h') fun he => hne (Fin.ext he.symm)

@[simp] theorem updMbox_mbox_self (s : State) (h : HostPort) (f : Mailbox → Mailbox) : (s.updMbox h f).mbox[h] = f s.mbox[h] :=
  Vector.getElem_set_self (Fin.isLt h)

/-- Two writes of one mailbox are one. -/
theorem updMbox_updMbox (s : State) (h : HostPort) (f g : Mailbox → Mailbox) : (s.updMbox h f).updMbox h g = s.updMbox h (fun m => g (f m)) := by
  simp only [State.updMbox, Vector.set_set, Fin.getElem_fin, Vector.getElem_set_self]

/-- The mailbox as its operation finds it. -/
def Mailbox.begun (op : Nat) (m : Mailbox) : Mailbox := { m with busy := true, lastOp := op }

theorem mail_of_free {s : State} {h : HostPort} (hf : mailFree s h) (op : Nat) (i : Instr) :
    s.awake.mail h op i = (s.updMbox h (Mailbox.begun op)).runMail i := by
  obtain ⟨hash, hready, hbusy, hwait, hother⟩ := hf
  have ho : (s.updMbox h (Mailbox.begun op)).mbox[otherPort h].busy = false := by rw [updMbox_mbox_other (otherPort_ne h), hother]
  rw [awake_of_not_ash hash]
  simp only [State.mail, hready, hbusy, Bool.not_true, Bool.false_eq_true, if_false]
  exact if_neg (by simpa [Mailbox.begun] using ho)

/-- A mailbox whose operation has begun and ended. -/
theorem mailDone_of_mailEnd {s u : State} {h : HostPort} {op : Nat} (hu : u.mbox = (s.updMbox h (Mailbox.begun op)).mbox)
    (hhif : u.hif = s.hif) (st r : Nat) : mailDone s (u.mailEnd h st r) h op st r := by
  unfold mailDone State.mailEnd State.updMbox
  simp [hu, hhif, State.updMbox, Mailbox.begun]

section
variable {s : State} {h : HostPort} (hf : mailFree s h)
include hf

theorem exec_invalidate : exec (.invalidate h) s = .next ((s.updMbox h (Mailbox.begun 5)).invalidateOp h) :=
  congrArg Host.Outcome.next (mail_of_free hf 5 _)

theorem exec_cancel : exec (.cancel h) s = .next ((s.updMbox h (Mailbox.begun 6)).cancelOp h (.cancel h)) :=
  congrArg Host.Outcome.next (mail_of_free hf 6 _)

theorem exec_query : exec (.query h) s = .next ((s.updMbox h (Mailbox.begun 7)).queryOp h) :=
  congrArg Host.Outcome.next (mail_of_free hf 7 _)

theorem exec_admInvalidOp {op : BitVec 4} (ho : op = 0 ∨ 8 ≤ op.toNat) : exec (.admInvalidOp h op) s
    = .next { s with mbox := s.mbox.set h { s.mbox[h] with status := 0x21, lastOp := op.toNat } } := by
  obtain ⟨hash, hready, hbusy, _, _⟩ := hf
  have hop : (op != 0 && decide (op.toNat < 8)) = false := by
    rcases ho with rfl | ho
    · rfl
    · simp [ho]
  have hrow : exec (.admInvalidOp h op) s = execAdmInvalidOp h op s := rfl
  rw [hrow]
  have hrun : (!s.isReady || s.mbox[h].busy || (op != 0 && decide (op.toNat < 8))) = false := by rw [hready, hbusy, hop]; rfl
  simp only [execAdmInvalidOp, awake_of_not_ash hash, hrun, Bool.false_eq_true, if_false]
  rfl

end

/-! ## The services -/

theorem mailQueue_of_home {s : State} {h : HostPort} {q : Nat} {qu : Queue} {c : Ctx} (hq : lookup s.queues q = some qu)
    (hc : lookup s.ctxs qu.ctx = some c) (hh : c.home = h) : s.mailQueue h q = .ok qu := by
  simp [State.mailQueue, hq, hc, hh]

theorem invalidateOp_of_home {s : State} {h : HostPort} {c : Ctx} (hc : lookup s.ctxs (fld s.mbox[h].arg0.toNat 11 0) = some c)
    (hh : c.home = h) (hp : s.mbox[h].arg1.toNat % 2097152 = 0) : s.invalidateOp h
    = (s.invalidate (fld s.mbox[h].arg0.toNat 11 0) s.mbox[h].arg1.toNat (fld s.mbox[h].arg0.toNat 31 12)).mailEnd h stDone 0 := by
  simp only [State.invalidateOp, hc, hh, pageBytes, hp, ne_eq, not_true, if_false, bne_self_eq_false, Bool.false_eq_true]

/-- The cached translations that an INVALIDATE leaves. -/
theorem mem_tcache_invalidate {s : State} {ctx first pages : Nat} {g : RegionId} {e : Nat × Nat × W64} :
    e ∈ (s.invalidate ctx first pages).regions[g].tcache ↔ e ∈ s.regions[g].tcache
      ∧ ¬ (e.1 = ctx ∧ (pages = 0 ∨ (first / 2097152 ≤ e.2.1 ∧ e.2.1 < first / 2097152 + pages))) := by
  simp only [State.invalidate, Fin.getElem_fin, Vector.getElem_map, List.mem_filter, and_congr_right_iff, Bool.not_eq_true']
  intro _
  rw [← Bool.not_eq_true]
  simp only [Bool.and_eq_true, Bool.or_eq_true, beq_iff_eq, decide_eq_true_eq]
  rfl

/-- A CANCEL that arrives clears its count and ends what it may; with nothing left to stop it ends. -/
theorem cancelOp_of_free {s : State} {h : HostPort} {qu : Queue} (hw : s.mbox[h].waitOp = none)
    (hq : s.mailQueue h s.mbox[h].arg0.toNat = .ok qu) (i : Instr) : s.cancelOp h i
    = (let s2 := (s.updMbox h (fun m => { m with count := 0 })).cancelUpTo h s.mbox[h].arg0.toNat s.mbox[h].arg1.toNat
       if s2.cancelRuns h s.mbox[h].arg0.toNat then s2.mailWait h i else s2.mailEnd h stDone s2.mbox[h].count) := by
  have ha : s.mailAgain h = false := by rw [State.mailAgain, hw]; rfl
  simp only [State.cancelOp, hq, ha, Bool.false_eq_true, if_false]

theorem queryOf_spec (s : State) (q n : Nat) (qu : Queue) :
    ((n = 0 ∨ qu.accepted < n) → s.queryOf q n qu = 4)
    ∧ (1 ≤ n → n ≤ qu.accepted → ∀ cm, s.cmd? q n = some cm →
      (cm.phase = .ended → s.queryOf q n qu = 3 + cm.status * 256)
      ∧ (cm.phase ≠ .ended → cm.held = true → s.queryOf q n qu = 2 + 0x30 * 256)
      ∧ (cm.phase = .waiting ∨ cm.phase = .granted → cm.held = false → s.queryOf q n qu = 0)
      ∧ (cm.phase = .dispatched ∨ cm.phase = .ready → cm.held = false → s.queryOf q n qu = 1)) := by
  refine ⟨fun hn => by simp [State.queryOf, hn], fun h1 h2 cm hcm => ?_⟩
  have hrange : (decide (n = 0) || decide (qu.accepted < n)) = false := by simp; omega
  simp only [State.queryOf, hrange, hcm, Bool.false_eq_true, if_false]
  refine ⟨fun hp => by simp [hp], fun hp hh => by simp [hp, hh, stHeld], ?_, ?_⟩
  · rintro (hp | hp) hh <;> simp [hp, hh, Phase.busy]
  · rintro (hp | hp) hh <;> simp [hp, hh, Phase.busy]

/-! ## One command cancelled -/

/-- One of a command's instances asked to stop, as `askAll` asks each. -/
def State.askInst (why : StopWhy) (s : State) (i : Inst) : State :=
  match i.placed, i.ended with
  | some (c, k), false =>
    s.updSlot c k (fun sl => if sl.state = .running || sl.state = .loading then { sl with stop := some why } else sl)
  | _, _ => s

theorem askAll_of_cmd {s : State} {q n : Nat} {cm : Cmd} (h : s.cmd? q n = some cm) (why : StopWhy) :
    s.askAll q n why = cm.insts.foldl (State.askInst why) s := by
  simp only [State.askAll, h]
  rfl

theorem askInst_frame (why : StopWhy) (s : State) (i : Inst) : s.askInst why i = { s with cores := (s.askInst why i).cores } := by
  unfold State.askInst
  split <;> rfl

theorem askInst_of_unplaced {why : StopWhy} {i : Inst} (h : (i.placed.isSome && !i.ended) = false) (s : State) : s.askInst why i = s := by
  unfold State.askInst
  split
  · rename_i hp he
    simp [hp, he] at h
  · rfl

theorem foldl_askInst_frame (why : StopWhy) (is : List Inst) (s : State) :
    is.foldl (State.askInst why) s = { s with cores := (is.foldl (State.askInst why) s).cores } :=
  foldl_within (R := fun s t => t = { s with cores := t.cores }) (fun _ => rfl) (fun {s t u} h1 h2 => by rw [h2, h1])
    (fun s i => askInst_frame why s i) is s

theorem foldl_askInst_of_unplaced {why : StopWhy} {is : List Inst} (h : is.any (fun i => i.placed.isSome && !i.ended) = false) (s : State) :
    is.foldl (State.askInst why) s = s := by
  induction is with
  | nil => rfl
  | cons i is ih =>
    simp only [List.any_cons, Bool.or_eq_false_iff] at h
    obtain ⟨hi, his⟩ := h
    rw [List.foldl_cons, askInst_of_unplaced hi, ih his]

/-- A running slot after one of the instances is asked: it still runs, and it is to stop if it was or if it is the one's own slot. -/
theorem askInst_slot {why : StopWhy} {s : State} {c : CoreId} {k : KsId} (hr : (s.slot c k).state = .running) (i : Inst) :
    ((s.askInst why i).slot c k).state = .running
      ∧ ((i.placed = some (c, k) ∧ i.ended = false) ∨ (s.slot c k).stop = some why → ((s.askInst why i).slot c k).stop = some why) := by
  unfold State.askInst
  split
  case h_1 c' k' hp he =>
    by_cases hck : (c, k) = (c', k')
    · obtain ⟨rfl, rfl⟩ := Prod.mk.inj hck
      simp [hr]
    · rw [slot_updSlot_other _ hck]
      refine ⟨hr, fun h => h.resolve_left fun ⟨hp', _⟩ => hck ?_⟩
      rw [hp] at hp'
      exact (Option.some.inj hp').symm
  case h_2 hnot =>
    exact ⟨hr, fun h => h.resolve_left fun ⟨hp, he⟩ => hnot _ _ hp he⟩

theorem foldl_askInst_stops {why : StopWhy} {c : CoreId} {k : KsId} (is : List Inst) : ∀ s : State, (s.slot c k).state = .running →
    ((∃ i ∈ is, i.placed = some (c, k) ∧ i.ended = false) ∨ (s.slot c k).stop = some why) →
    ((is.foldl (State.askInst why) s).slot c k).stop = some why := by
  induction is with
  | nil => simp
  | cons i is ih =>
    intro s hr hstop
    obtain ⟨hr', hstop'⟩ := askInst_slot (why := why) hr i
    refine ih _ hr' ?_
    simp only [List.mem_cons, exists_eq_or_imp] at hstop
    rcases hstop with (hi | his) | hs
    · exact .inr (hstop' (.inl hi))
    · exact .inl his
    · exact .inr (hstop' (.inr hs))

theorem cmd?_ending {s : State} {q n : Nat} {cm : Cmd} (h : s.cmd? q n = some cm) (e : Option (Nat × Option HostPort)) :
    (s.updCmd q n (fun x => { x with ending := e })).cmd? q n = some { cm with ending := e } := by
  rw [cmd?_updCmd_self s q n fun _ => by exact ⟨rfl, rfl⟩, h]
  rfl

/-- A cancelled command without a slot ends, and its mailbox counts it. -/
theorem trapEnd_of_cancelled {s : State} {q n st : Nat} {h : HostPort} {cm : Cmd} (hcm : s.cmd? q n = some cm) (hphase : cm.phase ≠ .ended)
    (hplaced : cm.placedAny = false) (htrap : cm.trap = none) (hend : cm.ending = some (st, some h)) : s.trapEnd q n
    = State.endCmd { s with mbox := s.mbox.set h { s.mbox[h] with count := s.mbox[h].count + 1 } } q n st false := by
  simp only [State.trapEnd, hcm, hphase, hplaced, htrap, hend, decide_false, Bool.or_self, Bool.false_eq_true, if_false]

/-- A command that may be cancelled is asked to stop where its instances lie; with none placed it ends. -/
theorem cancelOne_of_cancellable {s : State} {h : HostPort} {q n : Nat} {cm : Cmd} (hcm : s.cmd? q n = some cm) (hc : cm.cancellable = true)
    (hz : s.fls.quench = none) : s.cancelOne h q n
    = (cm.insts.foldl (State.askInst .cancel) (s.updCmd q n (fun x => { x with ending := some (0x31, some h) }))).trapEnd q n := by
  have hnone : cm.ending.isSome = false := by
    simp only [Cmd.cancellable, Bool.and_eq_true, Option.isNone_iff_eq_none] at hc
    simp [hc]
  simp only [State.cancelOne, State.abandonQuench, hz, State.endWith, hcm, hnone, Bool.false_eq_true, if_false, stCancelled,
    askAll_of_cmd (cmd?_ending hcm _)]

/-- Settles O41: the services one by one, each run at once at a free mailbox. -/
theorem mailboxServices : Obligations.MailboxServices := by
  unfold Obligations.MailboxServices
  refine ⟨?invalidate, ?queues,
    fun s h q n cm hcm hcan hz => ⟨fun hplaced => ?ends, fun hplaced => ?stops⟩, fun s h op hf ho => exec_admInvalidOp hf ho⟩
  case invalidate =>
    intro s h c hf a first pages hc hh hp
    have hself := updMbox_mbox_self s h (Mailbox.begun 5)
    have hrun := invalidateOp_of_home (s := s.updMbox h (Mailbox.begun 5)) (h := h) (c := c) (by rw [hself]; exact hc) hh (by rw [hself]; exact hp)
    rw [hself] at hrun
    refine ⟨_, (exec_invalidate hf).trans (congrArg _ hrun), mailDone_of_mailEnd rfl rfl .., fun g => ?_, fun g e => ?_, rfl⟩
    · simp [State.mailEnd, State.invalidate, State.updMbox]
    · exact mem_tcache_invalidate (s := s.updMbox h (Mailbox.begun 5))
  case queues =>
    intro s h qu c hf q n hq hc hh
    refine ⟨?_, ?_⟩
    · obtain ⟨_, _, _, hwait, _⟩ := id hf
      have hself := updMbox_mbox_self s h (Mailbox.begun 6)
      have hrun := cancelOp_of_free (s := s.updMbox h (Mailbox.begun 6)) (h := h) (qu := qu) (by rw [hself]; exact hwait)
        (by rw [hself]; exact mailQueue_of_home hq hc hh) (.cancel h)
      rw [updMbox_updMbox, hself] at hrun
      rw [exec_cancel hf, hrun]
      rfl
    · obtain ⟨hnone, hrange⟩ := queryOf_spec (s.updMbox h (Mailbox.begun 7)) q n qu
      have hself := updMbox_mbox_self s h (Mailbox.begun 7)
      have hq' : (s.updMbox h (Mailbox.begun 7)).mailQueue h q = .ok qu := mailQueue_of_home hq hc hh
      have hrun : (s.updMbox h (Mailbox.begun 7)).queryOp h
          = (s.updMbox h (Mailbox.begun 7)).mailEnd h stDone ((s.updMbox h (Mailbox.begun 7)).queryOf q n qu) := by
        simp only [State.queryOp, hself]
        exact hq' ▸ rfl
      exact ⟨_, _, (exec_query hf).trans (congrArg _ hrun), mailDone_of_mailEnd rfl rfl .., rfl, hnone, hrange⟩
  case ends =>
    rw [cancelOne_of_cancellable hcm hcan hz, foldl_askInst_of_unplaced hplaced]
    have hnot : cm.phase ≠ .ended ∧ cm.trap = none := by
      simp only [Cmd.cancellable, Bool.and_eq_true, Option.isNone_iff_eq_none, bne_iff_ne] at hcan
      obtain ⟨⟨⟨hphase, htrap⟩, _⟩, _⟩ := hcan
      exact ⟨hphase, htrap⟩
    obtain ⟨hphase, htrap⟩ := hnot
    exact trapEnd_of_cancelled (cmd?_ending hcm _) hphase hplaced htrap rfl
  case stops =>
    rw [cancelOne_of_cancellable hcm hcan hz]
    have hframe := foldl_askInst_frame .cancel cm.insts (s.updCmd q n (fun x => { x with ending := some (0x31, some h) }))
    have hcm' : (cm.insts.foldl (State.askInst .cancel) (s.updCmd q n (fun x => { x with ending := some (0x31, some h) }))).cmd? q n
        = some { cm with ending := some (0x31, some h) } := by
      rw [hframe]
      exact cmd?_ending hcm _
    have hstays : (cm.insts.foldl (State.askInst .cancel) (s.updCmd q n (fun x => { x with ending := some (0x31, some h) }))).trapEnd q n
        = cm.insts.foldl (State.askInst .cancel) (s.updCmd q n (fun x => { x with ending := some (0x31, some h) })) := by
      have hp : Cmd.placedAny { cm with ending := some (0x31, some h) } = true := hplaced
      simp only [State.trapEnd, hcm', hp, Bool.or_true, if_true]
    refine ⟨_, rfl, by rw [hstays, hcm'], fun i hi c k hpl he hr => ?_, by rw [hstays, hframe]; rfl⟩
    rw [hstays]
    exact foldl_askInst_stops _ _ hr (.inl ⟨i, hi, hpl, he⟩)

end Sys2Proof.Machine
end


section
/-! PROOF. Epochs and their advances (17, R330): an advance waits until 1 ms after the last one. -/

namespace Sys2Proof.Machine

/-! ## One entry -/

theorem EpochEntry.settle_kept (e : EpochEntry) : e.settle.epoch = e.epoch ∧ e.settle.lastNs = e.lastNs ∧ e.settle.owed = e.owed := by
  unfold EpochEntry.settle
  split <;> exact ⟨rfl, rfl, rfl⟩

theorem EpochEntry.settle_state {e : EpochEntry} (hr : e.returning = true) (ho : e.owed = 0) : e.settle.state = .inService := by
  simp [EpochEntry.settle, hr, ho]

theorem EpochEntry.mayAdvance_of_last {e : EpochEntry} {now t0 : Nat} (h : e.lastNs = some t0) : e.mayAdvance now = decide (t0 + 1000000 ≤ now) := by
  simp only [EpochEntry.mayAdvance, h]

theorem EpochEntry.advance_of_early {e : EpochEntry} {now : Nat} (h : e.mayAdvance now = false) : e.advance now = { e with owed := e.owed + 1 } := by
  simp [EpochEntry.advance, h]

/-! ## The row -/

theorem exec_epochAdvance_of_owed {s : State} {p : Part} (ho : 0 < (s.part p).owed) (hm : (s.part p).mayAdvance s.timeNs = true)
    (hz : s.fls.quench = none) : exec (.epochAdvance p) s = .next (s.updPart p (fun e => e.late s.timeNs)) := by
  refine congrArg Host.Outcome.next ?_
  simp only [ho, hm, decide_true, Bool.and_self, if_true]
  exact quenchMended_of_none hz

theorem exec_epochAdvance_of_early {s : State} {p : Part} (hm : (s.part p).mayAdvance s.timeNs = false) :
    exec (.epochAdvance p) s = .next s := congrArg Host.Outcome.next (by simp [hm])

/-- Settles O47: an owed advance is made at its row, an early one is only owed. -/
theorem epochsMoveAtMostOncePerMillisecond : Obligations.EpochsMoveAtMostOncePerMillisecond := by
  unfold Obligations.EpochsMoveAtMostOncePerMillisecond
  refine ⟨fun s p ho hm hz => ?made, fun s p hm => exec_epochAdvance_of_early hm, fun e now t0 hlast hnow => ?early⟩
  case made =>
    obtain ⟨hepoch, hlast, howed⟩ := ({ s.part p with epoch := (s.part p).epoch + 1, lastNs := some s.timeNs, owed := (s.part p).owed - 1 } :
      EpochEntry).settle_kept
    refine ⟨_, exec_epochAdvance_of_owed ho hm hz, ?_, ?_, ?_, fun hr hone => ?_, fun p' hp => part_updPart_other _ hp _, rfl⟩
    · rw [part_updPart_self]; exact hepoch
    · rw [part_updPart_self]; exact hlast
    · rw [part_updPart_self]; exact howed
    · rw [part_updPart_self]
      exact EpochEntry.settle_state hr (by simp [hone])
  case early =>
    have hm : e.mayAdvance now = false := by rw [EpochEntry.mayAdvance_of_last hlast]; exact decide_eq_false (by omega)
    rw [EpochEntry.advance_of_early hm]
    exact ⟨rfl, hlast, rfl⟩

end Sys2Proof.Machine
end


section
/-! PROOF. The weave code corrects one bit (18, R356, R357, R361). Its syndromes are linear and those of a block as it was encoded are zero, so that
a flipped bit leaves its own pattern's syndromes, whatever the data. -/

namespace Sys2Proof.Machine

/-! ## The syndromes are linear -/

theorem dataRow_xor (a b : W256) (i : Nat) : dataRow (a ^^^ b) i = dataRow a i ^^^ dataRow b i := by
  simp [dataRow, BitVec.ushiftRight_xor_distrib, BitVec.setWidth_xor]

theorem colParity_xor (a b : W256) : colParity (a ^^^ b) = colParity a ^^^ colParity b := by
  have h (l : List Nat) (x y : W16) : l.foldl (fun p i => p ^^^ dataRow (a ^^^ b) i) (x ^^^ y)
      = l.foldl (fun p i => p ^^^ dataRow a i) x ^^^ l.foldl (fun p i => p ^^^ dataRow b i) y := by
    induction l generalizing x y with
    | nil => rfl
    | cons i l ih =>
      have hstep : x ^^^ y ^^^ dataRow (a ^^^ b) i = (x ^^^ dataRow a i) ^^^ (y ^^^ dataRow b i) := by rw [dataRow_xor]; ac_rfl
      rw [List.foldl_cons, hstep, ih]
      rfl
  exact h _ 0 0

/-- Bit i of the row parities, for the rows folded so far. -/
theorem getLsbD_foldl_rowParity (d : W256) (l : List Nat) (x : W16) {j : Nat} (hj : j < 16) :
    (l.foldl (fun a i => if parity (dataRow d i) then a ||| (1#16 <<< i) else a) x).getLsbD j
      = (x.getLsbD j || (decide (j ∈ l) && parity (dataRow d j))) := by
  induction l generalizing x with
  | nil => simp
  | cons i l ih =>
    rw [List.foldl_cons, ih]
    by_cases hi : j = i
    · subst hi
      cases parity (dataRow d j) <;> simp [hj]
    · have hbit : (1#16 <<< i).getLsbD j = false := by
        simp only [BitVec.getLsbD_shiftLeft, BitVec.getLsbD_one]
        simp
        omega
      cases parity (dataRow d i) <;> simp [hi, hbit]

theorem getLsbD_rowParity (d : W256) {j : Nat} (hj : j < 16) : (rowParity d).getLsbD j = parity (dataRow d j) := by
  rw [rowParity, getLsbD_foldl_rowParity d _ _ hj]
  simp [hj]

theorem rowParity_xor (a b : W256) : rowParity (a ^^^ b) = rowParity a ^^^ rowParity b := by
  apply BitVec.eq_of_getLsbD_eq
  intro j hj
  rw [BitVec.getLsbD_xor, getLsbD_rowParity _ hj, getLsbD_rowParity _ hj, getLsbD_rowParity _ hj, dataRow_xor, parity_xor]

theorem fill16_bne (a b : Bool) : fill16 (a != b) = fill16 a ^^^ fill16 b := by cases a <;> cases b <;> decide

/-- The bits of two stored blocks exclusive-ored. -/
def Stored.xor (s e : Stored) : Stored := { data := s.data ^^^ e.data, check := s.check ^^^ e.check }

theorem synCol_xor (s e : Stored) : synCol (s.xor e) = synCol s ^^^ synCol e := by
  simp only [synCol, Stored.xor, BitVec.setWidth_xor, colParity_xor]
  ac_rfl

theorem synRow_xor (s e : Stored) : synRow (s.xor e) = synRow s ^^^ synRow e := by
  simp only [synRow, Stored.xor, BitVec.setWidth_xor, BitVec.ushiftRight_xor_distrib, rowParity_xor, parity_xor, fill16_bne]
  ac_rfl

/-- The syndromes of a block as it was encoded. -/
theorem syndromes_weaveEncode (d : W256) : synRow (weaveEncode d) = 0 ∧ synCol (weaveEncode d) = 0 := by
  have hlow : (weaveCheck d).setWidth 16 = colParity d := BitVec.setWidth_append_eq_right
  have hhigh : (weaveCheck d >>> 16).setWidth 16 = rowParity d ^^^ fill16 (parity d) := setWidth_ushiftRight_append _ _
  refine ⟨?_, by simp [synCol, weaveEncode, hlow]⟩
  simp only [synRow, weaveEncode, hlow, hhigh, parity_colParity]
  rw [BitVec.xor_assoc _ _ (fill16 _), BitVec.xor_self]
  rfl

/-- What is flipped in an encoded block is what its syndromes show. -/
theorem syndromes_flipped (d : W256) (e : Stored) : synRow ((weaveEncode d).xor e) = synRow e ∧ synCol ((weaveEncode d).xor e) = synCol e := by
  obtain ⟨hrow, hcol⟩ := syndromes_weaveEncode d
  rw [synRow_xor, synCol_xor, hrow, hcol]
  exact ⟨BitVec.zero_xor, BitVec.zero_xor⟩

/-! ## One flipped bit -/

/-- The pattern of one flipped bit, numbered as in R368. -/
def flippedBit (i : Nat) : Stored := if i < 256 then { data := 1#256 <<< i, check := 0 } else { data := 0, check := 1#32 <<< (i - 256) }

/-- A part of a word with one bit set. -/
theorem setWidth_ushiftRight_twoPow {i a w : Nat} (h : i < 288) :
    (BitVec.twoPow 288 i >>> a).setWidth w = if a ≤ i ∧ i < a + w then 1#w <<< (i - a) else 0 := by
  apply BitVec.eq_of_getLsbD_eq
  intro j hj
  split <;> rename_i hi
  · by_cases hlt : j < i - a
    · simp [BitVec.getLsbD_twoPow, hj, hlt, h]
      omega
    · simp [BitVec.getLsbD_twoPow, hj, hlt, h]
      omega
  · simp [BitVec.getLsbD_twoPow, hj, h]
    omega

theorem flip_twoPow (s : Stored) {i : Nat} (h : i < 288) : s.flip (BitVec.twoPow 288 i) = s.xor (flippedBit i) := by
  have hdata := setWidth_ushiftRight_twoPow (a := 0) (w := 256) h
  have hcheck := setWidth_ushiftRight_twoPow (a := 256) (w := 32) h
  rw [BitVec.ushiftRight_zero] at hdata
  rw [Stored.flip, hdata, hcheck, Stored.xor, flippedBit]
  by_cases hi : i < 256
  · simp [hi, Nat.not_le.2 hi]
  · simp [hi, h, Nat.not_lt.1 hi]

/-- Rows exclusive-ored where only row r is not zero. -/
theorem foldl_xor_one (x : W16) (r : Nat) {l : List Nat} (hl : l.Nodup) (a : W16) :
    l.foldl (fun a i => a ^^^ (if i = r then x else 0)) a = if r ∈ l then a ^^^ x else a := by
  induction l generalizing a with
  | nil => rfl
  | cons i l ih =>
    obtain ⟨hi, hl⟩ := List.nodup_cons.1 hl
    rw [List.foldl_cons, ih hl]
    by_cases h : i = r
    · subst h
      simp [hi]
    · simp [h, Ne.symm h]

theorem dataRow_oneBit {r c k : Nat} (hc : c < 16) (hk : k < 16) : dataRow (1#256 <<< (16 * r + c)) k = if k = r then 1#16 <<< c else 0 := by
  apply BitVec.eq_of_getLsbD_eq
  intro j hj
  rw [getLsbD_dataRow _ _ _ hj]
  by_cases h : k = r
  · subst h
    by_cases hlt : j < c
    · simp [hlt, hj]
    · simp [hlt, hj, show 16 * k + j < 256 by omega, show 16 * k + j - (16 * k + c) = j - c by omega]
  · have hne : 16 * k + j < 16 * r + c ∨ 16 * k + j - (16 * r + c) ≠ 0 := by omega
    rcases hne with hne | hne <;> simp [h, hne]

theorem parity_oneBit : ∀ c : Fin 16, parity (1#16 <<< c.val) = true := by decide +kernel

/-- A data bit shows its row and its column. -/
theorem syndromes_dataBit (r c : Fin 16) : synRow { data := 1#256 <<< (16 * r.val + c.val), check := 0 } = 1#16 <<< r.val
    ∧ synCol { data := 1#256 <<< (16 * r.val + c.val), check := 0 } = 1#16 <<< c.val := by
  have hrow : rowParity (1#256 <<< (16 * r.val + c.val)) = 1#16 <<< r.val := by
    apply BitVec.eq_of_getLsbD_eq
    intro k hk
    rw [getLsbD_rowParity _ hk, dataRow_oneBit c.isLt hk]
    by_cases h : k = r.val
    · simp [h, parity_oneBit c]
    · have hzero : parity 0#16 = false := by decide
      have hne : k < r.val ∨ k - r.val ≠ 0 := by omega
      rcases hne with hne | hne <;> simp [h, hzero, hne]
  have hcol : colParity (1#256 <<< (16 * r.val + c.val)) = 1#16 <<< c.val := by
    rw [colParity, List.foldl_ext _ _ _ fun a k hk => congrArg (a ^^^ ·) (dataRow_oneBit (r := r) c.isLt (List.mem_range.1 hk)),
      foldl_xor_one _ _ List.nodup_range, if_pos (List.mem_range.2 r.isLt)]
    exact BitVec.zero_xor
  have hfill : fill16 (parity ((0 : W32).setWidth 16)) = 0 := by decide
  simp only [synRow, synCol, hrow, hcol, hfill]
  exact ⟨by simp, by simp⟩

/-- A bit of the column parities shows its column and every row. -/
theorem syndromes_colBit : ∀ j : Fin 16, synRow (flippedBit (256 + j)) = 0xFFFF ∧ synCol (flippedBit (256 + j)) = 1#16 <<< j.val := by
  decide +kernel

/-- A bit of the row parities shows its row and no column. -/
theorem syndromes_rowBit : ∀ j : Fin 16, synRow (flippedBit (272 + j)) = 1#16 <<< j.val ∧ synCol (flippedBit (272 + j)) = 0 := by
  decide +kernel

theorem popcount_oneBit : ∀ j : Fin 16, popcount (1#16 <<< j.val) = 1 ∧ lowBit (1#16 <<< j.val) = j := by decide +kernel

section
variable {d : W256} {e : Stored}

theorem weaveDecode_of_dataBit {r c : Fin 16} (hr : synRow e = 1#16 <<< r.val) (hc : synCol e = 1#16 <<< c.val)
    (hd : e.data = 1#256 <<< (16 * r.val + c.val)) : weaveDecode ((weaveEncode d).xor e) = .corrected d (16 * r.val + c.val) := by
  obtain ⟨hrow, hcol⟩ := syndromes_flipped d e
  obtain ⟨hpr, hlr⟩ := popcount_oneBit r
  obtain ⟨hpc, hlc⟩ := popcount_oneBit c
  have hback : ((weaveEncode d).xor e).data ^^^ 1#256 <<< (16 * r.val + c.val) = d := by
    rw [Stored.xor, hd, BitVec.xor_assoc, BitVec.xor_self, BitVec.xor_zero]
    rfl
  simp only [weaveDecode, hrow, hcol, hr, hc, hpr, hpc, hlr, hlc, hback]
  rfl

theorem weaveDecode_of_colBit {c : Fin 16} (hr : synRow e = 0xFFFF) (hc : synCol e = 1#16 <<< c.val) (hd : e.data = 0) :
    weaveDecode ((weaveEncode d).xor e) = .corrected d (256 + c.val) := by
  obtain ⟨hrow, hcol⟩ := syndromes_flipped d e
  obtain ⟨hpc, hlc⟩ := popcount_oneBit c
  have hpr : popcount (0xFFFF : W16) = 16 := by decide
  have hback : ((weaveEncode d).xor e).data = d := by
    rw [Stored.xor, hd]
    exact BitVec.xor_zero
  simp only [weaveDecode, hrow, hcol, hr, hc, hpr, hpc, hlc, hback]
  rfl

theorem weaveDecode_of_rowBit {r : Fin 16} (hr : synRow e = 1#16 <<< r.val) (hc : synCol e = 0) (hd : e.data = 0) :
    weaveDecode ((weaveEncode d).xor e) = .corrected d (272 + r.val) := by
  obtain ⟨hrow, hcol⟩ := syndromes_flipped d e
  obtain ⟨hpr, hlr⟩ := popcount_oneBit r
  have hpc : popcount (0 : W16) = 0 := by decide
  have hback : ((weaveEncode d).xor e).data = d := by
    rw [Stored.xor, hd]
    exact BitVec.xor_zero
  simp only [weaveDecode, hrow, hcol, hr, hc, hpr, hpc, hlr, hback]
  rfl

end

/-- Settles O7: the three kinds of bits of a block one by one. -/
theorem weaveCorrectsOneBit : Obligations.WeaveCorrectsOneBit := by
  unfold Obligations.WeaveCorrectsOneBit
  refine ⟨weaveDecode_weaveEncode, fun d i => ?_, by decide⟩
  have hi := i.isLt
  rw [flip_twoPow _ hi]
  by_cases hdata : i.val < 256
  · obtain ⟨hr, hc⟩ := syndromes_dataBit ⟨i / 16, by omega⟩ ⟨i % 16, by omega⟩
    have hplace : 16 * (i.val / 16) + i.val % 16 = i.val := by omega
    have hbit : flippedBit i = { data := 1#256 <<< (16 * (i.val / 16) + i.val % 16), check := 0 } := by rw [flippedBit, if_pos hdata, hplace]
    rw [hbit, weaveDecode_of_dataBit hr hc rfl]
    exact congrArg _ hplace
  · have hzero : (flippedBit i).data = 0 := by rw [flippedBit, if_neg hdata]
    by_cases hcol : i.val < 272
    · obtain ⟨hr, hc⟩ := syndromes_colBit ⟨i - 256, by omega⟩
      have hplace : 256 + (i.val - 256) = i.val := by omega
      simp only [hplace] at hr hc
      rw [weaveDecode_of_colBit (c := ⟨i - 256, by omega⟩) hr hc hzero]
      exact congrArg _ hplace
    · obtain ⟨hr, hc⟩ := syndromes_rowBit ⟨i - 272, by omega⟩
      have hplace : 272 + (i.val - 272) = i.val := by omega
      simp only [hplace] at hr hc
      rw [weaveDecode_of_rowBit (r := ⟨i - 272, by omega⟩) hr hc hzero]
      exact congrArg _ hplace

end Sys2Proof.Machine
end


section
/-! PROOF. The end of a region's reset where nothing is to be repaired and no command waits for it (17, R335; 18, R364; 22, R434). -/

namespace Sys2Proof.Machine

/-! ## Repair, training and firmware -/

/-- The image that a service die in some state would load. -/
def Service.load (v : Service) (kind : Nat) : Option Loaded := State.fwLoad { State.reset with svc := v } kind

theorem fwLoad_eq (s : State) (kind : Nat) : s.fwLoad kind = s.svc.load kind := rfl

theorem load_of_digest (v : Service) (d : Vector (List Byte) 12) (kind : Nat) : Service.load { v with regionDigest := d } kind = v.load kind := rfl

/-- What a region's reload may change: the region, its cores, the log and the digest of the firmware that it runs. -/
structure Reloaded (g : RegionId) (s t : State) : Prop where
  frame : t = { s with cores := t.cores, regions := t.regions, log := t.log, svc := t.svc }
  svc : t.svc = { s.svc with regionDigest := t.svc.regionDigest }
  others : ∀ g' : RegionId, g' ≠ g → t.regions[g'] = s.regions[g']
  lanesBad : t.regions[g].lanesBad = s.regions[g].lanesBad

namespace Reloaded

variable {g : RegionId} {s t u : State}

theorem refl (g : RegionId) (s : State) : Reloaded g s s := ⟨rfl, rfl, fun _ _ => rfl, rfl⟩

theorem trans (a : Reloaded g s t) (b : Reloaded g t u) : Reloaded g s u :=
  ⟨by rw [b.frame, a.frame], by rw [b.svc, a.svc], fun g' h => (b.others g' h).trans (a.others g' h), b.lanesBad.trans a.lanesBad⟩

theorem logEv (g : RegionId) (s : State) {a : LogArgs} (h : a.status = 0) : Reloaded g s (s.logEv a) := by
  rw [logEv_frame_quiet s h]
  exact ⟨rfl, rfl, fun _ _ => rfl, rfl⟩

theorem updCore (g : RegionId) (s : State) (c : CoreId) (f : Core → Core) : Reloaded g s (s.updCore c f) := ⟨rfl, rfl, fun _ _ => rfl, rfl⟩

theorem updRegion (s : State) (g : RegionId) (f : Region → Region)
    (hf : (f s.regions[g]).lanesBad = s.regions[g].lanesBad := by rfl) : Reloaded g s (s.updRegion g f) :=
  ⟨rfl, rfl, fun _ h => updRegion_other s h f, (congrArg Region.lanesBad (updRegion_self s g f)).trans hf⟩

theorem digest (g : RegionId) (s : State) (d : Vector (List Byte) 12) : Reloaded g s (s.updSvc (fun v => { v with regionDigest := d })) :=
  ⟨rfl, rfl, fun _ _ => rfl, rfl⟩

theorem foldl {β : Type} {f : State → β → State} (hf : ∀ s b, Reloaded g s (f s b)) (l : List β) (s : State) : Reloaded g s (l.foldl f s) :=
  foldl_within (refl g) trans hf l s

end Reloaded

theorem Reloaded.fwLoad {g : RegionId} {s t : State} (h : Reloaded g s t) (kind : Nat) : t.fwLoad kind = s.fwLoad kind := by
  rw [fwLoad_eq, h.svc, load_of_digest, fwLoad_eq]

/-- Nothing of a region is known to fail: no field fuse, no checker, no lane. -/
structure Sound (s : State) (g : RegionId) : Prop where
  fuses : s.svc.fuses = []
  checkers : s.badCheckers = []
  lanes : s.regions[g].lanesBad = []

theorem Sound.of_reloaded {g : RegionId} {s t : State} (h : Sound s g) (r : Reloaded g s t) : Sound t g :=
  ⟨by rw [r.svc]; exact h.fuses, by rw [r.frame]; exact h.checkers, r.lanesBad.trans h.lanes⟩

theorem repairRegion_of_sound {s : State} {g : RegionId} (h : Sound s g) : Reloaded g s (s.repairRegion g).1 ∧ (s.repairRegion g).2 = false := by
  have hfuses : s.regionFuses g = [] := by rw [State.regionFuses, h.fuses]; rfl
  have hout : s.checkedOut g = [] := by rw [State.checkedOut, h.checkers]; rfl
  simp only [State.repairRegion, hfuses, hout]
  exact ⟨(Reloaded.updRegion s g _).trans (.foldl (fun s c => .updCore g s c _) _ _), rfl⟩

theorem hardenRows_reloaded (s : State) (g : RegionId) : Reloaded g s (s.hardenRows g) :=
  (Reloaded.updRegion s g _).trans (.foldl (fun s _ => .logEv g s rfl) _ _)

theorem trainStack_of_sound {s : State} {g : RegionId} (h : Sound s g) : Reloaded g s (s.trainStack g).1 ∧ (s.trainStack g).2 = false := by
  have hbad : s.channelBad g = false := by rw [State.channelBad, h.checkers]; rfl
  have hu := hardenRows_reloaded s g
  have hsound := h.of_reloaded hu
  generalize hue : s.hardenRows g = u at hu hsound
  have htrain : u.regions[g].train.2 = false := by simp only [Region.train, hsound.lanes, List.any_nil]
  have hafter : Reloaded g u (u.updRegion g (fun _ => u.regions[g].train.1)) := .updRegion u g _
  have hbad' : (u.updRegion g (fun _ => u.regions[g].train.1)).channelBad g = false := by
    rw [State.channelBad, (hsound.of_reloaded hafter).checkers]; rfl
  simp only [State.trainStack, hbad, Bool.false_eq_true, if_false, hue, htrain, hbad', Bool.or_self]
  exact ⟨(hu.trans hafter).trans (.updRegion _ g _), trivial⟩

theorem runRegion_reloaded (s : State) (g : RegionId) (l : Loaded) : Reloaded g s (s.runRegion g l)
    ∧ (s.runRegion g l).regions[g].runSlot = l.slot ∧ (s.runRegion g l).regions[g].runFallback = l.fallback := by
  have hu : Reloaded g s ((s.updRegion g (fun r => { r with
      runSlot := l.slot
      runVersion := BitVec.ofNat 32 (fwVersion l.image)
      runSvn := fwSvn l.image
      runFallback := l.fallback })).updSvc (fun v => { v with regionDigest := v.regionDigest.set g (Config.sha384 (fwBody l.image)) })) :=
    (Reloaded.updRegion s g _).trans (.digest g _ _)
  unfold State.runRegion
  dsimp only
  split
  · have hlog := logEv_frame_quiet ((s.updRegion g (fun r => { r with
      runSlot := l.slot
      runVersion := BitVec.ofNat 32 (fwVersion l.image)
      runSvn := fwSvn l.image
      runFallback := l.fallback })).updSvc (fun v => { v with regionDigest := v.regionDigest.set g (Config.sha384 (fwBody l.image)) }))
      (a := { source := 14, cause := 5, status := 0, unit := g.val, address := 0 }) rfl
    refine ⟨hu.trans (.logEv g _ rfl), ?_⟩
    rw [State.logSvc, hlog]
    simp
  · exact ⟨hu, by simp⟩

theorem regionOut_reloaded (s : State) (g : RegionId) : Reloaded g s (s.regionOut g) := (Reloaded.updRegion s g _).trans (.digest g _ _)

/-- A sound region reloaded: it may return where an image can be loaded. -/
theorem reloadRegion_of_sound {s : State} {g : RegionId} (h : Sound s g) :
    Reloaded g s (s.reloadRegion g).1 ∧ (s.reloadRegion g).2 = (s.fwLoad kindREGION).isSome
      ∧ ∀ l, s.fwLoad kindREGION = some l →
        (s.reloadRegion g).1.regions[g].runSlot = l.slot ∧ (s.reloadRegion g).1.regions[g].runFallback = l.fallback := by
  obtain ⟨hrep, hout⟩ := repairRegion_of_sound h
  obtain ⟨htrain, hbad⟩ := trainStack_of_sound (h.of_reloaded hrep)
  have hu := hrep.trans htrain
  have hload := hu.fwLoad kindREGION
  cases hl : s.fwLoad kindREGION with
  | none =>
    have heq : s.reloadRegion g = (State.regionOut ((s.repairRegion g).1.trainStack g).1 g, false) := by
      simp only [State.reloadRegion, hout, hbad, hload, hl, Bool.or_self]
    rw [heq]
    exact ⟨hu.trans (regionOut_reloaded _ g), rfl, nofun⟩
  | some l =>
    have heq : s.reloadRegion g = (State.runRegion ((s.repairRegion g).1.trainStack g).1 g l, true) := by
      simp only [State.reloadRegion, hout, hbad, hload, hl, Bool.or_self]
    obtain ⟨hrun, hruns⟩ := runRegion_reloaded ((s.repairRegion g).1.trainStack g).1 g l
    rw [heq]
    refine ⟨hu.trans hrun, rfl, ?_⟩
    intro l' hl'
    obtain rfl := Option.some.inj hl'
    exact hruns

/-! ## The end of the reset -/

/-- The entry of a part whose reset has ended, in service or not. -/
def EpochEntry.ended (e : EpochEntry) (now : Nat) (ok : Bool) : EpochEntry :=
  if ok then EpochEntry.settle { e.advance now with returning := true } else { e.advance now with state := .fenced, returning := false }

theorem EpochEntry.ended_at_once {e : EpochEntry} {now : Nat} (ho : e.owed = 0) (hm : e.mayAdvance now = true) (ok : Bool) :
    (e.ended now ok).epoch = e.epoch + 1 ∧ (e.ended now ok).state = if ok then .inService else .fenced := by
  have hadv : e.advance now = { e with epoch := e.epoch + 1, lastNs := some now } := by simp [EpochEntry.advance, ho, hm]
  cases ok
  · exact ⟨by rw [EpochEntry.ended, hadv]; rfl, rfl⟩
  · simp [EpochEntry.ended, hadv, EpochEntry.settle, ho]

/-- A region's cores fenced, or returned, one by one: only their entries move. -/
structure CoreEntries (g : RegionId) (s t : State) : Prop where
  frame : t = { s with epochs := t.epochs }
  others : ∀ p, (∀ c ∈ coresOf g, p ≠ .core c) → t.part p = s.part p

theorem CoreEntries.region {g h : RegionId} {s t : State} (e : CoreEntries g s t) : t.part (.region h) = s.part (.region h) :=
  e.others _ fun _ _ hp => by cases hp

theorem foldl_coreEntries {g : RegionId} {f : State → CoreId → State} (hf : ∀ s c, f s c = { s with epochs := (f s c).epochs })
    (hp : ∀ s c p, p ≠ Part.core c → (f s c).part p = s.part p) (s : State) : CoreEntries g s ((coresOf g).foldl f s) := by
  suffices h : ∀ l : List CoreId, ∀ s : State, l.foldl f s = { s with epochs := (l.foldl f s).epochs }
      ∧ ∀ p, (∀ c ∈ l, p ≠ .core c) → (l.foldl f s).part p = s.part p by
    obtain ⟨hframe, hothers⟩ := h (coresOf g) s
    exact ⟨hframe, hothers⟩
  intro l
  induction l with
  | nil => exact fun s => ⟨rfl, fun _ _ => rfl⟩
  | cons c l ih =>
    intro s
    obtain ⟨hframe, hothers⟩ := ih (f s c)
    refine ⟨?_, fun p hne => ?_⟩
    · rw [List.foldl_cons, hframe, hf s c]
    · rw [List.foldl_cons, hothers p fun c' hc' => hne c' (List.mem_cons_of_mem _ hc'), hp s c p (hne c List.mem_cons_self)]

theorem fencePart_part_other (s : State) {p q : Part} (h : q ≠ p) : (s.fencePart p).part q = s.part q := by
  unfold State.fencePart
  split
  · rfl
  · exact part_updPart_other s h _

theorem returnCores_entries (s : State) (g : RegionId) : CoreEntries g s (s.returnCores g) := by
  refine foldl_coreEntries (fun s c => ?_) (fun s c p hp => ?_) s
  · split
    · exact fencePart_frame s _
    · rfl
  · split
    · exact fencePart_part_other s hp
    · exact part_updPart_other s hp _

theorem fenceCores_entries (s : State) (g : RegionId) : CoreEntries g s ((coresOf g).foldl (fun s c => s.fencePart (.core c)) s) :=
  foldl_coreEntries (fun s _ => fencePart_frame s _) (fun s _ _ hp => fencePart_part_other s hp) s

/-- What the end of a sound region's reset leaves, with no command to look after. -/
structure ResetEnded (g : RegionId) (s t : State) : Prop where
  frame : t = { s with cores := t.cores, regions := t.regions, log := t.log, svc := t.svc, epochs := t.epochs }
  svc : t.svc = { s.svc with regionDigest := t.svc.regionDigest }
  regions : ∀ g' : RegionId, g' ≠ g → t.regions[g'] = s.regions[g']
  runs : ∀ l, s.fwLoad kindREGION = some l → t.regions[g].runSlot = l.slot ∧ t.regions[g].runFallback = l.fallback
  part : t.part (.region g) = (s.part (.region g)).ended s.timeNs (s.fwLoad kindREGION).isSome
  others : ∀ p, p ≠ .region g → (∀ c ∈ coresOf g, p ≠ .core c) → t.part p = s.part p

theorem finishReset_of_ok {s u : State} {g : RegionId} (h : s.reloadRegion g = (u, true)) (hc : u.cmds = []) :
    s.finishReset g = some ((u.returnPart (.region g)).returnCores g).replayRounds.runCulls.quenchMended := by
  have hback : State.returnPart { u.answering g with epochs := u.epochs } (.region g) = u.returnPart (.region g) := rfl
  have hgo : rebuildGo (u.cmds.filter (Cmd.homedIn g)) (u.answering g) [] = some (u.answering g, []) := by rw [hc]; rfl
  simp only [State.finishReset, h, hgo, Bool.not_true, Bool.false_eq_true, if_false, State.failAll, List.foldl_nil]
  exact congrArg (fun v : State => some (v.returnCores g).replayRounds.runCulls.quenchMended) hback

theorem finishReset_of_sound {s : State} {g : RegionId} (h : Sound s g) (hcmds : s.cmds = []) (hz : s.fls.quench = none)
    (hp : (s.part (.region g)).state = .resetting) : ∃ t, s.finishReset g = some t ∧ ResetEnded g s t := by
  obtain ⟨hu, hok, hruns⟩ := reloadRegion_of_sound h
  generalize hue : s.reloadRegion g = u at hu hok hruns
  obtain ⟨u, ok⟩ := u
  dsimp only at hu hok hruns
  have hpart (p : Part) : u.part p = s.part p := by rw [hu.frame]; rfl
  have htime : u.timeNs = s.timeNs := by rw [hu.frame]
  have hquench : u.fls.quench = none := by rw [hu.frame]; exact hz
  have hnone : u.cmds = [] := by rw [hu.frame]; exact hcmds
  cases ok with
  | false =>
    have hcores := fenceCores_entries (u.fencePart (.region g)) g
    have hfence := fencePart_frame u (.region g)
    have hopen : (u.part (.region g)).state ≠ .fenced := by rw [hpart, hp]; decide
    have hself : (u.fencePart (.region g)).part (.region g) = (s.part (.region g)).ended s.timeNs false := by
      rw [State.fencePart, if_neg hopen, part_updPart_self, hpart, htime]
      rfl
    refine ⟨u.leaveService g, ?_, ?_, ?_, ?_, ?_, ?_, fun p hne hcore => ?_⟩
    · simp only [State.finishReset, hue, Bool.not_false, if_true]
      refine congrArg some (quenchMended_of_none ?_)
      rw [State.leaveService, hcores.frame, hfence]
      exact hquench
    · rw [State.leaveService, hcores.frame, hfence, hu.frame]
    · rw [State.leaveService, hcores.frame, hfence]; exact hu.svc
    · rw [State.leaveService, hcores.frame, hfence]; exact hu.others
    · rw [State.leaveService, hcores.frame, hfence]; exact hruns
    · rw [← hok, State.leaveService, hcores.region, hself]
    · rw [State.leaveService, hcores.others p hcore, fencePart_part_other u hne, hpart]
  | true =>
    have hcores := returnCores_entries (u.returnPart (.region g)) g
    have hnil : ((u.returnPart (.region g)).returnCores g).cmds = [] := by rw [hcores.frame]; exact hnone
    have hplain : plainCmds ((u.returnPart (.region g)).returnCores g) := fun cm hcm => absurd (hnil ▸ hcm) List.not_mem_nil
    refine ⟨(u.returnPart (.region g)).returnCores g, ?_, ?_, ?_, ?_, ?_, ?_, fun p hne hcore => ?_⟩
    · rw [finishReset_of_ok hue hnone, replayRounds_of_plain hplain, State.runCulls, hnil, List.foldl_nil]
      refine congrArg some (quenchMended_of_none ?_)
      rw [hcores.frame]
      exact hquench
    all_goals generalize (u.returnPart (.region g)).returnCores g = v at hcores
    · rw [hcores.frame, State.returnPart, hu.frame]
      rfl
    · rw [hcores.frame]; exact hu.svc
    · rw [hcores.frame]; exact hu.others
    · rw [hcores.frame]; exact hruns
    · rw [← hok, hcores.region, State.returnPart, part_updPart_self, hpart, htime]
      rfl
    · rw [hcores.others p hcore, State.returnPart, part_updPart_other u hne, hpart]

/-- Settles O44: what the row does with the reset's end, and that end where nothing is to be repaired. -/
theorem regionResetEnds : Obligations.RegionResetEnds := by
  unfold Obligations.RegionResetEnds
  intro s s1 g
  refine ⟨fun hp => ?idle, fun hp hret hdie => ⟨fun hnone => ?waits, fun hsome hdrain => ?ends⟩,
    fun hcmds hz hfuses hbad hlanes hp ho hm => ?sound⟩
  case idle => exact congrArg Host.Outcome.next (by simp [hp])
  case waits => exact congrArg Host.Outcome.next (by simp [hnone])
  case ends =>
    refine ⟨s1.updRegion g (fun r => { r with drain := false }), congrArg Host.Outcome.next ?_, updRegion_self .., rfl, rfl⟩
    simp only [hp, hret, bne_self_eq_false, Bool.false_or, beq_eq_false_iff_ne.2 hdie, Bool.false_eq_true, if_false, hsome]
    exact if_pos hdrain
  case sound =>
    obtain ⟨t, hfin, ht⟩ := finishReset_of_sound ⟨hfuses, hbad, hlanes⟩ hcmds hz hp
    obtain ⟨hepoch, hstate⟩ := EpochEntry.ended_at_once ho hm (s.fwLoad kindREGION).isSome
    refine ⟨t, hfin, ?_, by rw [ht.part, hstate], by rw [ht.part, hepoch], ht.runs⟩
    rw [ht.frame]
    exact ⟨rfl, rfl, rfl, SameBytes.sameStacked fun _ => rfl, rfl⟩

end Sys2Proof.Machine
end


section
/-! PROOF. A die's fault (17, R335, R340): its parts are fenced, what its cores hold is lost, and its commands wait for it. -/

namespace Sys2Proof.Machine

theorem mem_regionsOf : ∀ {d : DieId} {g : RegionId}, g ∈ regionsOf d ↔ dieOfRegion g = d := by decide

/-! ## Parts fenced in turn -/

/-- A die's regions and cores, each region before its cores. -/
def partsOf (d : DieId) : List Part := (regionsOf d).flatMap (fun g => .region g :: (coresOf g).map .core)

theorem mem_partsOf {d : DieId} {p : Part} : p ∈ partsOf d
    ↔ (∃ g, dieOfRegion g = d ∧ p = .region g) ∨ ∃ c, dieOfRegion (regionOfCore c) = d ∧ p = .core c := by
  simp only [partsOf, List.mem_flatMap, List.mem_cons, List.mem_map, mem_regionsOf, mem_coresOf]
  constructor
  · rintro ⟨g, hg, rfl | ⟨c, hc, rfl⟩⟩
    · exact .inl ⟨g, hg, rfl⟩
    · exact .inr ⟨c, hc ▸ hg, rfl⟩
  · rintro (⟨g, hg, rfl⟩ | ⟨c, hc, rfl⟩)
    · exact ⟨g, hg, .inl rfl⟩
    · exact ⟨_, hc, .inr ⟨c, rfl, rfl⟩⟩

theorem fencePart_state (s : State) (p : Part) : ((s.fencePart p).part p).state = .fenced := by
  unfold State.fencePart
  split
  · assumption
  · rw [part_updPart_self]

/-- Parts fenced: only their entries move. -/
structure Fenced (l : List Part) (s t : State) : Prop where
  frame : t = { s with epochs := t.epochs }
  state : ∀ p ∈ l, (t.part p).state = .fenced
  others : ∀ p, p ∉ l → t.part p = s.part p

theorem foldl_fencePart (l : List Part) (s : State) : Fenced l s (l.foldl State.fencePart s) := by
  induction l generalizing s with
  | nil => exact ⟨rfl, nofun, fun _ _ => rfl⟩
  | cons p l ih =>
    have h := ih (s.fencePart p)
    rw [List.foldl_cons]
    refine ⟨by rw [h.frame, fencePart_frame], fun q hq => ?_, fun q hq => ?_⟩
    · by_cases hin : q ∈ l
      · exact h.state q hin
      · obtain rfl := (List.mem_cons.1 hq).resolve_right hin
        rw [h.others q hin, fencePart_state]
    · obtain ⟨hne, hin⟩ := not_or.1 (mt List.mem_cons.2 hq)
      rw [h.others q hin, fencePart_part_other s hne]

theorem foldl_fenceRegions (d : DieId) (s : State) :
    (regionsOf d).foldl (fun s g => (coresOf g).foldl (fun s c => s.fencePart (.core c)) (s.fencePart (.region g))) s
      = (partsOf d).foldl State.fencePart s := by
  rw [partsOf, List.foldl_flatMap]
  refine List.foldl_ext _ _ _ fun s g _ => ?_
  rw [List.foldl_cons, List.foldl_map]

/-! ## Cores lost in turn -/

/-- What a list of cores leaves when they are lost. -/
structure CoresEmptied (l : List CoreId) (s t : State) : Prop where
  frame : t = { s with cores := t.cores, argMaps := t.argMaps, regions := t.regions, coreStore := t.coreStore, accMem := t.accMem,
                       cmds := t.cmds, freshCtr := t.freshCtr }
  free : ∀ c ∈ l, ∀ k, t.slot c k = (s.slot c k).freed
  others : ∀ c : CoreId, c ∉ l → t.cores[c] = s.cores[c]
  cmds : ∀ q n cm, s.cmd? q n = some cm → ∃ cm', t.cmd? q n = some cm' ∧ CmdKept cm cm'
  quiet : Quiet t

theorem foldl_loseCore_emptied (l : List CoreId) {s : State} (h : Quiet s) : CoresEmptied l s (l.foldl State.loseCore s) := by
  induction l generalizing s with
  | nil => exact ⟨rfl, nofun, fun _ _ => rfl, fun _ _ cm hcm => ⟨cm, hcm, .refl cm⟩, h⟩
  | cons c l ih =>
    have hc := loseCore_emptied h c
    have hl := ih (hc.loss.quiet h)
    rw [List.foldl_cons]
    refine ⟨by rw [hl.frame, hc.loss.frame], fun c' hm k => ?_, fun c' hm => ?_, fun q n cm hcm => ?_, hl.quiet⟩
    · by_cases hself : c' = c
      · subst hself
        by_cases hin : c' ∈ l
        · rw [hl.free c' hin, hc.free]
          rfl
        · rw [State.slot, hl.others c' hin]
          exact hc.free k
      · rw [hl.free c' ((List.mem_cons.1 hm).resolve_left hself), State.slot, hc.loss.cores c' hself]
        rfl
    · obtain ⟨hne, hin⟩ := not_or.1 (mt List.mem_cons.2 hm)
      rw [hl.others c' hin, hc.loss.cores c' hne]
    · obtain ⟨cm1, hcm1, hkept1, _⟩ := hc.cmds q n cm hcm
      obtain ⟨cm2, hcm2, hkept2⟩ := hl.cmds q n cm1 hcm1
      exact ⟨cm2, hcm2, hkept1.trans hkept2⟩

/-! ## Commands held in turn -/

/-- A command is held as it was, or for the given reason. -/
def HeldFor (why : HoldWhy) (x y : Cmd) : Prop := (y.held = x.held ∧ y.heldOn = x.heldOn) ∨ (y.held = true ∧ y.heldOn = some why)

theorem HeldFor.trans {why : HoldWhy} {x y z : Cmd} (a : HeldFor why x y) (b : HeldFor why y z) : HeldFor why x z := by
  rcases b with ⟨hh, ho⟩ | b
  · rcases a with ⟨hh', ho'⟩ | ⟨hh', ho'⟩
    · exact .inl ⟨hh.trans hh', ho.trans ho'⟩
    · exact .inr ⟨hh.trans hh', ho.trans ho'⟩
  · exact .inr b

/-- What a hold may change: kernel slots go free, and commands lose places and are held. -/
structure HoldStep (why : HoldWhy) (s t : State) : Prop where
  frame : t = { s with cores := t.cores, argMaps := t.argMaps, regions := t.regions, cmds := t.cmds, freshCtr := t.freshCtr }
  quiet : Quiet s → Quiet t
  slots : ∀ c k, t.slot c k = s.slot c k ∨ t.slot c k = (s.slot c k).freed
  cmds : ∀ q n cm, s.cmd? q n = some cm → ∃ cm', t.cmd? q n = some cm' ∧ CmdKept cm cm' ∧ HeldFor why cm cm'

namespace HoldStep

variable {why : HoldWhy} {s t u : State}

theorem refl (why : HoldWhy) (s : State) : HoldStep why s s :=
  ⟨rfl, id, fun _ _ => .inl rfl, fun _ _ cm h => ⟨cm, h, .refl cm, .inl ⟨rfl, rfl⟩⟩⟩

theorem trans (a : HoldStep why s t) (b : HoldStep why t u) : HoldStep why s u := by
  refine ⟨by rw [b.frame, a.frame], fun h => b.quiet (a.quiet h), fun c k => ?_, fun q n cm hcm => ?_⟩
  · rcases b.slots c k with hb | hb <;> rcases a.slots c k with ha | ha <;> rw [hb, ha]
    · exact .inl rfl
    · exact .inr rfl
    · exact .inr rfl
    · exact .inr rfl
  · obtain ⟨cm1, hcm1, hkept1, hheld1⟩ := a.cmds q n cm hcm
    obtain ⟨cm2, hcm2, hkept2, hheld2⟩ := b.cmds q n cm1 hcm1
    exact ⟨cm2, hcm2, hkept1.trans hkept2, hheld1.trans hheld2⟩

/-- A command's fields changed as a hold may change them. -/
theorem updCmd (s : State) (q n : Nat) {f : Cmd → Cmd} (hf : ∀ x, CmdKept x (f x) ∧ HeldFor why x (f x)) : HoldStep why s (s.updCmd q n f) := by
  refine ⟨rfl, (CoreLoss.updCmd 0 s q n fun x => (hf x).1.plain).quiet, fun _ _ => .inl rfl, fun q' n' cm hcm => ?_⟩
  by_cases h : (q, n) = (q', n')
  · obtain ⟨rfl, rfl⟩ := Prod.mk.inj h
    obtain ⟨hkept, hheld⟩ := hf cm
    refine ⟨f cm, ?_, hkept, hheld⟩
    rw [cmd?_updCmd_self s q n fun x => (hf x).1.name, hcm]
    rfl
  · refine ⟨cm, ?_, .refl cm, .inl ⟨rfl, rfl⟩⟩
    rw [cmd?_updCmd_other s (fun x => (hf x).1.name) h, hcm]

theorem dropSlot (why : HoldWhy) (s : State) (c : CoreId) (k : KsId) : HoldStep why s (s.dropSlot c k) := by
  have hloss := CoreLoss.dropSlot s c k
  refine ⟨by rw [dropSlot_frame], hloss.quiet, fun c' k' => ?_, fun q n cm hcm => ⟨cm, ?_, .refl cm, .inl ⟨rfl, rfl⟩⟩⟩
  · by_cases h : c' = c
    · subst h
      rw [dropSlot_slot]
      split
      · exact .inr rfl
      · exact .inl rfl
    · exact .inl (congrArg (fun co : Core => co.slots[k']) (hloss.cores c' h))
  · rw [dropSlot_frame]
    exact hcm

/-- A kernel slot's flags folded into its command (R105). -/
theorem foldFlags (why : HoldWhy) (s : State) (q n : Nat) (c : CoreId) (k : KsId) (fl : Flags) :
    HoldStep why s (s.updCmd q n (fun cm => { cm with
      flags := cm.flags.join fl
      insts := cm.insts.map (fun (i : Inst) => if i.placed = some (c, k) && !i.ended then { i with flags := i.flags.join fl } else i) })) := by
  refine updCmd s q n fun x => ⟨⟨⟨rfl, rfl⟩, ⟨rfl, rfl, rfl⟩, rfl, id, fun c' k' h y' hy' => ?_⟩, .inl ⟨rfl, rfl⟩⟩
  obtain ⟨y, hy, rfl⟩ := List.mem_map.1 hy'
  split <;> exact h y hy

theorem freeSlot (why : HoldWhy) (s : State) (c : CoreId) (k : KsId) : HoldStep why s (s.freeSlot c k) := by
  unfold State.freeSlot
  dsimp only
  split
  · exact (foldFlags why s _ _ c k _).trans (dropSlot why _ c k)
  · exact dropSlot why s c k

theorem unplace (why : HoldWhy) (s : State) (q n : Nat) (c : CoreId) (k : KsId) : HoldStep why s (s.updCmd q n (fun cm => cm.unplace c k 0)) :=
  updCmd s q n fun x => ⟨.unplace x c k 0, .inl ⟨rfl, rfl⟩⟩

end HoldStep

/-- One of a command's instances stopped, as `stopInstances` stops each. -/
def State.stopInst (q n : Nat) (s : State) (i : Inst) : State :=
  match i.placed, i.ended with
  | some (c, k), false => (s.freeSlot c k).updCmd q n (fun cm => cm.unplace c k 0)
  | _, _ => s

theorem stopInstances_of_cmd {s : State} {q n : Nat} {cm : Cmd} (h : s.cmd? q n = some cm) :
    s.stopInstances q n = cm.insts.foldl (State.stopInst q n) s := by
  simp only [State.stopInstances, h]
  rfl

theorem stopInst_step (why : HoldWhy) (q n : Nat) (s : State) (i : Inst) : HoldStep why s (s.stopInst q n i) := by
  unfold State.stopInst
  split
  · exact (HoldStep.freeSlot why s _ _).trans (.unplace why _ q n _ _)
  · exact .refl why s

theorem foldl_stopInst_step (why : HoldWhy) (q n : Nat) (is : List Inst) (s : State) : HoldStep why s (is.foldl (State.stopInst q n) s) :=
  foldl_within (HoldStep.refl why) HoldStep.trans (stopInst_step why q n) is s

/-- The places of the stopped instances are gone from their command. -/
theorem foldl_stopInst_gone (q n : Nat) {c : CoreId} {k : KsId} (is : List Inst) : ∀ s : State, ∀ cm, s.cmd? q n = some cm →
    (cm.goneFrom c k ∨ ∃ i ∈ is, i.placed = some (c, k) ∧ i.ended = false) →
    ∃ cm', (is.foldl (State.stopInst q n) s).cmd? q n = some cm' ∧ cm'.goneFrom c k := by
  induction is with
  | nil =>
    rintro s cm hcm (hgone | ⟨i, hi, _⟩)
    · exact ⟨cm, hcm, hgone⟩
    · exact absurd hi List.not_mem_nil
  | cons i is ih =>
    intro s cm hcm hplaces
    obtain ⟨cm1, hcm1, hkept, _⟩ := (stopInst_step .roles q n s i).cmds q n cm hcm
    refine ih _ cm1 hcm1 ?_
    rcases hplaces with hgone | ⟨j, hj, hp, he⟩
    · exact .inl (hkept.gone c k hgone)
    · rcases List.mem_cons.1 hj with rfl | hj
      · left
        have hstop : s.stopInst q n j = (s.freeSlot c k).updCmd q n (fun cm => cm.unplace c k 0) := by simp only [State.stopInst, hp, he]
        obtain ⟨cm0, hcm0, _, _⟩ := (HoldStep.freeSlot .roles s c k).cmds q n cm hcm
        rw [hstop, cmd?_updCmd_self _ q n fun x => (CmdKept.unplace x c k 0).name, hcm0] at hcm1
        obtain rfl := Option.some.inj hcm1
        exact unplace_goneFrom cm0 c k 0
      · exact .inr ⟨j, hj, hp, he⟩

/-- Nothing of a command is placed any more. -/
def Cmd.gone (cm : Cmd) : Prop := ∀ c k, cm.goneFrom c k

theorem stopInstances_gone {s : State} {q n : Nat} {cm : Cmd} (h : s.cmd? q n = some cm) :
    ∃ cm', (s.stopInstances q n).cmd? q n = some cm' ∧ CmdKept cm cm' ∧ cm'.gone := by
  rw [stopInstances_of_cmd h]
  obtain ⟨cm', hcm', hkept, _⟩ := (foldl_stopInst_step .roles q n cm.insts s).cmds q n cm h
  refine ⟨cm', hcm', hkept, fun c k => ?_⟩
  have hplaces : cm.goneFrom c k ∨ ∃ i ∈ cm.insts, i.placed = some (c, k) ∧ i.ended = false := by
    by_cases hgone : cm.goneFrom c k
    · exact .inl hgone
    · simp only [Cmd.goneFrom, not_forall, Bool.not_eq_true] at hgone
      obtain ⟨i, hi, hp, he⟩ := hgone
      exact .inr ⟨i, hi, hp, he⟩
  obtain ⟨cm'', hcm'', hgone⟩ := foldl_stopInst_gone q n cm.insts s cm h hplaces
  rw [hcm'] at hcm''
  obtain rfl := Option.some.inj hcm''
  exact hgone

/-- A command as a hold leaves it. -/
def Cmd.hold (why : HoldWhy) (cm : Cmd) : Cmd := if cm.phase = .ended then cm else { cm with held := true, heldOn := some why, lossy := true }

theorem Cmd.hold_kept (why : HoldWhy) (x : Cmd) : CmdKept x (x.hold why) ∧ HeldFor why x (x.hold why) := by
  unfold Cmd.hold
  split
  · exact ⟨.refl x, .inl ⟨rfl, rfl⟩⟩
  · exact ⟨⟨⟨rfl, rfl⟩, ⟨rfl, rfl, rfl⟩, rfl, fun _ => rfl, fun _ _ h => h⟩, .inr ⟨rfl, rfl⟩⟩

theorem stopInstances_of_none {s : State} {q n : Nat} (h : s.cmd? q n = none) : s.stopInstances q n = s := by
  simp only [State.stopInstances, h]

theorem stopInstances_step (why : HoldWhy) (s : State) (q n : Nat) : HoldStep why s (s.stopInstances q n) := by
  cases h : s.cmd? q n with
  | none => rw [stopInstances_of_none h]; exact .refl why s
  | some cm => rw [stopInstances_of_cmd h]; exact foldl_stopInst_step why q n cm.insts s

/-- No round kernel is stopped for a command that is no ROUND. -/
theorem stopRounds_of_plain {s : State} (h : plainCmds s) (q n : Nat) : s.stopRounds q n = s := by
  unfold State.stopRounds
  cases hc : s.cmd? q n with
  | none => rfl
  | some cm =>
    obtain ⟨ht, _, _⟩ := h cm (List.mem_of_find?_eq_some hc)
    exact if_neg ht

theorem holdCmd_of_quiet {s : State} (h : Quiet s) (q n : Nat) (why : HoldWhy) :
    s.holdCmd q n why = (s.stopInstances q n).updCmd q n (Cmd.hold why) := by
  have hq := ((stopInstances_step why s q n).quiet h).1
  rw [State.holdCmd, stopRounds_of_plain hq, trapEnd_of_plain hq]
  rfl

/-- A command that is held for a reason, with nothing placed. -/
def Cmd.heldOff (why : HoldWhy) (cm : Cmd) : Prop := cm.held = true ∧ cm.heldOn = some why ∧ cm.lossy = true ∧ cm.gone

theorem Cmd.heldOff.kept {why : HoldWhy} {x y : Cmd} (h : x.heldOff why) (hk : CmdKept x y) (hh : HeldFor why x y) : y.heldOff why := by
  obtain ⟨hheld, hon, hlossy, hgone⟩ := h
  have hy : y.held = true ∧ y.heldOn = some why := by
    rcases hh with ⟨hh, ho⟩ | hh
    · exact ⟨hh.trans hheld, ho.trans hon⟩
    · exact hh
  exact ⟨hy.1, hy.2, hk.lossy hlossy, fun c k => hk.gone c k (hgone c k)⟩

theorem holdCmd_step {s : State} (h : Quiet s) (q n : Nat) (why : HoldWhy) : HoldStep why s (s.holdCmd q n why) := by
  rw [holdCmd_of_quiet h]
  exact (stopInstances_step why s q n).trans (.updCmd _ q n (Cmd.hold_kept why))

theorem holdCmd_held {s : State} (h : Quiet s) {q n : Nat} {cm : Cmd} (hcm : s.cmd? q n = some cm) (hp : cm.phase = .dispatched)
    (why : HoldWhy) : ∃ cm', (s.holdCmd q n why).cmd? q n = some cm' ∧ cm'.heldOff why := by
  obtain ⟨cm1, hcm1, hkept, hgone⟩ := stopInstances_gone hcm
  have hopen : cm1.phase ≠ .ended := by rw [hkept.phase, hp]; decide
  refine ⟨cm1.hold why, ?_, ?_⟩
  · rw [holdCmd_of_quiet h, cmd?_updCmd_self _ q n fun x => (Cmd.hold_kept why x).1.name, hcm1]
    rfl
  · rw [Cmd.hold, if_neg hopen]
    exact ⟨rfl, rfl, rfl, hgone⟩

/-- Commands held in turn. -/
theorem foldl_holdCmd_step (why : HoldWhy) (l : List (Nat × Nat)) {s : State} (h : Quiet s) :
    HoldStep why s (l.foldl (fun s v => s.holdCmd v.1 v.2 why) s) :=
  foldl_within (R := fun s t => Quiet s → HoldStep why s t) (fun s _ => .refl why s)
    (fun a b hs => (a hs).trans (b ((a hs).quiet hs))) (fun _ v hs => holdCmd_step hs v.1 v.2 why) l s h

theorem foldl_holdCmd_held (why : HoldWhy) (l : List (Nat × Nat)) : ∀ {s : State}, Quiet s → ∀ {q n : Nat} {cm : Cmd}, s.cmd? q n = some cm →
    cm.phase = .dispatched → (q, n) ∈ l → ∃ cm', (l.foldl (fun s v => s.holdCmd v.1 v.2 why) s).cmd? q n = some cm' ∧ cm'.heldOff why := by
  induction l with
  | nil => exact fun _ _ _ _ _ _ hin => absurd hin List.not_mem_nil
  | cons v l ih =>
    intro s h q n cm hcm hp hin
    have hstep := holdCmd_step h v.1 v.2 why
    rw [List.foldl_cons]
    rcases List.mem_cons.1 hin with rfl | hin
    · obtain ⟨cm1, hcm1, hheld⟩ := holdCmd_held h hcm hp why
      obtain ⟨cm2, hcm2, hkept, hfor⟩ := (foldl_holdCmd_step why l (hstep.quiet h)).cmds _ _ cm1 hcm1
      exact ⟨cm2, hcm2, hheld.kept hkept hfor⟩
    · obtain ⟨cm1, hcm1, hkept, _⟩ := hstep.cmds q n cm hcm
      exact ih (hstep.quiet h) hcm1 (hkept.phase.trans hp) hin

end Sys2Proof.Machine
end


section
/-! PROOF. The fault and the return of a die as a whole (17, R335, R340; 18, R366; 19, R384). -/

namespace Sys2Proof.Machine

/-! ## A die's ports -/

/-- Darit ports moved: parts that are no port, commands, memories and cores are as they were. -/
structure PortsMoved (s t : State) : Prop where
  frame : t = { s with darit := t.darit, epochs := t.epochs, log := t.log, slots := t.slots, fabric := t.fabric, fls := t.fls }
  others : ∀ p, (∀ q, p ≠ .darit q) → t.part p = s.part p
  quiet : s.fls.quench = none → t.fls = s.fls

namespace PortsMoved

variable {s t u : State}

theorem refl (s : State) : PortsMoved s s := ⟨rfl, fun _ _ => rfl, fun _ => rfl⟩

theorem trans (a : PortsMoved s t) (b : PortsMoved t u) : PortsMoved s u := by
  refine ⟨by rw [b.frame, a.frame], fun p hp => (b.others p hp).trans (a.others p hp), fun h => ?_⟩
  have ha := a.quiet h
  rw [b.quiet (by rw [ha]; exact h), ha]

theorem of_moved {p : DaritPort} {y : DPort} (h : PortMoved p y s t) : PortsMoved s t :=
  ⟨by rw [h.frame], fun q hq => h.others q (hq p), h.quiet⟩

theorem portFenced (s : State) (p : DaritPort) : PortsMoved s (s.portFenced p) := by
  unfold State.portFenced
  split
  · exact of_moved ((portTo_moved s p .down 0).logDarit 4 p.val)
  · exact refl s

theorem foldl {f : State → DaritPort → State} (hf : ∀ s p, PortsMoved s (f s p)) (l : List DaritPort) (s : State) : PortsMoved s (l.foldl f s) :=
  foldl_within refl trans hf l s

end PortsMoved

/-! ## The fault -/

theorem foldl_moveCopies_of_elsewhere (l : List RegionId) {s : State} (h : ∀ g ∈ l, s.copyA ≠ some g ∧ s.copyB ≠ some g) :
    l.foldl State.moveCopies s = s := by
  induction l with
  | nil => rfl
  | cons g l ih =>
    obtain ⟨ha, hb⟩ := h g List.mem_cons_self
    rw [List.foldl_cons, moveCopies_of_elsewhere ha hb]
    exact ih fun g' hg' => h g' (List.mem_cons_of_mem g hg')

/-- A die's cores. -/
def dieCores (d : DieId) : List CoreId := (regionsOf d).flatMap coresOf

theorem mem_dieCores {d : DieId} {c : CoreId} : c ∈ dieCores d ↔ dieOfRegion (regionOfCore c) = d := by
  simp only [dieCores, List.mem_flatMap, mem_regionsOf, mem_coresOf]
  constructor
  · rintro ⟨g, hg, rfl⟩
    exact hg
  · exact fun h => ⟨_, h, rfl⟩

theorem foldl_loseDie (d : DieId) (s : State) :
    (regionsOf d).foldl (fun s g => (coresOf g).foldl State.loseCore s) s = (dieCores d).foldl State.loseCore s := by
  rw [dieCores, List.foldl_flatMap]

theorem mem_onDie {s : State} {d : DieId} {q n : Nat} {cm : Cmd} (h : s.cmd? q n = some cm) (hp : cm.phase = .dispatched)
    (hh : cm.held = false) (hi : ∃ y ∈ cm.insts, y.ended = false ∧ ∃ c k, y.placed = some (c, k) ∧ dieOfRegion (regionOfCore c) = d) :
    (q, n) ∈ s.onDie d := by
  obtain ⟨y, hy, he, c, k, hpl, hd⟩ := hi
  have hname := List.find?_some h
  simp only [Bool.and_eq_true, beq_iff_eq] at hname
  obtain ⟨rfl, rfl⟩ := hname
  refine List.mem_map.2 ⟨cm, List.mem_filter.2 ⟨List.mem_of_find?_eq_some h, ?_⟩, rfl⟩
  simp only [Bool.and_eq_true, Bool.or_eq_true, List.any_eq_true]
  exact ⟨⟨by simp [hp], by simp [hh]⟩, .inl ⟨y, hy, by simp [he], by simp [hpl, hd]⟩⟩

/-- The state in which a faulted die's cores are lost: logged, its parts fenced. -/
def State.dieFenced (s : State) (d : DieId) : State :=
  (partsOf d).foldl State.fencePart
    ((s.logEv { source := 8, cause := 1, unit := d.val, epoch := (s.part (.die d)).epoch }).fencePart (.die d))

theorem dieFenced_spec (s : State) (d : DieId) : s.dieFenced d = { s with log := (s.dieFenced d).log, epochs := (s.dieFenced d).epochs }
    ∧ (∀ p ∈ Part.die d :: partsOf d, ((s.dieFenced d).part p).state = .fenced)
    ∧ ∀ p, p ∉ Part.die d :: partsOf d → (s.dieFenced d).part p = s.part p := by
  have h := foldl_fencePart (.die d :: partsOf d) (s.logEv { source := 8, cause := 1, unit := d.val, epoch := (s.part (.die d)).epoch })
  rw [List.foldl_cons] at h
  have hlog := logEv_frame_quiet s (a := { source := 8, cause := 1, unit := d.val, epoch := (s.part (.die d)).epoch }) rfl
  refine ⟨?_, h.state, fun p hp => (h.others p hp).trans (by rw [hlog]; rfl)⟩
  unfold State.dieFenced
  rw [h.frame, hlog]

theorem dieFault_of_open {s : State} {d : DieId} (hopen : (s.part (.die d)).state ≠ .fenced) (hz : s.fls.quench = none) : s.dieFault d
    = ((regionsOf d).foldl State.moveCopies ((portsOf d).foldl State.portFenced ((s.onDie d).foldl (fun s v => s.holdCmd v.1 v.2 (.die d.val))
        ((dieCores d).foldl State.loseCore (s.dieFenced d))))).replayRounds := by
  have hlog := logEv_frame_quiet s (a := { source := 8, cause := 1, unit := d.val, epoch := (s.part (.die d)).epoch }) rfl
  have hvictims : (s.logEv { source := 8, cause := 1, unit := d.val, epoch := (s.part (.die d)).epoch }).onDie d = s.onDie d := by
    rw [hlog]; rfl
  have hquench : ((s.logEv { source := 8, cause := 1, unit := d.val, epoch := (s.part (.die d)).epoch }).fencePart (.die d)).fls.quench = none := by
    rw [fencePart_frame, hlog]; exact hz
  rw [State.dieFault, if_neg hopen]
  dsimp only
  rw [quenchBroken_of_none hquench, foldl_fenceRegions, foldl_loseDie, hvictims]
  rfl

/-- What a die's fault leaves. -/
structure DieGone (d : DieId) (s t : State) : Prop where
  fenced : ∀ p ∈ Part.die d :: partsOf d, (t.part p).state = .fenced
  parts : ∀ p, p ∉ Part.die d :: partsOf d → (∀ q, p ≠ .darit q) → t.part p = s.part p
  free : ∀ c, dieOfRegion (regionOfCore c) = d → ∀ k, t.slot c k = (s.slot c k).freed
  cores : s.cmds = [] → ∀ c, dieOfRegion (regionOfCore c) ≠ d → t.cores[c] = s.cores[c]
  held : ∀ q n cm, s.cmd? q n = some cm → cm.phase = .dispatched → (q, n) ∈ s.onDie d →
    ∃ cm', t.cmd? q n = some cm' ∧ cm'.heldOff (.die d.val)
  memories : t.stacked = s.stacked ∧ t.regionMem = s.regionMem ∧ t.hostMem = s.hostMem

theorem dieFault_gone {s : State} {d : DieId} (hopen : (s.part (.die d)).state ≠ .fenced) (hq : Quiet s) (hz : s.fls.quench = none)
    (hcopies : ∀ g, dieOfRegion g = d → s.copyA ≠ some g ∧ s.copyB ≠ some g) : DieGone d s (s.dieFault d) := by
  rw [dieFault_of_open hopen hz]
  obtain ⟨hf1, hstate1, hother1⟩ := dieFenced_spec s d
  generalize s.dieFenced d = u1 at hf1 hstate1 hother1
  have hq1 : Quiet u1 := by rw [hf1]; exact hq
  have h2 := foldl_loseCore_emptied (dieCores d) hq1
  generalize (dieCores d).foldl State.loseCore u1 = u2 at h2
  have h3 := foldl_holdCmd_step (.die d.val) (s.onDie d) h2.quiet
  have hheld := @foldl_holdCmd_held (.die d.val) (s.onDie d) u2 h2.quiet
  have hidle : s.cmds = [] → (s.onDie d).foldl (fun s v => s.holdCmd v.1 v.2 (.die d.val)) u2 = u2 := fun h => by simp [State.onDie, h]
  generalize (s.onDie d).foldl (fun s v => s.holdCmd v.1 v.2 (.die d.val)) u2 = u3 at h3 hheld hidle
  have h4 := PortsMoved.foldl PortsMoved.portFenced (portsOf d) u3
  generalize (portsOf d).foldl State.portFenced u3 = u4 at h4
  have hstay : (regionsOf d).foldl State.moveCopies u4 = u4 := foldl_moveCopies_of_elsewhere _ fun g hg => by
    have hg := hcopies g (mem_regionsOf.1 hg)
    rw [h4.frame, h3.frame, h2.frame, hf1]
    exact hg
  have hplain : plainCmds u4 := by rw [h4.frame]; exact (h3.quiet h2.quiet).1
  rw [hstay, replayRounds_of_plain hplain]
  have hpart : ∀ p, (∀ q, p ≠ .darit q) → u4.part p = u1.part p := fun p hp => by rw [h4.others p hp, h3.frame, h2.frame]; rfl
  have hslot4 : ∀ c k, u4.slot c k = u3.slot c k := fun c k => by rw [h4.frame]; rfl
  have hslot1 : ∀ c k, u1.slot c k = s.slot c k := fun c k => by rw [hf1]; rfl
  refine ⟨fun p hp => ?_, fun p hp hport => (hpart p hport).trans (hother1 p hp), fun c hc k => ?_, fun hcmds c hc => ?_,
    fun q n cm hcm hp hon => ?_, ?_⟩
  · rw [hpart p fun q hq => ?_, hstate1 p hp]
    subst hq
    rcases List.mem_cons.1 hp with h | h
    · cases h
    · rcases mem_partsOf.1 h with ⟨_, _, h⟩ | ⟨_, _, h⟩ <;> cases h
  · have hfree := h2.free c (mem_dieCores.2 hc) k
    rw [hslot1] at hfree
    rw [hslot4]
    rcases h3.slots c k with h | h <;> rw [h, hfree]
    rfl
  · rw [h4.frame, hidle hcmds, h2.others c (mt mem_dieCores.1 hc), hf1]
  · obtain ⟨cm2, hcm2, hkept2⟩ := h2.cmds q n cm (by rw [hf1]; exact hcm)
    obtain ⟨cm3, hcm3, hoff⟩ := hheld hcm2 (hkept2.phase.trans hp) hon
    exact ⟨cm3, by rw [h4.frame]; exact hcm3, hoff⟩
  · rw [h4.frame, h3.frame, h2.frame, hf1]
    exact ⟨rfl, rfl, rfl⟩

end Sys2Proof.Machine
end


section
/-! PROOF. The return of a die (17, R335, R340; 18, R366): each of its regions is cleared, reset and brought back in turn. -/

namespace Sys2Proof.Machine

/-! ## Regions cleared and reset in turn -/

/-- What a part's entry is while it resets. -/
def EpochEntry.resetting (e : EpochEntry) : EpochEntry := { e with state := .resetting, returning := false }

/-- What clearing and resetting a list of regions leaves, where no command and no coil lies there. -/
structure RegionsCleared (l : List RegionId) (s t : State) : Prop where
  frame : t = { s with cores := t.cores, argMaps := t.argMaps, regions := t.regions, coreStore := t.coreStore, accMem := t.accMem,
                       regionMem := t.regionMem, cmds := t.cmds, freshCtr := t.freshCtr, epochs := t.epochs }
  cmds : t.cmds = []
  regions : ∀ g : RegionId, t.regions[g].lanesBad = s.regions[g].lanesBad ∧ t.regions[g].outOfService = s.regions[g].outOfService
  away : ∀ g ∈ l, t.part (.region g) = (s.part (.region g)).resetting
  others : ∀ p, (∀ g ∈ l, p ≠ .region g) → t.part p = s.part p

theorem markHomed_of_none {s : State} (h : s.cmds = []) (g : RegionId) : s.markHomed g = s := by
  have : s.cmds.map (fun cm => if cm.homedIn g then { cm with lossy := true } else cm) = s.cmds := by rw [h]; rfl
  rw [State.markHomed, this]

theorem quiet_of_none {s : State} (hc : s.cmds = []) (hx : s.coils = []) : Quiet s := ⟨fun _ h => absurd (hc ▸ h) List.not_mem_nil, hx⟩

theorem clearRegion_regions {s : State} (h : Quiet s) (g g' : RegionId) : (s.clearRegion g).regions[g'].lanesBad = s.regions[g'].lanesBad
    ∧ (s.clearRegion g).regions[g'].outOfService = s.regions[g'].outOfService := by
  have hl := clearRegion_cleared h g
  by_cases hg : g' = g
  · subst hg
    obtain ⟨q, hq⟩ := hl.region
    rw [hq]
    exact ⟨rfl, rfl⟩
  · obtain ⟨q, hq⟩ := hl.regions g' hg
    rw [hq]
    exact ⟨rfl, rfl⟩

theorem loseSlot_cmds {s : State} (h : s.cmds = []) (c : CoreId) (k : KsId) : (s.loseSlot c k).cmds = [] := by
  have hd : (s.dropSlot c k).cmds = [] := by rw [dropSlot_frame]; exact h
  unfold State.loseSlot
  split
  · exact hd
  · dsimp only
    rw [trapEnd_of_plain (fun cm hcm => absurd hcm (by simp [State.updCmd, hd]))]
    simp [State.updCmd, hd]

theorem loseCore_cmds {s : State} (hc : s.cmds = []) (hx : s.coils = []) (c : CoreId) : (s.loseCore c).cmds = [] := by
  have hcoils : ((List.finRange 4).foldl (fun s k => s.loseSlot c k) s).coils = [] := by
    rw [(SlotsLost.foldl (c := c) (List.finRange 4) (quiet_of_none hc hx)).loss.frame]; exact hx
  have hcmds : ((List.finRange 4).foldl (fun s k => s.loseSlot c k) s).cmds = [] :=
    foldl_within (R := fun s t : State => s.cmds = [] → t.cmds = []) (fun _ => id) (fun a b h => b (a h)) (fun _ k h => loseSlot_cmds h c k) _ s hc
  unfold State.loseCore
  dsimp only
  generalize (List.finRange 4).foldl (fun s k => s.loseSlot c k) s = u at hcoils hcmds
  rw [loseCoils_of_none hcoils]
  exact hcmds

/-- Clearing one region ends no command, where there is none. -/
theorem clearRegion_cmds {s : State} (hc : s.cmds = []) (hx : s.coils = []) (g : RegionId) : (s.clearRegion g).cmds = [] := by
  have hcore (s : State) (c : CoreId) (h : s.cmds = [] ∧ s.coils = []) : ((s.loseCore c).updCore c Core.restart).cmds = []
      ∧ ((s.loseCore c).updCore c Core.restart).coils = [] := by
    obtain ⟨hc, hx⟩ := h
    refine ⟨(State.updCore_cmds ..).trans (loseCore_cmds hc hx c), (State.updCore_coils ..).trans ?_⟩
    rw [(loseCore_loss (quiet_of_none hc hx) c).frame]
    exact hx
  obtain ⟨hall, _⟩ := foldl_within (R := fun s t : State => (s.cmds = [] ∧ s.coils = []) → (t.cmds = [] ∧ t.coils = [])) (fun _ => id)
    (fun a b h => b (a h)) (fun s c => hcore s c) (coresOf g) s ⟨hc, hx⟩
  unfold State.clearRegion
  generalize (coresOf g).foldl (fun s c => (s.loseCore c).updCore c Core.restart) s = u at hall
  exact hall

theorem regionBack_of_none {s : State} (hc : s.cmds = []) (hx : s.coils = []) {g : RegionId} (hin : s.regions[g].outOfService = false) :
    RegionsCleared [g] s (State.regionBack [] s g) := by
  have hq := quiet_of_none hc hx
  have hl := clearRegion_cleared hq g
  have hcmds := clearRegion_cmds hc hx g
  have hregions := clearRegion_regions hq g
  have hout : (s.clearRegion g).regions[g].outOfService = false := by rw [(hregions g).2, hin]
  have hback : State.regionBack [] s g = (s.clearRegion g).resetPart (.region g) := by
    simp only [State.regionBack, markHomed_of_none hc, List.contains_nil, Bool.false_eq_true, if_false, hout]
  rw [hback]
  generalize s.clearRegion g = u at hl hcmds hregions
  have hpart (p : Part) : u.part p = s.part p := by rw [hl.frame]; rfl
  refine ⟨by rw [State.resetPart, hl.frame]; rfl, hcmds, hregions, fun g' hg' => ?_, fun p hp => ?_⟩
  · obtain rfl := List.mem_singleton.1 hg'
    rw [State.resetPart, part_updPart_self, hpart]
    rfl
  · rw [State.resetPart, part_updPart_other u (hp g (List.mem_singleton.2 rfl)), hpart]

theorem foldl_regionBack (l : List RegionId) : ∀ {s : State}, s.cmds = [] → s.coils = [] → (∀ g ∈ l, s.regions[g].outOfService = false) → l.Nodup →
    RegionsCleared l s (l.foldl (State.regionBack []) s) := by
  induction l with
  | nil => exact fun hc _ _ _ => ⟨rfl, hc, fun _ => ⟨rfl, rfl⟩, nofun, fun _ _ => rfl⟩
  | cons g l ih =>
    intro s hc hx hin hnodup
    obtain ⟨hg, hl⟩ := List.nodup_cons.1 hnodup
    have h1 := regionBack_of_none hc hx (hin g List.mem_cons_self)
    have h2 := ih (s := State.regionBack [] s g) h1.cmds (by rw [h1.frame]; exact hx)
      (fun g' hg' => by rw [(h1.regions g').2]; exact hin g' (List.mem_cons_of_mem g hg')) hl
    have hkept (p : Part) (hp : p ≠ .region g) : (State.regionBack [] s g).part p = s.part p :=
      h1.others p fun g' hg' => by rw [List.mem_singleton.1 hg']; exact hp
    rw [List.foldl_cons]
    generalize State.regionBack [] s g = u at h1 h2 hkept
    refine ⟨by rw [h2.frame, h1.frame], h2.cmds, fun g' => ⟨(h2.regions g').1.trans (h1.regions g').1, (h2.regions g').2.trans (h1.regions g').2⟩,
      fun g' hg' => ?_, fun p hp => ?_⟩
    · by_cases hself : g' = g
      · subst hself
        rw [h2.others _ fun g'' hg'' he => hg (by cases he; exact hg''), h1.away g' (List.mem_singleton.2 rfl)]
      · rw [h2.away g' ((List.mem_cons.1 hg').resolve_left hself), hkept _ fun he => hself (by cases he; rfl)]
    · rw [h2.others p fun g' hg' => hp g' (List.mem_cons_of_mem g hg'), hkept p (hp g List.mem_cons_self)]

/-! ## Regions brought back in turn -/

/-- What the ends of a list of sound regions' resets leave. -/
structure ResetsEnded (l : List RegionId) (s t : State) : Prop where
  frame : t = { s with cores := t.cores, regions := t.regions, log := t.log, svc := t.svc, epochs := t.epochs }
  ended : ∀ g ∈ l, t.part (.region g) = (s.part (.region g)).ended s.timeNs (s.fwLoad kindREGION).isSome
  others : ∀ p, (∀ g ∈ l, p ≠ .region g) → (∀ c, p ≠ .core c) → t.part p = s.part p

theorem finishAll_of_sound (l : List RegionId) : ∀ {s : State}, (∀ g ∈ l, Sound s g ∧ (s.part (.region g)).state = .resetting
      ∧ s.regions[g].outOfService = false) → s.cmds = [] → s.fls.quench = none → l.Nodup → ∃ t, finishAll l s = some t ∧ ResetsEnded l s t := by
  induction l with
  | nil => exact fun _ _ _ _ => ⟨_, rfl, rfl, nofun, fun _ _ _ => rfl⟩
  | cons g l ih =>
    intro s hall hc hz hnodup
    obtain ⟨hg, hl⟩ := List.nodup_cons.1 hnodup
    obtain ⟨hsound, hp, hin⟩ := hall g List.mem_cons_self
    obtain ⟨u, hu, he⟩ := finishReset_of_sound hsound hc hz hp
    have hne (g' : RegionId) (hg' : g' ∈ l) : g' ≠ g := fun e => hg (e ▸ hg')
    have hother (g' : RegionId) (hg' : g' ≠ g) : u.part (.region g') = s.part (.region g') :=
      he.others _ (fun e => hg' (by cases e; rfl)) fun _ _ e => by cases e
    have hload : u.fwLoad kindREGION = s.fwLoad kindREGION := by rw [fwLoad_eq, he.svc, load_of_digest, fwLoad_eq]
    have htime : u.timeNs = s.timeNs := by rw [he.frame]
    obtain ⟨t, ht, hends⟩ := ih (s := u) (fun g' hg' => by
        obtain ⟨hs', hp', hin'⟩ := hall g' (List.mem_cons_of_mem g hg')
        have hreg := he.regions g' (hne g' hg')
        refine ⟨⟨by rw [he.svc]; exact hs'.fuses, by rw [he.frame]; exact hs'.checkers, by rw [hreg]; exact hs'.lanes⟩, ?_, by rw [hreg]; exact hin'⟩
        rw [hother g' (hne g' hg'), hp']) (by rw [he.frame]; exact hc) (by rw [he.frame]; exact hz) hl
    refine ⟨t, ?_, by rw [hends.frame, he.frame], fun g' hg' => ?_, fun p hp hcore => ?_⟩
    · simp only [finishAll, hin, Bool.false_eq_true, if_false, hu]
      exact ht
    · by_cases hself : g' = g
      · subst hself
        rw [hends.others _ (fun g'' hg'' e => hne g'' hg'' (by cases e; rfl)) (fun _ e => by cases e), he.part]
      · rw [hends.ended g' ((List.mem_cons.1 hg').resolve_left hself), hother g' hself, hload, htime]
    · rw [hends.others p (fun g' hg' => hp g' (List.mem_cons_of_mem g hg')) hcore,
        he.others p (hp g List.mem_cons_self) fun c _ => hcore c]

/-! ## The return -/

/-- The state in which a returning die's regions are cleared: logged, the die in service. -/
def State.dieBack (s : State) (d : DieId) : State :=
  ((s.logEv { source := 8, cause := 2, unit := d.val, epoch := (s.part (.die d)).epoch }).resetPart (.die d)).returnPart (.die d)

theorem dieBack_spec (s : State) (d : DieId) : s.dieBack d = { s with log := (s.dieBack d).log, epochs := (s.dieBack d).epochs }
    ∧ (s.dieBack d).part (.die d) = (s.part (.die d)).resetting.ended s.timeNs true ∧ ∀ p, p ≠ .die d → (s.dieBack d).part p = s.part p := by
  have hlog := logEv_frame_quiet s (a := { source := 8, cause := 2, unit := d.val, epoch := (s.part (.die d)).epoch }) rfl
  refine ⟨?_, ?_, fun p hp => ?_⟩ <;> unfold State.dieBack <;> rw [hlog]
  · rfl
  · rw [State.returnPart, part_updPart_self, State.resetPart, part_updPart_self]
    rfl
  · rw [State.returnPart, part_updPart_other _ hp, State.resetPart, part_updPart_other _ hp]
    rfl

theorem dieReturn_of_finished {s u : State} {d : DieId} (hp : (s.part (.die d)).state = .fenced) (hbad : s.stationBad d = false)
    (hu : finishAll (regionsOf d) ((regionsOf d).foldl (State.regionBack []) (s.dieBack d)) = some u) (hc : u.cmds = [])
    (hz : u.fls.quench = none) : s.dieReturn d [] = (portsOf d).foldl State.portReset u := by
  have hports := PortsMoved.foldl (fun s p => .of_moved (portReset_moved s p)) (portsOf d) u
  have heq : s.dieReturn d [] = (((portsOf d).foldl State.portReset u).unhold
      (fun w => w == .die d.val || w == .roles)).runCulls.quenchMended := by
    rw [State.dieReturn, hp, if_neg (by decide), hbad, if_neg (by decide)]
    dsimp only
    rw [State.dieBack] at hu
    rw [hu]
  rw [heq]
  generalize (portsOf d).foldl State.portReset u = v at hports
  have hvc : v.cmds = [] := by rw [hports.frame]; exact hc
  have hvz : v.fls.quench = none := by rw [hports.quiet hz]; exact hz
  rw [State.unhold, hvc]
  simp only [List.filter_nil, List.foldl_nil, State.runCulls, hvc]
  exact quenchMended_of_none hvz

theorem regionsOf_nodup : ∀ d : DieId, (regionsOf d).Nodup := by decide

/-- What the return of a sound die leaves. -/
structure DieReturned (d : DieId) (s t : State) : Prop where
  die : t.part (.die d) = (s.part (.die d)).resetting.ended s.timeNs true
  regions : ∀ g, dieOfRegion g = d → t.part (.region g) = (s.part (.region g)).resetting.ended s.timeNs (s.fwLoad kindREGION).isSome
  others : ∀ g, dieOfRegion g ≠ d → t.part (.region g) = s.part (.region g)
  memories : t.stacked = s.stacked ∧ t.hostMem = s.hostMem

theorem dieReturn_returned {s : State} {d : DieId} (hp : (s.part (.die d)).state = .fenced) (hc : s.cmds = []) (hx : s.coils = [])
    (hz : s.fls.quench = none) (hfuses : s.svc.fuses = []) (hbad : s.badCheckers = [])
    (hin : ∀ g, dieOfRegion g = d → s.regions[g].outOfService = false ∧ s.regions[g].lanesBad = []) : DieReturned d s (s.dieReturn d []) := by
  have hstation : s.stationBad d = false := by rw [State.stationBad, hbad]; rfl
  obtain ⟨hf0, hdie0, hother0⟩ := dieBack_spec s d
  generalize hu0 : s.dieBack d = u0 at hf0 hdie0 hother0
  have h1 := foldl_regionBack (regionsOf d) (s := u0) (by rw [hf0]; exact hc) (by rw [hf0]; exact hx)
    (fun g hg => by rw [hf0]; exact (hin g (mem_regionsOf.1 hg)).1) (regionsOf_nodup d)
  generalize hu1 : (regionsOf d).foldl (State.regionBack []) u0 = u1 at h1
  have hregions (g : RegionId) (hg : dieOfRegion g = d) : u1.regions[g].lanesBad = [] ∧ u1.regions[g].outOfService = false := by
    obtain ⟨hl, ho⟩ := h1.regions g
    obtain ⟨hin1, hin2⟩ := hin g hg
    rw [hl, ho, hf0]
    exact ⟨hin2, hin1⟩
  have haway (g : RegionId) (hg : dieOfRegion g = d) : u1.part (.region g) = (s.part (.region g)).resetting := by
    rw [h1.away g (mem_regionsOf.2 hg), hother0 _ (fun e => by cases e)]
  obtain ⟨u2, hu2, h2⟩ := finishAll_of_sound (regionsOf d) (s := u1) (fun g hg => by
      have hg := mem_regionsOf.1 hg
      refine ⟨⟨by rw [h1.frame, hf0]; exact hfuses, by rw [h1.frame, hf0]; exact hbad, (hregions g hg).1⟩, ?_, (hregions g hg).2⟩
      rw [haway g hg]
      rfl) h1.cmds (by rw [h1.frame, hf0]; exact hz) (regionsOf_nodup d)
  have hload : u1.fwLoad kindREGION = s.fwLoad kindREGION := by rw [h1.frame, hf0]; rfl
  have htime : u1.timeNs = s.timeNs := by rw [h1.frame, hf0]
  have heq := dieReturn_of_finished (u := u2) hp hstation (by rw [hu0, hu1]; exact hu2) (by rw [h2.frame]; exact h1.cmds)
    (by rw [h2.frame, h1.frame, hf0]; exact hz)
  have h3 := PortsMoved.foldl (fun s p => .of_moved (portReset_moved s p)) (portsOf d) u2
  rw [heq]
  generalize (portsOf d).foldl State.portReset u2 = t at h3
  refine ⟨?_, fun g hg => ?_, fun g hg => ?_, ?_⟩
  · rw [h3.others _ (fun _ e => by cases e), h2.others _ (fun _ _ e => by cases e) (fun _ e => by cases e), h1.others _ (fun _ _ e => by cases e), hdie0]
  · rw [h3.others _ (fun _ e => by cases e), h2.ended g (mem_regionsOf.2 hg), haway g hg, hload, htime]
  · have hne (g' : RegionId) (hg' : g' ∈ regionsOf d) : Part.region g ≠ .region g' := fun e => hg (by cases e; exact mem_regionsOf.1 hg')
    rw [h3.others _ (fun _ e => by cases e), h2.others _ hne (fun _ e => by cases e), h1.others _ hne, hother0 _ (fun e => by cases e)]
  · rw [h3.frame, h2.frame, h1.frame, hf0]
    exact ⟨rfl, rfl⟩

/-- Settles O45: the fault by what it leaves of parts, slots and commands, the return by the ends of its regions' resets. -/
theorem dieFaultAndReturn : Obligations.DieFaultAndReturn := by
  unfold Obligations.DieFaultAndReturn
  refine ⟨fun s d hp => congrArg Host.Outcome.next (if_pos hp), fun s d hopen hplain hcoils hz hcopies => ?fault,
    fun s d lost => ⟨fun hp => congrArg Host.Outcome.next (by simp [State.dieReturn, hp]), fun hp hbad => ?stays⟩,
    fun s d hp hc hx hz hfuses hbad ho hm hregions => ?back⟩
  case fault =>
    have hgone := dieFault_gone hopen ⟨hplain, hcoils⟩ hz hcopies
    have hdie := hgone.fenced (.die d) List.mem_cons_self
    have hregion (g : RegionId) (hg : dieOfRegion g = d) := hgone.fenced (.region g) (List.mem_cons_of_mem _ (mem_partsOf.2 (.inl ⟨g, hg, rfl⟩)))
    have hout (p : Part) (hd : p ≠ .die d) (hr : ∀ g, dieOfRegion g = d → p ≠ .region g)
        (hc : ∀ c, dieOfRegion (regionOfCore c) = d → p ≠ .core c) : p ∉ Part.die d :: partsOf d := by
      intro h
      rcases List.mem_cons.1 h with h | h
      · exact hd h
      · rcases mem_partsOf.1 h with ⟨g, hg, h⟩ | ⟨c, hcd, h⟩
        · exact hr g hg h
        · exact hc c hcd h
    refine ⟨s.dieFault d, rfl, hdie, fun g hg => ⟨hregion g hg, ?_⟩, fun c hc => ⟨?_, hgone.free c hc⟩, fun g hg => ?_,
      fun c hc => ⟨?_, fun hcmds => hgone.cores hcmds c hc⟩, fun q n cm hcm hphase hheld hplaces => ?_, hgone.memories⟩
    · rw [State.regionState, hg, if_pos hdie]
    · exact hgone.fenced (.core c) (List.mem_cons_of_mem _ (mem_partsOf.2 (.inr ⟨c, hc, rfl⟩)))
    · exact hgone.parts _ (hout _ (fun e => by cases e) (fun g' hg' e => hg (by cases e; exact hg')) fun _ _ e => by cases e) fun _ e => by cases e
    · exact hgone.parts _ (hout _ (fun e => by cases e) (fun _ _ e => by cases e) fun c' hc' e => hc (by cases e; exact hc')) fun _ e => by cases e
    · obtain ⟨cm', hcm', hh, hon, hlossy, hoff⟩ := hgone.held q n cm hcm hphase (mem_onDie hcm hphase hheld hplaces)
      refine ⟨cm', hcm', hh, hon, hlossy, fun y hy he => ?_⟩
      cases hpl : y.placed with
      | none => rfl
      | some p =>
        have := hoff p.1 p.2 y hy hpl
        rw [he] at this
        exact nomatch this
  case stays => exact congrArg Host.Outcome.next (by simp [State.dieReturn, hp, hbad])
  case back =>
    have hback := dieReturn_returned hp hc hx hz hfuses hbad fun g hg => ⟨(hregions g hg).1, (hregions g hg).2.1⟩
    have hend (e : EpochEntry) (ho : e.owed = 0) (hm : e.mayAdvance s.timeNs = true) (ok : Bool) :=
      EpochEntry.ended_at_once (e := e.resetting) ho hm ok
    obtain ⟨hepoch, hstate⟩ := hend _ ho hm true
    refine ⟨s.dieReturn d [], rfl, by rw [hback.die, hstate]; rfl, by rw [hback.die, hepoch]; rfl, fun g hg => ?_, hback.others, hback.memories⟩
    obtain ⟨_, _, hog, hmg⟩ := hregions g hg
    obtain ⟨hepoch, hstate⟩ := hend _ hog hmg (s.fwLoad kindREGION).isSome
    rw [hback.regions g hg]
    exact ⟨hepoch, hstate⟩

end Sys2Proof.Machine
end


section
/-! PROOF. Device time (20, R404, R405, R452): a measured offset met, armed seconds, and what the base falls back to. -/

namespace Sys2Proof.Machine

/-! ## An offset met -/

/-- The time base with an offset met. -/
def TimeBase.steered (t : TimeBase) (off : Int) : TimeBase := { t with offset := off, slewNs := if 1000000 < off then 0 else off, state := .locked }

theorem steer_tim (s : State) (off : Int) : (s.steer off).tim = s.tim.steered off := by
  unfold State.steer TimeBase.steered
  by_cases h : 1000000 < off <;> simp only [h, if_true, if_false] <;> rfl

theorem steer_timeNs (s : State) (off : Int) : (s.steer off).timeNs = if 1000000 < off then s.timeNs + off.toNat else s.timeNs := by
  unfold State.steer
  dsimp only
  split <;> rfl

theorem steer_frame (s : State) (off : Int) : s.steer off = { s with timeNs := (s.steer off).timeNs, tim := (s.steer off).tim } := by
  unfold State.steer
  dsimp only
  split <;> rfl

theorem steer_slews (s : State) {off : Int} (h : off ≤ 1000000) : s.steer off = { s with tim := { s.tim with offset := off, slewNs := off, state := .locked } } := by
  have hno : ¬ 1000000 < off := not_lt.2 h
  rw [State.steer]
  simp only [if_neg hno]
  rfl

theorem steer_steps (s : State) {off : Int} (h : 1000000 < off) : s.steer off
    = { s with timeNs := s.timeNs + off.toNat, tim := { s.tim with offset := off, slewNs := 0, state := .locked } } := by
  rw [State.steer]
  simp only [if_pos h]
  rfl

/-! ## The rows -/

section
variable {s : State} {h : HostPort}

theorem exec_ptmExchange_of_active (ha : s.tim.active = 1 + h.val) (hu : s.hif[h].up = true) (root : W64) :
    exec (.ptmExchange h root) s = .next (s.steer ((root.toNat : Int) - s.timeNs)) := congrArg Host.Outcome.next (by simp only [ha, hu]; rfl)

theorem exec_ptmExchange_of_other (ha : s.tim.active ≠ 1 + h.val) (root : W64) : exec (.ptmExchange h root) s = .next s :=
  congrArg Host.Outcome.next (by simp [ha])

theorem exec_losePtm_of_active (ha : s.tim.active = 1 + h.val) : exec (.timeReferenceLoss (.ptm h)) s
    = .next (if s.tim.auto && s.hif[otherPort h].up then s.updTim (fun t => { t with active := 1 + (otherPort h).val })
      else s.updTim (fun t => { t with state := .holdover })) := congrArg Host.Outcome.next (if_neg (not_not.2 ha))

theorem exec_losePtm_of_other (ha : s.tim.active ≠ 1 + h.val) : exec (.timeReferenceLoss (.ptm h)) s = .next s :=
  congrArg Host.Outcome.next (if_pos ha)

end

theorem exec_ppsEdge_of_armed {s : State} (h : s.tim.armed = true) (m : Int) : exec (.ppsEdge m) s
    = .next (((s.updTim (fun t => { t with ppsOk := true })).steer ((s.tim.armedNs : Int) - s.timeNs)).updTim (fun x => { x with
        armed := false, state := if s.tim.active = 3 && s.tim.tenOk then .locked else s.tim.state })) := congrArg Host.Outcome.next (if_pos h)

theorem exec_ppsEdge_of_unarmed {s : State} (h : s.tim.armed = false) (m : Int) : exec (.ppsEdge m) s
    = .next (let u := s.updTim (fun t => { t with ppsOk := true })
      if s.tim.active = 3 then (if s.tim.tenOk then u.steer m else u.updTim TimeBase.noPps) else u) :=
  congrArg Host.Outcome.next (if_neg (by simp [State.updTim, h]))

theorem exec_ppsEdge_steers {s : State} (h : s.tim.armed = false) (ha : s.tim.active = 3) (ht : s.tim.tenOk = true) (m : Int) :
    exec (.ppsEdge m) s = .next ((s.updTim (fun t => { t with ppsOk := true })).steer m) :=
  (exec_ppsEdge_of_unarmed h m).trans (congrArg Host.Outcome.next ((if_pos ha).trans (if_pos ht)))

/-- Armed seconds loaded: the time, the offset that is slewed away, and nothing else but the base. -/
theorem exec_ppsEdge_loads {s : State} (h : s.tim.armed = true) (m : Int) : ∃ t, exec (.ppsEdge m) s = .next t ∧ t.tim.armed = false
    ∧ t.tim.ppsOk = true ∧ t.timeNs = (if (s.timeNs : Int) + 1000000 < s.tim.armedNs then s.tim.armedNs else s.timeNs)
    ∧ ((s.tim.armedNs : Int) ≤ s.timeNs + 1000000 → t.tim.slewNs = (s.tim.armedNs : Int) - s.timeNs)
    ∧ t = { s with timeNs := t.timeNs, tim := t.tim } := by
  have htim := steer_tim (s.updTim (fun t => { t with ppsOk := true })) ((s.tim.armedNs : Int) - s.timeNs)
  have htime := steer_timeNs (s.updTim (fun t => { t with ppsOk := true })) ((s.tim.armedNs : Int) - s.timeNs)
  have hframe := steer_frame (s.updTim (fun t => { t with ppsOk := true })) ((s.tim.armedNs : Int) - s.timeNs)
  refine ⟨_, exec_ppsEdge_of_armed h m, rfl, ?_, ?_, fun hle => ?_, ?_⟩
  · simp only [State.updTim] at htim ⊢
    rw [htim]
    rfl
  · refine htime.trans ?_
    have htimeNs : (s.updTim (fun t => { t with ppsOk := true })).timeNs = s.timeNs := rfl
    rw [htimeNs]
    split <;> split <;> omega
  · simp only [State.updTim] at htim ⊢
    rw [htim]
    exact if_neg (by omega)
  · simp only [State.updTim] at hframe ⊢
    rw [hframe]

theorem losePps_spec (s : State) : s.losePps.tim = TimeBase.noPps { s.tim with ppsOk := false }
    ∧ (s.tim.ppsOk = true → ∃ r, s.losePps.log.recs = List.take 8192 (r :: s.log.recs) ∧ r.source = 15 ∧ r.cause = 3)
    ∧ s.losePps = { s with tim := s.losePps.tim, log := s.losePps.log } := by
  unfold State.losePps
  dsimp only
  split
  next =>
    refine ⟨?_, fun _ => ⟨_, logEv_recs _ _, rfl, rfl⟩, ?_⟩ <;> rw [State.logModule, logEv_frame_quiet _ rfl] <;> rfl
  next h => exact ⟨rfl, fun h' => absurd h' h, rfl⟩

theorem loseTen_spec (s : State) : s.loseTen.tim = TimeBase.noPps { s.tim with tenOk := false }
    ∧ (s.tim.tenOk = true → ∃ r, s.loseTen.log.recs = List.take 8192 (r :: s.log.recs) ∧ r.source = 15 ∧ r.cause = 4)
    ∧ s.loseTen = { s with tim := s.loseTen.tim, log := s.loseTen.log } := by
  unfold State.loseTen
  dsimp only
  split
  next =>
    refine ⟨?_, fun _ => ⟨_, logEv_recs _ _, rfl, rfl⟩, ?_⟩ <;> rw [State.logModule, logEv_frame_quiet _ rfl] <;> rfl
  next h => exact ⟨rfl, fun h' => absurd h' h, rfl⟩

/-- What a write of TIM_CTRL gives the base. -/
theorem ctrl_spec (t : TimeBase) (v : Nat) : (t.ctrl v).auto = bit v 3
    ∧ (t.ctrl v).ptmMs = (if 1 ≤ fld v 25 16 ∧ fld v 25 16 ≤ 1000 then fld v 25 16 else t.ptmMs)
    ∧ (fld v 2 0 ≤ 3 → (t.ctrl v).source = fld v 2 0 ∧ (t.ctrl v).active = fld v 2 0)
    ∧ (3 < fld v 2 0 → (t.ctrl v).source = t.source ∧ (t.ctrl v).active = t.active ∧ (t.ctrl v).state = t.state) := by
  unfold TimeBase.ctrl
  dsimp only
  split
  next h =>
    simp only [Bool.or_eq_true, Bool.and_eq_true, decide_eq_true_eq] at h
    refine ⟨rfl, by simp, fun hle => ?_, fun _ => ⟨rfl, rfl, rfl⟩⟩
    obtain ⟨hs, ha⟩ := h.resolve_left (by omega)
    exact ⟨hs.symm, ha.symm⟩
  next h =>
    simp only [Bool.or_eq_true, decide_eq_true_eq, not_or] at h
    exact ⟨rfl, by simp, fun _ => ⟨rfl, rfl⟩, fun hlt => absurd hlt h.1⟩

/-- A register of the time base written while the dies have power. -/
theorem exec_timeSourceWrite {s : State} (hp : s.pwr.current ≠ 3) (hd : s.diesOn = true) (v : W32) :
    exec (.timeSourceWrite v) s = .next (s.updTim (fun t => t.ctrl v.toNat)) :=
  congrArg Host.Outcome.next (by simp only [awake_of_not_ash hp, hd, if_true])

theorem exec_timeSetArm {s : State} (hp : s.pwr.current ≠ 3) (hd : s.diesOn = true) (v : W32) :
    exec (.timeSetArm v) s = .next { s with tim := { s.tim with setHi := v, armed := true } } :=
  congrArg Host.Outcome.next (by simp only [awake_of_not_ash hp, hd, if_true]; rfl)

/-- Settles O55: the rows of the time base one by one. -/
theorem deviceTimeFollowsItsSource : Obligations.DeviceTimeFollowsItsSource := by
  unfold Obligations.DeviceTimeFollowsItsSource
  refine ⟨?ptm, fun s h root ha => exec_ptmExchange_of_other ha root, fun s m => ⟨fun h => exec_ppsEdge_loads h m, ?slew, ?step, ?noTen, ?other⟩,
    fun s h ha => ⟨fun hauto hup => ?swap, fun hno => ?holds⟩, fun s h ha => exec_losePtm_of_other ha, ?loss, fun s v hp hd => ?regs,
    fun s present => ⟨fun _ => rfl, rfl, rfl, rfl, rfl, rfl⟩⟩
  case ptm =>
    intro s h root ha hu off
    refine ⟨_, exec_ptmExchange_of_active ha hu root, fun hlt => ?_, fun hle => ?_, steer_tim .., steer_frame ..⟩
    · rw [steer_timeNs, if_pos hlt]
      omega
    · rw [steer_timeNs, if_neg (not_lt.2 hle)]
  case slew =>
    intro h ha ht hle
    rw [exec_ppsEdge_steers h ha ht, steer_slews _ hle]
    rfl
  case step =>
    intro h ha ht hlt
    rw [exec_ppsEdge_steers h ha ht, steer_steps _ hlt]
    rfl
  case noTen =>
    intro h ha ht
    rw [exec_ppsEdge_of_unarmed h]
    simp [ha, ht, State.updTim, TimeBase.noPps]
  case other =>
    intro h ha
    rw [exec_ppsEdge_of_unarmed h]
    simp only [ha, if_false]
    rfl
  case swap =>
    rw [exec_losePtm_of_active ha, hauto, hup]
    rfl
  case holds =>
    have hcond : (s.tim.auto && s.hif[otherPort h].up) = false := Bool.and_eq_false_iff.2 hno
    rw [exec_losePtm_of_active ha, hcond]
    rfl
  case loss =>
    intro s without
    obtain ⟨hp, hpl, hpf⟩ := losePps_spec s
    obtain ⟨ht, htl, htf⟩ := loseTen_spec s
    exact ⟨⟨_, rfl, hp, hpl, hpf⟩, _, rfl, ht, htl, htf⟩
  case regs =>
    obtain ⟨hauto, hms, hin, hout⟩ := ctrl_spec s.tim v.toNat
    exact ⟨exec_timeSetArm hp hd v, _, exec_timeSourceWrite hp hd v, hauto, hms, hin, hout, rfl⟩

end Sys2Proof.Machine
end


section
/-! PROOF. Power states, their wakes and refusals, and the steps of CEIL (O56). -/

namespace Sys2Proof.Machine

/-! ## Changes of the power state (R408, R427) -/

theorem setPower_pwr (s : State) (code : Nat) : (s.setPower code).pwr = { s.pwr with current := code } := by rw [setPower_frame]

theorem setPower_moved (s : State) (code : Nat) : s.setPower code = { s with pwr := (s.setPower code).pwr, log := (s.setPower code).log } := by
  rw [setPower_frame]

/-- A change of state is logged once. -/
theorem setPower_logs {s : State} {code : Nat} (h : s.pwr.current ≠ code) :
    ∃ r, (s.setPower code).log.recs = List.take 8192 (r :: s.log.recs) ∧ r.source = 13 ∧ r.cause = 7 := by
  simp only [State.setPower, if_neg h, State.logPower]
  exact ⟨_, logEv_recs _ _, rfl, rfl⟩

/-! ## Glow and Ember -/

theorem exec_glowEntry {s : State} (hi : s.idle = true) (hd : s.diesOn = true) (hc : s.pwr.current = 0) (ha : 1 ≤ s.pwr.autoDeepest) :
    exec .glowEntry s = .next (s.setPower 1) := congrArg Host.Outcome.next (if_pos (by simp [hi, hd, hc, ha]))

theorem exec_emberEntry {s : State} (hi : s.idle = true) (hc : s.pwr.current = 1) (ha : 2 ≤ s.pwr.autoDeepest) (hp : s.noPortUp = true) :
    exec .emberEntry s = .next (s.setPower 2) := congrArg Host.Outcome.next (if_pos (by simp [hi, hc, ha, hp]))

theorem exec_entry_of_busy {s : State} (hi : s.idle = false) : exec .glowEntry s = .next s ∧ exec .emberEntry s = .next s :=
  ⟨congrArg Host.Outcome.next (if_neg (by simp [hi])), congrArg Host.Outcome.next (if_neg (by simp [hi]))⟩

theorem leaveLow_of_low {s : State} (h : s.pwr.current = 1 ∨ s.pwr.current = 2) : s.leaveLow = s.setPower 0 := by
  simp [State.leaveLow, h]

theorem leaveLow_of_other {s : State} (h1 : s.pwr.current ≠ 1) (h2 : s.pwr.current ≠ 2) : s.leaveLow = s := by
  simp [State.leaveLow, h1, h2]

/-! ## Ash and Cold -/

theorem ashOk_ask (s : State) (code : Nat) : (s.updPwr (fun p => p.ask code)).ashOk = s.ashOk := rfl

theorem exec_ashRequest {s : State} (hc : s.pwr.current ≠ 3) (hd : s.diesOn = true) : exec .ashRequest s = .next s.requestAsh := by
  change Host.Outcome.next (if s.awake.diesOn then s.awake.requestAsh else s.awake) = _
  rw [awake_of_not_ash hc, if_pos hd]

theorem exec_coldRequest {s : State} (hc : s.pwr.current ≠ 3) (hd : s.diesOn = true) : exec .coldRequest s = .next s.requestCold := by
  change Host.Outcome.next (if s.awake.diesOn then s.awake.requestCold else s.awake) = _
  rw [awake_of_not_ash hc, if_pos hd]

theorem requestAsh_of_ok {s : State} (h : s.ashOk = true) : s.requestAsh = (s.updPwr (fun p => p.ask 3)).enterAsh := if_pos h

theorem requestAsh_of_held {s : State} (h : s.ashOk = false) : s.requestAsh = s.updPwr (fun p => p.ask 3) :=
  if_neg (by rw [ashOk_ask, h]; decide)

theorem requestCold_of_ctxs {s : State} (h : s.ctxs ≠ []) :
    s.requestCold = s.updPwr (fun p => { p with request := 4 }.deny stMalformed) := if_pos (by simpa using h)

theorem requestCold_of_ok {s : State} (h : s.ctxs = []) (ha : s.ashOk = true) : s.requestCold = (s.updPwr (fun p => p.ask 4)).enterCold := by
  simp only [State.requestCold, h, List.isEmpty_nil, Bool.not_true, Bool.false_eq_true, if_false, ashOk_ask, ha, if_true]

theorem requestCold_of_held {s : State} (h : s.ctxs = []) (ha : s.ashOk = false) : s.requestCold = s.updPwr (fun p => p.ask 4) := by
  simp only [State.requestCold, h, List.isEmpty_nil, Bool.not_true, Bool.false_eq_true, if_false, ashOk_ask, ha]

/-- What entry to Ash leaves. -/
theorem enterAsh_spec (s : State) : let t := s.enterAsh
    t.pwr = { s.pwr with pendingReq := none, reqStatus := stDone, ashRegion := some s.regionMem,
                         ashAcc := some (s.accMem.keep s.inCoilUnit), current := 3 }
    ∧ t = { s with regionMem := Ram.empty, accMem := Ram.empty, coreStore := Ram.empty, pwr := t.pwr, log := t.log } := by
  unfold State.enterAsh
  dsimp only
  rw [setPower_frame]
  exact ⟨rfl, rfl⟩

/-- What leaving Ash brings back. -/
theorem leaveAsh_spec {s : State} {r a : Ram} (hr : s.pwr.ashRegion = some r) (ha : s.pwr.ashAcc = some a) : let t := s.leaveAsh
    t.regionMem = r ∧ t.accMem = a ∧ t.pwr = { s.pwr with current := 0, ashRegion := none, ashAcc := none }
    ∧ t = { s with regionMem := t.regionMem, accMem := t.accMem, pwr := t.pwr, log := t.log } := by
  unfold State.leaveAsh
  dsimp only
  rw [setPower_frame, hr, ha]
  exact ⟨rfl, rfl, rfl, rfl⟩

/-- What Cold keeps. -/
theorem enterCold_spec (s : State) : let t := s.enterCold
    (t.pwr.current = 4 ∧ t.pwr.powered = true ∧ t.pwr.reqStatus = 0) ∧ t = { s.unpower with pwr := t.pwr, log := t.log } := by
  unfold State.enterCold
  dsimp only
  rw [setPower_frame]
  exact ⟨⟨rfl, rfl, rfl⟩, rfl⟩

theorem askOk_of_false {s : State} (h : s.ashOk = false ∨ s.pwr.pendingReq ≠ some 3 ∧ s.ctxs ≠ []) : s.askOk = false := by
  obtain h | ⟨hp, hc⟩ := h
  · simp [State.askOk, h]
  · simp [State.askOk, hp, hc]

theorem exec_requestTimeout {s : State} (h : s.pwr.pendingReq ≠ none) : exec .powerRequestTimeout s =
    .next (if !s.askOk then s.updPwr (fun p => p.deny stBusy) else if s.pwr.pendingReq = some 3 then s.enterAsh else s.enterCold) :=
  congrArg Host.Outcome.next (if_neg (by simpa using h))

theorem exec_requestTimeout_ash {s : State} (h : s.pwr.pendingReq = some 3) (ha : s.ashOk = true) :
    exec .powerRequestTimeout s = .next s.enterAsh := by
  rw [exec_requestTimeout (by simp [h])]
  simp [State.askOk, h, ha]

theorem exec_requestTimeout_cold {s : State} (h : s.pwr.pendingReq ≠ none) (h3 : s.pwr.pendingReq ≠ some 3) (ha : s.ashOk = true)
    (hc : s.ctxs = []) : exec .powerRequestTimeout s = .next s.enterCold := by
  rw [exec_requestTimeout h]
  simp [State.askOk, h3, ha, hc]

/-! ## The exit from Cold (R412) -/

/-- Start-up's steps end in READY or in RECOVERY. -/
theorem leaveCold_step (s : State) :
    StartStep (s.setPower 0).bare s.leaveCold ∧ (s.leaveCold.svc.phase = 8 ∨ s.leaveCold.svc.phase = 9) := by
  unfold State.leaveCold
  dsimp only
  generalize s.setPower 0 = u
  have h := startParts_step u.bare
  split
  · split
    · exact ⟨h.trans (enterRecovery_step _ _), .inr (enterRecovery_phase _ _)⟩
    · exact ⟨(h.trans (startFlash_step _)).trans (finishStart_step _ _ _), .inl (enterReady_phase _)⟩
  · unfold State.coldStart
    exact ⟨startUp_step u.bare, startUp_phase u.bare⟩

theorem leaveCold_kept (s : State) : let t := s.leaveCold
    t.pwr.current = 0 ∧ t.hostMem = s.hostMem ∧ t.fls.cells = s.fls.cells ∧ t.svc.fuses = s.svc.fuses ∧ t.ctxs = []
    ∧ t.pending = s.pending := by
  obtain ⟨h, -⟩ := leaveCold_step s
  rw [setPower_frame] at h
  dsimp only
  generalize s.leaveCold = t at h
  refine ⟨?_, ?_, h.cells, h.fused.1, ?_, ?_⟩ <;> rw [h.frame] <;> rfl

/-! ## Samples and steps (R413 to R416) -/

theorem exec_powerSample {s : State} (w : Nat) (h : s.pwr.standby = true) : exec (.powerSample w) s =
    .next (s.updPwr (fun p => ((p.sample w).readFeeds s.freshCtr w).average w)).fresh := congrArg Host.Outcome.next (if_pos h)

theorem average_kept (p : Power) (w : Nat) :
    p.average w = { p with msSamples := (p.average w).msSamples, msMeans := (p.average w).msMeans, feeds := (p.average w).feeds } := by
  unfold Power.average
  dsimp only
  split <;> rfl

theorem average_collects {p : Power} (w : Nat) (h : p.msSamples.length < 99) :
    p.average w = { p with msSamples := w :: p.msSamples } := if_pos (by rw [List.length_cons]; omega)

theorem average_closes {p : Power} (w : Nat) (h : p.msSamples.length = 99) : (p.average w).msSamples = []
    ∧ (p.average w).msMeans = List.take 10 ((w + p.msSamples.sum) / 100 :: p.msMeans) := by
  simp [Power.average, h]

/-- A core that repointing has met has its new point; the others wait for it. -/
theorem foldl_point (l : List CoreId) (s : State) :
    let t := l.foldl (fun s c => s.updCore c (fun co =>
      { co with point := min (min s.pwr.ceil s.pwr.dieCeil[dieOfRegion (regionOfCore c)]) 15 })) s
    (∀ c : CoreId, t.cores[c] = if c ∈ l then
      { s.cores[c] with point := min (min s.pwr.ceil s.pwr.dieCeil[dieOfRegion (regionOfCore c)]) 15 } else s.cores[c])
    ∧ t = { s with cores := t.cores } := by
  induction l generalizing s with
  | nil => exact ⟨fun c => by simp, rfl⟩
  | cons a l ih =>
    obtain ⟨hc, hf⟩ := ih (s.updCore a (fun co =>
      { co with point := min (min s.pwr.ceil s.pwr.dieCeil[dieOfRegion (regionOfCore a)]) 15 }))
    refine ⟨fun c => (hc c).trans ?_, hf⟩
    by_cases he : c = a
    · subst he
      simp
    · have hv : ¬ a.val = c.val := fun h => he (Fin.ext h.symm)
      simp [he, hv]

/-- Repointing gives every core its point and touches nothing else (R414). -/
theorem repoint_spec (s : State) :
    (∀ c : CoreId, s.repoint.cores[c] =
      { s.cores[c] with point := min (min s.pwr.ceil s.pwr.dieCeil[dieOfRegion (regionOfCore c)]) 15 })
    ∧ s.repoint = { s with cores := s.repoint.cores } := by
  obtain ⟨hc, hf⟩ := foldl_point (List.finRange 96) s
  exact ⟨fun c => (hc c).trans (if_pos (List.mem_finRange c)), hf⟩

theorem repoint_pwr (s : State) : s.repoint.pwr = s.pwr := by rw [(repoint_spec s).2]

/-- A step of 100 µs. -/
theorem stepCeil_spec (s : State) : let t := s.stepCeil
    t.pwr = { s.pwr.step with limiter := false }
    ∧ (∀ c : CoreId, t.cores[c] = { s.cores[c] with point := min (min t.pwr.ceil t.pwr.dieCeil[dieOfRegion (regionOfCore c)]) 15 })
    ∧ t = { s with pwr := t.pwr, cores := t.cores, log := t.log } := by
  obtain ⟨hc, hf⟩ := repoint_spec (s.updPwr (fun p => { p.step with limiter := false }))
  unfold State.stepCeil
  dsimp only
  generalize (s.updPwr (fun p => { p.step with limiter := false })).repoint = u at hc hf
  have hp : u.pwr = { s.pwr.step with limiter := false } := by rw [hf]; rfl
  have hw : u = { s with pwr := u.pwr, cores := u.cores, log := u.log } := by rw [hf]; rfl
  have hc' : ∀ c : CoreId,
      u.cores[c] = { s.cores[c] with point := min (min u.pwr.ceil u.pwr.dieCeil[dieOfRegion (regionOfCore c)]) 15 } := by
    intro c
    rw [hp]
    exact hc c
  split
  · unfold State.logPower
    rw [logEv_frame_quiet u rfl]
    exact ⟨hp, hc', by rw [hw]⟩
  · exact ⟨hp, hc', hw⟩

theorem step_down {p : Power} (h : p.effectiveW < p.meanW) (hc : 0 < p.ceil) : p.step = { p with ceil := p.ceil - 1, capped := true } := by
  simp [Power.step, h, hc]

theorem step_gated {p : Power} (h : p.effectiveW < p.meanW) (hc : p.ceil = 0) : p.step = { p with gate := min (p.gate + 1) 7 } := by
  simp [Power.step, h, hc]

theorem step_up {p : Power} (h : p.meanW ≤ p.effectiveW) (hr : p.roomy = true) (hh : p.hintLow = false) (hg : p.gate = 0) :
    p.step = { p with ceil := min (p.ceil + 1) 15, capped := p.capped && p.ceil + 1 < 15 } := by
  simp [Power.step, Nat.not_lt.2 h, hr, hh, hg]

theorem step_ungated {p : Power} (h : p.meanW ≤ p.effectiveW) (hr : p.roomy = true) (hh : p.hintLow = false) (hg : 0 < p.gate) :
    p.step = { p with gate := p.gate - 1 } := by
  simp [Power.step, Nat.not_lt.2 h, hr, hh, hg]

theorem step_held {p : Power} (h : p.meanW ≤ p.effectiveW) (hr : p.roomy = false ∨ p.hintLow = true) : p.step = p := by
  have hno : (p.roomy && !p.hintLow) = false := by
    obtain hr | hr := hr <;> simp [hr]
  simp [Power.step, Nat.not_lt.2 h, hno]

/-- Settles O56: the power states by what entry and exit leave, CEIL by the branches of its step. -/
theorem powerStatesAndTheCap : Obligations.PowerStatesAndTheCap := by
  unfold Obligations.PowerStatesAndTheCap
  refine ⟨fun s hi => ⟨fun hd hc ha => ?glow, fun hc ha hp => ?ember⟩, fun s hi => exec_entry_of_busy hi,
    fun s h1 h2 => congrArg Host.Outcome.next (leaveLow_of_other h1 h2), fun s h => ?low,
    fun s hc hd => ⟨fun ha => ?ash, fun ha => ?ashHeld, fun hx => ?coldRefused, fun hx ha => ?coldHeld, fun hx ha => ?cold⟩,
    fun s => ⟨fun h => ?noRequest, fun h hno => ?busy, fun h ha => ?lateAsh, fun h h3 ha hx => ?lateCold⟩,
    fun s => ⟨fun h => congrArg Host.Outcome.next (awake_of_not_ash h), fun h => ?noCold⟩, fun s r a hc hr ha => ?wake, fun s hc hp => ?coldWake,
    fun s w h => ?noSample, fun s w h => ?sample, fun s hd => ?step⟩
  case glow => exact ⟨_, exec_glowEntry hi hd hc ha, setPower_pwr _ _, setPower_logs (by rw [hc]; decide), setPower_moved _ _⟩
  case ember => exact ⟨_, exec_emberEntry hi hc ha hp, setPower_pwr _ _, setPower_moved _ _⟩
  case low => exact ⟨_, congrArg Host.Outcome.next (leaveLow_of_low h), setPower_pwr _ _, setPower_moved _ _⟩
  case ash =>
    obtain ⟨hp, hf⟩ := enterAsh_spec (s.updPwr (fun p => p.ask 3))
    refine ⟨_, (exec_ashRequest hc hd).trans (congrArg _ (requestAsh_of_ok ha)), ?_⟩
    generalize (s.updPwr (fun p => p.ask 3)).enterAsh = t at hp hf
    rw [hf]
    exact ⟨by rw [hp], by rw [hp]; rfl, by rw [hp], rfl, rfl, rfl, rfl, rfl, by rw [hp]; rfl, by rw [hp]; rfl, rfl, rfl, rfl, rfl, rfl, rfl⟩
  case ashHeld => exact (exec_ashRequest hc hd).trans (congrArg _ (requestAsh_of_held ha))
  case coldRefused => exact (exec_coldRequest hc hd).trans (congrArg _ (requestCold_of_ctxs hx))
  case coldHeld => exact (exec_coldRequest hc hd).trans (congrArg _ (requestCold_of_held hx ha))
  case cold =>
    obtain ⟨⟨h4, hp, hs⟩, hf⟩ := enterCold_spec (s.updPwr (fun p => p.ask 4))
    refine ⟨_, (exec_coldRequest hc hd).trans (congrArg _ (requestCold_of_ok hx ha)), h4, hp, hs, ?_⟩
    generalize (s.updPwr (fun p => p.ask 4)).enterCold = t at hf
    rw [hf]
    exact ⟨rfl, rfl, rfl, rfl, rfl, rfl, rfl, rfl, rfl⟩
  case noRequest => exact congrArg Host.Outcome.next (if_pos (by simp [h]))
  case busy =>
    rw [exec_requestTimeout h, askOk_of_false hno]
    rfl
  case lateAsh =>
    obtain ⟨hp, -⟩ := enterAsh_spec s
    exact ⟨_, exec_requestTimeout_ash h ha, by rw [hp], by rw [hp]; rfl, by rw [hp]⟩
  case lateCold =>
    obtain ⟨⟨h4, -, hs⟩, -⟩ := enterCold_spec s
    exact ⟨_, exec_requestTimeout_cold h h3 ha hx, h4, hs⟩
  case noCold => exact congrArg Host.Outcome.next (if_neg (by obtain h | h := h <;> simp [h]))
  case wake => exact ⟨_, congrArg Host.Outcome.next (if_pos hc), leaveAsh_spec hr ha⟩
  case coldWake =>
    exact ⟨_, congrArg Host.Outcome.next (if_pos (by simp [hc, hp])), (leaveCold_step s).2, leaveCold_kept s⟩
  case noSample => exact congrArg Host.Outcome.next (if_neg (by simp [h]))
  case sample =>
    refine ⟨_, exec_powerSample w h, ?_⟩
    simp only [State.fresh, State.updPwr]
    have hk := average_kept ((s.pwr.sample w).readFeeds s.freshCtr w) w
    refine ⟨?_, ?_, ?_, ?_, ?_, ?_, fun hn => ?_, fun hn => average_closes (p := (s.pwr.sample w).readFeeds s.freshCtr w) w hn, trivial⟩
    case _ => rw [hk]; rfl
    case _ => rw [hk]; rfl
    case _ => rw [hk]; rfl
    case _ => rw [hk]; simp [Power.readFeeds, Power.sample]
    case _ => rw [hk]; rfl
    case _ => rw [hk]; rfl
    case _ =>
      rw [average_collects (p := (s.pwr.sample w).readFeeds s.freshCtr w) w hn]
      exact ⟨rfl, rfl⟩
  case step =>
    obtain ⟨hp, hcores, hf⟩ := stepCeil_spec s
    refine ⟨_, congrArg Host.Outcome.next (if_pos hd), by rw [hp], ?_, ?_, ?_, ?_, ?_, hcores, hf⟩ <;> rw [hp]
    · intro h hc
      rw [step_down h hc]
      exact ⟨rfl, rfl, rfl⟩
    · intro h hc
      rw [step_gated h hc]
      exact ⟨hc, rfl⟩
    · intro h hr hh hg
      rw [step_up h hr hh hg]
    · intro h hr hh hg
      rw [step_ungated h hr hh hg]
      exact ⟨rfl, rfl⟩
    · intro h hr
      rw [step_held h hr]
      exact ⟨rfl, rfl⟩

end Sys2Proof.Machine
end


section
/-! PROOF. Tokens, hints, droop, thermal control, coolant, trims and energy (O57). -/

namespace Sys2Proof.Machine

/-! ## Hints (R418, R419) -/

/-- The fold of `topClass` ends at a class at or above its start and every class met, and one of them. -/
theorem foldl_topClass (l : List Hint) (m : Option Nat) {c : Nat}
    (h : l.foldl (fun m h => some (max (m.getD 0) h.cls)) m = some c) :
    (m = some c ∨ ∃ x ∈ l, x.cls = c) ∧ m.getD 0 ≤ c ∧ ∀ x ∈ l, x.cls ≤ c := by
  induction l generalizing m with
  | nil => exact ⟨.inl h, by simp [show m = some c from h], fun x hx => nomatch hx⟩
  | cons a l ih =>
    obtain ⟨hc, hm, hl⟩ := ih _ h
    rw [Option.getD_some] at hm
    refine ⟨?_, by omega, fun x hx => ?_⟩
    · obtain hc | ⟨x, hx, rfl⟩ := hc
      · obtain hc : max (m.getD 0) a.cls = c := Option.some.inj hc
        by_cases hle : m.getD 0 ≤ a.cls
        · exact .inr ⟨a, List.mem_cons_self .., by omega⟩
        · left
          cases m with
          | none => exact absurd (Nat.zero_le _) hle
          | some k =>
            rw [Option.getD_some] at hc hle
            exact congrArg some (by omega)
      · exact .inr ⟨x, List.mem_cons_of_mem _ hx, rfl⟩
    · rcases List.mem_cons.1 hx with rfl | hx
      · omega
      · exact hl x hx

theorem topClass_spec {hs : List Hint} {c : Nat} (h : topClass hs = some c) :
    (∃ x ∈ hs, x.started = true ∧ x.cls = c) ∧ ∀ x ∈ hs, x.started = true → x.cls ≤ c := by
  obtain ⟨hc, -, hl⟩ := foldl_topClass _ none h
  refine ⟨?_, fun x hx hst => hl x (List.mem_filter.2 ⟨hx, hst⟩)⟩
  obtain hc | ⟨x, hx, hxc⟩ := hc
  · exact nomatch hc
  · obtain ⟨hx, hst⟩ := List.mem_filter.1 hx
    exact ⟨x, hx, hst, hxc⟩

/-- A hint that comes into force, and CEIL after it. -/
theorem startHint_spec {p : Power} {id : Nat} {h : Hint} (hf : p.hints.find? (fun x => x.id == id && !x.started) = some h) :
    p.startHint id = { p.withHints (p.hints.map (fun x => if x.id = id then { x with started := true } else x)) with
        ceil := (p.startHint id).ceil }
    ∧ (classW h.cls ≤ p.effectiveW → (p.startHint id).ceil = p.ceil) ∧ (p.startHint id).ceil ≤ p.ceil := by
  simp only [Power.startHint, hf]
  split
  next hlow => exact ⟨rfl, fun hle => absurd hlow (Nat.not_lt.2 hle), Nat.min_le_left ..⟩
  next => exact ⟨rfl, fun _ => rfl, Nat.le_refl _⟩

theorem exec_hintEarlyEnd_of_started {s : State} {id : Nat} (h : ∃ x ∈ s.pwr.hints, x.id = id ∧ x.started = true) :
    exec (.hintEarlyEnd id) s = .next (s.updPwr (fun p => { p.endHint id with hintMiss := p.hintMiss + 1 })) :=
  congrArg Host.Outcome.next (if_pos (by simpa [List.any_eq_true] using h))

theorem exec_hintEarlyEnd_of_unstarted {s : State} {id : Nat} (h : ∀ x ∈ s.pwr.hints, x.id = id → x.started = false) :
    exec (.hintEarlyEnd id) s = .next s :=
  congrArg Host.Outcome.next (if_neg (by simpa [List.any_eq_true] using h))

/-! ## Droop (R420, R421) -/

theorem islandDie_le (i : Nat) (h : i < 200) : islandDie i ≤ 4 := by
  unfold islandDie
  split
  · omega
  · repeat' split
    all_goals omega

theorem islandDie_mod (i : Fin 200) : islandDie i.val % 5 = islandDie i.val :=
  Nat.mod_eq_of_lt (by have := islandDie_le i.val i.isLt; omega)

/-- A trip stretches its island and is counted by its die. -/
theorem trip_spec (p : Power) (i : Fin 200) (deep : Bool) :
    (∀ j : Fin 200, (p.trip i deep).stretch[j] = if j = i then (if deep then 40 else 20) else p.stretch[j])
    ∧ (∀ d : Fin 5, (p.trip i deep).droop[d] = if d.val = islandDie i.val then p.droop[d] + 1 else p.droop[d])
    ∧ p.trip i deep = { p with stretch := (p.trip i deep).stretch, droop := (p.trip i deep).droop } := by
  refine ⟨fun j => ?_, fun d => ?_, rfl⟩
  · simp only [Power.trip, Fin.getElem_fin, Vector.getElem_set, Fin.ext_iff, eq_comm (a := i.val)]
  · simp only [Power.trip, Fin.getElem_fin, Vector.getElem_set, islandDie_mod, eq_comm (a := islandDie i.val)]
    split
    next h => simp only [h]
    next => rfl

/-- The state a droop fault goes on from: its record written and, in margin mode, the island's trim frozen. -/
def State.drooped (s : State) (i : Fin 200) : State := (s.logPower 6 i.val).updPwr (fun p => p.freeze i)

theorem drooped_spec (s : State) (i : Fin 200) : let t := s.drooped i
    t = { s with log := t.log, pwr := t.pwr }
    ∧ t.pwr = (if s.pwr.immMode then { s.pwr with trims := s.pwr.trims.set i 0, frozen := s.pwr.frozen.set i true } else s.pwr)
    ∧ ∃ r, t.log.recs = List.take 8192 (r :: s.log.recs) ∧ r.source = 13 ∧ r.cause = 6 ∧ r.unit = i.val := by
  refine ⟨?_, ?_, _, logEv_recs s _, rfl, rfl, rfl⟩
  · unfold State.drooped State.logPower
    rw [logEv_frame_quiet s rfl]
    rfl
  · unfold State.drooped State.logPower
    rw [logEv_frame_quiet s rfl]
    rfl

theorem drooped_diesOn (s : State) (i : Fin 200) : (s.drooped i).diesOn = s.diesOn := by
  obtain ⟨-, hp, -⟩ := drooped_spec s i
  unfold State.diesOn
  rw [hp]
  split <;> rfl

theorem exec_droopFault {s : State} (hd : s.diesOn = true) (i : Fin 200) : exec (.droopFault i) s =
    .next (if i.val < 96 then (s.drooped i).coreFault (coreN i.val)
      else if islandDie i.val < 4 then (s.drooped i).dieFault (dieN (islandDie i.val)) else (s.drooped i).warmReset) :=
  congrArg Host.Outcome.next (if_pos hd)

theorem islandDie_of_core {i : Nat} (h : i < 96) : islandDie i < 4 := by
  unfold islandDie
  rw [if_pos h]
  omega

theorem droopFault_spec {s : State} (hd : s.diesOn = true) (i : Fin 200) :
    (i.val < 96 → exec (.droopFault i) s = exec (.coreFault (coreN i.val) .droop) (s.drooped i))
    ∧ (96 ≤ i.val → islandDie i.val < 4 → exec (.droopFault i) s = exec (.dieFault (dieN (islandDie i.val))) (s.drooped i))
    ∧ (islandDie i.val = 4 → exec (.droopFault i) s = exec .packageWarmReset (s.drooped i)) := by
  rw [exec_droopFault hd]
  refine ⟨fun h => ?_, fun h h4 => ?_, fun h4 => ?_⟩
  · rw [if_pos h]
    rfl
  · rw [if_neg (Nat.not_lt.2 h), if_pos h4]
    rfl
  · have hc : ¬ i.val < 96 := fun h => by have := islandDie_of_core h; omega
    have h4' : ¬ islandDie i.val < 4 := by omega
    rw [if_neg hc, if_neg h4']
    exact congrArg Host.Outcome.next (if_pos ((drooped_diesOn s i).trans hd)).symm

/-! ## Thermal control (R422, R423) -/

/-- A die's sample counted. -/
def Power.dieCounted (p : Power) (d : DieId) : Power := { p with dieSince := p.dieSince.set d (p.dieSince[d] + 1) }

/-- A die's time starts again. -/
def Power.dieMoved (p : Power) (d : DieId) : Power := { p with dieSince := p.dieSince.set d 0 }

/-- A hot die whose time has come. -/
def Power.dieLowered (p : Power) (d : DieId) : Power :=
  if 0 < p.dieCeil[d] then { p with dieCeil := p.dieCeil.set d (p.dieCeil[d] - 1) }
  else { p with dieGate := p.dieGate.set d (min (p.dieGate[d] + 1) 7) }

/-- A cool die whose time has come. -/
def Power.dieRaised (p : Power) (d : DieId) : Power :=
  if 0 < p.dieGate[d] then { p with dieGate := p.dieGate.set d (p.dieGate[d] - 1) }
  else { p with dieCeil := p.dieCeil.set d (min (p.dieCeil[d] + 1) 15) }

theorem dieStep_eq (p : Power) (d : DieId) (t : Nat) : p.dieStep d t =
    if (decide (1000 ≤ t) && decide (10 ≤ p.dieSince[d] + 1)) = true then ((p.dieCounted d).dieLowered d).dieMoved d
    else if (decide (t < 970) && decide (100 ≤ p.dieSince[d] + 1)) = true then ((p.dieCounted d).dieRaised d).dieMoved d
    else p.dieCounted d := rfl

theorem dieLowered_of_points {p : Power} {d : DieId} (h : 0 < p.dieCeil[d]) :
    p.dieLowered d = { p with dieCeil := p.dieCeil.set d (p.dieCeil[d] - 1) } := if_pos h

theorem dieLowered_of_floor {p : Power} {d : DieId} (h : ¬ 0 < p.dieCeil[d]) :
    p.dieLowered d = { p with dieGate := p.dieGate.set d (min (p.dieGate[d] + 1) 7) } := if_neg h

theorem dieRaised_of_gated {p : Power} {d : DieId} (h : 0 < p.dieGate[d]) :
    p.dieRaised d = { p with dieGate := p.dieGate.set d (p.dieGate[d] - 1) } := if_pos h

theorem dieRaised_of_open {p : Power} {d : DieId} (h : ¬ 0 < p.dieGate[d]) :
    p.dieRaised d = { p with dieCeil := p.dieCeil.set d (min (p.dieCeil[d] + 1) 15) } := if_neg h

theorem set_other {v : Vector Nat 4} {n : Nat} {d d' : DieId} (h : d' ≠ d) : (v.set d n)[d'] = v[d'] := by
  have hv : d.val ≠ d'.val := fun e => h (Fin.ext e.symm)
  simp [hv]

theorem set_same (v : Vector Nat 4) (n : Nat) (d : DieId) : (v.set d n)[d] = n := by simp

/-- A step that touches a die's time, ceiling and gating only. -/
def DieOnly (d : DieId) (p q : Power) : Prop :=
  q = { p with dieSince := q.dieSince, dieCeil := q.dieCeil, dieGate := q.dieGate } ∧ ∀ d' : DieId, d' ≠ d → q.dieCeil[d'] = p.dieCeil[d']

theorem DieOnly.trans {d : DieId} {p q r : Power} (a : DieOnly d p q) (b : DieOnly d q r) : DieOnly d p r := by
  obtain ⟨ha, ha'⟩ := a
  obtain ⟨hb, hb'⟩ := b
  exact ⟨by rw [hb, ha], fun d' h => (hb' d' h).trans (ha' d' h)⟩

theorem dieCounted_only (p : Power) (d : DieId) : DieOnly d p (p.dieCounted d) := ⟨rfl, fun _ _ => rfl⟩

theorem dieMoved_only (p : Power) (d : DieId) : DieOnly d p (p.dieMoved d) := ⟨rfl, fun _ _ => rfl⟩

theorem dieLowered_only (p : Power) (d : DieId) : DieOnly d p (p.dieLowered d) := by
  by_cases h : 0 < p.dieCeil[d]
  · rw [dieLowered_of_points h]
    exact ⟨rfl, fun _ => set_other⟩
  · rw [dieLowered_of_floor h]
    exact ⟨rfl, fun _ _ => rfl⟩

theorem dieRaised_only (p : Power) (d : DieId) : DieOnly d p (p.dieRaised d) := by
  by_cases h : 0 < p.dieGate[d]
  · rw [dieRaised_of_gated h]
    exact ⟨rfl, fun _ _ => rfl⟩
  · rw [dieRaised_of_open h]
    exact ⟨rfl, fun _ => set_other⟩

theorem dieStep_only (p : Power) (d : DieId) (t : Nat) : DieOnly d p (p.dieStep d t) := by
  have hc := dieCounted_only p d
  rw [dieStep_eq]
  split
  · exact (hc.trans (dieLowered_only _ d)).trans (dieMoved_only _ d)
  · split
    · exact (hc.trans (dieRaised_only _ d)).trans (dieMoved_only _ d)
    · exact hc

theorem dieStep_hot {p : Power} {d : DieId} {t : Nat} (ht : 1000 ≤ t) (hn : 9 ≤ p.dieSince[d]) : let q := p.dieStep d t
    q.dieSince[d] = 0 ∧ (0 < p.dieCeil[d] → q.dieCeil[d] = p.dieCeil[d] - 1)
    ∧ (p.dieCeil[d] = 0 → q.dieCeil[d] = 0 ∧ q.dieGate[d] = min (p.dieGate[d] + 1) 7) := by
  have hcond : (decide (1000 ≤ t) && decide (10 ≤ p.dieSince[d] + 1)) = true := by simpa using ⟨ht, hn⟩
  have heq : p.dieStep d t = ((p.dieCounted d).dieLowered d).dieMoved d := by rw [dieStep_eq, if_pos hcond]
  rw [heq]
  refine ⟨set_same _ _ _, fun hc => ?_, fun hc => ?_⟩
  · rw [dieLowered_of_points (p := p.dieCounted d) hc]
    exact set_same _ _ _
  · rw [dieLowered_of_floor (p := p.dieCounted d) (Nat.not_lt.2 (Nat.le_of_eq hc))]
    exact ⟨hc, set_same _ _ _⟩

theorem dieStep_cool {p : Power} {d : DieId} {t : Nat} (ht : t < 970) (hn : 99 ≤ p.dieSince[d]) : let q := p.dieStep d t
    (p.dieGate[d] = 0 → q.dieCeil[d] = min (p.dieCeil[d] + 1) 15)
    ∧ (0 < p.dieGate[d] → q.dieGate[d] = p.dieGate[d] - 1 ∧ q.dieCeil[d] = p.dieCeil[d]) := by
  have hhot : ¬ (decide (1000 ≤ t) && decide (10 ≤ p.dieSince[d] + 1)) = true := by simp; omega
  have hcond : (decide (t < 970) && decide (100 ≤ p.dieSince[d] + 1)) = true := by simpa using ⟨ht, hn⟩
  have heq : p.dieStep d t = ((p.dieCounted d).dieRaised d).dieMoved d := by rw [dieStep_eq, if_neg hhot, if_pos hcond]
  rw [heq]
  refine ⟨fun hg => ?_, fun hg => ?_⟩
  · rw [dieRaised_of_open (p := p.dieCounted d) (Nat.not_lt.2 (Nat.le_of_eq hg))]
    exact set_same _ _ _
  · rw [dieRaised_of_gated (p := p.dieCounted d) hg]
    exact ⟨set_same _ _ _, rfl⟩

/-- Between the two limits, and until a die's time has come, nothing moves. -/
theorem dieStep_held {p : Power} {d : DieId} {t : Nat} (h : (970 ≤ t ∧ t < 1000) ∨ p.dieSince[d] < 9) : let q := p.dieStep d t
    q.dieCeil[d] = p.dieCeil[d] ∧ q.dieGate[d] = p.dieGate[d] := by
  have hhot : ¬ (decide (1000 ≤ t) && decide (10 ≤ p.dieSince[d] + 1)) = true := by
    rw [Bool.and_eq_true, decide_eq_true_eq, decide_eq_true_eq]
    omega
  have hcool : ¬ (decide (t < 970) && decide (100 ≤ p.dieSince[d] + 1)) = true := by
    rw [Bool.and_eq_true, decide_eq_true_eq, decide_eq_true_eq]
    omega
  have heq : p.dieStep d t = p.dieCounted d := by rw [dieStep_eq, if_neg hhot, if_neg hcool]
  rw [heq]
  exact ⟨rfl, rfl⟩

/-- The regions and controllers that stack temperatures move, and nothing else. -/
def StacksRead (s t : State) : Prop :=
  t = { s with regions := t.regions, pwr := { s.pwr with stackHalf := t.pwr.stackHalf } }

theorem StacksRead.refl (s : State) : StacksRead s s := rfl

theorem StacksRead.stackTemp (s : State) (g : RegionId) (n : Nat) : StacksRead s (s.stackTemp g n) := rfl

theorem StacksRead.trans {s t u : State} (a : StacksRead s t) (b : StacksRead t u) : StacksRead s u := by
  unfold StacksRead at *
  rw [b, a]

theorem foldl_stackTemp (l : List (RegionId × Nat)) (s : State) : StacksRead s (l.foldl (fun s e => s.stackTemp e.1 e.2) s) :=
  foldl_within .refl .trans (fun s _ => .stackTemp s _ _) l s

theorem stackTemp_hot (s : State) (g g' : RegionId) (n : Nat) :
    (s.stackTemp g n).regions[g'].hot = if g' = g then decide (850 < n) else s.regions[g'].hot := by
  unfold State.stackTemp
  by_cases h : g' = g
  · subst h
    simp
  · have hv : g.val ≠ g'.val := fun e => h (Fin.ext e.symm)
    simp [h, hv]

theorem regionsOf_eq (d : DieId) : regionsOf d = [regionN (3 * d.val), regionN (3 * d.val + 1), regionN (3 * d.val + 2)] := rfl

theorem regionN_ne {d : DieId} {j k : Nat} (hj : j < 3) (hk : k < 3) (h : j ≠ k) : regionN (3 * d.val + j) ≠ regionN (3 * d.val + k) := by
  intro e
  have hd := d.isLt
  have e : (3 * d.val + j) % 12 = (3 * d.val + k) % 12 := congrArg Fin.val e
  omega

/-- Each of a die's three stacks shows whether its own reading is HOT (R281). -/
theorem foldl_stackTemp_hot (s : State) (d : DieId) {l : List Nat} (hl : l.length = 3) (j : Fin 3) :
    (((regionsOf d).zip l).foldl (fun s e => s.stackTemp e.1 e.2) s).regions[regionN (3 * d.val + j.val)].hot
      = decide (850 < l.getD j.val 0) := by
  obtain ⟨a, b, c, rfl⟩ := List.length_eq_three.1 hl
  have h01 := regionN_ne (d := d) (j := 0) (k := 1) (by decide) (by decide) (by decide)
  have h02 := regionN_ne (d := d) (j := 0) (k := 2) (by decide) (by decide) (by decide)
  have h12 := regionN_ne (d := d) (j := 1) (k := 2) (by decide) (by decide) (by decide)
  simp only [regionsOf_eq, List.zip_cons_cons, List.zip_nil_right, List.foldl_cons, List.foldl_nil, stackTemp_hot]
  match j with
  | ⟨0, _⟩ => exact (if_neg h02).trans ((if_neg h01).trans (if_pos rfl))
  | ⟨1, _⟩ => exact (if_neg h12).trans (if_pos rfl)
  | ⟨2, _⟩ => exact if_pos rfl

/-- What a compute die's sample does to the power state and to its stacks. -/
theorem dieTemp_spec (s : State) (d : DieId) (temp : Nat) (temps : List Nat) : let t := s.dieTemp d temp temps
    t.pwr = { s.pwr.dieStep d temp with stackHalf := t.pwr.stackHalf }
    ∧ (temps.length = 3 → ∀ j : Fin 3, t.regions[regionN (3 * d.val + j.val)].hot = decide (850 < temps.getD j.val 0))
    ∧ t = { s with pwr := t.pwr, regions := t.regions, cores := t.cores, log := t.log } := by
  have hr := (repoint_spec (s.updPwr (fun p => p.dieStep d temp))).2
  unfold State.dieTemp
  dsimp only
  generalize (s.updPwr (fun p => p.dieStep d temp)).repoint = u at hr
  have hs := foldl_stackTemp ((regionsOf d).zip temps) u
  have hhot := fun hl => foldl_stackTemp_hot u d (l := temps) hl
  generalize ((regionsOf d).zip temps).foldl (fun s e => s.stackTemp e.1 e.2) u = v at hs hhot
  have hv : v.pwr = { s.pwr.dieStep d temp with stackHalf := v.pwr.stackHalf } := by
    have hu : u.pwr = s.pwr.dieStep d temp := by rw [hr]; rfl
    rw [← hu, hs]
  have hw : v = { s with pwr := v.pwr, regions := v.regions, cores := v.cores, log := v.log } := by
    rw [hs, hr]
    rfl
  split
  · unfold State.logPower
    rw [logEv_frame_quiet v rfl]
    exact ⟨hv, hhot, by rw [hw]⟩
  · exact ⟨hv, hhot, hw⟩

/-- A die's hottest reading kept (R422). -/
def Power.hottest (p : Power) (d : DieId) (temp : Nat) : Power := { p with maxDc := p.maxDc.set d.val temp }

theorem exec_thermalSample {s : State} (hd : s.diesOn = true) (d : DieId) (temp : Nat) (temps : List Nat) :
    exec (.thermalSample ⟨d.val, by omega⟩ temp temps) s = .next ((s.updPwr (fun p => p.hottest d temp)).dieTemp d temp temps) :=
  congrArg Host.Outcome.next ((dif_pos d.isLt).trans (if_pos hd))

/-- A die's time, ceiling and gating after its sample are those of its step. -/
theorem sample_fields (s : State) (d : DieId) (temp : Nat) (temps : List Nat) :
    let t := (s.updPwr (fun p => p.hottest d temp)).dieTemp d temp temps
    let q := (s.pwr.hottest d temp).dieStep d temp
    t.pwr.dieSince = q.dieSince ∧ t.pwr.dieCeil = q.dieCeil ∧ t.pwr.dieGate = q.dieGate ∧ t.pwr.maxDc = s.pwr.maxDc.set d.val temp
    ∧ (temps.length = 3 → ∀ j : Fin 3, t.regions[regionN (3 * d.val + j.val)].hot = decide (850 < temps.getD j.val 0))
    ∧ t = { s with pwr := t.pwr, regions := t.regions, cores := t.cores, log := t.log } := by
  obtain ⟨hp, hhot, hf⟩ := dieTemp_spec (s.updPwr (fun p => p.hottest d temp)) d temp temps
  have hmax : ((s.pwr.hottest d temp).dieStep d temp).maxDc = s.pwr.maxDc.set d.val temp := by
    rw [(dieStep_only (s.pwr.hottest d temp) d temp).1]
    rfl
  dsimp only
  generalize (s.updPwr (fun p => p.hottest d temp)).dieTemp d temp temps = t at hp hhot hf
  exact ⟨by rw [hp]; rfl, by rw [hp]; rfl, by rw [hp]; rfl, by rw [hp]; exact hmax, hhot, hf⟩

theorem trip_kept (s : State) : let t := s.trip
    (t.pwr.tripped = true ∧ t.svc.phase = 1)
    ∧ t.stacked = Ram.empty ∧ t.coreStore = Ram.empty ∧ t.regionMem = Ram.empty ∧ t.ctxs = [] ∧ t.cmds = []
    ∧ t.fls.cells = s.fls.cells ∧ t.svc.fuses = s.svc.fuses ∧ t.svc.session = s.svc.session ∧ t.hostMem = s.hostMem
    ∧ t.timeNs = s.timeNs ∧ t.pending = s.pending := by
  unfold State.trip State.logPower
  dsimp only
  rw [logEv_frame_quiet s rfl]
  exact ⟨⟨rfl, rfl⟩, rfl, rfl, rfl, rfl, rfl, rfl, rfl, rfl, rfl, rfl, rfl⟩

/-! ## Coolant and margin mode (R424, R425) -/

theorem coolantBad_eq (a b : Nat) : coolantBad a b = decide (400 < a ∨ b < 400 ∨ a < 150 ∨ 800 < b) := by
  simp [coolantBad, Bool.or_assoc]

theorem coolant_spec (s : State) (inlet flow : Nat) : let t := s.coolant inlet flow
    t.pwr = { s.pwr with inletDc := inlet, flowCl := flow, coolantWarn := s.pwr.coolantWarn || coolantBad inlet flow }
    ∧ t = { s with pwr := t.pwr, log := t.log } := by
  unfold State.coolant State.logPower
  dsimp only
  split
  · rw [logEv_frame_quiet _ rfl]
    exact ⟨rfl, rfl⟩
  · exact ⟨rfl, rfl⟩

theorem effectiveW_of_warn {p : Power} (hc : p.capW = 4000) (hw : p.coolantWarn = true) : p.effectiveW = 2000 := by
  simp [Power.effectiveW, hc, hw]

theorem trimStep_eq (p : Power) (ctr slack : Nat) (i : Fin 200) : p.trimStep ctr i.val slack =
    if p.frozen[i] = true then p.trims[i]
    else if p.immTarget < slack then min 60 (p.trims[i] + (1 + Config.freeNat 12 [i.val, ctr] % 5))
    else if slack < p.immTarget then p.trims[i] - (1 + Config.freeNat 12 [i.val, ctr] % 5) else p.trims[i] := by
  simp [Power.trimStep]

/-- A trim moves by at most 5 mV, towards the target, within its 60 mV, and not while it is frozen. -/
theorem trimStep_spec (p : Power) (ctr slack : Nat) (i : Fin 200) : let t := p.trimStep ctr i.val slack
    (p.frozen[i] = true → t = p.trims[i]) ∧ (slack = p.immTarget → t = p.trims[i]) ∧ (slack < p.immTarget → t ≤ p.trims[i])
    ∧ (p.trims[i] ≤ 60 → t ≤ 60 ∧ t ≤ p.trims[i] + 5 ∧ p.trims[i] ≤ t + 5 ∧ (p.immTarget < slack → p.trims[i] ≤ t)) := by
  dsimp only
  rw [trimStep_eq]
  have hn := Nat.mod_lt (Config.freeNat 12 [i.val, ctr]) (show 0 < 5 by decide)
  generalize Config.freeNat 12 [i.val, ctr] % 5 = n at hn
  generalize p.trims[i] = m
  by_cases hf : p.frozen[i] = true
  · rw [if_pos hf]
    exact ⟨fun _ => rfl, fun _ => rfl, fun _ => Nat.le_refl _, fun h => by omega⟩
  · rw [if_neg hf]
    refine ⟨fun h => absurd h hf, ?_⟩
    split
    · omega
    · split <;> omega

theorem exec_marginAdjust {s : State} {sl : List Nat} (hm : s.pwr.immMode = true) (hd : s.diesOn = true) (hl : sl.length = 200) :
    exec (.marginAdjust sl) s = .next (s.updPwr (fun p => p.adjust s.freshCtr sl)).fresh :=
  congrArg Host.Outcome.next (if_pos (by simp [hm, hd, hl]))

theorem exec_marginAdjust_of_off {s : State} {sl : List Nat} (h : s.pwr.immMode = false ∨ s.diesOn = false ∨ sl.length ≠ 200) :
    exec (.marginAdjust sl) s = .next s :=
  congrArg Host.Outcome.next (if_neg (by obtain h | h | h := h <;> simp [h]))

theorem exec_marginModeWrite {s : State} (hp : s.pwr.current ≠ 3) (hd : s.diesOn = true) (v : W32) :
    exec (.marginModeWrite v) s = .next (s.updPwr (fun p => p.setMargin v.toNat)) := by
  change Host.Outcome.next (if s.awake.diesOn then s.awake.updPwr (fun p => p.setMargin v.toNat) else s.awake) = _
  rw [awake_of_not_ash hp, if_pos hd]

theorem setMargin_spec (p : Power) (v : Nat) : let q := p.setMargin v
    q.immMode = bit v 0
    ∧ q.immTarget = (if 10 ≤ fld v 7 1 ∧ fld v 7 1 ≤ 80 then fld v 7 1 else p.immTarget)
    ∧ q.frozen = Vector.replicate 200 false
    ∧ (bit v 0 = false → q.trims = Vector.replicate 200 0) ∧ (bit v 0 = true → q.trims = p.trims) := by
  refine ⟨rfl, ?_, rfl, fun h => if_neg (by simp [h]), fun h => if_pos h⟩
  simp [Power.setMargin]

/-! ## Energy (R426) -/

/-- The estimates of one context together. -/
def estimatesOf (es : List (Nat × Nat)) (x : Nat) : Nat := ((es.filter (fun e => e.1 == x)).map Prod.snd).sum

theorem estimatesOf_cons_self (es : List (Nat × Nat)) (x v : Nat) : estimatesOf ((x, v) :: es) x = v + estimatesOf es x := by
  simp [estimatesOf]

theorem estimatesOf_cons_ne (es : List (Nat × Nat)) {k x : Nat} (h : k ≠ x) (v : Nat) : estimatesOf ((k, v) :: es) x = estimatesOf es x := by
  simp [estimatesOf, h]

/-- One estimate added to a table. -/
def addEstimate (t : List (Nat × Nat)) (e : Nat × Nat) : List (Nat × Nat) := insertAt t e.1 ((lookup t e.1).getD 0 + e.2)

theorem joined_eq (es : List (Nat × Nat)) : joined es = es.foldl addEstimate [] := rfl

theorem sortedKeys_foldl_addEstimate (es : List (Nat × Nat)) {t : List (Nat × Nat)} (h : sortedKeys t = true) :
    sortedKeys (es.foldl addEstimate t) = true := by
  induction es generalizing t with
  | nil => exact h
  | cons e es ih => exact ih (sortedKeys_insertAt _ _ h)

theorem lookup_foldl_addEstimate (es t : List (Nat × Nat)) (x : Nat) : lookup (es.foldl addEstimate t) x =
    if ∃ e ∈ es, e.1 = x then some ((lookup t x).getD 0 + estimatesOf es x) else lookup t x := by
  induction es generalizing t with
  | nil => simp
  | cons e es ih =>
    obtain ⟨k, v⟩ := e
    rw [List.foldl_cons, ih]
    by_cases hk : k = x
    · subst hk
      have hself : lookup (addEstimate t (k, v)) k = some ((lookup t k).getD 0 + v) := lookup_insertAt_self ..
      rw [if_pos (⟨_, List.mem_cons_self .., rfl⟩ : ∃ e ∈ (k, v) :: es, e.1 = k), hself, estimatesOf_cons_self, ← Nat.add_assoc]
      split
      · rfl
      · next hno =>
        have h0 : estimatesOf es k = 0 := by
          have : es.filter (fun e => e.1 == k) = [] := List.filter_eq_nil_iff.2 (fun e he heq => hno ⟨e, he, by simpa using heq⟩)
          simp [estimatesOf, this]
        rw [h0, Nat.add_zero]
    · have hother : lookup (addEstimate t (k, v)) x = lookup t x := lookup_insertAt_ne _ _ (Ne.symm hk)
      simp only [hother, estimatesOf_cons_ne es hk, List.exists_mem_cons_iff, hk, false_or]

theorem lookup_joined (es : List (Nat × Nat)) (x : Nat) :
    lookup (joined es) x = if ∃ e ∈ es, e.1 = x then some (estimatesOf es x) else none := by
  rw [joined_eq, lookup_foldl_addEstimate]
  simp [lookup]

theorem sortedKeys_joined (es : List (Nat × Nat)) : sortedKeys (joined es) = true := sortedKeys_foldl_addEstimate es rfl

/-- An entry of the joined estimates is a context with all its estimates. -/
theorem mem_joined {es : List (Nat × Nat)} {x v : Nat} : (x, v) ∈ joined es ↔ (∃ e ∈ es, e.1 = x) ∧ v = estimatesOf es x := by
  constructor
  · intro h
    have h := lookup_of_mem (sortedKeys_joined es) h
    rw [lookup_joined] at h
    split at h
    · exact ⟨‹_›, (Option.some.inj h).symm⟩
    · exact nomatch h
  · rintro ⟨hx, rfl⟩
    exact lookup_mem ((lookup_joined es x).trans (if_pos hx))

theorem nodup_keys_of_sorted {α : Type} {l : List (Nat × α)} (h : sortedKeys l = true) : (l.map Prod.fst).Nodup :=
  List.pairwise_map.2 (((sortedKeys_iff l).1 h).imp Nat.ne_of_lt)

/-- Adding an estimate adds it to the sum of a table. -/
theorem sum_addEstimate {t : List (Nat × Nat)} (h : sortedKeys t = true) (e : Nat × Nat) :
    ((addEstimate t e).map Prod.snd).sum = (t.map Prod.snd).sum + e.2 := by
  obtain ⟨k, v⟩ := e
  rw [sortedKeys_iff] at h
  unfold addEstimate
  induction t with
  | nil => simp [insertAt, lookup]
  | cons a t ih =>
    obtain ⟨i, w⟩ := a
    obtain ⟨hlt, hp⟩ := List.pairwise_cons.1 h
    unfold insertAt
    split
    next hki =>
      have hnone : lookup ((i, w) :: t) k = none := lookup_eq_none.2 fun e he => by
        rcases List.mem_cons.1 he with rfl | he
        · exact Nat.ne_of_gt hki
        · exact Nat.ne_of_gt (Nat.lt_trans hki (hlt e he))
      simp [hnone, Nat.add_comm]
    next hki =>
      split
      next heq =>
        subst heq
        simp [lookup]
        omega
      next hne =>
        have hl : lookup ((i, w) :: t) k = lookup t k := by simp [lookup, Ne.symm hne]
        have := ih hp
        simp only [hl, List.map_cons, List.sum_cons]
        dsimp only at this
        omega

theorem sum_joined (es : List (Nat × Nat)) : ((joined es).map Prod.snd).sum = (es.map Prod.snd).sum := by
  have key (es t : List (Nat × Nat)) (h : sortedKeys t = true) :
      ((es.foldl addEstimate t).map Prod.snd).sum = (t.map Prod.snd).sum + (es.map Prod.snd).sum := by
    induction es generalizing t with
    | nil => simp
    | cons e es ih =>
      rw [List.foldl_cons, ih (addEstimate t e) (sortedKeys_insertAt _ _ h), sum_addEstimate h]
      simp [Nat.add_assoc]
  rw [joined_eq, key es [] rfl]
  simp

theorem nodup_eraseDups (l : List Nat) : l.eraseDups.Nodup := by
  induction hn : l.length using Nat.strong_induction_on generalizing l with
  | _ n ih =>
    cases l with
    | nil => simp
    | cons a l =>
      rw [List.eraseDups_cons, List.nodup_cons]
      refine ⟨by simp [List.mem_eraseDups], ih _ ?_ _ rfl⟩
      have := List.length_filter_le (fun b => !b == a) l
      rw [← hn, List.length_cons]
      omega

/-- The contexts of the joined estimates are those of the estimates, each once. -/
theorem joined_perm (es : List (Nat × Nat)) : ((joined es).map Prod.fst).Perm (es.map Prod.fst).eraseDups := by
  refine (List.perm_ext_iff_of_nodup (nodup_keys_of_sorted (sortedKeys_joined es)) (nodup_eraseDups _)).2 fun x => ?_
  rw [List.mem_eraseDups, List.mem_map, List.mem_map]
  constructor
  · rintro ⟨⟨y, v⟩, he, rfl⟩
    exact (mem_joined.1 he).1
  · intro h
    exact ⟨(x, estimatesOf es x), mem_joined.2 ⟨h, rfl⟩, rfl⟩

/-- What is counted context by context adds up over the distinct contexts. -/
theorem sum_joined_map (es : List (Nat × Nat)) (f : Nat → Nat) :
    ((joined es).map (fun e => f e.2)).sum = ((es.map Prod.fst).eraseDups.map (fun x => f (estimatesOf es x))).sum := by
  have h : (joined es).map (fun e => f e.2) = ((joined es).map Prod.fst).map (fun x => f (estimatesOf es x)) := by
    rw [List.map_map]
    refine List.map_congr_left fun e he => ?_
    exact congrArg f (mem_joined.1 he).2
  rw [h]
  exact ((joined_perm es).map _).sum_eq

/-- One context's share added to its account. -/
def credit (t : List (Nat × W64)) (e : Nat × Nat) : List (Nat × W64) := bump t e.1 (BitVec.ofNat 64 e.2)

theorem lookup_foldl_credit_of_not_mem {l : List (Nat × Nat)} {x : Nat} (h : ∀ e ∈ l, e.1 ≠ x) (t : List (Nat × W64)) :
    lookup (l.foldl credit t) x = lookup t x := by
  induction l generalizing t with
  | nil => rfl
  | cons a l ih =>
    rw [List.foldl_cons, ih (fun e he => h e (List.mem_cons_of_mem _ he))]
    exact lookup_insertAt_ne _ _ (h a (List.mem_cons_self ..)).symm

theorem lookup_foldl_credit_of_mem {l : List (Nat × Nat)} (hn : (l.map Prod.fst).Nodup) {x v : Nat} (h : (x, v) ∈ l) (t : List (Nat × W64)) :
    lookup (l.foldl credit t) x = some ((lookup t x).getD 0 + BitVec.ofNat 64 v) := by
  induction l generalizing t with
  | nil => exact nomatch h
  | cons a l ih =>
    obtain ⟨ha, hn⟩ := List.nodup_cons.1 hn
    rw [List.foldl_cons]
    rcases List.mem_cons.1 h with rfl | h
    · rw [lookup_foldl_credit_of_not_mem fun e he heq => ha (List.mem_map.2 ⟨e, he, heq⟩)]
      exact lookup_insertAt_self ..
    · have hne : x ≠ a.1 := fun heq => ha (List.mem_map.2 ⟨(x, v), h, heq⟩)
      rw [ih hn h]
      exact congrArg (fun o => some (o.getD 0 + BitVec.ofNat 64 v)) (lookup_insertAt_ne _ _ hne)

/-- The estimates of contexts that exist. -/
def State.knownEstimates (s : State) (es : List (Nat × Nat)) : List (Nat × Nat) := es.filter (fun e => hasKey s.ctxs e.1)

/-- The shares of an interval's measured energy, of a total of estimates. -/
def State.sharesOf (s : State) (es : List (Nat × Nat)) (total : Nat) : List (Nat × Nat) :=
  (joined (s.knownEstimates es)).map (fun e => (e.1, scaledShare (s.pwr.energyUj - s.pwr.attrUj) total e.2))

/-- The shares of the total of the contexts' own estimates. -/
def State.energyShares (s : State) (es : List (Nat × Nat)) : List (Nat × Nat) := s.sharesOf es ((s.knownEstimates es).map Prod.snd).sum

/-- Shares added to their contexts' accounts, the rest to no context's. -/
def State.credited (s : State) (shares : List (Nat × Nat)) : State :=
  { s with
    acctEnergy := shares.foldl credit s.acctEnergy
    pwr := { s.pwr with
      unattr := s.pwr.unattr + BitVec.ofNat 64 (s.pwr.energyUj - s.pwr.attrUj - (shares.map Prod.snd).sum)
      attrUj := s.pwr.energyUj } }

theorem exec_energyAttribution (s : State) (cores parts : List (Nat × Nat)) :
    exec (.energyAttribution cores parts) s = .next (s.credited (s.energyShares (cores ++ parts))) := by
  have hrow : exec (.energyAttribution cores parts) s = .next (s.credited (s.sharesOf (cores ++ parts)
    ((joined (s.knownEstimates (cores ++ parts))).map Prod.snd).sum)) := rfl
  rw [hrow, sum_joined]
  rfl

theorem mem_energyShares {s : State} {es : List (Nat × Nat)} {x : Nat} (h : ∃ e ∈ s.knownEstimates es, e.1 = x) :
    (x, scaledShare (s.pwr.energyUj - s.pwr.attrUj) ((s.knownEstimates es).map Prod.snd).sum (estimatesOf (s.knownEstimates es) x))
      ∈ s.energyShares es :=
  List.mem_map.2 ⟨(x, estimatesOf (s.knownEstimates es) x), mem_joined.2 ⟨h, rfl⟩, rfl⟩

theorem energyShares_keys (s : State) (es : List (Nat × Nat)) :
    (s.energyShares es).map Prod.fst = (joined (s.knownEstimates es)).map Prod.fst := by
  rw [State.energyShares, State.sharesOf, List.map_map]
  rfl

theorem not_mem_energyShares {s : State} {es : List (Nat × Nat)} {x : Nat} (h : ∀ e ∈ s.knownEstimates es, e.1 ≠ x) :
    ∀ e ∈ s.energyShares es, e.1 ≠ x := by
  intro e he heq
  obtain ⟨a, ha, rfl⟩ := List.mem_map.1 he
  obtain ⟨⟨b, hb, hbx⟩, -⟩ := mem_joined.1 ha
  exact h b hb (hbx.trans heq)

theorem sum_energyShares (s : State) (es : List (Nat × Nat)) : ((s.energyShares es).map Prod.snd).sum =
    (((s.knownEstimates es).map Prod.fst).eraseDups.map (fun x => scaledShare (s.pwr.energyUj - s.pwr.attrUj)
      ((s.knownEstimates es).map Prod.snd).sum (estimatesOf (s.knownEstimates es) x))).sum := by
  rw [State.energyShares, State.sharesOf, List.map_map]
  exact sum_joined_map (s.knownEstimates es) (scaledShare (s.pwr.energyUj - s.pwr.attrUj) ((s.knownEstimates es).map Prod.snd).sum)

/-- Settles O57: hints, droop, thermal control, coolant and trims by the branches of their steps, energy by the joined estimates. -/
theorem droopThermalMarginEnergy : Obligations.DroopThermalMarginEnergy := by
  unfold Obligations.DroopThermalMarginEnergy
  refine ⟨fun s c h => congrArg Host.Outcome.next (if_pos h), fun s c h => congrArg Host.Outcome.next (if_neg (by simp [h])),
    fun s id => ⟨fun h hf => ?start, rfl, fun h => exec_hintEarlyEnd_of_started h, fun h => exec_hintEarlyEnd_of_unstarted h,
      fun c => ⟨rfl, topClass_spec⟩⟩,
    fun s i deep => ⟨⟨_, rfl, ?trip⟩, rfl, fun hd => ?droop⟩, fun s temp temps => rfl, fun s d temp temps hd => ?thermal,
    fun s => ⟨fun h => congrArg Host.Outcome.next (if_pos h), fun h => ?tripped⟩, fun s inlet flow => ?coolant, fun s b hb => ?warnEnd,
    fun s sl hm hd hl => ?margin, fun s v hp hd => ?mode, fun s sl h => exec_marginAdjust_of_off h, fun s cores parts => ?energy⟩
  case start =>
    obtain ⟨hp, heq, hle⟩ := startHint_spec hf
    obtain ⟨hc, hfr⟩ := repoint_spec (s.updPwr (fun p => p.startHint id))
    refine ⟨_, rfl, ?_⟩
    have hpwr := repoint_pwr (s.updPwr (fun p => p.startHint id))
    generalize (s.updPwr (fun p => p.startHint id)).repoint = t at hc hfr hpwr
    replace hpwr : t.pwr = s.pwr.startHint id := hpwr
    rw [hpwr]
    refine ⟨hp, fun h250 => heq (by rw [classW, Nat.mul_comm]; exact h250), hle, fun c => ?_, ?_⟩
    · have hdie : (s.pwr.startHint id).dieCeil = s.pwr.dieCeil := by rw [hp]; rfl
      rw [hc c]
      exact congrArg (fun v : Vector Nat 4 => min (min (s.pwr.startHint id).ceil v[dieOfRegion (regionOfCore c)]) 15) hdie
    · rw [hfr]
      rfl
  case trip =>
    obtain ⟨hs, hdr, hf⟩ := trip_spec s.pwr i deep
    exact ⟨hs, hdr, rfl⟩
  case droop =>
    obtain ⟨hfr, hp, hr⟩ := drooped_spec s i
    exact ⟨s.drooped i, hfr, hp, hr, droopFault_spec hd i⟩
  case thermal =>
    obtain ⟨hsince, hceil, hgate, hmax, hhot, hfr⟩ := sample_fields s d temp temps
    refine ⟨_, exec_thermalSample hd d temp temps, ?_⟩
    rw [hsince, hceil, hgate]
    exact ⟨fun ht hn => dieStep_hot (p := s.pwr.hottest d temp) ht hn,
      fun ht hlt => dieStep_held (p := s.pwr.hottest d temp) (.inl ⟨ht, hlt⟩),
      fun ht hn => (dieStep_cool (p := s.pwr.hottest d temp) ht hn).1, fun ht hn => (dieStep_cool (p := s.pwr.hottest d temp) ht hn).2,
      fun _ hn => dieStep_held (p := s.pwr.hottest d temp) (.inr hn), hmax, hhot, (dieStep_only (s.pwr.hottest d temp) d temp).2, hfr⟩
  case tripped =>
    obtain ⟨⟨htr, hph⟩, hrest⟩ := trip_kept s
    refine ⟨_, congrArg Host.Outcome.next (if_neg (by simp [h])), htr, by simp [State.diesOn, htr], by simp [State.isReady, hph], hrest⟩
  case coolant =>
    obtain ⟨hp, hf⟩ := coolant_spec s inlet flow
    refine ⟨_, rfl, by rw [hp, coolantBad_eq], fun hcap hw => effectiveW_of_warn ?_ hw, hf⟩
    rw [hp]
    exact hcap
  case warnEnd =>
    rw [← coolantBad_eq] at hb
    subst hb
    exact ⟨fun h => congrArg Host.Outcome.next (if_pos h), fun h => congrArg Host.Outcome.next (if_neg (by simp [h]))⟩
  case margin =>
    refine ⟨_, exec_marginAdjust hm hd hl, rfl, fun i => ?_, rfl⟩
    have htrim : ((s.updPwr (fun p => p.adjust s.freshCtr sl)).fresh).pwr.trims[i] = s.pwr.trimStep s.freshCtr i.val (sl.getD i.val 0) := by
      simp [State.fresh, State.updPwr, Power.adjust]
    rw [htrim]
    exact trimStep_spec s.pwr s.freshCtr _ i
  case mode =>
    obtain ⟨hm, ht, hf, h0, h1⟩ := setMargin_spec s.pwr v.toNat
    exact ⟨_, exec_marginModeWrite hp hd v, hm, ht, hf, h0, h1, rfl⟩
  case energy =>
    refine ⟨_, exec_energyAttribution s cores parts, fun x hx => ?_, fun x hx => ?_, ?_, rfl, rfl⟩
    · exact lookup_foldl_credit_of_mem
        (by rw [energyShares_keys]; exact nodup_keys_of_sorted (sortedKeys_joined _)) (mem_energyShares hx) s.acctEnergy
    · exact lookup_foldl_credit_of_not_mem (not_mem_energyShares hx) s.acctEnergy
    · exact congrArg (fun n => s.pwr.unattr + BitVec.ofNat 64 (s.pwr.energyUj - s.pwr.attrUj - n)) (sum_energyShares s (cores ++ parts))

end Sys2Proof.Machine
end


section
/-! PROOF. Feeds, power-good and its loss, and the sideband bus (O58). -/

namespace Sys2Proof.Machine

/-! ## Feeds (R449, R450) -/

/-- A feed as the load loses it, with the status bits that its loss latches. -/
def Power.lostFeed (p : Power) (f : Feed) (why : FeedState → FeedState) : Power :=
  { { p with feeds := p.feeds.set f { why p.feeds[f] with present := false } }.latch with alert := true }

theorem lostFeed_feed (p : Power) (f : Feed) (why : FeedState → FeedState) : let x := (p.lostFeed f why).feeds[f]
    x.present = false ∧ x.overV = (why p.feeds[f]).overV ∧ x.reverse = (why p.feeds[f]).reverse ∧ x.short = (why p.feeds[f]).short
    ∧ x.latchOv = ((why p.feeds[f]).latchOv || (why p.feeds[f]).overV)
    ∧ x.latchUv = ((why p.feeds[f]).latchUv || !(why p.feeds[f]).overV) := by
  simp [Power.lostFeed, Power.latch]

theorem logPower_frame (s : State) (cause unit : Nat) : s.logPower cause unit = { s with log := (s.logPower cause unit).log } :=
  logEv_frame_quiet s rfl

theorem logModule_frame (s : State) (cause unit : Nat) : s.logModule cause unit = { s with log := (s.logModule cause unit).log } :=
  logEv_frame_quiet s rfl

theorem loseFeed_eq (s : State) (f : Feed) (why : FeedState → FeedState) : s.loseFeed f why =
    if s.pwr.feeds[f].present then (s.updPwr (fun p => p.lostFeed f why)).logPower 5 f.val else s.updPwr (fun p => p.lostFeed f why) := rfl

theorem loseFeed_spec (s : State) (f : Feed) (why : FeedState → FeedState) :
    (s.loseFeed f why).pwr = s.pwr.lostFeed f why
    ∧ s.loseFeed f why = { s with pwr := (s.loseFeed f why).pwr, log := (s.loseFeed f why).log } := by
  rw [loseFeed_eq]
  split
  · have hf := logPower_frame (s.updPwr (fun p => p.lostFeed f why)) 5 f.val
    generalize (s.updPwr (fun p => p.lostFeed f why)).logPower 5 f.val = t at hf
    rw [hf]
    exact ⟨rfl, rfl⟩
  · exact ⟨rfl, rfl⟩

/-- The loss of a feed that was present is logged with its number. -/
theorem loseFeed_logs {s : State} {f : Feed} (h : s.pwr.feeds[f].present = true) (why : FeedState → FeedState) :
    ∃ r, (s.loseFeed f why).log.recs = List.take 8192 (r :: s.log.recs) ∧ r.source = 13 ∧ r.cause = 5 ∧ r.unit = f.val := by
  rw [loseFeed_eq, if_pos h]
  exact ⟨_, logEv_recs _ _, rfl, rfl, rfl⟩

theorem logModule_spec (s : State) (cause unit : Nat) : let t := s.logModule cause unit
    t.pwr = s.pwr ∧ (∃ r, t.log.recs = List.take 8192 (r :: s.log.recs) ∧ r.source = 15 ∧ r.cause = cause) ∧ t = { s with log := t.log } :=
  ⟨by rw [logModule_frame], ⟨_, logEv_recs _ _, rfl, rfl⟩, logModule_frame s cause unit⟩

theorem loseFeed_logModule (s : State) (f : Feed) (why : FeedState → FeedState) (cause : Nat) :
    let t := (s.loseFeed f why).logModule cause f.val
    t.pwr = s.pwr.lostFeed f why ∧ (∃ r l, t.log.recs = List.take 8192 (r :: l) ∧ r.source = 15 ∧ r.cause = cause)
    ∧ t = { s with pwr := t.pwr, log := t.log } := by
  obtain ⟨hp, hf⟩ := loseFeed_spec s f why
  generalize s.loseFeed f why = u at hp hf
  obtain ⟨hup, ⟨r, hr, hsrc, hcause⟩, huf⟩ := logModule_spec u cause f.val
  dsimp only
  generalize u.logModule cause f.val = t at hup hr huf
  exact ⟨hup.trans hp, ⟨r, _, hr, hsrc, hcause⟩, by rw [huf, hf]⟩

/-! ## Power-good, loss, removal (R451) -/

/-- The straps read at power-good. -/
def State.strapped (s : State) (env : StartEnv) : State :=
  let u := s.updPwr (fun p => { p with standby := true, slotId := env.slotId.toNat, smbAddr := 0x60 + env.smbAddr.toNat })
  let u := if env.coolantOk then u else u.logModule 8 wholeUnit
  { u with
    badCheckers := env.failedCheckers
    regions := Vector.ofFn (fun g : RegionId => { u.regions[g] with
      lanesBad := (env.failingLanes.filter (fun l => l.1 == g)).map (fun l => (l.2.1.val, l.2.2)) }) }

theorem strapped_spec (s : State) (env : StartEnv) : let t := s.strapped env
    t.pwr = { s.pwr with standby := true, slotId := env.slotId.toNat, smbAddr := 0x60 + env.smbAddr.toNat }
    ∧ t = { s with pwr := t.pwr, log := t.log, badCheckers := t.badCheckers, regions := t.regions } := by
  unfold State.strapped State.logModule
  dsimp only
  split
  · exact ⟨rfl, rfl⟩
  · rw [logEv_frame_quiet _ rfl]
    exact ⟨rfl, rfl⟩

theorem powerUp_eq (s : State) (env : StartEnv) : s.powerUp env =
    if (s.strapped env).pwr.tripped then s.strapped env
    else ((s.strapped env).updPwr (fun p => { p with powered := true })).coldStart := rfl

theorem exec_powerGood {s : State} (ha : s.pwr.anyFeed = true) (hp : s.pwr.powered = false) (env : StartEnv) :
    exec (.powerGood env) s = .next (s.powerUp env) := congrArg Host.Outcome.next (if_pos (by simp [ha, hp]))

theorem exec_powerGood_of_not {s : State} (h : s.pwr.anyFeed = false ∨ s.pwr.powered = true) (env : StartEnv) :
    exec (.powerGood env) s = .next s := congrArg Host.Outcome.next (if_neg (by obtain h | h := h <;> simp [h]))

theorem powerUp_of_tripped {s : State} (h : s.pwr.tripped = true) (env : StartEnv) : s.powerUp env = s.strapped env := by
  rw [powerUp_eq, if_pos (by rw [(strapped_spec s env).1]; exact h)]

theorem powerUp_of_cool {s : State} (h : s.pwr.tripped = false) (env : StartEnv) :
    s.powerUp env = ((s.strapped env).updPwr (fun p => { p with powered := true })).coldStart := by
  rw [powerUp_eq, if_neg (by rw [(strapped_spec s env).1]; simp [h])]

theorem coldStart_step (s : State) : StartStep s.bare s.coldStart ∧ (s.coldStart.svc.phase = 8 ∨ s.coldStart.svc.phase = 9) := by
  unfold State.coldStart
  exact ⟨startUp_step _, startUp_phase _⟩

/-- What a cold start keeps, and what it loses. -/
theorem coldStart_kept (s : State) : let t := s.coldStart
    t.pwr = s.pwr.restart ∧ t.hostMem = s.hostMem ∧ t.fls.cells = s.fls.cells ∧ t.svc.fuses = s.svc.fuses ∧ t.ctxs = [] ∧ t.queues = []
    ∧ t.cmds = [] ∧ t.coreStore = Ram.empty ∧ t.regionMem = Ram.empty ∧ t.pending = s.pending := by
  obtain ⟨h, -⟩ := coldStart_step s
  dsimp only
  generalize s.coldStart = t at h
  refine ⟨?_, ?_, h.cells, h.fused.1, ?_, ?_, ?_, ?_, ?_, ?_⟩ <;> rw [h.frame] <;> rfl

theorem unpower_kept (s : State) : let t := s.unpower
    t.pwr.powered = false ∧ t.isReady = false ∧ t.stacked = Ram.empty
    ∧ t.coreStore = Ram.empty ∧ t.regionMem = Ram.empty ∧ t.ctxs = [] ∧ t.hostMem = s.hostMem ∧ t.fls.cells = s.fls.cells
    ∧ t.svc.fuses = s.svc.fuses ∧ t.timeNs = s.timeNs ∧ t.log = s.log ∧ t.pending = s.pending :=
  ⟨rfl, rfl, rfl, rfl, rfl, rfl, rfl, rfl, rfl, rfl, rfl, rfl⟩

theorem lose_kept (s : State) : let t := s.lose
    t.pwr.standby = false ∧ t.pwr.powered = false ∧ t.pwr.tripped = false ∧ t.timeNs = 0
    ∧ t.log.recs = [] ∧ t.stacked = Ram.empty ∧ t.hostMem = s.hostMem ∧ t.fls.cells = s.fls.cells ∧ t.svc.fuses = s.svc.fuses
    ∧ t.svc.keptDigests = [] ∧ (∀ g : RegionId, t.regions[g].hardUsed = s.regions[g].hardUsed) ∧ t.pending = s.pending := by
  refine ⟨rfl, rfl, rfl, rfl, rfl, rfl, rfl, rfl, rfl, rfl, fun g => ?_, rfl⟩
  simp [State.lose, State.updPwr]

/-! ## The sideband bus (R454) -/

theorem smb_of_standby {s : State} (h : s.pwr.standby = true) (bytes : List Byte) : s.smb bytes = { s with reply := bytes } := if_pos h

theorem exec_page_of_value {s : State} {v : Byte} (h : s.pwr.standby = true) (hv : v ∈ [(0 : Byte), 1, 0xFF]) :
    exec (.page (some v)) s = .next (s.updPwr (fun p => { p with page := v.toNat })) :=
  congrArg Host.Outcome.next (if_pos (by simpa [h, or_assoc] using hv))

theorem exec_page_of_other {s : State} {v : Byte} (hv : v ∉ [(0 : Byte), 1, 0xFF]) : exec (.page (some v)) s = .next s :=
  congrArg Host.Outcome.next (if_neg (by
    intro hc
    rw [Bool.and_eq_true] at hc
    exact hv (by simpa [or_assoc] using hc.2)))

theorem anyFeed_clear (p : Power) (clear : FeedState → FeedState) (h : ∀ f, (clear f).present = f.present) :
    { p with feeds := p.feeds.map clear, cml := false, alert := false }.anyFeed = p.anyFeed := by
  simp [Power.anyFeed, Vector.toList_map, List.any_map, Function.comp_def, h]

theorem clearFaults_spec (p : Power) : let q := p.clearFaults
    (∀ f : Feed, q.feeds[f].latchOv = p.feeds[f].overV
      ∧ q.feeds[f].latchUv = (!p.feeds[f].present && !p.feeds[f].overV) ∧ q.feeds[f].latchOff = !p.anyFeed)
    ∧ q = { p with feeds := q.feeds, cml := false, alert := false } := by
  refine ⟨fun f => ?_, rfl⟩
  have ha := anyFeed_clear p (fun f => { f with latchOv := false, latchUv := false, latchOff := false }) (fun _ => rfl)
  simp [Power.clearFaults, Power.latch, ha]

theorem logLimited_logs {s : State} {key max : Nat} (h : s.limitCount key < max) (a : LogArgs) :
    ∃ r, (s.logLimited key max a).log.recs = List.take 8192 (r :: s.log.recs) ∧ r.source = a.source ∧ r.cause = a.cause := by
  unfold State.logLimited
  dsimp only
  rw [if_pos h]
  exact ⟨_, logEv_recs _ _, rfl, rfl⟩

theorem smbusRefused_spec (s : State) :
    let t := (s.updPwr (fun p => { p with cml := true })).logLimited (15 * 2 ^ 32) 256 { source := 15, cause := 7, unit := wholeUnit }
    t.pwr = { s.pwr with cml := true }
    ∧ (s.limitCount (15 * 2 ^ 32) < 256 → ∃ r, t.log.recs = List.take 8192 (r :: s.log.recs) ∧ r.source = 15 ∧ r.cause = 7)
    ∧ t = { s with pwr := t.pwr, log := t.log } := by
  have hf := logLimited_frame_quiet (s.updPwr (fun p => { p with cml := true })) (15 * 2 ^ 32) 256
    (a := { source := 15, cause := 7, unit := wholeUnit }) rfl
  refine ⟨by rw [hf]; rfl, fun hlt => ?_, by rw [hf]; rfl⟩
  exact logLimited_logs (s := s.updPwr (fun p => { p with cml := true })) hlt _

/-! ## LINEAR11 (log 77) -/

theorem scaledBy_of_nonpos (n : Nat) {e : Int} (h : e ≤ 0) : scaledBy n 1 e = n * 2 ^ (-e).toNat := by
  have he : e.toNat = 0 := by omega
  simp only [scaledBy, he, Nat.pow_zero, Nat.mul_one]
  omega

theorem linear11_of_find {n : Nat} {e : Int}
    (h : ((List.range 32).map (fun i => ((i : Nat) : Int) - 16)).find? (fun e => scaledBy n 1 e ≤ 1023) = some e) :
    linear11 n 1 = (e % 32).toNat * 2 ^ 11 + scaledBy n 1 e := by
  have h' : ((do let i ← List.range 32; pure (i : Int)).map (fun i : Int => i - 16)).find? (fun e => scaledBy n 1 e ≤ 1023) = some e := h
  simp only [linear11, h']

/-- The least exponent is found by its place, at or below the one of 2^0. -/
theorem linear11_place {n : Nat} (h : n ≤ 1023) :
    ∃ i : Nat, i ≤ 16 ∧ n * 2 ^ (16 - i) ≤ 1023 ∧ linear11 n 1 = (((i : Int) - 16) % 32).toNat * 2 ^ 11 + n * 2 ^ (16 - i) := by
  let fits (i : Nat) : Bool := decide (scaledBy n 1 ((i : Int) - 16) ≤ 1023)
  have h16 : fits 16 = true := by
    have := scaledBy_of_nonpos n (e := ((16 : Nat) : Int) - 16) (by decide)
    simp only [fits, this]
    simpa using h
  obtain ⟨i, hi⟩ : ∃ i, (List.range 32).find? fits = some i := by
    rw [← Option.isSome_iff_exists, List.find?_isSome]
    exact ⟨16, by decide, h16⟩
  have hfit : fits i = true := List.find?_some hi
  have hle : i ≤ 16 := by
    by_contra hgt
    have := (List.find?_range_eq_some.1 hi).2.2 16 (Nat.lt_of_not_le hgt)
    rw [h16] at this
    exact nomatch this
  have hs : scaledBy n 1 ((i : Int) - 16) = n * 2 ^ (16 - i) := by
    rw [scaledBy_of_nonpos n (by omega), show (-((i : Int) - 16)).toNat = 16 - i by omega]
  have hfind : ((List.range 32).map (fun i => ((i : Nat) : Int) - 16)).find? (fun e => scaledBy n 1 e ≤ 1023) = some ((i : Int) - 16) := by
    rw [List.find?_map]
    exact congrArg (Option.map (fun i : Nat => (i : Int) - 16)) hi
  refine ⟨i, hle, by rw [← hs]; exact of_decide_eq_true hfit, ?_⟩
  rw [linear11_of_find hfind, hs]

theorem bmod_exponent : ∀ i : Nat, i < 17 → Int.bmod ((((i : Nat) : Int) - 16) % 32).toNat 32 = (i : Int) - 16 := by decide

/-- A LINEAR11 of a whole number to 1,023 gives it back. -/
theorem linear11_value {n : Nat} (h : n ≤ 1023) :
    linear11 n 1 % 2 ^ 11 * 2 ^ 16 = n * 2 ^ (16 - (Int.bmod (linear11 n 1 / 2 ^ 11 : Nat) 32)).toNat := by
  obtain ⟨i, hi, hm, heq⟩ := linear11_place h
  have hmod : linear11 n 1 % 2 ^ 11 = n * 2 ^ (16 - i) := by rw [heq]; omega
  have hdiv : linear11 n 1 / 2 ^ 11 = (((i : Int) - 16) % 32).toNat := by rw [heq]; omega
  rw [hmod, hdiv, bmod_exponent i (by omega), show (16 - ((i : Int) - 16)).toNat = 16 - i + 16 by omega, Nat.pow_add, Nat.mul_assoc]

/-! ## MFR_WAKE -/

theorem exec_mfrWake_of_trip {s : State} (h4 : s.pwr.current ≠ 4) (ht : s.pwr.tripped = true) (hc : s.pwr.cool = true)
    (hs : s.pwr.standby = true) : exec .mfrWake s = .next s.leaveTrip :=
  congrArg Host.Outcome.next ((if_neg (by simp [h4])).trans (if_pos (by simp [ht, hc, hs])))

theorem exec_mfrWake_of_other {s : State} (h4 : s.pwr.current ≠ 4)
    (h : s.pwr.tripped = false ∨ s.pwr.cool = false ∨ s.pwr.standby = false) : exec .mfrWake s = .next s :=
  congrArg Host.Outcome.next ((if_neg (by simp [h4])).trans (if_neg (by obtain h | h | h := h <;> simp [h])))

/-- Settles O58: feeds by what their loss latches, power-good by the cold start, the bus command by command. -/
theorem moduleFeedsAndSideband : Obligations.ModuleFeedsAndSideband := by
  unfold Obligations.ModuleFeedsAndSideband
  refine ⟨fun s f => ⟨fun h => ?fails, fun h => ?absent, rfl, ?overvolt, ?reversed, ?shorted⟩,
    fun s env => ⟨fun ha hp ht => ?good, fun ha hp ht => ?stays, fun h => exec_powerGood_of_not h env⟩,
    fun s => ⟨fun h => ?noLoss, fun h => congrArg Host.Outcome.next (if_pos h)⟩, fun s ha => ⟨fun hp => ?loss, ?removed⟩,
    fun s hs => ?bus, fun s h => congrArg Host.Outcome.next (if_neg (by simp [h])), fun n => linear11_value,
    fun s => ⟨fun h4 hp => ?cold, fun h4 ht hc hs => ?trip, exec_mfrWake_of_other⟩⟩
  case fails =>
    obtain ⟨hp, hf⟩ := loseFeed_spec s f id
    obtain ⟨hpr, -, -, -, -, huv⟩ := lostFeed_feed s.pwr f id
    exact ⟨_, congrArg Host.Outcome.next (if_pos h), by rw [hp]; exact hpr, by rw [hp]; rfl, by rw [hp]; exact huv, loseFeed_logs h id, hf⟩
  case absent => exact congrArg Host.Outcome.next (if_neg (by rw [h]; exact Bool.false_ne_true))
  case overvolt =>
    obtain ⟨hp, hl, hf⟩ := loseFeed_logModule s f (fun x => { x with overV := true }) 5
    obtain ⟨hpr, hov, -, -, hlo, -⟩ := lostFeed_feed s.pwr f (fun x => { x with overV := true })
    exact ⟨_, rfl, by rw [hp]; exact hpr, by rw [hp]; exact hov, by rw [hp, hlo]; exact Bool.or_true _, by rw [hp]; rfl, hl, hf⟩
  case reversed =>
    obtain ⟨hp, hl, hf⟩ := loseFeed_logModule s f (fun x => { x with reverse := true }) 6
    obtain ⟨hpr, -, hrv, -⟩ := lostFeed_feed s.pwr f (fun x => { x with reverse := true })
    exact ⟨_, rfl, by rw [hp]; exact hpr, by rw [hp]; exact hrv, by rw [hp]; rfl, hl, hf⟩
  case shorted =>
    obtain ⟨hp, hf⟩ := loseFeed_spec s f (fun x => { x with short := true })
    obtain ⟨hpr, -, -, hsh, -⟩ := lostFeed_feed s.pwr f (fun x => { x with short := true })
    exact ⟨_, rfl, by rw [hp]; exact hpr, by rw [hp]; exact hsh, by rw [hp]; rfl, hf⟩
  case good =>
    obtain ⟨hp', hf⟩ := strapped_spec s env
    obtain ⟨hpwr, hkept⟩ := coldStart_kept ((s.strapped env).updPwr (fun p => { p with powered := true }))
    have hph := (coldStart_step ((s.strapped env).updPwr (fun p => { p with powered := true }))).2
    refine ⟨_, (exec_powerGood ha hp env).trans (congrArg _ (powerUp_of_cool ht env)), hph, ?_⟩
    generalize ((s.strapped env).updPwr (fun p => { p with powered := true })).coldStart = t at hpwr hkept
    obtain ⟨hhost, hcells, hfuses, hlists⟩ := hkept
    generalize s.strapped env = u at hp' hf hpwr hhost hcells hfuses hlists
    obtain ⟨hctx, hq, hcmd, hcs, hrm, hpend⟩ := hlists
    rw [hf] at hhost hcells hfuses hpend
    refine ⟨by rw [hpwr]; rfl, ?_, ?_, hhost, hcells, hfuses, hctx, hq, hcmd, hcs, hrm, hpend⟩
    · rw [hpwr]
      exact congrArg Power.slotId hp'
    · rw [hpwr]
      exact congrArg Power.smbAddr hp'
  case stays =>
    obtain ⟨hp', hf⟩ := strapped_spec s env
    refine ⟨_, (exec_powerGood ha hp env).trans (congrArg _ (powerUp_of_tripped ht env)), ?_⟩
    generalize s.strapped env = u at hp' hf
    exact ⟨by rw [hp']; exact ht, by rw [hp']; exact hp, by rw [hp'], by rw [hp'], by rw [hf], by rw [hf]⟩
  case noLoss => exact congrArg Host.Outcome.next (if_pos (by obtain h | h := h <;> simp [h]))
  case loss => exact ⟨_, congrArg Host.Outcome.next (if_neg (by simp [ha, hp])), unpower_kept s⟩
  case removed => exact ⟨_, congrArg Host.Outcome.next (if_neg (by simp [ha])), lose_kept s⟩
  case bus =>
    have answer (bytes : List Byte) : (Host.Outcome.next (s.smb bytes) : Host.Outcome State Fault Refusal) = .next { s with reply := bytes } :=
      congrArg _ (smb_of_standby hs bytes)
    refine ⟨answer _, fun v => exec_page_of_other, fun v => exec_page_of_value hs, ?clear, answer _, ?input, answer _, fun v hv => hv ▸ answer _,
      fun v hv => hv ▸ answer _, fun v hv => hv ▸ answer _, fun hpg => ?both, fun hpg => ?feedA, fun hpg => ?feedB, answer _, answer _, answer _,
      fun c => ?refused, fun hpin => (congrArg Host.Outcome.next (if_pos hpin)).trans (answer _)⟩
    case clear =>
      obtain ⟨hfeeds, hf⟩ := clearFaults_spec s.pwr
      exact ⟨_, congrArg Host.Outcome.next (if_pos hs), rfl, rfl, hfeeds, hf, rfl⟩
    case input =>
      refine (congrArg Host.Outcome.next (if_pos hs)).trans ?_
      rw [smb_of_standby hs]
      rfl
    case both =>
      refine (answer _).trans ?_
      rw [if_pos hpg]
    case feedA =>
      refine (answer _).trans ?_
      rw [if_neg (by omega)]
      simp [Power.pageFeeds, hpg]
    case feedB =>
      refine (answer _).trans ?_
      rw [if_neg (by omega)]
      simp [Power.pageFeeds, hpg]
    case refused => exact ⟨_, congrArg Host.Outcome.next (if_pos hs), smbusRefused_spec s⟩
  case cold =>
    obtain ⟨hc, hhost, hcells, -⟩ := leaveCold_kept s
    exact ⟨_, congrArg Host.Outcome.next (if_pos (by simp [h4, hp])), (leaveCold_step s).2, hc, hhost, hcells⟩
  case trip =>
    have hk := (coldStart_kept (s.updPwr (fun p => { p with tripped := false, lastTrip := true, powered := true }))).1
    have hph := (coldStart_step (s.updPwr (fun p => { p with tripped := false, lastTrip := true, powered := true }))).2
    refine ⟨_, exec_mfrWake_of_trip h4 ht hc hs, ?_⟩
    unfold State.leaveTrip
    refine ⟨hph, ?_, ?_, ?_⟩ <;> rw [hk] <;> rfl

end Sys2Proof.Machine
end


section
/-! PROOF. Service sessions, identity, log, attestation and staging (O59). -/

namespace Sys2Proof.Machine

/-! ## A request of a session (R411, R412, R438) -/

/-- The package is awake for a message: neither Ash nor a Cold with power wakes. -/
def State.portAwake (s : State) : Prop := s.pwr.current ≠ 3 ∧ (s.pwr.current ≠ 4 ∨ s.pwr.powered = false)

/-- READY, RECOVERY or TRIPPED: a phase that answers messages. -/
def State.answers (s : State) : Prop := s.svc.phase = 8 ∨ s.svc.phase = 9 ∨ s.pwr.tripped = true

theorem portWake_of_awake {s : State} (h : s.portAwake) : s.portWake = s := by
  obtain ⟨h3, h4⟩ := h
  have hno : (decide (s.pwr.current = 4) && s.pwr.powered) = false := by obtain h4 | h4 := h4 <;> simp [h4]
  simp [State.portWake, hno, awake_of_not_ash h3]

theorem portWake_of_ash {s : State} (h : s.pwr.current = 3) : s.portWake = s.leaveAsh := by
  simp [State.portWake, State.awake, h]

theorem portWake_of_cold {s : State} (h : s.pwr.current = 4) (hp : s.pwr.powered = true) :
    s.portWake = s.leaveCold.updSvc (fun v => { v with session := s.svc.session }) := by
  simp [State.portWake, h, hp]

theorem portAwake_of_blaze {s : State} (h : s.pwr.current = 0) : s.portAwake := ⟨by rw [h]; decide, .inl (by rw [h]; decide)⟩

theorem leaveAsh_current (s : State) : s.leaveAsh.pwr.current = 0 := by
  unfold State.leaveAsh
  rw [setPower_pwr]

section
variable {s : State} {h : SvcHdr} {w : SvcWhen} {f : State → State}

theorem svc?_of_woken {t : State} (hw : s.portWake = t) (ht : t.portAwake) : s.svc? h w f = t.svc? h w f := by
  unfold State.svc?
  rw [hw, portWake_of_awake ht]

theorem svc?_of_silent (hw : s.portAwake) (hno : s.svc.session = none ∨ ¬ s.answers) : s.svc? h w f = s := by
  unfold State.svc?
  rw [portWake_of_awake hw]
  refine if_pos ?_
  obtain hno | hno := hno
  · simp [hno]
  · obtain ⟨h8, h9, ht⟩ : s.svc.phase ≠ 8 ∧ s.svc.phase ≠ 9 ∧ s.pwr.tripped = false := by simpa [State.answers] using hno
    simp [h8, h9, ht]

theorem not_silent (hs : s.svc.session ≠ none) (ha : s.answers) :
    ¬ (s.svc.session.isNone || !(s.svc.phase == 8 || s.svc.phase == 9 || s.pwr.tripped)) = true := by
  have hphase : (s.svc.phase == 8 || s.svc.phase == 9 || s.pwr.tripped) = true := by simpa [State.answers, or_assoc] using ha
  simpa [hphase] using hs

theorem svc?_of_header (hw : s.portAwake) (hs : s.svc.session ≠ none) (ha : s.answers) {st : Nat} (hh : hdrFails h = some st) :
    s.svc? h w f = s.answer h st [] := by
  unfold State.svc?
  rw [portWake_of_awake hw]
  refine (if_neg (not_silent hs ha)).trans ?_
  simp only [hh]

theorem svc?_of_ok (hw : s.portAwake) (hs : s.svc.session ≠ none) (ha : s.answers) (hh : hdrFails h = none) :
    s.svc? h w f = if s.serves w then f s else s.answer h stMalformed [] := by
  unfold State.svc?
  rw [portWake_of_awake hw]
  refine (if_neg (not_silent hs ha)).trans ?_
  simp only [hh]

end

theorem hdrFails_version {h : SvcHdr} (hv : h.abiMajor ≠ 1 ∨ h.abiMinor ≠ 0 ∨ h.reserved ≠ 0 ∨ h.status ≠ 0) : hdrFails h = some stVersion :=
  if_pos (by simpa [or_assoc] using hv)

theorem hdrFails_length {h : SvcHdr} (h1 : h.abiMajor = 1) (h2 : h.abiMinor = 0) (h3 : h.reserved = 0) (h4 : h.status = 0)
    (hl : 66048 < h.length.toNat) : hdrFails h = some stMalformed :=
  (if_neg (by simp [h1, h2, h3, h4])).trans (if_pos hl)

/-- The messages that need no signature are all served alike. -/
theorem exec_message {h : SvcHdr} {a b : Nat} {l : List Byte} {i : Instr}
    (hi : i ∈ [Instr.hello h, .status h, .readLog h a b, .attest h l, .stageBegin h a b, .stageData h a b l, .stageEnd h a]) :
    ∃ w f, ∀ s : State, exec i s = .next (s.svc? h w f) := by
  simp only [List.mem_cons, List.not_mem_nil, or_false] at hi
  obtain rfl | rfl | rfl | rfl | rfl | rfl | rfl := hi <;> exact ⟨_, _, fun s => rfl⟩

/-! ## Staging (R435) -/

theorem kindOk_iff {kind : Nat} : kindOk kind = true ↔ kind = 1 ∨ kind = 2 := by simp [kindOk]

theorem kindOk_false {kind : Nat} (h : kind ≠ 1 ∧ kind ≠ 2) : kindOk kind = false := by simp [kindOk, h.1, h.2]

/-- The image in the slot that PREFERRED does not name. -/
def FwKind.spareImage (k : FwKind) : List Byte := (k.slots[k.spare]).image

/-- An image kind whose other slot holds an image in a state. -/
def FwKind.holding (k : FwKind) (st : FwState) (img : List Byte) : FwKind :=
  { k with slots := k.slots.set k.spare { state := st, image := img } }

section
variable (s : State) (h : SvcHdr) {kind : Nat}

theorem stage_of_kind (hk : kindOk kind = false) (size off : Nat) (data : List Byte) : s.stageBegin h kind size = s.answer h stMalformed []
    ∧ s.stageData h kind off data = s.answer h stMalformed [] ∧ s.stageEnd h kind = s.answer h stMalformed [] :=
  ⟨if_pos (by simp [hk]), if_pos (by simp [hk]), if_pos (by simp [hk])⟩

theorem stageBegin_of_size {size : Nat} (hn : size = 0 ∨ 33554432 < size) : s.stageBegin h kind size = s.answer h stMalformed [] :=
  if_pos (by
    obtain rfl | hn := hn
    · simp
    · simp [show fwSlotBytes < size from hn])

theorem stageBegin_of_fit (hk : kindOk kind = true) {size : Nat} (h1 : 1 ≤ size) (h2 : size ≤ 33554432) : s.stageBegin h kind size =
    if s.svc.fw[kindIx kind].staging then s.answer h stBusy []
    else (s.updFw kind (fun k => { k.holding .staging [] with size := size })).answer h stDone [] :=
  if_neg (by
    have h0 : size ≠ 0 := by omega
    have hb : ¬ fwSlotBytes < size := Nat.not_lt.2 h2
    simp [hk, h0, hb])

theorem stageData_of_fit (hk : kindOk kind = true) {off : Nat} {data : List Byte} (hst : s.svc.fw[kindIx kind].staging = true)
    (hoff : off = s.svc.fw[kindIx kind].spareImage.length)
    (hfit : off + data.length ≤ s.svc.fw[kindIx kind].size) (hlen : data.length ≤ 65536) : s.stageData h kind off data =
    (s.updFw kind (fun k => k.holding .staging (s.svc.fw[kindIx kind].spareImage ++ data))).answer h stDone [] :=
  if_neg (by
    intro hc
    simp only [Bool.or_eq_true, Bool.not_eq_true', decide_eq_true_eq] at hc
    obtain (((hc | hc) | hc) | hc) | hc := hc
    · exact nomatch hk.symm.trans hc
    · exact nomatch hst.symm.trans hc
    · exact hc hoff
    · omega
    · omega)

theorem stageData_of_misfit {off : Nat} {data : List Byte} (hno : s.svc.fw[kindIx kind].staging = false
      ∨ off ≠ s.svc.fw[kindIx kind].spareImage.length
      ∨ s.svc.fw[kindIx kind].size < off + data.length ∨ 65536 < data.length) : s.stageData h kind off data = s.answer h stMalformed [] :=
  if_pos (by
    simp only [Bool.or_eq_true, Bool.not_eq_true', decide_eq_true_eq]
    obtain hno | hno | hno | hno := hno
    · exact .inl (.inl (.inl (.inr hno)))
    · exact .inl (.inl (.inr hno))
    · exact .inl (.inr hno)
    · exact .inr hno)

theorem stageEnd_of_idle (hst : s.svc.fw[kindIx kind].staging = false) : s.stageEnd h kind = s.answer h stMalformed [] :=
  if_pos (by simp only [hst, Bool.not_false, Bool.or_true])

end

/-- The image kind with its staged slot marked, as the check of the image left it. -/
def FwKind.staged (k : FwKind) (ok : Bool) : FwKind :=
  if ok then { k.holding .valid k.spareImage with preferred := !k.preferred } else k.holding .invalid k.spareImage

/-- The check that STAGE_END makes. -/
def State.stageStatus (s : State) (kind : Nat) : Nat :=
  s.fwStatus kind s.svc.fw[kindIx kind].spareImage s.svc.fw[kindIx kind].size true

theorem stageEnd_eq {s : State} {kind : Nat} (h : SvcHdr) (hk : kindOk kind = true) (hst : s.svc.fw[kindIx kind].staging = true) :
    s.stageEnd h kind = if s.stageStatus kind = stDone
      then ((s.updFw kind (fun k => { k.holding .valid s.svc.fw[kindIx kind].spareImage with preferred := !k.preferred })).logSvc 2 wholeUnit).answer h stDone []
      else ((s.updFw kind (fun k => k.holding .invalid s.svc.fw[kindIx kind].spareImage)).logSvc 3 wholeUnit
          (s.stageStatus kind)).answer h (s.stageStatus kind) [] :=
  if_neg (by simp only [hk, hst, Bool.not_true, Bool.or_false]; decide)

/-- STAGE_END marks the slot by the outcome of the check. -/
theorem stageEnd_spec {s : State} {kind : Nat} (h : SvcHdr) (hk : kindOk kind = true) (hst : s.svc.fw[kindIx kind].staging = true) :
    let t := s.stageEnd h kind
    t.reply = svcMessage h (s.stageStatus kind) []
    ∧ t.svc.fw = s.svc.fw.set (kindIx kind) (s.svc.fw[kindIx kind].staged (s.stageStatus kind == stDone))
    ∧ t = { s with svc := { s.svc with fw := t.svc.fw }, reply := t.reply, log := t.log, hif := t.hif } := by
  dsimp only
  rw [stageEnd_eq h hk hst]
  split
  next hd =>
    unfold State.logSvc
    rw [hd, logEv_frame]
    exact ⟨rfl, rfl, rfl⟩
  next hd =>
    have hne : (s.stageStatus kind == stDone) = false := by simpa using hd
    unfold State.logSvc
    rw [hne, logEv_frame]
    exact ⟨rfl, rfl, rfl⟩

/-- Settles O59: every message through the one wake, header check and service of a session. -/
theorem serviceSessionAndStaging : Obligations.ServiceSessionAndStaging := by
  unfold Obligations.ServiceSessionAndStaging
  refine ⟨fun s => ⟨fun hn hp => congrArg Host.Outcome.next (if_neg (by simp [hn, hp])), fun h => ?taken, rfl⟩, fun s h a b l i hi => ?message,
    fun s h n hs hh h3 h4 hph => ?served, fun s p nonce => ⟨fun hph hl => ?doe, fun hno => ?noDoe⟩⟩
  case taken =>
    refine congrArg Host.Outcome.next (if_pos ?_)
    obtain h | h := h
    · simp [Option.isSome_iff_ne_none.2 h]
    · simp [h]
  case message =>
    obtain ⟨w, f, hexec⟩ := exec_message hi
    simp only [hexec]
    refine ⟨fun h3 => ?ash, fun h4 hp => ?cold, fun h3 h4 => ⟨fun hn => ?none, fun h8 h9 ht => ?phase, fun hs ha => ⟨fun hv => ?version,
      fun h1 h2 hr hst hl => ?length⟩⟩⟩
    case ash => exact congrArg _ (svc?_of_woken (portWake_of_ash h3) (portAwake_of_blaze (leaveAsh_current s)))
    case cold => exact congrArg _ (svc?_of_woken (portWake_of_cold h4 hp) (portAwake_of_blaze (leaveCold_kept s).1))
    case none => exact congrArg _ (svc?_of_silent ⟨h3, h4⟩ (.inl hn))
    case phase => exact congrArg _ (svc?_of_silent ⟨h3, h4⟩ (.inr (by simp [State.answers, h8, h9, ht])))
    case version => exact congrArg _ (svc?_of_header ⟨h3, h4⟩ hs ha (hdrFails_version hv))
    case length => exact congrArg _ (svc?_of_header ⟨h3, h4⟩ hs ha (hdrFails_length h1 h2 hr hst hl))
  case served =>
    have hsess : s.svc.session ≠ none := by rw [hs]; exact Option.some_ne_none n
    have ok (w : SvcWhen) (f : State → State) : s.svc? h w f = if s.serves w then f s else s.answer h stMalformed [] :=
      svc?_of_ok ⟨h3, h4⟩ hsess hph hh
    have always (f : State → State) : s.svc? h .tripped f = f s := by
      rw [ok]
      exact if_pos (by simpa [State.serves, or_assoc] using hph)
    have recovery (f : State → State) (hp : s.svc.phase = 8 ∨ s.svc.phase = 9) : s.svc? h .recovery f = f s := by
      rw [ok]
      exact if_pos (by simpa [State.serves] using hp)
    have noRecovery (f : State → State) (hp : s.svc.phase ≠ 8 ∧ s.svc.phase ≠ 9) : s.svc? h .recovery f = s.answer h stMalformed [] := by
      rw [ok]
      exact if_neg (by simpa [State.serves] using hp)
    refine ⟨?hello, congrArg Host.Outcome.next (always _), fun first count hc => ?log, fun first count hc => ?longLog,
      fun nonce h8 hl => ?attest, fun nonce hno => ?noAttest, fun kind a b l hno => ?noStage, fun kind hp hk => ?stage⟩
    case hello =>
      refine (congrArg Host.Outcome.next (always _)).trans ?_
      rw [hs]
      rfl
    case log => exact congrArg Host.Outcome.next ((always _).trans (if_neg (Nat.not_lt.2 hc)))
    case longLog => exact congrArg Host.Outcome.next ((always _).trans (if_pos hc))
    case attest =>
      refine congrArg Host.Outcome.next ((ok _ _).trans ?_)
      exact (if_pos (by simp [State.serves, h8])).trans (if_neg (by simp [hl]))
    case noAttest =>
      refine congrArg Host.Outcome.next ((ok _ _).trans ?_)
      by_cases h8 : s.svc.phase = 8
      · have hl : nonce.length ≠ 32 := hno.resolve_left (fun h => h h8)
        exact (if_pos (by simp [State.serves, h8])).trans (if_pos hl)
      · exact if_neg (by simp [State.serves, h8])
    case noStage =>
      by_cases hp : s.svc.phase = 8 ∨ s.svc.phase = 9
      · have hk : kind ≠ 1 ∧ kind ≠ 2 := hno.resolve_left (fun hq => hp.elim hq.1 hq.2)
        obtain ⟨hbegin, hdata, hend⟩ := stage_of_kind s h (kindOk_false hk) a b l
        exact ⟨congrArg Host.Outcome.next ((recovery _ hp).trans hbegin), congrArg Host.Outcome.next ((recovery _ hp).trans hdata),
          congrArg Host.Outcome.next ((recovery _ hp).trans hend)⟩
      · have hq : s.svc.phase ≠ 8 ∧ s.svc.phase ≠ 9 := not_or.1 hp
        exact ⟨congrArg Host.Outcome.next (noRecovery _ hq), congrArg Host.Outcome.next (noRecovery _ hq),
          congrArg Host.Outcome.next (noRecovery _ hq)⟩
    case stage =>
      have hok := kindOk_iff.2 hk
      have go {i : Instr} {f : State → State} {t : State} (hi : exec i s = .next (s.svc? h .recovery f)) (hf : f s = t) :
          exec i s = .next t := hi.trans (congrArg _ ((recovery f hp).trans hf))
      refine ⟨fun size h1 h2 hst => ?_, fun size h1 h2 hst => ?_, fun size hn => go rfl (stageBegin_of_size s h hn), fun data hst hfit hlen => ?_,
        fun off data hno => go rfl (stageData_of_misfit s h hno), fun hst => go rfl (stageEnd_of_idle s h hst), fun hst => ?_⟩
      · exact ⟨_, go rfl ((stageBegin_of_fit s h hok h1 h2).trans (if_neg (by rw [hst]; exact Bool.false_ne_true))), rfl, rfl, rfl⟩
      · exact go rfl ((stageBegin_of_fit s h hok h1 h2).trans (if_pos hst))
      · exact ⟨_, go rfl (stageData_of_fit s h hok hst rfl hfit hlen), rfl, rfl, rfl⟩
      · obtain ⟨hreply, hfw, hf⟩ := stageEnd_spec h hok hst
        refine ⟨_, _, go rfl rfl, rfl, hreply, fun hd => ?_, fun hd => ?_, hf⟩
        · rw [hfw, show (s.stageStatus kind == stDone) = true from beq_iff_eq.2 hd]
          rfl
        · rw [hfw, show (s.stageStatus kind == stDone) = false from beq_false_of_ne hd]
          rfl
  case doe =>
    refine congrArg Host.Outcome.next (if_pos ?_)
    rw [Bool.and_eq_true]
    exact ⟨by simpa [State.serves] using hph, by simpa using hl⟩
  case noDoe =>
    refine congrArg Host.Outcome.next (if_neg ?_)
    rw [Bool.and_eq_true]
    rintro ⟨hsv, hl⟩
    have hph : s.svc.phase = 8 ∨ s.svc.phase = 9 := by simpa [State.serves] using hsv
    obtain ⟨h8, h9⟩ | hlen := hno
    · exact hph.elim h8 h9
    · exact hlen (by simpa using hl)

end Sys2Proof.Machine
end


section
/-! PROOF. Host ports: BAR4, MSI-X, loss and return, re-homing, resets, and failing reads of host memory (O54). -/

namespace Sys2Proof.Machine

/-! ## BAR4 (R397, R398) -/

/-- The stacked address of an offset in BAR4. -/
def State.bar4Addr (s : State) (h : HostPort) (off : Nat) : Nat := s.hif[h].aptBase * 2 ^ 30 + off

/-- Whether BAR4 serves an access. -/
def State.bar4Serves (s : State) (h : HostPort) (a len : Nat) : Prop :=
  s.isReady = true ∧ s.hif[h].aptEn = true ∧ s.apertureOk a len = true

theorem inside_bar4 {s : State} {h : HostPort} {off : Nat} {op : Bar4Op} (hlen : 0 < bar4Len op)
    (hfit : off + bar4Len op ≤ s.hif[h].bar4Gib * 2 ^ 30) :
    ¬ (decide (bar4Len op = 0) || decide (s.hif[h].bar4Gib * 2 ^ 30 < off + bar4Len op)) = true := by
  rw [Bool.or_eq_true, decide_eq_true_eq, decide_eq_true_eq]
  omega

section
variable {s : State} {h : HostPort} {off : Nat} {op : Bar4Op} (hp : s.pwr.current ≠ 3) (hlen : 0 < bar4Len op)
  (hfit : off + bar4Len op ≤ s.hif[h].bar4Gib * 2 ^ 30)
include hp hlen hfit

theorem exec_bar4_refused (hno : ¬ s.bar4Serves h (s.bar4Addr h off) (bar4Len op)) :
    exec (.bar4Access h off op) s = .next (s.bar4Refuse h (s.bar4Addr h off)) := by
  change Host.Outcome.next (s.awake.bar4 h off op) = _
  rw [awake_of_not_ash hp]
  refine congrArg _ ((if_neg (inside_bar4 hlen hfit)).trans (if_pos ?_))
  simp only [Bool.or_eq_true, Bool.not_eq_true']
  by_contra hc
  simp only [not_or, Bool.not_eq_false] at hc
  obtain ⟨⟨hr, he⟩, ha⟩ := hc
  exact hno ⟨hr, he, ha⟩

theorem exec_bar4_served (hs : s.bar4Serves h (s.bar4Addr h off) (bar4Len op)) :
    (∀ n, op = .read n → exec (.bar4Access h off op) s = .next (s.bar4Read (s.bar4Addr h off) n))
    ∧ (∀ d, op = .write d → exec (.bar4Access h off op) s = .next (s.bar4Write (s.bar4Addr h off) d)) := by
  obtain ⟨hr, he, ha⟩ := hs
  have hno : ¬ (!s.isReady || !s.hif[h].aptEn || !s.apertureOk (s.hif[h].aptBase * 2 ^ 30 + off) (bar4Len op)) = true := by
    rw [hr, he, show s.apertureOk (s.hif[h].aptBase * 2 ^ 30 + off) (bar4Len op) = true from ha]
    decide
  have hgo : exec (.bar4Access h off op) s = .next (s.bar4 h off op) := by
    change Host.Outcome.next (s.awake.bar4 h off op) = _
    rw [awake_of_not_ash hp]
  refine ⟨fun n hn => ?_, fun d hd => ?_⟩
  · refine hgo.trans (congrArg _ ((if_neg (inside_bar4 hlen hfit)).trans ((if_neg hno).trans ?_)))
    subst hn
    rfl
  · refine hgo.trans (congrArg _ ((if_neg (inside_bar4 hlen hfit)).trans ((if_neg hno).trans ?_)))
    subst hd
    rfl

end

theorem noteRead_sameMemory (s : State) (l : Loc) (len : Nat) : sameMemory s (s.noteRead l len) := by
  have hf := (noteRead_notes s l len).1
  have hb := (noteRead_sameBytes s l len).sameStacked
  generalize s.noteRead l len = t at hf hb
  exact ⟨by rw [hf], by rw [hf], by rw [hf], hb, by rw [hf]⟩

/-- A read through the aperture leaves the memories and answers what it read, or no data. -/
theorem bar4Read_spec (s : State) (a n : Nat) : sameMemory s (s.bar4Read a n)
    ∧ (∀ bs, s.readLoc (.stacked a) n = .ok bs → (s.bar4Read a n).reply = bs)
    ∧ (∀ e, s.readLoc (.stacked a) n = .error e → (s.bar4Read a n).reply = []) := by
  have hm := noteRead_sameMemory s (.stacked a) n
  unfold State.bar4Read
  dsimp only
  generalize s.noteRead (.stacked a) n = t at hm
  cases hr : s.readLoc (.stacked a) n with
  | ok bs => exact ⟨hm, fun _ e => Except.ok.inj e, fun _ e => nomatch e⟩
  | error e => exact ⟨hm, fun _ e => (nomatch e), fun _ _ => rfl⟩

/-- A write to a stack in service: its partial blocks are read, then its bytes are put. -/
theorem writeLoc_stacked {s : State} {a : Nat} (d : List Byte) (h : s.locErr (.stacked a) = none) :
    let u := s.noteParts (.stacked a) (partBlocks a d.length)
    (∀ m, u.stacked.write a d = some m → s.writeLoc (.stacked a) d = .ok ((u.putRam (.stacked a) m).countWrites (.stacked a) [(a, d)]))
    ∧ (u.stacked.write a d = none → ∃ e, s.writeLoc (.stacked a) d = .error e) := by
  refine ⟨fun m hm => ?_, fun hn => ?_⟩
  · unfold State.writeLoc
    simp only [h, Loc.addr, State.ramOf, hm]
  · unfold State.writeLoc
    simp only [h, Loc.addr, State.ramOf, hn]
    exact ⟨_, rfl⟩

theorem bar4Write_of_ok {s t : State} {a : Nat} {d : List Byte} (h : s.writeLoc (.stacked a) d = .ok t) : s.bar4Write a d = t := by
  simp only [State.bar4Write, h]

theorem bar4Write_of_error {s : State} {a : Nat} {d : List Byte} {e : AccErr} (h : s.writeLoc (.stacked a) d = .error e) :
    s.bar4Write a d = s.noteRead (.stacked a) d.length := by
  simp only [State.bar4Write, h]

theorem stacked_put (s : State) (a : Nat) (bs : List Nat) (m : Ram) (d : List Byte) :
    let t := ((s.noteParts (.stacked a) bs).putRam (.stacked a) m).countWrites (.stacked a) [(a, d)]
    t.stacked = m ∧ t = { s with stacked := m, regions := t.regions, log := t.log, hif := t.hif } := by
  have hf := (noteParts_notes s (.stacked a) bs).1
  generalize s.noteParts (.stacked a) bs = u at hf
  refine ⟨rfl, ?_⟩
  rw [hf]
  rfl

/-- A write through the aperture puts its bytes, or leaves the memories. -/
theorem bar4Write_spec {s : State} {a : Nat} (d : List Byte) (h : s.locErr (.stacked a) = none) :
    let u := s.noteParts (.stacked a) (partBlocks a d.length)
    (∀ m, u.stacked.write a d = some m → (s.bar4Write a d).stacked = m
      ∧ s.bar4Write a d = { s with stacked := m, regions := (s.bar4Write a d).regions, log := (s.bar4Write a d).log, hif := (s.bar4Write a d).hif })
    ∧ (u.stacked.write a d = none → sameMemory s (s.bar4Write a d)) := by
  obtain ⟨hok, herr⟩ := writeLoc_stacked d h
  refine ⟨fun m hm => ?_, fun hn => ?_⟩
  · rw [bar4Write_of_ok (hok m hm)]
    exact stacked_put s a _ m d
  · obtain ⟨e, he⟩ := herr hn
    rw [bar4Write_of_error he]
    exact noteRead_sameMemory s _ _

theorem bar4Refuse_spec (s : State) (h : HostPort) (a : Nat) : let t := s.bar4Refuse h a
    t.reply = [] ∧ t.hif[h].cntBar4Refused = s.hif[h].cntBar4Refused + 1
    ∧ (∃ r, t.log.recs = List.take 8192 (r :: s.log.recs) ∧ r.source = 12 ∧ r.cause = 6 ∧ r.unit = h.val ∧ r.address = a % 2 ^ 48)
    ∧ t = { s with reply := t.reply, hif := t.hif, log := t.log } := by
  obtain ⟨hcnt, hf⟩ := refuseBar_spec s h a
  refine ⟨rfl, hcnt, ⟨_, logEv_recs _ _, rfl, rfl, rfl, rfl⟩, ?_⟩
  unfold State.bar4Refuse
  generalize s.refuseBar h a = t at hf
  rw [hf]

/-! ## Ports' registers -/

@[simp] theorem updHif_hif_self (s : State) (h : HostPort) (f : Hif → Hif) : (s.updHif h f).hif[h] = f s.hif[h] :=
  Vector.getElem_set_self (Fin.isLt h)

theorem updHif_hif_other {s : State} {h h' : HostPort} (hne : h' ≠ h) (f : Hif → Hif) : (s.updHif h f).hif[h'] = s.hif[h'] :=
  Vector.getElem_set_ne (Fin.isLt h) (Fin.isLt h') fun he => hne (Fin.ext he.symm)

theorem portEvent_hif_other {s : State} {h h' : HostPort} (hne : h' ≠ h) (b : Fin 4) : (s.portEvent h b).hif[h'] = s.hif[h'] := by
  unfold State.portEvent
  dsimp only
  split
  · exact (updHif_hif_other hne _).trans (updHif_hif_other hne _)
  · exact updHif_hif_other hne _

theorem msix_evt (s : State) (h : HostPort) (vec : Nat) : (s.msix h vec).hif[h].evt = s.hif[h].evt := by
  unfold State.msix
  rw [updHif_hif_self]
  split
  · rfl
  · split
    · rfl
    · rfl

theorem portEvent_evt (s : State) (h : HostPort) (b : Fin 4) :
    (s.portEvent h b).hif[h].evt = s.hif[h].evt ||| BitVec.ofNat 4 (2 ^ b.val) := by
  unfold State.portEvent
  dsimp only
  split
  · rw [msix_evt, updHif_hif_self]
  · rw [updHif_hif_self]

theorem logPort_frame (s : State) (cause : Nat) (h : HostPort) (ctx : Option Nat) :
    s.logPort cause h ctx = { s with log := (s.logPort cause h ctx).log } := logEv_frame_quiet s rfl

theorem logPort_hif (s : State) (cause : Nat) (h : HostPort) (ctx : Option Nat) : (s.logPort cause h ctx).hif = s.hif := by
  rw [logPort_frame]

theorem logPort_hif_at (s : State) (cause : Nat) (h : HostPort) (ctx : Option Nat) (p : HostPort) :
    (s.logPort cause h ctx).hif[p] = s.hif[p] := by rw [logPort_frame]

theorem logPort_logOnly (s : State) (cause : Nat) (h : HostPort) (ctx : Option Nat) : LogOnly s (s.logPort cause h ctx) := by
  unfold LogOnly
  rw [logPort_frame]

theorem exec_apertureBaseWrite {s : State} (hp : s.pwr.current ≠ 3) (hd : s.diesOn = true) (h : HostPort) (v : W32) :
    exec (.apertureBaseWrite h v) s = .next (s.updHif h (fun x => x.portCtrl v.toNat)) := by
  change Host.Outcome.next (if s.awake.diesOn then s.awake.updHif h (fun x => x.portCtrl v.toNat) else s.awake) = _
  rw [awake_of_not_ash hp, if_pos hd]

theorem portCtrl_spec (x : Hif) (v : Nat) : (x.portCtrl v).aptEn = bit v 31 ∧ (x.portCtrl v).evtVec = fld v 10 0
    ∧ (fld v 23 16 % x.bar4Gib = 0 → (x.portCtrl v).aptBase = fld v 23 16 ∧ (x.portCtrl v).aptErr = (x.aptErr && !bit v 30))
    ∧ (fld v 23 16 % x.bar4Gib ≠ 0 → (x.portCtrl v).aptBase = x.aptBase ∧ (x.portCtrl v).aptErr = true) := by
  refine ⟨rfl, rfl, fun h => ?_, fun h => ?_⟩
  · simp [Hif.portCtrl, h]
  · simp [Hif.portCtrl, h]

/-! ## MSI-X (R399) -/

/-- A vector's mask and its pending bit cleared. -/
def Hif.unmasking (x : Hif) (vec : Nat) : Hif :=
  { x with
    unmasked := if x.unmasked.contains vec then x.unmasked else vec :: x.unmasked
    pba := x.pba.filter (· != vec) }

theorem mem_unmasking (x : Hif) (vec : Nat) : vec ∈ (x.unmasking vec).unmasked := by
  unfold Hif.unmasking
  by_cases h : vec ∈ x.unmasked
  · simp [h]
  · simp [h]

/-- A message through an unmasked vector: sent, or held while the port is down. -/
theorem msix_of_unmasked {s : State} {h : HostPort} {vec : Nat} (hu : vec ∈ s.hif[h].unmasked) (ctx : Option Nat) :
    s.msix h vec ctx = if s.hif[h].up = true
      then s.updHif h (fun x => { x with sent := insertAt x.sent vec ((lookup x.sent vec).getD 0 + 1) })
      else s.updHif h (fun x => { x with wait := x.wait ++ [(vec, ctx)] }) := by
  have hc : (!s.hif[h].unmasked.contains vec) = false := by simpa using hu
  unfold State.msix State.updHif
  dsimp only
  rw [hc]
  cases s.hif[h].up <;> rfl

theorem unmask_eq (s : State) (h : HostPort) (vec : Nat) : s.unmask h vec =
    if s.hif[h].pba.contains vec = true then (s.updHif h (fun x => x.unmasking vec)).msix h vec else s.updHif h (fun x => x.unmasking vec) := rfl

theorem unmask_spec (s : State) (h : HostPort) (vec : Nat) : let t := s.unmask h vec
    vec ∈ t.hif[h].unmasked ∧ vec ∉ t.hif[h].pba
    ∧ (vec ∈ s.hif[h].pba → s.hif[h].up = true →
        lookup t.hif[h].sent vec = some ((lookup s.hif[h].sent vec).getD 0 + 1) ∧ t.hif[h].wait = s.hif[h].wait)
    ∧ (vec ∈ s.hif[h].pba → s.hif[h].up = false → t.hif[h].wait = s.hif[h].wait ++ [(vec, none)])
    ∧ (vec ∉ s.hif[h].pba → t.hif[h].sent = s.hif[h].sent ∧ t.hif[h].wait = s.hif[h].wait) ∧ t = { s with hif := t.hif } := by
  have hmem := mem_unmasking s.hif[h] vec
  have hpba : vec ∉ (s.hif[h].unmasking vec).pba := by simp [Hif.unmasking]
  dsimp only
  rw [unmask_eq]
  by_cases hpend : vec ∈ s.hif[h].pba
  · rw [if_pos (by simpa using hpend), msix_of_unmasked (by rw [updHif_hif_self]; exact hmem), updHif_hif_self]
    by_cases hup : s.hif[h].up = true
    · rw [if_pos (show (s.hif[h].unmasking vec).up = true from hup), updHif_hif_self, updHif_hif_self]
      exact ⟨hmem, hpba, fun _ _ => ⟨lookup_insertAt_self .., rfl⟩, fun _ hdown => absurd hup (by rw [hdown]; exact Bool.false_ne_true),
        fun hno => absurd hpend hno, rfl⟩
    · rw [if_neg (show ¬ (s.hif[h].unmasking vec).up = true from hup), updHif_hif_self, updHif_hif_self]
      exact ⟨hmem, hpba, fun _ hu => absurd hu hup, fun _ _ => rfl, fun hno => absurd hpend hno, rfl⟩
  · rw [if_neg (by simpa using hpend), updHif_hif_self]
    exact ⟨hmem, hpba, fun h => absurd h hpend, fun h => absurd h hpend, fun _ => ⟨rfl, rfl⟩, rfl⟩

theorem exec_msixUnmask {s : State} (hp : s.pwr.current ≠ 3) (hd : s.diesOn = true) (h : HostPort) (vec : Fin 2048) :
    exec (.msixUnmask h vec) s = .next (s.unmask h vec.val) := by
  change Host.Outcome.next (if s.awake.diesOn then s.awake.unmask h vec.val else s.awake) = _
  rw [awake_of_not_ash hp, if_pos hd]

/-! ## A port goes down and comes up (R342, R400, R401) -/

theorem portDown_of_down {s : State} {h : HostPort} (hd : s.hif[h].up = false) : s.portDown h = s := if_pos (by rw [hd]; rfl)

theorem portDown_spec {s : State} {h : HostPort} (hu : s.hif[h].up = true) : let t := s.portDown h
    t.hif[h] = { s.hif[h] with up := false } ∧ t.hif[otherPort h].evt = s.hif[otherPort h].evt ||| 2
    ∧ (∃ r, t.log.recs = List.take 8192 (r :: s.log.recs) ∧ r.source = 12 ∧ r.cause = 1) ∧ t = { s with hif := t.hif, log := t.log } := by
  have heq : s.portDown h = ((s.updHif h (fun x => { x with up := false })).logPort 1 h).portEvent (otherPort h) 1 :=
    if_neg (by rw [hu]; decide)
  dsimp only
  rw [heq]
  refine ⟨?_, ?_, ⟨_, (congrArg ErrLog.recs (portEvent_log ..)).trans (logEv_recs _ _), rfl, rfl⟩, ?_⟩
  · rw [portEvent_hif_other (otherPort_ne h).symm, logPort_hif, updHif_hif_self]
  · rw [portEvent_evt, logPort_hif, updHif_hif_other (otherPort_ne h)]
    rfl
  · rw [portEvent_frame, logPort_frame]
    rfl

/-- A port that goes down, or was down, keeps its other registers. -/
theorem portDown_kept (s : State) (h : HostPort) : (s.portDown h).hif[h] = { s.hif[h] with up := false }
    ∧ s.portDown h = { s with hif := (s.portDown h).hif, log := (s.portDown h).log } := by
  cases hu : s.hif[h].up with
  | true =>
    obtain ⟨hh, -, -, hf⟩ := portDown_spec hu
    exact ⟨hh, hf⟩
  | false =>
    rw [portDown_of_down hu, ← hu]
    exact ⟨rfl, rfl⟩

/-- A port that has come up, before its held messages go out. -/
def State.linked (s : State) (h : HostPort) : State :=
  let s := ((s.updHif h (fun x => x.negotiate h.val s.freshCtr)).fresh).logPort 2 h
  if s.hif[h].width < 8 || s.hif[h].speed < 6 then s.logPort 7 h else s

theorem linked_spec (s : State) (h : HostPort) : (s.linked h).hif[h] = s.hif[h].negotiate h.val s.freshCtr
    ∧ s.linked h = { s with hif := (s.linked h).hif, log := (s.linked h).log, freshCtr := s.freshCtr + 1 } := by
  have hu : ((s.updHif h (fun x => x.negotiate h.val s.freshCtr)).fresh).hif[h] = s.hif[h].negotiate h.val s.freshCtr :=
    updHif_hif_self s h (fun x => x.negotiate h.val s.freshCtr)
  have hf := logPort_frame ((s.updHif h (fun x => x.negotiate h.val s.freshCtr)).fresh) 2 h none
  unfold State.linked
  dsimp only
  generalize ((s.updHif h (fun x => x.negotiate h.val s.freshCtr)).fresh).logPort 2 h = t at hf
  have hh : t.hif[h] = s.hif[h].negotiate h.val s.freshCtr := by rw [hf]; exact hu
  have ht : t = { s with hif := t.hif, log := t.log, freshCtr := s.freshCtr + 1 } := by rw [hf]; rfl
  split
  · exact ⟨(logPort_hif_at t 7 h none h).trans hh, by rw [logPort_frame, ht]⟩
  · exact ⟨hh, ht⟩

theorem exec_hostPortUp {s : State} {h : HostPort} (hu : s.hif[h].up = false) (hd : s.diesOn = true) :
    exec (.hostPortUp h) s = .next (((s.linked h).sendHeld h).resumeQueues.xferResume) :=
  congrArg Host.Outcome.next ((if_pos hd).trans (if_neg (by rw [hu]; decide)))

/-- Only the ports' registers change. -/
def HifOnly (s t : State) : Prop := t = { s with hif := t.hif }

theorem HifOnly.refl (s : State) : HifOnly s s := rfl

theorem HifOnly.trans {s t u : State} (a : HifOnly s t) (b : HifOnly t u) : HifOnly s u := by
  unfold HifOnly at *
  rw [b, a]

theorem msix_hifOnly (s : State) (h : HostPort) (vec : Nat) (ctx : Option Nat) : HifOnly s (s.msix h vec ctx) := rfl

theorem foldl_msix_hifOnly (h : HostPort) (l : List (Nat × Option Nat)) (s : State) : HifOnly s (l.foldl (fun s w => s.msix h w.1 w.2) s) :=
  foldl_within .refl .trans (fun s w => msix_hifOnly s h w.1 w.2) l s

theorem sendHeld_hifOnly (s : State) (h : HostPort) : HifOnly s (s.sendHeld h) :=
  HifOnly.trans (t := s.updHif h (fun x => { x with wait := [] })) rfl (foldl_msix_hifOnly h s.hif[h].wait _)

/-- A message at a port that is up is sent or left pending: nothing is held. -/
theorem msix_of_up {s : State} {h : HostPort} (hu : s.hif[h].up = true) (vec : Nat) (ctx : Option Nat) : let t := s.msix h vec ctx
    t.hif[h].wait = s.hif[h].wait ∧ t.hif[h].unmasked = s.hif[h].unmasked ∧ t.hif[h].up = true := by
  unfold State.msix
  dsimp only
  rw [updHif_hif_self, hu]
  split
  · exact ⟨rfl, rfl, rfl⟩
  · exact ⟨rfl, rfl, rfl⟩

theorem foldl_msix_of_up {h : HostPort} (l : List (Nat × Option Nat)) {s : State} (hu : s.hif[h].up = true) :
    let t := l.foldl (fun s w => s.msix h w.1 w.2) s
    t.hif[h].wait = s.hif[h].wait ∧ t.hif[h].unmasked = s.hif[h].unmasked := by
  induction l generalizing s with
  | nil => exact ⟨rfl, rfl⟩
  | cons w l ih =>
    obtain ⟨hw, hm, hu'⟩ := msix_of_up hu w.1 w.2
    obtain ⟨iw, im⟩ := ih hu'
    exact ⟨iw.trans hw, im.trans hm⟩

theorem sendHeld_of_up {s : State} {h : HostPort} (hu : s.hif[h].up = true) :
    (s.sendHeld h).hif[h].wait = [] ∧ (s.sendHeld h).hif[h].unmasked = s.hif[h].unmasked := by
  have hup : (s.updHif h (fun x => { x with wait := [] })).hif[h].up = true := by rw [updHif_hif_self]; exact hu
  obtain ⟨hw, hm⟩ := foldl_msix_of_up s.hif[h].wait hup
  rw [updHif_hif_self] at hw hm
  exact ⟨hw, hm⟩

theorem sendHeld_of_none {s : State} {h : HostPort} (hw : s.hif[h].wait = []) : (s.sendHeld h).hif[h] = s.hif[h] := by
  unfold State.sendHeld
  rw [hw, List.foldl_nil, updHif_hif_self, ← hw]

theorem resumed_of_none {s : State} (hq : s.queues = []) (hx : s.fls.xBusy = false) : s.resumeQueues.xferResume = s := by
  have hr : s.resumeQueues = s := by rw [State.resumeQueues, hq]; rfl
  rw [hr, State.xferResume, hx]
  rfl

/-- What resumes at a port keeps every port's link. -/
theorem resumed_ports (s : State) (h : HostPort) : PortsKept s ((s.sendHeld h).resumeQueues.xferResume) :=
  (Persists.xferResume (Persists.resumeQueues (Persists.sendHeld (.refl (ports := true) s)))).links rfl

/-! ## Re-homing (R401) -/

theorem mem_toRehome {s : State} {h : HostPort} {e : Nat × Ctx} (he : e ∈ s.ctxs) (hh : e.2.home = h ∧ e.2.altOk = true) :
    e.1 ∈ s.toRehome h :=
  List.mem_map.2 ⟨e, List.mem_filter.2 ⟨he, by simp [hh.1, hh.2]⟩, rfl⟩

theorem rehome_of_not {s : State} {h : HostPort} (hno : s.hif[h].up = true ∨ s.hif[otherPort h].up = false) : s.rehome h = s :=
  if_pos (by
    simp only [Bool.or_eq_true, Bool.not_eq_true']
    exact .inl hno)

theorem moveHeld_hifOnly (s : State) (h : HostPort) (ids : List Nat) : HifOnly s (s.moveHeld h ids) :=
  HifOnly.trans (t := s.updHif h (fun x => { x with wait := x.wait.filter (fun w => !w.2.any ids.contains) })) rfl (foldl_msix_hifOnly _ _ _)

theorem foldl_logPort_only (l : List Nat) (p : HostPort) (s : State) : LogOnly s (l.foldl (fun s i => s.logPort 4 p (some i)) s) := by
  refine foldl_within (R := LogOnly) (fun _ => rfl) (fun a b => ?_) (fun s _ => logPort_logOnly s ..) l s
  unfold LogOnly at *
  rw [b, a]

/-- A context whose port is lost, re-homed where it is willing. -/
def rehomed (h : HostPort) (e : Nat × Ctx) : Nat × Ctx :=
  if e.2.home = h ∧ e.2.altOk = true then (e.1, { e.2 with home := otherPort h }) else e

/-- Contexts re-homed, by their ids. -/
def State.homesMoved (s : State) (h : HostPort) : State :=
  { s with ctxs := s.ctxs.map (fun (e : Nat × Ctx) => if (s.toRehome h).contains e.1 then (e.1, { e.2 with home := otherPort h }) else e) }

theorem homesMoved_eq {s : State} {h : HostPort} (hids : ∀ e ∈ s.ctxs, e.1 ∈ s.toRehome h ↔ e.2.home = h ∧ e.2.altOk = true) :
    s.homesMoved h = { s with ctxs := s.ctxs.map (rehomed h) } := by
  refine congrArg (fun l => ({ s with ctxs := l } : State)) (List.map_congr_left fun e he => ?_)
  unfold rehomed
  by_cases hm : e.1 ∈ s.toRehome h
  · rw [if_pos (by simpa using hm), if_pos ((hids e he).1 hm)]
  · rw [if_neg (by simpa using hm), if_neg fun hh => hm ((hids e he).2 hh)]

/-- Without a willing context the list stays. -/
theorem map_rehomed_of_none {s : State} {h : HostPort} (hemp : s.toRehome h = []) : s.ctxs.map (rehomed h) = s.ctxs := by
  refine (List.map_congr_left fun e he => ?_).trans (List.map_id _)
  refine if_neg fun hh => ?_
  have hm := mem_toRehome he hh
  rw [hemp] at hm
  exact nomatch hm

theorem rehome_of_willing {s : State} {h : HostPort} (hu : s.hif[h].up = false) (ho : s.hif[otherPort h].up = true) (hne : s.toRehome h ≠ []) :
    s.rehome h = (((s.toRehome h).foldl (fun (s : State) i => s.logPort 4 (otherPort h) (some i)) (s.homesMoved h)).moveHeld h
      (s.toRehome h)).portEvent (otherPort h) 2 := by
  refine if_neg ?_
  rw [hu, ho]
  simpa using hne

theorem rehome_spec {s : State} {h : HostPort} (hu : s.hif[h].up = false) (ho : s.hif[otherPort h].up = true)
    (hids : ∀ e ∈ s.ctxs, e.1 ∈ s.toRehome h ↔ e.2.home = h ∧ e.2.altOk = true) : let t := s.rehome h
    t.ctxs = s.ctxs.map (rehomed h) ∧ t = { s with ctxs := t.ctxs, log := t.log, hif := t.hif } := by
  dsimp only
  by_cases hemp : s.toRehome h = []
  · have hsame : s.rehome h = s := if_pos (by rw [hemp, Bool.or_eq_true]; exact .inr rfl)
    rw [hsame, map_rehomed_of_none hemp]
    exact ⟨rfl, rfl⟩
  · rw [rehome_of_willing hu ho hemp, homesMoved_eq hids]
    have hl := foldl_logPort_only (s.toRehome h) (otherPort h) { s with ctxs := s.ctxs.map (rehomed h) }
    generalize (s.toRehome h).foldl (fun (s : State) i => s.logPort 4 (otherPort h) (some i)) { s with ctxs := s.ctxs.map (rehomed h) } = u at hl
    have hm := moveHeld_hifOnly u h (s.toRehome h)
    generalize u.moveHeld h (s.toRehome h) = v at hm
    have he := portEvent_frame v (otherPort h) 2
    generalize v.portEvent (otherPort h) 2 = t at he
    rw [he, hm, hl]
    exact ⟨rfl, rfl⟩

/-! ## Host port reset (R403) -/

/-- The port down and its registers at their reset values. -/
def State.portCleared (s : State) (h : HostPort) (why : PortResetCause) : State :=
  ((if why = .flr then s.logPort 3 h else s).portDown h).updHif h Hif.restart

theorem portCleared_spec (s : State) (h : HostPort) (why : PortResetCause) : let t := s.portCleared h why
    t.hif[h] = { Hif.reset with sent := s.hif[h].sent, wait := s.hif[h].wait } ∧ t = { s with hif := t.hif, log := t.log } := by
  have key (u : State) (hu : u = { s with log := u.log }) : ((u.portDown h).updHif h Hif.restart).hif[h]
        = { Hif.reset with sent := s.hif[h].sent, wait := s.hif[h].wait }
      ∧ (u.portDown h).updHif h Hif.restart
        = { s with hif := ((u.portDown h).updHif h Hif.restart).hif, log := ((u.portDown h).updHif h Hif.restart).log } := by
    obtain ⟨hh, hf⟩ := portDown_kept u h
    generalize u.portDown h = v at hh hf
    refine ⟨?_, ?_⟩
    · rw [updHif_hif_self, hh, hu]
      rfl
    · rw [hf, hu]
      rfl
  unfold State.portCleared
  split
  · exact key _ (logPort_frame ..)
  · exact key s rfl

theorem portRef_spec (s : State) (h : HostPort) : let t := s.portRef h
    t.tim = { s.tim with refLocal := s.tim.refLocal.set h (!s.tim.refPresent[h]) } ∧ t = { s with tim := t.tim, log := t.log } := by
  unfold State.portRef
  dsimp only
  split
  · rw [logModule_frame]
    exact ⟨rfl, rfl⟩
  · exact ⟨rfl, rfl⟩

/-- The reference looked at where the reset asks for it. -/
def State.portLooked (s : State) (h : HostPort) (why : PortResetCause) : State := if isWake why then s.portRef h else s

theorem portLooked_spec (s : State) (h : HostPort) (why : PortResetCause) : let t := s.portLooked h why
    t.tim = (if isWake why then { s.tim with refLocal := s.tim.refLocal.set h (!s.tim.refPresent[h]) } else s.tim)
    ∧ t = { s with tim := t.tim, log := t.log } := by
  unfold State.portLooked
  dsimp only
  split
  · exact portRef_spec s h
  · exact ⟨rfl, rfl⟩

/-- A part reset and returned at once: in service with its next epoch. -/
theorem resetReturned_spec {s : State} {p : Part} (hz : s.fls.quench = none) (ho : (s.part p).owed = 0)
    (hm : (s.part p).mayAdvance s.timeNs = true) : let t := ((s.resetPart p).quenchBroken.returnPart p).quenchMended
    (t.part p).state = .inService ∧ (t.part p).epoch = (s.part p).epoch + 1 ∧ (∀ p', p' ≠ p → t.part p' = s.part p')
    ∧ t = { s with epochs := t.epochs } := by
  have hb : (s.resetPart p).quenchBroken = s.resetPart p := quenchBroken_of_none hz
  have hmd : ((s.resetPart p).returnPart p).quenchMended = (s.resetPart p).returnPart p := quenchMended_of_none hz
  have hpart : ((s.resetPart p).returnPart p).part p
      = ({ s.part p with state := .resetting, returning := false } : EpochEntry).ended s.timeNs true := by
    unfold State.returnPart State.resetPart
    rw [part_updPart_self, part_updPart_self]
    rfl
  obtain ⟨hep, hst⟩ := ({ s.part p with state := .resetting, returning := false } : EpochEntry).ended_at_once ho hm true
  dsimp only
  rw [hb, hmd]
  refine ⟨by rw [hpart]; exact hst, by rw [hpart]; exact hep, fun p' hne => ?_, rfl⟩
  exact (part_updPart_other _ hne _).trans (part_updPart_other _ hne _)

theorem portResets_eq (s : State) (h : HostPort) (why : PortResetCause) : s.portResets h why =
    (((((s.portCleared h why).portLooked h why).resetPart (.host h)).quenchBroken.returnPart (.host h)).quenchMended) := rfl

theorem portResets_spec {s : State} {h : HostPort} (why : PortResetCause) (hz : s.fls.quench = none) (ho : (s.part (.host h)).owed = 0)
    (hm : (s.part (.host h)).mayAdvance s.timeNs = true) : let t := s.portResets h why
    t.hif[h] = { Hif.reset with sent := s.hif[h].sent, wait := s.hif[h].wait }
    ∧ (t.part (.host h)).state = .inService ∧ (t.part (.host h)).epoch = (s.part (.host h)).epoch + 1
    ∧ (∀ p, p ≠ .host h → t.part p = s.part p)
    ∧ t.tim = (if isWake why then { s.tim with refLocal := s.tim.refLocal.set h (!s.tim.refPresent[h]) } else s.tim)
    ∧ t = { s with hif := t.hif, log := t.log, epochs := t.epochs, tim := t.tim } := by
  obtain ⟨hh, hf⟩ := portCleared_spec s h why
  dsimp only
  rw [portResets_eq]
  generalize s.portCleared h why = u at hh hf
  obtain ⟨ht, hv⟩ := portLooked_spec u h why
  generalize u.portLooked h why = v at ht hv
  have hvs : v = { s with hif := u.hif, log := v.log, tim := v.tim } := by rw [hv, hf]
  have hpart (p : Part) : v.part p = s.part p := by rw [hvs]; rfl
  have htim : u.tim = s.tim := by rw [hf]
  obtain ⟨hst, hep, hoth, hw⟩ := resetReturned_spec (s := v) (p := .host h) (by rw [hvs]; exact hz) (by rw [hpart]; exact ho)
    (by rw [hpart, hvs]; exact hm)
  generalize (((v.resetPart (.host h)).quenchBroken.returnPart (.host h)).quenchMended) = t at hst hep hoth hw
  rw [hpart] at hep
  refine ⟨?_, hst, hep, fun p hne => (hoth p hne).trans (hpart p), ?_, ?_⟩
  · rw [hw, hvs]
    exact hh
  · rw [hw]
    dsimp only
    rw [ht, htim]
  · rw [hw, hvs]

theorem hostReset_of_awake {s : State} {h : HostPort} {why : PortResetCause}
    (hw : isWake why = true → s.pwr.current ≠ 4 ∧ s.pwr.tripped = false) : s.hostReset h why = s.portResets h why := by
  unfold State.hostReset
  dsimp only
  cases hwk : isWake why with
  | false => simp
  | true =>
    obtain ⟨h4, ht⟩ := hw hwk
    simp [h4, ht]

/-! ## A read of host memory that fails (R304, R394, R407) -/

theorem hostReadStatus_eq {rd : HostRead} {st : Nat} (h : hostReadStatus rd = some st) :
    st = (if rd = .timeout ∨ rd = .poisoned then 0x10 else 0x21) := by
  cases rd <;> simp [hostReadStatus, stData, stMalformed] at h ⊢ <;> exact h.symm

theorem noteHostRead_timeout (s : State) (h : HostPort) : s.noteHostRead h .timeout =
    (s.updHif h (fun x => { x with cntCplTimeout := x.cntCplTimeout + 1 })).logEv { source := 12, cause := 8, status := stData, unit := h.val } := rfl

theorem noteHostRead_of_other {rd : HostRead} (s : State) (h : HostPort) (hn : rd ≠ .timeout) : s.noteHostRead h rd = s := by
  cases rd with
  | timeout => exact absurd rfl hn
  | _ => rfl

/-- A time-out is counted at its port; links stay, and nothing else but the log changes. -/
theorem noteHostRead_spec (s : State) (h : HostPort) (rd : HostRead) : let t := s.noteHostRead h rd
    t.hif[h].cntCplTimeout = (if rd = .timeout then s.hif[h].cntCplTimeout + 1 else s.hif[h].cntCplTimeout)
    ∧ t.hif[h].up = s.hif[h].up ∧ t = { s with hif := t.hif, log := t.log } := by
  by_cases hr : rd = .timeout
  · subst hr
    dsimp only
    rw [noteHostRead_timeout, if_pos rfl]
    obtain ⟨hup, hcnt⟩ := PortsKept.logEv (s.updHif h (fun x => { x with cntCplTimeout := x.cntCplTimeout + 1 }))
      { source := 12, cause := 8, status := stData, unit := h.val } h
    refine ⟨?_, ?_, ?_⟩
    · rw [hcnt, updHif_hif_self]
    · rw [hup, updHif_hif_self]
    · rw [logEv_frame]
      rfl
  · dsimp only
    rw [noteHostRead_of_other s h hr, if_neg hr]
    exact ⟨rfl, rfl, rfl⟩

theorem noteHostRead_logs (s : State) (h : HostPort) :
    ∃ x ∈ (s.noteHostRead h .timeout).log.recs, x.source = 12 ∧ x.cause = 8 ∧ x.unit = h.val := by
  rw [noteHostRead_timeout, logEv_recs]
  exact ⟨_, List.mem_cons_self .., rfl, rfl, rfl⟩

theorem exec_hostReadFails {s : State} {h : HostPort} {rd : FailedRead} {st : Nat} (hst : hostReadStatus rd.outcome = some st) :
    exec (.hostReadCompletionTimeout h rd) s = .next ((s.noteHostRead h rd.outcome).failRead h st rd.who) := by
  refine congrArg Host.Outcome.next ?_
  simp only [hst]

theorem nextMail_of_alone {s : State} {h : HostPort} (ho : s.mbox[otherPort h].behind = false) : s.nextMail h = s := by
  unfold State.nextMail
  dsimp only
  rw [ho]
  cases s.mbox[h].busy <;> cases s.mbox[otherPort h].waitOp <;> rfl

/-- A mailbox operation that the failed read ends. -/
theorem failRead_mailbox {s : State} {h : HostPort} (st : Nat) (hb : s.mbox[h].busy = true) (hn : s.mbox[h].behind = false)
    (ho : s.mbox[otherPort h].behind = false) : s.failRead h st .mailbox = s.mailEnd h st 0 := by
  have heq : s.failRead h st .mailbox = (s.mailEnd h st 0).nextMail h := if_pos (by rw [hb, hn]; rfl)
  rw [heq]
  refine nextMail_of_alone ?_
  unfold State.mailEnd
  rw [updMbox_mbox_other (otherPort_ne h)]
  exact ho

theorem failRead_mailbox_idle {s : State} {h : HostPort} (st : Nat) (hno : s.mbox[h].busy = false ∨ s.mbox[h].behind = true) :
    s.failRead h st .mailbox = s := if_neg (by obtain hno | hno := hno <;> rw [hno] <;> simp)

theorem failRead_fetch {s : State} {h : HostPort} {q : Nat} {qu : Queue} (st : Nat) (hq : lookup s.queues q = some qu) :
    s.failRead h st (.fetch q) = if s.mayFetch qu then s.fetchFail q qu qu.nextVA else s := by
  simp only [State.failRead, hq]

theorem failRead_fetch_none {s : State} {h : HostPort} {q : Nat} (st : Nat) (hq : lookup s.queues q = none) : s.failRead h st (.fetch q) = s := by
  simp only [State.failRead, hq]

theorem fetchFail_frame (s : State) (q : Nat) (qu : Queue) (va : Nat) : let t := s.fetchFail q qu va
    t = { s with log := t.log, queues := t.queues, cntFetchFail := t.cntFetchFail } := by
  unfold State.fetchFail
  dsimp only
  rw [logEv_frame_quiet _ rfl]
  rfl

/-- Whether a failed read's command is one that it fails. -/
def State.failsCmd (s : State) (q n : Nat) : Bool := s.cmds.any (fun c => c.q == q && c.n == n && c.phase == .dispatched && !c.held)

theorem failsCmd_iff {s : State} {q n : Nat} : s.failsCmd q n = true ↔ ∃ c ∈ s.cmds, c.q = q ∧ c.n = n ∧ c.phase = .dispatched ∧ c.held = false := by
  simp [State.failsCmd, and_assoc]

theorem failRead_command (s : State) (h : HostPort) (q n st : Nat) :
    s.failRead h st (.command q n) = if s.failsCmd q n then s.failCmd q n st else s := rfl

/-- With no operation behind the mailbox's, a failed read's end leaves the counts of every port. -/
theorem failRead_ports (s : State) (h : HostPort) (st : Nat) (who : HostReader) (ho : s.mbox[otherPort h].behind = false) :
    PortsKept s (s.failRead h st who) := by
  cases who with
  | command q n =>
    rw [failRead_command]
    split
    · exact (Persists.failCmd (.refl (ports := true) s)).links rfl
    · exact .refl s
  | fetch q =>
    cases hq : lookup s.queues q with
    | none =>
      rw [failRead_fetch_none st hq]
      exact .refl s
    | some qu =>
      rw [failRead_fetch st hq]
      split
      · exact .of_eq (by rw [fetchFail_frame])
      · exact .refl s
  | mailbox =>
    by_cases hb : s.mbox[h].busy = true ∧ s.mbox[h].behind = false
    · rw [failRead_mailbox st hb.1 hb.2 ho]
      exact .of_eq rfl
    · rw [failRead_mailbox_idle st (by
        cases h1 : s.mbox[h].busy with
        | false => exact .inl rfl
        | true => exact .inr (Bool.not_eq_false _ ▸ fun h2 => hb ⟨h1, h2⟩))]
      exact .refl s

/-- Settles O54: each port row by what it leaves, the links through what resumes kept by the invariant of all commands. -/
theorem hostPortsCarryAccesses : Obligations.HostPortsCarryAccesses := by
  unfold Obligations.HostPortsCarryAccesses
  refine ⟨fun s h off op hp hlen hfit => ⟨fun hs => ⟨fun n bs hop hr => ?read, fun n e hop hr => ?readFails, fun d hop hl => ?write⟩, fun hno => ?refused⟩,
    fun s h gib => ⟨fun hg => ?resize, fun hg => ?noResize⟩, fun s h v hp hd => ?base, fun s h vec hp hd => ?unmask,
    fun s h => ⟨fun hu => ⟨_, rfl, portDown_spec hu⟩, fun hu => congrArg Host.Outcome.next (portDown_of_down hu), fun hno => ?noUp, fun hu hd => ?up,
      fun hno => congrArg Host.Outcome.next (rehome_of_not hno), fun hu ho hids => ⟨_, rfl, rehome_spec hu ho hids⟩, fun why hw hz ho hm => ?reset⟩,
    fun s h rd st hst => ?failed⟩
  case read =>
    obtain ⟨hm, hok, -⟩ := bar4Read_spec s (s.bar4Addr h off) n
    exact ⟨_, (exec_bar4_served hp hlen hfit hs).1 n hop, hok bs hr, hm⟩
  case readFails =>
    obtain ⟨hm, -, herr⟩ := bar4Read_spec s (s.bar4Addr h off) n
    exact ⟨_, (exec_bar4_served hp hlen hfit hs).1 n hop, herr e hr, hm⟩
  case write =>
    obtain ⟨hput, hdrop⟩ := bar4Write_spec d hl
    have hexec := (exec_bar4_served hp hlen hfit hs).2 d hop
    exact ⟨fun m hm => ⟨_, hexec, hput m hm⟩, fun hn => ⟨_, hexec, hdrop hn⟩⟩
  case refused => exact ⟨_, exec_bar4_refused hp hlen hfit hno, bar4Refuse_spec s h _⟩
  case resize => exact congrArg Host.Outcome.next (if_pos (List.contains_iff_mem.2 hg))
  case noResize => exact congrArg Host.Outcome.next (if_neg fun hc => hg (List.contains_iff_mem.1 hc))
  case base =>
    obtain ⟨hen, hvec, hok, herr⟩ := portCtrl_spec s.hif[h] v.toNat
    refine ⟨_, exec_apertureBaseWrite hp hd h v, rfl, ?_⟩
    rw [updHif_hif_self]
    exact ⟨hen, hvec, fun h' hne => updHif_hif_other hne _, hok, herr⟩
  case unmask => exact ⟨_, exec_msixUnmask hp hd h vec, unmask_spec s h vec.val⟩
  case noUp =>
    refine congrArg Host.Outcome.next ?_
    obtain hu | hd := hno
    · have hsame : s.hostUp h = s := if_pos hu
      rw [hsame, ite_self]
    · rw [if_neg (by rw [hd]; decide)]
  case up =>
    obtain ⟨hl, hlf⟩ := linked_spec s h
    have hup : (s.linked h).hif[h].up = true := by rw [hl]; rfl
    refine ⟨_, exec_hostPortUp hu hd, ((resumed_ports (s.linked h) h h).1).trans hup, fun hq hx => ?_⟩
    obtain ⟨hw, hm⟩ := sendHeld_of_up hup
    have hf := sendHeld_hifOnly (s.linked h) h
    have hnone := sendHeld_of_none (s := s.linked h) (h := h)
    rw [resumed_of_none (by rw [hf, hlf]; exact hq) (by rw [hf, hlf]; exact hx)]
    refine ⟨hw, hm.trans (by rw [hl]; rfl), ?_, fun hw0 => ?_⟩
    · generalize (s.linked h).sendHeld h = t at hf
      rw [hf, hlf]
    · rw [hnone (by rw [hl]; exact hw0), hl]
      rfl
  case reset => exact ⟨_, congrArg Host.Outcome.next (hostReset_of_awake hw), portResets_spec why hz ho hm⟩
  case failed =>
    obtain ⟨hcnt, hup, hf⟩ := noteHostRead_spec s h rd.outcome
    refine ⟨_, exec_hostReadFails hst, fun ho => ?count, fun ht _ => ?logged, hostReadStatus_eq hst, fun hw hb => ?idle,
      fun hw hb hn ho => ?ends, fun q hw => ⟨fun qu hq hm => ?fetch, fun hq => ?noQueue⟩, fun q n hw => ⟨fun hc => ?fails, fun hc => ?waits⟩⟩
    case logged => rw [ht]; exact noteHostRead_logs s h
    all_goals generalize s.noteHostRead h rd.outcome = u at hcnt hup hf
    case count => exact (failRead_ports u h st rd.who (by rw [hf]; exact ho) h).2.trans hcnt
    case idle =>
      rw [hw, failRead_mailbox_idle st (.inl (by rw [hf]; exact hb))]
      exact hf
    case ends =>
      rw [hw, failRead_mailbox st (by rw [hf]; exact hb) (by rw [hf]; exact hn) (by rw [hf]; exact ho)]
      unfold State.mailEnd
      rw [hup, hf]
      exact ⟨rfl, rfl⟩
    case fetch =>
      have hqu : lookup u.queues q = some qu := by rw [hf]; exact hq
      obtain ⟨hl, hc, -⟩ := fetchFail_spec hqu qu.nextVA
      have hff := fetchFail_frame u q qu qu.nextVA
      rw [hw, failRead_fetch st hqu, if_pos (by rw [hf]; exact hm)]
      generalize u.fetchFail q qu qu.nextVA = t at hl hc hff
      refine ⟨hl, ?_, ?_⟩
      · rw [hc, hf]
      · rw [hff, hf]
    case noQueue =>
      rw [hw, failRead_fetch_none st (by rw [hf]; exact hq)]
      exact hf
    case fails =>
      rw [hw, failRead_command, if_pos (failsCmd_iff.2 (by rw [hf]; exact hc))]
    case waits =>
      have hno : ¬ u.failsCmd q n = true := fun h => by
        obtain ⟨c, hm, h1, h2, h3, h4⟩ := failsCmd_iff.1 h
        rw [hf] at hm
        obtain hp | hh := hc c hm h1 h2
        · exact hp h3
        · exact nomatch h4.symm.trans hh
      rw [hw, failRead_command, if_neg hno]
      exact hf

end Sys2Proof.Machine
end
